-- ==== Sys2Proof/Word.lean ====
section
/-! DEFINITION. The word types of the FL3280: a register is 32 bits (R34), a 64-bit quantity is a LO and a HI register (R35), memory is bytes. -/

namespace Sys2Proof

/-- One byte of memory. -/
abbrev Byte := BitVec 8

/-- One register, or one word of a packet (R34, R57). -/
abbrev Word := BitVec 32

/-- A 64-bit quantity, split over a LO and a HI register (R35). -/
abbrev DWord := BitVec 64

end Sys2Proof
end

