-- ==== Sys2Proof/Syntax.lean ====
section
/-! DEFINITION. The commands the FL3280 takes: the Vaile packets, the register accesses with an effect of their own, and the events of the device and its board. -/

namespace Sys2Proof

/-- A packet as the Foyer fetches it from a submission ring (R57): the header fields but for OPCODE, which the constructor of the command fixes, and the parameter words P0, P1 and so on. -/
structure Packet where
  /-- The submission ring SRn it stands in. -/
  ring : Fin 18
  /-- Word 0 bit 31, reserved, must be 0. -/
  rsvd : Bool
  /-- Word 0 bit 30. -/
  commit : Bool
  /-- Word 0 bit 29, FENCE_BEFORE. -/
  fence : Bool
  /-- Word 0 bit 28. -/
  irq : Bool
  /-- Word 0 bits 27:16, words in the whole packet. -/
  len : BitVec 12
  /-- Words 1 and 2, the sequence number. -/
  seq : DWord
  /-- Word 3, the host tag. -/
  tag : Word
  /-- Words 4 and on. -/
  p : List Word
  deriving DecidableEq, Repr

/-- Who makes a register access: the host through PF0 or PF1, a Nioft core or a Dumbwaiter channel (R30, R38). -/
inductive Master where
  | pf0
  | pf1
  | core (n : Fin 16)
  | dma (c : Fin 64)
  deriving DecidableEq, Repr

/-- Where a register access lands: PF0 BAR0 (the register space of R28 too), PF0 BAR4, or PF1 BAR0 (R31). -/
inductive BarAddr where
  | bar0 (off : BitVec 24)
  | bar4 (off : BitVec 16)
  | pf1 (off : BitVec 16)
  deriving DecidableEq, Repr

/-- The width of a register write (R34). -/
inductive Width where
  | word
  | narrow
  deriving DecidableEq, Repr

/-- How many bytes a register read takes: one, two or four (R34). -/
inductive ReadSize where
  | byte
  | half
  | word
  deriving DecidableEq, Repr

/-- A register read: the address of its first byte, and its size (R34). -/
structure ReadAt where
  a : BarAddr
  size : ReadSize
  deriving DecidableEq, Repr

/-- The register through which a claim or a complete is made (R436, R437). -/
inductive Claimant where
  /-- `CCS_CLAIM`, `CCS_DONE` of a core. -/
  | core (n : Fin 16)
  /-- `BEL_CLAIM`, `BEL_DONE` of target t on the BEL page, by the given master. -/
  | page (m : Master) (t : Fin 18)
  /-- The interrupt page of PF1. -/
  | pf1
  deriving DecidableEq, Repr

/-- The flip address registers (R305, R306). -/
inductive FlipAddr where
  | celLo
  | celHi
  | pan
  deriving DecidableEq, Repr

/-- How a link training ended (R251 to R253): which candidate of the order of R251 came up, if one did; lanes and order found reversed; repeaters, attempts, duration and eye margin; what the sink asked of the equalisation, as a word laid out as `CHM_EQp` (R253, R515); and whether every repeater reports 128b/132b and UHBR10 (R251). -/
structure Training where
  cand : Option Nat
  polRev : BitVec 4
  orderRev : Bool
  lttpr : Nat
  attempts : Nat
  us : Nat
  margin : Nat
  eq : Word
  uhbr : Bool
  deriving DecidableEq, Repr

/-- What a refresh of the sink cache brought (R256): the bytes read, by their place in the cache, and what they say of the sink, laid out as `DPL_SINK`; or that an AUX transaction failed. -/
inductive SinkRead where
  | failed
  | plug (data : List Byte) (sum : Word)
  /-- The sink status of an IRQ_HPD, and whether it shows a lost lock or alignment. -/
  | status (data : List Byte) (lost : Bool)
  deriving DecidableEq, Repr

/-- What stands outside the device at a start (R471 to R474): the boot flash as address and bytes, without the boot log, erased where nothing is listed; whether the fuse array or the key reconstruction fails; the directory entries whose image cannot be read at all, and whether some read needed its retry; the fuse operations whose fuse fails its read-back, by bit of OPS; for how many nanoseconds `PWR_OK` was low before it; and whether `TEST_MODE` is held high (R548). -/
structure BootIn where
  flash : List (Nat × List Byte)
  fuseBad : Bool
  keyBad : Bool
  unread : List Nat
  retried : Bool
  blowBad : List Nat
  low : Nat
  test : Bool
  deriving DecidableEq, Repr

/-- A DIMM as its SPD describes it (R282, R283): capacity in GiB, ranks, x8 devices, ECC, highest rated speed in 100 MT/s; and whether its training succeeds. -/
structure Dimm where
  gib : Nat
  ranks : Nat
  x8 : Bool
  ecc : Bool
  speed : Nat
  trains : Bool
  deriving DecidableEq, Repr

/-- What the Chimney samples for a telemetry record (R519): sensors 0 to 11 in 1/16 °C, rails in mV, currents in mA, total power in mW, measured core voltage in mV. -/
structure Sample where
  temps : List (BitVec 16)
  volts : List (BitVec 16)
  currs : List Word
  power : Word
  vcore : BitVec 16
  deriving DecidableEq, Repr

/-- What makes the Mantel of a head fail (R232): a word of its store, by its place in the two banks, or its line buffer from a column on. -/
inductive MantelError where
  | store (i : BitVec 16)
  | buffer (x : Nat)
  deriving DecidableEq, Repr

/-- What a patrol scrub read reads (R302, R399): a line of device memory, a word of a core's program or data memory, or a 32-bit word of the Mantel store of a head, by its place in the two banks (R222). -/
inductive Scrub where
  | line (a : BitVec 40)
  | core (n : Fin 16) (data : Bool) (i : BitVec 14)
  | mantel (h : Fin 32) (i : BitVec 16)
  deriving DecidableEq, Repr

/-- The commands of the FL3280, one constructor per row of the table of operations and events. -/
inductive Instr where
  /-- NOP (R65): Vaile command that does nothing and completes at its CFG commit point. -/
  | nop (p : Packet)
  /-- FENCE (R68): Completes when every command accepted earlier on the rings of its mask has completed and its writes are visible. -/
  | fence (p : Packet)
  /-- FEATURES_GET (R72): Returns the offered and active feature words and changes nothing. -/
  | featuresGet (p : Packet)
  /-- FEATURES_SET (R72): Writes the wanted feature words and commits them, forming and locking the active set. -/
  | featuresSet (p : Packet)
  /-- EXPERT_ENTER (R46): Places one unit or head under expert control once its begun commands reach their commit points. -/
  | expertEnter (p : Packet)
  /-- EXPERT_LEAVE (R47): Returns a unit to firmware control, which takes over its registers as they stand. -/
  | expertLeave (p : Packet)
  /-- MEM_REGION_SET (R290): Defines, changes or removes a Cellar region of the region table. -/
  | memRegionSet (p : Packet)
  /-- MEM_REGION_SET_PANTRY (R298): Defines or removes a Pantry or Larder region descriptor. -/
  | memRegionSetPantry (p : Packet)
  /-- MEM_COPY (R552): The Foyer copies a byte range between valid Cellar or Pantry regions as if through a temporary buffer. -/
  | memCopy (p : Packet)
  /-- MEM_FILL (R552): The Foyer fills a byte range with a 32-bit pattern aligned to device addresses. -/
  | memFill (p : Packet)
  /-- ASSET_LOAD (R301): Loads a source into a Pantry or Larder region while hashing it, optionally checking and sealing it. -/
  | assetLoad (p : Packet)
  /-- ASSET_UNSEAL (R301): Clears SEALED of a Pantry region issued by the function that sealed it. -/
  | assetUnseal (p : Packet)
  /-- ERRLOG_READ (R524): Writes held error records to a host buffer in SEQ order and advances the function's read mark. -/
  | errlogRead (p : Packet)
  /-- HEAD_TIMING (R100): Stages the timing counts, pixel clock and commit and genlock mode of a head. -/
  | headTiming (p : Packet)
  /-- HEAD_ENABLE (R101): Checks and commits the staged set, reserves bandwidth and starts the head PLL. -/
  | headEnable (p : Packet)
  /-- HEAD_DISABLE (R15): Stops a head at its next frame boundary after step 8 and stops its PLL. -/
  | headDisable (p : Packet)
  /-- HEAD_COMMIT (R103): Requests a commit on the heads of its mask and completes at the swap that takes or refuses it. -/
  | headCommit (p : Packet)
  /-- PLANE_SET (R148): Stages one tile or bitmap plane and requests its DEADLINE reservation. -/
  | planeSet (p : Packet)
  /-- SPRITE_TABLE (R174): Stages the sprite plane control, table address and entry count of a head. -/
  | spriteTable (p : Packet)
  /-- SPRITE_TABLE_CANVAS (R175): Canvas form that stages the same sprite table on every staged member of a canvas. -/
  | spriteTableCanvas (p : Packet)
  /-- BEAM_LIST_SET (R199): Checks a beam list entry by entry and stages its address and count. -/
  | beamListSet (p : Packet)
  /-- COMPOSE_SET (R217): Stages the layer-enable mask, LUT select, background, order list and blend registers. -/
  | composeSet (p : Packet)
  /-- LUT_LOAD (R214): Reads a source and writes the shadow palette or a pre- or post-blend LUT bank. -/
  | lutLoad (p : Packet)
  /-- CANVAS_SET (R110): Stages canvas membership and origins of the named heads and removal of the others. -/
  | canvasSet (p : Packet)
  /-- ROUTE_SET (R246): Port form that trains a port if needed and routes or disables a source head on it. -/
  | routeSet (p : Packet)
  /-- ROUTE_SET_GENLOCK (R119): Genlock form that sets GENLOCK_OUT enable, source head and GENLOCK_IN polarity. -/
  | routeSetGenlock (p : Packet)
  /-- CRC_RECT_SET (R266): Stages one CRC rectangle of a head with its tap, compare flag and expected value. -/
  | crcRectSet (p : Packet)
  /-- WRITEBACK_SET (R237): Stages writeback of a head and requests its DEADLINE write reservation. -/
  | writebackSet (p : Packet)
  /-- MANTEL_SET (R229): Full form: the Study verifies, hashes and stages new Mantel content and requests a Mantel swap. -/
  | mantelSet (p : Packet)
  /-- MANTEL_SET_FIELDS (R226): Fields form that stages new glyph codes against the committed Mantel. -/
  | mantelSetFields (p : Packet)
  /-- MANTEL_SET_DISABLE (R230): Disable form that stages EN = 0 so the Mantel stops at its swap. -/
  | mantelSetDisable (p : Packet)
  /-- RECT_FILL (R324): Queues a fill of a rectangle with VALUE on a rect engine. -/
  | rectFill (p : Packet)
  /-- RECT_COPY (R324): Queues a rectangle copy, optionally colour-keyed, on a rect engine. -/
  | rectCopy (p : Packet)
  /-- RECT_CONVERT (R328): Queues a rectangle copy with format conversion on a rect engine. -/
  | rectConvert (p : Packet)
  /-- DMA_CHAIN_START (R356): Writes the pace gap and starts a Dumbwaiter channel on its first descriptor. -/
  | dmaChainStart (p : Packet)
  /-- DMA_STOP (R357): Requests a channel stop at its next descriptor boundary and completes at the halt. -/
  | dmaStop (p : Packet)
  /-- VOICE_START (R370): Arms a sample or tone voice to start at the sample boundary after its start event. -/
  | voiceStart (p : Packet)
  /-- VOICE_STOP (R374): Disarms a voice or stops it, optionally after a 64-sample gain ramp. -/
  | voiceStop (p : Packet)
  /-- VOICE_PARAM (R373): Changes gains, pitch, route or duty of a voice at the next sample boundary. -/
  | voiceParam (p : Packet)
  /-- MIX_GRAPH_LOAD (R384): Reads, checks and compiles a mix graph into the staged bank. -/
  | mixGraphLoad (p : Packet)
  /-- MIX_PARAM_SET (R385): Writes parameter words and scale flags of one node of the staged bank. -/
  | mixParamSet (p : Packet)
  /-- MIX_COMMIT (R386): Requests the staged bank to become active at the next sample boundary. -/
  | mixCommit (p : Packet)
  /-- AUDIO_PORT_SET (R391): TDM form that sets the format of a TDM output or input port at the next sample boundary. -/
  | audioPortSet (p : Packet)
  /-- AUDIO_PORT_SET_DP (R394): Display-port form that enables DisplayPort audio with a channel count. -/
  | audioPortSetDp (p : Packet)
  /-- AUDIO_PORT_SET_CLOCK (R390): Clock form that changes sample rate and master-clock source. -/
  | audioPortSetClock (p : Packet)
  /-- TIMER_COMPARE_ARM (R447): Arms, re-arms or disarms a one-shot compare channel. -/
  | timerCompareArm (p : Packet)
  /-- TIMER_CAPTURE_SET (R450): Configures a capture channel and clears its FIFO and prescaler. -/
  | timerCaptureSet (p : Packet)
  /-- PINSEQ_LOAD (R463): Program form that writes program words of a pin sequencer channel. -/
  | pinseqLoad (p : Packet)
  /-- PINSEQ_LOAD_SLOT (R455): Slot-table form that writes slot table entries, effective at the next entry 0. -/
  | pinseqLoadSlot (p : Packet)
  /-- PINSEQ_LOAD_CONFIG (R464): Configuration form that writes the pin groups, thresholds and start of a channel. -/
  | pinseqLoadConfig (p : Packet)
  /-- PINSEQ_LOAD_INJECT (R460): Injection form that executes one instruction in a running channel's next slot. -/
  | pinseqLoadInject (p : Packet)
  /-- PINSEQ_START (R465): Starts the named stopped channels of an engine, all or none. -/
  | pinseqStart (p : Packet)
  /-- PINSEQ_STOP (R465): Stops the named running channels at their next slots. -/
  | pinseqStop (p : Packet)
  /-- NIOFT_LOAD (R426): Loads, measures and grants pages to a program on a Parlour core. -/
  | nioftLoad (p : Packet)
  /-- NIOFT_START (R427): Resets a loaded Parlour core's registers and starts it at an entry word. -/
  | nioftStart (p : Packet)
  /-- NIOFT_STOP (R428): Stops a Parlour core at its next instruction boundary. -/
  | nioftStop (p : Packet)
  /-- ATTEST_QUOTE (R493): Makes and writes a signed quote of the measurement log with the host nonce. -/
  | attestQuote (p : Packet)
  /-- BOOTLOG_READ (R492): Writes verified boot records to a host buffer. -/
  | bootlogRead (p : Packet)
  /-- RECEIPT_CONFIG (R274): Sets the receipt cadence EVERY of a head. -/
  | receiptConfig (p : Packet)
  /-- RECEIPT_READ (R281): Writes closed receipt batches to a host buffer. -/
  | receiptRead (p : Packet)
  /-- UNIT_RESET (R512): Resets one unit or head and replays its open begun commands. -/
  | unitReset (p : Packet)
  /-- POWER_STATE (R507): Moves the device between S0, S1 and S2. -/
  | powerState (p : Packet)
  /-- TELEMETRY_CONFIG (R519): Names or stops the host telemetry ring. -/
  | telemetryConfig (p : Packet)
  /-- CLOCK_POLICY (R515): Sets the bounds of one adaptive loop. -/
  | clockPolicy (p : Packet)
  /-- DOORBELL (R54): A write of FOY_SQTAIL advances the submission tail of a ring. -/
  | doorbell (ring : Fin 18) (tail : Word)
  /-- FOY_CQHEAD_WRITE (R62): A write of FOY_CQHEAD consumes completion entries and releases a held completion. -/
  | foyCqheadWrite (ring : Fin 18) (v : Word)
  /-- FOY_RINGCFG_WRITE (R52): A write of FOY_RINGCFG enables or disables a ring, checking its configuration on enable. -/
  | foyRingcfgWrite (ring : Fin 18) (v : Word)
  /-- GLB_FEAT_COMMIT (R72): A write of GO forms and locks the active feature set and the interrupt plan. -/
  | glbFeatCommit (v : Word)
  /-- GLB_SYNC_READ (R43): A read of GLB_SYNC returns once earlier BAR2 writes are visible to all masters. -/
  | glbSyncRead
  /-- BAR2_READ (R41): A host read through the expert memory window. -/
  | bar2Read (off : BitVec 28) (n : Nat)
  /-- BAR2_WRITE (R42): A posted host write through the expert memory window. -/
  | bar2Write (off : BitVec 28) (data : List Byte)
  /-- REGISTER_WRITE (R36): A write to a register without a row of its own, acting by its access code. -/
  | registerWrite (m : Master) (a : BarAddr) (width : Width) (v : Word)
  /-- LO_REGISTER_READ (R35): A read of a LO register latches the HI half of the same instant. -/
  | loRegisterRead (m : Master) (a : ReadAt)
  /-- HD_COMMIT_GO (R103): A write of HD_COMMIT.GO makes a commit pending for a frame boundary. -/
  | hdCommitGo (m : Master) (h : Fin 32) (v : Word)
  /-- HD_BSTS_LO_READ (R197): A read removes the oldest beam stamp and latches its rest. -/
  | hdBstsLoRead (m : Master) (h : Fin 32)
  /-- TMB_CAPT_LO_READ (R452): A read removes the oldest capture and latches its rest. -/
  | tmbCaptLoRead (m : Master) (k : Fin 32)
  /-- PSQ_SQ_READ (R459): A read removes the oldest word of a channel's sample queue. -/
  | psqSqRead (m : Master) (e : Fin 4) (c : Fin 32)
  /-- PSQ_FQ_WRITE (R459): A write pushes a word into a channel's feed queue. -/
  | psqFqWrite (m : Master) (e : Fin 4) (c : Fin 32) (v : Word)
  /-- PSQ_INJ_WRITE (R460): A write injects one instruction into a running channel. -/
  | psqInjWrite (m : Master) (e : Fin 4) (c : Fin 32) (v : Word)
  /-- PSQ_ESTART (R467): An expert write that starts the channels of its mask. -/
  | psqEstart (m : Master) (e : Fin 4) (v : Word)
  /-- PSQ_ESTOP (R467): An expert write that stops the channels of its mask. -/
  | psqEstop (m : Master) (e : Fin 4) (v : Word)
  /-- BEL_CLAIM (R436): A claim read returns and claims the highest-priority deliverable source of a target. -/
  | belClaim (w : Claimant)
  /-- BEL_DONE (R437): A complete write clears ACT of the named source. -/
  | belDone (w : Claimant) (v : Word)
  /-- GLB_IRQSWSET (R434): A write sets software interrupt sources. -/
  | glbIrqswset (m : Master) (k : Fin 2) (v : Word)
  /-- GLB_IRQSWCLR (R434): A write clears software interrupt sources. -/
  | glbIrqswclr (m : Master) (k : Fin 2) (v : Word)
  /-- GLB_IRQMASK_WRITE (R440): A mask write acting on claims next cycle and on delivery 16 cycles later. -/
  | glbIrqmaskWrite (m : Master) (k : Fin 32) (v : Word)
  /-- CCS_WDTKICK (R404): A write restarts a core's watchdog count. -/
  | ccsWdtkick (n : Fin 16) (v : Word)
  /-- RCT_GO (R341): An expert write of RCT_CTL.GO samples the engine registers and starts an operation. -/
  | rctGo (m : Master) (e : Fin 4) (v : Word)
  /-- DWT_GO (R359): An expert write of GO fetches the descriptor at DWT_DESC and runs the channel. -/
  | dwtGo (m : Master) (c : Fin 64) (v : Word)
  /-- DWT_STOP (R354): An expert write of STOP requests a halt at the next descriptor boundary. -/
  | dwtStop (m : Master) (c : Fin 64) (v : Word)
  /-- DWT_SWREQ (R359): An expert write latches one request for a paced descriptor. -/
  | dwtSwreq (m : Master) (c : Fin 64) (v : Word)
  /-- NIO_GO (R429): An expert write samples entry, grant and size, measures the program and starts the core. -/
  | nioGo (m : Master) (n : Fin 16) (v : Word)
  /-- NIO_STOP (R429): An expert write stops a Parlour core as NIOFT_STOP does. -/
  | nioStop (m : Master) (n : Fin 16) (v : Word)
  /-- MUS_VGO_START (R396): An expert write starts a voice at the next sample boundary. -/
  | musVgoStart (m : Master) (v : Word)
  /-- MUS_VGO_STOP (R396): An expert write stops a voice at the next sample boundary. -/
  | musVgoStop (m : Master) (v : Word)
  /-- MUS_CTL_COMMIT (R396): An expert write requests a mix bank swap at the next sample boundary. -/
  | musCtlCommit (m : Master) (v : Word)
  /-- TMB_CMP_ARM (R454): An expert write of ARM samples value and flags and arms a compare channel. -/
  | tmbCmpArm (m : Master) (k : Fin 64) (v : Word)
  /-- TMB_CAPCFG_WRITE (R454): An expert write samples a capture channel's configuration as one set. -/
  | tmbCapcfgWrite (m : Master) (k : Fin 32) (v : Word)
  /-- CEL_FLIP_WRITE (R305): A write arms or re-arms a Cellar error injection. -/
  | celFlipWrite (m : Master) (v : Word)
  /-- PAN_FLIP_WRITE (R306): A write arms or re-arms a Pantry error injection. -/
  | panFlipWrite (m : Master) (v : Word)
  /-- FLIP_ADDR_WRITE (R553): A write of an injector address register clears its ARM. -/
  | flipAddrWrite (m : Master) (r : FlipAddr) (v : Word)
  /-- FRAME_BOUNDARY (R10): The output position reaches (0, VACT): the head stops fetching and closes frame N in steps 1 to 6. -/
  | frameBoundary (h : Fin 32)
  /-- SWAP_CYCLE (R11): 256 composer clocks after the boundary the shadow set swaps if committed and consistent, active copies reload and HD_FRAME increments. -/
  | swapCycle (h : Fin 32)
  /-- LINE_EVENT (R18): The output position reaches the programmed LINE, raising the head's LINE event. -/
  | lineEvent (h : Fin 32)
  /-- HEAD_PLL_LOCK (R101): The head PLL locks and the timing generator starts at (0, VACT). -/
  | headPllLock (h : Fin 32) (t : Nat)
  /-- PLL_GLIDE_DONE (R102): The PLL reaches a new nominal frequency, GLIDE clears and the beam resumes. -/
  | pllGlideDone (h : Fin 32) (t : Nat)
  /-- GENLOCK_IN_EDGE (R117): An active edge of GENLOCK_IN is sampled and recorded. -/
  | genlockInEdge (width : Nat) (high : Bool)
  /-- GENLOCK_LOST (R115): No active edge for two nominal frame times: LOST sets and the pull holds. -/
  | genlockLost (h : Fin 32)
  /-- GENLOCK_ALIGN_END (R114): A coarse genlock halt ends at the target instant and the boundary cycle falls there. -/
  | genlockAlignEnd (h : Fin 32)
  /-- BEAM_END (R182): An END entry stops the beam program for the frame. -/
  | beamEnd (h : Fin 32)
  /-- BEAM_WAIT (R184): A WAIT entry holds the program until the fetch position reaches (X, Y). -/
  | beamWait (h : Fin 32)
  /-- BEAM_WAITX (R184): A WAITX entry holds until X on the current or next line. -/
  | beamWaitx (h : Fin 32)
  /-- BEAM_WAIT_MET (R184): A held WAIT or WAITX is met and fixes the trigger position. -/
  | beamWaitMet (h : Fin 32)
  /-- BEAM_MOVE (R189): A MOVE entry writes one beam-writable active copy at its anchor. -/
  | beamMove (h : Fin 32)
  /-- BEAM_MOVEM (R183): A MOVEM entry writes up to eight targets as one group. -/
  | beamMovem (h : Fin 32)
  /-- BEAM_SKIPIF (R185): A SKIPIF entry skips entries when its flag or frame condition holds. -/
  | beamSkipif (h : Fin 32)
  /-- BEAM_JUMP (R186): A JUMP entry jumps, loads a loop counter, or decrements and loops. -/
  | beamJump (h : Fin 32)
  /-- BEAM_IRQ (R196): An IRQ entry schedules a LINE event at its anchor. -/
  | beamIrq (h : Fin 32)
  /-- BEAM_STAMP (R197): A STAMP entry schedules a time stamp at its anchor. -/
  | beamStamp (h : Fin 32)
  /-- BEAM_FENCE (R198): A FENCE entry holds until every earlier write, IRQ and STAMP has landed plus 24 clocks. -/
  | beamFence (h : Fin 32)
  /-- BEAM_FENCE_DONE (R198): A held FENCE completes and the trigger position becomes the fetch position. -/
  | beamFenceDone (h : Fin 32)
  /-- BEAM_WRITE_LAND (R190): A held beam-class write lands when the output reaches its anchor. -/
  | beamWriteLand (h : Fin 32)
  /-- BEAM_IRQ_ANCHOR (R196): The output reaches an IRQ anchor, raising LINE and writing HD_BSCODE. -/
  | beamIrqAnchor (h : Fin 32)
  /-- BEAM_STAMP_ANCHOR (R197): The output reaches a STAMP anchor and the stamp enters the FIFO. -/
  | beamStampAnchor (h : Fin 32)
  /-- BEAM_LINE_BUDGET_RELEASE (R181): A sequencer stalled on its 64 accesses resumes as the fetch position enters the next line. -/
  | beamLineBudgetRelease (h : Fin 32)
  /-- BEAM_WINDOW_END (R180): The fetch position reaches (0, VACT) and no further entry executes. -/
  | beamWindowEnd (h : Fin 32)
  /-- SPRITE_TABLE_LOADED (R156): The sprite table load completes, LOADED sets and line 0 evaluation begins. -/
  | spriteTableLoaded (h : Fin 32)
  /-- SPRITE_LINE_EVAL (R164): The evaluator selects, charges and fills the sprites of a line one line ahead. -/
  | spriteLineEval (h : Fin 32)
  /-- BITMAP_LINE_READ (R124): A bitmap plane or Cellar tile map line read begins one line ahead under DEADLINE credits. -/
  | bitmapLineRead (h : Fin 32)
  /-- MANTEL_LINE_READ (R222): The Mantel reads a line of its rectangle from the store into its line buffer. -/
  | mantelLineRead (h : Fin 32)
  /-- WRITEBACK_LINE (R239): A composed line is written to the writeback destination or dropped if the path is full. -/
  | writebackLine (h : Fin 32) (drop : Bool)
  /-- LAYER_FETCH_FAILURE (R219): A layer's data fails and the Shutter switches the layer off for the rest of the frame. -/
  | layerFetchFailure (h : Fin 32) (layer : Fin 11) (x : Nat) (y : Nat)
  /-- MANTEL_FETCH_FAILURE (R232): A Mantel store or line-buffer error draws the rectangle in fault colour for the rest of the frame. -/
  | mantelFetchFailure (h : Fin 32) (e : MantelError) (y : Nat)
  /-- ECHO_SYMBOL_MISMATCH (R261): A link echo receiver finds a symbol mismatch and raises INTEGRITY once per frame. -/
  | echoSymbolMismatch (p : Fin 4) (lanes : BitVec 4) (n : Nat)
  /-- HPD_PLUG (R255): HPD held high for 2 ms is a plug and starts a sink read. -/
  | hpdPlug (p : Fin 32)
  /-- HPD_UNPLUG (R255): HPD held low for 2 ms is an unplug and takes the link DOWN. -/
  | hpdUnplug (p : Fin 32)
  /-- IRQ_HPD (R255): A short low HPD pulse triggers a re-read of sink status. -/
  | irqHpd (p : Fin 32)
  /-- SINK_READ_DONE (R256): The sink cache refresh completes, GEN increments and link state is judged. -/
  | sinkReadDone (p : Fin 32) (r : SinkRead)
  /-- LINK_TRAINING_DONE (R251): Link training ends with the link UP or DOWN. -/
  | linkTrainingDone (p : Fin 32) (t : Training)
  /-- WIRING_SENSE (R258): Each millisecond a port senses its lane, AUX and HPD wiring. -/
  | wiringSense (p : Fin 32) (w : Word)
  /-- REGION_FILL_DONE (R291): The zero fill of a defined or changed Cellar region ends and the region becomes valid. -/
  | regionFillDone (r : Fin 64)
  /-- ASSET_LOAD_DONE (R301): A load's writes and digest complete and the region leaves LOADING. -/
  | assetLoadDone (r : Fin 256)
  /-- PATROL_SCRUB_READ (R302): A scheduled scrub read of a line, writing back a corrected line. -/
  | patrolScrubRead (w : Scrub)
  /-- REFRESH_MODE_CHANGE (R285): A DIMM crosses 85 °C and its refresh interval halves or returns. -/
  | refreshModeChange (c : Fin 8) (temp : Byte)
  /-- THROTTLE_STEP (R317): Each microsecond the throttle gap of a subchannel grows or decays. -/
  | throttleStep (i : Fin 16) (tags : Nat)
  /-- RECT_OP_BEGIN (R339): A queued rect operation begins once its engine is free. -/
  | rectOpBegin (e : Fin 4)
  /-- RECT_BURST (R331): An engine issues a burst of up to four lines of a row. -/
  | rectBurst (e : Fin 4)
  /-- RECT_DEADTIME_EXPIRY (R332): The engine's dead-time after a burst ends. -/
  | rectDeadtimeExpiry (e : Fin 4) (count : Nat)
  /-- RECT_ROW_DONE (R333): A row's writes become visible and RCT_ROWS counts, firing the watermark. -/
  | rectRowDone (e : Fin 4)
  /-- RECT_OP_DONE (R334): An operation ends with all writes visible and asserts the done source. -/
  | rectOpDone (e : Fin 4)
  /-- RECT_READ_UNCORR (R335): An uncorrectable read stops the operation with UNCORR. -/
  | rectReadUncorr (e : Fin 4)
  /-- DMA_DESCRIPTOR_FETCH (R344): A channel fetches and checks a descriptor, which becomes current or is refused. -/
  | dmaDescriptorFetch (c : Fin 64)
  /-- DMA_BURST (R347): A channel moves one burst of a descriptor. -/
  | dmaBurst (c : Fin 64)
  /-- DMA_PACE_EXPIRY (R348): The pace gap after a burst ends. -/
  | dmaPaceExpiry (c : Fin 64) (count : Nat)
  /-- DMA_DESCRIPTOR_DONE (R352): A descriptor completes, counts, optionally interrupts, and chains or ends. -/
  | dmaDescriptorDone (c : Fin 64)
  /-- DMA_READ_UNCORR (R351): An uncorrectable read halts the channel with UNCORR. -/
  | dmaReadUncorr (c : Fin 64)
  /-- SAMPLE_BOUNDARY (R361): A sample period begins: the count advances, voices compute and the mix program runs. -/
  | sampleBoundary (tdm : List (BitVec 24) × List (BitVec 24)) (late : List (Fin 512))
  /-- AUDIO_CLOCK_LOST (R361): No AUD_MCLK_IN edge for four periods stops sample boundaries. -/
  | audioClockLost
  /-- AUDIO_CLOCK_RETURN (R361): External master-clock edges return and boundaries resume. -/
  | audioClockReturn
  /-- TDM_SLAVE_FRAME (R392): A slave port receives a frame, updating LOCK and slipping when its buffer runs dry or full. -/
  | tdmSlaveFrame (k : Fin 10) (good slip : Bool)
  /-- TDM_SHORT (R531): 64 mismatching BCLK periods on a TDM output line mark a short, or 64 matching clear it. -/
  | tdmShort (k : Fin 10) (mismatch : Bool)
  /-- NIO_MOV (R407): MOV copies a working register. -/
  | nioMov (c : Fin 16)
  /-- NIO_ADD (R407): ADD adds registers and sets flags. -/
  | nioAdd (c : Fin 16)
  /-- NIO_SUB (R407): SUB subtracts registers and sets flags. -/
  | nioSub (c : Fin 16)
  /-- NIO_CMP (R406): CMP subtracts for flags only. -/
  | nioCmp (c : Fin 16)
  /-- NIO_AND (R407): AND of registers. -/
  | nioAnd (c : Fin 16)
  /-- NIO_OR (R407): OR of registers. -/
  | nioOr (c : Fin 16)
  /-- NIO_XOR (R407): XOR of registers. -/
  | nioXor (c : Fin 16)
  /-- NIO_TST (R406): TST ANDs for flags only. -/
  | nioTst (c : Fin 16)
  /-- NIO_ADC (R406): ADC adds with carry. -/
  | nioAdc (c : Fin 16)
  /-- NIO_SBC (R406): SBC subtracts with borrow. -/
  | nioSbc (c : Fin 16)
  /-- NIO_MUL (R412): MUL forms a signed 64-bit product into MH:ML. -/
  | nioMul (c : Fin 16)
  /-- NIO_MULU (R412): MULU forms an unsigned 64-bit product. -/
  | nioMulu (c : Fin 16)
  /-- NIO_MAC (R412): MAC adds a signed product into MH:ML. -/
  | nioMac (c : Fin 16)
  /-- NIO_ADDI (R407): ADDI adds a signed 6-bit immediate. -/
  | nioAddi (c : Fin 16)
  /-- NIO_MOVI (R407): MOVI loads a sign-extended 6-bit immediate. -/
  | nioMovi (c : Fin 16)
  /-- NIO_SHL (R407): SHL by an immediate count. -/
  | nioShl (c : Fin 16)
  /-- NIO_SHR (R407): SHR by an immediate count. -/
  | nioShr (c : Fin 16)
  /-- NIO_SAR (R407): SAR by an immediate count. -/
  | nioSar (c : Fin 16)
  /-- NIO_ROR (R407): ROR by an immediate count. -/
  | nioRor (c : Fin 16)
  /-- NIO_SHL_REG (R407): SHL by a register count. -/
  | nioShlReg (c : Fin 16)
  /-- NIO_SHR_REG (R407): SHR by a register count. -/
  | nioShrReg (c : Fin 16)
  /-- NIO_SAR_REG (R407): SAR by a register count. -/
  | nioSarReg (c : Fin 16)
  /-- NIO_LDB (R407): LDB loads a zero-extended byte. -/
  | nioLdb (c : Fin 16)
  /-- NIO_LDH (R407): LDH loads a zero-extended halfword. -/
  | nioLdh (c : Fin 16)
  /-- NIO_LDW (R407): LDW loads a word. -/
  | nioLdw (c : Fin 16)
  /-- NIO_LDBS (R407): LDBS loads a sign-extended byte. -/
  | nioLdbs (c : Fin 16)
  /-- NIO_STB (R407): STB stores a byte. -/
  | nioStb (c : Fin 16)
  /-- NIO_STH (R407): STH stores a halfword. -/
  | nioSth (c : Fin 16)
  /-- NIO_STW (R407): STW stores a word. -/
  | nioStw (c : Fin 16)
  /-- NIO_LDSP (R407): LDSP loads a word at SP plus offset. -/
  | nioLdsp (c : Fin 16)
  /-- NIO_STSP (R407): STSP stores a word at SP plus offset. -/
  | nioStsp (c : Fin 16)
  /-- NIO_BR (R408): BR branches relative when its condition holds. -/
  | nioBr (c : Fin 16)
  /-- NIO_CALL (R411): CALL pushes masked registers and LK and jumps. -/
  | nioCall (c : Fin 16)
  /-- NIO_COPYX (R413): COPYX copies one string element. -/
  | nioCopyx (c : Fin 16)
  /-- NIO_FILLX (R413): FILLX stores one string element. -/
  | nioFillx (c : Fin 16)
  /-- NIO_FINDX (R413): FINDX compares one string element. -/
  | nioFindx (c : Fin 16)
  /-- NIO_SUMX (R413): SUMX adds one string element. -/
  | nioSumx (c : Fin 16)
  /-- NIO_MFS (R405): MFS reads a special register. -/
  | nioMfs (c : Fin 16)
  /-- NIO_MTS (R405): MTS writes a special register. -/
  | nioMts (c : Fin 16)
  /-- NIO_LDI (R407): LDI loads a 32-bit immediate over three words. -/
  | nioLdi (c : Fin 16)
  /-- NIO_NOP (R409): NOP does nothing. -/
  | nioNop (c : Fin 16)
  /-- NIO_REP (R414): REP repeats the following string instruction XC times. -/
  | nioRep (c : Fin 16)
  /-- NIO_RETI (R422): RETI restores the context, or chains to a higher pending level. -/
  | nioReti (c : Fin 16) (k : Fin 3)
  /-- NIO_RET (R411): RET returns through LK and pops masked registers. -/
  | nioRet (c : Fin 16)
  /-- NIO_JMPR (R409): JMPR jumps to a register address. -/
  | nioJmpr (c : Fin 16)
  /-- NIO_CALLR (R409): CALLR sets LK and jumps to a register address. -/
  | nioCallr (c : Fin 16)
  /-- NIO_WAIT (R424): WAIT holds the core until an interrupt entry or stop. -/
  | nioWait (c : Fin 16)
  /-- NIO_HALT (R428): HALT stops the core. -/
  | nioHalt (c : Fin 16)
  /-- NIO_TRAP (R423): TRAP n performs a level-15 service-call entry. -/
  | nioTrap (c : Fin 16)
  /-- NIO_FENCE (R409): FENCE holds until every earlier far store is visible. -/
  | nioFence (c : Fin 16)
  /-- NIO_NOT (R409): NOT inverts a register. -/
  | nioNot (c : Fin 16)
  /-- NIO_NEG (R409): NEG negates a register. -/
  | nioNeg (c : Fin 16)
  /-- NIO_JMP (R409): JMP jumps to an absolute target. -/
  | nioJmp (c : Fin 16)
  /-- NIO_FAR_LOAD_DONE (R403): The data of a stalled far load returns and the load completes. -/
  | nioFarLoadDone (c : Fin 16) (cycles : Nat)
  /-- NIO_FENCE_DONE (R409): A held FENCE completes once earlier far stores are visible. -/
  | nioFenceDone (c : Fin 16) (cycles : Nat)
  /-- NIO_INT_ENTRY (R421): A core takes an interrupt request above IPL, pushes context and vectors. -/
  | nioIntEntry (c : Fin 16) (cycles : Nat)
  /-- NIO_WDOG_EXPIRY (R404): A core's watchdog reaches its period and traps the core. -/
  | nioWdogExpiry (c : Fin 16) (cycles : Nat)
  /-- CORE_RESTART (R400): The Attic restarts a trapped firmware core from its measured image. -/
  | coreRestart (n : Fin 16)
  /-- IRQ_EDGE (R432): An edge source rises and sets PEND, leading to delivery. -/
  | irqEdge (i : Fin 1024)
  /-- IRQ_LEVEL_CHANGE (R432): A level source's input changes and PEND follows it. -/
  | irqLevelChange (i : Fin 1024) (b : Bool)
  /-- HOLDOFF_EXPIRY (R441): A group's hold-off timer reaches its period and its deliverable members are delivered. -/
  | holdoffExpiry (g : Fin 64)
  /-- COMPARE_FIRE (R448): TMB_NOW reaches an armed compare value and the channel fires. -/
  | compareFire (k : Fin 64)
  /-- CAPTURE_EDGE (R451): A qualifying input event is accepted and recorded in the capture FIFO. -/
  | captureEdge (k : Fin 32) (rising : Bool)
  /-- PSQ_SLOT (R457): A channel's slot arrives and it fetches or re-executes its latched instruction. -/
  | psqSlot (e : Fin 4) (k : Fin 64) (cyc : Nat) (pads : BitVec 96)
  /-- PSQ_SKIP (R458): SKIP does nothing. -/
  | psqSkip (e : Fin 4) (k : Fin 64) (cyc : Nat) (pads : BitVec 96)
  /-- PSQ_DRIVE (R458): DRIVE sets levels and enables of masked output pins. -/
  | psqDrive (e : Fin 4) (k : Fin 64) (cyc : Nat) (pads : BitVec 96)
  /-- PSQ_EMIT (R458): EMIT shifts bits out of E onto output pins step by step. -/
  | psqEmit (e : Fin 4) (k : Fin 64) (cyc : Nat) (pads : BitVec 96)
  /-- PSQ_SAMPLE (R458): SAMPLE shifts input pin bits into G step by step. -/
  | psqSample (e : Fin 4) (k : Fin 64) (cyc : Nat) (pads : BitVec 96)
  /-- PSQ_FETCH (R458): FETCH loads E from a program word or the feed queue. -/
  | psqFetch (e : Fin 4) (k : Fin 64) (cyc : Nat) (pads : BitVec 96)
  /-- PSQ_DEPOSIT (R458): DEPOSIT pushes G into the sample queue. -/
  | psqDeposit (e : Fin 4) (k : Fin 64) (cyc : Nat) (pads : BitVec 96)
  /-- PSQ_AWAIT (R458): AWAIT stalls until a pin level or an event. -/
  | psqAwait (e : Fin 4) (k : Fin 64) (cyc : Nat) (pads : BitVec 96)
  /-- PSQ_BRANCH (R458): BRANCH jumps when its condition holds. -/
  | psqBranch (e : Fin 4) (k : Fin 64) (cyc : Nat) (pads : BitVec 96)
  /-- PSQ_LOOP (R458): LOOP pushes a pass count and return address. -/
  | psqLoop (e : Fin 4) (k : Fin 64) (cyc : Nat) (pads : BitVec 96)
  /-- PSQ_NEXT (R458): NEXT loops back or pops the innermost level. -/
  | psqNext (e : Fin 4) (k : Fin 64) (cyc : Nat) (pads : BitVec 96)
  /-- PSQ_PERIOD (R458): PERIOD sets the step period. -/
  | psqPeriod (e : Fin 4) (k : Fin 64) (cyc : Nat) (pads : BitVec 96)
  /-- PSQ_SIGNAL (R458): SIGNAL sets F and optionally raises the request line. -/
  | psqSignal (e : Fin 4) (k : Fin 64) (cyc : Nat) (pads : BitVec 96)
  /-- PSQ_STOPCH (R458): STOPCH stops the channel. -/
  | psqStopch (e : Fin 4) (k : Fin 64) (cyc : Nat) (pads : BitVec 96)
  /-- PSQ_HOLD (R458): HOLD keeps every output pin for N steps. -/
  | psqHold (e : Fin 4) (k : Fin 64) (cyc : Nat) (pads : BitVec 96)
  /-- PSQ_PIN_SHORT (R462): RBCNT consecutive read-back mismatches mark a pin short, or matches clear it. -/
  | psqPinShort (p : Fin 96) (mismatch : Bool)
  /-- PSQ_BANK_SUPPLY_CHANGE (R461): A bank supply leaves or enters its ranges and its pins follow. -/
  | psqBankSupplyChange (b : Fin 6) (lvl : Fin 3)
  /-- COLD_BOOT (R474): PWR_OK rises and the boot chain runs from the ROM through the signed boot record. -/
  | coldBoot (b : BootIn)
  /-- CELLAR_TRAINING_DONE (R283): DIMM training of the channels ends and the interleave is fixed. -/
  | cellarTrainingDone (d : List (Option Dimm))
  /-- WARM_RESET (R87): PERST_N or a link reset restarts the device and the Foyer recovers the journal. -/
  | warmReset (b : BootIn)
  /-- READY_SET (R40): Firmware is running and GLB_STATUS.READY sets, starting replay and ring fetching. -/
  | readySet
  /-- FUNCTION_LEVEL_RESET (R56): A PCI Express FLR clears the rings and MSI-X state of one function. -/
  | functionLevelReset (fn : Fin 2)
  /-- BOOT_LOG_APPEND (R475): After READY the Study appends the boot record to the flash boot log. -/
  | bootLogAppend (progFails blkFails : Nat)
  /-- RECEIPT_BATCH_CLOSE (R279): The open batch closes at 64 receipts or 100 ms and is signed and stored. -/
  | receiptBatchClose
  /-- S2_LINK_EXIT (R508): The host brings the link out of L1.2 and the device returns to S1. -/
  | s2LinkExit
  /-- WAKE_PIN (R508): A wake pin holds its level for 1 ms in S2 and the device drives WAKE_N. -/
  | wakePin (pin : Fin 16) (level : Bool)
  /-- THERMAL_WARNING (R514): Tj reaches 95 °C or falls below 92 °C and the warning sets or clears. -/
  | thermalWarning (temps : List (BitVec 16))
  /-- JUNCTION_TRIP (R518): Tj reaches 110 °C and the device trips within 10 µs. -/
  | junctionTrip (temps : List (BitVec 16))
  /-- TELEMETRY_RECORD (R519): Every 10 ms the Chimney writes a telemetry record to the host ring. -/
  | telemetryRecord (x : Sample)
  /-- CORE_VOLTAGE_STEP (R515): The core-voltage loop moves the VDD_CORE set point within its bounds. -/
  | coreVoltageStep (want : Nat) (answered : Bool)
  /-- REFRESH_DEMAND_STEP (R516): A channel's refresh demand rises on corrected errors or falls after 60 s without them. -/
  | refreshDemandStep (c : Fin 8) (up : Bool)
  /-- XTAL_SWITCH (R501): The always-on clock switches to XTAL32K after 1,024 stable cycles. -/
  | xtalSwitch
  /-- AUDIT_STATUS (R495): Audit request that fills the buffer with the status block. -/
  | auditStatus (w : List Byte)
  /-- AUDIT_BOOTREC (R495): Audit request for the boot record of a BOOTSEQ. -/
  | auditBootrec (w : List Byte)
  /-- AUDIT_BATCH (R495): Audit request for a receipt batch by index. -/
  | auditBatch (w : List Byte)
  /-- AUDIT_QUOTE (R495): Audit request for a signed quote with the auditor's nonce. -/
  | auditQuote (w : List Byte)
  /-- AUDIT_CERT (R495): Audit request for the identity certificate. -/
  | auditCert (w : List Byte)
  /-- AUDIT_SEEK (R495): Audit request that sets the buffer read position. -/
  | auditSeek (w : List Byte)
  /-- AUDIT_RESPONSE_READY (R495): A served audit request's buffer becomes ready and source 27 asserts. -/
  | auditResponseReady
  /-- AUDIT_READ (R496): A private read returns a header, a chunk of the buffer and a CRC. -/
  | auditRead
  /-- ENTDAA (R494): I3C dynamic address assignment to the audit port. -/
  | entdaa (a : BitVec 7)
  /-- SETDASA (R494): I3C CCC that assigns a dynamic address from the static address. -/
  | setdasa (a : BitVec 7)
  /-- RSTDAA (R494): I3C CCC that resets the dynamic address. -/
  | rstdaa
  /-- GETPID (R494): I3C CCC returning the provisional ID. -/
  | getpid
  /-- GETBCR (R494): I3C CCC returning BCR 0x00. -/
  | getbcr
  /-- GETDCR (R494): I3C CCC returning DCR 0x00. -/
  | getdcr
  /-- GETSTATUS (R494): I3C CCC returning target status. -/
  | getstatus
  /-- GETMWL (R494): I3C CCC returning the maximum write length. -/
  | getmwl
  /-- GETMRL (R494): I3C CCC returning the maximum read length. -/
  | getmrl
  /-- BEAM_POSITION_EVENT (R18): The output position of a head reaches the ARMPOS of a voice armed with kind 3, and the voice latches its start. -/
  | beamPositionEvent (h : Fin 32)
  /-- ECHO_ALIGNMENT_CHANGE (R261): A link echo receiver becomes ALIGNED within 2 µs after the link is UP, or loses alignment, and so arms or stops comparing. -/
  | echoAlignmentChange (p : Fin 4) (aligned : Bool)
  /-- GENLOCK_PRESENT_TIMEOUT (R120): DPL_GLSTAT.PRESENT clears when no active GENLOCK_IN edge has arrived for 100 ms. -/
  | genlockPresentTimeout
  /-- NIO_FAR_STORE_DONE (R403): An outstanding far store of a core completes, freeing a slot for a store stalled at eight outstanding. -/
  | nioFarStoreDone (c : Fin 16) (cycles : Nat)
  /-- UNKNOWN_OPCODE_PACKET (R59): A fetched packet whose opcode is unknown is accepted and completes at once with BAD_OPCODE. -/
  | unknownOpcodePacket (code : BitVec 16) (p : Packet)
  /-- MEM_OP_DONE (R552): A MEM_COPY or MEM_FILL that the Foyer runs reaches VIS when all its writes are visible, and its completion is journaled. -/
  | memOpDone (n : Nat)
  /-- NIOFT_LOAD_DONE (R426): The load and measurement of a Parlour core image end within 100 µs, and LOADED sets with the digest logged. -/
  | nioftLoadDone (n : Fin 16)
  /-- MANTEL_ADMISSION_DONE (R229): The Study finishes verifying and hashing Mantel content into the free bank, stages it and makes a Mantel swap pending. -/
  | mantelAdmissionDone (h : Fin 32)
  /-- S2_ENTRY (R507): Within 10 ms after the POWER_STATE commit point, the device enters S2, stops its fast PLLs and runs the time base from the always-on clock. -/
  | s2Entry
  /-- CELLAR_IDLE_SELF_REFRESH (R503): In S1 a Cellar channel that has been idle for 1 ms enters self-refresh. -/
  | cellarIdleSelfRefresh (c : Fin 8)
  /-- PWR_OK_FALL (R499): PWR_OK falls at power-down, ahead of the supplies leaving their range, and the device stops. -/
  | pwrOkFall
  /-- RAIL_OUT_OF_RANGE (R499): A monitored supply rail leaves or returns to its operating range, and CHM_STAT.RAILOUT follows it. -/
  | railOutOfRange (out : Bool)
  /-- TRIP_RELEASE (R518): After a warm reset during a junction trip, Tj falls below 95 °C and the device leaves the trip and answers configuration requests. -/
  | tripRelease (b : BootIn)
  deriving DecidableEq, Repr

end Sys2Proof
end

