-- ==== Sys2Proof/Decode.lean ====
section
/-! DEFINITION. The command that a word spells.  The table of operations and events gives none of its rows any bits, so no word spells a command; packets stand in the rings as R57 lays them out, and their fields are the operands of the packet rows. -/

namespace Sys2Proof

/-- The command spelt by a word of the given width: none, since the table gives no encodings. -/
def decodeTableWord (_nbits _w : Nat) : Option Instr := none

end Sys2Proof
end

