-- ==== Sys2Proof/Config.lean ====
section
/-! DEFINITION. What the spec leaves open: constants without a body.  Nothing in Lean can evaluate them, so a statement about them holds whatever they are. -/

namespace Sys2Proof.Config

/-- Whether a delivery decided in the 16 Hallway cycles after a mask write is still made (R440) (DESIGN CHOICE, log 48). -/
opaque maskRace : Nat → Bool

/-- The pull the genlock loop demands, in parts per billion, from the measured phase in pixel clocks and the pull applied (R115): the spec gives its bounds and not its law (DESIGN CHOICE, log 49). -/
opaque glDemand : Int → Int → Int

/-- Whether a read that falls together with a write of the same line sees the new content (R123, R157) (DESIGN CHOICE, log 50). -/
opaque readsNew : Nat → Bool

/-- Whether a quotient that is not exact takes the value above the exact one: from the divisor and the dividend.  The spec gives the number format and no rounding for products, interpolations and ramp steps of the Music Room (R362, R364, R373, R378) and for the genlock phase (R115) (DESIGN CHOICE, log 51). -/
opaque quotUp : Nat → Int → Bool

/-- The seed of the Device Identity Key, which the physical unclonable function gives and no master reads (R470) (DESIGN CHOICE, log 52). -/
opaque dikSeed : BitVec 256

/-- The SHA-512 of the Lardun firmware public key, fixed in the mask of the boot ROM (R468). -/
opaque vendorSlot : BitVec 512

/-- The provisional ID of the audit port as an I3C target (R494). -/
opaque auditPid : BitVec 48

/-- What GETSTATUS of the audit port returns, and the write and read lengths of GETMWL and GETMRL (R494). -/
opaque auditStatus : Nat → BitVec 16
opaque auditLengths : BitVec 32

/-- Composer clocks that a taken branch adds when its landing entry is not in the buffer; at most 12 count (R181) (DESIGN CHOICE, log 54). -/
opaque branchDelay : Nat → Nat

/-- Lane symbols that an echo receiver compares in a frame (R273): the spec gives no symbol clock against the frame (DESIGN CHOICE, log 55). -/
opaque echoSymbols : Nat → Nat

/-- Attempts, less one, of a training that the fall of HPD ends (R253) (DESIGN CHOICE, log 122). -/
opaque trainAttempts : Nat → Fin 16

/-- The CRC that an echo receiver decodes in a frame with a symbol mismatch (R271). -/
opaque echoCrc : Nat → BitVec 32

/-- The instruction register of the JTAG port: its length less one, and the instruction that a code names: 0 BYPASS, 1 IDCODE, 2 EXTEST, 3 SAMPLE/PRELOAD.  The spec gives neither (R550) (DESIGN CHOICE, log 121). -/
opaque tapIrRest : Nat
opaque tapCode : List Bool → Fin 4

/-- The level that a cell of the boundary-scan register captures (R550): the spec gives no order of the cells (DESIGN CHOICE, log 121). -/
opaque boundaryCell : Nat → Nat → Bool

end Sys2Proof.Config
end

