-- ==== Sys2Proof/Machine/Bits.lean ====
section
/-! DEFINITION. Bit fields, byte order and CRC-32, used by every unit.  The FL3280 is little-endian (R34). -/

namespace Sys2Proof.Machine

/-- The field of `len` bits whose least significant bit is bit `lo`, as a number. -/
def fld (w : Word) (lo len : Nat) : Nat := w.toNat / 2 ^ lo % 2 ^ len

/-- One bit of a word. -/
def bit (w : Word) (i : Nat) : Bool := w.getLsbD i

/-- The mask of a field. -/
def fmask (lo len : Nat) : Word := BitVec.ofNat 32 ((2 ^ len - 1) * 2 ^ lo)

/-- A word with a field replaced. -/
def putFld (w : Word) (lo len v : Nat) : Word :=
  (w &&& ~~~ fmask lo len) ||| BitVec.ofNat 32 (v % 2 ^ len * 2 ^ lo)

/-- A word with one bit replaced. -/
def putBit (w : Word) (i : Nat) (b : Bool) : Word := putFld w i 1 (if b then 1 else 0)

/-- A number as a word, modulo 2^32. -/
def wd (n : Nat) : Word := BitVec.ofNat 32 n

/-- A flag as a number. -/
def b2n (b : Bool) : Nat := if b then 1 else 0

/-- A word whose only bit is `i`, when `b`. -/
def flag (i : Nat) (b : Bool) : Word := if b then wd (2 ^ i) else 0

/-- The low word of a 64-bit quantity (R35). -/
def lo32 (d : DWord) : Word := d.truncate 32

/-- The high word of a 64-bit quantity (R35). -/
def hi32 (d : DWord) : Word := (d >>> 32).truncate 32

/-- Two words as a 64-bit quantity. -/
def dw (lo hi : Word) : DWord := hi ++ lo

/-- The bytes of a number, least significant first. -/
def leBytes : Nat → Nat → List Byte
  | 0, _ => []
  | n + 1, v => BitVec.ofNat 8 v :: leBytes n (v / 256)

/-- The number that bytes spell, least significant first. -/
def leNat : List Byte → Nat
  | [] => 0
  | b :: t => b.toNat + 256 * leNat t

/-- The four bytes of a word. -/
def wBytes (w : Word) : List Byte := leBytes 4 w.toNat

/-- The bytes of a list of words. -/
def wsBytes (ws : List Word) : List Byte := ws.flatMap wBytes

/-- The words that bytes spell; a last group of fewer than four bytes counts as padded with zeros. -/
def toWords : List Byte → List Word
  | a :: b :: c :: d :: t => wd (leNat [a, b, c, d]) :: toWords t
  | [] => []
  | l => [wd (leNat l)]

/-- A number read as a two's complement number of `n` bits. -/
def sext (n v : Nat) : Int := if v % 2 ^ n < 2 ^ (n - 1) then (v % 2 ^ n : Nat) else (v % 2 ^ n : Nat) - (2 ^ n : Nat)

/-- An integer as a word, modulo 2^32. -/
def iw (i : Int) : Word := BitVec.ofInt 32 i

/-- The least multiple of `k` at or above `n`. -/
def roundUp (n k : Nat) : Nat := (n + (k - 1)) / k * k

/-- Division rounded up. -/
def ceilDiv (n k : Nat) : Nat := (n + (k - 1)) / k

/-- One bit step of the reflected CRC-32 of IEEE 802.3 (R265). -/
def crcStep (c : Word) : Word := if c.getLsbD 0 then (c >>> 1) ^^^ 0xEDB88320 else c >>> 1

/-- One byte into a running CRC-32. -/
def crcByte (c : Word) (b : Byte) : Word :=
  crcStep (crcStep (crcStep (crcStep (crcStep (crcStep (crcStep (crcStep (c ^^^ b.zeroExtend 32))))))))

/-- A running CRC-32 over bytes. -/
def crcRun (c : Word) (l : List Byte) : Word := l.foldl crcByte c

/-- The CRC-32 of a byte sequence (R265): started at all ones, inverted at the end. -/
def crc32 (l : List Byte) : Word := ~~~ crcRun 0xFFFFFFFF l

end Sys2Proof.Machine
end

