-- ==== Sys2Proof/Machine/Tbl.lean ====
section
/-! DEFINITION. Sparse tables: a list of (key, value) pairs in one canonical form, keys strictly rising and no entry equal to what an unlisted key reads as.  Memories, the register file and the per-unit records of the state are all held this way, so that equal contents are equal data. -/

namespace Sys2Proof.Machine

/-- A sparse table; what an unlisted key reads as is given by the function passed to `Tbl.get`. -/
abbrev Tbl (α : Type) := List (Nat × α)

variable {α : Type}

/-- The entry listed for a key, if any. -/
def Tbl.find : Tbl α → Nat → Option α
  | [], _ => none
  | (k, v) :: t, i => if k = i then some v else Tbl.find t i

/-- What a key reads as: its entry, or the default of that key. -/
def Tbl.get (d : Nat → α) (t : Tbl α) (i : Nat) : α := (Tbl.find t i).getD (d i)

/-- List a key with a value, in key order. -/
def Tbl.ins : Tbl α → Nat → α → Tbl α
  | [], i, v => [(i, v)]
  | (k, w) :: t, i, v =>
    if i < k then (i, v) :: (k, w) :: t
    else if k = i then (i, v) :: t
    else (k, w) :: Tbl.ins t i v

/-- Unlist a key. -/
def Tbl.del (t : Tbl α) (i : Nat) : Tbl α := t.filter fun e => e.1 ≠ i

/-- Give a key a value: writing what an unlisted key reads as removes the entry. -/
def Tbl.set [DecidableEq α] (d : Nat → α) (t : Tbl α) (i : Nat) (v : α) : Tbl α :=
  if v = d i then Tbl.del t i else Tbl.ins t i v

/-- The canonical form: keys strictly rising, and no entry that equals its default. -/
def Tbl.wf [DecidableEq α] (d : Nat → α) : Tbl α → Bool
  | [] => true
  | [e] => decide (e.2 ≠ d e.1)
  | e :: f :: t => decide (e.1 < f.1) && decide (e.2 ≠ d e.1) && Tbl.wf d (f :: t)

end Sys2Proof.Machine
end

