-- ==== Sys2Proof/Machine/RegMap.lean ====
section
/-! DEFINITION. Where the registers lie and what they read at reset.  A register has the key of its PF0 BAR0 offset (R32); the doorbell pages, the PF1 interrupt page and the control spaces of the cores have keys above 2^24. -/

namespace Sys2Proof.Machine

/-- Unit pages (R32). -/
def kGLB : Nat := 0x000000
def kFOY : Nat := 0x010000
def kBEL : Nat := 0x020000
def kCHM : Nat := 0x030000
def kCEL : Nat := 0x040000
def kPAN : Nat := 0x050000
def kHAL : Nat := 0x060000
def kTMB : Nat := 0x070000
def kPSQ : Nat := 0x080000
def kDWT : Nat := 0x090000
def kRCT : Nat := 0x0A0000
def kMUS : Nat := 0x0B0000
def kNIO : Nat := 0x0C0000
def kATT : Nat := 0x0D0000
def kDPL : Nat := 0x0E0000
/-- The page of head h (R32). -/
def kHD (h : Nat) : Nat := 0x100000 + h * 0x10000
/-- The doorbell page of ring n (R50); ring 18 stands for the PF1 interrupt page, which follows it in PF1 BAR0. -/
def kDB (n : Nat) : Nat := 0x1000000 + n * 0x1000
/-- The PF1 interrupt page (R442). -/
def kPF1 : Nat := kDB 18
/-- The control space of core n (R404). -/
def kCCS (n : Nat) : Nat := 0x2000000 + n * 0x100

/-- Reset values of the GLB page (R39, R434), presence bits of R3 and R4 for the FL3280 (R1). -/
def glbReset (o : Nat) : Word :=
  if o = 0x0000 then 0x3280B046
  else if o = 0x0018 then 0xFFF
  else if o = 0x0100 then 0x0003FFFF
  else if o = 0x0104 then 0xEF
  else if o = 0x0164 then 0xEF
  else if 0x4000 ≤ o ∧ o < 0x5000 then
    (let i := (o - 0x4000) / 4
     if i = 0 then 0 else if i ≤ 16 then 0x1008 else if i ≤ 18 then 0x1108 else 0x1F00)
  else if 0x8000 ≤ o ∧ o < 0x8400 ∧ o % 16 = 12 then 1
  else 0

/-- Reset values of a head page (R145, R215, R236). -/
def headReset (o : Nat) : Word :=
  if 0x0400 ≤ o ∧ o < 0x0600 ∧ (o % 0x40 = 0x20 ∨ o % 0x40 = 0x24) then 0x3FFF0000
  else if 0x0600 ≤ o ∧ o < 0x0680 ∧ (o % 0x40 = 0x1C ∨ o % 0x40 = 0x20) then 0x3FFF0000
  else if 0x0680 ≤ o ∧ o < 0x06C0 ∧ (o % 0x20 = 0x00 ∨ o % 0x20 = 0x0C) then 0x00010000
  else if 0x0680 ≤ o ∧ o < 0x06C0 ∧ o % 0x20 = 0x18 then 0x3FFF0000
  else if o = 0x0A00 then 0x7FF
  else if o = 0x0A10 then 0x08531E30
  else if o = 0x0A14 then 0x1F200443
  else if o = 0x0A18 then 0x12A5B1AE
  else if o = 0x0A1C then 0x3FFAD268
  else if 0x0A40 ≤ o ∧ o < 0x0A6C then 0xFF
  else if o = 0x0B10 then 0x3FF00000
  else 0

/-- Reset values of the PSQ page (R467). -/
def psqReset (o : Nat) : Word :=
  if o < 0xC000 then
    (let r := o % 0x3000
     if r < 0x2000 then 0xC0000000
     else if r < 0x2800 ∧ r % 0x40 = 0x08 then 0x40
     else if 0x2800 ≤ r ∧ r < 0x2840 then
       wd (leNat (List.ofFn fun j : Fin 4 => BitVec.ofNat 8 (0x80 + ((r - 0x2800) + j) % 32)))
     else 0)
  else 0

/-- What a register reads at reset. -/
def regReset (k : Nat) : Word :=
  if k < 0x10000 then glbReset k
  else if 0x100000 ≤ k ∧ k < 0x300000 then
    (let o := k % 0x10000
     if 0x1000 ≤ o ∧ o < 0x2000 then headReset (o - 0x1000) else headReset o)
  else if k < 0x100000 then
    (let o := k % 0x10000
     match k / 0x10000 with
     | 0x01 => if (0x104 ≤ o ∧ o < 0x194 ∨ 0x204 ≤ o ∧ o < 0x294) ∧ o % 8 = 4 then 0xFFFFFFFF else 0
     | 0x03 => if o = 0x40 then 0x02EE0000 else if o = 0x100 then 0x0352028A else if o = 0x104 then 0x00200010
               else if 0x110 ≤ o ∧ o < 0x130 then 0x1010 else if 0x400 ≤ o ∧ o < 0x480 then 0xFFFFF else 0
     | 0x06 => if o = 0x304 then 0x100 else 0
     | 0x08 => psqReset o
     | 0x0B => if o = 0x0000 then 0x80000001 else if o = 0x0014 then 0x2FD40000 else 0
     | 0x0C => if o = 0x0800 then 0xF else 0
     | 0x0D => if o = 0x0004 then 0x00B00001 else if o = 0x24 ∨ o = 0x28 then 0xFFFFFFFF else 0
     | 0x0E => if o = 0xE000 then 0xFFFFFFFF else if o < 0x100 ∧ o % 0x40 = 0x20 then 0x80000000 else 0
     | _ => 0)
  else if 0x1000000 ≤ k ∧ k < 0x1012000 then
    (let o := k % 0x1000
     if o = 0x30 ∨ o = 0x34 ∨ o = 0x38 ∨ o = 0x3C then 0xFFFFFFFF else 0)
  else if 0x1012800 ≤ k ∧ k < 0x1012880 ∧ k % 16 = 12 then 1
  else if 0x2000000 ≤ k ∧ k < 0x2001000 ∧ k % 0x100 = 0 then wd ((k - 0x2000000) / 0x100)
  else 0

/-- What a 64-bit quantity holds at reset: `FOY_ACCEPTED` and `FOY_COMPLETED` hold all ones (R51), the others 0. -/
def wideReset (k : Nat) : DWord :=
  if 0x1000000 ≤ k ∧ k < 0x1012000 ∧ (k % 0x1000 = 0x30 ∨ k % 0x1000 = 0x38) then 0xFFFFFFFFFFFFFFFF else 0

end Sys2Proof.Machine
end

