-- ==== Sys2Proof/Machine/State.lean ====
section
/-! DEFINITION. The state of the FL3280 as plain data.  Every register of the spec's register maps lives in `regs` (or, for a 64-bit quantity with a LO and a HI half, in `wide`) under its own address; what the spec gives the units beyond registers has a record of its own. -/

namespace Sys2Proof.Machine

/-- Why a step could stop with a fault.  No command of the FL3280 stops the block: every failure the spec names is an effect on the state (R521, R527). -/
inductive Fault where
  deriving DecidableEq, Repr

/-- Why a command could be refused by the model. -/
inductive Refusal where
  /-- The command has no meaning in this model yet; raised by an arm of `exec` only.  Safe: it stops the run. -/
  | notModelled (mnemonic : String)
  deriving DecidableEq, Repr

/-- The status codes of R69. -/
inductive Status where
  | ok | okEmpty | duplicate | badOpcode | badLength | badParam | unitExpert | featureOff | noResource | notReady
  | align | overlapConv | configMismatch | beamTarget | uncorr | stopped | ifetchUncorr | authFail | sealed | rollback
  | linkDown | genlockRange | repIllegal | internal
  deriving DecidableEq, Repr

/-- The opcodes of R65; `unknown` is any other value. -/
inductive Op where
  | nop | fence | featuresGet | featuresSet | expertEnter | expertLeave | memRegionSet | memCopy | memFill | assetLoad
  | assetUnseal | errlogRead | headTiming | headEnable | headDisable | headCommit | planeSet | spriteTable | beamListSet
  | composeSet | lutLoad | canvasSet | routeSet | crcRectSet | writebackSet | mantelSet | rectFill | rectCopy | rectConvert
  | dmaChainStart | dmaStop | voiceStart | voiceStop | voiceParam | mixGraphLoad | mixParamSet | mixCommit | audioPortSet
  | timerCompareArm | timerCaptureSet | pinseqLoad | pinseqStart | pinseqStop | nioftLoad | nioftStart | nioftStop
  | attestQuote | bootlogRead | receiptConfig | receiptRead | unitReset | powerState | telemetryConfig | clockPolicy
  | unknown (code : BitVec 16)
  deriving DecidableEq, Repr

/-- What the completion entry of a command carries (R60). -/
structure Reply where
  status : Status
  detail : Nat
  res0 : Word
  res1 : Word
  res2 : Word
  deriving DecidableEq, Repr

/-- What a begun command still waits for before its work is finished (R63). -/
inductive Wait where
  /-- Not waiting. -/
  | none
  /-- A fence: every command accepted before it on the rings of the mask (R68). -/
  | fence (mask : Word)
  /-- The swaps of named heads: those still awaited, those that have swapped, those refused, and whether one of them was late (R65, R108, R113). -/
  | swap (left swapped refused : Word) (late : Bool)
  /-- The start of a head, for its restart boundary's swap (R15). -/
  | start (head : Nat)
  /-- A frame boundary of a head (R15). -/
  | bnd (head : Nat)
  /-- A route change of a port (R246). -/
  | route (port : Nat)
  /-- The genlock form of `ROUTE_SET` taking effect (R119). -/
  | genlockOut (head : Nat)
  /-- The next sample boundary of the Music Room. -/
  | smp
  /-- A zero fill of a Cellar region (R291). -/
  | fill (region : Nat)
  /-- A `MEM_COPY` or `MEM_FILL` (R552). -/
  | memOp
  /-- An `ASSET_LOAD` into a region (R301). -/
  | load (region : Nat)
  /-- Begins once the region is no longer LOADING (R298, R300). -/
  | region (region : Nat)
  /-- An operation of a rect engine (R339). -/
  | rect (engine : Nat)
  /-- The start of a DMA channel (R356). -/
  | dmaRun (channel : Nat)
  /-- The halt of a DMA channel (R357). -/
  | dmaHalt (channel : Nat)
  /-- The load of a Parlour core (R426). -/
  | nioftLoad (core : Nat)
  /-- The halt of a Parlour core (R428). -/
  | nioftHalt (core : Nat)
  /-- The start of pin sequencer channels (R465). -/
  | pinStart (engine : Nat) (mask : Word)
  /-- The stop of pin sequencer channels (R465). -/
  | pinStop (engine : Nat) (mask : Word)
  /-- The Mantel swap of a head, after its admission (R229). -/
  | mantel (head : Nat)
  /-- `EXPERT_ENTER`: the acceptance numbers of the commands that had begun on the unit, and for an enabled head whether its next swap has passed (R46). -/
  | expert (unit : Nat) (swapped : Bool) (begun : List Nat)
  /-- A compare channel that has been armed (R447). -/
  | timer (channel : Nat)
  /-- A power state reached (R507). -/
  | power (state : Nat)
  deriving DecidableEq, Repr

/-- STATE of a journal entry (R79). -/
inductive JState where
  | free | accepted | started | staged | complete
  deriving DecidableEq, Repr

/-- A journal entry (R79). -/
structure JEntry where
  state : JState
  /-- HDR, packet word 0 as received. -/
  hdr : Word
  seq : DWord
  tag : Word
  ring : Nat
  slot : Nat
  replayed : Bool
  mirror : Bool
  sqend : Word
  cqidx : Word
  reply : Reply
  ctime : Word
  atime : Word
  feat : Word
  epoch : Nat
  deriving DecidableEq, Repr

/-- A command that is accepted and not completed. -/
structure Open where
  /-- Its place among all acceptances, device-wide (R80, R85). -/
  acc : Nat
  /-- Its journal entry. -/
  idx : Nat
  pkt : Packet
  op : Op
  /-- FEAT, word 0 of the active set at its acceptance (R75, R79). -/
  feat : Word
  /-- Executed by a replay (R85). -/
  replay : Bool
  begun : Bool
  wait : Wait
  /-- Its finished reply, which waits for the commit points of its predecessors (R67). -/
  fin : Option Reply
  /-- TIME of its completion, for a command whose commit point is a swap cycle that has passed (R63); none takes the time of its completion. -/
  ftime : Option Word
  /-- Resubmissions that wait for its completion: tag and IRQ flag (R90). -/
  dups : List (Word × Bool)
  deriving DecidableEq, Repr

/-- A completion entry (R60) with the IRQ flag of the packet it answers (R62). -/
structure CEntry where
  ring : Nat
  seq : DWord
  tag : Word
  reply : Reply
  time : Word
  irq : Bool
  /-- The journal entry whose CQIDX it gives, for the completion of a command. -/
  idx : Option Nat
  deriving DecidableEq, Repr

/-- An error record (R521). -/
structure ErrRec where
  sev : Nat
  lost : Bool
  unit : Nat
  event : Nat
  detail : Nat
  status : Status
  seq : DWord
  time : DWord
  arg0 : Word
  arg1 : Word
  deriving DecidableEq, Repr

/-- One interrupt source on the Bell board (R432). -/
structure Src where
  pend : Bool
  act : Bool
  inp : Bool
  deriving DecidableEq, Repr

/-- The stored code of one codeword: good, correctable at a position, or uncorrectable (R294, R295, R297). -/
inductive Code where
  | good
  | corr (pos : Nat)
  | uncorr
  deriving DecidableEq, Repr

/-- The Foyer's own memory (R59, R78, R90). -/
structure Foyer where
  /-- Commands accepted and not completed, in the order of acceptance. -/
  opens : List Open
  /-- The journal as the Foyer last wrote it, by entry index; the copies in memory are what a recovery reads (R84, R87). -/
  journal : Tbl (Option JEntry)
  /-- Acceptances since the cold boot. -/
  accCount : Nat
  /-- Completion entries held for a full completion ring (R62), oldest first. -/
  held : List CEntry
  /-- Per ring, the sequence number up to which packets fetched again after a recovery are passed over (R87 step 4). -/
  pass : Tbl (Option DWord)
  /-- Rings whose bases a Function Level Reset has cleared and that have not been enabled since (R56, R90). -/
  gone : List Nat
  /-- Place of the fixed round over the rings at which the next visit begins: 0 for SR16, 1 for SR17, 2 + n for SRn (R58). -/
  round : Nat
  deriving DecidableEq, Repr

/-- The error ring (R523): 4,096 slots, the intake queue used while no record can be written, and LOST for the next record. -/
structure ErrRing where
  slots : Tbl (Option ErrRec)
  intake : List ErrRec
  lost : Bool
  deriving DecidableEq, Repr

/-- A mask register as delivery saw it before the last write (R440). -/
structure OldMask where
  k : Nat
  old : Word
  time : DWord
  deriving DecidableEq, Repr

/-- An MSI-X message sent (R442). -/
structure Msix where
  fn : Nat
  vector : Nat
  addr : DWord
  data : Word
  deriving DecidableEq, Repr

/-- The Bell board beyond its registers. -/
structure Bell where
  srcs : Tbl Src
  /-- The plan in force, after the target check of R433; unlisted sources follow the reset plan. -/
  plan : Tbl Word
  oldMasks : List OldMask
  /-- `TMB_NOW` at the start of each group's hold-off timer (R441). -/
  starts : Tbl DWord
  /-- MSI-X enable and function mask of PF0 and PF1, and D3hot, as the PCI Express configuration space holds them, 0 at reset (DESIGN CHOICE, log 86). -/
  msixEn : Bool × Bool
  msixMask : Bool × Bool
  d3hot : Bool × Bool
  /-- Messages sent, newest first. -/
  sent : List Msix
  deriving DecidableEq, Repr

/-- Where a head is in its frame (R10, R15, R102, R112). -/
inductive HeadPhase where
  /-- Disabled, or enabled with its PLL not locked yet. -/
  | stopped
  /-- Between a swap and the next boundary cycle. -/
  | frame
  /-- Between the boundary cycle and the swap cycle. -/
  | boundary
  /-- Halted at (0, VACT) after its own swap, until its canvas's next boundary (R112). -/
  | joining
  /-- Halted at (0, VACT) for a coarse genlock alignment (R114). -/
  | aligning
  deriving DecidableEq, Repr

/-- What a layer has read one line ahead (R124): the line, the scroll it was read under, the bytes, and the byte ranges that failed, by first byte and length (R219). -/
structure LineBuf where
  y : Nat
  sx : Nat
  sy : Nat
  data : List Byte
  bad : List (Nat × Nat)
  deriving DecidableEq, Repr

/-- What a tile plane has fetched for one position (R124, R127): the plane pixel it lies at, its column-table offset, its map entry and its pattern value. -/
structure TileData where
  /-- None where the plane has no pixel (R139, R141). -/
  co : Option (Nat × Nat)
  cdy : Int
  entry : Word
  /-- None for a pattern beyond its region (R129). -/
  val : Option Nat
  /-- A read failed (R154). -/
  failed : Bool
  deriving DecidableEq, Repr

/-- A sprite pixel in a line buffer (R161, R163): its palette entry and the sprite's ALPHA; bad when its data failed (R177). -/
structure SpPx where
  pal : Nat
  alpha : Nat
  bad : Bool
  deriving DecidableEq, Repr

/-- The sprite plane of a head beyond its registers (R155, R156, R167). -/
structure SpSt where
  /-- The table as it stood when its load began, and as it was loaded. -/
  snap : List Byte
  tab : List Byte
  loading : Bool
  failed : Bool
  /-- Pixel clocks from the boundary cycle at which the load is complete. -/
  loadAt : Nat
  /-- Line buffers, newest first: line, and pixels by 8,192 × class + x. -/
  lines : List (Nat × Tbl (Option SpPx))
  drop : Nat
  first : Nat
  clk : Nat
  cnt : Nat
  deriving DecidableEq, Repr

def spInit : SpSt := ⟨[], [], false, false, 0, [], 0, 0, 0, 0⟩

/-- What a beam program has scheduled at an anchor (R188 to R197). -/
inductive BsEv where
  /-- Writes to targets by head-page offset; exact when all of them land on the anchor itself. -/
  | write (ts : List (Nat × Word)) (exact : Bool)
  | irq (code : Nat)
  | stamp (code : Nat)
  deriving DecidableEq, Repr

/-- A scheduled event: its anchor, in pixel clocks from the boundary cycle and as a position. -/
structure BsPend where
  at' : Nat
  x : Nat
  y : Nat
  ev : BsEv
  deriving DecidableEq, Repr

/-- What holds a running beam program (R181, R184, R198). -/
inductive BsHold where
  | none
  /-- Until the fetch position is this many pixel clocks from the boundary cycle. -/
  | until_ (at' : Nat)
  /-- A wait that is never met. -/
  | never
  /-- A FENCE, until this composer clock. -/
  | fence (clk : Nat)
  /-- The accesses of the fetch line are used up. -/
  | starve
  deriving DecidableEq, Repr

/-- A stamp (R197). -/
structure Stamp where
  time : DWord
  x : Nat
  y : Nat
  code : Nat
  deriving DecidableEq, Repr

/-- The beam sequencer of a head beyond its registers (R178 to R198). -/
structure BsSt where
  /-- Index of the entry executing or holding; one past the last entry it may be 32,768, which the 15 bits of `HD_BSSTAT.PC` do not show (R178). -/
  pc : Nat
  /-- Where the clocks of this frame are counted from (R102, R188): a composer clock, the place of the beam in it, and the part of a pixel clock that had passed, in 600,000,000ths. -/
  oc : Nat
  op : Nat
  fr : Nat
  /-- Composer clock, from the boundary cycle, in which the next entry executes. -/
  clk : Nat
  hold : BsHold
  /-- The trigger position: its place, and the composer clock in which it was fixed. -/
  tIdx : Nat
  tx : Nat
  ty : Nat
  tClk : Nat
  lc0 : Nat
  lc1 : Nat
  /-- Scheduled events, in execution order, and the last anchor of the frame. -/
  pend : List BsPend
  lastAt : Nat
  /-- Registers whose output value differs from what was last written into them. -/
  view : Tbl (Option Word)
  /-- The 64-byte lines of the list held, newest first: all ones for a refused one, none for a poisoned one. -/
  bufs : List (Nat × Option (List Byte))
  /-- Accesses made in the present fetch line. -/
  acc : Nat
  stamps : List Stamp
  deriving DecidableEq, Repr

def bsInit : BsSt :=
  { pc := 0, oc := 0, op := 0, fr := 0, clk := 0, hold := .none, tIdx := 0, tx := 0, ty := 0, tClk := 0, lc0 := 0, lc1 := 0, pend := [], lastAt := 0, view := [],
    bufs := [], acc := 0, stamps := [] }

/-- A Mantel set that waits for its swap (R229 to R231): the words of its form, whether it is signed, and the command. -/
structure MtPend where
  acc : Nat
  en : Bool
  signed : Bool
  /-- P1 to P43 of a full form; none for a form that keeps the set. -/
  block : Option (List Word)
  /-- P44 to P107, the glyph codes; none for the disable form. -/
  glyphs : Option (List Word)
  bank : Nat
  deriving DecidableEq, Repr

/-- The Mantel of a head beyond its registers (R222 to R236). -/
structure MtSt where
  /-- The store: byte 131,072 × bank + offset. -/
  store : Tbl Byte
  /-- The SECDED codes of the store, by 32-bit word of the two banks (R222). -/
  codes : Tbl Code
  /-- P1 to P43 of the committed set as admitted. -/
  block : List Word
  pend : Option MtPend
  /-- Line buffers, newest first: the Mantel values of a line of the rectangle, none where the store failed (R232). -/
  lines : List (Nat × List (Option Nat))
  /-- No frame has been shown since the last Mantel swap (R275). -/
  shown : Bool
  /-- Line of the first fault of this frame. -/
  fline : Nat
  deriving DecidableEq, Repr

def mtInit : MtSt := ⟨[], [], [], none, [], false, 0⟩

/-- Integrity of a head beyond its registers (R265 to R278). -/
structure IgSt where
  /-- Running CRCs: rectangles 0 to 15, 16 the masked and 17 the full Mantel CRC. -/
  crcs : Tbl Word
  /-- INTEGRITY has been raised in this frame; a switch-off or Mantel fault of this frame has raised SHUTTER. -/
  raised : Bool
  /-- SHA-512 of the previous receipt; the next receipt starts a chain; receipts were lost before it. -/
  prev : List Byte
  start : Bool
  gap : Bool
  /-- Receipts handed over and not yet taken by the Study. -/
  queue : List (List Byte)
  deriving DecidableEq, Repr

def igInit : IgSt := ⟨[], false, [], true, false, []⟩

/-- Writeback of a head beyond its registers (R239): the bytes of the line being output, the first dropped line, and whether the memory took a line back. -/
structure WbSt where
  line : List Byte
  drop : Option Nat
  bad : Bool
  deriving DecidableEq, Repr

def wbInit : WbSt := ⟨[], none, false⟩

/-- A head beyond its registers. -/
structure Head where
  /-- Line buffers by layer ID (R124), the newest first. -/
  bufs : List (Nat × LineBuf)
  /-- Line-table entries by layer ID and line, none for one whose read failed (R134, R140). -/
  ltabs : List (Nat × Nat × Option (List Byte))
  /-- What the tile planes have fetched, by layer ID and place of the position in the frame (R124). -/
  fetched : List (Nat × Nat × TileData)
  /-- The palette: shadow, committed and active copies (R131). -/
  palS : Tbl Word
  palC : Tbl Word
  palA : Tbl Word
  /-- LUT banks, shadow and committed copies: entry 16,384 × (2 × table + bank) + e, with table 0 pre-blend and 1 post-blend (R213). -/
  lutS : Tbl Word
  lutC : Tbl Word
  sp : SpSt
  bs : BsSt
  mt : MtSt
  ig : IgSt
  wb : WbSt
  /-- Codewords whose corrected error this line has already counted. -/
  seen : List Nat
  /-- Counts as enabled: from the commit of `HEAD_ENABLE` to its stop (R46, R101). -/
  enabled : Bool
  phase : HeadPhase
  /-- `TMB_NOW` of the last boundary cycle, which `HD_FBTIME` takes in the swap cycle (R10, R16). -/
  fbt : DWord
  /-- Output position (R8). -/
  x : Nat
  y : Nat
  /-- `HEAD_DISABLE` waits for the next boundary (R15). -/
  disabling : Bool
  /-- The next boundary is the first after `HEAD_ENABLE` or a restart, whose set was checked when it was committed (R15, R88). -/
  starting : Bool
  /-- A restart after recovery: the frame number to set at the restart boundary (R88). -/
  restart : Option DWord
  /-- A late compatibility commit has passed one swap (R108). -/
  latePassed : Bool
  /-- The pending commit is late, for the reply's DETAIL bit 0 (R108). -/
  isLate : Bool
  /-- What happened in the pixel clock advanced last: tags of `HeadCore`. -/
  did : List Nat
  /-- The pixel that left the composer last, 10 bits per component (R205 step 8). -/
  out : Word
  /-- Consecutive boundaries within 2 pixel clocks, and with the demand outside the window (R115). -/
  glNear : Nat
  glOut : Nat
  /-- The one coarse alignment of this activation has been made (R114). -/
  glAligned : Bool
  /-- Pull window in parts per billion, and one waiting for the next boundary (R116). -/
  pullLo : Int
  pullHi : Int
  pullNew : Option (Int × Int)
  /-- The demand of the pull loop at the last boundary (R115, R116). -/
  glDemand : Int
  deriving DecidableEq, Repr

/-- The head of an untouched page: disabled, with the pull window of R116. -/
def headInit : Head :=
  { bufs := [], ltabs := [], fetched := [], palS := [], palC := [], palA := [], lutS := [], lutC := [], sp := spInit, bs := bsInit, mt := mtInit, ig := igInit,
    wb := wbInit, seen := [], enabled := false, phase := .stopped, fbt := 0, x := 0, y := 0, disabling := false, starting := false, restart := none,
    latePassed := false, isLate := false, did := [], out := 0, glNear := 0, glOut := 0, glAligned := false,
    pullLo := -100000, pullHi := 100000, pullNew := none, glDemand := 0 }

/-- Where the device stands between power-off and running firmware (R40, R474, R499, R510, R518). -/
inductive Phase where
  /-- No `PWR_OK`. -/
  | off
  /-- Booted or warm-reset, firmware not yet announced by READY. -/
  | boot
  /-- READY. -/
  | run
  /-- Junction trip. -/
  | trip
  deriving DecidableEq, Repr

/-! ## Records of the units beyond their registers -/

/-- A Dumbwaiter channel (R342 to R354). -/
structure DwtCh where
  /-- The eight words of the current descriptor; none while no descriptor is current. -/
  desc : List Word
  /-- Address of the descriptor that is to be fetched next. -/
  fetch : Option Nat
  /-- The gap after a burst is being counted (R348). -/
  gap : Bool
  /-- Address of the descriptor that would have been fetched at the halt, for the reply of `DMA_STOP` (R357). -/
  after : Nat
  deriving DecidableEq, Repr

/-- A channel nothing has started. -/
def dwtInit : DwtCh := ⟨[], none, false, 0⟩

/-- One capture (R451). -/
structure Cap where
  time : DWord
  frame : DWord
  x : Nat
  y : Nat
  beamv : Bool
  deriving DecidableEq, Repr

/-- A capture channel: its FIFO, oldest first, and its prescaler count (R450 to R452). -/
structure CapCh where
  fifo : List Cap
  pre : Nat
  deriving DecidableEq, Repr

def capInit : CapCh := ⟨[], 0⟩

/-- A latched pin sequencer instruction: its word, its bits or steps left, and whether the event it awaits has arrived since its first execution (R457, R458). -/
structure PsqLat where
  w : Word
  left : Nat
  ev : Bool
  deriving DecidableEq, Repr

/-- A pin sequencer channel (R456 to R465); what its registers show is held there. -/
structure PsqCh where
  fq : List Word
  sq : List Word
  /-- A start, or a stop, is due at the channel's next slot. -/
  starting : Bool
  stopping : Bool
  /-- The configuration sampled last, as `PSQ_CCFG0` and `PSQ_CCFG1` (R464). -/
  cfg0 : Word
  cfg1 : Word
  /-- A configuration form waits for the channel's next slot. -/
  cfgNew : Bool
  /-- Injected instructions that wait for a slot, with RESUME, oldest first (R460). -/
  inj : List (Word × Bool)
  /-- The latch, and an injected instruction latched ahead of it. -/
  latch : Option PsqLat
  ahead : Option PsqLat
  /-- Level of the channel's request line (R459). -/
  line : Bool
  deriving DecidableEq, Repr

def psqInit : PsqCh := ⟨[], [], false, false, 0, 0x40, false, [], none, none, false⟩

/-- A voice beyond its registers (R363 to R375). -/
structure Voice where
  /-- P1 to P11 of an arm that waits for its start. -/
  arm : Option (List Word)
  /-- `TMB_NOW` of the latched start event. -/
  event : Option DWord
  /-- P3 to P11 of the block that plays. -/
  blk : List Word
  /-- Position with 16 fraction bits, or the phase of a tone voice. -/
  p : Nat
  passes : Nat
  lfsr : Nat
  /-- Samples produced by a tone voice; source bytes consumed by a sample voice. -/
  count : Nat
  /-- Gains now, where the ramp began, where it ends, its length and its place (R373). -/
  gl : Int
  gr : Int
  gl0 : Int
  gr0 : Int
  gl1 : Int
  gr1 : Int
  rampN : Nat
  rampK : Nat
  /-- Changes due at the next boundary: P1 to P6 of `VOICE_PARAM`, with the acceptance number of the command if one made it. -/
  changes : List (Option Nat × List Word)
  /-- A stop is due at the next boundary; a ramped stop has this many samples left. -/
  stopNow : Bool
  stopRamp : Option Nat
  /-- The acceptance numbers of the `VOICE_STOP` commands that wait for the stop (R374). -/
  stopAccs : List Nat
  /-- A start or a stop by `MUS_VGO` is due at the next boundary (R396). -/
  vgo : Bool
  /-- The record of a refused read has been written since the start (R366). -/
  badTold : Bool
  /-- The prefetch buffer of a voice in the Cellar: 64-byte lines ahead of the position, in the order they are played, with their bytes (none where the read failed), and the line played last (R366). -/
  buf : List (Nat × Option (List Byte))
  back : Option (Nat × Option (List Byte))
  deriving DecidableEq, Repr

def voiceInit : Voice :=
  { arm := none, event := none, blk := [], p := 0, passes := 0, lfsr := 0, count := 0, gl := 0, gr := 0, gl0 := 0, gr0 := 0,
    gl1 := 0, gr1 := 0, rampN := 0, rampK := 0, changes := [], stopNow := false, stopRamp := none, stopAccs := [], vgo := false,
    badTold := false, buf := [], back := none }

/-- A program of the mix engine: the four words of its header and the sixteen words of each record (R376, R377). -/
structure MixBank where
  hdr : List Word
  recs : List (List Word)
  deriving DecidableEq, Repr

/-- The empty program (R383); its header reads 0 (R397). -/
def mixEmpty : MixBank := ⟨[0, 0, 0, 0], []⟩

/-- The state of one node of the running program (R378, R379, R387). -/
structure NodeSt where
  node : Nat
  typ : Nat
  ch : Nat
  /-- Filter history, or the content of the delay line, newest first. -/
  hist : List Int
  /-- The scale: the value its ramp began at and ends at, with 24 fraction bits, and steps taken. -/
  sc0 : Int
  sc1 : Int
  scK : Nat
  /-- Samples for which a DELAY node stays active. -/
  hang : Nat
  deriving DecidableEq, Repr

/-- The Music Room beyond its registers (R360 to R396). -/
structure Music where
  voices : Tbl Voice
  active : MixBank
  staged : MixBank
  nodes : List NodeSt
  /-- The program that fades out, its node states, and the samples left of the crossfade (R388). -/
  fading : Option (MixBank × List NodeSt)
  fadeLeft : Nat
  /-- Bus sums of the last period, by node and channel. -/
  bus : Tbl Int
  /-- What the graph and the direct path gave to the port slots in the last periods, newest first (R362). -/
  mixed : List (Tbl Int)
  direct : List (Tbl Int)
  /-- The samples of the port frame on the wire. -/
  wire : Tbl Int
  /-- Samples of the frames received on TDMI0 and TDMI1, newest first. -/
  tdmIn : List (List Int × List Int)
  /-- Port formats and clock due at the next boundary: 0 to 9 for a TDM port, 32 + p for a display port. -/
  portNew : List (Nat × Word)
  clockNew : Option Word
  commitReq : Bool
  /-- Acceptance numbers of the commands whose commit point is the next boundary. -/
  portAccs : List Nat
  commitAccs : List Nat
  /-- Frames since the last request pulse, and matching frames of a slave port, by port. -/
  rq : Tbl Nat
  lockRun : Tbl Nat
  deriving DecidableEq, Repr

def musicInit : Music :=
  { voices := [], active := mixEmpty, staged := mixEmpty, nodes := [], fading := none, fadeLeft := 0, bus := [], mixed := [],
    direct := [], wire := [], tdmIn := [], portNew := [], clockNew := none, commitReq := false, portAccs := [], commitAccs := [], rq := [], lockRun := [] }

/-- A rect operation that runs (R324 to R335), as sampled when it began. -/
structure RectOp where
  /-- The command, by acceptance number; none for a GO under expert control. -/
  acc : Option Nat
  op : Nat
  dfmt : Nat
  sfmt : Nat
  keyen : Bool
  dst : Nat
  dpitch : Nat
  src : Nat
  spitch : Nat
  w : Nat
  h : Nat
  value : Nat
  key : Nat
  wm : Nat
  /-- Source and destination overlap, and the order chosen (R329, R330). -/
  overlap : Bool
  revRow : Bool
  revCol : Bool
  /-- Rows issued whole, and lines issued of the next row. -/
  row : Nat
  line : Nat
  /-- The source bytes of the row in progress, read before any of its writes, when the spans overlap. -/
  buf : List Byte
  /-- The dead-time after a burst is being counted. -/
  gap : Bool
  deriving DecidableEq, Repr

/-- A rect engine: the commands queued for it, with their parameter words, and the operation that runs (R339). -/
structure RectEng where
  queue : List (Nat × List Word)
  run : Option RectOp
  /-- The registers as an operation last sampled them (R341). -/
  set : List Word
  deriving DecidableEq, Repr

def rectInit : RectEng := ⟨[], none, []⟩

/-- A measurement entry, with the accumulator before it (R481, R482). -/
structure Meas where
  index : Word
  kind : Nat
  src : Nat
  subject : Word
  extra : Word
  time : DWord
  aux : DWord
  digest : List Byte
  before : List Byte
  deriving DecidableEq, Repr

/-- The fuses (R468, R469, R478). -/
structure Fuses where
  /-- The hash in each programmed customer slot, by number. -/
  slots : Tbl (Option (List Byte))
  /-- The REVOKED fuses, bit k for slot k. -/
  revoked : Nat
  mantel : Option (List Byte)
  /-- The 192 bytes of the identity certificate; empty when none is fused. -/
  cert : List Byte
  svn : Nat
  audAddr : Nat
  audOff : Bool
  deriving DecidableEq, Repr

/-- An erase block of the boot log (R489): 0 erased, 1 open, 2 bad; its slots from slot 1 on, none for a slot that failed its program verification (DESIGN CHOICE, log 34). -/
structure LogBlk where
  state : Nat
  bseq : Nat
  slots : List (Option (List Byte))
  deriving DecidableEq, Repr

/-- The audit port (R494 to R496). -/
structure Audit where
  /-- 0 busy, 1 ready, 2 failed. -/
  state : Nat
  tag : Byte
  status : Status
  detail : Nat
  buf : List Byte
  pos : Nat
  dyn : Option Nat
  deriving DecidableEq, Repr

/-- What the Attic and the Study hold (R468 to R497, R278 to R281). -/
structure Attic where
  fuses : Fuses
  /-- Measurement entries, newest first, at most 4,096. -/
  meas : List Meas
  acc : List Byte
  /-- The boot record of this boot, once cut. -/
  boot : List Byte
  /-- The admitted firmware images by core, from which a core is restarted (R400). -/
  fw : Tbl (List Byte)
  /-- The erase blocks of the flash that hold the boot log, by block number in the flash: the first, and how many there are. -/
  logBase : Nat
  logN : Nat
  log : Tbl LogBlk
  /-- What the boot noted for its INFO records: fuse operation refused. -/
  fuseRefused : Bool
  /-- The open receipt batch: receipts in the order cut, and the time of the first. -/
  batch : List (List Byte)
  batchOpen : DWord
  /-- Region 62 has been allocated since the cold boot (R280). -/
  store : Bool
  aud : Audit
  /-- Firmware cores that stand trapped and wait for their restart (R400). -/
  down : List Nat
  deriving DecidableEq, Repr

def audInit : Audit := ⟨1, 0, .ok, 0, [], 0, none⟩

/-- DESIGN CHOICE, log 5. -/
def fusesInit : Fuses := ⟨[], 0, none, [], 0, 0, false⟩

def atticInit : Attic :=
  { fuses := fusesInit, meas := [], acc := List.replicate 64 0, boot := [], fw := [], logBase := 0, logN := 0, log := [], fuseRefused := false,
    batch := [], batchOpen := 0, store := false, aud := audInit, down := [] }

/-- The Chimney and the power states beyond their registers (R503 to R519). -/
structure Chm where
  /-- The telemetry ring and the SEQ of its next record. -/
  ring : Option (DWord × Nat)
  seq : Nat
  /-- P0 of the `POWER_STATE` command that led to S2. -/
  wake : Word
  /-- A wake pin has acted and the link is not back yet. -/
  waking : Bool
  /-- Corrected errors since the cold boot: Cellar channels 0 to 7, 8 the Pantry, 9 the Larder; uncorrectable errors of every kind. -/
  ce : Tbl Nat
  ue : Nat
  /-- Per channel, times of the corrected errors that no rise of the demand has used, newest first and at most 8, and the start of the running quiet time (R516). -/
  errT : Tbl (List DWord)
  calm : Tbl DWord
  /-- Throttle gap of each subchannel (R317). -/
  gap : Tbl Nat
  /-- Eye margin of port p at its last training (R519). -/
  margin : Tbl Nat
  /-- The core voltage the loop last asked for (R515). -/
  vwant : Nat
  /-- A warm reset has been asserted during a trip, and acts at the release (R518). -/
  resetHeld : Bool
  /-- A `POWER_STATE` for S2 has reached its commit point, and the device is on its way to S2 (R507). -/
  toS2 : Bool
  /-- Ticks of the always-on clock in S2, modulo 64, for the fraction of its period (R446). -/
  aon : Nat
  deriving DecidableEq, Repr

def chmInit : Chm := ⟨none, 0, 0, false, [], 0, [], [], [], [], 750, false, false, 0⟩

/-- What a Nioft core waits for inside the instruction at its PC (R403, R409). -/
inductive CoreHold where
  | none
  /-- A far load whose data has not returned. -/
  | load
  /-- A far store that found 8 stores outstanding. -/
  | store
  /-- A FENCE, for the far stores before it. -/
  | fence
  deriving DecidableEq, Repr

/-- A multiply on its way (R412): the cycle it was issued in, whether it accumulates, and the product. -/
structure CoreMul where
  cyc : Nat
  mac : Bool
  val : DWord
  deriving DecidableEq, Repr

/-- A far store that is not yet visible (R403): core address, device address, size in bytes, value. -/
structure FarStore where
  addr : Nat
  dev : Nat
  size : Nat
  val : Word
  deriving DecidableEq, Repr

/-- A Nioft core beyond its registers of the NIO page and its control space (R399, R405 to R424). -/
structure Core where
  /-- W0 to W15. -/
  w : Tbl Word
  mh : Word
  ml : Word
  xc : Word
  xs : Word
  xd : Word
  /-- N, Z, C and V in bits 3 to 0. -/
  fl : Nat
  vb : Word
  /-- Program memory and the codes of its words; data memory and the codes of its words, by byte address. -/
  prog : Tbl Nat
  pcode : Tbl Code
  data : Tbl Byte
  dcode : Tbl Code
  muls : List CoreMul
  stores : List FarStore
  hold : CoreHold
  /-- Within a repeated string instruction: 1 after the REP, 2 between two elements (R414, R416). -/
  rep : Nat
  /-- Level of the interrupt that is to be entered at this boundary, 0 for none (R419). -/
  due : Nat
  /-- A stop, or the watchdog, acts at the next boundary (R418). -/
  stopReq : Bool
  wdogReq : Bool
  /-- Cycle in which the watchdog count was 0 last (R404). -/
  kick : Nat
  /-- The page grants and the program size in force (R402, R429). -/
  grant : Word
  pwords : Nat
  /-- AUX of its last measurement (R482). -/
  aux : Nat
  deriving DecidableEq, Repr

/-- DESIGN CHOICE, log 21. -/
def coreInit : Core :=
  { w := [], mh := 0, ml := 0, xc := 0, xs := 0, xd := 0, fl := 0, vb := 0, prog := [], pcode := [], data := [], dcode := [],
    muls := [], stores := [], hold := .none, rep := 0, due := 0, stopReq := false, wdogReq := false, kick := 0, grant := 0, pwords := 0, aux := 0 }

/-- A display port beyond its registers (R242 to R273). -/
structure Port where
  /-- P1 of a route that waits to be taken, and the command that named it, if one did. -/
  pend : Option Word
  acc : Option Nat
  /-- It trains for its pending route. -/
  training : Bool
  /-- The stream last sent: the eight counts, f and b; none when it sent none. -/
  sent : Option (List Nat)
  /-- It sends idle pattern until the next swap cycle of its source head, and the stream from there. -/
  starting : Bool
  /-- IRQ_HPDs that wait for the end of the training (R255). -/
  irqHeld : Nat
  /-- `TMB_NOW` when the training began (R253). -/
  tAt : DWord
  /-- Echo in the current frame: mismatches, lanes, line of the first, aligned throughout so far; over the Mantel rectangle 0 not aligned, 1 aligned since its first pixel, 2 aligned to its last. -/
  eMis : Nat
  eLanes : Nat
  eFirst : Nat
  eCov : Bool
  eRect : Nat
  /-- Echo in the current frame: the receiver has compared symbols, and the running CRC of the pixels it has decoded in the Mantel rectangle (R271, R273). -/
  eSeen : Bool
  eCrc : Word
  deriving DecidableEq, Repr

def portInit : Port := ⟨none, none, false, none, false, 0, 0, 0, 0, 0, false, 0, false, 0xFFFFFFFF⟩

/-- Genlock beyond its registers (R117, R118): the last rise of `GENLOCK_OUT`, whether an edge has been seen, and periods in a row with a long active level. -/
structure Gl where
  outAt : Option DWord
  seen : Bool
  long : Nat
  deriving DecidableEq, Repr

def glInit : Gl := ⟨none, false, 0⟩

/-- An input port of the Hallway: the flits that wait in its three buffers; the sender holds a credit for every free place (R310). -/
structure HalPort where
  rsp : Nat
  dl : Nat
  rq : Nat
  deriving DecidableEq, Repr

def halPortInit : HalPort := ⟨0, 0, 0⟩

/-- The tags of a subchannel in use (R311, R312): of the DEADLINE pool, of the journal pool, and of the shared pool by REQUEST and by DEADLINE. -/
structure Tags where
  dl : Nat
  jrn : Nat
  shr : Nat
  dlShr : Nat
  deriving DecidableEq, Repr

def tagsInit : Tags := ⟨0, 0, 0, 0⟩

/-- The Hallway (R310 to R312): its input ports, how many grants in a row the REQUEST flits of an output have waited through, the tags of every subchannel, and the receive slots set aside by every master. -/
structure Hal where
  ports : Tbl HalPort
  waited : Tbl Nat
  tags : Tbl Tags
  slots : Tbl Nat
  deriving DecidableEq, Repr

def halInit : Hal := ⟨[], [], [], []⟩

/-- A state of the IEEE 1149.1 controller (R549, R550). -/
inductive TapState where
  | reset | idle
  | selectDr | captureDr | shiftDr | exit1Dr | pauseDr | exit2Dr | updateDr
  | selectIr | captureIr | shiftIr | exit1Ir | pauseIr | exit2Ir | updateIr
  deriving DecidableEq, Repr

/-- The instructions of the JTAG port (R550). -/
inductive TapInstr where
  | bypass | idcode | extest | sample
  deriving DecidableEq, Repr

/-- The JTAG port (R550): the controller, the instruction in force, the instruction register and the data register as they are shifted, the bit that leaves next first, and the boundary-scan register after its last update. -/
structure Tap where
  st : TapState
  instr : TapInstr
  ir : List Bool
  dr : List Bool
  bound : List Bool
  deriving DecidableEq, Repr

def tapInit : Tap := ⟨.reset, .idcode, [], [], []⟩

/-- The whole machine; what it leaves out of the PCI Express link and the package is said in log 101 (DESIGN CHOICE). -/
structure State where
  phase : Phase
  /-- The register file: PF0 BAR0 offsets, and above 2^24 the doorbell pages and the PF1 interrupt page. -/
  regs : Tbl Word
  /-- The live value of a 64-bit quantity, under the offset of its LO register; the HI register itself is the latch of R35. -/
  wide : Tbl DWord
  /-- The committed set of every head, under the offsets of its shadow registers (R95). -/
  com : Tbl Word
  /-- Device memory: Cellar, Pantry and Larder (R28). -/
  mem : Tbl Byte
  /-- The stored codes of device memory, by the address of the codeword. -/
  codes : Tbl Code
  /-- Host memory as the device has written it. -/
  host : Tbl Byte
  /-- BAR2 writes that have been issued and are not yet visible (R43): address and data, oldest first. -/
  posted : List (Nat × List Byte)
  /-- What the last read command answered: the words, or the bytes of a BAR2 read as words. -/
  readData : List Word
  /-- The last BAR2 read carried poisoned data, EP = 1 (R304). -/
  readPoison : Bool
  foy : Foyer
  err : ErrRing
  bell : Bell
  heads : Tbl Head
  ports : Tbl Port
  gl : Gl
  /-- Dumbwaiter channels. -/
  dwt : Tbl DwtCh
  /-- Capture channels. -/
  caps : Tbl CapCh
  /-- Pin sequencer channels, by 32 × engine + channel, and the slot tables in use, by engine; none for the reset table. -/
  psq : Tbl PsqCh
  slotTab : Tbl (List Word)
  mus : Music
  rect : Tbl RectEng
  /-- Nioft cores N0 to N15. -/
  cores : Tbl Core
  att : Attic
  chm : Chm
  hal : Hal
  tap : Tap
  /-- `TEST_MODE` is held high (R548). -/
  test : Bool
  /-- Nanoseconds since `PWR_OK` fell, while its filter has not passed the fall yet (R548). -/
  pwrLow : Option Nat
  /-- The count that every use of a free value advances; the model's own field, 0 at reset (DESIGN CHOICE, log 56). -/
  free : Nat
  /-- The commands that wait, first in, first out. -/
  pending : List Instr
  deriving DecidableEq, Repr

/-- The machine before power is good: every register at its reset value, every memory and queue empty, nothing booted (R498, R510, R511) (DESIGN CHOICE, log 2). -/
def State.reset : State :=
  { phase := .off, regs := [], wide := [], com := [], mem := [], codes := [], host := [], posted := [], readData := [], readPoison := false,
    foy := ⟨[], [], 0, [], [], [], 0⟩, err := ⟨[], [], false⟩,
    bell := { srcs := [], plan := [], oldMasks := [], starts := [], msixEn := (false, false), msixMask := (false, false), d3hot := (false, false), sent := [] },
    heads := [], ports := [], gl := glInit, dwt := [], caps := [], psq := [], slotTab := [], mus := musicInit, rect := [], cores := [],
    att := atticInit, chm := chmInit, hal := halInit, tap := tapInit, test := false, pwrLow := none, free := 0, pending := [] }

end Sys2Proof.Machine
end

