-- ==== Sys2Proof/Machine/Ops.lean ====
section
/-! DEFINITION. The named operations over registers, the Bell board and the error ring that every unit shares. -/

namespace Sys2Proof.Machine

/-- What a meaning answers. -/
abbrev Out := Host.Outcome State Fault Refusal

/-- A quotient that need not be exact: the value below or the value above it, which the spec leaves open. -/
def rdiv (num : Int) (den : Nat) : Int :=
  if num % den = 0 then num / den else if Config.quotUp den num then num / den + 1 else num / den

/-! ## Registers -/

/-- The stored value of the register at a key. -/
def State.reg (s : State) (k : Nat) : Word := Tbl.get regReset s.regs k

/-- Store a register. -/
def State.setReg (s : State) (k : Nat) (v : Word) : State := { s with regs := Tbl.set regReset s.regs k v }

/-- The live 64-bit value under a LO register. -/
def State.w64 (s : State) (k : Nat) : DWord := Tbl.get wideReset s.wide k

/-- Store a live 64-bit value. -/
def State.setW64 (s : State) (k : Nat) (v : DWord) : State := { s with wide := Tbl.set wideReset s.wide k v }

/-- A field of a register. -/
def State.regF (s : State) (k lo len : Nat) : Nat := fld (s.reg k) lo len

/-- A bit of a register. -/
def State.regB (s : State) (k i : Nat) : Bool := bit (s.reg k) i

/-- Replace a field of a register. -/
def State.setF (s : State) (k lo len v : Nat) : State := s.setReg k (putFld (s.reg k) lo len v)

/-- Replace a bit of a register. -/
def State.setB (s : State) (k i : Nat) (b : Bool) : State := s.setReg k (putBit (s.reg k) i b)

/-- Count in a register that wraps at 2^32. -/
def State.incReg (s : State) (k : Nat) : State := s.setReg k (s.reg k + 1)

/-- A 40-bit address held in a LO and a HI register. -/
def State.addr40 (s : State) (k : Nat) : Nat := (s.reg k).toNat + 2 ^ 32 * fld (s.reg (k + 4)) 0 8

/-- Store a 40-bit address in a LO and a HI register. -/
def State.setAddr40 (s : State) (k a : Nat) : State := (s.setReg k (wd a)).setReg (k + 4) (wd (a / 2 ^ 32 % 256))

/-- `TMB_NOW`. -/
def State.now (s : State) : DWord := s.w64 kTMB

/-- `TMB_NOW` bits [31:0]. -/
def State.now32 (s : State) : Word := lo32 s.now

/-- Apply a state change for every element of a list, in order. -/
def State.each {α : Type} (s : State) (l : List α) (f : State → α → State) : State := l.foldl f s

/-- Feature bit k of the active set (R73). -/
def State.feat (s : State) (k : Nat) : Bool := s.regB (0x160 + 4 * (k / 32)) (k % 32)

/-- `GLB_STATUS.READY`. -/
def State.ready (s : State) : Bool := s.regB 4 0

/-- `GLB_STATUS.PSTATE`. -/
def State.pstate (s : State) : Nat := s.regF 4 4 2

/-- A unit of the table of R45 is under expert control. -/
def State.expert (s : State) (unit : Nat) : Bool :=
  if 0x10 ≤ unit ∧ unit < 0x30 then s.regB 0x14 (unit - 0x10) else if unit < 0x10 then s.regB 0x10 unit else false

/-- A presence bit of R4, bit 32 + j of the feature space. -/
def State.present (s : State) (j : Nat) : Bool := s.regB 0x104 j

/-- Head h and port h are present (R4). -/
def State.headPresent (s : State) (h : Nat) : Bool := s.present (h / 8)

/-! ## Host memory -/

/-- A byte of host memory as the device last wrote it; 0 where it never did (DESIGN CHOICE, log 4). -/
def State.hostByte (s : State) (a : Nat) : Byte := Tbl.get (fun _ => 0) s.host a

/-- The device writes bytes to host memory. -/
def State.hostWrite (s : State) (a : Nat) (bs : List Byte) : State :=
  { s with host := (bs.foldl (fun (p : Tbl Byte × Nat) b => (Tbl.set (fun _ => 0) p.1 p.2 b, p.2 + 1)) (s.host, a)).1 }

/-! ## Bell board (R431 to R442) -/

/-- A source before anything has happened to it. -/
def srcInit : Src := ⟨false, false, false⟩

/-- The state of source i. -/
def State.src (s : State) (i : Nat) : Src := Tbl.get (fun _ => srcInit) s.bell.srcs i

/-- Store the state of source i. -/
def State.setSrc (s : State) (i : Nat) (v : Src) : State :=
  { s with bell := { s.bell with srcs := Tbl.set (fun _ => srcInit) s.bell.srcs i v } }

/-- The level sources of R431; the others are edge sources. -/
def srcLevel (i : Nat) : Bool := i = 23 ∨ (328 ≤ i ∧ i ≤ 487) ∨ (960 ≤ i ∧ i ≤ 1023)

/-- The reserved source IDs of R431, and ID 0. -/
def srcReserved (i : Nat) : Bool :=
  i = 0 ∨ (28 ≤ i ∧ i ≤ 31) ∨ i = 53 ∨ (55 ≤ i ∧ i ≤ 63) ∨ (494 ≤ i ∧ i ≤ 503) ∨ (552 ≤ i ∧ i ≤ 959) ∨ 1024 ≤ i

/-- The reset plan (R433). -/
def planReset (i : Nat) : Word :=
  if i = 0 then 0 else if i ≤ 16 then 0x1008 else if i ≤ 18 then 0x1108 else 0x1F00

/-- The plan entry in force for source i. -/
def State.plan (s : State) (i : Nat) : Word := Tbl.get planReset s.bell.plan i

def State.planPrio (s : State) (i : Nat) : Nat := fld (s.plan i) 0 4
def State.planTarget (s : State) (i : Nat) : Nat := fld (s.plan i) 8 5
def State.planGrp (s : State) (i : Nat) : Nat := fld (s.plan i) 16 6

/-- The mask bit of source i as claims see it (R434). -/
def State.masked (s : State) (i : Nat) : Bool := s.regB (0x5000 + 4 * (i / 32)) (i % 32)

/-- The hold-off timer of group g runs (R441). -/
def State.held (s : State) (g : Nat) : Bool := s.regB (kBEL + 0x2000 + 4 * g) 31

/-- Source i is deliverable to its target (R432). -/
def State.deliverable (s : State) (i : Nat) : Bool :=
  (s.src i).pend && !(s.src i).act && !s.masked i && decide (1 ≤ s.planPrio i) && decide (s.planTarget i ≤ 17)

/-- Source i was unmasked until a mask write that landed less than 16 Hallway cycles (13.3 ns) ago (R440). -/
def State.maskFresh (s : State) (i : Nat) : Bool :=
  s.bell.oldMasks.any fun m => decide (m.k = i / 32) && !bit m.old (i % 32) && decide ((s.now - m.time).toNat < 14)

/-- A delivery of source i is decided now: it is deliverable, or it is masked so lately that the delivery may still be made, which the spec leaves open (R440). -/
def State.delivers (s : State) (i : Nat) : Bool :=
  s.deliverable i ||
    ((s.src i).pend && !(s.src i).act && s.masked i && s.maskFresh i && Config.maskRace s.free &&
      decide (1 ≤ s.planPrio i) && decide (s.planTarget i ≤ 17))

/-- The first key of the MSI-X table of PF0 (0) or PF1 (1) (R434, R442). -/
def msixTable (fn : Nat) : Nat := if fn = 0 then 0x8000 else kPF1 + 0x800

/-- The first key of the MSI-X pending bits. -/
def msixPba (fn : Nat) : Nat := if fn = 0 then 0x9000 else kPF1 + 0xC00

/-- One of a pair of values held per function. -/
def ofFn (p : Bool × Bool) (fn : Nat) : Bool := if fn = 0 then p.1 else p.2

/-- Send the MSI-X message of a vector, or set its pending bit while it is masked (R442): a message is a posted write of DATA at ADDR. -/
def State.msix (s : State) (fn v : Nat) : State :=
  if !ofFn s.bell.msixEn fn || ofFn s.bell.d3hot fn then s
  else
    let t := msixTable fn + 16 * v
    if ofFn s.bell.msixMask fn || s.regB (t + 12) 0 then s.setB (msixPba fn + 4 * (v / 32)) (v % 32) true
    else
      let a := dw (s.reg t) (s.reg (t + 4))
      let d := s.reg (t + 8)
      let s := s.hostWrite a.toNat (wBytes d)
      { s with bell := { s.bell with sent := ⟨fn, v, a, d⟩ :: s.bell.sent } }

/-- Deliver source i to its PF target (R435); a core sees it as its request level, which is computed where it is read. -/
def State.deliver (s : State) (i : Nat) : State :=
  if s.planTarget i = 16 then s.msix 0 (s.planGrp i)
  else if s.planTarget i = 17 then s.msix 1 (s.planGrp i % 8)
  else s

/-- After a change from `o` to `s`: source i is delivered when it has become deliverable and its group is not held. -/
def State.notify (s o : State) (i : Nat) : State :=
  if !o.deliverable i && s.delivers i && !s.held (s.planGrp i) then { s.deliver i with free := s.free + 1 } else s

/-- A rising edge of an edge source sets PEND (R432). -/
def State.pulse (s : State) (i : Nat) : State :=
  if srcReserved i || srcLevel i then s
  else (s.setSrc i { s.src i with pend := true }).notify s i

/-- The input of a level source takes a level, and PEND follows it (R432). -/
def State.level (s : State) (i : Nat) (b : Bool) : State :=
  if srcReserved i || !srcLevel i then s
  else (s.setSrc i { s.src i with inp := b, pend := b }).notify s i

/-- The request level core n presents: the highest PRIO among the sources deliverable to it whose group is not held (R435). -/
def State.coreLevel (s : State) (n : Nat) : Nat :=
  (s.bell.srcs.map fun e =>
    if s.deliverable e.1 && decide (s.planTarget e.1 = n) && !s.held (s.planGrp e.1) then s.planPrio e.1 else 0).foldl max 0

/-! ## Error records (R521 to R526) -/

/-- The code of a status (R69). -/
def statusCode : Status → Nat
  | .ok => 0 | .okEmpty => 1 | .duplicate => 2 | .badOpcode => 0x10 | .badLength => 0x11 | .badParam => 0x12
  | .unitExpert => 0x13 | .featureOff => 0x14 | .noResource => 0x15 | .notReady => 0x16 | .align => 0x20
  | .overlapConv => 0x21 | .configMismatch => 0x22 | .beamTarget => 0x23 | .uncorr => 0x30 | .stopped => 0x31
  | .ifetchUncorr => 0x32 | .authFail => 0x40 | .sealed => 0x41 | .rollback => 0x42 | .linkDown => 0x50
  | .genlockRange => 0x51 | .repIllegal => 0x60 | .internal => 0xFF

/-- Severities (R521, R522). -/
def sevInfo : Nat := 0
def sevCorrected : Nat := 1
def sevContained : Nat := 2
def sevFatal : Nat := 3

/-- The eight words of an error record (R521). -/
def errWords (r : ErrRec) : List Word :=
  [wd (r.sev * 2 ^ 30 + b2n r.lost * 2 ^ 29 + r.unit % 256 * 2 ^ 16 + r.event % 65536),
   wd (r.detail % 65536 * 65536 + statusCode r.status),
   lo32 r.seq, hi32 r.seq, lo32 r.time, hi32 r.time, r.arg0, r.arg1]

/-- The slot of the error ring that holds record `q` (R523). -/
def errSlot (q : DWord) : Nat := q.toNat % 4096

/-- Keys of the error ring registers (R525); the read marks are held whole under their register's key. -/
def kErrNext : Nat := kFOY + 0x400
def kErrOld : Nat := kFOY + 0x408
def kErrMark (fn : Nat) : Nat := kFOY + 0x410 + 4 * fn
def kErrDrop : Nat := kFOY + 0x418
def kErrOvw : Nat := kFOY + 0x41C
def kErrSev : Nat := kFOY + 0x420

/-- The record held in a slot. -/
def State.errAt (s : State) (q : DWord) : Option ErrRec := Tbl.get (fun _ => none) s.err.slots (errSlot q)

/-- Write a record into the ring: its SEQ, LOST, the counts and the sources 19, 20 and 21 (R523, R525). -/
def State.errWrite (s : State) (r : ErrRec) : State :=
  let q := s.w64 kErrNext
  let ovw := match s.errAt q with
    | none => false
    | some o => decide ((s.w64 (kErrMark 0)).toNat ≤ o.seq.toNat)
  let r := { r with seq := q, lost := s.err.lost }
  let s := { s with err := { s.err with slots := Tbl.set (fun _ => none) s.err.slots (errSlot q) (some r), lost := false } }
  let s := s.setW64 kErrNext (q + 1)
  let s := s.setW64 kErrOld (if 4096 ≤ q.toNat + 1 then q - 4095 else 0)
  let n := s.regF kErrSev (8 * r.sev) 8
  let s := s.setF kErrSev (8 * r.sev) 8 (min 255 (n + 1))
  let s := s.pulse 19
  let s := if r.sev = 3 then (s.setB 4 2 true).pulse 21 else s
  if ovw then (s.incReg kErrOvw).pulse 20 else s

/-- A unit hands a record to the Foyer's intake (R523): in S2, and while the junction is tripped, records wait in the queue of 256. -/
def State.errRec (s : State) (sev unit event detail : Nat) (status : Status) (arg0 arg1 : Word) : State :=
  let r : ErrRec := ⟨sev, false, unit, event, detail, status, 0, s.now, arg0, arg1⟩
  if s.pstate = 2 || s.phase = .trip then
    if 256 ≤ s.err.intake.length then
      { s.incReg kErrDrop with err := { s.err with lost := true } }
    else { s with err := { s.err with intake := s.err.intake ++ [r] } }
  else s.errWrite r

/-- Empty the intake queue into the ring (R523). -/
def State.errDrain (s : State) : State :=
  ({ s with err := { s.err with intake := [] } }).each s.err.intake State.errWrite

/-- An INFO record of a refused access (R29, EVENT 0x0001). -/
def State.refusedAccess (s : State) (unit a : Nat) : State :=
  s.errRec sevInfo unit 0x0001 0 .badParam (wd a) (wd (a / 2 ^ 32 % 256))

/-- An adaptive loop has come to be held at a bound: source 24 and its INFO record (R517). -/
def State.loopBound (s : State) (loop : Nat) (target bound : Word) : State :=
  (s.pulse 24).errRec sevInfo 0x03 0x0062 loop .ok target bound

/-- The unit ID that error records give the host as a master: its OWNER code of R289 (DEDUCED, log 23). -/
def uHost : Nat := 0xFF

/-- Record a discarded host write in `GLB_WDROP` (R39). -/
def State.wdrop (s : State) (unit off : Nat) : State :=
  if s.regB 0x20 31 then s.setB 0x20 30 true
  else s.setReg 0x20 (wd (2 ^ 31 + unit % 256 * 2 ^ 16 + off % 65536 / 4 * 4) ||| (s.reg 0x20 &&& 0x40000000))

end Sys2Proof.Machine
end

