-- ==== Sys2Proof/Machine/Hallway.lean ====
section
/-! DEFINITION. The Hallway and the Cellar's transaction tags (R309 to R312, R320 to R323): buffers under credits, the arbiter, the pools of every subchannel, and one 64-byte access from its tag to its response. -/

namespace Sys2Proof.Machine

/-- The classes of R309. -/
inductive HalCls where
  | response | deadline | request
  deriving DecidableEq, Repr

/-- Flits that the buffer of a class holds at an input port (R310). -/
def halCap : HalCls → Nat
  | .response => 32 | .deadline => 16 | .request => 32

/-- Flits of a class that wait at a port. -/
def HalPort.held (p : HalPort) : HalCls → Nat
  | .response => p.rsp | .deadline => p.dl | .request => p.rq

/-- The credits that the sender of a class holds: one for every free place of the buffer (R310). -/
def HalPort.credits (p : HalPort) (c : HalCls) : Nat := halCap c - p.held c

/-- The port with so many flits of a class. -/
def HalPort.with (p : HalPort) (c : HalCls) (n : Nat) : HalPort :=
  match c with
  | .response => { p with rsp := n } | .deadline => { p with dl := n } | .request => { p with rq := n }

/-- Input port i: a master's by its unit ID, the port of Cellar controller c at 256 + c. -/
def State.halPort (s : State) (i : Nat) : HalPort := Tbl.get (fun _ => halPortInit) s.hal.ports i

def State.setHalPort (s : State) (i : Nat) (p : HalPort) : State :=
  { s with hal := { s.hal with ports := Tbl.set (fun _ => halPortInit) s.hal.ports i p } }

/-- A sender transmits a flit only when it holds a credit (R310). -/
def State.flitIn (s : State) (i : Nat) (c : HalCls) : State :=
  let p := s.halPort i
  if p.credits c = 0 then s else s.setHalPort i (p.with c (p.held c + 1))

/-- A flit leaves its buffer, and the credit returns (R310). -/
def State.flitOut (s : State) (i : Nat) (c : HalCls) : State :=
  let p := s.halPort i
  s.setHalPort i (p.with c (p.held c - 1))

/-- The class an output's arbiter grants, from the classes that wait and the grants in a row that REQUEST has waited through (R310). -/
def halGrant (rsp dl rq : Bool) (waited : Nat) : Option HalCls :=
  if rq && decide (15 ≤ waited) then some .request
  else if rsp then some .response
  else if dl then some .deadline
  else if rq then some .request
  else none

/-- One grant of output o to input port i: the flit leaves, and the count of REQUEST's wait follows. -/
def State.halArbit (s : State) (o i : Nat) : State :=
  let p := s.halPort i
  let w := Tbl.get (fun _ => 0) s.hal.waited o
  match halGrant (decide (0 < p.rsp)) (decide (0 < p.dl)) (decide (0 < p.rq)) w with
  | none => s
  | some c =>
    let s := s.flitOut i c
    let w' := if c = .request ∨ p.rq = 0 then 0 else w + 1
    { s with hal := { s.hal with waited := Tbl.set (fun _ => 0) s.hal.waited o w' } }

/-- A transfer crosses from input port i to output o: it takes a credit and is granted before the command ends (DESIGN CHOICE, log 114). -/
def State.halCross (s : State) (i o : Nat) (c : HalCls) : State := (s.flitIn i c).halArbit o i

/-! ## Tags (R311, R312) -/

/-- The pools of R312; DEADLINE may hold tags of the shared one. -/
inductive HalPool where
  | dl | jrn | shr | dlShr
  deriving DecidableEq, Repr

def Tags.take (t : Tags) : HalPool → Tags
  | .dl => { t with dl := t.dl + 1 }
  | .jrn => { t with jrn := t.jrn + 1 }
  | .shr => { t with shr := t.shr + 1 }
  | .dlShr => { t with dlShr := t.dlShr + 1 }

def Tags.give (t : Tags) : HalPool → Tags
  | .dl => { t with dl := t.dl - 1 }
  | .jrn => { t with jrn := t.jrn - 1 }
  | .shr => { t with shr := t.shr - 1 }
  | .dlShr => { t with dlShr := t.dlShr - 1 }

/-- The pool that has a tag for a transfer: 64 for DEADLINE, which takes a shared one when its own are used up, 16 for the journal, 112 shared (R312). -/
def Tags.pool (t : Tags) (c : HalCls) (journal : Bool) : Option HalPool :=
  let shared := decide (t.shr + t.dlShr < 112)
  if journal then (if t.jrn < 16 then some .jrn else none)
  else if c = .deadline then (if t.dl < 64 then some .dl else if shared then some .dlShr else none)
  else if shared then some .shr else none

/-- The pool whose oldest transfer a transfer without a tag waits for: the controller always retires it (R311, R320, R322). -/
def Tags.waitsFor (t : Tags) (c : HalCls) (journal : Bool) : HalPool :=
  if journal then .jrn else if c = .deadline then .dl else if 0 < t.shr then .shr else .dlShr

/-- The tags of subchannel i = 2c + B. -/
def State.tagsOf (s : State) (i : Nat) : Tags := Tbl.get (fun _ => tagsInit) s.hal.tags i

/-- Store the tags of a subchannel, and show them in `HAL_TAGSTAT` (R323). -/
def State.setTags (s : State) (i : Nat) (t : Tags) : State :=
  { s with hal := { s.hal with tags := Tbl.set (fun _ => tagsInit) s.hal.tags i t } }.setReg (kHAL + 0x200 + 4 * i)
    (wd ((t.dl + t.dlShr) % 256 * 65536 + t.jrn % 256 * 256 + (t.shr + t.dlShr) % 256))

/-- The 64-byte receive slots that a master has set aside (R311). -/
def State.slotsOf (s : State) (u : Nat) : Nat := Tbl.get (fun _ => 0) s.hal.slots u

def State.setSlots (s : State) (u n : Nat) : State :=
  { s with hal := { s.hal with slots := Tbl.set (fun _ => 0) s.hal.slots u n } }

/-- One 64-byte access of a master to a subchannel: it takes a tag and, for a read, sets a receive slot aside, crosses to the controller, and its response crosses back, which frees the slot and returns the tag (R310 to R312). -/
def State.cellarTransfer (s : State) (u i : Nat) (c : HalCls) (journal read : Bool) : State :=
  let t := s.tagsOf i
  let t := if (t.pool c journal).isNone then t.give (t.waitsFor c journal) else t
  match t.pool c journal with
  | none => s
  | some p =>
    let s := s.setTags i (t.take p)
    let s := if read then s.setSlots u (s.slotsOf u + 1) else s
    let s := (s.halCross u (256 + i / 2) c).halCross (256 + i / 2) u .response
    let s := if read then s.setSlots u (s.slotsOf u - 1) else s
    s.setTags i ((s.tagsOf i).give p)

/-- The DEADLINE transfers that hold tags of a subchannel between two commands (R317) (DESIGN CHOICE, log 114). -/
def State.deadlineTags (s : State) (i n : Nat) : State :=
  let t := s.tagsOf i
  s.setTags i { t with dl := min 64 n, dlShr := min (112 - t.shr) (n - 64) }

end Sys2Proof.Machine
end

