-- ==== Sys2Proof/Machine/Mem.lean ====
section
/-! DEFINITION. Device memory: where an address lands, the region tables, the stored codes, injected errors, the error logs, and one read and one write for every device master (R28, R29, R286 to R308). -/

namespace Sys2Proof.Machine

/-- First addresses of the ranges of R28. -/
def aPantry : Nat := 0x8000000000
def aLarder : Nat := 0x8004000000
def aLarderEnd : Nat := 0x8005000000
def aRegs : Nat := 0xF000000000
def aRegsEnd : Nat := 0xF001000000

/-- One byte of device memory as stored.  A byte nothing has written reads as 0 (DESIGN CHOICE, log 3: the spec gives RAM no content before a zero fill or a load). -/
def State.byte (s : State) (a : Nat) : Byte := Tbl.get (fun _ => 0) s.mem a

/-- Store one byte. -/
def State.setByte (s : State) (a : Nat) (b : Byte) : State := { s with mem := Tbl.set (fun _ => 0) s.mem a b }

/-- Stored bytes from an address on. -/
def State.bytes (s : State) (a n : Nat) : List Byte := (List.range n).map fun i => s.byte (a + i)

/-- Store bytes from an address on. -/
def State.setBytes (s : State) (a : Nat) : List Byte → State
  | [] => s
  | b :: t => (s.setByte a b).setBytes (a + 1) t

/-- The stored code of the codeword at an address. -/
def State.code (s : State) (a : Nat) : Code := Tbl.get (fun _ => Code.good) s.codes a

/-- Store the code of a codeword. -/
def State.setCode (s : State) (a : Nat) (c : Code) : State := { s with codes := Tbl.set (fun _ => Code.good) s.codes a c }

/-! ## The Cellar's geometry (R286, R287) -/

/-- Channels in use (`CEL_GEOM.CHMASK`), ascending. -/
def State.chans (s : State) : List Nat := (List.range 8).filter fun c => s.regB (kCEL + 0x80) (24 + c)

/-- log2 N. -/
def State.logN (s : State) : Nat := s.regF (kCEL + 0x80) 8 2

/-- D in bytes. -/
def State.dimmBytes (s : State) : Nat := s.regF (kCEL + 0x80) 0 8 * 2 ^ 30

/-- The pinned window K of a channel (R286). -/
def winBytes : Nat := 512 * 2 ^ 20

/-- I, the size of the interleaved space (R286). -/
def State.ilv (s : State) : Nat := if s.chans.isEmpty then 0 else 2 ^ s.logN * (s.dimmBytes - winBytes)

/-- The end of the Cellar address space, N × D. -/
def State.celEnd (s : State) : Nat := if s.chans.isEmpty then 0 else 2 ^ s.logN * s.dimmBytes

/-- The rank of a channel number among the channels in use. -/
def State.rankOf (s : State) (c : Nat) : Option Nat := s.chans.findIdx? (· = c)

/-- The first address of the pinned window of a channel in use. -/
def State.window (s : State) (c : Nat) : Option Nat := (s.rankOf c).map fun r => s.ilv + r * winBytes

/-- The rank an address decodes to (R287). -/
def State.rankAt (s : State) (a : Nat) : Nat :=
  let n := s.logN
  if a < s.ilv then
    (if n = 0 then 0 else (a / 2 ^ 7 % 2 ^ n) ^^^ (a / 2 ^ 12 % 2 ^ n) ^^^ (a / 2 ^ 20 % 2 ^ n))
  else (a - s.ilv) / winBytes

/-- The channel an address decodes to. -/
def State.chanAt (s : State) (a : Nat) : Nat := (s.chans[s.rankAt a]?).getD 0

/-- The byte address within the channel (R287). -/
def State.localAt (s : State) (a : Nat) : Nat :=
  if a < s.ilv then a / 2 ^ (7 + s.logN) * 128 + a % 128
  else (s.dimmBytes - winBytes) + (a - s.ilv) % winBytes

/-- The subchannel an address decodes to: 2c, or 2c + 1 for subchannel B (R287). -/
def State.subAt (s : State) (a : Nat) : Nat := 2 * s.chanAt a + s.localAt a / 64 % 2

/-! ## The region tables -/

/-- Cellar region r (R289, R307). -/
def kReg (r : Nat) : Nat := kCEL + 0x1000 + 0x20 * r
def State.celBase (s : State) (r : Nat) : Nat := s.addr40 (kReg r)
def State.celSize (s : State) (r : Nat) : Nat := s.addr40 (kReg r + 8)
def State.celAttr (s : State) (r : Nat) : Word := s.reg (kReg r + 0x10)
def State.celEn (s : State) (r : Nat) : Bool := bit (s.celAttr r) 31
def State.celValid (s : State) (r : Nat) : Bool := s.regB (kReg r + 0x14) 31
def State.celFilling (s : State) (r : Nat) : Bool := s.regB (kReg r + 0x14) 30
def State.celLight (s : State) (r : Nat) : Bool := bit (s.celAttr r) 20
def State.celOwner (s : State) (r : Nat) : Nat := fld (s.celAttr r) 8 8

/-- The twin range of a mirrored region: the same offset in the window of MCH (R289). -/
def State.twinOf (s : State) (r : Nat) : Option Nat :=
  if bit (s.celAttr r) 30 then
    match s.window (fld (s.celAttr r) 23 3), s.window (fld (s.celAttr r) 27 3) with
    | some w, some m => some (m + (s.celBase r - w))
    | _, _ => none
  else none

/-- Pantry descriptor r (R298, R308). -/
def kPR (r : Nat) : Nat := kPAN + 0x1000 + 0x80 * r
def State.panBase (s : State) (r : Nat) : Nat := aPantry + s.regF (kPR r) 12 15 * 4096
def State.panSize (s : State) (r : Nat) : Nat := s.regF (kPR r + 4) 12 15 * 4096
def State.panEn (s : State) (r : Nat) : Bool := s.regB (kPR r + 8) 31
def State.panSealed (s : State) (r : Nat) : Bool := s.regB (kPR r + 8) 30
def State.panLoading (s : State) (r : Nat) : Bool := s.regB (kPR r + 8) 27
def State.panFailed (s : State) (r : Nat) : Bool := s.regB (kPR r + 8) 26
def State.panLarder (s : State) (r : Nat) : Bool := s.regB (kPR r + 8) 25
/-- A Pantry or Larder region is valid while EN = 1 and FAILED = 0 (R299). -/
def State.panValid (s : State) (r : Nat) : Bool := s.panEn r && !s.panFailed r

/-- Where an access lies. -/
inductive Place where
  | cellar (r : Nat)
  | pantry (r : Nat)
  | larder (r : Nat)
  | none
  deriving DecidableEq, Repr

/-- The valid Cellar region an access falls wholly inside (R288). -/
def State.celFind (s : State) (a n : Nat) : Option Nat :=
  (List.range 64).find? fun r => s.celValid r && decide (s.celBase r ≤ a) && decide (a + n ≤ s.celBase r + s.celSize r)

/-- The valid Pantry or Larder region an access falls wholly inside (R299). -/
def State.panFind (s : State) (a n : Nat) : Option Nat :=
  (List.range 256).find? fun r => s.panValid r && decide (s.panBase r ≤ a) && decide (a + n ≤ s.panBase r + s.panSize r)

/-- Where the access of n bytes at a lies. -/
def State.place (s : State) (a n : Nat) : Place :=
  if a < aPantry then (match s.celFind a n with | some r => .cellar r | none => .none)
  else match s.panFind a n with
    | some r => if s.panLarder r then .larder r else .pantry r
    | none => .none

/-- The size of a codeword: 64 bytes in a STRONG region, 4 in a LIGHT one, 16 in the Pantry and the Larder (R294, R295, R297). -/
def State.grain (s : State) : Place → Nat
  | .cellar r => if s.celLight r then 4 else 64
  | _ => 16

/-- The first addresses of the codewords of size g that n bytes at a touch (DEDUCED, log 39). -/
def codewords (g a n : Nat) : List Nat :=
  if n = 0 then [] else (List.range ((a + n - 1) / g - a / g + 1)).map fun i => (a / g + i) * g

/-- The Cellar channels that an access uses leave self-refresh (R284, R504). -/
def State.celWake (s : State) (p : Place) (a n : Nat) : State :=
  match p with
  | .cellar _ =>
    if (List.range 8).any fun c => s.regB (kCEL + 0x10 * c) 28 then
      s.each (codewords 64 a n) fun s l => s.setB (kCEL + 0x10 * s.chanAt l) 28 false
    else s
  | _ => s

/-- Channels leave self-refresh for a fill, a line of which crosses to each of their subchannels (R284, R291). -/
def State.celFill (s : State) (cs : List Nat) : State :=
  s.each cs fun s c =>
    ((s.setB (kCEL + 0x10 * c) 28 false).cellarTransfer 0x01 (2 * c) .request false false).cellarTransfer 0x01 (2 * c + 1) .request false false

/-- The class of a unit's Cellar traffic: that of a head is its planes' reads and its writeback (R309). -/
def halClass (unit : Nat) : HalCls := if 0x10 ≤ unit ∧ unit < 0x30 then .deadline else .request

/-- An access by a unit: the Cellar channels it uses leave self-refresh, and every line of it crosses the Hallway under a tag (R284, R311). -/
def State.celUse (s : State) (unit : Nat) (journal read : Bool) (p : Place) (a n : Nat) : State :=
  match p with
  | .cellar _ => (s.celWake p a n).each (codewords 64 a n) fun s l => s.cellarTransfer unit (s.subAt l) (halClass unit) journal read
  | _ => s

/-- A write by a unit crosses to the range and to its twin (R289, R311). -/
def State.celSend (s : State) (unit : Nat) (journal : Bool) (p : Place) (a n : Nat) : State :=
  let s := s.celUse unit journal false p a n
  match p with
  | .cellar r => (match s.twinOf r with | some t => s.celUse unit journal false p (t + (a - s.celBase r)) n | none => s)
  | _ => s

/-- Throttle gap of subchannel i, in Hallway cycles (R317). -/
def State.gap (s : State) (i : Nat) : Nat := Tbl.get (fun _ => 0) s.chm.gap i

/-- The throttle gap that a burst over these ranges meets: the longest of the subchannels that it uses (R317). -/
def State.gapFor (s : State) (l : List (Nat × Nat)) : Nat :=
  if s.chm.gap.isEmpty then 0
  else (l.flatMap fun q => codewords 64 q.1 q.2).foldl (fun m a => if a < aPantry then max m (s.gap (s.subAt a)) else m) 0

/-! ## Error logs and uncorrectable errors (R303, R304) -/

/-- The CLASS of a log entry: STRONG, LIGHT, DECTED, SECDED. -/
def State.codeClass (s : State) : Place → Nat
  | .cellar r => if s.celLight r then 1 else 0
  | _ => 2

/-- Enter a corrected error in a log (R303): log base, key of the REPLACED count (the Nioft log has none), SRC, CLASS, POS, address word pair of the line, reporting unit, and its source if it has one. -/
def State.corrLog (s : State) (base : Nat) (kRepl : Option Nat) (srcKind cls pos lineLo lineHi unit : Nat) (source : Option Nat) : State :=
  let e (i : Nat) := base + 0x20 * i
  let hit (i : Nat) : Bool := s.regB (e i + 8) 31 && decide (s.reg (e i) = wd lineLo) && decide (s.reg (e i + 4) = wd lineHi) &&
    decide (s.regF (e i + 8) 28 3 = srcKind)
  let pulse (s : State) : State := match source with | some n => s.pulse n | none => s
  let record (s : State) (n : Nat) : State := s.errRec sevCorrected unit 0x0030 n .ok (wd lineLo) (wd lineHi)
  match (List.range 32).find? hit with
  | some i =>
    let n := min 0xFFFF (s.regF (e i + 8) 0 16 + 1)
    let s := (s.setF (e i + 8) 0 16 n).setReg (e i + 0x14) s.now32
    let s := if n = 16 ∨ n = 256 ∨ n = 4096 then record s n else s
    pulse s
  | none =>
      let fresh (s : State) (i : Nat) : State :=
        let s := (s.setReg (e i) (wd lineLo)).setReg (e i + 4) (wd lineHi)
        let s := s.setReg (e i + 8) (wd (2 ^ 31 + srcKind * 2 ^ 28 + cls * 2 ^ 26 + pos % 256 * 2 ^ 16 + 1))
        let s := (s.setW64 (e i + 0x0C) s.now).setReg (e i + 0x14) s.now32
        pulse (record s 1)
      match (List.range 32).find? fun i => !s.regB (e i + 8) 31 with
      | some i => fresh s i
      | none =>
        -- the entry with the oldest LAST, measured back from the present count
        let i := (List.range 32).foldl (fun b i =>
          if (s.now32 - s.reg (e b + 0x14)).toNat < (s.now32 - s.reg (e i + 0x14)).toNat then i else b) 0
        let s := match kRepl with | some k => s.setF k 0 16 (min 0xFFFF (s.regF k 0 16 + 1)) | none => s
        (fresh s i).pulse 52

/-- Count a corrected error for telemetry and for the refresh demand of its channel (R516, R519). -/
def State.countCe (s : State) (i : Nat) : State :=
  let c := s.chm
  let c := { c with ce := Tbl.set (fun _ => 0) c.ce i (Tbl.get (fun _ => 0) c.ce i + 1) }
  { s with chm := if i < 8 then
      { c with errT := Tbl.set (fun _ => []) c.errT i ((s.now :: Tbl.get (fun _ => []) c.errT i).take 8)
               calm := Tbl.set (fun _ => 0) c.calm i s.now } else c }

/-- A corrected error at a device address. -/
def State.corrected (s : State) (p : Place) (a pos : Nat) : State :=
  let s := s.countCe (match p with | .cellar _ => s.chanAt a | .larder _ => 9 | _ => 8)
  let l := a / 64 * 64
  let lo := l % 2 ^ 32
  let hi := l / 2 ^ 32 % 256
  match p with
  | .cellar _ => s.corrLog (kCEL + 0x400) (some (kCEL + 0x3F0)) 0 (s.codeClass p) pos lo hi 0x04 (some (32 + s.chanAt a))
  | .larder _ => s.corrLog (kPAN + 0x800) (some (kPAN + 0x3F4)) 0 2 pos lo hi 0x05 (some 50)
  | _ => s.corrLog (kPAN + 0x400) (some (kPAN + 0x3F0)) 0 2 pos lo hi 0x05 (some 48)

/-- The controller meets an uncorrectable codeword: address, count and source (R304). -/
def State.uncorrectable (s : State) (p : Place) (a : Nat) : State :=
  let s := { s with chm := { s.chm with ue := s.chm.ue + 1 } }
  match p with
  | .cellar _ =>
    let s := (s.setReg (kCEL + 0x84) (wd (a / 64 * 64))).setReg (kCEL + 0x88) (wd (a / 2 ^ 32 % 256))
    (s.incReg (kCEL + 0x08 + 0x10 * s.chanAt a)).pulse (40 + s.chanAt a)
  | _ =>
    let s := (s.setReg (kPAN + 0x84) (wd ((a - aPantry) / 64 * 64 % 2 ^ 27))).incReg (kPAN + 0x88)
    s.pulse (match p with | .larder _ => 51 | _ => 49)

/-- The record of a reader that met uncorrectable data (R304, EVENT 0x0031). -/
def State.ueRecord (s : State) (unit detail a : Nat) : State :=
  s.errRec sevContained unit 0x0031 detail .uncorr (wd a) (wd (a / 2 ^ 32 % 256))

/-! ## Reads -/

/-- What a device read gives its master. -/
inductive Rd where
  | ok (bs : List Byte)
  | refused
  | poison (a : Nat)
  deriving DecidableEq, Repr

/-- A read by a device master of given unit ID; `detail` is its channel, engine, core, voice or head for the error record of an uncorrectable error.  The Larder is read by the Music Room alone (R298). -/
def State.devRead (s : State) (unit detail a n : Nat) : Rd × State :=
  let p := s.place a n
  let ok := match p with | .none => false | .larder _ => unit = 0x0B | _ => true
  if !ok then (.refused, s.refusedAccess unit a)
  else
    let s := s.celUse unit false true p a n
    let cws := codewords (s.grain p) a n
    match cws.find? fun c => decide (s.code c = .uncorr) with
    | some c => (.poison c, (s.uncorrectable p c).ueRecord unit detail (c / 64 * 64))
    | none =>
      (.ok (s.bytes a n),
       s.each cws fun s c => match s.code c with | .corr pos => s.corrected p c pos | _ => s)

/-- The bytes of a read, where the master sees all ones for a refused one (R29). -/
def Rd.bytes (n : Nat) : Rd → List Byte
  | .ok bs => bs
  | _ => List.replicate n 0xFF

/-! ## Writes -/

/-- The code a STRONG or LIGHT line gets from an armed `CEL_FLIP`: which codeword, which code, and which stored data bits are inverted (R305).  Data bits of device n < 8 are bits 4n to 4n + 3 of the word of the beat (DEDUCED, log 37) (PRESUMED, log 38). -/
def State.celFlipEffect (s : State) (light : Bool) (line : Nat) : Nat × Code × Nat × Word :=
  let f := s.reg (kCEL + 0x100)
  let beat := fld f 8 4
  let mask := fld f 0 4
  let low := if mask % 2 = 1 then 1 else if mask / 2 % 2 = 1 then 2 else if mask / 4 % 2 = 1 then 4 else 8
  let m := if light then (if mask = 0 then 0 else low) else mask
  let devs := (([fld f 20 4, fld f 16 4].filter (· ≤ 9)).dedup).filter fun _ => decide (m ≠ 0)
  let word := devs.foldl (fun (w : Word) d => if d < 8 then w ^^^ wd (m * 2 ^ (4 * d)) else w) 0
  let bitNo (d : Nat) := 4 * d + (if m = 1 then 0 else if m = 2 then 1 else if m = 4 then 2 else 3)
  let c := match devs with
    | [] => Code.good
    | [d] => Code.corr (if light then bitNo d else d)
    | _ => Code.uncorr
  (if light then line + 4 * beat else line, c, line + 4 * beat, word)

/-- What a codeword's code becomes when an injection inverts bits of it: an error it has already stays (R305).  In a LIGHT word a bit inverted twice is good again. -/
def Code.flip (light : Bool) : Code → Code → Code
  | .good, c => c
  | c, .good => c
  | .corr p, .corr q => if p = q then (if light then .good else .corr p) else .uncorr
  | _, _ => .uncorr

/-- The inverted bits of a DECTED codeword that are held: two fit into the place of a correctable error, whose low eight bits the log shows (R297). -/
def Code.bits : Code → List Nat
  | .corr p => if p < 256 then [p] else [p % 256, p / 256 - 1]
  | _ => []

/-- The code of a DECTED codeword with these bits inverted. -/
def bitsCode : List Nat → Code
  | [] => .good
  | [b] => .corr b
  | [b, c] => .corr (b + 256 * (c + 1))
  | _ => .uncorr

/-- What a DECTED codeword's code becomes when an injection inverts bits of it (R306). -/
def Code.flipBits (c : Code) (bits : List Nat) : Code :=
  if c = .uncorr then .uncorr
  else bitsCode (c.bits.filter (fun b => !bits.contains b) ++ bits.filter fun b => !c.bits.contains b)

/-- `CEL_FLIP` acts: ARM clears and DONE sets (R305). -/
def State.celFlipDone (s : State) : State :=
  s.setReg (kCEL + 0x100) ((s.reg (kCEL + 0x100) &&& 0x7FFFFFFF) ||| 0x40000000)

/-- `CEL_FLIP` is armed for the line at an address, for its own copy (false) or its twin copy (true). -/
def State.celFlipArmed (s : State) (a : Nat) (twin : Bool) : Bool :=
  s.regB (kCEL + 0x100) 31 && decide (s.addr40 (kCEL + 0x104) / 64 = a / 64) && decide (s.regB (kCEL + 0x100) 29 = twin)

/-- Store one line or part of one at `a`: good code for what it covers, and the armed injections (R305, R306).  For a twin copy, `main` is the address the master wrote. -/
def State.storeLine (s : State) (p : Place) (a main : Nat) (bs : List Byte) (twin : Bool) : State :=
  let s := (s.celWake p a bs.length).setBytes a bs
  let s := s.each (codewords (s.grain p) a bs.length) fun s c => s.setCode c .good
  let line := a / 64 * 64
  match p with
  | .cellar r =>
    if s.celFlipArmed main twin then
      let e := s.celFlipEffect (s.celLight r) line
      let c := (s.code e.1).flip (s.celLight r) e.2.1
      let s := s.celFlipDone.setCode e.1 c
      if c = .uncorr then s.setBytes e.2.2.1 (wBytes (wd (leNat (s.bytes e.2.2.1 4)) ^^^ e.2.2.2)) else s
    else s
  | .pantry _ | .larder _ =>
    if s.regB (kPAN + 0x100) 31 && decide (s.regF (kPAN + 0x104) 6 21 * 64 = line - aPantry) then
      let f := s.reg (kPAN + 0x100)
      let cw := line + 16 * fld f 24 2
      let bits := ([fld f 16 8, fld f 8 8, fld f 0 8].filter (· ≤ 144)).dedup
      let c := (s.code cw).flipBits bits
      let s := s.setReg (kPAN + 0x100) ((f &&& 0x7FFFFFFF) ||| 0x40000000)
      let s := s.setCode cw c
      if c = .uncorr then
        s.each (bits.filter (· < 128)) fun s b =>
          s.setByte (cw + b / 8) (s.byte (cw + b / 8) ^^^ BitVec.ofNat 8 (2 ^ (b % 8)))
      else s
    else s
  | .none => s

/-- The pieces of a range, one per 64-byte line: first address and length. -/
def linePieces (a n : Nat) : List (Nat × Nat) :=
  (codewords 64 a n).map fun l => (max a l, min (a + n) (l + 64) - max a l)

/-- What a device write tells its master. -/
inductive Wr where
  | ok
  | refused
  | poison (a : Nat)
  deriving DecidableEq, Repr

/-- The codewords that a partial write of a line reads (R44, R295, R297). -/
def State.rmwReads (s : State) (p : Place) (a n : Nat) : List Nat :=
  let g := s.grain p
  let partCw := (codewords g a n).filter fun c => decide (c < a) || decide (a + n < c + g)
  -- a LIGHT write that covers part of a word reads the whole line
  if partCw.isEmpty then [] else if g = 4 then codewords 4 (a / 64 * 64) 64 else partCw

/-- The codeword whose read a partial write of a line needs and finds uncorrectable (R304). -/
def State.rmwBad (s : State) (p : Place) (a n : Nat) : Option Nat :=
  (s.rmwReads p a n).find? fun c => decide (s.code c = .uncorr)

/-- The correctable errors that the read of a read-modify-write meets are entered, and are gone from the line that is written back (R295, R303). -/
def State.rmwFix (s : State) (p : Place) (a n : Nat) : State :=
  s.each (s.rmwReads p a n) fun s c => match s.code c with | .corr pos => (s.corrected p c pos).setCode c .good | _ => s

/-- Write one copy of the part of a line that a master covers; the copy stays as it is when its read-modify-write is uncorrectable, and that codeword is named (R304). -/
def State.writeCopy (s : State) (p : Place) (a main : Nat) (bs : List Byte) (twin : Bool) : Option Nat × State :=
  match s.rmwBad p a bs.length with
  | some c => (some c, s.uncorrectable p c)
  | none => (none, (s.rmwFix p a bs.length).storeLine p a main bs twin)

/-- Write the part of one line that a master covers, and its twin copy (R289): the codeword that stopped the first copy, and the one that stopped the twin. -/
def State.writeTwo (s : State) (p : Place) (a : Nat) (bs : List Byte) : (Option Nat × Option Nat) × State :=
  let t := match p with | .cellar r => (s.twinOf r).map fun t => t + (a - s.celBase r) | _ => none
  let r := s.writeCopy p a a bs false
  match t with
  | some ta =>
    let q := r.2.writeCopy p ta a bs true
    ((r.1, q.1), q.2)
  | none => match p with
    | .cellar _ => ((r.1, none), if r.2.celFlipArmed a true then r.2.celFlipDone else r.2)
    | _ => ((r.1, none), r.2)

/-- Write the part of one line that a master covers, in both copies: the codeword that stopped one of them. -/
def State.writeLine (s : State) (p : Place) (a : Nat) (bs : List Byte) : Option Nat × State :=
  let r := s.writeTwo p a bs
  (r.1.1.or r.1.2, r.2)

/-- The part of a byte list that belongs to a piece. -/
def pieceBytes (a : Nat) (bs : List Byte) (q : Nat × Nat) : List Byte := (bs.drop (q.1 - a)).take q.2

/-- Write line by line, stopping at a line whose read-modify-write is uncorrectable. -/
def State.writePieces (p : Place) (a : Nat) (bs : List Byte) : State → List (Nat × Nat) → Wr × State
  | s, [] => (.ok, s)
  | s, q :: t =>
    let r := s.writeLine p q.1 (pieceBytes a bs q)
    match r.1 with
    | some c => (.poison c, r.2)
    | none => State.writePieces p a bs r.2 t

/-- A master may write the place: not a FOY or ATT region, not a sealed or loading one (R292, R299). -/
def State.mayWrite (s : State) : Place → Bool
  | .cellar r => decide (s.celOwner r ≠ 0x01) && decide (s.celOwner r ≠ 0x0D)
  | .pantry r => !s.panSealed r && !s.panLoading r
  | .larder r => !s.panSealed r && !s.panLoading r
  | .none => false

/-- Each device write to a Pantry or Larder region marks it ALTERED (R299). -/
def State.markAltered (s : State) : Place → State
  | .pantry r => s.setB (kPR r + 8) 28 true
  | .larder r => s.setB (kPR r + 8) 28 true
  | _ => s

/-- A write by a device master of given unit ID. -/
def State.devWrite (s : State) (unit detail a : Nat) (bs : List Byte) : Wr × State :=
  let p := s.place a bs.length
  if !s.mayWrite p then (.refused, s.refusedAccess unit a)
  else
    let r := State.writePieces p a bs (s.celSend unit false p a bs.length) (linePieces a bs.length)
    match r.1 with
    | .poison c => (.poison c, (r.2.markAltered p).ueRecord unit detail (c / 64 * 64))
    | w => (w, r.2.markAltered p)

/-- A write by the firmware of a unit into its own region (R292): where the codeword stands that stopped it. -/
def State.fwWrite (s : State) (unit a : Nat) (bs : List Byte) : Wr × State :=
  let p := s.place a bs.length
  State.writePieces p a bs (s.celSend unit false p a bs.length) (linePieces a bs.length)

/-- The channels that a region's range lies in: the pinned one, or every channel in use (R286, R287). -/
def State.regionChans (s : State) (r : Nat) : List Nat :=
  let attr := s.celAttr r
  if bit attr 26 then fld attr 23 3 :: (if bit attr 30 then [fld attr 27 3] else []) else s.chans

/-- Good code and zeros over a range (R291, R301). -/
def State.zeroRange (s : State) (a n : Nat) : State :=
  { s with mem := s.mem.filter fun e => decide (e.1 < a ∨ a + n ≤ e.1),
           codes := s.codes.filter fun e => decide (e.1 < a ∨ a + n ≤ e.1) }

end Sys2Proof.Machine
end

