-- ==== Sys2Proof/Machine/Bar2.lean ====
section
/-! DEFINITION. The BAR2 window (R41 to R44, R304): where an offset leads, which accesses are allowed, and the writes that are on their way. -/

namespace Sys2Proof.Machine

/-- The device address of a BAR2 offset under `GLB_WIN_BASE` (R41). -/
def State.bar2Addr (s : State) (off : Nat) : Nat := 2 ^ 28 * s.regF 0x18 0 12 + off

/-- The window leads somewhere: the Cellar, or the Pantry and the Larder (R41). -/
def State.bar2Open (s : State) (off n : Nat) : Bool := decide (s.regF 0x18 0 12 ≤ 0x800) && decide (off + n ≤ 2 ^ 28)

/-- Where a host access through BAR2 leads: a Cellar region, or any part of the Pantry or the Larder, where no region is asked for (R42, R299) (DEDUCED, log 28). -/
def State.hostPlace (s : State) (a n : Nat) : Place :=
  if a < aPantry then s.place a n
  else if a + n ≤ aLarder then .pantry 0
  else if aLarder ≤ a ∧ a + n ≤ aLarderEnd then .larder 0
  else .none

/-- The access may be made (R42): a Cellar region of the host or of a unit under expert control, and for a read the Pantry, or the Larder while the Music Room is under expert control. -/
def State.bar2May (s : State) (p : Place) (write : Bool) : Bool :=
  match p with
  | .cellar r => decide (s.celOwner r = 0xFF) || s.expert (s.celOwner r)
  | .pantry _ => !write
  | .larder _ => !write && s.expert 0x0B
  | .none => false

/-- A BAR2 write becomes visible to the device masters: a read-modify-write that meets an uncorrectable error is not performed (R44, R304). -/
def State.bar2Store (s : State) (a : Nat) (bs : List Byte) : State :=
  match s.place a bs.length with
  | .cellar r =>
    (match State.writePieces (.cellar r) a bs (s.celSend uHost false (.cellar r) a bs.length) (linePieces a bs.length) with
     | (.poison c, s) => s.ueRecord uHost 0 (c / 64 * 64)
     | (_, s) => s)
  | _ => s.refusedAccess uHost a

/-- Every BAR2 write issued so far becomes visible (R43). -/
def State.bar2Flush (s : State) : State := ({ s with posted := [] }).each s.posted fun s w => s.bar2Store w.1 w.2

/-- A write of bytes at a BAR2 offset: refused, or posted (R42, R43) (DESIGN CHOICE, log 27). -/
def State.bar2Write (s : State) (off : Nat) (bs : List Byte) : State :=
  let a := s.bar2Addr off
  if bs.isEmpty then s
  else if s.bar2Open off bs.length && s.bar2May (s.hostPlace a bs.length) true then { s with posted := s.posted ++ [(a, bs)] }
  else s.refusedAccess uHost a

/-- A read of n bytes at a BAR2 offset, after the writes before it: the bytes, and whether they travel poisoned (R42, R304). -/
def State.bar2Read (s : State) (off n : Nat) : (List Byte × Bool) × State :=
  let s := s.bar2Flush
  let a := s.bar2Addr off
  let p := s.hostPlace a n
  if s.bar2Open off n && s.bar2May p false then
    let s := s.celUse uHost false true p a n
    let cws := codewords (s.grain p) a n
    match cws.find? fun c => decide (s.code c = .uncorr) with
    | some c => ((s.bytes a n, true), (s.uncorrectable p c).ueRecord uHost 0 (c / 64 * 64))
    | none => ((s.bytes a n, false), s.each cws fun s c => match s.code c with | .corr pos => s.corrected p c pos | _ => s)
  else ((List.replicate n 0xFF, false), s.refusedAccess uHost a)

end Sys2Proof.Machine
end

