-- ==== Sys2Proof/Machine/Foyer.lean ====
section
/-! DEFINITION. The Foyer's rings, journal and replies (R50 to R69, R76 to R90): accepting a packet, journaling it, and completing a command in the sequence order of its ring.  What each opcode does is in the family files; `Vaile.lean` joins the two. -/

namespace Sys2Proof.Machine

/-! ## Replies -/

/-- A reply with a status and a detail and no result words. -/
def rep (st : Status) (detail : Nat) : Reply := ⟨st, detail, 0, 0, 0⟩

/-- The plain reply. -/
def repOk : Reply := rep .ok 0

/-- `BAD_PARAM` with a DETAIL. -/
def repBad (detail : Nat) : Reply := rep .badParam detail

/-- `BAD_PARAM` that names parameter word Pk, packet word 4 + k (R69). -/
def repBadP (k : Nat) : Reply := repBad (0x104 + k)

/-- `ALIGN` that names parameter word Pk. -/
def repAlignP (k : Nat) : Reply := rep .align (4 + k)

/-- The reply of the first check that fails. -/
def firstFail : List (Bool × Reply) → Option Reply
  | [] => none
  | (b, r) :: t => if b then some r else firstFail t

/-- Parameter word Pk (R57). -/
def pw (p : Packet) (k : Nat) : Word := p.p.getD k 0

/-- The 64-bit value of parameter words Pk and P(k+1). -/
def pd (p : Packet) (k : Nat) : Nat := (pw p k).toNat + 2 ^ 32 * (pw p (k + 1)).toNat

/-- Bits [63:40] of the device address in Pk and P(k+1) must be 0 (R65) (DEDUCED, log 15). -/
def highBits (p : Packet) (k : Nat) : Bool := decide (2 ^ 8 ≤ (pw p (k + 1)).toNat)

/-- A set bit of Pk outside a mask. -/
def outside (p : Packet) (k : Nat) (mask : Word) : Bool := decide (pw p k &&& ~~~ mask ≠ 0)

/-! ## The opcode table (R65) -/

/-- The function whose rings accept an opcode. -/
inductive FnSet where
  | both | pf0 | pf1
  deriving DecidableEq, Repr

/-- Opcode value, fixed length if it has one, function and feature (R65). -/
structure OpInfo where
  code : Nat
  len : Option Nat
  fn : FnSet
  feature : Option Nat
  deriving DecidableEq, Repr

def opInfo : Op → OpInfo
  | .nop => ⟨0x0001, some 4, .both, none⟩
  | .fence => ⟨0x0002, some 5, .both, none⟩
  | .featuresGet => ⟨0x0003, some 4, .both, none⟩
  | .featuresSet => ⟨0x0004, some 12, .pf0, none⟩
  | .expertEnter => ⟨0x0005, some 5, .pf0, none⟩
  | .expertLeave => ⟨0x0006, some 5, .pf0, none⟩
  | .memRegionSet => ⟨0x0010, some 10, .pf0, none⟩
  | .memCopy => ⟨0x0011, some 10, .pf0, none⟩
  | .memFill => ⟨0x0012, some 9, .pf0, none⟩
  | .assetLoad => ⟨0x0013, some 24, .both, none⟩
  | .assetUnseal => ⟨0x0014, some 5, .both, none⟩
  | .errlogRead => ⟨0x0015, some 8, .both, none⟩
  | .headTiming => ⟨0x0020, some 10, .pf0, none⟩
  | .headEnable => ⟨0x0021, some 5, .pf0, none⟩
  | .headDisable => ⟨0x0022, some 5, .pf0, none⟩
  | .headCommit => ⟨0x0023, some 5, .pf0, none⟩
  | .planeSet => ⟨0x0024, none, .pf0, none⟩
  | .spriteTable => ⟨0x0025, some 8, .pf0, none⟩
  | .beamListSet => ⟨0x0026, some 8, .pf0, none⟩
  | .composeSet => ⟨0x0027, none, .pf0, none⟩
  | .lutLoad => ⟨0x0028, some 9, .pf0, none⟩
  | .canvasSet => ⟨0x0029, none, .pf0, some 1⟩
  | .routeSet => ⟨0x002A, some 6, .pf0, none⟩
  | .crcRectSet => ⟨0x002B, some 8, .pf0, none⟩
  | .writebackSet => ⟨0x002C, some 8, .pf0, some 4⟩
  | .mantelSet => ⟨0x002D, none, .pf1, some 2⟩
  | .rectFill => ⟨0x0030, none, .pf0, none⟩
  | .rectCopy => ⟨0x0031, none, .pf0, none⟩
  | .rectConvert => ⟨0x0032, none, .pf0, none⟩
  | .dmaChainStart => ⟨0x0038, some 7, .pf0, none⟩
  | .dmaStop => ⟨0x0039, some 5, .pf0, none⟩
  | .voiceStart => ⟨0x0040, none, .pf0, none⟩
  | .voiceStop => ⟨0x0041, some 5, .pf0, none⟩
  | .voiceParam => ⟨0x0042, none, .pf0, none⟩
  | .mixGraphLoad => ⟨0x0043, some 8, .pf0, none⟩
  | .mixParamSet => ⟨0x0044, none, .pf0, none⟩
  | .mixCommit => ⟨0x0045, some 4, .pf0, none⟩
  | .audioPortSet => ⟨0x0046, some 6, .pf0, none⟩
  | .timerCompareArm => ⟨0x0050, some 8, .pf0, none⟩
  | .timerCaptureSet => ⟨0x0051, some 6, .pf0, none⟩
  | .pinseqLoad => ⟨0x0052, none, .pf0, none⟩
  | .pinseqStart => ⟨0x0053, some 6, .pf0, none⟩
  | .pinseqStop => ⟨0x0054, some 6, .pf0, none⟩
  | .nioftLoad => ⟨0x0060, some 9, .pf0, none⟩
  | .nioftStart => ⟨0x0061, some 6, .pf0, none⟩
  | .nioftStop => ⟨0x0062, some 5, .pf0, none⟩
  | .attestQuote => ⟨0x0070, some 15, .both, none⟩
  | .bootlogRead => ⟨0x0071, some 8, .both, none⟩
  | .receiptConfig => ⟨0x0072, some 6, .both, some 3⟩
  | .receiptRead => ⟨0x0073, some 8, .both, some 3⟩
  | .unitReset => ⟨0x0080, some 5, .pf0, none⟩
  | .powerState => ⟨0x0081, some 5, .pf0, none⟩
  | .telemetryConfig => ⟨0x0082, some 7, .pf0, none⟩
  | .clockPolicy => ⟨0x0083, some 7, .pf0, none⟩
  | .unknown c => ⟨c.toNat, none, .both, none⟩

/-- The named opcodes. -/
def allOps : List Op :=
  [.nop, .fence, .featuresGet, .featuresSet, .expertEnter, .expertLeave, .memRegionSet, .memCopy, .memFill, .assetLoad, .assetUnseal,
   .errlogRead, .headTiming, .headEnable, .headDisable, .headCommit, .planeSet, .spriteTable, .beamListSet, .composeSet, .lutLoad,
   .canvasSet, .routeSet, .crcRectSet, .writebackSet, .mantelSet, .rectFill, .rectCopy, .rectConvert, .dmaChainStart, .dmaStop,
   .voiceStart, .voiceStop, .voiceParam, .mixGraphLoad, .mixParamSet, .mixCommit, .audioPortSet, .timerCompareArm, .timerCaptureSet,
   .pinseqLoad, .pinseqStart, .pinseqStop, .nioftLoad, .nioftStart, .nioftStop, .attestQuote, .bootlogRead, .receiptConfig, .receiptRead,
   .unitReset, .powerState, .telemetryConfig, .clockPolicy]

/-- The opcode of a code (R65) (DEDUCED, log 12). -/
def opOf (c : BitVec 16) : Op := (allOps.find? fun o => decide ((opInfo o).code = c.toNat)).getD (.unknown c)

/-- The staging opcodes, on which the COMMIT flag is allowed (R64). -/
def opStaging : Op → Bool
  | .headTiming | .planeSet | .spriteTable | .beamListSet | .composeSet | .lutLoad | .canvasSet | .crcRectSet
  | .writebackSet => true
  | _ => false

/-- Ring n belongs to PF1 (R50). -/
def ringPf1 (n : Nat) : Bool := decide (16 ≤ n)

/-- The checks of R59 step 5 and R70 up to the COMMIT flag: length, opcode, function, reserved flag, COMMIT flag. -/
def decodeFault (op : Op) (p : Packet) : Option Reply :=
  let i := opInfo op
  let pf1 := ringPf1 p.ring
  firstFail [
    (match i.len with | some l => decide (p.len.toNat ≠ l) | none => false, rep .badLength p.len.toNat),
    (match op with | .unknown _ => true | _ => false, rep .badOpcode 0),
    (match i.fn with | .both => false | .pf0 => pf1 | .pf1 => !pf1, rep .badOpcode 1),
    (p.rsvd, repBad 0x1001),
    (p.commit && !opStaging op, repBad 0x1004)]

/-- Packet word 0 (R57). -/
def hdrWord (op : Op) (p : Packet) : Word :=
  wd (b2n p.rsvd * 2 ^ 31 + b2n p.commit * 2 ^ 30 + b2n p.fence * 2 ^ 29 + b2n p.irq * 2 ^ 28 + p.len.toNat * 2 ^ 16
    + (opInfo op).code % 65536)

/-- The words of a packet as they stand in its ring. -/
def packetWords (op : Op) (p : Packet) : List Word := hdrWord op p :: lo32 p.seq :: hi32 p.seq :: p.tag :: p.p

/-! ## Ring registers (R50) -/

def kSqTail (n : Nat) : Nat := kDB n + 0x00
def kCqHead (n : Nat) : Nat := kDB n + 0x04
def kSqHead (n : Nat) : Nat := kDB n + 0x08
def kCqTail (n : Nat) : Nat := kDB n + 0x0C
def kSqBase (n : Nat) : Nat := kDB n + 0x10
def kCqBase (n : Nat) : Nat := kDB n + 0x18
def kRingCfg (n : Nat) : Nat := kDB n + 0x20
def kRingStat (n : Nat) : Nat := kDB n + 0x24
def kSqSeq (n : Nat) : Nat := kDB n + 0x28
def kAccepted (n : Nat) : Nat := kDB n + 0x30
def kCompleted (n : Nat) : Nat := kDB n + 0x38

/-- Ring size in words. -/
def State.sqWords (s : State) (n : Nat) : Nat := 2 ^ (10 + s.regF (kRingCfg n) 0 4)

/-- Ring size in completion entries. -/
def State.cqEntries (s : State) (n : Nat) : Nat := 2 ^ (7 + s.regF (kRingCfg n) 8 4)

/-- ACTIVE of `FOY_RINGSTAT`. -/
def State.ringActive (s : State) (n : Nat) : Bool := s.regB (kRingStat n) 31

/-- Words placed and not yet fetched. -/
def State.sqAvail (s : State) (n : Nat) : Nat := (s.reg (kSqTail n) - s.reg (kSqHead n)).toNat

/-- The Bell board source of ring n's completions (R62). -/
def ringSource (n : Nat) : Nat := 1 + n

/-! ## The journal (R77 to R82) -/

def kJBase : Nat := kFOY + 0x300
def kJOpen : Nat := kFOY + 0x308
def kJNext : Nat := kFOY + 0x30C
def kJStat : Nat := kFOY + 0x310
def kRecovery : Nat := kFOY + 0x314
def kJLost : Nat := kFOY + 0x318

/-- Offset of a payload slot in the journal (R78). -/
def slotOff (slot : Nat) : Nat := 0x400000 + 16384 * slot

/-- The code of a journal STATE (R79). -/
def jstateCode : JState → Nat
  | .free => 0 | .accepted => 1 | .started => 2 | .staged => 3 | .complete => 4

/-- The sixteen words of a journal entry (R79); words 6 to 11, which are valid in COMPLETE, are 0 before it (DESIGN CHOICE, log 111). -/
def jWords (e : JEntry) : List Word :=
  let c := decide (e.state = .complete)
  let w : List Word :=
    [e.hdr, lo32 e.seq, hi32 e.seq, e.tag,
     wd (e.slot % 4096 * 2 ^ 12 + b2n e.replayed * 2 ^ 9 + b2n e.mirror * 2 ^ 8 + jstateCode e.state * 2 ^ 5 + e.ring % 32),
     e.sqend, if c then e.cqidx else 0,
     if c then wd (e.reply.detail % 65536 * 65536 + statusCode e.reply.status) else 0,
     if c then e.reply.res0 else 0, if c then e.reply.res1 else 0, if c then e.reply.res2 else 0,
     if c then e.ctime else 0, e.atime, e.feat, wd (e.epoch % 65536)]
  w ++ [crc32 (wsBytes w)]

/-- Journal entry i. -/
def State.jAt (s : State) (i : Nat) : Option JEntry := Tbl.get (fun _ => none) s.foy.journal i

/-- A write to one copy of the journal has failed under the mirror: the journal is degraded until the next cold boot, and the copy is not waited for again (R83). -/
def State.jFailed (s : State) (i : Nat) (bad : Option Nat) (chan : Nat) : State :=
  if bad.isNone || s.regB kJStat 29 then s
  else (s.setB kJStat 29 true).errRec sevContained 0x01 0x0033 chan .uncorr (wd i) 0

/-- The Foyer writes bytes into the journal, for entry i: to both copies under the mirror, each as far as it can be written (R77, R83).  An error met without the mirror is recorded as any other (DESIGN CHOICE, log 67). -/
def State.jWrite (s : State) (i off : Nat) (bs : List Byte) : State :=
  if !s.regB kJStat 31 then s
  else
    let a := s.addr40 kJBase + off
    let p : Place := .cellar 63
    let r := (linePieces a bs.length).foldl (fun (e : (Option Nat × Option Nat) × State) q =>
      let x := e.2.writeTwo p q.1 (pieceBytes a bs q)
      ((e.1.1.or x.1.1, e.1.2.or x.1.2), x.2)) ((none, none), s.celSend 0x01 true p a bs.length)
    if s.regB kJStat 30 then (r.2.jFailed i r.1.1 (s.regF kJStat 20 3)).jFailed i r.1.2 (s.regF kJStat 16 3)
    else match r.1.1 with
      | some c => r.2.ueRecord 0x01 0 (c / 64 * 64)
      | none => r.2

/-- Write a journal entry as one 64-byte write; MIRROR tells whether the mirror is active (R79, R83). -/
def State.jSet (s : State) (i : Nat) (e : JEntry) : State :=
  let e := { e with mirror := s.regB kJStat 30 }
  { s with foy := { s.foy with journal := Tbl.set (fun _ => none) s.foy.journal i (some e) } }.jWrite i (64 * i) (wsBytes (jWords e))

/-- The open command of a journal entry is executed by a replay. -/
def State.replays (s : State) (i : Nat) : Bool := s.foy.opens.any fun o => decide (o.idx = i) && o.replay

/-- Move the STATE of a journal entry (R80). -/
def State.jState (s : State) (i : Nat) (st : JState) : State :=
  match s.jAt i with
  | some e => s.jSet i { e with state := st, replayed := e.replayed || s.replays i }
  | none => s

/-- The payload slot that an acceptance takes: the lowest that no open command holds (R80) (DESIGN CHOICE, log 109). -/
def State.freeSlot (s : State) : Nat :=
  let used := s.foy.opens.filterMap fun o => (s.jAt o.idx).map (·.slot)
  ((List.range 4096).find? fun i => !used.contains i).getD 0

/-- Number of open commands (`FOY_JOPEN`). -/
def State.openCount (s : State) : Nat := s.foy.opens.length

/-- Replace the list of open commands, and `FOY_JOPEN` with it (R82). -/
def State.setOpens (s : State) (l : List Open) : State :=
  { s with foy := { s.foy with opens := l } }.setReg kJOpen (wd l.length)

/-- Change the open command with an acceptance number. -/
def State.updOpen (s : State) (acc : Nat) (f : Open → Open) : State :=
  { s with foy := { s.foy with opens := s.foy.opens.map fun o => if o.acc = acc then f o else o } }

/-! ## Completion entries (R60 to R62) -/

/-- The eight words of completion entry i of a ring of E entries (R60, R61). -/
def centryWords (e : CEntry) (i entries : Nat) : List Word :=
  let phase := 1 - i / entries % 2
  [lo32 e.seq, putFld (hi32 e.seq) 31 1 phase, e.tag,
   wd (e.reply.detail % 65536 * 65536 + statusCode e.reply.status), e.reply.res0, e.reply.res1, e.reply.res2, e.time]

/-- Completion ring n has room for an entry. -/
def State.cqRoom (s : State) (n : Nat) : Bool :=
  decide ((s.reg (kCqTail n) - s.reg (kCqHead n)).toNat < s.cqEntries n)

/-- The ring's base was cleared by a Function Level Reset, so that no entry can be written to it until it is enabled again (R56, R90) (DEDUCED, log 18). -/
def State.cqGone (s : State) (n : Nat) : Bool := s.foy.gone.contains n

/-- The words of entry i of a completion ring go to host memory. -/
def State.cqStore (s : State) (e : CEntry) (i : Nat) : State :=
  let n := e.ring
  let base := (dw (s.reg (kCqBase n)) (s.reg (kCqBase n + 4))).toNat
  s.hostWrite (base + 32 * (i % s.cqEntries n)) (wsBytes (centryWords e i (s.cqEntries n)))

/-- Write one completion entry to its ring and assert the ring's source when the packet's IRQ flag is set (R61, R62). -/
def State.writeEntry (s : State) (e : CEntry) : State :=
  let n := e.ring
  let i := (s.reg (kCqTail n)).toNat
  let s := (s.cqStore e i).incReg (kCqTail n)
  if e.irq then s.pulse (ringSource n) else s

/-- An entry for ring n is held already. -/
def State.heldFor (s : State) (n : Nat) : Bool := s.foy.held.any fun e => decide (e.ring = n)

/-- Write an entry, or hold it while the completion ring is full (R62); a ring without a base takes none (R90). -/
def State.putEntry (s : State) (e : CEntry) : State :=
  if s.cqGone e.ring then s
  else if s.heldFor e.ring || !s.cqRoom e.ring then
    { s with foy := { s.foy with held := s.foy.held ++ [e] } }.setB (kRingStat e.ring) 30 true
  else s.writeEntry e

/-- Write the held entries of ring n while there is room; CQFULL clears when none is left (R62). -/
def State.releaseHeld (s : State) (n : Nat) : State :=
  let mine := s.foy.held.filter fun e => decide (e.ring = n)
  let room := s.cqEntries n - (s.reg (kCqTail n) - s.reg (kCqHead n)).toNat
  let out := mine.take room
  let left := mine.drop room
  let s := { s with foy := { s.foy with held := s.foy.held.filter (fun (e : CEntry) => decide (e.ring ≠ n)) ++ left } }
  (s.each out State.writeEntry).setB (kRingStat n) 30 (!left.isEmpty)

/-- `DUPLICATE` entry of a resubmission (R90). -/
def dupEntry (ring : Nat) (seq : DWord) (tag : Word) (irq : Bool) (detail : Nat) (r : Reply) (time : Word) : CEntry :=
  ⟨ring, seq, tag, ⟨.duplicate, detail, r.res0, r.res1, r.res2⟩, time, irq, none⟩

/-- The commit point of an open command: the record is journaled, `FOY_COMPLETED` moves, the payload slot is freed, and the entry and the replies to its resubmissions are written in order (R59 steps 6 and 7, R80, R90). -/
def State.complete (s : State) (o : Open) (r : Reply) : State :=
  let n := o.pkt.ring.val
  let t := o.ftime.getD s.now32
  let cq := s.reg (kCqTail n) + wd (List.length (s.foy.held.filter fun e => decide (e.ring = n)))
  let s := match s.jAt o.idx with
    | some e => s.jSet o.idx { e with state := .complete, reply := r, cqidx := cq, ctime := t, replayed := e.replayed || o.replay }
    | none => s
  let s := s.setOpens (s.foy.opens.filter fun x => decide (x.acc ≠ o.acc))
  let s := s.setW64 (kCompleted n) o.pkt.seq
  let s := s.putEntry ⟨n, o.pkt.seq, o.pkt.tag, r, t, o.pkt.irq, some o.idx⟩
  s.each o.dups fun s d => s.putEntry (dupEntry n o.pkt.seq d.1 d.2 (statusCode r.status) r t)

/-! ## Finishing the work of a command -/

/-- A wait that ends in a swap cycle, for a command of kind SWAP (R63). -/
def Wait.swapKind : Wait → Bool
  | .swap _ _ _ _ | .start _ | .mantel _ => true
  | _ => false

/-- The open commands that wait for something are finished with a reply (DEDUCED, log 66). -/
def State.finish (s : State) (w : Wait) (r : Reply) : State :=
  { s with foy := { s.foy with opens := s.foy.opens.map fun o =>
      if o.wait = w ∧ o.begun ∧ o.fin = none then
        { o with fin := some r, wait := .none, ftime := if w.swapKind then some s.now32 else none }
      else o } }

/-- Finish the open command with an acceptance number. -/
def State.finishAcc (s : State) (acc : Nat) (r : Reply) : State :=
  s.updOpen acc fun o => if o.begun ∧ o.fin = none then { o with fin := some r, wait := .none } else o

/-- Is some open command waiting for this? -/
def State.awaited (s : State) (w : Wait) : Bool :=
  s.foy.opens.any fun o => o.begun && decide (o.fin = none) && decide (o.wait = w)

/-- What beginning a command gives: its finished reply, what it waits for, or that it cannot begin yet. -/
inductive Started where
  | done (r : Reply)
  | wait (w : Wait)
  | later
  /-- Not begun yet; its checks have passed, and it waits for this. -/
  | hold (w : Wait)
  deriving DecidableEq, Repr

/-- Feature bit k of the set a command is judged against: FEAT, recorded at its acceptance (R75, R85) (DEDUCED, log 14). -/
def Open.hasFeat (o : Open) (k : Nat) : Bool := bit o.feat k

end Sys2Proof.Machine
end

