-- ==== Sys2Proof/Machine/HeadCore.lean ====
section
/-! DEFINITION. What every part of a head uses: its three sets of registers, staging, the timing limits, canvas membership, positions, and the commit request (R7 to R26, R95 to R109). -/

namespace Sys2Proof.Machine

/-- Head h beyond its registers. -/
def State.head (s : State) (h : Nat) : Head := Tbl.get (fun _ => headInit) s.heads h

/-- Store a head. -/
def State.setHead (s : State) (h : Nat) (v : Head) : State := { s with heads := Tbl.set (fun _ => headInit) s.heads h v }

/-- Change a head. -/
def State.updHead (s : State) (h : Nat) (f : Head → Head) : State := s.setHead h (f (s.head h))

/-! ## What happened in a pixel clock

Tags: 0 to 9 an entry of that OP executed; the others as named. -/

def tMet : Nat := 20
def tFenceDone : Nat := 21
def tWrite : Nat := 22
def tIrq : Nat := 23
def tStamp : Nat := 24
def tBudget : Nat := 25
def tWindow : Nat := 26
def tLine : Nat := 30
def tSpLoaded : Nat := 31
def tSpEval : Nat := 32
def tLineRead : Nat := 33
def tMtRead : Nat := 34
def tWbLine : Nat := 35
def tVoice : Nat := 36

/-- Note what happened. -/
def State.mark (s : State) (h tag : Nat) : State := s.updHead h fun v => { v with did := tag :: v.did }

/-- A register of head h: the shadow value of an `RWS` register (R36). -/
def State.hd (s : State) (h o : Nat) : Word := s.reg (kHD h + o)

def State.setHd (s : State) (h o : Nat) (v : Word) : State := s.setReg (kHD h + o) v

/-- The committed value of an `RWS` register of head h (R95). -/
def State.cm (s : State) (h o : Nat) : Word := Tbl.get regReset s.com (kHD h + o)

def State.setCm (s : State) (h o : Nat) (v : Word) : State := { s with com := Tbl.set regReset s.com (kHD h + o) v }

/-- The active copy of an `RWB` register (R95), at the shadow offset + 0x1000 (R146). -/
def State.act (s : State) (h o : Nat) : Word := s.reg (kHD h + 0x1000 + o)

/-- The unit ID of head h (R32). -/
def uHead (h : Nat) : Nat := 0x10 + h

/-- The `RWS` registers of a head page (R16, R97, R145, R172, R203, R215, R239, R272). -/
def rwsOffs : List Nat :=
  [0x00, 0x04, 0x08, 0x0C, 0x10, 0x14, 0x18, 0x1C, 0x20, 0x24, 0x28, 0x60, 0x64, 0x84]
  ++ (List.range 8).flatMap (fun p => (List.range 10).map fun k => 0x400 + 0x40 * p + 4 * k)
  ++ (List.range 2).flatMap (fun b => (List.range 9).map fun k => 0x600 + 0x40 * b + 4 * k)
  ++ (List.range 2).flatMap (fun p => (List.range 7).map fun k => 0x680 + 0x20 * p + 4 * k)
  ++ [0x800, 0x804, 0x808, 0x80C, 0x900, 0x904, 0x908, 0xA00, 0xA04, 0xA08, 0xA10, 0xA14, 0xA18, 0xA1C]
  ++ (List.range 11).map (fun l => 0xA40 + 4 * l)
  ++ [0xAC0, 0xAC4, 0xAC8, 0xACC]
  ++ (List.range 64).map (fun k => 0xD00 + 4 * k)

/-- A write of an `RWS` register: the shadow takes it and DIRTY sets (R96). -/
def State.stage (s : State) (h o : Nat) (v : Word) : State := (s.setHd h o v).setB (kHD h + 0x44) 31 true

/-- The shadow set and the committed set of head h, as functions of the register's offset. -/
def State.shSet (s : State) (h : Nat) : Nat → Word := s.hd h
def State.cmSet (s : State) (h : Nat) : Nat → Word := s.cm h

/-! ## Timing values of a set -/

def gHact (g : Nat → Word) : Nat := fld (g 0x00) 0 14
def gHtotal (g : Nat → Word) : Nat := fld (g 0x00) 0 14 + fld (g 0x04) 0 14 + fld (g 0x08) 0 14 + fld (g 0x0C) 0 14
def gVact (g : Nat → Word) : Nat := fld (g 0x10) 0 14
def gVtotal (g : Nat → Word) : Nat := fld (g 0x10) 0 14 + fld (g 0x14) 0 14 + fld (g 0x18) 0 14 + fld (g 0x1C) 0 14
/-- f of R97 in hertz. -/
def gFreq (g : Nat → Word) : Nat := fld (g 0x20) 0 21 * 1000 + fld (g 0x20) 21 10
def gLegacy (g : Nat → Word) : Bool := bit (g 0x24) 0
def gGlen (g : Nat → Word) : Bool := bit (g 0x24) 1
def gGlofs (g : Nat → Word) : Nat := fld (g 0x24) 16 14
def gLines (g : Nat → Word) : Nat := fld (g 0x28) 0 10
def gCanvasEn (g : Nat → Word) : Bool := bit (g 0x60) 31
def gCanvas (g : Nat → Word) : Nat := fld (g 0x60) 0 3

/-- The fields that the members of a canvas must share (R22, R109). -/
def gShared (g : Nat → Word) : List Nat :=
  (List.range 8).map (fun k => fld (g (4 * k)) 0 14) ++ [fld (g 0x20) 0 31, b2n (gLegacy g), gLines g, b2n (gGlen g), gGlofs g]

/-- Feature bit k as the sets of head h are judged by it: of the active set, or of FEAT of a replayed command that commits the head (R75, R85) (DEDUCED, log 115). -/
def State.featFor (s : State) (h k : Nat) : Bool :=
  s.feat k || s.foy.opens.any fun o => o.replay && o.fin.isNone && o.hasFeat k &&
    (match o.wait with
     | .swap left _ _ _ => bit left h
     | .start x => decide (x = h)
     | _ => decide (o.op = .headEnable) && decide (fld (pw o.pkt 0) 0 5 = h))

/-- Causes 0x01 to 0x0C and 0x0F of a set, under a feature set (R98, R99). -/
def timingCauses (ft : Nat → Bool) (g : Nat → Word) : List Nat :=
  let hact := gHact g
  let vact := gVact g
  let ht := gHtotal g
  let vt := gVtotal g
  let f := gFreq g
  let is (b : Bool) (c : Nat) : List Nat := if b then [c] else []
  is (fld (g 0x08) 0 14 = 0 || fld (g 0x18) 0 14 = 0) 0x01 ++
  is (hact = 0 || vact = 0) 0x02 ++
  is (hact < 16 || 5120 < hact || hact % 2 = 1) 0x03 ++
  is (vact < 8 || 4096 < vact) 0x04 ++
  is (16383 < ht || ht % 2 = 1) 0x05 ++
  is (16383 < vt) 0x06 ++
  is (ht - hact < 32) 0x07 ++
  is (vt - vact < 4) 0x08 ++
  is (f < 25000000 || 1200000000 < f || 999 < fld (g 0x20) 21 10) 0x09 ++
  is (vact ≤ gLines g) 0x0A ++
  is (gLegacy g && !ft 0) 0x0B ++
  is ((gGlen g && !ft 17) || vt ≤ gGlofs g) 0x0C ++
  is (65536 < fld (g 0x64) 0 16 + hact || 65536 < fld (g 0x64) 16 16 + vact) 0x0F

/-! ## Canvases (R22 to R24, R110 to R113) -/

/-- The enabled members of canvas c under their committed sets, ascending. -/
def State.members (s : State) (c : Nat) : List Nat :=
  (List.range 32).filter fun h => (s.head h).enabled && gCanvasEn (s.cmSet h) && decide (gCanvas (s.cmSet h) = c)

/-- The heads that swap with head h: its canvas, or itself alone. -/
def State.swapGroup (s : State) (h : Nat) : List Nat :=
  if gCanvasEn (s.cmSet h) then s.members (gCanvas (s.cmSet h)) else [h]

/-- The leader of head h's canvas, or h itself (R111). -/
def State.leader (s : State) (h : Nat) : Nat := (s.swapGroup h).head?.getD h

/-- The set a head runs after a swap: its staged set when its commit is taken, else its committed set (R113). -/
def State.effSet (s : State) (taken : Nat → Bool) (h : Nat) : Nat → Word :=
  if taken h then s.shSet h else s.cmSet h

/-- Cause 0x0D (R22, R99, R109): the set of h differs in a shared field from the leader's of the canvas it is placed in; the leader's own set is refused where a member that commits nothing differs from it (DEDUCED, log 116). -/
def State.canvasCause (s : State) (taken : Nat → Bool) (h : Nat) : List Nat :=
  let g := s.shSet h
  if !gCanvasEn g then []
  else
    let others := (List.range 32).filter fun k => decide (k ≠ h) && (s.head k).enabled &&
      gCanvasEn (s.effSet taken k) && decide (gCanvas (s.effSet taken k) = gCanvas g)
    let differs (k : Nat) : Bool := decide (gShared (s.effSet taken k) ≠ gShared g)
    let bad := match others with
      | [] => false
      | l :: _ => if l < h then differs l else others.any fun k => !taken k && differs k
    if bad then [0x0D] else []

/-! ## Positions -/

/-- The distance in pixel clocks of a position from the boundary cycle that begins its frame period (R9, R14). -/
def beamIndex (g : Nat → Word) (x y : Nat) : Nat :=
  let vt := gVtotal g
  (if gVact g ≤ y then y - gVact g else y + vt - gVact g) * gHtotal g + x

/-- The position after one pixel clock (R7). -/
def nextPos (g : Nat → Word) (x y : Nat) : Nat × Nat :=
  if x + 1 < gHtotal g then (x + 1, y) else (0, if y + 1 < gVtotal g then y + 1 else 0)

/-- `HD_BEAMPOS` (R16): 0 while the head is disabled, and while its PLL has not locked (DESIGN CHOICE, log 103). -/
def State.beampos (s : State) (h : Nat) : Word :=
  let v := s.head h
  if v.phase = .stopped then 0
  else wd (b2n (decide (gVact (s.cmSet h) ≤ v.y)) * 2 ^ 31 + b2n (decide (gHact (s.cmSet h) ≤ v.x)) * 2 ^ 30
    + v.y % 2 ^ 14 * 2 ^ 16 + v.x % 2 ^ 14)

/-- `HD_FRAME` and `HD_FBTIME` (R16). -/
def kFrame (h : Nat) : Nat := kHD h + 0x88
def kFbTime (h : Nat) : Nat := kHD h + 0x90
def State.frame (s : State) (h : Nat) : DWord := s.w64 (kFrame h)

/-! ## The commit request (R103 to R109) -/

/-- `HD_COMMIT.GO` of head h. -/
def State.go (s : State) (h : Nat) : Bool := s.regB (kHD h + 0x40) 0
/-- `HD_CSTAT.LATEWAIT`. -/
def State.lateWait (s : State) (h : Nat) : Bool := s.regB (kHD h + 0x44) 30

/-- A commit whose GO becomes 1 now is late (R107): the compatibility commit rules, and the output position has reached the deadline. -/
def State.goLate (s : State) (h : Nat) : Bool :=
  let g := s.cmSet h
  let v := s.head h
  s.feat 0 && gLegacy g && !(v.starting && v.restart.isSome) &&
    match v.phase with
    | .boundary => true
    | .aligning => decide (gLines g ≠ 0)
    | .frame => decide (gVtotal g - gLines g ≤ beamIndex g v.x v.y / gHtotal g)
    | _ => false

/-- GO becomes 1 (R103, R107, R108); a GO that is already set stays as it is. -/
def State.requestCommit (s : State) (h : Nat) : State :=
  if s.go h then s
  else
    let late := s.goLate h
    let s := s.setB (kHD h + 0x40) 0 true
    if late then
      ((s.setReg (kHD h + 0x44) (s.hd h 0x44 ||| 0x60000000)).incReg (kHD h + 0x48)).updHead h
        fun v => { v with isLate := true, latePassed := false }
    else s.updHead h fun v => { v with isLate := false, latePassed := false }

/-- The reply of a commit that has been decided on every head (R65, R108, R113) (DEDUCED, log 65). -/
def State.commitReply (s : State) (swapped refused : Word) (late : Bool) : Reply :=
  let low (m : Word) : Nat := ((List.range 32).find? fun h => bit m h).getD 0
  if refused = 0 then
    let f := s.frame (low swapped)
    ⟨.ok, b2n late, lo32 f, hi32 f, swapped⟩
  else ⟨.configMismatch, 0x10 + low refused,
    lo32 (s.frame (low (swapped ||| refused))), hi32 (s.frame (low (swapped ||| refused))), swapped⟩

/-- A commit of head h has been taken or refused: every open command that named h notes it, and is finished when no head is left (R65, R106, R113). -/
def State.noteSwap (s : State) (h : Nat) (taken late : Bool) : State :=
  let b := flag h true
  { s with foy := { s.foy with opens := s.foy.opens.map fun o =>
      match o.wait with
      | .swap left sw rf lt =>
        if o.begun && o.fin.isNone && bit left h then
          let left' := left &&& ~~~ b
          let sw' := if taken then sw ||| b else sw
          let rf' := if taken then rf else rf ||| b
          let lt' := lt || late
          if left' = 0 then { o with fin := some (s.commitReply sw' rf' lt'), ftime := some s.now32, wait := .none }
          else { o with wait := .swap left' sw' rf' lt' }
        else o
      | _ => o } }

/-- What a staging command with COMMIT = 1 does after its staging, or answers without it (R64). -/
def commitAfter (o : Open) (heads : List Nat) (r : Reply) (s : State) : Started × State :=
  if o.pkt.commit && !heads.isEmpty then
    let s := s.jState o.idx .staged
    (.wait (.swap (heads.foldl (fun m h => m ||| flag h true) 0) 0 0 false), s.each heads State.requestCommit)
  else (.done r, s)

/-! ## Checks on a head that a command names (R5, R70, R71, R105) -/

/-- The absent-unit fault of head h (R5) (DEDUCED, log 96). -/
def State.absentHead (s : State) (h : Nat) : Bool × Reply := (!s.headPresent h, repBad (0x20 + h / 8))

/-- The expert fault of head h (R71). -/
def State.expertHead (s : State) (h : Nat) : Bool × Reply := (s.expert (uHead h), rep .unitExpert (uHead h))

/-- COMMIT = 1 on a disabled head (R105). -/
def State.commitDisabled (s : State) (o : Open) (h : Nat) : Bool × Reply :=
  (o.pkt.commit && !(s.head h).enabled, rep .notReady (uHead h))

end Sys2Proof.Machine
end

