-- ==== Sys2Proof/Machine/Events.lean ====
section
/-! DEFINITION. What one unit's event does to the units that take it: Dumbwaiter request lines, captures, voice starts and pin sequencer waits (R18, R345, R370, R448, R450, R458). -/

namespace Sys2Proof.Machine

/-! ## Dumbwaiter request lines (R345, R346) -/

/-- First key of Dumbwaiter channel c. -/
def kDw (c : Nat) : Nat := kDWT + 0x80 * c

def State.dwc (s : State) (c : Nat) : DwtCh := Tbl.get (fun _ => dwtInit) s.dwt c

def State.setDw (s : State) (c : Nat) (v : DwtCh) : State := { s with dwt := Tbl.set (fun _ => dwtInit) s.dwt c v }

/-- Channel c has a current descriptor with PACE = 1 on a line. -/
def State.dwPaced (s : State) (c line : Nat) : Bool :=
  match (s.dwc c).desc with
  | w :: _ => s.regB (kDw c + 4) 31 && bit w 29 && decide (fld w 16 8 = line)
  | [] => false

/-- Latch one request of channel c (R346): no burst waits for one any more. -/
def State.dwLatch (s : State) (c : Nat) : State :=
  let n := s.regF (kDw c + 0x34) 0 4
  let s := s.setB (kDw c + 4) 30 false
  if n = 15 then s.setB (kDw c + 0x34) 31 true else s.setF (kDw c + 0x34) 0 4 (n + 1)

/-- A rising edge of a request line: every channel that selects it latches it. -/
def State.request (s : State) (line : Nat) : State :=
  s.each (List.range 64) fun s c => if s.dwPaced c line then s.dwLatch c else s

/-! ## Captures (R450 to R452) -/

/-- First keys of compare channel k and capture channel k (R453). -/
def kCmp (k : Nat) : Nat := kTMB + 0x100 + 0x10 * k
def kCap (k : Nat) : Nat := kTMB + 0x800 + 0x20 * k

/-- Under these keys of `wide` stand what the last arming of compare channel k sampled, with `TMB_NOW` of its cycle, and the PRE that the last set of capture channel k sampled (R447, R450, R454). -/
def kCmpSet (k : Nat) : Nat := kCmp k
def kCmpFlags (k : Nat) : Nat := kCmp k + 4
def kCmpArmed (k : Nat) : Nat := kCmp k + 8
def kCapPre (k : Nat) : Nat := kCap k + 4

def State.cap (s : State) (k : Nat) : CapCh := Tbl.get (fun _ => capInit) s.caps k

/-- Store a capture channel; COUNT and source 328 + k follow its FIFO (R452). -/
def State.setCap (s : State) (k : Nat) (v : CapCh) : State :=
  let s := { s with caps := Tbl.set (fun _ => capInit) s.caps k v }
  let s := s.setF (kCap k + 8) 0 3 v.fifo.length
  s.level (328 + k) (!v.fifo.isEmpty)

/-- What a capture latches of a head: its frame and output position, or zeros for a disabled one (R451). -/
def State.capOf (s : State) (head : Option Nat) : Cap :=
  match head with
  | some h =>
    let v := s.head h
    if v.phase = .stopped then ⟨s.now, 0, 0, 0, false⟩ else ⟨s.now, s.frame h, v.x, v.y, true⟩
  | none => ⟨s.now, 0, 0, 0, false⟩

/-- The head a capture channel latches: that of its head event, or BHEAD with BEAM = 1. -/
def capHead (cfg : Word) : Option Nat :=
  let i := fld cfg 0 8
  if 0x60 ≤ i ∧ i < 0xA0 then some (i % 32) else if bit cfg 28 then some (fld cfg 23 5) else none

/-- A qualifying event of channel k: counted by the prescaler, recorded, or lost to a full FIFO (R451, R452). -/
def State.capQualify (s : State) (k : Nat) : State :=
  let v := s.cap k
  let cfg := s.reg (kCap k)
  if v.pre < (s.w64 (kCapPre k)).toNat then s.setCap k { v with pre := v.pre + 1 }
  else if 4 ≤ v.fifo.length then (s.setCap k { v with pre := 0 }).setB (kCap k + 8) 30 true
  else (s.setCap k ⟨v.fifo ++ [s.capOf (capHead cfg)], 0⟩).setB (kCap k + 8) 31 true

/-- An event inside the device reaches the capture channels that select it. -/
def State.capEvent (s : State) (insel : Nat) : State :=
  s.each (List.range 32) fun s k =>
    let cfg := s.reg (kCap k)
    if bit cfg 31 && decide (fld cfg 0 8 = insel) then s.capQualify k else s

/-! ## Voice starts (R370) -/

/-- First key of voice v (R397). -/
def kVc (v : Nat) : Nat := kMUS + 0x1000 + 0x40 * v

def State.voice (s : State) (v : Nat) : Voice := Tbl.get (fun _ => voiceInit) s.mus.voices v

def State.setVoice (s : State) (v : Nat) (x : Voice) : State :=
  { s with mus := { s.mus with voices := Tbl.set (fun _ => voiceInit) s.mus.voices v x } }

/-- A start event reaches every voice armed for it; each latches only its first (R370). -/
def State.voiceEvent (s : State) (kind src : Nat) (pos : Nat → Bool) : State :=
  s.each (s.mus.voices.map (·.1)) fun s v =>
    let x := s.voice v
    match x.arm with
    | some (p1 :: p2 :: _) =>
      if x.event.isNone && decide (fld p1 28 4 = kind) && decide (fld p1 16 6 = src) && pos p2.toNat then
        s.setVoice v { x with event := some s.now }
      else s
    | _ => s

/-! ## Pin sequencer waits (R458) -/

def State.psqCh (s : State) (i : Nat) : PsqCh := Tbl.get (fun _ => psqInit) s.psq i

def State.setPsqCh (s : State) (i : Nat) (v : PsqCh) : State := { s with psq := Tbl.set (fun _ => psqInit) s.psq i v }

/-- First key of the registers of channel i = 32 × engine + channel (R467). -/
def kPc (i : Nat) : Nat := kPSQ + 0x3000 * (i / 32) + 0x2000 + 0x40 * (i % 32)

/-- A latched AWAIT on the event notes its arrival. -/
def psqLatEvent (kind n : Nat) (l : PsqLat) : PsqLat :=
  if fld l.w 28 4 = 6 ∧ fld l.w 24 4 = kind ∧ (if kind = 3 then fld l.w 0 6 else fld l.w 0 5) = n then { l with ev := true } else l

/-- An event reaches every pin sequencer AWAIT on it (kind 1 FRAME, 2 LINE, 3 compare). -/
def State.psqEvent (s : State) (kind n : Nat) : State :=
  s.each (s.psq.map (·.1)) fun s i =>
    let v := s.psqCh i
    s.setPsqCh i { v with latch := v.latch.map (psqLatEvent kind n), ahead := v.ahead.map (psqLatEvent kind n) }

/-! ## Compare firings and head events -/

/-- A compare channel fires (R448). -/
def State.fireCompare (s : State) (k : Nat) : State :=
  let c := kCmp k
  let s := (s.setB (c + 8) 31 false).setB (c + 8) 30 true
  let s := s.setReg (c + 0xC) s.now32
  let s := if (s.w64 (kCmpFlags k)).getLsbD 0 then s.pulse (264 + k) else s
  let s := if (s.w64 (kCmpFlags k)).getLsbD 1 then s.request (138 + k) else s
  ((s.voiceEvent 4 k fun _ => true).psqEvent 3 k).capEvent (0xC0 + k)

/-- LINE of head h (R18). -/
def State.headLine (s : State) (h : Nat) : State :=
  (((s.pulse (64 + 4 * h + 1)).voiceEvent 2 h fun _ => true).capEvent (0x80 + h)).psqEvent 2 h

/-- LINE is raised once for what falls in one pixel clock (R19, R196). -/
def State.raiseLine (s : State) (h : Nat) : State :=
  if (s.head h).did.contains tLine then s else (s.mark h tLine).headLine h

/-- FRAME of head h, with its request line (R10 step 8, R18). -/
def State.headFrame (s : State) (h : Nat) : State :=
  ((((s.pulse (64 + 4 * h)).request (202 + h)).voiceEvent 1 h fun _ => true).capEvent (0x60 + h)).psqEvent 1 h

/-- The output position of head h reaches (x, y): voices armed with kind 3 for it latch their start (R370). -/
def State.headPosition (s : State) (h x y : Nat) : State := s.voiceEvent 3 h fun p => decide (p = y * 2 ^ 16 + x)

end Sys2Proof.Machine
end

