-- ==== Sys2Proof/Machine/Timebase.lean ====
section
/-! DEFINITION. The time base: compare and capture channels (R445 to R454). -/

namespace Sys2Proof.Machine

/-- The expert fault of a unit (R71). -/
def State.expertUnit (s : State) (u : Nat) : Bool × Reply := (s.expert u, rep .unitExpert u)

/-- The absent-unit fault of presence bit 32 + j (R5). -/
def State.absentBit (s : State) (j : Nat) : Bool × Reply := (!s.present j, repBad (0x20 + j))

/-! ## Compare channels (R447 to R449) -/

/-- Arm channel k with an absolute value and its IRQ and REQ flags; the earlier arming never fires (R449). -/
def State.armCompare (s : State) (k : Nat) (v : DWord) (flags : Nat) : State :=
  let c := kCmp k
  let s := ((s.setReg c (lo32 v)).setReg (c + 4) (hi32 v)).setW64 (kCmpArmed k) s.now
  let s := (s.setW64 (kCmpSet k) v).setW64 (kCmpFlags k) (BitVec.ofNat 64 flags)
  (s.setF (c + 8) 0 2 flags).setB (c + 8) 31 true

/-- `TMB_CMPVAL` of channel k, and the value it was armed with. -/
def State.cmpReg (s : State) (k : Nat) : DWord := dw (s.reg (kCmp k)) (s.reg (kCmp k + 4))
def State.cmpValue (s : State) (k : Nat) : DWord := s.w64 (kCmpSet k)

/-- The checks of `TIMER_COMPARE_ARM`: the reply of the first that fails. -/
def timerCompareArmFault (o : Open) (s : State) : Option Reply :=
  let p3 := pw o.pkt 3
  let dis := bit p3 31
  firstFail [s.expertUnit 7, (outside o.pkt 0 0x3F, repBadP 0),
      (outside o.pkt 3 0x80000007 || (dis && decide (p3 ≠ 0x80000000)), repBadP 3)]

/-- `TIMER_COMPARE_ARM` (R447). -/
def beginTimerCompareArm (o : Open) (s : State) : Started × State :=
  match timerCompareArmFault o s with
  | some r => (.done r, s)
  | none =>
      let k := (pw o.pkt 0).toNat
      let p3 := pw o.pkt 3
      let dis := bit p3 31
      if dis then
        if s.regB (kCmp k + 8) 31 then (.done repOk, s.setB (kCmp k + 8) 31 false) else (.done (rep .okEmpty 0), s)
      else
        let v := dw (pw o.pkt 1) (pw o.pkt 2)
        (.done repOk, s.armCompare k (if bit p3 2 then s.now + v else v) (fld p3 0 2))

/-- A write of `TMB_CMPCTL` under expert control: ARM samples the value and the flags as one set (R454). -/
def State.tmbCmpWrite (s : State) (k : Nat) (v : Word) : State :=
  let c := kCmp k
  let s := s.setReg (c + 8) (s.reg (c + 8) &&& ~~~ (v &&& 0x60000000))
  let s := s.setF (c + 8) 0 2 (fld v 0 2)
  if bit v 31 then s.armCompare k (s.cmpReg k) (fld v 0 2) else s

/-- Channel k fires once `TMB_NOW` has reached its value (R448). -/
def State.compareDue (s : State) (k : Nat) : State :=
  let c := kCmp k
  if s.regB (c + 8) 31 && decide ((s.cmpValue k).toNat ≤ s.now.toNat) then
    let late := decide ((s.cmpValue k).toNat ≤ (s.w64 (kCmpArmed k)).toNat)
    (if late then s.setB (c + 8) 29 true else s).fireCompare k
  else s

/-! ## Capture channels (R450 to R452) -/

/-- What is wrong with a capture configuration (R450), with the word its DETAIL names. -/
def State.capFault (s : State) (cfg : Word) : Option Reply :=
  let i := fld cfg 0 8
  let ext := decide (i < 0x60) || decide (i = 0xA0)
  firstFail [
    (decide (cfg &&& 0x00007F00 ≠ 0), repBadP 1),
    (decide (0xA0 < i) && decide (i < 0xC0), repBadP 1),
    (bit cfg 31 && ext && decide (fld cfg 29 2 = 0), repBadP 1),
    (decide (i < 0x60) && !s.present 7, repBad 0x27),
    (match capHead cfg with | some h => !s.headPresent h | none => false, repBad (0x20 + (capHead cfg).getD 0 / 8))]

/-- Write the set of capture channel k; its FIFO, prescaler count, FRESH and OVF clear (R450). -/
def State.capSet (s : State) (k : Nat) (cfg : Word) (pre : Nat) : State :=
  let s := ((s.setReg (kCap k) cfg).setReg (kCap k + 4) (wd pre)).setCap k capInit
  let s := s.setW64 (kCapPre k) (BitVec.ofNat 64 pre)
  s.setReg (kCap k + 8) (s.reg (kCap k + 8) &&& 0x3FFFFFFF)

/-- The checks of `TIMER_CAPTURE_SET`: the reply of the first that fails. -/
def timerCaptureSetFault (o : Open) (s : State) : Option Reply :=
  match firstFail [s.expertUnit 7, (outside o.pkt 0 0xFF1F, repBadP 0)] with
  | some r => some r
  | none => s.capFault (pw o.pkt 1)

/-- `TIMER_CAPTURE_SET` (R450). -/
def beginTimerCaptureSet (o : Open) (s : State) : Started × State :=
  match timerCaptureSetFault o s with
  | some r => (.done r, s)
  | none => (.done repOk, s.capSet (fld (pw o.pkt 0) 0 5) (pw o.pkt 1) (fld (pw o.pkt 0) 8 8))

/-- A write of `TMB_CAPCFG` under expert control samples it with `TMB_CAPPRE` as one set (R454). -/
def State.tmbCapWrite (s : State) (k : Nat) (v : Word) : State :=
  if (s.capFault v).isSome then s.setB (kCap k + 8) 29 true else s.capSet k v (s.regF (kCap k + 4) 0 8)

/-- An edge of the pin or of `GENLOCK_IN` that channel k watches has been accepted, after its filter (R451). -/
def State.captureEdge (s : State) (k : Nat) (rising : Bool) : State :=
  let cfg := s.reg (kCap k)
  let i := fld cfg 0 8
  let ext := decide (i < 0x60) || decide (i = 0xA0)
  if bit cfg 31 && ext && (if rising then bit cfg 29 else bit cfg 30) then s.capQualify k else s

/-- A read of `TMB_CAPT_LO`: the oldest capture leaves, and the registers beside it latch the rest (R452). -/
def State.capRead (s : State) (k : Nat) : Word × State :=
  let c := kCap k
  match (s.cap k).fifo with
  | [] => (0, (((s.setReg (c + 0x10) 0).setReg (c + 0x14) 0).setReg (c + 0x18) 0).setReg (c + 0x1C) 0)
  | x :: t =>
    let s := ((s.setReg (c + 0x10) (hi32 x.time)).setReg (c + 0x14) (lo32 x.frame)).setReg (c + 0x18) (hi32 x.frame)
    let s := s.setReg (c + 0x1C) (wd (b2n x.beamv * 2 ^ 31 + x.y % 2 ^ 14 * 2 ^ 16 + x.x % 2 ^ 14))
    (lo32 x.time, s.setCap k ⟨t, (s.cap k).pre⟩)

/-- `UNIT_RESET` of unit 0x07, and a warm reset: compares disarm, captures disable, FIFOs clear; the count goes on (R454). -/
def State.tmbReset (s : State) : State :=
  let s := s.each (List.range 64) fun s k => s.setB (kCmp k + 8) 31 false
  s.each (List.range 32) fun s k => (s.setB (kCap k) 31 false).setCap k capInit

end Sys2Proof.Machine
end

