-- ==== Sys2Proof/Machine/Dma.lean ====
section
/-! DEFINITION. The Dumbwaiter: descriptors, chains, halts and the `DMA` commands (R342 to R359).  What a burst moves is in DmaRun.lean, since it may reach registers. -/

namespace Sys2Proof.Machine

/-- Word j of a descriptor. -/
def dwWord (d : List Word) (j : Nat) : Word := d.getD j 0

/-- Base, wrap field and FIX flag of the source (0) or the destination (1) of a descriptor. -/
def dwSide (d : List Word) (dst : Nat) : Nat × Nat × Bool :=
  ((dwWord d (2 + 2 * dst)).toNat + 2 ^ 32 * fld (dwWord d (3 + 2 * dst)) 0 8,
   fld (dwWord d 0) (11 - 5 * dst) 5, bit (dwWord d 0) (5 - dst))

/-- Address of byte k of a side (R343). -/
def dwAddr (side : Nat × Nat × Bool) (k : Nat) : Nat :=
  let base := side.1
  if side.2.2 then base + k % 4
  else if side.2.1 = 0 then base + k
  else
    let size := 2 ^ (side.2.1 + 5)
    base - base % size + (base + k) % size

/-- An address in the register space (R28). -/
def inRegs (a : Nat) : Bool := decide (aRegs ≤ a) && decide (a < aRegsEnd)

/-- The range a side of a descriptor of given length covers (R344, causes 0x05 and 0x06). -/
def dwRange (side : Nat × Nat × Bool) (len : Nat) : Nat × Nat :=
  if side.2.2 then (side.1, 4)
  else if side.2.1 ≠ 0 then (side.1 - side.1 % 2 ^ (side.2.1 + 5), 2 ^ (side.2.1 + 5))
  else (side.1, len)

/-- A range lies wholly inside one valid Cellar or Pantry region, the Larder apart. -/
def State.dwInside (s : State) (r : Nat × Nat) : Bool :=
  match s.place r.1 r.2 with
  | .cellar _ => true
  | .pantry _ => true
  | _ => false

/-- The refusal cause of a descriptor (R344), the lowest that applies. -/
def State.dwCause (s : State) (d : List Word) : Option Nat :=
  let w0 := dwWord d 0
  let len := (dwWord d 1).toNat
  let src := dwSide d 0
  let dst := dwSide d 1
  let words (a : Nat × Nat × Bool) : Bool := (a.2.2 || inRegs a.1) && (decide (a.1 % 4 ≠ 0) || decide (len % 4 ≠ 0))
  if w0 &&& 0x0800000F ≠ 0 ∨ dwWord d 3 &&& 0xFFFFFF00 ≠ 0 ∨ dwWord d 5 &&& 0xFFFFFF00 ≠ 0 ∨ dwWord d 7 &&& 0xFFFFFF00 ≠ 0
      ∨ (¬ bit w0 30 ∧ dwWord d 6 &&& 0x1F ≠ 0) then some 1
  else if bit w0 29 ∧ 234 ≤ fld w0 16 8 then some 2
  else if (src.2.2 ∧ src.2.1 ≠ 0) ∨ (dst.2.2 ∧ dst.2.1 ≠ 0) then some 3
  else if words src ∨ words dst then some 4
  else if len = 0 then none
  else if ¬ inRegs src.1 ∧ ¬ s.dwInside (dwRange src len) then some 5
  else if ¬ inRegs dst.1 ∧ ¬ s.dwInside (dwRange dst len) then some 6
  else match s.place (dwRange dst len).1 (dwRange dst len).2 with
    | .pantry r => if s.panSealed r then some 7 else none
    | _ => none

/-- The registers that show the position of the current descriptor: `DWT_REM`, `DWT_SRC`, `DWT_DST` (R358). -/
def State.dwShow (s : State) (c : Nat) (d : List Word) (rem : Nat) : State :=
  let k := (dwWord d 1).toNat - rem
  let s := s.setReg (kDw c + 0x14) (wd rem)
  let s := s.setW64 (kDw c + 0x18) (BitVec.ofNat 64 (dwAddr (dwSide d 0) k))
  s.setW64 (kDw c + 0x20) (BitVec.ofNat 64 (dwAddr (dwSide d 1) k))

/-- WAITREQ: a paced burst waits for a request. -/
def State.dwWait (s : State) (c : Nat) : State :=
  match (s.dwc c).desc with
  | w :: _ =>
    s.setB (kDw c + 4) 30 (s.regB (kDw c + 4) 31 && bit w 29 && decide (s.reg (kDw c + 0x14) ≠ 0) &&
      decide (s.regF (kDw c + 0x34) 0 4 = 0))
  | [] => s.setB (kDw c + 4) 30 false

/-- The gap before the next burst of a channel: `DWT_PACE`, or the throttle gap where that is longer (R317, R318, R348). -/
def State.dwPause (s : State) (c : Nat) : Nat :=
  let d := (s.dwc c).desc
  let rem := (s.reg (kDw c + 0x14)).toNat
  let k := (dwWord d 1).toNat - rem
  let n := min (64 * 2 ^ fld (dwWord d 0) 24 3) rem
  let range (side : Nat × Nat × Bool) : Nat × Nat := if side.2.2 then (dwAddr side k, min 4 n) else (dwAddr side k, n)
  max (s.regF (kDw c + 0x30) 0 16) (s.gapFor [range (dwSide d 0), range (dwSide d 1)])

/-- Set or clear RUN, and its bit in `DWT_RUN`. -/
def State.dwSetRun (s : State) (c : Nat) (b : Bool) : State :=
  (s.setB (kDw c + 4) 31 b).setB (kDWT + 0x2000 + 4 * (c / 32)) (c % 32) b

/-- A halt (R352, R354, R359): DONE sets, RUN clears, the source asserts, and every `DMA_STOP` of the channel reaches its commit point (R357). -/
def State.dwHalt (s : State) (c : Nat) (st : Status) (after : Nat) : State :=
  let s := s.setDw c { s.dwc c with fetch := none, gap := false, after := after }
  let s := s.dwSetRun c false
  let s := s.setReg (kDw c) (s.reg (kDw c) &&& 0x3FFFFFFF)
  let s := (s.setReg (kDw c + 4) ((s.reg (kDw c + 4) &&& 0x9FFFFFFF) ||| 0x10000000)).setF (kDw c + 4) 0 16 (statusCode st)
  let s := (s.setF (kDw c + 0x34) 0 4 0).pulse (192 + c)
  s.finish (.dmaHalt c) ⟨.ok, 0, wd after, wd (after / 2 ^ 32), 0⟩

/-- A refused descriptor or access (R344, R349): the halt and its record of severity INFO (EVENT 0x0040). -/
def State.dwRefuse (s : State) (c : Nat) (st : Status) (cause addr : Nat) : State :=
  let s := if st = .configMismatch then (s.setF (kDw c + 4) 16 8 cause).setB (kDw c + 4) 26 true else s.setB (kDw c + 4) 24 true
  (s.dwHalt c st 0).errRec sevInfo 0x09 0x0040 c st (wd cause) (wd addr)

/-- An uncorrectable read (R351): the halt; the record was written by the read. -/
def State.dwUncorr (s : State) (c addr : Nat) : State :=
  (s.setW64 (kDw c + 0x3C) (BitVec.ofNat 64 addr)).dwHalt c .uncorr 0

/-- A descriptor becomes current: the registers show it, and request latching begins (R344, R346). -/
def State.dwCurrent (s : State) (c addr : Nat) (d : List Word) : State :=
  let w0 := dwWord d 0
  let keep := match (s.dwc c).desc with
    | o :: _ => bit w0 29 && bit o 29 && decide (fld o 16 8 = fld w0 16 8)
    | [] => false
  let s := s.setDw c { s.dwc c with desc := d, fetch := none }
  let s := s.setReg (kDw c) (s.reg (kDw c) &&& 0x7FFFFFFF)
  let s := (s.setAddr40 (kDw c + 0x08) addr).setReg (kDw c + 0x10) w0
  let s := (s.dwShow c d (dwWord d 1).toNat).setAddr40 (kDw c + 0x28) ((dwWord d 6).toNat + 2 ^ 32 * fld (dwWord d 7) 0 8)
  let s := s.setF (kDw c + 0x34) 16 8 (fld w0 16 8)
  (if keep then s else s.setF (kDw c + 0x34) 0 4 0).dwWait c

/-- A descriptor completes (R352 to R354): counted, its IRQ, and then the end, the stop or the next fetch; a halt in the same cycle asserts the source once. -/
def State.dwDone (s : State) (c : Nat) : State :=
  let d := (s.dwc c).desc
  let w0 := dwWord d 0
  if !s.regB (kDw c + 4) 31 || d.isEmpty || (s.dwc c).fetch.isSome || decide (s.reg (kDw c + 0x14) ≠ 0) then s
  else
    let st := if dwWord d 1 = 0 then Status.okEmpty else .ok
    let s := (s.incReg (kDw c + 0x38)).setF (kDw c + 4) 0 16 (statusCode st)
    let s := if bit w0 31 then s.setB (kDw c + 4) 27 true else s
    if bit w0 30 then s.dwHalt c st 0
    else
      let next := (dwWord d 6).toNat + 2 ^ 32 * fld (dwWord d 7) 0 8
      if s.regB (kDw c + 4) 29 then s.dwHalt c .stopped next
      else
        let s := if bit w0 31 then s.pulse (192 + c) else s
        s.setDw c { s.dwc c with fetch := some next }

/-- A descriptor with LEN = 0 completes at once (R352). -/
def State.dwDone0 (s : State) (c : Nat) : State := if dwWord (s.dwc c).desc 1 = 0 then s.dwDone c else s

/-- The channel fetches a descriptor and checks it (R344, R350, R351) (DEDUCED, log 93). -/
def State.dwFetch (s : State) (c a : Nat) : State :=
  if a % 32 ≠ 0 ∨ ¬ s.dwInside (a, 32) then
    let s := if a % 32 = 0 then s.refusedAccess 0x09 a else s
    (s.dwRefuse c .configMismatch 8 a).finish (.dmaRun c) (rep .configMismatch 0x09)
  else
    let r := s.devRead 0x09 c a 32
    match r.1 with
    | .ok bs =>
      let d := toWords bs
      (match r.2.dwCause d with
       | some k => (r.2.dwRefuse c .configMismatch k a).finish (.dmaRun c) (rep .configMismatch 0x09)
       | none => ((r.2.dwCurrent c a d).finish (.dmaRun c) repOk).dwDone0 c)
    | .poison _ => (r.2.dwUncorr c a).finish (.dmaRun c) (rep .uncorr 0x09)
    | .refused => (r.2.dwRefuse c .configMismatch 8 a).finish (.dmaRun c) (rep .configMismatch 0x09)

/-- The channel starts on a first descriptor. -/
def State.dwStart (s : State) (c a : Nat) : State :=
  let s := s.setDw c { dwtInit with fetch := some a }
  s.dwSetRun c true

/-- The checks of `DMA_CHAIN_START`: the reply of the first that fails. -/
def dmaChainStartFault (o : Open) (s : State) : Option Reply :=
  let c := fld (pw o.pkt 0) 0 6
  firstFail [s.expertUnit 9, (outside o.pkt 0 0xFFFF003F, repBadP 0), (highBits o.pkt 1, repBadP 2),
      (decide (pw o.pkt 1 &&& 0x1F ≠ 0), repAlignP 1), (s.regB (kDw c + 4) 31, rep .notReady 0x09)]

/-- `DMA_CHAIN_START` (R356). -/
def beginDmaChainStart (o : Open) (s : State) : Started × State :=
  match dmaChainStartFault o s with
  | some r => (.done r, s)
  | none =>
      let c := fld (pw o.pkt 0) 0 6
      (.wait (.dmaRun c), (s.setReg (kDw c + 0x30) (wd (fld (pw o.pkt 0) 16 16))).dwStart c (pd o.pkt 1))

/-- The channel stands between two descriptors, with the address of the next one: a stop takes effect at once, and the next one is not fetched (R354). -/
def State.dwBetween (s : State) (c : Nat) : Option Nat := if (s.dwc c).desc = [] then none else (s.dwc c).fetch

/-- The checks of `DMA_STOP`: the reply of the first that fails. -/
def dmaStopFault (o : Open) (s : State) : Option Reply :=
  let c := fld (pw o.pkt 0) 0 6
  firstFail [s.expertUnit 9, (outside o.pkt 0 0x3F, repBadP 0),
      (!s.regB (kDw c + 4) 31, rep .okEmpty 0)]

/-- `DMA_STOP` (R357). -/
def beginDmaStop (o : Open) (s : State) : Started × State :=
  match dmaStopFault o s with
  | some r => (.done r, s)
  | none =>
      let c := fld (pw o.pkt 0) 0 6
      match s.dwBetween c with
      | some a => (.done ⟨.ok, 0, wd a, wd (a / 2 ^ 32), 0⟩, s.dwHalt c .stopped a)
      | none => (.wait (.dmaHalt c), (s.setB (kDw c + 4) 29 true).setB (kDw c) 30 true)

/-- A write of `DWT_CTL` under expert control (R358, R359). -/
def State.dwCtlWrite (s : State) (c : Nat) (v : Word) : State :=
  let run := s.regB (kDw c + 4) 31
  let s := if bit v 31 then
      (if run then s.setB (kDw c + 4) 25 true
       else
         let a := s.addr40 (kDw c + 8)
         if a % 32 ≠ 0 ∨ ¬ s.dwInside (a, 32) then s.dwRefuse c .configMismatch 8 a
         else (s.dwStart c a).setB (kDw c) 31 true)
    else s
  let s := if bit v 30 && s.regB (kDw c + 4) 31 then
      (match s.dwBetween c with
       | some a => s.dwHalt c .stopped a
       | none => (s.setB (kDw c + 4) 29 true).setB (kDw c) 30 true)
    else s
  if bit v 29 && s.regB (kDw c + 4) 31 && bit (dwWord (s.dwc c).desc 0) 29 then s.dwLatch c else s

/-- `UNIT_RESET` of unit 0x09 (R355): running chains halt with `STOPPED`, and every register returns to its reset value. -/
def State.dwReset (s : State) : State :=
  s.each (List.range 64) fun s c =>
    let d := (s.dwc c).desc
    let next := if bit (dwWord d 0) 30 then 0 else (dwWord d 6).toNat + 2 ^ 32 * fld (dwWord d 7) 0 8
    let s := if s.regB (kDw c + 4) 31 then s.dwHalt c .stopped next else s
    let s := s.each ((List.range 17).map fun j => kDw c + 4 * j) fun s k => (s.setReg k (regReset k)).setW64 k 0
    s.setDw c dwtInit

end Sys2Proof.Machine
end

