-- ==== Sys2Proof/Machine/Bell.lean ====
section
/-! DEFINITION. The Bell board: the plan, claims and completes, masks, software sources, hold-off groups and its resets (R431 to R444). -/

namespace Sys2Proof.Machine

/-! ## The plan (R433) -/

/-- `GLB_IRQSRCi`. -/
def kIrqSrc (i : Nat) : Nat := 0x4000 + 4 * i
/-- `GLB_IRQMASKk`, `GLB_IRQHOLDg` (R434). -/
def kIrqMask (k : Nat) : Nat := 0x5000 + 4 * k
def kIrqHold (g : Nat) : Nat := 0x5080 + 4 * g
/-- `BEL_TSTAT` of target t, `BEL_GRPg` and `BEL_PLANERR` (R444). -/
def kTstat (t : Nat) : Nat := kBEL + 0x1008 + 0x10 * t
def kGrp (g : Nat) : Nat := kBEL + 0x2000 + 4 * g

/-- The hold-off timer of group g starts at count 0 (R441). -/
def State.holdStart (s : State) (g : Nat) : State :=
  { s with bell := { s.bell with starts := Tbl.set (fun _ => 0) s.bell.starts g s.now } }.setReg (kGrp g) 0x80000000

/-- The count of a running hold-off timer: the ticks of 64 ns since its start (R441) (DEDUCED, log 85). -/
def State.holdCount (s : State) (g : Nat) : Nat :=
  min 0xFFFF ((s.now - Tbl.get (fun _ => 0) s.bell.starts g).toNat / 64)
def kPlanErr : Nat := kBEL + 0x2100

/-- The fixed TARGET of sources 1 to 18. -/
def fixedTarget (i : Nat) : Option Nat := if 1 ≤ i ∧ i ≤ 16 then some 16 else if i = 17 ∨ i = 18 then some 17 else none

/-- What a write to `GLB_IRQSRCi` leaves in it: reserved bits and the fixed targets keep (R433). -/
def irqSrcValue (i : Nat) (v : Word) : Word :=
  if srcReserved i then 0
  else match fixedTarget i with
    | some t => putFld (v &&& 0x003F000F) 8 5 t
    | none => v &&& 0x003F1F0F

/-- What `GLB_IRQSRCi` reads. -/
def State.irqSrcRead (s : State) (i : Nat) : Word := if srcReserved i then 0 else s.reg (kIrqSrc i)

/-- A TARGET the plan refuses. -/
def targetBad (t : Nat) : Bool := decide (t ≤ 3) || (decide (18 ≤ t) && decide (t ≤ 30))

/-- After a change from `o`, the sources that have become deliverable are delivered. -/
def State.notifyAll (s o : State) : State := s.each (o.bell.srcs.map (·.1)) fun s i => s.notify o i

/-- The commit cycle: the whole plan is taken as one set (R433). -/
def State.takePlan (s : State) : State :=
  let ids := (List.range 1024).filter fun i => !srcReserved i
  let bad (i : Nat) : Bool := targetBad (s.regF (kIrqSrc i) 8 5)
  let entry (i : Nat) : Word := if bad i then putFld (s.reg (kIrqSrc i)) 8 5 31 else s.reg (kIrqSrc i)
  let s' := { s with bell := { s.bell with plan := ids.foldl (fun t i => Tbl.set planReset t i (entry i)) s.bell.plan } }
  (s'.setReg kPlanErr (wd ((ids.filter bad).length % 2 ^ 11))).notifyAll s

/-! ## Claim and complete (R436 to R438) -/

/-- The source a claim of target t returns: highest PRIO, then lowest ID. -/
def State.bestFor (s : State) (t : Nat) : Option Nat :=
  let l := (s.bell.srcs.map (·.1)).filter fun i => s.deliverable i && decide (s.planTarget i = t)
  l.foldl (fun b i => match b with
    | none => some i
    | some j => if s.planPrio j < s.planPrio i then some i else some j) none

/-- A claim of target t: the ID returned, and the board after it. -/
def State.claim (s : State) (t : Nat) : Word × State :=
  match s.bestFor t with
  | none => (0, s.setF (kTstat t) 0 16 (s.regF (kTstat t) 0 16 + 1))
  | some i =>
    let v := s.src i
    let s := s.setSrc i { v with act := true, pend := srcLevel i && v.inp }
    let g := s.planGrp i
    let s := if s.held g || decide (s.regF (kIrqHold g) 0 16 = 0) then s else s.holdStart g
    (wd i, s)

/-- A DONE of target t (R437). -/
def State.doneWrite (s : State) (t : Nat) (v : Word) : State :=
  let i := fld v 0 10
  if i = 0 then s
  else if (s.src i).act && decide (s.planTarget i = t) then
    (s.setSrc i { s.src i with act := false }).notify s i
  else s.setB (kTstat t) 31 true

/-- The target whose claim register an access reaches: none where the read answers 0 and the write is discarded (R436, R444). -/
def Claimant.target : Claimant → Option Nat
  | .core n => some n.val
  | .pf1 => some 17
  | .page _ t => if t.val = 16 then some 16 else none

/-! ## Masks, software sources, hold-off -/

/-- A write of `GLB_IRQMASKk` (R434, R440): it acts on claims at once, and delivery may still see the mask before it for 16 Hallway cycles. -/
def State.maskWrite (s : State) (k : Nat) (v : Word) : State :=
  let keep := s.bell.oldMasks.filter fun m => decide (m.k ≠ k) && decide ((s.now - m.time).toNat < 14)
  let s' := { s with bell := { s.bell with oldMasks := ⟨k, s.reg (kIrqMask k), s.now⟩ :: keep } }.setReg (kIrqMask k) v
  s'.each ((s.bell.srcs.map (·.1)).filter fun i => decide (i / 32 = k)) fun t i => t.notify s i

/-- A write of `GLB_IRQSWSETk` or `GLB_IRQSWCLRk` (R434): IN of the named software sources. -/
def State.swWrite (s : State) (k : Nat) (v : Word) (b : Bool) : State :=
  s.each ((List.range 32).filter fun j => bit v j) fun s j => s.level (960 + 32 * k + j) b

/-- What `GLB_IRQSWSETk` and `GLB_IRQSWCLRk` read. -/
def State.swRead (s : State) (k : Nat) : Word :=
  (List.range 32).foldl (fun w j => w ||| flag j (s.src (960 + 32 * k + j)).inp) 0

/-- A tick of the hold-off timer of group g at which its count is at least the period (R441): the hold ends, and every deliverable member is delivered. -/
def State.holdEnd (s : State) (g : Nat) : State :=
  if !s.held g || s.holdCount g = 0 || decide (s.holdCount g < s.regF (kIrqHold g) 0 16) then s
  else
    let s := s.setReg (kGrp g) 0
    s.each ((s.bell.srcs.map (·.1)).filter fun i => s.deliverable i && decide (s.planGrp i = g)) State.deliver

/-! ## The MSI-X tables (R442) -/

/-- A write in the MSI-X table of a function: address, data and vector control; a vector unmasked while its pending bit is set is sent, as PCI Express defines. -/
def State.msixWrite (s : State) (fn o : Nat) (v : Word) : State :=
  let k := msixTable fn + o
  let n := o / 16
  match o % 16 with
  | 0 => s.setReg k (v &&& 0xFFFFFFFC)
  | 12 =>
    let s := s.setReg k (v &&& 1)
    let p := msixPba fn + 4 * (n / 32)
    if !bit v 0 && s.regB p (n % 32) && ofFn s.bell.msixEn fn && !ofFn s.bell.msixMask fn && !ofFn s.bell.d3hot fn then
      (s.setB p (n % 32) false).msix fn n
    else s
  | _ => s.setReg k v

/-! ## Views (R444) -/

/-- `BEL_SRCi`. -/
def State.srcView (s : State) (i : Nat) : Word :=
  if srcReserved i then 0
  else
    let v := s.src i
    flag 31 v.pend ||| flag 30 v.act ||| flag 29 (srcLevel i) ||| flag 28 v.inp ||| flag 27 (s.held (s.planGrp i))
      ||| flag 26 (s.masked i) ||| (s.plan i &&& 0x003F1F0F)

/-- A register of the BEL page that a read does not change. -/
def State.belView (s : State) (o : Nat) : Word :=
  if o < 0x1000 then s.srcView (o / 4)
  else if o < 0x1120 then
    (let t := (o - 0x1000) / 16
     match o % 16 with
     | 8 => s.reg (kTstat t)
     | 12 => if t < 16 then wd (s.coreLevel t) else 0
     | _ => 0)
  else if 0x2000 ≤ o ∧ o < 0x2100 ∧ s.held ((o - 0x2000) / 4) then
    putFld (s.reg (kBEL + o)) 0 16 (s.holdCount ((o - 0x2000) / 4))
  else s.reg (kBEL + o)

/-! ## Resets (R443) -/

/-- `UNIT_RESET` of unit 0x02. -/
def State.belReset (s : State) : State :=
  let f (s : State) (i : Nat) : State := s.setSrc i { s.src i with act := false, pend := srcLevel i && (s.src i).inp }
  let s' := s.each (s.bell.srcs.map (·.1)) f
  (s'.each (List.range 64) fun s g => s.setReg (kGrp g) 0).notifyAll s

/-- A Function Level Reset of PF0 or PF1: the edge sources aimed at it, and its MSI-X state. -/
def State.belFlr (s : State) (fn : Nat) : State :=
  let aimed := (s.bell.srcs.map (·.1)).filter fun i => !srcLevel i && decide (s.planTarget i = 16 + fn)
  let s := s.each aimed fun s i => s.setSrc i { s.src i with act := false, pend := false }
  let n := if fn = 0 then 64 else 8
  let s := s.each (List.range (4 * n)) fun s i => s.setReg (msixTable fn + 4 * i) (if i % 4 = 3 then 1 else 0)
  let s := (s.setReg (msixPba fn) 0).setReg (msixPba fn + 4) 0
  let put (p : Bool × Bool) : Bool × Bool := if fn = 0 then (false, p.2) else (p.1, false)
  { s with bell := { s.bell with msixEn := put s.bell.msixEn, msixMask := put s.bell.msixMask, d3hot := put s.bell.d3hot } }

end Sys2Proof.Machine
end

