-- ==== Sys2Proof/Machine/Sha512.lean ====
section
/-! DEFINITION. The Attic's engines: SHA-512 of FIPS 180-4 and pure Ed25519 of RFC 8032, as R470 names them.  Their constants are PRESUMED from those standards, which the spec cites and does not print (log 30). -/

namespace Sys2Proof.Machine

/-! ## SHA-512 -/

/-- The 80 round constants. -/
def shaK : List DWord :=
  [0x428A2F98D728AE22, 0x7137449123EF65CD, 0xB5C0FBCFEC4D3B2F, 0xE9B5DBA58189DBBC,
    0x3956C25BF348B538, 0x59F111F1B605D019, 0x923F82A4AF194F9B, 0xAB1C5ED5DA6D8118]
  ++ [0xD807AA98A3030242, 0x12835B0145706FBE, 0x243185BE4EE4B28C, 0x550C7DC3D5FFB4E2,
    0x72BE5D74F27B896F, 0x80DEB1FE3B1696B1, 0x9BDC06A725C71235, 0xC19BF174CF692694]
  ++ [0xE49B69C19EF14AD2, 0xEFBE4786384F25E3, 0x0FC19DC68B8CD5B5, 0x240CA1CC77AC9C65,
    0x2DE92C6F592B0275, 0x4A7484AA6EA6E483, 0x5CB0A9DCBD41FBD4, 0x76F988DA831153B5]
  ++ [0x983E5152EE66DFAB, 0xA831C66D2DB43210, 0xB00327C898FB213F, 0xBF597FC7BEEF0EE4,
    0xC6E00BF33DA88FC2, 0xD5A79147930AA725, 0x06CA6351E003826F, 0x142929670A0E6E70]
  ++ [0x27B70A8546D22FFC, 0x2E1B21385C26C926, 0x4D2C6DFC5AC42AED, 0x53380D139D95B3DF,
    0x650A73548BAF63DE, 0x766A0ABB3C77B2A8, 0x81C2C92E47EDAEE6, 0x92722C851482353B]
  ++ [0xA2BFE8A14CF10364, 0xA81A664BBC423001, 0xC24B8B70D0F89791, 0xC76C51A30654BE30,
    0xD192E819D6EF5218, 0xD69906245565A910, 0xF40E35855771202A, 0x106AA07032BBD1B8]
  ++ [0x19A4C116B8D2D0C8, 0x1E376C085141AB53, 0x2748774CDF8EEB99, 0x34B0BCB5E19B48A8,
    0x391C0CB3C5C95A63, 0x4ED8AA4AE3418ACB, 0x5B9CCA4F7763E373, 0x682E6FF3D6B2B8A3]
  ++ [0x748F82EE5DEFB2FC, 0x78A5636F43172F60, 0x84C87814A1F0AB72, 0x8CC702081A6439EC,
    0x90BEFFFA23631E28, 0xA4506CEBDE82BDE9, 0xBEF9A3F7B2C67915, 0xC67178F2E372532B]
  ++ [0xCA273ECEEA26619C, 0xD186B8C721C0C207, 0xEADA7DD6CDE0EB1E, 0xF57D4F7FEE6ED178,
    0x06F067AA72176FBA, 0x0A637DC5A2C898A6, 0x113F9804BEF90DAE, 0x1B710B35131C471B]
  ++ [0x28DB77F523047D84, 0x32CAAB7B40C72493, 0x3C9EBE0A15C9BEBC, 0x431D67C49C100D4C,
    0x4CC5D4BECB3E42B6, 0x597F299CFC657E2A, 0x5FCB6FAB3AD6FAEC, 0x6C44198C4A475817]

/-- The initial hash value. -/
def shaIv : List DWord :=
  [0x6A09E667F3BCC908, 0xBB67AE8584CAA73B, 0x3C6EF372FE94F82B, 0xA54FF53A5F1D36F1,
   0x510E527FADE682D1, 0x9B05688C2B3E6C1F, 0x1F83D9ABFB41BD6B, 0x5BE0CD19137E2179]

def shaR (n : Nat) (x : DWord) : DWord := (x >>> n) ||| (x <<< (64 - n))

/-- The big-endian number of a byte list. -/
def beNat (l : List Byte) : Nat := l.foldl (fun n b => n * 256 + b.toNat) 0

/-- The bytes of a number, most significant first. -/
def beBytes (n v : Nat) : List Byte := (leBytes n v).reverse

/-- The sixteen words of a block, most significant byte first. -/
def shaWords (blk : List Byte) : List DWord :=
  (List.range 16).map fun i => BitVec.ofNat 64 (beNat ((blk.drop (8 * i)).take 8))

/-- The next word of the message schedule, from the last sixteen, oldest first. -/
def shaNext (w : List DWord) : DWord :=
  let a := w.getD 1 0
  let b := w.getD 14 0
  (shaR 19 b ^^^ shaR 61 b ^^^ (b >>> 6)) + w.getD 9 0 + (shaR 1 a ^^^ shaR 8 a ^^^ (a >>> 7)) + w.getD 0 0

/-- One round: the working variables and the last sixteen schedule words. -/
def shaRound (st : List DWord × List DWord) (k : DWord) : List DWord × List DWord :=
  match st.1 with
  | [a, b, c, d, e, f, g, h] =>
    let t1 := h + (shaR 14 e ^^^ shaR 18 e ^^^ shaR 41 e) + ((e &&& f) ^^^ (~~~ e &&& g)) + k + st.2.getD 0 0
    let t2 := (shaR 28 a ^^^ shaR 34 a ^^^ shaR 39 a) + ((a &&& b) ^^^ (a &&& c) ^^^ (b &&& c))
    ([t1 + t2, a, b, c, d + t1, e, f, g], st.2.drop 1 ++ [shaNext st.2])
  | _ => st

/-- One block into the hash value. -/
def shaBlock (hv : List DWord) (blk : List Byte) : List DWord :=
  List.zipWith (· + ·) hv (shaK.foldl shaRound (hv, shaWords blk)).1

/-- The blocks of a padded message. -/
def shaBlocks : Nat → List Byte → List DWord → List DWord
  | 0, _, hv => hv
  | n + 1, m, hv => shaBlocks n (m.drop 128) (shaBlock hv (m.take 128))

/-- SHA-512 of a byte sequence: 64 bytes. -/
def sha512 (m : List Byte) : List Byte :=
  let z := (111 + 128 - m.length % 128) % 128
  let p := m ++ [0x80] ++ List.replicate z 0 ++ beBytes 16 (8 * m.length)
  (shaBlocks (p.length / 128) p shaIv).flatMap fun d => beBytes 8 d.toNat

/-! ## Ed25519 -/

/-- The field prime. -/
def edP : Nat := 2 ^ 255 - 19

/-- The group order. -/
def edL : Nat := 2 ^ 252 + 27742317777372353535851937790883648493

/-- A power modulo a number, by the low `n` bits of the exponent. -/
def powMod (m : Nat) : Nat → Nat → Nat → Nat
  | 0, _, _ => 1 % m
  | n + 1, b, e => if e % 2 = 1 then b * powMod m n (b * b % m) (e / 2) % m else powMod m n (b * b % m) (e / 2)

/-- The inverse in the field. -/
def edInv (x : Nat) : Nat := powMod edP 255 x (edP - 2)

def edSub (a b : Nat) : Nat := (a + edP - b % edP) % edP

/-- The curve constant d. -/
def edD : Nat := 37095705934669439343138083508754565189542113879843219016388785533085940283555

/-- A point in extended coordinates X, Y, Z, T. -/
structure EdPt where
  x : Nat
  y : Nat
  z : Nat
  t : Nat
  deriving DecidableEq, Repr

/-- Addition on the curve. -/
def edAdd (p q : EdPt) : EdPt :=
  let a := edSub p.y p.x * edSub q.y q.x % edP
  let b := (p.y + p.x) * (q.y + q.x) % edP
  let c := 2 * p.t * q.t * edD % edP
  let d := 2 * p.z * q.z % edP
  let e := edSub b a
  let f := edSub d c
  let g := (d + c) % edP
  let h := (b + a) % edP
  ⟨e * f % edP, g * h % edP, f * g % edP, e * h % edP⟩

/-- A multiple of a point, by the low `n` bits of the number. -/
def edMul : Nat → Nat → EdPt → EdPt
  | 0, _, _ => ⟨0, 1, 1, 0⟩
  | n + 1, k, p => if k % 2 = 1 then edAdd p (edMul n (k / 2) (edAdd p p)) else edMul n (k / 2) (edAdd p p)

/-- The same point. -/
def edEq (p q : EdPt) : Bool := p.x * q.z % edP = q.x * p.z % edP ∧ p.y * q.z % edP = q.y * p.z % edP

/-- The x coordinate of a y coordinate and a sign bit, if there is one. -/
def edRecover (y sign : Nat) : Option Nat :=
  if edP ≤ y then none
  else
    let x2 := edSub (y * y) 1 * edInv (edD * y * y + 1) % edP
    if x2 = 0 then (if sign = 1 then none else some 0)
    else
      let r := powMod edP 255 x2 ((edP + 3) / 8)
      let r := if r * r % edP = x2 then r else r * powMod edP 255 2 ((edP - 1) / 4) % edP
      if r * r % edP ≠ x2 then none else some (if r % 2 = sign then r else edP - r)

/-- The point of 32 bytes. -/
def edDecode (l : List Byte) : Option EdPt :=
  let n := leNat l
  let y := n % 2 ^ 255
  (edRecover y (n / 2 ^ 255)).map fun x => ⟨x, y, 1, x * y % edP⟩

/-- The 32 bytes of a point. -/
def edEncode (p : EdPt) : List Byte :=
  let zi := edInv p.z
  leBytes 32 (p.y * zi % edP + p.x * zi % edP % 2 * 2 ^ 255)

/-- The base point. -/
def edB : EdPt :=
  let y := 4 * edInv 5 % edP
  let x := (edRecover y 0).getD 0
  ⟨x, y, 1, x * y % edP⟩

/-- The secret scalar of a seed's hash. -/
def edClamp (h : List Byte) : Nat :=
  let a := leNat (h.take 32)
  a % 2 ^ 254 / 8 * 8 + 2 ^ 254

/-- The public key of a 32-byte seed. -/
def edPublic (seed : List Byte) : List Byte := edEncode (edMul 256 (edClamp (sha512 seed)) edB)

/-- The signature of a message under a seed: 64 bytes. -/
def edSign (seed msg : List Byte) : List Byte :=
  let h := sha512 seed
  let a := edClamp h
  let pub := edEncode (edMul 256 a edB)
  let r := leNat (sha512 (h.drop 32 ++ msg)) % edL
  let rb := edEncode (edMul 256 r edB)
  let k := leNat (sha512 (rb ++ pub ++ msg)) % edL
  rb ++ leBytes 32 ((r + k * a) % edL)

/-- A signature of a message verifies under a public key. -/
def edVerify (pub msg sig : List Byte) : Bool :=
  match edDecode pub, edDecode (sig.take 32) with
  | some a, some r =>
    let v := leNat (sig.drop 32)
    let k := leNat (sha512 (sig.take 32 ++ pub ++ msg)) % edL
    decide (sig.length = 64) && decide (v < edL) && edEq (edMul 256 v edB) (edAdd r (edMul 256 k a))
  | _, _ => false

/-! ## The Device Identity Key (R470) -/

/-- Its public key. -/
def dikPublic : List Byte := edPublic (leBytes 32 Config.dikSeed.toNat)

/-- The bytes of an ASCII text. -/
def ascii (t : String) : List Byte := t.toList.map fun c => BitVec.ofNat 8 c.toNat

/-- The prefix of every message the Attic signs (R470). -/
def theantPrefix : List Byte := ascii "FLEYN-THEANT-V1" ++ [0]

/-- The Attic's signature over a record's bytes before the signature (R483). -/
def theantSign (body : List Byte) : List Byte := edSign (leBytes 32 Config.dikSeed.toNat) (theantPrefix ++ body)

end Sys2Proof.Machine
end

