-- ==== Sys2Proof/Machine/AtticCore.lean ====
section
/-! DEFINITION. The measurement log and the Theant records (R481 to R486). -/

namespace Sys2Proof.Machine

/-- `SRC` of a measurement entry (R481). -/
def srcBoot : Nat := 0
def srcExpert : Nat := 3
def srcFirmware : Nat := 4
/-- The source of a command: 1 PF0, 2 PF1. -/
def srcRing (n : Nat) : Nat := if ringPf1 n then 2 else 1

/-- The first registers of the ATT page (R497). -/
def kBootStat : Nat := kATT + 0x00
def kBootSeq : Nat := kATT + 0x14
def kMeasCnt : Nat := kATT + 0x1C
def kLogStat : Nat := kATT + 0x20
def kBatchNew : Nat := kATT + 0x24
def kBatchOld : Nat := kATT + 0x28
def kAudStat : Nat := kATT + 0x2C

/-- A byte list of exactly n bytes: cut, or padded with zeros. -/
def padTo (n : Nat) (l : List Byte) : List Byte := l.take n ++ List.replicate (n - l.length) 0

/-- The 96 bytes of a measurement entry (R481). -/
def measBytes (m : Meas) : List Byte :=
  wBytes m.index ++ leBytes 1 m.kind ++ leBytes 1 m.src ++ [0, 0] ++ wBytes m.subject ++ wBytes m.extra
    ++ leBytes 8 m.time.toNat ++ leBytes 8 m.aux.toNat ++ padTo 64 m.digest

/-- Make one entry in the measurement log (R481). -/
def State.measure (s : State) (kind src subject extra : Nat) (aux : DWord) (digest : List Byte) : State :=
  let m : Meas := ⟨s.reg kMeasCnt, kind, src, wd subject, wd extra, s.now, aux, digest, s.att.acc⟩
  { s with att := { s.att with meas := (m :: s.att.meas).take 4096, acc := sha512 (s.att.acc ++ measBytes m) } }.incReg kMeasCnt

/-- 64 zero bytes. -/
def zero64 : List Byte := List.replicate 64 0

/-! ## Fuses as registers (R468, R497) -/

/-- Customer slot k. -/
def Fuses.slot (f : Fuses) (k : Nat) : Option (List Byte) := Tbl.get (fun _ => none) f.slots k

/-- A slot is live while programmed and not revoked. -/
def Fuses.live (f : Fuses) (k : Nat) : Bool := (f.slot k).isSome && decide (f.revoked / 2 ^ k % 2 = 0)

/-- The device is owned once any slot is programmed. -/
def Fuses.owned (f : Fuses) : Bool := (List.range 4).any fun k => (f.slot k).isSome

/-- `ATT_SLOTS`. -/
def Fuses.word (f : Fuses) : Word :=
  (List.range 4).foldl (fun w k => w ||| flag k (f.slot k).isSome) 0 ||| wd (f.revoked % 16 * 16)
  ||| flag 8 f.mantel.isSome ||| flag 9 f.owned ||| flag 10 (!f.cert.isEmpty)

/-- The readable fuse rows in the order of R468 and R478: slot hashes, PROG and REVOKED bits, the Mantel key, the fused version, `ATT_CFG`.  The spec names the rows and not their order (DESIGN CHOICE, log 31). -/
def Fuses.rows (f : Fuses) : List Byte :=
  (List.range 4).flatMap (fun k => padTo 64 ((f.slot k).getD zero64))
  ++ padTo 32 (f.mantel.getD []) ++ wBytes f.word ++ leBytes 4 f.svn ++ leBytes 4 (f.audAddr + 128 * b2n f.audOff)

/-- What a fuse register of the ATT page reads (R497); none for the other registers. -/
def Fuses.view (f : Fuses) (o : Nat) : Option Word :=
  let at4 (l : List Byte) (i : Nat) : Word := wd (leNat ((l.drop (4 * i)).take 4))
  if o = 0x08 then some (wd f.svn)
  else if o = 0x0C then some f.word
  else if o = 0x10 then some (wd (f.audAddr + 128 * b2n f.audOff))
  else if 0xA0 ≤ o ∧ o < 0xC0 then some (at4 (f.mantel.getD []) ((o - 0xA0) / 4))
  else if 0x100 ≤ o ∧ o < 0x1C0 then some (at4 f.cert ((o - 0x100) / 4))
  else none

/-- What a register of the ATT page reads once READY is set (R497). -/
def State.attView (s : State) (o : Nat) : Word :=
  let at4 (l : List Byte) (i : Nat) : Word := wd (leNat ((l.drop (4 * i)).take 4))
  match s.att.fuses.view o with
  | some w => w
  | none =>
    if 0x40 ≤ o ∧ o < 0x80 then at4 s.att.acc ((o - 0x40) / 4)
    else if 0x80 ≤ o ∧ o < 0xA0 then at4 dikPublic ((o - 0x80) / 4)
    else s.reg (kATT + o)

/-! ## Theant records (R483) -/

/-- The 64-byte header. -/
def State.theantHeader (s : State) (typ len : Nat) : List Byte :=
  ascii "THNT" ++ leBytes 2 typ ++ leBytes 2 1 ++ leBytes 4 len ++ leBytes 4 0 ++ padTo 32 dikPublic
    ++ leBytes 8 (s.w64 kBootSeq).toNat ++ leBytes 8 s.now.toNat

/-- A whole record: header, content, signature. -/
def State.theant (s : State) (typ : Nat) (content : List Byte) : List Byte :=
  let body := s.theantHeader typ (64 + content.length + 64) ++ content
  body ++ theantSign body

end Sys2Proof.Machine
end

