-- ==== Sys2Proof/Machine/MemCmd.lean ====
section
/-! DEFINITION. The memory commands: the region tables, `MEM_COPY` and `MEM_FILL`, loading and unsealing assets, the scrub, and the injectors (R289 to R306, R552, R553). -/

namespace Sys2Proof.Machine

/-! ## MEM_REGION_SET, Cellar form (R290, R291) -/

/-- The mirror channel of R6. -/
def State.mirrorChan (s : State) : Option Nat :=
  let cs := s.chans
  match cs with
  | [] => none
  | j :: rest =>
    match (cs.filter (· ≤ 4)).getLast? with
    | some m => if m = j then rest.head? else some m
    | none => rest.head?

/-- The journal's size (R77). -/
def journalBytes : Nat := 76 * 2 ^ 20

/-- The twin range of the journal, reserved whether or not it is mirrored (R293). -/
def State.journalTwin (s : State) : Option Nat := s.mirrorChan.bind s.window

/-- Two ranges overlap. -/
def overlaps (a n b m : Nat) : Bool := decide (a < b + m) && decide (b < a + n)

/-- A range overlaps a defined region other than r, or the twin range of one (R290). -/
def State.celBusy (s : State) (r a n : Nat) : Bool :=
  (List.range 64).any (fun k => decide (k ≠ r) && s.celEn k &&
    (overlaps a n (s.celBase k) (s.celSize k) ||
      match s.twinOf k with | some t => overlaps a n t (s.celSize k) | none => false))
  || match s.journalTwin with | some t => s.celEn 63 && overlaps a n t journalBytes | none => false

/-- OWNER is the host or a unit of the expert table (R290 check 7). -/
def ownerOk (u : Nat) : Bool := u = 0xFF ∨ (7 ≤ u ∧ u ≤ 0xC) ∨ (0x10 ≤ u ∧ u < 0x30)

/-- Store the entry of Cellar region r. -/
def State.celPut (s : State) (r base size : Nat) (attr : Word) : State :=
  ((s.setAddr40 (kReg r) base).setAddr40 (kReg r + 8) size).setReg (kReg r + 0x10) attr

/-- The bits of the attribute word whose change refills the region (R291): EN, MIRROR, MCH, PIN, CH, ECC. -/
def celGeomMask : Word := 0xFF900000

/-- The checks of `MEM_REGION_SET`'s Cellar form, and the answer to a removal of what is not there: the first reply. -/
def State.celSetFault (s : State) (p : Packet) : Option Reply :=
  let r := fld (pw p 0) 0 6
  let attr := pw p 5
  let base := pd p 1
  let size := pd p 3
  match firstFail [
      (fld (pw p 0) 6 25 ≠ 0, repBadP 0),
      (attr &&& 0x000F00FF ≠ 0, repBadP 5),
      (r = 63 || (r = 62 && s.att.store), repBadP 0)] with
  | some x => some x
  | none =>
    if !bit attr 31 then (if s.celEn r then none else some (rep .okEmpty 0))
    else
      let pin := bit attr 26
      let ch := fld attr 23 3
      let mch := fld attr 27 3
      let inside := if pin then
          (match s.window ch with | some w => decide (w ≤ base) && decide (base + size ≤ w + winBytes) | none => false)
        else decide (base + size ≤ s.ilv)
      let mirrorOk := pin && !bit attr 20 && decide (mch ≠ ch) &&
        match s.window ch, s.window mch with
        | some w, some m => !s.celBusy r (m + (base - w)) size
        | _, _ => false
      firstFail [
          (base % 65536 ≠ 0, repAlignP 1), (size % 65536 ≠ 0, repAlignP 3),
          (size = 0, repBadP 3),
          (!inside || s.celBusy r base size, repBadP 1),
          (bit attr 30 && !mirrorOk, repBadP 5),
          (!ownerOk (fld attr 8 8), repBadP 5)]

/-- The Cellar form of `MEM_REGION_SET` (DEDUCED, log 16). -/
def beginCelSet (o : Open) (s : State) : Started × State :=
  match s.celSetFault o.pkt with
  | some x => (.done x, s)
  | none =>
      let p := o.pkt
      let r := fld (pw p 0) 0 6
      let attr := pw p 5
      let base := pd p 1
      let size := pd p 3
      if !bit attr 31 then (.done repOk, (s.celPut r 0 0 0).setReg (kReg r + 0x14) 0)
      else if s.celEn r && decide (s.celBase r = base) && decide (s.celSize r = size) && decide ((s.celAttr r ^^^ attr) &&& celGeomMask = 0) then
        (if s.celFilling r then .wait (.fill r) else .done repOk, s.setReg (kReg r + 0x10) attr)
      else (.wait (.fill r), (s.celPut r base size attr).setReg (kReg r + 0x14) 0x40000000)

/-- The zero fill of region r ends: the region and its twin range hold zeros in good code, and the region is valid (R291); the channels have left self-refresh (R284). -/
def State.regionFillDone (s : State) (r : Nat) : State :=
  let s := if s.celFilling r then
      let z := s.zeroRange (s.celBase r) (s.celSize r)
      let z := match s.twinOf r with | some t => z.zeroRange t (s.celSize r) | none => z
      let z := z.celFill (s.regionChans r)
      z.setReg (kReg r + 0x14) 0x80000000
    else s
  s.finish (.fill r) repOk

/-! ## MEM_REGION_SET, Pantry form (R298) -/

/-- The checks of `MEM_REGION_SET`'s Pantry form: the reply of the first that fails. -/
def panSetFault (o : Open) (s : State) : Option Reply :=
  let p := o.pkt
  let r := fld (pw p 0) 0 8
  let en := bit (pw p 5) 31
  let base := pd p 1
  let size := pd p 3
    let larder := decide (aLarder ≤ base)
    let inside := decide (aPantry ≤ base) && decide (base + size ≤ (if larder then aLarderEnd else aLarder))
    let busy := decide (0 < size) && (List.range 256).any fun k => decide (k ≠ r) && s.panEn k && overlaps base size (s.panBase k) (s.panSize k)
  firstFail [
        (fld (pw p 0) 8 23 ≠ 0, repBadP 0), (fld (pw p 5) 0 31 ≠ 0, repBadP 5),
        (s.panSealed r, rep .sealed r),
        (decide (base % 4096 ≠ 0), repAlignP 1), (decide (size % 4096 ≠ 0), repAlignP 3),
        (en && decide (size = 0), repBadP 3),
        (!inside || busy, repBadP 1)]

/-- The Pantry form of `MEM_REGION_SET`. -/
def beginPanSet (o : Open) (s : State) : Started × State :=
  let p := o.pkt
  let r := fld (pw p 0) 0 8
  if s.panLoading r then (.later, s)
  else
    match panSetFault o s with
    | some x => (.done x, s)
    | none =>
        let en := bit (pw p 5) 31
        let base := pd p 1
        let size := pd p 3
        let larder := decide (aLarder ≤ base)
        let off := if en then base - aPantry else 0
        let loads := s.regF (kPR r + 8) 0 16
        let s := (s.setReg (kPR r) (wd off)).setReg (kPR r + 4) (wd (if en then size else 0))
        let s := s.setReg (kPR r + 8) (wd (b2n en * 2 ^ 31 + b2n (en && larder) * 2 ^ 25 + loads))
        (.done repOk, s.each (List.range 16) fun s k => s.setReg (kPR r + 0x40 + 4 * k) 0)

/-- `MEM_REGION_SET`. -/
def beginMemRegionSet (o : Open) (s : State) : Started × State :=
  if bit (pw o.pkt 0) 31 then beginPanSet o s else beginCelSet o s

/-! ## MEM_COPY and MEM_FILL (R552) -/

/-- The Foyer may copy from or to a range (R552). -/
def State.memRangeOk (s : State) (a n : Nat) : Bool :=
  match s.place a n with
  | .cellar r => decide (s.celOwner r ≠ 1) && decide (s.celOwner r ≠ 0x0D)
  | .pantry _ => true
  | _ => false

/-- The range lies in a sealed Pantry region. -/
def State.sealedAt (s : State) (a n : Nat) : Option Nat :=
  match s.place a n with
  | .pantry r => if s.panSealed r then some r else none
  | _ => none

/-- Source, destination and length of a `MEM_COPY`; no source for a `MEM_FILL`. -/
def memArgs (o : Open) : Option Nat × Nat × Nat :=
  if o.op = .memCopy then (some (pd o.pkt 0), pd o.pkt 2, pd o.pkt 4) else (none, pd o.pkt 0, pd o.pkt 2)

/-- Source and destination overlap. -/
def memOverlap (o : Open) : Bool :=
  match memArgs o with
  | (some a, d, n) => overlaps a n d n
  | _ => false

/-- The checks of `MEM_COPY` and `MEM_FILL`: the reply of the first that fails. -/
def memOpFault (o : Open) (s : State) : Option Reply :=
  let p := o.pkt
  let a := memArgs o
  let dw := if o.op = .memCopy then 2 else 0
  let n := a.2.2
  firstFail ((if o.op = .memCopy then [(highBits p 0, repBadP 1), (highBits p 2, repBadP 3)] else [(highBits p 0, repBadP 1)])
      ++ [(decide (n = 0), rep .okEmpty 0)]
      ++ (match a.1 with | some src => [(!s.memRangeOk src n, repBadP 0)] | none => [])
      ++ [(!s.memRangeOk a.2.1 n, repBadP dw), ((s.sealedAt a.2.1 n).isSome, rep .sealed ((s.sealedAt a.2.1 n).getD 0))])

/-- `MEM_COPY` and `MEM_FILL`. -/
def beginMemOp (o : Open) (s : State) : Started × State :=
  match memOpFault o s with
  | some x => (.done x, s)
  | none => (.wait .memOp, if memOverlap o then s.jState o.idx .started else s)

/-- The pieces of a copy or fill, one destination line after the other; `none` of a reply while nothing has stopped it. -/
def memPieces (src : Option Nat) (dst : Nat) (pat : Word) : State → List (Nat × Nat) → Option Reply × State
  | s, [] => (none, s)
  | s, q :: t =>
    let rd : Rd × State := match src with
      | some a => s.devRead 1 0 (a + (q.1 - dst)) q.2
      | none => (.ok ((List.range q.2).map fun i => BitVec.ofNat 8 (pat.toNat / 256 ^ ((q.1 + i) % 4))), s)
    match rd.1 with
    | .refused => (some (rep .stopped 1), rd.2)
    | .poison _ => (some (rep .uncorr 1), rd.2)
    | .ok bs =>
      let w := rd.2.devWrite 1 0 q.1 bs
      match w.1 with
      | .refused => (some (rep .stopped 1), w.2)
      | .poison _ => (some (rep .uncorr 1), w.2)
      | .ok => memPieces src dst pat w.2 t

/-- A `MEM_COPY` or `MEM_FILL` runs and ends; a copy onto a higher overlapping range goes from the end (R330, R552). -/
def State.memOpRun (s : State) (o : Open) : State :=
  let a := memArgs o
  let ps := linePieces a.2.1 a.2.2
  let down := memOverlap o && match a.1 with | some x => decide (x < a.2.1) | none => false
  let r := memPieces a.1 a.2.1 (pw o.pkt 4) s (if down then ps.reverse else ps)
  r.2.finishAcc o.acc (r.1.getD repOk)

/-- The nth of the running copies and fills ends. -/
def State.memOpDone (s : State) (n : Nat) : State :=
  match (s.foy.opens.filter fun o => o.begun && o.fin.isNone && decide (o.wait = .memOp))[n]? with
  | some o => s.memOpRun o
  | none => s

/-! ## ASSET_LOAD and ASSET_UNSEAL (R300, R301) -/

/-- Checks 3, 4 and 6 of R300, and check 2, which a region redefined meanwhile can fail. -/
def State.assetRegionFault (s : State) (o : Open) : Option Reply :=
  let p := o.pkt
  let r := fld (pw p 0) 0 8
  let mine := bit (pw p 0) 8 && decide (s.regB (kPR r + 8) 24 = ringPf1 p.ring)
  firstFail [(!s.panEn r, rep .notReady 5), (s.panSealed r && !mine, rep .sealed r),
    (s.panLarder r && s.expert 0x0B, rep .unitExpert 0x0B), (s.panSize r < (pw p 3).toNat, repBadP 3)]

/-- A load enters the region (R301 step 1): SEALED, MEASURED, ALTERED and FAILED clear and LOADING sets (DEDUCED, log 95). -/
def State.assetStart (s : State) (r : Nat) : State :=
  s.setReg (kPR r + 8) ((s.reg (kPR r + 8) &&& 0x83FFFFFF) ||| 0x08000000)

/-- The checks of `ASSET_LOAD`: the reply of the first that fails. -/
def assetLoadFault (o : Open) (s : State) : Option Reply :=
  let p := o.pkt
  let r := fld (pw p 0) 0 8
  let n := (pw p 3).toNat
  let mine := bit (pw p 0) 8 && decide (s.regB (kPR r + 8) 24 = ringPf1 p.ring)
  let strong := match s.place (pd p 1) n with | .cellar c => !s.celLight c | _ => false
  firstFail [
      (fld (pw p 0) 10 22 ≠ 0, repBadP 0), (fld (pw p 1) 0 6 ≠ 0, repAlignP 1), (highBits p 1, repBadP 2),
      (n = 0 || decide (s.panSize r < n), repBadP 3),
      (!s.panEn r, rep .notReady 5),
      (s.panSealed r && !mine, rep .sealed r),
      (!strong, repBadP 1),
      (s.panLarder r && s.expert 0x0B, rep .unitExpert 0x0B)]

/-- `ASSET_LOAD`. -/
def beginAssetLoad (o : Open) (s : State) : Started × State :=
  match assetLoadFault o s with
  | some x => (.done x, s)
  | none =>
      let p := o.pkt
      let r := fld (pw p 0) 0 8
      if s.panLoading r then (.hold (.region r), s) else (.wait (.load r), s.assetStart r)

/-- An `ASSET_LOAD` that was held behind another load of its region begins, or fails the checks made again (R300). -/
def resumeAssetLoad (o : Open) (s : State) : Started × State :=
  let r := fld (pw o.pkt 0) 0 8
  if s.panLoading r then (.hold (.region r), s)
  else match s.assetRegionFault o with
    | some x => (.done x, s)
    | none => (.wait (.load r), s.assetStart r)

/-- The source of a load, line by line: the bytes read, and whether an uncorrectable line ended it (R301 step 2). -/
def assetSource (a : Nat) : State → List (Nat × Nat) → List Byte → (List Byte × Bool) × State
  | s, [], acc => ((acc, false), s)
  | s, q :: t, acc =>
    let r := s.devRead 5 0 q.1 q.2
    match r.1 with
    | .poison _ => ((acc, true), r.2)
    | x => assetSource a r.2 t (acc ++ x.bytes q.2)

/-- Store bytes into a region line by line, as the Foyer's own write. -/
def State.regionWrite (s : State) (r a : Nat) (bs : List Byte) : State :=
  let p : Place := if s.panLarder r then .larder r else .pantry r
  s.each (linePieces a bs.length) fun s q => s.storeLine p q.1 q.1 (pieceBytes a bs q) false

/-- Fill the rest of region r with zeros line by line, which an armed injector sees as it sees every write (R301 step 2, R306). -/
def State.regionZero (s : State) (r a n : Nat) : State :=
  let p : Place := if s.panLarder r then .larder r else .pantry r
  let l := aPantry + s.regF (kPAN + 0x104) 6 21 * 64
  let z := s.zeroRange a n
  if a ≤ l ∧ l < a + n then z.storeLine p l l (List.replicate 64 0) false else z

/-- Set the digest words of region r. -/
def State.setDigest (s : State) (r : Nat) (d : List Byte) : State :=
  s.each (List.range 16) fun s k => s.setReg (kPR r + 0x40 + 4 * k) (wd (leNat ((d.drop (4 * k)).take 4)))

/-- The load of region r ends (R301 steps 2 to 5). -/
def State.assetLoadRun (s : State) (o : Open) : State :=
  let p := o.pkt
  let r := fld (pw p 0) 0 8
  let n := (pw p 3).toNat
  let k := kPR r
  let rd := assetSource (pd p 1) s (linePieces (pd p 1) n) []
  let s := rd.2
  let src := srcRing p.ring
  if rd.1.2 then
    let s := s.regionWrite r (s.panBase r) rd.1.1
    let s := ((s.setDigest r zero64).setReg (k + 0xC) 0).setReg (k + 8) ((s.reg (k + 8) &&& 0xF7FFFFFF) ||| 0x04000000)
    (s.measure 0x10 src r (s.reg (k + 8)).toNat (pw p 3 |>.zeroExtend 64) zero64).finishAcc o.acc (rep .uncorr 5)
  else
    let d := sha512 rd.1.1
    let full := rd.1.1 ++ List.replicate (roundUp n 64 - n) 0
    let s := (s.regionWrite r (s.panBase r) full).regionZero r (s.panBase r + full.length) (s.panSize r - full.length)
    let s := (s.setDigest r d).setReg (k + 0xC) (wd n)
    let bad := bit (pw p 0) 9 && decide (d ≠ wsBytes ((List.range 16).map fun i => pw p (4 + i)))
    let st := (s.reg (k + 8) &&& 0xF6FF0000) ||| wd (s.regF (k + 8) 0 16 + 1 - (s.regF (k + 8) 0 16 + 1) / 65536 * 65536)
      ||| flag 26 bad ||| flag 29 (!bad) ||| flag 30 (!bad && bit (pw p 0) 8)
      ||| flag 24 (if !bad && bit (pw p 0) 8 then ringPf1 p.ring else s.regB (k + 8) 24)
    let s := s.setReg (k + 8) st
    let s := s.measure 0x10 src r st.toNat (pw p 3 |>.zeroExtend 64) d
    let w (i : Nat) : Word := wd (leNat ((d.drop (4 * i)).take 4))
    s.finishAcc o.acc ⟨if bad then .authFail else .ok, 0, w 0, w 1, w 2⟩

/-- The load that runs into region r ends. -/
def State.assetLoadDone (s : State) (r : Nat) : State :=
  match s.foy.opens.find? fun o => o.begun && o.fin.isNone && decide (o.wait = .load r) with
  | some o => s.assetLoadRun o
  | none => s

/-- The checks of `ASSET_UNSEAL`: the reply of the first that fails. -/
def assetUnsealFault (o : Open) (s : State) : Option Reply :=
  let p := o.pkt
  let r := fld (pw p 0) 0 8
  firstFail [
      (fld (pw p 0) 8 24 ≠ 0, repBadP 0), (!s.panEn r, rep .notReady 5), (!s.panSealed r, rep .okEmpty 0),
      (s.regB (kPR r + 8) 24 ≠ ringPf1 p.ring, rep .sealed r)]

/-- `ASSET_UNSEAL`. -/
def beginAssetUnseal (o : Open) (s : State) : Started × State :=
  match assetUnsealFault o s with
  | some x => (.done x, s)
  | none =>
      let p := o.pkt
      let r := fld (pw p 0) 0 8
      (.done repOk, s.setB (kPR r + 8) 30 false)

/-! ## Patrol scrub (R302) -/

/-- Where a scrubbed line lies: in a region, in the twin range of one, or anywhere in the Pantry or the Larder, all of which are scrubbed (R302). -/
def State.scrubPlace (s : State) (l : Nat) : Place :=
  match s.place l 64 with
  | .none =>
    if aPantry ≤ l ∧ l < aLarder then .pantry 0
    else if aLarder ≤ l ∧ l < aLarderEnd then .larder 0
    else (match (List.range 64).find? fun r => s.celValid r &&
          (match s.twinOf r with | some t => decide (t ≤ l) && decide (l + 64 ≤ t + s.celSize r) | none => false) with
        | some r => .cellar r
        | none => .none)
  | p => p

/-- A scrub read of the line at an address: corrected codewords are written back, an uncorrectable one is left and recorded. -/
def State.scrubLine (s : State) (a : Nat) : State :=
  let l := a / 64 * 64
  let p := s.scrubPlace l
  let on := match p with | .cellar r => decide (fld (s.celAttr r) 21 2 ≠ 0) | .none => false | _ => true
  if !on then s
  else
    let s := s.celUse 0x04 false true p l 64
    let cws := codewords (s.grain p) l 64
    match cws.find? fun c => decide (s.code c = .uncorr) with
    | some c => (s.uncorrectable p c).ueRecord (match p with | .cellar _ => 4 | _ => 5) 0 l
    | none => s.each cws fun s c => match s.code c with
        | .corr pos => (s.corrected p c pos).setCode c .good
        | _ => s

/-! ## The injectors (R305, R306, R553) -/

/-- A write of `CEL_FLIP`: ARM = 1 clears DONE, and the fields are taken. -/
def State.celFlipWrite (s : State) (v : Word) : State :=
  let k := kCEL + 0x100
  let done := if bit v 31 then 0 else s.reg k &&& 0x40000000
  s.setReg k ((v &&& 0xA0FF0F0F) ||| done)

/-- A write of `PAN_FLIP`. -/
def State.panFlipWrite (s : State) (v : Word) : State :=
  let k := kPAN + 0x100
  let done := if bit v 31 then 0 else s.reg k &&& 0x40000000
  s.setReg k ((v &&& 0x83FFFFFF) ||| done)

/-- A write of an injector's address register clears its ARM. -/
def State.flipAddrWrite (s : State) (r : FlipAddr) (v : Word) : State :=
  match r with
  | .celLo => (s.setReg (kCEL + 0x104) (v &&& 0xFFFFFFC0)).setB (kCEL + 0x100) 31 false
  | .celHi => (s.setReg (kCEL + 0x108) (v &&& 0xFF)).setB (kCEL + 0x100) 31 false
  | .pan => (s.setReg (kPAN + 0x104) (v &&& 0x07FFFFC0)).setB (kPAN + 0x100) 31 false

end Sys2Proof.Machine
end

