-- ==== Sys2Proof/Machine/Journal.lean ====
section
/-! DEFINITION. Reading the journal: its copies, the check of an entry, and which copy counts (R79, R84, R87, R90). -/

namespace Sys2Proof.Machine

/-! ## What the words say -/

/-- The statuses of R69. -/
def allStatus : List Status :=
  [.ok, .okEmpty, .duplicate, .badOpcode, .badLength, .badParam, .unitExpert, .featureOff, .noResource, .notReady, .align, .overlapConv,
   .configMismatch, .beamTarget, .uncorr, .stopped, .ifetchUncorr, .authFail, .sealed, .rollback, .linkDown, .genlockRange, .repIllegal]

/-- The status of a code (R69). -/
def statusOf (c : Nat) : Status := (allStatus.find? fun x => decide (statusCode x = c)).getD .internal

/-- The STATE of a code (R79). -/
def jstateOf (c : Nat) : JState :=
  match c with
  | 1 => .accepted | 2 => .started | 3 => .staged | 4 => .complete | _ => .free

/-- The journal entry that sixteen words spell (R79). -/
def jOfWords (ws : List Word) : JEntry :=
  let w (k : Nat) : Word := ws.getD k 0
  { state := jstateOf (fld (w 4) 5 3), hdr := w 0, seq := dw (w 1) (w 2), tag := w 3, ring := fld (w 4) 0 5, slot := fld (w 4) 12 12,
    replayed := bit (w 4) 9, mirror := bit (w 4) 8, sqend := w 5, cqidx := w 6,
    reply := ⟨statusOf (fld (w 7) 0 16), fld (w 7) 16 16, w 8, w 9, w 10⟩, ctime := w 11, atime := w 12, feat := w 13, epoch := fld (w 14) 0 16 }

/-- The CRC of the sixty-four bytes of an entry matches (R79). -/
def jCrcOk (bs : List Byte) : Bool := decide (crc32 (bs.take 60) = wd (leNat ((bs.drop 60).take 4)))

/-- The packet that the words of a payload slot spell (R57). -/
def packetOf (ring : Nat) (ws : List Word) : Packet :=
  let w (k : Nat) : Word := ws.getD k 0
  { ring := Fin.ofNat 18 ring, rsvd := bit (w 0) 31, commit := bit (w 0) 30, fence := bit (w 0) 29, irq := bit (w 0) 28,
    len := BitVec.ofNat 12 (fld (w 0) 16 12), seq := dw (w 1) (w 2), tag := w 3, p := ws.drop 4 }

/-! ## Reads -/

/-- One copy of n bytes of the journal is read: none when it meets an uncorrectable error, which a read for a resubmission records (R90); a recovery records only what it loses by it (R87, R304). -/
def State.jCopyRead (s : State) (rec : Bool) (a n : Nat) : Option (List Byte) × State :=
  let p : Place := .cellar 63
  let s := s.celUse 0x01 true true p a n
  let cws := codewords 64 a n
  match cws.find? fun c => decide (s.code c = .uncorr) with
  | some c =>
    let s := s.uncorrectable p c
    (none, if rec then s.ueRecord 0x01 0 (c / 64 * 64) else s)
  | none => (some (s.bytes a n), s.each cws fun s c => match s.code c with | .corr pos => s.corrected p c pos | _ => s)

/-- The copies of n bytes at an offset of the journal that can be read: under the mirror of both (R84). -/
def State.jCopies (s : State) (rec : Bool) (off n : Nat) : List (List Byte) × State :=
  let r := s.jCopyRead rec (s.addr40 kJBase + off) n
  match s.regB kJStat 30, s.twinOf 63 with
  | true, some t =>
    let q := r.2.jCopyRead rec (t + off) n
    (r.1.toList ++ q.1.toList, q.2)
  | _, _ => (r.1.toList, r.2)

/-- The one of two copies of an entry that counts: the one whose STATE is later (R84). -/
def JEntry.later (a b : JEntry) : JEntry := if jstateCode a.state < jstateCode b.state then b else a

/-- Entry i is read: of the copies that are free of uncorrectable errors and whose CRC matches, the later one (R84, R90). -/
def State.jEntry (s : State) (rec : Bool) (i : Nat) : Option JEntry × State :=
  let r := s.jCopies rec (64 * i) 64
  match (r.1.filter jCrcOk).map fun bs => jOfWords (toWords bs) with
  | [] => (none, r.2)
  | e :: t => (some (t.foldl JEntry.later e), r.2)

/-- The packet in the payload slot of an entry is read: none when no copy can be (R87). -/
def State.jPacket (s : State) (e : JEntry) : Option Packet × State :=
  let n := max 4 (fld e.hdr 16 12)
  let r := s.jCopies false (slotOff e.slot) (4 * n)
  (r.1.head?.map fun bs => packetOf e.ring (toWords bs), r.2)

end Sys2Proof.Machine
end

