-- ==== Sys2Proof/Machine/Records.lean ====
section
/-! DEFINITION. The head state records in the journal: what they hold, when they are written, and how a head is restored from its record (R78, R81, R87 step 6, R88, R316). -/

namespace Sys2Proof.Machine

/-- A head state record (R81): whether the head is enabled, whether its `HEAD_ENABLE` still waits for the first swap, `HD_FRAME` at the last swap, and what the staging commands have made of the committed and of the staged set and of the two palettes that go with them; whether the staged set is dirty.  A set is held as what it writes into the registers, by offset; a palette by entry (DESIGN CHOICE, log 68). -/
structure HeadRec where
  enabled : Bool
  starting : Bool
  dirty : Bool
  frame : DWord
  com : List (Nat × Word)
  sh : List (Nat × Word)
  palC : List (Nat × Word)
  palS : List (Nat × Word)
  deriving DecidableEq, Repr

/-- The entries of a table that are `RWS` registers of head h, by offset. -/
def rwsOf (h : Nat) (t : Tbl Word) : List (Nat × Word) :=
  t.filterMap fun e => if kHD h ≤ e.1 && rwsOffs.contains (e.1 - kHD h) then some (e.1 - kHD h, e.2) else none

/-- The record of a head as it stands. -/
def State.recOf (s : State) (h : Nat) : HeadRec :=
  let v := s.head h
  let starting := v.enabled && v.starting && v.restart.isNone
  { enabled := v.enabled && !starting, starting := starting, dirty := s.regB (kHD h + 0x44) 31, frame := s.frame h,
    com := rwsOf h s.com, sh := rwsOf h s.regs, palC := v.palC, palS := v.palS }

/-- Pairs as words, and back. -/
def pairWords (l : List (Nat × Word)) : List Word := l.flatMap fun e => [wd e.1, e.2]
def wordPairs : List Word → List (Nat × Word)
  | a :: b :: t => (a.toNat, b) :: wordPairs t
  | _ => []

/-- The words of a record: a line of flags, frame number and counts, and the pairs (DESIGN CHOICE, log 68). -/
def HeadRec.words (r : HeadRec) : List Word :=
  [wd (b2n r.enabled + 2 * b2n r.dirty + 4 * b2n r.starting), lo32 r.frame, hi32 r.frame,
   wd r.com.length, wd r.sh.length, wd r.palC.length, wd r.palS.length] ++ List.replicate 9 0
  ++ pairWords r.com ++ pairWords r.sh ++ pairWords r.palC ++ pairWords r.palS

/-- The record that a first line and the pairs after it spell. -/
def recOfWords (hd body : List Word) : HeadRec :=
  let w (k : Nat) : Word := hd.getD k 0
  let l := wordPairs body
  let n (k : Nat) : Nat := (w (3 + k)).toNat
  { enabled := bit (w 0) 0, dirty := bit (w 0) 1, starting := bit (w 0) 2, frame := dw (w 1) (w 2), com := l.take (n 0),
    sh := (l.drop (n 0)).take (n 1), palC := (l.drop (n 0 + n 1)).take (n 2), palS := (l.drop (n 0 + n 1 + n 2)).take (n 3) }

/-- Offset of the record of head h in the journal (R78). -/
def recOff (h : Nat) : Nat := 0x4400000 + h * 0x40000

/-- The Foyer updates the record of head h: at a staging commit point, at a swap, and where the head stops or begins to start (R81). -/
def State.recHead (s : State) (h : Nat) : State := s.jWrite 0 (recOff h) (wsBytes (s.recOf h).words)

/-- The record of head h is read, in the copy that can be (R84, R87). -/
def State.recRead (s : State) (h : Nat) : Option HeadRec × State :=
  let r := s.jCopies true (recOff h) 64
  match r.1 with
  | [] => (none, r.2)
  | bs :: _ =>
    let hd := toWords bs
    let n := ((hd.drop 3).take 4).foldl (fun k w => k + w.toNat) 0
    let q := r.2.jCopies true (recOff h + 64) (8 * n)
    (q.1.head?.map fun body => recOfWords hd (toWords body), q.2)

/-- A head is restored from its record: an enabled one restarts at its next boundary with its committed set, and has its staged set staged again; one whose `HEAD_ENABLE` is replayed has its staged set (R87 step 6, R88) (DEDUCED, log 71). -/
def State.restoreHead (s : State) (h : Nat) (r : HeadRec) : State :=
  if !r.enabled && !r.starting then s
  else
    let s := s.each r.sh fun s e => s.setHd h e.1 e.2
    let s := if r.enabled then (s.each r.com fun s e => s.setCm h e.1 e.2).setW64 (kFrame h) r.frame else s
    (s.updHead h fun v => { v with
      palS := r.palS, palC := if r.enabled then r.palC else [], enabled := r.enabled, starting := r.enabled,
      restart := if r.enabled then some (r.frame + 1) else none }).setB (kHD h + 0x44) 31 r.dirty

end Sys2Proof.Machine
end

