-- ==== Sys2Proof/Machine/Features.lean ====
section
/-! DEFINITION. The feature set, expert control, `FENCE` and the error log command (R45 to R47, R66, R68, R72 to R75, R280, R293, R524). -/

namespace Sys2Proof.Machine

/-! ## The feature commit (R72 to R75) -/

/-- `GLB_FEAT_DEVj`, `GLB_FEAT_DRVj` and `GLB_FEAT_ACTj`. -/
def kDev (j : Nat) : Nat := 0x100 + 4 * j
def kDrv (j : Nat) : Nat := 0x120 + 4 * j
def kAct (j : Nat) : Nat := 0x160 + 4 * j

/-- Word j of the wanted set with its reserved bits left out, in which a 1 is ignored (R36, R73). -/
def wantMask (j : Nat) : Word := if j = 0 then 0x0003FFFF else if j = 1 then 0xFF else 0

/-- The active set is locked. -/
def State.featLocked (s : State) : Bool := s.regB 4 1

/-- The two DIMMs of the mirror pair exist and have one capacity (R6, R74). -/
def State.mirrorPair (s : State) : Bool :=
  match s.chans, s.mirrorChan with
  | j :: _, some m => decide (s.regF (kCEL + 0x10 * j) 16 8 = s.regF (kCEL + 0x10 * m) 16 8)
  | _, _ => false

/-- Word 0 of the set that a commit forms (R73, R74). -/
def State.featForm (s : State) : Word :=
  let a := s.reg (kDev 0) &&& s.reg (kDrv 0) &&& 0x0003FFFF
  let a := if bit a 2 && s.att.fuses.mantel.isSome then a else putBit a 15 false
  let a := if s.mirrorPair then a else putBit a 16 false
  if s.regB 4 8 then a &&& 0xFFFF80FF else a

/-- The mirrored journal begins (R83, R293): region 63 gets its twin, and every entry and payload slot in use is written to both copies, and so are the head state records. -/
def State.mirrorOn (s : State) : State :=
  match s.chans, s.mirrorChan with
  | j :: _, some m =>
    let a := putFld (putBit (s.celAttr 63) 30 true) 27 3 m
    let s := s.setReg (kReg 63 + 0x10) a
    let s := s.setReg kJStat ((s.reg kJStat &&& 0xFF88FFFF) ||| wd (2 ^ 30 + j * 2 ^ 20 + m * 2 ^ 16))
    let s := s.each s.foy.journal fun s e => match e.2 with | some x => s.jSet e.1 x | none => s
    let s := s.each s.foy.opens fun s o =>
      match s.jAt o.idx with
      | some e => s.jWrite o.idx (slotOff e.slot) (wsBytes (packetWords o.op o.pkt))
      | none => s
    s.each ((List.range 32).filter fun h => (s.head h).enabled) State.recHead
  | _, _ => s

/-- The receipt store is allocated, and its zero fill begins (R280, R293). -/
def State.storeAlloc (s : State) : State :=
  match s.chans with
  | [] => s
  | c0 :: t =>
    let c := t.headD c0
    let base := (s.window c).getD 0 + 128 * 2 ^ 20
    let attr : Word := wd (2 ^ 31 + 2 ^ 26 + c * 2 ^ 23 + 2 * 2 ^ 21 + 0x0D * 2 ^ 8)
    let s := (s.celPut 62 base (384 * 2 ^ 20) attr).setReg (kReg 62 + 0x14) 0x40000000
    { s with att := { s.att with store := true } }

/-- A feature commit, on a set that is not locked. -/
def State.featCommit (s : State) : State :=
  let a := s.featForm
  let s := (s.setReg (kAct 0) a).setB 4 1 true
  let s := s.takePlan
  let s := s.measure 0x14 (srcRing 0) 0 0 0 (sha512 (wsBytes ((List.range 8).map fun j => s.reg (kAct j))))
  let s := if bit a 16 then s.mirrorOn else s
  if bit a 3 && !s.att.store then s.storeAlloc else s

/-- A write of `GLB_FEAT_COMMIT` (R72, R75); before READY it does nothing and nothing records it (DESIGN CHOICE, log 108). -/
def State.featCommitWrite (s : State) (v : Word) : State :=
  if s.featLocked then s.wdrop 0 0x140
  else if bit v 0 && s.ready then s.featCommit
  else s

/-- `FEATURES_GET`. -/
def beginFeaturesGet (_ : Open) (s : State) : Started × State :=
  (.done ⟨.ok, b2n s.featLocked, s.reg (kDev 0), s.reg (kDev 1), s.reg (kAct 0)⟩, s)

/-- `FEATURES_SET` at its commit point: it writes the wanted words and commits them, unless the set is locked. -/
def State.featuresSet (s : State) (o : Open) : Reply × State :=
  if s.featLocked then (⟨.badParam, 0x1002, s.reg (kAct 0), s.reg (kAct 1), 0⟩, s)
  else
    let s := s.each (List.range 8) fun s j => s.setReg (kDrv j) (pw o.pkt j &&& wantMask j)
    let s := s.featCommit
    (⟨.ok, 0, s.reg (kAct 0), s.reg (kAct 1), pw o.pkt 0 &&& s.reg (kDev 0) &&& ~~~ s.reg (kAct 0)⟩, s)

/-! ## FENCE (R68) -/

/-- `FENCE`: bit n of the mask is implied. -/
def beginFence (o : Open) (s : State) : Started × State :=
  if outside o.pkt 0 0x0003FFFF then (.done (repBadP 0), s)
  else (.wait (.fence (pw o.pkt 0 ||| flag o.pkt.ring.val true)), s)

/-- Every command accepted before a fence on the rings of its mask has completed. -/
def State.fenceMet (s : State) (o : Open) (mask : Word) : Bool :=
  s.foy.opens.all fun x => decide (o.acc ≤ x.acc) || !bit mask x.pkt.ring.val

/-! ## What a command is aimed at (R46, R71, R86) -/

/-- The heads that a command's head field or head mask names, with those that a `CANVAS_SET` would take out of its canvas (R110). -/
def State.aimedHeads (s : State) (o : Open) : List Nat :=
  let p := o.pkt
  let one : List Nat := [fld (pw p 0) 0 5]
  match o.op with
  | .headTiming | .headEnable | .headDisable | .planeSet | .beamListSet | .composeSet | .lutLoad | .crcRectSet
  | .writebackSet => one
  | .headCommit => (List.range 32).filter (bit (pw p 0))
  | .spriteTable =>
    if bit (pw p 0) 8 then
      (List.range 32).filter fun h => gCanvasEn (s.shSet h) && decide (gCanvas (s.shSet h) = fld (pw p 0) 0 5)
    else one
  | .canvasSet =>
    (List.range 32).filter fun h => bit (pw p 1) h || (gCanvasEn (s.shSet h) && decide (gCanvas (s.shSet h) = fld (pw p 0) 0 3))
  | _ => []

/-- A command is aimed at a unit of R32 (DEDUCED, log 63). -/
def State.aimed (s : State) (o : Open) (u : Nat) : Bool :=
  match o.op with
  | .timerCompareArm | .timerCaptureSet => decide (u = 0x07)
  | .pinseqLoad | .pinseqStart | .pinseqStop => decide (u = 0x08)
  | .dmaChainStart | .dmaStop => decide (u = 0x09)
  | .rectFill | .rectCopy | .rectConvert => decide (u = 0x0A)
  | .voiceStart | .voiceStop | .voiceParam | .mixGraphLoad | .mixParamSet | .mixCommit | .audioPortSet => decide (u = 0x0B)
  | .assetLoad => decide (u = 0x0B) && s.panLarder (fld (pw o.pkt 0) 0 8)
  | .nioftLoad | .nioftStart | .nioftStop => decide (u = 0x0C)
  | .routeSet => decide (u = 0x0E)
  | _ => decide (0x10 ≤ u) && ((s.aimedHeads o).contains (u - 0x10) ||
      match o.wait with | .swap left _ _ _ => bit left (u - 0x10) | _ => false)

/-! ## Expert control (R45 to R47, R66) -/

/-- The feature that a unit of the table of R45 needs. -/
def expertFeature (u : Nat) : Option Nat :=
  if 0x10 ≤ u ∧ u < 0x30 then some 8
  else match u with
    | 0x07 => some 14 | 0x08 => some 12 | 0x09 => some 10 | 0x0A => some 11 | 0x0B => some 9 | 0x0C => some 13 | _ => none

/-- A unit of the table that the device reports absent (R5). -/
def State.absentUnit (s : State) (u : Nat) : Option Nat :=
  if 0x10 ≤ u ∧ u < 0x30 then (if s.headPresent (u - 0x10) then none else some ((u - 0x10) / 8))
  else if u = 0x08 then (if s.present 7 then none else some 7)
  else if u = 0x0B then (if s.present 6 then none else some 6)
  else none

/-- Set or clear a unit's bit in `GLB_EXPERT` or `GLB_EXPERT_HD`. -/
def State.setExpert (s : State) (u : Nat) (b : Bool) : State :=
  if 0x10 ≤ u then s.setB 0x14 (u - 0x10) b else s.setB 0x10 u b

/-- The checks that `EXPERT_ENTER` and `EXPERT_LEAVE` share. -/
def State.expertFault (s : State) (o : Open) (enter : Bool) : Option Reply :=
  let u := fld (pw o.pkt 0) 0 8
  let f := expertFeature u
  let a := s.absentUnit u
  firstFail [
    (enter && match f with | some k => !o.hasFeat k | none => false, rep .featureOff (f.getD 0)),
    (f.isNone || outside o.pkt 0 0xFF, repBadP 0),
    (a.isSome, repBad (0x20 + a.getD 0)),
    (enter && s.expert u, rep .okEmpty 0)]

/-- A rect command waits for its engine, on which it has not begun (R339). -/
def State.rectQueued (s : State) (acc : Nat) : Bool := s.rect.any fun e => e.2.queue.any fun q => decide (q.1 = acc)

/-- A command holds back an `EXPERT_ENTER` of the unit: it is aimed at it, resets it, or configures the receipts of the head (R46). -/
def State.actsOn (s : State) (o : Open) (u : Nat) : Bool :=
  s.aimed o u || match o.op with
    | .unitReset => decide (fld (pw o.pkt 0) 0 8 = u)
    | .receiptConfig => decide (uHead (fld (pw o.pkt 0) 0 5) = u)
    | _ => false

/-- `EXPERT_ENTER`: it waits for the commands that have begun on the unit by then, not for those that begin while it waits (DESIGN CHOICE, log 106), and for the next swap of an enabled head. -/
def beginExpertEnter (o : Open) (s : State) : Started × State :=
  let u := fld (pw o.pkt 0) 0 8
  match s.expertFault o true with
  | some r => (.done r, s)
  | none =>
      let begun := (s.foy.opens.filter fun x => x.begun && decide (x.acc ≠ o.acc) && s.actsOn x u && !s.rectQueued x.acc).map (·.acc)
      (.wait (.expert u (!(decide (0x10 ≤ u) && (s.head (u - 0x10)).enabled)) begun), s)

/-- An `EXPERT_ENTER` has nothing left to wait for. -/
def State.expertMet (s : State) (swapped : Bool) (begun : List Nat) : Bool :=
  swapped && s.foy.opens.all fun x => !begun.contains x.acc

/-- `EXPERT_LEAVE`: its parameters are checked when it begins. -/
def beginExpertLeave (o : Open) (s : State) : Started × State :=
  match s.expertFault o false with
  | some r => (.done r, s)
  | none => (.done repOk, s)

/-- The commit point of `EXPERT_ENTER` or `EXPERT_LEAVE` that has succeeded. -/
def State.expertCommit (s : State) (o : Open) (enter : Bool) : State :=
  let u := fld (pw o.pkt 0) 0 8
  (s.setExpert u enter).measure 0x15 (srcRing o.pkt.ring.val) u (b2n enter) 0 zero64

/-- The commit point of `EXPERT_LEAVE`: whether the unit is under expert control is judged here, after its predecessors' commit points (DEDUCED, log 17). -/
def State.expertLeave (s : State) (o : Open) (r : Reply) : Reply × State :=
  if s.expert (fld (pw o.pkt 0) 0 8) then (r, s.expertCommit o false) else (rep .okEmpty 0, s)

/-! ## ERRLOG_READ (R524) -/

/-- The checks of `ERRLOG_READ`: the reply of the first that fails. -/
def errlogReadFault (o : Open) (s : State) : Option Reply :=
  let p := o.pkt
  let room := (pw p 2).toNat / 32
  let d := (lo32 (s.w64 kErrNext) - pw p 3).toNat
  firstFail [(room = 0, repBadP 2), (d = 0 || decide (2 ^ 31 < d), rep .okEmpty 0)]

/-- `ERRLOG_READ`. -/
def beginErrlogRead (o : Open) (s : State) : Started × State :=
  match errlogReadFault o s with
  | some r => (.done r, s)
  | none =>
      let p := o.pkt
      let buf := pd p 0
      let room := (pw p 2).toNat / 32
      let next := (s.w64 kErrNext).toNat
      let old := (s.w64 kErrOld).toNat
      let d := (lo32 (s.w64 kErrNext) - pw p 3).toNat
      let first := if next < d then old else max old (next - d)
      let n := min room (next - first)
      let recs := (List.range n).filterMap fun i => s.errAt (BitVec.ofNat 64 (first + i))
      (.done ⟨.ok, 0, wd n, wd first, wd next⟩, s.hostWrite buf (recs.flatMap fun r => wsBytes (errWords r)))

/-- The commit point of `ERRLOG_READ`: the read mark of its function rises to one past the last record written. -/
def State.errMark (s : State) (o : Open) (r : Reply) : State :=
  let k := kErrMark (b2n (ringPf1 o.pkt.ring.val))
  let back := (r.res2 - (r.res1 + r.res0)).toNat
  -- RES2 is the SEQ that was next at the reading, at or below the one that is next now
  let next := (s.w64 kErrNext).toNat
  let then' := next - (wd next - r.res2).toNat
  let mark := then' - back
  if (s.w64 k).toNat < mark then s.setW64 k (BitVec.ofNat 64 mark) else s

end Sys2Proof.Machine
end

