-- ==== Sys2Proof/Machine/Planes.lean ====
section
/-! DEFINITION. Tile and bitmap planes: where they sample, what they show at a position, what they cost, and when the swap refuses them (R121 to R154). -/

namespace Sys2Proof.Machine

/-! ## Pixels in the composer's input form (R132) -/

/-- R, G and B of 10 bits and A of 8 bits. -/
structure Px where
  r : Nat
  g : Nat
  b : Nat
  a : Nat
  deriving DecidableEq, Repr

/-- Expansion of a source field (R132). -/
def exp5 (v : Nat) : Nat := 33 * v
def exp6 (v : Nat) : Nat := 16 * v + v / 4
def exp8 (v : Nat) : Nat := 4 * v + v / 64

/-- A palette entry in ARGB8888 (R130), expanded by the 8-bit rules. -/
def pxArgb8888 (w : Word) : Px := ⟨exp8 (fld w 16 8), exp8 (fld w 8 8), exp8 (fld w 0 8), fld w 24 8⟩

/-- A stored bitmap pixel (R143); an index goes through the given palette. -/
def pxOfFormat (fmt : Nat) (v : Nat) (pal : Nat → Word) (ofs : Nat) : Px :=
  let w := wd v
  match fmt with
  | 0 => ⟨exp5 (fld w 11 5), exp6 (fld w 5 6), exp5 (fld w 0 5), 255⟩
  | 1 => ⟨exp5 (fld w 10 5), exp5 (fld w 5 5), exp5 (fld w 0 5), 255 * fld w 15 1⟩
  | 2 => ⟨exp8 (fld w 16 8), exp8 (fld w 8 8), exp8 (fld w 0 8), 255⟩
  | 3 => pxArgb8888 w
  | 4 => ⟨fld w 20 10, fld w 10 10, fld w 0 10, 85 * fld w 30 2⟩
  | _ => pxArgb8888 (pal ((128 * ofs + v % 256) % 8192))

/-- Bytes per pixel of a bitmap format (R143); 0 for a reserved one. -/
def fmtBytes (fmt : Nat) : Nat :=
  match fmt with
  | 0 => 2 | 1 => 2 | 2 => 3 | 3 => 4 | 4 => 4 | 5 => 1 | _ => 0

/-- A palette entry; entries nothing has loaded hold 0 (R213's reset is that of the LUTs; DESIGN CHOICE, log 20). -/
def palGet (t : Tbl Word) (i : Nat) : Word := Tbl.get (fun _ => 0) t (i % 8192)

/-! ## Fields of a set -/

/-- Offset of tile plane p's registers, of bitmap plane b's, and of the affine registers of plane p. -/
def oTp (p : Nat) : Nat := 0x400 + 0x40 * p
def oBm (b : Nat) : Nat := 0x600 + 0x40 * b
def oAf (p : Nat) : Nat := 0x680 + 0x20 * p

def tpEn (g : Nat → Word) (p : Nat) : Bool := bit (g (oTp p)) 31
def tpAffine (g : Nat → Word) (p : Nat) : Bool := bit (g (oTp p)) 30
def tpLsen (g : Nat → Word) (p : Nat) : Bool := bit (g (oTp p)) 27
def tpCsen (g : Nat → Word) (p : Nat) : Bool := bit (g (oTp p)) 26
/-- T, the side of a tile (R125). -/
def tpT (g : Nat → Word) (p : Nat) : Nat := 8 * 2 ^ fld (g (oTp p)) 2 2
/-- b, bits per pixel (R125). -/
def tpB (g : Nat → Word) (p : Nat) : Nat := 2 * 2 ^ fld (g (oTp p)) 0 2
def tpMw (g : Nat → Word) (p : Nat) : Nat := 2 ^ (5 + fld (g (oTp p)) 4 3)
def tpMh (g : Nat → Word) (p : Nat) : Nat := 2 ^ (5 + fld (g (oTp p)) 8 3)
def tpPat (g : Nat → Word) (p : Nat) : Nat := fld (g (oTp p + 4)) 0 8
/-- Map address. -/
def tpMap (g : Nat → Word) (p : Nat) : Nat :=
  fld (g (oTp p + 8)) 6 26 * 64 + 2 ^ 32 * fld (g (oTp p + 0xC)) 0 8
/-- The map lies in the Cellar. -/
def tpCellar (g : Nat → Word) (p : Nat) : Bool := decide (tpMap g p < aPantry)
/-- The map lies in the Pantry (R193). -/
def tpPantry (g : Nat → Word) (p : Nat) : Bool := decide (aPantry ≤ tpMap g p) && decide (tpMap g p < aLarder)
/-- Address of a table in the Pantry. -/
def tpTab (g : Nat → Word) (p o : Nat) : Nat := aPantry + fld (g (oTp p + o)) 6 20 * 64

def bmEn (g : Nat → Word) (b : Nat) : Bool := bit (g (oBm b)) 31
def bmFmt (g : Nat → Word) (b : Nat) : Nat := fld (g (oBm b)) 0 3
def bmBase (g : Nat → Word) (b : Nat) : Nat := fld (g (oBm b + 4)) 6 26 * 64 + 2 ^ 32 * fld (g (oBm b + 8)) 0 8
def bmPitch (g : Nat → Word) (b : Nat) : Nat := fld (g (oBm b + 0xC)) 6 12 * 64
def bmW (g : Nat → Word) (b : Nat) : Nat := fld (g (oBm b + 0x10)) 0 14
def bmH (g : Nat → Word) (b : Nat) : Nat := fld (g (oBm b + 0x10)) 16 14

/-- Span width of an affine plane (R141). -/
def afSpan (g : Nat → Word) (p : Nat) : Nat :=
  let w := g (oAf p + 0x18)
  min (fld w 16 14) (gHact g - 1) + 1 - fld w 0 14

/-! ## Charges and demands (R149, R151) -/

/-- N_t (R149). -/
def tilesPerLine (g : Nat → Word) (p : Nat) : Nat := ceilDiv (gHact g) (tpT g p) + 1

/-- Pantry accesses per line charged to tile plane p. -/
def tpCharge (g : Nat → Word) (p : Nat) : Nat :=
  if !tpEn g p then 0
  else if tpAffine g p then afSpan g p + ceilDiv (afSpan g p) 16 + b2n (tpLsen g p)
  else if tpCellar g p then tilesPerLine g p + b2n (tpLsen g p)
  else tilesPerLine g p + (ceilDiv (tilesPerLine g p) 16 + 1) + b2n (tpLsen g p) + (if tpCsen g p then ceilDiv (gHact g) 512 else 0)

/-- The charge of a set. -/
def planeCharge (g : Nat → Word) : Nat := ((List.range 8).map (tpCharge g)).sum

/-- The budget B of a set. -/
def planeBudget (g : Nat → Word) : Nat := gHtotal g * 600000000 / gFreq g

/-- Cellar bytes per line of the planes of a set (R151). -/
def planeLineBytes (g : Nat → Word) : Nat :=
  let bm (b : Nat) :=
    let bpp := fmtBytes (bmFmt g b)
    if bmEn g b && decide (0 < bmW g b) && decide (0 < bmH g b) && decide (0 < bpp) then
      (ceilDiv ((if bit (g (oBm b)) 29 then gHact g else min (bmW g b) (gHact g)) * bpp) 64 + 1) * 64
    else 0
  let tp (p : Nat) := if tpEn g p && tpCellar g p then (ceilDiv (tilesPerLine g p) 16 + 1) * 64 else 0
  bm 0 + bm 1 + ((List.range 8).map tp).sum

/-! ## Refusal causes (R153) -/

/-- A range lies wholly inside one valid Pantry region that is no Larder region. -/
def State.inPantry (s : State) (a n : Nat) : Bool :=
  decide (aPantry ≤ a) && match s.panFind a n with | some r => !s.panLarder r | none => false

/-- A range lies wholly inside one valid Cellar region. -/
def State.inCellar (s : State) (a n : Nat) : Bool := decide (a < aPantry) && (s.celFind a n).isSome

/-- Causes 0x40 to 0x49 of a set; 0x4A, the reservation, is judged with the writeback demand (R152). -/
def planeCauses (s : State) (ft : Nat → Bool) (g : Nat → Word) : List Nat :=
  let is (b : Bool) (c : Nat) : List Nat := if b then [c] else []
  let tp (p : Nat) : List Nat :=
    if !tpEn g p then []
    else
      let aff := tpAffine g p
      let tabLen (o : Nat) : Nat := if o = 0x10 then (if aff then 16 else 4) * gVact g else 2 * ceilDiv (gHact g) 16
      is (fld (g (oTp p)) 2 2 = 3 || fld (g (oTp p)) 0 2 = 3) 0x41 ++
      is (!s.panValid (tpPat g p) || s.panLarder (tpPat g p)) 0x42 ++
      is (!(s.inPantry (tpMap g p) (4 * tpMw g p * tpMh g p) || s.inCellar (tpMap g p) (4 * tpMw g p * tpMh g p))) 0x43 ++
      is (aff && (decide (2 ≤ p) || !ft 5)) 0x44 ++
      is ((aff && tpCellar g p) || (tpCsen g p && (aff || tpCellar g p))) 0x45 ++
      is ((tpLsen g p && !s.inPantry (tpTab g p 0x10) (tabLen 0x10)) || (tpCsen g p && !s.inPantry (tpTab g p 0x14) (tabLen 0x14))) 0x46
  let bm (b : Nat) : List Nat :=
    if !bmEn g b then []
    else
      is (6 ≤ bmFmt g b) 0x47 ++
      is (bmPitch g b < bmW g b * fmtBytes (bmFmt g b)) 0x48 ++
      is (decide (0 < bmW g b) && decide (0 < bmH g b) && !s.inCellar (bmBase g b) (bmPitch g b * bmH g b)) 0x49
  is (planeBudget g < planeCharge g) 0x40 ++ (List.range 8).flatMap tp ++ (List.range 2).flatMap bm

/-! ## What a plane shows at a position -/

/-- The canvas offset of a CANVASREL plane (R136). -/
def canvasOfs (g : Nat → Word) (rel : Bool) : Int × Int :=
  if rel && gCanvasEn g then ((fld (g 0x64) 0 16 : Nat), (fld (g 0x64) 16 16 : Nat)) else (0, 0)

/-- The clip window at a position (R137): true where the plane shows. -/
def clipShows (cx cy : Word) (x y : Nat) : Bool :=
  let inside := decide (fld cx 0 14 ≤ x) && decide (x ≤ fld cx 16 14) && decide (fld cy 0 14 ≤ y) && decide (y ≤ fld cy 16 14)
  inside != bit cx 31

/-- The newest line buffer of a layer for a line. -/
def Head.buf (v : Head) (layer y : Nat) : Option LineBuf :=
  ((v.bufs.find? fun e => decide (e.1 = layer) && decide (e.2.y = y)).map (·.2))

/-- A signed table entry. -/
def s16 (w : Word) (lo : Nat) : Int := sext 16 (fld w lo 16)

/-- Word k of a line-table entry. -/
def ltWord (l : List Byte) (k : Nat) : Word := wd (leNat ((l.drop (4 * k)).take 4))

/-- The plane pixel that tile plane p shows at (x, y), under its scroll or its coefficients `act`, the line-table entry and the column offset; none where it has none (R133 to R141). -/
def tileCo (g act : Nat → Word) (p x y : Nat) (lt : List Byte) (cdy : Int) (scroll : Nat × Nat) : Option (Nat × Nat) :=
  let pw : Int := (tpMw g p * tpT g p : Nat)
  let ph : Int := (tpMh g p * tpT g p : Nat)
  let o := canvasOfs g (bit (g (oTp p)) 29)
  let cx : Int := x + o.1
  let cy : Int := y + o.2
  if tpAffine g p then
    let sp := g (oAf p + 0x18)
    if x < fld sp 0 14 || fld sp 16 14 < x then none
    else
      let cf (k : Nat) : Int := sext 24 (fld (act (oAf p + 4 * k)) 0 24)
      let lw (k : Nat) : Int := sext 24 (fld (ltWord lt k) 0 24)
      let uv : Int × Int :=
        if tpLsen g p then (((ltWord lt 0).toInt * 16 + lw 2 * cx) / 65536, ((ltWord lt 1).toInt * 16 + lw 3 * cx) / 65536)
        else (((act (oAf p + 0x10)).toInt * 16 + cf 0 * cx + cf 1 * cy) / 65536, ((act (oAf p + 0x14)).toInt * 16 + cf 2 * cx + cf 3 * cy) / 65536)
      if bit (g (oTp p)) 25 then some ((uv.1 % pw).toNat, (uv.2 % ph).toNat)
      else if uv.1 < 0 || pw ≤ uv.1 || uv.2 < 0 || ph ≤ uv.2 then none
      else some (uv.1.toNat, uv.2.toNat)
  else
    some (((cx + scroll.1 + s16 (ltWord lt 0) 0) % pw).toNat, ((cy + scroll.2 + s16 (ltWord lt 0) 16 + cdy) % ph).toNat)

/-- Where the pattern value of a plane pixel lies under a map entry: the byte within the region, and the bit in it (R125, R127). -/
def patternAt (g : Nat → Word) (p : Nat) (entry : Word) (co : Nat × Nat) : Nat × Nat :=
  let t := tpT g p
  let b := tpB g p
  let c := if bit entry 26 then t - 1 - co.1 % t else co.1 % t
  let r := if bit entry 27 then t - 1 - co.2 % t else co.2 % t
  (fld entry 0 20 * (t * t * b / 8) + r * (t * b / 8) + c * b / 8, c * b % 8)

/-- The pixel and band of what a tile plane has fetched (R127, R128, R130); none when transparent. -/
def tilePx (pal : Nat → Word) (g : Nat → Word) (p : Nat) (d : TileData) : Option (Px × Bool) :=
  match d.co, d.val with
  | some _, some v =>
    if d.failed || (decide (v = 0) && !bit (g (oTp p)) 28) then none
    else some (pxArgb8888 (pal (128 * (fld (g (oTp p)) 16 6 + fld d.entry 20 6) + v)), bit d.entry 28)
  | _, _ => none

/-- Bytes of a line buffer failed on their way into it. -/
def LineBuf.badAt (l : LineBuf) (ofs n : Nat) : Bool := l.bad.any fun q => decide (ofs < q.1 + q.2) && decide (q.1 < ofs + n)

/-- The image row that a bitmap plane shows on line y, if any (R142). -/
def bmRow (g : Nat → Word) (b y : Nat) : Option Nat :=
  let o := canvasOfs g (bit (g (oBm b)) 30)
  let by' : Int := (y : Int) + o.2 - sext 18 (fld (g (oBm b + 0x18)) 0 18)
  let h : Int := (bmH g b : Nat)
  if bmH g b = 0 || bmW g b = 0 then none
  else if bit (g (oBm b)) 28 then some (by' % h).toNat
  else if by' < 0 || h ≤ by' then none else some by'.toNat

/-- The image column that a bitmap plane shows at column x, if any (R142). -/
def bmCol (g : Nat → Word) (b x : Nat) : Option Nat :=
  let o := canvasOfs g (bit (g (oBm b)) 30)
  let bx : Int := (x : Int) + o.1 - sext 18 (fld (g (oBm b + 0x14)) 0 18)
  let w : Int := (bmW g b : Nat)
  if bit (g (oBm b)) 29 then some (bx % w).toNat else if bx < 0 || w ≤ bx then none else some bx.toNat

/-- What bitmap plane b shows at (x, y), and whether its data failed there (R137, R142, R143, R154): its line must stand in the line buffer; the clip window hides the pixel alone. -/
def bmAt (v : Head) (g act : Nat → Word) (b x y : Nat) : Option (Px × Bool) × Bool :=
  if !bmEn g b || (bmRow g b y).isNone then (none, false)
  else match bmCol g b x with
    | none => (none, false)
    | some c =>
      let bpp := fmtBytes (bmFmt g b)
      match v.buf (8 + b) y with
      | none => (none, true)
      | some l =>
        if l.badAt (c * bpp) bpp then (none, true)
        else if !clipShows (act (oBm b + 0x1C)) (act (oBm b + 0x20)) x y then (none, false)
        else (some (pxOfFormat (bmFmt g b) (leNat ((l.data.drop (c * bpp)).take bpp)) (palGet v.palA) (fld (g (oBm b)) 16 6), false), false)

/-! ## PLANE_SET (R148) -/

/-- Reserved bits and alignment bits of block word `i` of a plane (R145): mask of the defined bits, mask of bits whose setting is an alignment fault. -/
def planeWordMasks (bm : Bool) (i : Nat) : Word × Word :=
  if bm then
    (match i with
     | 0 => (0xF03F0007, 0) | 1 => (0xFFFFFFC0, 0x3F) | 2 => (0x000000FF, 0) | 3 => (0x0003FFC0, 0x3F)
     | 4 => (0x3FFF3FFF, 0) | 5 => (0x0003FFFF, 0) | 6 => (0x0003FFFF, 0) | 7 => (0xBFFF3FFF, 0) | _ => (0x3FFF3FFF, 0))
  else
    (match i with
     | 0 => (0xFE3F077F, 0) | 1 => (0xFF, 0) | 2 => (0xFFFFFFC0, 0x3F) | 3 => (0xFF, 0)
     | 4 => (0x03FFFFC0, 0x3F) | 5 => (0x03FFFFC0, 0x3F) | 6 => (0x1FFFF, 0) | 7 => (0x1FFFF, 0)
     | 8 => (0xBFFF3FFF, 0) | 9 => (0x3FFF3FFF, 0)
     | 10 => (0xFFFFFF, 0) | 11 => (0xFFFFFF, 0) | 12 => (0xFFFFFF, 0) | 13 => (0xFFFFFF, 0)
     | 14 => (0xFFFFFFFF, 0) | 15 => (0xFFFFFFFF, 0) | _ => (0x3FFF3FFF, 0))

/-- The shadow registers that the block of a layer is written to, in order (R148). -/
def planeBlock (layer : Nat) (affine : Bool) : List Nat :=
  if 8 ≤ layer then (List.range 9).map fun k => oBm (layer - 8) + 4 * k
  else (List.range 10).map (fun k => oTp layer + 4 * k) ++ (if affine then (List.range 7).map fun k => oAf layer + 4 * k else [])

/-- The first block word at fault: reserved bits or an alignment (R148 step 4). -/
def planeWordFault (p : Packet) (bm : Bool) (n : Nat) : Option Reply :=
  (List.range n).findSome? fun i =>
    let w := pw p (i + 1)
    let m := planeWordMasks bm i
    if w &&& ~~~ (m.1 ||| m.2) ≠ 0 then some (repBadP (i + 1))
    else if w &&& m.2 ≠ 0 then some (repAlignP (i + 1))
    else none

end Sys2Proof.Machine
end

