-- ==== Sys2Proof/Machine/Shutter.lean ====
section
/-! DEFINITION. The reads of a head, the Shutter, and the Mantel fault (R154, R219, R220, R232). -/

namespace Sys2Proof.Machine

/-! ## Reads -/

/-- A corrected codeword of a head's read counts once per line and codeword (DEDUCED, log 40). -/
def State.headCorrected (s : State) (h : Nat) (p : Place) (c pos : Nat) : State :=
  if (s.head h).seen.contains c then s
  else (s.corrected p c pos).updHead h fun v => { v with seen := c :: v.seen }

/-- A read by head h: none when it is refused (R288, R299) or uncorrectable (R304, R529). -/
def State.headRead (s : State) (h a n : Nat) : Option (List Byte) × State :=
  let p := s.place a n
  match p with
  | .none => (none, s.refusedAccess (uHead h) a)
  | .larder _ => (none, s.refusedAccess (uHead h) a)
  | _ =>
    let s := s.celUse (uHead h) false true p a n
    let cws := codewords (s.grain p) a n
    match cws.find? fun c => decide (s.code c = .uncorr) with
    | some c => (none, (s.uncorrectable p c).ueRecord (uHead h) h (c / 64 * 64))
    | none => (some (s.bytes a n), s.each cws fun s c => match s.code c with | .corr pos => s.headCorrected h p c pos | _ => s)

/-- A read of a whole row by head h into a line buffer: the bytes, and the ranges that failed, each of which is recorded (R219, R304) (DEDUCED, log 130). -/
def State.headReadRow (s : State) (h a n : Nat) : (List Byte × List (Nat × Nat)) × State :=
  let p := s.place a n
  match p with
  | .none => (([], [(0, n)]), s.refusedAccess (uHead h) a)
  | .larder _ => (([], [(0, n)]), s.refusedAccess (uHead h) a)
  | _ =>
    let s := s.celUse (uHead h) false true p a n
    let g := s.grain p
    let cws := codewords g a n
    let bad := cws.filter fun c => decide (s.code c = .uncorr)
    ((s.bytes a n, bad.map fun c => (max a c - a, min (a + n) (c + g) - max a c)),
     s.each cws fun s c => match s.code c with
       | .good => s
       | .corr pos => s.headCorrected h p c pos
       | .uncorr => (s.uncorrectable p c).ueRecord (uHead h) h (c / 64 * 64))

/-! ## The Shutter (R219) -/

/-- Keys of `HD_SHUTTER` and `HD_MSTAT`. -/
def kShutter (h : Nat) : Nat := kHD h + 0xA80
def kMstat (h : Nat) : Nat := kHD h + 0xB0C

/-- Layer l of head h is switched off in this frame. -/
def State.layerOff (s : State) (h l : Nat) : Bool := s.regB (kShutter h) l

/-- MASK and MANTEL are both 0 so far. -/
def State.shutterClean (s : State) (h : Nat) : Bool := decide (s.reg (kShutter h) &&& 0x87FF = 0)

/-- The first switch-off or fault of the frame takes FIRST and asserts SHUTTER. -/
def State.shutterFirst (s : State) (h y : Nat) : State :=
  if s.shutterClean h then (s.setF (kShutter h) 16 14 y).pulse (64 + 4 * h + 2) else s

/-- The Shutter switches layer l of head h off from a pixel of line y on (DEDUCED, log 61). -/
def State.shutter (s : State) (h l y : Nat) : State :=
  if s.layerOff h l then s
  else
    let s := (s.shutterFirst h y).setB (kShutter h) l true
    s.errRec sevContained (uHead h) 0x0011 l .ok (wd y) (lo32 (s.frame h))

/-- The Mantel of head h is drawn in its fault colour from a pixel of line y on (R232). -/
def State.mantelFault (s : State) (h y : Nat) : State :=
  if s.regB (kMstat h) 31 then s
  else
    let s := (s.shutterFirst h y).setB (kShutter h) 15 true
    let s := (s.setB (kMstat h) 31 true).updHead h fun v => { v with mt := { v.mt with fline := y } }
    s.errRec sevContained (uHead h) 0x0012 y .uncorr (lo32 (s.frame h)) 0

/-- Step 3 of R10: the Shutter flags become those of the last frame, and the live ones clear (R219, R220, R232). -/
def State.shutterClose (s : State) (h : Nat) : State :=
  let w := s.reg (kShutter h)
  let s := if w &&& 0x7FF = 0 then s else s.incReg (kHD h + 0xA88)
  let s := (s.setReg (kHD h + 0xA84) w).setReg (kShutter h) 0
  let fault := s.regB (kMstat h) 31
  let s := if fault then (s.incReg (kHD h + 0xB14)).setF (kMstat h) 0 14 (s.head h).mt.fline else s
  (s.setB (kMstat h) 30 fault).setB (kMstat h) 31 false

end Sys2Proof.Machine
end

