-- ==== Sys2Proof/Machine/Beam.lean ====
section
/-! DEFINITION. Beam programs: the entries and their faults, staging a list, the sequencer clock by clock, and where its writes land (R178 to R204). -/

namespace Sys2Proof.Machine

/-! ## Entries (R182, R200) -/

/-- Bits of a 64-bit entry. -/
def ef (e lo len : Nat) : Nat := e / 2 ^ lo % 2 ^ len

def entOp (e : Nat) : Nat := ef e 60 4

/-- Data entries that follow a MOVEM (R183). -/
def entData (e : Nat) : Nat := if entOp e = 4 then (ef e 48 3 + 2) / 2 else 0

/-- The bits an entry names, its OP included (R182, R185). -/
def entMask (e : Nat) : Nat :=
  15 * 2 ^ 60 +
  match entOp e with
  | 1 => 0x3FFF3FFF
  | 2 => 0x80003FFF
  | 3 => 0xFFFC * 2 ^ 32 + 0xFFFFFFFF
  | 4 => 7 * 2 ^ 48 + 0xFFFC * 2 ^ 32
  | 5 => 0xFFF * 2 ^ 48 + (if ef e 56 4 < 2 then 0x1F else 0xFFFFFFFF)
  | 6 => 7 * 2 ^ 57 + 0xFFFF * 2 ^ 32 + 0x7FFF
  | 7 => 0xFF
  | 8 => 0xF
  | _ => 0

/-- A bit outside a mask is set. -/
def bitsOutside (e mask : Nat) : Bool := decide ((BitVec.ofNat 64 e &&& ~~~ BitVec.ofNat 64 mask) ≠ 0)

/-- Causes 0x1 to 0x5 of entry `i` of `n`, 0 for none: `isData` tells data entries of the list, and `follow` gives the data entries of a MOVEM, none when they run past the last entry. -/
def entCause (n i e : Nat) (isData : Nat → Bool) (follow : Option (List Nat)) : Nat :=
  let op := entOp e
  let lastHigh := match follow with | some l => ef (l.getLastD 0) 32 32 | none => 0
  if 10 ≤ op then 1
  else if bitsOutside e (entMask e) || (op = 4 && ef e 48 1 = 0 && lastHigh ≠ 0) then 2
  else if (op = 5 && 4 ≤ ef e 56 4) || (op = 6 && ef e 58 2 = 3) then 3
  else if op = 6 && ef e 58 2 ≠ 1 && (n ≤ ef e 0 15 || isData (ef e 0 15)) then 4
  else if op = 5 && (n < i + 1 + ef e 48 8 || isData (i + 1 + ef e 48 8)) then 4
  else if op = 4 && follow.isNone then 5
  else 0

/-- How a write to a beam-writable target takes effect (R193). -/
inductive BsClass where
  | exact
  | beam
  | seq
  deriving DecidableEq, Repr

/-- The class of a target under a set of registers; none when it is not beam-writable (R193, R146, R216). -/
def beamTarget (g : Nat → Word) (o : Nat) : Option BsClass :=
  let q := o - 0x1400
  let b := o - 0x1600
  let a := o - 0x1680
  if o % 4 ≠ 0 then none
  else if 0x8000 ≤ o ∧ o < 0x10000 then some .exact
  else if o = 0x918 then some .seq
  else if 0x1400 ≤ o ∧ o < 0x1600 ∧ (q % 0x40 = 0x18 ∨ q % 0x40 = 0x1C) then
    (if tpPantry g (q / 0x40) then some .exact else none)
  else if 0x1400 ≤ o ∧ o < 0x1600 ∧ (q % 0x40 = 0x20 ∨ q % 0x40 = 0x24) then some .beam
  else if 0x1600 ≤ o ∧ o < 0x1680 ∧ (b % 0x40 = 0x1C ∨ b % 0x40 = 0x20) then some .beam
  else if 0x1680 ≤ o ∧ o < 0x16C0 ∧ a % 0x20 < 0x18 then some .beam
  else if o = 0x1A00 ∨ o = 0x1A04 then some .exact
  else if o = 0x1A08 ∨ (0x1A40 ≤ o ∧ o < 0x1A6C) then some .beam
  else none

/-- The writes of a MOVE or MOVEM: targets and values. -/
def entWrites (e : Nat) (follow : List Nat) : List (Nat × Word) :=
  if entOp e = 4 then
    (List.range (ef e 48 3 + 1)).map fun k => (ef e 32 16 + 4 * k, wd (ef (follow.getD (k / 2) 0) (32 * (k % 2)) 32))
  else [(ef e 32 16, wd (ef e 0 32))]

/-! ## Staging (R199, R200) -/

/-- The indices at which entries start, walking a list from entry 0 (R183); the others are data. -/
def entStarts (n : Nat) (at' : Nat → Nat) : Nat → Nat → List Nat
  | 0, _ => []
  | f + 1, i => if n ≤ i then [] else i :: entStarts n at' f (i + 1 + entData (at' i))

/-- The first fault of a list under a set: cause and index. -/
def listFault (g : Nat → Word) (n : Nat) (at' : Nat → Nat) : Option (Nat × Nat) :=
  let starts := entStarts n at' n 0
  starts.findSome? fun i =>
    let e := at' i
    let d := entData e
    let follow := if i + d < n then some ((List.range d).map fun k => at' (i + 1 + k)) else none
    let c := entCause n i e (fun j => decide (j < n) && !starts.contains j) follow
    if c ≠ 0 then some (c, i)
    else if (entOp e = 3 ∨ entOp e = 4) && (entWrites e (follow.getD [])).any fun w => (beamTarget g w.1).isNone then some (6, i)
    else none

/-- Causes 0x70 and 0x71 of a set (R201). -/
def beamCauses (s : State) (g : Nat → Word) : List Nat :=
  let n := fld (g 0x908) 0 16
  let a := fld (g 0x900) 6 26 * 64 + 2 ^ 32 * fld (g 0x904) 0 8
  if n = 0 then []
  else (if s.inPantry a (8 * n) then [] else [0x70]) ++ (if 32768 < n then [0x71] else [])

/-- The checks of `BEAM_LIST_SET`: the reply of the first that fails. -/
def beamListSetFault (o : Open) (s : State) : Option Reply :=
  let p := o.pkt
  let h := fld (pw p 0) 0 5
  let n := fld (pw p 3) 0 16
  let a := pd p 1
  firstFail [
      s.expertHead h, s.absentHead h,
      (fld (pw p 0) 5 27 ≠ 0, repBadP 0), (fld (pw p 2) 8 24 ≠ 0, repBadP 2), (fld (pw p 3) 16 16 ≠ 0, repBadP 3),
      (fld (pw p 1) 0 6 ≠ 0, repAlignP 1), (32768 < n, repBadP 3),
      (n ≠ 0 && !s.inPantry a (8 * n), repBadP 1), s.commitDisabled o h]

/-- `BEAM_LIST_SET`. -/
def beginBeamListSet (o : Open) (s : State) : Started × State :=
  match beamListSetFault o s with
  | some r => (.done r, s)
  | none =>
      let p := o.pkt
      let h := fld (pw p 0) 0 5
      let n := fld (pw p 3) 0 16
      let a := pd p 1
      let rd : Rd × State := if n = 0 then (.ok [], s) else s.devRead 1 h a (8 * n)
      match rd.1 with
      | .poison _ => (.done (rep .uncorr (uHead h)), rd.2)
      | x =>
        let bs := x.bytes (8 * n)
        let s := rd.2
        match listFault (s.shSet h) n fun i => leNat ((bs.drop (8 * i)).take 8) with
        | some (c, i) =>
          (.done (if c = 6 then rep .beamTarget i else repBadP 1), s.setReg (kHD h + 0x914) (wd (c * 2 ^ 24 + i)))
        | none =>
            let s := ((s.stage h 0x900 (pw p 1)).stage h 0x904 (pw p 2)).stage h 0x908 (wd n)
            commitAfter o [h] repOk s

/-! ## The sequencer -/

def kBsStat (h : Nat) : Nat := kHD h + 0x910

/-- Change the sequencer of head h. -/
def State.updBs (s : State) (h : Nat) (f : BsSt → BsSt) : State := s.updHead h fun v => { v with bs := f v.bs }

/-- The position at a place in the frame, in pixel clocks from the boundary cycle (R7, R9). -/
def posAt (g : Nat → Word) (i : Nat) : Nat × Nat :=
  let y := gVact g + i / gHtotal g
  (i % gHtotal g, if y < gVtotal g then y else (y - gVtotal g) % gVtotal g)

/-- Pixel clocks in a frame. -/
def frameLen (g : Nat → Word) : Nat := gHtotal g * gVtotal g

/-- The lead of the fetch position (R179). -/
def lead : Nat := 128

/-- The pixel clock, from the boundary cycle, in which a composer clock falls. -/
def clkPix (g : Nat → Word) (c : Nat) : Nat := c * gFreq g / 600000000

/-- The pixel clock of the frame in which a composer clock falls, counted from the frame's origin: the boundary cycle, or where a timing change has moved the beam (R102, R188). -/
def BsSt.pix (b : BsSt) (g : Nat → Word) (c : Nat) : Nat := b.op + ((c - b.oc) * gFreq g + b.fr) / 600000000

/-- The first composer clock of the frame in or after a pixel clock. -/
def BsSt.clock (b : BsSt) (g : Nat → Word) (i : Nat) : Nat := b.oc + ceilDiv ((i - b.op) * 600000000 - b.fr) (gFreq g)

/-- Bits of an active copy that hold a value; reserved bits of a written value are ignored (R216). -/
def rwbMask (o : Nat) : Word :=
  if 0x8000 ≤ o then 0xFFFFFFFF
  else if 0x1400 ≤ o ∧ o < 0x1600 then (if o % 0x40 = 0x20 then 0xBFFF3FFF else if o % 0x40 = 0x24 then 0x3FFF3FFF else 0x1FFFF)
  else if 0x1600 ≤ o ∧ o < 0x1680 then (if o % 0x40 = 0x1C then 0xBFFF3FFF else 0x3FFF3FFF)
  else if 0x1680 ≤ o ∧ o < 0x16C0 then (if o % 0x20 < 0x10 then 0xFFFFFF else 0xFFFFFFFF)
  else if o = 0x1A00 then 0x7FF
  else if o = 0x1A04 then 0xF
  else if o = 0x1A08 then 0x3FFFFFFF
  else 0x030000FF

/-- What an active copy reads, by head-page offset: the value last written into it (R192). -/
def State.activeReg (s : State) (h o : Nat) : Word :=
  if 0x8000 ≤ o then palGet (s.head h).palA ((o - 0x8000) / 4) else s.reg (kHD h + o)

/-- Write an active copy. -/
def State.setActive (s : State) (h o : Nat) (v : Word) : State :=
  let v := v &&& rwbMask o
  if 0x8000 ≤ o then s.updHead h fun x => { x with palA := Tbl.set (fun _ => 0) x.palA ((o - 0x8000) / 4) v }
  else s.setReg (kHD h + o) v

/-- What the composer sees of an active copy. -/
def State.viewReg (s : State) (h o : Nat) : Word :=
  match Tbl.get (fun _ => none) (s.head h).bs.view o with
  | some w => w
  | none => s.activeReg h o

/-- From now on the output uses a value for an active copy. -/
def State.setView (s : State) (h o : Nat) (v : Word) : State :=
  let v := v &&& rwbMask o
  s.updBs h fun b => { b with view := Tbl.set (fun _ => none) b.view o (if v = s.activeReg h o then none else some v) }

/-- A write that is made directly: by the host, a core or a channel under expert control; it acts at once (R147, R192). -/
def State.hostActive (s : State) (h o : Nat) (v : Word) : State :=
  (s.setActive h o v).updBs h fun b => { b with view := Tbl.set (fun _ => none) b.view o none }

/-- The program stops for the frame (R203). -/
def State.bsEnd (s : State) (h : Nat) : State :=
  (s.setReg (kBsStat h) ((s.reg (kBsStat h) &&& 0x3FFFFFFF) ||| 0x20000000)).updBs h fun b => { b with hold := .none }

/-- The program is executing or holding in this frame. -/
def State.bsRun (s : State) (h : Nat) : Bool := s.regB (kBsStat h) 31

/-- Swap cycle + 1: the program restarts at entry 0, its trigger position being the fetch position, `at'` pixel clocks from the boundary cycle and the lead further (R178, R188). -/
def State.bsStart (s : State) (h at' : Nat) : State :=
  let g := s.cmSet h
  let n := fld (g 0x908) 0 16
  let f := at' + lead
  let t := posAt g f
  let b := (s.head h).bs
  let s := s.setReg (kBsStat h) ((s.reg (kBsStat h) &&& 0x1F800000) ||| flag 31 (n ≠ 0))
  s.updBs h fun _ => { bsInit with oc := b.oc, op := b.op, fr := b.fr, clk := 257, tIdx := f, tx := t.1, ty := t.2, tClk := 257, stamps := b.stamps }

/-- A fault at run time (R202): flag, cause, status, and the end of the program but for a refused target. -/
def State.bsFault (s : State) (h bitNo cause i : Nat) : State :=
  let k := kBsStat h
  let s := if s.reg k &&& 0x07000000 = 0 then s.setReg (kHD h + 0x914) (wd (2 ^ 31 + cause * 2 ^ 24 + i)) else s
  let s := s.setB k bitNo true
  let st := if bitNo = 24 then Status.uncorr else if bitNo = 26 then .beamTarget else .badParam
  let s := s.errRec (if bitNo = 24 then sevContained else sevInfo) (uHead h) 0x0015 cause st (wd i) 0
  if bitNo = 26 then s else s.bsEnd h

/-- A line of the list, or its failure, goes into the buffer, which holds four. -/
def State.bsPut (s : State) (h line : Nat) (d : Option (List Byte)) : State :=
  s.updBs h fun b => { b with bufs := ((line, d) :: b.bufs.filter fun e => decide (e.1 ≠ line)).take 4, acc := b.acc + 1 }

/-- A line of the list in the Pantry is read: corrected codewords are reported, and an uncorrectable one makes the line poisoned (R202). -/
def State.bsPantry (s : State) (h line a : Nat) (p : Place) : State :=
  let cws := codewords (s.grain p) a 64
  if cws.any fun c => decide (s.code c = .uncorr) then s.bsPut h line none
  else (s.each cws fun s c => match s.code c with | .corr pos => s.headCorrected h p c pos | _ => s).bsPut h line (some (s.bytes a 64))

/-- One access of the list: a refused line reads all ones, and an uncorrectable one is held as poisoned (R181, R202). -/
def State.bsAccess (s : State) (h line : Nat) : State :=
  let g := s.cmSet h
  let a := fld (g 0x900) 6 26 * 64 + 2 ^ 32 * fld (g 0x904) 0 8 + 64 * line
  match s.place a 64 with
  | .pantry r => s.bsPantry h line a (.pantry r)
  | _ => (s.refusedAccess (uHead h) a).bsPut h line (some (List.replicate 64 0xFF))

/-- A line is in the buffer. -/
def State.bsHeld (s : State) (h line : Nat) : Bool := (s.head h).bs.bufs.any fun e => decide (e.1 = line)

/-- The line of an entry is in the buffer, or is fetched; false when the accesses of the fetch line are used up (R181). -/
def State.bsHave (s : State) (h line : Nat) : Bool × State :=
  if s.bsHeld h line then (true, s)
  else if 64 ≤ (s.head h).bs.acc then (false, s.setB (kBsStat h) 27 true)
  else (true, s.bsAccess h line)

/-- The line after the current one is prefetched, which may take the place of the current one once its entry has been taken (R181). -/
def State.bsPrefetch (s : State) (h line : Nat) : State :=
  if decide (8 * (line + 1) < fld (s.cm h 0x908) 0 16) && !s.bsHeld h (line + 1) && decide ((s.head h).bs.acc < 64) then s.bsAccess h (line + 1)
  else s

/-- Entry i, whose line is in the buffer: none when the line is poisoned. -/
def State.bsEnt (s : State) (h i : Nat) : Option Nat :=
  match (s.head h).bs.bufs.find? fun e => decide (e.1 = i / 8) with
  | some (_, some d) => some (leNat ((d.drop (8 * (i % 8))).take 8))
  | _ => none

/-- The anchor of an entry that executes now (R188): the trigger position within 32 clocks of its fixing, else the fetch position, with SLIP. -/
def State.bsAnchor (s : State) (h : Nat) : (Nat × Nat × Nat) × State :=
  let g := s.cmSet h
  let b := (s.head h).bs
  if b.clk - b.tClk ≤ 32 then ((b.tIdx, b.tx, b.ty), s)
  else
    let f := b.pix g b.clk + lead
    let t := posAt g f
    ((f, t.1, t.2), s.setB (kBsStat h) 28 true)

/-- Schedule an event at the anchor of the entry that executes. -/
def State.bsSchedule (s : State) (h : Nat) (ev : BsEv) : State :=
  let a := s.bsAnchor h
  a.2.updBs h fun b => { b with pend := b.pend ++ [⟨a.1.1, a.1.2.1, a.1.2.2, ev⟩], lastAt := max b.lastAt a.1.1 }

/-- A MOVE or MOVEM executes (R183, R189 to R192): the active copy reads the new value at once, and the output keeps the old one until the write lands (DEDUCED, log 117). -/
def State.bsWrite (s : State) (h i : Nat) (ws : List (Nat × Word)) : State :=
  let g := s.cmSet h
  let cls := ws.map fun w => beamTarget g w.1
  if cls.any (·.isNone) then s.bsFault h 26 6 i
  else if cls.any fun c => decide (c = some .seq) then
    s.each ws fun s w => if w.1 = 0x918 then s.setReg (kHD h + 0x918) w.2 else s
  else
    let exact := !(cls.any fun c => decide (c = some .beam))
    (s.bsSchedule h (.write ws exact)).each ws fun s w =>
      let old := s.viewReg h w.1
      (s.setActive h w.1 w.2).setView h w.1 old

/-- The next entry executes in the clock after `cost` clocks, at index `pc`. -/
def State.bsNext (s : State) (h pc cost : Nat) : State :=
  (s.setF (kBsStat h) 0 15 pc).updBs h fun b => { b with pc := pc, clk := b.clk + cost }

/-- A taken branch: its landing, and the clocks added when it is not in the buffer (R181). -/
def State.bsBranch (s : State) (h pc cost : Nat) : State :=
  if s.bsHeld h (pc / 8) || decide (fld (s.cm h 0x908) 0 16 ≤ pc) then s.bsNext h pc cost
  else { s.bsNext h pc (cost + min 12 (Config.branchDelay s.free)) with free := s.free + 1 }

/-- A WAIT or WAITX executes: its target as a place in the frame, none for one that is never met (R184) (DEDUCED, log 58). -/
def State.bsWait (s : State) (h i : Nat) (target : Option Nat) : State :=
  let g := s.cmSet h
  let b := (s.head h).bs
  let f := b.pix g b.clk + lead
  let s := s.bsNext h (i + 1) 1
  match target with
  | none => (s.bsNext h i 0).setB (kBsStat h) 30 true |>.updBs h fun b => { b with hold := .never }
  | some t =>
    if t ≤ f then
      (let p := posAt g f
       s.updBs h fun b' => { b' with tIdx := f, tx := p.1, ty := p.2, tClk := b.clk })
    else (s.bsNext h i 0).setB (kBsStat h) 30 true |>.updBs h fun b => { b with hold := .until_ t }

/-- The target of a WAIT or WAITX that executes now. -/
def State.bsTarget (s : State) (h e : Nat) : Option Nat :=
  let g := s.cmSet h
  let x := ef e 0 14
  if gHtotal g ≤ x then none
  else if entOp e = 1 then (if gVtotal g ≤ ef e 16 14 then none else some (beamIndex g x (ef e 16 14)))
  else
    let f := posAt g ((s.head h).bs.pix g (s.head h).bs.clk + lead)
    let next := ef e 31 1 = 1 || f.1 ≥ x
    if next && f.2 = gVact g - 1 then none
    else some (beamIndex g x (if next then (if f.2 + 1 < gVtotal g then f.2 + 1 else 0) else f.2))

/-- SKIPIF: does its condition hold (R185)? -/
def State.bsCond (s : State) (h e : Nat) : Bool :=
  let fl := bit (s.reg (kHD h + 0x918)) (ef e 0 5)
  let eq := decide ((s.frame h).toNat % 65536 &&& ef e 16 16 = ef e 0 16)
  match ef e 56 4 with
  | 0 => fl
  | 1 => !fl
  | 2 => eq
  | _ => !eq

/-- A valid entry executes. -/
def State.bsEntry (s : State) (h i e : Nat) (follow : List Nat) : State :=
  let g := s.cmSet h
  let s := s.mark h (entOp e)
  match entOp e with
  | 0 => s.bsEnd h
  | 1 => s.bsWait h i (s.bsTarget h e)
  | 2 => s.bsWait h i (s.bsTarget h e)
  | 3 => (s.bsWrite h i (entWrites e [])).bsNext h (i + 1) 1
  | 4 => (s.bsWrite h i (entWrites e follow)).bsNext h (i + 1 + follow.length) (1 + follow.length)
  | 5 => if s.bsCond h e && ef e 48 8 ≠ 0 then s.bsBranch h (i + 1 + ef e 48 8) 1 else s.bsNext h (i + 1) 1
  | 6 =>
    let c1 := ef e 57 1 = 1
    let cur := if c1 then (s.head h).bs.lc1 else (s.head h).bs.lc0
    let setC (s : State) (v : Nat) : State := s.updBs h fun b => if c1 then { b with lc1 := v } else { b with lc0 := v }
    (match ef e 58 2 with
     | 0 => s.bsBranch h (ef e 0 15) 2
     | 1 => (setC s (ef e 32 16)).bsNext h (i + 1) 1
     | _ => if cur = 0 then s.bsNext h (i + 1) 1 else (setC s (cur - 1)).bsBranch h (ef e 0 15) 2)
  | 7 => (s.bsSchedule h (.irq (ef e 0 8))).bsNext h (i + 1) 1
  | 8 => (s.bsSchedule h (.stamp (ef e 0 4))).bsNext h (i + 1) 1
  | _ =>
    let b := (s.head h).bs
    let done := max (b.clk + 1) (if b.lastAt = 0 then 0 else b.clock g b.lastAt + 24)
    (s.setB (kBsStat h) 30 true).updBs h fun b => { b with hold := .fence done }

/-! ## Landings (R189, R190, R196, R197) -/

/-- The bound of a held write in pixel clocks (R190). -/
def bsDelay (g : Nat → Word) : Nat := ceilDiv (24 * gFreq g) 600000000

/-- A scheduled event takes place. -/
def State.bsLand (s : State) (h : Nat) (p : BsPend) : State :=
  match p.ev with
  | .write ws true => s.each ws fun s w => s.setView h w.1 w.2
  | .write ws false => (s.each ws fun s w => s.setView h w.1 w.2).mark h tWrite
  | .irq c => ((s.setReg (kHD h + 0x91C) (wd c)).raiseLine h).mark h tIrq
  | .stamp c =>
    let s := s.mark h tStamp
    let b := (s.head h).bs
    if 16 ≤ b.stamps.length then s.setB (kBsStat h) 23 true
    else (s.updBs h fun b => { b with stamps := b.stamps ++ [⟨s.now, p.x, p.y, c⟩] }).setReg (kHD h + 0x92C) (wd (b.stamps.length + 1))

/-- A held write is due at the latest when the output is d pixel clocks past its anchor; everything else on the anchor. -/
def bsDue (g : Nat → Word) (i : Nat) (p : BsPend) : Bool :=
  match p.ev with
  | .write _ false => decide (p.at' + bsDelay g ≤ i)
  | _ => decide (p.at' ≤ i)

/-- The targets of a scheduled write. -/
def BsPend.targets (p : BsPend) : List Nat := match p.ev with | .write ws _ => ws.map (·.1) | _ => []

/-- The scheduled events that take place now, of a list in execution order: those that are due, and every earlier write to a target of a later one that lands (R192). -/
def bsOut (due : BsPend → Bool) : List BsPend → List BsPend × List Nat
  | [] => ([], [])
  | p :: t =>
    let r := bsOut due t
    if due p || p.targets.any r.2.contains then (p :: r.1, p.targets ++ r.2) else r

/-- Everything that is due lands in execution order; at the end of a FENCE that is every write whose anchor the output has reached (R192, R198).  Interrupts with one anchor raise LINE once (R196). -/
def State.bsLandDue (s : State) (h i : Nat) (fence : Bool) : State :=
  let g := s.cmSet h
  let out := (bsOut (fun p => bsDue g i p || (fence && decide (p.at' ≤ i))) (s.head h).bs.pend).1
  if out.isEmpty then s
  else
    let irqs := out.filterMap fun p => match p.ev with | .irq c => some c | _ => none
    let s := s.updBs h fun b => { b with pend := b.pend.filter fun p => !out.contains p }
    let s := s.each (out.filter fun p => match p.ev with | .irq _ => false | _ => true) fun s p => s.bsLand h p
    match irqs.getLast? with
    | some c => ((s.setReg (kHD h + 0x91C) (wd c)).raiseLine h).mark h tIrq
    | none => s

/-! ## The sequencer clock by clock -/

/-- The entry at PC is due: it is fetched, decoded again (R202) and executed. -/
def State.bsExec (s : State) (h : Nat) : State :=
  let n := fld (s.cm h 0x908) 0 16
  let i := (s.head h).bs.pc
  if n ≤ i then s.bsEnd h
  else
    let r := s.bsHave h (i / 8)
    if !r.1 then r.2.updBs h fun b => { b with hold := .starve }
    else
      match r.2.bsEnt h i with
      | none =>
          let g := s.cmSet h
          let a := fld (g 0x900) 6 26 * 64 + 2 ^ 32 * fld (g 0x904) 0 8 + 64 * (i / 8)
          (r.2.uncorrectable (r.2.place a 64) a).bsFault h 24 7 i
      | some e =>
        let d := entData e
        let fits := decide (i + d < n)
        let r1 := r.2.bsPrefetch h (i / 8)
        let r2 : Bool × State := if fits && d ≠ 0 && decide ((i + d) / 8 ≠ i / 8) then r1.bsHave h ((i + d) / 8) else (true, r1)
        if !r2.1 then r2.2.updBs h fun b => { b with hold := .starve }
        else
          let fl := (List.range d).map fun k => if (i + 1 + k) / 8 = i / 8 then r.2.bsEnt h (i + 1 + k) else r2.2.bsEnt h (i + 1 + k)
          let follow : Option (List Nat) := if fits then some (fl.map (·.getD 0)) else none
          if fits && fl.any (·.isNone) then r2.2.bsFault h 24 7 i
          else
            let c := entCause n i e (fun _ => false) follow
            if c ≠ 0 then r2.2.bsFault h 25 c i else r2.2.bsEntry h i e (follow.getD [])

/-- The sequencer in one pixel clock: a hold that ends, and the entries whose composer clock falls in it (R184, R187, R198). -/
def State.bsClocks (h i : Nat) : Nat → State → State
  | 0, s => s
  | n + 1, s =>
    let g := s.cmSet h
    let b := (s.head h).bs
    if !s.bsRun h then s
    else match b.hold with
      | .never => s
      | .starve => s
      | .until_ t =>
        if t ≤ i + lead then
          (let p := posAt g t
           let c := b.clock g (t - lead)
           let s := (s.setB (kBsStat h) 30 false).setF (kBsStat h) 0 15 (b.pc + 1)
           State.bsClocks h i n ((s.mark h tMet).updBs h fun b => { b with pc := b.pc + 1, hold := .none, tIdx := t, tx := p.1, ty := p.2, tClk := c, clk := max b.clk c }))
        else s
      | .fence c =>
        if b.pix g c ≤ i then
          (let f := b.pix g c + lead
           let p := posAt g f
           let s := ((s.bsLandDue h i true).setB (kBsStat h) 30 false).setF (kBsStat h) 0 15 (b.pc + 1)
           State.bsClocks h i n ((s.mark h tFenceDone).updBs h fun b => { b with pc := b.pc + 1, hold := .none, tIdx := f, tx := p.1, ty := p.2, tClk := c, clk := c }))
        else s
      | .none => if b.pix g b.clk ≤ i then State.bsClocks h i n (s.bsExec h) else s

/-- The fetch position enters a new line: the accesses of a line are counted anew (R181). -/
def State.bsNewLine (s : State) (h i : Nat) : State :=
  let g := s.cmSet h
  let s := if (s.head h).bs.hold = .starve then s.mark h tBudget else s
  s.updBs h fun b => { b with acc := 0, hold := if b.hold = .starve then .none else b.hold,
                               clk := if b.hold = .starve then max b.clk (b.clock g i) else b.clk }

/-- The boundary cycle: what has executed lands, and entries that have not are abandoned (R14, R195, R196). -/
def State.bsClose (s : State) (h : Nat) : State :=
  let s := s.bsLandDue h (2 * frameLen (s.cmSet h)) false
  if s.bsRun h then s.bsEnd h else s

/-- A held write lands now, its anchor having been reached: the oldest one (R190). -/
def State.bsLandEarly (s : State) (h i : Nat) : State :=
  match (s.head h).bs.pend.find? fun p => (match p.ev with | .write _ false => true | _ => false) && decide (p.at' ≤ i) with
  | some p => (s.updBs h fun b => { b with pend := b.pend.filter (· ≠ p) }).bsLand h p
  | none => s

/-- A read of `HD_BSTS_LO` (R197): the word read. -/
def State.bstsRead (s : State) (h : Nat) : Word × State :=
  match (s.head h).bs.stamps with
  | [] => (0, (s.setReg (kHD h + 0x924) 0).setReg (kHD h + 0x928) 0)
  | t :: rest =>
    let s := (s.setReg (kHD h + 0x924) (hi32 t.time)).setReg (kHD h + 0x928) (wd (t.code * 2 ^ 28 + t.y % 2 ^ 14 * 2 ^ 14 + t.x % 2 ^ 14))
    (lo32 t.time, (s.updBs h fun b => { b with stamps := rest }).setReg (kHD h + 0x92C) (wd rest.length))

end Sys2Proof.Machine
end

