-- ==== Sys2Proof/Machine/Sprites.lean ====
section
/-! DEFINITION. The sprite plane: its table load, the evaluation of a line, its budgets, and what it gives the composer (R155 to R177). -/

namespace Sys2Proof.Machine

/-! ## Fields of a set -/

def spEn (g : Nat → Word) : Bool := bit (g 0x800) 31 && decide (0 < fld (g 0x80C) 0 13)
def spDbuf (g : Nat → Word) : Bool := bit (g 0x800) 30
def spReg (g : Nat → Word) : Nat := fld (g 0x800) 16 8
def spCount (g : Nat → Word) : Nat := fld (g 0x80C) 0 13
/-- Address of table b (R168). -/
def spTable (g : Nat → Word) (b : Nat) : Nat :=
  fld (g 0x804) 6 26 * 64 + 2 ^ 32 * fld (g 0x808) 0 8 + b * (64 * ceilDiv (spCount g) 4)

/-- Key of `HD_SPSTAT`. -/
def kSpStat (h : Nat) : Nat := kHD h + 0x810

/-- Causes 0x60 to 0x63 of a set (R176). -/
def spriteCauses (s : State) (g : Nat → Word) : List Nat :=
  let is (b : Bool) (c : Nat) : List Nat := if b then [c] else []
  let n := spCount g
  if !spEn g then []
  else
    is (!s.inPantry (spTable g 0) (16 * n) || (spDbuf g && !s.inPantry (spTable g 1) (16 * n))) 0x60 ++
    is (!s.panValid (spReg g) || s.panLarder (spReg g)) 0x61 ++
    is ((gVtotal g - gVact g - 1) * planeBudget g < 512 + ceilDiv n 4) 0x62 ++
    is (4096 < n) 0x63

/-! ## The table load (R156, R157, R168, R171) -/

/-- The table that the frame's load reads: the parity of the leader's frame. -/
def State.spBuf (s : State) (h : Nat) : Nat :=
  if spDbuf (s.cmSet h) then (s.frame (s.leader h)).toNat % 2 else 0

/-- Swap cycle + 1: the load begins; its end is ceil(E / 4) composer clocks later. -/
def State.spriteStart (s : State) (h : Nat) : State :=
  let g := s.cmSet h
  let k := kSpStat h
  if !spEn g then
    (s.setF k 30 2 0).updHead h fun v => { v with sp := spInit }
  else
    let b := s.spBuf h
    let s := (s.setB k 31 false).setB k 30 (b = 1)
    let n := spCount g
    let snap := s.bytes (spTable g b) (16 * n)
    s.updHead h fun v => { v with sp := { spInit with snap := snap, loading := true,
                                                       loadAt := (257 + ceilDiv n 4) * gFreq g / 600000000 + 1 } }

/-- A line of the table load behind the bytes loaded so far: what stands in memory now, or what stood there when the load began, which the spec leaves open for a table that is written meanwhile (R156). -/
def State.spriteLine (s : State) (h a n : Nat) (old l : List Byte) : Option (List Byte) × State :=
  let r := s.headRead h a n
  match r.1 with
  | none => (none, r.2)
  | some bs => (some (l ++ if Config.readsNew r.2.free then bs else old), { r.2 with free := r.2.free + 1 })

/-- The load ends: each 64-byte line holds its old or its new content (R157); a refused or uncorrectable line is a load failure (R177). -/
def State.spriteLoaded (s : State) (h : Nat) : State :=
  let g := s.cmSet h
  let v := s.head h
  if !v.sp.loading then s
  else
    let a := spTable g (b2n (s.regB (kSpStat h) 30))
    let r := (List.range (ceilDiv (spCount g) 4)).foldl (fun (acc : Option (List Byte) × State) i =>
      match acc.1 with
      | none => acc
      | some l =>
        let n := min 64 (16 * spCount g - 64 * i)
        acc.2.spriteLine h (a + 64 * i) n ((v.sp.snap.drop (64 * i)).take n) l) (some [], s)
    match r.1 with
    | none => r.2.updHead h fun v => { v with sp := { spInit with failed := true } }
    | some t => (r.2.setB (kSpStat h) 31 true).updHead h fun v => { v with sp := { v.sp with tab := t, loading := false } }

/-- A load that is not complete when the fetch position reaches (0, 0) is a load failure (R177). -/
def State.spriteLate (s : State) (h : Nat) : State := s.updHead h fun v => { v with sp := { spInit with failed := true } }

/-! ## Entries (R158 to R162) -/

/-- A sprite entry. -/
structure SpEnt where
  bpp : Nat
  pal : Nat
  canvas : Bool
  vflip : Bool
  hflip : Bool
  cls : Nat
  x : Int
  y : Int
  w : Nat
  h : Nat
  alpha : Nat
  scx : Nat
  scy : Nat
  en : Bool
  opaque_ : Bool
  pat : Nat
  deriving DecidableEq, Repr

/-- Entry i of a table. -/
def spEntry (t : List Byte) (i : Nat) : SpEnt :=
  let w (k : Nat) : Word := wd (leNat ((t.drop (16 * i + 4 * k)).take 4))
  { bpp := 2 * 2 ^ fld (w 0) 30 2, pal := fld (w 0) 24 6, canvas := bit (w 0) 22, vflip := bit (w 0) 21, hflip := bit (w 0) 20,
    cls := fld (w 0) 18 2, x := sext 18 (fld (w 0) 0 18), y := sext 18 (fld (w 1) 0 18),
    w := 8 * (fld (w 1) 18 6 + 1), h := 8 * (fld (w 1) 24 6 + 1), alpha := fld (w 2) 24 8, scy := fld (w 2) 12 12,
    scx := fld (w 2) 0 12, en := bit (w 3) 31, opaque_ := bit (w 3) 30, pat := fld (w 3) 0 20 }

/-- An entry with EN = 1 is invalid (R162). -/
def SpEnt.bad (e : SpEnt) : Bool :=
  decide (e.bpp = 16) || decide (e.scx < 32) || decide (2048 < e.scx) || decide (e.scy < 32) || decide (2048 < e.scy)

def SpEnt.dw (e : SpEnt) : Nat := ceilDiv (e.w * 256) e.scx
def SpEnt.dh (e : SpEnt) : Nat := ceilDiv (e.h * 256) e.scy

/-- Left column and top row in head coordinates (R170). -/
def SpEnt.hx (e : SpEnt) (g : Nat → Word) : Int := e.x - (canvasOfs g e.canvas).1
def SpEnt.hy (e : SpEnt) (g : Nat → Word) : Int := e.y - (canvasOfs g e.canvas).2

/-- Visible width V (R164). -/
def SpEnt.vis (e : SpEnt) (g : Nat → Word) : Int := min (e.hx g + e.dw) (gHact g) - max (e.hx g) 0

/-- The entry is selected for line y (R164). -/
def SpEnt.selected (e : SpEnt) (g : Nat → Word) (y : Nat) : Bool :=
  e.en && !e.bad && decide (e.hy g ≤ y) && decide ((y : Int) < e.hy g + e.dh) && decide (1 ≤ e.vis g)

/-- Fill clocks and Pantry accesses charged (R165). -/
def SpEnt.fill (e : SpEnt) (g : Nat → Word) : Nat := ceilDiv (e.vis g).toNat 8 + 2
def SpEnt.accs (e : SpEnt) : Nat := ceilDiv (e.w * e.bpp) 512 + 1

/-- The sprites drawn on a line, in index order, with the count of those dropped and the clocks charged (R166). -/
structure SpPick where
  drawn : List SpEnt
  full : Bool
  dropped : Nat
  clk : Nat
  acc : Nat

def spPick (g : Nat → Word) (es : List SpEnt) : SpPick :=
  es.foldl (fun p e =>
    if p.full || decide (256 ≤ p.drawn.length) || decide (planeBudget g - 128 < p.clk + e.fill g) || decide (planeBudget g - 64 < p.acc + e.accs)
    then { p with full := true, dropped := p.dropped + 1 }
    else { p with drawn := p.drawn ++ [e], clk := p.clk + e.fill g, acc := p.acc + e.accs }) ⟨[], false, 0, 0, 0⟩

/-- The pixels a drawn sprite puts into its class's line buffer, where no lower index has put one (R159 to R161, R163). -/
def State.spDraw (s : State) (h : Nat) (g : Nat → Word) (y : Nat) (buf : Tbl (Option SpPx)) (e : SpEnt) : Tbl (Option SpPx) × State :=
  let j := ((y : Int) - e.hy g).toNat
  let sr := j * e.scy / 256
  let sr := if e.vflip then e.h - 1 - sr else sr
  let row := e.w * e.bpp / 8
  let ofs := e.pat * 64 + sr * row
  let reg := spReg g
  if s.panValid reg && decide (s.panSize reg < ofs + row) then (buf, s.setB (kSpStat h) 28 true)
  else
    let a := s.panBase reg + ofs
    let rd : Option (List Byte) × State := if s.panValid reg then s.headRead h a row else (none, s)
    let p := s.place a row
    let badAt (byte : Nat) : Bool := rd.1.isNone &&
      (!s.panValid reg || decide (p = .none) || decide (s.code ((a + byte) / 16 * 16) = .uncorr))
    let bs := s.bytes a row
    let x0 := max (e.hx g) 0
    let out := (List.range (e.vis g).toNat).foldl (fun (buf : Tbl (Option SpPx)) (k : Nat) =>
      let x := (x0 + k).toNat
      let i := (x0 + k - e.hx g).toNat
      let sc := i * e.scx / 256
      let sc := if e.hflip then e.w - 1 - sc else sc
      let byte := sc * e.bpp / 8
      let v := (bs.getD byte 0).toNat / 2 ^ (sc * e.bpp % 8) % 2 ^ e.bpp
      let key := e.cls * 8192 + x
      if (Tbl.get (fun _ => none) buf key).isSome then buf
      else if badAt byte then Tbl.set (fun _ => none) buf key (some ⟨0, 0, true⟩)
      else if v = 0 && !e.opaque_ then buf
      else Tbl.set (fun _ => none) buf key (some ⟨(128 * (fld (g 0x800) 24 6 + e.pal) + v) % 8192, e.alpha, false⟩)) buf
    (out, rd.2)

/-- The evaluation of line y (R164 to R167): the line buffers, each held until its output has ended (R156, R163), and the figures of the frame. -/
def State.spriteEval (s : State) (h y : Nat) : State :=
  let g := s.cmSet h
  let v := s.head h
  if !spEn g || !s.regB (kSpStat h) 31 || s.layerOff h 10 then s
  else
    let es := (List.range (spCount g)).map (spEntry v.sp.tab)
    let s := if es.any fun e => e.en && e.bad then s.setB (kSpStat h) 27 true else s
    let p := spPick g (es.filter fun e => e.selected g y)
    let s := if p.dropped = 0 then s else s.setB (kSpStat h) 29 true
    let r := p.drawn.foldl (fun (acc : Tbl (Option SpPx) × State) e => acc.2.spDraw h g y acc.1 e) ([], s)
    r.2.updHead h fun v => { v with sp := { v.sp with
      lines := (y, r.1) :: v.sp.lines.filter (fun l => decide (v.y ≤ l.1) || decide (gVact g ≤ v.y)), drop := v.sp.drop + p.dropped,
      first := if v.sp.drop = 0 ∧ p.dropped ≠ 0 then y else v.sp.first,
      clk := max v.sp.clk p.clk, cnt := max v.sp.cnt p.drawn.length } }

/-- What class k gives the composer at (x, y), before the palette (R163). -/
def Head.spriteAt (v : Head) (k x y : Nat) : Option SpPx :=
  match v.sp.lines.find? fun l => decide (l.1 = y) with
  | some l => Tbl.get (fun _ => none) l.2 (k * 8192 + x)
  | none => none

/-- Boundary cycle: the figures of the frame are captured, and the evaluation state resets (R156 step 5, R167). -/
def State.spriteClose (s : State) (h : Nat) : State :=
  let v := (s.head h).sp
  let k := kHD h
  let s := s.setReg (k + 0x814) (wd (min 0xFFFF v.drop * 2 ^ 16 + v.first % 2 ^ 14))
  let s := s.setReg (k + 0x818) (wd (v.clk % 65536 * 2 ^ 16 + v.cnt % 512))
  let s := s.setReg (k + 0x81C) (s.reg (k + 0x81C) + wd v.drop)
  (s.setB (kSpStat h) 31 false).updHead h fun v => { v with sp := spInit }

end Sys2Proof.Machine
end

