-- ==== Sys2Proof/Machine/Tiles.lean ====
section
/-! DEFINITION. The reads of the planes: line tables, map entries and patterns at the fetch position, and the rows that are read a line ahead (R124 to R141, R154). -/

namespace Sys2Proof.Machine

/-! ## Line tables (R134, R140) -/

/-- The line-table entry of plane p for line y, as it was read; the inner none for a read that failed. -/
def State.ltab (s : State) (h p y : Nat) : Option (Option (List Byte)) :=
  ((s.head h).ltabs.find? fun e => decide (e.1 = p) && decide (e.2.1 = y)).map (·.2.2)

/-- Read the line-table entry of line y, once (R134, R140). -/
def State.readEntry (s : State) (h p y : Nat) : State :=
  let g := s.cmSet h
  let n := if tpAffine g p then 16 else 4
  if !tpEn g p || !tpLsen g p || (s.ltab h p y).isSome || s.layerOff h p then s
  else
    let r := s.headRead h (tpTab g p 0x10 + n * y) n
    r.2.updHead h fun v => { v with ltabs := (p, y, r.1) :: v.ltabs }

/-- What the line table gives plane p on line y: nothing without one, none when its entry failed. -/
def State.lineEntry (s : State) (h p y : Nat) : Option (List Byte) :=
  if tpLsen (s.cmSet h) p then (s.ltab h p y).getD none else some []

/-! ## One position of a tile plane (R124 to R127, R129, R135) -/

/-- The column-table offset of plane p at column x; none when its read fails. -/
def State.columnEntry (s : State) (h p x : Nat) : Option Int × State :=
  let g := s.cmSet h
  if tpCsen g p then
    let r := s.headRead h (tpTab g p 0x14 + 2 * (x / 16)) 2
    (r.1.map fun bs => sext 16 (leNat bs), r.2)
  else (some 0, s)

/-- The scroll of plane p on line y: the active one, or for a map in the Cellar the one under which its row was read (R146). -/
def State.tileScroll (s : State) (h p y : Nat) (act : Nat → Word) : Nat × Nat :=
  if tpCellar (s.cmSet h) p then (match (s.head h).buf p y with | some l => (l.sx, l.sy) | none => (0, 0))
  else (fld (act (oTp p + 0x18)) 0 17, fld (act (oTp p + 0x1C)) 0 17)

/-- The map entry of the tile that holds a plane pixel of line y; none when its data is not in place or failed. -/
def State.mapEntry (s : State) (h p y : Nat) (co : Nat × Nat) : Option Word × State :=
  let g := s.cmSet h
  let tx := co.1 / tpT g p
  if tpCellar g p then
    (match (s.head h).buf p y with
     | some l => if l.badAt (4 * tx) 4 then none else some (wd (leNat ((l.data.drop (4 * tx)).take 4)))
     | none => none, s)
  else
    let r := s.headRead h (tpMap g p + 4 * (co.2 / tpT g p * tpMw g p + tx)) 4
    (r.1.map fun bs => wd (leNat bs), r.2)

/-- The pattern value of a plane pixel under its map entry; a pattern beyond its region sets PATOOR (R129). -/
def State.tilePattern (s : State) (h p : Nat) (co : Nat × Nat) (cdy : Int) (entry : Word) : TileData × State :=
  let g := s.cmSet h
  let reg := tpPat g p
  let q := patternAt g p entry co
  let d : TileData := ⟨some co, cdy, entry, none, false⟩
  if !s.panValid reg then ({ d with failed := true }, s)
  else if s.panSize reg ≤ q.1 then (d, s.setB (kHD h + 0x700) p true)
  else
    let r := s.headRead h (s.panBase reg + q.1) 1
    (match r.1 with
     | some bs => { d with val := some (leNat bs / 2 ^ q.2 % 2 ^ tpB g p) }
     | none => { d with failed := true }, r.2)

/-- The map entry and the pattern value of a plane pixel of line y. -/
def State.tileRead (s : State) (h p y : Nat) (cdy : Int) (co : Nat × Nat) : TileData × State :=
  match s.mapEntry h p y co with
  | (none, s) => (⟨some co, cdy, 0, none, true⟩, s)
  | (some e, s) => s.tilePattern h p co cdy e

/-- Everything that tile plane p reads for (x, y), under its registers as `act` gives them. -/
def State.tileFetch (s : State) (h p x y : Nat) (act : Nat → Word) : TileData × State :=
  let s := s.readEntry h p y
  let c := s.columnEntry h p x
  match s.lineEntry h p y, c.1 with
  | some lt, some cdy =>
    (match tileCo (s.cmSet h) act p x y lt cdy (s.tileScroll h p y act) with
     | none => (⟨none, cdy, 0, none, false⟩, c.2)
     | some co => c.2.tileRead h p y cdy co)
  | _, _ => (⟨none, 0, 0, none, true⟩, c.2)

/-- The fetch position reaches (x, y) at a place of the frame: the tile planes read what they need there (R124).  The scroll is the one last written, since no write still to execute has an anchor before the fetch position (R188). -/
def State.tilesFetch (s : State) (h place x y : Nat) : State :=
  s.each (List.range 8) fun s p =>
    let g := s.cmSet h
    if !tpEn g p || s.layerOff h p || (tpCellar g p && ((s.head h).buf p y).isNone) then s
    else
      let r := s.tileFetch h p x y (s.act h)
      r.2.updHead h fun v => { v with fetched := (p, place, r.1) :: v.fetched }

/-- What has been fetched for (x, y) still holds: its plane pixel is the one that the registers select now. -/
def State.tileHolds (s : State) (h p x y : Nat) (act : Nat → Word) (d : TileData) : Bool :=
  (d.failed && d.co.isNone) ||
    decide (d.co = tileCo (s.cmSet h) act p x y ((s.lineEntry h p y).getD []) d.cdy (s.tileScroll h p y act))

/-- What tile plane p gives the composer at (x, y), and whether its data failed there (R127 to R141, R154): what was fetched there, or a new read where a write between the fetch and the output has moved the plane (DESIGN CHOICE, log 59).  The clip window hides the pixel alone (R137). -/
def State.tileAt (s : State) (h : Nat) (v : Head) (p x y : Nat) (act : Nat → Word) : (Option (Px × Bool) × Bool) × State :=
  let g := s.cmSet h
  if !tpEn g p then ((none, false), s)
  else
    let j := beamIndex g x y
    let r := match v.fetched.find? fun e => decide (e.1 = p) && decide (e.2.1 = j) with
      | some e => if s.tileHolds h p x y act e.2.2 then (e.2.2, s) else s.tileFetch h p x y act
      | none => s.tileFetch h p x y act
    ((if clipShows (act (oTp p + 0x20)) (act (oTp p + 0x24)) x y then tilePx (palGet v.palA) g p r.1 else none, r.1.failed), r.2)

/-! ## Rows read a line ahead (R124) -/

/-- The bytes that layer l reads for line y: a bitmap's image row, or the map row of a tile plane with a Cellar map, whose line-table entry has been read. -/
def State.rowRange (s : State) (h l y : Nat) : Option (Nat × Nat) :=
  let g := s.cmSet h
  if 8 ≤ l then
    let b := l - 8
    if !bmEn g b then none
    else (bmRow g b y).map fun r => (bmBase g b + r * bmPitch g b, bmW g b * fmtBytes (bmFmt g b))
  else if tpEn g l && tpCellar g l then
    let o := canvasOfs g (bit (g (oTp l)) 29)
    let ph := tpMh g l * tpT g l
    let py := (((y : Int) + o.2 + (fld (s.act h (oTp l + 0x1C)) 0 17 : Nat) + s16 (ltWord ((s.lineEntry h l y).getD []) 0) 16) % ph).toNat
    some (tpMap g l + 4 * (py / tpT g l * tpMw g l), 4 * tpMw g l)
  else none

/-- Layer l reads its row of line y into its line buffer. -/
def State.readRow (s : State) (h l y : Nat) : State :=
  let s := if l < 8 && tpCellar (s.cmSet h) l then s.readEntry h l y else s
  if s.layerOff h l then s
  else match s.rowRange h l y with
    | none => s
    | some (a, n) =>
      let r := s.headReadRow h a n
      let b : LineBuf := { y := y, sx := fld (s.act h (oTp l + 0x18)) 0 17, sy := fld (s.act h (oTp l + 0x1C)) 0 17, data := r.1.1, bad := r.1.2 }
      (r.2.updHead h fun v => { v with bufs := ((l, b) :: v.bufs.filter fun e => decide (e.1 ≠ l) || decide (e.2.y + 1 = y)) }).mark h tLineRead

end Sys2Proof.Machine
end

