-- ==== Sys2Proof/Machine/Compose.lean ====
section
/-! DEFINITION. The composer: look-up tables, the layer stack, and the commands that stage them (R205 to R218). -/

namespace Sys2Proof.Machine

/-! ## Look-up tables (R208, R213) -/

/-- Key of an entry: table 0 pre-blend or 1 post-blend, bank, entry. -/
def lutKey (table bank e : Nat) : Nat := 16384 * (2 * table + bank) + e

/-- What a bank holds after a reset: the fixed maps of R208. -/
def lutReset (k : Nat) : Word :=
  let e := k % 16384
  if k < 32768 then wd (4 * (e % 1024) + e % 1024 / 256) else wd (e % 4096 / 4)

def lutGet (t : Tbl Word) (k : Nat) : Word := Tbl.get lutReset t k

/-- Pre-blend: a 10-bit code of component c to 12 bits. -/
def preMap (v : Head) (sel : Word) (c x : Nat) : Nat :=
  if bit sel 2 then fld (lutGet v.lutC (lutKey 0 (fld sel 0 1) (1024 * c + x % 1024))) 0 12 else 4 * x + x / 256

/-- Post-blend: a 12-bit value of component c to 10 bits. -/
def postMap (v : Head) (sel : Word) (c x : Nat) : Nat :=
  if bit sel 3 then fld (lutGet v.lutC (lutKey 1 (fld sel 1 1) (4096 * c + x % 4096))) 0 10 else x / 4

/-! ## The stack (R206 to R211) -/

/-- The layer of an item. -/
def itemLayer (i : Nat) : Nat := if i < 8 then i else if i < 16 then i - 8 else if i < 18 then i - 8 else 10

/-- The 24 slots of an order list. -/
def orderSlots (g : Nat → Word) : List Nat := (List.range 24).map fun k => fld (g (0xA10 + 4 * (k / 6))) (5 * (k % 6)) 5

/-- The working colour, 12 bits per component. -/
structure Col where
  r : Nat
  g : Nat
  b : Nat
  deriving DecidableEq, Repr

/-- One component of a blend (R210). -/
def blend1 (mode c a bg : Nat) : Nat :=
  match mode with
  | 1 => min 4095 (bg + (c * a + 127) / 255)
  | 2 => c
  | _ => (c * a + bg * (255 - a) + 127) / 255

/-- An item's pixel on the working colour. -/
def blendPx (v : Head) (sel bl : Word) (c : Col) (p : Px) : Col :=
  let a := p.a * (fld bl 0 8 + 1) / 256
  let m := fld bl 24 2
  ⟨blend1 m (preMap v sel 0 p.r) a c.r, blend1 m (preMap v sel 1 p.g) a c.g, blend1 m (preMap v sel 2 p.b) a c.b⟩

/-- A sprite pixel in the composer's input form (R161). -/
def spPixel (v : Head) (p : SpPx) : Px :=
  let q := pxArgb8888 (palGet v.palA p.pal)
  { q with a := q.a * (p.alpha + 1) / 256 }

/-- An output pixel of 10 bits per component as one number, R in [29:20], G in [19:10], B in [9:0]. -/
def outPx (r g b : Nat) : Word := wd (r % 1024 * 2 ^ 20 + g % 1024 * 2 ^ 10 + b % 1024)

/-- The ARGB8888 expansion of an output pixel (R212). -/
def out8888 (w : Word) : Word := wd (0xFF000000 + fld w 22 8 * 2 ^ 16 + fld w 12 8 * 2 ^ 8 + fld w 2 8)

/-- The head with what the composer sees of its palette. -/
def State.viewHead (s : State) (h : Nat) : Head :=
  let v := s.head h
  { v with palA := v.bs.view.foldl (fun t e => match e.2 with
      | some w => if 0x8000 ≤ e.1 then Tbl.set (fun _ => 0) t ((e.1 - 0x8000) / 4) w else t
      | none => t) v.palA }

/-- What layer l gives at (x, y), and whether its data failed there. -/
def State.layerAt (s : State) (h : Nat) (v : Head) (l x y : Nat) : (Option (Px × Bool) × Bool) × State :=
  let act (o : Nat) : Word := s.viewReg h (0x1000 + o)
  if l < 8 then s.tileAt h v l x y act else (bmAt v (s.cmSet h) act (l - 8) x y, s)

/-- Every plane's pixel at (x, y); a failed one is switched off by the Shutter (R154, R219, R220). -/
def State.layersAt (s : State) (h x y : Nat) : List (Option (Px × Bool)) × State :=
  let v := s.viewHead h
  (List.range 10).foldl (fun (acc : List (Option (Px × Bool)) × State) l =>
    let s := acc.2
    if s.layerOff h l then (acc.1 ++ [none], s)
    else
      let r := s.layerAt h v l x y
      if r.1.2 then (acc.1 ++ [none], r.2.shutter h l y) else (acc.1 ++ [r.1.1], r.2)) ([], s)

/-- The sprite classes at (x, y); failed data switches the plane off (R177). -/
def State.spritesAt (s : State) (h x y : Nat) : List (Option SpPx) × State :=
  let v := s.head h
  if s.layerOff h 10 then (List.replicate 4 none, s)
  else if v.sp.failed then (List.replicate 4 none, s.shutter h 10 y)
  else
    let l := (List.range 4).map fun k => v.spriteAt k x y
    if l.any fun o => match o with | some p => p.bad | none => false then (List.replicate 4 none, s.shutter h 10 y) else (l, s)

/-- The pixel before the Mantel at (x, y) (R205 steps 1 to 6). -/
def State.composeAt (s : State) (h x y : Nat) : Word × State :=
  let g := s.cmSet h
  let ps := s.layersAt h x y
  let sp := ps.2.spritesAt h x y
  let s := sp.2
  let v := s.viewHead h
  let sel := s.viewReg h 0x1A04
  let en := s.viewReg h 0x1A00
  let bg := s.viewReg h 0x1A08
  let item (i : Nat) : Option Px :=
    if i < 16 then (match ps.1.getD (itemLayer i) none with | some (p, hi) => if hi = decide (8 ≤ i) then some p else none | none => none)
    else if i < 18 then (ps.1.getD (itemLayer i) none).map (·.1)
    else if i < 22 then (sp.1.getD (i - 18) none).map (spPixel v)
    else none
  let c0 : Col := ⟨preMap v sel 0 (fld bg 20 10), preMap v sel 1 (fld bg 10 10), preMap v sel 2 (fld bg 0 10)⟩
  let c := (orderSlots g).foldl (fun c i =>
    if 22 ≤ i || !bit en (itemLayer i) then c
    else match item i with
      | some p => blendPx v sel (s.viewReg h (0x1A40 + 4 * itemLayer i)) c p
      | none => c) c0
  (outPx (postMap v sel 0 c.r) (postMap v sel 1 c.g) (postMap v sel 2 c.b), s)

/-! ## Refusal causes (R218) -/

/-- Causes 0x80 to 0x82 of a set. -/
def composeCauses (g : Nat → Word) : List Nat :=
  let is (b : Bool) (c : Nat) : List Nat := if b then [c] else []
  let l := orderSlots g
  let named := l.filter (· ≠ 31)
  is (l.any fun i => 22 ≤ i && i ≤ 30) 0x80 ++
  is (decide (named.dedup.length ≠ named.length)) 0x81 ++
  is ((List.range 11).any fun k => fld (g (0xA40 + 4 * k)) 24 2 = 3) 0x82

/-! ## COMPOSE_SET and LUT_LOAD (R131, R214, R217) -/

/-- The shadow registers of `COMPOSE_SET`, P1 to P18, with the bits defined in each. -/
def composeRegs : List (Nat × Word) :=
  [(0xA00, 0x7FF), (0xA04, 0xF), (0xA08, 0x3FFFFFFF), (0xA10, 0x3FFFFFFF), (0xA14, 0x3FFFFFFF), (0xA18, 0x3FFFFFFF), (0xA1C, 0x3FFFFFFF)]
    ++ (List.range 11).map fun l => (0xA40 + 4 * l, 0x030000FF)

/-- The checks of `COMPOSE_SET`: the reply of the first that fails. -/
def composeSetFault (o : Open) (s : State) : Option Reply :=
  let p := o.pkt
  let h := fld (pw p 0) 0 5
  let l := composeRegs.zipIdx
  firstFail (([
      s.expertHead h, (p.len.toNat ≠ 23, rep .badLength p.len.toNat), s.absentHead h,
      (fld (pw p 0) 5 27 ≠ 0, repBadP 0)] : List (Bool × Reply))
      ++ l.map (fun e => (outside p (e.2 + 1) e.1.2, repBadP (e.2 + 1))) ++ [s.commitDisabled o h])

/-- `COMPOSE_SET`. -/
def beginComposeSet (o : Open) (s : State) : Started × State :=
  match composeSetFault o s with
  | some r => (.done r, s)
  | none =>
      let p := o.pkt
      let h := fld (pw p 0) 0 5
      let l := composeRegs.zipIdx
      commitAfter o [h] repOk (s.each l fun s e => s.stage h e.1.1 (pw p (e.2 + 1)))

/-- The entries of a `LUT_LOAD` go into the shadow table (R214). -/
def State.lutTake (s : State) (h tab bank first es n : Nat) (bs : List Byte) : State :=
  (s.setB (kHD h + 0x44) 31 true).each (List.range n) fun s i =>
    let v : Word := wd (leNat ((bs.drop (es * i)).take es))
    s.updHead h fun x =>
      if tab = 0 then { x with palS := Tbl.set (fun _ => 0) x.palS (first + i) v }
      else { x with lutS := Tbl.set lutReset x.lutS (lutKey (tab - 1) bank (first + i)) (v &&& (if tab = 1 then 0xFFF else 0x3FF)) }

/-- The source of a `LUT_LOAD` is read, and its entries are staged (R214). -/
def State.lutRead (s : State) (o : Open) (h tab bank first es n : Nat) : Started × State :=
  let rd := s.devRead 1 h (pd o.pkt 1) (es * n)
  match rd.1 with
  | .poison _ => (.done (rep .uncorr (uHead h)), rd.2)
  | .refused => (.done (repBadP 1), rd.2)
  | .ok bs => commitAfter o [h] repOk (rd.2.lutTake h tab bank first es n bs)

/-- The checks of `LUT_LOAD`: the reply of the first that fails. -/
def lutLoadFault (o : Open) (s : State) : Option Reply :=
  let p := o.pkt
  let h := fld (pw p 0) 0 5
  let tab := fld (pw p 0) 8 2
  let bank := fld (pw p 0) 12 1
  let first := (pw p 3).toNat
  let n := (pw p 4).toNat
  let size := if tab = 0 then 8192 else if tab = 1 then 3072 else 12288
  firstFail [
      s.expertHead h, s.absentHead h,
      (outside p 0 0x131F || tab = 3 || (tab = 0 && bank = 1), repBadP 0),
      (fld (pw p 1) 0 (if tab = 0 then 2 else 1) ≠ 0, repAlignP 1), (highBits p 1, repBadP 2),
      (fld (pw p 3) (if tab = 0 then 13 else 14) 18 ≠ 0, repBadP 3),
      (n = 0, rep .okEmpty 0),
      (size < first + n, repBadP 4), s.commitDisabled o h]

/-- `LUT_LOAD`. -/
def beginLutLoad (o : Open) (s : State) : Started × State :=
  match lutLoadFault o s with
  | some r => (.done r, s)
  | none =>
      let p := o.pkt
      let h := fld (pw p 0) 0 5
      let tab := fld (pw p 0) 8 2
      let bank := fld (pw p 0) 12 1
      let first := (pw p 3).toNat
      let n := (pw p 4).toNat
      let es := if tab = 0 then 4 else 2
      s.lutRead o h tab bank first es n

end Sys2Proof.Machine
end

