-- ==== Sys2Proof/Machine/Mantel.lean ====
section
/-! DEFINITION. The Mantel: `MANTEL_SET`, its admission by the Study, the Mantel swap, and its pixels (R221 to R236). -/

namespace Sys2Proof.Machine

/-! ## Registers (R236) -/

def kMctl (h : Nat) : Nat := kHD h + 0xB00
def kMframe (h : Nat) : Nat := kHD h + 0xB18

/-- The committed Mantel is enabled. -/
def State.mantelEn (s : State) (h : Nat) : Bool := s.regB (kMctl h) 31

/-- The head is in NOCONTENT (R234). -/
def State.noContent (s : State) (h : Nat) : Bool := s.regB (kMstat h) 27

/-- Change the Mantel of head h. -/
def State.updMt (s : State) (h : Nat) (f : MtSt → MtSt) : State := s.updHead h fun v => { v with mt := f v.mt }

/-! ## A block: P1 to P43, word Pk at index k - 1 (R226) -/

def mbX (b : List Word) : Nat := fld (b.getD 0 0) 0 14
def mbY (b : List Word) : Nat := fld (b.getD 0 0) 16 14
def mbW (b : List Word) : Nat := fld (b.getD 1 0) 0 14
def mbH (b : List Word) : Nat := fld (b.getD 1 0) 16 14
def mbSrc (b : List Word) : Nat := fld (b.getD 2 0) 0 8
def mbNg (b : List Word) : Nat := fld (b.getD 2 0) 8 8
def mbCw (b : List Word) : Nat := 8 * (fld (b.getD 2 0) 16 2 + 1)
def mbCh (b : List Word) : Nat := 8 * (fld (b.getD 2 0) 20 3 + 1)
/-- Field descriptor f. -/
def mbField (b : List Word) (f : Nat) : Word := b.getD (35 + f) 0
/-- Content bytes (R224). -/
def mbBytes (b : List Word) : Nat := mbW b * mbH b / 2 + mbNg b * mbCw b * mbCh b / 2

/-- Glyph code k of field f. -/
def glyphCode (gl : List Word) (f k : Nat) : Nat := fld (gl.getD (8 * f + k / 4) 0) (8 * (k % 4)) 8

/-- Glyphs of a field. -/
def fieldN (d : Word) : Nat := fld d 22 5 + 1

/-- The bytes of one bank. -/
def mantelBank : Nat := 131072

/-- The parameter word of the first field outside the limits of R224; glyph codes stand from word `gw` on (DEDUCED, log 62). -/
def mantelLimits (b gl : List Word) (gw : Nat) : Option Nat :=
  let w := mbW b
  let h := mbH b
  let fields := (List.range 8).filter fun f => bit (mbField b f) 31
  let desc := fields.find? fun f =>
    let d := mbField b f
    decide (w < fld d 0 11 + fieldN d * mbCw b) || decide (h < fld d 11 11 + mbCh b)
  let codes := fields.flatMap fun f => (List.range (fieldN (mbField b f))).map fun k => (f, k)
  let badCode := codes.find? fun e => let g := glyphCode gl e.1 e.2; decide (mbNg b ≤ g) && decide (g ≠ 255)
  if w < 2 || 4096 < w || w % 2 ≠ 0 || h < 1 || 4096 < h || mantelBank < w * h / 2 then some 2
  else if mantelBank < mbBytes b then some 3
  else match desc with
    | some f => some (36 + f)
    | none => badCode.map fun e => gw + 8 * e.1 + e.2 / 4

/-! ## MANTEL_SET (R225 to R229) -/

/-- LEN of the form that P0 chooses. -/
def mantelLen (p : Packet) : Nat :=
  let w := pw p 0
  if !bit w 31 then 5 else if bit w 10 then 69 else if bit w 8 then 128 else 112

/-- The bits that a word of the full form does not define. -/
def mantelMask (k : Nat) : Word :=
  if k = 1 ∨ k = 2 then 0x3FFF3FFF else if k = 3 then 0x0073FFFF else if 20 ≤ k ∧ k ≤ 35 then 0x3FFFFFFF else 0xFFFFFFFF

/-- Checks 1 to 4, made by the Foyer. -/
def mantelFoyer (o : Open) (s : State) : Option Reply :=
  let p := o.pkt
  let en := bit (pw p 0) 31
  let fields := bit (pw p 0) 10
  let signed := bit (pw p 0) 8
  firstFail (([
      (signed && !o.hasFeat 15, rep .featureOff 15),
      (en && !fields && !signed && o.hasFeat 15, rep .authFail 0),
      s.absentHead (fld (pw p 0) 0 5),
      (outside p 0 0x8000051F || (signed && (fields || !en)) || (fields && !en), repBadP 0)] : List (Bool × Reply))
    ++ (if en && !fields then (List.range 36).map fun k => (decide (k ≠ 0) && outside p k (mantelMask k), repBadP k) else [])
    ++ [(decide (p.len.toNat ≠ mantelLen p), rep .badLength p.len.toNat)])

/-- The block and the glyph codes that a form is judged by: a fields form uses the committed block. -/
def mantelBlock (o : Open) (s : State) (h : Nat) : List Word × List Word × Nat :=
  let ws (a n : Nat) : List Word := (List.range n).map fun i => pw o.pkt (a + i)
  if bit (pw o.pkt 0) 10 then ((s.head h).mt.block, ws 1 64, 1) else (ws 1 43, ws 44 64, 44)

/-- Checks 5 to 7, made by the Study when it begins the command. -/
def mantelStudy (o : Open) (s : State) : Option Reply :=
  let p := o.pkt
  let h := fld (pw p 0) 0 5
  let en := bit (pw p 0) 31
  let fields := bit (pw p 0) 10
  let b := mantelBlock o s h
  firstFail [
    (!(s.head h).enabled || (fields && !s.mantelEn h), rep .notReady (uHead h)),
    (en && (mantelLimits b.1 b.2.1 b.2.2).isSome, repBadP ((mantelLimits b.1 b.2.1 b.2.2).getD 0)),
    (en && !fields && !(s.panValid (mbSrc b.1) && s.panSealed (mbSrc b.1)), rep .notReady 5)]

/-- An earlier `MANTEL_SET` of the same head has not reached its commit point. -/
def mantelBehind (o : Open) (s : State) : Bool :=
  s.foy.opens.any fun x => decide (x.op = .mantelSet) && decide (x.acc < o.acc) && decide (fld (pw x.pkt 0) 0 5 = fld (pw o.pkt 0) 0 5)

/-- `MANTEL_SET`. -/
def beginMantelSet (o : Open) (s : State) : Started × State :=
  match mantelFoyer o s with
  | some r => (.done r, s)
  | none =>
    if mantelBehind o s then (.later, s)
    else match mantelStudy o s with
      | some r => (.done r, s)
      | none => (.wait (.mantel (fld (pw o.pkt 0) 0 5)), s)

/-- The message of a signed block (R228). -/
def mantelMessage (b : List Word) : List Byte := ascii "FLEYN-MANTEL-V1" ++ [0] ++ wsBytes b

/-- Stage the set and request a Mantel swap (R229 step 3). -/
def State.mantelStage (s : State) (h : Nat) (q : MtPend) (idx : Nat) : State :=
  ((s.updMt h fun m => { m with pend := some q }).setB (kMstat h) 28 true).jState idx .staged

/-- Fill a bank with content in good code (R222, R229 step 2). -/
def State.mantelFill (s : State) (h bank : Nat) (bs : List Byte) : State :=
  let lo := mantelBank * bank
  let old := (s.head h).mt.store
  let new : Tbl Byte := (bs.zipIdx.filter fun e => decide (e.1 ≠ 0)).map fun e => (lo + e.2, e.1)
  let t := old.filter (fun e => decide (e.1 < lo)) ++ new ++ old.filter fun e => decide (lo + bs.length ≤ e.1)
  s.updMt h fun m => { m with store := t, codes := m.codes.filter fun e => decide (4 * e.1 + 3 < lo) || decide (lo + bs.length ≤ 4 * e.1) }

/-- The content of a block as the Study reads it. -/
def State.mantelRead (s : State) (h : Nat) (b : List Word) : Rd × State :=
  s.devRead 0x0D h (s.panBase (mbSrc b)) (mbBytes b)

/-- The Study admits an open `MANTEL_SET` (R229 steps 1 to 3). -/
def State.mantelAdmitOpen (s : State) (h : Nat) (o : Open) : State :=
  let p := o.pkt
  let en := bit (pw p 0) 31
  let fields := bit (pw p 0) 10
  let signed := bit (pw p 0) 8
  let b := mantelBlock o s h
  let cur := s.regF (kMctl h) 29 1
  if !en then s.mantelStage h ⟨o.acc, false, false, none, none, cur⟩ o.idx
  else if fields then s.mantelStage h ⟨o.acc, true, s.regB (kMctl h) 30, none, some b.2.1, cur⟩ o.idx
  else
    let sig := wsBytes ((List.range 16).map fun i => pw p (108 + i))
    let sigOk := !signed || match s.att.fuses.mantel with
      | some key => edVerify key (mantelMessage b.1) sig
      | none => false
    if !sigOk then s.finishAcc o.acc (rep .authFail 0)
    else
      let rd := s.mantelRead h b.1
      match rd.1 with
      | .poison _ => rd.2.finishAcc o.acc (rep .uncorr 5)
      | x =>
        let bs := x.bytes (mbBytes b.1)
        let d := sha512 bs
        if d ≠ wsBytes ((b.1.drop 3).take 16) then rd.2.finishAcc o.acc (rep .authFail 0)
        else
          ((rd.2.mantelFill h (1 - cur) bs).measure 0x13 (srcRing p.ring) h (b2n signed) (BitVec.ofNat 64 bs.length) d).mantelStage h
            ⟨o.acc, true, signed, some b.1, some b.2.1, 1 - cur⟩ o.idx

/-- Steps 1 to 3 of R229 end for the `MANTEL_SET` of head h that the Study has begun (DEDUCED, log 99). -/
def State.mantelAdmit (s : State) (h : Nat) : State :=
  if (s.head h).mt.pend.isSome then s
  else match s.foy.opens.find? fun o => o.begun && o.fin.isNone && decide (o.wait = .mantel h) with
    | some o => s.mantelAdmitOpen h o
    | none => s

/-! ## The Mantel swap (R230, R231) -/

/-- The Mantel registers take a block with its flags and bank. -/
def State.mantelRegs (s : State) (h : Nat) (b : List Word) (signed : Bool) (bank : Nat) : State :=
  let k := kHD h
  let s := s.setReg (k + 0xB00) ((b.getD 2 0 &&& 0x0073FFFF) ||| flag 31 true ||| flag 30 signed ||| flag 29 (bank = 1))
  let s := ((s.setReg (k + 0xB04) (b.getD 0 0)).setReg (k + 0xB08) (b.getD 1 0)).setReg (k + 0xB10) (b.getD 34 0)
  let s := s.each (List.range 16) fun s i => s.setReg (k + 0xB40 + 4 * i) (b.getD (3 + i) 0)
  let s := s.each (List.range 15) fun s i => s.setReg (k + 0xC04 + 4 * i) (b.getD (19 + i) 0)
  let s := s.each (List.range 8) fun s i => s.setReg (k + 0xC40 + 4 * i) (mbField b i)
  s.updMt h fun m => { m with block := b }

/-- The glyph registers. -/
def State.mantelGlyphs (s : State) (h : Nat) (gl : List Word) : State :=
  s.each (List.range 64) fun s i => s.setReg (kHD h + 0xF00 + 4 * i) (gl.getD i 0)

/-- The rectangle of a Mantel set: of the pending one if there is one, else of the committed one; none while it is not shown. -/
def State.mantelRect (s : State) (h : Nat) (pending : Bool) : Option (Nat × Nat × Nat × Nat) :=
  let m := (s.head h).mt
  let r (b : List Word) := (mbX b, mbY b, mbW b, mbH b)
  match (if pending then m.pend else none) with
  | some q => if q.en then some (r (q.block.getD m.block)) else none
  | none => if s.mantelEn h then some (r m.block) else none

/-- The active area of a set contains a rectangle (R224). -/
def inActive (g : Nat → Word) (r : Nat × Nat × Nat × Nat) : Bool :=
  decide (r.1 + r.2.2.1 ≤ gHact g) && decide (r.2.1 + r.2.2.2 ≤ gVact g)

/-- Cause 0x88 of a set (R218, R231). -/
def State.mantelCause (s : State) (h : Nat) (g : Nat → Word) : List Nat :=
  match s.mantelRect h true with
  | some r => if inActive g r then [] else [0x88]
  | none => []

/-- Step 2 of R231 in a swap cycle of head h, after step 1 and the increment of `HD_FRAME`. -/
def State.mantelSwap (s : State) (h : Nat) : State :=
  match (s.head h).mt.pend with
  | none => s
  | some q =>
    let placed := match s.mantelRect h true with | some r => inActive (s.cmSet h) r | none => true
    let s := (s.setB (kMstat h) 28 false).updMt h fun m => { m with pend := none, shown := m.shown || placed }
    let f := s.frame h
    if !placed then
      ((s.setF (kMstat h) 16 8 0x90).errRec sevInfo (uHead h) 0x0014 0x90 .configMismatch (lo32 f) 0).finishAcc q.acc
        ⟨.configMismatch, uHead h, lo32 f, hi32 f, 0⟩
    else
      let s := match q.block with
        | some b => s.mantelRegs h b q.signed q.bank
        | none => if q.en then s else s.setB (kMctl h) 31 false
      let s := s.setB (kMstat h) 27 false
      let s := match q.glyphs with | some gl => s.mantelGlyphs h gl | none => s
      let s := (s.setW64 (kMframe h) f).setB (kHD h + 0xE54) 31 false
      s.finishAcc q.acc ⟨.ok, 0, lo32 f, hi32 f, 0⟩

/-- `HD_MSTAT` as it reads: UNECHOED is 1 while the Mantel is enabled and no port of DP00 to DP03 is fed by the head (R233). -/
def State.mstatRead (s : State) (h : Nat) : Word :=
  putBit (s.reg (kMstat h)) 29 (s.mantelEn h && !((List.range 4).any fun p =>
    s.regB (kDPL + 0x40 * p) 31 && decide (s.regF (kDPL + 0x40 * p) 0 5 = h)))

/-! ## Pixels (R222, R223, R232, R234) -/

/-- Key of the store's 32-bit word that holds nibble i of the content. -/
def storeWord (bank i : Nat) : Nat := (mantelBank * bank + i / 2) / 4

/-- Nibble i of the content from an offset in nibbles; none from an uncorrectable word (R232). -/
def storeNib (m : MtSt) (bank i : Nat) : Option Nat :=
  if Tbl.get (fun _ => Code.good) m.codes (storeWord bank i) = .uncorr then none
  else some (((Tbl.get (fun _ => 0) m.store (mantelBank * bank + i / 2)).toNat / 16 ^ (i % 2)) % 16)

/-- The nibbles that the Mantel reads for (mx, my) of the rectangle: that of the image, and those of the fields over it, each with the field's INK (R223). -/
def mantelNibs (b : List Word) (gl : List Word) (mx my : Nat) : Nat × List (Nat × Nat) :=
  let cw := mbCw b
  let ch := mbCh b
  (my * mbW b + mx, (List.range 8).filterMap fun f =>
    let d := mbField b f
    let fx := fld d 0 11
    let fy := fld d 11 11
    if bit d 31 && decide (fx ≤ mx) && decide (mx < fx + fieldN d * cw) && decide (fy ≤ my) && decide (my < fy + ch) then
      (let k := (mx - fx) / cw
       let g := glyphCode gl f k
       if g = 255 then none
       else some (mbW b * mbH b + g * cw * ch + (my - fy) * cw + (mx - fx - k * cw), fld d 27 4))
    else none)

/-- The Mantel value at (mx, my) of the rectangle (R223); none where the data that decides it failed. -/
def mantelValue (m : MtSt) (bank : Nat) (gl : List Word) (mx my : Nat) : Option Nat :=
  let n := mantelNibs m.block gl mx my
  n.2.foldl (fun v e =>
    match storeNib m bank e.1 with
    | none => none
    | some p => if p = 0 then v else if e.2 ≠ 0 then some e.2 else some p) (storeNib m bank n.1)

/-- The committed glyph codes. -/
def State.mantelCodes (s : State) (h : Nat) : List Word := (List.range 64).map fun i => s.reg (kHD h + 0xF00 + 4 * i)

/-- An error in a word of the store of head h is corrected: the log of the Pantry kind takes it (R222, R303). -/
def State.storeCorrected (s : State) (h i pos : Nat) : State :=
  (s.countCe 8).corrLog (kPAN + 0x400) (some (kPAN + 0x3F0)) 1 3 pos (4 * i / 64 * 64) h 0x05 (some 48)

/-- A word of the store of head h is found uncorrectable (R304). -/
def State.storeUncorr (s : State) (i : Nat) : State :=
  let s := { s with chm := { s.chm with ue := s.chm.ue + 1 } }
  ((s.setReg (kPAN + 0x84) (wd (4 * i / 64 * 64))).incReg (kPAN + 0x88)).pulse 49

/-- The store's words that line my of the rectangle reads and that hold an error. -/
def mantelErrors (m : MtSt) (bank : Nat) (gl : List Word) (my : Nat) : List (Nat × Code) :=
  if m.codes.isEmpty then []
  else
    let ws := (List.range (mbW m.block)).flatMap fun mx =>
      let n := mantelNibs m.block gl mx my
      (n.1 :: n.2.map (·.1)).map (storeWord bank)
    m.codes.filter fun e => ws.contains e.1

/-- Line y lies in the rectangle of the committed Mantel. -/
def State.mantelOn (s : State) (h y : Nat) : Bool :=
  match s.mantelRect h false with
  | some r => decide (r.2.1 ≤ y) && decide (y < r.2.1 + r.2.2.2)
  | none => false

/-- Read line y of the rectangle from the store into the line buffer (R222): errors are corrected and logged, or fail the pixels that need them (R232). -/
def State.mantelLine (s : State) (h y : Nat) : State :=
  let m := (s.head h).mt
  let my := y - mbY m.block
  let gl := s.mantelCodes h
  let bank := s.regF (kMctl h) 29 1
  let l := (List.range (mbW m.block)).map fun mx => mantelValue m bank gl mx my
  let s := s.each (mantelErrors m bank gl my) fun s e => match e.2 with
    | .corr pos => s.storeCorrected h e.1 pos
    | _ => s.storeUncorr e.1
  s.updMt h fun m => { m with lines := ((y, l) :: m.lines).take 2 }

/-- What the line buffer holds for an output position of the rectangle; the inner none for failed data. -/
def State.mantelAt (s : State) (h x y : Nat) : Option (Option Nat) :=
  match s.mantelRect h false with
  | some (rx, ry, w, ht) =>
    if rx ≤ x && decide (x < rx + w) && decide (ry ≤ y) && decide (y < ry + ht) then
      (match (s.head h).mt.lines.find? fun e => decide (e.1 = y) with
       | some (_, l) => some (l.getD (x - rx) (some 0))
       | none => some (some 0))
    else none
  | none => none

/-- The composer is about to lay the Mantel over (x, y): failed data there is a Mantel fetch failure (R232). -/
def State.mantelTouch (s : State) (h x y : Nat) : State :=
  match s.mantelAt h x y with
  | some none => if s.noContent h then s else s.mantelFault h y
  | _ => s

/-- A word of the store of head h goes bad (DESIGN CHOICE, log 129). -/
def State.mantelSpoil (s : State) (h i : Nat) : State :=
  s.updMt h fun m => { m with codes := Tbl.set (fun _ => Code.good) m.codes i .uncorr }

/-- A patrol scrub reads a word of the store of head h: a corrected error is written back, an uncorrectable one is left and recorded (R302). -/
def State.mantelScrub (s : State) (h i : Nat) : State :=
  match Tbl.get (fun _ => Code.good) (s.head h).mt.codes i with
  | .good => s
  | .corr pos => (s.storeCorrected h i pos).updMt h fun m => { m with codes := Tbl.set (fun _ => Code.good) m.codes i .good }
  | .uncorr => (s.storeUncorr i).errRec sevContained 5 0x0031 0 .uncorr (wd (4 * i / 64 * 64)) (wd h)

/-- The Mantel pixel at an output position, 10 bits per component: the fault colour in a faulted frame and in NOCONTENT. -/
def State.mantelPx (s : State) (h x y : Nat) : Option Word :=
  match s.mantelAt h x y with
  | none => none
  | some v =>
    if s.regB (kMstat h) 31 || s.noContent h then some (s.hd h 0xB10)
    else match v with
      | some 0 => none
      | some n => some (s.hd h (0xC00 + 4 * n))
      | none => none

/-! ## Re-admission after a warm reset (R234) -/

/-- The Study reads the source region of the committed block again: NOCONTENT when it no longer matches. -/
def State.mantelReadmit (s : State) (h : Nat) : State :=
  if !s.mantelEn h then s
  else
    let b := (s.head h).mt.block
    let src := mbSrc b
    let rd : Rd × State := if s.panValid src then s.mantelRead h b else (.refused, s)
    let bs := rd.1.bytes (mbBytes b)
    let s := rd.2
    let d := sha512 bs
    if rd.1 = .ok bs && decide (d = wsBytes ((b.drop 3).take 16)) then
      ((s.mantelFill h (s.regF (kMctl h) 29 1) bs).setB (kMstat h) 27 false).measure 0x13 srcFirmware h
        (b2n (s.regB (kMctl h) 30) + 2) (BitVec.ofNat 64 bs.length) d
    else (s.setB (kMstat h) 27 true).errRec sevContained (uHead h) 0x0013 0 .authFail (wd src) 0

end Sys2Proof.Machine
end

