-- ==== Sys2Proof/Machine/Ports.lean ====
section
/-! DEFINITION. Display ports: routes, link training, hot plug, the sink cache, wiring faults and link echo (R240 to R264). -/

namespace Sys2Proof.Machine

/-! ## Registers -/

/-- First key of port p. -/
def kDp (p : Nat) : Nat := kDPL + 0x40 * p
def kRoute (p : Nat) : Nat := kDp p
def kLink (p : Nat) : Nat := kDp p + 0x04
def kFault (p : Nat) : Nat := kDp p + 0x08
def kSink (p : Nat) : Nat := kDp p + 0x10
def kStream (p : Nat) : Nat := kDp p + 0x14
def kEvcnt (p : Nat) : Nat := kDp p + 0x1C
def kEcho (p : Nat) : Nat := kDp p + 0x20

def State.port (s : State) (p : Nat) : Port := Tbl.get (fun _ => portInit) s.ports p
def State.setPort (s : State) (p : Nat) (v : Port) : State := { s with ports := Tbl.set (fun _ => portInit) s.ports p v }
def State.updPort (s : State) (p : Nat) (f : Port → Port) : State := s.setPort p (f (s.port p))

/-- Link states (R254). -/
def lkDisabled : Nat := 0
def lkDown : Nat := 1
def lkTraining : Nat := 2
def lkUp : Nat := 3
def lkLost : Nat := 4

def State.linkState (s : State) (p : Nat) : Nat := s.regF (kLink p) 29 3
def State.linkUp (s : State) (p : Nat) : Bool := decide (s.linkState p = lkUp)
/-- The committed route is enabled, and its source head. -/
def State.routeEn (s : State) (p : Nat) : Bool := s.regB (kRoute p) 31
def State.routeSrc (s : State) (p : Nat) : Nat := s.regF (kRoute p) 0 5
/-- The ports that head h feeds. -/
def State.fed (s : State) (h : Nat) : List Nat := (List.range 32).filter fun p => s.routeEn p && decide (s.routeSrc p = h)

/-! ## Streams (R248) -/

/-- Payload per lane of a rate, in bit/s. -/
def ratePayload (r : Nat) : Nat :=
  match r with
  | 1 => 1296000000 | 2 => 2160000000 | 3 => 4320000000 | 4 => 6480000000 | 5 => 9696000000 | _ => 0

/-- Lanes of the code of `DPL_LINK.LANES`. -/
def laneCount (c : Nat) : Nat := match c with | 1 => 1 | 2 => 2 | 3 => 4 | _ => 0

/-- Bits per pixel of a route word. -/
def routeBpp (w : Word) : Nat := if bit w 23 then 30 else 24

/-- The stream of a set on a port, in bit/s. -/
def streamOf (g : Nat → Word) (bpp : Nat) : Nat := gFreq g * bpp

/-- The larger of a head's committed and staged streams. -/
def State.streamMax (s : State) (h bpp : Nat) : Nat := max (streamOf (s.cmSet h) bpp) (streamOf (s.shSet h) bpp)

/-- Capacity of port p's trained link, in bit/s. -/
def State.linkCap (s : State) (p : Nat) : Nat := laneCount (s.regF (kLink p) 22 2) * ratePayload (s.regF (kLink p) 24 4)

/-- The trained link meets a new route word: rate and lanes within its limits, no correction in force under NOAUTO, and the stream carried (R246 step 1). -/
def State.linkMeets (s : State) (p : Nat) (w : Word) : Bool :=
  let rate := s.regF (kLink p) 24 4
  let lanes := laneCount (s.regF (kLink p) 22 2)
  s.linkUp p
    && (fld w 24 4 = 0 || rate ≤ fld w 24 4)
    && (fld w 28 2 = 0 || lanes ≤ laneCount (fld w 28 2))
    && (!bit w 30 || s.reg (kDp p + 0xC) &&& 0x400000F0 = 0)
    && decide (s.streamMax (fld w 0 5) (routeBpp w) ≤ s.linkCap p)

/-- What identifies a stream for the switch without a break (R246 step 3): counts, f and b. -/
def streamId (g : Nat → Word) (bpp : Nat) : List Nat := (List.range 8).map (fun k => fld (g (4 * k)) 0 14) ++ [gFreq g, bpp]

/-- The port transmits: its link is UP, or LOST, in which it goes on as before (R254). -/
def State.sends (s : State) (p : Nat) : Bool := s.linkUp p || decide (s.linkState p = lkLost)

/-- What a port sends for an output pixel: its codes unchanged at 10 bits per component, else the 8-bit form of R212 (R241). -/
def portCode (bpc10 : Bool) (w : Word) : Word :=
  if bpc10 then w &&& 0x3FFFFFFF else wd (fld w 22 8 * 2 ^ 16 + fld w 12 8 * 2 ^ 8 + fld w 2 8)

/-- The pixel that an echo receiver decodes from the wire, as the CRCs take it: a 10-bit component becomes floor(v / 4) (R271). -/
def portDecode (bpc10 : Bool) (code : Word) : Word := if bpc10 then out8888 code else 0xFF000000 ||| code

/-- What port p carries for the pixel that leaves its head: none unless it transmits a stream (R241, R244, R247). -/
def State.portPixel (s : State) (p : Nat) (w : Word) : Option Word :=
  if s.routeEn p && s.sends p && !s.regB (kLink p) 19 then some (portCode (s.regB (kLink p) 18) w) else none

/-- Set NEED of `DPL_STREAM` (R263) (DEDUCED, log 94). -/
def State.setNeed (s : State) (p bits : Nat) : State := s.setF (kStream p) 0 16 (min 65535 (ceilDiv bits 10000000))

/-! ## Records and events -/

/-- Source 504 + p. -/
def State.portPulse (s : State) (p : Nat) : State := s.pulse (504 + p)

/-- Count in a byte of `DPL_EVCNT`. -/
def State.evCount (s : State) (p lo : Nat) : State := s.setF (kEvcnt p) lo 8 (s.regF (kEvcnt p) lo 8 + 1)

/-- The error record of a lost or down link (EVENT 0x0020). -/
def State.linkRecord (s : State) (p : Nat) : State := s.errRec sevInfo 0x0E 0x0020 p .linkDown (s.reg (kLink p)) 0

/-- The echo receiver is disarmed (R262). -/
def State.echoOff (s : State) (p : Nat) : State :=
  if p < 4 then (s.setReg (kEcho p) (s.reg (kEcho p) &&& 0x9FFFFFF0)).updPort p fun v => { v with eCov := false, eRect := v.eRect / 2 * 2 } else s

/-- The link enters LOST or DOWN. -/
def State.linkDrop (s : State) (p st : Nat) : State :=
  let was := s.linkUp p
  let s := (s.setF (kLink p) 29 3 st)
  let s := if st = lkLost then s else (s.setF (kLink p) 19 1 0).updPort p fun v => { v with sent := none, starting := false }
  let s := s.echoOff p
  if was then ((s.evCount p 8).linkRecord p).portPulse p else s

/-! ## ROUTE_SET, port form (R242 to R247) -/

/-- Where a pending route of port p ends: the command that named it is finished. -/
def State.routeFinish (s : State) (p : Nat) (r : Reply) : State :=
  match (s.port p).acc with
  | some a => ((s.finishAcc a r).updPort p fun v => { v with pend := none, acc := none, training := false }).setB (kRoute p) 22 false
  | none => (s.updPort p fun v => { v with pend := none, training := false }).setB (kRoute p) 22 false

/-- The port begins to train: its stream stops at once (R246 step 1). -/
def State.trainStart (s : State) (p : Nat) : State :=
  ((s.echoOff p).setReg (kLink p) (wd (lkTraining * 2 ^ 29))).updPort p fun v => { v with training := true, sent := none, starting := false, tAt := s.now }

/-- A route becomes pending; it trains unless the link meets it. -/
def State.routePend (s : State) (p : Nat) (w : Word) (acc : Option Nat) : State :=
  let s := (s.updPort p fun v => { v with pend := some w, acc := acc }).setB (kRoute p) 22 true
  if !bit w 31 then s
  else
    let s := s.setNeed p (s.streamMax (fld w 0 5) (routeBpp w))
    if s.linkMeets p w then s else s.trainStart p

/-- The port sends idle pattern from now on, if its link transmits (R247, R254). -/
def State.routeOff (s : State) (p : Nat) : State :=
  ((s.setReg (kRoute p) ((s.reg (kRoute p) &&& 0x7FFFFFFF))).setB (kLink p) 19 (s.sends p)).updPort p fun v => { v with sent := none, starting := false }

/-- Ports that carry or await a route to a head, other than p. -/
def State.routesTo (s : State) (p h : Nat) : Nat :=
  ((List.range 32).filter fun q => decide (q ≠ p) &&
    ((s.routeEn q && decide (s.routeSrc q = h)) ||
      match (s.port q).pend with | some w => bit w 31 && decide (fld w 0 5 = h) | none => false)).length

/-- Absent-unit fault of port p (R5). -/
def State.absentPort (s : State) (p : Nat) : Bool × Reply := (!s.headPresent p, repBad (0x20 + p / 8))

/-- The checks of `ROUTE_SET` of a port: the reply of the first that fails. -/
def routePortFault (o : Open) (s : State) : Option Reply :=
  let q := o.pkt
  let p := fld (pw q 0) 0 5
  let w := pw q 1
  let src := fld w 0 5
  let en := bit w 31
  firstFail [
        (outside q 0 0x11F, repBadP 0), (outside q 1 0xFF80001F || 6 ≤ fld w 24 4, repBadP 1),
        s.absentPort p, s.absentHead src,
        (en && !(s.head src).enabled, rep .notReady (uHead src)),
        (en && 4 ≤ s.routesTo p src, rep .noResource 0x0E),
        (en && decide (s.reg (kRoute p) &&& 0xFFBFFFFF = w) && s.linkUp p
          && decide (s.streamMax src (routeBpp w) ≤ s.linkCap p), rep .okEmpty 0)]

/-- The port form of `ROUTE_SET`. -/
def beginRoutePort (o : Open) (s : State) : Started × State :=
  let q := o.pkt
  let p := fld (pw q 0) 0 5
  if (s.port p).pend.isSome then (.later, s)
  else
    match routePortFault o s with
    | some r => (.done r, s)
    | none =>
        let w := pw q 1
        let en := bit w 31
        if en then (.wait (.route p), s.routePend p w (some o.acc))
        else if s.routeEn p && (s.head (s.routeSrc p)).enabled then (.wait (.route p), s.routePend p w (some o.acc))
        else (.done repOk, s.routeOff p)

/-! ## Training (R251 to R253) -/

/-- The candidates of a port for a route word, in the order they are tried: rate and lane count; `rep` says that every repeater reports 128b/132b and UHBR10. -/
def State.candidates (s : State) (p : Nat) (w : Word) (rep : Bool) : List (Nat × Nat) :=
  let sink := s.reg (kSink p)
  let maxRate := if fld w 24 4 = 0 then 5 else fld w 24 4
  let maxLanes := if fld w 28 2 = 0 then 4 else laneCount (fld w 28 2)
  let bad := s.reg (kFault p)
  let laneBad (k : Nat) : Bool := bit bad k || bit bad (4 + k) || bit bad (8 + k)
  let need := s.streamMax (fld w 0 5) (routeBpp w)
  [5, 4, 3, 2, 1].flatMap fun r => ([1, 2, 4].filterMap fun l =>
    if r ≤ maxRate && (if r = 5 then bit sink 29 && bit sink 28 && rep else r ≤ fld sink 24 4)
      && l ≤ maxLanes && l ≤ laneCount (fld sink 22 2)
      && !((List.range l).any laneBad) && need ≤ l * ratePayload r
    then some (r, l) else none)

/-- Code of a lane count. -/
def laneCode (l : Nat) : Nat := if l = 4 then 3 else l

/-- A port's training fails: EN = 0 and the link DOWN for a command; a route kept over S1 or a warm reset stays (R246, R264, R504). -/
def State.trainFail (s : State) (p : Nat) : State :=
  let s := s.setReg (kLink p) (wd (lkDown * 2 ^ 29) ||| (s.reg (kLink p) &&& 0x00300000))
  match (s.port p).acc with
  | some _ => (s.setB (kRoute p) 31 false).routeFinish p (rep .linkDown p)
  | none => (s.routeFinish p repOk).linkRecord p

/-- An IRQ_HPD is counted and its sink read begins (R255, R256). -/
def State.irqHpd (s : State) (p : Nat) : State := (s.evCount p 16).portPulse p

/-- A training has ended: every IRQ_HPD that arrived during it is handled (R255). -/
def State.trainEnd (s : State) (p : Nat) : State :=
  (s.updPort p fun v => { v with irqHeld := 0 }).each (List.range (s.port p).irqHeld) fun s _ => s.irqHpd p

/-- `DPL_TRAINT` records a training (R253). -/
def State.trainNote (s : State) (p attempts us : Nat) : State :=
  s.setReg (kDp p + 0x24) (wd (min 16 attempts * 2 ^ 24 + min 0xFFFFFF us))

/-- The equalisation of port p at the end of a training: what the sink asked for against the bounds of its loop (R515, R517). -/
def State.eqNote (s : State) (p : Nat) (want : Word) : State :=
  let b := s.reg (kCHM + 0x400 + 4 * p)
  let beyond := decide (fld b 16 2 < fld want 16 2) || decide (fld b 18 2 < fld want 18 2) || decide (fld want 0 16 &&& (65535 - fld b 0 16) ≠ 0)
  let was := s.regB (kCHM + 0x480) p
  let s := s.setB (kCHM + 0x480) p beyond
  if beyond && !was then s.loopBound (0x60 + p) want b else s

/-- The port lanes that an echo receiver samples: the first l, or the last l under a corrected lane order (R252, R261). -/
def echoLanes (rev : Bool) (l : Nat) : Word := wd (((List.range l).map fun k => 2 ^ (if rev then 3 - k else k)).sum)

/-- Link training of port p ends. -/
def State.trainingDone (s : State) (p : Nat) (t : Training) : State :=
  match (s.port p).training, (s.port p).pend with
  | true, some w =>
    let s := s.eqNote p t.eq
    let s := s.trainNote p t.attempts t.us
    let fix := !bit w 30
    let map := flag 31 t.orderRev ||| flag 30 (t.orderRev && fix) ||| wd (t.polRev.toNat * (if fix then 0x11 else 1))
    let s := s.setReg (kDp p + 0xC) map
    let s := { s with chm := { s.chm with margin := Tbl.set (fun _ => 0) s.chm.margin p 0 } }
    let s := s.setF (kLink p) 20 2 (min 3 t.lttpr)
    let c := match t.cand with | some k => (s.candidates p w (decide (t.lttpr = 0) || t.uhbr))[k]? | none => none
    let auxBad := s.regB (kFault p) 12 || s.regB (kFault p) 13
    let ok := !(decide (2 < t.lttpr)) && !(bit w 30 && (t.orderRev || decide (t.polRev ≠ 0))) && decide (t.attempts ≤ 16)
      && decide (t.us ≤ 500000) && !auxBad && s.regB (kFault p) 15
    (match ok, c with
     | true, some (r, l) =>
       let s := s.setReg (kLink p) (wd (lkUp * 2 ^ 29 + b2n (r = 5) * 2 ^ 28 + r * 2 ^ 24 + laneCode l * 2 ^ 22 + t.lttpr * 2 ^ 20
         + 2 ^ 19 + b2n (bit w 23) * 2 ^ 18))
       let s := s.setF (kStream p) 16 16 (l * ratePayload r / 10000000)
       let s := { s with chm := { s.chm with margin := Tbl.set (fun _ => 0) s.chm.margin p t.margin } }
       let s := if p < 4 && s.feat 7 then s.setReg (kEcho p) (s.reg (kEcho p) ||| 0x40000000 ||| echoLanes (t.orderRev && fix) l) else s
       (s.updPort p fun v => { v with training := false }).trainEnd p
     | _, _ => (s.trainFail p).trainEnd p)
  | _, _ => s

/-! ## Hot plug (R255 to R257) -/

/-- A plug. -/
def State.hpdPlug (s : State) (p : Nat) : State :=
  if s.regB (kFault p) 15 then s else ((s.setB (kFault p) 15 true).evCount p 24).portPulse p

/-- The sink is gone: VALID clears and the link goes DOWN; a training ends as a failure, with the time it has taken (R253). -/
def State.sinkGone (s : State) (p : Nat) : State :=
  let s := s.setB (kSink p) 31 false
  if (s.port p).training then
    let n := (Config.trainAttempts s.free).val + 1
    let us := (s.now - (s.port p).tAt).toNat / 1000
    ((({ s with free := s.free + 1 }).trainNote p n us).trainFail p).trainEnd p
  else if s.linkState p = lkDisabled || s.linkState p = lkDown then s
  else s.linkDrop p lkDown

/-- An unplug. -/
def State.hpdUnplug (s : State) (p : Nat) : State :=
  if !s.regB (kFault p) 15 then s else (((s.setB (kFault p) 15 false).evCount p 24).portPulse p).sinkGone p

/-- An IRQ_HPD; one during training is held. -/
def State.hpdIrq (s : State) (p : Nat) : State :=
  if !s.regB (kFault p) 15 then s
  else if (s.port p).training then s.updPort p fun v => { v with irqHeld := v.irqHeld + 1 } else s.irqHpd p

/-- Key of the word of the sink cache at an offset. -/
def kCache (p o : Nat) : Nat := kDPL + 0x4000 + 0x400 * p + o

/-- A refresh of the sink cache ends. -/
def State.sinkRead (s : State) (p : Nat) (r : SinkRead) : State :=
  if !s.regB (kFault p) 15 || s.regB (kFault p) 12 || s.regB (kFault p) 13 then s.setB (kSink p) 31 false
  else
    let put (s : State) (o : Nat) (bs : List Byte) : State :=
      s.each (List.range ((bs.length + 3) / 4)) fun s k => s.setReg (kCache p (o + 4 * k)) (wd (leNat ((bs.drop (4 * k)).take 4)))
    let gen (s : State) : State := s.setF (kSink p) 10 8 (s.regF (kSink p) 10 8 + 1)
    match r with
    | .failed => s.setB (kSink p) 31 false
    | .plug d w => (gen (put s 0 (d.take 1024))).setReg (kSink p) ((w &&& 0x7FFC0000) ||| 0x80000000 ||| wd ((s.regF (kSink p) 10 8 + 1) % 256 * 1024))
    | .status d lost =>
      let s := gen (put s 0x300 (d.take 256))
      if lost && s.linkUp p then s.linkDrop p lkLost else s

/-! ## Wiring (R258, R259) -/

/-- The sensing of a port's wires, as a word laid out as `DPL_FAULT` [14:0]. -/
def State.wiringSense (s : State) (p : Nat) (w : Word) : State :=
  let k := kFault p
  let old := s.reg k
  let new := w &&& 0x7FFF
  let s := s.setReg k ((old &&& 0x8000) ||| new)
  let s := s.each ((List.range 15).filter fun i => bit new i && !bit old i) fun s _ =>
    ((s.evCount p 0).portPulse p).errRec sevInfo 0x0E 0x0021 p .ok (s.reg k) 0
  if bit new 14 && !bit old 14 then s.sinkGone p else s

/-! ## Ports at a swap cycle (R246, R247, R250) -/

/-- Head h's stream on port p starts without a break, or after one frame of idle pattern (R246 step 3). -/
def State.streamTake (s : State) (h p : Nat) : State :=
  let id := streamId (s.cmSet h) (if s.regB (kLink p) 18 then 30 else 24)
  if (s.port p).sent = some id then s.setB (kLink p) 19 false
  else (s.setB (kLink p) 19 true).updPort p fun v => { v with starting := true }

/-- A pending route of port p is taken in a swap cycle of its source head. -/
def State.routeTake (s : State) (h p : Nat) (w : Word) : State :=
  let s := ((s.setReg (kRoute p) w).setB (kLink p) 18 (bit w 23)).setNeed p (streamOf (s.cmSet h) (routeBpp w))
  let s := if p < 4 then (s.setReg (kDp p + 0x30) 0).updPort p fun v =>
      { v with eMis := 0, eLanes := 0, eFirst := 0, eCov := s.regB (kEcho p) 29, eRect := 0, eSeen := s.regB (kEcho p) 29, eCrc := 0xFFFFFFFF } else s
  (s.streamTake h p).routeFinish p repOk

/-- What a swap cycle of head h does to the ports: streams that were starting go out, those of a head that starts begin as R246 step 3 says, pending routes are taken, and a new timing idles every fed port until the next swap (R250). -/
def State.portSwap (s : State) (h : Nat) (newTiming : Bool) : State :=
  let id (s : State) (p : Nat) := streamId (s.cmSet h) (if s.regB (kLink p) 18 then 30 else 24)
  -- ports fed before this cycle
  let s := s.each (s.fed h) fun s p =>
    if !s.sends p then s
    else
      let s := s.setNeed p (streamOf (s.cmSet h) (routeBpp (s.reg (kRoute p))))
      if newTiming then (s.setB (kLink p) 19 true).updPort p fun v => { v with starting := true, sent := none }
      else if (s.head h).starting && !(s.port p).starting && (s.port p).sent.isNone then s.streamTake h p
      else if (s.port p).starting then (s.setB (kLink p) 19 false).updPort p fun v => { v with starting := false, sent := some (id s p) }
      else s
  s.each (List.range 32) fun s p =>
    match (s.port p).pend with
    | some w =>
      if bit w 31 then
        (if decide (fld w 0 5 = h) && s.linkUp p && !(s.port p).training then s.routeTake h p w else s)
      else if s.routeEn p && decide (s.routeSrc p = h) then (s.routeOff p).routeFinish p repOk else s
    | none => s

/-- Head h is disabled: its ports send idle pattern with their routes and links kept, and begin anew at the head's next first swap (R250). -/
def State.portsHeadOff (s : State) (h : Nat) : State :=
  s.each (s.fed h) fun s p =>
    if s.sends p then (s.setB (kLink p) 19 true).updPort p fun v => { v with sent := none, starting := false } else s

/-- Cause 0xA0 of a set (R249): the staged stream on a port the head feeds whose link is UP. -/
def State.streamCause (s : State) (h : Nat) (g : Nat → Word) : List Nat :=
  if (s.fed h).any fun p => s.linkUp p && (s.port p).pend.isNone && decide (s.linkCap p < streamOf g (if s.regB (kLink p) 18 then 30 else 24))
  then [0xA0] else []

/-- The commit of `HEAD_ENABLE`: every DISABLED port whose kept route names the head trains (R504). -/
def State.portsHeadOn (s : State) (h : Nat) : State :=
  s.each (s.fed h) fun s p =>
    if s.linkState p = lkDisabled then s.routePend p (s.reg (kRoute p) &&& 0xFFBFFFFF) none else s

/-- Every port becomes DISABLED with its route kept (R504, R264); a command whose route was pending is finished by its own rule. -/
def State.portsDisable (s : State) : State :=
  s.each (List.range 32) fun s p =>
    (((s.echoOff p).setReg (kLink p) 0).setB (kRoute p) 22 false).updPort p fun v => { v with pend := none, acc := none, training := false, sent := none, starting := false }

/-- `UNIT_RESET` of unit 0x0E (R264) (DEDUCED, log 73). -/
def State.dplReset (s : State) : State :=
  s.each (List.range 32) fun s p =>
    let s := s.each [0x00, 0x04, 0x0C, 0x10, 0x14, 0x1C] fun s o => s.setReg (kDp p + o) 0
    let s := (s.echoOff p).each (List.range 256) fun s k => s.setReg (kCache p (4 * k)) 0
    s.setPort p portInit

/-- `DPL_POLARITY_AUTO`: bit p is 1 exactly when the committed NOAUTO of port p is 0 (R252). -/
def State.polarityAuto (s : State) : Word := wd (((List.range 32).map fun p => if s.regB (kRoute p) 30 then 0 else 2 ^ p).sum)

/-! ## Link echo (R261, R271, R273) -/

/-- An echo receiver becomes ALIGNED, or loses alignment. -/
def State.echoAlign (s : State) (p : Nat) (al : Bool) : State :=
  if 4 ≤ p || !s.linkUp p || !s.regB (kEcho p) 30 then s
  else (s.setB (kEcho p) 29 al).updPort p fun v => if al then { v with eSeen := true } else { v with eCov := false, eRect := v.eRect / 2 * 2 }

/-- A symbol mismatch on some lanes (R261, R268): INTEGRITY is raised once per frame of the source head. -/
def State.echoMismatch (s : State) (p : Nat) (lanes : Nat) (n : Nat) : State :=
  if 4 ≤ p || !s.regB (kEcho p) 30 || !s.regB (kEcho p) 29 || lanes % 16 = 0 then s
  else
    let h := s.routeSrc p
    let v := s.port p
    let s := (s.setB (kEcho p) 28 true).setPort p
      { v with eMis := v.eMis + max 1 n, eLanes := (wd v.eLanes ||| wd (lanes % 16)).toNat,
               eFirst := if v.eMis = 0 then (s.head h).y else v.eFirst }
    if s.routeEn p && !(s.head h).ig.raised then
      (s.pulse (64 + 4 * h + 3)).updHead h fun v => { v with ig := { v.ig with raised := true } }
    else s

/-- Step 4 of a boundary of head h, for an echo port it feeds: the frame's figures are latched; the answer says whether the port had a mismatch of either kind. -/
def State.echoClose (s : State) (p : Nat) (mantel : Bool) (mcrcf : Word) : Bool × State :=
  let v := s.port p
  let al := s.regB (kEcho p) 29
  let crcv := mantel && decide (v.eRect = 2)
  let dec := if v.eMis = 0 then ~~~ v.eCrc else Config.echoCrc s.free
  let decmis := crcv && decide (dec ≠ mcrcf)
  let mis := s.regB (kEcho p) 28 || decmis
  let cov := v.eCov
  let s := { s with free := s.free + 1 }
  let s := s.setReg (kDp p + 0x28) (if v.eSeen then wd (min 0xFFFFFFFF (Config.echoSymbols s.free)) else 0)
  let s := s.setReg (kDp p + 0x2C) (wd (min 0xFFFFFFFF v.eMis))
  let s := if mis then s.incReg (kDp p + 0x30) else s
  let s := s.setReg (kDp p + 0x34) (if crcv then dec else 0)
  let s := s.setReg (kDp p + 0x38) (flag 31 cov ||| flag 30 decmis ||| flag 29 crcv ||| wd (v.eLanes % 16 * 2 ^ 24)
    ||| wd (if v.eLanes = 0 then 0 else v.eFirst % 2 ^ 14))
  let s := (s.setB (kEcho p) 27 mis).setB (kEcho p) 28 false
  (mis, s.setPort p { v with eMis := 0, eLanes := 0, eFirst := 0, eCov := al, eRect := 0, eSeen := al, eCrc := 0xFFFFFFFF })

end Sys2Proof.Machine
end

