-- ==== Sys2Proof/Machine/Integrity.lean ====
section
/-! DEFINITION. Proving the picture: CRC rectangles, the Mantel CRCs, frame receipts and their batches (R265 to R281, R483, R486). -/

namespace Sys2Proof.Machine

/-! ## Running CRCs (R265, R269) -/

/-- A running CRC of head h: 0 to 15 the rectangles, 16 the masked and 17 the full Mantel CRC. -/
def State.runCrc (s : State) (h k : Nat) : Word := Tbl.get (fun _ => 0xFFFFFFFF) (s.head h).ig.crcs k

/-- Change the integrity state of head h. -/
def State.updIg (s : State) (h : Nat) (f : IgSt → IgSt) : State := s.updHead h fun v => { v with ig := f v.ig }

/-- Feed four bytes to a running CRC. -/
def State.feedCrc (s : State) (h k : Nat) (w : Word) : State :=
  let c := crcRun (s.runCrc h k) (wBytes w)
  s.updIg h fun g => { g with crcs := Tbl.set (fun _ => 0xFFFFFFFF) g.crcs k c }

/-- Register offset of rectangle r. -/
def oRect (r : Nat) : Nat := 0xD00 + 0x10 * r
def rectEn (g : Nat → Word) (r : Nat) : Bool := bit (g (oRect r)) 31
def rectCmp (g : Nat → Word) (r : Nat) : Bool := bit (g (oRect r)) 13
def rectTap (g : Nat → Word) (r : Nat) : Bool := bit (g (oRect r)) 12

/-- Rectangle r contains (x, y). -/
def rectHas (g : Nat → Word) (r x y : Nat) : Bool :=
  let a := g (oRect r + 4)
  let b := g (oRect r + 8)
  decide (fld a 0 14 ≤ x) && decide (x ≤ fld b 0 14) && decide (fld a 16 14 ≤ y) && decide (y ≤ fld b 16 14)

/-- An output pixel reaches the CRCs: the pre-Mantel tap, the Mantel pixel if there is one, and the final output. -/
def State.crcPixel (s : State) (h x y : Nat) (pre : Word) (mantel : Option Word) : State :=
  let g := s.cmSet h
  let fin := mantel.getD pre
  let s := s.each ((List.range 16).filter fun r => rectEn g r && rectHas g r x y) fun s r =>
    s.feedCrc h r (out8888 (if rectTap g r then pre else fin))
  match s.mantelRect h false with
  | some (rx, ry, w, ht) =>
    if rx ≤ x && decide (x < rx + w) && decide (ry ≤ y) && decide (y < ry + ht) then
      let s := (s.feedCrc h 16 (match mantel with | some m => out8888 m | none => 0)).feedCrc h 17 (out8888 fin)
      -- the echo receivers note that they are aligned from the first to the last pixel of the rectangle, and take what they decode (R271)
      let first := decide (x = rx) && decide (y = ry)
      let last := decide (x + 1 = rx + w) && decide (y + 1 = ry + ht)
      s.each (List.range 4) fun s p =>
        if s.routeEn p && decide (s.routeSrc p = h) then
          s.updPort p fun v =>
            let e := if first then b2n (s.regB (kEcho p) 29) else v.eRect
            { v with eRect := if last && decide (e = 1) then 2 else e
                     eCrc := match s.portPixel p fin with
                       | some c => crcRun v.eCrc (wBytes (portDecode (s.regB (kLink p) 18) c))
                       | none => v.eCrc }
        else s
    else s
  | none => s

/-- Causes 0xB0 and 0xB1 of a set (R266). -/
def crcCauses (g : Nat → Word) : List Nat :=
  let l := (List.range 16).filter (rectEn g)
  (if l.any fun r => let b := g (oRect r + 8); decide (gHact g ≤ fld b 0 14) || decide (gVact g ≤ fld b 16 14) then [0xB0] else [])
  ++ (if l.any fun r =>
      let a := g (oRect r + 4)
      let b := g (oRect r + 8)
      decide (fld b 0 14 < fld a 0 14) || decide (fld b 16 14 < fld a 16 14) then [0xB1] else [])

/-- The checks of `CRC_RECT_SET`: the reply of the first that fails. -/
def crcRectSetFault (o : Open) (s : State) : Option Reply :=
  let p := o.pkt
  let h := fld (pw p 0) 0 5
  firstFail [
      s.expertHead h, s.absentHead h, (outside p 0 0x80003F1F, repBadP 0),
      (outside p 1 0x3FFF3FFF, repBadP 1), (outside p 2 0x3FFF3FFF, repBadP 2), s.commitDisabled o h]

/-- `CRC_RECT_SET`. -/
def beginCrcRectSet (o : Open) (s : State) : Started × State :=
  match crcRectSetFault o s with
  | some x => (.done x, s)
  | none =>
      let p := o.pkt
      let h := fld (pw p 0) 0 5
      let r := fld (pw p 0) 8 4
      let s := s.stage h (oRect r) (pw p 0 &&& 0x80003000)
      let s := ((s.stage h (oRect r + 4) (pw p 1)).stage h (oRect r + 8) (pw p 2)).stage h (oRect r + 12) (pw p 3)
      commitAfter o [h] repOk s

/-! ## Receipts (R274 to R281) -/

def kEvery (h : Nat) : Nat := kHD h + 0xE60
def kRseq (h : Nat) : Nat := kHD h + 0xE64

/-- The checks of `RECEIPT_CONFIG`: the reply of the first that fails. -/
def receiptConfigFault (o : Open) (s : State) : Option Reply :=
  let p := o.pkt
  let h := fld (pw p 0) 0 5
  firstFail [s.expertHead h, s.absentHead h, (fld (pw p 0) 5 27 ≠ 0, repBadP 0), (fld (pw p 1) 16 16 ≠ 0, repBadP 1)]

/-- `RECEIPT_CONFIG`. -/
def beginReceiptConfig (o : Open) (s : State) : Started × State :=
  match receiptConfigFault o s with
  | some x => (.done x, s)
  | none =>
      let p := o.pkt
      let h := fld (pw p 0) 0 5
      let n := fld (pw p 1) 0 16
      let s := if s.reg (kEvery h) = 0 && n ≠ 0 then (s.setW64 (kRseq h) 0).updIg h fun g => { g with start := true } else s
      (.done repOk, s.setReg (kEvery h) (wd n))

/-- Slot size of the receipt store, and the key of the region's entry (R280). -/
def storeSlot (i : Nat) : Nat := i % 8192 * 49152

/-- The bytes of a batch in the store. -/
def State.batchAt (s : State) (i : Nat) : List Byte :=
  let a := s.celBase 62 + storeSlot i
  let n := leNat (s.bytes (a + 8) 4)
  s.bytes a n

/-- The Study writes into its own region; a line whose read-modify-write met an uncorrectable error is recorded (R292, R304). -/
def State.studyWrite (s : State) (a : Nat) (bs : List Byte) : State :=
  match s.fwWrite 0x0D a bs with
  | (.poison c, s) => s.ueRecord 0x0D 0 (c / 64 * 64)
  | (_, s) => s

/-- Close the open batch: sign it and store it as the next index (R279, R280, R486). -/
def State.batchClose (s : State) : State :=
  let l := s.att.batch
  if l.isEmpty then s
  else
    let new := s.reg kBatchNew
    let i := (new + 1).toNat
    let prev := if i = 0 then zero64 else sha512 (s.batchAt new.toNat)
    let content := leBytes 4 i ++ leBytes 4 l.length ++ leBytes 8 s.att.batchOpen.toNat ++ leBytes 8 s.now.toNat ++ leBytes 8 0
      ++ prev ++ l.flatten
    let rec_ := s.theant 3 content
    let s := { s with att := { s.att with batch := [] } }
    let s := s.studyWrite (s.celBase 62 + storeSlot i) rec_
    (s.setReg kBatchNew (wd i)).setReg kBatchOld (wd (i - 8191))

/-- The Study adds one receipt to the open batch, and closes a batch of 64. -/
def State.batchAdd (s : State) (r : List Byte) : State :=
  let s := { s with att := { s.att with batchOpen := if s.att.batch.isEmpty then s.now else s.att.batchOpen
                                        batch := s.att.batch ++ [r] } }
  if 64 ≤ s.att.batch.length then s.batchClose else s

/-- The Study is not down (R400). -/
def State.studyUp (s : State) : Bool := !s.att.down.contains 1

/-- The Study takes what a head's queue holds. -/
def State.receiptsTake (s : State) (h : Nat) : State :=
  if s.studyUp then ((s.updIg h fun g => { g with queue := [] }).each (s.head h).ig.queue State.batchAdd) else s

/-- ECHOSTAT of a receipt (R276). -/
def State.echoStat (s : State) (h : Nat) : Nat :=
  ((List.range 4).map fun p =>
    4 ^ p * (if !(s.routeEn p && decide (s.routeSrc p = h)) then 0
      else if s.regB (kEcho p) 27 then 2
      else if s.regB (kDp p + 0x38) 31 then 1 else 3)).sum

/-- The 640 bytes of the receipt of head h, cut from the values latched at steps 3 and 4 (R276). -/
def State.receipt (s : State) (h : Nat) : List Byte :=
  let g := s.cmSet h
  let k := kHD h
  let ig := (s.head h).ig
  let m := (s.head h).mt
  let mis := s.reg (k + 0xE40)
  let n := s.frame h
  let men := s.mantelEn h
  let every := s.regF (kEvery h) 0 16
  let last := s.reg (k + 0xA84)
  let hdr := flag 27 ig.gap ||| flag 26 m.shown ||| flag 25 (last &&& 0x7FF ≠ 0) ||| flag 24 (bit mis 17) ||| flag 23 (bit mis 16)
    ||| flag 22 (fld mis 0 16 ≠ 0) ||| flag 21 (s.regB (kMctl h) 30) ||| flag 20 (s.noContent h) ||| flag 19 (s.regB (kMstat h) 30)
    ||| flag 18 men ||| flag 17 ig.start ||| flag 16 (n.toNat % every = 0) ||| wd (256 * h + 1)
  let refv := s.regB (k + 0xE54) 31
  let en := ((List.range 16).map fun r => b2n (rectEn g r) * 2 ^ r).sum
  let words : List Word := [hdr, wd (s.echoStat h * 2 ^ 16 + every), lo32 (s.w64 (kRseq h)), hi32 (s.w64 (kRseq h)), lo32 n, hi32 n,
    lo32 (s.head h).fbt, hi32 (s.head h).fbt, lo32 (s.w64 kBootSeq), hi32 (s.w64 kBootSeq),
    s.reg (k + 0xE48), if refv then s.reg (k + 0xE4C) else 0, s.reg (k + 0xE50), last, wd (en * 2 ^ 16 + fld mis 0 16), 0]
  let mset := if men then wsBytes m.block else []
  let glyphs := if men then wsBytes (s.mantelCodes h) else []
  padTo 640 (padTo 0x40 (wsBytes words) ++ padTo 64 (if ig.start then [] else ig.prev) ++ padTo 176 mset ++ padTo 256 glyphs
    ++ wsBytes ((List.range 16).map fun r => s.reg (k + 0xE00 + 4 * r)))

/-- The receipt of frame N is due (R275). -/
def State.receiptDue (s : State) (h : Nat) : Bool :=
  let every := s.regF (kEvery h) 0 16
  s.feat 3 && decide (every ≠ 0) &&
    (decide ((s.frame h).toNat % every = 0) || s.regB (kMstat h) 30 || s.noContent h || decide (s.reg (kHD h + 0xE40) ≠ 0)
      || (s.head h).mt.shown)

/-- Step 5 of R10: a due receipt is cut and handed to the Study, or is lost to a full queue (R275 to R278). -/
def State.receiptCut (s : State) (h : Nat) : State :=
  if !s.receiptDue h then s
  else if 4 ≤ (s.head h).ig.queue.length then
    ((s.incReg (kHD h + 0xE6C)).errRec sevInfo (uHead h) 0x0016 0 .noResource (lo32 (s.frame h)) (hi32 (s.frame h))).updIg h
      fun g => { g with gap := true }
  else
    let r := s.receipt h
    let s := s.updIg h fun g => { g with prev := sha512 r, start := false, gap := false, queue := g.queue ++ [r] }
    (s.setW64 (kRseq h) (s.w64 (kRseq h) + 1)).receiptsTake h

/-! ## Step 4 (R267 to R271) -/

/-- Step 4 of R10: the CRC results are latched and compared, the echo ports' figures too, and INTEGRITY is raised for a failure. -/
def State.crcClose (s : State) (h : Nat) : State :=
  let g := s.cmSet h
  let k := kHD h
  let en := s.mantelEn h
  let masked := if en then ~~~ s.runCrc h 16 else 0
  let full := if en then ~~~ s.runCrc h 17 else 0
  let res (r : Nat) : Word := if rectEn g r then ~~~ s.runCrc h r else 0
  let mis := (List.range 16).foldl (fun m r => m ||| flag r (rectEn g r && rectCmp g r && decide (res r ≠ g (oRect r + 12)))) (0 : Word)
  let fault := s.regB (kMstat h) 30
  let refv := s.regB (k + 0xE54) 31
  let mcrc := en && refv && (fault || decide (masked ≠ s.reg (k + 0xE4C)))
  let s := s.each (List.range 16) fun s r => s.setReg (k + 0xE00 + 4 * r) (res r)
  let s := (s.setReg (k + 0xE48) masked).setReg (k + 0xE50) full
  let s := s.setW64 (k + 0xE58) (s.frame h)
  let s := if en && !refv && !fault then (s.setReg (k + 0xE4C) masked).setB (k + 0xE54) 31 true else s
  let e := ((List.range 4).filter fun p => s.routeEn p && decide (s.routeSrc p = h)).foldl
    (fun (acc : Bool × State) p => let r := acc.2.echoClose p en full; (acc.1 || r.1, r.2)) (false, s)
  let s := e.2
  let mis := mis ||| flag 16 mcrc ||| flag 17 e.1
  let s := (s.setReg (k + 0xE40) mis).setReg (k + 0xE44) (s.reg (k + 0xE44) ||| mis)
  let s := if mis = 0 then s
    else
      let s := s.incReg (k + 0xE70)
      if (s.head h).ig.raised then s else s.pulse (64 + 4 * h + 3)
  s.updIg h fun v => { v with crcs := [], raised := false }

/-! ## RECEIPT_READ (R281) -/

/-- A batch as the Study reads it from the store: none when it meets an uncorrectable line. -/
def State.batchRead (s : State) (i : Nat) : Option (List Byte) × State :=
  let n := (s.batchAt i).length
  let r := s.devRead 0x0D 0 (s.celBase 62 + storeSlot i) n
  match r.1 with
  | .poison _ => (none, r.2)
  | x => (some (x.bytes n), r.2)

/-- One batch of those that are written out, k of which stand already: it ends there when the batch is unreadable or does not fit in n bytes; else what follows. -/
def batchStep (n at' k : Nat) (s : State) (r : Option (List Byte) × State) (more : List Byte → (Nat × Bool) × State) : (Nat × Bool) × State :=
  match r.1 with
  | none => ((k, true), r.2)
  | some b => if n < at' + b.length then ((k, false), s) else more b

/-- Write batches from an index on that fit whole in n bytes at a host address, each starting on an 8-byte boundary: how many, whether an unreadable one ended it, and the state. -/
def batchesOut (buf n : Nat) : Nat → Nat → Nat → Nat → State → (Nat × Bool) × State
  | 0, _, _, k, s => ((k, false), s)
  | c + 1, i, at', k, s =>
    batchStep n at' k s (s.batchRead i) fun b =>
      batchesOut buf n c (i + 1) (roundUp (at' + b.length) 8) (k + 1) ((s.batchRead i).2.hostWrite (buf + at') b)

/-- `RECEIPT_READ`.  A batch that cannot be read ends it with `UNCORR`, the batches before it written (DESIGN CHOICE, log 42: R304 names no status for this reader) (DEDUCED, log 97). -/
def beginReceiptRead (o : Open) (s : State) : Started × State :=
  let p := o.pkt
  let new := s.reg kBatchNew
  if new = 0xFFFFFFFF || decide (new.toNat < (pw p 3).toNat) then (.done ⟨.okEmpty, 0, 0, 0, new⟩, s)
  else
    let first := max (pw p 3).toNat (s.reg kBatchOld).toNat
    let r := batchesOut (pd p 0) (pw p 2).toNat (new.toNat + 1 - first) first 0 0 s
    if r.1.2 then (.done ⟨.uncorr, 0x0D, wd r.1.1, wd first, new⟩, r.2)
    else if r.1.1 = 0 then (.done (repBadP 2), r.2)
    else (.done ⟨.ok, 0, wd r.1.1, wd first, new⟩, r.2)

end Sys2Proof.Machine
end

