-- ==== Sys2Proof/Machine/Flow.lean ====
section
/-! DEFINITION. DEADLINE reservations and the throttle (R151, R313 to R319), writeback (R237 to R239), and the staging commands of timing, planes, sprites and canvases (R100, R110, R148, R174, R175). -/

namespace Sys2Proof.Machine

/-! ## Writeback formats and causes (R218, R237, R238) -/

def wbEn (g : Nat → Word) : Bool := bit (g 0xAC0) 31
def wbDbuf (g : Nat → Word) : Bool := bit (g 0xAC0) 13
def wbTap (g : Nat → Word) : Bool := bit (g 0xAC0) 12
def wbFmt (g : Nat → Word) : Nat := fld (g 0xAC0) 8 4
def wbDst (g : Nat → Word) : Nat := fld (g 0xAC4) 6 26 * 64 + 2 ^ 32 * fld (g 0xAC8) 0 8
def wbPitch (g : Nat → Word) : Nat := fld (g 0xACC) 6 12 * 64

/-- Bytes per pixel of a writeback format; 0 for a reserved one. -/
def wbBytes (f : Nat) : Nat := match f with | 0 => 2 | 2 => 3 | 3 => 4 | 4 => 4 | _ => 0

/-- An output pixel in a writeback format. -/
def wbPixel (f : Nat) (w : Word) : List Byte :=
  let r := fld w 20 10
  let g := fld w 10 10
  let b := fld w 0 10
  match f with
  | 0 => leBytes 2 (r / 32 * 2 ^ 11 + g / 16 * 2 ^ 5 + b / 32)
  | 2 => leBytes 3 (r / 4 * 2 ^ 16 + g / 4 * 2 ^ 8 + b / 4)
  | 3 => leBytes 4 (0xFF000000 + r / 4 * 2 ^ 16 + g / 4 * 2 ^ 8 + b / 4)
  | 4 => leBytes 4 (3 * 2 ^ 30 + w.toNat % 2 ^ 30)
  | _ => []

/-- A range lies wholly inside one Cellar region other than region 63. -/
def State.wbInside (s : State) (a n : Nat) : Bool :=
  decide (a < aPantry) && match s.celFind a n with | some r => decide (r ≠ 63) | none => false

/-- Causes 0x83 to 0x85 of a set. -/
def wbCauses (s : State) (g : Nat → Word) : List Nat :=
  let is (b : Bool) (c : Nat) : List Nat := if b then [c] else []
  let n := wbPitch g * gVact g
  if !wbEn g then []
  else
    is (wbBytes (wbFmt g) = 0) 0x83 ++
    is (wbPitch g < gHact g * wbBytes (wbFmt g)) 0x84 ++
    is (!s.wbInside (wbDst g) n || (wbDbuf g && !s.wbInside (wbDst g + n) n)) 0x85

/-! ## Demands and reservations (R151, R237, R314) -/

/-- Bytes per frame period line that writeback writes. -/
def wbLineBytes (g : Nat → Word) : Nat := if wbEn g then ceilDiv (gHact g * wbBytes (wbFmt g)) 64 * 64 else 0

/-- A demand of so many bytes per line in whole MB/s; 0 for a timing with no pixel in a frame (DEDUCED, log 43). -/
def demandOf (g : Nat → Word) (line : Nat) : Nat := ceilDiv (gFreq g * gVact g * line) (gHtotal g * gVtotal g * 1000000)

def planeDemand (g : Nat → Word) : Nat := if gHtotal g * gVtotal g = 0 then 0 else demandOf g (planeLineBytes g)
def headDemand (g : Nat → Word) : Nat := if gHtotal g * gVtotal g = 0 then 0 else demandOf g (planeLineBytes g + wbLineBytes g)

/-- R_h (`HAL_DLHEAD`). -/
def kRsv (h : Nat) : Nat := kHAL + 0x100 + 4 * h
def State.rsv (s : State) (h : Nat) : Nat := (s.reg (kRsv h)).toNat

/-- Set R_h, and their sum in `HAL_DLRSV`. -/
def State.setRsv (s : State) (h r : Nat) : State :=
  let s := s.setReg (kRsv h) (wd r)
  s.setReg (kHAL + 8) (wd ((List.range 32).map s.rsv).sum)

/-- A request that R_h rise to a demand: false when the sum would exceed C. -/
def State.rsvRequest (s : State) (h d : Nat) : Bool × State :=
  let r := s.rsv h
  if d ≤ r then (true, s)
  else if (s.reg (kHAL + 4)).toNat < (s.reg (kHAL + 8)).toNat - r + d then (false, s.incReg (kHAL + 0xC))
  else (true, s.setRsv h d)

/-- A swap cycle in which a commit of head h was accepted or refused: R_h becomes the larger of the demands of its two sets (R314).  It stays as it is where the sum would pass C, which no event may bring about (DEDUCED, log 119). -/
def State.rsvSwap (s : State) (h : Nat) : State :=
  let d := max (headDemand (s.cmSet h)) (headDemand (s.shSet h))
  if s.rsv h < d ∧ (s.reg (kHAL + 4)).toNat < (s.reg (kHAL + 8)).toNat - s.rsv h + d then s else s.setRsv h d

/-- Causes 0x4A and 0x86 of a set: the plane demand alone, and with writeback, against R_h (DEDUCED, log 44). -/
def rsvCauses (s : State) (h : Nat) (g : Nat → Word) : List Nat :=
  (if s.rsv h < planeDemand g then [0x4A] else []) ++ (if wbEn g && decide (s.rsv h < headDemand g) then [0x86] else [])

/-- What a staging command with a reservation does: `s'` is the state with the set staged. -/
def stageReserved (o : Open) (h : Nat) (needs : Bool) (s s' : State) : Started × State :=
  let r : Bool × State := if needs then s'.rsvRequest h (headDemand (s'.shSet h)) else (true, s')
  if r.1 then commitAfter o [h] repOk r.2 else (.done (rep .noResource (uHead h)), s.incReg (kHAL + 0xC))

/-! ## Every cause of a set (R99, R101, R106) -/

/-- The causes that a swap finds in a set of head h, other than the canvas and the reservation. -/
def State.setCauses (s : State) (h : Nat) (g : Nat → Word) : List Nat :=
  timingCauses (s.featFor h) g ++ planeCauses s (s.featFor h) g ++ spriteCauses s g ++ beamCauses s g ++ composeCauses g ++ wbCauses s g
    ++ s.mantelCause h g ++ s.streamCause h g ++ crcCauses g

/-- The lowest cause, 0 for none. -/
def lowest (l : List Nat) : Nat := (l.foldl (fun m c => if m = 0 ∨ c < m then c else m) 0)

/-! ## WRITEBACK_SET (R237) -/

/-- The checks of `WRITEBACK_SET`: the reply of the first that fails. -/
def writebackSetFault (o : Open) (s : State) : Option Reply :=
  let p := o.pkt
  let h := fld (pw p 0) 0 5
  firstFail [
      s.expertHead h, s.absentHead h, (outside p 0 0x80003F1F, repBadP 0),
      (fld (pw p 2) 8 24 ≠ 0, repBadP 2), (fld (pw p 3) 18 14 ≠ 0, repBadP 3),
      (fld (pw p 1) 0 6 ≠ 0, repAlignP 1), (fld (pw p 3) 0 6 ≠ 0, repAlignP 3), s.commitDisabled o h]

/-- `WRITEBACK_SET`. -/
def beginWritebackSet (o : Open) (s : State) : Started × State :=
  match writebackSetFault o s with
  | some r => (.done r, s)
  | none =>
      let p := o.pkt
      let h := fld (pw p 0) 0 5
      let s' := (((s.stage h 0xAC0 (pw p 0 &&& 0xFFFFFFE0)).stage h 0xAC4 (pw p 1)).stage h 0xAC8 (pw p 2)).stage h 0xACC (pw p 3)
      stageReserved o h (bit (pw p 0) 31) s s'

/-! ## Writeback at work (R239) -/

def State.updWb (s : State) (h : Nat) (f : WbSt → WbSt) : State := s.updHead h fun v => { v with wb := f v.wb }

/-- A pixel joins the line that is being composed. -/
def State.wbFeed (s : State) (h : Nat) (pre fin : Word) : State :=
  let g := s.cmSet h
  if wbEn g then s.updWb h fun w => { w with line := w.line ++ wbPixel (wbFmt g) (if wbTap g then pre else fin) } else s

/-- A line is written; a write that fails marks the frame. -/
def State.wbWrite (s : State) (h a : Nat) (l : List Byte) : State :=
  let r := s.devWrite (uHead h) h a l
  match r.1 with
  | .ok => r.2
  | _ => r.2.updWb h fun w => { w with bad := true }

/-- A composed line is written to its destination, or dropped when the path is full. -/
def State.wbLine (s : State) (h y : Nat) (drop : Bool) : State :=
  let g := s.cmSet h
  if !wbEn g then s
  else
    let l := (s.head h).wb.line
    let s := s.updWb h fun w => { w with line := [] }
    if drop then s.updWb h fun w => { w with drop := some (w.drop.getD y) }
    else
      let buf := if wbDbuf g then (s.frame h).toNat % 2 else 0
      s.wbWrite h (wbDst g + y * wbPitch g + buf * (wbPitch g * gVact g)) l

/-- Step 6 of R10: the writeback frame closes. -/
def State.wbClose (s : State) (h : Nat) : State :=
  let g := s.cmSet h
  let w := (s.head h).wb
  let k := kHD h
  let n := s.frame h
  let s := s.updWb h fun _ => wbInit
  if !wbEn g then s.setReg (k + 0xAD0) 0
  else
    let s := s.setReg (k + 0xAD0) (flag 31 (w.drop.isNone && !w.bad) ||| flag 30 w.drop.isSome
      ||| flag 29 (wbDbuf g && decide (n.toNat % 2 = 1)) ||| wd (w.drop.getD 0 % 2 ^ 14))
    if w.drop.isNone && !w.bad then s.setW64 (k + 0xAD4) n else s

/-! ## The throttle (R317 to R319) -/

/-- `HAL_THROT` follows the gaps; reaching the bound with a gap asked for is reported (R317, R517). -/
def State.throtRefresh (s : State) (want : Nat) : State :=
  let b := s.regF (kHAL + 0x304) 0 13
  let gs := (List.range 16).map s.gap
  let at' := gs.any fun g => decide (b ≤ g) && decide (g ≠ 0)
  let was := s.regB (kHAL + 0x300) 30
  let s := s.setReg (kHAL + 0x300) (flag 31 (gs.any fun g => decide (g ≠ 0)) ||| flag 30 at' ||| wd (gs.foldl max 0))
  if at' && !was then s.loopBound 0x20 (wd want) (wd b) else s

/-- A microsecond of the throttle loop of a subchannel, with so many DEADLINE tags in use, which the Hallway shows from then on (R317, R323) (DEDUCED, log 84). -/
def State.throttle (s : State) (i tags : Nat) : State :=
  let s := s.deadlineTags i tags
  let b := s.regF (kHAL + 0x304) 0 13
  let g := s.gap i
  let g' := if 48 < tags then min b (g + 8) else if tags < 32 then g - 8 else g
  { s with chm := { s.chm with gap := Tbl.set (fun _ => 0) s.chm.gap i g' } }.throtRefresh (g + 8)

/-- A new bound cuts every gap above it at once. -/
def State.throtBound (s : State) (b : Nat) : State :=
  let s := s.setReg (kHAL + 0x304) (wd b)
  let gs : Tbl Nat := (s.chm.gap.map fun (e : Nat × Nat) => (e.1, min b e.2)).filter fun e => decide (e.2 ≠ 0)
  { s with chm := { s.chm with gap := gs } }.throtRefresh (((List.range 16).map s.gap).foldl max 0)

/-! ## HEAD_TIMING (R100) -/

/-- The checks of `HEAD_TIMING`: the reply of the first that fails. -/
def headTimingFault (o : Open) (s : State) : Option Reply :=
  let p := o.pkt
  let w := pw p 0
  let h := fld w 0 5
  firstFail [
      (bit w 6 && !o.hasFeat 0, rep .featureOff 0), (bit w 7 && !o.hasFeat 17, rep .featureOff 17),
      s.expertHead h,
      (bit w 5, repBadP 0),
      (outside p 1 0x3FFF3FFF, repBadP 1), (outside p 2 0x3FFF3FFF, repBadP 2), (outside p 3 0x3FFF3FFF, repBadP 3),
      (outside p 4 0x3FFF3FFF, repBadP 4), (outside p 5 0x7FFFFFFF, repBadP 5),
      s.absentHead h, s.commitDisabled o h]

/-- `HEAD_TIMING`. -/
def beginHeadTiming (o : Open) (s : State) : Started × State :=
  match headTimingFault o s with
  | some r => (.done r, s)
  | none =>
      let p := o.pkt
      let w := pw p 0
      let h := fld w 0 5
      let counts : List Nat := (List.range 4).flatMap fun k => [fld (pw p (k + 1)) 0 14, fld (pw p (k + 1)) 16 14]
      let s := s.each counts.zipIdx fun s (e : Nat × Nat) => s.stage h (4 * e.2) (wd e.1)
      let s := s.stage h 0x20 (pw p 5)
      let s := s.stage h 0x24 (wd (fld w 18 14 * 2 ^ 16) ||| flag 1 (bit w 7) ||| flag 0 (bit w 6))
      let s := s.stage h 0x28 (wd (fld w 8 10))
      commitAfter o [h] repOk s

/-! ## PLANE_SET (R148) -/

/-- The registers that a `PLANE_SET` writes, in the order of its words. -/
def planeRegs (p : Packet) : List Nat :=
  planeBlock (fld (pw p 0) 8 4) (decide (fld (pw p 0) 8 4 < 8) && decide (6 ≤ p.len.toNat) && bit (pw p 1) 30)

/-- The checks of `PLANE_SET`: the reply of the first that fails. -/
def planeSetFault (o : Open) (s : State) : Option Reply :=
  let p := o.pkt
  let h := fld (pw p 0) 0 5
  let l := fld (pw p 0) 8 4
  let bm := decide (8 ≤ l)
  let aff := !bm && decide (6 ≤ p.len.toNat) && bit (pw p 1) 30
  let n := (planeRegs p).length
  match firstFail [
      (aff && !o.hasFeat 5, rep .featureOff 5),
      s.expertHead h,
      (10 ≤ l, repBadP 0), s.absentHead h,
      (p.len.toNat ≠ 5 + n, rep .badLength p.len.toNat),
      (outside p 0 0xF1F, repBadP 0)] with
  | some r => some r
  | none =>
    match planeWordFault p bm n with
    | some r => some r
    | none => firstFail [(aff && decide (2 ≤ l), repBadP 1), s.commitDisabled o h]

/-- `PLANE_SET`. -/
def beginPlaneSet (o : Open) (s : State) : Started × State :=
  match planeSetFault o s with
  | some r => (.done r, s)
  | none =>
      let p := o.pkt
      let h := fld (pw p 0) 0 5
      let l := fld (pw p 0) 8 4
      let s' := s.each (planeRegs p).zipIdx fun s e => s.stage h e.1 (pw p (e.2 + 1))
      let g := s'.shSet h
      let own := if 8 ≤ l then bmEn g (l - 8) && decide (0 < bmW g (l - 8)) && decide (0 < bmH g (l - 8)) && decide (bmFmt g (l - 8) < 6)
        else tpEn g l && tpCellar g l
      stageReserved o h own s s'

/-! ## SPRITE_TABLE (R174, R175) -/

/-- Heads whose staged set places them in canvas c. -/
def State.stagedIn (s : State) (c : Nat) : List Nat :=
  (List.range 32).filter fun h => gCanvasEn (s.shSet h) && decide (gCanvas (s.shSet h) = c)

/-- What a command that stages several heads does after its staging: the enabled ones are committed (R110, R175). -/
def commitHeads (o : Open) (hs : List Nat) (s : State) : Started × State :=
  commitAfter o (hs.filter fun h => (s.head h).enabled) repOk s

/-- `UNIT_EXPERT` for the lowest of the heads that a command would stage. -/
def State.expertAny (s : State) (hs : List Nat) : Bool × Reply :=
  match hs.find? fun h => s.expert (uHead h) with
  | some h => (true, rep .unitExpert (uHead h))
  | none => (false, repOk)

/-- The checks of `SPRITE_TABLE`: the reply of the first that fails. -/
def spriteTableFault (o : Open) (s : State) : Option Reply :=
  let p := o.pkt
  let h := fld (pw p 0) 0 5
  let canvas := bit (pw p 0) 8
  let hs := if canvas then s.stagedIn h else [h]
  let n := fld (pw p 3) 0 13
  firstFail [
      (canvas && !o.hasFeat 1, rep .featureOff 1),
      s.expertAny hs,
      (outside p 0 0xFFFF011F || (canvas && decide (8 ≤ h)), repBadP 0), (fld (pw p 3) 13 19 ≠ 0, repBadP 3),
      (fld (pw p 1) 0 6 ≠ 0, repAlignP 1), (highBits p 1, repBadP 2), (4096 < n, repBadP 3),
      (!canvas && (s.absentHead h).1, (s.absentHead h).2), (hs.isEmpty, rep .okEmpty 0),
      (!canvas && (s.commitDisabled o h).1, (s.commitDisabled o h).2)]

/-- `SPRITE_TABLE`. -/
def beginSpriteTable (o : Open) (s : State) : Started × State :=
  match spriteTableFault o s with
  | some r => (.done r, s)
  | none =>
      let p := o.pkt
      let h := fld (pw p 0) 0 5
      let canvas := bit (pw p 0) 8
      let hs := if canvas then s.stagedIn h else [h]
      let n := fld (pw p 3) 0 13
      let s := s.each hs fun s k =>
        (((s.stage k 0x800 (pw p 0 &&& 0xFFFF0000)).stage k 0x804 (pw p 1)).stage k 0x808 (pw p 2)).stage k 0x80C (wd n)
      commitHeads o hs s

/-! ## CANVAS_SET (R22, R110) -/

/-- The checks of `CANVAS_SET`: the reply of the first that fails. -/
def canvasSetFault (o : Open) (s : State) : Option Reply :=
  let p := o.pkt
  let c := fld (pw p 0) 0 3
  let mask := pw p 1
  let named := (List.range 32).filter (bit mask)
  let leave := (s.stagedIn c).filter fun h => !bit mask h
  let hs := (List.range 32).filter fun h => named.contains h || leave.contains h
  let absent := named.find? fun h => !s.headPresent h
  let first := match named with | h :: _ => (s.shSet h 0, gShared (s.shSet h)) | [] => (0, [])
  let odd := named.find? fun h => decide ((gShared (s.shSet h)).take 9 ≠ first.2.take 9)
  firstFail [
      s.expertAny hs,
      (p.len.toNat ≠ 6 + named.length, rep .badLength p.len.toNat),
      (absent.isSome, (s.absentHead (absent.getD 0)).2),
      (fld (pw p 0) 3 29 ≠ 0, repBadP 0),
      (odd.isSome, rep .configMismatch (uHead (odd.getD 0)))]

/-- `CANVAS_SET`.  A group whose staged sets break R22 is refused with the lowest head that differs from the lowest member (DEDUCED, log 45). -/
def beginCanvasSet (o : Open) (s : State) : Started × State :=
  match canvasSetFault o s with
  | some r => (.done r, s)
  | none =>
      let p := o.pkt
      let c := fld (pw p 0) 0 3
      let mask := pw p 1
      let named := (List.range 32).filter (bit mask)
      let leave := (s.stagedIn c).filter fun h => !bit mask h
      let hs := (List.range 32).filter fun h => named.contains h || leave.contains h
      let s := s.each named.zipIdx fun s e => (s.stage e.1 0x60 (wd (2 ^ 31 + c))).stage e.1 0x64 (pw p (2 + e.2))
      let s := s.each leave fun s h => s.stage h 0x60 (s.hd h 0x60 &&& 0x7FFFFFFF)
      commitHeads o hs s

end Sys2Proof.Machine
end

