-- ==== Sys2Proof/Machine/Scan.lean ====
section
/-! DEFINITION. A head at work within a frame: its output position advances pixel clock by pixel clock, and everything that happens at a position happens there (R8, R18, R124, R156, R179, R205, R222, R239). -/

namespace Sys2Proof.Machine

/-- The planes and the Mantel read line y (R124, R222). -/
def State.readLine (s : State) (h y : Nat) : State :=
  let s := s.each (List.range 10) fun s l => s.readRow h l y
  if s.mantelOn h y then (s.mantelLine h y).mark h tMtRead else s

/-- The fetch position reaches place f of the frame: the program's window ends, or a new line begins for the sequencer and the sprite evaluator (R156, R180, R181). -/
def State.tickFetch (s : State) (h j : Nat) : State :=
  let g := s.cmSet h
  let f := j + lead
  if f = frameLen g then
    let s := s.mark h tWindow
    if s.bsRun h then s.bsEnd h else s
  else if frameLen g < f then s
  else
    let p := posAt g f
    if p.1 ≠ 0 then s
    else
      let s := s.bsNewLine h j
      if p.2 + 1 < gVact g then (s.spriteEval h (p.2 + 1)).mark h tSpEval else s

/-- The tile planes read at the fetch position, and before it reaches a new line that line's table entries (R124, R134, R140). -/
def State.tickTiles (s : State) (h j : Nat) : State :=
  let g := s.cmSet h
  let f := j + lead
  if frameLen g ≤ f then s
  else
    let p := posAt g f
    let n := nextPos g p.1 p.2
    let s := if n.1 = 0 ∧ n.2 < gVact g then s.each (List.range 8) fun s l => s.readEntry h l n.2 else s
    if p.1 < gHact g ∧ p.2 < gVact g then s.tilesFetch h f p.1 p.2 else s

/-- The sprite table load ends and line 0 is evaluated, or it is too late (R156 step 2, R177). -/
def State.tickSprite (s : State) (h j : Nat) : State :=
  let v := (s.head h).sp
  if v.loading && decide (beamIndex (s.cmSet h) 0 0 ≤ j + lead) && decide (j < v.loadAt) then s.spriteLate h
  else if v.loading && decide (v.loadAt ≤ j) then
    (((s.spriteLoaded h).mark h tSpLoaded).spriteEval h 0).mark h tSpEval
  else s

/-- The composer forms the pixel at (x, y), and it goes to the ports, the CRCs and writeback (R205). -/
def State.pixelOut (s : State) (h x y : Nat) : State :=
  let c := s.composeAt h x y
  let s := c.2.mantelTouch h x y
  let m := s.mantelPx h x y
  let fin := m.getD c.1
  ((s.crcPixel h x y c.1 m).wbFeed h c.1 fin).updHead h fun v => { v with out := fin }

/-- The pixel at (x, y); the last one of a line ends the line for writeback (R239). -/
def State.pixel (s : State) (h x y : Nat) (drop : Bool) : State :=
  let s := s.pixelOut h x y
  if x + 1 = gHact (s.cmSet h) then
    (if wbEn (s.cmSet h) then (s.wbLine h y drop).mark h tWbLine else s)
  else s

/-- The programmed LINE event (R16, R18). -/
def State.lineEvent (s : State) (h y : Nat) : State :=
  let w := s.cm h 0x84
  if bit w 31 && decide (fld w 0 14 = y) then s.raiseLine h else s

/-- The output position moves to place j of the frame, and what is due there lands (R189, R190). -/
def State.tickPlace (s : State) (h j : Nat) : State :=
  let p := posAt (s.cmSet h) j
  (s.updHead h fun v => { v with x := p.1, y := p.2 }).bsLandDue h j false

/-- At the start of line y what the line before it held is dropped. -/
def State.lineOpen (s : State) (h y : Nat) : State :=
  let g := s.cmSet h
  s.updHead h fun v => { v with seen := [], ltabs := v.ltabs.filter fun e => decide (y ≤ e.2.1) || decide (gVact g ≤ y) }

/-- At the start of line y the line after it is read (R124, R222). -/
def State.lineReads (s : State) (h y : Nat) : State := if y + 1 < gVact (s.cmSet h) then s.readLine h (y + 1) else s

/-- The output starts line y. -/
def State.tickLine (s : State) (h y : Nat) : State := ((s.lineOpen h y).lineEvent h y).lineReads h y

/-- A voice that waits for the position latches it (R18). -/
def State.tickVoice (s : State) (h x y : Nat) : State :=
  let s' := s.headPosition h x y
  if s'.mus.voices = s.mus.voices then s' else s'.mark h tVoice

/-- What was fetched for places up to j has been used. -/
def State.fetchedPast (s : State) (h j : Nat) : State :=
  if (s.head h).fetched.isEmpty then s else s.updHead h fun v => { v with fetched := v.fetched.filter fun e => decide (j < e.2.1) }

/-- The pixel of place j. -/
def State.tickDraw (s : State) (h j : Nat) (drop : Bool) : State :=
  let g := s.cmSet h
  let p := posAt g j
  if p.2 < gVact g ∧ p.1 < gHact g then (s.pixel h p.1 p.2 drop).fetchedPast h j else s

/-- What the output does at place j, where it has just arrived. -/
def State.tickShow (s : State) (h j : Nat) (drop : Bool) : State :=
  let p := posAt (s.cmSet h) j
  let s := if p.1 = 0 then s.tickLine h p.2 else s
  (s.tickVoice h p.1 p.2).tickDraw h j drop

/-- The output position reaches place j of the frame. -/
def State.tickOut (s : State) (h j : Nat) (drop : Bool) : State := (s.tickPlace h j).tickShow h j drop

/-- The PLL of head h is moving to a new frequency, and its beam stands still (R102) (DEDUCED, log 128). -/
def State.gliding (s : State) (h : Nat) : Bool := s.regB (kHD h + 0xAC) 30

/-- The place of the output position in its frame. -/
def State.place' (s : State) (h : Nat) : Nat := beamIndex (s.cmSet h) (s.head h).x (s.head h).y

/-- A pixel clock begins: nothing has happened in it yet. -/
def State.tickOpen (s : State) (h : Nat) : State := s.updHead h fun v => { v with did := [] }

/-- A pixel clock after the sequencer's part in it. -/
def State.tickRest (s : State) (h j : Nat) (drop : Bool) : State := ((s.tickTiles h j).tickSprite h j).tickOut h j drop

/-- One pixel clock of head h; the boundary cycle itself is `FRAME_BOUNDARY`. -/
def State.tick (s : State) (h : Nat) (drop : Bool) : State :=
  let j := s.place' h + 1
  (State.bsClocks h j 64 ((s.tickOpen h).tickFetch h j)).tickRest h j drop

/-- Pixel clocks that head h still has before its next boundary cycle: none unless it is within a frame and its beam moves. -/
def State.ticksLeft (s : State) (h : Nat) : Nat :=
  if (s.head h).phase = .frame && !s.gliding h then frameLen (s.cmSet h) - 1 - s.place' h else 0

/-- Advance head h until something holds: none when it never does before the boundary. -/
def advanceUntil (h : Nat) (drop : Bool) (p : State → Bool) : Nat → State → Option State
  | 0, _ => none
  | n + 1, s => let s' := s.tick h drop; if p s' then some s' else advanceUntil h drop p n s'

/-- Advance head h to the next pixel clock in which something of a kind happens; without one in the rest of the frame nothing changes. -/
def State.runTo (s : State) (h tag : Nat) : State :=
  (advanceUntil h false (fun s => (s.head h).did.contains tag) (s.ticksLeft h) s).getD s

/-- Advance head h to the end of the line it composes, which writeback writes or drops (R239). -/
def State.runWbLine (s : State) (h : Nat) (drop : Bool) : State :=
  (advanceUntil h drop (fun s => (s.head h).did.contains tWbLine) (s.ticksLeft h) s).getD s

/-- Advance head h to the pixel clock before a position of this frame that it has not reached yet. -/
def State.runBefore (s : State) (h x y : Nat) : Option State :=
  let ready (s : State) : Bool := decide (s.place' h + 1 = beamIndex (s.cmSet h) x y)
  if (s.head h).phase = .frame && !s.gliding h && ready s then some s else advanceUntil h false ready (s.ticksLeft h) s

/-- Advance head h through the rest of its frame. -/
def State.runOut (h : Nat) : Nat → State → State
  | 0, s => s
  | n + 1, s => State.runOut h n (s.tick h false)

/-- A held beam-class write lands as soon as the output has reached an anchor (R190). -/
def State.runLand (s : State) (h : Nat) : State :=
  let held (s : State) : Bool := (s.head h).bs.pend.any fun p =>
    (match p.ev with | .write _ false => true | _ => false) && decide (p.at' ≤ s.place' h)
  if held s then s.bsLandEarly h (s.place' h)
  else match advanceUntil h false (fun s => held s || (s.head h).did.contains tWrite) (s.ticksLeft h) s with
    | some s => if (s.head h).did.contains tWrite then s else s.bsLandEarly h (s.place' h)
    | none => s

/-- A layer's data fails from the pixel at (x, y) on (R154, R219). -/
def State.layerFails (s : State) (h l x y : Nat) : State :=
  match s.runBefore h x y with
  | some s => s.shutter h l y
  | none => s

/-- The Mantel fails (R232): a parity error stands in the line buffer from the pixel at (x, y) on, or the read of line y finds a word of the store uncorrectable, and the head goes on to the pixel that shows it. -/
def State.mantelFails (s : State) (h : Nat) (e : MantelError) (y : Nat) : State :=
  match e with
  | .buffer x =>
    (match s.runBefore h x y with
     | some s => if s.mantelEn h && !s.noContent h then s.mantelFault h y else s
     | none => s)
  | .store i =>
    match (if y = 0 then some s else s.runBefore h 0 (y - 1)) with
    | some s =>
      let s := s.mantelSpoil h i.toNat
      (advanceUntil h false (fun s => s.regB (kMstat h) 31) (s.ticksLeft h) s).getD s
    | none => s

end Sys2Proof.Machine
end

