-- ==== Sys2Proof/Machine/HeadRun.lean ====
section
/-! DEFINITION. The frame boundary and the swap of a head or a canvas, genlock, and the commands that enable, disable and commit heads (R9 to R25, R95 to R120). -/

namespace Sys2Proof.Machine

/-! ## Canvases at work (R24, R111, R112) -/

/-- Head h takes part in the boundaries of its canvas now: it runs and is past its own start. -/
def State.running (s : State) (h : Nat) : Bool :=
  let v := s.head h
  v.enabled && !v.starting && decide (v.phase ≠ .stopped) && decide (v.phase ≠ .joining)

/-- The members of head h's canvas, or h alone, that have passed their own start. -/
def State.started (s : State) (h : Nat) : List Nat := (s.swapGroup h).filter fun k => !(s.head k).starting && decide ((s.head k).phase ≠ .stopped)

/-- The lowest running member of head h's canvas, or h. -/
def State.runLeader (s : State) (h : Nat) : Nat := ((s.swapGroup h).find? s.running).getD h

/-! ## Genlock (R114 to R118) -/

def kGlstat (h : Nat) : Nat := kHD h + 0xA0
def kGlpull (h : Nat) : Nat := kHD h + 0xA4
def kGlphase (h : Nat) : Nat := kHD h + 0xA8
def kPll (h : Nat) : Nat := kHD h + 0xAC
def kGl (o : Nat) : Nat := kDPL + 0xF000 + o

/-- The loop of head h runs. -/
def State.glActive (s : State) (h : Nat) : Bool := s.regB (kGlstat h) 31

/-- The phase of an instant in pixel clocks: the instant minus the genlock target, the nearest one a period apart (R115) (DEDUCED, log 57). -/
def State.glPhase (s : State) (h : Nat) (t : DWord) : Int :=
  let g := s.cmSet h
  let p := (s.reg (kGl 8)).toNat
  let num : Int := ((t.toNat : Int) - ((s.w64 (kGl 0xC)).toNat : Int)) * (gFreq g : Nat) - (gGlofs g * gHtotal g * 1000000000 : Nat)
  let per : Int := ((if p = 0 then frameLen g * 1000000000 else p * gFreq g) : Nat)
  let m := if per = 0 then num else num % per
  rdiv (if 2 * m > per then m - per else m) 1000000000

/-- A value kept within bounds. -/
def clampI (lo hi x : Int) : Int := max lo (min hi x)

/-- `HD_GLPULL` as a number, and stored. -/
def State.glPull (s : State) (h : Nat) : Int := (s.reg (kGlpull h)).toInt
def State.setPull (s : State) (h : Nat) (p : Int) : State := s.setReg (kGlpull h) (iw p)

/-- The pull loop at a boundary cycle (R115, R116): a pull that a new window shuts out approaches it by the 10 ppm of a frame (DESIGN CHOICE, log 112). -/
def State.glMeasure (s : State) (h : Nat) : State :=
  let v := s.head h
  let s := match v.pullNew with
    | some (a, b) => s.updHead h fun v => { v with pullLo := a, pullHi := b, pullNew := none }
    | none => s
  let v := s.head h
  let pull := s.glPull h
  let k := kGlstat h
  if !s.glActive h then (if pull = 0 then s else s.setPull h (pull - clampI (-10000) 10000 pull))
  else if s.leader h ≠ h || !s.gl.seen then s
  else
    let ph := s.glPhase h v.fbt
    let s := s.setReg (kGlphase h) (iw ph)
    if s.regB k 28 then s
    else
      let near := if ph.natAbs ≤ 2 then v.glNear + 1 else 0
      let s := if 8 ≤ near then s.setB k 30 true else if 32 < ph.natAbs then s.setB k 30 false else s
      let d := Config.glDemand ph pull
      let outside := decide (d < v.pullLo) || decide (v.pullHi < d)
      let out := if outside then v.glOut + 1 else 0
      let p := pull + clampI (-10000) 10000 (clampI v.pullLo v.pullHi d - pull)
      let s := (s.setPull h p).updHead h fun v => { v with glNear := min 8 near, glOut := min 4 out, glDemand := d }
      if !outside then s.setB k 29 false
      else if 4 ≤ out && !s.regB k 29 then ((s.setB k 29 true).pulse 24).errRec sevInfo (uHead h) 0x0017 0 .genlockRange (iw p) 0
      else s

/-- The active edge of a pulse of `GENLOCK_IN`, of so many nanoseconds and of high or low level; pulses shorter than 20 ns are ignored.  The active edge is the rising one, or with ININV = 1 the falling one: a pulse of the active level begins with it, and a pulse of the other level ends with it, so that the active level lasts for the rest of the period (R115, R117).  A gap beyond the width of `DPL_GLPERIOD` reads as its largest value (DESIGN CHOICE, log 110). -/
def State.glEdge (s : State) (width : Nat) (high : Bool) : State :=
  if width < 20 then s
  else
    let k := kGl 4
    let seen := s.gl.seen
    let s := if seen then s.setReg (kGl 8) (wd (min 0xFFFFFFFF (s.now - s.w64 (kGl 0xC)).toNat)) else s
    let s := (s.setW64 (kGl 0xC) s.now).setB k 31 true
    let period := (s.reg (kGl 8)).toNat
    let active := if high = s.regB (kGl 0) 30 then period - width else width
    let n := if seen && decide (period < 2 * active) then min 4 (s.gl.long + 1) else 0
    let s := { s with gl := { s.gl with seen := true, long := n } }
    let s := if n = 4 && !s.regB k 30 then (s.setB k 30 true).errRec sevInfo 0x0E 0x0018 0 .ok (s.reg (kGl 8)) 0 else s
    s.each (List.range 32) fun s h => s.setB (kGlstat h) 28 false

/-- No active edge for two nominal frame times of head h: LOST, the pull holds, and LOCKED starts over (R115). -/
def State.glLost (s : State) (h : Nat) : State :=
  let k := kGlstat h
  if !s.glActive h || s.leader h ≠ h || s.regB k 28 then s
  else (((s.setB k 28 true).setB k 30 false).updHead h fun v => { v with glNear := 0 }).errRec sevInfo (uHead h) 0x0017 1 .genlockRange (s.reg (kGlpull h)) 0

/-- What the boundary of head h does to `GENLOCK_OUT` and to the genlock routes that waited for it (R118, R119). -/
def State.glOut (s : State) (h : Nat) : State :=
  let s := if s.regB (kGl 0) 31 && decide (s.regF (kGl 0) 0 5 = h) then { s with gl := { s.gl with outAt := some (s.now + 10) } } else s
  s.each (s.foy.opens.filter fun o => o.begun && o.fin.isNone && decide (o.wait = .genlockOut h)) fun s o =>
    (s.setReg (kGl 0) (pw o.pkt 1)).finishAcc o.acc repOk

/-- The level of `GENLOCK_OUT` (R118). -/
def State.genlockOut (s : State) : Bool :=
  s.regB (kGl 0) 31 && (s.head (s.regF (kGl 0) 0 5)).enabled &&
    match s.gl.outAt with | some t => decide (t.toNat ≤ s.now.toNat) && decide (s.now.toNat < t.toNat + 1000) | none => false

/-- The checks of `ROUTE_SET` of the genlock output: the reply of the first that fails. -/
def routeGenlockFault (o : Open) (s : State) : Option Reply :=
  let p := o.pkt
  let src := fld (pw p 1) 0 5
  firstFail [
      (!o.hasFeat 17, rep .featureOff 17), (pw p 0 ≠ 0x100, repBadP 0), (outside p 1 0xC000001F, repBadP 1), s.absentHead src]

/-- The genlock form of `ROUTE_SET`. -/
def beginRouteGenlock (o : Open) (s : State) : Started × State :=
  match routeGenlockFault o s with
  | some r => (.done r, s)
  | none =>
      let p := o.pkt
      let src := fld (pw p 1) 0 5
      if (s.head src).enabled then (.wait (.genlockOut src), s) else (.done repOk, s.setReg (kGl 0) (pw p 1))

/-- `ROUTE_SET`. -/
def beginRouteSet (o : Open) (s : State) : Started × State :=
  if bit (pw o.pkt 0) 8 then beginRouteGenlock o s else beginRoutePort o s

/-- A member runs on the PLL of its leader: its pull and the state of its loop are the leader's, so that a change of leader, or leaving the canvas, disturbs nothing (R111, R112). -/
def State.followLeader (s : State) (h : Nat) : State :=
  let l := s.leader h
  if l = h then s
  else
    let v := s.head l
    (((s.setReg (kGlstat h) (s.reg (kGlstat l))).setReg (kGlpull h) (s.reg (kGlpull l))).setReg (kGlphase h) (s.reg (kGlphase l))).updHead h
      fun x => { x with glNear := v.glNear, glOut := v.glOut, glAligned := v.glAligned, glDemand := v.glDemand }

/-! ## The boundary cycle, steps 1 to 6 (R10) -/

/-- The beam goes on to a place of its frame within the boundary sequence: every position on the way is reached (R8, R18). -/
def State.headPassed (s : State) (h i : Nat) : State :=
  let g := s.cmSet h
  let j := s.place' h
  let p := posAt g i
  if i ≤ j then s
  else (s.updHead h fun v => { v with x := p.1, y := p.2 }).voiceEvent 3 h fun q =>
    decide (q % 2 ^ 16 < gHtotal g) && decide (q / 2 ^ 16 < gVtotal g) &&
      decide (j < beamIndex g (q % 2 ^ 16) (q / 2 ^ 16)) && decide (beamIndex g (q % 2 ^ 16) (q / 2 ^ 16) ≤ i)

/-- Within the boundary sequence, the beam goes on to the next position that a voice waits for before the swap cycle; without one nothing changes (R18, R21). -/
def State.boundaryEvent (s : State) (h : Nat) : State :=
  let j := s.place' h
  match (List.range (clkPix (s.cmSet h) 256 - j)).find? fun i => decide ((s.headPassed h (j + i + 1)).mus.voices ≠ s.mus.voices) with
  | some i => s.headPassed h (j + i + 1)
  | none => s

/-- Steps 1 to 6: frame N closes. -/
def State.closeFrame (s : State) (h : Nat) : State :=
  let s := (s.bsClose h).spriteClose h
  let s := s.updHead h fun v => { v with bufs := [], ltabs := [], fetched := [], mt := { v.mt with lines := [] } }
  ((((s.shutterClose h).crcClose h).receiptCut h).wbClose h).updMt h fun m => { m with shown := false }

/-- Head h is in its boundary cycle at (0, VACT); it closes a frame if it has shown one (DEDUCED, log 46). -/
def State.boundaryCycle (s : State) (h : Nat) (shown : Bool) : State :=
  let halted := decide ((s.head h).phase = .aligning) || decide ((s.head h).phase = .joining)
  let s := s.updHead h fun v => { v with fbt := s.now, x := 0, y := gVact (s.cmSet h), phase := .boundary, did := [] }
  let s := if shown then s.closeFrame h else s
  let s := (s.glMeasure h).glOut h
  if halted then s else s.headPosition h 0 (gVact (s.cmSet h))

/-- Heads that wait to join the canvas that head h leads carry out a boundary in step with it (R112). -/
def State.joinBoundary (s : State) (h : Nat) : State :=
  if s.runLeader h ≠ h then s
  else s.each ((s.swapGroup h).filter fun k => decide ((s.head k).phase = .joining)) fun s k => s.boundaryCycle k false

/-- The boundary cycle is put off for a coarse alignment, once per activation, on the whole canvas: the leader's loop decides it for the first member that gets there, and the others follow (R114). -/
def State.glCoarse (s : State) (h : Nat) : Bool :=
  let l := s.leader h
  ((s.swapGroup h).any fun k => decide ((s.head k).phase = .aligning)) ||
    (s.glActive l && !(s.head l).glAligned && s.gl.seen && decide (gHtotal (s.cmSet l) < (s.glPhase l s.now).natAbs))

/-- The output position reaches (0, VACT). -/
def State.frameBoundary (s : State) (h : Nat) : State :=
  match (s.head h).phase with
  | .frame =>
    if s.gliding h then s
    else
      let s := State.runOut h (s.ticksLeft h) s
      let coarse := s.glCoarse h
      let s := s.updHead h fun v => { v with glAligned := true }
      if coarse then (s.updHead h fun v => { v with phase := .aligning, x := 0, y := gVact (s.cmSet h), did := [] }).headPosition h 0 (gVact (s.cmSet h))
      else (s.boundaryCycle h true).joinBoundary h
  | .joining => if (s.swapGroup h).any s.running then s else s.boundaryCycle h false
  | _ => s

/-- A coarse genlock halt ends at the target instant, on every halted member (R114). -/
def State.alignEnd (s : State) (h : Nat) : State :=
  s.each ((s.swapGroup h).filter fun k => decide ((s.head k).phase = .aligning)) fun s k => (s.boundaryCycle k true).joinBoundary k

/-- The head PLL locks after t × 100 ns: the timing generator starts at (0, VACT) (R15, R97, R101). -/
def State.pllLock (s : State) (h t : Nat) : State :=
  let v := s.head h
  if v.enabled && v.starting && decide (v.phase = .stopped) then (s.setReg (kPll h) (wd (2 ^ 31 + t % 65536))).boundaryCycle h false else s

/-- A glide ends after t × 100 ns and the beam resumes where it stood; the program has executed meanwhile what did not wait for the beam (R97, R102, R188). -/
def State.glideDone (s : State) (h t : Nat) : State :=
  if s.gliding h then
    let i := s.place' h
    let s := (s.setReg (kPll h) (wd (2 ^ 31 + t % 65536))).updBs h fun b => { b with oc := 257 + 60 * t, op := i, fr := 0 }
    State.bsClocks h i (60 * t + 256) s
  else s

/-! ## The swap cycle, steps 7 to 10 (R10, R24, R95, R102 to R113) -/

/-- The registers with an active copy at their offset + 0x1000 (R146, R216). -/
def rwbOffs : List Nat :=
  (List.range 8).flatMap (fun p => [0x418, 0x41C, 0x420, 0x424].map (· + 0x40 * p))
  ++ (List.range 2).flatMap (fun b => [0x61C, 0x620].map (· + 0x40 * b))
  ++ (List.range 2).flatMap (fun p => (List.range 6).map fun k => 0x680 + 0x20 * p + 4 * k)
  ++ [0xA00, 0xA04, 0xA08] ++ (List.range 11).map fun l => 0xA40 + 4 * l

/-- The committed set takes the shadow set (R95, R96). -/
def State.acceptSet (s : State) (h : Nat) : State :=
  let s := rwsOffs.foldl (fun s o => s.setCm h o (s.hd h o)) s
  (s.updHead h fun v => { v with palC := v.palS, lutC := v.lutS }).setB (kHD h + 0x44) 31 false

/-- Every active copy reloads from the committed set. -/
def State.reloadActive (s : State) (h : Nat) : State :=
  let s := rwbOffs.foldl (fun s o => s.setReg (kHD h + 0x1000 + o) (s.cm h o)) s
  s.updHead h fun v => { v with palA := v.palC, bs := { v.bs with view := [] } }

/-- What a swap cycle does with the commit of a head. -/
inductive Verdict where
  /-- No commit is pending, or a late one passes. -/
  | idle
  | taken
  | refused (cause : Nat)
  /-- Another member of the canvas was refused. -/
  | blocked
  deriving DecidableEq, Repr

/-- A pending commit takes part in this swap: a late one has passed one swap (R108). -/
def State.goNow (s : State) (h : Nat) : Bool := s.go h && (!s.lateWait h || (s.head h).latePassed)

/-- The cause for which the staged set of head h is refused, 0 for none. -/
def State.swapCause (s : State) (want : Nat → Bool) (h : Nat) : Nat :=
  let g := s.shSet h
  lowest (s.setCauses h g ++ rsvCauses s h g ++ s.canvasCause want h)

/-- The verdicts of a swap group (R113). -/
def State.verdict (s : State) (group : List Nat) (h : Nat) : Verdict :=
  let want (k : Nat) : Bool := group.contains k && s.goNow k
  if !want h then .idle
  else
    let c := s.swapCause want h
    if c ≠ 0 then .refused c
    else if group.any fun k => want k && decide (s.swapCause want k ≠ 0) then .blocked else .taken

/-- Timing counts and pixel clock of a set. -/
def timingOf (g : Nat → Word) : List Nat := (List.range 8).map fun k => fld (g (4 * k)) 0 14

/-- Where the beam stands after the swap cycle, `i` pixel clocks after the boundary cycle of the old set (R102). -/
def swapPos (old new : Nat → Word) (i : Nat) : Nat × Nat :=
  if timingOf old = timingOf new then posAt new i
  else
    let x := i % gHtotal old
    if x < gHtotal new then (x, gVact new) else (x - gHtotal new, gVact new + 1)

/-- The swap that an `EXPERT_ENTER` of head h waits for has passed (R46). -/
def State.expertSwapped (s : State) (h : Nat) : State :=
  { s with foy := { s.foy with opens := s.foy.opens.map fun (o : Open) =>
      match o.wait with
      | .expert u false l => if u = uHead h then { o with wait := .expert u true l } else o
      | _ => o } }

/-- Step 7 for one head; the refusal of a late commit ends its wait as its acceptance does (DESIGN CHOICE, log 113). -/
def State.swapOne (s : State) (h : Nat) (vd : Verdict) : State :=
  let k := kHD h
  let old := s.cmSet h
  let v := s.head h
  let late := v.isLate
  let i := s.place' h
  let f := match v.restart with | some n => n | none => s.frame h + 1
  let s := (s.setW64 (kFrame h) f).setW64 (kFbTime h) v.fbt
  let s := match vd with
    | .idle => if s.go h then s.updHead h fun v => { v with latePassed := true } else s
    | .taken => (((s.acceptSet h).setB (k + 0x40) 0 false).setB (k + 0x44) 30 false).noteSwap h true late
    | .refused c =>
      let s := ((s.setB (k + 0x40) 0 false).setB (k + 0x44) 30 false).setB (k + 0x44) 28 true
      ((s.setF (k + 0x44) 16 8 c).errRec sevInfo (uHead h) 0x0010 c .configMismatch (lo32 f) (hi32 f)).noteSwap h false late
    | .blocked => s.setF (k + 0x44) 16 8 0x0E
  let s := s.reloadActive h
  let new := s.cmSet h
  let p := swapPos old new i
  let retimed := decide (timingOf old ≠ timingOf new) || decide (gFreq old ≠ gFreq new)
  let s := if gFreq old = gFreq new then s else s.setB (kPll h) 30 true
  let fr := if gFreq old = gFreq new then 256 * gFreq old % 600000000 else 0
  let org : Nat × Nat × Nat := if retimed then (256, beamIndex new p.1 p.2, fr) else (0, 0, 0)
  let s := s.updHead h fun v => { v with x := p.1, y := p.2, did := [], bs := { v.bs with oc := org.1, op := org.2.1, fr := org.2.2 } }
  let s := if gGlen new = s.glActive h then s
    else if gGlen new then (s.setReg (kGlstat h) 0x80000000).updHead h fun v => { v with glAligned := false, glNear := 0, glOut := 0 }
    else s.setReg (kGlstat h) 0
  let s := s.mantelSwap h
  let s := (match vd with | .taken => s.rsvSwap h | .refused _ => s.rsvSwap h | _ => s).portSwap h retimed
  -- the commands whose commit point is this swap
  (s.finish (.start h) ⟨.ok, 0, lo32 f, hi32 f, 0⟩).expertSwapped h

/-- The head stops: its PLL, its reservation, its ports (R15, R101, R250, R314) (DEDUCED, log 60). -/
def State.stopHead (s : State) (h : Nat) : State :=
  let s := (s.setReg (kPll h) (s.reg (kPll h) &&& 0x3FFFFFFF)).setReg (kGlstat h) 0
  let s := (s.setRsv h 0).portsHeadOff h
  s.updHead h fun v => { v with enabled := false, phase := .stopped, disabling := false, starting := false, restart := none,
                                x := 0, y := 0, sp := spInit, bufs := [], ltabs := [], fetched := [],
                                ig := { v.ig with crcs := [], raised := false } }

/-- Head h begins to join a running canvas: some other member of it runs and is not in the group that swaps now (R112). -/
def State.joins (s : State) (group : List Nat) (h : Nat) : Bool :=
  gCanvasEn (s.cmSet h) && (s.members (gCanvas (s.cmSet h))).any fun k => !group.contains k && !(s.head k).starting && decide ((s.head k).phase ≠ .stopped)

/-- Swap cycle + 1, steps 8 to 10, for one head, whose beam has gone on by a composer clock unless its PLL glides (R102).  A `HEAD_DISABLE` that has executed by the swap cycle stops the head here (DEDUCED, log 102). -/
def State.swapNext (s : State) (group : List Nat) (h : Nat) : State :=
  let s := if s.gliding h then s else s.headPassed h ((s.head h).bs.pix (s.cmSet h) 257)
  let s := s.headFrame h
  let w := s.cm h 0x84
  let line := fld w 0 14
  let s := if bit w 31 && decide (line < gVtotal (s.cmSet h)) && decide (beamIndex (s.cmSet h) 0 line ≤ s.place' h) then s.raiseLine h else s
  let f := s.frame h
  let v := s.head h
  let s := if v.starting && v.disabling then s else s.updHead h fun v => { v with starting := false, restart := none }
  if v.disabling then
    let s := s.stopHead h
    s.finish (.bnd h) ⟨.ok, 0, lo32 f, hi32 f, 0⟩
  else if s.joins group h then
    s.updHead h fun v => { v with phase := .joining, x := 0, y := gVact (s.cmSet h) }
  else
    let s := s.updHead h fun v => { v with phase := .frame }
    (((s.spriteStart h).bsStart h (s.place' h)).readLine h 0)

/-- The swap cycle of head h's group, once every member has passed its boundary cycle (R11, R24). -/
def State.swapCycle (s : State) (h : Nat) : State :=
  let group := if (s.head h).starting then [h] else (s.swapGroup h).filter fun k => !(s.head k).starting && decide ((s.head k).phase ≠ .stopped) && decide ((s.head k).phase ≠ .joining)
  if (s.head h).phase ≠ .boundary || group.any fun k => decide ((s.head k).phase ≠ .boundary) then s
  else
    let s := (s.each group fun s k => s.headPassed k (clkPix (s.cmSet k) 256)).each group State.followLeader
    let vs := group.map fun k => (k, s.verdict group k)
    let s := s.each vs fun s e => s.swapOne e.1 e.2
    (s.each group fun s k => s.swapNext group k).each group State.recHead

/-! ## HEAD_ENABLE, HEAD_DISABLE, HEAD_COMMIT (R15, R101, R105) -/

/-- Counters since `HEAD_ENABLE`, and the stamps, which it clears (R197). -/
def State.clearCounts (s : State) (h : Nat) : State :=
  (s.each [0x48, 0x81C, 0x92C, 0xA88, 0xB14, 0xE70] fun s o => s.setReg (kHD h + o) 0).updBs h fun b => { b with stamps := [] }

/-- A replayed `HEAD_ENABLE` had committed its set, and its head has been restored: its start has taken effect and is not journaled (R88, R89). -/
def State.resumesStart (s : State) (o : Open) (h : Nat) : Bool :=
  let v := s.head h
  o.replay && v.enabled && v.starting && v.restart.isSome && (match s.jAt o.idx with | some e => decide (e.state = .staged) | none => false)

/-- The checks of `HEAD_ENABLE`: the reply of the first that fails. -/
def headEnableFault (o : Open) (s : State) : Option Reply :=
  let p := o.pkt
  let h := fld (pw p 0) 0 5
  firstFail [
      s.expertHead h, s.absentHead h, (fld (pw p 0) 5 27 ≠ 0, repBadP 0), ((s.head h).enabled && !s.resumesStart o h, rep .okEmpty 0)]

/-- `HEAD_ENABLE`; one that is replayed after its start waits for the restart boundary. -/
def beginHeadEnable (o : Open) (s : State) : Started × State :=
  match headEnableFault o s with
  | some r => (.done r, s)
  | none =>
      let p := o.pkt
      let h := fld (pw p 0) 0 5
      let k := kHD h
      let g := s.shSet h
      if s.resumesStart o h then (.wait (.start h), s)
      else
      let c := lowest (s.setCauses h g ++ s.canvasCause (fun x => decide (x = h)) h)
      if c ≠ 0 then (.done (rep .configMismatch (uHead h)), (s.setB (k + 0x44) 28 true).setF (k + 0x44) 16 8 c)
      else
        let r := s.rsvRequest h (headDemand g)
        if !r.1 then (.done (rep .noResource (uHead h)), r.2)
        else
          let s := ((r.2.acceptSet h).clearCounts h).setW64 (kFrame h) 0
          let s := (s.setReg (kPll h) (s.reg (kPll h) &&& 0xFFFF)).setB (k + 0xE54) 31 false
          let s := s.updHead h fun v => { v with enabled := true, starting := true, restart := none, phase := .stopped, disabling := false,
                                                 ig := { v.ig with crcs := [], raised := false } }
          (.wait (.start h), ((s.portsHeadOn h).jState o.idx .staged).recHead h)

/-- The checks of `HEAD_DISABLE`: the reply of the first that fails. -/
def headDisableFault (o : Open) (s : State) : Option Reply :=
  let p := o.pkt
  let h := fld (pw p 0) 0 5
  firstFail [s.expertHead h, s.absentHead h, (fld (pw p 0) 5 27 ≠ 0, repBadP 0), (!(s.head h).enabled, rep .okEmpty 0)]

/-- `HEAD_DISABLE`. -/
def beginHeadDisable (o : Open) (s : State) : Started × State :=
  match headDisableFault o s with
  | some r => (.done r, s)
  | none =>
      let p := o.pkt
      let h := fld (pw p 0) 0 5
      (.wait (.bnd h), s.updHead h fun v => { v with disabling := true })

/-- The checks of `HEAD_COMMIT`: the reply of the first that fails. -/
def headCommitFault (o : Open) (s : State) : Option Reply :=
  let m := pw o.pkt 0
  let hs := (List.range 32).filter (bit m)
  let absent := hs.find? fun h => !s.headPresent h
  let off := hs.find? fun h => !(s.head h).enabled
  firstFail [
      s.expertAny hs, (absent.isSome, (s.absentHead (absent.getD 0)).2), (hs.isEmpty, rep .okEmpty 0),
      (off.isSome, rep .notReady (uHead (off.getD 0)))]

/-- `HEAD_COMMIT`. -/
def beginHeadCommit (o : Open) (s : State) : Started × State :=
  match headCommitFault o s with
  | some r => (.done r, s)
  | none =>
      let m := pw o.pkt 0
      let hs := (List.range 32).filter (bit m)
      (.wait (.swap m 0 0 false), (s.jState o.idx .staged).each hs State.requestCommit)

/-! ## The pull window (R116) -/

/-- `CLOCK_POLICY` of loop 0x40 + h: the window is stored for the next boundary, and the reply tells whether the demand lies outside it. -/
def beginPullWindow (h : Nat) (lo hi : Int) (s : State) : Started × State :=
  match firstFail [
      (decide (lo < -1000000) || decide (1000000 < lo) || decide (hi < lo), repBadP 1),
      (decide (hi < -1000000) || decide (1000000 < hi), repBadP 2)] with
  | some r => (.done r, s)
  | none =>
      let d := (s.head h).glDemand
      let out := s.glActive h && decide (s.leader h = h) && (decide (d < lo) || decide (hi < d))
      (.done (if out then rep .genlockRange (uHead h) else repOk), s.updHead h fun v => { v with pullNew := some (lo, hi) })

end Sys2Proof.Machine
end

