-- ==== Sys2Proof/Machine/Mix.lean ====
section
/-! DEFINITION. The mix graph: number format, program checks, compilation, and one run of a program (R362, R376 to R388). -/

namespace Sys2Proof.Machine

/-! ## Working values (R362) -/

/-- Saturation at the range of signed 32-bit values with 24 fraction bits. -/
def sat (x : Int) : Int := max (-2147483648) (min 2147483647 x)

/-- A product of two working values, or of a value and a factor with `f` fraction bits. -/
def mulF (f : Nat) (a b : Int) : Int := sat (rdiv (a * b) (2 ^ f))

/-- A sum of two working values. -/
def addS (a b : Int) : Int := sat (a + b)

/-- 1.0. -/
def one24 : Int := 16777216

/-- The signed value of a word. -/
def sw (w : Word) : Int := w.toInt

/-- What a port slot takes of a working value: saturated to ±1, then the 24-bit sample floor(v / 2) (R378). -/
def toSample (v : Int) : Int := min 8388607 (max (-one24) (min one24 v) / 2)

/-! ## Records (R377, R378) -/

def rw (r : List Word) (j : Nat) : Word := r.getD j 0
def rType (r : List Word) : Nat := fld (rw r 0) 24 8
def rCh (r : List Word) : Nat := fld (rw r 0) 21 3 + 1
def rNin (r : List Word) : Nat := fld (rw r 0) 16 5
def rId (r : List Word) : Nat := fld (rw r 0) 0 8
def rIn (r : List Word) (k : Nat) : Nat := fld (rw r (1 + k / 4)) (8 * (k % 4)) 8
def rIns (r : List Word) : List Nat := (List.range (rNin r)).map (rIn r)
/-- Parameter word Qk. -/
def rQ (r : List Word) (k : Nat) : Word := rw r (5 + k)

/-- Cost of a node in clocks (R378, R380). -/
def rCost (r : List Word) : Nat :=
  4 + match rType r with
    | 0x04 => rNin r * rCh r
    | 0x06 => 5 * (fld (rQ r 0) 0 1 + 1) * rCh r
    | 0x07 => 2 * rCh r
    | _ => rCh r

def progCost (recs : List (List Word)) : Nat := (recs.map rCost).sum

/-- The sample rate by its code (R390). -/
def rateHz (code : Nat) : Nat := if code = 0 then 44100 else if code = 1 then 48000 else 96000

/-- The budget at a rate (R380). -/
def mixBudget (code : Nat) : Nat := 600000000 / rateHz code - 256

/-- The parameter words of a type: the bits each may hold. -/
def qMask (typ k : Nat) : Word :=
  match typ with
  | 0x02 => if k = 0 then 0xF1 else 0
  | 0x03 => if k < 8 then 0xFFFFFFFF else 0
  | 0x05 => if k < 2 then 0xFFFFFFFF else 0
  | 0x06 => if k = 0 then 1 else 0xFFFFFFFF
  | 0x07 => if k = 0 then 0xFF else if k = 1 then 0x1FFFF else 0
  | 0x08 => if k = 0 then 0x80000F1F else 0
  | _ => 0

/-- Cause 0x03 of a record: type, reserved bits, NIN, parameter ranges. -/
def recBad (r : List Word) : Bool :=
  let t := rType r
  let n := rNin r
  let d := fld (rQ r 1) 0 17
  decide (t = 0) || decide (8 < t) || decide (rw r 0 &&& 0x00000300 ≠ 0) ||
  (match t with
   | 0x01 => decide (n ≠ 0)
   | 0x02 => decide (n ≠ 0)
   | 0x04 => decide (n < 1) || decide (16 < n)
   | _ => decide (n ≠ 1)) ||
  ((List.range 16).any fun k => decide (n ≤ k) && decide (rIn r k ≠ 0)) ||
  ((List.range 11).any fun k => decide (rQ r k &&& ~~~ qMask t k ≠ 0)) ||
  (decide (t = 7) && (decide (d < 1) || decide (65536 < d))) ||
  (decide (t = 8) && !bit (rQ r 0) 31 && decide (7 < fld (rQ r 0) 0 5))

/-- The port slots an OUT record feeds: 1024 + 32 × port + slot for TDM, 32 × port + channel for a display port. -/
def outKeys (r : List Word) : List Nat :=
  let q := rQ r 0
  (List.range (rCh r)).map fun c =>
    if bit q 31 then 32 * fld q 0 5 + (fld q 8 4 + c) else 1024 + 32 * fld q 0 5 + (fld q 8 4 + c)

/-- The NODEIDs that a list of NODEIDs leads back to through the inputs of a graph, in n steps. -/
def mixReach (recs : List (List Word)) : Nat → List Nat → List Nat
  | 0, ids => ids
  | n + 1, ids => mixReach recs n (ids ++ (recs.filter fun r => ids.contains (rId r)).flatMap rIns).dedup

/-- The lowest cause of record i of a program, among 0x03 to 0x06, 0x09, 0x0A, 0x0B (R382). -/
def State.recCause (s : State) (recs : List (List Word)) (compiled : Bool) (i : Nat) : Option Nat :=
  let r := recs.getD i []
  let find (n : Nat) : Option (List Word) := recs.find? fun x => decide (rId x = n)
  let ins := rIns r
  let t := rType r
  let earlier := recs.take i
  let reg := fld (rQ r 0) 0 8
  if recBad r then some 3
  else if (earlier.any fun x => decide (rId x = rId r)) || (ins.any fun n => (find n).isNone) then some 4
  else if (decide (t ≠ 5) && ins.any fun n => match find n with | some x => decide (rCh x ≠ rCh r) | none => false) ||
      (decide (t = 5) && (List.range (rCh r)).any fun c =>
        let m := fld (rQ r 0) (4 * c) 4
        decide (m ≠ 0xF) && match find (rIn r 0) with | some x => decide (rCh x ≤ m) | none => false) then some 5
  else if (if compiled then ins.any fun n => !(earlier.any fun x => decide (rId x = n)) else (mixReach recs recs.length ins).contains (rId r)) then some 6
  else if ins.any fun n => match find n with | some x => decide (rType x = 8) | none => false then some 9
  else if decide (t = 8) && earlier.any fun x => decide (rType x = 8) && (outKeys x).any fun k => (outKeys r).contains k then some 0xA
  else if decide (t = 7) && !(s.panLarder reg && s.panValid reg && !s.panSealed reg &&
      decide (fld (rQ r 1) 0 17 * rCh r * 4 ≤ s.panSize reg)) then some 0xB
  else none

/-- Order the records so that every input stands earlier, the lower position first (R381); none when there is a cycle. -/
def mixOrder : Nat → List (List Word) → List (List Word) → Option (List (List Word))
  | _, done, [] => some done
  | 0, _, _ => none
  | n + 1, done, left =>
    match left.find? fun r => (rIns r).all fun k => done.any fun x => decide (rId x = k) with
    | some r => mixOrder n (done ++ [r]) (left.erase r)
    | none => none

/-- A file's check (R382): the first cause and the record it lies in, or the program to run, compiled. -/
def State.mixCheck (s : State) (hdr : List Word) (recs : List (List Word)) (wantCompiled : Bool) (budget extra : Nat) :
    Except (Nat × Nat) MixBank :=
  let magic := if wantCompiled then (0x3143474D : Word) else 0x3152474D
  let nn := fld (rw hdr 1) 0 9
  let cost := progCost recs
  if rw hdr 0 ≠ magic then .error (1, 0)
  else if 256 < nn ∨ rw hdr 1 &&& 0x7FFFFE00 ≠ 0 ∨ rw hdr 2 &&& 0xFFFF0000 ≠ 0 ∨ rw hdr 3 ≠ 0 ∨
      (¬ wantCompiled ∧ rw hdr 2 ≠ 0) then .error (2, 0)
  else match (List.range recs.length).findSome? fun i => (s.recCause recs wantCompiled i).map fun c => (c, i) with
    | some e => .error e
    | none =>
      match if wantCompiled then some recs else mixOrder recs.length [] recs with
      | none => .error (6, 0)
      | some ordered =>
        if wantCompiled ∧ fld (rw hdr 2) 0 16 ≠ cost then .error (7, 0)
        else if budget < cost + extra then .error (8, 0)
        else .ok ⟨[0x3143474D, rw hdr 1, wd cost, 0], ordered⟩

/-! ## One run of the program (R378 to R381) -/

/-- The program that a bank holds: the NN records that its header names (R376). -/
def MixBank.prog (m : MixBank) : MixBank :=
  let n := fld (rw m.hdr 1) 0 9
  ⟨m.hdr, (m.recs ++ List.replicate (n - m.recs.length) (List.replicate 16 0)).take n⟩

/-- The check of a staged program at a commit (R382, R386); the empty program of a reset passes (R383). -/
def State.mixStagedBad (s : State) (m : MixBank) (budget extra : Nat) : Option Nat :=
  if m.hdr.all (· = 0) then none
  else match s.mixCheck m.hdr m.recs true budget extra with
    | .error (c, _) => some c
    | .ok _ => none

/-- State of a node before anything has passed it. -/
def nodeInit (r : List Word) : NodeSt := ⟨rId r, rType r, rCh r, [], one24, one24, 64, 0⟩

/-- The node states a new program begins with: kept where NODEID, TYPE and channel count match (R387). -/
def nodesFor (old : List NodeSt) (recs : List (List Word)) : List NodeSt :=
  recs.map fun r => (old.find? fun n => decide (n.node = rId r) && decide (n.typ = rType r) && decide (n.ch = rCh r)).getD (nodeInit r)

/-- ⌈log2 K⌉. -/
def clog2 (k : Nat) : Nat := if k ≤ 1 then 0 else (k - 1).log2 + 1

/-- The scale a node applies now (R379). -/
def scaleNow (n : NodeSt) : Int := if 64 ≤ n.scK then n.sc1 else n.sc0 + rdiv ((n.sc1 - n.sc0) * n.scK) 64

/-- The scale at a boundary: its ramp goes on, and a new target starts a new one (R379). -/
def scaleStep (r : List Word) (n : NodeSt) (k : Nat) : NodeSt :=
  let w := rw r 0
  if !bit w 15 then { n with sc0 := one24, sc1 := one24, scK := 64 }
  else
    -- the scale holds while K = 0 (DEDUCED, log 124)
    if k = 0 then { n with sc0 := scaleNow n, sc1 := scaleNow n, scK := 64 }
    else
    let n := { n with scK := min 64 (n.scK + 1) }
    let target : Int := if bit w 14 then one24 / 2 ^ fld w 10 4 else one24 / 2 ^ clog2 k
    if target = n.sc1 then n else { n with sc0 := scaleNow n, sc1 := target, scK := 0 }

/-- What the inputs of the graph are in one period. -/
structure MixIn where
  /-- Sum of the voices on channel c of bus node n, and how many voices play on it. -/
  bus : Nat → Nat → Int
  voices : Nat → Nat
  /-- Slot k of input port p as a working value, and whether the port is locked. -/
  tdm : Nat → Nat → Int
  locked : Nat → Bool

/-- One biquad section on one value: history x1, x2, y1, y2 (R378). -/
def biquad (q : Nat → Int) (x : Int) (h : Int × Int × Int × Int) : Int × (Int × Int × Int × Int) :=
  let m := mulF 28
  let y := addS (addS (addS (addS (m (q 0) x) (m (q 1) h.1)) (m (q 2) h.2.1)) (sat (- m (q 3) h.2.2.1))) (sat (- m (q 4) h.2.2.2))
  (y, (x, h.1, y, h.2.2.1))

/-- The output channels of one record, its new state, and whether it is active. -/
def nodeRun (e : MixIn) (r : List Word) (n : NodeSt) (ins : List (List Int × Bool)) : List Int × NodeSt × Bool :=
  let ch := List.range (rCh r)
  let x (k c : Nat) : Int := ((ins.getD k ([], false)).1).getD c 0
  let anyIn := ins.any (·.2)
  match rType r with
  | 0x01 =>
    let k := e.voices (rId r)
    let n := scaleStep r n k
    (ch.map fun c => if k = 0 then 0 else mulF 24 (e.bus (rId r) c) (scaleNow n), n, decide (0 < k))
  | 0x02 =>
    let p := fld (rQ r 0) 0 1
    (ch.map fun c => if e.locked p then e.tdm p (fld (rQ r 0) 4 4 + c) else 0, n, e.locked p)
  | 0x03 => (ch.map fun c => mulF 24 (x 0 c) (sw (rQ r c)), n, anyIn)
  | 0x04 =>
    let k := (ins.filter (·.2)).length
    let n := scaleStep r n k
    (ch.map fun c => if k = 0 then 0 else mulF 24 ((List.range ins.length).foldl (fun a i => addS a (x i c)) 0) (scaleNow n), n, anyIn)
  | 0x05 =>
    (ch.map fun c =>
      let m := fld (rQ r 0) (4 * c) 4
      if m = 0xF then 0 else mulF 24 (x 0 m) (sw (rQ r 1)), n, anyIn)
  | 0x06 =>
    let sections := fld (rQ r 0) 0 1 + 1
    let hist (i : Nat) : Int := n.hist.getD i 0
    let run (c : Nat) : Int × List Int :=
      (List.range 2).foldl (fun (a : Int × List Int) sct =>
        let b := (c * 2 + sct) * 4
        let h := (hist b, hist (b + 1), hist (b + 2), hist (b + 3))
        if sct < sections then
          let y := biquad (fun k => sw (rQ r (1 + 5 * sct + k))) a.1 h
          (y.1, a.2 ++ [y.2.1, y.2.2.1, y.2.2.2.1, y.2.2.2.2])
        else (a.1, a.2 ++ [h.1, h.2.1, h.2.2.1, h.2.2.2])) (x 0 c, [])
    let rs := ch.map run
    (rs.map (·.1), { n with hist := rs.flatMap (·.2) }, anyIn)
  | 0x07 =>
    let d := fld (rQ r 1) 0 17
    let k := rCh r
    let out := ch.map fun c => n.hist.getD ((d - 1) * k + c) 0
    let act := anyIn || decide (0 < n.hang)
    (out, { n with hist := (ch.map (x 0) ++ n.hist).take (d * k), hang := if anyIn then d else n.hang - 1 }, act)
  | _ => (ch.map (x 0), n, anyIn)

/-- Run a program in list order: the values its OUT nodes hand over, by port slot, and the new node states. -/
def mixRun (e : MixIn) (recs : List (List Word)) (nodes : List NodeSt) : Tbl Int × List NodeSt :=
  let r := (recs.zip nodes).foldl (fun (a : List (Nat × (List Int × Bool)) × Tbl Int × List NodeSt) rn =>
    let ins := (rIns rn.1).map fun k => ((a.1.find? fun v => decide (v.1 = k)).map (·.2)).getD ([], false)
    let y := nodeRun e rn.1 rn.2 ins
    let outs := if rType rn.1 = 8 then ((outKeys rn.1).zip y.1).foldl (fun t kv => Tbl.set (fun _ => 0) t kv.1 kv.2) a.2.1 else a.2.1
    (a.1 ++ [(rId rn.1, (y.1, y.2.2))], outs, a.2.2 ++ [y.2.1])) ([], [], [])
  (r.2.1, r.2.2)

/-- Crossfade of two outputs, step k of 64 (R388). -/
def mixFade (a b : Tbl Int) (k : Nat) : Tbl Int :=
  ((a.map (·.1) ++ b.map (·.1)).dedup).foldl (fun t i =>
    let x := Tbl.get (fun _ => 0) a i
    let y := Tbl.get (fun _ => 0) b i
    Tbl.set (fun _ => 0) t i (x + rdiv ((y - x) * k) 64)) []

end Sys2Proof.Machine
end

