-- ==== Sys2Proof/Machine/Music.lean ====
section
/-! DEFINITION. The Music Room: voices, ports, commands and the sample boundary (R360 to R397). -/

namespace Sys2Proof.Machine

/-! ## Registers -/

def kMStat : Nat := kMUS
def kPcfg (k : Nat) : Nat := kMUS + 0x100 + 0x10 * k
def kDpcfg (p : Nat) : Nat := kMUS + 0x200 + 4 * p
def kVstat (v : Nat) : Nat := kVc v + 0x2C

/-- The clock code of `MUS_STAT.CLOCK`: the sample rate. -/
def State.musRate (s : State) : Nat := s.regF kMStat 0 2

/-- PLAY and ARMED of voice v. -/
def State.playing (s : State) (v : Nat) : Bool := s.regB (kVstat v) 31
def State.voiceArmed (s : State) (v : Nat) : Bool := s.regB (kVstat v) 30

/-- The voices something holds or plays. -/
def State.someVoices (s : State) : List Nat := (s.mus.voices.map (·.1)).filter (· < 576)

/-- `MUS_COST` follows the clock and the active program. -/
def State.musCost (s : State) : State :=
  s.setReg (kMUS + 0x14) (wd (mixBudget s.musRate * 65536 + progCost s.mus.active.recs))

/-! ## Blocks (R363, R368) -/

/-- Word Pk of a block of P3 and on. -/
def bw (b : List Word) (k : Nat) : Word := b.getD (k - 3) 0

/-- A tone voice. -/
def isTone (v : Nat) : Bool := decide (512 ≤ v)

def bStereo (b : List Word) : Bool := bit (bw b 3) 29
def bBytes (b : List Word) : Nat := (2 ^ fld (bw b 3) 30 2) * (if bStereo b then 2 else 1)
def bDirect (b : List Word) : Bool := bit (bw b 3) 24
def bEirq (b : List Word) : Bool := bit (bw b 3) 23
def bDest (b : List Word) : Nat := fld (bw b 3) 8 8
def bSrc (b : List Word) : Nat := (bw b 4).toNat + 2 ^ 32 * fld (bw b 5) 0 8
def bLen (v : Nat) (b : List Word) : Nat := (bw b (if isTone v then 5 else 6)).toNat
def bGl (v : Nat) (b : List Word) : Word := bw b (if isTone v then 6 else 9)
def bGr (v : Nat) (b : List Word) : Word := bw b (if isTone v then 7 else 10)
def bGramp (v : Nat) (b : List Word) : Nat := fld (bw b (if isTone v then 8 else 11)) 0 16

/-- A BUS node of a program. -/
def isBus (m : MixBank) (n : Nat) : Bool := m.recs.any fun r => decide (rId r = n) && decide (rType r = 1)

/-- Checks 2 to 7 of R372 on an arm: P1, P2 and the block. -/
def State.voiceFault (s : State) (v : Nat) (p1 p2 : Word) (b : List Word) : Option Reply :=
  let kind := fld p1 28 4
  let src := fld p1 16 6
  let tone := isTone v
  let len := bLen v b
  let w3 := bw b 3
  firstFail [
    (decide (4 < kind) || decide (kind = 0 ∧ src ≠ 0) || (decide (1 ≤ kind ∧ kind ≤ 3) && decide (31 < src)) ||
      (decide (p2 ≠ 0) && decide (kind ≠ 3)), repBadP 1),
    (decide (p1 &&& 0x0FC0FFFF ≠ 0), repBadP 1),
    (decide (p2 &&& 0xC000C000 ≠ 0), repBadP 2),
    ((if tone then decide (w3 &&& 0x0E470000 ≠ 0) || decide (fld w3 30 2 = 3)
      else decide (w3 &&& 0x00470000 ≠ 0) || decide (fld w3 30 2 = 3) || decide (fld w3 27 2 = 3) || decide (fld w3 25 2 = 3)) ||
       (bDirect b && bit w3 11), repBadP 3),
    (!tone && decide (bw b 5 &&& 0xFFFFFF00 ≠ 0), repBadP 5),
    (if tone then decide (fld (bw b 8) 16 16 ≠ 0) else decide (bw b 8 = 0) || decide (0x80000 < (bw b 8).toNat), repBadP 8),
    (!tone && decide (bSrc b % bBytes b ≠ 0), repAlignP 4),
    (!tone && decide (0 < len) && !(match s.place (bSrc b) (len * bBytes b) with
      | .cellar _ => true | .larder _ => true | _ => false), repBadP 4),
    (!tone && decide (fld w3 25 2 ≠ 0) && decide (len ≤ (bw b 7).toNat) && decide (0 < len), repBadP 7),
    (!bDirect b && !isBus s.mus.active (bDest b), repBadP 3),
    s.absentBit 6,
    (decide (1 ≤ kind ∧ kind ≤ 3) && !s.headPresent src, repBad (0x20 + src / 8))]

/-! ## Commands (R370 to R374, R384 to R386, R390 to R394) -/

/-- The register block that a `VOICE_START` carries. -/
def startBlock (p : Packet) : List Word := (List.range (if isTone (fld (pw p 0) 0 10) then 6 else 9)).map fun k => pw p (3 + k)

/-- The checks of `VOICE_START`: the reply of the first that fails. -/
def voiceStartFault (o : Open) (s : State) : Option Reply :=
  let v := fld (pw o.pkt 0) 0 10
  match firstFail [(decide (512 ≤ v ∧ v < 576) && !o.hasFeat 6, rep .featureOff 6), s.expertUnit 0x0B,
      (decide (575 < v) || outside o.pkt 0 0x3FF, repBadP 0),
      (decide (o.pkt.len.toNat ≠ if isTone v then 13 else 16), rep .badLength o.pkt.len.toNat)] with
  | some r => some r
  | none => s.voiceFault v (pw o.pkt 1) (pw o.pkt 2) (startBlock o.pkt)

/-- `VOICE_START` (R370, R372): registers the arm. -/
def beginVoiceStart (o : Open) (s : State) : Started × State :=
  match voiceStartFault o s with
  | some r => (.done r, s)
  | none =>
      let v := fld (pw o.pkt 0) 0 10
      let blk := startBlock o.pkt
      let s := s.setVoice v { s.voice v with arm := some (pw o.pkt 1 :: pw o.pkt 2 :: blk), event := none }
      let s := (s.setReg (kVc v + 0x24) (pw o.pkt 1)).setReg (kVc v + 0x28) (pw o.pkt 2)
      (.done repOk, s.setB (kVstat v) 30 true)

/-- The checks of `VOICE_STOP`: the reply of the first that fails. -/
def voiceStopFault (o : Open) (s : State) : Option Reply :=
  let v := fld (pw o.pkt 0) 0 10
  firstFail [s.expertUnit 0x0B, s.absentBit 6, (decide (575 < v) || outside o.pkt 0 0x800003FF, repBadP 0)]

/-- `VOICE_STOP` (R374). -/
def beginVoiceStop (o : Open) (s : State) : Started × State :=
  match voiceStopFault o s with
  | some r => (.done r, s)
  | none =>
      let v := fld (pw o.pkt 0) 0 10
      let x := s.voice v
      if !s.playing v && !s.voiceArmed v && x.changes.isEmpty then (.done (rep .okEmpty 0), s)
      else
        let ramp := bit (pw o.pkt 0) 31 && s.playing v
        let x := if ramp then
            { x with stopRamp := some (x.stopRamp.getD 64), gl0 := x.gl, gr0 := x.gr, gl1 := 0, gr1 := 0, rampN := 64, rampK := 0 }
          else { x with stopNow := true }
        (.wait .smp, s.setVoice v { x with stopAccs := x.stopAccs ++ [o.acc] })

/-- The selected values of a `VOICE_PARAM` are checked as in R372 steps 3 and 6 (R373). -/
def State.paramFault (s : State) (v : Nat) (p : Nat → Word) : Option Reply :=
  let sel := p 1
  firstFail [
    (decide (sel &&& 0xFFFFFFF0 ≠ 0), repBadP 1),
    (bit sel 1 && !isTone v && (decide (p 4 = 0) || decide (0x80000 < (p 4).toNat)), repBadP 4),
    (bit sel 2 && decide (p 5 &&& ~~~ (0x0138FF00 : Word) ≠ 0), repBadP 5),
    (bit sel 2 && bit (p 5) 24 && bit (p 5) 11, repBadP 5),
    (bit sel 2 && !bit (p 5) 24 && !isBus s.mus.active (fld (p 5) 8 8), repBadP 5),
    (bit sel 3 && decide (p 6 &&& 0xFFFFFF00 ≠ 0), repBadP 6)]

/-- The checks of `VOICE_PARAM`: the reply of the first that fails. -/
def voiceParamFault (o : Open) (s : State) : Option Reply :=
  let v := fld (pw o.pkt 0) 0 10
  match firstFail [(decide (512 ≤ v ∧ v < 576) && !o.hasFeat 6, rep .featureOff 6), s.expertUnit 0x0B,
      (decide (o.pkt.len.toNat ≠ 11), rep .badLength o.pkt.len.toNat), s.absentBit 6,
      (decide (575 < v) || outside o.pkt 0 0x3FF, repBadP 0)] with
  | some r => some r
  | none => s.paramFault v (pw o.pkt)

/-- `VOICE_PARAM` (R373). -/
def beginVoiceParam (o : Open) (s : State) : Started × State :=
  match voiceParamFault o s with
  | some r => (.done r, s)
  | none =>
      let v := fld (pw o.pkt 0) 0 10
      let x := s.voice v
      (.wait .smp, s.setVoice v { x with changes := x.changes ++ [(some o.acc, (List.range 6).map fun k => pw o.pkt (1 + k))] })

/-- The records of a graph that has been read are checked and compiled (R384). -/
def State.mixGraphIn (s : State) (n : Nat) (compiled : Bool) (bs : List Byte) : Started × State :=
  let ws := toWords bs
  if n < 16 ∨ n ≠ 16 + 64 * fld (rw ws 1) 0 9 then (.done (repBadP 2), s)
  else
    let recs := (List.range ((n - 16) / 64)).map fun i => (ws.drop (4 + 16 * i)).take 16
    match s.mixCheck (ws.take 4) recs compiled (mixBudget s.musRate) 0 with
    | .ok m => (.done ⟨.ok, 0, wd m.recs.length, wd (progCost m.recs), 0⟩, { s with mus := { s.mus with staged := m } })
    | .error (c, i) => (.done (if c = 8 then rep .noResource 0x0B else repBadP 0), s.setReg (kMUS + 0x18) (wd (c * 65536 + i % 256)))

/-- The source of a graph is read (R384). -/
def State.mixGraphRead (s : State) (a n : Nat) (compiled : Bool) : Started × State :=
  let r := s.devRead 0x0B 0 a n
  match r.1 with
  | .ok bs => r.2.mixGraphIn n compiled bs
  | _ => (.done (rep .uncorr 0x0B), r.2)

/-- The checks of `MIX_GRAPH_LOAD`: the reply of the first that fails. -/
def mixGraphLoadFault (o : Open) (s : State) : Option Reply :=
  let a := pd o.pkt 0
  let n := (pw o.pkt 2).toNat
  firstFail [s.expertUnit 0x0B, s.absentBit 6, (highBits o.pkt 0, repBadP 1), (outside o.pkt 3 1, repBadP 3),
      (!(match s.place a n with | .cellar _ => true | .pantry _ => true | _ => false), repBadP 0)]

/-- `MIX_GRAPH_LOAD` (R384); it begins only after a crossfade has ended (R388). -/
def beginMixGraphLoad (o : Open) (s : State) : Started × State :=
  if s.mus.fadeLeft ≠ 0 then (.later, s)
  else match mixGraphLoadFault o s with
  | some r => (.done r, s)
  | none =>
      let a := pd o.pkt 0
      let n := (pw o.pkt 2).toNat
      s.mixGraphRead a n (bit (pw o.pkt 3) 0)

/-- Word 0 of a record with SCALE, PIN and PINSH replaced, or as it is. -/
def paramWord0 (w p1 : Word) : Word := if bit p1 31 then putFld w 10 6 (fld p1 10 6) else w

/-- The checks of `MIX_PARAM_SET`: the reply of the first that fails. -/
def mixParamSetFault (o : Open) (s : State) : Option Reply :=
  let p1 := pw o.pkt 1
  let first := fld p1 24 4
  let count := fld p1 16 4
  let idx := s.mus.staged.prog.recs.findIdx? fun r => decide (rId r = fld (pw o.pkt 0) 0 8)
  firstFail [s.expertUnit 0x0B, s.absentBit 6, (outside o.pkt 0 0xFF, repBadP 0), (outside o.pkt 1 0x8F0FFC00, repBadP 1),
      (idx.isNone, repBadP 0), (decide (11 < first + count) || decide (o.pkt.len.toNat ≠ 6 + count), repBadP 1)]

/-- `MIX_PARAM_SET` (R385). -/
def beginMixParamSet (o : Open) (s : State) : Started × State :=
  if s.mus.fadeLeft ≠ 0 then (.later, s)
  else match mixParamSetFault o s with
  | some r => (.done r, s)
  | none =>
      let p1 := pw o.pkt 1
      let first := fld p1 24 4
      let count := fld p1 16 4
      let m := s.mus.staged.prog
      let idx := m.recs.findIdx? fun r => decide (rId r = fld (pw o.pkt 0) 0 8)
      let upd (r : List Word) : List Word :=
        (List.range count).foldl (fun (r : List Word) k => r.set (5 + first + k) (pw o.pkt (2 + k))) (r.set 0 (paramWord0 (rw r 0) p1))
      let recs := m.recs.modify (idx.getD 0) upd
      -- the firmware keeps COST of the header true
      (.done repOk, { s with mus := { s.mus with staged := ⟨m.hdr.set 2 (wd (progCost recs)), recs⟩ } })

/-- The checks of `MIX_COMMIT`: the reply of the first that fails. -/
def mixCommitFault (_ : Open) (s : State) : Option Reply :=
  firstFail [s.expertUnit 0x0B, s.absentBit 6]

/-- `MIX_COMMIT` (R386). -/
def beginMixCommit (o : Open) (s : State) : Started × State :=
  if s.mus.fadeLeft ≠ 0 then (.later, s)
  else match mixCommitFault o s with
  | some r => (.done r, s)
  | none =>
    (.wait .smp, { s.setB kMStat 27 true with mus := { s.mus with commitReq := true, commitAccs := s.mus.commitAccs ++ [o.acc] } })

/-- A TDM format at fault (R391). -/
def tdmBad (w : Word) : Bool :=
  decide (w &&& 0x000FFF00 ≠ 0) || decide (fld w 28 2 = 3) || decide (fld w 22 2 = 3) ||
    (decide (fld w 22 2 = 1) && decide (fld w 24 4 % 2 = 0))

/-- A display-port audio format at fault (R394). -/
def dpBad (w : Word) : Bool := decide (w &&& 0x7FFFFFF0 ≠ 0) || decide (fld w 0 4 < 2) || decide (8 < fld w 0 4)

/-- A port format or the clock is due at the next boundary. -/
def portLater (o : Open) (s : State) (k : Nat) (w : Word) : Started × State :=
  (.wait .smp, { s with mus := { s.mus with portNew := s.mus.portNew ++ [(k, w)], portAccs := s.mus.portAccs ++ [o.acc] } })

/-- The faults of P0 that all forms share (R390). -/
def audioP0 (o : Open) (s : State) : Option Reply :=
  let p0 := pw o.pkt 0
  let form := fld p0 8 2
  firstFail [s.expertUnit 0x0B, s.absentBit 6,
    (decide (form = 3) || outside o.pkt 0 0x31F || (decide (form = 0) && decide (9 < fld p0 0 5)) ||
      (decide (form = 2) && decide (fld p0 0 5 ≠ 0)), repBadP 0)]

/-- TDM form (R391). -/
def beginAudioPortTdm (o : Open) (s : State) : Started × State :=
  match audioP0 o s with
  | some r => (.done r, s)
  | none => if tdmBad (pw o.pkt 1) then (.done (repBadP 1), s) else portLater o s (fld (pw o.pkt 0) 0 5) (pw o.pkt 1)

/-- Display-port form (R394). -/
def beginAudioPortDp (o : Open) (s : State) : Started × State :=
  let p := fld (pw o.pkt 0) 0 5
  match audioP0 o s with
  | some r => (.done r, s)
  | none =>
    if !s.headPresent p then (.done (repBad (0x20 + p / 8)), s)
    else if dpBad (pw o.pkt 1) then (.done (repBadP 1), s)
    else portLater o s (32 + p) (pw o.pkt 1)

/-- A voice plays or is ARMED, or a port is enabled (R390, R506). -/
def State.musBusy (s : State) : Bool :=
  (s.someVoices.any fun v => s.playing v || s.voiceArmed v) ||
    ((List.range 10).any fun k => s.regB (kPcfg k) 31) || ((List.range 32).any fun p => s.regB (kDpcfg p) 31)

/-- The checks of `AUDIO_PORT_SET` of the clock: the reply of the first that fails. -/
def audioPortClockFault (o : Open) (s : State) : Option Reply :=
  let w := pw o.pkt 1
  let busy := s.musBusy
  let b := mixBudget (fld w 0 2)
  firstFail [(decide (w &&& ~~~ (0x33 : Word) ≠ 0) || decide (fld w 0 2 = 3), repBadP 1), (busy, rep .notReady 0x0B),
        (decide (b < progCost s.mus.active.recs) || decide (b < progCost s.mus.staged.prog.recs), rep .noResource 0x0B)]

/-- Clock form (R390). -/
def beginAudioPortClock (o : Open) (s : State) : Started × State :=
  match audioP0 o s with
  | some r => (.done r, s)
  | none =>
    match audioPortClockFault o s with
    | some r => (.done r, s)
    | none =>
        let w := pw o.pkt 1
        (.wait .smp, { s with mus := { s.mus with clockNew := some w, portAccs := s.mus.portAccs ++ [o.acc] } })

/-- `AUDIO_PORT_SET`, by its form (R390). -/
def beginAudioPortSet (o : Open) (s : State) : Started × State :=
  match fld (pw o.pkt 0) 8 2 with
  | 1 => beginAudioPortDp o s
  | 2 => beginAudioPortClock o s
  | _ => beginAudioPortTdm o s

/-! ## What is due at a boundary (R371 to R375, R386, R396) -/

/-- A voice stops without an end event. -/
def State.voiceIdle (s : State) (v : Nat) : State :=
  let x := s.voice v
  let s := s.setVoice v { voiceInit with changes := x.changes, stopAccs := x.stopAccs }
  s.setReg (kVstat v) (s.reg (kVstat v) &&& 0x3FFFFFFF)

/-- The block registers of a voice show a block (R397). -/
def State.showBlock (s : State) (v : Nat) (b : List Word) : State :=
  s.each (List.range b.length) fun s k => s.setReg (kVc v + 4 * k) (b.getD k 0)

/-- Voice v starts with an arm at this boundary (R371). -/
def State.voiceStart (s : State) (v : Nat) (p1 p2 : Word) (b : List Word) (t : DWord) : State :=
  let x := s.voice v
  let w3 := bw b 3
  let lf := if isTone v then (if bit w3 29 then 0x1FF else 0x1FFFF) else 0
  let gl := sw (bGl v b)
  let gr := sw (bGr v b)
  let y := { voiceInit with blk := b, passes := fld w3 0 8, lfsr := lf, gl := gl, gr := gr, gl0 := gl, gr0 := gr, gl1 := gl, gr1 := gr, changes := x.changes, stopAccs := x.stopAccs, stopNow := x.stopNow }
  -- a ramped stop that has begun goes on over the new sound (DESIGN CHOICE, log 125)
  let s := s.setVoice v (match x.stopRamp with
    | some n => { y with stopRamp := some n, gl1 := 0, gr1 := 0, rampN := n, rampK := 0 }
    | none => y)
  let s := ((s.showBlock v b).setReg (kVc v + 0x24) p1).setReg (kVc v + 0x28) p2
  let s := s.setReg (kVstat v) ((s.reg (kVstat v) &&& 0x3FFF0000) ||| 0x80000000)
  let s := (s.setReg (kVc v + 0x30) 0).setW64 (kVc v + 0x34) t
  s.setReg (kVc v + 0x3C) (lo32 (s.w64 (kMUS + 4)))

/-- The changes of one `VOICE_PARAM` on a block (R373). -/
def paramBlock (v : Nat) (b : List Word) (w : List Word) : List Word :=
  let p (k : Nat) : Word := w.getD (k - 1) 0
  let sel := p 1
  let set (b : List Word) (k : Nat) (x : Word) : List Word := b.set (k - 3) x
  let b := if bit sel 0 then set (set b (if isTone v then 6 else 9) (p 2)) (if isTone v then 7 else 10) (p 3) else b
  let b := if bit sel 1 then set b (if isTone v then 4 else 8) (p 4) else b
  let b := if bit sel 2 then set b 3 ((bw b 3 &&& ~~~ (0x0138FF00 : Word)) ||| p 5) else b
  if bit sel 3 && isTone v then set b 3 (putFld (bw b 3) 0 8 (fld (p 6) 0 8)) else b

/-- New gains ramp over GRAMP samples from the present ones (R373). -/
def rampTo (x : Voice) (gl gr : Int) (n : Nat) : Voice :=
  if n = 0 then { x with gl := gl, gr := gr, gl0 := gl, gr0 := gr, gl1 := gl, gr1 := gr, rampN := 0, rampK := 0 }
  else { x with gl0 := x.gl, gr0 := x.gr, gl1 := gl, gr1 := gr, rampN := n, rampK := 0 }

/-- One change of voice v at this boundary (R373, R375). -/
def State.voiceChange (s : State) (v : Nat) (acc : Option Nat) (w : List Word) : State :=
  let fin (s : State) (r : Reply) : State := match acc with | some a => s.finishAcc a r | none => s
  let x := s.voice v
  match x.arm with
  | some (p1 :: p2 :: b) =>
    fin (s.setVoice v { x with arm := some (p1 :: p2 :: paramBlock v b w) }) repOk
  | _ =>
    if !s.playing v then fin s (rep .okEmpty 0)
    else
      let b := paramBlock v x.blk w
      let y := if bit (w.getD 0 0) 0 && x.stopRamp.isNone then rampTo x (sw (bGl v b)) (sw (bGr v b)) (bGramp v b) else x
      fin ((s.setVoice v { y with blk := b }).showBlock v b) repOk

/-- A set of registers of a unit under expert control is refused at its sampling instant (R396): MISMATCH, with the cause of a value out of range (DESIGN CHOICE, log 125). -/
def State.musRefuse (s : State) : State := (s.setF kMStat 16 8 3).setB kMStat 28 true

/-- A new block replaces that of a playing voice at this boundary, as one set (R369, R371, R396). -/
def State.voiceReblock (s : State) (v : Nat) (b : List Word) : State :=
  let x := s.voice v
  let y := if sw (bGl v b) = x.gl1 ∧ sw (bGr v b) = x.gr1 then x else rampTo x (sw (bGl v b)) (sw (bGr v b)) (bGramp v b)
  let lf := if isTone v && bit (bw b 3) 29 != bit (bw x.blk 3) 29 then (if bit (bw b 3) 29 then 0x1FF else 0x1FFFF) else x.lfsr
  s.setVoice v { y with blk := b, lfsr := lf, buf := [], back := none }

/-- The block registers of a voice under expert control, sampled as one set at this boundary (R48, R396): `MUS_VGO` starts the voice with them, and a playing voice takes what has changed.  A set at fault is refused, and the registers show the set before. -/
def State.voiceSampled (s : State) (v : Nat) : State :=
  let x := s.voice v
  let b := (List.range (if isTone v then 6 else 9)).map fun k => s.reg (kVc v + 4 * k)
  let bad := (s.voiceFault v 0 0 b).isSome
  if x.vgo then
    let s := s.setVoice v { x with vgo := false }
    if bad then s.musRefuse.showBlock v x.blk
    else s.setVoice v { s.voice v with arm := some (s.reg (kVc v + 0x24) :: s.reg (kVc v + 0x28) :: b), event := some s.now }
  else if !s.expert 0x0B || !s.playing v || decide (b = x.blk) then s
  else if bad then s.musRefuse.showBlock v x.blk
  else s.voiceReblock v b

/-- Everything due on voice v at this boundary: its changes, then its start, then a stop (R370, R375). -/
def State.voiceDue (s : State) (v : Nat) : State :=
  let s := s.voiceSampled v
  let x := s.voice v
  let s := (s.setVoice v { x with changes := [] }).each x.changes fun s c => s.voiceChange v c.1 c.2
  let x := s.voice v
  if !s.playing v && x.arm.isNone && !x.stopAccs.isEmpty then
    (s.each x.stopAccs fun s a => s.finishAcc a (rep .okEmpty 0)).setVoice v voiceInit
  else if x.stopNow then
    let s := s.each x.stopAccs fun s a => s.finishAcc a repOk
    let s := s.voiceIdle v
    s.setVoice v voiceInit
  else match x.arm with
    | some (p1 :: p2 :: b) =>
      (match x.event, decide (fld p1 28 4 = 0) with
       | some t, _ => s.voiceStart v p1 p2 b t
       | none, true => s.voiceStart v p1 p2 b s.now
       | none, false => s)
    | _ => s

/-- A port format takes effect at this boundary (R390 to R394). -/
def State.portDue (s : State) (k : Nat) (w : Word) : State :=
  if k < 32 then
    let s := (s.setReg (kPcfg k) w).setReg (kPcfg k + 4) ((s.reg (kPcfg k + 4) &&& 0x6FFFFFFF) |||
      (flag 28 (bit w 31)) ||| (flag 31 (bit w 31 && bit w 30)))
    { s with mus := { s.mus with rq := Tbl.set (fun _ => 0) s.mus.rq k 0, lockRun := Tbl.set (fun _ => 0) s.mus.lockRun k 0 } }
  else s.setReg (kDpcfg (k - 32)) w

/-- Ports and clock due at this boundary; a set written under expert control that is at fault is refused (R396). -/
def State.portsDue (s : State) : State :=
  let l := s.mus.portNew
  let accs := s.mus.portAccs
  let s := { s with mus := { s.mus with portNew := [], portAccs := [] } }
  let s := s.each l fun s p =>
    if (if p.1 < 32 then tdmBad p.2 else dpBad p.2) then s.musRefuse else s.portDue p.1 p.2
  let s := match s.mus.clockNew with
    | some w => ({ s with mus := { s.mus with clockNew := none } }.setF kMStat 0 6 (fld w 0 6)).musCost
    | none => s
  s.each accs fun s a => s.finishAcc a repOk

/-- A playing or ARMED voice without DIRECT whose DEST is no BUS node of a program (R382 cause 0x0C). -/
def State.busLost (s : State) (m : MixBank) : Bool :=
  s.someVoices.any fun v =>
    let x := s.voice v
    (s.playing v && !bDirect x.blk && !isBus m (bDest x.blk)) ||
      (match x.arm with | some (_ :: _ :: b) => !bDirect b && !isBus m (bDest b) | _ => false)

/-- The swap of a `MIX_COMMIT` at this boundary, or its refusal (R386 to R388). -/
def State.mixDue (s : State) : State :=
  if !s.mus.commitReq || decide (s.mus.fadeLeft ≠ 0) then s
  else
    let accs := s.mus.commitAccs
    let s := { (s.setB kMStat 27 false).setB (kMUS + 0x34) 31 false with mus := { s.mus with commitReq := false, commitAccs := [] } }
    let m := s.mus.staged.prog
    let ramp := bit (rw m.hdr 1) 31
    let extra := if ramp then progCost s.mus.active.recs else 0
    match (s.mixStagedBad m (mixBudget s.musRate) extra).or (if s.busLost m then some 0xC else none) with
    | some c =>
      let s := (s.setF kMStat 16 8 c).setB kMStat 28 true
      s.each accs fun s a => s.finishAcc a (rep .configMismatch 0x0B)
    | none =>
        let old := s.mus.active
        let nodes := nodesFor s.mus.nodes m.recs
        let s := { s with mus := { s.mus with active := m, staged := m, nodes := nodes, fading := if ramp then some (old, s.mus.nodes) else none, fadeLeft := if ramp then 64 else 0 } }
        let s := ((s.setB kMStat 30 (!s.regB kMStat 30)).setB kMStat 29 ramp).musCost
        let s := s.pulse 491
        s.each accs fun s a => s.finishAcc a repOk

/-! ## One sample of a voice (R364 to R369) -/

/-- The end of a voice (R365). -/
def State.voiceEnd (s : State) (v : Nat) (b : List Word) : State :=
  let x := s.voice v
  -- a ramped stop then acts on what is left of the voice at the next boundary
  let s := s.setVoice v { voiceInit with changes := x.changes, stopAccs := x.stopAccs, stopNow := x.stopNow || x.stopRamp.isSome, arm := x.arm, event := x.event }
  let s := s.setReg (kVstat v) ((s.reg (kVstat v) &&& 0x7FFFFFFF) ||| 0x20000000)
  if bEirq b then (s.setB (kMUS + 0x40 + 4 * (v / 32)) (v % 32) true).pulse 488 else s

/-- One channel of a stored frame as a working value. -/
def frameValue (b : List Word) (bs : List Byte) (c : Nat) : Int :=
  let n := 2 ^ fld (bw b 3) 30 2
  let v := leNat ((bs.drop (c * n)).take n)
  match fld (bw b 3) 30 2 with
  | 0 => sext 8 v * 131072
  | 1 => sext 16 v * 512
  | _ => sext 24 (v % 2 ^ 24) * 2

/-- The loop of a voice is still to run. -/
def loopsOn (b : List Word) (passes : Nat) : Bool :=
  decide (fld (bw b 3) 25 2 = 1) || (decide (fld (bw b 3) 25 2 = 2) && decide (0 < passes))

/-- The frame a neighbour index reads (R364). -/
def neighbour (v : Nat) (b : List Word) (passes : Nat) (i : Int) : Nat :=
  let len := bLen v b
  let ls := (bw b 7).toNat
  if i < 0 then 0
  else if i < (len : Nat) then i.toNat
  else if loopsOn b passes then ls + (i.toNat - ls) % (len - ls)
  else len - 1

/-- A read of a voice that is refused: BADSRC, and the record of severity INFO once per start (R366). -/
def State.voiceBadSrc (s : State) (v a : Nat) : State :=
  let x := s.voice v
  let s := s.setB (kVstat v) 26 true
  if x.badTold then s else (s.setVoice v { x with badTold := true }).errRec sevInfo 0x0B 0x0051 v .badParam (wd a) 0

/-- One read of voice v: its bytes, or none where it is poisoned or refused (R366). -/
def State.voiceRead (s : State) (v a n : Nat) : Option (List Byte) × State :=
  match s.place a n with
  | .none | .pantry _ => (none, s.voiceBadSrc v a)
  | _ =>
    let r := s.devRead 0x0B v a n
    match r.1 with
    | .ok bs => (some bs, r.2)
    | .poison _ => (none, r.2.setB (kVstat v) 25 true)
    | .refused => (none, r.2.voiceBadSrc v a)

/-- The 64-byte line of frame i. -/
def frameLine (b : List Word) (i : Nat) : Nat := (bSrc b + i * bBytes b) / 64 * 64

/-- The line played after line l: the next one, or that of the first frame of the loop. -/
def lineNext (v : Nat) (b : List Word) (passes l : Nat) : Option Nat :=
  if l < frameLine b (bLen v b - 1) then some (l + 64)
  else if loopsOn b passes then some (frameLine b (bw b 7).toNat) else none

/-- The prefetch buffer of a voice in the Cellar takes the lines that have arrived, up to 512 bytes (R366): from line `first` on where it is empty. -/
def State.voiceFill (v : Nat) (b : List Word) (passes first : Nat) : Nat → State → State
  | 0, s => s
  | n + 1, s =>
    let x := s.voice v
    let next := match x.buf.getLast? with
      | some l => lineNext v b passes l.1
      | none => some first
    match decide (x.buf.length < 8), next with
    | true, some l =>
      let r := s.voiceRead v l 64
      let y := r.2.voice v
      State.voiceFill v b passes first n (r.2.setVoice v { y with buf := y.buf ++ [(l, r.1)] })
    | _, _ => s

/-- Lines of the play path from frame i to the position that the next sample has, `wraps` times round the loop. -/
def linesOn (v : Nat) (b : List Word) (i j wraps : Nat) : Nat :=
  let ls := frameLine b (bw b 7).toNat
  let last := frameLine b (bLen v b - 1)
  if wraps = 0 then (frameLine b j - frameLine b i) / 64
  else (last - frameLine b i) / 64 + 1 + (wraps - 1) * ((last - ls) / 64 + 1) + (frameLine b j - ls) / 64

/-- The lines that have been played leave the prefetch buffer. -/
def Voice.played (x : Voice) (n : Nat) : Voice :=
  if n = 0 then x else { x with buf := x.buf.drop n, back := x.buf[n - 1]? }

/-- Frame i of voice v: its two channels, zeros where its read failed or has not arrived, and whether it has not arrived (R366).  A Larder voice never waits. -/
def State.voiceFrame (s : State) (v : Nat) (b : List Word) (late : Bool) (i : Nat) : ((Int × Int) × Bool) × State :=
  let n := bBytes b
  let a := bSrc b + i * n
  let value (o : Option (List Byte)) : Int × Int :=
    match o with
    | some bs => (frameValue b bs 0, if bStereo b then frameValue b bs 1 else frameValue b bs 0)
    | none => (0, 0)
  let x := s.voice v
  match if a < aPantry then (x.back.toList ++ x.buf).find? fun l => decide (l.1 = a / 64 * 64) else none with
  | some l => ((value (l.2.map fun bs => (bs.drop (a % 64)).take n), false), s)
  | none =>
    if decide (a < aPantry) && late then (((0, 0), true), s)
    else
      let r := s.voiceRead v a n
      ((value r.1, false), r.2)

/-- A sample that a late line left without a frame (R366). -/
def State.voiceStarve (s : State) (v : Nat) : State :=
  let n := s.regF (kVstat v) 0 16
  let s := (s.setB (kVstat v) 27 true).setF (kVstat v) 0 16 (min 0xFFFF (n + 1))
  if n = 0 then s.pulse 490 else s

/-- Interpolation at fraction t of 2^16 (R364). -/
def interp (mode : Nat) (t : Nat) (p0 p1 p2 p3 : Int) : Int :=
  match mode with
  | 0 => p1
  | 1 => sat (p1 + rdiv ((t : Nat) * (p2 - p1)) 65536)
  | _ =>
    let q : Int := (t : Nat)
    let num := 2 * p1 * 2 ^ 48 + (p2 - p0) * q * 2 ^ 32 + (2 * p0 - 5 * p1 + 4 * p2 - p3) * q * q * 2 ^ 16 +
      (3 * p1 - p0 - 3 * p2 + p3) * q * q * q
    sat (rdiv num (2 ^ 49))

/-- Add a value to a table of sums. -/
def sumAdd (t : Tbl Int) (k : Nat) (v : Int) : Tbl Int := Tbl.set (fun _ => 0) t k (addS (Tbl.get (fun _ => 0) t k) v)

/-- Slots of TDM output port k. -/
def State.tdmSlots (s : State) (k : Nat) : Nat := s.regF (kPcfg k) 24 4 + 1

/-- A voice's two values go into its bus node, or into its port slots (R364, R389); `bus` and `direct` are this period's sums. -/
def State.voiceAdd (s : State) (b : List Word) (l r : Int) (sums : Tbl Int × Tbl Int) : Tbl Int × Tbl Int :=
  if bDirect b then
    let port := fld (bw b 3) 8 3
    let slot := fld (bw b 3) 12 4
    let add (t : Tbl Int) (k : Nat) (v : Int) : Tbl Int :=
      if s.regB (kPcfg port) 31 && decide (k < s.tdmSlots port) then sumAdd t (1024 + 32 * port + k) v else t
    (sums.1, add (add sums.2 slot l) (slot + 1) r)
  else
    let n := bDest b
    let c := fld (bw b 3) 19 3
    let ch := ((s.mus.active.recs.find? fun x => decide (rId x = n)).map rCh).getD 0
    let add (t : Tbl Int) (k : Nat) (v : Int) : Tbl Int := if k < ch then sumAdd t (8 * n + k) v else t
    (add (add sums.1 c l) (c + 1) r, sums.2)

/-- The gains move one sample along their ramp. -/
def rampStep (x : Voice) : Voice :=
  if x.rampN ≤ x.rampK then x
  else
    let k := x.rampK + 1
    { x with rampK := k, gl := x.gl0 + rdiv ((x.gl1 - x.gl0) * k) x.rampN, gr := x.gr0 + rdiv ((x.gr1 - x.gr0) * k) x.rampN }

/-- After a sample: a ramped stop counts, and stops the voice at the boundary after its last sample (R374). -/
def countStop (x : Voice) : Voice :=
  match x.stopRamp with
  | some n => if n ≤ 1 then { x with stopRamp := none, stopNow := true } else { x with stopRamp := some (n - 1) }
  | none => x

/-- Loop a position that has reached LEN (R365): the position and the passes left, or none at the end. -/
def loopPos (v : Nat) (b : List Word) (p passes : Nat) : Option (Nat × Nat) :=
  let len := bLen v b
  let ls := (bw b 7).toNat
  let past := p / 65536 - len
  if p / 65536 < len then some (p, passes)
  else
    let span := len - ls
    let need := past / span + 1
    match fld (bw b 3) 25 2 with
    | 1 => if span = 0 then none else some (p - need * span * 65536, passes)
    | 2 => if span = 0 ∨ passes < need then none else some (p - need * span * 65536, passes - need)
    | _ => none

/-- Passes of the loop between a position and the one it loops to. -/
def loopWraps (v : Nat) (b : List Word) (p : Nat) : Nat :=
  if p / 65536 < bLen v b then 0 else (p / 65536 - bLen v b) / (bLen v b - (bw b 7).toNat) + 1

/-- Sample of a sample voice in this period (R364 to R367). -/
def State.sampleVoice (s : State) (v : Nat) (late : Bool) (sums : Tbl Int × Tbl Int) : (Tbl Int × Tbl Int) × State :=
  let x := s.voice v
  let b := x.blk
  match if bLen v b = 0 then none else loopPos v b x.p x.passes with
  | none => (sums, s.voiceEnd v b)
  | some (p, passes) =>
    let x := rampStep { x with p := p, passes := passes }
    let i : Int := (p / 65536 : Nat)
    let nb (d : Int) : Nat := neighbour v b passes (i + d)
    let mode := fld (bw b 3) 27 2
    let z : (Int × Int) := (0, 0)
    let s := s.setVoice v x
    let s := if decide (bSrc b < aPantry) && !late then State.voiceFill v b passes (frameLine b (p / 65536)) 8 s else s
    let f0 := if mode = 2 then s.voiceFrame v b late (nb (-1)) else ((z, false), s)
    let f1 := f0.2.voiceFrame v b late (nb 0)
    let f2 := if mode = 0 then ((z, false), f1.2) else f1.2.voiceFrame v b late (nb 1)
    let f3 := if mode = 2 then f2.2.voiceFrame v b late (nb 2) else ((z, false), f2.2)
    let s := if f0.1.2 || f1.1.2 || f2.1.2 || f3.1.2 then f3.2.voiceStarve v else f3.2
    let t := p % 65536
    let l := interp mode t f0.1.1.1 f1.1.1.1 f2.1.1.1 f3.1.1.1
    let r := interp mode t f0.1.1.2 f1.1.1.2 f2.1.1.2 f3.1.1.2
    let sums := s.voiceAdd b (mulF 24 x.gl l) (mulF 24 x.gr r) sums
    let p' := p + (bw b 8).toNat
    let used := (p' / 65536 - p / 65536) * bBytes b
    let mark := fld (bw b 11) 16 16 * 64
    let x' := (s.voice v).played (match loopPos v b p' passes with
      | some (q, _) => linesOn v b (p / 65536) (q / 65536) (loopWraps v b p')
      | none => 0)
    let s := s.setVoice v (countStop { x' with p := p', count := x'.count + used })
    let s := s.setReg (kVc v + 0x30) (wd (p' / 65536))
    let s := if decide (0 < mark) && decide (x'.count / mark ≠ (x'.count + used) / mark) then
        (s.setB (kVstat v) 28 true).pulse 489 else s
    (sums, s)

/-- The value of a tone voice at phase φ (R369). -/
def toneValue (w3 : Word) (phi lfsr : Nat) : Int :=
  match fld w3 30 2 with
  | 0 => if phi < fld w3 0 8 * 2 ^ 24 then one24 else -one24
  | 1 =>
    let t := phi / 2 ^ 26
    let l : Int := if t < 32 then (31 - t : Nat) else (t - 32 : Nat)
    rdiv ((2 * l - 31) * one24) 31
  | _ => if lfsr % 2 = 1 then one24 else -one24

/-- The noise register after one step (R369). -/
def lfsrStep (short : Bool) (r : Nat) : Nat :=
  if short then r / 2 % 256 + ((r + r / 16) % 2) * 256 else r / 2 + ((r + r / 8) % 2) * 65536

/-- Sample of a tone voice in this period (R369). -/
def State.toneVoice (s : State) (v : Nat) (sums : Tbl Int × Tbl Int) : (Tbl Int × Tbl Int) × State :=
  let x := s.voice v
  let b := x.blk
  let w3 := bw b 3
  if !bit w3 28 && decide (bLen v b ≤ x.count) then (sums, s.voiceEnd v b)
  else
    let x := rampStep x
    let w := toneValue w3 x.p x.lfsr
    let sums := s.voiceAdd b (mulF 24 x.gl w) (mulF 24 x.gr w) sums
    let q := x.p + (bw b 4).toNat
    let lf := if 2 ^ 32 ≤ q then lfsrStep (bit w3 29) x.lfsr else x.lfsr
    let s := s.setVoice v (countStop { x with p := q % 2 ^ 32, lfsr := lf, count := x.count + 1 })
    (sums, s.setReg (kVc v + 0x30) (wd q))

/-! ## Ports on the wire (R362, R391, R393) -/

/-- The timing of port p's source head meets the limits of R260: a sample rate of at most 2 × f / HTOTAL, and 64 pixels of horizontal blanking. -/
def State.audioFits (s : State) (p : Nat) : Bool :=
  let g := s.cmSet (s.routeSrc p)
  decide (rateHz s.musRate * gHtotal g ≤ 2 * gFreq g) && decide (gHact g + 64 ≤ gHtotal g)

/-- Audio is enabled for port p, and its head is routed to it over a link that is UP. -/
def State.audioWanted (s : State) (p : Nat) : Bool := s.regB (kDpcfg p) 31 && s.routeEn p && s.linkUp p

/-- Port p carries audio (R260). -/
def State.audioOn (s : State) (p : Nat) : Bool := s.audioWanted p && s.regB (kSink p) 30 && s.audioFits p

/-- `DPL_AUDSTAT` of port p (R260, R263): the flags of a port that audio is enabled for (DESIGN CHOICE, log 123). -/
def State.audStat (s : State) (p : Nat) : Word :=
  if !s.regB (kDpcfg p) 31 then 0
  else flag 31 (s.audioOn p) ||| flag 30 (s.audioWanted p && !s.regB (kSink p) 30) ||| flag 29 (s.routeEn p && !s.audioFits p)
    ||| wd (s.regF (kDpcfg p) 0 4 * 2 ^ 24 + s.musRate)

/-- What is on the wire in the frame that begins at this boundary: the graph four periods after the sample, the direct path one period after it, two frames more on a slave port (R362); a display port carries audio under its own conditions (R260). -/
def State.wireNow (s : State) : Tbl Int :=
  let get (l : List (Tbl Int)) (i k : Nat) : Int := Tbl.get (fun _ => 0) (l.getD i []) k
  let m := s.mus
  let keys := ((m.mixed.flatMap fun t => t.map (·.1)) ++ (m.direct.flatMap fun t => t.map (·.1))).dedup
  keys.foldl (fun t k =>
    if 1024 ≤ k then
      let port := (k - 1024) / 32
      let slot := (k - 1024) % 32
      let cfg := s.reg (kPcfg port)
      let lag := if bit cfg 30 then 0 else 2
      if !bit cfg 31 || !s.regB (kPcfg port + 4) 31 || decide (fld cfg 24 4 < slot) then t
      else
        let v := min 8388607 (max (-8388608) (toSample (get m.mixed (2 + lag) k) + toSample (get m.direct lag k)))
        Tbl.set (fun _ => 0) t k (match fld cfg 28 2 with | 0 => v / 256 | 1 => v | _ => v * 256)
    else
      let cfg := s.reg (kDpcfg (k / 32))
      if !s.audioOn (k / 32) || decide (fld cfg 0 4 ≤ k % 32) then t
      else Tbl.set (fun _ => 0) t k (toSample (get m.mixed 2 k))) []

/-- The request lines of the ports: one pulse at the start of every RQBLK-th frame (R393). -/
def State.portRequests (s : State) : State :=
  s.each (List.range 10) fun s k =>
    let cfg := s.reg (kPcfg k)
    let blk := fld cfg 0 8
    if bit cfg 31 && decide (0 < blk) then
      let n := Tbl.get (fun _ => 0) s.mus.rq k + 1
      let s := { s with mus := { s.mus with rq := Tbl.set (fun _ => 0) s.mus.rq k (if blk ≤ n then 0 else n) } }
      if blk ≤ n then s.request (if k < 8 then 128 + k else 136 + (k - 8)) else s
    else s

/-- What the mix program of this period sees: the bus sums of the last period and the TDM input frames (R362). -/
def State.mixIn (s : State) : MixIn :=
  let m := s.mus
  let port (p : Nat) : List Int :=
    let f := m.tdmIn.getD (if s.regB (kPcfg (8 + p)) 30 then 0 else 2) ([], [])
    if p = 0 then f.1 else f.2
  { bus := fun n c => Tbl.get (fun _ => 0) m.bus (8 * n + c)
    voices := fun n => (s.someVoices.filter fun v => s.playing v && !bDirect (s.voice v).blk && decide (bDest (s.voice v).blk = n)).length
    tdm := fun p k => if k < s.tdmSlots (8 + p) then (port p).getD k 0 * 2 else 0
    locked := fun p => s.regB (kPcfg (8 + p) + 4) 31 }

/-- The mix program of this period, with the crossfade of R388. -/
def State.mixPeriod (s : State) : State :=
  let e := s.mixIn
  let r := mixRun e s.mus.active.recs s.mus.nodes
  match s.mus.fading with
  | none => { s with mus := { s.mus with nodes := r.2, mixed := (r.1 :: s.mus.mixed).take 5 } }
  | some (old, nodes) =>
    let q := mixRun e old.recs nodes
    let left := s.mus.fadeLeft - 1
    let out := mixFade q.1 r.1 (64 - left)
    let s := { s with mus := { s.mus with nodes := r.2, mixed := (out :: s.mus.mixed).take 5, fadeLeft := left, fading := if left = 0 then none else some (old, q.2) } }
    if left = 0 then (s.setB kMStat 29 false).pulse 491 else s

/-- The delay lines of the active program write their Larder regions in every period (R299, R378); where in the region a sample lies is open, and no byte is shown (DESIGN CHOICE, log 125). -/
def State.delayMarks (s : State) : State :=
  s.each (s.mus.active.recs.filter fun r => decide (rType r = 7)) fun s r => s.markAltered (.larder (fld (rQ r 0) 0 8))

/-- The ports run, or stand still with the sample clock: ACTIVE (R361, R397). -/
def State.portsRun (s : State) (b : Bool) : State :=
  s.each ((List.range 10).filter fun k => s.regB (kPcfg k) 31) fun s k => s.setB (kPcfg k + 4) 28 b

/-- Boundaries come again when a clock that is not external replaces the one that was lost (R390) (DESIGN CHOICE, log 125). -/
def State.clockTaken (s : State) : State :=
  match s.mus.clockNew with
  | some w => if bit w 4 || s.regB kMStat 31 then s else (s.setB kMStat 31 true).portsRun true
  | none => s

/-- A sample boundary (R361, R362): the count, what is due, the frame on the wire, the mix of the last period's sums, and the samples of this one. -/
def State.musBoundary (s : State) (tdm : List (BitVec 24) × List (BitVec 24)) (late : List Nat) : State :=
  let s := s.clockTaken
  if !s.regB kMStat 31 || !s.ready || !s.present 6 then s
  else
    let s := (s.setW64 (kMUS + 4) (s.w64 (kMUS + 4) + 1)).setW64 (kMUS + 0xC) s.now
    let s := { s with mus := { s.mus with tdmIn := ((tdm.1.map BitVec.toInt, tdm.2.map BitVec.toInt) :: s.mus.tdmIn).take 3 } }
    let s := s.portsDue
    let s := s.each s.someVoices State.voiceDue
    let s := s.mixDue
    let s := { s with mus := { s.mus with wire := s.wireNow } }
    let s := s.portRequests.mixPeriod.delayMarks
    let r := s.someVoices.foldl (fun (a : (Tbl Int × Tbl Int) × State) v =>
      if a.2.playing v then (if isTone v then a.2.toneVoice v a.1 else a.2.sampleVoice v (late.contains v) a.1) else a) (([], []), s)
    { r.2 with mus := { r.2.mus with bus := r.1.1, direct := (r.1.2 :: r.2.mus.direct).take 3 } }

/-! ## Clock and ports (R361, R392, R531) -/

/-- No edge of an external master clock for four periods (R361). -/
def State.audioLost (s : State) : State :=
  if s.regB kMStat 31 && s.regB kMStat 4 then
    (((s.setB kMStat 31 false).portsRun false).pulse 493).errRec sevInfo 0x0B 0x0050 0 .notReady (lo32 (s.w64 (kMUS + 4))) 0
  else s

/-- The edges return (R361). -/
def State.audioReturn (s : State) : State :=
  if !s.regB kMStat 31 && s.regB kMStat 4 then ((s.setB kMStat 31 true).portsRun true).pulse 493 else s

/-- A frame of slave port k: LOCK after four good ones in a row, lost at a bad one; a slip when its buffer runs dry or full (R392). -/
def State.slaveFrame (s : State) (k : Nat) (good slip : Bool) : State :=
  let cfg := s.reg (kPcfg k)
  if !bit cfg 31 || bit cfg 30 then s
  else
    let st := kPcfg k + 4
    let n := if good then min 4 (Tbl.get (fun _ => 0) s.mus.lockRun k + 1) else 0
    let was := s.regB st 31
    let lock := good && (was || decide (4 ≤ n))
    let s := { s with mus := { s.mus with lockRun := Tbl.set (fun _ => 0) s.mus.lockRun k n } }
    let s := if lock = was then s else (s.setB st 31 lock).pulse 492
    if !slip then s
    else
      let t := (s.setB st 30 true).setF st 0 16 ((s.regF st 0 16 + 1) % 65536)
      if s.regB st 30 then t else t.pulse 492

/-- 64 mismatching, or matching, BCLK periods on an output line of port k (R531). -/
def State.tdmShort (s : State) (k : Nat) (mismatch : Bool) : State :=
  let st := kPcfg k + 4
  if !s.regB (kPcfg k) 31 || decide (8 ≤ k) then s
  else if mismatch then
    if s.regB st 29 then s
    else
      let s := s.setB st 29 true
      (s.pulse 492).errRec sevInfo 0x0B 0x0052 k .ok (s.reg st) 0
  else s.setB st 29 false

/-- `UNIT_RESET` of unit 0x0B, and a trap of core N3 (R395): the sample clock goes on. -/
def State.musReset (s : State) : State :=
  let s := s.each s.someVoices fun s v => (s.voiceIdle v).setVoice v voiceInit
  let s := s.each (List.range 10) fun s k => (s.setReg (kPcfg k) 0).setReg (kPcfg k + 4) 0
  let s := s.each (List.range 32) fun s p => s.setReg (kDpcfg p) 0
  let s := { s with mus := musicInit }
  (((s.setB kMStat 29 false).setB kMStat 27 false).setB (kMUS + 0x34) 31 false).musCost

/-! ## Expert control (R396) -/

/-- A write of `MUS_VGO`: START or STOP of a voice at the next boundary. -/
def State.vgoWrite (s : State) (w : Word) : State :=
  let v := fld w 0 10
  if 575 < v then s
  else
    let x := s.voice v
    let x := if bit w 31 then { x with vgo := true } else x
    let x := if bit w 30 && (s.playing v || s.voiceArmed v || x.vgo) then { x with stopNow := true } else x
    s.setVoice v x

/-- A write of `MUS_CTL`: WIN, and COMMIT requests the swap. -/
def State.musCtlWrite (s : State) (w : Word) : State :=
  let s := s.setReg (kMUS + 0x34) ((w &&& 0x80000001) ||| (s.reg (kMUS + 0x34) &&& 0x80000000))
  if bit w 31 then { s.setB kMStat 27 true with mus := { s.mus with commitReq := true } } else s

/-- The bank the node window shows. -/
def State.winBank (s : State) : MixBank := if s.regB (kMUS + 0x34) 0 then s.mus.staged else s.mus.active

/-- A read in the node window: word j of record i, and of the header. -/
def State.winRead (s : State) (i j : Nat) : Word := (s.winBank.recs.getD i []).getD j 0
def State.winHdr (s : State) (j : Nat) : Word := s.winBank.hdr.getD j 0

/-- A write in the node window acts on the staged bank, and only while WIN shows it; records below it that nothing has written are zeros. -/
def State.winWrite (s : State) (i j : Nat) (w : Word) : State :=
  if !s.regB (kMUS + 0x34) 0 then s
  else
    let m := s.mus.staged
    let recs := m.recs ++ List.replicate (i + 1 - m.recs.length) (List.replicate 16 0)
    { s with mus := { s.mus with staged := { m with recs := recs.modify i fun r => r.set j w } } }

/-- A write of the program header. -/
def State.winHdrWrite (s : State) (j : Nat) (w : Word) : State :=
  if !s.regB (kMUS + 0x34) 0 then s
  else { s with mus := { s.mus with staged := { s.mus.staged with hdr := s.mus.staged.hdr.set j w } } }

end Sys2Proof.Machine
end

