-- ==== Sys2Proof/Machine/Nioft.lean ====
section
/-! DEFINITION. The Nioft cores: memories, decoding, the arithmetic of Nioft-14, traps, starts, stops, entries and loads (R398 to R430).  `NioftRun.lean` runs the instructions, whose far accesses need the register space. -/

namespace Sys2Proof.Machine

/-! ## Registers of a core -/

/-- Registers of core c on the NIO page (R430). -/
def kNc (c : Nat) : Nat := kNIO + 0x40 * c
def kCstat (c : Nat) : Nat := kNc c
def kNctl (c : Nat) : Nat := kNc c + 0x04
def kNentry (c : Nat) : Nat := kNc c + 0x08
def kNgrant (c : Nat) : Nat := kNc c + 0x0C
def kNpwords (c : Nat) : Nat := kNc c + 0x10
def kNcycle (c : Nat) : Nat := kNc c + 0x20
def kNrun : Nat := kNIO + 0x800

/-- Core n. -/
def State.core (s : State) (n : Nat) : Core := Tbl.get (fun _ => coreInit) s.cores n
def State.setCore (s : State) (n : Nat) (v : Core) : State := { s with cores := Tbl.set (fun _ => coreInit) s.cores n v }
def State.updCore (s : State) (n : Nat) (f : Core → Core) : State := s.setCore n (f (s.core n))

/-- Core n runs. -/
def State.coreRuns (s : State) (n : Nat) : Bool := s.regB kNrun n

/-- PC, IPL and the cycle count of core n. -/
def State.pc (s : State) (n : Nat) : Nat := s.regF (kCstat n) 0 14
def State.ipl (s : State) (n : Nat) : Nat := s.regF (kCstat n) 24 4
def State.cyc (s : State) (n : Nat) : Nat := (s.w64 (kNcycle n)).toNat

def State.setPc (s : State) (n pc : Nat) : State := s.setF (kCstat n) 0 14 pc
def State.setIpl (s : State) (n l : Nat) : State := s.setF (kCstat n) 24 4 l

/-- Cycles pass on core n (R404, R430). -/
def State.spend (s : State) (n k : Nat) : State :=
  (s.setW64 (kNcycle n) (s.w64 (kNcycle n) + BitVec.ofNat 64 k)).setReg (kCCS n + 8) (s.reg (kCCS n + 8) + wd k)

/-- Working register Wi. -/
def Core.reg (c : Core) (i : Nat) : Word := Tbl.get (fun _ => 0) c.w i
def Core.setReg (c : Core) (i : Nat) (v : Word) : Core := { c with w := Tbl.set (fun _ => 0) c.w i v }
def Core.sp (c : Core) : Nat := (c.reg 15).toNat

/-! ## Memories (R399) -/

/-- The HALT instruction (R426). -/
def wHalt : Nat := 0x39C0

/-- Word i of program memory.  A word nothing has loaded reads as HALT (DESIGN CHOICE, log 3). -/
def Core.word (c : Core) (i : Nat) : Nat := Tbl.get (fun _ => wHalt) c.prog (i % 16384)

/-- Code of program word i, and of the data word at byte address a. -/
def Core.wordCode (c : Core) (i : Nat) : Code := Tbl.get (fun _ => Code.good) c.pcode (i % 16384)
def Core.dataCode (c : Core) (a : Nat) : Code := Tbl.get (fun _ => Code.good) c.dcode (a / 4 * 4)

/-- Bytes of data memory. -/
def Core.bytes (c : Core) (a n : Nat) : List Byte := (List.range n).map fun i => Tbl.get (fun _ => 0) c.data (a + i)

/-- A corrected error of a core's memory enters the Nioft log (R303, R399): SRC 2 program, 3 data (DEDUCED, log 41). -/
def State.nioCorrected (s : State) (n src pos a : Nat) : State := s.corrLog (kNIO + 0x400) none src src pos (a / 64 * 64) n 0x0C none

/-- Fetch k program words: none when one is uncorrectable. -/
def State.nioFetch (s : State) (n pc k : Nat) : Option (List Nat) × State :=
  let c := s.core n
  let is := (List.range k).map fun j => (pc + j) % 16384
  if is.any fun i => decide (c.wordCode i = .uncorr) then (none, s)
  else (some (is.map c.word),
    s.each is fun s i => match c.wordCode i with | .corr p => s.nioCorrected n 2 p (4 * i) | _ => s)

/-- Read k bytes of data memory: none when the word is uncorrectable. -/
def State.dataRead (s : State) (n a k : Nat) : Option Word × State :=
  let c := s.core n
  match c.dataCode a with
  | .uncorr => (none, s)
  | .corr p => (some (wd (leNat (c.bytes a k))), s.nioCorrected n 3 p (a / 4 * 4))
  | .good => (some (wd (leNat (c.bytes a k))), s)

/-- Write k bytes of data memory; a byte or a halfword reads its word first (R407), and an uncorrectable one is not written: none. -/
def State.dataWrite (s : State) (n a k : Nat) (v : Word) : Option State :=
  let c := s.core n
  if k < 4 ∧ c.dataCode a = .uncorr then none
  else
    let s := match c.dataCode a with | .corr p => if k < 4 then s.nioCorrected n 3 p (a / 4 * 4) else s | _ => s
    some (s.updCore n fun c => { c with
      data := ((leBytes k v.toNat).foldl (fun (p : Tbl Byte × Nat) b => (Tbl.set (fun _ => 0) p.1 p.2 b, p.2 + 1)) (c.data, a)).1
      dcode := Tbl.set (fun _ => Code.good) c.dcode (a / 4 * 4) .good })

/-- A scrub read of a word of a core's memories (R399): a correctable word is logged and written back. -/
def State.nioScrub (s : State) (n : Nat) (data : Bool) (i : Nat) : State :=
  let c := s.core n
  if data then
    match c.dataCode (4 * i) with
    | .corr p => (s.nioCorrected n 3 p (4 * i)).updCore n fun c => { c with dcode := Tbl.set (fun _ => Code.good) c.dcode (4 * i) .good }
    | _ => s
  else
    match c.wordCode i with
    | .corr p => (s.nioCorrected n 2 p (4 * i)).updCore n fun c => { c with pcode := Tbl.set (fun _ => Code.good) c.pcode (i % 16384) .good }
    | _ => s

/-! ## Stops and traps (R417, R418, R428) -/

/-- The status that a stop cause gives, and its DETAIL (R69, R417). -/
def causeReply (n cause : Nat) : Reply :=
  match cause with
  | 0x01 | 0x02 => repOk
  | 0x11 => rep .repIllegal n
  | 0x12 => rep .ifetchUncorr n
  | 0x13 => rep .uncorr 0x0C
  | _ => rep .stopped 0x0C

/-- A stopped core whose far stores are all visible: an open `NIOFT_STOP` is finished and `NIO_CTL.STOP` clears (R428). -/
def State.nioSettle (s : State) (n : Nat) : State :=
  if s.coreRuns n || !(s.core n).stores.isEmpty then s
  else (s.finish (.nioftHalt n) (causeReply n (s.regF (kCstat n) 16 8))).setB (kNctl n) 30 false

/-- The core stops with a cause, at a PC. -/
def State.nioStopAt (s : State) (n cause pc : Nat) : State :=
  let s := (s.setB kNrun n false).setReg (kCstat n)
    ((s.reg (kCstat n) &&& 0x2F000000) ||| wd (cause * 2 ^ 16 + pc % 16384))
  (s.updCore n fun c => { c with hold := .none, rep := 0, due := 0, stopReq := false, wdogReq := false }).nioSettle n

/-- A trap (R417): registers, source 536 + n and the error record.  A firmware core then waits for its restart (R400). -/
def State.nioTrap (s : State) (n cause addr pc : Nat) : State :=
  let s := (s.setReg (kNc n + 0x14) (wd (pc % 16384))).setReg (kNc n + 0x18) (wd addr)
  let s := s.incReg (kNc n + 0x1C)
  let s := s.nioStopAt n cause pc
  let s := (s.setB (kCstat n) 28 true).pulse (536 + n)
  let s := s.errRec sevContained 0x0C 0x0041 n (causeReply n cause).status (wd cause) (wd (pc % 16384))
  -- a trap of N1 interrupts the audit request that is being served (R496)
  let s := if n = 1 && decide (s.att.aud.state = 0) then { s with att := { s.att with aud := { s.att.aud with state := 2, status := .internal } } } else s
  if n < 4 then { s with att := { s.att with down := s.att.down ++ [n] } } else s

/-- The stop causes (R417). -/
def cStop : Nat := 0x01
def cHalt : Nat := 0x02
def cIllegal : Nat := 0x10
def cRepIll : Nat := 0x11
def cIfetch : Nat := 0x12
def cDuncorr : Nat := 0x13
def cAlignf : Nat := 0x14
def cAccess : Nat := 0x15
def cStack : Nat := 0x16
def cWdog : Nat := 0x17

/-- The watchdog has reached its period (R404, R49): whole microseconds since the last kick, at 400 cycles each. -/
def State.wdogDue (s : State) (n : Nat) : Bool :=
  let p := s.regF (kCCS n + 0x28) 0 24
  decide (p ≠ 0) && decide (p ≤ (s.cyc n - (s.core n).kick) / 400)

/-- The end of an instruction, or of an element of a repeated one: watchdog, then stop, then an interrupt entry (R416, R418, R419). -/
def State.nioBoundary (s : State) (n : Nat) : State :=
  let c := s.core n
  if !s.coreRuns n then s
  else if c.wdogReq || s.wdogDue n then s.nioTrap n cWdog 0 (s.pc n)
  else if c.stopReq then s.nioStopAt n cStop (s.pc n)
  else if s.ipl n < s.coreLevel n then s.updCore n fun c => { c with due := s.coreLevel n }
  else s

/-- A start of the core at an entry (R427). -/
def State.nioStart (s : State) (n entry : Nat) : State :=
  let s := s.updCore n fun c => { c with
    w := Tbl.set (fun _ => 0) [] 15 0x00010000, mh := 0, ml := 0, xc := 0, xs := 0, xd := 0, fl := 0, vb := 0, muls := []
    hold := .none, rep := 0, due := 0, stopReq := false, wdogReq := false, kick := 0 }
  let s := s.each ((List.range 12).map fun j => kCCS n + 4 * j) fun s k => s.setReg k (regReset k)
  let s := (s.setW64 (kNcycle n) 0).setReg (kNcycle n + 4) 0
  let s := (s.setB kNrun n true).setReg (kCstat n)
    ((s.reg (kCstat n) &&& 0x20000000) ||| wd (0x80000000 + 15 * 2 ^ 24 + entry % 16384))
  if n < 4 then s else s.setReg (kNentry n) (wd entry)

/-- A stop is requested (R428): a core held in WAIT stops at once, any other at its next boundary. -/
def State.nioStop (s : State) (n : Nat) : State :=
  if s.regB (kCstat n) 30 then s.nioStopAt n cStop (s.pc n) else s.updCore n fun c => { c with stopReq := true }

/-! ## Entries (R419 to R424) -/

/-- The context word (R420). -/
def ctxWord (ipl fl pc : Nat) : Word := wd (ipl * 2 ^ 18 + fl * 2 ^ 14 + pc % 16384)

/-- An address that a stack access may not use (R411). -/
def stackBad (a : Nat) : Bool := decide (0xFFFC < a) || decide (a % 4 ≠ 0)

/-- The handler of a level: its vector word, uncorrectable for none (R419). -/
def State.nioVector (s : State) (n l : Nat) : Option Nat × State :=
  match s.nioFetch n ((s.core n).vb.toNat % 16384 / 16 * 16 + l) 1 with
  | (some ws, s) => (some (ws.headD 0), s)
  | (none, s) => (none, s)

/-- An entry (R421): the context with the PC to resume is pushed, the level is fixed, and the vector gives the handler.  TRAP enters at level 15 with vector VB + 0 (R423) (DEDUCED, log 90). -/
def State.nioEnter (s : State) (n resume : Nat) (trap : Bool) : State :=
  let c := s.core n
  let saved := s.ipl n
  let sp := (c.reg 15 - 4).toNat
  if stackBad sp then s.nioTrap n cStack sp resume
  else
    match s.dataWrite n sp 4 (ctxWord saved c.fl resume) with
    | none => s
    | some s =>
      let l := if trap then 15 else (let now := s.coreLevel n; if saved < now then now else c.due)
      let s := (s.updCore n fun c => { (c.setReg 15 (wd sp)) with due := 0, rep := 0 }).setB (kCstat n) 30 false
      match (s.setIpl n l).nioVector n (if trap then 0 else l) with
      | (none, s) => s.nioTrap n cIfetch 0 resume
      | (some a, s) => ((s.setPc n a).spend n 4).nioBoundary n

/-! ## Decoding (R407 to R410) -/

/-- The instructions of Nioft-14. -/
inductive NOp where
  | mov | add | sub | cmp | and | or | xor | tst | adc | sbc | mul | mulu | mac | addi | movi | shl | shr | sar | ror
  | shlReg | shrReg | sarReg | ldb | ldh | ldw | ldbs | stb | sth | stw | ldsp | stsp | br | call | copyx | fillx | findx
  | sumx | mfs | mts | ldi | nop | rep | reti | ret | jmpr | callr | wait | halt | trap | fence | not | neg | jmp
  deriving DecidableEq, Repr

/-- A decoded instruction: its two register numbers or condition, its immediate, and its length in words. -/
structure NInstr where
  op : NOp
  d : Nat
  s : Nat
  imm : Nat
  len : Nat
  deriving DecidableEq, Repr

/-- Bits of a program word. -/
def nf (w lo len : Nat) : Nat := w / 2 ^ lo % 2 ^ len

/-- Words of the instruction that begins with a word. -/
def nLen (w : Nat) : Nat :=
  match nf w 10 4 with
  | 0xB => 3
  | 0xD => if nf w 8 2 = 2 then 3 else 1
  | 0xE => if nf w 6 4 = 3 ∨ nf w 6 4 = 0xD then 2 else 1
  | _ => 1

/-- Decode an instruction from its first word and the two after it; none is ILLEGAL (R410). -/
def nDecode (w w1 w2 : Nat) : Option NInstr :=
  let f := nf w 8 2
  let a := nf w 4 4
  let b := nf w 0 4
  let pick (o : List NOp) : NOp := o.getD f .nop
  match nf w 10 4 with
  | 0x0 => some ⟨pick [.mov, .add, .sub, .cmp], a, b, 0, 1⟩
  | 0x1 => some ⟨pick [.and, .or, .xor, .tst], a, b, 0, 1⟩
  | 0x2 => some ⟨pick [.adc, .sbc, .mul, .mac], a, b, 0, 1⟩
  | 0x3 => some ⟨.addi, b, 0, nf w 4 6, 1⟩
  | 0x4 => some ⟨.movi, b, 0, nf w 4 6, 1⟩
  | 0x5 => some ⟨pick [.shl, .shr, .sar, .ror], a, 0, b + 1, 1⟩
  | 0x6 => some ⟨pick [.ldb, .ldh, .ldw, .ldbs], a, b, 0, 1⟩
  | 0x7 => if f = 3 then none else some ⟨pick [.stb, .sth, .stw], a, b, 0, 1⟩
  | 0x8 => some ⟨.ldsp, b, 0, nf w 4 6, 1⟩
  | 0x9 => some ⟨.stsp, b, 0, nf w 4 6, 1⟩
  | 0xA => if nf w 6 4 = 0xE then none else some ⟨.br, nf w 6 4, 0, nf w 0 6, 1⟩
  | 0xB =>
    if nf w 4 6 ≠ 0 ∨ nf w1 10 4 ≠ 0 then none
    else some ⟨.call, 0, w2 % 2 ^ 14, b * 2 ^ 10 + nf w1 0 10, 3⟩
  | 0xC =>
    if nf w 6 2 = 3 ∨ nf w 4 1 ≠ 0 ∨ (f = 0 ∧ b ≠ 0) then none
    else some ⟨pick [.copyx, .fillx, .findx, .sumx], b, 0, nf w 5 3, 1⟩
  | 0xD =>
    if f = 3 then none
    else if f = 2 then some ⟨.ldi, b, 0, a * 2 ^ 28 + w1 % 2 ^ 14 * 2 ^ 14 + w2 % 2 ^ 14, 3⟩
    else if 8 ≤ b then none
    else some ⟨if f = 0 then .mfs else .mts, a, b, 0, 1⟩
  | 0xE =>
    let z6 := nf w 0 6 = 0
    let z2 := nf w 4 2 = 0
    (match nf w 6 4 with
     | 0x0 => if z6 then some ⟨.nop, 0, 0, 0, 1⟩ else none
     | 0x1 => if z6 then some ⟨.rep, 0, 0, 0, 1⟩ else none
     | 0x2 => if z6 then some ⟨.reti, 0, 0, 0, 1⟩ else none
     | 0x3 => if z6 then some ⟨.ret, 0, w1 % 2 ^ 14, 0, 2⟩ else none
     | 0x4 => if z2 then some ⟨.jmpr, b, 0, 0, 1⟩ else none
     | 0x5 => if z2 then some ⟨.callr, b, 0, 0, 1⟩ else none
     | 0x6 => if z6 then some ⟨.wait, 0, 0, 0, 1⟩ else none
     | 0x7 => if z6 then some ⟨.halt, 0, 0, 0, 1⟩ else none
     | 0x8 => if z2 then some ⟨.trap, b, 0, 0, 1⟩ else none
     | 0x9 => if z6 then some ⟨.fence, 0, 0, 0, 1⟩ else none
     | 0xA => if z2 then some ⟨.not, b, 0, 0, 1⟩ else none
     | 0xB => if z2 then some ⟨.neg, b, 0, 0, 1⟩ else none
     | 0xD => if z6 then some ⟨.jmp, 0, 0, w1 % 2 ^ 14, 2⟩ else none
     | _ => none)
  | _ => some ⟨pick [.shlReg, .shrReg, .sarReg, .mulu], a, b, 0, 1⟩

/-- The string instructions. -/
def NOp.isString (o : NOp) : Bool := decide (o = .copyx ∨ o = .fillx ∨ o = .findx ∨ o = .sumx)

/-! ## Arithmetic (R406) -/

/-- FL from its four flags. -/
def flags (n z c v : Bool) : Nat := 8 * b2n n + 4 * b2n z + 2 * b2n c + b2n v

/-- One flag of FL: 3 N, 2 Z, 1 C, 0 V. -/
def flagOf (fl i : Nat) : Bool := decide (fl / 2 ^ i % 2 = 1)

/-- a + b + carry: the result and FL. -/
def addFl (a b : Word) (cin : Bool) : Word × Nat :=
  let r := a + b + wd (b2n cin)
  (r, flags r.msb (r = 0) (decide (2 ^ 32 ≤ a.toNat + b.toNat + b2n cin)) (decide (r.toInt ≠ a.toInt + b.toInt + b2n cin)))

/-- a − b − (1 − carry): the result and FL, C = 1 for no borrow. -/
def subFl (a b : Word) (cin : Bool) : Word × Nat :=
  let k := 1 - b2n cin
  let r := a - b - wd k
  (r, flags r.msb (r = 0) (decide (b.toNat + k ≤ a.toNat)) (decide (r.toInt ≠ a.toInt - b.toInt - k)))

/-- FL of a logical result: C stays, V is 0. -/
def logFl (fl : Nat) (r : Word) : Nat := flags r.msb (r = 0) (flagOf fl 1) false

/-- A shift or rotate by k, 0 to 32: the result and FL. -/
def shiftFl (o : NOp) (fl : Nat) (a : Word) (k : Nat) : Word × Nat :=
  let r : Word := match o with
    | .shl | .shlReg => a <<< k
    | .shr | .shrReg => a >>> k
    | .sar | .sarReg => a.sshiftRight k
    | _ => (a >>> (k % 32)) ||| (a <<< (32 - k % 32))
  let c := if k = 0 then flagOf fl 1
    else match o with
      | .shl | .shlReg => a.getLsbD (32 - k)
      | _ => a.getLsbD (k - 1)
  (r, flags r.msb (r = 0) c false)

/-- The conditions (R408). -/
def condHolds (fl cond : Nat) : Bool :=
  let n := flagOf fl 3
  let z := flagOf fl 2
  let c := flagOf fl 1
  let v := flagOf fl 0
  match cond with
  | 0x0 => z | 0x1 => !z | 0x2 => c | 0x3 => !c | 0x4 => n | 0x5 => !n | 0x6 => v | 0x7 => !v
  | 0x8 => c && !z | 0x9 => !c || z | 0xA => n == v | 0xB => n != v | 0xC => !z && (n == v) | 0xD => z || (n != v)
  | _ => true

/-- The multiplies complete that were issued more than 2 cycles before `cyc` (R412). -/
def Core.mulDone (c : Core) (cyc : Nat) : Core :=
  let c' := (c.muls.filter fun m => decide (m.cyc + 2 < cyc)).foldl (fun (c : Core) m =>
    let v := if m.mac then dw c.ml c.mh + m.val else m.val
    { c with mh := hi32 v, ml := lo32 v }) c
  { c' with muls := c.muls.filter fun m => !decide (m.cyc + 2 < cyc) }

/-- Special register k (R405). -/
def State.spec (s : State) (n k : Nat) : Word :=
  let c := s.core n
  match k with
  | 0 => c.mh | 1 => c.ml | 2 => c.xc | 3 => c.xs | 4 => c.xd | 5 => wd c.fl | 6 => wd (s.ipl n) | _ => c.vb

/-- Write special register k. -/
def State.setSpec (s : State) (n k : Nat) (v : Word) : State :=
  match k with
  | 0 => s.updCore n fun c => { c with mh := v }
  | 1 => s.updCore n fun c => { c with ml := v }
  | 2 => s.updCore n fun c => { c with xc := v }
  | 3 => s.updCore n fun c => { c with xs := v }
  | 4 => s.updCore n fun c => { c with xd := v }
  | 5 => s.updCore n fun c => { c with fl := v.toNat % 16 }
  | 6 => s.setIpl n (v.toNat % 16)
  | _ => s.updCore n fun c => { c with vb := v &&& 0x3FF0 }

/-! ## Loading (R425, R426) -/

/-- The header of a Nioft image: PWORDS, DOFS and DBYTES; none when it breaks R425 or the length differs. -/
def nioHeader (h : List Byte) (len : Nat) : Option (Nat × Nat × Nat) :=
  let f (o : Nat) : Nat := leNat ((h.drop o).take 4)
  let pw := f 4
  let d := f 8
  let n := f 12
  if h.length = 64 ∧ f 0 = 0x314F494E ∧ 1 ≤ pw ∧ pw ≤ 16384 ∧ d % 4 = 0 ∧ d + n ≤ 65536 ∧ len = 64 + 2 * pw + n
      ∧ (h.drop 16).all (· = 0) then some (pw, d, n) else none

/-- Every program word of core n becomes HALT, and LOADED clears (R426) (DEDUCED, log 88). -/
def State.nioClear (s : State) (n : Nat) : State :=
  (s.updCore n fun c => { c with prog := [], pcode := [] }).setB (kCstat n) 29 false

/-- 16-bit values of a byte list. -/
def halves : List Byte → List Nat
  | a :: b :: t => leNat [a, b] :: halves t
  | _ => []

/-- The program and the data of an image body go into the memories of core n (R426 step 2): none when a word has bit 14 or 15 set. -/
def State.nioPlace (s : State) (n pw dofs : Nat) (body : List Byte) : Option State :=
  let ws := halves (body.take (2 * pw))
  if ws.any fun w => decide (2 ^ 14 ≤ w) then none
  else some ((s.nioClear n).updCore n fun c => { c with
    prog := (ws.foldl (fun (p : Tbl Nat × Nat) w => (Tbl.set (fun _ => wHalt) p.1 p.2 w, p.2 + 1)) ([], 0)).1
    data := ((body.drop (2 * pw)).foldl (fun (p : Tbl Byte × Nat) b => (Tbl.set (fun _ => 0) p.1 p.2 b, p.2 + 1)) ([], dofs)).1
    dcode := [] })

/-- The digest of the last measurement of core n (R426 step 4). -/
def State.nioDigest (s : State) (n : Nat) (d : List Byte) : State :=
  s.each (List.range 16) fun s k => s.setReg (kNIO + 0xC00 + 0x40 * n + 4 * k) (wd (leNat ((d.drop (4 * k)).take 4)))

/-- The set of core n in force (R426 step 5, R429). -/
def State.nioSet (s : State) (n : Nat) (grant : Word) (pw aux : Nat) : State :=
  ((s.setReg (kNgrant n) grant).setReg (kNpwords n) (wd pw)).updCore n fun c => { c with grant := grant, pwords := pw, aux := aux }

/-- The checks of `NIOFT_LOAD`: the reply of the first that fails. -/
def nioftLoadFault (o : Open) (s : State) : Option Reply :=
  let p := o.pkt
  let n := fld (pw p 0) 0 4
  let src := pd p 1
  let len := (pw p 3).toNat
  firstFail [
    (s.expert 0x0C, rep .unitExpert 0x0C),
    (decide (n < 4) || outside p 0 0xF, repBadP 0),
    (outside p 4 0xFFFF6FFF, repBadP 4),
    (highBits p 1, repBadP 2),
    (s.coreRuns n, rep .notReady 0x0C),
    ((match s.celFind src len with | some r => s.celLight r | none => true), repBadP 1),
    (decide (len < 64), repBadP 3)]

/-- `NIOFT_LOAD` (R426). -/
def beginNioftLoad (o : Open) (s : State) : Started × State :=
  match nioftLoadFault o s with
  | some r => (.done r, s)
  | none =>
      let p := o.pkt
      let n := fld (pw p 0) 0 4
      let src := pd p 1
      let len := (pw p 3).toNat
      if s.awaited (.nioftLoad n) then (.later, s)
      else match s.devRead 0x0C n src 64 with
        | (.ok h, s) => if (nioHeader h len).isSome then (.wait (.nioftLoad n), s.nioClear n) else (.done (repBadP 3), s)
        | (_, s) => (.done (rep .uncorr 0x0C), s.nioClear n)

/-- What was read for a `NIOFT_LOAD` of core n is judged, measured and placed (R426). -/
def State.nioLoadImg (s : State) (o : Open) (n : Nat) (img : List Byte) : State :=
  let len := (pw o.pkt 3).toNat
  let w : Wait := .nioftLoad n
  match nioHeader (img.take 64) len with
  | none => s.finish w (repBadP 3)
  | some (pwn, d, _) =>
    match s.nioPlace n pwn d (img.drop 64) with
    | none => s.finish w (repBadP 3)
    | some s =>
      let dig := sha512 img
      let g := pw o.pkt 4
      let s := (s.nioDigest n dig).measure 0x11 (srcRing o.pkt.ring.val) n g.toNat (BitVec.ofNat 64 len) dig
      let s := (s.nioSet n g pwn len).setReg (kCstat n) (0x20000000 ||| (s.reg (kCstat n) &&& 0x0F003FFF))
      s.finish w ⟨.ok, 0, wd (leNat (dig.take 4)), wd (leNat ((dig.drop 4).take 4)), wd (leNat ((dig.drop 8).take 4))⟩

/-- The load of core n by a command: its source is read (R426). -/
def State.nioLoadRun (s : State) (o : Open) (n : Nat) : State :=
  let r := s.devRead 0x0C n (pd o.pkt 1) (pw o.pkt 3).toNat
  match r.1 with
  | .poison _ => r.2.finish (.nioftLoad n) (rep .uncorr 0x0C)
  | .refused => r.2.finish (.nioftLoad n) (repBadP 3)
  | .ok img => r.2.nioLoadImg o n img

/-- The load of core n ends (R426). -/
def State.nioLoadDone (s : State) (n : Nat) : State :=
  match s.foy.opens.find? fun o => o.begun && decide (o.wait = .nioftLoad n) with
  | none => s
  | some o => s.nioLoadRun o n

/-- The checks of `NIOFT_START`: the reply of the first that fails. -/
def nioftStartFault (o : Open) (s : State) : Option Reply :=
  let p := o.pkt
  let n := fld (pw p 0) 0 4
  let entry := fld (pw p 1) 0 14
  firstFail [
    (s.expert 0x0C, rep .unitExpert 0x0C),
    (outside p 0 0xF, repBadP 0),
    (outside p 1 0x3FFF && decide (4 ≤ n), repBadP 1),
    (decide (n < 4), repBadP 0),
    (!s.regB (kCstat n) 29 || s.coreRuns n, rep .notReady 0x0C),
    (decide ((s.core n).pwords ≤ entry), repBadP 1)]

/-- `NIOFT_START` (R427). -/
def beginNioftStart (o : Open) (s : State) : Started × State :=
  match nioftStartFault o s with
  | some r => (.done r, s)
  | none =>
      let p := o.pkt
      let n := fld (pw p 0) 0 4
      let entry := fld (pw p 1) 0 14
      (.done repOk, s.nioStart n entry)

/-- The checks of `NIOFT_STOP`: the reply of the first that fails (DEDUCED, log 87). -/
def nioftStopFault (o : Open) (s : State) : Option Reply :=
  let p := o.pkt
  let n := fld (pw p 0) 0 4
  firstFail [
    (s.expert 0x0C, rep .unitExpert 0x0C),
    (outside p 0 0xF || decide (n < 4), repBadP 0)]

/-- `NIOFT_STOP` (R428).  The firmware cores cannot be stopped (R400). -/
def beginNioftStop (o : Open) (s : State) : Started × State :=
  match nioftStopFault o s with
  | some r => (.done r, s)
  | none =>
      let p := o.pkt
      let n := fld (pw p 0) 0 4
      if !s.coreRuns n then (.done (rep .okEmpty 0), s) else (.wait (.nioftHalt n), s.nioStop n)

/-! ## Expert control (R429) -/

/-- A write of `NIO_CTL` of a Parlour core (DEDUCED, log 131). -/
def State.nioCtlWrite (s : State) (n : Nat) (v : Word) : State :=
  let k := kNctl n
  let s := s.setReg k (s.reg k &&& ~~~ (v &&& 0x30000000))
  let s := if bit v 30 && s.coreRuns n then (s.setB k 30 true).nioStop n else s
  if !bit v 31 then s
  else if s.coreRuns n then s.setB k 28 true
  else
    let pwn := s.regF (kNpwords n) 0 15
    let entry := s.regF (kNentry n) 0 14
    let grant := s.reg (kNgrant n)
    let refuse (c : Nat) : State := (s.setF k 16 8 c).setB k 29 true
    if pwn < 1 ∨ 16384 < pwn then refuse 1
    else if pwn ≤ entry then refuse 2
    else if grant &&& 0x00009000 ≠ 0 then refuse 3
    else
      let c := s.core n
      let dig := sha512 ((List.range pwn).flatMap fun i => leBytes 2 (c.word i))
      let s := (s.nioDigest n dig).measure 0x12 srcExpert n grant.toNat (BitVec.ofNat 64 pwn) dig
      ((s.nioSet n grant pwn pwn).setB (kCstat n) 29 true).nioStart n entry

/-! ## Page grants (R402) -/

/-- The page of a register-space offset is granted to core n, for a read or a write; the firmware cores reach every page. -/
def State.nioGranted (s : State) (n off : Nat) (write : Bool) : Bool :=
  let u := off / 0x10000
  let g := (s.core n).grant
  if n < 4 then true
  else if u ≤ 0x0B then bit g u
  else if u = 0x0D then bit g 13 && !write
  else if u = 0x0E then bit g 14
  else if 0x10 ≤ u ∧ u < 0x30 then bit g (16 + (u - 0x10) / 2)
  else false

/-- The Parlour cores N4 to N15. -/
def State.nioParlour : List Nat := (List.range 12).map (· + 4)

end Sys2Proof.Machine
end

