-- ==== Sys2Proof/Machine/Psq.lean ====
section
/-! DEFINITION. Pin sequencers: slots, instructions, injection, pins and the `PINSEQ` commands (R455 to R467).  A channel has the index 32 × engine + channel. -/

namespace Sys2Proof.Machine

/-- Keys of the program words of channel i, of the slot table words of engine e, of pin p and of bank b (R467). -/
def kPw (i w : Nat) : Nat := kPSQ + 0x3000 * (i / 32) + 0x100 * (i % 32) + 4 * w
def kSlot (e w : Nat) : Nat := kPSQ + 0x3000 * e + 0x2800 + 4 * w
def kErun (e : Nat) : Nat := kPSQ + 0x3000 * e + 0x2840
def kPin (p : Nat) : Nat := kPSQ + 0xC000 + 4 * p
def kBank (b : Nat) : Nat := kPSQ + 0xC200 + 4 * b

/-- RUN of channel i. -/
def State.psqRun (s : State) (i : Nat) : Bool := s.regB (kPc i) 31

def State.psqSetRun (s : State) (i : Nat) (b : Bool) : State := (s.setB (kPc i) 31 b).setB (kErun (i / 32)) (i % 32) b

/-- Output and input group of a configuration: first pin and number of pins. -/
def psqOut (c0 : Word) : Nat × Nat := (fld c0 24 7, fld c0 20 3 + 1)
def psqIn (c0 : Word) : Nat × Nat := (fld c0 8 7, fld c0 4 3 + 1)

/-- The pins of a channel's output group. -/
def psqOutPins (c0 : Word) : List Nat := (List.range (psqOut c0).2).map fun k => (psqOut c0).1 + k

/-- Pin p belongs to channel i. -/
def State.pinOwner (s : State) (p i : Nat) : Bool := s.regB (kPin p) 31 && decide (s.regF (kPin p) 0 7 = i)

/-- Source 360 + i is asserted while F, FAULT or ILL is 1 (R459). -/
def State.psqSource (s : State) (i : Nat) : State :=
  let w := s.reg (kPc i)
  s.level (360 + i) (bit w 29 || bit w 28 || bit w 27)

/-- The level of request line i, and its rising edge (R459). -/
def State.psqLine (s : State) (i : Nat) : State :=
  let v := s.psqCh i
  let fqth := fld v.cfg1 28 4
  let sqth := fld v.cfg1 24 4
  let high := (decide (fqth ≠ 0) && decide (v.fq.length < fqth)) || (decide (sqth ≠ 0) && decide (sqth ≤ v.sq.length))
  let s := s.setPsqCh i { v with line := high }
  if high && !v.line then s.request i else s

/-- The registers that show queues and latch follow the channel's record. -/
def State.psqShow (s : State) (i : Nat) : State :=
  let v := s.psqCh i
  let l := v.ahead.orElse fun _ => v.latch
  let bits := match l with
    | some x => if fld x.w 28 4 = 2 ∨ fld x.w 28 4 = 3 ∨ fld x.w 28 4 = 0xD then min 63 x.left else 0
    | none => 0
  let s := (s.setB (kPc i) 30 l.isSome).setF (kPc i) 0 6 bits
  let s := s.setReg (kPc i + 0x18) (match l with | some x => x.w | none => 0)
  (s.setReg (kPc i + 0x28) (wd (v.fq.length * 65536 + v.sq.length))).psqLine i

/-! ## Configuration (R464) -/

/-- The refusal cause of a channel's configuration, against the channels that run or start, and those that start with it. -/
def State.psqCause (s : State) (i : Nat) (others : List Nat) : Option Nat :=
  let c0 := s.reg (kPc i + 4)
  let c1 := s.reg (kPc i + 8)
  let pins := psqOutPins c0
  let busy := (List.range 128).filter fun k => decide (k ≠ i) && (s.psqRun k || (s.psqCh k).starting)
  let clash (k : Nat) (w : Word) : Bool := decide (k ≠ i) && (psqOutPins w).any fun p => pins.contains p
  if 96 < (psqOut c0).1 + (psqOut c0).2 ∨ 96 < (psqIn c0).1 + (psqIn c0).2 then some 1
  else if !s.present 7 || pins.any fun p => decide (s.regF (kBank (p / 16)) 29 2 = 0) then some 2
  else if (busy.any fun k => clash k (s.psqCh k).cfg0) || (others.any fun k => clash k (s.reg (kPc k + 4))) then some 3
  else if 8 < fld c1 28 4 ∨ 8 < fld c1 24 4 then some 4
  else if s.expert 8 ∧ (c0 &&& 0x808F808F ≠ 0 ∨ c1 &&& 0x00400000 ≠ 0) then some 5
  else none

/-- A configuration is refused: MISMATCH and MMCAUSE; the previous one stays. -/
def State.psqRefuse (s : State) (i cause : Nat) : State := (s.setF (kPc i) 16 8 cause).setB (kPc i) 15 true

/-- A pin leaves its owner: it keeps its level and output enable (R461). -/
def State.pinLeave (s : State) (p : Nat) : State := s.setB (kPin p) 31 false

/-- FAULT of channel i follows the shorts on its pins (R462). -/
def State.psqFault (s : State) (i : Nat) : State :=
  (s.setB (kPc i) 28 ((List.range 96).any fun p => s.pinOwner p i && s.regB (kPin p) 27)).psqSource i

/-- The configuration of channel i takes effect: it owns the pins of its output group from now on (R461). -/
def State.psqConfigure (s : State) (i : Nat) : State :=
  let c0 := s.reg (kPc i + 4)
  let pins := psqOutPins c0
  let s := s.each (List.range 96) fun s p => if s.pinOwner p i && !pins.contains p then s.pinLeave p else s
  let s := s.each pins fun s p => (s.setF (kPin p) 0 7 i).setB (kPin p) 31 true
  (s.setPsqCh i { s.psqCh i with cfg0 := c0, cfg1 := s.reg (kPc i + 8), cfgNew := false }).psqFault i

/-- Channel i no longer owns a pin. -/
def State.psqDisown (s : State) (i : Nat) : State :=
  (s.each (List.range 96) fun s p => if s.pinOwner p i then s.pinLeave p else s).psqFault i

/-! ## Instructions (R457, R458) -/

/-- The bits an instruction may hold. -/
def psqMask (w : Word) : Word :=
  let k := fld w 24 4
  match fld w 28 4 with
  | 0x0 => 0 | 0x1 => 0x00FFFFFF | 0x2 => 0x0230001F | 0x3 => 0x0230001F | 0x4 => 0x0000013F | 0x5 => 0x00000300
  | 0x6 => if k = 0 then 0x0000017F else if k = 3 then 0x0300003F else 0x0300001F
  | 0x7 => if k = 1 ∨ k = 2 then 0x0F007F3F else 0x0F00003F
  | 0x8 => 0x0000FFFF | 0x9 => 0 | 0xA => 0x0000FFFF | 0xB => 0x00000003 | 0xC => 0 | 0xD => 0x0000FFFF | _ => 0

/-- Reserved values and bits make an instruction illegal (R458). -/
def psqLegal (w : Word) : Bool :=
  let k := fld w 24 4
  decide (w &&& ~~~ (psqMask w ||| 0xF0000000) = 0) &&
    match fld w 28 4 with
    | 0x6 => decide (k ≤ 3) && (decide (k ≠ 0) || decide (fld w 0 7 ≤ 95))
    | 0x7 => decide (k ≤ 5) && (!(decide (k = 1) || decide (k = 2)) || decide (fld w 8 7 ≤ 95))
    | 0xE => false
    | 0xF => false
    | _ => true

/-- What one execution of an instruction does to the flow. -/
inductive PsqFlow where
  /-- It completes; execution goes on behind it. -/
  | next
  | jump (pc : Nat)
  /-- It stays latched. -/
  | stall (l : PsqLat)
  | illegal
  | stop
  deriving DecidableEq, Repr

/-- The pad level of a pin (R461): 0 while its bank is unpowered. -/
def State.pad (s : State) (p : Nat) : Bool := s.regB (kPin p) 28

/-- Drive an output pin's level, and its output enable when one is given. -/
def State.pinDrive (s : State) (p : Nat) (oe : Option Bool) (lvl : Bool) : State :=
  let s := s.setB (kPin p) 29 lvl
  match oe with
  | some b => (s.setB (kPin p) 30 b).setB (kPin p) 26 false
  | none => s

/-- P and the step count of channel i. -/
def State.psqP (s : State) (i : Nat) : Nat := s.regF (kPc i + 0x1C) 16 16
def State.psqCount (s : State) (i : Nat) : Nat := s.regF (kPc i + 0x1C) 0 16

/-- A step is due: the step count has reached P (R49, R457). -/
def State.psqStepDue (s : State) (i : Nat) : Bool := decide (s.psqP i ≤ s.psqCount i)

/-- Loop stack: depth, and the pushes and pops of LOOP and NEXT. -/
def State.psqDepth (s : State) (i : Nat) : Nat := s.regF (kPc i + 0x14) 0 2

def State.psqPush (s : State) (i count ret : Nat) : State :=
  let d := s.psqDepth i
  let s := if d = 1 then s.setReg (kPc i + 0x34) (s.reg (kPc i + 0x14) &&& 0xFFFF3F00) else s
  s.setReg (kPc i + 0x14) (wd (count % 65536 * 65536 + ret % 64 * 256 + (d + 1)))

def State.psqPop (s : State) (i : Nat) : State :=
  let d := s.psqDepth i
  if d = 2 then (s.setReg (kPc i + 0x14) (s.reg (kPc i + 0x34) ||| 1)).setReg (kPc i + 0x34) 0
  else s.setReg (kPc i + 0x14) 0

/-- Bits per step of EMIT and SAMPLE. -/
def psqW (w : Word) : Nat := 2 ^ fld w 20 2

/-- EMIT puts n bits of E on the output pins (DEDUCED, log 126). -/
def State.psqEmitBits (s : State) (i : Nat) (w : Word) (n : Nat) : State :=
  let e := s.reg (kPc i + 0xC)
  let o := psqOut (s.psqCh i).cfg0
  let s := s.each (List.range (min n o.2)) fun s k => s.pinDrive (o.1 + k) none (bit e (if bit w 25 then 31 - k else k))
  s.setReg (kPc i + 0xC) (if bit w 25 then e <<< n else e >>> n)

/-- SAMPLE takes n bits from the input pins into G; a pin beyond the input group reads 0. -/
def State.psqSampleBits (s : State) (i : Nat) (w : Word) (n : Nat) : State :=
  let g := s.reg (kPc i + 0x10)
  let q := psqIn (s.psqCh i).cfg0
  let v (k : Nat) : Bool := decide (k < q.2) && s.pad (q.1 + k)
  let sh := if bit w 25 then g <<< n else g >>> n
  s.setReg (kPc i + 0x10) ((List.range n).foldl (fun (a : Word) k =>
    a ||| flag (if bit w 25 then n - 1 - k else 32 - n + k) (v k)) sh)

/-- An instruction that works on up to `left` units, at most `width` at each step pulse of the channel (R458). -/
def State.psqStepped (s : State) (i : Nat) (l : PsqLat) (f : State → Nat → State) (left width : Nat) : PsqFlow × State :=
  if s.psqStepDue i then
    let n := min width left
    let s := (f s n).setF (kPc i + 0x1C) 0 16 0
    if left - n = 0 then (.next, s) else (.stall { l with left := left - n }, s)
  else (.stall { l with left := left }, s)

/-- One execution of instruction `l.w` by channel i; `ret` is where execution goes on behind it, `first` that it has not executed before. -/
def State.psqExec (s : State) (i : Nat) (l : PsqLat) (first : Bool) (ret : Nat) : PsqFlow × State :=
  let w := l.w
  let v := s.psqCh i
  if !psqLegal w then (.illegal, s)
  else match fld w 28 4 with
    | 0x0 => (.next, s)
    | 0x1 =>
      let o := psqOut v.cfg0
      (.next, s.each (List.range o.2) fun s k =>
        if bit w (8 + k) then s.pinDrive (o.1 + k) (some (bit w (16 + k))) (bit w k) else s)
    | 0x2 => s.psqStepped i l (fun s n => s.psqEmitBits i w n) (if first then fld w 0 5 + 1 else l.left) (psqW w)
    | 0x3 => s.psqStepped i l (fun s n => s.psqSampleBits i w n) (if first then fld w 0 5 + 1 else l.left) (psqW w)
    | 0x4 =>
      if bit w 8 then
        match v.fq with
        | [] => (.stall l, s)
        | x :: t => (.next, (s.setReg (kPc i + 0xC) x).setPsqCh i { v with fq := t })
      else (.next, s.setReg (kPc i + 0xC) (s.reg (kPw i (fld w 0 6))))
    | 0x5 =>
      let clear (s : State) : State := if bit w 9 then s else s.setReg (kPc i + 0x10) 0
      if v.sq.length < 8 then (.next, clear (s.setPsqCh i { v with sq := v.sq ++ [s.reg (kPc i + 0x10)] }))
      else if bit w 8 then (.next, clear (s.setB (kPc i) 25 true))
      else (.stall l, s)
    | 0x6 =>
      if fld w 24 4 = 0 then (if s.pad (fld w 0 7) = bit w 8 then (.next, s) else (.stall l, s))
      else if l.ev then (.next, s) else (.stall l, s)
    | 0x7 =>
      let holds := match fld w 24 4 with
        | 0 => true
        | 1 => s.pad (fld w 8 7)
        | 2 => !s.pad (fld w 8 7)
        | 3 => !v.fq.isEmpty
        | 4 => decide (v.sq.length < 8)
        | _ => s.regB (kPc i) 29
      if holds then (.jump (fld w 0 6), s) else (.next, s)
    | 0x8 => if s.psqDepth i = 2 then (.illegal, s) else (.next, s.psqPush i (fld w 0 16) ret)
    | 0x9 =>
      let top := s.reg (kPc i + 0x14)
      if s.psqDepth i = 0 then (.illegal, s)
      else if fld top 16 16 ≠ 0 then (.jump (fld top 8 6), s.setF (kPc i + 0x14) 16 16 (fld top 16 16 - 1))
      else (.next, s.psqPop i)
    | 0xA => (.next, s.setF (kPc i + 0x1C) 16 16 (fld w 0 16))
    | 0xB =>
      let s := (s.setB (kPc i) 29 (bit w 0)).psqSource i
      (.next, if bit w 1 then s.request i else s)
    | 0xC => (.stop, s)
    | _ => s.psqStepped i l (fun s _ => s) (if first then fld w 0 16 + 1 else l.left) 1

/-- A stop of channel i: registers stay, the latch and a waiting injection go, and the pins leave their owner (R460, R465). -/
def State.psqHalt (s : State) (i : Nat) : State :=
  let v := s.psqCh i
  let s := if v.inj.isEmpty then s else s.setB (kPc i) 26 true
  let s := s.setPsqCh i { v with stopping := false, inj := [], latch := none, ahead := none }
  ((s.psqSetRun i false).psqDisown i).psqShow i

/-- An illegal instruction halts the channel (R458). -/
def State.psqIllegal (s : State) (i : Nat) (w : Word) : State :=
  let pc := s.regF (kPc i) 8 6
  let s := ((s.setB (kPc i) 27 true).psqHalt i).psqSource i
  s.errRec sevInfo 0x08 0x0043 i .badOpcode w (wd pc)

/-- The open commands that wait for the start (or stop) of channel c of engine e note it, and are finished with the last one. -/
def State.psqNote (s : State) (e c : Nat) (start : Bool) : State :=
  let b := flag c true
  { s with foy := { s.foy with opens := s.foy.opens.map fun o =>
      let go (m : Word) (w : Word → Wait) : Open :=
        if m &&& ~~~ b = 0 then { o with fin := some repOk, wait := .none } else { o with wait := w (m &&& ~~~ b) }
      if !o.begun || o.fin.isSome then o
      else match o.wait with
        | .pinStart e' m => if start && decide (e' = e) && bit m c then go m (.pinStart e) else o
        | .pinStop e' m => if !start && decide (e' = e) && bit m c then go m (.pinStop e) else o
        | _ => o } }

/-- A start takes effect (R465). -/
def State.psqBegin (s : State) (i : Nat) : State :=
  let v := s.psqCh i
  let s := s.setPsqCh i { v with starting := false, inj := [], latch := none, ahead := none }
  let s := (s.setF (kPc i) 8 6 (fld v.cfg1 16 6)).setReg (kPc i + 0xC) 0
  let s := ((s.setReg (kPc i + 0x10) 0).setReg (kPc i + 0x14) 0).setReg (kPc i + 0x34) 0
  let s := ((s.setReg (kPc i + 0x1C) 0).setB (kPc i) 29 false).setB (kPc i) 27 false
  let s := s.each (psqOutPins v.cfg0) fun s p => s.setB (kPin p) 26 false
  ((s.psqSetRun i true).psqSource i).psqNote (i / 32) (i % 32) true

/-- The outcome of one execution: where the PC goes and what stays latched; `ahead` says that the instruction was injected ahead of a latch that stays, or in place of a fetch. -/
def State.psqFlow (s : State) (i : Nat) (w : Word) (f : PsqFlow) (ret : Nat) (inAhead : Bool) : State :=
  let v := s.psqCh i
  let off : State := s.setPsqCh i (if inAhead then { v with ahead := none } else { v with latch := none })
  match f with
  | .next => if inAhead && v.latch.isSome then off else off.setF (kPc i) 8 6 (ret % 64)
  | .jump pc => off.setF (kPc i) 8 6 pc
  | .stall l => s.setPsqCh i (if inAhead then { v with ahead := some l } else { v with latch := some l })
  | .illegal => s.psqIllegal i w
  | .stop => s.psqHalt i

/-- One slot of a running channel (R457, R460). -/
def State.psqRunSlot (s : State) (i : Nat) : State :=
  let v := s.psqCh i
  let pc := s.regF (kPc i) 8 6
  let run (s : State) (l : PsqLat) (first : Bool) (ret : Nat) (inAhead : Bool) : State :=
    let r := s.psqExec i l first ret
    r.2.psqFlow i l.w r.1 ret inAhead
  let s := match v.ahead, v.inj with
    | some l, _ => run s l false pc true
    | none, (w, resume) :: t =>
      let s := s.setPsqCh i { v with inj := t }
      if v.latch.isSome && resume then run s ⟨w, 0, false⟩ true pc true
      else if v.latch.isSome then run (s.setPsqCh i { v with inj := t, latch := none }) ⟨w, 0, false⟩ true (pc + 1) false
      else run s ⟨w, 0, false⟩ true pc true
    | none, [] =>
      match v.latch with
      | some l => run s l false (pc + 1) false
      | none => run s ⟨s.reg (kPw i pc), 0, false⟩ true (pc + 1) false
  s.psqShow i

/-- The table in use by engine e: entry k as EN and channel (R455). -/
def State.slotEntry (s : State) (e k : Nat) : Nat :=
  match Tbl.get (fun _ => []) s.slotTab e with
  | [] => 0x80 + k % 32
  | t => fld (t.getD (k / 4) 0) (8 * (k % 4)) 8

/-- A slot table that is written takes effect at entry 0 (R455). -/
def State.slotted (s : State) (e k : Nat) : State :=
  { s with slotTab := if k = 0 then Tbl.set (fun _ => []) s.slotTab e ((List.range 16).map fun w => s.reg (kSlot e w)) else s.slotTab }

/-- The pads are sensed: a pin of an unpowered bank reads 0 (R461). -/
def State.sensePads (s : State) (pads : BitVec 96) : State :=
  s.each (List.range 96) fun s p =>
    s.setB (kPin p) 28 (pads.getLsbD p && decide (s.regF (kBank (p / 16)) 29 2 ≠ 0))

/-- Slot k of engine e arrives, `cyc` engine cycles after the last slot of the channel it names; `want` picks by the instruction that would execute. -/
def State.psqSlotStep (s : State) (e k cyc : Nat) (pads : BitVec 96) (want : Word → Bool) : State :=
  let s := s.slotted e k
  let ent := s.slotEntry e k
  let i := 32 * e + ent % 32
  let s := s.sensePads pads
  if ent / 128 % 2 = 0 then s
  else
    let v := s.psqCh i
    if v.starting then
      let s := s.psqBegin i
      if want (s.reg (kPw i (s.regF (kPc i) 8 6))) then s.psqRunSlot i else s.psqShow i
    else if v.stopping then (s.psqHalt i).psqNote e (ent % 32) false
    else if !s.psqRun i then s
    else
      let s := s.setF (kPc i + 0x1C) 0 16 (min 65535 (s.psqCount i + cyc))
      let s := if v.cfgNew then
          (match s.psqCause i [] with
           | some c => (s.psqRefuse i c).setPsqCh i { v with cfgNew := false }
           | none => s.psqConfigure i)
        else s
      let v := s.psqCh i
      let next := match v.ahead, v.inj, v.latch with
        | some l, _, _ => l.w
        | none, (w, _) :: _, _ => w
        | none, [], some l => l.w
        | none, [], none => s.reg (kPw i (s.regF (kPc i) 8 6))
      if want next then s.psqRunSlot i else s

/-! ## The commands (R463, R465) -/

/-- PINSEQ_LOAD's shared checks 1 and 2, for a form of given size and length. -/
def psqLoadChecks (o : Open) (s : State) (form : Nat) : Option Reply :=
  let p0 := pw o.pkt 0
  let m := o.pkt.len.toNat - 5
  let first := fld p0 16 6
  firstFail [s.expertUnit 8, s.absentBit 7,
    (outside o.pkt 0 0x073F1F03 ||
      (match form with
       | 0 => decide (64 < first + m)
       | 1 => decide (16 < first + m) || decide (fld p0 8 5 ≠ 0)
       | _ => decide (first ≠ 0)) ||
      (bit p0 26 && decide (form ≠ 3)), repBadP 0),
    (match form with
     | 0 => decide (m < 1) || decide (64 < m)
     | 1 => decide (m < 1) || decide (16 < m)
     | 2 => decide (o.pkt.len.toNat ≠ 7)
     | _ => decide (o.pkt.len.toNat ≠ 6), rep .badLength o.pkt.len.toNat)]

/-- The channel index that P0 of a PINSEQ_LOAD names. -/
def psqLoadCh (o : Open) : Nat := 32 * fld (pw o.pkt 0) 0 2 + fld (pw o.pkt 0) 8 5

/-- Program form. -/
def beginPinseqProgram (o : Open) (s : State) : Started × State :=
  match psqLoadChecks o s 0 with
  | some r => (.done r, s)
  | none =>
    (.done repOk, s.each (List.range (o.pkt.len.toNat - 5)) fun s j =>
      s.setReg (kPw (psqLoadCh o) (fld (pw o.pkt 0) 16 6 + j)) (pw o.pkt (j + 1)))

/-- Slot-table form; effective at the next entry 0. -/
def beginPinseqSlot (o : Open) (s : State) : Started × State :=
  match psqLoadChecks o s 1 with
  | some r => (.done r, s)
  | none =>
    (.done repOk, s.each (List.range (o.pkt.len.toNat - 5)) fun s j =>
      s.setReg (kSlot (fld (pw o.pkt 0) 0 2) (fld (pw o.pkt 0) 16 6 + j)) (pw o.pkt (j + 1)))

/-- Configuration form; effective at the next start, or at the next slot of a running channel. -/
def beginPinseqConfig (o : Open) (s : State) : Started × State :=
  match psqLoadChecks o s 2 with
  | some r => (.done r, s)
  | none =>
      let i := psqLoadCh o
      let s := (s.setReg (kPc i + 4) (pw o.pkt 1)).setReg (kPc i + 8) (pw o.pkt 2)
      (.done repOk, s.setPsqCh i { s.psqCh i with cfgNew := s.psqRun i })

/-- Injection form (R460). -/
def beginPinseqInject (o : Open) (s : State) : Started × State :=
  let i := psqLoadCh o
  let op := fld (pw o.pkt 1) 28 4
  match psqLoadChecks o s 3 with
  | some r => (.done r, s)
  | none =>
    if bit (pw o.pkt 0) 26 && [7, 8, 9, 0xC].contains op then (.done (repBadP 1), s)
    else if !s.psqRun i then (.done (rep .notReady 0x08), s)
    else if !(s.psqCh i).inj.isEmpty || (s.psqCh i).ahead.isSome then (.later, s)
    else (.done repOk, s.setPsqCh i { s.psqCh i with inj := [(pw o.pkt 1, bit (pw o.pkt 0) 26)] })

/-- PINSEQ_LOAD, by FORM (R463). -/
def beginPinseqLoad (o : Open) (s : State) : Started × State :=
  match fld (pw o.pkt 0) 24 2 with
  | 0 => beginPinseqProgram o s
  | 1 => beginPinseqSlot o s
  | 2 => beginPinseqConfig o s
  | _ => beginPinseqInject o s

/-- The channels a start would start: named, and neither running nor starting. -/
def State.psqStartable (s : State) (e : Nat) (mask : Word) : List Nat :=
  ((List.range 32).filter fun c => bit mask c && !s.psqRun (32 * e + c) && !(s.psqCh (32 * e + c)).starting).map fun c => 32 * e + c

/-- Start channels, all or none (R465): every refused one shows it and none starts, or all are starting. -/
def State.psqStart (s : State) (chs : List Nat) : Bool × State :=
  match chs.filterMap fun i => (s.psqCause i chs).map fun c => (i, c) with
  | x :: t => (false, s.each (x :: t) fun s p => s.psqRefuse p.1 p.2)
  | [] => (true, s.each chs fun s i => (s.psqConfigure i).setPsqCh i { (s.psqConfigure i).psqCh i with starting := true })

/-- Request the stop of every running or starting channel of a mask; the mask of those (R465). -/
def State.psqStop (s : State) (e : Nat) (mask : Word) : Word × State :=
  let chs := (List.range 32).filter fun c => bit mask c && (s.psqRun (32 * e + c) || (s.psqCh (32 * e + c)).starting)
  (chs.foldl (fun m c => m ||| flag c true) 0,
   s.each chs fun s c => s.setPsqCh (32 * e + c) { s.psqCh (32 * e + c) with stopping := true })

/-- The checks of `PINSEQ_START`: the reply of the first that fails. -/
def pinseqStartFault (o : Open) (s : State) : Option Reply :=
  firstFail [s.expertUnit 8, s.absentBit 7, (outside o.pkt 0 3, repBadP 0)]

/-- PINSEQ_START (R465). -/
def beginPinseqStart (o : Open) (s : State) : Started × State :=
  match pinseqStartFault o s with
  | some r => (.done r, s)
  | none =>
      let e := fld (pw o.pkt 0) 0 2
      let chs := s.psqStartable e (pw o.pkt 1)
      if chs.isEmpty then (.done (rep .okEmpty 0), s)
      else
        let r := s.psqStart chs
        if r.1 then (.wait (.pinStart e (chs.foldl (fun m i => m ||| flag (i % 32) true) 0)), r.2)
        else (.done (rep .configMismatch 0x08), r.2)

/-- The checks of `PINSEQ_STOP`: the reply of the first that fails. -/
def pinseqStopFault (o : Open) (s : State) : Option Reply :=
  firstFail [s.expertUnit 8, s.absentBit 7, (outside o.pkt 0 3, repBadP 0)]

/-- PINSEQ_STOP (R465). -/
def beginPinseqStop (o : Open) (s : State) : Started × State :=
  match pinseqStopFault o s with
  | some r => (.done r, s)
  | none =>
      let e := fld (pw o.pkt 0) 0 2
      let r := s.psqStop e (pw o.pkt 1)
      if r.1 = 0 then (.done (rep .okEmpty 0), s) else (.wait (.pinStop e r.1), r.2)

/-! ## Registers with an effect of their own (R459, R460, R467) -/

/-- A write of `PSQ_FQ`. -/
def State.psqFeed (s : State) (i : Nat) (w : Word) : State :=
  let v := s.psqCh i
  if v.fq.length < 8 then (s.setPsqCh i { v with fq := v.fq ++ [w] }).psqShow i else s.setB (kPc i) 24 true

/-- A read of `PSQ_SQ`. -/
def State.psqDrain (s : State) (i : Nat) : Word × State :=
  let v := s.psqCh i
  match v.sq with
  | [] => (0, s)
  | w :: t => (w, (s.setPsqCh i { v with sq := t }).psqShow i)

/-- A write of `PSQ_INJ`; RESUME comes from `PSQ_INJCTL`.  An injection that R460 does not allow is refused as an inconsistent set (R48). -/
def State.psqInject (s : State) (i : Nat) (w : Word) : State :=
  let resume := s.regB (kPc i + 0x2C) 31
  let s' := s.setReg (kPc i + 0x2C) 0
  if !s.psqRun i then s'.setB (kPc i) 26 true
  else if resume && [7, 8, 9, 0xC].contains (fld w 28 4) then s'.setB (kPc i) 15 true
  else s'.setPsqCh i { s.psqCh i with inj := (s.psqCh i).inj ++ [(w, resume)] }

/-! ## Pins and banks (R461, R462) -/

/-- RBCNT consecutive comparisons of pin p have failed, or have held (R462). -/
def State.pinShort (s : State) (p : Nat) (mismatch : Bool) : State :=
  let i := s.regF (kPin p) 0 7
  let cfg1 := (s.psqCh i).cfg1
  let k := kPin p
  if !s.regB k 31 || !s.regB k 30 || decide (fld cfg1 0 16 = 0) then s
  else if mismatch then
    if s.regB k 27 then s
    else
      let s := s.setB k 27 true
      let s := if bit cfg1 23 then (s.setB k 30 false).setB k 26 true else s
      let b := kBank (p / 16)
      let s := s.setF b 0 16 ((s.regF b 0 16 + 1) % 65536)
      (s.psqFault i).errRec sevInfo 0x08 0x0042 p .ok (s.reg k) (s.reg b)
  else (s.setB k 27 false).psqFault i

/-- The supply of bank b takes a level: 0 outside both ranges, 1 for 1.8 V, 2 for 3.3 V (R461). -/
def State.bankSupply (s : State) (b lvl : Nat) : State :=
  let was := s.regF (kBank b) 29 2
  let s := s.setF (kBank b) 29 2 lvl
  if lvl = 0 ∧ was ≠ 0 then
    let s := s.each (List.range 16) fun s k => s.setB (kPin (16 * b + k)) 28 false
    s.errRec sevInfo 0x08 0x0044 b .notReady (s.reg (kBank b)) 0
  else s

/-- `UNIT_RESET` of unit 0x08: every channel stops, queues clear, every pin is high-impedance; programs, configurations and slot tables stay (R466). -/
def State.psqReset (s : State) : State :=
  let s := s.each (List.range 128) fun s i =>
    let v := s.psqCh i
    let s := s.setPsqCh i { v with fq := [], sq := [], starting := false }
    (((s.psqHalt i).setB (kPc i) 29 false).psqSource i).psqNote (i / 32) (i % 32) false
  s.each (List.range 96) fun s p => s.setReg (kPin p) (s.reg (kPin p) &&& 0x10000000)

end Sys2Proof.Machine
end

