-- ==== Sys2Proof/Machine/Rect.lean ====
section
/-! DEFINITION. The rect engines (R324 to R341). -/

namespace Sys2Proof.Machine

def kRct (e : Nat) : Nat := kRCT + 0x100 * e

def State.rect1 (s : State) (e : Nat) : RectEng := Tbl.get (fun _ => rectInit) s.rect e

def State.setRect (s : State) (e : Nat) (v : RectEng) : State := { s with rect := Tbl.set (fun _ => rectInit) s.rect e v }

/-- The registers that an operation samples as one set: all but `RCT_DEADTIME` (R341). -/
def rctSampled (e : Nat) : List Nat := [0x00, 0x04, 0x08, 0x0C, 0x10, 0x14, 0x18, 0x1C, 0x20, 0x24, 0x2C].map (kRct e + ·)

/-- The set in the registers is sampled. -/
def State.rectSample (s : State) (e : Nat) : State := s.setRect e { s.rect1 e with set := (rctSampled e).map fun k => s.reg k &&& 0x7FFFFFFF }

/-- The set that was sampled last stands in the registers again. -/
def State.rectRestore (s : State) (e : Nat) : State :=
  s.each (rctSampled e).zipIdx fun s q => s.setReg q.1 ((s.rect1 e).set.getD q.2 0)

/-! ## Formats (R326 to R328) -/

/-- Bits per pixel of a format; 0 for a reserved one. -/
def rBpp (f : Nat) : Nat :=
  match f with
  | 0 => 16 | 1 => 16 | 2 => 24 | 3 => 32 | 4 => 32 | 5 => 8 | 6 => 4 | 7 => 2 | _ => 0

/-- Address alignment of a format. -/
def rAlign (f : Nat) : Nat := if f = 0 ∨ f = 1 then 2 else if f = 3 ∨ f = 4 then 4 else 1

/-- W breaks the rule of a format. -/
def rBadW (f w : Nat) : Bool := decide (f = 6 ∧ w % 2 ≠ 0) || decide (f = 7 ∧ w % 4 ≠ 0)

def rIndexed (f : Nat) : Bool := decide (5 ≤ f ∧ f ≤ 7)

/-- A pixel of 10-bit components and an 8-bit alpha in a stored format (R238, R328). -/
def pxTo (f : Nat) (p : Px) : Nat :=
  match f with
  | 0 => p.r / 32 * 2048 + p.g / 16 * 32 + p.b / 32
  | 1 => p.a / 128 * 32768 + p.r / 32 * 1024 + p.g / 32 * 32 + p.b / 32
  | 2 => p.r / 4 * 65536 + p.g / 4 * 256 + p.b / 4
  | 3 => p.a * 16777216 + p.r / 4 * 65536 + p.g / 4 * 256 + p.b / 4
  | _ => p.a / 64 * 1073741824 + p.r * 1048576 + p.g * 1024 + p.b

/-- CONVERT of one pixel (R328). -/
def rConvert (sf df v : Nat) : Nat :=
  if sf = df then v
  else if rIndexed df then v % 2 ^ rBpp df
  else pxTo df (pxOfFormat sf v (fun _ => 0) 0)

/-! ## Checks (R325, R329, R338, R341) -/

/-- An operation as its registers or its command give it. -/
structure RectSet where
  op : Nat
  dfmt : Nat
  sfmt : Nat
  keyen : Bool
  dst : Nat
  dpitch : Nat
  src : Nat
  spitch : Nat
  w : Nat
  h : Nat
  deriving DecidableEq, Repr

/-- The source format: that of CONVERT, or the destination's. -/
def RectSet.sf (r : RectSet) : Nat := if r.op = 2 then r.sfmt else r.dfmt

/-- Bytes of a row. -/
def rowBytes (f w : Nat) : Nat := w * rBpp f / 8

/-- Bytes from the base to the last pixel (R329). -/
def spanBytes (f w h pitch : Nat) : Nat := (h - 1) * pitch + rowBytes f w

/-- Reserved OP or FMT, or CONVERT between indexed and direct. -/
def RectSet.badFmt (r : RectSet) : Bool :=
  decide (r.op = 3) || decide (rBpp r.dfmt = 0) ||
    (decide (r.op = 2) && (decide (rBpp r.sfmt = 0) || rIndexed r.sfmt != rIndexed r.dfmt))

/-- R326, by the parameter word that breaks it: destination, its pitch, W, source, its pitch. -/
def RectSet.badAlign (r : RectSet) : Option Nat :=
  let pitchBad (p : Nat) : Bool := decide (p % 4 ≠ 0) || decide (1048572 < p)
  if r.dst % rAlign r.dfmt ≠ 0 then some 2
  else if pitchBad r.dpitch then some 4
  else if rBadW r.dfmt r.w || (decide (r.op ≠ 0) && rBadW r.sf r.w) then some 5
  else if r.op ≠ 0 ∧ r.src % rAlign r.sf ≠ 0 then some 9
  else if r.op ≠ 0 ∧ pitchBad r.spitch then some 11
  else none

/-- A pitch below the bytes of a row, by its parameter word. -/
def RectSet.badPitch (r : RectSet) : Option Nat :=
  if r.dpitch < rowBytes r.dfmt r.w then some 4
  else if r.op ≠ 0 ∧ r.spitch < rowBytes r.sf r.w then some 11
  else none

/-- A span breaks R325. -/
def State.rectOutside (s : State) (a n : Nat) : Bool :=
  !(match s.place a n with | .cellar _ => true | .pantry _ => true | _ => false)

/-- An address that breaks R325, by its parameter word. -/
def State.rectBadAddr (s : State) (r : RectSet) : Option Nat :=
  if s.rectOutside r.dst (spanBytes r.dfmt r.w r.h r.dpitch) then some 2
  else if decide (r.op ≠ 0) && s.rectOutside r.src (spanBytes r.sf r.w r.h r.spitch) then some 9
  else none

/-- The sealed Pantry region the destination lies in. -/
def State.rectSealed (s : State) (r : RectSet) : Option Nat :=
  match s.place r.dst (spanBytes r.dfmt r.w r.h r.dpitch) with
  | .pantry k => if s.panSealed k then some k else none
  | _ => none

/-- Source and destination spans intersect (R329). -/
def RectSet.overlaps (r : RectSet) : Bool :=
  decide (r.op ≠ 0) && decide (r.dst < r.src + spanBytes r.sf r.w r.h r.spitch) &&
    decide (r.src < r.dst + spanBytes r.dfmt r.w r.h r.dpitch)

/-- The parameters of a rect command (R337). -/
def rectOf (op : Nat) (p : Nat → Word) : RectSet :=
  { op := op, dfmt := fld (p 1) 0 4, sfmt := fld (p 1) 4 4, keyen := decide (op = 1) && bit (p 1) 8
    dst := (p 2).toNat + 2 ^ 32 * fld (p 3) 0 8, dpitch := (p 4).toNat
    src := if op = 0 then 0 else (p 9).toNat + 2 ^ 32 * fld (p 10) 0 8, spitch := if op = 0 then 0 else (p 11).toNat
    w := fld (p 5) 0 14, h := fld (p 5) 16 14 }

/-- The checks of R338 in their order. -/
def State.rectFault (s : State) (op : Nat) (o : Open) : Option Reply :=
  let p := pw o.pkt
  let r := rectOf op p
  let p1mask : Word := if op = 0 then 0xF else if op = 1 then 0x10F else 0xFF
  firstFail [
    (decide (o.pkt.len.toNat ≠ if op = 0 then 13 else 16), rep .badLength o.pkt.len.toNat),
    (outside o.pkt 0 3, repBadP 0),
    (outside o.pkt 1 p1mask || r.badFmt, repBadP 1),
    (outside o.pkt 3 0xFF, repBadP 3),
    (outside o.pkt 5 0x3FFF3FFF, repBadP 5),
    ((decide (op = 2) || (decide (op = 1) && !r.keyen)) && decide (p 6 ≠ 0), repBadP 6),
    (outside o.pkt 7 0xFFFF, repBadP 7),
    (outside o.pkt 8 0x3FFF, repBadP 8),
    (decide (op ≠ 0) && outside o.pkt 10 0xFF, repBadP 10),
    (decide (r.w = 0 ∨ r.h = 0), rep .okEmpty 0),
    (r.badAlign.isSome, repAlignP (r.badAlign.getD 0)),
    (r.badPitch.isSome, repBadP (r.badPitch.getD 0)),
    ((s.rectBadAddr r).isSome, repBadP ((s.rectBadAddr r).getD 0)),
    ((s.rectSealed r).isSome, rep .sealed ((s.rectSealed r).getD 0)),
    (r.overlaps && decide (r.dpitch ≠ r.spitch), repBadP 11),
    (r.overlaps && decide (op = 2) && decide (rBpp r.sfmt ≠ rBpp r.dfmt), rep .overlapConv (fld (p 0) 0 2))]

/-- The checks of a rect command: the reply of the first that fails. -/
def State.rectBeginFault (s : State) (op : Nat) (o : Open) : Option Reply :=
  (firstFail [s.expertUnit 0x0A]).orElse fun _ => s.rectFault op o

/-- A rect command passes its checks and queues for its engine (R338, R339). -/
def beginRect (op : Nat) (o : Open) (s : State) : Started × State :=
  let e := fld (pw o.pkt 0) 0 2
  match s.rectBeginFault op o with
  | some r => (.done r, s)
  | none =>
      (.wait (.rect e), s.setRect e { s.rect1 e with queue := (s.rect1 e).queue ++ [(o.acc, wd op :: o.pkt.p)] })

def beginRectFill (o : Open) (s : State) : Started × State := beginRect 0 o s
def beginRectCopy (o : Open) (s : State) : Started × State := beginRect 1 o s
def beginRectConvert (o : Open) (s : State) : Started × State := beginRect 2 o s

/-! ## Running (R329 to R335) -/

/-- The operation a set begins. -/
def rectStart (acc : Option Nat) (r : RectSet) (value key wm : Nat) : RectOp :=
  let ov := r.overlaps
  let rev := ov && decide (r.src < r.dst)
  { acc := acc, op := r.op, dfmt := r.dfmt, sfmt := r.sf, keyen := r.keyen, dst := r.dst, dpitch := r.dpitch, src := r.src,
    spitch := r.spitch, w := r.w, h := r.h, value := value, key := key, wm := wm, overlap := ov, revRow := rev, revCol := rev,
    row := 0, line := 0, buf := [], gap := false }

/-- The order of the current operation in `RCT_STAT`; no row is done. -/
def State.rectOrder (s : State) (e : Nat) (row col : Bool) : State :=
  let st := kRct e + 0x30
  ((s.setB st 26 row).setB st 25 col).setReg (kRct e + 0x34) 0

/-- BUSY, with the set sampled and the order chosen. -/
def State.rectBusy (s : State) (e : Nat) (op : RectOp) : State :=
  let s := s.rectSample e
  ((s.setRect e { s.rect1 e with run := some op }).setB (kRct e + 0x30) 31 true).rectOrder e op.revRow op.revCol

/-- The first `n` rows are done: `RCT_ROWS` counts them, and the watermark fires when it is reached (R333). -/
def State.rectRows (s : State) (e : Nat) (op : RectOp) (n : Nat) : State :=
  let old := s.regF (kRct e + 0x34) 0 14
  let s := s.setReg (kRct e + 0x34) (wd n)
  if old < op.wm ∧ op.wm ≤ n then (s.setB (kRct e + 0x30) 29 true).pulse (260 + e) else s

/-- The operation ends, with the rows that were issued whole done (R334, R335): DONE, LASTSTATUS, the done source, and the command. -/
def State.rectEnd (s : State) (e : Nat) (op : RectOp) (r : Reply) : State :=
  let st := kRct e + 0x30
  let s := s.rectRows e op op.row
  let s := s.setRect e { s.rect1 e with run := none }
  let s := ((s.setB st 31 false).setB st 30 true).setF st 0 16 (statusCode r.status)
  let s := (s.setB (kRct e) 31 false).pulse (256 + e)
  match op.acc with
  | some a => s.finishAcc a r
  | none => s

/-- The registers of engine e take the operands of a command, and it runs (R340). -/
def State.rectRun (s : State) (e acc : Nat) (r : RectSet) (ps : List Word) : State :=
  let p (k : Nat) : Word := ps.getD k 0
  let k := kRct e
  let s := (s.setReg k (wd (b2n r.keyen * 4096 + r.op * 1024 + (if r.op = 2 then r.sfmt else 0) * 16 + r.dfmt))).setB k 31 true
  let s := ((s.setAddr40 (k + 4) r.dst).setReg (k + 0xC) (wd r.dpitch)).setAddr40 (k + 0x10) r.src
  let s := ((s.setReg (k + 0x18) (wd r.spitch)).setReg (k + 0x1C) (p 5)).setReg (if r.op = 0 then k + 0x20 else k + 0x24) (p 6)
  let s := (s.setReg (k + 0x28) (p 7)).setReg (k + 0x2C) (p 8)
  s.rectBusy e (rectStart (some acc) r (p 6).toNat (p 6).toNat (fld (p 8) 0 14))

/-- The entry of an overlapping copy is marked STARTED before its first write (R80, R330). -/
def State.rectStarted (s : State) (acc : Nat) : State :=
  match s.foy.opens.find? fun o => decide (o.acc = acc) with
  | some o => s.jState o.idx .started
  | none => s

/-- A queued command of engine e is judged again, expert control and checks 5 and 6, and runs (R46, R339). -/
def State.rectBegins (s : State) (e acc : Nat) (opw : Word) (ps : List Word) : State :=
  let r := rectOf opw.toNat fun k => ps.getD k 0
  match firstFail [
      s.expertUnit 0x0A, ((s.rectBadAddr r).isSome, repBadP ((s.rectBadAddr r).getD 0)),
      ((s.rectSealed r).isSome, rep .sealed ((s.rectSealed r).getD 0))] with
  | some x => s.finishAcc acc x
  | none => (if r.overlaps then s.rectStarted acc else s).rectRun e acc r ps

/-- `RECT_OP_BEGIN` (R339): the oldest queued command of a free engine begins; checks 5 and 6 are made again. -/
def State.rectOpBegin (s : State) (e : Nat) : State :=
  let v := s.rect1 e
  match v.run, v.queue with
  | none, (acc, opw :: ps) :: t => (s.setRect e { v with queue := t }).rectBegins e acc opw ps
  | _, _ => s

/-- The value of the pixel that starts at bit `8 × byte offset + bit` of a row of bytes. -/
def rowPixel (bs : List Byte) (bpp i : Nat) : Nat :=
  leNat ((bs.drop (i * bpp / 8)).take ((bpp + 7) / 8)) / 2 ^ (i * bpp % 8) % 2 ^ bpp

/-- The new bytes of part of a destination row: byte offsets `o` to `o + n - 1`, from the row's source bytes; a byte that keeps its old value entirely is `none`. -/
def rectBytes (op : RectOp) (srow : List Byte) (old : Nat → Byte) (o n : Nat) : List (Option Byte) :=
  let bd := rBpp op.dfmt
  let bs := rBpp op.sfmt
  let pixel (i : Nat) : Option Nat :=
    if op.op = 0 then some (op.value % 2 ^ bd)
    else
      let v := rowPixel srow bs i
      if op.op = 1 then (if op.keyen && decide (v = op.key % 2 ^ bd) then none else some v) else some (rConvert op.sfmt op.dfmt v)
  (List.range n).map fun j =>
    let b := o + j
    if 8 ≤ bd then
      match pixel (b / (bd / 8)) with
      | some v => some (BitVec.ofNat 8 (v / 2 ^ (8 * (b % (bd / 8)))))
      | none => none
    else
      let per := 8 / bd
      let ps := (List.range per).map fun k => pixel (b * per + k)
      if ps.all Option.isNone then none
      else some (BitVec.ofNat 8 ((List.range per).foldl (fun a k =>
        a + (match ps.getD k none with | some v => v | none => (old b).toNat / 2 ^ (k * bd) % 2 ^ bd) * 2 ^ (k * bd)) 0))

/-- Runs of bytes to write, with their addresses. -/
def writeRuns (a : Nat) : List (Option Byte) → List (Nat × List Byte)
  | [] => []
  | none :: t => writeRuns (a + 1) t
  | some b :: t =>
    match writeRuns (a + 1) t with
    | (a', bs) :: r => if a' = a + 1 then (a, b :: bs) :: r else (a, [b]) :: (a', bs) :: r
    | [] => [(a, [b])]

/-- The source range that destination bytes `o` to `o + n - 1` of row y need. -/
def rectSource (op : RectOp) (y o n : Nat) : Nat × Nat :=
  let bd := rBpp op.dfmt
  let bs := rBpp op.sfmt
  let p0 := o * 8 / bd
  let p1 := (o + n) * 8 / bd + (if (o + n) * 8 % bd = 0 then 0 else 1)
  let a := op.src + y * op.spitch
  (a + p0 * bs / 8, (p1 * bs + 7) / 8 - p0 * bs / 8)

/-- Write the runs of a burst, line by line; the first access that is refused or poisoned ends it. -/
def State.rectWrite (s : State) (e : Nat) : List (Nat × List Byte) → Wr × State
  | [] => (.ok, s)
  | (a, bs) :: t =>
    match s.devWrite 0x0A e a bs with
    | (.ok, s) => State.rectWrite s e t
    | r => r

/-- The codeword whose read-modify-write would be uncorrectable among the runs of a burst. -/
def State.rectRmw (s : State) (runs : List (Nat × List Byte)) : Option (Place × Nat) :=
  runs.findSome? fun r =>
    let p := s.place r.1 r.2.length
    (linePieces r.1 r.2.length).findSome? fun q => (s.rmwBad p q.1 q.2).map fun c => (p, c)

/-- The codewords of a burst, by address and size, in which written bytes keep old pixels of the destination and which no read-modify-write reads (R327, R335). -/
def State.rectKept (s : State) (op : RectOp) (srow : List Byte) (a lo n : Nat) : List (Nat × Nat) :=
  if !(op.op = 1 && op.keyen && decide (rBpp op.dfmt < 8)) then []
  else
    let new (old : Byte) := rectBytes op srow (fun _ => old) (lo - a) n
    let kept := (List.range n).filter fun j => decide ((new 0).getD j none ≠ (new 0xFF).getD j none)
    let cw (j : Nat) : Nat × Nat := let g := s.grain (s.place (lo + j) 1); ((lo + j) / g * g, g)
    ((kept.map cw).dedup).filter fun q => decide (lo ≤ q.1 ∧ q.1 + q.2 ≤ lo + n)

/-- Reads whose data is not used: the first that meets an uncorrectable error ends them. -/
def State.rectChecks (s : State) (e : Nat) : List (Nat × Nat) → Bool × State
  | [] => (true, s)
  | q :: t =>
    match s.devRead 0x0A e q.1 q.2 with
    | (.poison _, s) => (false, s)
    | (_, s) => State.rectChecks s e t

/-- The next burst of an operation: its row, the first byte of the row, the lines of the row, how many of them it takes, and the ends of what it writes (R331). -/
structure RectNext where
  y : Nat
  a : Nat
  lines : Nat
  take : Nat
  lo : Nat
  hi : Nat

def RectOp.next (op : RectOp) : RectNext :=
  let y := if op.revRow then op.h - 1 - op.row else op.row
  let a := op.dst + y * op.dpitch
  let len := rowBytes op.dfmt op.w
  let all := linePieces a len
  let mine := ((if op.revCol then all.reverse else all).drop op.line).take 4
  { y := y, a := a, lines := all.length, take := mine.length,
    lo := mine.foldl (fun m q => min m q.1) (a + len), hi := mine.foldl (fun m q => max m (q.1 + q.2)) a }

/-- The gap before the next burst: DEADTIME, or the throttle gap where that is longer (R317, R318, R332). -/
def State.rectGap (s : State) (e : Nat) (op : RectOp) : Nat :=
  let b := op.next
  max (s.regF (kRct e + 0x28) 0 16)
    (s.gapFor ((b.lo, b.hi - b.lo) :: if op.op = 0 then [] else [rectSource op b.y (b.lo - b.a) (b.hi - b.lo)]))

/-- One burst of engine e: up to four lines of a row (R331, R335). -/
def State.rectBurst (s : State) (e : Nat) : State :=
  match (s.rect1 e).run with
  | none => s
  | some op =>
    if (op.gap && decide (s.rectGap e op ≠ 0)) || decide (op.h ≤ op.row) then s
    else
      let b := op.next
      let y := b.y
      let a := b.a
      let lo := b.lo
      let hi := b.hi
      let src := rectSource op y (lo - a) (hi - lo)
      let srow := op.src + y * op.spitch
      let slen := rowBytes op.sfmt op.w
      let buf := if op.overlap && decide (op.line = 0) then s.bytes srow slen else op.buf
      let r := if op.op = 0 then (Rd.ok [], s) else s.devRead 0x0A e src.1 src.2
      match r.1 with
      | .refused => r.2.rectEnd e op (rep .stopped 0x0A)
      | .poison _ => r.2.rectEnd e op (rep .uncorr 0x0A)
      | .ok _ =>
        let s := r.2
        let row := if op.op = 0 then [] else if op.overlap then buf else s.bytes srow slen
        let runs := writeRuns lo (rectBytes op row (fun o => s.byte (a + o)) (lo - a) (hi - lo))
        let k := s.rectChecks e (s.rectKept op row a lo (hi - lo))
        let s := k.2
        if !k.1 then s.rectEnd e op (rep .uncorr 0x0A)
        else match s.rectRmw runs with
        | some (p, c) => ((s.uncorrectable p c).ueRecord 0x0A e (c / 64 * 64)).rectEnd e op (rep .uncorr 0x0A)
        | none =>
          match s.rectWrite e runs with
          | (.refused, s) => s.rectEnd e op (rep .stopped 0x0A)
          | (.poison _, s) => s.rectEnd e op (rep .uncorr 0x0A)
          | (.ok, s) =>
            let line := op.line + b.take
            let op := if b.lines ≤ line then { op with row := op.row + 1, line := 0, buf := [] } else { op with line := line, buf := buf }
            s.setRect e { s.rect1 e with run := some { op with gap := true } }

/-- The gap before the next burst ends: its count has reached it (R49, R318, R332). -/
def State.rectGapEnd (s : State) (e count : Nat) : State :=
  match (s.rect1 e).run with
  | some op => if op.gap && decide (s.rectGap e op ≤ count) then s.setRect e { s.rect1 e with run := some { op with gap := false } } else s
  | none => s

/-- A row's writes are visible (R333); those of the last row end the operation in the same cycle (R334). -/
def State.rectRowDone (s : State) (e : Nat) : State :=
  match (s.rect1 e).run with
  | none => s
  | some op =>
    let n := s.regF (kRct e + 0x34) 0 14
    if op.row ≤ n then s
    else if n + 1 = op.h then s.rectEnd e op repOk
    else s.rectRows e op (n + 1)

/-- The operation ends with every write visible (R334): only its last row is left to become visible. -/
def State.rectOpDone (s : State) (e : Nat) : State :=
  match (s.rect1 e).run with
  | some op => if op.row = op.h ∧ s.regF (kRct e + 0x34) 0 14 + 1 = op.h then s.rectEnd e op repOk else s
  | none => s

/-- The next burst of engine e would meet uncorrectable data. -/
def State.rectMeetsPoison (s : State) (e : Nat) : Bool :=
  match (s.rect1 e).run, ((s.rectBurst e).rect1 e).run with
  | some _, none => decide ((s.rectBurst e).regF (kRct e + 0x30) 0 16 = statusCode .uncorr)
  | _, _ => false

/-- A write of `RCT_CTL` under expert control (R340, R341): a refused set leaves the set sampled before it in the registers. -/
def State.rctCtlWrite (s : State) (e : Nat) (v : Word) : State :=
  let k := kRct e
  let st := k + 0x30
  let s := s.setReg k ((s.reg k &&& 0x80000000) ||| (v &&& 0x1CFF))
  if !bit v 31 then s
  else if s.regB st 31 then s.setB st 27 true
  else
    let r : RectSet := { op := fld v 10 2, dfmt := fld v 0 4, sfmt := fld v 4 4, keyen := bit v 12 && decide (fld v 10 2 = 1)
                         dst := s.addr40 (k + 4), dpitch := s.regF (k + 0xC) 0 20, src := s.addr40 (k + 0x10), spitch := s.regF (k + 0x18) 0 20
                         w := s.regF (k + 0x1C) 0 14, h := s.regF (k + 0x1C) 16 14 }
    let cause : Option Nat :=
      if r.badFmt then some 1
      else if r.w = 0 ∨ r.h = 0 then none
      else if r.badAlign.isSome then some 2
      else if r.badPitch.isSome then some 3
      else if (s.rectBadAddr r).isSome then some 4
      else if (s.rectSealed r).isSome then some 5
      else if r.overlaps && decide (r.dpitch ≠ r.spitch) then some 6
      else if r.overlaps && decide (r.op = 2) && decide (rBpp r.sfmt ≠ rBpp r.dfmt) then some 7
      else none
    match cause with
    | some c => ((s.rectRestore e).setF st 16 8 c).setB st 28 true
    | none =>
      if r.w = 0 ∨ r.h = 0 then ((((s.rectSample e).rectOrder e false false).setB st 30 true).setF st 0 16 (statusCode .okEmpty)).pulse (256 + e)
      else (s.setB k 31 true).rectBusy e (rectStart none r (s.reg (k + 0x20)).toNat (s.reg (k + 0x24)).toNat (s.regF (k + 0x2C) 0 14))

/-- `UNIT_RESET` of unit 0x0A (R336). -/
def State.rectReset (s : State) : State :=
  s.each (List.range 4) fun s e =>
    let s := match (s.rect1 e).run with
      | some op => s.rectEnd e op (rep .stopped 0x0A)
      | none => s
    (s.setRect e rectInit).each ((List.range 14).map fun j => kRct e + 4 * j) fun s k => s.setReg k 0

end Sys2Proof.Machine
end

