-- ==== Sys2Proof/Machine/Regs.lean ====
section
/-! DEFINITION. Register accesses: what a read of each page answers and does, what a write does under each access code, and who may make it (R29 to R40, R45, R52 to R54, R349, R402).  Offsets are those of PF0 BAR0, which the register space repeats. -/

namespace Sys2Proof.Machine

/-! ## Pages (R32, R33) -/

/-- Pages 0x00 to 0x0E, the head pages and the program memory window are mapped. -/
def pageMapped (u : Nat) : Bool := decide (u ≤ 0x0E) || (decide (0x10 ≤ u) && decide (u < 0x30)) || (decide (0x40 ≤ u) && decide (u < 0x50))

/-- A unit whose page the device reports absent (R5). -/
def State.pageAbsent (s : State) (u : Nat) : Bool := (s.absentUnit u).isSome

/-! ## Reads -/

/-- A LO register with a live 64-bit value behind it (R35). -/
def wideReg (u o : Nat) : Bool :=
  let log (b n : Nat) : Bool := decide (b ≤ o) && decide (o < b + n) && decide (o % 0x20 = 0xC)
  if 0x10 ≤ u then [0x88, 0x90, 0xB18, 0xAD4, 0xE58, 0xE64].contains o
  else match u with
    | 0x01 => decide (o = 0x400) || decide (o = 0x408)
    | 0x03 => decide (o = 0x604)
    | 0x04 => log 0x400 0x400
    | 0x05 => log 0x400 0x800
    | 0x07 => decide (o = 0)
    | 0x09 => decide (o < 0x2000) && [0x18, 0x20, 0x3C].contains (o % 0x80)
    | 0x0B => decide (o = 0x4) || decide (o = 0xC) || (decide (0x1000 ≤ o) && decide (o < 0xA000) && decide (o % 0x40 = 0x34))
    | 0x0C => (decide (o < 0x400) && decide (o % 0x40 = 0x20)) || log 0x400 0x400
    | 0x0D => decide (o = 0x14)
    | 0x0E => decide (o = 0xF00C)
    | _ => false

/-- Read the LO half of a live value, and latch its HI half in the register above. -/
def State.loRead (s : State) (live latch : Nat) : Word × State :=
  (lo32 (s.w64 live), s.setReg (latch + 4) (hi32 (s.w64 live)))

/-- A register of a head page that is not plain: the LEADER bit, genlock of a canvas, position, budget, Mantel status (R16, R111, R120, R145, R236) (DEDUCED, log 64). -/
def State.headView (s : State) (h o : Nat) : Word :=
  let k := kHD h + o
  let g := s.cmSet h
  if o = 0x60 then putBit (s.reg k) 30 ((s.head h).enabled && gCanvasEn g && decide (s.leader h = h))
  else if o = 0x80 then s.beampos h
  else if o = 0xA0 ∨ o = 0xA4 ∨ o = 0xA8 then s.reg (kHD (s.leader h) + o)
  else if o = 0x704 then wd (min 65535 (planeBudget g) * 65536 + planeCharge g % 65536)
  else if o = 0xB0C then s.mstatRead h
  else s.reg k

/-- `CHM_STAT` (R520): the stored bits, and those that show other registers. -/
def State.chmStat (s : State) : Word :=
  let rate (c : Nat) : Word := s.reg (kCHM + 0x110 + 4 * c)
  s.reg kCHM ||| flag 21 ((List.range 8).any fun c => bit (rate c) 30) ||| flag 20 (decide (s.reg (kCHM + 0x480) ≠ 0))
    ||| flag 19 ((List.range 32).any fun h => s.regB (kHD h + 0xA0) 29) ||| flag 18 (s.regB (kHAL + 0x300) 30)
    ||| flag 17 ((List.range 8).any fun c => bit (rate c) 31)

/-- The palette window of head h, entry i, under `HD_PALWIN.SEL` (R147). -/
def State.palRead (s : State) (h i : Nat) : Word :=
  let v := s.head h
  match s.regF (kHD h + 0x708) 0 2 with
  | 0 => palGet v.palS i
  | 1 => palGet v.palA i
  | 2 => palGet v.palC i
  | _ => 0

/-- Defined bits of `PSQ_CCFG0` and `PSQ_CCFG1`: a set reserved bit is kept for cause 0x05 of R464 and reads 0. -/
def ccfgMask (j : Nat) : Word := if j = 4 then 0x7F707F70 else 0xFFBFFFFF

/-- Write-only registers of the unit pages, which read 0 (R36). -/
def writeOnly (u o : Nat) : Bool :=
  match u with
  | 0x00 => decide (o = 0x140)
  | 0x08 => decide (o < 0xC000) && decide (0x2000 ≤ o % 0x3000) &&
      ((decide (o % 0x3000 < 0x2800) && [0x20, 0x30].contains (o % 0x40)) || [0x2844, 0x2848].contains (o % 0x3000))
  | 0x0B => decide (o = 0x30)
  | _ => false

/-- A read of a mapped page, at the word-aligned offset o of page u (DEDUCED, log 26). -/
def State.pageRead (s : State) (u o : Nat) : Word × State :=
  let k := u * 0x10000 + o
  if 0x40 ≤ u then (if u = 0x41 then 0 else wd ((s.core (u - 0x40)).word (o / 4)), s)
  else if (u ≠ 0 ∧ ¬ s.ready) ∨ s.pageAbsent u then (0, s)
  else if writeOnly u o then (0, s)
  else if wideReg u o then s.loRead k k
  else if 0x10 ≤ u then
    let h := u - 0x10
    if 0x8000 ≤ o then (s.palRead h ((o - 0x8000) / 4), s)
    else if o = 0x920 then s.bstsRead h
    else (s.headView h o, s)
  else match u with
    | 0x00 =>
      if 0x4000 ≤ o ∧ o < 0x5000 then (s.irqSrcRead ((o - 0x4000) / 4), s)
      else if 0x5180 ≤ o ∧ o < 0x5190 then (s.swRead (o / 4 % 2), s)
      else (s.reg k, s)
    | 0x01 =>
      if 0x100 ≤ o ∧ o < 0x190 ∧ o % 8 = 0 then s.loRead (kAccepted ((o - 0x100) / 8)) k
      else if 0x200 ≤ o ∧ o < 0x290 ∧ o % 8 = 0 then s.loRead (kCompleted ((o - 0x200) / 8)) k
      else if o = 0x410 ∨ o = 0x414 then (lo32 (s.w64 k), s)
      else (s.reg k, s)
    | 0x02 =>
      if 0x1000 ≤ o ∧ o < 0x1120 ∧ o % 16 = 0 then (if o = 0x1100 then s.claim 16 else (0, s))
      else (s.belView o, s)
    | 0x03 => if o = 0 then (s.chmStat, s) else (s.reg k, s)
    | 0x07 => if 0x800 ≤ o ∧ o < 0xC00 ∧ o % 0x20 = 0xC then s.capRead ((o - 0x800) / 0x20) else (s.reg k, s)
    | 0x08 =>
      let r := o % 0x3000
      if 0xC000 ≤ o ∨ r < 0x2000 ∨ 0x2800 ≤ r then (s.reg k, s)
      else if r % 0x40 = 0x24 then s.psqDrain (32 * (o / 0x3000) + (r - 0x2000) / 0x40)
      else if r % 0x40 = 4 ∨ r % 0x40 = 8 then (s.reg k &&& ccfgMask (r % 0x40), s)
      else (s.reg k, s)
    | 0x0B =>
      if 0xA000 ≤ o ∧ o < 0xE000 then (s.winRead ((o - 0xA000) / 0x40) (o % 0x40 / 4), s)
      else if 0xE000 ≤ o ∧ o < 0xE010 then (s.winHdr ((o - 0xE000) / 4), s)
      else (s.reg k, s)
    | 0x0C => (if o < 0x400 ∧ o % 0x40 = 0x0C then s.reg k &&& 0xFFFF6FFF else s.reg k, s)
    | 0x0D => (s.attView o, s)
    | 0x0E =>
      if o = 0xE000 then (s.polarityAuto, s)
      else if o < 0x800 ∧ o % 0x40 = 0x18 then (s.audStat (o / 0x40), s)
      else (s.reg k, s)
    | _ => (s.reg k, s)

/-! ## Writes by access code (R36) -/

/-- Clear the W1C bits of a mask that v names. -/
def State.w1c (s : State) (k : Nat) (mask v : Word) : State := s.setReg k (s.reg k &&& ~~~ (v &&& mask))

/-- Defined bits of the `RWS` register at offset o of a head page (R97, R145, R172, R203, R215, R239, R272). -/
def rwsMask (o : Nat) : Word :=
  if o < 0x20 then 0x3FFF
  else if o = 0x20 then 0x7FFFFFFF else if o = 0x24 then 0x3FFF0003 else if o = 0x28 then 0x3FF
  else if o = 0x60 then 0x80000007 else if o = 0x84 then 0x80003FFF
  else if 0x400 ≤ o ∧ o < 0x600 then (planeWordMasks false (o % 0x40 / 4)).1
  else if 0x600 ≤ o ∧ o < 0x680 then (planeWordMasks true (o % 0x40 / 4)).1
  else if 0x680 ≤ o ∧ o < 0x6C0 then (planeWordMasks false (10 + o % 0x20 / 4)).1
  else if o = 0x800 then 0xFFFF0000 else if o = 0x80C then 0x1FFF
  else if o = 0x804 ∨ o = 0x900 ∨ o = 0xAC4 then 0xFFFFFFC0
  else if o = 0x808 ∨ o = 0x904 ∨ o = 0xAC8 then 0xFF
  else if o = 0x908 then 0xFFFF
  else if o = 0xAC0 then 0x80003F00 else if o = 0xACC then 0x3FFC0
  else if 0xD00 ≤ o ∧ o < 0xE00 then
    (if o % 16 = 0 then 0x80003000 else if o % 16 = 12 then 0xFFFFFFFF else 0x3FFF3FFF)
  else match composeRegs.find? fun e => e.1 = o with
    | some e => e.2
    | none => 0xFFFFFFFF

/-- W1C bits of a head page (R38). -/
def headW1c (o : Nat) : Option Word :=
  match o with
  | 0x44 => some 0x30000000 | 0x700 => some 0xFF | 0x810 => some 0x38000000 | 0x910 => some 0x1F800000
  | 0xE44 => some 0x3FFFF | _ => none

/-- The Mantel registers of a head page (R236), which stay under firmware control. -/
def mantelReg (o : Nat) : Bool := (decide (0xB00 ≤ o) && decide (o < 0xC80)) || (decide (0xF00 ≤ o) && decide (o < 0x1000))

/-- A write in the palette window (R147): of the shadow or of the active copy. -/
def State.palWrite (s : State) (h i : Nat) (v : Word) : Option State :=
  match s.regF (kHD h + 0x708) 0 2 with
  | 0 => some ((s.updHead h fun x => { x with palS := Tbl.set (fun _ => 0) x.palS i v }).setB (kHD h + 0x44) 31 true)
  | 1 => some (s.hostActive h (0x8000 + 4 * i) v)
  | 2 => none
  | _ => some s

/-- A write of a head page by its access code; none where nothing may be written. -/
def State.headWrite (s : State) (h o : Nat) (v : Word) : Option State :=
  match headW1c o with
  | some m => some (s.w1c (kHD h + o) m v)
  | none =>
    if mantelReg o then none
    else if o = 0x40 then some (if bit v 0 then s.requestCommit h else s)
    else if o = 0x708 then some (s.setHd h o (v &&& 3))
    else if o = 0x918 then some (s.setHd h o v)
    else if rwsOffs.contains o then some (s.stage h o (v &&& rwsMask o))
    else if 0x1000 ≤ o ∧ rwbOffs.contains (o - 0x1000) then some (s.hostActive h o v)
    else if 0x8000 ≤ o then s.palWrite h ((o - 0x8000) / 4) v
    else none

/-- A write of the GLB page (R39, R434). -/
def State.glbWrite (s : State) (o : Nat) (v : Word) : Option State :=
  if o = 0x18 then some (s.setReg o (v &&& 0xFFF))
  else if o = 0x20 then some (s.w1c o 0xC0000000 v)
  else if 0x120 ≤ o ∧ o < 0x140 then (if s.featLocked then none else some (s.setReg o (v &&& wantMask ((o - 0x120) / 4))))
  else if o = 0x140 then some (s.featCommitWrite v)
  else if 0x4000 ≤ o ∧ o < 0x5000 then
    (if s.featLocked then none else some (s.setReg o (irqSrcValue ((o - 0x4000) / 4) v)))
  else if 0x5000 ≤ o ∧ o < 0x5080 then some (s.maskWrite ((o - 0x5000) / 4) v)
  else if 0x5080 ≤ o ∧ o < 0x5180 then some (s.setReg o (v &&& 0xFFFF))
  else if o = 0x5180 ∨ o = 0x5184 then some (s.swWrite (o / 4 % 2) v true)
  else if o = 0x5188 ∨ o = 0x518C then some (s.swWrite (o / 4 % 2) v false)
  else if 0x8000 ≤ o ∧ o < 0x8400 then some (s.msixWrite 0 (o - 0x8000) v)
  else none

/-- A write of the time base page under expert control (R453, R454). -/
def State.tmbWrite (s : State) (o : Nat) (v : Word) : Option State :=
  let k := kTMB + o
  if o = 8 then some (s.w1c k 0x40000000 v)
  else if 0x100 ≤ o ∧ o < 0x500 then
    (match o % 16 with
     | 0 | 4 => some (s.setReg k v)
     | 8 => some (s.tmbCmpWrite ((o - 0x100) / 16) v)
     | _ => none)
  else if 0x800 ≤ o ∧ o < 0xC00 then
    (match o % 0x20 with
     | 0 => some (s.tmbCapWrite ((o - 0x800) / 0x20) v)
     | 4 => some (s.setReg k (v &&& 0xFF))
     | 8 => some (s.w1c k 0xE0000000 v)
     | _ => none)
  else none

/-- A write of the pin sequencer page under expert control (R467). -/
def State.psqWrite (s : State) (o : Nat) (v : Word) : Option State :=
  let k := kPSQ + o
  let e := o / 0x3000
  let r := o % 0x3000
  let i := 32 * e + (r - 0x2000) / 0x40
  if 0xC000 ≤ o then none
  else if r < 0x2000 then some (s.setReg k v)
  else if r < 0x2800 then
    (match r % 0x40 with
     | 0x00 => some ((s.w1c k 0x27008000 v).psqSource i)
     | 0x04 | 0x08 => some (s.setReg k v)
     | 0x20 => some (s.psqFeed i v)
     | 0x2C => some (s.setReg k (v &&& 0x80000000))
     | 0x30 => some (s.psqInject i v)
     | _ => none)
  else if r < 0x2840 then some (s.setReg k v)
  else if r = 0x2844 then some (s.psqStart (s.psqStartable e v)).2
  else if r = 0x2848 then some (s.psqStop e v).2
  else none

/-- A write of the Dumbwaiter page under expert control (R358). -/
def State.dwtWrite (s : State) (o : Nat) (v : Word) : Option State :=
  let k := kDWT + o
  if 0x2000 ≤ o then none
  else match o % 0x80 with
    | 0x00 => some (s.dwCtlWrite (o / 0x80) v)
    | 0x04 => some (s.w1c k 0x1F000000 v)
    | 0x08 => some (s.setReg k (v &&& 0xFFFFFFE0))
    | 0x0C => some (s.setReg k (v &&& 0xFF))
    | 0x30 => some (s.setReg k (v &&& 0xFFFF))
    | 0x34 => some (s.w1c k 0x80000000 v)
    | _ => none

/-- A write of the rect engine page under expert control (R340). -/
def State.rctWrite (s : State) (o : Nat) (v : Word) : Option State :=
  let k := kRCT + o
  if 0x400 ≤ o then none
  else match o % 0x100 with
    | 0x00 => some (s.rctCtlWrite (o / 0x100) v)
    | 0x04 | 0x10 | 0x20 | 0x24 => some (s.setReg k v)
    | 0x08 | 0x14 => some (s.setReg k (v &&& 0xFF))
    | 0x0C | 0x18 => some (s.setReg k (v &&& 0xFFFFF))
    | 0x1C => some (s.setReg k (v &&& 0x3FFF3FFF))
    | 0x28 => some (s.setReg k (v &&& 0xFFFF))
    | 0x2C => some (s.setReg k (v &&& 0x3FFF))
    | 0x30 => some (s.w1c k 0x78000000 v)
    | _ => none

/-- A port format that waits for the next sample boundary. -/
def State.portFormat (s : State) (i : Nat) (v : Word) : State :=
  { s with mus := { s.mus with portNew := s.mus.portNew ++ [(i, v)] } }

/-- A write of the Music Room page under expert control (R396, R397). -/
def State.musWrite (s : State) (o : Nat) (v : Word) : Option State :=
  let k := kMUS + o
  if o = 0 then some (s.w1c k 0x10000000 v)
  else if o = 0x30 then some (s.vgoWrite v)
  else if o = 0x34 then some (s.musCtlWrite v)
  else if 0x40 ≤ o ∧ o < 0x88 then some (s.w1c k 0xFFFFFFFF v)
  else if 0x100 ≤ o ∧ o < 0x1A0 then
    (match o % 16 with
     | 0 => some (s.portFormat ((o - 0x100) / 16) v)
     | 4 => some (s.w1c k 0x40000000 v)
     | _ => none)
  else if 0x200 ≤ o ∧ o < 0x280 then some (s.portFormat (32 + (o - 0x200) / 4) v)
  else if 0x1000 ≤ o ∧ o < 0xA000 then
    (if o % 0x40 ≤ 0x28 then some (s.setReg k v)
     else if o % 0x40 = 0x2C then some (s.w1c k 0x3E000000 v)
     else none)
  else if 0xA000 ≤ o ∧ o < 0xE000 then some (s.winWrite ((o - 0xA000) / 0x40) (o % 0x40 / 4) v)
  else if 0xE000 ≤ o ∧ o < 0xE010 then some (s.winHdrWrite ((o - 0xE000) / 4) v)
  else none

/-- A write of the NIO page under expert control: the registers of the Parlour cores (R429, R430). -/
def State.nioWrite (s : State) (o : Nat) (v : Word) : Option State :=
  let c := o / 0x40
  if c < 4 ∨ 16 ≤ c then none
  else match o % 0x40 with
    | 0x04 => some (s.nioCtlWrite c v)
    | 0x08 => some (s.setReg (kNentry c) (v &&& 0x3FFF))
    | 0x0C => some (s.setReg (kNgrant c) v)
    | 0x10 => some (s.setReg (kNpwords c) (v &&& 0x7FFF))
    | _ => none

/-- A write of a mapped page by the register's access code; none is a write that does nothing and is recorded (R36). -/
def State.pageWrite (s : State) (u o : Nat) (v : Word) : Option State :=
  if 0x10 ≤ u then s.headWrite (u - 0x10) o v
  else match u with
    | 0x00 => s.glbWrite o v
    | 0x02 => if o = 0x1104 then some (s.doneWrite 16 v) else if o = 0x1108 then some (s.w1c (kTstat 16) 0x80000000 v) else none
    | 0x07 => s.tmbWrite o v
    | 0x08 => s.psqWrite o v
    | 0x09 => s.dwtWrite o v
    | 0x0A => s.rctWrite o v
    | 0x0B => s.musWrite o v
    | 0x0C => s.nioWrite o v
    | _ => none

/-! ## Who may write (R33, R38, R349, R402) -/

/-- Registers that keep their access codes under basic control. -/
def basicWrite (u o : Nat) : Bool :=
  if 0x10 ≤ u then decide (o = 0x84) || decide (o = 0x918) || (headW1c o).isSome
  else decide (u = 0) || (decide (u = 2) && (decide (o = 0x1104) || decide (o = 0x1108)))

/-- The target table of R349 for a core or a channel. -/
def State.masterMay (s : State) (u o : Nat) : Bool :=
  (basicWrite u o && !(decide (u = 0) && decide (0x120 ≤ o) && decide (o < 0x144)))
    || (s.expert u && !(decide (0x10 ≤ u) && mantelReg o))

/-- The injector registers, which only a core or a channel writes (R305, R306). -/
def State.flipWrite (s : State) (u o : Nat) (v : Word) : Option State :=
  match u, o with
  | 0x04, 0x100 => some (s.celFlipWrite v)
  | 0x04, 0x104 => some (s.flipAddrWrite .celLo v)
  | 0x04, 0x108 => some (s.flipAddrWrite .celHi v)
  | 0x05, 0x100 => some (s.panFlipWrite v)
  | 0x05, 0x104 => some (s.flipAddrWrite .pan v)
  | _, _ => none

/-- A host write of the program memory window (R33). -/
def State.progWrite (s : State) (n i : Nat) (v : Word) : Option State :=
  if s.expert 0x0C && decide (4 ≤ n) && !s.coreRuns n then
    some ((s.updCore n fun c => { c with prog := Tbl.set (fun _ => wHalt) c.prog i (v.toNat % 2 ^ 14)
                                         pcode := Tbl.set (fun _ => Code.good) c.pcode i .good }).setB (kCstat n) 29 false)
  else none

/-- What a register write tells the core or the channel that made it. -/
inductive BusW where
  /-- Made, or without effect by the register's access code. -/
  | done
  /-- Refused under R29. -/
  | refused
  /-- No target of R349. -/
  | denied
  deriving DecidableEq, Repr

/-- The unit ID of a master of the register space. -/
def masterUnit : Master → Nat
  | .pf0 | .pf1 => uHost
  | .core _ => 0x0C
  | .dma _ => 0x09

/-- A write of one aligned word at a PF0 BAR0 offset, or at the same offset of the register space (DEDUCED, log 25) (DEDUCED, log 89). -/
def State.busWrite (s : State) (m : Master) (off : Nat) (v : Word) : BusW × State :=
  let u := off / 0x10000
  let o := off % 0x10000
  let drop (s : State) : State := s.wdrop (if 0x40 ≤ u then 0x0C else u) o
  if !pageMapped u then (.refused, s.refusedAccess (masterUnit m) (aRegs + off))
  else
    let put (r : Option State) : BusW × State := match r with | some s => (.done, s) | none => (.done, drop s)
    match m with
    | .pf0 =>
      if 0x40 ≤ u then put (s.progWrite (u - 0x40) (o / 4) v)
      else if s.pageAbsent u then (.done, s)
      else if basicWrite u o || s.expert u then put (s.pageWrite u o v) else (.done, drop s)
    | .pf1 => (.done, s)
    | .core n =>
      if 0x40 ≤ u ∨ s.nioGranted n.val off true = false then (.denied, s)
      else if s.pageAbsent u then (.done, s)
      else match s.flipWrite u o v with
        | some s => (.done, s)
        | none => if decide (n.val < 4) || s.masterMay u o then put (s.pageWrite u o v) else (.denied, s)
    | .dma _ =>
      if 0x40 ≤ u then (.denied, s)
      else if s.pageAbsent u then (.done, s)
      else match s.flipWrite u o v with
        | some s => (.done, s)
        | none => if s.masterMay u o then put (s.pageWrite u o v) else (.denied, s)

/-- A read of one word at a PF0 BAR0 offset, or at the same offset of the register space: none when it is refused (R29), or made by a core to which the page is not granted (R402). -/
def State.busRead (s : State) (m : Master) (off : Nat) : Option Word × State :=
  let off := off / 4 * 4
  let u := off / 0x10000
  let closed := match m with | .core n => !s.nioGranted n.val off false | _ => false
  if !pageMapped u then (none, s.refusedAccess (masterUnit m) (aRegs + off))
  else if closed then (none, s)
  else
    let r := s.pageRead u (off % 0x10000)
    (some r.1, r.2)

/-! ## Doorbell pages (R50 to R54) -/

/-- HOLD of `FOY_RINGSTAT`: words wait while 4,096 commands are open (R58). -/
def State.ringHold (s : State) (n : Nat) : Bool := s.ringActive n && decide (4096 ≤ s.openCount) && decide (s.sqAvail n ≠ 0)

/-- The HI half of `FOY_SQSEQ` as the last read of its LO half latched it (R35), or as it was written last. -/
def kSeqHi (n : Nat) : Nat := kDB n + 0x12C

/-- A read of a doorbell page. -/
def State.ringRead (s : State) (n o : Nat) : Word × State :=
  if 0x40 ≤ o then (0, s)
  else if o = 0x30 ∨ o = 0x38 then s.loRead (kDB n + o) (kDB n + o)
  else if o = 0x28 then (s.reg (kSqSeq n), s.setReg (kSeqHi n) (s.reg (kSqSeq n + 4)))
  else if o = 0x2C then (s.reg (kSeqHi n), s)
  else if o = 0x24 then (putBit (s.reg (kRingStat n)) 29 (s.ringHold n), s)
  else (s.reg (kDB n + o), s)

/-- A write of `FOY_RINGCFG` (R52, R53); of several reasons to refuse an enable, CFGERR shows the lowest (DESIGN CHOICE, log 107). -/
def State.ringCfgWrite (s : State) (n : Nat) (v : Word) : State :=
  let k := kRingCfg n
  let st := kRingStat n
  let sizes := v &&& 0x0F0F
  if s.regB k 31 then
    let s := if sizes = s.reg k &&& 0x0F0F then s else s.wdrop 1 0x20
    if bit v 31 then s else (s.setB k 31 false).setB st 31 false
  else
    let s := s.setReg k sizes
    if !bit v 31 then s
    else
      let err := if 8 < fld v 0 4 then 1 else if 8 < fld v 8 4 then 2 else if s.regB (kSqSeq n + 4) 31 then 3 else 0
      let s := s.setF st 0 8 err
      if err ≠ 0 then s
      else
        let s := { s with foy := { s.foy with gone := s.foy.gone.filter (· ≠ n) } }
        let s := (s.setB k 31 true).setB st 31 true
        let s := (s.setReg (kSqHead n) (s.reg (kSqTail n))).setReg (kCqTail n) (s.reg (kCqHead n))
        if s.foy.journal.any fun e => match e.2 with | some x => decide (x.ring = n) | none => false then
          let next := s.w64 (kAccepted n) + 1
          (s.setReg (kSqSeq n) (lo32 next)).setReg (kSqSeq n + 4) (hi32 next)
        else
          let last := dw (s.reg (kSqSeq n)) (s.reg (kSqSeq n + 4)) - 1
          (s.setW64 (kAccepted n) last).setW64 (kCompleted n) last

/-- A write of a doorbell page; before READY it does nothing and nothing records it, on a page of PF1 too (R40) (DESIGN CHOICE, log 105). -/
def State.ringWrite (s : State) (n o : Nat) (v : Word) : State :=
  let drop := s.wdrop 1 o
  let off (mask : Word) : State := if s.regB (kRingCfg n) 31 then drop else s.setReg (kDB n + o) (v &&& mask)
  let hi (t : State) : State := if s.regB (kRingCfg n) 31 then t else t.setReg (kSeqHi n) v
  if !s.ready then s
  else match o with
    | 0x00 => if s.sqWords n < (v - s.reg (kSqHead n)).toNat then drop else s.setReg (kSqTail n) v
    | 0x04 => if s.cqEntries n < (s.reg (kCqTail n) - v).toNat then drop else (s.setReg (kCqHead n) v).releaseHeld n
    | 0x10 | 0x18 => off 0xFFFFF000
    | 0x14 | 0x1C | 0x28 => off 0xFFFFFFFF
    | 0x2C => hi (off 0xFFFFFFFF)
    | 0x20 => s.ringCfgWrite n v
    | _ => if o < 0x40 then drop else s

/-! ## The interrupt page of PF1, and PF1 BAR0 (R31, R442) -/

/-- A read of the interrupt page at offset o of it. -/
def State.pf1Read (s : State) (o : Nat) : Word × State :=
  if o = 0 then s.claim 17
  else if o = 8 then (s.reg (kTstat 17), s)
  else if (0x800 ≤ o ∧ o < 0x880) ∨ (0xC00 ≤ o ∧ o < 0xC08) then (s.reg (kPF1 + o), s)
  else (0, s)

/-- A write of the interrupt page. -/
def State.pf1Write (s : State) (o : Nat) (v : Word) : State :=
  if o = 0 then s.wdrop 2 0
  else if o = 4 then s.doneWrite 17 v
  else if o = 8 then s.w1c (kTstat 17) 0x80000000 v
  else if 0x800 ≤ o ∧ o < 0x880 then s.msixWrite 1 (o - 0x800) v
  else s

/-- The device answers accesses: it is powered and not tripped (DEDUCED, log 29). -/
def State.answers (s : State) : Bool := decide (s.phase = .boot) || decide (s.phase = .run)

/-- The bytes of a word that a read takes (R34). -/
def readPart (size : ReadSize) (off : Nat) (w : Word) : Word :=
  match size with
  | .byte => (w >>> (8 * (off % 4))) &&& 0xFF
  | .half => (w >>> (8 * (off % 4))) &&& 0xFFFF
  | .word => w

/-- The offset of an access in its BAR. -/
def barOffset : BarAddr → Nat
  | .bar0 off => off.toNat
  | .bar4 off => off.toNat
  | .pf1 off => off.toNat

/-- A word read by a master; a refused read answers all ones (R29) (DEDUCED, log 24), and the record of one through PF1 carries its offset in PF1 BAR0 (DESIGN CHOICE, log 104). -/
def State.regRead (s : State) (m : Master) (a : BarAddr) : Word × State :=
  if !s.answers then (0xFFFFFFFF, s)
  else match m, a with
    | .pf1, .pf1 off =>
      let o := off.toNat / 4 * 4
      if o < 0x1000 then s.pageRead 0 o
      else if o < 0x3000 then s.ringRead (15 + o / 0x1000) (o % 0x1000)
      else if o < 0x4000 then s.pf1Read (o - 0x3000)
      else (0xFFFFFFFF, s.refusedAccess uHost o)
    | .pf0, .bar4 off => s.ringRead (off.toNat / 0x1000) (off.toNat % 0x1000 / 4 * 4)
    | .pf1, _ => (0xFFFFFFFF, s)
    | _, .bar0 off =>
      let r := s.busRead m off.toNat
      (r.1.getD 0xFFFFFFFF, r.2)
    | _, _ => (0xFFFFFFFF, s)

/-- A host write that is discarded and recorded: its unit and the offset within its page, which is 4 KiB for a doorbell page and for the interrupt page of PF1 (DEDUCED, log 22). -/
def dropAt : BarAddr → Nat × Nat
  | .bar0 off => (if 0x40 ≤ off.toNat / 0x10000 then 0x0C else off.toNat / 0x10000, off.toNat % 0x10000)
  | .bar4 off => (1, off.toNat % 0x1000)
  | .pf1 off =>
    (if off.toNat < 0x1000 then 0 else if off.toNat < 0x3000 then 1 else 2, off.toNat % 0x1000)

/-- A narrow or misaligned write is discarded and recorded in `GLB_WDROP` (R34), or at an unmapped offset refused (R29, R33); on a doorbell page before READY it leaves no record (R40) (DESIGN CHOICE, log 105). -/
def State.narrowWrite (s : State) (m : Master) (a : BarAddr) : State :=
  let d := dropAt a
  let o := (barOffset a)
  match m, a with
  | .pf0, .bar4 _ => if s.ready then s.wdrop d.1 d.2 else s
  | .pf1, .pf1 _ =>
    if 0x4000 ≤ o then s.refusedAccess uHost o
    else if 0x1000 ≤ o ∧ o < 0x3000 ∧ s.ready = false then s
    else s.wdrop d.1 d.2
  | .pf1, _ => s
  | _, .bar0 _ => if pageMapped (o / 0x10000) then s.wdrop d.1 d.2 else s.refusedAccess (masterUnit m) (aRegs + o)
  | _, _ => s

/-- A word written by a master (R34); the record of a refused write through PF1 carries its offset in PF1 BAR0 (DESIGN CHOICE, log 104). -/
def State.regWrite (s : State) (m : Master) (a : BarAddr) (w : Width) (v : Word) : State :=
  if !s.answers then s
  else if w = .narrow ∨ (barOffset a) % 4 ≠ 0 then s.narrowWrite m a
  else match m, a with
    | .pf1, .pf1 off =>
      let o := off.toNat
      if o < 0x1000 then s.wdrop 0 o
      else if o < 0x3000 then s.ringWrite (15 + o / 0x1000) (o % 0x1000) v
      else if o < 0x4000 then s.pf1Write (o - 0x3000) v
      else s.refusedAccess uHost o
    | .pf0, .bar4 off => s.ringWrite (off.toNat / 0x1000) (off.toNat % 0x1000) v
    | .pf1, _ => s
    | _, .bar0 off => (s.busWrite m off.toNat v).2
    | _, _ => s

end Sys2Proof.Machine
end

