-- ==== Sys2Proof/Machine/DmaRun.lean ====
section
/-! DEFINITION. What a Dumbwaiter burst moves (R343, R347 to R351). -/

namespace Sys2Proof.Machine

/-- A side of a descriptor is moved in 32-bit words: it has FIX = 1 or lies in the register space (R349). -/
def dwWords (side : Nat × Nat × Bool) : Bool := side.2.2 || inRegs side.1

/-- The accesses of n bytes of a side from byte k on: byte number and length, in words or split at line boundaries. -/
def dwChunks (side : Nat × Nat × Bool) : Nat → Nat → Nat → List (Nat × Nat)
  | 0, _, _ => []
  | f + 1, k, n =>
    if n = 0 then []
    else
      let len := min n (if dwWords side then 4 else 64 - dwAddr side k % 64)
      (k, len) :: dwChunks side f (k + len) (n - len)

/-- The offset of a register-space address; none outside the space. -/
def regOff (a : Nat) : Option Nat := if inRegs a then some (a - aRegs) else none

/-- One read of channel c. -/
def State.dwRead (s : State) (c : Fin 64) (a n : Nat) : Rd × State :=
  match regOff a with
  | some off =>
    let r := s.busRead (.dma c) off
    (match r.1 with | some w => .ok (leBytes n w.toNat) | none => .refused, r.2)
  | none => s.devRead 0x09 c.val a n

/-- The reads of a burst, in order: the bytes read, or what ended them. -/
def dwReads (c : Fin 64) (side : Nat × Nat × Bool) : State → List (Nat × Nat) → List Byte → Rd × State
  | s, [], acc => (.ok acc, s)
  | s, q :: t, acc =>
    match s.dwRead c (dwAddr side q.1) q.2 with
    | (.ok bs, s) => dwReads c side s t (acc ++ bs)
    | r => r

/-- One write of channel c: the registers of the table of R349, or memory.  `denied` and `refused` both halt the channel. -/
def State.dwWrite (s : State) (c : Fin 64) (a : Nat) (bs : List Byte) : Wr × State :=
  match regOff a with
  | some off =>
    let r := s.busWrite (.dma c) off (wd (leNat bs))
    (if r.1 = .done then .ok else .refused, r.2)
  | none => s.devWrite 0x09 c.val a bs

/-- The writes of a burst, in order, from byte k0 of the descriptor. -/
def dwWrites (c : Fin 64) (side : Nat × Nat × Bool) (k0 : Nat) (bs : List Byte) : State → List (Nat × Nat) → Wr × State
  | s, [] => (.ok, s)
  | s, q :: t =>
    match s.dwWrite c (dwAddr side q.1) ((bs.drop (q.1 - k0)).take q.2) with
    | (.ok, s) => dwWrites c side k0 bs s t
    | r => r

/-- The write of a burst whose read-modify-write would meet uncorrectable data: such a burst writes nothing (R351). -/
def State.dwRmw (s : State) (side : Nat × Nat × Bool) (l : List (Nat × Nat)) : Option (Nat × Nat) :=
  l.find? fun q => (regOff (dwAddr side q.1)).isNone && (s.rmwBad (s.place (dwAddr side q.1) q.2) (dwAddr side q.1) q.2).isSome

/-- An access is refused while the descriptor runs (R349). -/
def State.dwStopped (s : State) (c : Nat) : State :=
  s.dwRefuse c .stopped (s.regF (kDw c + 4) 16 8) (s.addr40 (kDw c + 8))

/-- A burst of channel c can begin (R346 to R348, R350). -/
def State.dwReady (s : State) (c : Nat) : Bool :=
  let v := s.dwc c
  s.regB (kDw c + 4) 31 && !v.desc.isEmpty && v.fetch.isNone && !(v.gap && decide (s.dwPause c ≠ 0)) && decide (s.reg (kDw c + 0x14) ≠ 0) &&
    (!bit (dwWord v.desc 0) 29 || decide (s.regF (kDw c + 0x34) 0 4 ≠ 0))

/-- A burst of channel c. -/
def State.dwBurst (s : State) (c : Fin 64) : State :=
  let k := kDw c.val
  if !s.dwReady c.val then s
  else
    let d := (s.dwc c.val).desc
    let w0 := dwWord d 0
    let rem := (s.reg (k + 0x14)).toNat
    let k0 := (dwWord d 1).toNat - rem
    let n := min (64 * 2 ^ fld w0 24 3) rem
    let s := if bit w0 29 then s.setF (k + 0x34) 0 4 (s.regF (k + 0x34) 0 4 - 1) else s
    match dwReads c (dwSide d 0) s (dwChunks (dwSide d 0) n k0 n) [] with
    | (.refused, s) => s.dwStopped c.val
    | (.poison a, s) => s.dwUncorr c.val (a / 64 * 64)
    | (.ok bs, s) =>
      let l := dwChunks (dwSide d 1) n k0 n
      match dwWrites c (dwSide d 1) k0 bs s ((s.dwRmw (dwSide d 1) l).elim l (fun q => [q])) with
      | (.refused, s) => s.dwStopped c.val
      | (.poison a, s) => s.dwUncorr c.val (a / 64 * 64)
      | (.ok, s) =>
        -- a write of this burst may have halted or reset the channel itself
        if !s.regB (k + 4) 31 then s
        else
          let s := s.dwShow c.val d (rem - n)
          (s.setDw c.val { s.dwc c.val with gap := true }).dwWait c.val

/-- The gap after a burst has been counted to `count` Hallway cycles (R49, R318, R348). -/
def State.dwGap (s : State) (c count : Nat) : State :=
  if (s.dwc c).gap && decide (s.dwPause c ≤ count) then s.setDw c { s.dwc c with gap := false } else s

/-- The next burst of channel c would meet uncorrectable data (R351). -/
def State.dwMeetsPoison (s : State) (c : Fin 64) : Bool :=
  s.dwReady c.val && !(s.dwBurst c).regB (kDw c.val + 4) 31 &&
    decide ((s.dwBurst c).regF (kDw c.val + 4) 0 16 = statusCode .uncorr)

end Sys2Proof.Machine
end

