-- ==== Sys2Proof/Machine/NioftRun.lean ====
section
/-! DEFINITION. The Nioft cores at work: the address space of a core, data accesses, and every instruction of Nioft-14 (R401 to R424).  The rows of the opcode table that name an instruction act on a core whose program counter stands at such an instruction. -/

namespace Sys2Proof.Machine

/-! ## The address space of a core (R401 to R404) -/

/-- What a core address reaches. -/
inductive NSpace where
  | loc
  | ccs (o : Nat)
  /-- A device address. -/
  | far (dev : Nat)
  | none
  deriving DecidableEq, Repr

/-- Where core address a of core n leads (R401). -/
def State.nioSpace (s : State) (n a : Nat) : NSpace :=
  if a < 0x10000 then .loc
  else if a < 0x10030 then .ccs (a - 0x10000)
  else if 0x01000000 ≤ a ∧ a < 0x02000000 then .far (aRegs + (a - 0x01000000))
  else if 0x80000000 ≤ a then .far (2 ^ 31 * s.regF (kCCS n + 4) 0 9 + (a - 0x80000000))
  else .none

/-- A Parlour core may write the register: a target of R349 on a page granted to it; the firmware cores write what their access codes allow (R402). -/
def State.coreMay (s : State) (n off : Nat) : Bool :=
  let u := off / 0x10000
  let o := off % 0x10000
  if !pageMapped u then true
  else if 0x40 ≤ u then false
  else s.pageAbsent u || decide ((u = 4 ∨ u = 5) ∧ (o = 0x100 ∨ o = 0x104 ∨ (u = 4 ∧ o = 0x108))) || decide (n < 4) || s.masterMay u o

/-- The access cannot be made: ACCESS (R401, R402, R404). -/
def State.nioDenied (s : State) (n a k : Nat) (write : Bool) : Bool :=
  match s.nioSpace n a with
  | .loc => false
  | .ccs _ => decide (k ≠ 4)
  | .far dev => inRegs dev && (!s.nioGranted n (dev - aRegs) write || (write && !s.coreMay n (dev - aRegs)))
  | .none => true

/-- The access is a far one. -/
def State.nioFar (s : State) (n a : Nat) : Option Nat :=
  match s.nioSpace n a with | .far dev => some dev | _ => none

/-- The least cycles of a far load (R403). -/
def farMin (dev : Nat) : Nat := if inRegs dev then 24 else if aPantry ≤ dev then 40 else 80

/-- A refused access of core n (R403): `CCS_BUSERR` and the address show the first since VALID was clear. -/
def State.busErr (s : State) (n a : Nat) (write : Bool) : State :=
  let k := kCCS n + 0x10
  if s.regB k 31 then s
  else (s.setReg k (flag 31 true ||| flag 30 write)).setReg (kCCS n + 0x14) (wd a)

/-- A read of the core control space (R404). -/
def State.ccsRead (s : State) (n o : Nat) : Word × State :=
  if o = 0x18 then s.claim n
  else if o = 0x1C ∨ o = 0x2C then (0, s)
  else if o = 0x20 then s.loRead kTMB (kCCS n + 0x20)
  else (s.reg (kCCS n + o), s)

/-- `CCS_WDTKICK`: the watchdog count restarts at 0. -/
def State.wdogKick (s : State) (n : Nat) : State :=
  let t := s.cyc n
  s.updCore n fun c => { c with kick := t }

/-- A write of the core control space (R404). -/
def State.ccsWrite (s : State) (n o : Nat) (v : Word) : State :=
  let k := kCCS n + o
  if o = 4 then s.setReg k (v &&& 0x1FF)
  else if o = 0x10 then s.w1c k 0xC0000000 v
  else if o = 0x1C then s.doneWrite n v
  else if o = 0x28 then s.setReg k (v &&& 0xFFFFFF)
  else if o = 0x2C then s.wdogKick n
  else s

/-- A far load of k bytes: none when the data is poisoned (R403). -/
def State.farRead (s : State) (n a dev k : Nat) : Option Word × State :=
  if inRegs dev then
    (match s.busRead (.core (Fin.ofNat 16 n)) (dev - aRegs) with
     | (some w, s) => (some (wd (w.toNat / 2 ^ (8 * (dev % 4)) % 2 ^ (8 * k))), s)
     | (none, s) => (some 0xFFFFFFFF, s.busErr n a false))
  else match s.devRead 0x0C n dev k with
    | (.ok bs, s) => (some (wd (leNat bs)), s)
    | (.refused, s) => (some 0xFFFFFFFF, s.busErr n a false)
    | (.poison _, s) => (none, s)

/-- A read of k bytes at a core address: none when it meets an uncorrectable error. -/
def State.nioRead (s : State) (n a k : Nat) : Option Word × State :=
  match s.nioSpace n a with
  | .loc => s.dataRead n a k
  | .ccs o =>
    let r := s.ccsRead n o
    (some r.1, r.2)
  | .far dev => s.farRead n a dev k
  | .none => (none, s)

/-- A write of k bytes at a core address; a far store joins the outstanding ones (R403). -/
def State.nioWriteAt (s : State) (n a k : Nat) (v : Word) : Option State :=
  match s.nioSpace n a with
  | .loc => s.dataWrite n a k v
  | .ccs o => some (s.ccsWrite n o v)
  | .far dev => some (s.updCore n fun c => { c with stores := c.stores ++ [⟨a, dev, k, v⟩] })
  | .none => none

/-- The store would be the ninth outstanding far store (R403). -/
def State.storeFull (s : State) (n a : Nat) : Bool := (s.nioFar n a).isSome && decide (8 ≤ (s.core n).stores.length)

/-! ## Executing -/

/-- The instruction ends: the PC, its cycles, and the boundary after it. -/
def State.nioEnd (s : State) (n pc k : Nat) : State := ((s.setPc n (pc % 16384)).spend n k).nioBoundary n

/-- Change a working register, and FL. -/
def State.nioPut (s : State) (n d : Nat) (v : Word) : State := s.updCore n fun c => c.setReg d v
def State.nioFl (s : State) (n fl : Nat) : State := s.updCore n fun c => { c with fl := fl }

/-- A 6-bit signed immediate as a word. -/
def imm6 (v : Nat) : Word := iw (sext 6 v)

/-- Result and flags of a register instruction; none in the first place for one that writes only flags (R406 to R409). -/
def nioAlu (c : Core) (i : NInstr) : Option (Option Word × Nat) :=
  let d := c.reg i.d
  let v := c.reg i.s
  let arith (p : Word × Nat) : Option (Option Word × Nat) := some (some p.1, p.2)
  let logic (r : Word) : Option (Option Word × Nat) := some (some r, logFl c.fl r)
  match i.op with
  | .mov => some (some v, c.fl)
  | .add => arith (addFl d v false)
  | .adc => arith (addFl d v (flagOf c.fl 1))
  | .addi => arith (addFl d (imm6 i.imm) false)
  | .sub => arith (subFl d v true)
  | .sbc => arith (subFl d v (flagOf c.fl 1))
  | .cmp => some (none, (subFl d v true).2)
  | .neg => arith (subFl 0 d true)
  | .and => logic (d &&& v)
  | .or => logic (d ||| v)
  | .xor => logic (d ^^^ v)
  | .tst => some (none, logFl c.fl (d &&& v))
  | .not => logic (~~~ d)
  | .movi => some (some (imm6 i.imm), c.fl)
  | .ldi => some (some (wd i.imm), c.fl)
  | .shl | .shr | .sar | .ror => arith (shiftFl i.op c.fl d i.imm)
  | .shlReg | .shrReg | .sarReg => arith (shiftFl i.op c.fl d (v.toNat % 32))
  | _ => none

/-- The 64-bit product of a multiply (R412). -/
def nioProduct (c : Core) (i : NInstr) : Option (Bool × DWord) :=
  let a := c.reg i.d
  let b := c.reg i.s
  match i.op with
  | .mul => some (false, BitVec.ofInt 64 (a.toInt * b.toInt))
  | .mac => some (true, BitVec.ofInt 64 (a.toInt * b.toInt))
  | .mulu => some (false, BitVec.ofNat 64 (a.toNat * b.toNat))
  | _ => none

/-- One data access of an instruction: core address, size, whether it writes, whether it is a stack access. -/
structure NAccess where
  addr : Nat
  size : Nat
  write : Bool
  stack : Bool
  deriving DecidableEq, Repr

/-- The trap that the accesses of an instruction meet before any is made, with its address (R407, R411, R418): ALIGNF first, then STACK or ACCESS. -/
def State.nioFault (s : State) (n : Nat) (as : List NAccess) : Option (Nat × Nat) :=
  match as.find? fun a => !a.stack && decide (a.addr % a.size ≠ 0) with
  | some a => some (cAlignf, a.addr)
  | none =>
    match as.find? fun a => if a.stack then stackBad a.addr else s.nioDenied n a.addr a.size a.write with
    | some a => some (if a.stack then cStack else cAccess, a.addr)
    | none => none

/-- The element size of a string instruction, and the step of its addresses (R407, R413). -/
def NInstr.elem (i : NInstr) : Nat := 2 ^ (i.imm / 2)
def NInstr.stepBy (i : NInstr) : Word := if i.imm % 2 = 1 then 0 - wd i.elem else wd i.elem

/-- The data accesses of an instruction, in the order they are made. -/
def nioAccesses (c : Core) (i : NInstr) : List NAccess :=
  let b := (c.reg i.s).toNat
  let sp (k : Nat) : Nat := (c.reg 15 + wd (4 * k)).toNat
  match i.op with
  | .ldb | .ldbs => [⟨b, 1, false, false⟩]
  | .ldh => [⟨b, 2, false, false⟩]
  | .ldw => [⟨b, 4, false, false⟩]
  | .stb => [⟨b, 1, true, false⟩]
  | .sth => [⟨b, 2, true, false⟩]
  | .stw => [⟨b, 4, true, false⟩]
  | .ldsp => [⟨sp i.imm, 4, false, true⟩]
  | .stsp => [⟨sp i.imm, 4, true, true⟩]
  | .copyx => [⟨c.xs.toNat, i.elem, false, false⟩, ⟨c.xd.toNat, i.elem, true, false⟩]
  | .fillx => [⟨c.xd.toNat, i.elem, true, false⟩]
  | .findx | .sumx => [⟨c.xs.toNat, i.elem, false, false⟩]
  | .reti => [⟨sp 0, 4, false, true⟩]
  | _ => []

/-- The registers of a CALL or RET mask, ascending (R411). -/
def maskRegs (m : Nat) : List Nat := (List.range 14).filter fun i => decide (m / 2 ^ i % 2 = 1)

/-- Read words of local data memory upwards from an address: the address of an uncorrectable one, or the words. -/
def State.popWords (n a : Nat) : Nat → State → Except Nat (List Word) × State
  | 0, s => (.ok [], s)
  | k + 1, s =>
    match s.dataRead n a 4 with
    | (none, s) => (.error a, s)
    | (some w, s) =>
      match State.popWords n (a + 4) k s with
      | (.ok ws, s) => (.ok (w :: ws), s)
      | (.error e, s) => (.error e, s)

/-- CALL (R411): the masked registers from W13 down, then LK, are pushed. -/
def State.nioCall (s : State) (n pc : Nat) (i : NInstr) : State :=
  let c := s.core n
  let rs := maskRegs i.s
  let vals := rs.reverse.map c.reg ++ [c.reg 14]
  let at' (j : Nat) : Nat := (c.reg 15 - wd (4 * (j + 1))).toNat
  match (List.range vals.length).find? fun j => stackBad (at' j) with
  | some j => s.nioTrap n cStack (at' j) pc
  | none =>
      let s := s.each vals.zipIdx fun s (e : Word × Nat) => (s.dataWrite n (at' e.2) 4 e.1).getD s
      let s := s.updCore n fun c => (c.setReg 15 (c.reg 15 - wd (4 * vals.length))).setReg 14 (wd ((pc + 3) % 16384))
      s.nioEnd n i.imm (4 + rs.length)

/-- RET (R411). -/
def State.nioRet (s : State) (n pc : Nat) (i : NInstr) : State :=
  let c := s.core n
  let rs := maskRegs i.s
  let at' (j : Nat) : Nat := (c.reg 15 + wd (4 * j)).toNat
  match (List.range (rs.length + 1)).find? fun j => stackBad (at' j) with
  | some j => s.nioTrap n cStack (at' j) pc
  | none =>
    match s.popWords n (at' 0) (rs.length + 1) with
    | (.error a, s) => s.nioTrap n cDuncorr a pc
    | (.ok ws, s) =>
      let s := s.updCore n fun c =>
        let c := (c.setReg 15 (c.reg 15 + wd (4 * ws.length))).setReg 14 (ws.headD 0)
        (rs.zip (ws.drop 1)).foldl (fun (c : Core) e => c.setReg e.1 e.2) c
      s.nioEnd n (c.reg 14).toNat (3 + rs.length)

/-- RETI (R422).  A request of a level above the saved IPL that is present in cycle k abandons the restore: the handler's first instruction executes in cycle k + 3. -/
def State.nioReti (s : State) (n pc k : Nat) : State :=
  let c := s.core n
  match s.nioFault n (nioAccesses c ⟨.reti, 0, 0, 0, 1⟩) with
  | some e => s.nioTrap n e.1 e.2 pc
  | none =>
    match s.dataRead n c.sp 4 with
    | (none, s) => s.nioTrap n cDuncorr c.sp pc
    | (some w, s) =>
      let level := s.coreLevel n
      if fld w 18 4 < level then
        match (s.setIpl n level).nioVector n level with
        | (none, s) => s.nioTrap n cIfetch 0 (fld w 0 14)
        | (some a, s) => s.nioEnd n a (k + 3)
      else
        let s := s.updCore n fun c => { (c.setReg 15 (c.reg 15 + 4)) with fl := fld w 14 4 }
        (s.setIpl n (fld w 18 4)).nioEnd n (fld w 0 14) 3

/-- The data accesses of an instruction and what it does with them, once no fault stands in the way; the far load, if it has one, has taken `far` cycles. -/
def State.nioAccess (s : State) (n pc : Nat) (i : NInstr) (far : Nat) : State :=
  let c := s.core n
  let rd := (nioAccesses c i).find? fun a => !a.write
  let wr := (nioAccesses c i).find? fun a => a.write
  let got : Option Word × State := match rd with
    | some a => s.nioRead n a.addr a.size
    | none => (some 0, s)
  match got with
  | (none, s) => s.nioTrap n cDuncorr ((rd.map (·.addr)).getD 0) pc
  | (some v, s) =>
    let out := match i.op with
      | .copyx => v
      | _ => c.reg i.d
    let put : Option State := match wr with
      | some a => s.nioWriteAt n a.addr a.size out
      | none => some s
    match put with
    | none => s.nioTrap n cDuncorr ((wr.map (·.addr)).getD 0) pc
    | some s =>
      let farW : Nat := match wr with
        | some a => if (s.nioFar n a.addr).isSome then 1 else 0
        | none => 0
      if i.op.isString then
        let s := s.updCore n fun c => match i.op with
          | .copyx => { c with xs := c.xs + i.stepBy, xd := c.xd + i.stepBy }
          | .fillx => { c with xd := c.xd + i.stepBy }
          | .findx => { c with xs := c.xs + i.stepBy, fl := (subFl (c.reg i.d) v true).2 }
          | _ =>
            let r := addFl (c.reg i.d) v false
            { (c.setReg i.d r.1) with xs := c.xs + i.stepBy, fl := r.2 }
        let s := s.spend n (far + farW + (if i.op = .fillx then 1 else 2))
        if c.rep = 0 then s.nioEnd n (pc + 1) 0
        else
          let s := s.updCore n fun c => { c with xc := c.xc - 1 }
          let c := s.core n
          if c.xc = 0 ∨ (i.op = .findx ∧ flagOf c.fl 2) then (s.updCore n fun c => { c with rep := 0 }).nioEnd n (pc + 2) 0
          else (s.updCore n fun c => { c with rep := 2 }).nioBoundary n
      else
        match rd, wr with
        | some a, _ =>
          let v := if i.op = .ldbs then iw (sext 8 v.toNat) else v
          (s.nioPut n i.d v).nioEnd n (pc + 1) (if (s.nioFar n a.addr).isSome && !a.stack then far else 2)
        | none, some a => s.nioEnd n (pc + 1) (if a.size = 4 || farW = 1 then 1 else 2)
        | none, none => s

/-- An instruction with data accesses: its faults, then the wait for a far load or for a free place among the far stores, then the accesses (R403, R418). -/
def State.nioMemory (s : State) (n pc : Nat) (i : NInstr) (far : Option Nat) : State :=
  let as := nioAccesses (s.core n) i
  let farRd := as.findSome? fun a => if a.write || a.stack then none else s.nioFar n a.addr
  match s.nioFault n as with
  | some e => s.nioTrap n e.1 e.2 pc
  | none =>
    match farRd, far with
    | some _, none => s.updCore n fun c => { c with hold := .load }
    | some dev, some k => s.nioAccess n pc i (max k (farMin dev))
    | none, _ =>
      if as.any fun a => a.write && !a.stack && s.storeFull n a.addr then s.updCore n fun c => { c with hold := .store }
      else s.nioAccess n pc i 0

/-- The instruction at the PC, decoded and free of fetch errors, executes (R406 to R415).  `k` is the cycle of a RETI in which a request is present. -/
def State.nioExec (s : State) (n pc : Nat) (i : NInstr) (k : Nat) : State :=
  let t := s.cyc n
  let s := s.updCore n fun c => c.mulDone t
  let c := s.core n
  let next := pc + i.len
  match nioAlu c i with
  | some (r, fl) =>
    let s := match r with | some v => s.nioPut n i.d v | none => s
    (s.nioFl n fl).nioEnd n next i.len
  | none =>
    match nioProduct c i with
    | some p => (s.updCore n fun c => { c with muls := c.muls ++ [⟨t, p.1, p.2⟩] }).nioEnd n next 1
    | none =>
      match i.op with
      | .br => if condHolds c.fl i.d then s.nioEnd n (next + 16384 + (sext 6 i.imm % 16384).toNat) 2 else s.nioEnd n next 1
      | .jmp => s.nioEnd n i.imm 2
      | .jmpr => s.nioEnd n (c.reg i.d).toNat 2
      | .callr => (s.nioPut n 14 (wd (next % 16384))).nioEnd n (c.reg i.d).toNat 2
      | .call => s.nioCall n pc i
      | .ret => s.nioRet n pc i
      | .reti => s.nioReti n pc k
      | .mfs => (s.nioPut n i.d (s.spec n i.s)).nioEnd n next 1
      | .mts => (s.setSpec n i.s (c.reg i.d)).nioEnd n next 1
      | .nop => s.nioEnd n next 1
      | .wait => (((s.setPc n (next % 16384)).spend n 1).setB (kCstat n) 30 true).nioBoundary n
      | .halt => (s.spend n 1).nioStopAt n cHalt pc
      | .trap =>
        let s := if stackBad (c.reg 15 - 4).toNat then s else s.setReg (kCCS n + 0x0C) (wd i.d)
        (s.spend n 1).nioEnter n (next % 16384) true
      | .fence => if c.stores.isEmpty then s.nioEnd n next 1 else s.updCore n fun c => { c with hold := .fence }
      | _ => s.nioMemory n pc i none

/-- REP (R414, R415): the string instruction after it is skipped at count 0, and its elements follow otherwise. -/
def State.nioRep (s : State) (n pc : Nat) : State :=
  match s.nioFetch n pc 2 with
  | (none, s) => s.nioTrap n cIfetch 0 pc
  | (some ws, s) =>
    match nDecode (ws.getD 1 0) 0 0 with
    | some i =>
      if !i.op.isString then s.nioTrap n cRepIll 0 pc
      else if (s.core n).xc = 0 then s.nioEnd n (pc + 2) 2
      else (s.spend n 1).updCore n fun c => { c with rep := 1 }
    | none => s.nioTrap n cRepIll 0 pc

/-- Core n stands before an instruction, or before an element of a repeated one, and nothing is due ahead of it. -/
def State.nioReady (s : State) (n : Nat) : Bool :=
  let c := s.core n
  s.answers && s.coreRuns n && !s.regB (kCstat n) 30 && decide (c.hold = .none) && decide (c.due = 0)
    && (decide (c.rep = 1) || !s.wdogDue n)

/-- A row that names an instruction: it executes when it is the one at the PC of core n.  A fetch error and an undecodable word trap whatever the row (R410, R418). -/
def State.nioRow (s : State) (n : Nat) (want : NOp) (k : Nat) : State :=
  if !s.nioReady n then s
  else
    let pc := s.pc n
    let rep := decide ((s.core n).rep ≠ 0)
    let ipc := if rep then (pc + 1) % 16384 else pc
    match s.nioFetch n ipc 1 with
    | (none, t) => t.nioTrap n cIfetch 0 pc
    | (some ws, _) =>
      let len := nLen (ws.headD 0)
      match s.nioFetch n ipc len with
      | (none, t) => t.nioTrap n cIfetch 0 pc
      | (some ws, t) =>
        match nDecode (ws.headD 0) (ws.getD 1 0) (ws.getD 2 0) with
        | none => t.nioTrap n cIllegal 0 pc
        | some i =>
          if i.op ≠ want then s
          else if want = .rep then s.nioRep n pc
          else t.nioExec n pc i k

/-- The instruction that a held core stands in, as it was fetched. -/
def State.nioHeld (s : State) (n : Nat) : Option NInstr :=
  let c := s.core n
  let pc := if c.rep = 0 then s.pc n else s.pc n + 1
  nDecode (c.word pc) (c.word (pc + 1)) (c.word (pc + 2))

/-- The data of a far load returns, after some cycles, once every earlier far store is visible (R403). -/
def State.nioFarLoadDone (s : State) (n cycles : Nat) : State :=
  let c := s.core n
  if !(s.answers && s.coreRuns n && decide (c.hold = .load) && c.stores.isEmpty) then s
  else match s.nioHeld n with
    | none => s
    | some i => (s.updCore n fun c => { c with hold := .none }).nioMemory n (s.pc n) i (some cycles)

/-- The stores before a FENCE are visible (R409). -/
def State.nioFenceDone (s : State) (n cycles : Nat) : State :=
  let c := s.core n
  if !(s.answers && s.coreRuns n && decide (c.hold = .fence) && c.stores.isEmpty) then s
  else (s.updCore n fun c => { c with hold := .none }).nioEnd n (s.pc n + 1) (1 + cycles)

/-- A far store that has reached its target: what its core learns. -/
def State.farWrite (s : State) (n : Nat) (f : FarStore) : State :=
  if inRegs f.dev then
    let off := f.dev - aRegs
    let u := off / 0x10000
    if f.size ≠ 4 ∧ pageMapped u then s.wdrop (if 0x40 ≤ u then 0x0C else u) (off % 0x10000)
    else match s.busWrite (.core (Fin.ofNat 16 n)) (off / 4 * 4) f.val with
      | (.refused, s) => s.busErr n f.addr true
      | (_, s) => s
  else match s.devWrite 0x0C n f.dev (leBytes f.size f.val.toNat) with
    | (.ok, s) => s
    | (.refused, s) => s.busErr n f.addr true
    | (.poison _, s) => if s.coreRuns n then s.nioTrap n cDuncorr f.addr (s.pc n) else s

/-- The oldest far store of core n becomes visible to every device master (R403, R428); a store that waited for a free place then goes on. -/
def State.nioFarStoreDone (s : State) (n cycles : Nat) : State :=
  if !s.answers then s
  else match (s.core n).stores with
    | [] => s
    | f :: rest =>
      let s := (s.updCore n fun c => { c with stores := rest }).farWrite n f
      let s := s.nioSettle n
      if s.coreRuns n && decide ((s.core n).hold = .store) then
        match s.nioHeld n with
        | none => s
        | some i => ((s.updCore n fun c => { c with hold := .none }).spend n cycles).nioMemory n (s.pc n) i none
      else s

/-- An entry under R419 begins: one that the last boundary found due, or one that ends a WAIT after some cycles (R421, R424). -/
def State.nioIntEntry (s : State) (n cycles : Nat) : State :=
  let waits := s.regB (kCstat n) 30
  let c := s.core n
  if !(s.answers && s.coreRuns n) then s
  else if c.due ≠ 0 ∨ (waits ∧ s.ipl n < s.coreLevel n) then (if waits then s.spend n cycles else s).nioEnter n (s.pc n) false
  else s

/-- Cycles pass on a core that waits or is stalled, and the watchdog is looked at (R404, R418): its trap falls at an instruction boundary. -/
def State.nioWdogExpiry (s : State) (n cycles : Nat) : State :=
  let c := s.core n
  if !(s.answers && s.coreRuns n) then s
  else
    let stalled := decide (c.hold ≠ .none)
    let s := if s.regB (kCstat n) 30 || stalled then s.spend n cycles else s
    if !s.wdogDue n then s
    else if stalled || decide (c.rep = 1) then s.updCore n fun c => { c with wdogReq := true }
    else s.nioTrap n cWdog 0 (s.pc n)

end Sys2Proof.Machine
end

