-- ==== Sys2Proof/Machine/Attic.lean ====
section
/-! DEFINITION. The Attic and the Study: the boot chain, fuse updates and debug tokens, the boot record and its log, quotes, and the audit port (R468 to R497). -/

namespace Sys2Proof.Machine

/-! ## The boot flash (R471, R472) -/

/-- Bytes of the boot flash; an erased byte reads 0xFF (DESIGN CHOICE, log 36). -/
def flashRead (f : List (Nat × List Byte)) (a n : Nat) : List Byte :=
  (List.range n).map fun i =>
    match f.find? fun e => decide (e.1 ≤ a + i) && decide (a + i < e.1 + e.2.length) with
    | some e => e.2.getD (a + i - e.1) 0xFF
    | none => 0xFF

/-- The number in n bytes at an offset of a byte list. -/
def numAt (l : List Byte) (o n : Nat) : Nat := leNat ((l.drop o).take n)

/-- Bytes of a list. -/
def bytesAt (l : List Byte) (o n : Nat) : List Byte := (l.drop o).take n

/-- A directory copy whose MAGIC and CRC are correct. -/
def dirOk (d : List Byte) : Bool := decide (numAt d 0 4 = 0x52444C46) && decide (numAt d 0xFFC 4 = (crc32 (d.take 0xFFC)).toNat)

/-- The directory the ROM takes. -/
def flashDir (f : List (Nat × List Byte)) : Option (List Byte) := [0, 0x10000].findSome? fun a =>
  let d := flashRead f a 4096
  if dirOk d then some d else none

/-- An image named by the directory: its entry, kind and copy, header, payload, and whether it could not be read. -/
structure Img where
  entry : Nat
  kind : Nat
  copyB : Bool
  hdr : List Byte
  payload : List Byte
  bad : Bool
  off : Nat
  len : Nat
  deriving DecidableEq, Repr

/-- The images of a directory, in its order. -/
def flashImages (b : BootIn) (d : List Byte) : List Img :=
  (List.range (min 32 (numAt d 6 2))).map fun e =>
    let o := 0x20 + 16 * e
    let off := numAt d (o + 4) 4
    let len := numAt d (o + 8) 4
    ⟨e, numAt d o 1, decide (numAt d (o + 1) 1 = 1), flashRead b.flash off 512, flashRead b.flash (off + 512) (len - 512),
      b.unread.contains e, off, len⟩

/-- The message both signatures of an image cover. -/
def imgMessage (i : Img) : List Byte := ascii "FLEYN-IMAGE-V1" ++ [0, 0] ++ i.hdr.take 0x50

def Img.svn (i : Img) : Nat := numAt i.hdr 8 4
def Img.digest (i : Img) : List Byte := bytesAt i.hdr 0x10 64
def Img.cslot (i : Img) : Nat := numAt i.hdr 0xB0 1

/-- The vendor signature is valid (R472). -/
def Img.vendorOk (i : Img) : Bool :=
  let k := bytesAt i.hdr 0x50 32
  decide (sha512 k = leBytes 64 Config.vendorSlot.toNat) && edVerify k (imgMessage i) (bytesAt i.hdr 0x70 64)

/-- The customer signature is valid (R472). -/
def Img.custOk (i : Img) (f : Fuses) : Bool :=
  let k := bytesAt i.hdr 0xC0 32
  decide (i.cslot < 4) && f.live i.cslot && decide (f.slot i.cslot = some (sha512 k)) && edVerify k (imgMessage i) (bytesAt i.hdr 0xE0 64)

/-- MAGIC, KIND, FORMAT, PLEN and DIGEST are correct (DEDUCED, log 32). -/
def Img.formOk (i : Img) : Bool :=
  decide (numAt i.hdr 0 4 = 0x4D494C46) && decide (numAt i.hdr 4 2 = i.kind) && decide (numAt i.hdr 6 2 = 1)
    && decide (numAt i.hdr 0x0C 4 + 512 = i.len) && decide (sha512 i.payload = i.digest)

/-- The failure code of an image of kinds 1 to 4 under a fuse state; none when it is admitted (R473, R474). -/
def Img.fault (i : Img) (f : Fuses) : Option Nat :=
  if i.bad then some 0x07
  else if !i.formOk || !i.vendorOk || (f.owned && !i.custOk f) then some 0x05
  else if i.svn < f.svn then some 0x06
  else none

/-- The admitted image of a kind: copy A, else copy B; a failure gives the code of copy B, or of copy A when there is no copy B. -/
def admitImg (is : List Img) (f : Fuses) (kind : Nat) : Except Nat Img :=
  let copy (b : Bool) := is.find? fun i => decide (i.kind = kind) && decide (i.copyB = b)
  let tryB (c : Nat) : Except Nat Img := match copy true with
    | none => .error c
    | some i => match i.fault f with | none => .ok i | some c => .error c
  match copy false with
  | none => tryB 0x04
  | some i => match i.fault f with | none => .ok i | some c => tryB c

/-! ## Fuse updates (R478, R479) -/

/-- Authority for a fuse update or a debug token, judged on a fuse state. -/
def Img.authority (i : Img) (f : Fuses) : Bool := !i.bad && i.formOk && (if f.owned then i.custOk f else i.vendorOk)

/-- The payload of a fuse update is well formed, and bound to this device or to none (DEDUCED, log 33). -/
def updateOk (p : List Byte) : Bool :=
  let dik := p.take 32
  decide (p.length = 192) && (dik.all (· = 0) || decide (dik = padTo 32 dikPublic)) && decide (numAt p 0x20 4 < 32)
    && decide (numAt p 0x24 1 < 4) && decide (numAt p 0x25 1 < 16) && decide (numAt p 0x26 1 < 128) && decide (numAt p 0x27 1 < 2)
    && decide (numAt p 0x2C 4 = 0) && (p.drop 0x90).all (· = 0)

/-- The operations of fuse updates, in the order the ROM takes them. -/
inductive FuseOp where
  | progSlot | revoke | raiseSvn | mantelKey | setCfg
  deriving DecidableEq, Repr

def fuseOps : List FuseOp := [.progSlot, .revoke, .raiseSvn, .mantelKey, .setCfg]

/-- The bit of OPS. -/
def FuseOp.bit : FuseOp → Nat
  | .progSlot => 0 | .revoke => 1 | .raiseSvn => 2 | .mantelKey => 3 | .setCfg => 4

/-- What an operation does: refused, or the fuses after it. -/
def fuseOp (is : List Img) (signer : Option Nat) (p : List Byte) (f : Fuses) : FuseOp → Option Fuses
  | .progSlot =>
    let k := numAt p 0x24 1
    let h := bytesAt p 0x30 64
    match f.slot k with
    | some h' => if h' = h then some f else none
    | none => some { f with slots := Tbl.set (fun _ => none) f.slots k (some h) }
  | .revoke =>
    let f' := { f with revoked := f.revoked ||| numAt p 0x25 1 }
    if (match signer with | some k => decide (numAt p 0x25 1 / 2 ^ k % 2 = 1) | none => false) then none
    else if f'.owned && !((List.range 4).any f'.live) then none
    else some f'
  | .raiseSvn =>
    let n := numAt p 0x28 4
    let f' := { f with svn := max f.svn n }
    if 64 < n then none
    else if n ≤ f.svn then some f
    else if [1, 2, 3, 4].all fun k => is.any fun i => decide (i.kind = k) && (i.fault f').isNone then some f'
    else none
  | .mantelKey =>
    let k := bytesAt p 0x70 32
    match f.mantel with
    | some k' => if k' = k then some f else none
    | none => some { f with mantel := some k }
  | .setCfg =>
    let a := numAt p 0x26 1
    if a ≠ 0 ∧ (a < 0x08 ∨ 0x77 < a ∨ (f.audAddr ≠ 0 ∧ f.audAddr ≠ a)) then none
    else some { f with audAddr := if a = 0 then f.audAddr else a, audOff := f.audOff || decide (numAt p 0x27 1 = 1) }

/-- What the fuse updates of a boot have done. -/
structure FuseRun where
  fuses : Fuses
  applied : Nat
  refused : Nat
  failed : Bool
  deriving DecidableEq, Repr

/-- The operations of one authorised update. -/
def fuseUpdate (is : List Img) (blowBad : List Nat) (i : Img) (f : Fuses) : FuseRun :=
  let signer := if f.owned then some i.cslot else none
  fuseOps.foldl (fun r op =>
    if numAt i.payload 0x20 4 / 2 ^ op.bit % 2 = 0 then r
    else match fuseOp is signer i.payload r.fuses op with
      | none => { r with refused := r.refused + 2 ^ op.bit }
      | some f' =>
        if f' = r.fuses then r
        else if blowBad.contains op.bit then { r with failed := true }
        else { r with fuses := f', applied := r.applied + 2 ^ op.bit }) ⟨f, 0, 0, false⟩

/-- `ATT_BOOTSTAT` bits. -/
def bDone : Nat := 31
def bFail : Nat := 30
def bSpi1 : Nat := 29
def bFuseErr : Nat := 28
def bFuseApplied : Nat := 27
def bWarm : Nat := 26

/-- The fuses take a value; their registers follow it (R497). -/
def State.setFuses (s : State) (f : Fuses) : State := { s with att := { s.att with fuses := f } }

/-- Step 5: the fuse updates in directory order. -/
def State.applyUpdates (s : State) (is : List Img) (blowBad : List Nat) : State :=
  s.each (is.filter fun i => decide (i.kind = 5)) fun s i =>
    let f := s.att.fuses
    if i.authority f && updateOk i.payload then
      let r := fuseUpdate is blowBad i f
      let s := s.setFuses r.fuses
      let s := if r.refused ≠ 0 then { s with att := { s.att with fuseRefused := true } } else s
      let s := if r.refused ≠ 0 ∨ r.failed then s.setB kBootStat bFuseErr true else s
      let s := if r.applied ≠ 0 then s.setB kBootStat bFuseApplied true else s
      if r.applied ≠ 0 ∨ r.refused ≠ 0 then s.measure 0x02 srcBoot r.applied r.refused (BitVec.ofNat 64 i.entry) i.digest else s
    else s

/-! ## The boot log (R489 to R491) -/

/-- Block i of the ring of the boot log. -/
def blkInit : LogBlk := ⟨0, 0, []⟩
def State.logBlk (s : State) (i : Nat) : LogBlk := Tbl.get (fun _ => blkInit) s.att.log (s.att.logBase + i)
def State.setLogBlk (s : State) (i : Nat) (b : LogBlk) : State :=
  { s with att := { s.att with log := Tbl.set (fun _ => blkInit) s.att.log (s.att.logBase + i) b } }

/-- A Theant record's signature verifies under its own DIKPUB (R483). -/
def recordOk (r : List Byte) : Bool :=
  let n := numAt r 8 4
  decide (numAt r 0 4 = 0x544E4854) && decide (n = r.length) && decide (64 ≤ n)
    && edVerify (bytesAt r 0x10 32) (theantPrefix ++ r.take (n - 64)) (r.drop (n - 64))

/-- The open blocks of the ring, the highest BSEQ first. -/
def State.logOpen (s : State) : List LogBlk :=
  ((List.range s.att.logN).map s.logBlk |>.filter fun b => decide (b.state = 1)).mergeSort fun a b => decide (b.bseq ≤ a.bseq)

/-- The records of the boot log whose signature verifies, oldest first. -/
def State.logRecords (s : State) : List (List Byte) :=
  s.logOpen.reverse.flatMap fun b => b.slots.filterMap fun x => match x with | some r => if recordOk r then some r else none | none => none

/-- BOOTSEQ of a record. -/
def recSeq (r : List Byte) : Nat := numAt r 0x30 8

/-- The block that is written to: the open one of the highest BSEQ. -/
def State.logCur (s : State) : Option Nat :=
  (List.range s.att.logN).find? fun i => decide ((s.logBlk i).state = 1) && (List.range s.att.logN).all fun j =>
    decide ((s.logBlk j).state ≠ 1) || decide ((s.logBlk j).bseq ≤ (s.logBlk i).bseq)

/-- Open the next good block after `cur`, marking those that fail as bad; N2 keeps the next good block erased. -/
def State.logNext (s : State) (cur : Option Nat) (blkFails : Nat) : Option Nat × State :=
  let n := s.att.logN
  let i0 := match cur with | some i => i + 1 | none => 0
  let q := match cur with | some i => (s.logBlk i).bseq + 1 | none => 0
  let cand := ((List.range (if cur.isSome then n - 1 else n)).map fun k => (i0 + k) % n).filter fun i => decide ((s.logBlk i).state ≠ 2)
  let s := s.each (cand.take blkFails) fun s i => s.setLogBlk i ⟨2, 0, []⟩
  match cand.drop blkFails with
  | i :: ahead =>
    let s := s.setLogBlk i ⟨1, q, []⟩
    (some i, match ahead with | j :: _ => s.setLogBlk j blkInit | [] => s)
  | [] => (none, s)

/-- The block that takes the next record: the one being written while it has a slot left, else the next one. -/
def State.logPlace (s : State) (cur i : Option Nat) (blkFails : Nat) : Option Nat × State :=
  match i with
  | some k => if (s.logBlk k).slots.length < 63 then (some k, s) else s.logNext cur blkFails
  | none => s.logNext cur blkFails

/-- A record, or a slot that failed its verification, goes into a block. -/
def State.logPut (s : State) (i : Nat) (x : Option (List Byte)) : State :=
  s.setLogBlk i { s.logBlk i with slots := (s.logBlk i).slots ++ [x] }

/-- Append a record to the ring (R490): the blocks that fail while one is opened, and the slots that fail their verification, as they are told. -/
def State.logAppend (s : State) (r : List Byte) (progFails blkFails : Nat) : Bool × State :=
  let cur := s.logCur
  if s.att.logN = 0 then (false, s)
  else
    let a := s.logPlace cur cur blkFails
    match a.1 with
    | none => (false, a.2)
    | some i =>
      if progFails = 0 then (true, a.2.logPut i (some r))
      else
        let b := (a.2.logPut i none).logPlace cur (some i) blkFails
        match b.1 with
        | none => (false, b.2)
        | some j => if progFails = 1 then (true, b.2.logPut j (some r)) else (false, b.2.logPut j none)

/-- BADBLK. -/
def State.badBlocks (s : State) : Nat := ((List.range s.att.logN).filter fun i => decide ((s.logBlk i).state = 2)).length

/-! ## The boot chain (R474 to R477, R480 to R484) -/

/-- The boot stops with a failure code. -/
def State.bootFail (s : State) (code kind : Nat) : State :=
  (s.setReg kBootStat (s.reg kBootStat ||| flag bFail true ||| wd (code * 2 ^ 16 + kind * 2 ^ 12))).setB 4 2 true

/-- The core an image kind is for (R398, R472). -/
def kindCore (k : Nat) : Nat := match k with | 1 => 1 | 2 => 0 | 3 => 2 | _ => 3

/-- The signer of an admitted image: 0xFF for the vendor alone. -/
def Img.signer (i : Img) (f : Fuses) : Nat := if f.owned then i.cslot else 0xFF

/-- The image of a core is placed in its memories and runs from word 0. -/
def State.fwLoad (s : State) (n : Nat) (img : List Byte) : State :=
  match nioHeader (img.take 64) img.length with
  | none => s
  | some (pw, d, _) =>
    match s.nioPlace n pw d (img.drop 64) with
    | none => s
    | some s => (s.updCore n fun c => { c with pwords := pw }).nioStart n 0

/-- An image is admitted: measured, kept for a restart, and loaded (R473, R474). -/
def State.fwAdmit (s : State) (i : Img) : State :=
  let n := kindCore i.kind
  let s := s.measure 0x03 srcBoot n (i.svn * 2 ^ 16 + b2n i.copyB * 2 ^ 8 + i.signer s.att.fuses) (BitVec.ofNat 64 i.payload.length) i.digest
  let s := if i.copyB then s.setB kBootStat (8 + i.kind - 1) true else s
  let s := { s with att := { s.att with fw := Tbl.set (fun _ => []) s.att.fw n i.payload } }
  (s.fwLoad n i.payload).setB (kCstat n) 29 true

/-- Step 8: the first valid debug token (R480). -/
def State.debugToken (s : State) (is : List Img) : List Byte × State :=
  let ok (i : Img) : Bool := decide (i.kind = 6) && i.authority s.att.fuses && decide (i.payload.length = 48)
    && decide (i.payload.take 32 = padTo 32 dikPublic) && decide ((s.w64 kBootSeq).toNat ≤ numAt i.payload 32 8) && decide (numAt i.payload 40 4 = 1)
  match is.find? ok with
  | some i => (i.digest, (s.measure 0x04 srcBoot 0 0 (BitVec.ofNat 64 (numAt i.payload 32 8)) i.digest).setB 4 8 true)
  | none => (zero64, s)

/-- Entries carried after a warm reset (R482, kind 0x16). -/
def State.carried (s : State) : State :=
  let dig (s : State) (k : Nat) : List Byte := wsBytes ((List.range 16).map fun j => s.reg (k + 4 * j))
  let s := s.each ((List.range 256).filter fun r => s.regB (kPR r + 8) 29) fun s r =>
    s.measure 0x16 srcBoot r (s.reg (kPR r + 8)).toNat ((s.reg (kPR r + 0xC)).zeroExtend 64) (dig s (kPR r + 0x40))
  s.each (nioParlour.filter fun n => s.regB (kCstat n) 29) fun s n =>
    s.measure 0x16 srcBoot (0x100 + n) (s.core n).grant.toNat (BitVec.ofNat 64 (s.core n).aux) (dig s (kNIO + 0xC00 + 0x40 * n))

/-- Firmware entry k of the boot record. -/
def fwEntry (f : Fuses) (i : Img) : List Byte :=
  leBytes 2 i.kind ++ leBytes 1 (b2n i.copyB) ++ leBytes 1 (i.signer f) ++ leBytes 4 i.svn ++ leBytes 4 i.payload.length ++ leBytes 4 0 ++ padTo 64 i.digest

/-- Step 9: the boot record is cut, signed and held (R484). -/
def State.cutBoot (s : State) (warm : Bool) (imgs : List Img) (updates : Nat) (prev debug : List Byte) : State :=
  let f := s.att.fuses
  let st := s.reg kBootStat
  let cause : Nat := b2n warm + 2 ^ 8 * b2n (s.regB 4 8) + 2 ^ 9 * b2n (bit st bSpi1) + 2 ^ 10 * b2n (bit st bFuseErr) + 2 ^ 11 * b2n prev.isEmpty
    + 2 ^ 12 * b2n (!prev.isEmpty && decide (bytesAt prev 0x10 32 ≠ padTo 32 dikPublic))
  let content := leBytes 4 cause ++ wBytes (s.reg (kATT + 4)) ++ wBytes (s.reg 0) ++ leBytes 4 f.svn ++ wBytes f.word ++ List.replicate 12 (0 : Byte)
    ++ (if prev.isEmpty then zero64 else sha512 prev) ++ padTo 64 s.att.acc ++ wBytes (s.reg kMeasCnt) ++ leBytes 4 updates
    ++ [2, 1, 3, 4].flatMap (fun k => match imgs.find? fun i => decide (i.kind = k) with | some i => fwEntry f i | none => List.replicate 80 (0 : Byte))
    ++ padTo 64 debug ++ padTo 32 (f.mantel.getD [])
  let r := s.theant 1 (padTo (1024 - 128) content)
  let s := s.measure 0x05 srcBoot 0 0 (s.w64 kBootSeq) (sha512 r)
  { s with att := { s.att with boot := r } }.setB kBootStat bDone true

/-- The log region of a directory: absent when it is too small or overlaps an image (R489). -/
def logRegion (d : List Byte) (is : List Img) : Option (Nat × Nat) :=
  let base := numAt d 0x0C 4
  let n := numAt d 0x10 4
  if n < 512 ∨ base % 65536 ≠ 0 ∨ is.any fun i => decide (i.off < base + n * 65536) && decide (base < i.off + i.len) then none
  else some (base / 65536, n)

/-- Steps 6 and 7: the images of the kinds given are admitted in turn; one that fails ends the boot (R474). -/
def State.admitAll (s : State) (is : List Img) (f : Fuses) : List Nat → List Img → Option (List Img) × State
  | [], acc => (some acc, s)
  | k :: t, acc =>
    match admitImg is f k with
    | .error c => (none, s.bootFail c k)
    | .ok i => State.admitAll (s.fwAdmit i) is f t (acc ++ [i])

/-- Steps 8 and 9, with the images admitted. -/
def State.bootEnd (s : State) (warm : Bool) (is imgs : List Img) : State :=
  let prev := (s.logRecords.getLast?).getD []
  let s := s.setW64 kBootSeq (if prev.isEmpty then 0 else BitVec.ofNat 64 (recSeq prev + 1))
  let t := s.debugToken is
  let s := if warm then t.2.carried else t.2
  let ups := (is.filter fun i => decide (i.kind = 5)).length
  s.cutBoot warm imgs ups prev t.1

/-- The region of the boot log as the directory names it (R489). -/
def State.logShow (s : State) (d : List Byte) (is : List Img) : State :=
  let s := match logRegion d is with
    | some (base, n) => ({ s with att := { s.att with logBase := base, logN := n } }).setReg kLogStat (wd (n % 65536))
    | none => ({ s with att := { s.att with logN := 0 } }).setReg kLogStat 0x40000000
  s.setF kLogStat 16 10 (min 1023 s.badBlocks)

/-- Steps 4 to 9, with the directory found. -/
def State.bootFrom (s : State) (b : BootIn) (warm : Bool) (d : List Byte) : State :=
  let is := flashImages b d
  let s := (s.setB kBootStat bSpi1 b.retried).logShow d is
  let s := s.applyUpdates is b.blowBad
  let f := s.att.fuses
  let r := (s.measure 0x01 srcBoot f.svn f.word.toNat 0 (sha512 f.rows)).admitAll is f [1, 2, 3, 4] []
  match r.1 with
  | none => r.2
  | some imgs => r.2.bootEnd warm is imgs

/-- Steps 2 to 9, on a state whose units have been reset. -/
def State.bootChain (s : State) (b : BootIn) (warm : Bool) : State :=
  let s := { s with att := { s.att with meas := [], acc := zero64, boot := [], fuseRefused := false } }.setReg kMeasCnt 0
  let s := s.setReg kBootStat (flag bWarm warm)
  if b.fuseBad then s.bootFail 0x01 0
  else if b.keyBad then s.bootFail 0x02 0
  else match flashDir b.flash with
    | none => s.bootFail 0x03 0
    | some d => s.bootFrom b warm d

/-- The boot has ended well. -/
def State.booted (s : State) : Bool := s.regB kBootStat bDone && !s.regB kBootStat bFail

/-- After READY the Study appends the boot record, source 26 asserts, and the boot's events are recorded (R475). -/
def State.bootLogAppend (s : State) (progFails blkFails : Nat) : State :=
  if !(decide (s.phase = .run) && s.booted) || s.att.boot.isEmpty || s.regB kLogStat 31 then s
  else if s.logRecords.contains s.att.boot then s
  else
    let r := s.logAppend s.att.boot progFails blkFails
    let s := r.2.setF kLogStat 16 10 (min 1023 r.2.badBlocks)
    let s := (if r.1 then s else s.setB kLogStat 31 true).pulse 26
    let st := s.reg kBootStat
    s.each ([(1, decide (fld st 8 4 ≠ 0)), (2, s.att.fuseRefused), (3, bit st bSpi1), (4, !r.1)].filter (·.2)) fun s (e : Nat × Bool) =>
      s.errRec sevInfo 0x0D 0x0070 e.1 .ok st (s.reg kLogStat)

/-! ## BOOTLOG_READ (R492) -/

/-- The boot records held: those of the log, and the current one. -/
def State.bootRecords (s : State) : List (List Byte) :=
  let l := s.logRecords
  if s.att.boot.isEmpty || l.contains s.att.boot then l else l ++ [s.att.boot]

/-- The checks of `BOOTLOG_READ`: the reply of the first that fails. -/
def bootlogReadFault (o : Open) (s : State) : Option Reply :=
  let p := o.pkt
  let cur := (lo32 (s.w64 kBootSeq)).toNat
  firstFail [(decide ((pw p 2).toNat < 1024), repBadP 2), (decide (cur < (pw p 3).toNat), rep .okEmpty 0)]

/-- `BOOTLOG_READ`. -/
def beginBootlogRead (o : Open) (s : State) : Started × State :=
  match bootlogReadFault o s with
  | some r => (.done r, s)
  | none =>
      let p := o.pkt
      let l := (s.bootRecords.filter fun r => decide ((pw p 3).toNat ≤ recSeq r)).take ((pw p 2).toNat / 1024)
      (.done ⟨.ok, 0, wd l.length, 0, 0⟩, s.hostWrite (pd p 0) l.flatten)

/-! ## Quotes (R485, R493) -/

/-- A quote for a requester with at most `room` entries. -/
def State.quote (s : State) (requester room : Nat) (nonce : List Byte) : List Byte :=
  let es := (s.att.meas.take room).reverse
  let n := es.length
  let cnt := (s.reg kMeasCnt).toNat
  let new := s.reg kBatchNew
  let batch := if new = 0xFFFFFFFF then zero64 else sha512 (s.batchAt new.toNat)
  let first := match es.head? with | some e => e.before | none => s.att.acc
  s.theant 2 (padTo 32 nonce ++ leBytes 4 requester ++ leBytes 4 (b2n (s.regB 4 8)) ++ sha512 s.att.boot
    ++ wsBytes ((List.range 8).map fun k => s.reg (0x160 + 4 * k)) ++ leBytes 4 (s.regF kJStat 0 16) ++ wBytes new ++ batch
    ++ leBytes 4 cnt ++ leBytes 4 (cnt - n) ++ leBytes 4 n ++ leBytes 4 0 ++ padTo 64 first ++ padTo 64 s.att.acc ++ es.flatMap measBytes)

/-- `ATTEST_QUOTE`: P0 to P7 nonce, P8 and P9 buffer, P10 its size. -/
def beginAttestQuote (o : Open) (s : State) : Started × State :=
  let p := o.pkt
  if (pw p 10).toNat < 480 then (.done (repBadP 10), s)
  else
    let q := s.quote (srcRing p.ring) (((pw p 10).toNat - 480) / 96) (wsBytes ((List.range 8).map (pw p)))
    (.done ⟨.ok, 0, wd q.length, 0, 0⟩, s.hostWrite (pd p 8) q)

/-! ## The audit port (R494 to R496) -/

/-- The port responds (R494) (DEDUCED, log 35). -/
def State.audOn (s : State) : Bool := decide (s.phase ≠ .off) && decide (s.phase ≠ .trip) && !s.att.fuses.audOff

def State.updAud (s : State) (f : Audit → Audit) : State := { s with att := { s.att with aud := f s.att.aud } }

/-- `ATT_AUDSTAT` follows the address in use. -/
def State.audShow (s : State) : State :=
  let f := s.att.fuses
  let a := match s.att.aud.dyn with | some a => a | none => if f.audAddr = 0 then 0x5A else f.audAddr
  s.setReg kAudStat ((s.reg kAudStat &&& 0xFFFF) ||| flag 31 (!f.audOff) ||| flag 30 s.att.aud.dyn.isSome ||| wd (a % 128 * 2 ^ 23))

/-- The status block (R496). -/
def State.audStatus (s : State) : List Byte :=
  padTo 64 (wsBytes [s.reg 0, s.reg 4, s.reg kBootStat, s.att.fuses.word] ++ leBytes 8 (s.w64 kBootSeq).toNat ++ leBytes 8 s.now.toNat
    ++ wsBytes [s.reg kMeasCnt, s.reg kBatchNew, s.reg kBatchOld, wd s.att.fuses.svn, s.reg kLogStat])

/-- What a request answers: status, detail, and the new buffer with read position 0; none for one that leaves the buffer (R495). -/
def State.audServe (s : State) (w : List Byte) : Status × Nat × Option (List Byte) :=
  let req := numAt w 0 1
  let idx := numAt w 4 8
  let nonce := bytesAt w 12 32
  let early := !s.booted
  let zi := decide (idx = 0)
  let zn := nonce.all (· = 0)
  let fail (st : Status) : Status × Nat × Option (List Byte) := (st, 0, some [])
  if w.length ≠ 48 then fail .badLength
  else if numAt w 44 4 ≠ (crc32 (w.take 44)).toNat ∨ numAt w 2 2 ≠ 0 then fail .badParam
  else match req with
    | 1 => if zi && zn then (.ok, 0, some s.audStatus) else fail .badParam
    | 2 =>
      if !zn then fail .badParam else if early then fail .notReady
      else (match s.bootRecords.find? fun r => decide (recSeq r = idx) with | some r => (.ok, 0, some r) | none => fail .okEmpty)
    | 3 =>
      if !zn then fail .badParam else if early || decide (s.pstate = 2) then fail .notReady
      else if s.reg kBatchNew = 0xFFFFFFFF || decide ((s.reg kBatchNew).toNat < idx) || decide (idx < (s.reg kBatchOld).toNat) then fail .okEmpty
      else (.ok, 0, some (s.batchAt idx))
    | 4 =>
      if !zi then fail .badParam else if early || decide (s.pstate = 2) then fail .notReady
      else (.ok, 0, some (s.quote 3 677 nonce))
    | 5 => if zi && zn then (.ok, 0, some (padTo 192 s.att.fuses.cert)) else fail .badParam
    | 6 =>
      if !zn then fail .badParam else if early then fail .notReady
      else (.ok, 0, none)
    | _ => fail .badOpcode

/-- A private write (R495): a request that arrives while one is being served is discarded (DEDUCED, log 127). -/
def State.audRequest (s : State) (w : List Byte) : State :=
  if !s.audOn || decide (s.att.aud.state = 0) then s
  else
    let r := s.audServe w
    s.updAud fun a => { a with
      state := 0, tag := w.getD 1 0, status := r.1, detail := r.2.1
      buf := match r.2.2 with | some b => b.take 65536 | none => a.buf
      pos := match r.2.2 with | some _ => 0 | none => numAt w 4 8 }

/-- The response becomes ready: source 27 asserts, and the request is counted. -/
def State.audReady (s : State) : State :=
  if s.audOn && decide (s.att.aud.state = 0) then
    ((s.updAud fun a => { a with state := 1 }).setF kAudStat 0 16 ((s.regF kAudStat 0 16 + 1) % 65536)).pulse 27
  else s

/-- The code of the STATE byte. -/
def State.audRead (s : State) : List Byte × State :=
  let a := s.att.aud
  if !s.audOn then ([], s)
  else
    let chunk := if a.state = 0 then [] else bytesAt a.buf a.pos 256
    let hdr := leBytes 1 a.state ++ [a.tag] ++ leBytes 2 (statusCode a.status) ++ leBytes 2 a.detail ++ leBytes 2 chunk.length
      ++ leBytes 4 a.buf.length ++ leBytes 4 a.pos
    (hdr ++ chunk ++ wBytes (crc32 (hdr ++ chunk)), s.updAud fun a => { a with pos := a.pos + chunk.length })

/-- Dynamic addresses (R494): ENTDAA gives one to a port without; SETDASA by the static address; RSTDAA takes it away. -/
def State.audAssign (s : State) (a : Option Nat) (again : Bool) : State :=
  if s.audOn && (again || s.att.aud.dyn.isNone) then (s.updAud fun x => { x with dyn := a }).audShow else s

/-! ## Receipt batches closed by time (R279) -/

/-- The open batch closes 100 ms after its first receipt was added, or when it holds 64. -/
def State.batchTime (s : State) : State :=
  if s.studyUp && !s.att.batch.isEmpty && (decide (64 ≤ s.att.batch.length) || decide (100000000 ≤ (s.now - s.att.batchOpen).toNat)) then s.batchClose else s

end Sys2Proof.Machine
end

