-- ==== Sys2Proof/Machine/Chimney.lean ====
section
/-! DEFINITION. The Chimney: the refresh, voltage and equalisation loops and their bounds, temperatures, telemetry, and the power states (R284, R285, R498 to R509, R514 to R520). -/

namespace Sys2Proof.Machine

/-! ## The refresh loop (R285, R515 to R517) -/

/-- `CHM_REFRATEc`, `CEL_CHSTATc` and `CEL_CHTEMPc`. -/
def kRate (c : Nat) : Nat := kCHM + 0x110 + 4 * c
def kChstat (c : Nat) : Nat := kCEL + 0x10 * c
def kChtemp (c : Nat) : Nat := kCEL + 0x10 * c + 4

/-- Lower and upper bound of the refresh loop, `CHM_RBOUND`. -/
def State.refLo (s : State) : Nat := s.regF (kCHM + 0x104) 0 16
def State.refHi (s : State) : Nat := s.regF (kCHM + 0x104) 16 16

/-- The hard minimum of a channel: 32 while its DIMM is above 85 °C (R285, R516). -/
def State.refHard (s : State) (c : Nat) : Nat := if s.regF (kChtemp c) 8 8 = 2 then 32 else 16

/-- `CHM_REFRATEc` for a demand: the larger of the clamped demand and the hard minimum (R516, R517). -/
def State.refreshSet (s : State) (c d : Nat) : State :=
  let lo := s.refLo
  let hi := s.refHi
  let v := max lo (min hi d)
  let hard := s.refHard c
  let out := decide (d < lo) || decide (hi < d)
  let was := s.regB (kRate c) 31
  let s := s.setReg (kRate c) (flag 31 out ||| flag 30 (decide (v < hard)) ||| wd (d % 256 * 256 + max v hard))
  if out && !was then s.loopBound 0x10 (wd d) (wd v) else s

/-- The demand of channel c. -/
def State.refDemand (s : State) (c : Nat) : Nat := s.regF (kRate c) 8 8

/-- Every channel takes the present bounds and temperatures. -/
def State.refreshAll (s : State) : State := s.each (List.range 8) fun s c => s.refreshSet c (s.refDemand c)

/-- A rise by 4 needs 8 corrected errors within 1 s that no earlier rise has used; a fall by 4 needs 60 s without one, and stops at 16 (R516).  The demand has 8 bits (DESIGN CHOICE, log 80). -/
def State.refreshStep (s : State) (c : Nat) (up : Bool) : State :=
  let es : List DWord := Tbl.get (fun _ => []) s.chm.errT c
  let calm : DWord := Tbl.get (fun _ => 0) s.chm.calm c
  let d := s.refDemand c
  if up then
    match es[7]? with
    | some t =>
      if 1000000000 < (s.now - t).toNat then s
      else { s with chm := { s.chm with errT := Tbl.set (fun _ => []) s.chm.errT c [] } }.refreshSet c (min 252 (d + 4))
    | none => s
  else if (s.now - calm).toNat < 60000000000 || d ≤ 16 then s
  else { s with chm := { s.chm with calm := Tbl.set (fun _ => 0) s.chm.calm c s.now } }.refreshSet c (d - 4)

/-- The SPD hub of channel c reports a temperature in °C: the refresh mode of its DIMM, in use or left idle, follows it, and a change of mode pulses source 54 (R285, R286). -/
def State.refreshMode (s : State) (c : Nat) (temp : Byte) : State :=
  if !s.regB (kChstat c) 31 || s.regB (kChstat c) 29 then s
  else
    let t := if 85 < temp.toInt then 2 else 1
    let was := s.regF (kChtemp c) 8 8
    let s := s.setReg (kChtemp c) (wd (t * 256 + temp.toNat))
    let s := if was = t then s else s.pulse 54
    s.refreshSet c (s.refDemand c)

/-! ## The core-voltage loop (R500, R515) -/

/-- A step of the loop, which acts once READY is set: 5 mV towards the voltage it asks for, within its bounds; it holds while no regulator answers. -/
def State.voltageStep (s : State) (want : Nat) (answered : Bool) : State :=
  if !s.ready then s
  else if !answered then s.setB kCHM 29 true
  else
    let b := kCHM + 0x100
    let lo := s.regF b 0 16
    let hi := s.regF b 16 16
    let t := max lo (min hi want)
    let sp := s.regF (kCHM + 0x40) 16 16
    let sp' := if sp < t then min t (sp + 5) else max t (sp - 5)
    let out := decide (want < lo) || decide (hi < want)
    let was := s.regB kCHM 16
    let s := ({ s with chm := { s.chm with vwant := want } }.setB kCHM 29 false).setF (kCHM + 0x40) 16 16 sp'
    let s := s.setB kCHM 16 out
    if out && !was then s.loopBound 0x00 (wd want) (wd t) else s

/-! ## CLOCK_POLICY (R515 to R519) -/

/-- `CLOCK_POLICY`: P0 the loop, P1 and P2 its bounds (DEDUCED, log 82). -/
def beginClockPolicy (o : Open) (s : State) : Started × State :=
  let p := o.pkt
  let l := fld (pw p 0) 0 8
  let p1 := (pw p 1).toNat
  let p2 := (pw p 2).toNat
  let ans (b : Bool) : Started := .done (rep .ok (b2n b))
  let check (b1 b2 : Bool) (k : Unit → Started × State) : Started × State :=
    match firstFail [(b1, repBadP 1), (b2, repBadP 2)] with
    | some r => (.done r, s)
    | none => k ()
  if outside p 0 0xFF then (.done (repBadP 0), s)
  else if l = 0 then
    check (p1 < 650 || 850 < p1) (p2 < 750 || 850 < p2 || p2 < p1) fun _ =>
      (ans (s.regB kCHM 16), s.setReg (kCHM + 0x100) (wd (p2 * 65536 + p1)))
  else if l = 0x10 then
    check (p1 < 16 || 64 < p1) (p2 < 16 || 64 < p2 || p2 < p1) fun _ =>
      let s := (s.setReg (kCHM + 0x104) (wd (p2 * 65536 + p1))).refreshAll
      (ans ((List.range 8).any fun c => s.regB (kRate c) 31), s)
  else if l = 0x20 then
    check (p1 ≠ 0) (4096 < p2) fun _ =>
      let s := s.throtBound p2
      (ans (s.regB (kHAL + 0x300) 30), s)
  else if 0x40 ≤ l ∧ l < 0x60 then
    let h := l - 0x40
    if s.headPresent h then beginPullWindow h (pw p 1).toInt (pw p 2).toInt s else (.done (repBad (0x20 + h / 8)), s)
  else if 0x60 ≤ l ∧ l < 0x80 then
    let q := l - 0x60
    match s.absentPort q with
    | (true, r) => (.done r, s)
    | _ => check (16 ≤ p1) (p2 = 0 || 65536 ≤ p2) fun _ =>
        (ans (s.regB (kCHM + 0x480) q), s.setReg (kCHM + 0x400 + 4 * q) (wd (p1 * 65536 + p2)))
  else (.done (repBadP 0), s)

/-! ## Temperatures (R514) -/

/-- A temperature in 1/16 °C that a register or a sample holds. -/
def temp16 (w : BitVec 16) : Int := w.toInt

/-- The highest of the readings. -/
def tjOf (ts : List (BitVec 16)) : BitVec 16 := ts.foldl (fun m t => if temp16 m < temp16 t then t else m) (ts.headD 0)

/-- The twelve sensors are read: `CHM_TEMP`, Tj and its peak, and the thermal warning. -/
def State.thermal (s : State) (temps : List (BitVec 16)) : State :=
  let ts := temps.take 12
  if ts.isEmpty then s
  else
    let s := s.each ((List.range 12).zip ts) fun s (e : Nat × BitVec 16) => s.setReg (kCHM + 0x10 + 4 * e.1) (e.2.zeroExtend 32)
    let t := tjOf ts
    let s := s.setReg (kCHM + 4) (t.zeroExtend 32)
    let pk : BitVec 16 := (s.reg (kCHM + 8)).truncate 16
    let s := if temp16 pk < temp16 t then s.setReg (kCHM + 8) (t.zeroExtend 32) else s
    let was := s.regB kCHM 31
    if !was && decide (95 * 16 ≤ temp16 t) then
      ((s.setB kCHM 31 true).level 23 true).errRec sevInfo 0x03 0x0060 0 .ok (t.zeroExtend 32) 0
    else if was && decide (temp16 t < 92 * 16) then (s.setB kCHM 31 false).level 23 false
    else s

/-! ## Telemetry (R519) -/

/-- The checks of `TELEMETRY_CONFIG`: the reply of the first that fails. -/
def telemetryConfigFault (o : Open) : Option Reply :=
  let p := o.pkt
  let n := (pw p 2).toNat
  let size := (List.range 9).any fun k => decide (n = 4096 * 2 ^ k)
  firstFail [(fld (pw p 0) 0 12 ≠ 0, repAlignP 0), (n ≠ 0 && !size, repBadP 2)]

/-- `TELEMETRY_CONFIG`. -/
def beginTelemetryConfig (o : Open) (s : State) : Started × State :=
  match telemetryConfigFault o with
  | some r => (.done r, s)
  | none =>
      let p := o.pkt
      let n := (pw p 2).toNat
      let ring := if n = 0 then none else some (BitVec.ofNat 64 (pd p 0), n)
      (.done repOk, { s with chm := { s.chm with ring := ring, seq := 0 } })

/-- Corrected errors of a memory since the cold boot. -/
def State.ceCount (s : State) (i : Nat) : Nat := Tbl.get (fun _ => 0) s.chm.ce i

/-- The 256 bytes of a telemetry record. -/
def State.telemetryBytes (s : State) (x : Sample) : List Byte :=
  let h16 (l : List (BitVec 16)) (n : Nat) : List Byte := (List.range n).flatMap fun i => leBytes 2 (l.getD i 0).toNat
  let body := leBytes 4 0x31544843 ++ leBytes 4 s.chm.seq ++ leBytes 8 s.now.toNat
    ++ h16 x.temps 12 ++ leBytes 2 (tjOf (x.temps.take 12)).toNat ++ leBytes 2 (fld s.chmStat 16 16) ++ leBytes 4 0
    ++ h16 (x.volts.take 21) 24 ++ (List.range 8).flatMap (fun i => wBytes (x.currs.getD i 0)) ++ wBytes x.power
    ++ wBytes (s.reg (kCHM + 0x40)) ++ (List.range 8).flatMap (fun c => leBytes 1 (s.regF (kRate c) 0 8))
    ++ wBytes ((List.range 32).foldl (fun w h => w ||| flag h (s.regB (kHD h + 0xA0) 29)) 0) ++ wBytes (s.reg (kCHM + 0x480))
    ++ (List.range 8).flatMap (fun c => leBytes 4 (s.ceCount c)) ++ leBytes 4 (s.ceCount 8) ++ leBytes 4 (s.ceCount 9) ++ leBytes 4 s.chm.ue
    ++ (List.range 32).flatMap (fun p => leBytes 1 (if s.linkUp p then Tbl.get (fun _ => 0) s.chm.margin p else 0)) ++ List.replicate 24 (0 : Byte)
  body ++ wBytes (crc32 body)

/-- The Chimney samples, and publishes one record while a ring is set: in S0 and S1 only (DEDUCED, log 81). -/
def State.telemetry (s : State) (x : Sample) : State :=
  let s := ((s.thermal x.temps).setReg (kCHM + 0x44) x.power).setF (kCHM + 0x40) 0 16 x.vcore.toNat
  match s.chm.ring with
  | none => s
  | some (a, n) =>
    let i := s.chm.seq
    let s := s.hostWrite (a.toNat + 256 * (i % (n / 256))) (s.telemetryBytes x)
    ({ s with chm := { s.chm with seq := i + 1 } }.setReg (kCHM + 0x50) (wd i)).pulse 22

/-! ## POWER_STATE (R503 to R508) -/

/-- The unit that keeps the device out of S1 (R506 check 3). -/
def State.busyS1 (s : State) : Option Nat :=
  match (List.range 32).find? fun h => (s.head h).enabled with
  | some h => some (uHead h)
  | none => if s.musBusy then some 0x0B else none

/-- The unit that keeps the device out of S2 (R506 check 4); `ring` is that of the command. -/
def State.busyS2 (s : State) (ring : Nat) : Option Nat :=
  if nioParlour.any s.coreRuns then some 0x0C
  else if (List.range 64).any fun c => s.regB (kDw c + 4) 31 then some 0x09
  else if (List.range 4).any fun e => (s.rect1 e).run.isSome || !(s.rect1 e).queue.isEmpty then some 0x0A
  else if (List.range 4).any fun e => decide (s.reg (kErun e) ≠ 0) then some 0x08
  else if s.foy.opens.any fun x => decide (x.pkt.ring.val ≠ ring) then some 0x01
  else none

/-- The checks of `POWER_STATE`: the reply of the first that fails. -/
def powerStateFault (o : Open) (s : State) : Option Reply :=
  let p := o.pkt
  let w := pw p 0
  let st := fld w 0 2
  let b1 := s.busyS1
  let b2 := s.busyS2 p.ring.val
  firstFail [
      (st = 3 || outside p 0 0xFFFF0103 || (st ≠ 2 && decide (w &&& 0xFFFF0100 ≠ 0)), repBadP 0),
      (st = s.pstate, rep .okEmpty 0),
      (st ≠ 0 && b1.isSome, rep .notReady (b1.getD 0)),
      (st = 2 && b2.isSome, rep .notReady (b2.getD 0)),
      (st = 2 && fld w 16 16 ≠ 0 && decide (s.regF (kBank 0) 29 2 = 0), repBadP 0)]

/-- `POWER_STATE`: its checks; what it does, it does at its commit point. -/
def beginPowerState (o : Open) (s : State) : Started × State :=
  match powerStateFault o s with
  | some r => (.done r, s)
  | none => (.done repOk, s)

/-- Queued receipts of head h are discarded (R278, R507). -/
def State.receiptsDrop (s : State) (h : Nat) : State :=
  let s' := s.each (s.head h).ig.queue fun s _ =>
    ((s.incReg (kHD h + 0xE6C)).errRec sevInfo (uHead h) 0x0016 0 .noResource (lo32 (s.frame h)) (hi32 (s.frame h))).updIg h
      fun g => { g with gap := true }
  s'.updIg h fun g => { g with queue := [] }

/-- The commit point of a `POWER_STATE` that was not refused. -/
def State.powerCommit (s : State) (o : Open) : State :=
  let w := pw o.pkt 0
  match fld w 0 2 with
  | 0 => s.setF 4 4 2 0
  | 1 => s.portsDisable.setF 4 4 2 1
  | _ =>
    let s := if s.pstate = 0 then s.portsDisable.setF 4 4 2 1 else s
    let s := s.batchClose.each (List.range 32) State.receiptsDrop
    { s with chm := { s.chm with toS2 := true, wake := w } }

/-- Every Cellar channel in use goes into self-refresh (R503, R518). -/
def State.selfRefresh (s : State) : State := s.each s.chans fun s c => s.setB (kChstat c) 28 true

/-- The device enters S2. -/
def State.enterS2 (s : State) : State :=
  if s.chm.toS2 then ({ s with chm := { s.chm with toS2 := false, waking := false, aon := 0 } }.setF 4 4 2 2).selfRefresh else s

/-- A pin of bank 0 has held a level for 1 ms in S2 (R508). -/
def State.wakePin (s : State) (pin : Nat) (lvl : Bool) : State :=
  if s.pstate = 2 && bit s.chm.wake (16 + pin) && (bit s.chm.wake 8 == lvl) then { s with chm := { s.chm with waking := true } } else s

/-- The link is in L0 again: S1, `TMB_STAT.SLEPT`, and the records that waited are written (R446, R508, R523). -/
def State.leaveS2 (s : State) : State :=
  if s.pstate = 2 then
    (({ s with chm := { s.chm with waking := false } }.setF 4 4 2 1).setB (kTMB + 8) 30 true).errDrain
  else s

/-- A Cellar channel that has been idle for 1 ms in S1 enters self-refresh (R503). -/
def State.idleChannel (s : State) (c : Nat) : State :=
  if s.pstate = 1 && s.chans.contains c then s.setB (kChstat c) 28 true else s

end Sys2Proof.Machine
end

