-- ==== Sys2Proof/Machine/Reset.lean ====
section
/-! DEFINITION. Start-up, the resets and what each keeps, and the recoveries of accepted work (R56, R85 to R88, R264, R282 to R286, R293, R316, R400, R443, R498 to R502, R509 to R513, R518). -/

namespace Sys2Proof.Machine

/-! ## Cellar training (R282, R283, R286, R293, R313) -/

/-- A supported organisation (R282). -/
def dimmFits (m : Dimm) : Bool :=
  m.ecc && [(16, 1, true), (32, 1, false), (32, 2, true), (48, 1, false), (64, 2, false), (64, 1, false)].contains (m.gib, m.ranks, m.x8)

/-- The DIMM of channel c. -/
def dimmAt (d : List (Option Dimm)) (c : Nat) : Option Dimm := (d[c]?).join

/-- The data rate in 100 MT/s: the lowest of 64 and every highest rated speed, rounded down to 48, 56 or 64 (DEDUCED, log 75). -/
def trainRate (ms : List Dimm) : Nat :=
  let r := ms.foldl (fun r m => min r m.speed) 64
  if 64 ≤ r then 64 else if 56 ≤ r then 56 else 48

/-- The largest power of two that is at most n, for n up to 8, as its logarithm. -/
def log2Floor (n : Nat) : Nat := if 8 ≤ n then 3 else if 4 ≤ n then 2 else if 2 ≤ n then 1 else 0

/-- Region 63 is placed in the window of the journal channel, and the journal begins (R77, R293). -/
def State.journalStart (s : State) : State :=
  match s.chans with
  | [] => s
  | j :: _ =>
    let base := s.ilv
    let attr : Word := wd (2 ^ 31 + 2 ^ 26 + j * 2 ^ 23 + 3 * 2 ^ 21 + 0x01 * 2 ^ 8)
    let s := (s.celPut 63 base journalBytes attr).setReg (kReg 63 + 0x14) 0x80000000
    (s.setAddr40 kJBase base).setReg kJStat (wd (2 ^ 31 + j * 2 ^ 20 + j * 2 ^ 16))

/-- The training of the Cellar ends, with what was found in each slot (DEDUCED, log 77). -/
def State.trained (s : State) (d : List (Option Dimm)) : State :=
  if s.phase ≠ .boot || s.regB 4 3 || s.regB kBootStat bFail || decide (s.reg (kCEL + 0x80) ≠ 0) then s
  else
    let found := (List.range 8).filter fun c => (dimmAt d c).isSome
    let fit := found.filter fun c => match dimmAt d c with | some m => dimmFits m | none => false
    let ms := fit.filterMap (dimmAt d)
    let rate := trainRate ms
    let cap := ms.foldl (fun x m => if x = 0 then m.gib else min x m.gib) 0
    let up := fit.filter fun c => match dimmAt d c with | some m => m.trains | none => false
    let n := log2Floor up.length
    let used := if up.isEmpty then [] else up.take (2 ^ n)
    let idle := up.filter fun c => !used.contains c
    let mask (l : List Nat) : Nat := (l.map fun c => 2 ^ c).sum
    let s := s.each found fun s c =>
      match dimmAt d c with
      | none => s
      | some m =>
        let ok := up.contains c
        let w := flag 31 true ||| flag 30 (used.contains c) ||| flag 29 (!ok) ||| flag 26 (m.ranks = 2) ||| flag 25 m.x8
          ||| flag 24 (used.contains c && decide (cap < m.gib)) ||| wd (m.gib % 256 * 65536) ||| wd rate
        let s := (s.setReg (kChstat c) w).setReg (kChtemp c) 0x100
        if ok then s else s.errRec sevFatal 0x04 0x0032 c .notReady w 0
    if used.isEmpty then s
    else
      let s := s.setReg (kCEL + 0x80) (wd (mask used * 2 ^ 24 + mask idle * 2 ^ 16 + n * 2 ^ 8 + cap))
      let s := (s.setReg kHAL (wd (2 ^ n * rate * 800))).setReg (kHAL + 4) (wd (2 ^ n * rate * 640))
      let calm : Tbl DWord := s.chm.calm
      let s := { s with chm := { s.chm with calm := used.foldl (fun t c => Tbl.set (fun _ => 0) t c s.now) calm } }
      s.journalStart

/-! ## Cold boot and power (R498 to R502, R510, R511) -/

/-- What stands before the boot chain of a cold boot: everything is lost but the fuses and the boot log, and what has left the device. -/
def State.coldKeep (s : State) : State :=
  let r := State.reset
  { r with
    phase := .boot, host := s.host, free := s.free, pending := s.pending, tap := s.tap
    att := { atticInit with fuses := s.att.fuses, logBase := s.att.logBase, logN := s.att.logN, log := s.att.log }
    bell := { r.bell with sent := s.bell.sent } }

/-- Cold reset: nothing runs, every register is at its reset value, and no output ball but the lanes is driven (R510, R548). -/
def State.powerOff (s : State) : State := { s.coldKeep with phase := .off }

/-- Cold boot: everything but the fuses and the boot log is lost, the always-on clock runs on the RC, and the boot chain runs. -/
def State.bootUp (s : State) (b : BootIn) : State := ((s.coldKeep.setReg (kTMB + 8) 0xA0000000).bootChain b false).audShow

/-- `PWR_OK` rises, after it has stayed low for b.low ns more, with TEST_MODE as b.test says (R474, R548): a pulse shorter than 1 µs is ignored, and the device stays in cold reset while TEST_MODE is high (DESIGN CHOICE, log 120). -/
def State.coldBoot (s : State) (b : BootIn) : State :=
  if b.test then { s.powerOff with test := true }
  else if s.phase = .off then s.bootUp b
  else match s.pwrLow with
    | none => s
    | some n => if n + b.low < 1000 then { s with pwrLow := none } else s.bootUp b

/-- `PWR_OK` falls; its filter passes the fall 1 µs later (R499, R548). -/
def State.pwrFall (s : State) : State := if s.phase = .off then s else { s with pwrLow := some (s.pwrLow.getD 0) }

/-- So many nanoseconds pass for the filter of `PWR_OK`. -/
def State.pwrTick (s : State) (d : Nat) : State :=
  match s.pwrLow with
  | none => s
  | some n => if 1000 ≤ n + d then s.powerOff else { s with pwrLow := some (n + d) }

/-- XTAL32K has run stably: the always-on clock switches to it (R501). -/
def State.xtal (s : State) : State := (s.setB kCHM 28 true).setB (kTMB + 8) 31 false

/-- READY is set: the rings run, the ports of restored heads train, and a replay may begin (R40, R56, R86, R264). -/
def State.readySet (s : State) : State :=
  if s.phase = .boot && s.booted && s.regB kJStat 31 then
    let s := { s with phase := .run }.setB 4 0 true
    let s := s.each (List.range 18) fun s n =>
      let next := s.w64 (kAccepted n) + 1
      (s.setReg (kSqSeq n) (lo32 next)).setReg (kSqSeq n + 4) (hi32 next)
    s.each ((List.range 32).filter fun h => (s.head h).enabled) State.portsHeadOn
  else s

/-! ## Recovery (R84 to R87) -/

/-- A recovery is counted and described (R82, R87 step 7); only that of a warm reset can lose commands. -/
def State.recoveryNote (s : State) (cause unit n : Nat) : State :=
  let s := if cause = 1 then s else s.setReg kJLost 0
  (s.setF kJStat 0 16 (min 0xFFFF (s.regF kJStat 0 16 + 1))).setReg kRecovery (wd (cause * 2 ^ 28 + unit * 2 ^ 16 + n % 65536))

/-- An open command is executed again from its payload slot (R85). -/
def Open.again (o : Open) : Open := { o with replay := true, begun := false, wait := .none, fin := none, ftime := none }

/-- What a recovery that lost the unit does with a begun command: again, or `STOPPED` for an overlapping copy that has started to write (R80, R85). -/
def State.replayed (s : State) (o : Open) : Open :=
  match s.jAt o.idx with
  | some e =>
    if e.state = .started then
      let u : Nat := match o.op with | .rectCopy | .rectConvert => 0x0A | _ => 0x01
      { o with replay := false, begun := true, wait := .none, fin := some (rep .stopped u), ftime := none }
    else o.again
  | none => o.again

/-- The open commands of a list of acceptance numbers are replayed (DEDUCED, log 98). -/
def State.replayThese (s : State) (accs : List Nat) : State :=
  { s with foy := { s.foy with opens := s.foy.opens.map fun o => if accs.contains o.acc then s.replayed o else o } }

/-- Of the commands replayed, those that are executed again. -/
def State.countAgain (s : State) (accs : List Nat) : Nat := (s.foy.opens.filter fun o => accs.contains o.acc && o.fin.isNone).length

/-- An open command whose entry or payload cannot be read: a COMPLETE entry that answers it with `UNCORR`, under what could be read of the old one (R87 step 3) (DEDUCED, log 69). -/
def State.lostOpen (s : State) (o : Open) (e : Option JEntry) : State :=
  let r : Reply := rep .uncorr 1
  let blank : JEntry := { state := .complete, hdr := 0, seq := o.pkt.seq, tag := 0, ring := o.pkt.ring.val, slot := 0, replayed := false,
                          mirror := false, sqend := 0, cqidx := 0, reply := r, ctime := 0, atime := 0, feat := 0, epoch := 0 }
  let s := s.jSet o.idx { e.getD blank with tag := 0, state := .complete, reply := r }
  let s := (s.incReg kJLost).errRec sevFatal 0x01 0x0034 o.pkt.ring.val .uncorr (lo32 o.pkt.seq) (hi32 o.pkt.seq)
  s.updOpen o.acc fun o => { o with replay := false, begun := true, wait := .none, fin := some r, ftime := none,
                                    pkt := { o.pkt with tag := 0, irq := false } }

/-- Step 1: the entry table is read; its readable entries are what the Foyer knows from then on. -/
def State.jScan (s : State) : List (Nat × JEntry) × State :=
  let r : List (Nat × JEntry) × State := s.foy.journal.foldl (fun a e =>
    let q := a.2.jEntry false e.1
    (match q.1 with | some x => (e.1, x) :: a.1 | none => a.1, q.2)) ([], s)
  let t : Tbl (Option JEntry) := r.1.foldl (fun t e => Tbl.set (fun _ => none) t e.1 (some e.2)) r.2.foy.journal
  (r.1, { r.2 with foy := { r.2.foy with journal := t } })

/-- The value that a kept sequence register takes: it is raised, never lowered; all ones stands for none yet (R51, R87 step 2). -/
def seqRaise (old : DWord) (q : Option DWord) : DWord :=
  match q with
  | some q => if old = 0xFFFFFFFFFFFFFFFF ∨ old.toNat < q.toNat then q else old
  | none => old

/-- The largest of a list of sequence numbers, and the smallest. -/
def seqMax (l : List DWord) : Option DWord := l.foldl (fun m q => match m with | some x => if x.toNat < q.toNat then some q else m | none => some q) none
def seqMin (l : List DWord) : Option DWord := l.foldl (fun m q => match m with | some x => if q.toNat < x.toNat then some q else m | none => some q) none

/-- Step 2 for ring n: `FOY_ACCEPTED` and `FOY_COMPLETED` are raised to what the readable entries give. -/
def State.seqBack (s : State) (es : List (Nat × JEntry)) (n : Nat) : State :=
  let mine := (es.map (·.2)).filter fun e => decide (e.ring = n) && decide (e.state ≠ .free)
  let first := seqMin ((mine.filter fun e => decide (e.state ≠ .complete)).map (·.seq))
  let done := (mine.filter fun e => decide (e.state = .complete) && (match first with | some q => decide (e.seq.toNat < q.toNat) | none => true)).map (·.seq)
  (s.setW64 (kAccepted n) (seqRaise (s.w64 (kAccepted n)) (seqMax (mine.map (·.seq))))).setW64 (kCompleted n)
    (seqRaise (s.w64 (kCompleted n)) (seqMax done))

/-- Step 4 for ring n: `FOY_SQHEAD` takes the SQEND of its highest accepted command, or of the highest readable one. -/
def State.sqHeadBack (s : State) (es : List (Nat × JEntry)) (n : Nat) : State :=
  match seqMax (((es.map (·.2)).filter fun e => decide (e.ring = n) && decide (e.state ≠ .free)).map (·.seq)) with
  | none => s
  | some q =>
    match es.find? fun e => decide (e.2.ring = n) && decide (e.2.seq = q) with
    | none => s
    | some (_, x) =>
      let s := s.setReg (kSqHead n) x.sqend
      if x.seq = s.w64 (kAccepted n) then s
      else { s with foy := { s.foy with pass := Tbl.set (fun _ => none) s.foy.pass n (some (s.w64 (kAccepted n))) } }

/-- What the entry and the payload slot of an open command bring back: the command as it was accepted, or, where the entry is COMPLETE, its reply, which waits for its turn; none where they cannot be read (R84, R85, R87). -/
def State.reread (s : State) (es : List (Nat × JEntry)) (o : Open) : Option Open × State :=
  match es.find? fun e => decide (e.1 = o.idx) with
  | none => (none, s)
  | some (_, e) =>
    if e.state = .complete then
      (some { o with begun := true, wait := .none, fin := some e.reply, ftime := some e.ctime, replay := false, dups := [],
                     pkt := { o.pkt with tag := e.tag, irq := bit e.hdr 28 } }, s)
    else
      let q := s.jPacket e
      (q.1.map fun p => { o with pkt := p, op := opOf (BitVec.ofNat 16 (fld e.hdr 0 16)), feat := e.feat, fin := none, dups := [] }, q.2)

/-- The completion entry that a COMPLETE record gives (R60, R79). -/
def entryOf (e : Nat × JEntry) : CEntry := ⟨e.2.ring, e.2.seq, e.2.tag, e.2.reply, e.2.ctime, bit e.2.hdr 28, some e.1⟩

/-- Step 5 for ring n: the entries from `FOY_CQHEAD` to `FOY_CQTAIL` - 1 are written again from the records they were written from, and those that had been held are written, or held again; a reply that no record stands behind is lost with the Foyer's memory (DEDUCED, log 70). -/
def State.entriesBack (s : State) (es : List (Nat × JEntry)) (n : Nat) : State :=
  let recs := es.filter fun e => decide (e.2.ring = n) && decide (e.2.state = .complete)
  let head := s.reg (kCqHead n)
  let tail := s.reg (kCqTail n)
  let base := (dw (s.reg (kCqBase n)) (s.reg (kCqBase n + 4))).toNat
  let was (e : JEntry) : DWord :=
    let a := base + 32 * (e.cqidx.toNat % s.cqEntries n)
    BitVec.ofNat 64 (leNat ((List.range 8).map fun i => s.hostByte (a + i)) % 2 ^ 63)
  let old := recs.filter fun e => decide ((e.2.cqidx - head).toNat < (tail - head).toNat) && decide (was e.2 = e.2.seq) && !s.cqGone n
  let s := s.each old fun s e => s.cqStore (entryOf e) e.2.cqidx.toNat
  let held := (s.foy.held.filter fun e => decide (e.ring = n)).filterMap fun e => recs.find? fun r => e.idx = some r.1
  let s := { s with foy := { s.foy with held := (s.foy.held.filter fun (e : CEntry) => decide (e.ring ≠ n)) ++ held.map entryOf } }
  let s := s.each held.zipIdx fun s q =>
    if q.1.2.cqidx = tail + wd q.2 then s else s.jSet q.1.1 { q.1.2 with cqidx := tail + wd q.2 }
  s.releaseHeld n

/-- Step 6: every head that its record marks is restored from it; what cannot be read is not (DESIGN CHOICE, log 68). -/
def State.headsBack (s : State) : State :=
  s.each (List.range 32) fun s h =>
    let r := s.recRead h
    match r.1 with
    | some x =>
      let t := r.2.restoreHead h x
      if x.enabled then t.setRsv h (max (headDemand (t.cmSet h)) (headDemand (t.shSet h)))
      else if x.starting then t.setRsv h (headDemand (t.shSet h))
      else t
    | none => r.2

/-- Every open command with what brings it back. -/
def State.rereadAll (s : State) (es : List (Nat × JEntry)) : List (Open × Option Open) × State :=
  s.foy.opens.foldl (fun (a : List (Open × Option Open) × State) (o : Open) =>
    let q := a.2.reread es o
    (a.1 ++ [(o, q.1)], q.2)) ([], s)

/-- The recovery of a warm reset (R87). -/
def State.recoverWarm (s : State) : State :=
  if !s.regB kJStat 31 then s
  else
    let r := (s.setReg kJLost 0).jScan
    let es := r.1
    let t := r.2.rereadAll es
    let s := t.2
    let s := s.each (List.range 18) fun s n => s.seqBack es n
    let s := s.each (List.range 18) fun s n => s.sqHeadBack es n
    let s := { s with foy := { s.foy with opens := t.1.map fun (q : Open × Option Open) => q.2.getD { q.1 with dups := [] }, round := 0 } }
    let s := s.each (t.1.filter fun (q : Open × Option Open) => q.2.isNone) fun s (q : Open × Option Open) =>
      s.lostOpen q.1 ((es.find? fun (e : Nat × JEntry) => decide (e.1 = q.1.idx)).map (·.2))
    let s := s.each (List.range 18) fun s n => s.entriesBack es n
    let s := s.headsBack
    let accs := (s.foy.opens.filter fun (o : Open) => o.fin.isNone).map (·.acc)
    let s := s.replayThese accs
    let s := s.recoveryNote 1 0 (s.countAgain accs)
    -- the mirror stops with its feature
    let s := s.setReg kJStat ((s.reg kJStat &&& 0xBFF8FFFF) ||| wd (s.regF kJStat 20 3 * 65536))
    s.setB (kReg 63 + 0x10) 30 false

/-! ## Warm reset (R56, R75, R87, R88, R213, R234, R264, R284, R303, R316, R443, R454, R466, R482, R511) -/

/-- Registers that keep their content over a warm reset (DEDUCED, log 72). -/
def keepReg (k : Nat) : Bool :=
  let o := k % 0x10000
  let u := k / 0x10000
  if 0x1000000 ≤ k then decide (k < kDB 18)
  else if 0x10 ≤ u then
    mantelReg o && decide (o ≠ 0xB0C) && decide (o ≠ 0xB14)
  else match u with
    | 0x01 => true
    | 0x03 => decide (0x600 ≤ o)
    | 0x04 => !(decide (0x100 ≤ o) && decide (o < 0x10C))
    | 0x05 => !(decide (0x100 ≤ o) && decide (o < 0x108))
    | 0x06 => decide (o = 0) || decide (o = 4)
    | 0x0C => (decide (0x400 ≤ o) && decide (o < 0x800)) || decide (0xD00 ≤ o)
        || (decide (0x100 ≤ o) && decide (o < 0x400) && (decide (o % 0x40 = 0x0C) || decide (o % 0x40 = 0x10)))
    | 0x0D => decide (o = 0x24) || decide (o = 0x28)
    | 0x0E => decide (o < 0x800) && (decide (o % 0x40 = 0) || decide (o % 0x40 = 8))
    | _ => false

/-- Live 64-bit values that are kept. -/
def keepWide (k : Nat) : Bool :=
  decide (k = kTMB) || keepReg k

/-- What a warm reset leaves of a head before its record restores it: the Mantel (R234). -/
def State.warmHead (s : State) (h : Nat) : Head :=
  let v := s.head h
  { headInit with mt := { mtInit with store := v.mt.store, codes := v.mt.codes, block := v.mt.block } }

/-- A Parlour core over a warm reset: stopped, with its program. -/
def Core.warm (c : Core) : Core :=
  { coreInit with prog := c.prog, pcode := c.pcode, data := c.data, dcode := c.dcode, grant := c.grant, pwords := c.pwords, aux := c.aux }

/-- What a warm reset keeps as it stands (R88, R510). -/
def State.warmBase (s : State) : State :=
  let r := State.reset
  { r with
    phase := .boot
    regs := s.regs.filter fun e => keepReg e.1
    wide := s.wide.filter fun e => keepWide e.1
    mem := s.mem, codes := s.codes, host := s.host, foy := s.foy, err := s.err
    bell := { r.bell with sent := s.bell.sent }
    chm := { chmInit with ce := s.chm.ce, ue := s.chm.ue }
    att := { atticInit with fuses := s.att.fuses, logBase := s.att.logBase, logN := s.att.logN, log := s.att.log, store := s.att.store }
    tap := s.tap, free := s.free, pending := s.pending }

/-- What stands after a warm reset before the boot chain runs. -/
def State.warmKeep (s : State) : State :=
  let t := s.warmBase
  let t := t.each (s.heads.map (·.1)) fun t h => t.setHead h (s.warmHead h)
  let t := t.each nioParlour fun t n => (t.setCore n (s.core n).warm).setB (kCstat n) 29 (s.regB (kCstat n) 29)
  let t := t.each (List.range 6) fun t b => t.setReg (kBank b) (s.reg (kBank b) &&& 0x60000000)
  let t := t.each (List.range 32) fun t p => t.setB (kRoute p) 22 false
  let t := (t.setB kCHM 28 (s.regB kCHM 28)).setReg (kTMB + 8) (0x20000000 ||| (s.reg (kTMB + 8) &&& 0x80000000))
  let t := { t with chm := { t.chm with calm := s.chans.foldl (fun l c => Tbl.set (fun _ => 0) l c s.now) ([] : Tbl DWord) } }
  -- LOADING ends with the load, which is replayed
  let t := t.each ((List.range 256).filter t.panLoading) fun t r => t.setB (kPR r + 8) 27 false
  (t.setB 4 3 true).selfRefresh

/-- A warm reset (DEDUCED, log 74); one that ends S2 writes the records that waited (R523). -/
def State.warmReset (s : State) (b : BootIn) : State :=
  let t := (s.errDrain.warmKeep.bootChain b true).audShow
  if !t.booted then t
  else
    let t := t.refreshAll
    let t := t.each ((List.range 32).filter t.mantelEn) State.mantelReadmit
    t.recoverWarm

/-- Row WARM_RESET: during a trip it is held until the release (R518). -/
def State.warmAssert (s : State) (b : BootIn) : State :=
  match s.phase with
  | .off => s
  | .trip => { s with chm := { s.chm with resetHeld := true } }
  | _ => s.warmReset b

/-! ## The junction trip (R518) -/

/-- Tj has reached 110 °C. -/
def State.trip (s : State) (temps : List (BitVec 16)) : State :=
  if !s.answers || decide (temp16 (tjOf (temps.take 12)) < 110 * 16) then s
  else
    let n := s.regF (kCHM + 0x600) 0 16
    let s := (s.setReg (kCHM + 0x600) (wd (2 ^ 31 + min 65535 (n + 1)))).setW64 (kCHM + 0x604) s.now
    { s.selfRefresh with phase := .trip }

/-- The release by a warm reset, once Tj is below 95 °C: records that were queued are lost and counted, and the trip is recorded (R518, R523). -/
def State.tripRelease (s : State) (b : BootIn) : State :=
  if s.phase ≠ .trip || !s.chm.resetHeld then s
  else
    let n := s.err.intake.length
    let s := { s with err := { s.err with intake := [], lost := s.err.lost || decide (n ≠ 0) } }.setReg kErrDrop (s.reg kErrDrop + wd n)
    let s := ({ s with phase := .boot }.warmReset b).setB kCHM 30 true
    let t := s.w64 (kCHM + 0x604)
    s.errRec sevFatal 0x03 0x0061 (s.regF (kCHM + 0x600) 0 16) .ok (lo32 t) (hi32 t)

/-! ## Function Level Reset (R56, R90, R443, R511) -/

/-- FLR of PF0 (0) or PF1 (1). -/
def State.flr (s : State) (fn : Nat) : State :=
  if !s.answers then s
  else
    let s := s.belFlr fn
    let mine := (List.range 18).filter fun n => ringPf1 n == decide (fn = 1)
    let s := { s with foy := { s.foy with held := s.foy.held.filter (fun e => !mine.contains e.ring)
                                          gone := s.foy.gone.filter (fun n => !mine.contains n) ++ mine } }
    let s := s.each mine fun s n =>
      let s := [0x10, 0x14, 0x18, 0x1C, 0x20].foldl (fun s o => s.setReg (kDB n + o) 0) s
      s.setReg (kRingStat n) (s.reg (kRingStat n) &&& 0x3FFFFFFF)
    if fn = 0 then { s with chm := { s.chm with ring := none } } else s

/-! ## UNIT_RESET (R66, R86, R512, R513) -/

/-- The units that accept `UNIT_RESET`. -/
def resettable (u : Nat) : Bool := [0x02, 0x07, 0x08, 0x09, 0x0A, 0x0B, 0x0E].contains u || (decide (0x10 ≤ u) && decide (u < 0x30))

/-- The checks of `UNIT_RESET`: the reply of the first that fails. -/
def unitResetFault (o : Open) (s : State) : Option Reply :=
  let u := fld (pw o.pkt 0) 0 8
  let a := s.absentUnit u
  firstFail [
      (s.expert u, rep .unitExpert u), (a.isSome, repBad (0x20 + a.getD 0)), (outside o.pkt 0 0xFF || !resettable u, repBadP 0)]

/-- `UNIT_RESET`: its checks; the reset itself is its commit point. -/
def beginUnitReset (o : Open) (s : State) : Started × State :=
  match unitResetFault o s with
  | some r => (.done r, s)
  | none => (.done repOk, s)

/-- `UNIT_RESET` of head h (R513) (DEDUCED, log 79). -/
def State.headReset (s : State) (h : Nat) : State :=
  let s := (s.each (s.swapGroup h) State.followLeader).stopHead h
  let s := rwsOffs.foldl (fun s o => (s.setHd h o (regReset (kHD h + o))).setCm h o (regReset (kHD h + o))) s
  let s := rwbOffs.foldl (fun s o => s.setReg (kHD h + 0x1000 + o) (regReset (kHD h + 0x1000 + o))) s
  let s := (s.setB (kHD h + 0x40) 0 false).setReg (kHD h + 0x44) (s.reg (kHD h + 0x44) &&& 0x3FFFFFFF)
  let s := s.updHead h fun v => { v with palS := [], palC := [], palA := [], lutS := [], lutC := [],
                                         bs := { bsInit with stamps := v.bs.stamps }, wb := wbInit }
  -- a disabled head has no swap that an EXPERT_ENTER could wait for (R46)
  (s.expertSwapped h).recHead h

/-- The unit's own reset. -/
def State.resetUnit (s : State) (u : Nat) : State :=
  if 0x10 ≤ u then s.headReset (u - 0x10)
  else match u with
    | 0x02 => s.belReset | 0x07 => s.tmbReset | 0x08 => s.psqReset | 0x09 => s.dwReset | 0x0A => s.rectReset
    | 0x0B => s.musReset | 0x0E => s.dplReset | _ => s

/-- The commit point of `UNIT_RESET`: the unit resets, and the begun commands aimed at it are executed again, but for one that the reset itself has ended; a rect command that only waited for its engine waits again (R86, R336, R339) (DEDUCED, log 78). -/
def State.unitReset (s : State) (o : Open) : State :=
  let u := fld (pw o.pkt 0) 0 8
  let mine := s.foy.opens.filter fun x => x.begun && decide (x.acc ≠ o.acc) && s.aimed x u
  let begun := mine.filter fun x => !s.rectQueued x.acc
  let queued := (mine.filter fun x => s.rectQueued x.acc).map (·.acc)
  let s' := (s.resetUnit u).each queued fun s a => s.updOpen a fun x => { x with begun := false, wait := .none }
  let ended (x : Open) : Bool := x.fin.isNone && s'.foy.opens.any fun y => decide (y.acc = x.acc) && y.fin.isSome
  let accs := (begun.filter fun x => !ended x).map (·.acc)
  let s := s'.replayThese accs
  s.recoveryNote 6 u (s.countAgain accs)

/-! ## Restart of a firmware core (R86, R400) -/

/-- The commands that core n serves. -/
def served (n : Nat) (op : Op) : Bool :=
  match n, op with
  | 1, .mantelSet | 1, .attestQuote | 1, .bootlogRead | 1, .receiptConfig | 1, .receiptRead => true
  | 2, .powerState | 2, .telemetryConfig | 2, .clockPolicy => true
  | 3, .voiceStart | 3, .voiceStop | 3, .voiceParam | 3, .mixGraphLoad | 3, .mixParamSet | 3, .mixCommit | 3, .audioPortSet => true
  | _, _ => false

/-- A begun command that the Foyer carries out itself. -/
def Open.foyerOwn (o : Open) : Bool := o.fin.isNone && match o.wait with | .memOp | .fence _ | .expert _ _ _ => true | _ => false

/-- The Attic restarts core n from its admitted image, and its recovery follows: of N0's work, what no unit has been given, with the Foyer's own; of another core's, all that is open (R86) (DEDUCED, log 91). -/
def State.coreRestart (s : State) (n : Nat) : State :=
  if !s.answers || !s.att.down.contains n then s
  else
    let s := { s with att := { s.att with down := s.att.down.filter (· ≠ n) } }
    let s := (s.fwLoad n (Tbl.get (fun _ => []) s.att.fw n)).setB (kCstat n) 29 true
    let accs := (s.foy.opens.filter fun o => if n = 0 then !o.begun || o.foyerOwn else served n o.op).map (·.acc)
    let s := if n = 0 then { s with foy := { s.foy with round := 0 } } else s
    let s := if n = 3 then s.musReset else s
    let s := if n = 1 then s.each (List.range 32) fun s h =>
        match (s.head h).mt.pend with
        | some q => if accs.contains q.acc then (s.updMt h fun m => { m with pend := none }).setB (kMstat h) 28 false else s
        | none => s
      else s
    let s := s.replayThese accs
    let s := if n = 1 then s.each (List.range 32) State.receiptsTake else s
    s.recoveryNote (2 + n) 0x0C (s.countAgain accs)

end Sys2Proof.Machine
end

