-- ==== Sys2Proof/Machine/Vaile.lean ====
section
/-! DEFINITION. The Foyer at work: fetching a packet, accepting it, beginning what is accepted, and completing it in the order of its ring (R58, R59, R63, R67 to R71, R76, R80, R90). -/

namespace Sys2Proof.Machine

/-! ## Beginning a command -/

/-- What a command does when it begins, by its opcode (DEDUCED, log 13). -/
def beginOp (o : Open) (s : State) : Started × State :=
  match o.op with
  | .nop => (.done repOk, s)
  | .fence => beginFence o s
  | .featuresGet => beginFeaturesGet o s
  | .featuresSet => (.done repOk, s)
  | .expertEnter => beginExpertEnter o s
  | .expertLeave => beginExpertLeave o s
  | .memRegionSet => beginMemRegionSet o s
  | .memCopy => beginMemOp o s
  | .memFill => beginMemOp o s
  | .assetLoad => match o.wait with | .region _ => resumeAssetLoad o s | _ => beginAssetLoad o s
  | .assetUnseal => beginAssetUnseal o s
  | .errlogRead => beginErrlogRead o s
  | .headTiming => beginHeadTiming o s
  | .headEnable => beginHeadEnable o s
  | .headDisable => beginHeadDisable o s
  | .headCommit => beginHeadCommit o s
  | .planeSet => beginPlaneSet o s
  | .spriteTable => beginSpriteTable o s
  | .beamListSet => beginBeamListSet o s
  | .composeSet => beginComposeSet o s
  | .lutLoad => beginLutLoad o s
  | .canvasSet => beginCanvasSet o s
  | .routeSet => beginRouteSet o s
  | .crcRectSet => beginCrcRectSet o s
  | .writebackSet => beginWritebackSet o s
  | .mantelSet => beginMantelSet o s
  | .rectFill => beginRectFill o s
  | .rectCopy => beginRectCopy o s
  | .rectConvert => beginRectConvert o s
  | .dmaChainStart => beginDmaChainStart o s
  | .dmaStop => beginDmaStop o s
  | .voiceStart => beginVoiceStart o s
  | .voiceStop => beginVoiceStop o s
  | .voiceParam => beginVoiceParam o s
  | .mixGraphLoad => beginMixGraphLoad o s
  | .mixParamSet => beginMixParamSet o s
  | .mixCommit => beginMixCommit o s
  | .audioPortSet => beginAudioPortSet o s
  | .timerCompareArm => beginTimerCompareArm o s
  | .timerCaptureSet => beginTimerCaptureSet o s
  | .pinseqLoad => beginPinseqLoad o s
  | .pinseqStart => beginPinseqStart o s
  | .pinseqStop => beginPinseqStop o s
  | .nioftLoad => beginNioftLoad o s
  | .nioftStart => beginNioftStart o s
  | .nioftStop => beginNioftStop o s
  | .attestQuote => beginAttestQuote o s
  | .bootlogRead => beginBootlogRead o s
  | .receiptConfig => beginReceiptConfig o s
  | .receiptRead => beginReceiptRead o s
  | .unitReset => beginUnitReset o s
  | .powerState => beginPowerState o s
  | .telemetryConfig => beginTelemetryConfig o s
  | .clockPolicy => beginClockPolicy o s
  | .unknown _ => (.done (rep .badOpcode 0), s)

/-- A command begins: for one that is executed again a length outside its ring, its header faults and the feature its opcode needs come first (R59 step 5, R70, R75). -/
def beginCmd (o : Open) (s : State) : Started × State :=
  if o.replay && (decide (o.pkt.len.toNat < 4) || decide (s.sqWords o.pkt.ring.val < o.pkt.len.toNat)) then (.done (rep .badLength o.pkt.len.toNat), s)
  else match decodeFault o.op o.pkt with
  | some r => (.done r, s)
  | none =>
    match (opInfo o.op).feature with
    | some k => if o.hasFeat k then beginOp o s else (.done (rep .featureOff k), s)
    | none => beginOp o s

/-- The Foyer's firmware runs: READY, core N0 not trapped, and not in S2 (R86, R400, R503). -/
def State.foyerUp (s : State) : Bool :=
  decide (s.phase = .run) && s.ready && decide (s.pstate ≠ 2) && !s.att.down.contains 0

/-- A wait is for a swap or boundary of head h (R68). -/
def Wait.frameOf (w : Wait) (h : Nat) : Bool :=
  match w with
  | .swap left _ _ _ => bit left h
  | .start k => decide (k = h)
  | .bnd k => decide (k = h)
  | .mantel k => decide (k = h)
  | .expert u swapped _ => decide (u = uHead h) && !swapped
  | _ => false

/-- An open command may begin: the commands before it on its ring have begun, no FENCE there is open, its own FENCE_BEFORE is met, and a staging command does not overtake a frame-bound command of its head (R67, R68); the core that serves it is up. -/
def State.mayBegin (s : State) (o : Open) : Bool :=
  let before := s.foy.opens.filter fun x => decide (x.pkt.ring = o.pkt.ring) && decide (x.acc < o.acc)
  !o.begun && o.fin.isNone && before.all (·.begun) && !(before.any fun x => decide (x.op = .fence))
    && (!o.pkt.fence || before.isEmpty)
    && (!opStaging o.op || !((s.aimedHeads o).any fun h => before.any fun x => x.wait.frameOf h))
    && !(s.att.down.any fun n => served n o.op)

/-- The open command with an acceptance number. -/
def State.openAt (s : State) (acc : Nat) : Option Open := s.foy.opens.find? fun o => decide (o.acc = acc)

/-- Begin one command if it may; the answer says whether something has moved. -/
def State.beginOne (s : State) (acc : Nat) : Bool × State :=
  match s.openAt acc with
  | none => (false, s)
  | some o =>
    if !s.mayBegin o then (false, s)
    else
      let r := beginCmd o s
      match r.1 with
      | .done x => (true, r.2.updOpen acc fun o => { o with begun := true, wait := .none, fin := some x })
      | .wait w => (true, r.2.updOpen acc fun o => { o with begun := true, wait := w })
      | .later => (false, s)
      | .hold w => if o.wait = w then (false, s) else (true, r.2.updOpen acc fun o => { o with wait := w })

/-- A fence or an `EXPERT_ENTER` whose condition holds is finished. -/
def State.settleOne (s : State) (acc : Nat) : Bool × State :=
  match s.openAt acc with
  | none => (false, s)
  | some o =>
    if !o.begun || o.fin.isSome then (false, s)
    else match o.wait with
      | .fence m => if s.fenceMet o m then (true, s.finishAcc acc repOk) else (false, s)
      | .expert _ swapped begun => if s.expertMet swapped begun then (true, s.finishAcc acc repOk) else (false, s)
      | _ => (false, s)

/-! ## Completing a command -/

/-- What happens in the commit point itself, with the reply that it gives; a staging commit point updates the head state records (R81). -/
def State.atCommit (s : State) (o : Open) (r : Reply) : Reply × State :=
  if r.status ≠ .ok then (r, s)
  else if opStaging o.op then (r, s.each (s.aimedHeads o) State.recHead)
  else match o.op with
    | .featuresSet => s.featuresSet o
    | .expertEnter => (r, s.expertCommit o true)
    | .expertLeave => s.expertLeave o r
    | .errlogRead => (r, s.errMark o r)
    | .unitReset => (r, s.unitReset o)
    | .powerState => (r, s.powerCommit o)
    | _ => (r, s)

/-- The oldest open command of ring n is completed if its work is finished (R67). -/
def State.completeOne (s : State) (n : Nat) : Bool × State :=
  match s.foy.opens.find? fun o => decide (o.pkt.ring.val = n) with
  | some o =>
    (match o.begun, o.fin with
     | true, some r =>
       let q := s.atCommit o r
       (true, q.2.complete o q.1)
     | _, _ => (false, s))
  | none => (false, s)

/-! ## The pump -/

/-- Apply a step to each element, and note whether one of them moved something. -/
def eachMoved (f : State → Nat → Bool × State) (l : List Nat) (s : State) : Bool × State :=
  l.foldl (fun (a : Bool × State) n => let r := f a.2 n; (a.1 || r.1, r.2)) (false, s)

/-- One round over every open command and every ring. -/
def State.pumpRound (s : State) : Bool × State :=
  let a := eachMoved State.beginOne (s.foy.opens.map (·.acc)) s
  let b := eachMoved State.settleOne (a.2.foy.opens.map (·.acc)) a.2
  let c := eachMoved State.completeOne (List.range 18) b.2
  (a.1 || b.1 || c.1, c.2)

/-- Rounds until nothing moves. -/
def pumpRounds : Nat → State → State
  | 0, s => s
  | n + 1, s =>
    let r := s.pumpRound
    if r.1 then pumpRounds n r.2 else r.2

/-- The Foyer carries on with the accepted work as far as it goes: every round moves some command on, and a command moves at most four times before a reset of its unit sets it back (DEDUCED, log 76). -/
def State.carryOn (s : State) : State :=
  if s.foy.opens.isEmpty then s
  else
    let s := pumpRounds (8 * s.foy.opens.length + 8) s
    s.setB kJStat 28 (s.foy.opens.any (·.replay))

/-- The accepted work goes on while the Foyer's firmware runs (DESIGN CHOICE, log 10). -/
def State.pump (s : State) : State := if s.foyerUp then s.carryOn else s

/-! ## Fetching a packet (R54, R55, R58, R59, R90) -/

/-- The Foyer can take a packet from ring n now (DEDUCED, log 83). -/
def State.mayFetch (s : State) (n : Nat) : Bool :=
  s.foyerUp && !s.chm.toS2 && s.ringActive n && !s.regB (kRingStat n) 30 && decide (s.openCount < 4096) && decide (4 ≤ s.sqAvail n)

/-- The ring at a place of the fixed round SR16, SR17, SR0 to SR15, and its place (R58). -/
def roundRing (i : Nat) : Nat := if i % 18 < 2 then 16 + i % 18 else i % 18 - 2
def roundPlace (n : Nat) : Nat := if 16 ≤ n then n - 16 else n + 2

/-- The ring that the round visits next with a packet to take (R58) (DEDUCED, log 118). -/
def State.nextRing (s : State) : Option Nat := ((List.range 18).map fun i => roundRing (s.foy.round + i)).find? s.mayFetch

/-- The round has visited ring n (R58). -/
def State.turn (s : State) (n : Nat) : State := { s with foy := { s.foy with round := (roundPlace n + 1) % 18 } }

/-- The packet with as many parameter words as LEN gives it. -/
def fitPacket (p : Packet) : Packet :=
  let n := p.len.toNat - 4
  { p with p := p.p.take n ++ List.replicate (n - p.p.length) 0 }

/-- `FOY_SQHEAD` moves on. -/
def State.sqAdvance (s : State) (n k : Nat) : State := s.setReg (kSqHead n) (s.reg (kSqHead n) + wd k)

/-- The reply to a packet that is not accepted. -/
def State.replyNow (s : State) (p : Packet) (r : Reply) : State := s.putEntry ⟨p.ring.val, p.seq, p.tag, r, s.now32, p.irq, none⟩

/-- The reply to a resubmission (R90). -/
def State.duplicate (s : State) (p : Packet) : State :=
  let n := p.ring.val
  match s.foy.opens.find? fun o => decide (o.pkt.ring = p.ring) && decide (o.pkt.seq = p.seq) with
  | some o => s.updOpen o.acc fun o => { o with dups := o.dups ++ [(p.tag, p.irq)] }
  | none =>
      let gone (s : State) : State := s.putEntry (dupEntry n p.seq p.tag p.irq 0xFFFF (rep .ok 0) 0)
      match s.foy.journal.find? fun e => match e.2 with | some x => decide (x.ring = n) && decide (x.seq = p.seq) | none => false with
      | some (i, some _) =>
        let r := s.jEntry true i
        match r.1 with
        | some x => r.2.putEntry (dupEntry n p.seq p.tag p.irq (statusCode x.reply.status) x.reply x.ctime)
        | none => gone r.2
      | _ => gone s

/-- A packet is journaled: its words go to a free payload slot, its entry becomes ACCEPTED, and the registers of its ring count it (R59 step 4, R80). -/
def State.journaled (s : State) (op : Op) (p : Packet) : State :=
  let n := p.ring.val
  let idx := s.regF kJNext 0 16
  let slot := s.freeSlot
  let e : JEntry := { state := .accepted, hdr := hdrWord op p, seq := p.seq, tag := p.tag, ring := n, slot := slot, replayed := false, mirror := false,
                      sqend := s.reg (kSqHead n), cqidx := 0, reply := rep .ok 0, ctime := 0, atime := s.now32, feat := s.reg 0x160,
                      epoch := s.regF kJStat 0 16 }
  let s := (s.jWrite idx (slotOff slot) (wsBytes (packetWords op p))).jSet idx e
  let s := s.setReg kJNext (wd ((idx + 1) % 65536))
  let s := s.setW64 (kAccepted n) p.seq
  (s.setReg (kSqSeq n) (lo32 (p.seq + 1))).setReg (kSqSeq n + 4) (hi32 (p.seq + 1))

/-- The record of a command that is accepted in a state. -/
def State.newOpen (s : State) (op : Op) (p : Packet) (fin : Option Reply) : Open :=
  { acc := s.foy.accCount, idx := s.regF kJNext 0 16, pkt := p, op := op, feat := s.reg 0x160, replay := false, begun := fin.isSome,
    wait := .none, fin := fin, ftime := none, dups := [] }

/-- An open command is added, and counts among the acceptances (R80). -/
def State.addOpen (s : State) (o : Open) : State :=
  ({ s with foy := { s.foy with accCount := s.foy.accCount + 1 } }).setOpens (s.foy.opens ++ [o])

/-- Acceptance: the packet is journaled, and the command is open (R59 step 4, R80). -/
def State.accept (s : State) (op : Op) (p : Packet) (fin : Option Reply) : State :=
  (s.journaled op p).addOpen (s.newOpen op p fin)

/-- The next packet of a ring is fetched: passed over after a recovery, refused, answered as a resubmission, or accepted (R59, R87 step 4) (DEDUCED, log 19). -/
def State.intake (s : State) (op : Op) (p : Packet) : State :=
  let n := p.ring.val
  let len := p.len.toNat
  let skip := max 4 (min len (s.sqAvail n))
  let e := s.w64 (kAccepted n) + 1
  let passed := match Tbl.get (fun _ => none) s.foy.pass n with | some q => decide (p.seq.toNat ≤ q.toNat) | none => false
  if passed then s.sqAdvance n skip
  else
    let s := { s with foy := { s.foy with pass := Tbl.set (fun _ => none) s.foy.pass n none } }
    if 2 ^ 63 ≤ p.seq.toNat then (s.sqAdvance n skip).replyNow p (repBad 0x1003)
    else if e.toNat < p.seq.toNat then (s.sqAdvance n skip).replyNow p (repBad 0x1000)
    else if p.seq.toNat < e.toNat then (s.sqAdvance n skip).duplicate p
    else if len < 4 ∨ s.sqWords n < len then (s.sqAdvance n 4).accept op { p with p := [] } (some (rep .badLength len))
    else if s.sqAvail n < len then s
    else (s.sqAdvance n len).accept op (fitPacket p) none

/-- A packet row: the Foyer fetches the packet if the round has come to its ring, and the work goes on (R58) (DESIGN CHOICE, log 11). -/
def State.packet (s : State) (op : Op) (p : Packet) : Out :=
  .next (if s.nextRing = some p.ring.val then ((s.turn p.ring.val).intake op p).carryOn else s)

end Sys2Proof.Machine
end

