-- ==== Sys2Proof/Machine/Gates.lean ====
section
/-! DEFINITION. When an event of the device can happen and what follows it, and the tick of the time base. -/

namespace Sys2Proof.Machine

/-- The fast clocks run: the device is powered, not tripped and not in S2 (R503, R518) (DEDUCED, log 7). -/
def State.live (s : State) : Bool := s.answers && decide (s.pstate ≠ 2)

/-- The units that S1 stops run too: READY, in S0 (R40, R503). -/
def State.full (s : State) : Bool := decide (s.phase = .run) && decide (s.pstate = 0)

/-- The Chimney works: its core N2 is up and its clocks run (R400, R503). -/
def State.chimneyUp (s : State) : Bool := s.live && s.booted && !s.att.down.contains 2

/-- An event that touches no accepted work, while a condition holds (DESIGN CHOICE, log 47). -/
def State.quietly (s : State) (ok : Bool) (f : State → State) : Out := .next (if ok then f s else s)

/-- A tick of the time base with no command waiting (R445, R446): 1 ns in S0 and S1, a period of the always-on clock in S2; the BAR2 writes on their way have arrived by then (R43). (DESIGN CHOICE, log 1) (DESIGN CHOICE, log 8). -/
def State.idle (s : State) : State :=
  if !s.answers then s.pwrTick 1
  else if s.pstate = 2 then
    let k := s.chm.aon % 64
    let d := (k + 1) * 1953125 / 64 - k * 1953125 / 64
    ({ s with chm := { s.chm with aon := (k + 1) % 64 } }.setW64 kTMB (s.now + BitVec.ofNat 64 d)).pwrTick d
  else (s.bar2Flush.setW64 kTMB (s.bar2Flush.now + 1)).pwrTick 1

/-- An event after which the accepted work goes on. -/
def State.working (s : State) (ok : Bool) (f : State → State) : Out := .next (if ok then (f s).pump else s)

end Sys2Proof.Machine
end

