-- ==== Sys2Proof/Machine/Jtag.lean ====
section
/-! DEFINITION. The JTAG port (R549, R550): the controller of IEEE 1149.1 and its registers.  No row of the table brings a clock of TCK, so no command reaches these operations (DESIGN CHOICE, log 121). -/

namespace Sys2Proof.Machine

/-- The state that follows a state under TMS. -/
def TapState.next (tms : Bool) : TapState → TapState
  | .reset => if tms then .reset else .idle
  | .idle => if tms then .selectDr else .idle
  | .selectDr => if tms then .selectIr else .captureDr
  | .captureDr => if tms then .exit1Dr else .shiftDr
  | .shiftDr => if tms then .exit1Dr else .shiftDr
  | .exit1Dr => if tms then .updateDr else .pauseDr
  | .pauseDr => if tms then .exit2Dr else .pauseDr
  | .exit2Dr => if tms then .updateDr else .shiftDr
  | .updateDr => if tms then .selectDr else .idle
  | .selectIr => if tms then .reset else .captureIr
  | .captureIr => if tms then .exit1Ir else .shiftIr
  | .shiftIr => if tms then .exit1Ir else .shiftIr
  | .exit1Ir => if tms then .updateIr else .pauseIr
  | .pauseIr => if tms then .exit2Ir else .pauseIr
  | .exit2Ir => if tms then .updateIr else .shiftIr
  | .updateIr => if tms then .selectDr else .idle

/-- IDCODE: version 1, part 0x3280, manufacturer field 0x64D (R550). -/
def jtagIdcode : Word := 0x13280C9B

/-- Cells of the boundary-scan register, one for every single-ended signal ball: 816 of the DDR5 channels, 32 HPD, 96 general pins, PERST_N and WAKE_N, and 56 of the dedicated block (R536 to R541, R550) (DEDUCED, log 121). -/
def boundaryCells : Nat := 816 + 32 + 96 + 2 + 56

/-- The instruction that acts: EXTEST and SAMPLE/PRELOAD act as BYPASS unless `JTAG_OPEN` is 1 (R550). -/
def State.tapActs (s : State) : TapInstr :=
  match s.tap.instr with
  | .extest => if s.regB 4 8 then .extest else .bypass
  | .sample => if s.regB 4 8 then .sample else .bypass
  | i => i

/-- What the data register of the acting instruction captures. -/
def State.tapCapture (s : State) : List Bool :=
  match s.tapActs with
  | .bypass => [false]
  | .idcode => (List.range 32).map (bit jtagIdcode)
  | _ => (List.range boundaryCells).map (Config.boundaryCell s.free)

/-- The instruction that a code names; all ones is BYPASS (IEEE 1149.1) (PRESUMED, log 121). -/
def tapDecode (code : List Bool) : TapInstr :=
  if code.all id then .bypass
  else match (Config.tapCode code).val with | 1 => .idcode | 2 => .extest | 3 => .sample | _ => .bypass

/-- A register shifted by one bit, TDI entering last. -/
def tapShift (l : List Bool) (tdi : Bool) : List Bool := (l ++ [tdi]).drop 1

/-- Change the port. -/
def State.updTap (s : State) (f : Tap → Tap) : State := { s with tap := f s.tap }

/-- What the present state of the controller does at a rising edge of TCK. -/
def State.tapAct (s : State) (tdi : Bool) : State :=
  match s.tap.st with
  | .captureDr => { s.updTap fun t => { t with dr := s.tapCapture } with free := s.free + 1 }
  | .shiftDr => s.updTap fun t => { t with dr := tapShift t.dr tdi }
  | .captureIr => s.updTap fun t => { t with ir := true :: List.replicate Config.tapIrRest false }
  | .shiftIr => s.updTap fun t => { t with ir := tapShift t.ir tdi }
  | _ => s

/-- A period of TCK with its levels of TMS and TDI: the rising edge acts and moves the controller, and the falling edge updates what the new state updates. -/
def State.tck (s : State) (tms tdi : Bool) : State :=
  let s := (s.tapAct tdi).updTap fun t => { t with st := t.st.next tms }
  match s.tap.st with
  | .reset => s.updTap fun t => { t with instr := .idcode }
  | .updateIr => s.updTap fun t => { t with instr := tapDecode t.ir }
  | .updateDr =>
    (match s.tapActs with
     | .extest => s.updTap fun t => { t with bound := t.dr }
     | .sample => s.updTap fun t => { t with bound := t.dr }
     | _ => s)
  | _ => s

/-- `TRST_N` is low: the controller is in its reset state, with IDCODE in force. -/
def State.trst (s : State) : State := s.updTap fun _ => tapInit

/-- The level of TDO while a register is shifted; high-impedance otherwise. -/
def State.tdo (s : State) : Option Bool :=
  match s.tap.st with
  | .shiftDr => s.tap.dr.head?
  | .shiftIr => s.tap.ir.head?
  | _ => none

/-- The levels that EXTEST drives onto the balls of the boundary-scan register; none while it does not act. -/
def State.extestDrives (s : State) : Option (List Bool) :=
  match s.tapActs with | .extest => some s.tap.bound | _ => none

end Sys2Proof.Machine
end

