-- ==== Sys2Proof/Machine/BoardRows.lean ====
section
/-! DEFINITION. The events of the board and the always-on domain: start-up and resets, the Chimney, receipts and the audit port. -/

namespace Sys2Proof.Machine

/-- The always-on domain is powered. -/
def State.powered (s : State) : Bool := decide (s.phase ≠ .off)

/-! ## Start-up and resets (R40, R56, R87, R283, R474, R475, R499, R501, R518) -/

/-- Row COLD_BOOT (R474, R548). -/
def execColdBoot (b : BootIn) (s : State) : Out := .next (s.coldBoot b)

/-- Row CELLAR_TRAINING_DONE (R283): slot c holds the cth of the list. -/
def execCellarTrainingDone (d : List (Option Dimm)) (s : State) : Out := .next (s.trained d)

/-- Row READY_SET (R40). -/
def execReadySet (s : State) : Out := .next s.readySet.pump

/-- Row BOOT_LOG_APPEND (R475). -/
def execBootLogAppend (progFails blkFails : Nat) (s : State) : Out := s.quietly s.studyUp fun s => s.bootLogAppend progFails blkFails

/-- Row WARM_RESET (R87). -/
def execWarmReset (b : BootIn) (s : State) : Out := .next (s.warmAssert b)

/-- Row FUNCTION_LEVEL_RESET (R56). -/
def execFunctionLevelReset (fn : Fin 2) (s : State) : Out := .next (s.flr fn.val).pump

/-- Row JUNCTION_TRIP (R518). -/
def execJunctionTrip (temps : List (BitVec 16)) (s : State) : Out := .next (s.trip temps)

/-- Row TRIP_RELEASE (R518). -/
def execTripRelease (b : BootIn) (s : State) : Out := .next (s.tripRelease b)

/-- Row PWR_OK_FALL (R499, R548). -/
def execPwrOkFall (s : State) : Out := .next s.pwrFall

/-- Row XTAL_SWITCH (R501). -/
def execXtalSwitch (s : State) : Out := s.quietly s.powered fun s => s.xtal

/-! ## The Chimney (R285, R503, R507, R508, R514 to R519) -/

/-- Row THERMAL_WARNING (R514): sensors 0 to 11 are read. -/
def execThermalWarning (temps : List (BitVec 16)) (s : State) : Out := s.quietly s.chimneyUp fun s => s.thermal temps

/-- Row TELEMETRY_RECORD (R519). -/
def execTelemetryRecord (x : Sample) (s : State) : Out := s.quietly s.chimneyUp fun s => s.telemetry x

/-- Row CORE_VOLTAGE_STEP (R515): the voltage the loop asks for, in mV, and whether a regulator answers. -/
def execCoreVoltageStep (want : Nat) (answered : Bool) (s : State) : Out := s.quietly s.chimneyUp fun s => s.voltageStep want answered

/-- Row REFRESH_DEMAND_STEP (R516). -/
def execRefreshDemandStep (c : Fin 8) (up : Bool) (s : State) : Out := s.quietly s.chimneyUp fun s => s.refreshStep c.val up

/-- Row RAIL_OUT_OF_RANGE (R499): `CHM_STAT.RAILOUT`. -/
def execRailOutOfRange (out : Bool) (s : State) : Out := s.quietly s.chimneyUp fun s => s.setB kCHM 27 out

/-- Row CELLAR_IDLE_SELF_REFRESH (R503). -/
def execCellarIdleSelfRefresh (c : Fin 8) (s : State) : Out := s.quietly s.live fun s => s.idleChannel c.val

/-- Row S2_ENTRY (R507). -/
def execS2Entry (s : State) : Out := s.quietly s.live fun s => s.enterS2

/-- Row S2_LINK_EXIT (R508). -/
def execS2LinkExit (s : State) : Out := .next s.leaveS2.pump

/-- Row WAKE_PIN (R508). -/
def execWakePin (pin : Fin 16) (level : Bool) (s : State) : Out := s.quietly s.answers fun s => s.wakePin pin.val level

/-! ## Receipts and the audit port (R279, R494 to R496) -/

/-- Row RECEIPT_BATCH_CLOSE (R279). -/
def execReceiptBatchClose (s : State) : Out := s.quietly s.ready fun s => s.batchTime

/-- Bytes that a read of the audit port answers, four to a word. -/
def State.audAnswer (s : State) (bs : List Byte) : State := { s with readData := toWords bs, readPoison := false }

/-- A private write to the audit port: its first byte, whatever the row, says which request it is. -/
def State.audWrite (s : State) (w : List Byte) : Out := .next (s.audRequest w)

/-- Row AUDIT_STATUS (R495). -/
def execAuditStatus (w : List Byte) (s : State) : Out := s.audWrite w

/-- Row AUDIT_BOOTREC (R495). -/
def execAuditBootrec (w : List Byte) (s : State) : Out := s.audWrite w

/-- Row AUDIT_BATCH (R495). -/
def execAuditBatch (w : List Byte) (s : State) : Out := s.audWrite w

/-- Row AUDIT_QUOTE (R495). -/
def execAuditQuote (w : List Byte) (s : State) : Out := s.audWrite w

/-- Row AUDIT_CERT (R495). -/
def execAuditCert (w : List Byte) (s : State) : Out := s.audWrite w

/-- Row AUDIT_SEEK (R495). -/
def execAuditSeek (w : List Byte) (s : State) : Out := s.audWrite w

/-- Row AUDIT_RESPONSE_READY (R495). -/
def execAuditResponseReady (s : State) : Out := s.quietly s.studyUp fun s => s.audReady

/-- Row AUDIT_READ (R496). -/
def execAuditRead (s : State) : Out := s.quietly s.audOn fun s =>
  let r := s.audRead
  r.2.audAnswer r.1

/-- Row ENTDAA (R494). -/
def execEntdaa (a : BitVec 7) (s : State) : Out := .next (s.audAssign (some a.toNat) false)

/-- Row SETDASA (R494). -/
def execSetdasa (a : BitVec 7) (s : State) : Out := .next (s.audAssign (some a.toNat) false)

/-- Row RSTDAA (R494). -/
def execRstdaa (s : State) : Out := .next (s.audAssign none true)

/-- Row GETPID (R494): six bytes, the most significant first (PRESUMED, log 53). -/
def execGetpid (s : State) : Out := s.quietly s.audOn fun s => s.audAnswer (leBytes 6 Config.auditPid.toNat).reverse

/-- Row GETBCR (R494). -/
def execGetbcr (s : State) : Out := s.quietly s.audOn fun s => s.audAnswer [0x00]

/-- Row GETDCR (R494). -/
def execGetdcr (s : State) : Out := s.quietly s.audOn fun s => s.audAnswer [0x00]

/-- Row GETSTATUS (R494). -/
def execGetstatus (s : State) : Out := s.quietly s.audOn fun s => { s.audAnswer (leBytes 2 (Config.auditStatus s.free).toNat).reverse with free := s.free + 1 }

/-- Row GETMWL (R494). -/
def execGetmwl (s : State) : Out := s.quietly s.audOn fun s => s.audAnswer (leBytes 2 (fld Config.auditLengths 0 16)).reverse

/-- Row GETMRL (R494). -/
def execGetmrl (s : State) : Out := s.quietly s.audOn fun s => s.audAnswer (leBytes 2 (fld Config.auditLengths 16 16)).reverse

end Sys2Proof.Machine
end

