-- ==== Sys2Proof/Machine/EngineRows.lean ====
section
/-! DEFINITION. The events of the engines: memory, rect engines, Dumbwaiter, Music Room, Bell board, time base and pin sequencers. -/

namespace Sys2Proof.Machine

/-! ## Memory (R285, R291, R301, R302, R317, R399, R552) -/

/-- Row REGION_FILL_DONE (R291). -/
def execRegionFillDone (r : Fin 64) (s : State) : Out := s.working s.live fun s => s.regionFillDone r.val

/-- Row ASSET_LOAD_DONE (R301). -/
def execAssetLoadDone (r : Fin 256) (s : State) : Out := s.working s.foyerUp fun s => s.assetLoadDone r.val

/-- Row MEM_OP_DONE (R552): the nth of those that run, oldest first. -/
def execMemOpDone (n : Nat) (s : State) : Out := s.working s.foyerUp fun s => s.memOpDone n

/-- Row PATROL_SCRUB_READ (R302). -/
def execPatrolScrubRead (w : Scrub) (s : State) : Out := s.quietly s.live fun s =>
  match w with
  | .line a => s.scrubLine a.toNat
  | .core n data i => s.nioScrub n.val data i.toNat
  | .mantel h i => s.mantelScrub h.val i.toNat

/-- Row REFRESH_MODE_CHANGE (R285): the DIMM reports its temperature in °C. -/
def execRefreshModeChange (c : Fin 8) (temp : Byte) (s : State) : Out := s.quietly s.chimneyUp fun s => s.refreshMode c.val temp

/-- Row THROTTLE_STEP (R317). -/
def execThrottleStep (i : Fin 16) (tags : Nat) (s : State) : Out := s.quietly s.live fun s => s.throttle i.val tags

/-! ## The rect engines (R331 to R339) -/

/-- Row RECT_OP_BEGIN (R339). -/
def execRectOpBegin (e : Fin 4) (s : State) : Out := s.working s.live fun s => s.rectOpBegin e.val

/-- Row RECT_BURST (R331). -/
def execRectBurst (e : Fin 4) (s : State) : Out := s.working s.live fun s => s.rectBurst e.val

/-- Row RECT_DEADTIME_EXPIRY (R332): `count` Hallway cycles have passed. -/
def execRectDeadtimeExpiry (e : Fin 4) (count : Nat) (s : State) : Out := s.quietly s.live fun s => s.rectGapEnd e.val count

/-- Row RECT_ROW_DONE (R333). -/
def execRectRowDone (e : Fin 4) (s : State) : Out := s.working s.live fun s => s.rectRowDone e.val

/-- Row RECT_OP_DONE (R334). -/
def execRectOpDone (e : Fin 4) (s : State) : Out := s.working s.live fun s => s.rectOpDone e.val

/-- Row RECT_READ_UNCORR (R335): the burst that meets the error. -/
def execRectReadUncorr (e : Fin 4) (s : State) : Out := s.working s.live fun s => if s.rectMeetsPoison e.val then s.rectBurst e.val else s

/-! ## The Dumbwaiter (R344 to R354) -/

/-- Row DMA_DESCRIPTOR_FETCH (R344). -/
def execDmaDescriptorFetch (c : Fin 64) (s : State) : Out := s.working s.live fun s =>
  match (s.dwc c.val).fetch with
  | some a => if s.regB (kDw c.val + 4) 31 then s.dwFetch c.val a else s
  | none => s

/-- Row DMA_BURST (R347). -/
def execDmaBurst (c : Fin 64) (s : State) : Out := s.working s.live fun s => s.dwBurst c

/-- Row DMA_PACE_EXPIRY (R348): `count` Hallway cycles have passed (DESIGN CHOICE, log 92). -/
def execDmaPaceExpiry (c : Fin 64) (count : Nat) (s : State) : Out := s.quietly s.live fun s => s.dwGap c.val count

/-- Row DMA_DESCRIPTOR_DONE (R352). -/
def execDmaDescriptorDone (c : Fin 64) (s : State) : Out := s.working s.live fun s => s.dwDone c.val

/-- Row DMA_READ_UNCORR (R351): the burst that meets the error. -/
def execDmaReadUncorr (c : Fin 64) (s : State) : Out := s.working s.live fun s => if s.dwMeetsPoison c then s.dwBurst c else s

/-! ## The Music Room (R361, R392, R531) -/

/-- Row SAMPLE_BOUNDARY (R361): with the frames that the input ports 8 and 9 have received, and the voices whose Cellar reads have not arrived since the boundary before (R366). -/
def execSampleBoundary (tdm : List (BitVec 24) × List (BitVec 24)) (late : List (Fin 512)) (s : State) : Out :=
  s.working s.full fun s => s.musBoundary tdm (late.map (·.val))

/-- Row AUDIO_CLOCK_LOST (R361). -/
def execAudioClockLost (s : State) : Out := s.quietly s.full fun s => s.audioLost

/-- Row AUDIO_CLOCK_RETURN (R361). -/
def execAudioClockReturn (s : State) : Out := s.quietly s.full fun s => s.audioReturn

/-- Row TDM_SLAVE_FRAME (R392). -/
def execTdmSlaveFrame (k : Fin 10) (good slip : Bool) (s : State) : Out := s.quietly s.full fun s => s.slaveFrame k.val good slip

/-- Row TDM_SHORT (R531). -/
def execTdmShort (k : Fin 10) (mismatch : Bool) (s : State) : Out := s.quietly s.full fun s => s.tdmShort k.val mismatch

/-! ## The Bell board and the time base (R432, R441, R448, R451) -/

/-- Row IRQ_EDGE (R432): an edge source rises. -/
def execIrqEdge (i : Fin 1024) (s : State) : Out := s.quietly s.live fun s => s.pulse i.val

/-- Row IRQ_LEVEL_CHANGE (R432): the input of a level source takes a level. -/
def execIrqLevelChange (i : Fin 1024) (b : Bool) (s : State) : Out := s.quietly s.live fun s => s.level i.val b

/-- Row HOLDOFF_EXPIRY (R441): a tick of the timer of a group. -/
def execHoldoffExpiry (g : Fin 64) (s : State) : Out := s.quietly s.live fun s => s.holdEnd g.val

/-- Row COMPARE_FIRE (R448). -/
def execCompareFire (k : Fin 64) (s : State) : Out := s.quietly s.live fun s => s.compareDue k.val

/-- Row CAPTURE_EDGE (R451). -/
def execCaptureEdge (k : Fin 32) (rising : Bool) (s : State) : Out := s.quietly s.live fun s => s.captureEdge k.val rising

/-! ## The pin sequencers (R457, R458, R461, R462) -/

/-- A slot of engine e in which an instruction of opcode `want` is up. -/
def State.psqOpRow (s : State) (e : Fin 4) (k : Fin 64) (cyc : Nat) (pads : BitVec 96) (want : Nat) : Out :=
  s.working s.live fun s => s.psqSlotStep e.val k.val cyc pads fun w => decide (fld w 28 4 = want)

/-- Row PSQ_SLOT (R457): whatever instruction is up. -/
def execPsqSlot (e : Fin 4) (k : Fin 64) (cyc : Nat) (pads : BitVec 96) (s : State) : Out := s.working s.live fun s => s.psqSlotStep e.val k.val cyc pads fun _ => true

/-- Row PSQ_SKIP (R458). -/
def execPsqSkip (e : Fin 4) (k : Fin 64) (cyc : Nat) (pads : BitVec 96) (s : State) : Out := s.psqOpRow e k cyc pads 0x0

/-- Row PSQ_DRIVE (R458). -/
def execPsqDrive (e : Fin 4) (k : Fin 64) (cyc : Nat) (pads : BitVec 96) (s : State) : Out := s.psqOpRow e k cyc pads 0x1

/-- Row PSQ_EMIT (R458). -/
def execPsqEmit (e : Fin 4) (k : Fin 64) (cyc : Nat) (pads : BitVec 96) (s : State) : Out := s.psqOpRow e k cyc pads 0x2

/-- Row PSQ_SAMPLE (R458). -/
def execPsqSample (e : Fin 4) (k : Fin 64) (cyc : Nat) (pads : BitVec 96) (s : State) : Out := s.psqOpRow e k cyc pads 0x3

/-- Row PSQ_FETCH (R458). -/
def execPsqFetch (e : Fin 4) (k : Fin 64) (cyc : Nat) (pads : BitVec 96) (s : State) : Out := s.psqOpRow e k cyc pads 0x4

/-- Row PSQ_DEPOSIT (R458). -/
def execPsqDeposit (e : Fin 4) (k : Fin 64) (cyc : Nat) (pads : BitVec 96) (s : State) : Out := s.psqOpRow e k cyc pads 0x5

/-- Row PSQ_AWAIT (R458). -/
def execPsqAwait (e : Fin 4) (k : Fin 64) (cyc : Nat) (pads : BitVec 96) (s : State) : Out := s.psqOpRow e k cyc pads 0x6

/-- Row PSQ_BRANCH (R458). -/
def execPsqBranch (e : Fin 4) (k : Fin 64) (cyc : Nat) (pads : BitVec 96) (s : State) : Out := s.psqOpRow e k cyc pads 0x7

/-- Row PSQ_LOOP (R458). -/
def execPsqLoop (e : Fin 4) (k : Fin 64) (cyc : Nat) (pads : BitVec 96) (s : State) : Out := s.psqOpRow e k cyc pads 0x8

/-- Row PSQ_NEXT (R458). -/
def execPsqNext (e : Fin 4) (k : Fin 64) (cyc : Nat) (pads : BitVec 96) (s : State) : Out := s.psqOpRow e k cyc pads 0x9

/-- Row PSQ_PERIOD (R458). -/
def execPsqPeriod (e : Fin 4) (k : Fin 64) (cyc : Nat) (pads : BitVec 96) (s : State) : Out := s.psqOpRow e k cyc pads 0xA

/-- Row PSQ_SIGNAL (R458). -/
def execPsqSignal (e : Fin 4) (k : Fin 64) (cyc : Nat) (pads : BitVec 96) (s : State) : Out := s.psqOpRow e k cyc pads 0xB

/-- Row PSQ_STOPCH (R458). -/
def execPsqStopch (e : Fin 4) (k : Fin 64) (cyc : Nat) (pads : BitVec 96) (s : State) : Out := s.psqOpRow e k cyc pads 0xC

/-- Row PSQ_HOLD (R458). -/
def execPsqHold (e : Fin 4) (k : Fin 64) (cyc : Nat) (pads : BitVec 96) (s : State) : Out := s.psqOpRow e k cyc pads 0xD

/-- Row PSQ_PIN_SHORT (R462). -/
def execPsqPinShort (p : Fin 96) (mismatch : Bool) (s : State) : Out := s.working s.live fun s => s.pinShort p.val mismatch

/-- Row PSQ_BANK_SUPPLY_CHANGE (R461). -/
def execPsqBankSupplyChange (b : Fin 6) (lvl : Fin 3) (s : State) : Out := s.working s.live fun s => s.bankSupply b.val lvl.val

end Sys2Proof.Machine
end

