-- ==== Sys2Proof/Machine/HeadRows.lean ====
section
/-! DEFINITION. The events of the heads and their ports. -/

namespace Sys2Proof.Machine

/-! ## The frame (R10 to R26, R101, R102, R112 to R117) -/

/-- Row FRAME_BOUNDARY (R10). -/
def execFrameBoundary (h : Fin 32) (s : State) : Out := s.working s.full fun s => s.frameBoundary h.val

/-- Row SWAP_CYCLE (R11). -/
def execSwapCycle (h : Fin 32) (s : State) : Out := s.working s.full fun s => s.swapCycle h.val

/-- Row LINE_EVENT (R18): the output advances to the next LINE event of the frame. -/
def execLineEvent (h : Fin 32) (s : State) : Out := s.quietly s.full fun s => s.runTo h.val tLine

/-- Row HEAD_PLL_LOCK (R101): it took t × 100 ns. -/
def execHeadPllLock (h : Fin 32) (t : Nat) (s : State) : Out := s.working s.full fun s => s.pllLock h.val t

/-- Row PLL_GLIDE_DONE (R102): it took t × 100 ns. -/
def execPllGlideDone (h : Fin 32) (t : Nat) (s : State) : Out := s.working s.full fun s => s.glideDone h.val t

/-- Row GENLOCK_IN_EDGE (R117): a pulse of the given width in ns, of high or of low level. -/
def execGenlockInEdge (width : Nat) (high : Bool) (s : State) : Out := s.quietly s.live fun s => s.glEdge width high

/-- Row GENLOCK_LOST (R115). -/
def execGenlockLost (h : Fin 32) (s : State) : Out := s.quietly s.full fun s => s.glLost h.val

/-- Row GENLOCK_ALIGN_END (R114). -/
def execGenlockAlignEnd (h : Fin 32) (s : State) : Out := s.working s.full fun s => s.alignEnd h.val

/-- Row GENLOCK_PRESENT_TIMEOUT (R120): `DPL_GLSTAT.PRESENT`. -/
def execGenlockPresentTimeout (s : State) : Out := s.quietly s.live fun s => s.setB (kGl 4) 31 false

/-! ## The beam program (R178 to R198): the head advances to the next such event of its frame -/

/-- Row BEAM_END (R182). -/
def execBeamEnd (h : Fin 32) (s : State) : Out := s.quietly s.full fun s => s.runTo h.val 0

/-- Row BEAM_WAIT (R184). -/
def execBeamWait (h : Fin 32) (s : State) : Out := s.quietly s.full fun s => s.runTo h.val 1

/-- Row BEAM_WAITX (R184). -/
def execBeamWaitx (h : Fin 32) (s : State) : Out := s.quietly s.full fun s => s.runTo h.val 2

/-- Row BEAM_WAIT_MET (R184). -/
def execBeamWaitMet (h : Fin 32) (s : State) : Out := s.quietly s.full fun s => s.runTo h.val tMet

/-- Row BEAM_MOVE (R189). -/
def execBeamMove (h : Fin 32) (s : State) : Out := s.quietly s.full fun s => s.runTo h.val 3

/-- Row BEAM_MOVEM (R183). -/
def execBeamMovem (h : Fin 32) (s : State) : Out := s.quietly s.full fun s => s.runTo h.val 4

/-- Row BEAM_SKIPIF (R185). -/
def execBeamSkipif (h : Fin 32) (s : State) : Out := s.quietly s.full fun s => s.runTo h.val 5

/-- Row BEAM_JUMP (R186). -/
def execBeamJump (h : Fin 32) (s : State) : Out := s.quietly s.full fun s => s.runTo h.val 6

/-- Row BEAM_IRQ (R196). -/
def execBeamIrq (h : Fin 32) (s : State) : Out := s.quietly s.full fun s => s.runTo h.val 7

/-- Row BEAM_STAMP (R197). -/
def execBeamStamp (h : Fin 32) (s : State) : Out := s.quietly s.full fun s => s.runTo h.val 8

/-- Row BEAM_FENCE (R198). -/
def execBeamFence (h : Fin 32) (s : State) : Out := s.quietly s.full fun s => s.runTo h.val 9

/-- Row BEAM_FENCE_DONE (R198). -/
def execBeamFenceDone (h : Fin 32) (s : State) : Out := s.quietly s.full fun s => s.runTo h.val tFenceDone

/-- Row BEAM_WRITE_LAND (R190). -/
def execBeamWriteLand (h : Fin 32) (s : State) : Out := s.quietly s.full fun s => s.runLand h.val

/-- Row BEAM_IRQ_ANCHOR (R196). -/
def execBeamIrqAnchor (h : Fin 32) (s : State) : Out := s.quietly s.full fun s => s.runTo h.val tIrq

/-- Row BEAM_STAMP_ANCHOR (R197). -/
def execBeamStampAnchor (h : Fin 32) (s : State) : Out := s.quietly s.full fun s => s.runTo h.val tStamp

/-- Row BEAM_LINE_BUDGET_RELEASE (R181). -/
def execBeamLineBudgetRelease (h : Fin 32) (s : State) : Out := s.quietly s.full fun s => s.runTo h.val tBudget

/-- Row BEAM_WINDOW_END (R180). -/
def execBeamWindowEnd (h : Fin 32) (s : State) : Out := s.quietly s.full fun s => s.runTo h.val tWindow

/-- Row BEAM_POSITION_EVENT (R18): the output goes on to the next position that a voice waits for, in the boundary sequence too. -/
def execBeamPositionEvent (h : Fin 32) (s : State) : Out :=
  s.quietly s.full fun s => if (s.head h.val).phase = .boundary then s.boundaryEvent h.val else s.runTo h.val tVoice

/-! ## The layers of a frame (R124, R156, R164, R219, R222, R229, R232, R239) -/

/-- Row SPRITE_TABLE_LOADED (R156). -/
def execSpriteTableLoaded (h : Fin 32) (s : State) : Out := s.quietly s.full fun s => s.runTo h.val tSpLoaded

/-- Row SPRITE_LINE_EVAL (R164). -/
def execSpriteLineEval (h : Fin 32) (s : State) : Out := s.quietly s.full fun s => s.runTo h.val tSpEval

/-- Row BITMAP_LINE_READ (R124). -/
def execBitmapLineRead (h : Fin 32) (s : State) : Out := s.quietly s.full fun s => s.runTo h.val tLineRead

/-- Row MANTEL_LINE_READ (R222). -/
def execMantelLineRead (h : Fin 32) (s : State) : Out := s.quietly s.full fun s => s.runTo h.val tMtRead

/-- Row WRITEBACK_LINE (R239): `drop` says that the path was full. -/
def execWritebackLine (h : Fin 32) (drop : Bool) (s : State) : Out := s.quietly s.full fun s => s.runWbLine h.val drop

/-- Row LAYER_FETCH_FAILURE (R219). -/
def execLayerFetchFailure (h : Fin 32) (layer : Fin 11) (x : Nat) (y : Nat) (s : State) : Out := s.quietly s.full fun s => s.layerFails h.val layer.val x y

/-- Row MANTEL_FETCH_FAILURE (R232). -/
def execMantelFetchFailure (h : Fin 32) (e : MantelError) (y : Nat) (s : State) : Out := s.quietly s.full fun s => s.mantelFails h.val e y

/-- Row MANTEL_ADMISSION_DONE (R229). -/
def execMantelAdmissionDone (h : Fin 32) (s : State) : Out := s.working s.live fun s => if s.studyUp then s.mantelAdmit h.val else s

/-! ## The ports (R251 to R261) -/

/-- Row LINK_TRAINING_DONE (R251). -/
def execLinkTrainingDone (p : Fin 32) (t : Training) (s : State) : Out := s.working s.full fun s => s.trainingDone p.val t

/-- Row HPD_PLUG (R255). -/
def execHpdPlug (p : Fin 32) (s : State) : Out := s.working s.live fun s => s.hpdPlug p.val

/-- Row HPD_UNPLUG (R255). -/
def execHpdUnplug (p : Fin 32) (s : State) : Out := s.working s.live fun s => s.hpdUnplug p.val

/-- Row IRQ_HPD (R255). -/
def execIrqHpd (p : Fin 32) (s : State) : Out := s.working s.live fun s => s.hpdIrq p.val

/-- Row SINK_READ_DONE (R256). -/
def execSinkReadDone (p : Fin 32) (r : SinkRead) (s : State) : Out := s.working s.live fun s => s.sinkRead p.val r

/-- Row WIRING_SENSE (R258). -/
def execWiringSense (p : Fin 32) (w : Word) (s : State) : Out := s.working s.live fun s => s.wiringSense p.val w

/-- Row ECHO_SYMBOL_MISMATCH (R261). -/
def execEchoSymbolMismatch (p : Fin 4) (lanes : BitVec 4) (n : Nat) (s : State) : Out := s.quietly s.full fun s => s.echoMismatch p.val lanes.toNat n

/-- Row ECHO_ALIGNMENT_CHANGE (R261). -/
def execEchoAlignmentChange (p : Fin 4) (aligned : Bool) (s : State) : Out := s.quietly s.full fun s => s.echoAlign p.val aligned

end Sys2Proof.Machine
end

