-- ==== Sys2Proof/Machine/NioRows.lean ====
section
/-! DEFINITION. The instructions and the events of the Nioft cores. -/

namespace Sys2Proof.Machine

/-- A row that names an instruction of core c: it executes when it is the one that is up. -/
def State.nioOpRow (s : State) (c : Fin 16) (want : NOp) (k : Nat) : Out := s.working s.live fun s => s.nioRow c.val want k

/-- Row NIO_MOV (R407). -/
def execNioMov (c : Fin 16) (s : State) : Out := s.nioOpRow c .mov 0

/-- Row NIO_ADD (R407). -/
def execNioAdd (c : Fin 16) (s : State) : Out := s.nioOpRow c .add 0

/-- Row NIO_SUB (R407). -/
def execNioSub (c : Fin 16) (s : State) : Out := s.nioOpRow c .sub 0

/-- Row NIO_CMP (R406). -/
def execNioCmp (c : Fin 16) (s : State) : Out := s.nioOpRow c .cmp 0

/-- Row NIO_AND (R407). -/
def execNioAnd (c : Fin 16) (s : State) : Out := s.nioOpRow c .and 0

/-- Row NIO_OR (R407). -/
def execNioOr (c : Fin 16) (s : State) : Out := s.nioOpRow c .or 0

/-- Row NIO_XOR (R407). -/
def execNioXor (c : Fin 16) (s : State) : Out := s.nioOpRow c .xor 0

/-- Row NIO_TST (R406). -/
def execNioTst (c : Fin 16) (s : State) : Out := s.nioOpRow c .tst 0

/-- Row NIO_ADC (R406). -/
def execNioAdc (c : Fin 16) (s : State) : Out := s.nioOpRow c .adc 0

/-- Row NIO_SBC (R406). -/
def execNioSbc (c : Fin 16) (s : State) : Out := s.nioOpRow c .sbc 0

/-- Row NIO_MUL (R412). -/
def execNioMul (c : Fin 16) (s : State) : Out := s.nioOpRow c .mul 0

/-- Row NIO_MULU (R412). -/
def execNioMulu (c : Fin 16) (s : State) : Out := s.nioOpRow c .mulu 0

/-- Row NIO_MAC (R412). -/
def execNioMac (c : Fin 16) (s : State) : Out := s.nioOpRow c .mac 0

/-- Row NIO_ADDI (R407). -/
def execNioAddi (c : Fin 16) (s : State) : Out := s.nioOpRow c .addi 0

/-- Row NIO_MOVI (R407). -/
def execNioMovi (c : Fin 16) (s : State) : Out := s.nioOpRow c .movi 0

/-- Row NIO_SHL (R407). -/
def execNioShl (c : Fin 16) (s : State) : Out := s.nioOpRow c .shl 0

/-- Row NIO_SHR (R407). -/
def execNioShr (c : Fin 16) (s : State) : Out := s.nioOpRow c .shr 0

/-- Row NIO_SAR (R407). -/
def execNioSar (c : Fin 16) (s : State) : Out := s.nioOpRow c .sar 0

/-- Row NIO_ROR (R407). -/
def execNioRor (c : Fin 16) (s : State) : Out := s.nioOpRow c .ror 0

/-- Row NIO_SHL_REG (R407). -/
def execNioShlReg (c : Fin 16) (s : State) : Out := s.nioOpRow c .shlReg 0

/-- Row NIO_SHR_REG (R407). -/
def execNioShrReg (c : Fin 16) (s : State) : Out := s.nioOpRow c .shrReg 0

/-- Row NIO_SAR_REG (R407). -/
def execNioSarReg (c : Fin 16) (s : State) : Out := s.nioOpRow c .sarReg 0

/-- Row NIO_LDB (R407). -/
def execNioLdb (c : Fin 16) (s : State) : Out := s.nioOpRow c .ldb 0

/-- Row NIO_LDH (R407). -/
def execNioLdh (c : Fin 16) (s : State) : Out := s.nioOpRow c .ldh 0

/-- Row NIO_LDW (R407). -/
def execNioLdw (c : Fin 16) (s : State) : Out := s.nioOpRow c .ldw 0

/-- Row NIO_LDBS (R407). -/
def execNioLdbs (c : Fin 16) (s : State) : Out := s.nioOpRow c .ldbs 0

/-- Row NIO_STB (R407). -/
def execNioStb (c : Fin 16) (s : State) : Out := s.nioOpRow c .stb 0

/-- Row NIO_STH (R407). -/
def execNioSth (c : Fin 16) (s : State) : Out := s.nioOpRow c .sth 0

/-- Row NIO_STW (R407). -/
def execNioStw (c : Fin 16) (s : State) : Out := s.nioOpRow c .stw 0

/-- Row NIO_LDSP (R407). -/
def execNioLdsp (c : Fin 16) (s : State) : Out := s.nioOpRow c .ldsp 0

/-- Row NIO_STSP (R407). -/
def execNioStsp (c : Fin 16) (s : State) : Out := s.nioOpRow c .stsp 0

/-- Row NIO_BR (R408). -/
def execNioBr (c : Fin 16) (s : State) : Out := s.nioOpRow c .br 0

/-- Row NIO_CALL (R411). -/
def execNioCall (c : Fin 16) (s : State) : Out := s.nioOpRow c .call 0

/-- Row NIO_COPYX (R413). -/
def execNioCopyx (c : Fin 16) (s : State) : Out := s.nioOpRow c .copyx 0

/-- Row NIO_FILLX (R413). -/
def execNioFillx (c : Fin 16) (s : State) : Out := s.nioOpRow c .fillx 0

/-- Row NIO_FINDX (R413). -/
def execNioFindx (c : Fin 16) (s : State) : Out := s.nioOpRow c .findx 0

/-- Row NIO_SUMX (R413). -/
def execNioSumx (c : Fin 16) (s : State) : Out := s.nioOpRow c .sumx 0

/-- Row NIO_MFS (R405). -/
def execNioMfs (c : Fin 16) (s : State) : Out := s.nioOpRow c .mfs 0

/-- Row NIO_MTS (R405). -/
def execNioMts (c : Fin 16) (s : State) : Out := s.nioOpRow c .mts 0

/-- Row NIO_LDI (R407). -/
def execNioLdi (c : Fin 16) (s : State) : Out := s.nioOpRow c .ldi 0

/-- Row NIO_NOP (R409). -/
def execNioNop (c : Fin 16) (s : State) : Out := s.nioOpRow c .nop 0

/-- Row NIO_REP (R414). -/
def execNioRep (c : Fin 16) (s : State) : Out := s.nioOpRow c .rep 0

/-- Row NIO_RETI (R422): the chain looks for a request in cycle k + 1. -/
def execNioReti (c : Fin 16) (k : Fin 3) (s : State) : Out := s.nioOpRow c .reti (k.val + 1)

/-- Row NIO_RET (R411). -/
def execNioRet (c : Fin 16) (s : State) : Out := s.nioOpRow c .ret 0

/-- Row NIO_JMPR (R409). -/
def execNioJmpr (c : Fin 16) (s : State) : Out := s.nioOpRow c .jmpr 0

/-- Row NIO_CALLR (R409). -/
def execNioCallr (c : Fin 16) (s : State) : Out := s.nioOpRow c .callr 0

/-- Row NIO_WAIT (R424). -/
def execNioWait (c : Fin 16) (s : State) : Out := s.nioOpRow c .wait 0

/-- Row NIO_HALT (R428). -/
def execNioHalt (c : Fin 16) (s : State) : Out := s.nioOpRow c .halt 0

/-- Row NIO_TRAP (R423). -/
def execNioTrap (c : Fin 16) (s : State) : Out := s.nioOpRow c .trap 0

/-- Row NIO_FENCE (R409). -/
def execNioFence (c : Fin 16) (s : State) : Out := s.nioOpRow c .fence 0

/-- Row NIO_NOT (R409). -/
def execNioNot (c : Fin 16) (s : State) : Out := s.nioOpRow c .not 0

/-- Row NIO_NEG (R409). -/
def execNioNeg (c : Fin 16) (s : State) : Out := s.nioOpRow c .neg 0

/-- Row NIO_JMP (R409). -/
def execNioJmp (c : Fin 16) (s : State) : Out := s.nioOpRow c .jmp 0

/-! ## What a core waits for (R403, R404, R409, R421): each comes after some cycles -/

/-- Row NIO_FAR_LOAD_DONE (R403). -/
def execNioFarLoadDone (c : Fin 16) (cycles : Nat) (s : State) : Out := s.working s.live fun s => s.nioFarLoadDone c.val cycles

/-- Row NIO_FAR_STORE_DONE (R403). -/
def execNioFarStoreDone (c : Fin 16) (cycles : Nat) (s : State) : Out := s.working s.live fun s => s.nioFarStoreDone c.val cycles

/-- Row NIO_FENCE_DONE (R409). -/
def execNioFenceDone (c : Fin 16) (cycles : Nat) (s : State) : Out := s.working s.live fun s => s.nioFenceDone c.val cycles

/-- Row NIO_INT_ENTRY (R421). -/
def execNioIntEntry (c : Fin 16) (cycles : Nat) (s : State) : Out := s.working s.live fun s => s.nioIntEntry c.val cycles

/-- Row NIO_WDOG_EXPIRY (R404). -/
def execNioWdogExpiry (c : Fin 16) (cycles : Nat) (s : State) : Out := s.working s.live fun s => s.nioWdogExpiry c.val cycles

/-! ## Loads and restarts (R400, R426) -/

/-- Row CORE_RESTART (R400). -/
def execCoreRestart (n : Fin 16) (s : State) : Out := s.working s.live fun s => s.coreRestart n.val

/-- Row NIOFT_LOAD_DONE (R426). -/
def execNioftLoadDone (n : Fin 16) (s : State) : Out := s.working s.live fun s => s.nioLoadDone n.val

end Sys2Proof.Machine
end

