-- ==== Sys2Proof/Machine/Packets.lean ====
section
/-! DEFINITION. The packet rows: the Foyer fetches a packet of each opcode of R65.  Where an opcode has several forms, P0 or the words themselves say which one a packet has, so the rows of one opcode fetch alike. -/

namespace Sys2Proof.Machine

/-- Row NOP (R65). -/
def execNop (p : Packet) (s : State) : Out := s.packet .nop p

/-- Row FENCE (R68). -/
def execFence (p : Packet) (s : State) : Out := s.packet .fence p

/-- Row FEATURES_GET (R72). -/
def execFeaturesGet (p : Packet) (s : State) : Out := s.packet .featuresGet p

/-- Row FEATURES_SET (R72). -/
def execFeaturesSet (p : Packet) (s : State) : Out := s.packet .featuresSet p

/-- Row EXPERT_ENTER (R46). -/
def execExpertEnter (p : Packet) (s : State) : Out := s.packet .expertEnter p

/-- Row EXPERT_LEAVE (R47). -/
def execExpertLeave (p : Packet) (s : State) : Out := s.packet .expertLeave p

/-- Row MEM_REGION_SET (R290). -/
def execMemRegionSet (p : Packet) (s : State) : Out := s.packet .memRegionSet p

/-- Row MEM_REGION_SET_PANTRY (R298). -/
def execMemRegionSetPantry (p : Packet) (s : State) : Out := s.packet .memRegionSet p

/-- Row MEM_COPY (R552). -/
def execMemCopy (p : Packet) (s : State) : Out := s.packet .memCopy p

/-- Row MEM_FILL (R552). -/
def execMemFill (p : Packet) (s : State) : Out := s.packet .memFill p

/-- Row ASSET_LOAD (R301). -/
def execAssetLoad (p : Packet) (s : State) : Out := s.packet .assetLoad p

/-- Row ASSET_UNSEAL (R301). -/
def execAssetUnseal (p : Packet) (s : State) : Out := s.packet .assetUnseal p

/-- Row ERRLOG_READ (R524). -/
def execErrlogRead (p : Packet) (s : State) : Out := s.packet .errlogRead p

/-- Row HEAD_TIMING (R100). -/
def execHeadTiming (p : Packet) (s : State) : Out := s.packet .headTiming p

/-- Row HEAD_ENABLE (R101). -/
def execHeadEnable (p : Packet) (s : State) : Out := s.packet .headEnable p

/-- Row HEAD_DISABLE (R15). -/
def execHeadDisable (p : Packet) (s : State) : Out := s.packet .headDisable p

/-- Row HEAD_COMMIT (R103). -/
def execHeadCommit (p : Packet) (s : State) : Out := s.packet .headCommit p

/-- Row PLANE_SET (R148). -/
def execPlaneSet (p : Packet) (s : State) : Out := s.packet .planeSet p

/-- Row SPRITE_TABLE (R174). -/
def execSpriteTable (p : Packet) (s : State) : Out := s.packet .spriteTable p

/-- Row SPRITE_TABLE_CANVAS (R175). -/
def execSpriteTableCanvas (p : Packet) (s : State) : Out := s.packet .spriteTable p

/-- Row BEAM_LIST_SET (R199). -/
def execBeamListSet (p : Packet) (s : State) : Out := s.packet .beamListSet p

/-- Row COMPOSE_SET (R217). -/
def execComposeSet (p : Packet) (s : State) : Out := s.packet .composeSet p

/-- Row LUT_LOAD (R214). -/
def execLutLoad (p : Packet) (s : State) : Out := s.packet .lutLoad p

/-- Row CANVAS_SET (R110). -/
def execCanvasSet (p : Packet) (s : State) : Out := s.packet .canvasSet p

/-- Row ROUTE_SET (R246). -/
def execRouteSet (p : Packet) (s : State) : Out := s.packet .routeSet p

/-- Row ROUTE_SET_GENLOCK (R119). -/
def execRouteSetGenlock (p : Packet) (s : State) : Out := s.packet .routeSet p

/-- Row CRC_RECT_SET (R266). -/
def execCrcRectSet (p : Packet) (s : State) : Out := s.packet .crcRectSet p

/-- Row WRITEBACK_SET (R237). -/
def execWritebackSet (p : Packet) (s : State) : Out := s.packet .writebackSet p

/-- Row MANTEL_SET (R229). -/
def execMantelSet (p : Packet) (s : State) : Out := s.packet .mantelSet p

/-- Row MANTEL_SET_FIELDS (R226). -/
def execMantelSetFields (p : Packet) (s : State) : Out := s.packet .mantelSet p

/-- Row MANTEL_SET_DISABLE (R230). -/
def execMantelSetDisable (p : Packet) (s : State) : Out := s.packet .mantelSet p

/-- Row RECT_FILL (R324). -/
def execRectFill (p : Packet) (s : State) : Out := s.packet .rectFill p

/-- Row RECT_COPY (R324). -/
def execRectCopy (p : Packet) (s : State) : Out := s.packet .rectCopy p

/-- Row RECT_CONVERT (R328). -/
def execRectConvert (p : Packet) (s : State) : Out := s.packet .rectConvert p

/-- Row DMA_CHAIN_START (R356). -/
def execDmaChainStart (p : Packet) (s : State) : Out := s.packet .dmaChainStart p

/-- Row DMA_STOP (R357). -/
def execDmaStop (p : Packet) (s : State) : Out := s.packet .dmaStop p

/-- Row VOICE_START (R370). -/
def execVoiceStart (p : Packet) (s : State) : Out := s.packet .voiceStart p

/-- Row VOICE_STOP (R374). -/
def execVoiceStop (p : Packet) (s : State) : Out := s.packet .voiceStop p

/-- Row VOICE_PARAM (R373). -/
def execVoiceParam (p : Packet) (s : State) : Out := s.packet .voiceParam p

/-- Row MIX_GRAPH_LOAD (R384). -/
def execMixGraphLoad (p : Packet) (s : State) : Out := s.packet .mixGraphLoad p

/-- Row MIX_PARAM_SET (R385). -/
def execMixParamSet (p : Packet) (s : State) : Out := s.packet .mixParamSet p

/-- Row MIX_COMMIT (R386). -/
def execMixCommit (p : Packet) (s : State) : Out := s.packet .mixCommit p

/-- Row AUDIO_PORT_SET (R391). -/
def execAudioPortSet (p : Packet) (s : State) : Out := s.packet .audioPortSet p

/-- Row AUDIO_PORT_SET_DP (R394). -/
def execAudioPortSetDp (p : Packet) (s : State) : Out := s.packet .audioPortSet p

/-- Row AUDIO_PORT_SET_CLOCK (R390). -/
def execAudioPortSetClock (p : Packet) (s : State) : Out := s.packet .audioPortSet p

/-- Row TIMER_COMPARE_ARM (R447). -/
def execTimerCompareArm (p : Packet) (s : State) : Out := s.packet .timerCompareArm p

/-- Row TIMER_CAPTURE_SET (R450). -/
def execTimerCaptureSet (p : Packet) (s : State) : Out := s.packet .timerCaptureSet p

/-- Row PINSEQ_LOAD (R463). -/
def execPinseqLoad (p : Packet) (s : State) : Out := s.packet .pinseqLoad p

/-- Row PINSEQ_LOAD_SLOT (R455). -/
def execPinseqLoadSlot (p : Packet) (s : State) : Out := s.packet .pinseqLoad p

/-- Row PINSEQ_LOAD_CONFIG (R464). -/
def execPinseqLoadConfig (p : Packet) (s : State) : Out := s.packet .pinseqLoad p

/-- Row PINSEQ_LOAD_INJECT (R460). -/
def execPinseqLoadInject (p : Packet) (s : State) : Out := s.packet .pinseqLoad p

/-- Row PINSEQ_START (R465). -/
def execPinseqStart (p : Packet) (s : State) : Out := s.packet .pinseqStart p

/-- Row PINSEQ_STOP (R465). -/
def execPinseqStop (p : Packet) (s : State) : Out := s.packet .pinseqStop p

/-- Row NIOFT_LOAD (R426). -/
def execNioftLoad (p : Packet) (s : State) : Out := s.packet .nioftLoad p

/-- Row NIOFT_START (R427). -/
def execNioftStart (p : Packet) (s : State) : Out := s.packet .nioftStart p

/-- Row NIOFT_STOP (R428). -/
def execNioftStop (p : Packet) (s : State) : Out := s.packet .nioftStop p

/-- Row ATTEST_QUOTE (R493). -/
def execAttestQuote (p : Packet) (s : State) : Out := s.packet .attestQuote p

/-- Row BOOTLOG_READ (R492). -/
def execBootlogRead (p : Packet) (s : State) : Out := s.packet .bootlogRead p

/-- Row RECEIPT_CONFIG (R274). -/
def execReceiptConfig (p : Packet) (s : State) : Out := s.packet .receiptConfig p

/-- Row RECEIPT_READ (R281). -/
def execReceiptRead (p : Packet) (s : State) : Out := s.packet .receiptRead p

/-- Row UNIT_RESET (R512). -/
def execUnitReset (p : Packet) (s : State) : Out := s.packet .unitReset p

/-- Row POWER_STATE (R507). -/
def execPowerState (p : Packet) (s : State) : Out := s.packet .powerState p

/-- Row TELEMETRY_CONFIG (R519). -/
def execTelemetryConfig (p : Packet) (s : State) : Out := s.packet .telemetryConfig p

/-- Row CLOCK_POLICY (R515). -/
def execClockPolicy (p : Packet) (s : State) : Out := s.packet .clockPolicy p

/-- Row UNKNOWN_OPCODE_PACKET (R59): a packet with any opcode code. -/
def execUnknownOpcodePacket (code : BitVec 16) (p : Packet) (s : State) : Out := s.packet (opOf code) p

end Sys2Proof.Machine
end

