-- ==== Sys2Proof/Machine/RegRows.lean ====
section
/-! DEFINITION. The register rows: an access to a register that acts beyond storing a value.  Each is the access itself, at the register's address, with the bit that names the row set; the Foyer's accepted work then goes on where the access let it. -/

namespace Sys2Proof.Machine

/-! ## The shared accesses -/

/-- A register of PF0 BAR0, which the register space of R28 shows at the same offset. -/
def bar0At (off : Nat) : BarAddr := .bar0 (BitVec.ofNat 24 off)

/-- The words a read answered. -/
def State.answer (s : State) (ws : List Word) : State := { s with readData := ws, readPoison := false }

/-- A full-word write by a master. -/
def State.rowWrite (s : State) (m : Master) (a : BarAddr) (v : Word) : Out := .next (s.regWrite m a .word v).pump

/-- A read by a master, of a word or of bytes of it (R34): a read of `GLB_SYNC` by PF0 comes back once its BAR2 writes are visible (R43). -/
def State.partRead (s : State) (m : Master) (a : BarAddr) (size : ReadSize) : Out :=
  let s := match m, a with
    | .pf0, .bar0 off => if off.toNat / 4 = 7 && s.answers then s.bar2Flush else s
    | _, _ => s
  let r := s.regRead m a
  .next (r.2.answer [readPart size (barOffset a) r.1]).pump

/-- A read of a word by a master. -/
def State.rowRead (s : State) (m : Master) (a : BarAddr) : Out := s.partRead m a .word

/-- The function whose BAR holds the doorbell page of a ring, and the page's place in it (R50). -/
def ringMaster (n : Fin 18) : Master := if n.val < 16 then .pf0 else .pf1
def ringAt (n : Fin 18) (o : Nat) : BarAddr :=
  if n.val < 16 then .bar4 (BitVec.ofNat 16 (n.val * 0x1000 + o)) else .pf1 (BitVec.ofNat 16 ((n.val - 15) * 0x1000 + o))

/-! ## Rings and features -/

/-- Row DOORBELL (R54): `FOY_SQTAIL`. -/
def execDoorbell (ring : Fin 18) (tail : Word) (s : State) : Out := s.rowWrite (ringMaster ring) (ringAt ring 0x00) tail

/-- Row FOY_CQHEAD_WRITE (R62). -/
def execFoyCqheadWrite (ring : Fin 18) (v : Word) (s : State) : Out := s.rowWrite (ringMaster ring) (ringAt ring 0x04) v

/-- Row FOY_RINGCFG_WRITE (R52). -/
def execFoyRingcfgWrite (ring : Fin 18) (v : Word) (s : State) : Out := s.rowWrite (ringMaster ring) (ringAt ring 0x20) v

/-- Row GLB_FEAT_COMMIT (R72): GO = 1. -/
def execGlbFeatCommit (v : Word) (s : State) : Out := s.rowWrite .pf0 (bar0At 0x140) (putBit v 0 true)

/-! ## BAR2 -/

/-- Row GLB_SYNC_READ (R43). -/
def execGlbSyncRead (s : State) : Out := s.rowRead .pf0 (bar0At 0x1C)

/-- Row BAR2_READ (R41, R42, R304): n bytes at an offset; the answer is their bytes, four to a word. -/
def execBar2Read (off : BitVec 28) (n : Nat) (s : State) : Out :=
  if !s.answers then .next (s.answer (toWords (List.replicate n 0xFF)))
  else
    let r := s.bar2Read off.toNat n
    .next ({ r.2 with readData := toWords r.1.1, readPoison := r.1.2 }).pump

/-- Row BAR2_WRITE (R42, R43). -/
def execBar2Write (off : BitVec 28) (data : List Byte) (s : State) : Out :=
  .next (if s.answers then s.bar2Write off.toNat data else s)

/-! ## Accesses by access code (R35, R36) -/

/-- Row REGISTER_WRITE (R36). -/
def execRegisterWrite (m : Master) (a : BarAddr) (width : Width) (v : Word) (s : State) : Out := .next (s.regWrite m a width v).pump

/-- Row LO_REGISTER_READ (R35): a LO register latches its HI half; the row serves a read of any register, and of bytes of one (R34). -/
def execLoRegisterRead (m : Master) (a : ReadAt) (s : State) : Out := s.partRead m a.a a.size

/-! ## Heads and the time base -/

/-- Row HD_COMMIT_GO (R103). -/
def execHdCommitGo (m : Master) (h : Fin 32) (v : Word) (s : State) : Out := s.rowWrite m (bar0At (kHD h.val + 0x40)) (putBit v 0 true)

/-- Row HD_BSTS_LO_READ (R197). -/
def execHdBstsLoRead (m : Master) (h : Fin 32) (s : State) : Out := s.rowRead m (bar0At (kHD h.val + 0x920))

/-- Row TMB_CAPT_LO_READ (R452). -/
def execTmbCaptLoRead (m : Master) (k : Fin 32) (s : State) : Out := s.rowRead m (bar0At (kCap k.val + 0xC))

/-- Row TMB_CMP_ARM (R454): ARM = 1. -/
def execTmbCmpArm (m : Master) (k : Fin 64) (v : Word) (s : State) : Out := s.rowWrite m (bar0At (kCmp k.val + 8)) (putBit v 31 true)

/-- Row TMB_CAPCFG_WRITE (R454). -/
def execTmbCapcfgWrite (m : Master) (k : Fin 32) (v : Word) (s : State) : Out := s.rowWrite m (bar0At (kCap k.val)) v

/-! ## Pin sequencers -/

/-- Register o of channel c of engine e. -/
def psqAt (e : Fin 4) (c : Fin 32) (o : Nat) : BarAddr := bar0At (kPc (32 * e.val + c.val) + o)

/-- Row PSQ_SQ_READ (R459). -/
def execPsqSqRead (m : Master) (e : Fin 4) (c : Fin 32) (s : State) : Out := s.rowRead m (psqAt e c 0x24)

/-- Row PSQ_FQ_WRITE (R459). -/
def execPsqFqWrite (m : Master) (e : Fin 4) (c : Fin 32) (v : Word) (s : State) : Out := s.rowWrite m (psqAt e c 0x20) v

/-- Row PSQ_INJ_WRITE (R460). -/
def execPsqInjWrite (m : Master) (e : Fin 4) (c : Fin 32) (v : Word) (s : State) : Out := s.rowWrite m (psqAt e c 0x30) v

/-- Row PSQ_ESTART (R467). -/
def execPsqEstart (m : Master) (e : Fin 4) (v : Word) (s : State) : Out := s.rowWrite m (bar0At (kErun e.val + 4)) v

/-- Row PSQ_ESTOP (R467). -/
def execPsqEstop (m : Master) (e : Fin 4) (v : Word) (s : State) : Out := s.rowWrite m (bar0At (kErun e.val + 8)) v

/-! ## The Bell board -/

/-- Row BEL_CLAIM (R436): through the control space of a core, PF1's interrupt page, or the BEL page. -/
def execBelClaim (w : Claimant) (s : State) : Out :=
  match w with
  | .core n =>
    if !s.answers then .next s
    else
      let r := s.ccsRead n.val 0x18
      .next (r.2.answer [r.1])
  | .pf1 => s.rowRead .pf1 (.pf1 0x3000)
  | .page m t => s.rowRead m (bar0At (kBEL + 0x1000 + 16 * t.val))

/-- Row BEL_DONE (R437). -/
def execBelDone (w : Claimant) (v : Word) (s : State) : Out :=
  match w with
  | .core n => .next (if s.answers then s.ccsWrite n.val 0x1C v else s)
  | .pf1 => s.rowWrite .pf1 (.pf1 0x3004) v
  | .page m t => s.rowWrite m (bar0At (kBEL + 0x1004 + 16 * t.val)) v

/-- Row GLB_IRQSWSET (R434). -/
def execGlbIrqswset (m : Master) (k : Fin 2) (v : Word) (s : State) : Out := s.rowWrite m (bar0At (0x5180 + 4 * k.val)) v

/-- Row GLB_IRQSWCLR (R434). -/
def execGlbIrqswclr (m : Master) (k : Fin 2) (v : Word) (s : State) : Out := s.rowWrite m (bar0At (0x5188 + 4 * k.val)) v

/-- Row GLB_IRQMASK_WRITE (R440). -/
def execGlbIrqmaskWrite (m : Master) (k : Fin 32) (v : Word) (s : State) : Out := s.rowWrite m (bar0At (kIrqMask k.val)) v

/-- Row CCS_WDTKICK (R404): a core's write in its own control space; the value does not count. -/
def execCcsWdtkick (n : Fin 16) (v : Word) (s : State) : Out := .next (if s.answers then s.ccsWrite n.val 0x2C v else s)

/-! ## Engines under expert control -/

/-- Row RCT_GO (R341): GO = 1. -/
def execRctGo (m : Master) (e : Fin 4) (v : Word) (s : State) : Out := s.rowWrite m (bar0At (kRct e.val)) (putBit v 31 true)

/-- Row DWT_GO (R359): GO = 1. -/
def execDwtGo (m : Master) (c : Fin 64) (v : Word) (s : State) : Out := s.rowWrite m (bar0At (kDw c.val)) (putBit v 31 true)

/-- Row DWT_STOP (R354): STOP = 1. -/
def execDwtStop (m : Master) (c : Fin 64) (v : Word) (s : State) : Out := s.rowWrite m (bar0At (kDw c.val)) (putBit v 30 true)

/-- Row DWT_SWREQ (R359): SWREQ = 1. -/
def execDwtSwreq (m : Master) (c : Fin 64) (v : Word) (s : State) : Out := s.rowWrite m (bar0At (kDw c.val)) (putBit v 29 true)

/-- Row NIO_GO (R429): GO = 1. -/
def execNioGo (m : Master) (n : Fin 16) (v : Word) (s : State) : Out := s.rowWrite m (bar0At (kNctl n.val)) (putBit v 31 true)

/-- Row NIO_STOP (R429): STOP = 1. -/
def execNioStop (m : Master) (n : Fin 16) (v : Word) (s : State) : Out := s.rowWrite m (bar0At (kNctl n.val)) (putBit v 30 true)

/-- Row MUS_VGO_START (R396): START = 1. -/
def execMusVgoStart (m : Master) (v : Word) (s : State) : Out := s.rowWrite m (bar0At (kMUS + 0x30)) (putBit v 31 true)

/-- Row MUS_VGO_STOP (R396): STOP = 1. -/
def execMusVgoStop (m : Master) (v : Word) (s : State) : Out := s.rowWrite m (bar0At (kMUS + 0x30)) (putBit v 30 true)

/-- Row MUS_CTL_COMMIT (R396): COMMIT = 1. -/
def execMusCtlCommit (m : Master) (v : Word) (s : State) : Out := s.rowWrite m (bar0At (kMUS + 0x34)) (putBit v 31 true)

/-! ## The injectors -/

/-- Row CEL_FLIP_WRITE (R305). -/
def execCelFlipWrite (m : Master) (v : Word) (s : State) : Out := s.rowWrite m (bar0At (kCEL + 0x100)) v

/-- Row PAN_FLIP_WRITE (R306). -/
def execPanFlipWrite (m : Master) (v : Word) (s : State) : Out := s.rowWrite m (bar0At (kPAN + 0x100)) v

/-- The offset of an injector's address register. -/
def flipAt : FlipAddr → Nat
  | .celLo => kCEL + 0x104
  | .celHi => kCEL + 0x108
  | .pan => kPAN + 0x104

/-- Row FLIP_ADDR_WRITE (R553). -/
def execFlipAddrWrite (m : Master) (r : FlipAddr) (v : Word) (s : State) : Out := s.rowWrite m (bar0At (flipAt r)) v

end Sys2Proof.Machine
end

