-- ==== Sys2Proof/Machine/Dispatch.lean ====
section
/-! DEFINITION. One arm per command: each is one direct call of the command's meaning. -/

namespace Sys2Proof.Machine

def exec (i : Instr) (s : State) : Host.Outcome State Fault Refusal :=
  match i with
  | .nop p => Sys2Proof.Machine.execNop p s
  | .fence p => Sys2Proof.Machine.execFence p s
  | .featuresGet p => Sys2Proof.Machine.execFeaturesGet p s
  | .featuresSet p => Sys2Proof.Machine.execFeaturesSet p s
  | .expertEnter p => Sys2Proof.Machine.execExpertEnter p s
  | .expertLeave p => Sys2Proof.Machine.execExpertLeave p s
  | .memRegionSet p => Sys2Proof.Machine.execMemRegionSet p s
  | .memRegionSetPantry p => Sys2Proof.Machine.execMemRegionSetPantry p s
  | .memCopy p => Sys2Proof.Machine.execMemCopy p s
  | .memFill p => Sys2Proof.Machine.execMemFill p s
  | .assetLoad p => Sys2Proof.Machine.execAssetLoad p s
  | .assetUnseal p => Sys2Proof.Machine.execAssetUnseal p s
  | .errlogRead p => Sys2Proof.Machine.execErrlogRead p s
  | .headTiming p => Sys2Proof.Machine.execHeadTiming p s
  | .headEnable p => Sys2Proof.Machine.execHeadEnable p s
  | .headDisable p => Sys2Proof.Machine.execHeadDisable p s
  | .headCommit p => Sys2Proof.Machine.execHeadCommit p s
  | .planeSet p => Sys2Proof.Machine.execPlaneSet p s
  | .spriteTable p => Sys2Proof.Machine.execSpriteTable p s
  | .spriteTableCanvas p => Sys2Proof.Machine.execSpriteTableCanvas p s
  | .beamListSet p => Sys2Proof.Machine.execBeamListSet p s
  | .composeSet p => Sys2Proof.Machine.execComposeSet p s
  | .lutLoad p => Sys2Proof.Machine.execLutLoad p s
  | .canvasSet p => Sys2Proof.Machine.execCanvasSet p s
  | .routeSet p => Sys2Proof.Machine.execRouteSet p s
  | .routeSetGenlock p => Sys2Proof.Machine.execRouteSetGenlock p s
  | .crcRectSet p => Sys2Proof.Machine.execCrcRectSet p s
  | .writebackSet p => Sys2Proof.Machine.execWritebackSet p s
  | .mantelSet p => Sys2Proof.Machine.execMantelSet p s
  | .mantelSetFields p => Sys2Proof.Machine.execMantelSetFields p s
  | .mantelSetDisable p => Sys2Proof.Machine.execMantelSetDisable p s
  | .rectFill p => Sys2Proof.Machine.execRectFill p s
  | .rectCopy p => Sys2Proof.Machine.execRectCopy p s
  | .rectConvert p => Sys2Proof.Machine.execRectConvert p s
  | .dmaChainStart p => Sys2Proof.Machine.execDmaChainStart p s
  | .dmaStop p => Sys2Proof.Machine.execDmaStop p s
  | .voiceStart p => Sys2Proof.Machine.execVoiceStart p s
  | .voiceStop p => Sys2Proof.Machine.execVoiceStop p s
  | .voiceParam p => Sys2Proof.Machine.execVoiceParam p s
  | .mixGraphLoad p => Sys2Proof.Machine.execMixGraphLoad p s
  | .mixParamSet p => Sys2Proof.Machine.execMixParamSet p s
  | .mixCommit p => Sys2Proof.Machine.execMixCommit p s
  | .audioPortSet p => Sys2Proof.Machine.execAudioPortSet p s
  | .audioPortSetDp p => Sys2Proof.Machine.execAudioPortSetDp p s
  | .audioPortSetClock p => Sys2Proof.Machine.execAudioPortSetClock p s
  | .timerCompareArm p => Sys2Proof.Machine.execTimerCompareArm p s
  | .timerCaptureSet p => Sys2Proof.Machine.execTimerCaptureSet p s
  | .pinseqLoad p => Sys2Proof.Machine.execPinseqLoad p s
  | .pinseqLoadSlot p => Sys2Proof.Machine.execPinseqLoadSlot p s
  | .pinseqLoadConfig p => Sys2Proof.Machine.execPinseqLoadConfig p s
  | .pinseqLoadInject p => Sys2Proof.Machine.execPinseqLoadInject p s
  | .pinseqStart p => Sys2Proof.Machine.execPinseqStart p s
  | .pinseqStop p => Sys2Proof.Machine.execPinseqStop p s
  | .nioftLoad p => Sys2Proof.Machine.execNioftLoad p s
  | .nioftStart p => Sys2Proof.Machine.execNioftStart p s
  | .nioftStop p => Sys2Proof.Machine.execNioftStop p s
  | .attestQuote p => Sys2Proof.Machine.execAttestQuote p s
  | .bootlogRead p => Sys2Proof.Machine.execBootlogRead p s
  | .receiptConfig p => Sys2Proof.Machine.execReceiptConfig p s
  | .receiptRead p => Sys2Proof.Machine.execReceiptRead p s
  | .unitReset p => Sys2Proof.Machine.execUnitReset p s
  | .powerState p => Sys2Proof.Machine.execPowerState p s
  | .telemetryConfig p => Sys2Proof.Machine.execTelemetryConfig p s
  | .clockPolicy p => Sys2Proof.Machine.execClockPolicy p s
  | .doorbell ring tail => Sys2Proof.Machine.execDoorbell ring tail s
  | .foyCqheadWrite ring v => Sys2Proof.Machine.execFoyCqheadWrite ring v s
  | .foyRingcfgWrite ring v => Sys2Proof.Machine.execFoyRingcfgWrite ring v s
  | .glbFeatCommit v => Sys2Proof.Machine.execGlbFeatCommit v s
  | .glbSyncRead => Sys2Proof.Machine.execGlbSyncRead s
  | .bar2Read off n => Sys2Proof.Machine.execBar2Read off n s
  | .bar2Write off data => Sys2Proof.Machine.execBar2Write off data s
  | .registerWrite m a width v => Sys2Proof.Machine.execRegisterWrite m a width v s
  | .loRegisterRead m a => Sys2Proof.Machine.execLoRegisterRead m a s
  | .hdCommitGo m h v => Sys2Proof.Machine.execHdCommitGo m h v s
  | .hdBstsLoRead m h => Sys2Proof.Machine.execHdBstsLoRead m h s
  | .tmbCaptLoRead m k => Sys2Proof.Machine.execTmbCaptLoRead m k s
  | .psqSqRead m e c => Sys2Proof.Machine.execPsqSqRead m e c s
  | .psqFqWrite m e c v => Sys2Proof.Machine.execPsqFqWrite m e c v s
  | .psqInjWrite m e c v => Sys2Proof.Machine.execPsqInjWrite m e c v s
  | .psqEstart m e v => Sys2Proof.Machine.execPsqEstart m e v s
  | .psqEstop m e v => Sys2Proof.Machine.execPsqEstop m e v s
  | .belClaim w => Sys2Proof.Machine.execBelClaim w s
  | .belDone w v => Sys2Proof.Machine.execBelDone w v s
  | .glbIrqswset m k v => Sys2Proof.Machine.execGlbIrqswset m k v s
  | .glbIrqswclr m k v => Sys2Proof.Machine.execGlbIrqswclr m k v s
  | .glbIrqmaskWrite m k v => Sys2Proof.Machine.execGlbIrqmaskWrite m k v s
  | .ccsWdtkick n v => Sys2Proof.Machine.execCcsWdtkick n v s
  | .rctGo m e v => Sys2Proof.Machine.execRctGo m e v s
  | .dwtGo m c v => Sys2Proof.Machine.execDwtGo m c v s
  | .dwtStop m c v => Sys2Proof.Machine.execDwtStop m c v s
  | .dwtSwreq m c v => Sys2Proof.Machine.execDwtSwreq m c v s
  | .nioGo m n v => Sys2Proof.Machine.execNioGo m n v s
  | .nioStop m n v => Sys2Proof.Machine.execNioStop m n v s
  | .musVgoStart m v => Sys2Proof.Machine.execMusVgoStart m v s
  | .musVgoStop m v => Sys2Proof.Machine.execMusVgoStop m v s
  | .musCtlCommit m v => Sys2Proof.Machine.execMusCtlCommit m v s
  | .tmbCmpArm m k v => Sys2Proof.Machine.execTmbCmpArm m k v s
  | .tmbCapcfgWrite m k v => Sys2Proof.Machine.execTmbCapcfgWrite m k v s
  | .celFlipWrite m v => Sys2Proof.Machine.execCelFlipWrite m v s
  | .panFlipWrite m v => Sys2Proof.Machine.execPanFlipWrite m v s
  | .flipAddrWrite m r v => Sys2Proof.Machine.execFlipAddrWrite m r v s
  | .frameBoundary h => Sys2Proof.Machine.execFrameBoundary h s
  | .swapCycle h => Sys2Proof.Machine.execSwapCycle h s
  | .lineEvent h => Sys2Proof.Machine.execLineEvent h s
  | .headPllLock h t => Sys2Proof.Machine.execHeadPllLock h t s
  | .pllGlideDone h t => Sys2Proof.Machine.execPllGlideDone h t s
  | .genlockInEdge width high => Sys2Proof.Machine.execGenlockInEdge width high s
  | .genlockLost h => Sys2Proof.Machine.execGenlockLost h s
  | .genlockAlignEnd h => Sys2Proof.Machine.execGenlockAlignEnd h s
  | .beamEnd h => Sys2Proof.Machine.execBeamEnd h s
  | .beamWait h => Sys2Proof.Machine.execBeamWait h s
  | .beamWaitx h => Sys2Proof.Machine.execBeamWaitx h s
  | .beamWaitMet h => Sys2Proof.Machine.execBeamWaitMet h s
  | .beamMove h => Sys2Proof.Machine.execBeamMove h s
  | .beamMovem h => Sys2Proof.Machine.execBeamMovem h s
  | .beamSkipif h => Sys2Proof.Machine.execBeamSkipif h s
  | .beamJump h => Sys2Proof.Machine.execBeamJump h s
  | .beamIrq h => Sys2Proof.Machine.execBeamIrq h s
  | .beamStamp h => Sys2Proof.Machine.execBeamStamp h s
  | .beamFence h => Sys2Proof.Machine.execBeamFence h s
  | .beamFenceDone h => Sys2Proof.Machine.execBeamFenceDone h s
  | .beamWriteLand h => Sys2Proof.Machine.execBeamWriteLand h s
  | .beamIrqAnchor h => Sys2Proof.Machine.execBeamIrqAnchor h s
  | .beamStampAnchor h => Sys2Proof.Machine.execBeamStampAnchor h s
  | .beamLineBudgetRelease h => Sys2Proof.Machine.execBeamLineBudgetRelease h s
  | .beamWindowEnd h => Sys2Proof.Machine.execBeamWindowEnd h s
  | .spriteTableLoaded h => Sys2Proof.Machine.execSpriteTableLoaded h s
  | .spriteLineEval h => Sys2Proof.Machine.execSpriteLineEval h s
  | .bitmapLineRead h => Sys2Proof.Machine.execBitmapLineRead h s
  | .mantelLineRead h => Sys2Proof.Machine.execMantelLineRead h s
  | .writebackLine h drop => Sys2Proof.Machine.execWritebackLine h drop s
  | .layerFetchFailure h layer x y => Sys2Proof.Machine.execLayerFetchFailure h layer x y s
  | .mantelFetchFailure h e y => Sys2Proof.Machine.execMantelFetchFailure h e y s
  | .echoSymbolMismatch p lanes n => Sys2Proof.Machine.execEchoSymbolMismatch p lanes n s
  | .hpdPlug p => Sys2Proof.Machine.execHpdPlug p s
  | .hpdUnplug p => Sys2Proof.Machine.execHpdUnplug p s
  | .irqHpd p => Sys2Proof.Machine.execIrqHpd p s
  | .sinkReadDone p r => Sys2Proof.Machine.execSinkReadDone p r s
  | .linkTrainingDone p t => Sys2Proof.Machine.execLinkTrainingDone p t s
  | .wiringSense p w => Sys2Proof.Machine.execWiringSense p w s
  | .regionFillDone r => Sys2Proof.Machine.execRegionFillDone r s
  | .assetLoadDone r => Sys2Proof.Machine.execAssetLoadDone r s
  | .patrolScrubRead w => Sys2Proof.Machine.execPatrolScrubRead w s
  | .refreshModeChange c temp => Sys2Proof.Machine.execRefreshModeChange c temp s
  | .throttleStep c tags => Sys2Proof.Machine.execThrottleStep c tags s
  | .rectOpBegin e => Sys2Proof.Machine.execRectOpBegin e s
  | .rectBurst e => Sys2Proof.Machine.execRectBurst e s
  | .rectDeadtimeExpiry e count => Sys2Proof.Machine.execRectDeadtimeExpiry e count s
  | .rectRowDone e => Sys2Proof.Machine.execRectRowDone e s
  | .rectOpDone e => Sys2Proof.Machine.execRectOpDone e s
  | .rectReadUncorr e => Sys2Proof.Machine.execRectReadUncorr e s
  | .dmaDescriptorFetch c => Sys2Proof.Machine.execDmaDescriptorFetch c s
  | .dmaBurst c => Sys2Proof.Machine.execDmaBurst c s
  | .dmaPaceExpiry c count => Sys2Proof.Machine.execDmaPaceExpiry c count s
  | .dmaDescriptorDone c => Sys2Proof.Machine.execDmaDescriptorDone c s
  | .dmaReadUncorr c => Sys2Proof.Machine.execDmaReadUncorr c s
  | .sampleBoundary tdm late => Sys2Proof.Machine.execSampleBoundary tdm late s
  | .audioClockLost => Sys2Proof.Machine.execAudioClockLost s
  | .audioClockReturn => Sys2Proof.Machine.execAudioClockReturn s
  | .tdmSlaveFrame k good slip => Sys2Proof.Machine.execTdmSlaveFrame k good slip s
  | .tdmShort k mismatch => Sys2Proof.Machine.execTdmShort k mismatch s
  | .nioMov c => Sys2Proof.Machine.execNioMov c s
  | .nioAdd c => Sys2Proof.Machine.execNioAdd c s
  | .nioSub c => Sys2Proof.Machine.execNioSub c s
  | .nioCmp c => Sys2Proof.Machine.execNioCmp c s
  | .nioAnd c => Sys2Proof.Machine.execNioAnd c s
  | .nioOr c => Sys2Proof.Machine.execNioOr c s
  | .nioXor c => Sys2Proof.Machine.execNioXor c s
  | .nioTst c => Sys2Proof.Machine.execNioTst c s
  | .nioAdc c => Sys2Proof.Machine.execNioAdc c s
  | .nioSbc c => Sys2Proof.Machine.execNioSbc c s
  | .nioMul c => Sys2Proof.Machine.execNioMul c s
  | .nioMulu c => Sys2Proof.Machine.execNioMulu c s
  | .nioMac c => Sys2Proof.Machine.execNioMac c s
  | .nioAddi c => Sys2Proof.Machine.execNioAddi c s
  | .nioMovi c => Sys2Proof.Machine.execNioMovi c s
  | .nioShl c => Sys2Proof.Machine.execNioShl c s
  | .nioShr c => Sys2Proof.Machine.execNioShr c s
  | .nioSar c => Sys2Proof.Machine.execNioSar c s
  | .nioRor c => Sys2Proof.Machine.execNioRor c s
  | .nioShlReg c => Sys2Proof.Machine.execNioShlReg c s
  | .nioShrReg c => Sys2Proof.Machine.execNioShrReg c s
  | .nioSarReg c => Sys2Proof.Machine.execNioSarReg c s
  | .nioLdb c => Sys2Proof.Machine.execNioLdb c s
  | .nioLdh c => Sys2Proof.Machine.execNioLdh c s
  | .nioLdw c => Sys2Proof.Machine.execNioLdw c s
  | .nioLdbs c => Sys2Proof.Machine.execNioLdbs c s
  | .nioStb c => Sys2Proof.Machine.execNioStb c s
  | .nioSth c => Sys2Proof.Machine.execNioSth c s
  | .nioStw c => Sys2Proof.Machine.execNioStw c s
  | .nioLdsp c => Sys2Proof.Machine.execNioLdsp c s
  | .nioStsp c => Sys2Proof.Machine.execNioStsp c s
  | .nioBr c => Sys2Proof.Machine.execNioBr c s
  | .nioCall c => Sys2Proof.Machine.execNioCall c s
  | .nioCopyx c => Sys2Proof.Machine.execNioCopyx c s
  | .nioFillx c => Sys2Proof.Machine.execNioFillx c s
  | .nioFindx c => Sys2Proof.Machine.execNioFindx c s
  | .nioSumx c => Sys2Proof.Machine.execNioSumx c s
  | .nioMfs c => Sys2Proof.Machine.execNioMfs c s
  | .nioMts c => Sys2Proof.Machine.execNioMts c s
  | .nioLdi c => Sys2Proof.Machine.execNioLdi c s
  | .nioNop c => Sys2Proof.Machine.execNioNop c s
  | .nioRep c => Sys2Proof.Machine.execNioRep c s
  | .nioReti c k => Sys2Proof.Machine.execNioReti c k s
  | .nioRet c => Sys2Proof.Machine.execNioRet c s
  | .nioJmpr c => Sys2Proof.Machine.execNioJmpr c s
  | .nioCallr c => Sys2Proof.Machine.execNioCallr c s
  | .nioWait c => Sys2Proof.Machine.execNioWait c s
  | .nioHalt c => Sys2Proof.Machine.execNioHalt c s
  | .nioTrap c => Sys2Proof.Machine.execNioTrap c s
  | .nioFence c => Sys2Proof.Machine.execNioFence c s
  | .nioNot c => Sys2Proof.Machine.execNioNot c s
  | .nioNeg c => Sys2Proof.Machine.execNioNeg c s
  | .nioJmp c => Sys2Proof.Machine.execNioJmp c s
  | .nioFarLoadDone c cycles => Sys2Proof.Machine.execNioFarLoadDone c cycles s
  | .nioFenceDone c cycles => Sys2Proof.Machine.execNioFenceDone c cycles s
  | .nioIntEntry c cycles => Sys2Proof.Machine.execNioIntEntry c cycles s
  | .nioWdogExpiry c cycles => Sys2Proof.Machine.execNioWdogExpiry c cycles s
  | .coreRestart n => Sys2Proof.Machine.execCoreRestart n s
  | .irqEdge k => Sys2Proof.Machine.execIrqEdge k s
  | .irqLevelChange k b => Sys2Proof.Machine.execIrqLevelChange k b s
  | .holdoffExpiry g => Sys2Proof.Machine.execHoldoffExpiry g s
  | .compareFire k => Sys2Proof.Machine.execCompareFire k s
  | .captureEdge k rising => Sys2Proof.Machine.execCaptureEdge k rising s
  | .psqSlot e k cyc pads => Sys2Proof.Machine.execPsqSlot e k cyc pads s
  | .psqSkip e k cyc pads => Sys2Proof.Machine.execPsqSkip e k cyc pads s
  | .psqDrive e k cyc pads => Sys2Proof.Machine.execPsqDrive e k cyc pads s
  | .psqEmit e k cyc pads => Sys2Proof.Machine.execPsqEmit e k cyc pads s
  | .psqSample e k cyc pads => Sys2Proof.Machine.execPsqSample e k cyc pads s
  | .psqFetch e k cyc pads => Sys2Proof.Machine.execPsqFetch e k cyc pads s
  | .psqDeposit e k cyc pads => Sys2Proof.Machine.execPsqDeposit e k cyc pads s
  | .psqAwait e k cyc pads => Sys2Proof.Machine.execPsqAwait e k cyc pads s
  | .psqBranch e k cyc pads => Sys2Proof.Machine.execPsqBranch e k cyc pads s
  | .psqLoop e k cyc pads => Sys2Proof.Machine.execPsqLoop e k cyc pads s
  | .psqNext e k cyc pads => Sys2Proof.Machine.execPsqNext e k cyc pads s
  | .psqPeriod e k cyc pads => Sys2Proof.Machine.execPsqPeriod e k cyc pads s
  | .psqSignal e k cyc pads => Sys2Proof.Machine.execPsqSignal e k cyc pads s
  | .psqStopch e k cyc pads => Sys2Proof.Machine.execPsqStopch e k cyc pads s
  | .psqHold e k cyc pads => Sys2Proof.Machine.execPsqHold e k cyc pads s
  | .psqPinShort p mismatch => Sys2Proof.Machine.execPsqPinShort p mismatch s
  | .psqBankSupplyChange b lvl => Sys2Proof.Machine.execPsqBankSupplyChange b lvl s
  | .coldBoot b => Sys2Proof.Machine.execColdBoot b s
  | .cellarTrainingDone d => Sys2Proof.Machine.execCellarTrainingDone d s
  | .warmReset b => Sys2Proof.Machine.execWarmReset b s
  | .readySet => Sys2Proof.Machine.execReadySet s
  | .functionLevelReset fn => Sys2Proof.Machine.execFunctionLevelReset fn s
  | .bootLogAppend progFails blkFails => Sys2Proof.Machine.execBootLogAppend progFails blkFails s
  | .receiptBatchClose => Sys2Proof.Machine.execReceiptBatchClose s
  | .s2LinkExit => Sys2Proof.Machine.execS2LinkExit s
  | .wakePin pin level => Sys2Proof.Machine.execWakePin pin level s
  | .thermalWarning temps => Sys2Proof.Machine.execThermalWarning temps s
  | .junctionTrip temps => Sys2Proof.Machine.execJunctionTrip temps s
  | .telemetryRecord x => Sys2Proof.Machine.execTelemetryRecord x s
  | .coreVoltageStep want answered => Sys2Proof.Machine.execCoreVoltageStep want answered s
  | .refreshDemandStep c up => Sys2Proof.Machine.execRefreshDemandStep c up s
  | .xtalSwitch => Sys2Proof.Machine.execXtalSwitch s
  | .auditStatus w => Sys2Proof.Machine.execAuditStatus w s
  | .auditBootrec w => Sys2Proof.Machine.execAuditBootrec w s
  | .auditBatch w => Sys2Proof.Machine.execAuditBatch w s
  | .auditQuote w => Sys2Proof.Machine.execAuditQuote w s
  | .auditCert w => Sys2Proof.Machine.execAuditCert w s
  | .auditSeek w => Sys2Proof.Machine.execAuditSeek w s
  | .auditResponseReady => Sys2Proof.Machine.execAuditResponseReady s
  | .auditRead => Sys2Proof.Machine.execAuditRead s
  | .entdaa a => Sys2Proof.Machine.execEntdaa a s
  | .setdasa a => Sys2Proof.Machine.execSetdasa a s
  | .rstdaa => Sys2Proof.Machine.execRstdaa s
  | .getpid => Sys2Proof.Machine.execGetpid s
  | .getbcr => Sys2Proof.Machine.execGetbcr s
  | .getdcr => Sys2Proof.Machine.execGetdcr s
  | .getstatus => Sys2Proof.Machine.execGetstatus s
  | .getmwl => Sys2Proof.Machine.execGetmwl s
  | .getmrl => Sys2Proof.Machine.execGetmrl s
  | .beamPositionEvent h => Sys2Proof.Machine.execBeamPositionEvent h s
  | .echoAlignmentChange p aligned => Sys2Proof.Machine.execEchoAlignmentChange p aligned s
  | .genlockPresentTimeout => Sys2Proof.Machine.execGenlockPresentTimeout s
  | .nioFarStoreDone c cycles => Sys2Proof.Machine.execNioFarStoreDone c cycles s
  | .unknownOpcodePacket code p => Sys2Proof.Machine.execUnknownOpcodePacket code p s
  | .memOpDone n => Sys2Proof.Machine.execMemOpDone n s
  | .nioftLoadDone n => Sys2Proof.Machine.execNioftLoadDone n s
  | .mantelAdmissionDone h => Sys2Proof.Machine.execMantelAdmissionDone h s
  | .s2Entry => Sys2Proof.Machine.execS2Entry s
  | .cellarIdleSelfRefresh c => Sys2Proof.Machine.execCellarIdleSelfRefresh c s
  | .pwrOkFall => Sys2Proof.Machine.execPwrOkFall s
  | .railOutOfRange out => Sys2Proof.Machine.execRailOutOfRange out s
  | .tripRelease b => Sys2Proof.Machine.execTripRelease b s

end Sys2Proof.Machine
end

