-- ==== Sys2Proof/Safety.lean ====
section
/-! DEFINITION. What counts as a sound run of the FL3280, in the terms the claims use: the canonical form of its memories and registers, and what one-time fuses may do, and when the Foyer takes a packet. -/

namespace Sys2Proof.Machine

/-- A memory of bytes is in canonical form: addresses strictly rising, and no entry that an unlisted address reads as, which is 0. -/
def Memory.wf (m : Tbl Byte) : Bool := Tbl.wf (fun _ => 0) m

/-- Every memory and register file of the state is in canonical form: the registers, the live 64-bit values, the committed head sets, device memory with its codes, and the host memory the device wrote. -/
def State.canonical (s : State) : Bool :=
  Tbl.wf regReset s.regs && Tbl.wf wideReset s.wide && Tbl.wf regReset s.com && Memory.wf s.mem &&
    Tbl.wf (fun _ => Code.good) s.codes && Memory.wf s.host

/-- What fuses may do between two moments: a programmed slot and the Mantel key stay as they are, a revoked slot stays revoked, the security version only rises, the identity certificate does not change, and an audit address or a switched-off audit port stays (R466, R468, R469, R478). -/
def Fuses.le (f g : Fuses) : Prop :=
  (∀ k h, f.slot k = some h → g.slot k = some h) ∧
  (∀ k, f.revoked.testBit k = true → g.revoked.testBit k = true) ∧
  (∀ m, f.mantel = some m → g.mantel = some m) ∧
  g.cert = f.cert ∧
  f.svn ≤ g.svn ∧
  (f.audAddr ≠ 0 → g.audAddr = f.audAddr) ∧
  (f.audOff = true → g.audOff = true)

/-- The pass-over mark of a ring is dropped by the first packet above it (R87 step 4). -/
def State.unmarked (s : State) (n : Nat) : State :=
  { s with foy := { s.foy with pass := Tbl.set (fun _ => none) s.foy.pass n none } }

/-- The state in which a fetched packet begins: the round has visited its ring, `FOY_SQHEAD` has passed it, and it is journaled and accepted (R58, R59). -/
def State.admitted (s : State) (op : Op) (p : Packet) : State :=
  (((s.turn p.ring.val).unmarked p.ring.val).sqAdvance p.ring.val p.len.toNat).accept op p none

/-- The open command that the packet becomes. -/
def State.opened (s : State) (op : Op) (p : Packet) : Open :=
  (((s.turn p.ring.val).unmarked p.ring.val).sqAdvance p.ring.val p.len.toNat).newOpen op p none

/-- The Foyer fetches the packet and accepts it, and the command may begin: the round stands at its ring, nothing else is open, the packet is the next of its ring, whole and in sequence, and the core that serves it is up (R58, R59, R400). -/
structure Fetches (s : State) (op : Op) (p : Packet) : Prop where
  fetch : s.nextRing = some p.ring.val
  quiet : s.foy.opens = []
  next : p.seq = s.w64 (kAccepted p.ring.val) + 1
  sane : p.seq.toNat < 2 ^ 63
  whole : p.p.length + 4 = p.len.toNat
  avail : p.len.toNat ≤ s.sqAvail p.ring.val
  fits : p.len.toNat ≤ s.sqWords p.ring.val
  fresh : ∀ q, Tbl.get (fun _ => none) s.foy.pass p.ring.val = some q → q.toNat < p.seq.toNat
  core : ∀ n ∈ s.att.down, served n op = false

/-- The command of a fetched packet passes the checks of its header (R70) and of the feature its opcode needs (R75). -/
structure Takes (s : State) (op : Op) (p : Packet) : Prop extends Fetches s op p where
  header : decodeFault op p = none
  feature : ∀ k, (opInfo op).feature = some k → (s.opened op p).hasFeat k = true

/-- The only open command has begun with a result: it waits, or it is answered at once and nothing is left open (R59, R67, R68). -/
def carried (o : Open) (r : Started × State) : State :=
  match r.1 with
  | .done x =>
    let o' : Open := { o with begun := true, wait := .none, fin := some x }
    let q := (r.2.updOpen o.acc fun _ => o').atCommit o' x
    (q.2.complete o' q.1).setB kJStat 28 false
  | .wait w => (r.2.updOpen o.acc fun _ => { o with begun := true, wait := w }).setB kJStat 28 false
  | .hold w => (r.2.updOpen o.acc fun _ => { o with wait := w }).setB kJStat 28 false
  | .later => r.2.setB kJStat 28 false

/-- Master m may write the registers of unit u: the device answers, the unit is present, it is under expert control or the master is a firmware core, and a Parlour core has the page granted (R33, R349, R402). -/
def State.drives (s : State) (m : Master) (u : Nat) : Bool :=
  s.answers && !s.pageAbsent u && (match m with
    | .pf0 | .dma _ => s.expert u
    | .pf1 => false
    | .core n => (decide (n.val < 4) || s.expert u) && s.nioGranted n.val (u * 0x10000) true)

/-- Master m may read the registers of unit u: the device answers and is READY, the unit is present, and the master reaches its page (R31, R40, R402). -/
def State.views (s : State) (m : Master) (u : Nat) : Bool :=
  s.answers && s.ready && !s.pageAbsent u && (match m with
    | .pf1 => false
    | .core n => s.nioGranted n.val (u * 0x10000) false
    | _ => true)

/-- Head h scans its frame, and its next pixel clock lies within it (R8, R10, R102). -/
structure Scans (s : State) (h : Nat) : Prop where
  full : s.full = true
  frame : (s.head h).phase = .frame
  moves : s.gliding h = false
  left : s.place' h + 1 < frameLen (s.cmSet h)

/-- The place of the output in its next pixel clock. -/
def State.nextPlace (s : State) (h : Nat) : Nat := s.place' h + 1

/-- The state in which the sequencer has its part of the next pixel clock. -/
def State.seqAt (s : State) (h : Nat) : State := (s.tickOpen h).tickFetch h (s.nextPlace h)

/-- The next pixel clock after its fetch position: the clocks of the sequencer from a state on, and the rest. -/
def State.seqOn (s u : State) (h n : Nat) : State := (State.bsClocks h (s.nextPlace h) n u).tickRest h (s.nextPlace h) false

/-- The state in which the sprites have their part of the next pixel clock. -/
def State.spriteTurn (s : State) (h : Nat) : State := (State.bsClocks h (s.nextPlace h) 64 (s.seqAt h)).tickTiles h (s.nextPlace h)

/-- The state in which the output leaves for its next place, where it has arrived, and where it shows. -/
def State.leaveAt (s : State) (h : Nat) : State :=
  let p := posAt (s.cmSet h) (s.nextPlace h)
  ((s.spriteTurn h).tickSprite h (s.nextPlace h)).updHead h fun v => { v with x := p.1, y := p.2 }
def State.outAt (s : State) (h : Nat) : State := (s.leaveAt h).bsLandDue h (s.nextPlace h) false
def State.showAt (s : State) (h : Nat) : State :=
  let p := posAt (s.cmSet h) (s.nextPlace h)
  if p.1 = 0 then (s.outAt h).tickLine h p.2 else s.outAt h

/-- The entry e at the PC of head h's program executes in the next pixel clock, with the entries of data fl behind it in its line: it is valid and its composer clock has come (R181, R187, R202). -/
structure Executes (s : State) (h i e : Nat) (fl : List Nat) : Prop extends Scans s h where
  run : (s.seqAt h).bsRun h = true
  free : ((s.seqAt h).head h).bs.hold = .none
  pc : ((s.seqAt h).head h).bs.pc = i
  due : ((s.seqAt h).head h).bs.pix (s.cmSet h) ((s.seqAt h).head h).bs.clk ≤ s.nextPlace h
  held : (s.seqAt h).bsHeld h (i / 8) = true
  word : (s.seqAt h).bsEnt h i = some e
  inside : i + entData e < fld (s.cm h 0x908) 0 16
  line : (i + entData e) / 8 = i / 8
  data : ((List.range (entData e)).map fun k => (s.seqAt h).bsEnt h (i + 1 + k)) = fl.map some
  sound : entCause (fld (s.cm h 0x908) 0 16) i e (fun _ => false) (some fl) = 0

/-- A slot of engine e in which its slot table names the running channel i, whose instruction word w at its PC is up: legal, with nothing latched, injected or waiting (R455, R457, R458). -/
structure Slots (s : State) (e : Fin 4) (k : Fin 64) (i pc : Nat) (w : Word) : Prop where
  live : s.live = true
  named : ∃ ent, (s.slotted e.val k.val).slotEntry e.val k.val = ent ∧ ent / 128 % 2 = 1 ∧ i = 32 * e.val + ent % 32
  run : s.psqRun i = true
  calm : (s.psqCh i).starting = false ∧ (s.psqCh i).stopping = false ∧ (s.psqCh i).cfgNew = false
  alone : (s.psqCh i).inj = [] ∧ (s.psqCh i).ahead = none ∧ (s.psqCh i).latch = none
  stands : s.regF (kPc i) 8 6 = pc
  word : s.reg (kPw i pc) = w
  legal : psqLegal w = true

/-- The state in which the instruction of a slot executes: the pads are sensed, and the channel's count has taken the cycles since its last slot (R457, R461). -/
def State.slotAt (s : State) (e k i cyc : Nat) (pads : BitVec 96) : State :=
  ((s.slotted e k).sensePads pads).setF (kPc i + 0x1C) 0 16 (min 65535 (s.psqCount i + cyc))

/-- The instruction of channel i has completed and the next slot finds the one at pc; or it stays latched. -/
def State.psqTo (s : State) (i pc : Nat) : Out :=
  .next (((s.setPsqCh i { s.psqCh i with latch := none }).setF (kPc i) 8 6 pc).psqShow i).pump
def State.psqStays (s : State) (i : Nat) (l : PsqLat) : Out := .next ((s.setPsqCh i { s.psqCh i with latch := some l }).psqShow i).pump

/-- The program words of the instruction at the PC of core n. -/
def State.nioWords (s : State) (n : Nat) : List Nat :=
  (List.range (nLen ((s.core n).word (s.pc n)))).map fun j => (s.core n).word (s.pc n + j)

/-- Core n stands before instruction i, outside a REP, and its program words hold no error: the instruction is the one that executes next (R403, R410, R416). -/
structure Stands (s : State) (n : Fin 16) (i : NInstr) : Prop where
  live : s.live = true
  ready : s.nioReady n.val = true
  alone : (s.core n.val).rep = 0
  clean : ∀ j < 3, (s.core n.val).wordCode (s.pc n.val + j) = .good
  word : nDecode ((s.nioWords n.val).getD 0 0) ((s.nioWords n.val).getD 1 0) ((s.nioWords n.val).getD 2 0) = some i

/-- The state in which an instruction of core n executes: a product issued three cycles before has entered the accumulator (R412). -/
def State.nioAt (s : State) (n : Nat) : State := s.updCore n fun c => c.mulDone (s.cyc n)

/-- A local data word that holds no error. -/
def State.localOk (s : State) (n a : Nat) : Prop := a < 0x10000 ∧ (s.core n).dataCode a = .good

end Sys2Proof.Machine
end

