-- ==== Sys2Proof/WellFormed.lean ====
section
/-! DEFINITION. What makes a command well formed: its words name its own row, its lists have the lengths the spec gives them, and its ranges lie in their windows. -/

namespace Sys2Proof

/-- A packet carries the parameter words that its LEN counts beside the four header words (R57). -/
def Packet.wf (p : Packet) : Bool := decide (p.p.length = p.len.toNat - 4)

/-- Bit b of parameter word k: the forms of one opcode are told apart by such bits. -/
def wordBit (p : Packet) (k b : Nat) : Bool := (p.p.getD k 0).getLsbD b

/-- The opcode values of R65. -/
def opcodes : List Nat :=
  [0x0001, 0x0002, 0x0003, 0x0004, 0x0005, 0x0006, 0x0010, 0x0011, 0x0012, 0x0013, 0x0014,
   0x0015, 0x0020, 0x0021, 0x0022, 0x0023, 0x0024, 0x0025, 0x0026, 0x0027, 0x0028, 0x0029,
   0x002A, 0x002B, 0x002C, 0x002D, 0x0030, 0x0031, 0x0032, 0x0038, 0x0039, 0x0040, 0x0041,
   0x0042, 0x0043, 0x0044, 0x0045, 0x0046, 0x0050, 0x0051, 0x0052, 0x0053, 0x0054, 0x0060,
   0x0061, 0x0062, 0x0070, 0x0071, 0x0072, 0x0073, 0x0080, 0x0081, 0x0082, 0x0083]

/-- A training result names one of the candidates of R251, or none. -/
def Training.wf (t : Training) : Bool := match t.cand with | some k => decide (k < 15) | none => true

/-- A DIMM that the device can read: it has a capacity and one or two ranks (R282). -/
def Dimm.wf (d : Dimm) : Bool := decide (0 < d.gib) && (decide (d.ranks = 1) || decide (d.ranks = 2))

/-- The boot flash is listed in rising order of address, no entry empty (R471). -/
def BootIn.wf (b : BootIn) : Bool :=
  b.flash.all (fun e => !e.2.isEmpty) && decide (b.flash.Pairwise fun x y => x.1 + x.2.length ≤ y.1)

/-- An audit request of a row begins with the row's code (R495). -/
def auditWf (code : Nat) (w : List Byte) : Bool := match w with | b :: _ => decide (b.toNat = code) | [] => false

/-- A register read is aligned to its size (R34). -/
def ReadAt.wf (r : ReadAt) : Bool :=
  let o := match r.a with | .bar0 off => off.toNat | .bar4 off => off.toNat | .pf1 off => off.toNat
  match r.size with
  | .byte => true
  | .half => decide (o % 2 = 0)
  | .word => decide (o % 4 = 0)

/-- A well-formed command. -/
def Instr.wf : Instr → Bool
  | .nop p => p.wf
  | .fence p => p.wf
  | .featuresGet p => p.wf
  | .featuresSet p => p.wf
  | .expertEnter p => p.wf
  | .expertLeave p => p.wf
  | .memRegionSet p => p.wf && !wordBit p 0 31
  | .memRegionSetPantry p => p.wf && wordBit p 0 31
  | .memCopy p => p.wf
  | .memFill p => p.wf
  | .assetLoad p => p.wf
  | .assetUnseal p => p.wf
  | .errlogRead p => p.wf
  | .headTiming p => p.wf
  | .headEnable p => p.wf
  | .headDisable p => p.wf
  | .headCommit p => p.wf
  | .planeSet p => p.wf
  | .spriteTable p => p.wf && !wordBit p 0 8
  | .spriteTableCanvas p => p.wf && wordBit p 0 8
  | .beamListSet p => p.wf
  | .composeSet p => p.wf
  | .lutLoad p => p.wf
  | .canvasSet p => p.wf
  | .routeSet p => p.wf && !wordBit p 0 8
  | .routeSetGenlock p => p.wf && wordBit p 0 8
  | .crcRectSet p => p.wf
  | .writebackSet p => p.wf
  | .mantelSet p => p.wf && wordBit p 0 31 && !wordBit p 0 10
  | .mantelSetFields p => p.wf && wordBit p 0 31 && wordBit p 0 10
  | .mantelSetDisable p => p.wf && !wordBit p 0 31
  | .rectFill p => p.wf
  | .rectCopy p => p.wf
  | .rectConvert p => p.wf
  | .dmaChainStart p => p.wf
  | .dmaStop p => p.wf
  | .voiceStart p => p.wf
  | .voiceStop p => p.wf
  | .voiceParam p => p.wf
  | .mixGraphLoad p => p.wf
  | .mixParamSet p => p.wf
  | .mixCommit p => p.wf
  | .audioPortSet p => p.wf && !wordBit p 0 8 && !wordBit p 0 9
  | .audioPortSetDp p => p.wf && wordBit p 0 8 && !wordBit p 0 9
  | .audioPortSetClock p => p.wf && !wordBit p 0 8 && wordBit p 0 9
  | .timerCompareArm p => p.wf
  | .timerCaptureSet p => p.wf
  | .pinseqLoad p => p.wf && !wordBit p 0 24 && !wordBit p 0 25
  | .pinseqLoadSlot p => p.wf && wordBit p 0 24 && !wordBit p 0 25
  | .pinseqLoadConfig p => p.wf && !wordBit p 0 24 && wordBit p 0 25
  | .pinseqLoadInject p => p.wf && wordBit p 0 24 && wordBit p 0 25
  | .pinseqStart p => p.wf
  | .pinseqStop p => p.wf
  | .nioftLoad p => p.wf
  | .nioftStart p => p.wf
  | .nioftStop p => p.wf
  | .attestQuote p => p.wf
  | .bootlogRead p => p.wf
  | .receiptConfig p => p.wf
  | .receiptRead p => p.wf
  | .unitReset p => p.wf
  | .powerState p => p.wf
  | .telemetryConfig p => p.wf
  | .clockPolicy p => p.wf
  | .doorbell _ _ => true
  | .foyCqheadWrite _ _ => true
  | .foyRingcfgWrite _ _ => true
  | .glbFeatCommit _ => true
  | .glbSyncRead => true
  | .bar2Read off n => decide (0 < n) && decide (off.toNat + n ≤ 2 ^ 28)
  | .bar2Write off data => decide (0 < data.length) && decide (off.toNat + data.length ≤ 2 ^ 28)
  | .registerWrite _ _ _ _ => true
  | .loRegisterRead _ a => a.wf
  | .hdCommitGo _ _ _ => true
  | .hdBstsLoRead _ _ => true
  | .tmbCaptLoRead _ _ => true
  | .psqSqRead _ _ _ => true
  | .psqFqWrite _ _ _ _ => true
  | .psqInjWrite _ _ _ _ => true
  | .psqEstart _ _ _ => true
  | .psqEstop _ _ _ => true
  | .belClaim _ => true
  | .belDone _ _ => true
  | .glbIrqswset _ _ _ => true
  | .glbIrqswclr _ _ _ => true
  | .glbIrqmaskWrite _ _ _ => true
  | .ccsWdtkick _ _ => true
  | .rctGo _ _ _ => true
  | .dwtGo _ _ _ => true
  | .dwtStop _ _ _ => true
  | .dwtSwreq _ _ _ => true
  | .nioGo _ _ _ => true
  | .nioStop _ _ _ => true
  | .musVgoStart _ _ => true
  | .musVgoStop _ _ => true
  | .musCtlCommit _ _ => true
  | .tmbCmpArm _ _ _ => true
  | .tmbCapcfgWrite _ _ _ => true
  | .celFlipWrite _ _ => true
  | .panFlipWrite _ _ => true
  | .flipAddrWrite _ _ _ => true
  | .frameBoundary _ => true
  | .swapCycle _ => true
  | .lineEvent _ => true
  | .headPllLock _ _ => true
  | .pllGlideDone _ _ => true
  | .genlockInEdge _ _ => true
  | .genlockLost _ => true
  | .genlockAlignEnd _ => true
  | .beamEnd _ => true
  | .beamWait _ => true
  | .beamWaitx _ => true
  | .beamWaitMet _ => true
  | .beamMove _ => true
  | .beamMovem _ => true
  | .beamSkipif _ => true
  | .beamJump _ => true
  | .beamIrq _ => true
  | .beamStamp _ => true
  | .beamFence _ => true
  | .beamFenceDone _ => true
  | .beamWriteLand _ => true
  | .beamIrqAnchor _ => true
  | .beamStampAnchor _ => true
  | .beamLineBudgetRelease _ => true
  | .beamWindowEnd _ => true
  | .spriteTableLoaded _ => true
  | .spriteLineEval _ => true
  | .bitmapLineRead _ => true
  | .mantelLineRead _ => true
  | .writebackLine _ _ => true
  | .layerFetchFailure _ _ _ _ => true
  | .mantelFetchFailure _ _ _ => true
  | .echoSymbolMismatch _ _ _ => true
  | .hpdPlug _ => true
  | .hpdUnplug _ => true
  | .irqHpd _ => true
  | .sinkReadDone _ _ => true
  | .linkTrainingDone _ t => t.wf
  | .wiringSense _ _ => true
  | .regionFillDone _ => true
  | .assetLoadDone _ => true
  | .patrolScrubRead _ => true
  | .refreshModeChange _ _ => true
  | .throttleStep _ _ => true
  | .rectOpBegin _ => true
  | .rectBurst _ => true
  | .rectDeadtimeExpiry _ _ => true
  | .rectRowDone _ => true
  | .rectOpDone _ => true
  | .rectReadUncorr _ => true
  | .dmaDescriptorFetch _ => true
  | .dmaBurst _ => true
  | .dmaPaceExpiry _ _ => true
  | .dmaDescriptorDone _ => true
  | .dmaReadUncorr _ => true
  | .sampleBoundary tdm _ => decide (tdm.1.length ≤ 16) && decide (tdm.2.length ≤ 16)
  | .audioClockLost => true
  | .audioClockReturn => true
  | .tdmSlaveFrame _ _ _ => true
  | .tdmShort _ _ => true
  | .nioMov _ => true
  | .nioAdd _ => true
  | .nioSub _ => true
  | .nioCmp _ => true
  | .nioAnd _ => true
  | .nioOr _ => true
  | .nioXor _ => true
  | .nioTst _ => true
  | .nioAdc _ => true
  | .nioSbc _ => true
  | .nioMul _ => true
  | .nioMulu _ => true
  | .nioMac _ => true
  | .nioAddi _ => true
  | .nioMovi _ => true
  | .nioShl _ => true
  | .nioShr _ => true
  | .nioSar _ => true
  | .nioRor _ => true
  | .nioShlReg _ => true
  | .nioShrReg _ => true
  | .nioSarReg _ => true
  | .nioLdb _ => true
  | .nioLdh _ => true
  | .nioLdw _ => true
  | .nioLdbs _ => true
  | .nioStb _ => true
  | .nioSth _ => true
  | .nioStw _ => true
  | .nioLdsp _ => true
  | .nioStsp _ => true
  | .nioBr _ => true
  | .nioCall _ => true
  | .nioCopyx _ => true
  | .nioFillx _ => true
  | .nioFindx _ => true
  | .nioSumx _ => true
  | .nioMfs _ => true
  | .nioMts _ => true
  | .nioLdi _ => true
  | .nioNop _ => true
  | .nioRep _ => true
  | .nioReti _ _ => true
  | .nioRet _ => true
  | .nioJmpr _ => true
  | .nioCallr _ => true
  | .nioWait _ => true
  | .nioHalt _ => true
  | .nioTrap _ => true
  | .nioFence _ => true
  | .nioNot _ => true
  | .nioNeg _ => true
  | .nioJmp _ => true
  | .nioFarLoadDone _ _ => true
  | .nioFenceDone _ _ => true
  | .nioIntEntry _ _ => true
  | .nioWdogExpiry _ _ => true
  | .coreRestart _ => true
  | .irqEdge _ => true
  | .irqLevelChange _ _ => true
  | .holdoffExpiry _ => true
  | .compareFire _ => true
  | .captureEdge _ _ => true
  | .psqSlot _ _ _ _ => true
  | .psqSkip _ _ _ _ => true
  | .psqDrive _ _ _ _ => true
  | .psqEmit _ _ _ _ => true
  | .psqSample _ _ _ _ => true
  | .psqFetch _ _ _ _ => true
  | .psqDeposit _ _ _ _ => true
  | .psqAwait _ _ _ _ => true
  | .psqBranch _ _ _ _ => true
  | .psqLoop _ _ _ _ => true
  | .psqNext _ _ _ _ => true
  | .psqPeriod _ _ _ _ => true
  | .psqSignal _ _ _ _ => true
  | .psqStopch _ _ _ _ => true
  | .psqHold _ _ _ _ => true
  | .psqPinShort _ _ => true
  | .psqBankSupplyChange _ _ => true
  | .coldBoot b => b.wf
  | .cellarTrainingDone d => decide (d.length = 8) && d.all fun x => match x with | some m => m.wf | none => true
  | .warmReset b => b.wf
  | .readySet => true
  | .functionLevelReset _ => true
  | .bootLogAppend _ _ => true
  | .receiptBatchClose => true
  | .s2LinkExit => true
  | .wakePin _ _ => true
  | .thermalWarning temps => decide (temps.length = 12)
  | .junctionTrip temps => decide (temps.length = 12)
  | .telemetryRecord x => decide (x.temps.length = 12)
  | .coreVoltageStep _ _ => true
  | .refreshDemandStep _ _ => true
  | .xtalSwitch => true
  | .auditStatus w => auditWf 1 w
  | .auditBootrec w => auditWf 2 w
  | .auditBatch w => auditWf 3 w
  | .auditQuote w => auditWf 4 w
  | .auditCert w => auditWf 5 w
  | .auditSeek w => auditWf 6 w
  | .auditResponseReady => true
  | .auditRead => true
  | .entdaa _ => true
  | .setdasa _ => true
  | .rstdaa => true
  | .getpid => true
  | .getbcr => true
  | .getdcr => true
  | .getstatus => true
  | .getmwl => true
  | .getmrl => true
  | .beamPositionEvent _ => true
  | .echoAlignmentChange _ _ => true
  | .genlockPresentTimeout => true
  | .nioFarStoreDone _ _ => true
  | .unknownOpcodePacket code p => p.wf && !opcodes.contains code.toNat
  | .memOpDone _ => true
  | .nioftLoadDone _ => true
  | .mantelAdmissionDone _ => true
  | .s2Entry => true
  | .cellarIdleSelfRefresh _ => true
  | .pwrOkFall => true
  | .railOutOfRange _ => true
  | .tripRelease b => b.wf

end Sys2Proof
end

