-- ==== Sys2Proof/Certificates/Slice0/Obligations.lean ====
section
/-! DEFINITION. What is claimed of the FL3280: each definition below is one statement, made of the model's own functions, over every state and every operand. -/

open Sys2Proof Sys2Proof.Machine

/-! ## The packets of the submission rings -/

/-- A quiet Foyer runs each packet of the system family to its own effect: NOP and FEATURES_GET answer at once, FENCE finds nothing open before it, FEATURES_SET, EXPERT_ENTER of a unit that no swap of a head has to be awaited for, and EXPERT_LEAVE act in their commit point, ERRLOG_READ writes the records it holds to the host buffer, and a packet of an opcode that is not defined is answered BAD_OPCODE (R46, R47, R65, R68, R70, R72, R524). -/
def Obligations.SystemPackets : Prop :=
  (∀ (s : State) (p : Packet), Takes s .nop p →
    exec (.nop p) s = .next (carried (s.opened .nop p) (.done repOk, s.admitted .nop p))) ∧
  (∀ (s : State) (p : Packet), Takes s .fence p → outside p 0 0x0003FFFF = false →
    exec (.fence p) s = .next (carried (s.opened .fence p) (.done repOk, s.admitted .fence p))) ∧
  (∀ (s : State) (p : Packet), Takes s .featuresGet p →
    let t := s.admitted .featuresGet p
    exec (.featuresGet p) s = .next (carried (s.opened .featuresGet p)
      (.done ⟨.ok, b2n t.featLocked, t.reg (kDev 0), t.reg (kDev 1), t.reg (kAct 0)⟩, t))) ∧
  (∀ (s : State) (p : Packet), Takes s .featuresSet p →
    exec (.featuresSet p) s = .next (carried (s.opened .featuresSet p) (.done repOk, s.admitted .featuresSet p))) ∧
  (∀ (s : State) (p : Packet), Takes s .expertEnter p →
    let t := s.admitted .expertEnter p
    let u := fld (pw p 0) 0 8
    t.expertFault (s.opened .expertEnter p) true = none → (u < 0x10 ∨ (t.head (u - 0x10)).enabled = false) →
    exec (.expertEnter p) s = .next (carried (s.opened .expertEnter p) (.done repOk, t))) ∧
  (∀ (s : State) (p : Packet), Takes s .expertLeave p →
    let t := s.admitted .expertLeave p
    t.expertFault (s.opened .expertLeave p) false = none →
    exec (.expertLeave p) s = .next (carried (s.opened .expertLeave p) (.done repOk, t))) ∧
  (∀ (s : State) (p : Packet), Takes s .errlogRead p →
    let t := s.admitted .errlogRead p
    let next := (t.w64 kErrNext).toNat
    let old := (t.w64 kErrOld).toNat
    let back := (lo32 (t.w64 kErrNext) - pw p 3).toNat
    let first := if next < back then old else max old (next - back)
    let n := min ((pw p 2).toNat / 32) (next - first)
    let recs := (List.range n).filterMap fun i => t.errAt (BitVec.ofNat 64 (first + i))
    errlogReadFault (s.opened .errlogRead p) t = none →
    exec (.errlogRead p) s = .next (carried (s.opened .errlogRead p)
      (.done ⟨.ok, 0, wd n, wd first, wd next⟩, t.hostWrite (pd p 0) (recs.flatMap fun r => wsBytes (errWords r))))) ∧
  (∀ (s : State) (code : BitVec 16) (p : Packet), Fetches s (.unknown code) p → opOf code = .unknown code →
    exec (.unknownOpcodePacket code p) s = .next (carried (s.opened (.unknown code) p)
      (.done (rep .badOpcode 0), s.admitted (.unknown code) p)))

/-- The packets that define memory regions: a Cellar region that changes is stored and FILLING, a removal clears its entry, an attribute change that moves no byte is taken at once, and a Pantry region is stored with its flags and digest cleared (R290, R291, R298). -/
def Obligations.RegionPackets : Prop :=
  (∀ (s : State) (p : Packet), Takes s .memRegionSet p →
    let t := s.admitted .memRegionSet p
    let o := s.opened .memRegionSet p
    let r := fld (pw p 0) 0 6
    let base := pd p 1
    let size := pd p 3
    let same := t.celEn r = true ∧ t.celBase r = base ∧ t.celSize r = size ∧ (t.celAttr r ^^^ pw p 5) &&& celGeomMask = 0
    bit (pw p 0) 31 = false → t.celSetFault p = none →
    (bit (pw p 5) 31 = false → exec (.memRegionSet p) s =
      .next (carried o (.done repOk, (t.celPut r 0 0 0).setReg (kReg r + 0x14) 0))) ∧
    (bit (pw p 5) 31 = true → same → t.celFilling r = true → exec (.memRegionSet p) s =
      .next (carried o (.wait (.fill r), t.setReg (kReg r + 0x10) (pw p 5)))) ∧
    (bit (pw p 5) 31 = true → same → t.celFilling r = false → exec (.memRegionSet p) s =
      .next (carried o (.done repOk, t.setReg (kReg r + 0x10) (pw p 5)))) ∧
    (bit (pw p 5) 31 = true → ¬ same → exec (.memRegionSet p) s =
      .next (carried o (.wait (.fill r), (t.celPut r base size (pw p 5)).setReg (kReg r + 0x14) 0x40000000)))) ∧
  (∀ (s : State) (p : Packet), Takes s .memRegionSet p →
    let t := s.admitted .memRegionSet p
    let o := s.opened .memRegionSet p
    let r := fld (pw p 0) 0 8
    let en := bit (pw p 5) 31
    let larder := decide (aLarder ≤ pd p 1)
    bit (pw p 0) 31 = true → t.panLoading r = false → panSetFault o t = none →
    exec (.memRegionSetPantry p) s = .next (carried o (.done repOk,
      ((((t.setReg (kPR r) (wd (if en then pd p 1 - aPantry else 0))).setReg (kPR r + 4) (wd (if en then pd p 3 else 0))).setReg
        (kPR r + 8) (wd (b2n en * 2 ^ 31 + b2n (en && larder) * 2 ^ 25 + t.regF (kPR r + 8) 0 16))).each
          (List.range 16) fun s k => s.setReg (kPR r + 0x40 + 4 * k) 0))))

/-- The packets that move memory: once their checks pass, MEM_COPY and MEM_FILL run until their end is an event of its own, marked STARTED in the journal when source and destination overlap; ASSET_LOAD enters its region, LOADING, with SEALED, MEASURED, ALTERED and FAILED cleared; ASSET_UNSEAL clears SEALED (R80, R301, R330, R552). -/
def Obligations.MemoryPackets : Prop :=
  (∀ (s : State) (p : Packet), Takes s .memCopy p →
    let t := s.admitted .memCopy p
    let o := s.opened .memCopy p
    memOpFault o t = none → exec (.memCopy p) s =
      .next (carried o (.wait .memOp, if overlaps (pd p 0) (pd p 4) (pd p 2) (pd p 4) then t.jState o.idx .started else t))) ∧
  (∀ (s : State) (p : Packet), Takes s .memFill p →
    let t := s.admitted .memFill p
    let o := s.opened .memFill p
    memOpFault o t = none → exec (.memFill p) s = .next (carried o (.wait .memOp, t))) ∧
  (∀ (s : State) (p : Packet), Takes s .assetLoad p →
    let t := s.admitted .assetLoad p
    let o := s.opened .assetLoad p
    let r := fld (pw p 0) 0 8
    assetLoadFault o t = none → t.panLoading r = false → exec (.assetLoad p) s =
      .next (carried o (.wait (.load r), t.setReg (kPR r + 8) ((t.reg (kPR r + 8) &&& 0x83FFFFFF) ||| 0x08000000)))) ∧
  (∀ (s : State) (p : Packet), Takes s .assetUnseal p →
    let t := s.admitted .assetUnseal p
    let o := s.opened .assetUnseal p
    assetUnsealFault o t = none → exec (.assetUnseal p) s =
      .next (carried o (.done repOk, t.setB (kPR (fld (pw p 0) 0 8) + 8) 30 false)))

/-- The packets that stage a part of a head's set: the shadow registers take the packet's words and DIRTY sets, a reservation is asked for where the plane or the writeback needs one, and a COMMIT flag makes the commit request after the staging (R64, R96, R100, R148, R174, R175, R217, R237, R266, R314). -/
def Obligations.StagingPackets : Prop :=
  (∀ (s : State) (p : Packet), Takes s .headTiming p →
    let t := s.admitted .headTiming p
    let o := s.opened .headTiming p
    let w := pw p 0
    let h := fld w 0 5
    let counts : List Nat := (List.range 4).flatMap fun k => [fld (pw p (k + 1)) 0 14, fld (pw p (k + 1)) 16 14]
    headTimingFault o t = none → exec (.headTiming p) s = .next (carried o (commitAfter o [h] repOk
      ((((t.each counts.zipIdx fun s (e : Nat × Nat) => s.stage h (4 * e.2) (wd e.1)).stage h 0x20 (pw p 5)).stage h 0x24
        (wd (fld w 18 14 * 2 ^ 16) ||| flag 1 (bit w 7) ||| flag 0 (bit w 6))).stage h 0x28 (wd (fld w 8 10)))))) ∧
  (∀ (s : State) (p : Packet), Takes s .planeSet p →
    let t := s.admitted .planeSet p
    let o := s.opened .planeSet p
    let h := fld (pw p 0) 0 5
    let l := fld (pw p 0) 8 4
    let t' := t.each (planeRegs p).zipIdx fun s e => s.stage h e.1 (pw p (e.2 + 1))
    let own := if 8 ≤ l then bmEn (t'.shSet h) (l - 8) && decide (0 < bmW (t'.shSet h) (l - 8)) && decide (0 < bmH (t'.shSet h) (l - 8)) &&
        decide (bmFmt (t'.shSet h) (l - 8) < 6)
      else tpEn (t'.shSet h) l && tpCellar (t'.shSet h) l
    planeSetFault o t = none → exec (.planeSet p) s = .next (carried o (stageReserved o h own t t'))) ∧
  (∀ (s : State) (p : Packet), Takes s .spriteTable p →
    let t := s.admitted .spriteTable p
    let o := s.opened .spriteTable p
    let h := fld (pw p 0) 0 5
    bit (pw p 0) 8 = false → spriteTableFault o t = none → exec (.spriteTable p) s = .next (carried o (commitHeads o [h]
      ((((t.stage h 0x800 (pw p 0 &&& 0xFFFF0000)).stage h 0x804 (pw p 1)).stage h 0x808 (pw p 2)).stage h 0x80C (wd (fld (pw p 3) 0 13)))))) ∧
  (∀ (s : State) (p : Packet), Takes s .spriteTable p →
    let t := s.admitted .spriteTable p
    let o := s.opened .spriteTable p
    let hs := t.stagedIn (fld (pw p 0) 0 5)
    bit (pw p 0) 8 = true → spriteTableFault o t = none → exec (.spriteTableCanvas p) s = .next (carried o (commitHeads o hs
      (t.each hs fun s k => (((s.stage k 0x800 (pw p 0 &&& 0xFFFF0000)).stage k 0x804 (pw p 1)).stage k 0x808 (pw p 2)).stage k 0x80C
        (wd (fld (pw p 3) 0 13)))))) ∧
  (∀ (s : State) (p : Packet), Takes s .composeSet p →
    let t := s.admitted .composeSet p
    let o := s.opened .composeSet p
    let h := fld (pw p 0) 0 5
    composeSetFault o t = none → exec (.composeSet p) s = .next (carried o (commitAfter o [h] repOk
      (t.each composeRegs.zipIdx fun s e => s.stage h e.1.1 (pw p (e.2 + 1)))))) ∧
  (∀ (s : State) (p : Packet), Takes s .crcRectSet p →
    let t := s.admitted .crcRectSet p
    let o := s.opened .crcRectSet p
    let h := fld (pw p 0) 0 5
    let r := fld (pw p 0) 8 4
    crcRectSetFault o t = none → exec (.crcRectSet p) s = .next (carried o (commitAfter o [h] repOk
      ((((t.stage h (oRect r) (pw p 0 &&& 0x80003000)).stage h (oRect r + 4) (pw p 1)).stage h (oRect r + 8) (pw p 2)).stage h
        (oRect r + 12) (pw p 3))))) ∧
  (∀ (s : State) (p : Packet), Takes s .writebackSet p →
    let t := s.admitted .writebackSet p
    let o := s.opened .writebackSet p
    let h := fld (pw p 0) 0 5
    writebackSetFault o t = none → exec (.writebackSet p) s = .next (carried o (stageReserved o h (bit (pw p 0) 31) t
      ((((t.stage h 0xAC0 (pw p 0 &&& 0xFFFFFFE0)).stage h 0xAC4 (pw p 1)).stage h 0xAC8 (pw p 2)).stage h 0xACC (pw p 3)))))

/-- The packets that stage what they read from memory or stage on several heads: BEAM_LIST_SET stages a list that its checks pass, LUT_LOAD gives the table the entries read, CANVAS_SET gives each named head the canvas and its origin and takes every other member of the canvas out of it (R110, R199, R214). -/
def Obligations.ReadingPackets : Prop :=
  (∀ (s : State) (p : Packet) (bs : List Byte) (t' : State), Takes s .beamListSet p →
    let t := s.admitted .beamListSet p
    let o := s.opened .beamListSet p
    let h := fld (pw p 0) 0 5
    let n := fld (pw p 3) 0 16
    beamListSetFault o t = none → n ≠ 0 → t.devRead 1 h (pd p 1) (8 * n) = (.ok bs, t') →
    listFault (t'.shSet h) n (fun i => leNat ((bs.drop (8 * i)).take 8)) = none →
    exec (.beamListSet p) s = .next (carried o (commitAfter o [h] repOk
      (((t'.stage h 0x900 (pw p 1)).stage h 0x904 (pw p 2)).stage h 0x908 (wd n))))) ∧
  (∀ (s : State) (p : Packet), Takes s .beamListSet p →
    let t := s.admitted .beamListSet p
    let o := s.opened .beamListSet p
    let h := fld (pw p 0) 0 5
    beamListSetFault o t = none → fld (pw p 3) 0 16 = 0 →
    exec (.beamListSet p) s = .next (carried o (commitAfter o [h] repOk
      (((t.stage h 0x900 (pw p 1)).stage h 0x904 (pw p 2)).stage h 0x908 0)))) ∧
  (∀ (s : State) (p : Packet) (bs : List Byte) (t' : State), Takes s .lutLoad p →
    let t := s.admitted .lutLoad p
    let o := s.opened .lutLoad p
    let h := fld (pw p 0) 0 5
    let tab := fld (pw p 0) 8 2
    let es := if tab = 0 then 4 else 2
    lutLoadFault o t = none → t.devRead 1 h (pd p 1) (es * (pw p 4).toNat) = (.ok bs, t') →
    exec (.lutLoad p) s = .next (carried o (commitAfter o [h] repOk
      (t'.lutTake h tab (fld (pw p 0) 12 1) (pw p 3).toNat es (pw p 4).toNat bs)))) ∧
  (∀ (s : State) (p : Packet), Takes s .canvasSet p →
    let t := s.admitted .canvasSet p
    let o := s.opened .canvasSet p
    let c := fld (pw p 0) 0 3
    let named := (List.range 32).filter (bit (pw p 1))
    let leave := (t.stagedIn c).filter fun h => !bit (pw p 1) h
    canvasSetFault o t = none → exec (.canvasSet p) s = .next (carried o
      (commitHeads o ((List.range 32).filter fun h => named.contains h || leave.contains h)
        ((t.each named.zipIdx fun s e => (s.stage e.1 0x60 (wd (2 ^ 31 + c))).stage e.1 0x64 (pw p (2 + e.2))).each leave
          fun s h => s.stage h 0x60 (s.hd h 0x60 &&& 0x7FFFFFFF)))))

/-- The packets that run a head and its ports: HEAD_ENABLE commits the staged set, clears the head's counters and HD_FRAME, turns its PLL off its lock and lets the ports start; HEAD_DISABLE and HEAD_COMMIT wait for the boundary and the swap; ROUTE_SET stores the route that is to come, or switches the port off at once when nothing runs on it (R15, R101, R103, R119, R246). -/
def Obligations.HeadPackets : Prop :=
  (∀ (s : State) (p : Packet), Takes s .headEnable p →
    let t := s.admitted .headEnable p
    let o := s.opened .headEnable p
    let h := fld (pw p 0) 0 5
    let g := t.shSet h
    let r := t.rsvRequest h (headDemand g)
    let a := ((r.2.acceptSet h).clearCounts h).setW64 (kFrame h) 0
    let b := (a.setReg (kPll h) (a.reg (kPll h) &&& 0xFFFF)).setB (kHD h + 0xE54) 31 false
    headEnableFault o t = none → t.resumesStart o h = false →
    t.setCauses h g ++ t.canvasCause (fun x => decide (x = h)) h = [] → r.1 = true →
    exec (.headEnable p) s = .next (carried o (.wait (.start h), (((b.updHead h fun v =>
      { v with enabled := true, starting := true, restart := none, phase := .stopped, disabling := false,
               ig := { v.ig with crcs := [], raised := false } }).portsHeadOn h).jState o.idx .staged).recHead h))) ∧
  (∀ (s : State) (p : Packet), Takes s .headDisable p →
    let t := s.admitted .headDisable p
    let o := s.opened .headDisable p
    let h := fld (pw p 0) 0 5
    headDisableFault o t = none → exec (.headDisable p) s =
      .next (carried o (.wait (.bnd h), t.updHead h fun v => { v with disabling := true }))) ∧
  (∀ (s : State) (p : Packet), Takes s .headCommit p →
    let t := s.admitted .headCommit p
    let o := s.opened .headCommit p
    headCommitFault o t = none → exec (.headCommit p) s = .next (carried o (.wait (.swap (pw p 0) 0 0 false),
      (t.jState o.idx .staged).each ((List.range 32).filter (bit (pw p 0))) State.requestCommit))) ∧
  (∀ (s : State) (p : Packet), Takes s .routeSet p →
    let t := s.admitted .routeSet p
    let o := s.opened .routeSet p
    let q := fld (pw p 0) 0 5
    let runs := bit (pw p 1) 31 = true ∨ (t.routeEn q = true ∧ (t.head (t.routeSrc q)).enabled = true)
    bit (pw p 0) 8 = false → (t.port q).pend = none → routePortFault o t = none →
    (runs → exec (.routeSet p) s = .next (carried o (.wait (.route q), t.routePend q (pw p 1) (some o.acc)))) ∧
    (¬ runs → exec (.routeSet p) s = .next (carried o (.done repOk, t.routeOff q)))) ∧
  (∀ (s : State) (p : Packet), Takes s .routeSet p →
    let t := s.admitted .routeSet p
    let o := s.opened .routeSet p
    let src := fld (pw p 1) 0 5
    bit (pw p 0) 8 = true → routeGenlockFault o t = none →
    ((t.head src).enabled = true → exec (.routeSetGenlock p) s = .next (carried o (.wait (.genlockOut src), t))) ∧
    ((t.head src).enabled = false → exec (.routeSetGenlock p) s = .next (carried o (.done repOk, t.setReg (kGl 0) (pw p 1)))))

/-- The three forms of MANTEL_SET pass the checks of the Foyer and of the Study and wait for the Mantel swap of their head (R226, R229, R230). -/
def Obligations.MantelPackets : Prop :=
  ∀ (s : State) (p : Packet), Takes s .mantelSet p →
    let t := s.admitted .mantelSet p
    let o := s.opened .mantelSet p
    let t' := carried o (.wait (.mantel (fld (pw p 0) 0 5)), t)
    mantelFoyer o t = none → mantelStudy o t = none →
    exec (.mantelSet p) s = .next t' ∧ exec (.mantelSetFields p) s = .next t' ∧ exec (.mantelSetDisable p) s = .next t'

/-- The packets of the rect engines and the Dumbwaiter: a rectangle queues for its engine, where its operation begins in its turn (R339); a chain starts on its first descriptor with its pace gap; a stop that finds its channel between descriptors halts it with the next descriptor's address, and waits for that point otherwise (R324, R328, R330, R338, R339, R356, R357). -/
def Obligations.EnginePackets : Prop :=
  (∀ (s : State) (p : Packet),
    let run (op : Nat) (o : Open) (t : State) : State :=
      let e := fld (pw p 0) 0 2
      carried o (.wait (.rect e), t.setRect e { t.rect1 e with queue := (t.rect1 e).queue ++ [(o.acc, wd op :: p.p)] })
    (Takes s .rectFill p → (s.admitted .rectFill p).rectBeginFault 0 (s.opened .rectFill p) = none →
      exec (.rectFill p) s = .next (run 0 (s.opened .rectFill p) (s.admitted .rectFill p))) ∧
    (Takes s .rectCopy p → (s.admitted .rectCopy p).rectBeginFault 1 (s.opened .rectCopy p) = none →
      exec (.rectCopy p) s = .next (run 1 (s.opened .rectCopy p) (s.admitted .rectCopy p))) ∧
    (Takes s .rectConvert p → (s.admitted .rectConvert p).rectBeginFault 2 (s.opened .rectConvert p) = none →
      exec (.rectConvert p) s = .next (run 2 (s.opened .rectConvert p) (s.admitted .rectConvert p)))) ∧
  (∀ (s : State) (p : Packet), Takes s .dmaChainStart p →
    let t := s.admitted .dmaChainStart p
    let o := s.opened .dmaChainStart p
    let c := fld (pw p 0) 0 6
    dmaChainStartFault o t = none → exec (.dmaChainStart p) s = .next (carried o (.wait (.dmaRun c),
      ((t.setReg (kDw c + 0x30) (wd (fld (pw p 0) 16 16))).setDw c { dwtInit with fetch := some (pd p 1) }).dwSetRun c true))) ∧
  (∀ (s : State) (p : Packet), Takes s .dmaStop p →
    let t := s.admitted .dmaStop p
    let o := s.opened .dmaStop p
    let c := fld (pw p 0) 0 6
    dmaStopFault o t = none →
    (∀ a, t.dwBetween c = some a → exec (.dmaStop p) s =
      .next (carried o (.done ⟨.ok, 0, wd a, wd (a / 2 ^ 32), 0⟩, t.dwHalt c .stopped a))) ∧
    (t.dwBetween c = none → exec (.dmaStop p) s =
      .next (carried o (.wait (.dmaHalt c), (t.setB (kDw c + 4) 29 true).setB (kDw c) 30 true))))

/-- The packets of the Music Room: VOICE_START arms its voice with the registers it carries, VOICE_STOP stops or ramps it at a sample boundary, VOICE_PARAM queues a change for the next one, MIX_GRAPH_LOAD and MIX_PARAM_SET change the staged program, MIX_COMMIT requests it, and AUDIO_PORT_SET takes effect at the next sample boundary (R370, R373, R374, R384, R385, R386, R390, R391, R394). -/
def Obligations.MusicPackets : Prop :=
  (∀ (s : State) (p : Packet), Takes s .voiceStart p →
    let t := s.admitted .voiceStart p
    let o := s.opened .voiceStart p
    let v := fld (pw p 0) 0 10
    voiceStartFault o t = none → exec (.voiceStart p) s = .next (carried o (.done repOk,
      (((t.setVoice v { t.voice v with arm := some (pw p 1 :: pw p 2 :: startBlock p), event := none }).setReg (kVc v + 0x24) (pw p 1)).setReg
        (kVc v + 0x28) (pw p 2)).setB (kVstat v) 30 true))) ∧
  (∀ (s : State) (p : Packet), Takes s .voiceStop p →
    let t := s.admitted .voiceStop p
    let o := s.opened .voiceStop p
    let v := fld (pw p 0) 0 10
    let x := t.voice v
    let ramped := { x with stopRamp := some (x.stopRamp.getD 64), gl0 := x.gl, gr0 := x.gr, gl1 := 0, gr1 := 0, rampN := 64, rampK := 0 }
    voiceStopFault o t = none → (t.playing v = true ∨ t.voiceArmed v = true) →
    (bit (pw p 0) 31 = true ∧ t.playing v = true → exec (.voiceStop p) s = .next (carried o (.wait .smp,
      t.setVoice v { ramped with stopAccs := ramped.stopAccs ++ [o.acc] }))) ∧
    (¬ (bit (pw p 0) 31 = true ∧ t.playing v = true) → exec (.voiceStop p) s = .next (carried o (.wait .smp,
      t.setVoice v { x with stopNow := true, stopAccs := x.stopAccs ++ [o.acc] })))) ∧
  (∀ (s : State) (p : Packet), Takes s .voiceParam p →
    let t := s.admitted .voiceParam p
    let o := s.opened .voiceParam p
    let v := fld (pw p 0) 0 10
    voiceParamFault o t = none → exec (.voiceParam p) s = .next (carried o (.wait .smp,
      t.setVoice v { t.voice v with changes := (t.voice v).changes ++ [(some o.acc, (List.range 6).map fun k => pw p (1 + k))] }))) ∧
  (∀ (s : State) (p : Packet) (bs : List Byte) (t' : State), Takes s .mixGraphLoad p →
    let t := s.admitted .mixGraphLoad p
    let o := s.opened .mixGraphLoad p
    t.mus.fadeLeft = 0 → mixGraphLoadFault o t = none → t.devRead 0x0B 0 (pd p 0) (pw p 2).toNat = (.ok bs, t') →
    exec (.mixGraphLoad p) s = .next (carried o (t'.mixGraphIn (pw p 2).toNat (bit (pw p 3) 0) bs))) ∧
  (∀ (s : State) (p : Packet), Takes s .mixParamSet p →
    let t := s.admitted .mixParamSet p
    let o := s.opened .mixParamSet p
    let p1 := pw p 1
    let i := (t.mus.staged.recs.findIdx? fun r => decide (rId r = fld (pw p 0) 0 8)).getD 0
    let upd (r : List Word) : List Word := (List.range (fld p1 16 4)).foldl
      (fun (r : List Word) k => r.set (5 + fld p1 24 4 + k) (pw p (2 + k))) (r.set 0 (paramWord0 (rw r 0) p1))
    t.mus.fadeLeft = 0 → mixParamSetFault o t = none → exec (.mixParamSet p) s = .next (carried o (.done repOk,
      { t with mus := { t.mus with staged := { t.mus.staged with recs := t.mus.staged.recs.modify i upd } } }))) ∧
  (∀ (s : State) (p : Packet), Takes s .mixCommit p →
    let t := s.admitted .mixCommit p
    let o := s.opened .mixCommit p
    t.mus.fadeLeft = 0 → mixCommitFault o t = none → exec (.mixCommit p) s = .next (carried o (.wait .smp,
      { t.setB kMStat 27 true with mus := { t.mus with commitReq := true, commitAccs := t.mus.commitAccs ++ [o.acc] } }))) ∧
  (∀ (s : State) (p : Packet), Takes s .audioPortSet p →
    let t := s.admitted .audioPortSet p
    let o := s.opened .audioPortSet p
    let later (k : Nat) : State := carried o (.wait .smp,
      { t with mus := { t.mus with portNew := t.mus.portNew ++ [(k, pw p 1)], portAccs := t.mus.portAccs ++ [o.acc] } })
    let q := fld (pw p 0) 0 5
    (fld (pw p 0) 8 2 = 0 → audioP0 o t = none → tdmBad (pw p 1) = false → exec (.audioPortSet p) s = .next (later q)) ∧
    (fld (pw p 0) 8 2 = 1 → audioP0 o t = none → t.headPresent q = true → dpBad (pw p 1) = false →
      exec (.audioPortSetDp p) s = .next (later (32 + q))) ∧
    (fld (pw p 0) 8 2 = 2 → audioP0 o t = none → audioPortClockFault o t = none → exec (.audioPortSetClock p) s =
      .next (carried o (.wait .smp, { t with mus := { t.mus with clockNew := some (pw p 1), portAccs := t.mus.portAccs ++ [o.acc] } }))))

/-- The packets of the time base and the pin sequencers: a compare is armed with its value, relative to now where REL says so, or disarmed; a capture is configured; a program, slot table, configuration or injection is stored; a start marks the channels that start at their period, and a stop the channels that stop (R447, R450, R463, R464, R465). -/
def Obligations.PinPackets : Prop :=
  (∀ (s : State) (p : Packet), Takes s .timerCompareArm p →
    let t := s.admitted .timerCompareArm p
    let o := s.opened .timerCompareArm p
    let k := (pw p 0).toNat
    let v := dw (pw p 1) (pw p 2)
    timerCompareArmFault o t = none →
    (bit (pw p 3) 31 = false → exec (.timerCompareArm p) s = .next (carried o (.done repOk,
      t.armCompare k (if bit (pw p 3) 2 then t.now + v else v) (fld (pw p 3) 0 2)))) ∧
    (bit (pw p 3) 31 = true → t.regB (kCmp k + 8) 31 = true → exec (.timerCompareArm p) s =
      .next (carried o (.done repOk, t.setB (kCmp k + 8) 31 false)))) ∧
  (∀ (s : State) (p : Packet), Takes s .timerCaptureSet p →
    let t := s.admitted .timerCaptureSet p
    let o := s.opened .timerCaptureSet p
    timerCaptureSetFault o t = none → exec (.timerCaptureSet p) s = .next (carried o (.done repOk,
      t.capSet (fld (pw p 0) 0 5) (pw p 1) (fld (pw p 0) 8 8)))) ∧
  (∀ (s : State) (p : Packet), Takes s .pinseqLoad p →
    let t := s.admitted .pinseqLoad p
    let o := s.opened .pinseqLoad p
    let form := fld (pw p 0) 24 2
    let i := psqLoadCh o
    let words := List.range (p.len.toNat - 5)
    psqLoadChecks o t form = none →
    (form = 0 → exec (.pinseqLoad p) s = .next (carried o (.done repOk,
      t.each words fun s j => s.setReg (kPw i (fld (pw p 0) 16 6 + j)) (pw p (j + 1))))) ∧
    (form = 1 → exec (.pinseqLoadSlot p) s = .next (carried o (.done repOk,
      t.each words fun s j => s.setReg (kSlot (fld (pw p 0) 0 2) (fld (pw p 0) 16 6 + j)) (pw p (j + 1))))) ∧
    (form = 2 → exec (.pinseqLoadConfig p) s = .next (carried o (.done repOk,
      ((t.setReg (kPc i + 4) (pw p 1)).setReg (kPc i + 8) (pw p 2)).setPsqCh i { t.psqCh i with
        cfgNew := ((t.setReg (kPc i + 4) (pw p 1)).setReg (kPc i + 8) (pw p 2)).psqRun i }))) ∧
    (form = 3 → (bit (pw p 0) 26 && [7, 8, 9, 0xC].contains (fld (pw p 1) 28 4)) = false → t.psqRun i = true → (t.psqCh i).inj = [] → (t.psqCh i).ahead = none →
      exec (.pinseqLoadInject p) s = .next (carried o (.done repOk,
        t.setPsqCh i { t.psqCh i with inj := [(pw p 1, bit (pw p 0) 26)] })))) ∧
  (∀ (s : State) (p : Packet), Takes s .pinseqStart p →
    let t := s.admitted .pinseqStart p
    let o := s.opened .pinseqStart p
    let e := fld (pw p 0) 0 2
    let chs := t.psqStartable e (pw p 1)
    pinseqStartFault o t = none → chs ≠ [] → (∀ i ∈ chs, t.psqCause i chs = none) →
    exec (.pinseqStart p) s = .next (carried o (.wait (.pinStart e (chs.foldl (fun m i => m ||| flag (i % 32) true) 0)),
      t.each chs fun s i => (s.psqConfigure i).setPsqCh i { (s.psqConfigure i).psqCh i with starting := true }))) ∧
  (∀ (s : State) (p : Packet), Takes s .pinseqStop p →
    let t := s.admitted .pinseqStop p
    let o := s.opened .pinseqStop p
    let e := fld (pw p 0) 0 2
    let chs := (List.range 32).filter fun c => bit (pw p 1) c && (t.psqRun (32 * e + c) || (t.psqCh (32 * e + c)).starting)
    let m := chs.foldl (fun m c => m ||| flag c true) 0
    pinseqStopFault o t = none → m ≠ 0 → exec (.pinseqStop p) s = .next (carried o (.wait (.pinStop e m),
      t.each chs fun s c => s.setPsqCh (32 * e + c) { s.psqCh (32 * e + c) with stopping := true })))

/-- The packets of the Nioft cores: a load whose header is sound clears the core's memories and waits for its end, a start sets the core running at its entry with its registers cleared, and a stop of a running core waits for its halt (R426, R427, R429). -/
def Obligations.CorePackets : Prop :=
  (∀ (s : State) (p : Packet) (bs : List Byte) (t' : State), Takes s .nioftLoad p →
    let t := s.admitted .nioftLoad p
    let o := s.opened .nioftLoad p
    let n := fld (pw p 0) 0 4
    nioftLoadFault o t = none → t.devRead 0x0C n (pd p 1) 64 = (.ok bs, t') → (nioHeader bs (pw p 3).toNat).isSome = true →
    exec (.nioftLoad p) s = .next (carried o (.wait (.nioftLoad n), t'.nioClear n))) ∧
  (∀ (s : State) (p : Packet), Takes s .nioftStart p →
    let t := s.admitted .nioftStart p
    let o := s.opened .nioftStart p
    nioftStartFault o t = none → exec (.nioftStart p) s =
      .next (carried o (.done repOk, t.nioStart (fld (pw p 0) 0 4) (fld (pw p 1) 0 14)))) ∧
  (∀ (s : State) (p : Packet), Takes s .nioftStop p →
    let t := s.admitted .nioftStop p
    let o := s.opened .nioftStop p
    let n := fld (pw p 0) 0 4
    nioftStopFault o t = none → t.coreRuns n = true → exec (.nioftStop p) s =
      .next (carried o (.wait (.nioftHalt n), t.nioStop n)))

/-- The packets of the Study: ATTEST_QUOTE writes a quote to the host buffer, BOOTLOG_READ writes the boot records from a sequence number on, RECEIPT_CONFIG sets how often a head gives receipts and starts their sequence anew, RECEIPT_READ writes the closed batches that fit (R278, R280, R477, R480). -/
def Obligations.StudyPackets : Prop :=
  (∀ (s : State) (p : Packet), Takes s .attestQuote p →
    let t := s.admitted .attestQuote p
    let o := s.opened .attestQuote p
    let q := t.quote (srcRing p.ring.val) (((pw p 10).toNat - 480) / 96) (wsBytes ((List.range 8).map (pw p)))
    480 ≤ (pw p 10).toNat → exec (.attestQuote p) s = .next (carried o (.done ⟨.ok, 0, wd q.length, 0, 0⟩, t.hostWrite (pd p 8) q))) ∧
  (∀ (s : State) (p : Packet), Takes s .bootlogRead p →
    let t := s.admitted .bootlogRead p
    let o := s.opened .bootlogRead p
    let l := (t.bootRecords.filter fun r => decide ((pw p 3).toNat ≤ recSeq r)).take ((pw p 2).toNat / 1024)
    bootlogReadFault o t = none →
    exec (.bootlogRead p) s = .next (carried o (.done ⟨.ok, 0, wd l.length, 0, 0⟩, t.hostWrite (pd p 0) l.flatten))) ∧
  (∀ (s : State) (p : Packet), Takes s .receiptConfig p →
    let t := s.admitted .receiptConfig p
    let o := s.opened .receiptConfig p
    let h := fld (pw p 0) 0 5
    let n := fld (pw p 1) 0 16
    receiptConfigFault o t = none → exec (.receiptConfig p) s = .next (carried o (.done repOk,
      (if t.reg (kEvery h) = 0 ∧ n ≠ 0 then (t.setW64 (kRseq h) 0).updIg h fun g => { g with start := true } else t).setReg
        (kEvery h) (wd n)))) ∧
  (∀ (s : State) (p : Packet), Takes s .receiptRead p →
    let t := s.admitted .receiptRead p
    let o := s.opened .receiptRead p
    let new := t.reg kBatchNew
    let first := max (pw p 3).toNat (t.reg kBatchOld).toNat
    let r := batchesOut (pd p 0) (pw p 2).toNat (new.toNat + 1 - first) first 0 0 t
    new ≠ 0xFFFFFFFF → (pw p 3).toNat ≤ new.toNat → r.1.2 = false → r.1.1 ≠ 0 →
    exec (.receiptRead p) s = .next (carried o (.done ⟨.ok, 0, wd r.1.1, wd first, new⟩, r.2)))

/-- The packets of power and reset: UNIT_RESET and POWER_STATE act in their commit point, TELEMETRY_CONFIG sets or removes the host ring and restarts its sequence, CLOCK_POLICY takes the bounds of the loop that it names (R91, R503, R504, R513, R520). -/
def Obligations.PowerPackets : Prop :=
  (∀ (s : State) (p : Packet), Takes s .unitReset p →
    unitResetFault (s.opened .unitReset p) (s.admitted .unitReset p) = none → exec (.unitReset p) s =
      .next (carried (s.opened .unitReset p) (.done repOk, s.admitted .unitReset p))) ∧
  (∀ (s : State) (p : Packet), Takes s .powerState p →
    powerStateFault (s.opened .powerState p) (s.admitted .powerState p) = none → exec (.powerState p) s =
      .next (carried (s.opened .powerState p) (.done repOk, s.admitted .powerState p))) ∧
  (∀ (s : State) (p : Packet), Takes s .telemetryConfig p →
    let t := s.admitted .telemetryConfig p
    let o := s.opened .telemetryConfig p
    let n := (pw p 2).toNat
    telemetryConfigFault o = none → exec (.telemetryConfig p) s = .next (carried o (.done repOk,
      { t with chm := { t.chm with ring := if n = 0 then none else some (BitVec.ofNat 64 (pd p 0), n), seq := 0 } }))) ∧
  (∀ (s : State) (p : Packet), Takes s .clockPolicy p →
    let t := s.admitted .clockPolicy p
    let o := s.opened .clockPolicy p
    let l := fld (pw p 0) 0 8
    let p1 := (pw p 1).toNat
    let p2 := (pw p 2).toNat
    outside p 0 0xFF = false →
    (l = 0 → 650 ≤ p1 → p1 ≤ p2 → 750 ≤ p2 → p2 ≤ 850 → exec (.clockPolicy p) s = .next (carried o
      (.done (rep .ok (b2n (t.regB kCHM 16))), t.setReg (kCHM + 0x100) (wd (p2 * 65536 + p1))))) ∧
    (l = 0x10 → 16 ≤ p1 → p1 ≤ p2 → p2 ≤ 64 →
      let t' := (t.setReg (kCHM + 0x104) (wd (p2 * 65536 + p1))).refreshAll
      exec (.clockPolicy p) s = .next (carried o (.done (rep .ok (b2n ((List.range 8).any fun c => t'.regB (kRate c) 31))), t'))) ∧
    (l = 0x20 → p1 = 0 → p2 ≤ 4096 → exec (.clockPolicy p) s = .next (carried o
      (.done (rep .ok (b2n ((t.throtBound p2).regB (kHAL + 0x300) 30))), t.throtBound p2))) ∧
    (∀ q, l = 0x60 + q → q < 32 → (t.absentPort q).1 = false → p1 < 16 → 0 < p2 → p2 < 65536 → exec (.clockPolicy p) s =
      .next (carried o (.done (rep .ok (b2n (t.regB (kCHM + 0x480) q))), t.setReg (kCHM + 0x400 + 4 * q) (wd (p1 * 65536 + p2))))) ∧
    (∀ h, l = 0x40 + h → h < 32 → t.headPresent h = true → -1000000 ≤ (pw p 1).toInt → (pw p 1).toInt ≤ (pw p 2).toInt →
      (pw p 2).toInt ≤ 1000000 → (t.glActive h && decide (t.leader h = h) && (decide ((t.head h).glDemand < (pw p 1).toInt) ||
        decide ((pw p 2).toInt < (t.head h).glDemand))) = false → exec (.clockPolicy p) s = .next (carried o (.done repOk,
        t.updHead h fun v => { v with pullNew := some ((pw p 1).toInt, (pw p 2).toInt) }))))

/-! ## The registers whose access acts -/

/-- The doorbell page of each of the 18 rings, written by its own function: a doorbell within the ring's size moves FOY_SQTAIL and another is discarded and recorded (R54); a FOY_CQHEAD write within the ring's size lets the held entries out that now fit (R62), another is discarded and recorded (R54); a FOY_RINGCFG write with EN on a stopped ring with sound sizes, a FOY_SQSEQ below 2^63 and no journal entry starts it, SQHEAD and CQTAIL taking SQTAIL and CQHEAD and ACCEPTED and COMPLETED taking FOY_SQSEQ - 1; a write without EN on a running ring with the sizes it has stops it (R52). -/
def Obligations.RingRegisters : Prop :=
  (∀ (s : State) (n : Fin 18) (v : Word), s.answers = true → s.ready = true →
    (v - s.reg (kSqHead n.val)).toNat ≤ s.sqWords n.val →
    exec (.doorbell n v) s = .next (s.setReg (kSqTail n.val) v).pump) ∧
  (∀ (s : State) (n : Fin 18) (v : Word), s.answers = true → s.ready = true →
    s.sqWords n.val < (v - s.reg (kSqHead n.val)).toNat →
    exec (.doorbell n v) s = .next (s.wdrop 1 0).pump) ∧
  (∀ (s : State) (n : Fin 18) (v : Word), s.answers = true → s.ready = true →
    (s.reg (kCqTail n.val) - v).toNat ≤ s.cqEntries n.val →
    exec (.foyCqheadWrite n v) s = .next ((s.setReg (kCqHead n.val) v).releaseHeld n.val).pump) ∧
  (∀ (s : State) (n : Fin 18) (v : Word), s.answers = true → s.ready = true →
    s.cqEntries n.val < (s.reg (kCqTail n.val) - v).toNat →
    exec (.foyCqheadWrite n v) s = .next (s.wdrop 1 4).pump) ∧
  (∀ (s : State) (n : Fin 18) (v : Word), s.answers = true → s.ready = true →
    s.regB (kRingCfg n.val) 31 = false → bit v 31 = true → fld v 0 4 ≤ 8 → fld v 8 4 ≤ 8 → s.regB (kSqSeq n.val + 4) 31 = false →
    (s.foy.journal.all fun e => match e.2 with | some x => decide (x.ring ≠ n.val) | none => true) = true →
    ∃ t : State, exec (.foyRingcfgWrite n v) s = .next t.pump ∧
      t.reg (kRingCfg n.val) = (v &&& 0x0F0F) ||| 0x80000000 ∧ t.regB (kRingStat n.val) 31 = true ∧ t.regF (kRingStat n.val) 0 8 = 0 ∧
      t.reg (kSqHead n.val) = s.reg (kSqTail n.val) ∧ t.reg (kCqTail n.val) = s.reg (kCqHead n.val) ∧
      t.w64 (kAccepted n.val) = dw (s.reg (kSqSeq n.val)) (s.reg (kSqSeq n.val + 4)) - 1 ∧
      t.w64 (kCompleted n.val) = dw (s.reg (kSqSeq n.val)) (s.reg (kSqSeq n.val + 4)) - 1) ∧
  (∀ (s : State) (n : Fin 18) (v : Word), s.answers = true → s.ready = true →
    s.regB (kRingCfg n.val) 31 = true → bit v 31 = false → v &&& 0x0F0F = s.reg (kRingCfg n.val) &&& 0x0F0F →
    exec (.foyRingcfgWrite n v) s = .next ((s.setB (kRingCfg n.val) 31 false).setB (kRingStat n.val) 31 false).pump)

/-- Accesses by access code.  A full-word write of an RWS register of a head stages its value, of an active copy sets what the output uses at once, of a W1C register clears the bits written as 1, of a plain register of a rect engine or a Dumbwaiter channel stores the bits it has (R36); one whose code lets nothing be written, and one of a unit under basic control, is discarded and recorded with its unit and offset (R36, R38, R39); a narrow or misaligned write is discarded and recorded and writes nothing, or refused where no unit is mapped (R29, R34).  A read takes the addressed bytes of the word (R34); of a LO register it latches the HI half of the same instant in the register above it (R35); where no unit is mapped it is refused and answers all ones (R29). -/
def Obligations.RegisterAccesses : Prop :=
  (∀ (s : State) (m : Master) (h : Fin 32) (o : Nat) (v : Word), s.drives m (0x10 + h.val) = true → o ∈ rwsOffs →
    exec (.registerWrite m (bar0At (kHD h.val + o)) .word v) s = .next (s.stage h.val o (v &&& rwsMask o)).pump) ∧
  (∀ (s : State) (m : Master) (h : Fin 32) (o : Nat) (v : Word), s.drives m (0x10 + h.val) = true → o ∈ rwbOffs →
    exec (.registerWrite m (bar0At (kHD h.val + (0x1000 + o))) .word v) s = .next (s.hostActive h.val (0x1000 + o) v).pump) ∧
  (∀ (s : State) (h : Fin 32) (e : Nat × Word) (v : Word), s.answers = true → s.pageAbsent (0x10 + h.val) = false →
    e ∈ [(0x44, (0x30000000 : Word)), (0x700, 0xFF), (0x810, 0x38000000), (0x910, 0x1F800000), (0xE44, 0x3FFFF)] →
    exec (.registerWrite .pf0 (bar0At (kHD h.val + e.1)) .word v) s = .next (s.w1c (kHD h.val + e.1) e.2 v).pump) ∧
  (∀ (s : State) (m : Master) (k : Fin 4) (e : Nat × Word) (v : Word), s.drives m 10 = true →
    e ∈ [(0x04, (0xFFFFFFFF : Word)), (0x08, 0xFF), (0x0C, 0xFFFFF), (0x10, 0xFFFFFFFF), (0x14, 0xFF), (0x18, 0xFFFFF), (0x1C, 0x3FFF3FFF),
      (0x20, 0xFFFFFFFF), (0x24, 0xFFFFFFFF), (0x28, 0xFFFF), (0x2C, 0x3FFF)] →
    exec (.registerWrite m (bar0At (kRct k.val + e.1)) .word v) s = .next (s.setReg (kRct k.val + e.1) (v &&& e.2)).pump) ∧
  (∀ (s : State) (m : Master) (c : Fin 64) (e : Nat × Word) (v : Word), s.drives m 9 = true →
    e ∈ [(0x08, (0xFFFFFFE0 : Word)), (0x0C, 0xFF), (0x30, 0xFFFF)] →
    exec (.registerWrite m (bar0At (kDw c.val + e.1)) .word v) s = .next (s.setReg (kDw c.val + e.1) (v &&& e.2)).pump) ∧
  (∀ (s t : State) (off : BitVec 24) (v : Word), let u := off.toNat / 0x10000
    off.toNat % 4 = 0 → pageMapped u = true → u < 0x40 → s.drives .pf0 u = true →
    s.pageWrite u (off.toNat % 0x10000) v = some t →
    exec (.registerWrite .pf0 (.bar0 off) .word v) s = .next t.pump) ∧
  (∀ (s : State) (off : BitVec 24) (v : Word), let u := off.toNat / 0x10000
    off.toNat % 4 = 0 → pageMapped u = true → u < 0x40 → s.drives .pf0 u = true →
    s.pageWrite u (off.toNat % 0x10000) v = none →
    exec (.registerWrite .pf0 (.bar0 off) .word v) s = .next (s.wdrop u (off.toNat % 0x10000)).pump) ∧
  (∀ (s : State) (off : BitVec 24) (v : Word), let u := off.toNat / 0x10000
    off.toNat % 4 = 0 → pageMapped u = true → u < 0x40 → s.answers = true → s.pageAbsent u = false →
    s.expert u = false → basicWrite u (off.toNat % 0x10000) = false →
    exec (.registerWrite .pf0 (.bar0 off) .word v) s = .next (s.wdrop u (off.toNat % 0x10000)).pump) ∧
  (∀ (s : State) (off : BitVec 24) (w : Width) (v : Word), s.answers = true → (w = .narrow ∨ off.toNat % 4 ≠ 0) →
    (pageMapped (off.toNat / 0x10000) = true →
      exec (.registerWrite .pf0 (.bar0 off) w v) s = .next (s.wdrop (dropAt (.bar0 off)).1 (dropAt (.bar0 off)).2).pump) ∧
    (pageMapped (off.toNat / 0x10000) = false →
      exec (.registerWrite .pf0 (.bar0 off) w v) s = .next (s.refusedAccess uHost (aRegs + off.toNat)).pump)) ∧
  (∀ (s : State) (m : Master) (off : BitVec 24) (size : ReadSize), let u := off.toNat / 0x10000
    let k := off.toNat / 4 * 4
    pageMapped u = true → u < 0x40 → s.views m u = true → wideReg u (k % 0x10000) = true → writeOnly u (k % 0x10000) = false →
    exec (.loRegisterRead m ⟨.bar0 off, size⟩) s =
      .next ((s.setReg (k + 4) (hi32 (s.w64 k))).answer [readPart size off.toNat (lo32 (s.w64 k))]).pump) ∧
  (∀ (s : State) (m : Master) (off : BitVec 24) (size : ReadSize), off.toNat / 0x10000 = 10 → s.views m 10 = true →
    exec (.loRegisterRead m ⟨.bar0 off, size⟩) s = .next (s.answer [readPart size off.toNat (s.reg (off.toNat / 4 * 4))]).pump) ∧
  (∀ (s : State) (m : Master) (off : BitVec 24) (size : ReadSize), s.answers = true → m ≠ .pf1 → pageMapped (off.toNat / 0x10000) = false →
    exec (.loRegisterRead m ⟨.bar0 off, size⟩) s =
      .next ((s.refusedAccess (masterUnit m) (aRegs + off.toNat / 4 * 4)).answer [readPart size off.toNat 0xFFFFFFFF]).pump)

/-- The GLB page and BAR2: a feature commit of an unlocked set with READY makes the commit and a locked one is discarded and recorded (R72); a read of GLB_SYNC, of value 0, comes back once every BAR2 write issued before it is visible (R43); a BAR2 write that the window allows is on its way (R42, R43) and one that it does not is refused and recorded; a BAR2 read that is not allowed answers all ones (R42). -/
def Obligations.WindowRows : Prop :=
  (∀ (s : State) (v : Word), s.answers = true → s.pageAbsent 0 = false → s.featLocked = false → s.ready = true →
    exec (.glbFeatCommit v) s = .next s.featCommit.pump) ∧
  (∀ (s : State) (v : Word), s.answers = true → s.pageAbsent 0 = false → s.featLocked = true →
    exec (.glbFeatCommit v) s = .next (s.wdrop 0 0x140).pump) ∧
  (∀ s : State, s.bar2Flush.answers = true → s.answers = true → s.bar2Flush.pageAbsent 0 = false →
    exec .glbSyncRead s = .next (s.bar2Flush.answer [s.bar2Flush.reg 0x1C]).pump) ∧
  (∀ (s : State) (off : BitVec 28) (bs : List Byte), s.answers = true → bs ≠ [] → let a := s.bar2Addr off.toNat
    (s.bar2Open off.toNat bs.length && s.bar2May (s.hostPlace a bs.length) true) = true →
    exec (.bar2Write off bs) s = .next { s with posted := s.posted ++ [(a, bs)] }) ∧
  (∀ (s : State) (off : BitVec 28) (bs : List Byte), s.answers = true → bs ≠ [] → let a := s.bar2Addr off.toNat
    (s.bar2Open off.toNat bs.length && s.bar2May (s.hostPlace a bs.length) true) = false →
    exec (.bar2Write off bs) s = .next (s.refusedAccess uHost a)) ∧
  (∀ (s : State) (off : BitVec 28) (n : Nat), s.answers = true → let t := s.bar2Flush
    let a := t.bar2Addr off.toNat
    let p := t.hostPlace a n
    (t.bar2Open off.toNat n && t.bar2May p false) = true →
    (codewords ((t.celWake p a n).grain p) a n).all (fun c => decide ((t.celWake p a n).code c = .good)) = true →
    exec (.bar2Read off n) s =
      .next { t.celWake p a n with readData := toWords ((t.celWake p a n).bytes a n), readPoison := false }.pump) ∧
  (∀ (s : State) (off : BitVec 28) (n : Nat), s.answers = true → let t := s.bar2Flush
    let a := t.bar2Addr off.toNat
    (t.bar2Open off.toNat n && t.bar2May (t.hostPlace a n) false) = false →
    exec (.bar2Read off n) s =
      .next { t.refusedAccess uHost a with readData := toWords (List.replicate n 0xFF), readPoison := false }.pump)

/-- BAR2 offset o reaches device address BASE × 2^28 + o: a BASE up to 0x7FF leads into the Cellar, BASE 0x800 into the Pantry below offset 0x400_0000 and the Larder below 0x500_0000 with nothing beyond, any other BASE leaves the whole window unmapped, so that a read of it answers all ones with the record of a refused access, and the reset value 0xFFF leaves it closed (R41). -/
def Obligations.WindowAddress : Prop :=
  (∀ (s : State) (off : BitVec 28) (n : Nat), 0 < n → off.toNat + n ≤ 2 ^ 28 → let b := s.regF 0x18 0 12
    let a := s.bar2Addr off.toNat
    a = b * 2 ^ 28 + off.toNat ∧
    (b ≤ 0x7FF → s.bar2Open off.toNat n = true ∧ a + n ≤ aPantry ∧ s.hostPlace a n = s.place a n) ∧
    (b = 0x800 → s.bar2Open off.toNat n = true ∧
      (off.toNat + n ≤ 0x4000000 → a = aPantry + off.toNat ∧ s.hostPlace a n = .pantry 0) ∧
      (0x4000000 ≤ off.toNat → off.toNat + n ≤ 0x5000000 → a = aLarder + (off.toNat - 0x4000000) ∧ s.hostPlace a n = .larder 0) ∧
      (0x5000000 < off.toNat + n → s.hostPlace a n = .none)) ∧
    (0x800 < b → s.bar2Open off.toNat n = false)) ∧
  (∀ (s : State) (off : BitVec 28) (n : Nat), s.answers = true → 0x800 < s.bar2Flush.regF 0x18 0 12 → let t := s.bar2Flush
    exec (.bar2Read off n) s =
      .next { t.refusedAccess uHost (t.bar2Addr off.toNat) with readData := toWords (List.replicate n 0xFF), readPoison := false }.pump) ∧
  State.reset.regF 0x18 0 12 = 0xFFF

/-- The registers of a head and of the time base under expert control: GO on a head without a pending commit makes one, before its deadline or late with LATE, LATEWAIT and the count of late commits (R103, R104); a beam stamp leaves its FIFO with the registers beside it latched (R197); ARM samples the channel's value and flags as one set, a capture configuration is taken or refused with CFGERR (R454); the oldest capture leaves its FIFO, and an empty FIFO answers 0 (R452). -/
def Obligations.HeadAndTimeRegisters : Prop :=
  (∀ (s : State) (m : Master) (h : Fin 32) (v : Word), s.drives m (0x10 + h.val) = true → s.go h.val = false → s.goLate h.val = false →
    exec (.hdCommitGo m h v) s =
      .next ((s.setB (kHD h.val + 0x40) 0 true).updHead h.val fun x => { x with isLate := false, latePassed := false }).pump) ∧
  (∀ (s : State) (m : Master) (h : Fin 32) (v : Word), s.drives m (0x10 + h.val) = true → s.go h.val = false → s.goLate h.val = true →
    let t := s.setB (kHD h.val + 0x40) 0 true
    exec (.hdCommitGo m h v) s =
      .next (((t.setReg (kHD h.val + 0x44) (t.hd h.val 0x44 ||| 0x60000000)).incReg (kHD h.val + 0x48)).updHead h.val
        fun x => { x with isLate := true, latePassed := false }).pump) ∧
  (∀ (s : State) (m : Master) (h : Fin 32) (v : Word), s.drives m (0x10 + h.val) = true → s.go h.val = true →
    exec (.hdCommitGo m h v) s = .next s.pump) ∧
  (∀ (s : State) (m : Master) (h : Fin 32) (x : Stamp) (rest : List Stamp), s.views m (0x10 + h.val) = true →
    (s.head h.val).bs.stamps = x :: rest →
    exec (.hdBstsLoRead m h) s =
      .next (((((s.setReg (kHD h.val + 0x924) (hi32 x.time)).setReg (kHD h.val + 0x928)
        (wd (x.code * 2 ^ 28 + x.y % 2 ^ 14 * 2 ^ 14 + x.x % 2 ^ 14))).updBs h.val fun b => { b with stamps := rest }).setReg
          (kHD h.val + 0x92C) (wd rest.length)).answer [lo32 x.time]).pump) ∧
  (∀ (s : State) (m : Master) (h : Fin 32), s.views m (0x10 + h.val) = true → (s.head h.val).bs.stamps = [] →
    exec (.hdBstsLoRead m h) s = .next (((s.setReg (kHD h.val + 0x924) 0).setReg (kHD h.val + 0x928) 0).answer [0]).pump) ∧
  (∀ (s : State) (m : Master) (k : Fin 64) (v : Word), s.drives m 7 = true →
    let c := kCmp k.val
    exec (.tmbCmpArm m k v) s =
      .next ((((s.setReg (c + 8) (s.reg (c + 8) &&& ~~~ (v &&& 0x60000000))).setF (c + 8) 0 2 (fld v 0 2)).armCompare k.val
        (s.cmpReg k.val) (fld v 0 2)).pump)) ∧
  (∀ (s : State) (m : Master) (k : Fin 32) (v : Word), s.drives m 7 = true → s.capFault v = none →
    exec (.tmbCapcfgWrite m k v) s = .next (s.capSet k.val v (s.regF (kCap k.val + 4) 0 8)).pump) ∧
  (∀ (s : State) (m : Master) (k : Fin 32) (v : Word), s.drives m 7 = true → (s.capFault v).isSome = true →
    exec (.tmbCapcfgWrite m k v) s = .next (s.setB (kCap k.val + 8) 29 true).pump) ∧
  (∀ (s : State) (m : Master) (k : Fin 32) (x : Cap) (rest : List Cap), s.views m 7 = true → (s.cap k.val).fifo = x :: rest →
    ∃ t : State, exec (.tmbCaptLoRead m k) s = .next (t.answer [lo32 x.time]).pump ∧ t.cap k.val = ⟨rest, (s.cap k.val).pre⟩ ∧
      t.reg (kCap k.val + 0x10) = hi32 x.time ∧ t.reg (kCap k.val + 0x14) = lo32 x.frame ∧ t.reg (kCap k.val + 0x18) = hi32 x.frame) ∧
  (∀ (s : State) (m : Master) (k : Fin 32), s.views m 7 = true → (s.cap k.val).fifo = [] →
    let c := kCap k.val
    exec (.tmbCaptLoRead m k) s =
      .next (((((s.setReg (c + 0x10) 0).setReg (c + 0x14) 0).setReg (c + 0x18) 0).setReg (c + 0x1C) 0).answer [0]).pump)

/-- The registers of a pin sequencer channel: a word enters the feed FIFO until it holds eight and then OVF sets, the oldest sample leaves and an empty FIFO answers 0 (R459); an instruction is injected into a running channel, a write to a stopped one sets INJLOST, and RESUME clears either way (R460); PSQ_ESTART and PSQ_ESTOP start and stop the channels that their mask names (R467). -/
def Obligations.PinRegisters : Prop :=
  (∀ (s : State) (m : Master) (e : Fin 4) (c : Fin 32) (v : Word), let i := 32 * e.val + c.val
    s.drives m 8 = true → (s.psqCh i).fq.length < 8 →
    exec (.psqFqWrite m e c v) s = .next ((s.setPsqCh i { s.psqCh i with fq := (s.psqCh i).fq ++ [v] }).psqShow i).pump) ∧
  (∀ (s : State) (m : Master) (e : Fin 4) (c : Fin 32) (v : Word), let i := 32 * e.val + c.val
    s.drives m 8 = true → 8 ≤ (s.psqCh i).fq.length →
    exec (.psqFqWrite m e c v) s = .next (s.setB (kPc i) 24 true).pump) ∧
  (∀ (s : State) (m : Master) (e : Fin 4) (c : Fin 32) (w : Word) (rest : List Word), let i := 32 * e.val + c.val
    s.views m 8 = true → (s.psqCh i).sq = w :: rest →
    exec (.psqSqRead m e c) s = .next (((s.setPsqCh i { s.psqCh i with sq := rest }).psqShow i).answer [w]).pump) ∧
  (∀ (s : State) (m : Master) (e : Fin 4) (c : Fin 32), let i := 32 * e.val + c.val
    s.views m 8 = true → (s.psqCh i).sq = [] → exec (.psqSqRead m e c) s = .next (s.answer [0]).pump) ∧
  (∀ (s : State) (m : Master) (e : Fin 4) (c : Fin 32) (v : Word), let i := 32 * e.val + c.val
    let resume := s.regB (kPc i + 0x2C) 31
    s.drives m 8 = true → s.psqRun i = true → (resume && [7, 8, 9, 0xC].contains (fld v 28 4)) = false →
    exec (.psqInjWrite m e c v) s =
      .next ((s.setReg (kPc i + 0x2C) 0).setPsqCh i { s.psqCh i with inj := (s.psqCh i).inj ++ [(v, resume)] }).pump) ∧
  (∀ (s : State) (m : Master) (e : Fin 4) (c : Fin 32) (v : Word), let i := 32 * e.val + c.val
    s.drives m 8 = true → s.psqRun i = false →
    exec (.psqInjWrite m e c v) s = .next ((s.setReg (kPc i + 0x2C) 0).setB (kPc i) 26 true).pump) ∧
  (∀ (s : State) (m : Master) (e : Fin 4) (v : Word), s.drives m 8 = true →
    ((s.psqStartable e.val v).all fun i => (s.psqCause i (s.psqStartable e.val v)).isNone) = true →
    exec (.psqEstart m e v) s = .next (s.each (s.psqStartable e.val v) fun s i =>
      (s.psqConfigure i).setPsqCh i { (s.psqConfigure i).psqCh i with starting := true }).pump) ∧
  (∀ (s : State) (m : Master) (e : Fin 4) (v : Word), s.drives m 8 = true →
    exec (.psqEstop m e v) s = .next (s.each ((List.range 32).filter fun c => bit v c &&
        (s.psqRun (32 * e.val + c) || (s.psqCh (32 * e.val + c)).starting)) fun s c =>
      s.setPsqCh (32 * e.val + c) { s.psqCh (32 * e.val + c) with stopping := true }).pump)

/-- The Bell board's registers: a claim of a core, of PF1 and of PF0's target on the BEL page returns the source that is best for its target, ACT set and PEND cleared or, for a level source, equal to its input, and starts its group's hold-off timer when the group has a period and is not held; a claim with nothing to return counts it; software sources are set and cleared, a mask is written, and a core's kick restarts its watchdog (R404, R434, R436, R440, R441). -/
def Obligations.BellRegisters : Prop :=
  let taken (s : State) (i : Nat) : State :=
    let t := s.setSrc i { s.src i with act := true, pend := srcLevel i && (s.src i).inp }
    if t.held (t.planGrp i) || decide (t.regF (kIrqHold (t.planGrp i)) 0 16 = 0) then t else t.holdStart (t.planGrp i)
  let counted (s : State) (t : Nat) : State := s.setF (kTstat t) 0 16 (s.regF (kTstat t) 0 16 + 1)
  (∀ (s : State) (n : Fin 16) (i : Nat), s.answers = true → s.bestFor n.val = some i →
    exec (.belClaim (.core n)) s = .next ((taken s i).answer [wd i])) ∧
  (∀ (s : State) (n : Fin 16), s.answers = true → s.bestFor n.val = none →
    exec (.belClaim (.core n)) s = .next ((counted s n.val).answer [0])) ∧
  (∀ (s : State) (i : Nat), s.answers = true → s.bestFor 17 = some i →
    exec (.belClaim .pf1) s = .next ((taken s i).answer [wd i]).pump) ∧
  (∀ (s : State) (m : Master) (i : Nat), s.views m 2 = true → s.bestFor 16 = some i →
    exec (.belClaim (.page m 16)) s = .next ((taken s i).answer [wd i]).pump) ∧
  (∀ (s : State) (m : Master) (t : Fin 18), s.views m 2 = true → t ≠ 16 →
    exec (.belClaim (.page m t)) s = .next (s.answer [0]).pump) ∧
  (∀ (s : State) (k : Fin 2) (v : Word), s.answers = true → s.pageAbsent 0 = false →
    exec (.glbIrqswset .pf0 k v) s =
      .next (s.each ((List.range 32).filter fun j => bit v j) fun s j => s.level (960 + 32 * k.val + j) true).pump ∧
    exec (.glbIrqswclr .pf0 k v) s =
      .next (s.each ((List.range 32).filter fun j => bit v j) fun s j => s.level (960 + 32 * k.val + j) false).pump) ∧
  (∀ (s : State) (k : Fin 32) (v : Word), s.answers = true → s.pageAbsent 0 = false →
    exec (.glbIrqmaskWrite .pf0 k v) s = .next (s.maskWrite k.val v).pump) ∧
  (∀ (s : State) (n : Fin 16) (v : Word), s.answers = true →
    exec (.ccsWdtkick n v) s = .next (s.wdogKick n.val))

/-- The complete registers of a core, of PF1 and of target 16 on the BEL page: a DONE clears ACT of a source that is active on this target and delivers it again if it has become deliverable, any other non-zero ID sets BADDONE of the writing target, and a DONE of 0 is ignored (R437). -/
def Obligations.DoneRegisters : Prop :=
  ∀ (s : State) (v : Word), s.answers = true → let i := fld v 0 10
    let done := (s.setSrc i { s.src i with act := false }).notify s i
    let bad (t : Nat) := s.setB (kTstat t) 31 true
    (∀ n : Fin 16,
      (i = 0 → exec (.belDone (.core n) v) s = .next s) ∧
      (i ≠ 0 → (s.src i).act = true → s.planTarget i = n.val → exec (.belDone (.core n) v) s = .next done) ∧
      (i ≠ 0 → ((s.src i).act = false ∨ s.planTarget i ≠ n.val) → exec (.belDone (.core n) v) s = .next (bad n.val))) ∧
    (i = 0 → exec (.belDone .pf1 v) s = .next s.pump) ∧
    (i ≠ 0 → (s.src i).act = true → s.planTarget i = 17 → exec (.belDone .pf1 v) s = .next done.pump) ∧
    (i ≠ 0 → ((s.src i).act = false ∨ s.planTarget i ≠ 17) → exec (.belDone .pf1 v) s = .next (bad 17).pump) ∧
    (∀ m : Master, m ≠ .pf1 → s.pageAbsent 2 = false →
      (i = 0 → exec (.belDone (.page m 16) v) s = .next s.pump) ∧
      (i ≠ 0 → (s.src i).act = true → s.planTarget i = 16 → exec (.belDone (.page m 16) v) s = .next done.pump) ∧
      (i ≠ 0 → ((s.src i).act = false ∨ s.planTarget i ≠ 16) → exec (.belDone (.page m 16) v) s = .next (bad 16).pump))

/-- The control registers of the engines under expert control: a rect engine and a Dumbwaiter channel that are busy note the GO as lost; a sound set of an idle engine runs, an empty one ends at once with OK_EMPTY, and a bad format leaves the set sampled before it and notes the mismatch (R341); an idle channel starts at an aligned descriptor address inside the regions, and halts with the cause at another; a stop between descriptors halts at once and a stop within one is remembered, a software request is latched by a paced descriptor (R354, R359); a sound set of a stopped Parlour core is measured and started, a core that runs notes the GO as lost, and a stop halts it (R429); the Music Room notes a voice start, a voice stop and a commit request (R396). -/
def Obligations.EngineRegisters : Prop :=
  (∀ (s : State) (m : Master) (e : Fin 4) (v : Word), s.drives m 10 = true → s.regB (kRct e.val + 0x30) 31 = true →
    exec (.rctGo m e v) s =
      .next ((s.setReg (kRct e.val) ((s.reg (kRct e.val) &&& 0x80000000) ||| (v &&& 0x1CFF))).setB (kRct e.val + 0x30) 27 true).pump) ∧
  (∀ (s : State) (m : Master) (e : Fin 4) (v : Word), let k := kRct e.val
    let t := s.setReg k ((s.reg k &&& 0x80000000) ||| (v &&& 0x1CFF))
    let r : RectSet := { op := fld v 10 2, dfmt := fld v 0 4, sfmt := fld v 4 4, keyen := bit v 12 && decide (fld v 10 2 = 1)
                         dst := t.addr40 (k + 4), dpitch := t.regF (k + 0xC) 0 20, src := t.addr40 (k + 0x10), spitch := t.regF (k + 0x18) 0 20
                         w := t.regF (k + 0x1C) 0 14, h := t.regF (k + 0x1C) 16 14 }
    s.drives m 10 = true → s.regB (k + 0x30) 31 = false →
    (r.badFmt = false → r.w ≠ 0 → r.h ≠ 0 → r.badAlign = none → r.badPitch = none → t.rectBadAddr r = none → t.rectSealed r = none →
      (r.overlaps = true → r.dpitch = r.spitch ∧ (r.op = 2 → rBpp r.sfmt = rBpp r.dfmt)) →
      exec (.rctGo m e v) s = .next ((t.setB k 31 true).rectBusy e.val
        (rectStart none r (t.reg (k + 0x20)).toNat (t.reg (k + 0x24)).toNat (t.regF (k + 0x2C) 0 14))).pump) ∧
    (r.badFmt = false → (r.w = 0 ∨ r.h = 0) → exec (.rctGo m e v) s =
      .next (((((t.rectSample e.val).rectOrder e.val false false).setB (k + 0x30) 30 true).setF (k + 0x30) 0 16 (statusCode .okEmpty)).pulse
        (256 + e.val)).pump) ∧
    (r.badFmt = true → exec (.rctGo m e v) s = .next (((t.rectRestore e.val).setF (k + 0x30) 16 8 1).setB (k + 0x30) 28 true).pump)) ∧
  (∀ (s : State) (m : Master) (c : Fin 64) (v : Word), s.drives m 9 = true → s.regB (kDw c.val + 4) 31 = false →
    bit v 30 = false → bit v 29 = false → s.addr40 (kDw c.val + 8) % 32 = 0 → s.dwInside (s.addr40 (kDw c.val + 8), 32) = true →
    exec (.dwtGo m c v) s = .next ((s.dwStart c.val (s.addr40 (kDw c.val + 8))).setB (kDw c.val) 31 true).pump) ∧
  (∀ (s : State) (m : Master) (c : Fin 64) (v : Word), s.drives m 9 = true → s.regB (kDw c.val + 4) 31 = false →
    bit v 30 = false → bit v 29 = false → (s.addr40 (kDw c.val + 8) % 32 ≠ 0 ∨ s.dwInside (s.addr40 (kDw c.val + 8), 32) = false) →
    exec (.dwtGo m c v) s = .next (s.dwRefuse c.val .configMismatch 8 (s.addr40 (kDw c.val + 8))).pump) ∧
  (∀ (s : State) (m : Master) (c : Fin 64) (v : Word), s.drives m 9 = true → s.regB (kDw c.val + 4) 31 = true →
    bit v 30 = false → bit v 29 = false → exec (.dwtGo m c v) s = .next (s.setB (kDw c.val + 4) 25 true).pump) ∧
  (∀ (s : State) (m : Master) (c : Fin 64) (v : Word), s.drives m 9 = true → s.regB (kDw c.val + 4) 31 = true →
    bit v 31 = false → bit v 29 = false →
    (∀ a, s.dwBetween c.val = some a → exec (.dwtStop m c v) s = .next (s.dwHalt c.val .stopped a).pump) ∧
    (s.dwBetween c.val = none → exec (.dwtStop m c v) s = .next ((s.setB (kDw c.val + 4) 29 true).setB (kDw c.val) 30 true).pump)) ∧
  (∀ (s : State) (m : Master) (c : Fin 64) (v : Word), s.drives m 9 = true → s.regB (kDw c.val + 4) 31 = true →
    bit v 31 = false → bit v 30 = false → bit (dwWord (s.dwc c.val).desc 0) 29 = true →
    exec (.dwtSwreq m c v) s = .next (s.dwLatch c.val).pump) ∧
  (∀ (s : State) (m : Master) (n : Fin 16) (v : Word), let k := kNctl n.val
    let t := s.setReg k (s.reg k &&& ~~~ (v &&& 0x30000000))
    let pwn := t.regF (kNpwords n.val) 0 15
    let entry := t.regF (kNentry n.val) 0 14
    let grant := t.reg (kNgrant n.val)
    let dig := sha512 ((List.range pwn).flatMap fun i => leBytes 2 ((t.core n.val).word i))
    s.drives m 12 = true → 4 ≤ n.val → t.coreRuns n.val = false → 1 ≤ pwn → pwn ≤ 16384 → entry < pwn → grant &&& 0x00009000 = 0 →
    exec (.nioGo m n v) s =
      .next (((((t.nioDigest n.val dig).measure 0x12 srcExpert n.val grant.toNat (BitVec.ofNat 64 pwn) dig).nioSet n.val grant pwn pwn).setB
        (kCstat n.val) 29 true).nioStart n.val entry).pump) ∧
  (∀ (s : State) (m : Master) (n : Fin 16) (v : Word), let k := kNctl n.val
    let t := s.setReg k (s.reg k &&& ~~~ (v &&& 0x30000000))
    s.drives m 12 = true → 4 ≤ n.val → bit v 30 = false → t.coreRuns n.val = true →
    exec (.nioGo m n v) s = .next (t.setB k 28 true).pump) ∧
  (∀ (s : State) (m : Master) (n : Fin 16) (v : Word), let k := kNctl n.val
    let t := s.setReg k (s.reg k &&& ~~~ (v &&& 0x30000000))
    s.drives m 12 = true → 4 ≤ n.val → bit v 31 = false → t.coreRuns n.val = true →
    exec (.nioStop m n v) s = .next ((t.setB k 30 true).nioStop n.val).pump) ∧
  (∀ (s : State) (m : Master) (v : Word), let k := fld v 0 10
    s.drives m 11 = true → k ≤ 575 → bit v 30 = false →
    exec (.musVgoStart m v) s = .next (s.setVoice k { s.voice k with vgo := true }).pump) ∧
  (∀ (s : State) (m : Master) (v : Word), let k := fld v 0 10
    s.drives m 11 = true → k ≤ 575 → bit v 31 = false → (s.playing k || s.voiceArmed k || (s.voice k).vgo) = true →
    exec (.musVgoStop m v) s = .next (s.setVoice k { s.voice k with stopNow := true }).pump) ∧
  (∀ (s : State) (m : Master) (v : Word), s.drives m 11 = true →
    let t := (s.setReg (kMUS + 0x34) (0x80000000 ||| (v &&& 1))).setB kMStat 27 true
    exec (.musCtlCommit m v) s = .next { t with mus := { t.mus with commitReq := true } }.pump)

/-- The error injectors, written by a core to which their page is granted or a Dumbwaiter channel: a write stores its fields, keeps DONE unless it arms, and a write of an injector's address register disarms it (R305, R306, R553). -/
def Obligations.InjectorRegisters : Prop :=
  (∀ (s : State) (m : Master) (v : Word), m ≠ .pf0 → m ≠ .pf1 → s.answers = true → (∀ n : Fin 16, m = .core n → s.nioGranted n.val 0x40000 true = true) → s.pageAbsent 4 = false →
    exec (.celFlipWrite m v) s = .next (s.setReg (kCEL + 0x100) ((v &&& 0xA0FF0F0F) ||| (if bit v 31 then 0 else s.reg (kCEL + 0x100) &&& 0x40000000))).pump) ∧
  (∀ (s : State) (m : Master) (v : Word), m ≠ .pf0 → m ≠ .pf1 → s.answers = true → (∀ n : Fin 16, m = .core n → s.nioGranted n.val 0x50000 true = true) → s.pageAbsent 5 = false →
    exec (.panFlipWrite m v) s = .next (s.setReg (kPAN + 0x100) ((v &&& 0x83FFFFFF) ||| (if bit v 31 then 0 else s.reg (kPAN + 0x100) &&& 0x40000000))).pump) ∧
  (∀ (s : State) (m : Master) (v : Word), m ≠ .pf0 → m ≠ .pf1 → s.answers = true → (∀ n : Fin 16, m = .core n → s.nioGranted n.val 0x40000 true = true) → s.pageAbsent 4 = false →
    exec (.flipAddrWrite m .celLo v) s = .next ((s.setReg (kCEL + 0x104) (v &&& 0xFFFFFFC0)).setB (kCEL + 0x100) 31 false).pump ∧
    exec (.flipAddrWrite m .celHi v) s = .next ((s.setReg (kCEL + 0x108) (v &&& 0xFF)).setB (kCEL + 0x100) 31 false).pump) ∧
  (∀ (s : State) (m : Master) (v : Word), m ≠ .pf0 → m ≠ .pf1 → s.answers = true → (∀ n : Fin 16, m = .core n → s.nioGranted n.val 0x50000 true = true) → s.pageAbsent 5 = false →
    exec (.flipAddrWrite m .pan v) s = .next ((s.setReg (kPAN + 0x104) (v &&& 0x07FFFFC0)).setB (kPAN + 0x100) 31 false).pump)

/-! ## The frames of a head -/

/-- The cycles of a frame: a head whose beam moves, with no coarse alignment due, runs out its frame and closes it in its boundary cycle (R10); a head alone in its boundary cycle swaps by the verdict on its commit and enters its frame (R11, R12, R113); an enabled head that starts begins at (0, VACT) when its PLL locks, which records the lock time (R15, R101); a glide ends and the beam resumes where it stood, after the entries that did not wait for it (R102). -/
def Obligations.FrameRows : Prop :=
  (∀ (s : State) (h : Fin 32), s.full = true → (s.head h.val).phase = .frame → s.gliding h.val = false →
    let t := State.runOut h.val (s.ticksLeft h.val) s
    t.glCoarse h.val = false →
    exec (.frameBoundary h) s =
      .next (((t.updHead h.val fun v => { v with glAligned := true }).boundaryCycle h.val true).joinBoundary h.val).pump) ∧
  (∀ (s : State) (h : Fin 32), s.full = true → (s.head h.val).phase = .frame → s.gliding h.val = false →
    let t := State.runOut h.val (s.ticksLeft h.val) s
    t.glCoarse h.val = true →
    exec (.frameBoundary h) s =
      .next ((t.updHead h.val fun v => { v with glAligned := true, phase := .aligning, x := 0, y := gVact (t.cmSet h.val), did := [] }).headPosition
        h.val 0 (gVact (t.cmSet h.val))).pump) ∧
  (∀ (s : State) (h : Fin 32), s.full = true → (s.head h.val).phase = .boundary → (s.head h.val).starting = false →
    gCanvasEn (s.cmSet h.val) = false →
    let t := s.headPassed h.val (clkPix (s.cmSet h.val) 256)
    exec (.swapCycle h) s = .next (((t.swapOne h.val (t.verdict [h.val] h.val)).swapNext [h.val] h.val).recHead h.val).pump) ∧
  (∀ (s : State) (h : Fin 32) (t : Nat), s.full = true → (s.head h.val).enabled = true → (s.head h.val).starting = true →
    (s.head h.val).phase = .stopped →
    exec (.headPllLock h t) s = .next ((s.setReg (kPll h.val) (wd (2 ^ 31 + t % 65536))).boundaryCycle h.val false).pump) ∧
  (∀ (s : State) (h : Fin 32) (t : Nat), s.full = true → s.gliding h.val = true →
    exec (.pllGlideDone h t) s = .next (State.bsClocks h.val (s.place' h.val) (60 * t + 256)
      ((s.setReg (kPll h.val) (wd (2 ^ 31 + t % 65536))).updBs h.val fun b => { b with oc := 257 + 60 * t, op := s.place' h.val, fr := 0 })).pump)

/-- The verdict of a swap on a head by itself: without a pending commit it idles, a commit whose set has no cause against it is taken, and one with a cause is refused with its lowest cause (R98, R103, R106, R113). -/
def Obligations.SwapVerdict : Prop :=
  ∀ (s : State) (h : Nat),
    let want : Nat → Bool := fun k => decide (k = h) && s.goNow k
    let causes := s.setCauses h (s.shSet h) ++ rsvCauses s h (s.shSet h) ++ s.canvasCause want h
    (s.goNow h = false → s.verdict [h] h = .idle) ∧
    (s.goNow h = true → lowest causes = 0 → s.verdict [h] h = .taken) ∧
    (s.goNow h = true → lowest causes ≠ 0 → s.verdict [h] h = .refused (lowest causes))

/-- Genlock: a pulse of 20 ns or more notes its instant and PRESENT, ends LOST on every head and, from the second on, measures the period; a shorter one does nothing (R115, R117); four periods in a row whose active level, by the polarity of ININV, lasts longer than half of them are recorded as reversed (R117); the loop of a leading head loses its reference once, with a record (R115); a coarse halt ends in the boundary cycles of the halted heads (R114); PRESENT clears (R120). -/
def Obligations.GenlockRows : Prop :=
  (∀ (s : State) (width : Nat) (high : Bool), s.live = true → width < 20 → exec (.genlockInEdge width high) s = .next s) ∧
  (∀ (s : State) (width : Nat) (high : Bool), s.live = true → 20 ≤ width →
    let p := if s.gl.seen then s.setReg (kGl 8) (wd (min 0xFFFFFFFF (s.now - s.w64 (kGl 0xC)).toNat)) else s
    let t := (p.setW64 (kGl 0xC) s.now).setB (kGl 4) 31 true
    let period := (t.reg (kGl 8)).toNat
    let active := if high = t.regB (kGl 0) 30 then period - width else width
    let found (s : State) : State := s.each (List.range 32) fun s h => s.setB (kGlstat h) 28 false
    (s.gl.seen = false ∨ 2 * active ≤ period →
      exec (.genlockInEdge width high) s = .next (found { t with gl := { t.gl with seen := true, long := 0 } })) ∧
    (s.gl.seen = true → period < 2 * active → s.gl.long < 3 →
      exec (.genlockInEdge width high) s = .next (found { t with gl := { t.gl with seen := true, long := s.gl.long + 1 } })) ∧
    (s.gl.seen = true → period < 2 * active → s.gl.long = 3 → t.regB (kGl 4) 30 = false →
      exec (.genlockInEdge width high) s = .next (found ((State.setB { t with gl := { t.gl with seen := true, long := 4 } } (kGl 4) 30 true).errRec
        sevInfo 0x0E 0x0018 0 .ok (t.reg (kGl 8)) 0)))) ∧
  (∀ (s : State) (h : Fin 32), s.full = true → s.glActive h.val = true → s.leader h.val = h.val → s.regB (kGlstat h.val) 28 = false →
    exec (.genlockLost h) s =
      .next ((((s.setB (kGlstat h.val) 28 true).setB (kGlstat h.val) 30 false).updHead h.val fun v => { v with glNear := 0 }).errRec
        sevInfo (uHead h.val) 0x0017 1 .genlockRange (s.reg (kGlpull h.val)) 0)) ∧
  (∀ (s : State) (h : Fin 32), s.full = true → gCanvasEn (s.cmSet h.val) = false → (s.head h.val).phase = .aligning →
    exec (.genlockAlignEnd h) s = .next ((s.boundaryCycle h.val true).joinBoundary h.val).pump) ∧
  (∀ s : State, s.live = true → exec .genlockPresentTimeout s = .next (s.setB (kGl 4) 31 false))

/-- Each event within a frame is reached by letting the head's output advance pixel clock by pixel clock: the row's next state is that of the first pixel clock of the rest of the frame in which the event happens, for each kind of event: LINE, a beam entry of each operation, a wait that is met, a fence that ends, the anchor of an interrupt or a stamp, the release of the fetch budget, the end of the window, a position that starts a voice, the load and evaluation of the sprites, and the line reads of planes and Mantel (R8, R18, R124, R156, R164, R180 to R198, R222).  Where the event falls into the next pixel clock, what that pixel clock does is said: LINE is raised, the lines and sprites are read, the sequencer's hold ends, the event takes place.  A head that does not scan (it is stopped, in its boundary or aligning, or its PLL glides) shows no such event, and an event row then changes nothing: that is the model's choice (log 47). -/
def Obligations.EventsWithinFrame : Prop :=
  let at' (s : State) (h : Fin 32) : Nat → State := fun k => Nat.repeat (fun s => s.tick h.val false) k s
  let has (s : State) (h : Fin 32) (tag k : Nat) : Prop := tag ∈ ((at' s h k).head h.val).did
  let first (s : State) (h : Fin 32) (tag k : Nat) : Prop := s.full = true ∧ 0 < k ∧ k ≤ s.ticksLeft h.val ∧ has s h tag k ∧ ∀ j, 0 < j → j < k → ¬ has s h tag j
  (∀ (s : State) (h : Fin 32) (k : Nat),
    (first s h tLine k → exec (.lineEvent h) s = .next (at' s h k)) ∧
    (first s h 0 k → exec (.beamEnd h) s = .next (at' s h k)) ∧
    (first s h 1 k → exec (.beamWait h) s = .next (at' s h k)) ∧
    (first s h 2 k → exec (.beamWaitx h) s = .next (at' s h k)) ∧
    (first s h tMet k → exec (.beamWaitMet h) s = .next (at' s h k)) ∧
    (first s h 3 k → exec (.beamMove h) s = .next (at' s h k)) ∧
    (first s h 4 k → exec (.beamMovem h) s = .next (at' s h k)) ∧
    (first s h 5 k → exec (.beamSkipif h) s = .next (at' s h k)) ∧
    (first s h 6 k → exec (.beamJump h) s = .next (at' s h k)) ∧
    (first s h 7 k → exec (.beamIrq h) s = .next (at' s h k)) ∧
    (first s h 8 k → exec (.beamStamp h) s = .next (at' s h k)) ∧
    (first s h 9 k → exec (.beamFence h) s = .next (at' s h k)) ∧
    (first s h tFenceDone k → exec (.beamFenceDone h) s = .next (at' s h k)) ∧
    (first s h tIrq k → exec (.beamIrqAnchor h) s = .next (at' s h k)) ∧
    (first s h tStamp k → exec (.beamStampAnchor h) s = .next (at' s h k)) ∧
    (first s h tBudget k → exec (.beamLineBudgetRelease h) s = .next (at' s h k)) ∧
    (first s h tWindow k → exec (.beamWindowEnd h) s = .next (at' s h k)) ∧
    (first s h tVoice k → exec (.beamPositionEvent h) s = .next (at' s h k)) ∧
    (first s h tSpLoaded k → exec (.spriteTableLoaded h) s = .next (at' s h k)) ∧
    (first s h tSpEval k → exec (.spriteLineEval h) s = .next (at' s h k)) ∧
    (first s h tLineRead k → exec (.bitmapLineRead h) s = .next (at' s h k)) ∧
    (first s h tMtRead k → exec (.mantelLineRead h) s = .next (at' s h k))) ∧
  (∀ (s : State) (h : Fin 32) (i : Instr), ((s.head h.val).phase ≠ .frame ∨ s.gliding h.val = true) →
      i ∈ [Instr.lineEvent h, .beamEnd h, .beamWait h, .beamWaitx h, .beamWaitMet h, .beamMove h, .beamMovem h, .beamSkipif h, .beamJump h,
        .beamIrq h, .beamStamp h, .beamFence h, .beamFenceDone h, .beamIrqAnchor h, .beamStampAnchor h, .beamLineBudgetRelease h,
        .beamWindowEnd h, .spriteTableLoaded h, .spriteLineEval h, .bitmapLineRead h, .mantelLineRead h] →
      exec i s = .next s) ∧
  (∀ (s : State) (h : Fin 32), (s.head h).phase ≠ .frame → (s.head h).phase ≠ .boundary → exec (.beamPositionEvent h) s = .next s) ∧
  (∀ (s : State) (h : Fin 32), Scans s h →
    let g := s.cmSet h
    let j := s.nextPlace h
    let o := s.tickOpen h
    let f := posAt g (j + lead)
    let p := posAt g j
    let u := s.seqAt h
    let b := (u.head h).bs
    (j + lead < frameLen g → f.1 = 0 → f.2 + 1 < gVact g →
      exec (.spriteLineEval h) s = .next (s.seqOn (((o.bsNewLine h j).spriteEval h (f.2 + 1)).mark h tSpEval) h 64)) ∧
    (j + lead < frameLen g → f.1 = 0 → (s.head h).bs.hold = .starve →
      let w := (o.mark h tBudget).updBs h fun b => { b with acc := 0, hold := .none, clk := max b.clk (b.clock g j) }
      exec (.beamLineBudgetRelease h) s =
        .next (s.seqOn (if f.2 + 1 < gVact g then (w.spriteEval h (f.2 + 1)).mark h tSpEval else w) h 64)) ∧
    (j + lead = frameLen g → s.bsRun h = true → exec (.beamWindowEnd h) s = .next (s.seqOn ((o.mark h tWindow).bsEnd h) h 64)) ∧
    (j + lead = frameLen g → s.bsRun h = false → exec (.beamWindowEnd h) s = .next (s.seqOn (o.mark h tWindow) h 64)) ∧
    (∀ t, u.bsRun h = true → b.hold = .until_ t → t ≤ j + lead → let q := posAt g t
      exec (.beamWaitMet h) s = .next (s.seqOn ((((u.setB (kBsStat h) 30 false).setF (kBsStat h) 0 15 (b.pc + 1)).mark h tMet).updBs h fun b =>
        { b with pc := b.pc + 1, hold := .none, tIdx := t, tx := q.1, ty := q.2, tClk := b.clock g (t - lead), clk := max b.clk (b.clock g (t - lead)) })
          h 63)) ∧
    (∀ c, u.bsRun h = true → b.hold = .fence c → b.pix g c ≤ j → let i := b.pix g c + lead
      let q := posAt g i
      exec (.beamFenceDone h) s = .next (s.seqOn (((((u.bsLandDue h j true).setB (kBsStat h) 30 false).setF (kBsStat h) 0 15 (b.pc + 1)).mark h
        tFenceDone).updBs h fun b => { b with pc := b.pc + 1, hold := .none, tIdx := i, tx := q.1, ty := q.2, tClk := c, clk := c }) h 63)) ∧
    (let v := s.spriteTurn h
     (v.head h).sp.loading = true → (v.head h).sp.loadAt ≤ j → exec (.spriteTableLoaded h) s =
      .next (((((v.spriteLoaded h).mark h tSpLoaded).spriteEval h 0).mark h tSpEval).tickOut h j false)) ∧
    (p.1 = 0 → bit (s.cm h 0x84) 31 = true → fld (s.cm h 0x84) 0 14 = p.2 → exec (.lineEvent h) s =
      .next ((((((s.outAt h).lineOpen h p.2).raiseLine h).lineReads h p.2).tickVoice h 0 p.2).tickDraw h j false)) ∧
    (∀ l a n, p.1 = 0 → p.2 + 1 < gVact g → l < 10 →
      let w := ((s.outAt h).lineOpen h p.2).lineEvent h p.2
      let x := w.each (List.range l) fun s k => s.readRow h k (p.2 + 1)
      let x' := if l < 8 && tpCellar g l then x.readEntry h l (p.2 + 1) else x
      x'.layerOff h l = false → x'.rowRange h l (p.2 + 1) = some (a, n) → exec (.bitmapLineRead h) s =
        .next (((w.readLine h (p.2 + 1)).tickVoice h 0 p.2).tickDraw h j false)) ∧
    (p.1 = 0 → p.2 + 1 < gVact g →
      let w := (((s.outAt h).lineOpen h p.2).lineEvent h p.2).each (List.range 10) fun s k => s.readRow h k (p.2 + 1)
      w.mantelOn h (p.2 + 1) = true → exec (.mantelLineRead h) s =
        .next ((((w.mantelLine h (p.2 + 1)).mark h tMtRead).tickVoice h 0 p.2).tickDraw h j false)) ∧
    (∀ c a x y, let v := s.leaveAt h
      (v.head h).bs.pend = [⟨a, x, y, .irq c⟩] → a ≤ j → exec (.beamIrqAnchor h) s =
        .next (((((v.updBs h fun b => { b with pend := [] }).setReg (kHD h + 0x91C) (wd c)).raiseLine h).mark h tIrq).tickShow h j false)) ∧
    (∀ c a x y, let v := s.leaveAt h
      (v.head h).bs.pend = [⟨a, x, y, .stamp c⟩] → a ≤ j → (v.head h).bs.stamps.length < 16 → exec (.beamStampAnchor h) s =
        .next (((((v.updBs h fun b => { b with pend := [] }).mark h tStamp).updBs h fun b => { b with stamps := b.stamps ++ [⟨v.now, x, y, c⟩] }).setReg
          (kHD h + 0x92C) (wd ((v.head h).bs.stamps.length + 1))).tickShow h j false)) ∧
    (let v := s.showAt h
     (v.headPosition h p.1 p.2).mus.voices ≠ v.mus.voices → exec (.beamPositionEvent h) s =
      .next (((v.headPosition h p.1 p.2).mark h tVoice).tickDraw h j false))) ∧
  (∀ (s : State) (h : Fin 32) (i : Nat), let at' (k : Nat) : State := s.headPassed h (s.place' h + k + 1)
    s.full = true → (s.head h).phase = .boundary → i < clkPix (s.cmSet h) 256 - s.place' h → (at' i).mus.voices ≠ s.mus.voices →
    (∀ k < i, (at' k).mus.voices = s.mus.voices) → exec (.beamPositionEvent h) s = .next (at' i))

/-- A row of a beam entry goes on to the pixel clock in which the next such entry executes: where that is the next pixel clock, the entry does there what it does.  What each entry of a beam program does when it executes: END stops the program for the frame; MOVE and MOVEM write and go on past their data; SKIPIF skips when its condition holds; JUMP jumps, loads a loop counter, or counts down and jumps while it is not 0; IRQ and STAMP schedule an event at the entry's anchor; FENCE holds until the last landing; WAIT holds until its place, and never goes on when its place is not in the frame (R182 to R198). -/
def Obligations.BeamEntries : Prop :=
  (∀ (s : State) (h : Fin 32) (i e : Nat) (fl : List Nat), Executes s h i e fl →
    let u := ((s.seqAt h).bsPrefetch h (i / 8)).mark h (entOp e)
    let then' (v : State) : Out := .next (s.seqOn v h 63)
    (entOp e = 0 → exec (.beamEnd h) s = then' (u.bsEnd h)) ∧
    (entOp e = 1 → exec (.beamWait h) s = then' (u.bsWait h i (u.bsTarget h e))) ∧
    (entOp e = 2 → exec (.beamWaitx h) s = then' (u.bsWait h i (u.bsTarget h e))) ∧
    (entOp e = 3 → exec (.beamMove h) s = then' ((u.bsWrite h i (entWrites e [])).bsNext h (i + 1) 1)) ∧
    (entOp e = 4 → exec (.beamMovem h) s = then' ((u.bsWrite h i (entWrites e fl)).bsNext h (i + 1 + fl.length) (1 + fl.length))) ∧
    (entOp e = 5 → u.bsCond h e = false ∨ ef e 48 8 = 0 → exec (.beamSkipif h) s = then' (u.bsNext h (i + 1) 1)) ∧
    (entOp e = 5 → u.bsCond h e = true → ef e 48 8 ≠ 0 → exec (.beamSkipif h) s = then' (u.bsBranch h (i + 1 + ef e 48 8) 1)) ∧
    (entOp e = 6 → ef e 58 2 = 0 → exec (.beamJump h) s = then' (u.bsBranch h (ef e 0 15) 2)) ∧
    (entOp e = 6 → ef e 58 2 = 1 → ef e 57 1 = 0 → exec (.beamJump h) s =
      then' ((u.updBs h fun b => { b with lc0 := ef e 32 16 }).bsNext h (i + 1) 1)) ∧
    (entOp e = 6 → ef e 58 2 = 1 → ef e 57 1 = 1 → exec (.beamJump h) s =
      then' ((u.updBs h fun b => { b with lc1 := ef e 32 16 }).bsNext h (i + 1) 1)) ∧
    (entOp e = 7 → exec (.beamIrq h) s = then' ((u.bsSchedule h (.irq (ef e 0 8))).bsNext h (i + 1) 1)) ∧
    (entOp e = 8 → exec (.beamStamp h) s = then' ((u.bsSchedule h (.stamp (ef e 0 4))).bsNext h (i + 1) 1)) ∧
    (entOp e = 9 → let b := (u.head h).bs
      let done := max (b.clk + 1) (if b.lastAt = 0 then 0 else b.clock (s.cmSet h) b.lastAt + 24)
      exec (.beamFence h) s = then' ((u.setB (kBsStat h) 30 true).updBs h fun b => { b with hold := .fence done }))) ∧
  ∀ (s : State) (h i e : Nat) (fl : List Nat),
    let t := s.mark h (entOp e)
    (entOp e = 0 → s.bsEntry h i e fl = t.bsEnd h) ∧
    (entOp e = 1 ∨ entOp e = 2 → t.bsTarget h e = none → s.bsEntry h i e fl =
      (((t.bsNext h (i + 1) 1).bsNext h i 0).setB (kBsStat h) 30 true).updBs h fun b => { b with hold := .never }) ∧
    (∀ w, entOp e = 1 ∨ entOp e = 2 → t.bsTarget h e = some w → (t.head h).bs.pix (s.cmSet h) (t.head h).bs.clk + lead < w → s.bsEntry h i e fl =
      (((t.bsNext h (i + 1) 1).bsNext h i 0).setB (kBsStat h) 30 true).updBs h fun b => { b with hold := .until_ w }) ∧
    (entOp e = 3 → s.bsEntry h i e fl = (t.bsWrite h i (entWrites e [])).bsNext h (i + 1) 1) ∧
    (entOp e = 4 → s.bsEntry h i e fl = (t.bsWrite h i (entWrites e fl)).bsNext h (i + 1 + fl.length) (1 + fl.length)) ∧
    (entOp e = 5 → t.bsCond h e = false → s.bsEntry h i e fl = t.bsNext h (i + 1) 1) ∧
    (entOp e = 5 → t.bsCond h e = true → ef e 48 8 ≠ 0 → s.bsEntry h i e fl = t.bsBranch h (i + 1 + ef e 48 8) 1) ∧
    (entOp e = 6 → ef e 58 2 = 0 → s.bsEntry h i e fl = t.bsBranch h (ef e 0 15) 2) ∧
    (entOp e = 6 → ef e 58 2 = 1 → ef e 57 1 = 0 → s.bsEntry h i e fl =
      (t.updBs h fun b => { b with lc0 := ef e 32 16 }).bsNext h (i + 1) 1) ∧
    (entOp e = 6 → 2 ≤ ef e 58 2 → ef e 57 1 = 0 → (t.head h).bs.lc0 = 0 → s.bsEntry h i e fl = t.bsNext h (i + 1) 1) ∧
    (entOp e = 6 → 2 ≤ ef e 58 2 → ef e 57 1 = 0 → (t.head h).bs.lc0 ≠ 0 → s.bsEntry h i e fl =
      (t.updBs h fun b => { b with lc0 := (t.head h).bs.lc0 - 1 }).bsBranch h (ef e 0 15) 2) ∧
    (entOp e = 7 → s.bsEntry h i e fl = (t.bsSchedule h (.irq (ef e 0 8))).bsNext h (i + 1) 1) ∧
    (entOp e = 8 → s.bsEntry h i e fl = (t.bsSchedule h (.stamp (ef e 0 4))).bsNext h (i + 1) 1) ∧
    (9 ≤ entOp e → ∃ c, s.bsEntry h i e fl = (t.setB (kBsStat h) 30 true).updBs h fun b => { b with hold := .fence c })

/-- What happens to a head's layers: a layer whose data fails from the pixel that is next is switched off by the Shutter from that line on, and the Mantel is drawn in its fault colour (R154, R219, R232); a writeback line is written or dropped at the end of its line (R239), also in the very next pixel clock; a held beam write that has come to its place lands (R190); an admission that waits on a head is decided (R229). -/
def Obligations.LayerRows : Prop :=
  (∀ (s : State) (h : Fin 32) (l : Fin 11) (x y : Nat), s.full = true → (s.head h.val).phase = .frame → s.gliding h.val = false →
    s.place' h.val + 1 = beamIndex (s.cmSet h.val) x y → s.layerOff h.val l.val = false →
    exec (.layerFetchFailure h l x y) s =
      .next (((s.shutterFirst h.val y).setB (kShutter h.val) l.val true).errRec sevContained (uHead h.val) 0x0011 l.val .ok (wd y)
        (lo32 (((s.shutterFirst h.val y).setB (kShutter h.val) l.val true).frame h.val)))) ∧
  (∀ (s : State) (h : Fin 32) (x y : Nat), s.full = true → (s.head h.val).phase = .frame → s.gliding h.val = false →
    s.place' h.val + 1 = beamIndex (s.cmSet h.val) x y → s.mantelEn h.val = true → s.noContent h.val = false →
    exec (.mantelFetchFailure h (.buffer x) y) s = .next (s.mantelFault h.val y)) ∧
  (∀ (s : State) (h : Fin 32) (i : BitVec 16) (k : Nat),
    let at' : Nat → State := fun k => Nat.repeat (fun s => s.tick h.val false) k (s.mantelSpoil h.val i.toNat)
    s.full = true → 0 < k → k ≤ (s.mantelSpoil h.val i.toNat).ticksLeft h.val → (at' k).regB (kMstat h.val) 31 = true →
    (∀ j, 0 < j → j < k → (at' j).regB (kMstat h.val) 31 = false) → exec (.mantelFetchFailure h (.store i) 0) s = .next (at' k)) ∧
  (∀ (s : State) (h : Fin 32) (drop : Bool) (k : Nat), let at' : Nat → State := fun k => Nat.repeat (fun s => s.tick h.val drop) k s
    s.full = true → 0 < k → k ≤ s.ticksLeft h.val → tWbLine ∈ ((at' k).head h.val).did →
    (∀ j, 0 < j → j < k → tWbLine ∉ ((at' j).head h.val).did) →
    exec (.writebackLine h drop) s = .next (at' k)) ∧
  (∀ (s : State) (h : Fin 32) (drop : Bool), Scans s h →
    let p := posAt (s.cmSet h) (s.nextPlace h)
    p.2 < gVact (s.cmSet h) → p.1 + 1 = gHact (s.cmSet h) → wbEn (s.cmSet h) = true →
    exec (.writebackLine h drop) s = .next ((((((s.showAt h).tickVoice h p.1 p.2).pixelOut h p.1 p.2).wbLine h p.2 drop).mark h tWbLine).fetchedPast h
      (s.nextPlace h))) ∧
  (∀ (s : State) (h : Fin 32), s.full = true →
    ((s.head h.val).bs.pend.any fun p => (match p.ev with | .write _ false => true | _ => false) && decide (p.at' ≤ s.place' h.val)) = true →
    exec (.beamWriteLand h) s = .next (s.bsLandEarly h.val (s.place' h.val))) ∧
  (∀ (s : State) (h : Fin 32) (o : Open), s.live = true → s.studyUp = true → (s.head h.val).mt.pend = none →
    (s.foy.opens.find? fun o => o.begun && o.fin.isNone && decide (o.wait = .mantel h.val)) = some o →
    exec (.mantelAdmissionDone h) s = .next (s.mantelAdmitOpen h.val o).pump)

/-! ## The ports -/

/-- The ports: a training that comes up at a candidate of its route brings the link UP at that rate and lane count, and one that finds none ends as a failure (R251 to R253); a plug and an unplug change HPD, count the event and assert the port's source, and the unplug takes the sink away; an IRQ_HPD during a training is held, and another is counted (R255); a refresh that fails clears VALID (R256); a wiring fault found anew is counted and recorded (R258, R259); an echo receiver takes or loses alignment and counts a mismatch (R261). -/
def Obligations.PortRows : Prop :=
  (∀ (s : State) (p : Fin 32) (t : Training) (w : Word) (c r l : Nat), s.full = true → (s.port p.val).training = true →
    (s.port p.val).pend = some w → t.cand = some c → t.lttpr ≤ 2 → t.orderRev = false → t.polRev = 0 → t.attempts ≤ 16 → t.us ≤ 500000 →
    t.eq = 0 → s.regB (kFault p.val) 12 = false → s.regB (kFault p.val) 13 = false → s.regB (kFault p.val) 15 = true →
    (s.candidates p.val w (decide (t.lttpr = 0) || t.uhbr))[c]? = some (r, l) →
    ∃ u : State, exec (.linkTrainingDone p t) s = .next u.pump ∧ u.linkUp p.val = true ∧ u.regF (kLink p.val) 24 4 = r ∧
      laneCount (u.regF (kLink p.val) 22 2) = l ∧ (u.port p.val).training = false) ∧
  (∀ (s : State) (p : Fin 32), s.live = true → s.regB (kFault p.val) 15 = false →
    exec (.hpdPlug p) s = .next (((s.setB (kFault p.val) 15 true).evCount p.val 24).portPulse p.val).pump) ∧
  (∀ (s : State) (p : Fin 32), s.live = true → s.regB (kFault p.val) 15 = true →
    exec (.hpdUnplug p) s = .next ((((s.setB (kFault p.val) 15 false).evCount p.val 24).portPulse p.val).sinkGone p.val).pump) ∧
  (∀ (s : State) (p : Fin 32), s.live = true → s.regB (kFault p.val) 15 = true → (s.port p.val).training = true →
    exec (.irqHpd p) s = .next (s.updPort p.val fun v => { v with irqHeld := v.irqHeld + 1 }).pump) ∧
  (∀ (s : State) (p : Fin 32), s.live = true → s.regB (kFault p.val) 15 = true → (s.port p.val).training = false →
    exec (.irqHpd p) s = .next ((s.evCount p.val 16).portPulse p.val).pump) ∧
  (∀ (s : State) (p : Fin 32), s.live = true → exec (.sinkReadDone p .failed) s = .next (s.setB (kSink p.val) 31 false).pump) ∧
  (∀ (s : State) (p : Fin 32) (d : List Byte) (w : Word), s.live = true → s.regB (kFault p.val) 15 = true →
    s.regB (kFault p.val) 12 = false → s.regB (kFault p.val) 13 = false →
    ∃ u : State, exec (.sinkReadDone p (.plug d w)) s = .next u.pump ∧ u.regB (kSink p.val) 31 = true ∧
      u.regF (kSink p.val) 24 4 = fld w 24 4) ∧
  (∀ (s : State) (p : Fin 32) (w : Word), s.live = true → bit w 14 = false → (∀ i < 15, bit w i = true → s.regB (kFault p.val) i = true) →
    exec (.wiringSense p w) s = .next (s.setReg (kFault p.val) ((s.reg (kFault p.val) &&& 0x8000) ||| (w &&& 0x7FFF))).pump) ∧
  (∀ (s : State) (p : Fin 4), s.full = true → s.linkUp p.val = true → s.regB (kEcho p.val) 30 = true →
    exec (.echoAlignmentChange p true) s = .next ((s.setB (kEcho p.val) 29 true).updPort p.val fun v => { v with eSeen := true })) ∧
  (∀ (s : State) (p : Fin 4), s.full = true → s.linkUp p.val = true → s.regB (kEcho p.val) 30 = true →
    exec (.echoAlignmentChange p false) s =
      .next ((s.setB (kEcho p.val) 29 false).updPort p.val fun v => { v with eCov := false, eRect := v.eRect / 2 * 2 })) ∧
  (∀ (s : State) (p : Fin 4) (lanes : BitVec 4) (n : Nat), s.full = true → s.regB (kEcho p.val) 30 = true → s.regB (kEcho p.val) 29 = true →
    lanes ≠ 0 → s.routeEn p.val = false →
    exec (.echoSymbolMismatch p lanes n) s = .next ((s.setB (kEcho p.val) 28 true).setPort p.val
      { s.port p.val with eMis := (s.port p.val).eMis + max 1 n, eLanes := (wd (s.port p.val).eLanes ||| wd lanes.toNat).toNat,
                          eFirst := if (s.port p.val).eMis = 0 then (s.head (s.routeSrc p.val)).y else (s.port p.val).eFirst })) ∧
  (∀ (s : State) (p : Fin 4) (lanes : BitVec 4) (n : Nat), s.full = true → s.regB (kEcho p.val) 30 = true → s.regB (kEcho p.val) 29 = true →
    lanes ≠ 0 → s.routeEn p.val = true → (s.head (s.routeSrc p.val)).ig.raised = false → let h := s.routeSrc p.val
    exec (.echoSymbolMismatch p lanes n) s = .next ((((s.setB (kEcho p.val) 28 true).setPort p.val
      { s.port p.val with eMis := (s.port p.val).eMis + max 1 n, eLanes := (wd (s.port p.val).eLanes ||| wd lanes.toNat).toNat,
                          eFirst := if (s.port p.val).eMis = 0 then (s.head h).y else (s.port p.val).eFirst }).pulse (64 + 4 * h + 3)).updHead h
        fun v => { v with ig := { v.ig with raised := true } }))

/-! ## Memory, rect engines and the Dumbwaiter at work -/

/-- The events of memory: a filling region is zeroed, over its twin too, and becomes AVAILABLE, and its command ends (R291, R294); a load and a copy that wait end (R301, R552); a patrol read of a line writes corrected codewords back and leaves an uncorrectable one, recorded (R302); a word of a core and of a Mantel store is scrubbed (R302, R399); a trained DIMM above 85 °C puts its channel into mode 2, with source 54 on a change (R285); a throttle step moves the gap by 8 within its bound (R317). -/
def Obligations.MemoryEvents : Prop :=
  (∀ (s : State) (r : Fin 64), s.live = true → s.celFilling r.val = true →
    s.twinOf r.val = none →
    exec (.regionFillDone r) s =
      .next (((((s.zeroRange (s.celBase r.val) (s.celSize r.val)).celFill (s.regionChans r.val)).setReg (kReg r.val + 0x14) 0x80000000).finish
        (.fill r.val) repOk)).pump) ∧
  (∀ (s : State) (r : Fin 64) (t : Nat), s.live = true → s.celFilling r.val = true →
    s.twinOf r.val = some t →
    exec (.regionFillDone r) s =
      .next ((((((s.zeroRange (s.celBase r.val) (s.celSize r.val)).zeroRange t (s.celSize r.val)).celFill (s.regionChans r.val)).setReg
        (kReg r.val + 0x14) 0x80000000).finish (.fill r.val) repOk)).pump) ∧
  (∀ (s : State) (r : Fin 64), s.live = true → s.celFilling r.val = false → exec (.regionFillDone r) s = .next (s.finish (.fill r.val) repOk).pump) ∧
  (∀ (s : State) (r : Fin 256) (o : Open), s.foyerUp = true →
    (s.foy.opens.find? fun o => o.begun && o.fin.isNone && decide (o.wait = .load r.val)) = some o →
    exec (.assetLoadDone r) s = .next (s.assetLoadRun o).pump) ∧
  (∀ (s : State) (n : Nat) (o : Open), s.foyerUp = true →
    (s.foy.opens.filter fun o => o.begun && o.fin.isNone && decide (o.wait = .memOp))[n]? = some o →
    exec (.memOpDone n) s = .next (s.memOpRun o).pump) ∧
  (∀ (s : State) (a : BitVec 40), let l := a.toNat / 64 * 64
    let p := s.scrubPlace l
    let t := s.celUse 0x04 false true p l 64
    let cws := codewords (t.grain p) l 64
    s.live = true → p ≠ .none → (∀ r, p = .cellar r → fld (s.celAttr r) 21 2 ≠ 0) →
    (cws.find? (fun c => decide (t.code c = .uncorr)) = none →
      exec (.patrolScrubRead (.line a)) s = .next (t.each cws fun s c => match s.code c with
        | .corr pos => (s.corrected p c pos).setCode c .good
        | _ => s)) ∧
    (∀ c, cws.find? (fun c => decide (t.code c = .uncorr)) = some c →
      exec (.patrolScrubRead (.line a)) s = .next ((t.uncorrectable p c).ueRecord (match p with | .cellar _ => 4 | _ => 5) 0 l))) ∧
  (∀ (s : State) (h : Fin 32) (i : BitVec 16) (pos : Nat), s.live = true → Tbl.get (fun _ => Code.good) (s.head h.val).mt.codes i.toNat = .corr pos →
    exec (.patrolScrubRead (.mantel h i)) s =
      .next ((s.storeCorrected h.val i.toNat pos).updMt h.val fun m => { m with codes := Tbl.set (fun _ => Code.good) m.codes i.toNat .good })) ∧
  (∀ (s : State) (n : Fin 16) (i : BitVec 14) (pos : Nat), s.live = true → (s.core n.val).wordCode i.toNat = .corr pos →
    exec (.patrolScrubRead (.core n false i)) s =
      .next ((s.nioCorrected n.val 2 pos (4 * i.toNat)).updCore n.val fun c =>
        { c with pcode := Tbl.set (fun _ => Code.good) c.pcode (i.toNat % 16384) .good })) ∧
  (∀ (s : State) (c : Fin 8) (temp : Byte), s.chimneyUp = true → s.regB (kChstat c.val) 31 = true → s.regB (kChstat c.val) 29 = false → s.regF (kChtemp c.val) 8 8 = 2 →
    85 < temp.toInt → let t := s.setReg (kChtemp c.val) (wd (2 * 256 + temp.toNat))
    exec (.refreshModeChange c temp) s = .next (t.refreshSet c.val (t.refDemand c.val))) ∧
  (∀ (s : State) (c : Fin 8) (temp : Byte), s.chimneyUp = true → s.regB (kChstat c.val) 31 = true → s.regB (kChstat c.val) 29 = false → s.regF (kChtemp c.val) 8 8 = 1 →
    85 < temp.toInt → let t := (s.setReg (kChtemp c.val) (wd (2 * 256 + temp.toNat))).pulse 54
    exec (.refreshModeChange c temp) s = .next (t.refreshSet c.val (t.refDemand c.val))) ∧
  (∀ (s : State) (i : Fin 16) (tags : Nat), s.live = true →
    let u := s.deadlineTags i.val tags
    let b := u.regF (kHAL + 0x304) 0 13
    let g := u.gap i.val
    let g' := if 48 < tags then min b (g + 8) else if tags < 32 then g - 8 else g
    exec (.throttleStep i tags) s =
      .next (State.throtRefresh { u with chm := { u.chm with gap := Tbl.set (fun _ => 0) u.chm.gap i.val g' } } (g + 8)))

/-- A rect engine at work: the oldest queued command of a free engine begins, judged again, and an overlapping copy is marked STARTED (R80, R339); a burst writes its part of a row and ends or goes on to the next row, and one that meets uncorrectable data ends the operation (R331, R335); the gap of DEADTIME, or of the throttle where that is longer, ends when its count is reached (R318, R332); a row that is done is counted, with the watermark (R333); the operation ends in the cycle of its last row, with DONE, LASTSTATUS and its source (R334). -/
def Obligations.RectRows : Prop :=
  (∀ (s : State) (e : Fin 4) (acc : Nat) (opw : Word) (ps : List Word) (rest : List (Nat × List Word)), s.live = true →
    (s.rect1 e.val).run = none → (s.rect1 e.val).queue = (acc, opw :: ps) :: rest →
    let r := rectOf opw.toNat fun k => ps.getD k 0
    let t := s.setRect e.val { s.rect1 e.val with queue := rest }
    t.expert 0x0A = false → t.rectBadAddr r = none → t.rectSealed r = none →
    exec (.rectOpBegin e) s = .next ((if r.overlaps then t.rectStarted acc else t).rectRun e.val acc r ps).pump) ∧
  (∀ (s u v t : State) (e : Fin 4) (op : RectOp) (bs : List Byte), s.live = true → (s.rect1 e.val).run = some op →
    (op.gap = false ∨ s.rectGap e.val op = 0) → op.row < op.h →
    let b := op.next
    let n := b.hi - b.lo
    let src := rectSource op b.y (b.lo - b.a) n
    let srow := op.src + b.y * op.spitch
    let slen := rowBytes op.sfmt op.w
    let buf := if op.overlap && decide (op.line = 0) then s.bytes srow slen else op.buf
    (if op.op = 0 then u = s else s.devRead 0x0A e.val src.1 src.2 = (.ok bs, u)) →
    let row := if op.op = 0 then [] else if op.overlap then buf else u.bytes srow slen
    let runs := writeRuns b.lo (rectBytes op row (fun o => u.byte (b.a + o)) (b.lo - b.a) n)
    u.rectChecks e.val (u.rectKept op row b.a b.lo n) = (true, v) → v.rectRmw runs = none → v.rectWrite e.val runs = (.ok, t) →
    let line := op.line + b.take
    let op' := if b.lines ≤ line then { op with row := op.row + 1, line := 0, buf := [] } else { op with line := line, buf := buf }
    exec (.rectBurst e) s = .next (t.setRect e.val { t.rect1 e.val with run := some { op' with gap := true } }).pump) ∧
  (∀ (s : State) (e : Fin 4) (op : RectOp) (count : Nat), s.live = true → (s.rect1 e.val).run = some op → op.gap = true →
    s.rectGap e.val op ≤ count →
    exec (.rectDeadtimeExpiry e count) s = .next (s.setRect e.val { s.rect1 e.val with run := some { op with gap := false } })) ∧
  (∀ (s : State) (e : Fin 4) (op : RectOp), let n := s.regF (kRct e.val + 0x34) 0 14
    s.live = true → (s.rect1 e.val).run = some op → n < op.row → n + 1 ≠ op.h → n + 1 ≠ op.wm →
    exec (.rectRowDone e) s = .next (s.setReg (kRct e.val + 0x34) (wd (n + 1))).pump) ∧
  (∀ (s : State) (e : Fin 4) (op : RectOp), let n := s.regF (kRct e.val + 0x34) 0 14
    s.live = true → (s.rect1 e.val).run = some op → n < op.row → n + 1 ≠ op.h → n + 1 = op.wm →
    exec (.rectRowDone e) s =
      .next (((s.setReg (kRct e.val + 0x34) (wd (n + 1))).setB (kRct e.val + 0x30) 29 true).pulse (260 + e.val)).pump) ∧
  (∀ (s : State) (e : Fin 4) (op : RectOp), let n := s.regF (kRct e.val + 0x34) 0 14
    s.live = true → (s.rect1 e.val).run = some op → n < op.row → n + 1 = op.h →
    exec (.rectRowDone e) s = .next (s.rectEnd e.val op repOk).pump) ∧
  (∀ (s : State) (e : Fin 4) (op : RectOp), s.live = true → (s.rect1 e.val).run = some op → op.row = op.h →
    s.regF (kRct e.val + 0x34) 0 14 + 1 = op.h → exec (.rectOpDone e) s = .next (s.rectEnd e.val op repOk).pump) ∧
  (∀ (s : State) (e : Fin 4), s.live = true → s.rectMeetsPoison e.val = true →
    exec (.rectReadUncorr e) s = .next (s.rectBurst e.val).pump)

/-- A Dumbwaiter channel at work: a fetched descriptor without a cause against it becomes current, one with a cause halts the channel with CONFIG_MISMATCH (R344, R350); a burst of a ready channel moves its bytes and shows what is left, with its gap (R347, R348); the gap, of DWT_PACE or of the throttle where that is longer, ends when its count is reached (R318, R348); a descriptor that is done is counted, with its interrupt, and then ends the chain, halts at a stop, or leads on (R352 to R354); a burst that meets uncorrectable data halts the channel (R351). -/
def Obligations.DumbwaiterRows : Prop :=
  (∀ (s t : State) (c : Fin 64) (a : Nat) (bs : List Byte), s.live = true → (s.dwc c.val).fetch = some a →
    s.regB (kDw c.val + 4) 31 = true → a % 32 = 0 → s.dwInside (a, 32) = true → s.devRead 0x09 c.val a 32 = (.ok bs, t) →
    t.dwCause (toWords bs) = none →
    exec (.dmaDescriptorFetch c) s = .next (((t.dwCurrent c.val a (toWords bs)).finish (.dmaRun c.val) repOk).dwDone0 c.val).pump) ∧
  (∀ (s t : State) (c : Fin 64) (a k : Nat) (bs : List Byte), s.live = true → (s.dwc c.val).fetch = some a →
    s.regB (kDw c.val + 4) 31 = true → a % 32 = 0 → s.dwInside (a, 32) = true → s.devRead 0x09 c.val a 32 = (.ok bs, t) →
    t.dwCause (toWords bs) = some k →
    exec (.dmaDescriptorFetch c) s =
      .next ((t.dwRefuse c.val .configMismatch k a).finish (.dmaRun c.val) (rep .configMismatch 0x09)).pump) ∧
  (∀ (s t u : State) (c : Fin 64) (bs : List Byte), s.live = true → s.dwReady c.val = true →
    let k := kDw c.val
    let d := (s.dwc c.val).desc
    let rem := (s.reg (k + 0x14)).toNat
    let k0 := (dwWord d 1).toNat - rem
    let n := min (64 * 2 ^ fld (dwWord d 0) 24 3) rem
    let q := if bit (dwWord d 0) 29 then s.setF (k + 0x34) 0 4 (s.regF (k + 0x34) 0 4 - 1) else s
    dwReads c (dwSide d 0) q (dwChunks (dwSide d 0) n k0 n) [] = (.ok bs, t) → t.dwRmw (dwSide d 1) (dwChunks (dwSide d 1) n k0 n) = none →
    dwWrites c (dwSide d 1) k0 bs t (dwChunks (dwSide d 1) n k0 n) = (.ok, u) → u.regB (k + 4) 31 = true →
    let v := u.dwShow c.val d (rem - n)
    exec (.dmaBurst c) s = .next ((v.setDw c.val { v.dwc c.val with gap := true }).dwWait c.val).pump) ∧
  (∀ (s : State) (c : Fin 64) (count : Nat), s.live = true → (s.dwc c.val).gap = true → s.dwPause c.val ≤ count →
    exec (.dmaPaceExpiry c count) s = .next (s.setDw c.val { s.dwc c.val with gap := false })) ∧
  (∀ (s : State) (c : Fin 64), let d := (s.dwc c.val).desc
    let st := if dwWord d 1 = 0 then Status.okEmpty else .ok
    let u := (s.incReg (kDw c.val + 0x38)).setF (kDw c.val + 4) 0 16 (statusCode st)
    let t := if bit (dwWord d 0) 31 then u.setB (kDw c.val + 4) 27 true else u
    s.live = true → s.regB (kDw c.val + 4) 31 = true → d ≠ [] → (s.dwc c.val).fetch = none → s.reg (kDw c.val + 0x14) = 0 →
    bit (dwWord d 0) 30 = true → exec (.dmaDescriptorDone c) s = .next (t.dwHalt c.val st 0).pump) ∧
  (∀ (s : State) (c : Fin 64), let d := (s.dwc c.val).desc
    let st := if dwWord d 1 = 0 then Status.okEmpty else .ok
    let u := (s.incReg (kDw c.val + 0x38)).setF (kDw c.val + 4) 0 16 (statusCode st)
    let t := if bit (dwWord d 0) 31 then u.setB (kDw c.val + 4) 27 true else u
    let next := (dwWord d 6).toNat + 2 ^ 32 * fld (dwWord d 7) 0 8
    s.live = true → s.regB (kDw c.val + 4) 31 = true → d ≠ [] → (s.dwc c.val).fetch = none → s.reg (kDw c.val + 0x14) = 0 →
    bit (dwWord d 0) 30 = false →
    (t.regB (kDw c.val + 4) 29 = true → exec (.dmaDescriptorDone c) s = .next (t.dwHalt c.val .stopped next).pump) ∧
    (t.regB (kDw c.val + 4) 29 = false → let v := if bit (dwWord d 0) 31 then t.pulse (192 + c.val) else t
      exec (.dmaDescriptorDone c) s = .next (v.setDw c.val { v.dwc c.val with fetch := some next }).pump)) ∧
  (∀ (s : State) (c : Fin 64), s.live = true → s.dwMeetsPoison c = true →
    exec (.dmaReadUncorr c) s = .next (s.dwBurst c).pump)

/-! ## The Music Room -/

/-- The Music Room: without its clock a boundary does nothing, and with it the count of samples rises and the boundary is taken (R361); the loss and the return of an external clock change CLK and assert source 493, the loss with a record (R361); a slave port locks after four good frames in a row and a slip is counted (R392); a short on an output line is reported once and clears when it goes (R531). -/
def Obligations.MusicRows : Prop :=
  (∀ (s : State) (tdm : List (BitVec 24) × List (BitVec 24)) (late : List (Fin 512)), s.full = true → s.clockTaken.regB kMStat 31 = false →
    exec (.sampleBoundary tdm late) s = .next s.clockTaken.pump) ∧
  (∀ (s : State) (tdm : List (BitVec 24) × List (BitVec 24)) (late : List (Fin 512)), let c := s.clockTaken
    s.full = true → c.regB kMStat 31 = true → c.ready = true → c.present 6 = true →
    let t := (c.setW64 (kMUS + 4) (c.w64 (kMUS + 4) + 1)).setW64 (kMUS + 0xC) c.now
    let u := State.portsDue { t with mus := { t.mus with tdmIn := ((tdm.1.map BitVec.toInt, tdm.2.map BitVec.toInt) :: t.mus.tdmIn).take 3 } }
    let m := (u.each u.someVoices State.voiceDue).mixDue
    let w := (State.portRequests { m with mus := { m.mus with wire := m.wireNow } }).mixPeriod.delayMarks
    let r := w.someVoices.foldl (fun (a : (Tbl Int × Tbl Int) × State) v =>
      if a.2.playing v then (if isTone v then a.2.toneVoice v a.1 else a.2.sampleVoice v ((late.map (·.val)).contains v) a.1) else a) (([], []), w)
    exec (.sampleBoundary tdm late) s =
      .next (State.pump { r.2 with mus := { r.2.mus with bus := r.1.1, direct := (r.1.2 :: r.2.mus.direct).take 3 } })) ∧
  (∀ s : State, s.full = true → s.regB kMStat 31 = true → s.regB kMStat 4 = true →
    let t := ((s.setB kMStat 31 false).portsRun false).pulse 493
    exec .audioClockLost s = .next (t.errRec sevInfo 0x0B 0x0050 0 .notReady (lo32 (s.w64 (kMUS + 4))) 0)) ∧
  (∀ s : State, s.full = true → s.regB kMStat 31 = false → s.regB kMStat 4 = true →
    exec .audioClockReturn s = .next (((s.setB kMStat 31 true).portsRun true).pulse 493)) ∧
  (∀ (s : State) (k : Fin 10), s.full = true → s.regB (kPcfg k.val) 31 = true → s.regB (kPcfg k.val) 30 = false →
    s.regB (kPcfg k.val + 4) 31 = false → Tbl.get (fun _ => 0) s.mus.lockRun k.val = 3 →
    exec (.tdmSlaveFrame k true false) s =
      .next (((({ s with mus := { s.mus with lockRun := Tbl.set (fun _ => 0) s.mus.lockRun k.val 4 } } : State).setB (kPcfg k.val + 4) 31 true).pulse 492))) ∧
  (∀ (s : State) (k : Fin 10), s.full = true → s.regB (kPcfg k.val) 31 = true → s.regB (kPcfg k.val) 30 = false →
    s.regB (kPcfg k.val + 4) 31 = true →
    exec (.tdmSlaveFrame k false false) s =
      .next ((({ s with mus := { s.mus with lockRun := Tbl.set (fun _ => 0) s.mus.lockRun k.val 0 } } : State).setB (kPcfg k.val + 4) 31 false).pulse 492)) ∧
  (∀ (s : State) (k : Fin 10), s.full = true → s.regB (kPcfg k.val) 31 = true → s.regB (kPcfg k.val) 30 = false →
    s.regB (kPcfg k.val + 4) 31 = true →
    let n := min 4 (Tbl.get (fun _ => 0) s.mus.lockRun k.val + 1)
    let u : State := { s with mus := { s.mus with lockRun := Tbl.set (fun _ => 0) s.mus.lockRun k.val n } }
    let t := (u.setB (kPcfg k.val + 4) 30 true).setF (kPcfg k.val + 4) 0 16 ((u.regF (kPcfg k.val + 4) 0 16 + 1) % 65536)
    exec (.tdmSlaveFrame k true true) s = .next (if u.regB (kPcfg k.val + 4) 30 then t else t.pulse 492)) ∧
  (∀ (s : State) (k : Fin 10), s.full = true → s.regB (kPcfg k.val) 31 = true → k.val < 8 → s.regB (kPcfg k.val + 4) 29 = false →
    let t := s.setB (kPcfg k.val + 4) 29 true
    exec (.tdmShort k true) s = .next ((t.pulse 492).errRec sevInfo 0x0B 0x0052 k.val .ok (t.reg (kPcfg k.val + 4)) 0)) ∧
  (∀ (s : State) (k : Fin 10), s.full = true → s.regB (kPcfg k.val) 31 = true → k.val < 8 →
    exec (.tdmShort k false) s = .next (s.setB (kPcfg k.val + 4) 29 false))

/-! ## The Bell board and the time base -/

/-- The events of the Bell board and the time base: an edge sets PEND of its source and delivers it if it has become deliverable (R432, R435); a level source's PEND follows its input (R432); a hold-off timer that has counted its period ends and its deliverable members are delivered (R441); an armed compare channel whose value TMB_NOW has reached fires, and one whose value it has not reached waits (R448); an edge that an armed capture channel watches is counted or taken (R451). -/
def Obligations.BellAndTimeRows : Prop :=
  (∀ (s : State) (i : Fin 1024), s.live = true → srcReserved i.val = false → srcLevel i.val = false →
    exec (.irqEdge i) s = .next ((s.setSrc i.val { s.src i.val with pend := true }).notify s i.val)) ∧
  (∀ (s : State) (i : Fin 1024) (b : Bool), s.live = true → srcReserved i.val = false → srcLevel i.val = true →
    exec (.irqLevelChange i b) s = .next ((s.setSrc i.val { s.src i.val with inp := b, pend := b }).notify s i.val)) ∧
  (∀ (s : State) (g : Fin 64), s.live = true → s.held g.val = true → s.holdCount g.val ≠ 0 →
    s.regF (kIrqHold g.val) 0 16 ≤ s.holdCount g.val → let t := s.setReg (kGrp g.val) 0
    exec (.holdoffExpiry g) s = .next (t.each ((t.bell.srcs.map (·.1)).filter fun i => t.deliverable i && decide (t.planGrp i = g.val)) State.deliver)) ∧
  (∀ (s : State) (k : Fin 64), s.live = true → s.regB (kCmp k.val + 8) 31 = true → (s.cmpValue k.val).toNat ≤ s.now.toNat →
    (s.w64 (kCmpArmed k.val)).toNat < (s.cmpValue k.val).toNat →
    exec (.compareFire k) s = .next (s.fireCompare k.val)) ∧
  (∀ (s : State) (k : Fin 64), s.live = true → s.regB (kCmp k.val + 8) 31 = true → (s.cmpValue k.val).toNat ≤ s.now.toNat →
    (s.cmpValue k.val).toNat ≤ (s.w64 (kCmpArmed k.val)).toNat →
    exec (.compareFire k) s = .next ((s.setB (kCmp k.val + 8) 29 true).fireCompare k.val)) ∧
  (∀ (s : State) (k : Fin 64), s.live = true → s.now.toNat < (s.cmpValue k.val).toNat → exec (.compareFire k) s = .next s) ∧
  (∀ (s : State) (k : Fin 32), let cfg := s.reg (kCap k.val)
    s.live = true → bit cfg 31 = true → (fld cfg 0 8 < 0x60 ∨ fld cfg 0 8 = 0xA0) → bit cfg 29 = true →
    (s.w64 (kCapPre k.val)).toNat ≤ (s.cap k.val).pre → (s.cap k.val).fifo.length < 4 →
    exec (.captureEdge k true) s =
      .next ((s.setCap k.val ⟨(s.cap k.val).fifo ++ [s.capOf (capHead cfg)], 0⟩).setB (kCap k.val + 8) 31 true)) ∧
  (∀ (s : State) (k : Fin 32), let cfg := s.reg (kCap k.val)
    s.live = true → bit cfg 31 = true → (fld cfg 0 8 < 0x60 ∨ fld cfg 0 8 = 0xA0) → bit cfg 30 = true →
    (s.w64 (kCapPre k.val)).toNat ≤ (s.cap k.val).pre → 4 ≤ (s.cap k.val).fifo.length →
    exec (.captureEdge k false) s =
      .next ((s.setCap k.val { s.cap k.val with pre := 0 }).setB (kCap k.val + 8) 30 true))

/-! ## The pin sequencers -/

/-- A slot of a pin sequencer in which a legal instruction w of a running channel is up executes it (R455, R457, R458): SKIP goes on; DRIVE sets the pins its mask names; EMIT and SAMPLE move the step's bits when a step is due, and complete with the last of them; FETCH takes a program word or the oldest fed word, or stays; DEPOSIT puts G into the sample FIFO, or sets the overflow, or stays; AWAIT goes on when its pad has the level and stays otherwise; BRANCH jumps where its condition holds; LOOP pushes and NEXT counts the loop on or leaves it; PERIOD sets the step period; SIGNAL sets the level of the channel and may request; STOPCH stops; HOLD counts steps. -/
def Obligations.PinSlotRows : Prop :=
  ∀ (s : State) (e : Fin 4) (k : Fin 64) (cyc : Nat) (pads : BitVec 96) (i pc : Nat) (w : Word), Slots s e k i pc w →
    let u := s.slotAt e.val k.val i cyc pads
    let op := fld w 28 4
    let v := u.psqCh i
    let on := (pc + 1) % 64
    let n := fld w 0 5 + 1
    let g := kPc i + 0x10
    let count := kPc i + 0x1C
    (let r := u.psqExec i ⟨w, 0, false⟩ true (pc + 1);
      exec (.psqSlot e k cyc pads) s = .next ((r.2.psqFlow i w r.1 (pc + 1) false).psqShow i).pump) ∧
    (op = 0 → exec (.psqSkip e k cyc pads) s = u.psqTo i on) ∧
    (op = 1 → let o := psqOut v.cfg0;
      exec (.psqDrive e k cyc pads) s = (u.each (List.range o.2) fun s k =>
        if bit w (8 + k) then s.pinDrive (o.1 + k) (some (bit w (16 + k))) (bit w k) else s).psqTo i on) ∧
    (op = 2 → u.psqStepDue i = true → n ≤ psqW w → exec (.psqEmit e k cyc pads) s = ((u.psqEmitBits i w n).setF count 0 16 0).psqTo i on) ∧
    (op = 2 → u.psqStepDue i = true → psqW w < n →
      exec (.psqEmit e k cyc pads) s = ((u.psqEmitBits i w (psqW w)).setF count 0 16 0).psqStays i ⟨w, n - psqW w, false⟩) ∧
    (op = 2 → u.psqStepDue i = false → exec (.psqEmit e k cyc pads) s = u.psqStays i ⟨w, n, false⟩) ∧
    (op = 3 → u.psqStepDue i = true → n ≤ psqW w → exec (.psqSample e k cyc pads) s = ((u.psqSampleBits i w n).setF count 0 16 0).psqTo i on) ∧
    (op = 3 → u.psqStepDue i = true → psqW w < n →
      exec (.psqSample e k cyc pads) s = ((u.psqSampleBits i w (psqW w)).setF count 0 16 0).psqStays i ⟨w, n - psqW w, false⟩) ∧
    (op = 3 → u.psqStepDue i = false → exec (.psqSample e k cyc pads) s = u.psqStays i ⟨w, n, false⟩) ∧
    (op = 4 → bit w 8 = false → exec (.psqFetch e k cyc pads) s = (u.setReg (kPc i + 0xC) (u.reg (kPw i (fld w 0 6)))).psqTo i on) ∧
    (∀ x q, op = 4 → bit w 8 = true → v.fq = x :: q →
      exec (.psqFetch e k cyc pads) s = ((u.setReg (kPc i + 0xC) x).setPsqCh i { v with fq := q }).psqTo i on) ∧
    (op = 4 → bit w 8 = true → v.fq = [] → exec (.psqFetch e k cyc pads) s = u.psqStays i ⟨w, 0, false⟩) ∧
    (op = 5 → v.sq.length < 8 → let t := u.setPsqCh i { v with sq := v.sq ++ [u.reg g] };
      exec (.psqDeposit e k cyc pads) s = (if bit w 9 then t else t.setReg g 0).psqTo i on) ∧
    (op = 5 → 8 ≤ v.sq.length → bit w 8 = true → let t := u.setB (kPc i) 25 true;
      exec (.psqDeposit e k cyc pads) s = (if bit w 9 then t else t.setReg g 0).psqTo i on) ∧
    (op = 5 → 8 ≤ v.sq.length → bit w 8 = false → exec (.psqDeposit e k cyc pads) s = u.psqStays i ⟨w, 0, false⟩) ∧
    (op = 6 → fld w 24 4 = 0 → u.pad (fld w 0 7) = bit w 8 → exec (.psqAwait e k cyc pads) s = u.psqTo i on) ∧
    (op = 6 → (fld w 24 4 = 0 → u.pad (fld w 0 7) ≠ bit w 8) → exec (.psqAwait e k cyc pads) s = u.psqStays i ⟨w, 0, false⟩) ∧
    (op = 7 → let holds := match fld w 24 4 with
        | 0 => true
        | 1 => u.pad (fld w 8 7)
        | 2 => !u.pad (fld w 8 7)
        | 3 => !v.fq.isEmpty
        | 4 => decide (v.sq.length < 8)
        | _ => u.regB (kPc i) 29;
      exec (.psqBranch e k cyc pads) s = u.psqTo i (if holds then fld w 0 6 else on)) ∧
    (op = 8 → u.psqDepth i ≠ 2 → exec (.psqLoop e k cyc pads) s = (u.psqPush i (fld w 0 16) (pc + 1)).psqTo i on) ∧
    (op = 8 → u.psqDepth i = 2 → exec (.psqLoop e k cyc pads) s = .next ((u.psqIllegal i w).psqShow i).pump) ∧
    (op = 9 → u.psqDepth i ≠ 0 → let top := u.reg (kPc i + 0x14);
      exec (.psqNext e k cyc pads) s =
        if fld top 16 16 ≠ 0 then (u.setF (kPc i + 0x14) 16 16 (fld top 16 16 - 1)).psqTo i (fld top 8 6) else (u.psqPop i).psqTo i on) ∧
    (op = 9 → u.psqDepth i = 0 → exec (.psqNext e k cyc pads) s = .next ((u.psqIllegal i w).psqShow i).pump) ∧
    (op = 0xA → exec (.psqPeriod e k cyc pads) s = (u.setF count 16 16 (fld w 0 16)).psqTo i on) ∧
    (op = 0xB → let t := (u.setB (kPc i) 29 (bit w 0)).psqSource i;
      exec (.psqSignal e k cyc pads) s = (if bit w 1 then t.request i else t).psqTo i on) ∧
    (op = 0xC → exec (.psqStopch e k cyc pads) s = .next ((u.psqHalt i).psqShow i).pump) ∧
    (op = 0xD → u.psqStepDue i = true → fld w 0 16 = 0 → exec (.psqHold e k cyc pads) s = (u.setF count 0 16 0).psqTo i on) ∧
    (op = 0xD → u.psqStepDue i = true → fld w 0 16 ≠ 0 →
      exec (.psqHold e k cyc pads) s = (u.setF count 0 16 0).psqStays i ⟨w, fld w 0 16, false⟩) ∧
    (op = 0xD → u.psqStepDue i = false → exec (.psqHold e k cyc pads) s = u.psqStays i ⟨w, fld w 0 16 + 1, false⟩)

/-- What the legal instructions of a pin sequencer do in their slot (R458): SKIP goes on; FETCH takes the oldest fed word or a program word into E, or stays; DEPOSIT puts G into the sample FIFO and clears it unless told to keep it, or stays while the FIFO is full; AWAIT of a pad goes on at its level; BRANCH jumps when its condition holds; LOOP and NEXT count a loop, illegal beyond two levels and outside one; PERIOD sets the step period; SIGNAL sets the channel's level; STOPCH stops; EMIT and SAMPLE move bits at a step that is due and stay otherwise. -/
def Obligations.PinInstructions : Prop :=
  ∀ (s : State) (i : Nat) (w : Word) (ret : Nat), psqLegal w = true →
    let l : PsqLat := ⟨w, 0, false⟩
    let op := fld w 28 4
    let v := s.psqCh i
    (op = 0 → s.psqExec i l true ret = (.next, s)) ∧
    (op = 2 → s.psqStepDue i = true → fld w 0 5 < psqW w →
      s.psqExec i l true ret = (.next, (s.psqEmitBits i w (fld w 0 5 + 1)).setF (kPc i + 0x1C) 0 16 0)) ∧
    (op = 2 → s.psqStepDue i = false → s.psqExec i l true ret = (.stall { l with left := fld w 0 5 + 1 }, s)) ∧
    (op = 3 → s.psqStepDue i = true → fld w 0 5 < psqW w →
      s.psqExec i l true ret = (.next, (s.psqSampleBits i w (fld w 0 5 + 1)).setF (kPc i + 0x1C) 0 16 0)) ∧
    (op = 3 → s.psqStepDue i = false → s.psqExec i l true ret = (.stall { l with left := fld w 0 5 + 1 }, s)) ∧
    (op = 4 → bit w 8 = false → s.psqExec i l true ret = (.next, s.setReg (kPc i + 0xC) (s.reg (kPw i (fld w 0 6))))) ∧
    (op = 4 → bit w 8 = true → v.fq = [] → s.psqExec i l true ret = (.stall l, s)) ∧
    (∀ x t, op = 4 → bit w 8 = true → v.fq = x :: t →
      s.psqExec i l true ret = (.next, (s.setReg (kPc i + 0xC) x).setPsqCh i { v with fq := t })) ∧
    (op = 5 → v.sq.length < 8 → bit w 9 = false → s.psqExec i l true ret =
      (.next, (s.setPsqCh i { v with sq := v.sq ++ [s.reg (kPc i + 0x10)] }).setReg (kPc i + 0x10) 0)) ∧
    (op = 5 → 8 ≤ v.sq.length → bit w 8 = false → s.psqExec i l true ret = (.stall l, s)) ∧
    (op = 6 → fld w 24 4 = 0 → s.pad (fld w 0 7) = bit w 8 → s.psqExec i l true ret = (.next, s)) ∧
    (op = 6 → fld w 24 4 = 0 → s.pad (fld w 0 7) ≠ bit w 8 → s.psqExec i l true ret = (.stall l, s)) ∧
    (op = 7 → fld w 24 4 = 0 → s.psqExec i l true ret = (.jump (fld w 0 6), s)) ∧
    (op = 7 → fld w 24 4 = 1 → s.pad (fld w 8 7) = false → s.psqExec i l true ret = (.next, s)) ∧
    (op = 8 → s.psqDepth i = 2 → s.psqExec i l true ret = (.illegal, s)) ∧
    (op = 8 → s.psqDepth i ≠ 2 → s.psqExec i l true ret = (.next, s.psqPush i (fld w 0 16) ret)) ∧
    (op = 9 → s.psqDepth i = 0 → s.psqExec i l true ret = (.illegal, s)) ∧
    (op = 9 → s.psqDepth i ≠ 0 → fld (s.reg (kPc i + 0x14)) 16 16 = 0 → s.psqExec i l true ret = (.next, s.psqPop i)) ∧
    (op = 9 → s.psqDepth i ≠ 0 → fld (s.reg (kPc i + 0x14)) 16 16 ≠ 0 → s.psqExec i l true ret =
      (.jump (fld (s.reg (kPc i + 0x14)) 8 6), s.setF (kPc i + 0x14) 16 16 (fld (s.reg (kPc i + 0x14)) 16 16 - 1))) ∧
    (op = 0xA → s.psqExec i l true ret = (.next, s.setF (kPc i + 0x1C) 16 16 (fld w 0 16))) ∧
    (op = 0xB → bit w 1 = false → s.psqExec i l true ret = (.next, (s.setB (kPc i) 29 (bit w 0)).psqSource i)) ∧
    (op = 0xB → bit w 1 = true → s.psqExec i l true ret = (.next, ((s.setB (kPc i) 29 (bit w 0)).psqSource i).request i)) ∧
    (op = 0xC → s.psqExec i l true ret = (.stop, s))

/-- The pins and banks: a readback mismatch on a driven pin that the channel watches sets its fault, and with SAFE releases it, and is counted and recorded (R462); a bank that loses its supply reads 0 on its pins, with a record, and one that has it takes its level (R461). -/
def Obligations.PinRows : Prop :=
  (∀ (s : State) (p : Fin 96), let i := s.regF (kPin p.val) 0 7
    s.live = true → s.regB (kPin p.val) 31 = true → fld (s.psqCh i).cfg1 0 16 ≠ 0 → s.regB (kPin p.val) 30 = true →
    s.regB (kPin p.val) 27 = false → bit (s.psqCh i).cfg1 23 = false →
    let t := s.setB (kPin p.val) 27 true
    let b := kBank (p.val / 16)
    let u := (t.setF b 0 16 ((t.regF b 0 16 + 1) % 65536))
    exec (.psqPinShort p true) s =
      .next ((u.psqFault i).errRec sevInfo 0x08 0x0042 p.val .ok (u.reg (kPin p.val)) (u.reg b)).pump) ∧
  (∀ (s : State) (p : Fin 96), let i := s.regF (kPin p.val) 0 7
    s.live = true → s.regB (kPin p.val) 31 = true → s.regB (kPin p.val) 30 = true → fld (s.psqCh i).cfg1 0 16 ≠ 0 →
    exec (.psqPinShort p false) s = .next ((s.setB (kPin p.val) 27 false).psqFault i).pump) ∧
  (∀ (s : State) (b : Fin 6) (lvl : Fin 3), s.live = true → lvl ≠ 0 →
    exec (.psqBankSupplyChange b lvl) s = .next (s.setF (kBank b.val) 29 2 lvl.val).pump) ∧
  (∀ (s : State) (b : Fin 6), s.live = true → s.regF (kBank b.val) 29 2 ≠ 0 →
    let t := (s.setF (kBank b.val) 29 2 0).each (List.range 16) fun s k => s.setB (kPin (16 * b.val + k)) 28 false
    exec (.psqBankSupplyChange b 0) s = .next (t.errRec sevInfo 0x08 0x0044 b.val .notReady (t.reg (kBank b.val)) 0).pump)

/-! ## The Nioft cores -/

/-- The register instructions of Nioft-14, each by itself: the value it puts into its destination, the flags it leaves, and the PC and the cycles after it; MFS and MTS move a special register and NOP does nothing but pass (R405 to R409). -/
def Obligations.NioRegisterRows : Prop :=
  ∀ (s : State) (n : Fin 16) (i : NInstr), Stands s n i →
    let t := s.nioAt n.val
    let a := (t.core n.val).reg i.d
    let b := (t.core n.val).reg i.s
    let fl := (t.core n.val).fl
    let ends (v : Word) (f : Nat) : Out := .next (((t.nioPut n.val i.d v).nioFl n.val f).nioEnd n.val (s.pc n.val + i.len) i.len).pump
    let tests (f : Nat) : Out := .next ((t.nioFl n.val f).nioEnd n.val (s.pc n.val + i.len) i.len).pump
    (i.op = .mov → exec (.nioMov n) s = ends b fl) ∧
    (i.op = .movi → exec (.nioMovi n) s = ends (imm6 i.imm) fl) ∧
    (i.op = .ldi → exec (.nioLdi n) s = ends (wd i.imm) fl) ∧
    (i.op = .add → exec (.nioAdd n) s = ends (a + b) (addFl a b false).2) ∧
    (i.op = .addi → exec (.nioAddi n) s = ends (a + imm6 i.imm) (addFl a (imm6 i.imm) false).2) ∧
    (i.op = .adc → exec (.nioAdc n) s = ends (a + b + wd (b2n (flagOf fl 1))) (addFl a b (flagOf fl 1)).2) ∧
    (i.op = .sub → exec (.nioSub n) s = ends (a - b) (subFl a b true).2) ∧
    (i.op = .sbc → exec (.nioSbc n) s = ends (a - b - wd (1 - b2n (flagOf fl 1))) (subFl a b (flagOf fl 1)).2) ∧
    (i.op = .neg → exec (.nioNeg n) s = ends (0 - a) (subFl 0 a true).2) ∧
    (i.op = .cmp → exec (.nioCmp n) s = tests (subFl a b true).2) ∧
    (i.op = .tst → exec (.nioTst n) s = tests (logFl fl (a &&& b))) ∧
    (i.op = .and → exec (.nioAnd n) s = ends (a &&& b) (logFl fl (a &&& b))) ∧
    (i.op = .or → exec (.nioOr n) s = ends (a ||| b) (logFl fl (a ||| b))) ∧
    (i.op = .xor → exec (.nioXor n) s = ends (a ^^^ b) (logFl fl (a ^^^ b))) ∧
    (i.op = .not → exec (.nioNot n) s = ends (~~~ a) (logFl fl (~~~ a))) ∧
    (i.op = .shl → exec (.nioShl n) s = ends (a <<< i.imm) (shiftFl .shl fl a i.imm).2) ∧
    (i.op = .shr → exec (.nioShr n) s = ends (a >>> i.imm) (shiftFl .shr fl a i.imm).2) ∧
    (i.op = .sar → exec (.nioSar n) s = ends (a.sshiftRight i.imm) (shiftFl .sar fl a i.imm).2) ∧
    (i.op = .ror → exec (.nioRor n) s = ends (shiftFl .ror fl a i.imm).1 (shiftFl .ror fl a i.imm).2) ∧
    (i.op = .shlReg → exec (.nioShlReg n) s = ends (a <<< (b.toNat % 32)) (shiftFl .shlReg fl a (b.toNat % 32)).2) ∧
    (i.op = .shrReg → exec (.nioShrReg n) s = ends (a >>> (b.toNat % 32)) (shiftFl .shrReg fl a (b.toNat % 32)).2) ∧
    (i.op = .sarReg → exec (.nioSarReg n) s = ends (a.sshiftRight (b.toNat % 32)) (shiftFl .sarReg fl a (b.toNat % 32)).2) ∧
    (i.op = .mfs → exec (.nioMfs n) s = .next ((t.nioPut n.val i.d (t.spec n.val i.s)).nioEnd n.val (s.pc n.val + i.len) 1).pump) ∧
    (i.op = .mts → exec (.nioMts n) s = .next ((t.setSpec n.val i.s a).nioEnd n.val (s.pc n.val + i.len) 1).pump) ∧
    (i.op = .nop → exec (.nioNop n) s = .next (t.nioEnd n.val (s.pc n.val + i.len) 1).pump)

/-- The flags of Nioft-14: an addition sets N and Z from its result, C from the carry out of bit 31 and V from a signed result that 32 bits do not hold; a subtraction does the same with C = 1 for no borrow; a logical result keeps C and clears V; a shift by 0 keeps C (R406). -/
def Obligations.NioFlags : Prop :=
  (∀ (a b : Word) (c : Bool), let r := addFl a b c
    r.1 = a + b + wd (b2n c) ∧ flagOf r.2 3 = r.1.msb ∧ flagOf r.2 2 = decide (r.1 = 0) ∧
    (flagOf r.2 1 = true ↔ 2 ^ 32 ≤ a.toNat + b.toNat + b2n c) ∧
    (flagOf r.2 0 = true ↔ a.toInt + b.toInt + b2n c < -2 ^ 31 ∨ 2 ^ 31 ≤ a.toInt + b.toInt + b2n c)) ∧
  (∀ (a b : Word) (c : Bool), let r := subFl a b c
    r.1 = a - b - wd (1 - b2n c) ∧ flagOf r.2 3 = r.1.msb ∧ flagOf r.2 2 = decide (r.1 = 0) ∧
    (flagOf r.2 1 = true ↔ b.toNat + (1 - b2n c) ≤ a.toNat) ∧
    (flagOf r.2 0 = true ↔ a.toInt - b.toInt - (1 - b2n c : Nat) < -2 ^ 31 ∨ 2 ^ 31 ≤ a.toInt - b.toInt - (1 - b2n c : Nat))) ∧
  (∀ (fl : Nat) (r : Word), flagOf (logFl fl r) 3 = r.msb ∧ flagOf (logFl fl r) 2 = decide (r = 0) ∧
    flagOf (logFl fl r) 1 = flagOf fl 1 ∧ flagOf (logFl fl r) 0 = false) ∧
  (∀ (o : NOp) (fl : Nat) (a : Word), flagOf (shiftFl o fl a 0).2 1 = flagOf fl 1)

/-- The multiplies of Nioft-14 begin their product, signed or unsigned, which an instruction three cycles later finds in MH:ML, replacing it or added to it, and one two cycles later does not (R412). -/
def Obligations.NioMultiplyRows : Prop :=
  (∀ (s : State) (n : Fin 16) (i : NInstr), Stands s n i →
    let t := s.nioAt n.val
    let a := (t.core n.val).reg i.d
    let b := (t.core n.val).reg i.s
    let begins (acc : Bool) (p : DWord) : Out :=
      .next ((t.updCore n.val fun c => { c with muls := c.muls ++ [⟨s.cyc n.val, acc, p⟩] }).nioEnd n.val (s.pc n.val + i.len) 1).pump
    (i.op = .mul → exec (.nioMul n) s = begins false (BitVec.ofInt 64 (a.toInt * b.toInt))) ∧
    (i.op = .mac → exec (.nioMac n) s = begins true (BitVec.ofInt 64 (a.toInt * b.toInt))) ∧
    (i.op = .mulu → exec (.nioMulu n) s = begins false (BitVec.ofNat 64 (a.toNat * b.toNat)))) ∧
  (∀ (c : Core) (t : Nat) (acc : Bool) (p : DWord), c.muls = [⟨t, acc, p⟩] →
    c.mulDone (t + 2) = c ∧
    (acc = false → (c.mulDone (t + 3)).mh = hi32 p ∧ (c.mulDone (t + 3)).ml = lo32 p) ∧
    (acc = true → (c.mulDone (t + 3)).mh = hi32 (dw c.ml c.mh + p) ∧ (c.mulDone (t + 3)).ml = lo32 (dw c.ml c.mh + p)))

/-- The loads and stores of Nioft-14 in local data memory: an aligned load puts the byte, halfword or word of its address into its register in two cycles, LDBS with its sign; an aligned store writes it, a word in one cycle and less in two; LDSP and STSP use W15 plus four times their immediate; and a load or store at an address its size does not divide takes the trap ALIGNF with that address and writes nothing (R407, R411, R418). -/
def Obligations.NioMemoryRows : Prop :=
  ∀ (s : State) (n : Fin 16) (i : NInstr), Stands s n i →
    let t := s.nioAt n.val
    let v := (t.core n.val).reg i.d
    let a := ((t.core n.val).reg i.s).toNat
    let sp := ((t.core n.val).reg 15 + wd (4 * i.imm)).toNat
    let loads (x : Word) : Out := .next ((t.nioPut n.val i.d x).nioEnd n.val (s.pc n.val + 1) 2).pump
    let raw (a k : Nat) : Word := wd (leNat ((t.core n.val).bytes a k))
    (i.op = .ldb → t.localOk n.val a → exec (.nioLdb n) s = loads (raw a 1)) ∧
    (i.op = .ldbs → t.localOk n.val a → exec (.nioLdbs n) s = loads (iw (sext 8 (raw a 1).toNat))) ∧
    (i.op = .ldh → t.localOk n.val a → a % 2 = 0 → exec (.nioLdh n) s = loads (raw a 2)) ∧
    (i.op = .ldw → t.localOk n.val a → a % 4 = 0 → exec (.nioLdw n) s = loads (raw a 4)) ∧
    (i.op = .ldsp → t.localOk n.val sp → stackBad sp = false → exec (.nioLdsp n) s = loads (raw sp 4)) ∧
    (∀ u, i.op = .stb → t.localOk n.val a → t.dataWrite n.val a 1 v = some u →
      exec (.nioStb n) s = .next (u.nioEnd n.val (s.pc n.val + 1) 2).pump) ∧
    (∀ u, i.op = .sth → t.localOk n.val a → a % 2 = 0 → t.dataWrite n.val a 2 v = some u →
      exec (.nioSth n) s = .next (u.nioEnd n.val (s.pc n.val + 1) 2).pump) ∧
    (∀ u, i.op = .stw → t.localOk n.val a → a % 4 = 0 → t.dataWrite n.val a 4 v = some u →
      exec (.nioStw n) s = .next (u.nioEnd n.val (s.pc n.val + 1) 1).pump) ∧
    (∀ u, i.op = .stsp → t.localOk n.val sp → stackBad sp = false → t.dataWrite n.val sp 4 v = some u →
      exec (.nioStsp n) s = .next (u.nioEnd n.val (s.pc n.val + 1) 1).pump) ∧
    (i.op = .ldw → a % 4 ≠ 0 → exec (.nioLdw n) s = .next (t.nioTrap n.val cAlignf a (s.pc n.val)).pump) ∧
    (i.op = .stw → a % 4 ≠ 0 → exec (.nioStw n) s = .next (t.nioTrap n.val cAlignf a (s.pc n.val)).pump) ∧
    (i.op = .ldh → a % 2 ≠ 0 → exec (.nioLdh n) s = .next (t.nioTrap n.val cAlignf a (s.pc n.val)).pump) ∧
    (i.op = .sth → a % 2 ≠ 0 → exec (.nioSth n) s = .next (t.nioTrap n.val cAlignf a (s.pc n.val)).pump)

/-- A store into local data memory changes the stored bytes and no other: a byte of the stored word reads its part of the value, and every byte outside reads as before, on every core (R407). -/
def Obligations.NioStoreFrame : Prop :=
  ∀ (s u : State) (n a k : Nat) (v : Word), k ≤ 4 → s.dataWrite n a k v = some u →
    (∀ b, a ≤ b → b < a + k → Tbl.get (fun _ => (0 : Byte)) (u.core n).data b = BitVec.ofNat 8 (v.toNat / 2 ^ (8 * (b - a)))) ∧
    (∀ b, (b < a ∨ a + k ≤ b) → Tbl.get (fun _ => (0 : Byte)) (u.core n).data b = Tbl.get (fun _ => (0 : Byte)) (s.core n).data b) ∧
    (∀ m, m ≠ n → u.core m = s.core m)

/-- The string instructions of Nioft-14 outside a REP: COPYX moves an element from XS to XD, FILLX stores one at XD, FINDX compares one at XS, SUMX adds one, each stepping its addresses by its element; and REP with a count takes up the string instruction after it, while REP at count 0 skips it (R413 to R415). -/
def Obligations.NioStringRows : Prop :=
  ∀ (s : State) (n : Fin 16) (i : NInstr), Stands s n i →
    let t := s.nioAt n.val
    let c := t.core n.val
    let xs := c.xs.toNat
    let xd := c.xd.toNat
    let x : Word := wd (leNat (c.bytes xs i.elem))
    (∀ u, i.op = .copyx → t.localOk n.val xs → t.localOk n.val xd → xs % i.elem = 0 → xd % i.elem = 0 → t.dataWrite n.val xd i.elem x = some u →
      exec (.nioCopyx n) s = .next ((((u.updCore n.val fun c => { c with xs := c.xs + i.stepBy, xd := c.xd + i.stepBy }).spend n.val 2).nioEnd n.val
        (s.pc n.val + 1) 0)).pump) ∧
    (∀ u, i.op = .fillx → t.localOk n.val xd → xd % i.elem = 0 → t.dataWrite n.val xd i.elem (c.reg i.d) = some u →
      exec (.nioFillx n) s = .next ((((u.updCore n.val fun c => { c with xd := c.xd + i.stepBy }).spend n.val 1).nioEnd n.val
        (s.pc n.val + 1) 0)).pump) ∧
    (i.op = .findx → t.localOk n.val xs → xs % i.elem = 0 →
      exec (.nioFindx n) s = .next ((((t.updCore n.val fun c => { c with xs := c.xs + i.stepBy, fl := (subFl (c.reg i.d) x true).2 }).spend n.val 2).nioEnd
        n.val (s.pc n.val + 1) 0)).pump) ∧
    (i.op = .sumx → t.localOk n.val xs → xs % i.elem = 0 →
      exec (.nioSumx n) s = .next ((((t.updCore n.val fun c => { (c.setReg i.d (c.reg i.d + x)) with
          xs := c.xs + i.stepBy, fl := (addFl (c.reg i.d) x false).2 }).spend n.val 2).nioEnd n.val (s.pc n.val + 1) 0)).pump) ∧
    (∀ j, i.op = .rep → nDecode ((s.core n.val).word (s.pc n.val + 1)) 0 0 = some j → j.op.isString = true → (s.core n.val).xc ≠ 0 →
      exec (.nioRep n) s = .next ((s.spend n.val 1).updCore n.val fun c => { c with rep := 1 }).pump) ∧
    (∀ j, i.op = .rep → nDecode ((s.core n.val).word (s.pc n.val + 1)) 0 0 = some j → j.op.isString = true → (s.core n.val).xc = 0 →
      exec (.nioRep n) s = .next (s.nioEnd n.val (s.pc n.val + 2) 2).pump) ∧
    (∀ j, i.op = .rep → nDecode ((s.core n.val).word (s.pc n.val + 1)) 0 0 = some j → j.op.isString = false →
      exec (.nioRep n) s = .next (s.nioTrap n.val cRepIll 0 (s.pc n.val)).pump)

/-- The control instructions of Nioft-14: BR goes to its target when its condition holds, JMP, JMPR and CALLR to theirs, CALLR with the link in W14; CALL pushes the masked registers and W14, moves W15 and links; RET pops what CALL pushed and goes to the link it had; RETI restores flags, level and PC from the context word when no request is above it; WAIT sets WAITING; HALT stops with its cause; TRAP enters at level 15 through vector 0 with the number in CCS_TRAPNO; FENCE waits for outstanding far stores (R408, R409, R411, R421 to R424, R428). -/
def Obligations.NioControlRows : Prop :=
  ∀ (s : State) (n : Fin 16) (i : NInstr), Stands s n i →
    let t := s.nioAt n.val
    let c := t.core n.val
    let next := s.pc n.val + i.len
    (i.op = .br → condHolds c.fl i.d = true →
      exec (.nioBr n) s = .next (t.nioEnd n.val (next + 16384 + (sext 6 i.imm % 16384).toNat) 2).pump) ∧
    (i.op = .br → condHolds c.fl i.d = false → exec (.nioBr n) s = .next (t.nioEnd n.val next 1).pump) ∧
    (i.op = .jmp → exec (.nioJmp n) s = .next (t.nioEnd n.val i.imm 2).pump) ∧
    (i.op = .jmpr → exec (.nioJmpr n) s = .next (t.nioEnd n.val (c.reg i.d).toNat 2).pump) ∧
    (i.op = .callr → exec (.nioCallr n) s =
      .next ((t.nioPut n.val 14 (wd (next % 16384))).nioEnd n.val (c.reg i.d).toNat 2).pump) ∧
    (let rs := maskRegs i.s
     let vals := rs.reverse.map c.reg ++ [c.reg 14]
     let at' (j : Nat) : Nat := (c.reg 15 - wd (4 * (j + 1))).toNat
     i.op = .call → (∀ j < vals.length, stackBad (at' j) = false) →
      let u := t.each vals.zipIdx fun s (e : Word × Nat) => (s.dataWrite n.val (at' e.2) 4 e.1).getD s
      exec (.nioCall n) s = .next ((u.updCore n.val fun c => (c.setReg 15 (c.reg 15 - wd (4 * vals.length))).setReg 14
        (wd ((s.pc n.val + 3) % 16384))).nioEnd n.val i.imm (4 + rs.length)).pump) ∧
    (∀ ws u, let rs := maskRegs i.s
     let at' (j : Nat) : Nat := (c.reg 15 + wd (4 * j)).toNat
     i.op = .ret → (∀ j < rs.length + 1, stackBad (at' j) = false) → t.popWords n.val (at' 0) (rs.length + 1) = (.ok ws, u) →
      exec (.nioRet n) s = .next ((u.updCore n.val fun k =>
        (rs.zip (ws.drop 1)).foldl (fun (c : Core) e => c.setReg e.1 e.2) ((k.setReg 15 (k.reg 15 + wd (4 * ws.length))).setReg 14 (ws.headD 0))).nioEnd
          n.val (c.reg 14).toNat (3 + rs.length)).pump) ∧
    (∀ k : Fin 3, let w : Word := wd (leNat (c.bytes c.sp 4))
     i.op = .reti → stackBad c.sp = false → t.localOk n.val c.sp → t.coreLevel n.val ≤ fld w 18 4 →
      exec (.nioReti n k) s = .next (((t.updCore n.val fun c => { (c.setReg 15 (c.reg 15 + 4)) with fl := fld w 14 4 }).setIpl n.val
        (fld w 18 4)).nioEnd n.val (fld w 0 14) 3).pump) ∧
    (i.op = .wait → exec (.nioWait n) s =
      .next ((((t.setPc n.val (next % 16384)).spend n.val 1).setB (kCstat n.val) 30 true).nioBoundary n.val).pump) ∧
    (i.op = .halt → exec (.nioHalt n) s = .next ((t.spend n.val 1).nioStopAt n.val cHalt (s.pc n.val)).pump) ∧
    (i.op = .trap → stackBad (c.reg 15 - 4).toNat = false →
      exec (.nioTrap n) s = .next (((t.setReg (kCCS n.val + 0x0C) (wd i.d)).spend n.val 1).nioEnter n.val (next % 16384) true).pump) ∧
    (i.op = .fence → c.stores = [] → exec (.nioFence n) s = .next (t.nioEnd n.val next 1).pump) ∧
    (i.op = .fence → c.stores ≠ [] → exec (.nioFence n) s = .next (t.updCore n.val fun c => { c with hold := .fence }).pump)

/-- An entry saves its context and enters: the word of level, flags and the PC to resume is written below W15, W15 moves down to it, the level becomes 15 for a TRAP, and the PC is the vector's word (R420, R421, R423). -/
def Obligations.NioEntry : Prop :=
  ∀ (s u v : State) (n resume a : Nat), let c := s.core n
    let sp := (c.reg 15 - 4).toNat
    stackBad sp = false → s.dataWrite n sp 4 (ctxWord (s.ipl n) c.fl resume) = some u →
    let w := (u.updCore n fun c => { (c.setReg 15 (wd sp)) with due := 0, rep := 0 }).setB (kCstat n) 30 false
    (w.setIpl n 15).nioVector n 0 = (some a, v) →
    s.nioEnter n resume true = ((v.setPc n a).spend n 4).nioBoundary n

/-- What a core waits for: the data of a far load returns once every earlier far store is visible, and the load then completes (R403); the oldest far store reaches its target (R403); a FENCE ends when no store is outstanding (R409); an entry that is due is taken (R421); a watchdog that has run out traps at an instruction boundary (R404); a firmware core that is down restarts from its admitted image and its work is taken up again (R400); a load ends (R426). -/
def Obligations.NioEventRows : Prop :=
  (∀ (s : State) (n : Fin 16) (cycles : Nat) (i : NInstr), s.live = true → s.coreRuns n.val = true → (s.core n.val).hold = .load →
    (s.core n.val).stores = [] → s.nioHeld n.val = some i → let t := s.updCore n.val fun c => { c with hold := .none }
    exec (.nioFarLoadDone n cycles) s = .next (t.nioMemory n.val (s.pc n.val) i (some cycles)).pump) ∧
  (∀ (s : State) (n : Fin 16) (cycles : Nat) (f : FarStore) (rest : List FarStore), s.live = true → (s.core n.val).stores = f :: rest →
    let t := ((s.updCore n.val fun c => { c with stores := rest }).farWrite n.val f).nioSettle n.val
    (t.core n.val).hold ≠ .store → exec (.nioFarStoreDone n cycles) s = .next t.pump) ∧
  (∀ (s : State) (n : Fin 16) (cycles : Nat), s.live = true → s.coreRuns n.val = true → (s.core n.val).hold = .fence →
    (s.core n.val).stores = [] →
    exec (.nioFenceDone n cycles) s =
      .next ((s.updCore n.val fun c => { c with hold := .none }).nioEnd n.val (s.pc n.val + 1) (1 + cycles)).pump) ∧
  (∀ (s : State) (n : Fin 16) (cycles : Nat), s.live = true → s.coreRuns n.val = true → s.regB (kCstat n.val) 30 = false →
    (s.core n.val).due ≠ 0 → exec (.nioIntEntry n cycles) s = .next (s.nioEnter n.val (s.pc n.val) false).pump) ∧
  (∀ (s : State) (n : Fin 16) (cycles : Nat), s.live = true → s.coreRuns n.val = true → s.regB (kCstat n.val) 30 = true →
    s.ipl n.val < s.coreLevel n.val → let t := s.spend n.val cycles
    exec (.nioIntEntry n cycles) s = .next (t.nioEnter n.val (t.pc n.val) false).pump) ∧
  (∀ (s : State) (n : Fin 16) (cycles : Nat), s.live = true → s.coreRuns n.val = true → s.regB (kCstat n.val) 30 = false →
    (s.core n.val).hold = .none → (s.core n.val).rep ≠ 1 → s.wdogDue n.val = true →
    exec (.nioWdogExpiry n cycles) s = .next (s.nioTrap n.val cWdog 0 (s.pc n.val)).pump) ∧
  (∀ (s : State) (n : Fin 16), s.answers = true → s.att.down.contains n.val = true → n.val ≠ 1 →
    let t := { s with att := { s.att with down := s.att.down.filter (· ≠ n.val) } }
    let u := (t.fwLoad n.val (Tbl.get (fun _ => []) t.att.fw n.val)).setB (kCstat n.val) 29 true
    let accs := (u.foy.opens.filter fun o => if n.val = 0 then !o.begun || o.foyerOwn else served n.val o.op).map (·.acc)
    let r := if n.val = 0 then { u with foy := { u.foy with round := 0 } } else u
    let v := (if n.val = 3 then r.musReset else r).replayThese accs
    exec (.coreRestart n) s = .next (v.recoveryNote (2 + n.val) 0x0C (v.countAgain accs)).pump) ∧
  (∀ (s : State), s.answers = true → s.att.down.contains 1 = true →
    let t := { s with att := { s.att with down := s.att.down.filter (· ≠ 1) } }
    let u := (t.fwLoad 1 (Tbl.get (fun _ => []) t.att.fw 1)).setB (kCstat 1) 29 true
    let accs := (u.foy.opens.filter fun o => served 1 o.op).map (·.acc)
    let r := u.each (List.range 32) fun s h =>
      match (s.head h).mt.pend with
      | some q => if accs.contains q.acc then (s.updMt h fun m => { m with pend := none }).setB (kMstat h) 28 false else s
      | none => s
    let v := (r.replayThese accs).each (List.range 32) State.receiptsTake
    exec (.coreRestart 1) s = .next (v.recoveryNote 3 0x0C (v.countAgain accs)).pump) ∧
  (∀ (s : State) (n : Fin 16) (o : Open), s.live = true →
    (s.foy.opens.find? fun o => o.begun && decide (o.wait = .nioftLoad n.val)) = some o →
    exec (.nioftLoadDone n) s = .next (s.nioLoadRun o n.val).pump)

/-! ## Start-up, resets and power -/

/-- Start-up and resets: a cold boot of the unpowered device keeps its fuses and its boot log and runs the boot chain (R474, R510), with TEST_MODE it is held (R548), and while the power is good nothing restarts; a training while the Cellar is untrained and nothing is found leaves no window, and one after a failed boot does nothing (R283, R474); READY sets once the boot has ended well and the journal runs (R40); a warm reset runs the device's own reset, and one during a trip is held (R87, R518); PWR_OK falls and begins its filter of 1 us, after which the device is unpowered (R548); a Function Level Reset of a function empties and stops its rings (R56). -/
def Obligations.StartRows : Prop :=
  (∀ (s : State) (b : BootIn), s.phase = .off → b.test = false →
    exec (.coldBoot b) s = .next ((s.coldKeep.setReg (kTMB + 8) 0xA0000000).bootChain b false).audShow ∧
    s.coldKeep.att.fuses = s.att.fuses ∧ s.coldKeep.att.log = s.att.log ∧ s.coldKeep.foy.opens = [] ∧ s.coldKeep.mem = []) ∧
  (∀ (s : State) (b : BootIn), b.test = true → exec (.coldBoot b) s = .next { s.powerOff with test := true }) ∧
  (∀ (s : State) (b : BootIn), s.phase ≠ .off → b.test = false → s.pwrLow = none → exec (.coldBoot b) s = .next s) ∧
  (∀ (s : State) (b : BootIn) (n : Nat), s.phase ≠ .off → b.test = false → s.pwrLow = some n → n + b.low < 1000 →
    exec (.coldBoot b) s = .next { s with pwrLow := none }) ∧
  (∀ (s : State) (b : BootIn) (n : Nat), s.phase ≠ .off → b.test = false → s.pwrLow = some n → 1000 ≤ n + b.low →
    exec (.coldBoot b) s = .next ((s.coldKeep.setReg (kTMB + 8) 0xA0000000).bootChain b false).audShow) ∧
  (∀ (s : State) (d : List (Option Dimm)), s.phase = .boot → s.regB 4 3 = false → s.regB kBootStat bFail = false →
    s.reg (kCEL + 0x80) = 0 → (∀ c < 8, dimmAt d c = none) → exec (.cellarTrainingDone d) s = .next s) ∧
  (∀ (s : State) (d : List (Option Dimm)), s.regB kBootStat bFail = true → exec (.cellarTrainingDone d) s = .next s) ∧
  (∀ (s : State) (d : List (Option Dimm)) (m : Dimm), s.phase = .boot → s.regB 4 3 = false → s.regB kBootStat bFail = false →
    s.reg (kCEL + 0x80) = 0 → dimmAt d 0 = some m → dimmFits m = true → m.trains = true → (∀ c, 0 < c → c < 8 → dimmAt d c = none) →
    ∃ t : State, exec (.cellarTrainingDone d) s = .next t ∧ t.chans = [0] ∧ t.regF (kChstat 0) 30 2 = 3 ∧
      t.regF (kChstat 0) 0 16 = trainRate [m] ∧ t.regB kJStat 31 = true ∧ t.celEn 63 = true) ∧
  (∀ s : State, s.phase = .boot → s.booted = true → s.regB kJStat 31 = true →
    let t := State.setB { s with phase := .run } 4 0 true
    let u := t.each (List.range 18) fun s n =>
      (s.setReg (kSqSeq n) (lo32 (s.w64 (kAccepted n) + 1))).setReg (kSqSeq n + 4) (hi32 (s.w64 (kAccepted n) + 1))
    exec .readySet s = .next (u.each ((List.range 32).filter fun h => (u.head h).enabled) State.portsHeadOn).pump) ∧
  (∀ (s : State) (b : BootIn), s.phase = .boot ∨ s.phase = .run → exec (.warmReset b) s = .next (s.warmReset b)) ∧
  (∀ (s : State) (b : BootIn), s.phase = .trip →
    exec (.warmReset b) s = .next { s with chm := { s.chm with resetHeld := true } }) ∧
  (∀ s : State, s.phase ≠ .off → s.pwrLow = none → exec .pwrOkFall s = .next { s with pwrLow := some 0 }) ∧
  (∀ s : State, s.phase = .off → exec .pwrOkFall s = .next s) ∧
  (∀ (s : State) (fn : Fin 2), s.answers = true →
    ∃ t : State, exec (.functionLevelReset fn) s = .next t.pump ∧
      ∀ n < 18, ringPf1 n = decide (fn.val = 1) → t.reg (kRingCfg n) = 0 ∧ t.regB (kRingStat n) 31 = false)

/-- The trip, the crystal and the Chimney's events: a junction at 110 °C stops the device with its count and time, and one below does not; a release by a held reset writes the FATAL record (R518); the crystal takes over the always-on clock (R501); a sample below the warning changes nothing but the readings; a step of the voltage loop moves 5 mV towards its clamped demand, and holds without an answer (R515); a refresh demand rises by 4 after eight errors within a second and falls by 4 after a calm minute (R516); a rail out of range sets its flag (R499). -/
def Obligations.ChimneyRows : Prop :=
  (∀ (s : State) (temps : List (BitVec 16)), s.answers = true → 110 * 16 ≤ temp16 (tjOf (temps.take 12)) →
    let t := (s.setReg (kCHM + 0x600) (wd (2 ^ 31 + min 65535 (s.regF (kCHM + 0x600) 0 16 + 1)))).setW64 (kCHM + 0x604) s.now
    exec (.junctionTrip temps) s = .next { t.selfRefresh with phase := .trip }) ∧
  (∀ (s : State) (temps : List (BitVec 16)), temp16 (tjOf (temps.take 12)) < 110 * 16 → exec (.junctionTrip temps) s = .next s) ∧
  (∀ (s : State) (b : BootIn), s.phase = .trip → s.chm.resetHeld = true →
    let t := State.setReg { s with err := { s.err with intake := [], lost := s.err.lost || decide (s.err.intake.length ≠ 0) } } kErrDrop
      (s.reg kErrDrop + wd s.err.intake.length)
    let u := (State.warmReset { t with phase := .boot } b).setB kCHM 30 true
    exec (.tripRelease b) s = .next (u.errRec sevFatal 0x03 0x0061 (u.regF (kCHM + 0x600) 0 16) .ok (lo32 (u.w64 (kCHM + 0x604)))
      (hi32 (u.w64 (kCHM + 0x604))))) ∧
  (∀ s : State, s.phase ≠ .off → exec .xtalSwitch s = .next ((s.setB kCHM 28 true).setB (kTMB + 8) 31 false)) ∧
  (∀ (s : State) (temps : List (BitVec 16)), s.chimneyUp = true → exec (.thermalWarning temps) s = .next (s.thermal temps)) ∧
  (∀ (s : State) (x : Sample), s.chimneyUp = true → s.chm.ring = none →
    exec (.telemetryRecord x) s = .next (((s.thermal x.temps).setReg (kCHM + 0x44) x.power).setF (kCHM + 0x40) 0 16 x.vcore.toNat)) ∧
  (∀ (s : State) (want : Nat), s.chimneyUp = true → s.ready = true →
    exec (.coreVoltageStep want false) s = .next (s.setB kCHM 29 true)) ∧
  (∀ (s : State) (want : Nat), s.chimneyUp = true → s.ready = true →
    s.regF (kCHM + 0x100) 0 16 ≤ want → want ≤ s.regF (kCHM + 0x100) 16 16 →
    let sp := s.regF (kCHM + 0x40) 16 16
    let t := State.setB { s with chm := { s.chm with vwant := want } } kCHM 29 false
    exec (.coreVoltageStep want true) s =
      .next ((t.setF (kCHM + 0x40) 16 16 (if sp < want then min want (sp + 5) else max want (sp - 5))).setB kCHM 16 false)) ∧
  (∀ (s : State) (c : Fin 8) (t : DWord), s.chimneyUp = true → (Tbl.get (fun _ => []) s.chm.errT c.val)[7]? = some t →
    (s.now - t).toNat ≤ 1000000000 →
    exec (.refreshDemandStep c true) s =
      .next (State.refreshSet { s with chm := { s.chm with errT := Tbl.set (fun _ => []) s.chm.errT c.val [] } } c.val
        (min 252 (s.refDemand c.val + 4)))) ∧
  (∀ (s : State) (c : Fin 8), s.chimneyUp = true → 60000000000 ≤ (s.now - Tbl.get (fun _ => 0) s.chm.calm c.val).toNat →
    16 < s.refDemand c.val →
    exec (.refreshDemandStep c false) s =
      .next (State.refreshSet { s with chm := { s.chm with calm := Tbl.set (fun _ => 0) s.chm.calm c.val s.now } } c.val
        (s.refDemand c.val - 4))) ∧
  (∀ (s : State) (out : Bool), s.chimneyUp = true → exec (.railOutOfRange out) s = .next (s.setB kCHM 27 out))

/-- The thermal warning: at 95 °C and above it sets THERMAL and source 23 and writes a record, once; below 92 °C it ends; between them it stays as it was; Tj is the highest of the readings (R514). -/
def Obligations.ThermalWarning : Prop :=
  (∀ (l : List (BitVec 16)), l ≠ [] → tjOf l ∈ l ∧ ∀ t ∈ l, temp16 t ≤ temp16 (tjOf l)) ∧
  (∀ (s : State) (temps : List (BitVec 16)), s.regB kCHM 31 = false → temp16 (tjOf (temps.take 12)) < 95 * 16 →
    (s.thermal temps).regB kCHM 31 = false ∧ (s.thermal temps).bell = s.bell ∧ (s.thermal temps).err = s.err) ∧
  (∀ (s : State) (temps : List (BitVec 16)), s.regB kCHM 31 = true → 92 * 16 ≤ temp16 (tjOf (temps.take 12)) →
    (s.thermal temps).regB kCHM 31 = true ∧ (s.thermal temps).bell = s.bell ∧ (s.thermal temps).err = s.err)

/-- The power states: a channel that has been idle in S1 goes into self-refresh (R503); the entry into S2 that a POWER_STATE has asked for sets PSTATE and puts every channel into self-refresh (R503, R507); the link's exit from S2 leaves S1, sets SLEPT and writes the records that waited (R446, R508, R523); a wake pin of the programmed level asks for the exit (R508). -/
def Obligations.PowerRows : Prop :=
  (∀ (s : State) (c : Fin 8), s.live = true → s.pstate = 1 → s.chans.contains c.val = true →
    exec (.cellarIdleSelfRefresh c) s = .next (s.setB (kChstat c.val) 28 true)) ∧
  (∀ s : State, s.live = true → s.chm.toS2 = true →
    exec .s2Entry s =
      .next (State.selfRefresh (State.setF { s with chm := { s.chm with toS2 := false, waking := false, aon := 0 } } 4 4 2 2))) ∧
  (∀ s : State, s.live = true → s.chm.toS2 = false → exec .s2Entry s = .next s) ∧
  (∀ s : State, s.pstate = 2 →
    exec .s2LinkExit s = .next ((State.errDrain ((State.setF { s with chm := { s.chm with waking := false } } 4 4 2 1).setB (kTMB + 8) 30 true))).pump) ∧
  (∀ (s : State) (pin : Fin 16) (lvl : Bool), s.answers = true → s.pstate = 2 → bit s.chm.wake (16 + pin.val) = true → bit s.chm.wake 8 = lvl →
    exec (.wakePin pin lvl) s = .next { s with chm := { s.chm with waking := true } }) ∧
  (∀ (s : State) (pin : Fin 16) (lvl : Bool), s.answers = true → bit s.chm.wake (16 + pin.val) = false → exec (.wakePin pin lvl) s = .next s)

/-! ## The Attic -/

/-- Receipts, the boot log and the audit port: an open batch whose 100 ms are over closes (R279); a boot record is appended once after READY, with source 26 (R475); a request on the port is served by its first byte: STATUS, BOOTREC, BATCH, QUOTE, CERT and SEEK with sound operands each give their answer, and the ready response asserts source 27 with its count (R495), one that arrives while another is being served is discarded, and a read answers the state, the tag, the status and the next 256 bytes, and moves the read position (R496). -/
def Obligations.AuditRows : Prop :=
  (∀ s : State, s.ready = true → s.studyUp = true → s.att.batch ≠ [] → 100000000 ≤ (s.now - s.att.batchOpen).toNat →
    exec .receiptBatchClose s = .next s.batchClose) ∧
  (∀ (s : State) (a b : Nat), s.studyUp = true → s.phase = .run → s.booted = true → s.att.boot ≠ [] → s.regB kLogStat 31 = false →
    s.logRecords.contains s.att.boot = false → (s.logAppend s.att.boot a b).1 = true →
    let r := (s.logAppend s.att.boot a b).2
    let t := (r.setF kLogStat 16 10 (min 1023 r.badBlocks)).pulse 26
    let st := t.reg kBootStat
    exec (.bootLogAppend a b) s = .next (t.each ([(1, decide (fld st 8 4 ≠ 0)), (2, t.att.fuseRefused), (3, bit st bSpi1), (4, false)].filter (·.2))
      fun s (e : Nat × Bool) => s.errRec sevInfo 0x0D 0x0070 e.1 .ok st (s.reg kLogStat))) ∧
  (∀ (s : State) (w : List Byte) (i : Instr), i ∈ [Instr.auditStatus w, .auditBootrec w, .auditBatch w, .auditQuote w, .auditCert w, .auditSeek w] →
    s.audOn = true → s.att.aud.state ≠ 0 →
    let r := s.audServe w
    exec i s = .next (s.updAud fun a => { a with
      state := 0, tag := w.getD 1 0, status := r.1, detail := r.2.1
      buf := match r.2.2 with | some b => b.take 65536 | none => a.buf
      pos := match r.2.2 with | some _ => 0 | none => numAt w 4 8 })) ∧
  (∀ (s : State) (w : List Byte), s.audOn = true → s.att.aud.state ≠ 0 →
    w.length = 48 → numAt w 44 4 = (crc32 (w.take 44)).toNat → numAt w 2 2 = 0 →
    let gives (b : List Byte) : Out := .next (s.updAud fun a => { a with
      state := 0, tag := w.getD 1 0, status := .ok, detail := 0, buf := b.take 65536, pos := 0 })
    let noIndex := numAt w 4 8 = 0
    let noNonce := (bytesAt w 12 32).all (· = 0) = true
    (numAt w 0 1 = 1 → noIndex → noNonce → exec (.auditStatus w) s = gives s.audStatus) ∧
    (∀ r, numAt w 0 1 = 2 → noNonce → s.booted = true → (s.bootRecords.find? fun r => decide (recSeq r = numAt w 4 8)) = some r →
      exec (.auditBootrec w) s = gives r) ∧
    (numAt w 0 1 = 3 → noNonce → s.booted = true → s.pstate ≠ 2 → s.reg kBatchNew ≠ 0xFFFFFFFF →
      (s.reg kBatchOld).toNat ≤ numAt w 4 8 → numAt w 4 8 ≤ (s.reg kBatchNew).toNat →
      exec (.auditBatch w) s = gives (s.batchAt (numAt w 4 8))) ∧
    (numAt w 0 1 = 4 → noIndex → s.booted = true → s.pstate ≠ 2 →
      exec (.auditQuote w) s = gives (s.quote 3 677 (bytesAt w 12 32))) ∧
    (numAt w 0 1 = 5 → noIndex → noNonce → exec (.auditCert w) s = gives (padTo 192 s.att.fuses.cert)) ∧
    (numAt w 0 1 = 6 → noNonce → s.booted = true →
      exec (.auditSeek w) s = .next (s.updAud fun a => { a with
        state := 0, tag := w.getD 1 0, status := .ok, detail := 0, pos := numAt w 4 8 }))) ∧
  (∀ (s : State) (w : List Byte) (i : Instr), i ∈ [Instr.auditStatus w, .auditBootrec w, .auditBatch w, .auditQuote w, .auditCert w, .auditSeek w] →
    s.att.aud.state = 0 → exec i s = .next s) ∧
  (∀ s : State, s.studyUp = true → s.audOn = true → s.att.aud.state = 0 →
    exec .auditResponseReady s =
      .next (((s.updAud fun a => { a with state := 1 }).setF kAudStat 0 16
        (((s.updAud fun a => { a with state := 1 }).regF kAudStat 0 16 + 1) % 65536)).pulse 27)) ∧
  (∀ s : State, s.audOn = true → s.att.aud.state ≠ 0 → let a := s.att.aud
    let chunk := bytesAt a.buf a.pos 256
    let hdr := leBytes 1 a.state ++ [a.tag] ++ leBytes 2 (statusCode a.status) ++ leBytes 2 a.detail ++ leBytes 2 chunk.length
      ++ leBytes 4 a.buf.length ++ leBytes 4 a.pos
    exec .auditRead s = .next { s.updAud (fun a => { a with pos := a.pos + chunk.length }) with
      readData := toWords (hdr ++ chunk ++ wBytes (crc32 (hdr ++ chunk))), readPoison := false })

/-- What the audit port answers: a request of a wrong length is BAD_LENGTH, one with a wrong CRC or a set reserved byte BAD_PARAM; with sound framing STATUS answers the status block, CERT the identity certificate, SEEK leaves the buffer, and an unknown request is BAD_OPCODE (R495).  On the I3C bus, ENTDAA and SETDASA give a dynamic address to a port without one, RSTDAA takes it away, and the GET commands answer the port's fixed values, the most significant byte first (R494); the values that the spec leaves open are free, and the byte order is the model's choice (log 53). -/
def Obligations.AuditAnswers : Prop :=
  (∀ (s : State) (w : List Byte),
    let sound := w.length = 48 ∧ numAt w 44 4 = (crc32 (w.take 44)).toNat ∧ numAt w 2 2 = 0
    let plain := numAt w 4 8 = 0 ∧ (bytesAt w 12 32).all (· = 0) = true
    (w.length ≠ 48 → s.audServe w = (.badLength, 0, some [])) ∧
    (w.length = 48 → (numAt w 44 4 ≠ (crc32 (w.take 44)).toNat ∨ numAt w 2 2 ≠ 0) → s.audServe w = (.badParam, 0, some [])) ∧
    (sound → numAt w 0 1 = 1 → plain → s.audServe w = (.ok, 0, some s.audStatus)) ∧
    (sound → numAt w 0 1 = 1 → ¬ plain → s.audServe w = (.badParam, 0, some [])) ∧
    (sound → numAt w 0 1 = 5 → plain → s.audServe w = (.ok, 0, some (padTo 192 s.att.fuses.cert))) ∧
    (sound → numAt w 0 1 = 6 → (bytesAt w 12 32).all (· = 0) = true → s.booted = true → s.audServe w = (.ok, 0, none)) ∧
    (sound → 7 ≤ numAt w 0 1 → s.audServe w = (.badOpcode, 0, some []))) ∧
  (∀ (s : State) (a : BitVec 7), s.audOn = true → s.att.aud.dyn = none →
    exec (.entdaa a) s = .next (s.updAud fun x => { x with dyn := some a.toNat }).audShow ∧
    exec (.setdasa a) s = .next (s.updAud fun x => { x with dyn := some a.toNat }).audShow) ∧
  (∀ (s : State) (a b : BitVec 7), s.att.aud.dyn = some b.toNat → exec (.entdaa a) s = .next s ∧ exec (.setdasa a) s = .next s) ∧
  (∀ s : State, s.audOn = true → exec .rstdaa s = .next (s.updAud fun x => { x with dyn := none }).audShow) ∧
  (∀ s : State, s.audOn = true →
    exec .getbcr s = .next (s.answer (toWords [0])) ∧ exec .getdcr s = .next (s.answer (toWords [0])) ∧
    exec .getpid s = .next (s.answer (toWords (leBytes 6 Config.auditPid.toNat).reverse)) ∧
    exec .getmwl s = .next (s.answer (toWords (leBytes 2 (fld Config.auditLengths 0 16)).reverse)) ∧
    exec .getmrl s = .next (s.answer (toWords (leBytes 2 (fld Config.auditLengths 16 16)).reverse)) ∧
    exec .getstatus s = .next { s.answer (toWords (leBytes 2 (Config.auditStatus s.free).toNat).reverse) with free := s.free + 1 }) ∧
  (∀ (s : State) (i : Instr), s.audOn = false →
    i ∈ [Instr.getbcr, .getdcr, .getpid, .getmwl, .getmrl, .getstatus, .auditRead, .rstdaa] → exec i s = .next s)

/-! ## The Foyer's refusals -/

/-- A packet of any opcode whose sequence number has bit 63 set is answered BAD_PARAM with DETAIL 0x1003, one that leaves a gap BAD_PARAM with DETAIL 0x1000, and a resubmission whose record has been reused DUPLICATE with DETAIL 0xFFFF and no result; the packet is passed by and nothing is accepted (R59 step 2, R90). -/
def Obligations.PacketRefusals : Prop :=
  ∀ (s : State) (p : Packet) (i : Instr) (op : Op),
    (i, op) ∈ ([(.nop p, .nop), (.fence p, .fence), (.featuresGet p, .featuresGet), (.featuresSet p, .featuresSet), (.expertEnter p, .expertEnter),
      (.expertLeave p, .expertLeave), (.memRegionSet p, .memRegionSet), (.memRegionSetPantry p, .memRegionSet), (.memCopy p, .memCopy),
      (.memFill p, .memFill), (.assetLoad p, .assetLoad), (.assetUnseal p, .assetUnseal), (.errlogRead p, .errlogRead),
      (.headTiming p, .headTiming), (.headEnable p, .headEnable), (.headDisable p, .headDisable), (.headCommit p, .headCommit),
      (.planeSet p, .planeSet), (.spriteTable p, .spriteTable), (.spriteTableCanvas p, .spriteTable), (.beamListSet p, .beamListSet),
      (.composeSet p, .composeSet), (.lutLoad p, .lutLoad), (.canvasSet p, .canvasSet), (.routeSet p, .routeSet),
      (.routeSetGenlock p, .routeSet), (.crcRectSet p, .crcRectSet), (.writebackSet p, .writebackSet), (.mantelSet p, .mantelSet),
      (.mantelSetFields p, .mantelSet), (.mantelSetDisable p, .mantelSet), (.rectFill p, .rectFill), (.rectCopy p, .rectCopy),
      (.rectConvert p, .rectConvert), (.dmaChainStart p, .dmaChainStart), (.dmaStop p, .dmaStop), (.voiceStart p, .voiceStart),
      (.voiceStop p, .voiceStop), (.voiceParam p, .voiceParam), (.mixGraphLoad p, .mixGraphLoad), (.mixParamSet p, .mixParamSet),
      (.mixCommit p, .mixCommit), (.audioPortSet p, .audioPortSet), (.audioPortSetDp p, .audioPortSet),
      (.audioPortSetClock p, .audioPortSet), (.timerCompareArm p, .timerCompareArm), (.timerCaptureSet p, .timerCaptureSet),
      (.pinseqLoad p, .pinseqLoad), (.pinseqLoadSlot p, .pinseqLoad), (.pinseqLoadConfig p, .pinseqLoad),
      (.pinseqLoadInject p, .pinseqLoad), (.pinseqStart p, .pinseqStart), (.pinseqStop p, .pinseqStop), (.nioftLoad p, .nioftLoad),
      (.nioftStart p, .nioftStart), (.nioftStop p, .nioftStop), (.attestQuote p, .attestQuote), (.bootlogRead p, .bootlogRead),
      (.receiptConfig p, .receiptConfig), (.receiptRead p, .receiptRead), (.unitReset p, .unitReset), (.powerState p, .powerState),
      (.telemetryConfig p, .telemetryConfig), (.clockPolicy p, .clockPolicy)] : List (Instr × Op)) →
    s.nextRing = some p.ring.val → s.foy.opens = [] → Tbl.get (fun _ => none) s.foy.pass p.ring.val = none →
    let n := p.ring.val
    let e := s.w64 (kAccepted n) + 1
    let t := ((s.turn n).unmarked n).sqAdvance n (max 4 (min p.len.toNat (s.sqAvail n)))
    (2 ^ 63 ≤ p.seq.toNat → exec i s = .next (t.replyNow p (repBad 0x1003))) ∧
    (p.seq.toNat < 2 ^ 63 → e.toNat < p.seq.toNat → exec i s = .next (t.replyNow p (repBad 0x1000))) ∧
    (p.seq.toNat < 2 ^ 63 → p.seq.toNat < e.toNat →
      (s.foy.journal.all fun x => match x.2 with | some y => decide (y.ring ≠ n ∨ y.seq ≠ p.seq) | none => true) = true →
      exec i s = .next (t.putEntry (dupEntry n p.seq p.tag p.irq 0xFFFF (rep .ok 0) 0)))

/-! ## The machine as a whole -/

/-- One step takes the command at the front of the queue and answers what exec answers on the state with the rest of the queue; with none waiting the block idles: its time base ticks (the tick in place of an idle step is the model's choice, log 1). -/
def Obligations.StepFront : Prop :=
  (∀ (s : State) (c : Instr) (rest : List Instr), s.pending = c :: rest → step s = exec c { s with pending := rest }) ∧
  (∀ s : State, s.pending = [] → step s = .next s.idle)

/-- After reset the memories and register files are in canonical form, no command waits, no packet is open, no fuse slot is programmed, every device byte reads as an unlisted byte, and the board has no power (the unpowered state as the state after reset and what an unlisted byte reads as are the model's choices, logs 2 and 3). -/
def Obligations.ResetCanonical : Prop :=
  State.reset.canonical = true ∧ State.reset.pending = [] ∧ State.reset.foy.opens = [] ∧ State.reset.phase = .off ∧
  (∀ k, State.reset.att.fuses.slot k = none) ∧ (∀ a, State.reset.byte a = 0)

/-- Every step keeps the canonical form of every memory and register file, from every state that has it and whatever the command: equal contents stay equal data. -/
def Obligations.StepKeepsCanonical : Prop :=
  ∀ s t : State, s.canonical = true → step s = .next t → t.canonical = true

/-- A step takes exactly the front of the queue, and no step undoes a fuse: a programmed key slot keeps its hash, a revoked slot stays revoked, the Mantel key and the identity certificate stay, the security version never falls, and an audit address or a disabled audit port stays (R468, R469, R478). -/
def Obligations.StepFusesRise : Prop :=
  ∀ s t : State, step s = .next t → t.pending = s.pending.tail ∧ Fuses.le s.att.fuses t.att.fuses

/-- A write by a device master to an unsealed Pantry region, where no codeword it touches is uncorrectable and no injection is armed, is taken whole: its bytes are stored from its first address on, every other byte of memory stays, and any device master that then reads the range gets the bytes written (R44, R297, R299). -/
def Obligations.StoreReadsBack : Prop :=
  ∀ (s : State) (unit detail a r : Nat) (bs : List Byte),
    bs ≠ [] → s.place a bs.length = .pantry r → s.mayWrite (.pantry r) = true → s.regB (kPAN + 0x100) 31 = false →
    ((codewords 16 a bs.length).all fun c => decide (s.code c ≠ .uncorr)) = true →
    let w := s.devWrite unit detail a bs
    w.1 = .ok ∧ w.2.bytes a bs.length = bs ∧ (∀ x, (x < a ∨ a + bs.length ≤ x) → w.2.byte x = s.byte x) ∧
    (∀ unit' detail' : Nat, (w.2.devRead unit' detail' a bs.length).1 = .ok bs)

/-- The source that a claim of a target returns is deliverable, has that target, and no deliverable source of the target has a higher priority; a claim with nothing to return finds no deliverable source of the target (R432, R436). -/
def Obligations.ClaimBest : Prop :=
  (∀ (s : State) (t i : Nat), s.bestFor t = some i → s.deliverable i = true ∧ s.planTarget i = t ∧
    ∀ j, s.deliverable j = true → s.planTarget j = t → s.planPrio j ≤ s.planPrio i) ∧
  (∀ (s : State) (t : Nat), s.bestFor t = none → ∀ j, s.planTarget j = t → s.deliverable j = false)
end

