-- ==== Sys2Proof/Laws/Access.lean ====
section
/-! SUPPORT. What an access of a register row does, once the access reaches its unit: `rowWrite_drives` and `rowRead_views` lead a row's write or read to the page that holds the register. -/

namespace Sys2Proof.Machine

theorem bar0At_toNat {off : Nat} (h : off < 2 ^ 24) : (BitVec.ofNat 24 off).toNat = off := by
  rw [BitVec.toNat_ofNat]; exact Nat.mod_eq_of_lt h

theorem nioGranted_page (s : State) (n off : Nat) (w : Bool) : s.nioGranted n (off / 0x10000 * 0x10000) w = s.nioGranted n off w := by
  unfold State.nioGranted
  rw [Nat.mul_div_cancel _ (by decide)]

/-- A write that a driving master makes to a register of a unit page (no injector, no program window) is the page's own write. -/
theorem rowWrite_drives {s t : State} {m : Master} {off : Nat} {v : Word} (hd : s.drives m (off / 0x10000) = true)
    (h4 : off % 4 = 0) (hm : pageMapped (off / 0x10000) = true) (hu : off / 0x10000 < 0x40)
    (hf : s.flipWrite (off / 0x10000) (off % 0x10000) v = none)
    (hn : (decide (0x10 ≤ off / 0x10000) && mantelReg (off % 0x10000)) = false)
    (hw : s.pageWrite (off / 0x10000) (off % 0x10000) v = some t) :
    s.rowWrite m (bar0At off) v = .next t.pump := by
  have hb : off < 2 ^ 24 := by omega
  unfold State.drives at hd
  simp only [Bool.and_eq_true, Bool.not_eq_true'] at hd
  obtain ⟨⟨ha, hp⟩, hx⟩ := hd
  have hu' : ¬ 0x40 ≤ off / 0x10000 := by omega
  unfold State.rowWrite State.regWrite bar0At
  rw [if_neg (by simp [ha]), if_neg (by simp only [barOffset, bar0At_toNat hb, h4]; decide)]
  cases m with
  | pf0 =>
    simp only at hx
    simp [State.busWrite, bar0At_toNat hb, hm, hu', hp, hx, hw]
  | pf1 => simp at hx
  | core n =>
    simp only [Bool.and_eq_true, Bool.or_eq_true, decide_eq_true_eq, nioGranted_page] at hx
    obtain ⟨hx, hg⟩ := hx
    have : (decide (n.val < 4) || s.masterMay (off / 0x10000) (off % 0x10000)) = true := by
      rcases hx with hx | hx
      · simp [hx]
      · simp [State.masterMay, hx, hn]
    simp only [State.busWrite, bar0At_toNat hb, hm, hu', hp, hf, hw, this, hg]
    simp
  | dma c =>
    simp only at hx
    have : s.masterMay (off / 0x10000) (off % 0x10000) = true := by simp [State.masterMay, hx, hn]
    simp only [State.busWrite, bar0At_toNat hb, hm, hu', hp, hf, hw, this]
    simp

/-- A read that a master makes of a register of a unit page is the page's own read. -/
theorem rowRead_views {s : State} {m : Master} {off : Nat} (hv : s.views m (off / 0x10000) = true) (h4 : off % 4 = 0)
    (hm : pageMapped (off / 0x10000) = true) (hb : off < 2 ^ 24) (h7 : off ≠ 0x1C) :
    s.rowRead m (bar0At off) = .next ((s.pageRead (off / 0x10000) (off % 0x10000)).2.answer [(s.pageRead (off / 0x10000) (off % 0x10000)).1]).pump := by
  unfold State.views at hv
  simp only [Bool.and_eq_true, Bool.not_eq_true', decide_eq_true_eq] at hv
  obtain ⟨⟨⟨ha, hr⟩, hp⟩, hx⟩ := hv
  have e4 : off / 4 * 4 = off := by omega
  have e7 : ¬ off / 4 = 7 := by omega
  unfold State.rowRead State.partRead State.regRead bar0At
  cases m with
  | pf1 => simp at hx
  | core n =>
    simp only [nioGranted_page] at hx
    simp [ha, State.busRead, bar0At_toNat hb, hm, e4, readPart, hx]
  | _ => simp [ha, State.busRead, bar0At_toNat hb, hm, e4, e7, readPart]

/-- A word written in the doorbell page of a ring, by the function whose BAR holds the page. -/
theorem rowWrite_ring {s : State} {n : Fin 18} {o : Nat} {v : Word} (ha : s.answers = true) (ho : o < 0x40) (h4 : o % 4 = 0) :
    s.rowWrite (ringMaster n) (ringAt n o) v = .next (s.ringWrite n.val o v).pump := by
  have hn := n.isLt
  unfold State.rowWrite State.regWrite ringMaster ringAt
  by_cases h : n.val < 16
  · have e : (BitVec.ofNat 16 (n.val * 0x1000 + o)).toNat = n.val * 0x1000 + o := by
      rw [BitVec.toNat_ofNat]; exact Nat.mod_eq_of_lt (by omega)
    have e1 : (n.val * 0x1000 + o) % 4 = 0 := by omega
    have e2 : (n.val * 0x1000 + o) / 0x1000 = n.val := by omega
    have e3 : (n.val * 0x1000 + o) % 0x1000 = o := by omega
    simp [h, ha, e, e1, e2, e3, barOffset]
  · have e : (BitVec.ofNat 16 ((n.val - 15) * 0x1000 + o)).toNat = (n.val - 15) * 0x1000 + o := by
      rw [BitVec.toNat_ofNat]; exact Nat.mod_eq_of_lt (by omega)
    have e1 : ((n.val - 15) * 0x1000 + o) % 4 = 0 := by omega
    have e0 : ¬ (n.val - 15) * 0x1000 + o < 0x1000 := by omega
    have e00 : (n.val - 15) * 0x1000 + o < 0x3000 := by omega
    have e2 : 15 + ((n.val - 15) * 0x1000 + o) / 0x1000 = n.val := by omega
    have e3 : ((n.val - 15) * 0x1000 + o) % 0x1000 = o := by omega
    simp [h, ha, e, e1, e2, e3, e0, e00, barOffset]

end Sys2Proof.Machine
end

