-- ==== Sys2Proof/Laws/Keep.lean ====
section
/-! SUPPORT. The operations with which a command begins and is answered keep the list of open commands, the count of acceptances and the list of firmware cores that are down: `Keep s t` says so.  The files beside this one prove it of each such operation, in the form "if the state given keeps them, so does the state answered". -/

namespace Sys2Proof.Machine

/-- From `s` to `t` the open commands, the acceptances counted and the firmware cores that are down are the same. -/
structure Keep (s t : State) : Prop where
  opens : t.foy.opens = s.foy.opens
  down : t.att.down = s.att.down
  count : t.foy.accCount = s.foy.accCount

/-- The state in an answer with a value keeps them. -/
structure KeepP {α : Type} (s0 : State) (p : α × State) : Prop where
  out : Keep s0 p.2

/-- The state in an optional answer keeps them. -/
structure KeepO (s0 : State) (o : Option State) : Prop where
  out : ∀ t, o = some t → Keep s0 t

/-- A next state that is answered keeps them. -/
structure KeepU (s0 : State) (o : Out) : Prop where
  out : ∀ t, o = .next t → Keep s0 t

theorem Keep.refl (s : State) : Keep s s := ⟨rfl, rfl, rfl⟩

theorem Keep.trans {s t u : State} (a : Keep s t) (b : Keep t u) : Keep s u := ⟨b.opens.trans a.opens, b.down.trans a.down, b.count.trans a.count⟩

/-- An update of other fields. -/
theorem Keep.upd {s0 s : State} (h : Keep s0 s) {v0 v1 v2 v3 v4 v5 v6 v7 v8 v9 v10 v11 v12 v13 v14 v15 v16 v17 v18 v19 v20 v21 v22 v23}
    (ha : Foyer.opens v4 = s.foy.opens ∧ Attic.down v17 = s.att.down ∧ Foyer.accCount v4 = s.foy.accCount) :
    Keep s0
      { phase := v0, regs := s.regs, wide := s.wide, com := s.com, mem := s.mem, codes := s.codes, host := s.host, posted := v1,
        readData := v2, readPoison := v3, foy := v4, err := v5, bell := v6, heads := v7, ports := v8, gl := v9,
        dwt := v10, caps := v11, psq := v12, slotTab := v13, mus := v14, rect := v15, cores := v16, att := v17, chm := v18,
        hal := v19, tap := v20, test := v21, pwrLow := v22, free := v23, pending := s.pending } :=
  ⟨ha.1.trans h.opens, ha.2.1.trans h.down, ha.2.2.trans h.count⟩

theorem keep_ite {c : Prop} [Decidable c] {s0 a b : State} (ha : c → Keep s0 a) (hb : ¬ c → Keep s0 b) : Keep s0 (if c then a else b) := by
  split
  · exact ha ‹_›
  · exact hb ‹_›

theorem keepP_ite {α : Type} {c : Prop} [Decidable c] {s0 : State} {a b : α × State} (ha : c → KeepP s0 a) (hb : ¬ c → KeepP s0 b) :
    KeepP s0 (if c then a else b) := by
  split
  · exact ha ‹_›
  · exact hb ‹_›

theorem keepO_ite {c : Prop} [Decidable c] {s0 : State} {a b : Option State} (ha : c → KeepO s0 a) (hb : ¬ c → KeepO s0 b) :
    KeepO s0 (if c then a else b) := by
  split
  · exact ha ‹_›
  · exact hb ‹_›

theorem keepP_pair {α : Type} {s0 s : State} {a : α} (h : Keep s0 s) : KeepP s0 (a, s) := ⟨h⟩
theorem KeepP.of_eq {α : Type} {s0 s : State} {p : α × State} {a : α} (e : p = (a, s)) (h : KeepP s0 p) : Keep s0 s := by
  subst e; exact h.out
theorem keepU_ite {c : Prop} [Decidable c] {s0 : State} {a b : Out} (ha : c → KeepU s0 a) (hb : ¬ c → KeepU s0 b) :
    KeepU s0 (if c then a else b) := by
  split
  · exact ha ‹_›
  · exact hb ‹_›

theorem keepU_next {s0 s : State} (h : Keep s0 s) : KeepU s0 (.next s) := ⟨fun _ e => by cases e; exact h⟩

theorem keepO_none {s0 : State} : KeepO s0 none := ⟨fun _ h => by cases h⟩
theorem keepO_some {s0 s : State} (h : Keep s0 s) : KeepO s0 (some s) := ⟨fun _ e => by cases e; exact h⟩
theorem keepP_out {α : Type} {s0 s : State} {a : α} (h : KeepP s0 (a, s)) : Keep s0 s := h.out
theorem keepO_out {s0 s : State} (h : KeepO s0 (some s)) : Keep s0 s := h.out s rfl
theorem KeepO.of_eq {s0 s : State} {o : Option State} (e : o = some s) (h : KeepO s0 o) : Keep s0 s := h.out s e
theorem KeepO.getD {s0 s : State} {o : Option State} (h : KeepO s0 o) (h' : Keep s0 s) : Keep s0 (o.getD s) := by
  cases o with
  | none => exact h'
  | some t => exact h.out t rfl

/-- A fold that keeps this in each step keeps it. -/
theorem foldl_keep {α : Type} {s0 : State} (l : List α) {f : State → α → State} {s : State} (h : Keep s0 s)
    (hf : ∀ t a, Keep s0 t → Keep s0 (f t a)) : Keep s0 (l.foldl f s) := by
  induction l generalizing s with
  | nil => exact h
  | cons a l ih => exact ih (hf s a h)

theorem foldl_keepP {α β : Type} {s0 : State} (l : List α) {f : β × State → α → β × State} {p : β × State} (h : KeepP s0 p)
    (hf : ∀ t a, KeepP s0 t → KeepP s0 (f t a)) : KeepP s0 (l.foldl f p) := by
  induction l generalizing p with
  | nil => exact h
  | cons a l ih => exact ih (hf p a h)

theorem State.each_keep {α : Type} {s0 s : State} (h : Keep s0 s) (l : List α) {f : State → α → State}
    (hf : ∀ t a, Keep s0 t → Keep s0 (f t a)) : Keep s0 (s.each l f) := foldl_keep l h hf

/-! ## The operations that store -/

theorem State.setReg_keep {s0 s : State} (h : Keep s0 s) {k v} : Keep s0 (s.setReg k v) := ⟨h.opens, h.down, h.count⟩
theorem State.setW64_keep {s0 s : State} (h : Keep s0 s) {k v} : Keep s0 (s.setW64 k v) := ⟨h.opens, h.down, h.count⟩
theorem State.setCm_keep {s0 s : State} (h : Keep s0 s) {k o v} : Keep s0 (s.setCm k o v) := ⟨h.opens, h.down, h.count⟩
theorem State.setByte_keep {s0 s : State} (h : Keep s0 s) {k v} : Keep s0 (s.setByte k v) := ⟨h.opens, h.down, h.count⟩
theorem State.setCode_keep {s0 s : State} (h : Keep s0 s) {k v} : Keep s0 (s.setCode k v) := ⟨h.opens, h.down, h.count⟩
theorem State.hostWrite_keep {s0 s : State} (h : Keep s0 s) {a bs} : Keep s0 (s.hostWrite a bs) := ⟨h.opens, h.down, h.count⟩

end Sys2Proof.Machine
end

