-- ==== Sys2Proof/Laws/MemKeep.lean ====
section
/-! SUPPORT. The operations of Machine/Mem.lean keep the open commands: see Laws/Keep.lean. -/

set_option linter.all false

namespace Sys2Proof.Machine

theorem State.uncorrectable_keep {s0 s : State} (h : Keep s0 s) {a1 a2} : Keep s0 (State.uncorrectable s a1 a2) := by
  have e := @rfl _ @State.uncorrectable
  conv at e => rhs; delta State.uncorrectable
  rw [e]; clear e; beta_reduce
  repeat' first
    | with_reducible assumption
    | (fail_if_no_progress (extract_lets -underBinder +onlyGivenNames x); first | (have hT : (type_of% x) = (State) := (by with_reducible rfl); clear hT; refine (fun (hx : Keep s0 x) => ?_) ?_; (on_goal 1 => clear_value x); (on_goal 2 => subst x)) | (clear_value x) | fail)
    | with_reducible apply State.setReg_keep
    | with_reducible apply State.pulse_keep
    | with_reducible apply State.incReg_keep
    | (with_reducible refine Keep.upd ?_ ?_; (on_goal 2 => exact ⟨by with_reducible rfl, by with_reducible rfl, by with_reducible rfl⟩); with_reducible assumption)
    | split

theorem State.setBytes_keep {s0 s : State} (h : Keep s0 s) {a1 a2} : Keep s0 (State.setBytes s a1 a2) := by
  induction a2 generalizing s a1 with
  | nil => exact h
  | cons b bs ih => exact ih (State.setByte_keep h)

theorem State.celWake_keep {s0 s : State} (h : Keep s0 s) {a1 a2 a3} : Keep s0 (State.celWake s a1 a2 a3) := by
  have e := @rfl _ @State.celWake
  conv at e => rhs; delta State.celWake
  rw [e]; clear e; beta_reduce
  repeat' first
    | with_reducible assumption
    | intro _ _ _
    | (with_reducible apply keep_ite <;> intro)
    | with_reducible apply State.setB_keep
    | with_reducible refine State.each_keep ?_ _ ?_
    | split

theorem State.celFlipDone_keep {s0 s : State} (h : Keep s0 s) : Keep s0 (State.celFlipDone s) := by
  have e := @rfl _ @State.celFlipDone
  conv at e => rhs; delta State.celFlipDone
  rw [e]; clear e; beta_reduce
  repeat' first
    | with_reducible assumption
    | with_reducible apply State.setReg_keep

theorem State.storeLine_keep {s0 s : State} (h : Keep s0 s) {a1 a2 a3 a4 a5} : Keep s0 (State.storeLine s a1 a2 a3 a4 a5) := by
  have e := @rfl _ @State.storeLine
  conv at e => rhs; delta State.storeLine
  rw [e]; clear e; beta_reduce
  repeat' first
    | with_reducible assumption
    | intro _ _ _
    | (fail_if_no_progress (extract_lets -underBinder +onlyGivenNames x); first | (have hT : (type_of% x) = (State) := (by with_reducible rfl); clear hT; refine (fun (hx : Keep s0 x) => ?_) ?_; (on_goal 1 => clear_value x); (on_goal 2 => subst x)) | (have hT : (type_of% x) = (Nat) := (by with_reducible rfl); clear hT; clear_value x) | (have hT : (type_of% x) = (BitVec 32) := (by with_reducible rfl); clear hT; clear_value x) | (have hT : (type_of% x) = (List Nat) := (by with_reducible rfl); clear hT; clear_value x) | (clear_value x) | fail)
    | (with_reducible apply keep_ite <;> intro)
    | with_reducible apply State.setBytes_keep
    | with_reducible apply State.celWake_keep
    | with_reducible apply State.setCode_keep
    | with_reducible apply State.celFlipDone_keep
    | with_reducible apply State.setReg_keep
    | with_reducible apply State.setByte_keep
    | with_reducible refine State.each_keep ?_ _ ?_
    | split

theorem State.countCe_keep {s0 s : State} (h : Keep s0 s) {a1} : Keep s0 (State.countCe s a1) := by
  have e := @rfl _ @State.countCe
  conv at e => rhs; delta State.countCe
  rw [e]; clear e; beta_reduce
  repeat' first
    | (fail_if_no_progress (extract_lets -underBinder +onlyGivenNames x); first | (clear_value x) | fail)
    | (with_reducible refine Keep.upd ?_ ?_; (on_goal 2 => exact ⟨by with_reducible rfl, by with_reducible rfl, by with_reducible rfl⟩); with_reducible assumption)

theorem State.corrLog_keep {s0 s : State} (h : Keep s0 s) {a1 a2 a3 a4 a5 a6 a7 a8 a9} : Keep s0 (State.corrLog s a1 a2 a3 a4 a5 a6 a7 a8 a9) := by
  have e := @rfl _ @State.corrLog
  conv at e => rhs; delta State.corrLog
  rw [e]; clear e; beta_reduce
  repeat' first
    | with_reducible assumption
    | intro _ _ _
    | intro _ _
    | (fail_if_no_progress (extract_lets -underBinder +onlyGivenNames x); first | (have hT : (type_of% x) = (State) := (by with_reducible rfl); clear hT; refine (fun (hx : Keep s0 x) => ?_) ?_; (on_goal 1 => clear_value x); (on_goal 2 => subst x)) | (have hT : (type_of% x) = (Nat) := (by with_reducible rfl); clear hT; clear_value x) | (have hT : (type_of% x) = (State → State) := (by with_reducible rfl); clear hT; refine (fun (hx : ∀ t, Keep s0 t → Keep s0 (x t)) => ?_) ?_; (on_goal 1 => clear_value x); (on_goal 2 => subst x)) | (have hT : ∃ α : Type, (type_of% x) = (State → α → State) := ⟨_, rfl⟩; clear hT; refine (fun (hx : ∀ t a, Keep s0 t → Keep s0 (x t a)) => ?_) ?_; (on_goal 1 => clear_value x); (on_goal 2 => subst x)) | (clear_value x) | fail)
    | (with_reducible apply keep_ite <;> intro)
    | with_reducible apply State.pulse_keep
    | with_reducible apply State.errRec_keep
    | with_reducible apply State.setReg_keep
    | with_reducible apply State.setF_keep
    | with_reducible apply State.setW64_keep
    | with_reducible apply_assumption -exfalso -symm
    | split

theorem State.corrected_keep {s0 s : State} (h : Keep s0 s) {a1 a2 a3} : Keep s0 (State.corrected s a1 a2 a3) := by
  have e := @rfl _ @State.corrected
  conv at e => rhs; delta State.corrected
  rw [e]; clear e; beta_reduce
  repeat' first
    | with_reducible assumption
    | (fail_if_no_progress (extract_lets -underBinder +onlyGivenNames x); first | (have hT : (type_of% x) = (State) := (by with_reducible rfl); clear hT; refine (fun (hx : Keep s0 x) => ?_) ?_; (on_goal 1 => clear_value x); (on_goal 2 => subst x)) | (have hT : (type_of% x) = (Nat) := (by with_reducible rfl); clear hT; clear_value x) | fail)
    | with_reducible apply State.countCe_keep
    | with_reducible apply State.corrLog_keep
    | split

theorem State.rmwFix_keep {s0 s : State} (h : Keep s0 s) {a1 a2 a3} : Keep s0 (State.rmwFix s a1 a2 a3) := by
  have e := @rfl _ @State.rmwFix
  conv at e => rhs; delta State.rmwFix
  rw [e]; clear e; beta_reduce
  repeat' first
    | with_reducible assumption
    | intro _ _ _
    | with_reducible apply State.setCode_keep
    | with_reducible apply State.corrected_keep
    | with_reducible refine State.each_keep ?_ _ ?_
    | split

theorem State.writeCopy_keep {s0 s : State} (h : Keep s0 s) {a1 a2 a3 a4 a5} : KeepP s0 (State.writeCopy s a1 a2 a3 a4 a5) := by
  have e := @rfl _ @State.writeCopy
  conv at e => rhs; delta State.writeCopy
  rw [e]; clear e; beta_reduce
  repeat' first
    | with_reducible assumption
    | with_reducible apply State.uncorrectable_keep
    | with_reducible apply State.storeLine_keep
    | with_reducible apply State.rmwFix_keep
    | split
    | with_reducible apply keepP_pair

theorem State.writeTwo_keep {s0 s : State} (h : Keep s0 s) {a1 a2 a3} : KeepP s0 (State.writeTwo s a1 a2 a3) := by
  have e := @rfl _ @State.writeTwo
  conv at e => rhs; delta State.writeTwo
  rw [e]; clear e; beta_reduce
  repeat' first
    | with_reducible assumption
    | (fail_if_no_progress (extract_lets -underBinder +onlyGivenNames x); first | (have hT : (type_of% x) = (Option Nat) := (by with_reducible rfl); clear hT; clear_value x) | (have hT : ∃ α : Type, (type_of% x) = (α × State) := ⟨_, rfl⟩; clear hT; refine (fun (hx : KeepP s0 x) => ?_) ?_; (on_goal 1 => clear_value x); (on_goal 2 => subst x)) | fail)
    | with_reducible apply State.writeCopy_keep
    | with_reducible apply State.celFlipDone_keep
    | (with_reducible apply KeepP.out; with_reducible assumption)
    | split
    | with_reducible apply keepP_pair

theorem State.ueRecord_keep {s0 s : State} (h : Keep s0 s) {a1 a2 a3} : Keep s0 (State.ueRecord s a1 a2 a3) := by
  have e := @rfl _ @State.ueRecord
  conv at e => rhs; delta State.ueRecord
  rw [e]; clear e; beta_reduce
  repeat' first
    | with_reducible assumption
    | with_reducible apply State.errRec_keep

theorem State.writeLine_keep {s0 s : State} (h : Keep s0 s) {a1 a2 a3} : KeepP s0 (State.writeLine s a1 a2 a3) := by
  have e := @rfl _ @State.writeLine
  conv at e => rhs; delta State.writeLine
  rw [e]; clear e; beta_reduce
  repeat' first
    | with_reducible assumption
    | (fail_if_no_progress (extract_lets -underBinder +onlyGivenNames x); first | (have hT : ∃ α : Type, (type_of% x) = (α × State) := ⟨_, rfl⟩; clear hT; refine (fun (hx : KeepP s0 x) => ?_) ?_; (on_goal 1 => clear_value x); (on_goal 2 => subst x)) | fail)
    | with_reducible apply State.writeTwo_keep
    | (with_reducible apply KeepP.out; with_reducible assumption)
    | with_reducible apply keepP_pair

theorem State.writePieces_keep {s0 s : State} (h : Keep s0 s) {a0 a1 a2 a4} : KeepP s0 (State.writePieces a0 a1 a2 s a4) := by
  induction a4 generalizing s with
  | nil => exact keepP_pair h
  | cons q t ih =>
    unfold State.writePieces
    extract_lets r
    have hr : KeepP s0 r := State.writeLine_keep h
    clear_value r
    split
    · exact keepP_pair hr.out
    · exact ih hr.out

theorem State.celUse_keep {s0 s : State} (h : Keep s0 s) {a1 a2 a3 a4 a5 a6} : Keep s0 (State.celUse s a1 a2 a3 a4 a5 a6) := by
  have e := @rfl _ @State.celUse
  conv at e => rhs; delta State.celUse
  rw [e]; clear e; beta_reduce
  repeat' first
    | with_reducible assumption
    | intro _ _ _
    | with_reducible apply State.celWake_keep
    | with_reducible apply State.cellarTransfer_keep
    | with_reducible refine State.each_keep ?_ _ ?_
    | split

theorem State.celSend_keep {s0 s : State} (h : Keep s0 s) {a1 a2 a3 a4 a5} : Keep s0 (State.celSend s a1 a2 a3 a4 a5) := by
  have e := @rfl _ @State.celSend
  conv at e => rhs; delta State.celSend
  rw [e]; clear e; beta_reduce
  repeat' first
    | with_reducible assumption
    | (fail_if_no_progress (extract_lets -underBinder +onlyGivenNames x); first | (have hT : (type_of% x) = (State) := (by with_reducible rfl); clear hT; refine (fun (hx : Keep s0 x) => ?_) ?_; (on_goal 1 => clear_value x); (on_goal 2 => subst x)) | fail)
    | with_reducible apply State.celUse_keep
    | split

theorem State.devRead_keep {s0 s : State} (h : Keep s0 s) {a1 a2 a3 a4} : KeepP s0 (State.devRead s a1 a2 a3 a4) := by
  have e := @rfl _ @State.devRead
  conv at e => rhs; delta State.devRead
  rw [e]; clear e; beta_reduce
  repeat' first
    | with_reducible assumption
    | intro _ _ _
    | (fail_if_no_progress (extract_lets -underBinder +onlyGivenNames x); first | (have hT : (type_of% x) = (State) := (by with_reducible rfl); clear hT; refine (fun (hx : Keep s0 x) => ?_) ?_; (on_goal 1 => clear_value x); (on_goal 2 => subst x)) | (have hT : (type_of% x) = (Bool) := (by with_reducible rfl); clear hT; clear_value x) | (have hT : (type_of% x) = (List Nat) := (by with_reducible rfl); clear hT; clear_value x) | (clear_value x) | fail)
    | (with_reducible apply keepP_ite <;> intro)
    | with_reducible apply State.refusedAccess_keep
    | with_reducible apply State.celUse_keep
    | with_reducible apply State.ueRecord_keep
    | with_reducible apply State.uncorrectable_keep
    | with_reducible apply State.corrected_keep
    | with_reducible refine State.each_keep ?_ _ ?_
    | split
    | with_reducible apply keepP_pair

theorem State.fwWrite_keep {s0 s : State} (h : Keep s0 s) {a1 a2 a3} : KeepP s0 (State.fwWrite s a1 a2 a3) := by
  have e := @rfl _ @State.fwWrite
  conv at e => rhs; delta State.fwWrite
  rw [e]; clear e; beta_reduce
  repeat' first
    | with_reducible assumption
    | (fail_if_no_progress (extract_lets -underBinder +onlyGivenNames x); first | (clear_value x) | fail)
    | with_reducible apply State.writePieces_keep
    | with_reducible apply State.celSend_keep

end Sys2Proof.Machine
end

