-- ==== Sys2Proof/Laws/FoyerKeep.lean ====
section
/-! SUPPORT. The operations of Machine/Foyer.lean keep the open commands: see Laws/Keep.lean. -/

set_option linter.all false

namespace Sys2Proof.Machine

theorem State.jFailed_keep {s0 s : State} (h : Keep s0 s) {a1 a2 a3} : Keep s0 (State.jFailed s a1 a2 a3) := by
  have e := @rfl _ @State.jFailed
  conv at e => rhs; delta State.jFailed
  rw [e]; clear e; beta_reduce
  repeat' first
    | with_reducible assumption
    | (with_reducible apply keep_ite <;> intro)
    | with_reducible apply State.errRec_keep
    | with_reducible apply State.setB_keep

theorem State.jWrite_keep {s0 s : State} (h : Keep s0 s) {a1 a2 a3} : Keep s0 (State.jWrite s a1 a2 a3) := by
  have e := @rfl _ @State.jWrite
  conv at e => rhs; delta State.jWrite
  rw [e]; clear e; beta_reduce
  repeat' first
    | with_reducible assumption
    | intro _ _ _
    | (fail_if_no_progress (extract_lets -underBinder +onlyGivenNames x); first | (have hT : (type_of% x) = (Nat) := (by with_reducible rfl); clear hT; clear_value x) | (have hT : ∃ α : Type, (type_of% x) = (α × State) := ⟨_, rfl⟩; clear hT; refine (fun (hx : KeepP s0 x) => ?_) ?_; (on_goal 1 => clear_value x); (on_goal 2 => subst x)) | (clear_value x) | fail)
    | (with_reducible apply keep_ite <;> intro)
    | with_reducible apply State.writeTwo_keep
    | with_reducible apply State.celSend_keep
    | with_reducible apply State.jFailed_keep
    | with_reducible apply State.ueRecord_keep
    | with_reducible refine foldl_keepP _ ?_ ?_
    | (with_reducible apply KeepP.out; with_reducible assumption)
    | split
    | with_reducible apply keepP_pair

theorem State.jSet_keep {s0 s : State} (h : Keep s0 s) {a1 a2} : Keep s0 (State.jSet s a1 a2) := by
  have e := @rfl _ @State.jSet
  conv at e => rhs; delta State.jSet
  rw [e]; clear e; beta_reduce
  repeat' first
    | (fail_if_no_progress (extract_lets -underBinder +onlyGivenNames x); first | (have hT : (type_of% x) = (Attic) := (by with_reducible rfl); clear hT) | (have hT : (type_of% x) = (Foyer) := (by with_reducible rfl); clear hT) | (clear_value x) | fail)
    | with_reducible apply State.jWrite_keep
    | (with_reducible refine Keep.upd ?_ ?_; (on_goal 2 => exact ⟨by with_reducible rfl, by with_reducible rfl, by with_reducible rfl⟩); with_reducible assumption)

theorem State.jState_keep {s0 s : State} (h : Keep s0 s) {a1 a2} : Keep s0 (State.jState s a1 a2) := by
  have e := @rfl _ @State.jState
  conv at e => rhs; delta State.jState
  rw [e]; clear e; beta_reduce
  repeat' first
    | with_reducible assumption
    | with_reducible apply State.jSet_keep
    | split

theorem State.cqStore_keep {s0 s : State} (h : Keep s0 s) {a1 a2} : Keep s0 (State.cqStore s a1 a2) := by
  have e := @rfl _ @State.cqStore
  conv at e => rhs; delta State.cqStore
  rw [e]; clear e; beta_reduce
  repeat' first
    | with_reducible assumption
    | (fail_if_no_progress (extract_lets -underBinder +onlyGivenNames x); first | (have hT : (type_of% x) = (Nat) := (by with_reducible rfl); clear hT; clear_value x) | fail)
    | with_reducible apply State.hostWrite_keep

theorem State.writeEntry_keep {s0 s : State} (h : Keep s0 s) {a1} : Keep s0 (State.writeEntry s a1) := by
  have e := @rfl _ @State.writeEntry
  conv at e => rhs; delta State.writeEntry
  rw [e]; clear e; beta_reduce
  repeat' first
    | with_reducible assumption
    | (fail_if_no_progress (extract_lets -underBinder +onlyGivenNames x); first | (have hT : (type_of% x) = (State) := (by with_reducible rfl); clear hT; refine (fun (hx : Keep s0 x) => ?_) ?_; (on_goal 1 => clear_value x); (on_goal 2 => subst x)) | (have hT : (type_of% x) = (Nat) := (by with_reducible rfl); clear hT; clear_value x) | fail)
    | (with_reducible apply keep_ite <;> intro)
    | with_reducible apply State.incReg_keep
    | with_reducible apply State.cqStore_keep
    | with_reducible apply State.pulse_keep

theorem State.releaseHeld_keep {s0 s : State} (h : Keep s0 s) {a1} : Keep s0 (State.releaseHeld s a1) := by
  have e := @rfl _ @State.releaseHeld
  conv at e => rhs; delta State.releaseHeld
  rw [e]; clear e; beta_reduce
  repeat' first
    | with_reducible assumption
    | intro _ _ _
    | (fail_if_no_progress (extract_lets -underBinder +onlyGivenNames x); first | (have hT : (type_of% x) = (State) := (by with_reducible rfl); clear hT; refine (fun (hx : Keep s0 x) => ?_) ?_; (on_goal 1 => clear_value x); (on_goal 2 => subst x)) | (have hT : (type_of% x) = (Nat) := (by with_reducible rfl); clear hT; clear_value x) | (have hT : (type_of% x) = (Attic) := (by with_reducible rfl); clear hT) | (have hT : (type_of% x) = (Foyer) := (by with_reducible rfl); clear hT) | (clear_value x) | fail)
    | with_reducible apply State.setB_keep
    | with_reducible apply State.writeEntry_keep
    | with_reducible refine State.each_keep ?_ _ ?_
    | (with_reducible refine Keep.upd ?_ ?_; (on_goal 2 => exact ⟨by with_reducible rfl, by with_reducible rfl, by with_reducible rfl⟩); with_reducible assumption)

theorem State.putEntry_keep {s0 s : State} (h : Keep s0 s) {a1} : Keep s0 (State.putEntry s a1) := by
  have e := @rfl _ @State.putEntry
  conv at e => rhs; delta State.putEntry
  rw [e]; clear e; beta_reduce
  repeat' first
    | with_reducible assumption
    | (fail_if_no_progress (extract_lets -underBinder +onlyGivenNames x); first | (have hT : (type_of% x) = (Foyer) := (by with_reducible rfl); clear hT) | fail)
    | (with_reducible apply keep_ite <;> intro)
    | with_reducible apply State.setB_keep
    | with_reducible apply State.writeEntry_keep
    | (with_reducible refine Keep.upd ?_ ?_; (on_goal 2 => exact ⟨by with_reducible rfl, by with_reducible rfl, by with_reducible rfl⟩); with_reducible assumption)

end Sys2Proof.Machine
end

