-- ==== Sys2Proof/Laws/Tbl.lean ====
section
/-! SUPPORT. Laws of sparse tables: a read after a write, and that every operation keeps the canonical form. -/

namespace Sys2Proof.Machine

variable {α : Type}

@[simp] theorem Tbl.get_nil (d : Nat → α) (i : Nat) : Tbl.get d [] i = d i := rfl

theorem Tbl.find_ins (t : Tbl α) (i j : Nat) (v : α) : Tbl.find (Tbl.ins t i v) j = if i = j then some v else Tbl.find t j := by
  induction t with
  | nil => simp [Tbl.ins, Tbl.find]
  | cons e t ih =>
    obtain ⟨k, w⟩ := e
    by_cases h1 : i < k
    · simp [Tbl.ins, Tbl.find, h1]
    · by_cases h2 : k = i
      · subst h2
        simp [Tbl.ins, Tbl.find]
        split <;> rfl
      · simp only [Tbl.ins, h1, h2, if_false, Tbl.find, ih]
        by_cases h3 : k = j
        · subst h3
          simp [Ne.symm h2]
        · simp [h3]

theorem Tbl.find_del (t : Tbl α) (i j : Nat) : Tbl.find (Tbl.del t i) j = if i = j then none else Tbl.find t j := by
  induction t with
  | nil => simp [Tbl.del, Tbl.find]
  | cons e t ih =>
    obtain ⟨k, w⟩ := e
    unfold Tbl.del at ih ⊢
    by_cases h : k = i
    · subst h
      by_cases h2 : k = j
      · simp [h2] at ih ⊢
        exact ih
      · simp [h2, Tbl.find] at ih ⊢
        exact ih
    · simp only [List.filter_cons, ne_eq, h, not_false_eq_true, decide_true, if_true, Tbl.find, ih]
      by_cases h3 : k = j
      · subst h3
        simp [Ne.symm h]
      · simp [h3]

/-- A read after a write to the same key gives the value written; every other key reads as before. -/
theorem Tbl.get_set [DecidableEq α] (d : Nat → α) (t : Tbl α) (i j : Nat) (v : α) :
    Tbl.get d (Tbl.set d t i v) j = if i = j then v else Tbl.get d t j := by
  unfold Tbl.set Tbl.get
  by_cases h : v = d i
  · rw [if_pos h, Tbl.find_del]
    by_cases h2 : i = j
    · subst h2
      simp [h]
    · simp [h2]
  · rw [if_neg h, Tbl.find_ins]
    by_cases h2 : i = j <;> simp [h2]

@[simp] theorem Tbl.get_set_same [DecidableEq α] (d : Nat → α) (t : Tbl α) (i : Nat) (v : α) : Tbl.get d (Tbl.set d t i v) i = v := by
  simp [Tbl.get_set]

theorem Tbl.get_set_ne [DecidableEq α] (d : Nat → α) (t : Tbl α) {i j : Nat} (v : α) (h : i ≠ j) :
    Tbl.get d (Tbl.set d t i v) j = Tbl.get d t j := by
  simp [Tbl.get_set, h]

/-- The canonical form, said of the head and the rest. -/
theorem Tbl.wf_cons [DecidableEq α] (d : Nat → α) (e : Nat × α) (t : Tbl α) :
    Tbl.wf d (e :: t) = true ↔ e.2 ≠ d e.1 ∧ (∀ f ∈ t, e.1 < f.1) ∧ Tbl.wf d t = true := by
  induction t generalizing e with
  | nil => simp [Tbl.wf]
  | cons f t ih =>
    simp only [Tbl.wf, Bool.and_eq_true, decide_eq_true_eq, List.mem_cons, forall_eq_or_imp]
    constructor
    · rintro ⟨⟨h1, h2⟩, h3⟩
      refine ⟨h2, ⟨h1, fun g hg => ?_⟩, h3⟩
      exact Nat.lt_trans h1 (((ih f).1 h3).2.1 g hg)
    · rintro ⟨h1, ⟨h2, -⟩, h3⟩
      exact ⟨⟨h2, h1⟩, h3⟩

theorem Tbl.mem_ins (t : Tbl α) (i : Nat) (v : α) (f : Nat × α) (h : f ∈ Tbl.ins t i v) : f = (i, v) ∨ f ∈ t := by
  induction t with
  | nil => simpa [Tbl.ins] using h
  | cons e t ih =>
    unfold Tbl.ins at h
    split at h
    · simpa using h
    · split at h
      · rcases List.mem_cons.1 h with h | h
        · exact .inl h
        · exact .inr (List.mem_cons_of_mem _ h)
      · rcases List.mem_cons.1 h with h | h
        · exact .inr (h ▸ List.mem_cons_self)
        · exact (ih h).imp id (List.mem_cons_of_mem _)

theorem Tbl.wf_filter [DecidableEq α] (d : Nat → α) (p : Nat × α → Bool) (t : Tbl α) (h : Tbl.wf d t = true) : Tbl.wf d (t.filter p) = true := by
  induction t with
  | nil => rfl
  | cons e t ih =>
    rw [Tbl.wf_cons] at h
    rw [List.filter_cons]
    split
    · rw [Tbl.wf_cons]
      exact ⟨h.1, fun f hf => h.2.1 f (List.mem_filter.1 hf).1, ih h.2.2⟩
    · exact ih h.2.2

theorem Tbl.wf_ins [DecidableEq α] (d : Nat → α) (t : Tbl α) (i : Nat) (v : α) (hv : v ≠ d i) (h : Tbl.wf d t = true) :
    Tbl.wf d (Tbl.ins t i v) = true := by
  induction t with
  | nil => simpa [Tbl.ins, Tbl.wf] using hv
  | cons e t ih =>
    have h' := (Tbl.wf_cons d e t).1 h
    obtain ⟨k, w⟩ := e
    unfold Tbl.ins
    split
    · rename_i hlt
      rw [Tbl.wf_cons]
      refine ⟨hv, fun f hf => ?_, h⟩
      rcases List.mem_cons.1 hf with rfl | hf
      · exact hlt
      · exact Nat.lt_trans hlt (h'.2.1 f hf)
    · split
      · rename_i he
        subst he
        rw [Tbl.wf_cons]
        exact ⟨hv, h'.2.1, h'.2.2⟩
      · rename_i hn hne
        rw [Tbl.wf_cons]
        refine ⟨h'.1, fun f hf => ?_, ih h'.2.2⟩
        rcases Tbl.mem_ins t i v f hf with rfl | hf
        · show k < i
          omega
        · exact h'.2.1 f hf

/-- A write keeps the canonical form. -/
theorem Tbl.wf_set [DecidableEq α] (d : Nat → α) (t : Tbl α) (i : Nat) (v : α) (h : Tbl.wf d t = true) : Tbl.wf d (Tbl.set d t i v) = true := by
  unfold Tbl.set
  split
  · exact Tbl.wf_filter d _ t h
  · exact Tbl.wf_ins d t i v ‹_› h

end Sys2Proof.Machine
end

