-- ==== Sys2Proof/Laws/Sound.lean ====
section
/-! SUPPORT. What every operation of the model can do to the parts of the state that no command may disturb: `Sound s t` says that the queue of commands is the same, that fuses have only been blown, and that a canonical state has stayed canonical.  The files beside this one prove it of every operation, in the form "if the state given is sound, so is the state answered". -/

namespace Sys2Proof.Machine

/-- From `s` to `t`: the queue is the same, fuses were only blown, and the canonical form is kept. -/
structure Sound (s t : State) : Prop where
  pending : t.pending = s.pending
  fuses : Fuses.le s.att.fuses t.att.fuses
  canon : s.canonical = true → t.canonical = true

/-- The state in an answer with a value is sound. -/
structure Snd {α : Type} (s0 : State) (p : α × State) : Prop where
  out : Sound s0 p.2

/-- The state in an optional answer is sound. -/
structure SoundO (s0 : State) (o : Option State) : Prop where
  out : ∀ t, o = some t → Sound s0 t

/-- A next state that is answered is sound. -/
structure SoundU (s0 : State) (o : Out) : Prop where
  out : ∀ t, o = .next t → Sound s0 t

theorem Fuses.le_refl (f : Fuses) : Fuses.le f f :=
  ⟨fun _ _ h => h, fun _ h => h, fun _ h => h, rfl, Nat.le_refl _, fun _ => rfl, fun h => h⟩

theorem Fuses.le_trans {f g h : Fuses} (a : Fuses.le f g) (b : Fuses.le g h) : Fuses.le f h := by
  obtain ⟨a1, a2, a3, a4, a5, a6, a7⟩ := a
  obtain ⟨b1, b2, b3, b4, b5, b6, b7⟩ := b
  refine ⟨fun k x e => b1 k x (a1 k x e), fun k e => b2 k (a2 k e), fun m e => b3 m (a3 m e), b4.trans a4,
    Nat.le_trans a5 b5, fun e => ?_, fun e => b7 (a7 e)⟩
  rw [b6 (by rw [a6 e]; exact e), a6 e]

theorem Sound.refl (s : State) : Sound s s := ⟨rfl, Fuses.le_refl _, fun h => h⟩

theorem Sound.trans {s t u : State} (a : Sound s t) (b : Sound t u) : Sound s u :=
  ⟨b.pending.trans a.pending, Fuses.le_trans a.fuses b.fuses, fun h => b.canon (a.canon h)⟩

/-- What `canonical` says, part by part. -/
theorem canonical_iff (s : State) : s.canonical = true ↔
    Tbl.wf regReset s.regs = true ∧ Tbl.wf wideReset s.wide = true ∧ Tbl.wf regReset s.com = true ∧ Memory.wf s.mem = true ∧
      Tbl.wf (fun _ => Code.good) s.codes = true ∧ Memory.wf s.host = true := by
  simp [State.canonical, and_assoc]

/-- An update of fields that none of this speaks of. -/
theorem Sound.upd {s0 s : State} (h : Sound s0 s) {v0 v1 v2 v3 v4 v5 v6 v7 v8 v9 v10 v11 v12 v13 v14 v15 v16 v17 v18 v19 v20 v21 v22 v23}
    (ha : Attic.fuses v17 = s.att.fuses) :
    Sound s0
      { phase := v0, regs := s.regs, wide := s.wide, com := s.com, mem := s.mem, codes := s.codes, host := s.host, posted := v1,
        readData := v2, readPoison := v3, foy := v4, err := v5, bell := v6, heads := v7, ports := v8, gl := v9,
        dwt := v10, caps := v11, psq := v12, slotTab := v13, mus := v14, rect := v15, cores := v16, att := v17, chm := v18,
        hal := v19, tap := v20, test := v21, pwrLow := v22, free := v23, pending := s.pending } :=
  ⟨h.pending, by simpa [ha] using h.fuses, fun k => (canonical_iff _).2 ((canonical_iff s).1 (h.canon k))⟩

theorem sound_ite {c : Prop} [Decidable c] {s0 a b : State} (ha : c → Sound s0 a) (hb : ¬ c → Sound s0 b) : Sound s0 (if c then a else b) := by
  split
  · exact ha ‹_›
  · exact hb ‹_›

theorem snd_ite {α : Type} {c : Prop} [Decidable c] {s0 : State} {a b : α × State} (ha : c → Snd s0 a) (hb : ¬ c → Snd s0 b) :
    Snd s0 (if c then a else b) := by
  split
  · exact ha ‹_›
  · exact hb ‹_›

theorem soundO_ite {c : Prop} [Decidable c] {s0 : State} {a b : Option State} (ha : c → SoundO s0 a) (hb : ¬ c → SoundO s0 b) :
    SoundO s0 (if c then a else b) := by
  split
  · exact ha ‹_›
  · exact hb ‹_›

theorem snd_pair {α : Type} {s0 s : State} {a : α} (h : Sound s0 s) : Snd s0 (a, s) := ⟨h⟩
theorem Snd.of_eq {α : Type} {s0 s : State} {p : α × State} {a : α} (e : p = (a, s)) (h : Snd s0 p) : Sound s0 s := by
  subst e; exact h.out
theorem soundU_ite {c : Prop} [Decidable c] {s0 : State} {a b : Out} (ha : c → SoundU s0 a) (hb : ¬ c → SoundU s0 b) :
    SoundU s0 (if c then a else b) := by
  split
  · exact ha ‹_›
  · exact hb ‹_›

theorem soundU_next {s0 s : State} (h : Sound s0 s) : SoundU s0 (.next s) := ⟨fun _ e => by cases e; exact h⟩

theorem soundO_none {s0 : State} : SoundO s0 none := ⟨fun _ h => by cases h⟩
theorem soundO_some {s0 s : State} (h : Sound s0 s) : SoundO s0 (some s) := ⟨fun _ e => by cases e; exact h⟩
theorem snd_out {α : Type} {s0 s : State} {a : α} (h : Snd s0 (a, s)) : Sound s0 s := h.out
theorem soundO_out {s0 s : State} (h : SoundO s0 (some s)) : Sound s0 s := h.out s rfl
theorem SoundO.of_eq {s0 s : State} {o : Option State} (e : o = some s) (h : SoundO s0 o) : Sound s0 s := h.out s e
theorem SoundO.getD {s0 s : State} {o : Option State} (h : SoundO s0 o) (h' : Sound s0 s) : Sound s0 (o.getD s) := by
  cases o with
  | none => exact h'
  | some t => exact h.out t rfl

/-- A fold that keeps soundness in each step keeps it. -/
theorem foldl_sound {α : Type} {s0 : State} (l : List α) {f : State → α → State} {s : State} (h : Sound s0 s)
    (hf : ∀ t a, Sound s0 t → Sound s0 (f t a)) : Sound s0 (l.foldl f s) := by
  induction l generalizing s with
  | nil => exact h
  | cons a l ih => exact ih (hf s a h)

theorem foldl_snd {α β : Type} {s0 : State} (l : List α) {f : β × State → α → β × State} {p : β × State} (h : Snd s0 p)
    (hf : ∀ t a, Snd s0 t → Snd s0 (f t a)) : Snd s0 (l.foldl f p) := by
  induction l generalizing p with
  | nil => exact h
  | cons a l ih => exact ih (hf p a h)

theorem State.each_sound {α : Type} {s0 s : State} (h : Sound s0 s) (l : List α) {f : State → α → State}
    (hf : ∀ t a, Sound s0 t → Sound s0 (f t a)) : Sound s0 (s.each l f) := foldl_sound l h hf

/-! ## The operations that store -/

theorem State.setReg_sound {s0 s : State} (h : Sound s0 s) {k v} : Sound s0 (s.setReg k v) :=
  ⟨h.pending, h.fuses, fun c => by
    have := (canonical_iff s).1 (h.canon c)
    exact (canonical_iff _).2 ⟨Tbl.wf_set _ _ _ _ this.1, this.2⟩⟩

theorem State.setW64_sound {s0 s : State} (h : Sound s0 s) {k v} : Sound s0 (s.setW64 k v) :=
  ⟨h.pending, h.fuses, fun c => by
    obtain ⟨a, b, r⟩ := (canonical_iff s).1 (h.canon c)
    exact (canonical_iff _).2 ⟨a, Tbl.wf_set _ _ _ _ b, r⟩⟩

theorem State.setCm_sound {s0 s : State} (h : Sound s0 s) {k o v} : Sound s0 (s.setCm k o v) :=
  ⟨h.pending, h.fuses, fun c => by
    obtain ⟨a, b, d, r⟩ := (canonical_iff s).1 (h.canon c)
    exact (canonical_iff _).2 ⟨a, b, Tbl.wf_set _ _ _ _ d, r⟩⟩

theorem State.setByte_sound {s0 s : State} (h : Sound s0 s) {k v} : Sound s0 (s.setByte k v) :=
  ⟨h.pending, h.fuses, fun c => by
    obtain ⟨a, b, d, e, r⟩ := (canonical_iff s).1 (h.canon c)
    exact (canonical_iff _).2 ⟨a, b, d, Tbl.wf_set _ _ _ _ e, r⟩⟩

theorem State.setCode_sound {s0 s : State} (h : Sound s0 s) {k v} : Sound s0 (s.setCode k v) :=
  ⟨h.pending, h.fuses, fun c => by
    obtain ⟨a, b, d, e, g, r⟩ := (canonical_iff s).1 (h.canon c)
    exact (canonical_iff _).2 ⟨a, b, d, e, Tbl.wf_set _ _ _ _ g, r⟩⟩

theorem hostBytes_wf (bs : List Byte) : ∀ (t : Tbl Byte) (a : Nat), Memory.wf t = true →
    Memory.wf (bs.foldl (fun (p : Tbl Byte × Nat) b => (Tbl.set (fun _ => 0) p.1 p.2 b, p.2 + 1)) (t, a)).1 = true := by
  induction bs with
  | nil => exact fun _ _ h => h
  | cons b bs ih => exact fun t a h => ih _ _ (Tbl.wf_set _ _ _ _ h)

theorem State.hostWrite_sound {s0 s : State} (h : Sound s0 s) {a bs} : Sound s0 (s.hostWrite a bs) :=
  ⟨h.pending, h.fuses, fun c => by
    obtain ⟨a, b, d, e, g, r⟩ := (canonical_iff s).1 (h.canon c)
    exact (canonical_iff _).2 ⟨a, b, d, e, g, hostBytes_wf _ _ _ r⟩⟩

end Sys2Proof.Machine
end

