-- ==== Sys2Proof/Laws/HallwaySound.lean ====
section
/-! SUPPORT. The operations of Machine/Hallway.lean are sound: see Laws/Sound.lean. -/

set_option linter.all false

namespace Sys2Proof.Machine

theorem State.setTags_sound {s0 s : State} (h : Sound s0 s) {a1 a2} : Sound s0 (State.setTags s a1 a2) := by
  have e := @rfl _ @State.setTags
  conv at e => rhs; delta State.setTags
  rw [e]; clear e; beta_reduce
  repeat' first
    | (fail_if_no_progress (extract_lets -underBinder +onlyGivenNames x); first | (clear_value x) | fail)
    | with_reducible apply State.setReg_sound
    | (with_reducible refine Sound.upd ?_ ?_; (on_goal 2 => with_reducible rfl); with_reducible assumption)

theorem State.deadlineTags_sound {s0 s : State} (h : Sound s0 s) {a1 a2} : Sound s0 (State.deadlineTags s a1 a2) := by
  have e := @rfl _ @State.deadlineTags
  conv at e => rhs; delta State.deadlineTags
  rw [e]; clear e; beta_reduce
  repeat' first
    | with_reducible assumption
    | (fail_if_no_progress (extract_lets -underBinder +onlyGivenNames x); first | (clear_value x) | fail)
    | with_reducible apply State.setTags_sound

theorem State.setSlots_sound {s0 s : State} (h : Sound s0 s) {a1 a2} : Sound s0 (State.setSlots s a1 a2) := by
  have e := @rfl _ @State.setSlots
  conv at e => rhs; delta State.setSlots
  rw [e]; clear e; beta_reduce
  repeat' first
    | (fail_if_no_progress (extract_lets -underBinder +onlyGivenNames x); first | (clear_value x) | fail)
    | (with_reducible refine Sound.upd ?_ ?_; (on_goal 2 => with_reducible rfl); with_reducible assumption)

theorem State.setHalPort_sound {s0 s : State} (h : Sound s0 s) {a1 a2} : Sound s0 (State.setHalPort s a1 a2) := by
  have e := @rfl _ @State.setHalPort
  conv at e => rhs; delta State.setHalPort
  rw [e]; clear e; beta_reduce
  repeat' first
    | (fail_if_no_progress (extract_lets -underBinder +onlyGivenNames x); first | (clear_value x) | fail)
    | (with_reducible refine Sound.upd ?_ ?_; (on_goal 2 => with_reducible rfl); with_reducible assumption)

theorem State.flitOut_sound {s0 s : State} (h : Sound s0 s) {a1 a2} : Sound s0 (State.flitOut s a1 a2) := by
  have e := @rfl _ @State.flitOut
  conv at e => rhs; delta State.flitOut
  rw [e]; clear e; beta_reduce
  repeat' first
    | with_reducible assumption
    | (fail_if_no_progress (extract_lets -underBinder +onlyGivenNames x); first | (clear_value x) | fail)
    | with_reducible apply State.setHalPort_sound

theorem State.halArbit_sound {s0 s : State} (h : Sound s0 s) {a1 a2} : Sound s0 (State.halArbit s a1 a2) := by
  have e := @rfl _ @State.halArbit
  conv at e => rhs; delta State.halArbit
  rw [e]; clear e; beta_reduce
  repeat' first
    | with_reducible assumption
    | (fail_if_no_progress (extract_lets -underBinder +onlyGivenNames x); first | (have hT : (type_of% x) = (State) := (by with_reducible rfl); clear hT; refine (fun (hx : Sound s0 x) => ?_) ?_; (on_goal 1 => clear_value x); (on_goal 2 => subst x)) | (have hT : (type_of% x) = (Nat) := (by with_reducible rfl); clear hT; clear_value x) | (clear_value x) | fail)
    | with_reducible apply State.flitOut_sound
    | (with_reducible refine Sound.upd ?_ ?_; (on_goal 2 => with_reducible rfl); with_reducible assumption)
    | split

theorem State.flitIn_sound {s0 s : State} (h : Sound s0 s) {a1 a2} : Sound s0 (State.flitIn s a1 a2) := by
  have e := @rfl _ @State.flitIn
  conv at e => rhs; delta State.flitIn
  rw [e]; clear e; beta_reduce
  repeat' first
    | with_reducible assumption
    | (fail_if_no_progress (extract_lets -underBinder +onlyGivenNames x); first | (clear_value x) | fail)
    | (with_reducible apply sound_ite <;> intro)
    | with_reducible apply State.setHalPort_sound

theorem State.halCross_sound {s0 s : State} (h : Sound s0 s) {a1 a2 a3} : Sound s0 (State.halCross s a1 a2 a3) := by
  have e := @rfl _ @State.halCross
  conv at e => rhs; delta State.halCross
  rw [e]; clear e; beta_reduce
  repeat' first
    | with_reducible assumption
    | with_reducible apply State.halArbit_sound
    | with_reducible apply State.flitIn_sound

theorem State.cellarTransfer_sound {s0 s : State} (h : Sound s0 s) {a1 a2 a3 a4 a5} : Sound s0 (State.cellarTransfer s a1 a2 a3 a4 a5) := by
  have e := @rfl _ @State.cellarTransfer
  conv at e => rhs; delta State.cellarTransfer
  rw [e]; clear e; beta_reduce
  repeat' first
    | with_reducible assumption
    | (fail_if_no_progress (extract_lets -underBinder +onlyGivenNames x); first | (have hT : (type_of% x) = (State) := (by with_reducible rfl); clear hT; refine (fun (hx : Sound s0 x) => ?_) ?_; (on_goal 1 => clear_value x); (on_goal 2 => subst x)) | (clear_value x) | fail)
    | (with_reducible apply sound_ite <;> intro)
    | with_reducible apply State.setTags_sound
    | with_reducible apply State.setSlots_sound
    | with_reducible apply State.halCross_sound
    | split

end Sys2Proof.Machine
end

