-- ==== Sys2Proof/Laws/MemSound.lean ====
section
/-! SUPPORT. The operations of Machine/Mem.lean are sound: see Laws/Sound.lean. -/

set_option linter.all false

namespace Sys2Proof.Machine

theorem State.uncorrectable_sound {s0 s : State} (h : Sound s0 s) {a1 a2} : Sound s0 (State.uncorrectable s a1 a2) := by
  have e := @rfl _ @State.uncorrectable
  conv at e => rhs; delta State.uncorrectable
  rw [e]; clear e; beta_reduce
  repeat' first
    | with_reducible assumption
    | (fail_if_no_progress (extract_lets -underBinder +onlyGivenNames x); first | (have hT : (type_of% x) = (State) := (by with_reducible rfl); clear hT; refine (fun (hx : Sound s0 x) => ?_) ?_; (on_goal 1 => clear_value x); (on_goal 2 => subst x)) | (clear_value x) | fail)
    | with_reducible apply State.setReg_sound
    | with_reducible apply State.pulse_sound
    | with_reducible apply State.incReg_sound
    | (with_reducible refine Sound.upd ?_ ?_; (on_goal 2 => with_reducible rfl); with_reducible assumption)
    | split

theorem State.setBytes_sound {s0 s : State} (h : Sound s0 s) {a1 a2} : Sound s0 (State.setBytes s a1 a2) := by
  induction a2 generalizing s a1 with
  | nil => exact h
  | cons b bs ih => exact ih (State.setByte_sound h)

theorem State.celWake_sound {s0 s : State} (h : Sound s0 s) {a1 a2 a3} : Sound s0 (State.celWake s a1 a2 a3) := by
  have e := @rfl _ @State.celWake
  conv at e => rhs; delta State.celWake
  rw [e]; clear e; beta_reduce
  repeat' first
    | with_reducible assumption
    | intro _ _ _
    | (with_reducible apply sound_ite <;> intro)
    | with_reducible apply State.setB_sound
    | with_reducible refine State.each_sound ?_ _ ?_
    | split

theorem State.celFlipDone_sound {s0 s : State} (h : Sound s0 s) : Sound s0 (State.celFlipDone s) := by
  have e := @rfl _ @State.celFlipDone
  conv at e => rhs; delta State.celFlipDone
  rw [e]; clear e; beta_reduce
  repeat' first
    | with_reducible assumption
    | with_reducible apply State.setReg_sound

theorem State.storeLine_sound {s0 s : State} (h : Sound s0 s) {a1 a2 a3 a4 a5} : Sound s0 (State.storeLine s a1 a2 a3 a4 a5) := by
  have e := @rfl _ @State.storeLine
  conv at e => rhs; delta State.storeLine
  rw [e]; clear e; beta_reduce
  repeat' first
    | with_reducible assumption
    | intro _ _ _
    | (fail_if_no_progress (extract_lets -underBinder +onlyGivenNames x); first | (have hT : (type_of% x) = (State) := (by with_reducible rfl); clear hT; refine (fun (hx : Sound s0 x) => ?_) ?_; (on_goal 1 => clear_value x); (on_goal 2 => subst x)) | (have hT : (type_of% x) = (Nat) := (by with_reducible rfl); clear hT; clear_value x) | (have hT : (type_of% x) = (BitVec 32) := (by with_reducible rfl); clear hT; clear_value x) | (have hT : (type_of% x) = (List Nat) := (by with_reducible rfl); clear hT; clear_value x) | (clear_value x) | fail)
    | (with_reducible apply sound_ite <;> intro)
    | with_reducible apply State.setBytes_sound
    | with_reducible apply State.celWake_sound
    | with_reducible apply State.setCode_sound
    | with_reducible apply State.celFlipDone_sound
    | with_reducible apply State.setReg_sound
    | with_reducible apply State.setByte_sound
    | with_reducible refine State.each_sound ?_ _ ?_
    | split

theorem State.countCe_sound {s0 s : State} (h : Sound s0 s) {a1} : Sound s0 (State.countCe s a1) := by
  have e := @rfl _ @State.countCe
  conv at e => rhs; delta State.countCe
  rw [e]; clear e; beta_reduce
  repeat' first
    | (fail_if_no_progress (extract_lets -underBinder +onlyGivenNames x); first | (clear_value x) | fail)
    | (with_reducible refine Sound.upd ?_ ?_; (on_goal 2 => with_reducible rfl); with_reducible assumption)

theorem State.corrLog_sound {s0 s : State} (h : Sound s0 s) {a1 a2 a3 a4 a5 a6 a7 a8 a9} : Sound s0 (State.corrLog s a1 a2 a3 a4 a5 a6 a7 a8 a9) := by
  have e := @rfl _ @State.corrLog
  conv at e => rhs; delta State.corrLog
  rw [e]; clear e; beta_reduce
  repeat' first
    | with_reducible assumption
    | intro _ _ _
    | intro _ _
    | (fail_if_no_progress (extract_lets -underBinder +onlyGivenNames x); first | (have hT : (type_of% x) = (State) := (by with_reducible rfl); clear hT; refine (fun (hx : Sound s0 x) => ?_) ?_; (on_goal 1 => clear_value x); (on_goal 2 => subst x)) | (have hT : (type_of% x) = (Nat) := (by with_reducible rfl); clear hT; clear_value x) | (have hT : (type_of% x) = (State → State) := (by with_reducible rfl); clear hT; refine (fun (hx : ∀ t, Sound s0 t → Sound s0 (x t)) => ?_) ?_; (on_goal 1 => clear_value x); (on_goal 2 => subst x)) | (have hT : ∃ α : Type, (type_of% x) = (State → α → State) := ⟨_, rfl⟩; clear hT; refine (fun (hx : ∀ t a, Sound s0 t → Sound s0 (x t a)) => ?_) ?_; (on_goal 1 => clear_value x); (on_goal 2 => subst x)) | (clear_value x) | fail)
    | (with_reducible apply sound_ite <;> intro)
    | with_reducible apply State.pulse_sound
    | with_reducible apply State.errRec_sound
    | with_reducible apply State.setReg_sound
    | with_reducible apply State.setF_sound
    | with_reducible apply State.setW64_sound
    | with_reducible apply_assumption -exfalso -symm
    | split

theorem State.corrected_sound {s0 s : State} (h : Sound s0 s) {a1 a2 a3} : Sound s0 (State.corrected s a1 a2 a3) := by
  have e := @rfl _ @State.corrected
  conv at e => rhs; delta State.corrected
  rw [e]; clear e; beta_reduce
  repeat' first
    | with_reducible assumption
    | (fail_if_no_progress (extract_lets -underBinder +onlyGivenNames x); first | (have hT : (type_of% x) = (State) := (by with_reducible rfl); clear hT; refine (fun (hx : Sound s0 x) => ?_) ?_; (on_goal 1 => clear_value x); (on_goal 2 => subst x)) | (have hT : (type_of% x) = (Nat) := (by with_reducible rfl); clear hT; clear_value x) | fail)
    | with_reducible apply State.countCe_sound
    | with_reducible apply State.corrLog_sound
    | split

theorem State.rmwFix_sound {s0 s : State} (h : Sound s0 s) {a1 a2 a3} : Sound s0 (State.rmwFix s a1 a2 a3) := by
  have e := @rfl _ @State.rmwFix
  conv at e => rhs; delta State.rmwFix
  rw [e]; clear e; beta_reduce
  repeat' first
    | with_reducible assumption
    | intro _ _ _
    | with_reducible apply State.setCode_sound
    | with_reducible apply State.corrected_sound
    | with_reducible refine State.each_sound ?_ _ ?_
    | split

theorem State.writeCopy_sound {s0 s : State} (h : Sound s0 s) {a1 a2 a3 a4 a5} : Snd s0 (State.writeCopy s a1 a2 a3 a4 a5) := by
  have e := @rfl _ @State.writeCopy
  conv at e => rhs; delta State.writeCopy
  rw [e]; clear e; beta_reduce
  repeat' first
    | with_reducible assumption
    | with_reducible apply State.uncorrectable_sound
    | with_reducible apply State.storeLine_sound
    | with_reducible apply State.rmwFix_sound
    | split
    | with_reducible apply snd_pair

theorem State.markAltered_sound {s0 s : State} (h : Sound s0 s) {a1} : Sound s0 (State.markAltered s a1) := by
  have e := @rfl _ @State.markAltered
  conv at e => rhs; delta State.markAltered
  rw [e]; clear e; beta_reduce
  repeat' first
    | with_reducible assumption
    | with_reducible apply State.setB_sound
    | split

theorem State.writeTwo_sound {s0 s : State} (h : Sound s0 s) {a1 a2 a3} : Snd s0 (State.writeTwo s a1 a2 a3) := by
  have e := @rfl _ @State.writeTwo
  conv at e => rhs; delta State.writeTwo
  rw [e]; clear e; beta_reduce
  repeat' first
    | with_reducible assumption
    | (fail_if_no_progress (extract_lets -underBinder +onlyGivenNames x); first | (have hT : (type_of% x) = (Option Nat) := (by with_reducible rfl); clear hT; clear_value x) | (have hT : ∃ α : Type, (type_of% x) = (α × State) := ⟨_, rfl⟩; clear hT; refine (fun (hx : Snd s0 x) => ?_) ?_; (on_goal 1 => clear_value x); (on_goal 2 => subst x)) | fail)
    | with_reducible apply State.writeCopy_sound
    | with_reducible apply State.celFlipDone_sound
    | (with_reducible apply Snd.out; with_reducible assumption)
    | split
    | with_reducible apply snd_pair

theorem State.writeLine_sound {s0 s : State} (h : Sound s0 s) {a1 a2 a3} : Snd s0 (State.writeLine s a1 a2 a3) := by
  have e := @rfl _ @State.writeLine
  conv at e => rhs; delta State.writeLine
  rw [e]; clear e; beta_reduce
  repeat' first
    | with_reducible assumption
    | (fail_if_no_progress (extract_lets -underBinder +onlyGivenNames x); first | (have hT : ∃ α : Type, (type_of% x) = (α × State) := ⟨_, rfl⟩; clear hT; refine (fun (hx : Snd s0 x) => ?_) ?_; (on_goal 1 => clear_value x); (on_goal 2 => subst x)) | fail)
    | with_reducible apply State.writeTwo_sound
    | (with_reducible apply Snd.out; with_reducible assumption)
    | with_reducible apply snd_pair

theorem State.writePieces_sound {s0 s : State} (h : Sound s0 s) {a0 a1 a2 a4} : Snd s0 (State.writePieces a0 a1 a2 s a4) := by
  induction a4 generalizing s with
  | nil => exact snd_pair h
  | cons q t ih =>
    unfold State.writePieces
    extract_lets r
    have hr : Snd s0 r := State.writeLine_sound h
    clear_value r
    split
    · exact snd_pair hr.out
    · exact ih hr.out

theorem State.celUse_sound {s0 s : State} (h : Sound s0 s) {a1 a2 a3 a4 a5 a6} : Sound s0 (State.celUse s a1 a2 a3 a4 a5 a6) := by
  have e := @rfl _ @State.celUse
  conv at e => rhs; delta State.celUse
  rw [e]; clear e; beta_reduce
  repeat' first
    | with_reducible assumption
    | intro _ _ _
    | with_reducible apply State.celWake_sound
    | with_reducible apply State.cellarTransfer_sound
    | with_reducible refine State.each_sound ?_ _ ?_
    | split

theorem State.celSend_sound {s0 s : State} (h : Sound s0 s) {a1 a2 a3 a4 a5} : Sound s0 (State.celSend s a1 a2 a3 a4 a5) := by
  have e := @rfl _ @State.celSend
  conv at e => rhs; delta State.celSend
  rw [e]; clear e; beta_reduce
  repeat' first
    | with_reducible assumption
    | (fail_if_no_progress (extract_lets -underBinder +onlyGivenNames x); first | (have hT : (type_of% x) = (State) := (by with_reducible rfl); clear hT; refine (fun (hx : Sound s0 x) => ?_) ?_; (on_goal 1 => clear_value x); (on_goal 2 => subst x)) | fail)
    | with_reducible apply State.celUse_sound
    | split

theorem State.ueRecord_sound {s0 s : State} (h : Sound s0 s) {a1 a2 a3} : Sound s0 (State.ueRecord s a1 a2 a3) := by
  have e := @rfl _ @State.ueRecord
  conv at e => rhs; delta State.ueRecord
  rw [e]; clear e; beta_reduce
  repeat' first
    | with_reducible assumption
    | with_reducible apply State.errRec_sound

theorem State.devWrite_sound {s0 s : State} (h : Sound s0 s) {a1 a2 a3 a4} : Snd s0 (State.devWrite s a1 a2 a3 a4) := by
  have e := @rfl _ @State.devWrite
  conv at e => rhs; delta State.devWrite
  rw [e]; clear e; beta_reduce
  repeat' first
    | with_reducible assumption
    | (fail_if_no_progress (extract_lets -underBinder +onlyGivenNames x); first | (have hT : ∃ α : Type, (type_of% x) = (α × State) := ⟨_, rfl⟩; clear hT; refine (fun (hx : Snd s0 x) => ?_) ?_; (on_goal 1 => clear_value x); (on_goal 2 => subst x)) | (clear_value x) | fail)
    | (with_reducible apply snd_ite <;> intro)
    | with_reducible apply State.refusedAccess_sound
    | with_reducible apply State.writePieces_sound
    | with_reducible apply State.celSend_sound
    | with_reducible apply State.ueRecord_sound
    | with_reducible apply State.markAltered_sound
    | (with_reducible apply Snd.out; with_reducible assumption)
    | split
    | with_reducible apply snd_pair

theorem State.celFill_sound {s0 s : State} (h : Sound s0 s) {a1} : Sound s0 (State.celFill s a1) := by
  have e := @rfl _ @State.celFill
  conv at e => rhs; delta State.celFill
  rw [e]; clear e; beta_reduce
  repeat' first
    | with_reducible assumption
    | intro _ _ _
    | with_reducible apply State.cellarTransfer_sound
    | with_reducible apply State.setB_sound
    | with_reducible refine State.each_sound ?_ _ ?_

theorem State.devRead_sound {s0 s : State} (h : Sound s0 s) {a1 a2 a3 a4} : Snd s0 (State.devRead s a1 a2 a3 a4) := by
  have e := @rfl _ @State.devRead
  conv at e => rhs; delta State.devRead
  rw [e]; clear e; beta_reduce
  repeat' first
    | with_reducible assumption
    | intro _ _ _
    | (fail_if_no_progress (extract_lets -underBinder +onlyGivenNames x); first | (have hT : (type_of% x) = (State) := (by with_reducible rfl); clear hT; refine (fun (hx : Sound s0 x) => ?_) ?_; (on_goal 1 => clear_value x); (on_goal 2 => subst x)) | (have hT : (type_of% x) = (Bool) := (by with_reducible rfl); clear hT; clear_value x) | (have hT : (type_of% x) = (List Nat) := (by with_reducible rfl); clear hT; clear_value x) | (clear_value x) | fail)
    | (with_reducible apply snd_ite <;> intro)
    | with_reducible apply State.refusedAccess_sound
    | with_reducible apply State.celUse_sound
    | with_reducible apply State.ueRecord_sound
    | with_reducible apply State.uncorrectable_sound
    | with_reducible apply State.corrected_sound
    | with_reducible refine State.each_sound ?_ _ ?_
    | split
    | with_reducible apply snd_pair

theorem State.zeroRange_sound {s0 s : State} (h : Sound s0 s) {a1 a2} : Sound s0 (State.zeroRange s a1 a2) :=
  ⟨h.pending, h.fuses, fun c => by
    obtain ⟨r1, r2, r3, r4, r5, r6⟩ := (canonical_iff s).1 (h.canon c)
    exact (canonical_iff _).2 ⟨r1, r2, r3, Tbl.wf_filter _ _ _ r4, Tbl.wf_filter _ _ _ r5, r6⟩⟩

theorem State.fwWrite_sound {s0 s : State} (h : Sound s0 s) {a1 a2 a3} : Snd s0 (State.fwWrite s a1 a2 a3) := by
  have e := @rfl _ @State.fwWrite
  conv at e => rhs; delta State.fwWrite
  rw [e]; clear e; beta_reduce
  repeat' first
    | with_reducible assumption
    | (fail_if_no_progress (extract_lets -underBinder +onlyGivenNames x); first | (clear_value x) | fail)
    | with_reducible apply State.writePieces_sound
    | with_reducible apply State.celSend_sound

end Sys2Proof.Machine
end

