-- ==== Sys2Proof/Laws/FoyerSound.lean ====
section
/-! SUPPORT. The operations of Machine/Foyer.lean are sound: see Laws/Sound.lean. -/

set_option linter.all false

namespace Sys2Proof.Machine

theorem State.updOpen_sound {s0 s : State} (h : Sound s0 s) {a1 a2} : Sound s0 (State.updOpen s a1 a2) := by
  have e := @rfl _ @State.updOpen
  conv at e => rhs; delta State.updOpen
  rw [e]; clear e; beta_reduce
  repeat' first
    | (fail_if_no_progress (extract_lets -underBinder +onlyGivenNames x); first | (clear_value x) | fail)
    | (with_reducible refine Sound.upd ?_ ?_; (on_goal 2 => with_reducible rfl); with_reducible assumption)

theorem State.jFailed_sound {s0 s : State} (h : Sound s0 s) {a1 a2 a3} : Sound s0 (State.jFailed s a1 a2 a3) := by
  have e := @rfl _ @State.jFailed
  conv at e => rhs; delta State.jFailed
  rw [e]; clear e; beta_reduce
  repeat' first
    | with_reducible assumption
    | (with_reducible apply sound_ite <;> intro)
    | with_reducible apply State.errRec_sound
    | with_reducible apply State.setB_sound

theorem State.jWrite_sound {s0 s : State} (h : Sound s0 s) {a1 a2 a3} : Sound s0 (State.jWrite s a1 a2 a3) := by
  have e := @rfl _ @State.jWrite
  conv at e => rhs; delta State.jWrite
  rw [e]; clear e; beta_reduce
  repeat' first
    | with_reducible assumption
    | intro _ _ _
    | (fail_if_no_progress (extract_lets -underBinder +onlyGivenNames x); first | (have hT : (type_of% x) = (Nat) := (by with_reducible rfl); clear hT; clear_value x) | (have hT : ∃ α : Type, (type_of% x) = (α × State) := ⟨_, rfl⟩; clear hT; refine (fun (hx : Snd s0 x) => ?_) ?_; (on_goal 1 => clear_value x); (on_goal 2 => subst x)) | (clear_value x) | fail)
    | (with_reducible apply sound_ite <;> intro)
    | with_reducible apply State.writeTwo_sound
    | with_reducible apply State.celSend_sound
    | with_reducible apply State.jFailed_sound
    | with_reducible apply State.ueRecord_sound
    | with_reducible refine foldl_snd _ ?_ ?_
    | (with_reducible apply Snd.out; with_reducible assumption)
    | split
    | with_reducible apply snd_pair

theorem State.jSet_sound {s0 s : State} (h : Sound s0 s) {a1 a2} : Sound s0 (State.jSet s a1 a2) := by
  have e := @rfl _ @State.jSet
  conv at e => rhs; delta State.jSet
  rw [e]; clear e; beta_reduce
  repeat' first
    | (fail_if_no_progress (extract_lets -underBinder +onlyGivenNames x); first | (clear_value x) | fail)
    | with_reducible apply State.jWrite_sound
    | (with_reducible refine Sound.upd ?_ ?_; (on_goal 2 => with_reducible rfl); with_reducible assumption)

theorem State.jState_sound {s0 s : State} (h : Sound s0 s) {a1 a2} : Sound s0 (State.jState s a1 a2) := by
  have e := @rfl _ @State.jState
  conv at e => rhs; delta State.jState
  rw [e]; clear e; beta_reduce
  repeat' first
    | with_reducible assumption
    | with_reducible apply State.jSet_sound
    | split

theorem State.cqStore_sound {s0 s : State} (h : Sound s0 s) {a1 a2} : Sound s0 (State.cqStore s a1 a2) := by
  have e := @rfl _ @State.cqStore
  conv at e => rhs; delta State.cqStore
  rw [e]; clear e; beta_reduce
  repeat' first
    | with_reducible assumption
    | (fail_if_no_progress (extract_lets -underBinder +onlyGivenNames x); first | (have hT : (type_of% x) = (Nat) := (by with_reducible rfl); clear hT; clear_value x) | fail)
    | with_reducible apply State.hostWrite_sound

theorem State.writeEntry_sound {s0 s : State} (h : Sound s0 s) {a1} : Sound s0 (State.writeEntry s a1) := by
  have e := @rfl _ @State.writeEntry
  conv at e => rhs; delta State.writeEntry
  rw [e]; clear e; beta_reduce
  repeat' first
    | with_reducible assumption
    | (fail_if_no_progress (extract_lets -underBinder +onlyGivenNames x); first | (have hT : (type_of% x) = (State) := (by with_reducible rfl); clear hT; refine (fun (hx : Sound s0 x) => ?_) ?_; (on_goal 1 => clear_value x); (on_goal 2 => subst x)) | (have hT : (type_of% x) = (Nat) := (by with_reducible rfl); clear hT; clear_value x) | fail)
    | (with_reducible apply sound_ite <;> intro)
    | with_reducible apply State.incReg_sound
    | with_reducible apply State.cqStore_sound
    | with_reducible apply State.pulse_sound

theorem State.setOpens_sound {s0 s : State} (h : Sound s0 s) {a1} : Sound s0 (State.setOpens s a1) := by
  have e := @rfl _ @State.setOpens
  conv at e => rhs; delta State.setOpens
  rw [e]; clear e; beta_reduce
  repeat' first
    | (fail_if_no_progress (extract_lets -underBinder +onlyGivenNames x); first | (clear_value x) | fail)
    | with_reducible apply State.setReg_sound
    | (with_reducible refine Sound.upd ?_ ?_; (on_goal 2 => with_reducible rfl); with_reducible assumption)

theorem State.putEntry_sound {s0 s : State} (h : Sound s0 s) {a1} : Sound s0 (State.putEntry s a1) := by
  have e := @rfl _ @State.putEntry
  conv at e => rhs; delta State.putEntry
  rw [e]; clear e; beta_reduce
  repeat' first
    | with_reducible assumption
    | (fail_if_no_progress (extract_lets -underBinder +onlyGivenNames x); first | (clear_value x) | fail)
    | (with_reducible apply sound_ite <;> intro)
    | with_reducible apply State.setB_sound
    | with_reducible apply State.writeEntry_sound
    | (with_reducible refine Sound.upd ?_ ?_; (on_goal 2 => with_reducible rfl); with_reducible assumption)

theorem State.complete_sound {s0 s : State} (h : Sound s0 s) {a1 a2} : Sound s0 (State.complete s a1 a2) := by
  have e := @rfl _ @State.complete
  conv at e => rhs; delta State.complete
  rw [e]; clear e; beta_reduce
  repeat' first
    | with_reducible assumption
    | intro _ _ _
    | (fail_if_no_progress (extract_lets -underBinder +onlyGivenNames x); first | (have hT : (type_of% x) = (State) := (by with_reducible rfl); clear hT; refine (fun (hx : Sound s0 x) => ?_) ?_; (on_goal 1 => clear_value x); (on_goal 2 => subst x)) | (have hT : (type_of% x) = (Nat) := (by with_reducible rfl); clear hT; clear_value x) | (have hT : (type_of% x) = (BitVec 32) := (by with_reducible rfl); clear hT; clear_value x) | fail)
    | with_reducible apply State.jSet_sound
    | with_reducible apply State.setOpens_sound
    | with_reducible apply State.setW64_sound
    | with_reducible apply State.putEntry_sound
    | with_reducible refine State.each_sound ?_ _ ?_
    | split

theorem State.releaseHeld_sound {s0 s : State} (h : Sound s0 s) {a1} : Sound s0 (State.releaseHeld s a1) := by
  have e := @rfl _ @State.releaseHeld
  conv at e => rhs; delta State.releaseHeld
  rw [e]; clear e; beta_reduce
  repeat' first
    | with_reducible assumption
    | intro _ _ _
    | (fail_if_no_progress (extract_lets -underBinder +onlyGivenNames x); first | (have hT : (type_of% x) = (State) := (by with_reducible rfl); clear hT; refine (fun (hx : Sound s0 x) => ?_) ?_; (on_goal 1 => clear_value x); (on_goal 2 => subst x)) | (have hT : (type_of% x) = (Nat) := (by with_reducible rfl); clear hT; clear_value x) | (clear_value x) | fail)
    | with_reducible apply State.setB_sound
    | with_reducible apply State.writeEntry_sound
    | with_reducible refine State.each_sound ?_ _ ?_
    | (with_reducible refine Sound.upd ?_ ?_; (on_goal 2 => with_reducible rfl); with_reducible assumption)

theorem State.finishAcc_sound {s0 s : State} (h : Sound s0 s) {a1 a2} : Sound s0 (State.finishAcc s a1 a2) := by
  have e := @rfl _ @State.finishAcc
  conv at e => rhs; delta State.finishAcc
  rw [e]; clear e; beta_reduce
  repeat' first
    | with_reducible assumption
    | with_reducible apply State.updOpen_sound

theorem State.finish_sound {s0 s : State} (h : Sound s0 s) {a1 a2} : Sound s0 (State.finish s a1 a2) := by
  have e := @rfl _ @State.finish
  conv at e => rhs; delta State.finish
  rw [e]; clear e; beta_reduce
  repeat' first
    | (fail_if_no_progress (extract_lets -underBinder +onlyGivenNames x); first | (clear_value x) | fail)
    | (with_reducible refine Sound.upd ?_ ?_; (on_goal 2 => with_reducible rfl); with_reducible assumption)

end Sys2Proof.Machine
end

