-- ==== Sys2Proof/Laws/AtticCoreSound.lean ====
section
/-! SUPPORT. The operations of Machine/AtticCore.lean are sound: see Laws/Sound.lean. -/

set_option linter.all false

namespace Sys2Proof.Machine

theorem State.measure_sound {s0 s : State} (h : Sound s0 s) {a1 a2 a3 a4 a5 a6} : Sound s0 (State.measure s a1 a2 a3 a4 a5 a6) := by
  have e := @rfl _ @State.measure
  conv at e => rhs; delta State.measure
  rw [e]; clear e; beta_reduce
  repeat' first
    | (fail_if_no_progress (extract_lets -underBinder +onlyGivenNames x); first | (have hT : (type_of% x) = (Attic) := (by with_reducible rfl); clear hT) | (clear_value x) | fail)
    | with_reducible apply State.incReg_sound
    | (with_reducible refine Sound.upd ?_ ?_; (on_goal 2 => with_reducible rfl); with_reducible assumption)

end Sys2Proof.Machine
end

