-- ==== Sys2Proof/Laws/HeadCoreKeep.lean ====
section
/-! SUPPORT. The operations of Machine/HeadCore.lean keep the open commands: see Laws/Keep.lean. -/

set_option linter.all false

namespace Sys2Proof.Machine

theorem State.setHd_keep {s0 s : State} (h : Keep s0 s) {a1 a2 a3} : Keep s0 (State.setHd s a1 a2 a3) := by
  have e := @rfl _ @State.setHd
  conv at e => rhs; delta State.setHd
  rw [e]; clear e; beta_reduce
  repeat' first
    | with_reducible assumption
    | with_reducible apply State.setReg_keep

theorem State.stage_keep {s0 s : State} (h : Keep s0 s) {a1 a2 a3} : Keep s0 (State.stage s a1 a2 a3) := by
  have e := @rfl _ @State.stage
  conv at e => rhs; delta State.stage
  rw [e]; clear e; beta_reduce
  repeat' first
    | with_reducible assumption
    | with_reducible apply State.setB_keep
    | with_reducible apply State.setHd_keep

theorem State.setHead_keep {s0 s : State} (h : Keep s0 s) {a1 a2} : Keep s0 (State.setHead s a1 a2) := by
  have e := @rfl _ @State.setHead
  conv at e => rhs; delta State.setHead
  rw [e]; clear e; beta_reduce
  repeat' (with_reducible refine Keep.upd ?_ ?_; (on_goal 2 => exact ⟨by with_reducible rfl, by with_reducible rfl, by with_reducible rfl⟩); with_reducible assumption)

theorem State.updHead_keep {s0 s : State} (h : Keep s0 s) {a1 a2} : Keep s0 (State.updHead s a1 a2) := by
  have e := @rfl _ @State.updHead
  conv at e => rhs; delta State.updHead
  rw [e]; clear e; beta_reduce
  repeat' first
    | with_reducible assumption
    | with_reducible apply State.setHead_keep

theorem State.requestCommit_keep {s0 s : State} (h : Keep s0 s) {a1} : Keep s0 (State.requestCommit s a1) := by
  have e := @rfl _ @State.requestCommit
  conv at e => rhs; delta State.requestCommit
  rw [e]; clear e; beta_reduce
  repeat' first
    | with_reducible assumption
    | (fail_if_no_progress (extract_lets -underBinder +onlyGivenNames x); first | (have hT : (type_of% x) = (State) := (by with_reducible rfl); clear hT; refine (fun (hx : Keep s0 x) => ?_) ?_; (on_goal 1 => clear_value x); (on_goal 2 => subst x)) | (have hT : (type_of% x) = (Bool) := (by with_reducible rfl); clear hT; clear_value x) | fail)
    | (with_reducible apply keep_ite <;> intro)
    | with_reducible apply State.setB_keep
    | with_reducible apply State.updHead_keep
    | with_reducible apply State.incReg_keep
    | with_reducible apply State.setReg_keep

theorem commitAfter_keep {s0 s : State} (h : Keep s0 s) {a0 a1 a2} : KeepP s0 (commitAfter a0 a1 a2 s) := by
  have e := @rfl _ @commitAfter
  conv at e => rhs; delta commitAfter
  rw [e]; clear e; beta_reduce
  repeat' first
    | with_reducible assumption
    | intro _ _ _
    | (fail_if_no_progress (extract_lets -underBinder +onlyGivenNames x); first | (have hT : (type_of% x) = (State) := (by with_reducible rfl); clear hT; refine (fun (hx : Keep s0 x) => ?_) ?_; (on_goal 1 => clear_value x); (on_goal 2 => subst x)) | fail)
    | (with_reducible apply keepP_ite <;> intro)
    | with_reducible apply State.jState_keep
    | with_reducible apply State.requestCommit_keep
    | with_reducible refine State.each_keep ?_ _ ?_
    | with_reducible apply keepP_pair

end Sys2Proof.Machine
end

