-- ==== Sys2Proof/Laws/BeamKeep.lean ====
section
/-! SUPPORT. The operations of Machine/Beam.lean keep the open commands: see Laws/Keep.lean. -/

set_option linter.all false

namespace Sys2Proof.Machine

theorem State.updBs_keep {s0 s : State} (h : Keep s0 s) {a1 a2} : Keep s0 (State.updBs s a1 a2) := by
  have e := @rfl _ @State.updBs
  conv at e => rhs; delta State.updBs
  rw [e]; clear e; beta_reduce
  repeat' first
    | with_reducible assumption
    | with_reducible apply State.updHead_keep

theorem State.bstsRead_keep {s0 s : State} (h : Keep s0 s) {a1} : KeepP s0 (State.bstsRead s a1) := by
  have e := @rfl _ @State.bstsRead
  conv at e => rhs; delta State.bstsRead
  rw [e]; clear e; beta_reduce
  repeat' first
    | with_reducible assumption
    | (fail_if_no_progress (extract_lets -underBinder +onlyGivenNames x); first | (have hT : (type_of% x) = (State) := (by with_reducible rfl); clear hT; refine (fun (hx : Keep s0 x) => ?_) ?_; (on_goal 1 => clear_value x); (on_goal 2 => subst x)) | fail)
    | with_reducible apply State.setReg_keep
    | with_reducible apply State.updBs_keep
    | split
    | with_reducible apply keepP_pair

theorem State.setActive_keep {s0 s : State} (h : Keep s0 s) {a1 a2 a3} : Keep s0 (State.setActive s a1 a2 a3) := by
  have e := @rfl _ @State.setActive
  conv at e => rhs; delta State.setActive
  rw [e]; clear e; beta_reduce
  repeat' first
    | with_reducible assumption
    | (fail_if_no_progress (extract_lets -underBinder +onlyGivenNames x); first | (have hT : (type_of% x) = (BitVec 32) := (by with_reducible rfl); clear hT; clear_value x) | fail)
    | (with_reducible apply keep_ite <;> intro)
    | with_reducible apply State.updHead_keep
    | with_reducible apply State.setReg_keep

theorem beginBeamListSet_keep {s0 s : State} (h : Keep s0 s) {a0} : KeepP s0 (beginBeamListSet a0 s) := by
  have e := @rfl _ @beginBeamListSet
  conv at e => rhs; delta beginBeamListSet
  rw [e]; clear e; beta_reduce
  repeat' first
    | with_reducible assumption
    | (fail_if_no_progress (extract_lets -underBinder +onlyGivenNames x); first | (have hT : (type_of% x) = (State) := (by with_reducible rfl); clear hT; refine (fun (hx : Keep s0 x) => ?_) ?_; (on_goal 1 => clear_value x); (on_goal 2 => subst x)) | (have hT : (type_of% x) = (Nat) := (by with_reducible rfl); clear hT; clear_value x) | (have hT : (type_of% x) = (Packet) := (by with_reducible rfl); clear hT; clear_value x) | (have hT : ∃ α : Type, (type_of% x) = (α × State) := ⟨_, rfl⟩; clear hT; refine (fun (hx : KeepP s0 x) => ?_) ?_; (on_goal 1 => clear_value x); (on_goal 2 => subst x)) | (clear_value x) | fail)
    | (with_reducible apply keepP_ite <;> intro)
    | with_reducible apply State.devRead_keep
    | with_reducible apply State.setReg_keep
    | with_reducible apply State.stage_keep
    | with_reducible apply commitAfter_keep
    | (with_reducible apply KeepP.out; with_reducible assumption)
    | split
    | with_reducible apply keepP_pair

theorem State.hostActive_keep {s0 s : State} (h : Keep s0 s) {a1 a2 a3} : Keep s0 (State.hostActive s a1 a2 a3) := by
  have e := @rfl _ @State.hostActive
  conv at e => rhs; delta State.hostActive
  rw [e]; clear e; beta_reduce
  repeat' first
    | with_reducible assumption
    | with_reducible apply State.updBs_keep
    | with_reducible apply State.setActive_keep

end Sys2Proof.Machine
end

