-- ==== Sys2Proof/Laws/ComposeKeep.lean ====
section
/-! SUPPORT. The operations of Machine/Compose.lean keep the open commands: see Laws/Keep.lean. -/

set_option linter.all false

namespace Sys2Proof.Machine

theorem State.lutTake_keep {s0 s : State} (h : Keep s0 s) {a1 a2 a3 a4 a5 a6 a7} : Keep s0 (State.lutTake s a1 a2 a3 a4 a5 a6 a7) := by
  have e := @rfl _ @State.lutTake
  conv at e => rhs; delta State.lutTake
  rw [e]; clear e; beta_reduce
  repeat' first
    | with_reducible assumption
    | intro _ _ _
    | (fail_if_no_progress (extract_lets -underBinder +onlyGivenNames x); first | (have hT : (type_of% x) = (BitVec 32) := (by with_reducible rfl); clear hT; clear_value x) | fail)
    | with_reducible apply State.setB_keep
    | with_reducible apply State.updHead_keep
    | with_reducible refine State.each_keep ?_ _ ?_

theorem State.lutRead_keep {s0 s : State} (h : Keep s0 s) {a1 a2 a3 a4 a5 a6 a7} : KeepP s0 (State.lutRead s a1 a2 a3 a4 a5 a6 a7) := by
  have e := @rfl _ @State.lutRead
  conv at e => rhs; delta State.lutRead
  rw [e]; clear e; beta_reduce
  repeat' first
    | with_reducible assumption
    | (fail_if_no_progress (extract_lets -underBinder +onlyGivenNames x); first | (have hT : ∃ α : Type, (type_of% x) = (α × State) := ⟨_, rfl⟩; clear hT; refine (fun (hx : KeepP s0 x) => ?_) ?_; (on_goal 1 => clear_value x); (on_goal 2 => subst x)) | fail)
    | with_reducible apply State.devRead_keep
    | with_reducible apply commitAfter_keep
    | with_reducible apply State.lutTake_keep
    | (with_reducible apply KeepP.out; with_reducible assumption)
    | split
    | with_reducible apply keepP_pair

theorem beginLutLoad_keep {s0 s : State} (h : Keep s0 s) {a0} : KeepP s0 (beginLutLoad a0 s) := by
  have e := @rfl _ @beginLutLoad
  conv at e => rhs; delta beginLutLoad
  rw [e]; clear e; beta_reduce
  repeat' first
    | with_reducible assumption
    | (fail_if_no_progress (extract_lets -underBinder +onlyGivenNames x); first | (have hT : (type_of% x) = (Nat) := (by with_reducible rfl); clear hT; clear_value x) | (have hT : (type_of% x) = (Packet) := (by with_reducible rfl); clear hT; clear_value x) | fail)
    | with_reducible apply State.lutRead_keep
    | split
    | with_reducible apply keepP_pair

theorem beginComposeSet_keep {s0 s : State} (h : Keep s0 s) {a0} : KeepP s0 (beginComposeSet a0 s) := by
  have e := @rfl _ @beginComposeSet
  conv at e => rhs; delta beginComposeSet
  rw [e]; clear e; beta_reduce
  repeat' first
    | with_reducible assumption
    | intro _ _ _
    | (fail_if_no_progress (extract_lets -underBinder +onlyGivenNames x); first | (have hT : (type_of% x) = (Nat) := (by with_reducible rfl); clear hT; clear_value x) | (have hT : (type_of% x) = (Packet) := (by with_reducible rfl); clear hT; clear_value x) | (clear_value x) | fail)
    | with_reducible apply commitAfter_keep
    | with_reducible apply State.stage_keep
    | with_reducible refine State.each_keep ?_ _ ?_
    | split
    | with_reducible apply keepP_pair

end Sys2Proof.Machine
end

