-- ==== Sys2Proof/Laws/MantelKeep.lean ====
section
/-! SUPPORT. The operations of Machine/Mantel.lean keep the open commands: see Laws/Keep.lean. -/

set_option linter.all false

namespace Sys2Proof.Machine

theorem beginMantelSet_keep {s0 s : State} (h : Keep s0 s) {a0} : KeepP s0 (beginMantelSet a0 s) := by
  have e := @rfl _ @beginMantelSet
  conv at e => rhs; delta beginMantelSet
  rw [e]; clear e; beta_reduce
  repeat' first
    | with_reducible assumption
    | (with_reducible apply keepP_ite <;> intro)
    | split
    | with_reducible apply keepP_pair

end Sys2Proof.Machine
end

