-- ==== Sys2Proof/Laws/PortsKeep.lean ====
section
/-! SUPPORT. The operations of Machine/Ports.lean keep the open commands: see Laws/Keep.lean. -/

set_option linter.all false

namespace Sys2Proof.Machine

theorem State.setPort_keep {s0 s : State} (h : Keep s0 s) {a1 a2} : Keep s0 (State.setPort s a1 a2) := by
  have e := @rfl _ @State.setPort
  conv at e => rhs; delta State.setPort
  rw [e]; clear e; beta_reduce
  repeat' (with_reducible refine Keep.upd ?_ ?_; (on_goal 2 => exact ⟨by with_reducible rfl, by with_reducible rfl, by with_reducible rfl⟩); with_reducible assumption)

theorem State.updPort_keep {s0 s : State} (h : Keep s0 s) {a1 a2} : Keep s0 (State.updPort s a1 a2) := by
  have e := @rfl _ @State.updPort
  conv at e => rhs; delta State.updPort
  rw [e]; clear e; beta_reduce
  repeat' first
    | with_reducible assumption
    | with_reducible apply State.setPort_keep

theorem State.setNeed_keep {s0 s : State} (h : Keep s0 s) {a1 a2} : Keep s0 (State.setNeed s a1 a2) := by
  have e := @rfl _ @State.setNeed
  conv at e => rhs; delta State.setNeed
  rw [e]; clear e; beta_reduce
  repeat' first
    | with_reducible assumption
    | with_reducible apply State.setF_keep

theorem State.echoOff_keep {s0 s : State} (h : Keep s0 s) {a1} : Keep s0 (State.echoOff s a1) := by
  have e := @rfl _ @State.echoOff
  conv at e => rhs; delta State.echoOff
  rw [e]; clear e; beta_reduce
  repeat' first
    | with_reducible assumption
    | (with_reducible apply keep_ite <;> intro)
    | with_reducible apply State.updPort_keep
    | with_reducible apply State.setReg_keep

theorem State.trainStart_keep {s0 s : State} (h : Keep s0 s) {a1} : Keep s0 (State.trainStart s a1) := by
  have e := @rfl _ @State.trainStart
  conv at e => rhs; delta State.trainStart
  rw [e]; clear e; beta_reduce
  repeat' first
    | with_reducible assumption
    | with_reducible apply State.updPort_keep
    | with_reducible apply State.setReg_keep
    | with_reducible apply State.echoOff_keep

theorem State.routePend_keep {s0 s : State} (h : Keep s0 s) {a1 a2 a3} : Keep s0 (State.routePend s a1 a2 a3) := by
  have e := @rfl _ @State.routePend
  conv at e => rhs; delta State.routePend
  rw [e]; clear e; beta_reduce
  repeat' first
    | with_reducible assumption
    | (fail_if_no_progress (extract_lets -underBinder +onlyGivenNames x); first | (have hT : (type_of% x) = (State) := (by with_reducible rfl); clear hT; refine (fun (hx : Keep s0 x) => ?_) ?_; (on_goal 1 => clear_value x); (on_goal 2 => subst x)) | fail)
    | (with_reducible apply keep_ite <;> intro)
    | with_reducible apply State.setB_keep
    | with_reducible apply State.updPort_keep
    | with_reducible apply State.setNeed_keep
    | with_reducible apply State.trainStart_keep

theorem State.routeOff_keep {s0 s : State} (h : Keep s0 s) {a1} : Keep s0 (State.routeOff s a1) := by
  have e := @rfl _ @State.routeOff
  conv at e => rhs; delta State.routeOff
  rw [e]; clear e; beta_reduce
  repeat' first
    | with_reducible assumption
    | with_reducible apply State.updPort_keep
    | with_reducible apply State.setB_keep
    | with_reducible apply State.setReg_keep

theorem State.portsDisable_keep {s0 s : State} (h : Keep s0 s) : Keep s0 (State.portsDisable s) := by
  have e := @rfl _ @State.portsDisable
  conv at e => rhs; delta State.portsDisable
  rw [e]; clear e; beta_reduce
  repeat' first
    | with_reducible assumption
    | intro _ _ _
    | with_reducible apply State.updPort_keep
    | with_reducible apply State.setB_keep
    | with_reducible apply State.setReg_keep
    | with_reducible apply State.echoOff_keep
    | with_reducible refine State.each_keep ?_ _ ?_

theorem beginRoutePort_keep {s0 s : State} (h : Keep s0 s) {a0} : KeepP s0 (beginRoutePort a0 s) := by
  have e := @rfl _ @beginRoutePort
  conv at e => rhs; delta beginRoutePort
  rw [e]; clear e; beta_reduce
  repeat' first
    | with_reducible assumption
    | (fail_if_no_progress (extract_lets -underBinder +onlyGivenNames x); first | (have hT : (type_of% x) = (Nat) := (by with_reducible rfl); clear hT; clear_value x) | (have hT : (type_of% x) = (BitVec 32) := (by with_reducible rfl); clear hT; clear_value x) | (have hT : (type_of% x) = (Bool) := (by with_reducible rfl); clear hT; clear_value x) | (have hT : (type_of% x) = (Packet) := (by with_reducible rfl); clear hT; clear_value x) | fail)
    | (with_reducible apply keepP_ite <;> intro)
    | with_reducible apply State.routePend_keep
    | with_reducible apply State.routeOff_keep
    | split
    | with_reducible apply keepP_pair

theorem State.portsHeadOn_keep {s0 s : State} (h : Keep s0 s) {a1} : Keep s0 (State.portsHeadOn s a1) := by
  have e := @rfl _ @State.portsHeadOn
  conv at e => rhs; delta State.portsHeadOn
  rw [e]; clear e; beta_reduce
  repeat' first
    | with_reducible assumption
    | intro _ _ _
    | (with_reducible apply keep_ite <;> intro)
    | with_reducible apply State.routePend_keep
    | with_reducible refine State.each_keep ?_ _ ?_

end Sys2Proof.Machine
end

