-- ==== Sys2Proof/Laws/IntegrityKeep.lean ====
section
/-! SUPPORT. The operations of Machine/Integrity.lean keep the open commands: see Laws/Keep.lean. -/

set_option linter.all false

namespace Sys2Proof.Machine

theorem State.batchRead_keep {s0 s : State} (h : Keep s0 s) {a1} : KeepP s0 (State.batchRead s a1) := by
  have e := @rfl _ @State.batchRead
  conv at e => rhs; delta State.batchRead
  rw [e]; clear e; beta_reduce
  repeat' first
    | with_reducible assumption
    | (fail_if_no_progress (extract_lets -underBinder +onlyGivenNames x); first | (have hT : (type_of% x) = (Nat) := (by with_reducible rfl); clear hT; clear_value x) | (have hT : ∃ α : Type, (type_of% x) = (α × State) := ⟨_, rfl⟩; clear hT; refine (fun (hx : KeepP s0 x) => ?_) ?_; (on_goal 1 => clear_value x); (on_goal 2 => subst x)) | fail)
    | with_reducible apply State.devRead_keep
    | (with_reducible apply KeepP.out; with_reducible assumption)
    | split
    | with_reducible apply keepP_pair

theorem State.updIg_keep {s0 s : State} (h : Keep s0 s) {a1 a2} : Keep s0 (State.updIg s a1 a2) := by
  have e := @rfl _ @State.updIg
  conv at e => rhs; delta State.updIg
  rw [e]; clear e; beta_reduce
  repeat' first
    | with_reducible assumption
    | with_reducible apply State.updHead_keep

theorem beginReceiptConfig_keep {s0 s : State} (h : Keep s0 s) {a0} : KeepP s0 (beginReceiptConfig a0 s) := by
  have e := @rfl _ @beginReceiptConfig
  conv at e => rhs; delta beginReceiptConfig
  rw [e]; clear e; beta_reduce
  repeat' first
    | with_reducible assumption
    | (fail_if_no_progress (extract_lets -underBinder +onlyGivenNames x); first | (have hT : (type_of% x) = (State) := (by with_reducible rfl); clear hT; refine (fun (hx : Keep s0 x) => ?_) ?_; (on_goal 1 => clear_value x); (on_goal 2 => subst x)) | (have hT : (type_of% x) = (Nat) := (by with_reducible rfl); clear hT; clear_value x) | (have hT : (type_of% x) = (Packet) := (by with_reducible rfl); clear hT; clear_value x) | fail)
    | (with_reducible apply keep_ite <;> intro)
    | with_reducible apply State.updIg_keep
    | with_reducible apply State.setW64_keep
    | with_reducible apply State.setReg_keep
    | split
    | with_reducible apply keepP_pair

theorem State.studyWrite_keep {s0 s : State} (h : Keep s0 s) {a1 a2} : Keep s0 (State.studyWrite s a1 a2) := by
  have e := @rfl _ @State.studyWrite
  conv at e => rhs; delta State.studyWrite
  rw [e]; clear e; beta_reduce
  have hw : KeepP s0 (s.fwWrite 0x0D a1 a2) := State.fwWrite_keep h
  split
  · rename_i e
    exact State.ueRecord_keep (KeepP.of_eq e hw)
  · rename_i e
    exact KeepP.of_eq e hw

theorem State.batchClose_keep {s0 s : State} (h : Keep s0 s) : Keep s0 (State.batchClose s) := by
  have e := @rfl _ @State.batchClose
  conv at e => rhs; delta State.batchClose
  rw [e]; clear e; beta_reduce
  repeat' first
    | with_reducible assumption
    | (fail_if_no_progress (extract_lets -underBinder +onlyGivenNames x); first | (have hT : (type_of% x) = (State) := (by with_reducible rfl); clear hT; refine (fun (hx : Keep s0 x) => ?_) ?_; (on_goal 1 => clear_value x); (on_goal 2 => subst x)) | (have hT : (type_of% x) = (Nat) := (by with_reducible rfl); clear hT; clear_value x) | (have hT : (type_of% x) = (BitVec 32) := (by with_reducible rfl); clear hT; clear_value x) | (have hT : (type_of% x) = (Attic) := (by with_reducible rfl); clear hT) | (clear_value x) | fail)
    | (with_reducible apply keep_ite <;> intro)
    | with_reducible apply State.studyWrite_keep
    | with_reducible apply State.setReg_keep
    | (with_reducible refine Keep.upd ?_ ?_; (on_goal 2 => exact ⟨by with_reducible rfl, by with_reducible rfl, by with_reducible rfl⟩); with_reducible assumption)

theorem batchStep_keep {s0 s : State} (h : Keep s0 s) {n a k : Nat} {r : Option (List Byte) × State} {more : List Byte → (Nat × Bool) × State}
    (hr : KeepP s0 r) (hm : ∀ b, KeepP s0 (more b)) : KeepP s0 (batchStep n a k s r more) := by
  unfold batchStep
  split
  · exact keepP_pair hr.out
  · split
    · exact keepP_pair h
    · exact hm _

theorem batchesOut_keep {s0 s : State} (h : Keep s0 s) {a0 a1 a2 a3 a4 a5} : KeepP s0 (batchesOut a0 a1 a2 a3 a4 a5 s) := by
  induction a2 generalizing s a3 a4 a5 with
  | zero => exact keepP_pair h
  | succ c ih =>
    unfold batchesOut
    have hr : KeepP s0 (s.batchRead a3) := State.batchRead_keep h
    exact batchStep_keep h hr fun b => ih (State.hostWrite_keep hr.out)

theorem beginReceiptRead_keep {s0 s : State} (h : Keep s0 s) {a0} : KeepP s0 (beginReceiptRead a0 s) := by
  have e := @rfl _ @beginReceiptRead
  conv at e => rhs; delta beginReceiptRead
  rw [e]; clear e; beta_reduce
  repeat' first
    | with_reducible assumption
    | (fail_if_no_progress (extract_lets -underBinder +onlyGivenNames x); first | (have hT : (type_of% x) = (Nat) := (by with_reducible rfl); clear hT; clear_value x) | (have hT : (type_of% x) = (BitVec 32) := (by with_reducible rfl); clear hT; clear_value x) | (have hT : (type_of% x) = (Packet) := (by with_reducible rfl); clear hT; clear_value x) | (have hT : ∃ α : Type, (type_of% x) = (α × State) := ⟨_, rfl⟩; clear hT; refine (fun (hx : KeepP s0 x) => ?_) ?_; (on_goal 1 => clear_value x); (on_goal 2 => subst x)) | fail)
    | (with_reducible apply keepP_ite <;> intro)
    | with_reducible apply batchesOut_keep
    | (with_reducible apply KeepP.out; with_reducible assumption)
    | with_reducible apply keepP_pair

theorem beginCrcRectSet_keep {s0 s : State} (h : Keep s0 s) {a0} : KeepP s0 (beginCrcRectSet a0 s) := by
  have e := @rfl _ @beginCrcRectSet
  conv at e => rhs; delta beginCrcRectSet
  rw [e]; clear e; beta_reduce
  repeat' first
    | with_reducible assumption
    | (fail_if_no_progress (extract_lets -underBinder +onlyGivenNames x); first | (have hT : (type_of% x) = (State) := (by with_reducible rfl); clear hT; refine (fun (hx : Keep s0 x) => ?_) ?_; (on_goal 1 => clear_value x); (on_goal 2 => subst x)) | (have hT : (type_of% x) = (Nat) := (by with_reducible rfl); clear hT; clear_value x) | (have hT : (type_of% x) = (Packet) := (by with_reducible rfl); clear hT; clear_value x) | fail)
    | with_reducible apply State.stage_keep
    | with_reducible apply commitAfter_keep
    | split
    | with_reducible apply keepP_pair

end Sys2Proof.Machine
end

