-- ==== Sys2Proof/Laws/NioftKeep.lean ====
section
/-! SUPPORT. The operations of Machine/Nioft.lean keep the open commands: see Laws/Keep.lean. -/

set_option linter.all false

namespace Sys2Proof.Machine

theorem State.setCore_keep {s0 s : State} (h : Keep s0 s) {a1 a2} : Keep s0 (State.setCore s a1 a2) := by
  have e := @rfl _ @State.setCore
  conv at e => rhs; delta State.setCore
  rw [e]; clear e; beta_reduce
  repeat' (with_reducible refine Keep.upd ?_ ?_; (on_goal 2 => exact ⟨by with_reducible rfl, by with_reducible rfl, by with_reducible rfl⟩); with_reducible assumption)

theorem State.updCore_keep {s0 s : State} (h : Keep s0 s) {a1 a2} : Keep s0 (State.updCore s a1 a2) := by
  have e := @rfl _ @State.updCore
  conv at e => rhs; delta State.updCore
  rw [e]; clear e; beta_reduce
  repeat' first
    | with_reducible assumption
    | with_reducible apply State.setCore_keep

theorem State.nioClear_keep {s0 s : State} (h : Keep s0 s) {a1} : Keep s0 (State.nioClear s a1) := by
  have e := @rfl _ @State.nioClear
  conv at e => rhs; delta State.nioClear
  rw [e]; clear e; beta_reduce
  repeat' first
    | with_reducible assumption
    | with_reducible apply State.setB_keep
    | with_reducible apply State.updCore_keep

theorem beginNioftLoad_keep {s0 s : State} (h : Keep s0 s) {a0} : KeepP s0 (beginNioftLoad a0 s) := by
  have e := @rfl _ @beginNioftLoad
  conv at e => rhs; delta beginNioftLoad
  rw [e]; clear e; beta_reduce
  repeat' first
    | with_reducible assumption
    | (fail_if_no_progress (extract_lets -underBinder +onlyGivenNames x); first | (have hT : (type_of% x) = (Nat) := (by with_reducible rfl); clear hT; clear_value x) | (have hT : (type_of% x) = (Packet) := (by with_reducible rfl); clear hT; clear_value x) | fail)
    | (with_reducible apply keepP_ite <;> intro)
    | with_reducible apply State.devRead_keep
    | with_reducible apply State.nioClear_keep
    | (with_reducible refine Keep.upd ?_ ?_; (on_goal 2 => exact ⟨by with_reducible rfl, by with_reducible rfl, by with_reducible rfl⟩); refine KeepP.of_eq (by assumption) ?_)
    | split
    | with_reducible apply keepP_pair

theorem State.nioStart_keep {s0 s : State} (h : Keep s0 s) {a1 a2} : Keep s0 (State.nioStart s a1 a2) := by
  have e := @rfl _ @State.nioStart
  conv at e => rhs; delta State.nioStart
  rw [e]; clear e; beta_reduce
  repeat' first
    | with_reducible assumption
    | intro _ _ _
    | (fail_if_no_progress (extract_lets -underBinder +onlyGivenNames x); first | (have hT : (type_of% x) = (State) := (by with_reducible rfl); clear hT; refine (fun (hx : Keep s0 x) => ?_) ?_; (on_goal 1 => clear_value x); (on_goal 2 => subst x)) | fail)
    | (with_reducible apply keep_ite <;> intro)
    | with_reducible apply State.updCore_keep
    | with_reducible apply State.setReg_keep
    | with_reducible apply State.setW64_keep
    | with_reducible apply State.setB_keep
    | with_reducible refine State.each_keep ?_ _ ?_

theorem beginNioftStart_keep {s0 s : State} (h : Keep s0 s) {a0} : KeepP s0 (beginNioftStart a0 s) := by
  have e := @rfl _ @beginNioftStart
  conv at e => rhs; delta beginNioftStart
  rw [e]; clear e; beta_reduce
  repeat' first
    | with_reducible assumption
    | (fail_if_no_progress (extract_lets -underBinder +onlyGivenNames x); first | (have hT : (type_of% x) = (Nat) := (by with_reducible rfl); clear hT; clear_value x) | (have hT : (type_of% x) = (Packet) := (by with_reducible rfl); clear hT; clear_value x) | fail)
    | with_reducible apply State.nioStart_keep
    | split
    | with_reducible apply keepP_pair

theorem State.nioDigest_keep {s0 s : State} (h : Keep s0 s) {a1 a2} : Keep s0 (State.nioDigest s a1 a2) := by
  have e := @rfl _ @State.nioDigest
  conv at e => rhs; delta State.nioDigest
  rw [e]; clear e; beta_reduce
  repeat' first
    | with_reducible assumption
    | intro _ _ _
    | with_reducible apply State.setReg_keep
    | with_reducible refine State.each_keep ?_ _ ?_

theorem State.nioSet_keep {s0 s : State} (h : Keep s0 s) {a1 a2 a3 a4} : Keep s0 (State.nioSet s a1 a2 a3 a4) := by
  have e := @rfl _ @State.nioSet
  conv at e => rhs; delta State.nioSet
  rw [e]; clear e; beta_reduce
  repeat' first
    | with_reducible assumption
    | with_reducible apply State.updCore_keep
    | with_reducible apply State.setReg_keep

end Sys2Proof.Machine
end

