-- ==== Sys2Proof/Laws/AtticKeep.lean ====
section
/-! SUPPORT. The operations of Machine/Attic.lean keep the open commands: see Laws/Keep.lean. -/

set_option linter.all false

namespace Sys2Proof.Machine

theorem beginAttestQuote_keep {s0 s : State} (h : Keep s0 s) {a0} : KeepP s0 (beginAttestQuote a0 s) := by
  have e := @rfl _ @beginAttestQuote
  conv at e => rhs; delta beginAttestQuote
  rw [e]; clear e; beta_reduce
  repeat' first
    | with_reducible assumption
    | (fail_if_no_progress (extract_lets -underBinder +onlyGivenNames x); first | (have hT : (type_of% x) = (Packet) := (by with_reducible rfl); clear hT; clear_value x) | (clear_value x) | fail)
    | (with_reducible apply keepP_ite <;> intro)
    | with_reducible apply State.hostWrite_keep
    | with_reducible apply keepP_pair

theorem beginBootlogRead_keep {s0 s : State} (h : Keep s0 s) {a0} : KeepP s0 (beginBootlogRead a0 s) := by
  have e := @rfl _ @beginBootlogRead
  conv at e => rhs; delta beginBootlogRead
  rw [e]; clear e; beta_reduce
  repeat' first
    | with_reducible assumption
    | (fail_if_no_progress (extract_lets -underBinder +onlyGivenNames x); first | (have hT : (type_of% x) = (Nat) := (by with_reducible rfl); clear hT; clear_value x) | (have hT : (type_of% x) = (Packet) := (by with_reducible rfl); clear hT; clear_value x) | (clear_value x) | fail)
    | with_reducible apply State.hostWrite_keep
    | split
    | with_reducible apply keepP_pair

end Sys2Proof.Machine
end

