-- ==== Sys2Proof/Laws/HeadCoreSound.lean ====
section
/-! SUPPORT. The operations of Machine/HeadCore.lean are sound: see Laws/Sound.lean. -/

set_option linter.all false

namespace Sys2Proof.Machine

theorem State.setHd_sound {s0 s : State} (h : Sound s0 s) {a1 a2 a3} : Sound s0 (State.setHd s a1 a2 a3) := by
  have e := @rfl _ @State.setHd
  conv at e => rhs; delta State.setHd
  rw [e]; clear e; beta_reduce
  repeat' first
    | with_reducible assumption
    | with_reducible apply State.setReg_sound

theorem State.stage_sound {s0 s : State} (h : Sound s0 s) {a1 a2 a3} : Sound s0 (State.stage s a1 a2 a3) := by
  have e := @rfl _ @State.stage
  conv at e => rhs; delta State.stage
  rw [e]; clear e; beta_reduce
  repeat' first
    | with_reducible assumption
    | with_reducible apply State.setB_sound
    | with_reducible apply State.setHd_sound

theorem State.noteSwap_sound {s0 s : State} (h : Sound s0 s) {a1 a2 a3} : Sound s0 (State.noteSwap s a1 a2 a3) := by
  have e := @rfl _ @State.noteSwap
  conv at e => rhs; delta State.noteSwap
  rw [e]; clear e; beta_reduce
  repeat' first
    | (fail_if_no_progress (extract_lets -underBinder +onlyGivenNames x); first | (have hT : (type_of% x) = (BitVec 32) := (by with_reducible rfl); clear hT; clear_value x) | (clear_value x) | fail)
    | (with_reducible refine Sound.upd ?_ ?_; (on_goal 2 => with_reducible rfl); with_reducible assumption)

theorem State.setHead_sound {s0 s : State} (h : Sound s0 s) {a1 a2} : Sound s0 (State.setHead s a1 a2) := by
  have e := @rfl _ @State.setHead
  conv at e => rhs; delta State.setHead
  rw [e]; clear e; beta_reduce
  repeat' (with_reducible refine Sound.upd ?_ ?_; (on_goal 2 => with_reducible rfl); with_reducible assumption)

theorem State.updHead_sound {s0 s : State} (h : Sound s0 s) {a1 a2} : Sound s0 (State.updHead s a1 a2) := by
  have e := @rfl _ @State.updHead
  conv at e => rhs; delta State.updHead
  rw [e]; clear e; beta_reduce
  repeat' first
    | with_reducible assumption
    | with_reducible apply State.setHead_sound

theorem State.mark_sound {s0 s : State} (h : Sound s0 s) {a1 a2} : Sound s0 (State.mark s a1 a2) := by
  have e := @rfl _ @State.mark
  conv at e => rhs; delta State.mark
  rw [e]; clear e; beta_reduce
  repeat' first
    | with_reducible assumption
    | with_reducible apply State.updHead_sound

theorem State.requestCommit_sound {s0 s : State} (h : Sound s0 s) {a1} : Sound s0 (State.requestCommit s a1) := by
  have e := @rfl _ @State.requestCommit
  conv at e => rhs; delta State.requestCommit
  rw [e]; clear e; beta_reduce
  repeat' first
    | with_reducible assumption
    | (fail_if_no_progress (extract_lets -underBinder +onlyGivenNames x); first | (have hT : (type_of% x) = (State) := (by with_reducible rfl); clear hT; refine (fun (hx : Sound s0 x) => ?_) ?_; (on_goal 1 => clear_value x); (on_goal 2 => subst x)) | (have hT : (type_of% x) = (Bool) := (by with_reducible rfl); clear hT; clear_value x) | fail)
    | (with_reducible apply sound_ite <;> intro)
    | with_reducible apply State.setB_sound
    | with_reducible apply State.updHead_sound
    | with_reducible apply State.incReg_sound
    | with_reducible apply State.setReg_sound

theorem commitAfter_sound {s0 s : State} (h : Sound s0 s) {a0 a1 a2} : Snd s0 (commitAfter a0 a1 a2 s) := by
  have e := @rfl _ @commitAfter
  conv at e => rhs; delta commitAfter
  rw [e]; clear e; beta_reduce
  repeat' first
    | with_reducible assumption
    | intro _ _ _
    | (fail_if_no_progress (extract_lets -underBinder +onlyGivenNames x); first | (have hT : (type_of% x) = (State) := (by with_reducible rfl); clear hT; refine (fun (hx : Sound s0 x) => ?_) ?_; (on_goal 1 => clear_value x); (on_goal 2 => subst x)) | fail)
    | (with_reducible apply snd_ite <;> intro)
    | with_reducible apply State.jState_sound
    | with_reducible apply State.requestCommit_sound
    | with_reducible refine State.each_sound ?_ _ ?_
    | with_reducible apply snd_pair

end Sys2Proof.Machine
end

