-- ==== Sys2Proof/Laws/EventsSound.lean ====
section
/-! SUPPORT. The operations of Machine/Events.lean are sound: see Laws/Sound.lean. -/

set_option linter.all false

namespace Sys2Proof.Machine

theorem State.setVoice_sound {s0 s : State} (h : Sound s0 s) {a1 a2} : Sound s0 (State.setVoice s a1 a2) := by
  have e := @rfl _ @State.setVoice
  conv at e => rhs; delta State.setVoice
  rw [e]; clear e; beta_reduce
  repeat' first
    | (fail_if_no_progress (extract_lets -underBinder +onlyGivenNames x); first | (clear_value x) | fail)
    | (with_reducible refine Sound.upd ?_ ?_; (on_goal 2 => with_reducible rfl); with_reducible assumption)

theorem State.voiceEvent_sound {s0 s : State} (h : Sound s0 s) {a1 a2 a3} : Sound s0 (State.voiceEvent s a1 a2 a3) := by
  have e := @rfl _ @State.voiceEvent
  conv at e => rhs; delta State.voiceEvent
  rw [e]; clear e; beta_reduce
  repeat' first
    | with_reducible assumption
    | intro _ _ _
    | (fail_if_no_progress (extract_lets -underBinder +onlyGivenNames x); first | (clear_value x) | fail)
    | (with_reducible apply sound_ite <;> intro)
    | with_reducible apply State.setVoice_sound
    | with_reducible refine State.each_sound ?_ _ ?_
    | split

theorem State.setCap_sound {s0 s : State} (h : Sound s0 s) {a1 a2} : Sound s0 (State.setCap s a1 a2) := by
  have e := @rfl _ @State.setCap
  conv at e => rhs; delta State.setCap
  rw [e]; clear e; beta_reduce
  repeat' first
    | with_reducible assumption
    | (fail_if_no_progress (extract_lets -underBinder +onlyGivenNames x); first | (have hT : (type_of% x) = (State) := (by with_reducible rfl); clear hT; refine (fun (hx : Sound s0 x) => ?_) ?_; (on_goal 1 => clear_value x); (on_goal 2 => subst x)) | fail)
    | with_reducible apply State.setF_sound
    | with_reducible apply State.level_sound
    | (with_reducible refine Sound.upd ?_ ?_; (on_goal 2 => with_reducible rfl); with_reducible assumption)

theorem State.capQualify_sound {s0 s : State} (h : Sound s0 s) {a1} : Sound s0 (State.capQualify s a1) := by
  have e := @rfl _ @State.capQualify
  conv at e => rhs; delta State.capQualify
  rw [e]; clear e; beta_reduce
  repeat' first
    | with_reducible assumption
    | (fail_if_no_progress (extract_lets -underBinder +onlyGivenNames x); first | (have hT : (type_of% x) = (BitVec 32) := (by with_reducible rfl); clear hT; clear_value x) | (clear_value x) | fail)
    | (with_reducible apply sound_ite <;> intro)
    | with_reducible apply State.setCap_sound
    | with_reducible apply State.setB_sound

theorem State.capEvent_sound {s0 s : State} (h : Sound s0 s) {a1} : Sound s0 (State.capEvent s a1) := by
  have e := @rfl _ @State.capEvent
  conv at e => rhs; delta State.capEvent
  rw [e]; clear e; beta_reduce
  repeat' first
    | with_reducible assumption
    | intro _ _ _
    | (fail_if_no_progress (extract_lets -underBinder +onlyGivenNames x); first | (have hT : (type_of% x) = (BitVec 32) := (by with_reducible rfl); clear hT; clear_value x) | fail)
    | (with_reducible apply sound_ite <;> intro)
    | with_reducible apply State.capQualify_sound
    | with_reducible refine State.each_sound ?_ _ ?_

theorem State.headPosition_sound {s0 s : State} (h : Sound s0 s) {a1 a2 a3} : Sound s0 (State.headPosition s a1 a2 a3) := by
  have e := @rfl _ @State.headPosition
  conv at e => rhs; delta State.headPosition
  rw [e]; clear e; beta_reduce
  repeat' first
    | with_reducible assumption
    | with_reducible apply State.voiceEvent_sound

theorem State.dwLatch_sound {s0 s : State} (h : Sound s0 s) {a1} : Sound s0 (State.dwLatch s a1) := by
  have e := @rfl _ @State.dwLatch
  conv at e => rhs; delta State.dwLatch
  rw [e]; clear e; beta_reduce
  repeat' first
    | with_reducible assumption
    | (fail_if_no_progress (extract_lets -underBinder +onlyGivenNames x); first | (have hT : (type_of% x) = (State) := (by with_reducible rfl); clear hT; refine (fun (hx : Sound s0 x) => ?_) ?_; (on_goal 1 => clear_value x); (on_goal 2 => subst x)) | (have hT : (type_of% x) = (Nat) := (by with_reducible rfl); clear hT; clear_value x) | fail)
    | (with_reducible apply sound_ite <;> intro)
    | with_reducible apply State.setB_sound
    | with_reducible apply State.setF_sound

theorem State.request_sound {s0 s : State} (h : Sound s0 s) {a1} : Sound s0 (State.request s a1) := by
  have e := @rfl _ @State.request
  conv at e => rhs; delta State.request
  rw [e]; clear e; beta_reduce
  repeat' first
    | with_reducible assumption
    | intro _ _ _
    | (with_reducible apply sound_ite <;> intro)
    | with_reducible apply State.dwLatch_sound
    | with_reducible refine State.each_sound ?_ _ ?_

theorem State.setPsqCh_sound {s0 s : State} (h : Sound s0 s) {a1 a2} : Sound s0 (State.setPsqCh s a1 a2) := by
  have e := @rfl _ @State.setPsqCh
  conv at e => rhs; delta State.setPsqCh
  rw [e]; clear e; beta_reduce
  repeat' (with_reducible refine Sound.upd ?_ ?_; (on_goal 2 => with_reducible rfl); with_reducible assumption)

theorem State.psqEvent_sound {s0 s : State} (h : Sound s0 s) {a1 a2} : Sound s0 (State.psqEvent s a1 a2) := by
  have e := @rfl _ @State.psqEvent
  conv at e => rhs; delta State.psqEvent
  rw [e]; clear e; beta_reduce
  repeat' first
    | with_reducible assumption
    | intro _ _ _
    | (fail_if_no_progress (extract_lets -underBinder +onlyGivenNames x); first | (clear_value x) | fail)
    | with_reducible apply State.setPsqCh_sound
    | with_reducible refine State.each_sound ?_ _ ?_

theorem State.headLine_sound {s0 s : State} (h : Sound s0 s) {a1} : Sound s0 (State.headLine s a1) := by
  have e := @rfl _ @State.headLine
  conv at e => rhs; delta State.headLine
  rw [e]; clear e; beta_reduce
  repeat' first
    | with_reducible assumption
    | with_reducible apply State.psqEvent_sound
    | with_reducible apply State.capEvent_sound
    | with_reducible apply State.voiceEvent_sound
    | with_reducible apply State.pulse_sound

theorem State.headFrame_sound {s0 s : State} (h : Sound s0 s) {a1} : Sound s0 (State.headFrame s a1) := by
  have e := @rfl _ @State.headFrame
  conv at e => rhs; delta State.headFrame
  rw [e]; clear e; beta_reduce
  repeat' first
    | with_reducible assumption
    | with_reducible apply State.psqEvent_sound
    | with_reducible apply State.capEvent_sound
    | with_reducible apply State.voiceEvent_sound
    | with_reducible apply State.request_sound
    | with_reducible apply State.pulse_sound

theorem State.fireCompare_sound {s0 s : State} (h : Sound s0 s) {a1} : Sound s0 (State.fireCompare s a1) := by
  have e := @rfl _ @State.fireCompare
  conv at e => rhs; delta State.fireCompare
  rw [e]; clear e; beta_reduce
  repeat' first
    | with_reducible assumption
    | (fail_if_no_progress (extract_lets -underBinder +onlyGivenNames x); first | (have hT : (type_of% x) = (State) := (by with_reducible rfl); clear hT; refine (fun (hx : Sound s0 x) => ?_) ?_; (on_goal 1 => clear_value x); (on_goal 2 => subst x)) | (have hT : (type_of% x) = (Nat) := (by with_reducible rfl); clear hT; clear_value x) | fail)
    | (with_reducible apply sound_ite <;> intro)
    | with_reducible apply State.setB_sound
    | with_reducible apply State.setReg_sound
    | with_reducible apply State.pulse_sound
    | with_reducible apply State.request_sound
    | with_reducible apply State.capEvent_sound
    | with_reducible apply State.psqEvent_sound
    | with_reducible apply State.voiceEvent_sound

theorem State.raiseLine_sound {s0 s : State} (h : Sound s0 s) {a1} : Sound s0 (State.raiseLine s a1) := by
  have e := @rfl _ @State.raiseLine
  conv at e => rhs; delta State.raiseLine
  rw [e]; clear e; beta_reduce
  repeat' first
    | with_reducible assumption
    | (with_reducible apply sound_ite <;> intro)
    | with_reducible apply State.headLine_sound
    | with_reducible apply State.mark_sound

theorem State.setDw_sound {s0 s : State} (h : Sound s0 s) {a1 a2} : Sound s0 (State.setDw s a1 a2) := by
  have e := @rfl _ @State.setDw
  conv at e => rhs; delta State.setDw
  rw [e]; clear e; beta_reduce
  repeat' (with_reducible refine Sound.upd ?_ ?_; (on_goal 2 => with_reducible rfl); with_reducible assumption)

end Sys2Proof.Machine
end

