-- ==== Sys2Proof/Laws/ShutterSound.lean ====
section
/-! SUPPORT. The operations of Machine/Shutter.lean are sound: see Laws/Sound.lean. -/

set_option linter.all false

namespace Sys2Proof.Machine

theorem State.shutterFirst_sound {s0 s : State} (h : Sound s0 s) {a1 a2} : Sound s0 (State.shutterFirst s a1 a2) := by
  have e := @rfl _ @State.shutterFirst
  conv at e => rhs; delta State.shutterFirst
  rw [e]; clear e; beta_reduce
  repeat' first
    | with_reducible assumption
    | (with_reducible apply sound_ite <;> intro)
    | with_reducible apply State.pulse_sound
    | with_reducible apply State.setF_sound

theorem State.mantelFault_sound {s0 s : State} (h : Sound s0 s) {a1 a2} : Sound s0 (State.mantelFault s a1 a2) := by
  have e := @rfl _ @State.mantelFault
  conv at e => rhs; delta State.mantelFault
  rw [e]; clear e; beta_reduce
  repeat' first
    | with_reducible assumption
    | (fail_if_no_progress (extract_lets -underBinder +onlyGivenNames x); first | (have hT : (type_of% x) = (State) := (by with_reducible rfl); clear hT; refine (fun (hx : Sound s0 x) => ?_) ?_; (on_goal 1 => clear_value x); (on_goal 2 => subst x)) | fail)
    | (with_reducible apply sound_ite <;> intro)
    | with_reducible apply State.setB_sound
    | with_reducible apply State.shutterFirst_sound
    | with_reducible apply State.updHead_sound
    | with_reducible apply State.errRec_sound

theorem State.headCorrected_sound {s0 s : State} (h : Sound s0 s) {a1 a2 a3 a4} : Sound s0 (State.headCorrected s a1 a2 a3 a4) := by
  have e := @rfl _ @State.headCorrected
  conv at e => rhs; delta State.headCorrected
  rw [e]; clear e; beta_reduce
  repeat' first
    | with_reducible assumption
    | (with_reducible apply sound_ite <;> intro)
    | with_reducible apply State.updHead_sound
    | with_reducible apply State.corrected_sound

theorem State.headRead_sound {s0 s : State} (h : Sound s0 s) {a1 a2 a3} : Snd s0 (State.headRead s a1 a2 a3) := by
  have e := @rfl _ @State.headRead
  conv at e => rhs; delta State.headRead
  rw [e]; clear e; beta_reduce
  repeat' first
    | with_reducible assumption
    | intro _ _ _
    | (fail_if_no_progress (extract_lets -underBinder +onlyGivenNames x); first | (have hT : (type_of% x) = (State) := (by with_reducible rfl); clear hT; refine (fun (hx : Sound s0 x) => ?_) ?_; (on_goal 1 => clear_value x); (on_goal 2 => subst x)) | (have hT : (type_of% x) = (List Nat) := (by with_reducible rfl); clear hT; clear_value x) | (clear_value x) | fail)
    | with_reducible apply State.refusedAccess_sound
    | with_reducible apply State.celUse_sound
    | with_reducible apply State.ueRecord_sound
    | with_reducible apply State.uncorrectable_sound
    | with_reducible apply State.headCorrected_sound
    | with_reducible refine State.each_sound ?_ _ ?_
    | split
    | with_reducible apply snd_pair

theorem State.shutterClose_sound {s0 s : State} (h : Sound s0 s) {a1} : Sound s0 (State.shutterClose s a1) := by
  have e := @rfl _ @State.shutterClose
  conv at e => rhs; delta State.shutterClose
  rw [e]; clear e; beta_reduce
  repeat' first
    | with_reducible assumption
    | (fail_if_no_progress (extract_lets -underBinder +onlyGivenNames x); first | (have hT : (type_of% x) = (State) := (by with_reducible rfl); clear hT; refine (fun (hx : Sound s0 x) => ?_) ?_; (on_goal 1 => clear_value x); (on_goal 2 => subst x)) | (have hT : (type_of% x) = (BitVec 32) := (by with_reducible rfl); clear hT; clear_value x) | (have hT : (type_of% x) = (Bool) := (by with_reducible rfl); clear hT; clear_value x) | fail)
    | (with_reducible apply sound_ite <;> intro)
    | with_reducible apply State.incReg_sound
    | with_reducible apply State.setReg_sound
    | with_reducible apply State.setF_sound
    | with_reducible apply State.setB_sound

theorem State.headReadRow_sound {s0 s : State} (h : Sound s0 s) {a1 a2 a3} : Snd s0 (State.headReadRow s a1 a2 a3) := by
  have e := @rfl _ @State.headReadRow
  conv at e => rhs; delta State.headReadRow
  rw [e]; clear e; beta_reduce
  repeat' first
    | with_reducible assumption
    | intro _ _ _
    | (fail_if_no_progress (extract_lets -underBinder +onlyGivenNames x); first | (have hT : (type_of% x) = (State) := (by with_reducible rfl); clear hT; refine (fun (hx : Sound s0 x) => ?_) ?_; (on_goal 1 => clear_value x); (on_goal 2 => subst x)) | (have hT : (type_of% x) = (Nat) := (by with_reducible rfl); clear hT; clear_value x) | (have hT : (type_of% x) = (List Nat) := (by with_reducible rfl); clear hT; clear_value x) | (clear_value x) | fail)
    | with_reducible apply State.refusedAccess_sound
    | with_reducible apply State.celUse_sound
    | with_reducible apply State.headCorrected_sound
    | with_reducible apply State.ueRecord_sound
    | with_reducible apply State.uncorrectable_sound
    | with_reducible refine State.each_sound ?_ _ ?_
    | split
    | with_reducible apply snd_pair

theorem State.shutter_sound {s0 s : State} (h : Sound s0 s) {a1 a2 a3} : Sound s0 (State.shutter s a1 a2 a3) := by
  have e := @rfl _ @State.shutter
  conv at e => rhs; delta State.shutter
  rw [e]; clear e; beta_reduce
  repeat' first
    | with_reducible assumption
    | (fail_if_no_progress (extract_lets -underBinder +onlyGivenNames x); first | (have hT : (type_of% x) = (State) := (by with_reducible rfl); clear hT; refine (fun (hx : Sound s0 x) => ?_) ?_; (on_goal 1 => clear_value x); (on_goal 2 => subst x)) | fail)
    | (with_reducible apply sound_ite <;> intro)
    | with_reducible apply State.setB_sound
    | with_reducible apply State.shutterFirst_sound
    | with_reducible apply State.errRec_sound

end Sys2Proof.Machine
end

