-- ==== Sys2Proof/Laws/BeamSound.lean ====
section
/-! SUPPORT. The operations of Machine/Beam.lean are sound: see Laws/Sound.lean. -/

set_option linter.all false

namespace Sys2Proof.Machine

theorem State.updBs_sound {s0 s : State} (h : Sound s0 s) {a1 a2} : Sound s0 (State.updBs s a1 a2) := by
  have e := @rfl _ @State.updBs
  conv at e => rhs; delta State.updBs
  rw [e]; clear e; beta_reduce
  repeat' first
    | with_reducible assumption
    | with_reducible apply State.updHead_sound

theorem State.setView_sound {s0 s : State} (h : Sound s0 s) {a1 a2 a3} : Sound s0 (State.setView s a1 a2 a3) := by
  have e := @rfl _ @State.setView
  conv at e => rhs; delta State.setView
  rw [e]; clear e; beta_reduce
  repeat' first
    | with_reducible assumption
    | (fail_if_no_progress (extract_lets -underBinder +onlyGivenNames x); first | (have hT : (type_of% x) = (BitVec 32) := (by with_reducible rfl); clear hT; clear_value x) | fail)
    | with_reducible apply State.updBs_sound

theorem State.bsLand_sound {s0 s : State} (h : Sound s0 s) {a1 a2} : Sound s0 (State.bsLand s a1 a2) := by
  have e := @rfl _ @State.bsLand
  conv at e => rhs; delta State.bsLand
  rw [e]; clear e; beta_reduce
  repeat' first
    | with_reducible assumption
    | intro _ _ _
    | (fail_if_no_progress (extract_lets -underBinder +onlyGivenNames x); first | (have hT : (type_of% x) = (State) := (by with_reducible rfl); clear hT; refine (fun (hx : Sound s0 x) => ?_) ?_; (on_goal 1 => clear_value x); (on_goal 2 => subst x)) | (clear_value x) | fail)
    | (with_reducible apply sound_ite <;> intro)
    | with_reducible apply State.setView_sound
    | with_reducible apply State.mark_sound
    | with_reducible apply State.raiseLine_sound
    | with_reducible apply State.setReg_sound
    | with_reducible apply State.setB_sound
    | with_reducible apply State.updBs_sound
    | with_reducible refine State.each_sound ?_ _ ?_
    | split

theorem State.bsLandDue_sound {s0 s : State} (h : Sound s0 s) {a1 a2 a3} : Sound s0 (State.bsLandDue s a1 a2 a3) := by
  have e := @rfl _ @State.bsLandDue
  conv at e => rhs; delta State.bsLandDue
  rw [e]; clear e; beta_reduce
  repeat' first
    | with_reducible assumption
    | intro _ _ _
    | (fail_if_no_progress (extract_lets -underBinder +onlyGivenNames x); first | (have hT : (type_of% x) = (State) := (by with_reducible rfl); clear hT; refine (fun (hx : Sound s0 x) => ?_) ?_; (on_goal 1 => clear_value x); (on_goal 2 => subst x)) | (have hT : (type_of% x) = (List Nat) := (by with_reducible rfl); clear hT; clear_value x) | (clear_value x) | fail)
    | (with_reducible apply sound_ite <;> intro)
    | with_reducible apply State.updBs_sound
    | with_reducible apply State.bsLand_sound
    | with_reducible apply State.mark_sound
    | with_reducible apply State.raiseLine_sound
    | with_reducible apply State.setReg_sound
    | with_reducible refine State.each_sound ?_ _ ?_
    | split

theorem State.bsEnd_sound {s0 s : State} (h : Sound s0 s) {a1} : Sound s0 (State.bsEnd s a1) := by
  have e := @rfl _ @State.bsEnd
  conv at e => rhs; delta State.bsEnd
  rw [e]; clear e; beta_reduce
  repeat' first
    | with_reducible assumption
    | with_reducible apply State.updBs_sound
    | with_reducible apply State.setReg_sound

theorem State.bsClose_sound {s0 s : State} (h : Sound s0 s) {a1} : Sound s0 (State.bsClose s a1) := by
  have e := @rfl _ @State.bsClose
  conv at e => rhs; delta State.bsClose
  rw [e]; clear e; beta_reduce
  repeat' first
    | with_reducible assumption
    | (fail_if_no_progress (extract_lets -underBinder +onlyGivenNames x); first | (have hT : (type_of% x) = (State) := (by with_reducible rfl); clear hT; refine (fun (hx : Sound s0 x) => ?_) ?_; (on_goal 1 => clear_value x); (on_goal 2 => subst x)) | fail)
    | (with_reducible apply sound_ite <;> intro)
    | with_reducible apply State.bsLandDue_sound
    | with_reducible apply State.bsEnd_sound

theorem State.bsPut_sound {s0 s : State} (h : Sound s0 s) {a1 a2 a3} : Sound s0 (State.bsPut s a1 a2 a3) := by
  have e := @rfl _ @State.bsPut
  conv at e => rhs; delta State.bsPut
  rw [e]; clear e; beta_reduce
  repeat' first
    | with_reducible assumption
    | with_reducible apply State.updBs_sound

theorem State.bsPantry_sound {s0 s : State} (h : Sound s0 s) {a1 a2 a3 a4} : Sound s0 (State.bsPantry s a1 a2 a3 a4) := by
  have e := @rfl _ @State.bsPantry
  conv at e => rhs; delta State.bsPantry
  rw [e]; clear e; beta_reduce
  repeat' first
    | with_reducible assumption
    | intro _ _ _
    | (fail_if_no_progress (extract_lets -underBinder +onlyGivenNames x); first | (have hT : (type_of% x) = (List Nat) := (by with_reducible rfl); clear hT; clear_value x) | fail)
    | (with_reducible apply sound_ite <;> intro)
    | with_reducible apply State.bsPut_sound
    | with_reducible apply State.headCorrected_sound
    | with_reducible refine State.each_sound ?_ _ ?_
    | split

theorem State.bsAccess_sound {s0 s : State} (h : Sound s0 s) {a1 a2} : Sound s0 (State.bsAccess s a1 a2) := by
  have e := @rfl _ @State.bsAccess
  conv at e => rhs; delta State.bsAccess
  rw [e]; clear e; beta_reduce
  repeat' first
    | with_reducible assumption
    | (fail_if_no_progress (extract_lets -underBinder +onlyGivenNames x); first | (have hT : (type_of% x) = (Nat) := (by with_reducible rfl); clear hT; clear_value x) | (clear_value x) | fail)
    | with_reducible apply State.bsPantry_sound
    | with_reducible apply State.bsPut_sound
    | with_reducible apply State.refusedAccess_sound
    | split

theorem State.bstsRead_sound {s0 s : State} (h : Sound s0 s) {a1} : Snd s0 (State.bstsRead s a1) := by
  have e := @rfl _ @State.bstsRead
  conv at e => rhs; delta State.bstsRead
  rw [e]; clear e; beta_reduce
  repeat' first
    | with_reducible assumption
    | (fail_if_no_progress (extract_lets -underBinder +onlyGivenNames x); first | (have hT : (type_of% x) = (State) := (by with_reducible rfl); clear hT; refine (fun (hx : Sound s0 x) => ?_) ?_; (on_goal 1 => clear_value x); (on_goal 2 => subst x)) | fail)
    | with_reducible apply State.setReg_sound
    | with_reducible apply State.updBs_sound
    | split
    | with_reducible apply snd_pair

theorem State.bsLandEarly_sound {s0 s : State} (h : Sound s0 s) {a1 a2} : Sound s0 (State.bsLandEarly s a1 a2) := by
  have e := @rfl _ @State.bsLandEarly
  conv at e => rhs; delta State.bsLandEarly
  rw [e]; clear e; beta_reduce
  repeat' first
    | with_reducible assumption
    | with_reducible apply State.bsLand_sound
    | with_reducible apply State.updBs_sound
    | split

theorem State.bsNext_sound {s0 s : State} (h : Sound s0 s) {a1 a2 a3} : Sound s0 (State.bsNext s a1 a2 a3) := by
  have e := @rfl _ @State.bsNext
  conv at e => rhs; delta State.bsNext
  rw [e]; clear e; beta_reduce
  repeat' first
    | with_reducible assumption
    | with_reducible apply State.updBs_sound
    | with_reducible apply State.setF_sound

theorem State.bsBranch_sound {s0 s : State} (h : Sound s0 s) {a1 a2 a3} : Sound s0 (State.bsBranch s a1 a2 a3) := by
  have e := @rfl _ @State.bsBranch
  conv at e => rhs; delta State.bsBranch
  rw [e]; clear e; beta_reduce
  repeat' first
    | with_reducible assumption
    | (fail_if_no_progress (extract_lets -underBinder +onlyGivenNames x); first | (have hT : (type_of% x) = (State) := (by with_reducible rfl); clear hT; refine (fun (hx : Sound s0 x) => ?_) ?_; (on_goal 1 => clear_value x); (on_goal 2 => subst x)) | fail)
    | (with_reducible apply sound_ite <;> intro)
    | with_reducible apply State.bsNext_sound
    | (with_reducible refine Sound.upd ?_ ?_; (on_goal 2 => with_reducible rfl); with_reducible assumption)

theorem State.bsWait_sound {s0 s : State} (h : Sound s0 s) {a1 a2 a3} : Sound s0 (State.bsWait s a1 a2 a3) := by
  have e := @rfl _ @State.bsWait
  conv at e => rhs; delta State.bsWait
  rw [e]; clear e; beta_reduce
  repeat' first
    | with_reducible assumption
    | (fail_if_no_progress (extract_lets -underBinder +onlyGivenNames x); first | (have hT : (type_of% x) = (State) := (by with_reducible rfl); clear hT; refine (fun (hx : Sound s0 x) => ?_) ?_; (on_goal 1 => clear_value x); (on_goal 2 => subst x)) | (have hT : (type_of% x) = (Nat) := (by with_reducible rfl); clear hT; clear_value x) | (clear_value x) | fail)
    | (with_reducible apply sound_ite <;> intro)
    | with_reducible apply State.bsNext_sound
    | with_reducible apply State.updBs_sound
    | with_reducible apply State.setB_sound
    | split

theorem State.bsHave_sound {s0 s : State} (h : Sound s0 s) {a1 a2} : Snd s0 (State.bsHave s a1 a2) := by
  have e := @rfl _ @State.bsHave
  conv at e => rhs; delta State.bsHave
  rw [e]; clear e; beta_reduce
  repeat' first
    | with_reducible assumption
    | (with_reducible apply snd_ite <;> intro)
    | with_reducible apply State.setB_sound
    | with_reducible apply State.bsAccess_sound
    | with_reducible apply snd_pair

theorem State.bsFault_sound {s0 s : State} (h : Sound s0 s) {a1 a2 a3 a4} : Sound s0 (State.bsFault s a1 a2 a3 a4) := by
  have e := @rfl _ @State.bsFault
  conv at e => rhs; delta State.bsFault
  rw [e]; clear e; beta_reduce
  repeat' first
    | with_reducible assumption
    | (fail_if_no_progress (extract_lets -underBinder +onlyGivenNames x); first | (have hT : (type_of% x) = (State) := (by with_reducible rfl); clear hT; refine (fun (hx : Sound s0 x) => ?_) ?_; (on_goal 1 => clear_value x); (on_goal 2 => subst x)) | (have hT : (type_of% x) = (Nat) := (by with_reducible rfl); clear hT; clear_value x) | (clear_value x) | fail)
    | (with_reducible apply sound_ite <;> intro)
    | with_reducible apply State.setReg_sound
    | with_reducible apply State.setB_sound
    | with_reducible apply State.errRec_sound
    | with_reducible apply State.bsEnd_sound

theorem State.bsPrefetch_sound {s0 s : State} (h : Sound s0 s) {a1 a2} : Sound s0 (State.bsPrefetch s a1 a2) := by
  have e := @rfl _ @State.bsPrefetch
  conv at e => rhs; delta State.bsPrefetch
  rw [e]; clear e; beta_reduce
  repeat' first
    | with_reducible assumption
    | (with_reducible apply sound_ite <;> intro)
    | with_reducible apply State.bsAccess_sound

theorem State.bsAnchor_sound {s0 s : State} (h : Sound s0 s) {a1} : Snd s0 (State.bsAnchor s a1) := by
  have e := @rfl _ @State.bsAnchor
  conv at e => rhs; delta State.bsAnchor
  rw [e]; clear e; beta_reduce
  repeat' first
    | with_reducible assumption
    | (fail_if_no_progress (extract_lets -underBinder +onlyGivenNames x); first | (have hT : (type_of% x) = (Nat) := (by with_reducible rfl); clear hT; clear_value x) | (clear_value x) | fail)
    | (with_reducible apply snd_ite <;> intro)
    | with_reducible apply State.setB_sound
    | with_reducible apply snd_pair

theorem State.bsSchedule_sound {s0 s : State} (h : Sound s0 s) {a1 a2} : Sound s0 (State.bsSchedule s a1 a2) := by
  have e := @rfl _ @State.bsSchedule
  conv at e => rhs; delta State.bsSchedule
  rw [e]; clear e; beta_reduce
  repeat' first
    | with_reducible assumption
    | (fail_if_no_progress (extract_lets -underBinder +onlyGivenNames x); first | (have hT : ∃ α : Type, (type_of% x) = (α × State) := ⟨_, rfl⟩; clear hT; refine (fun (hx : Snd s0 x) => ?_) ?_; (on_goal 1 => clear_value x); (on_goal 2 => subst x)) | fail)
    | with_reducible apply State.bsAnchor_sound
    | with_reducible apply State.updBs_sound
    | (with_reducible apply Snd.out; with_reducible assumption)

theorem State.setActive_sound {s0 s : State} (h : Sound s0 s) {a1 a2 a3} : Sound s0 (State.setActive s a1 a2 a3) := by
  have e := @rfl _ @State.setActive
  conv at e => rhs; delta State.setActive
  rw [e]; clear e; beta_reduce
  repeat' first
    | with_reducible assumption
    | (fail_if_no_progress (extract_lets -underBinder +onlyGivenNames x); first | (have hT : (type_of% x) = (BitVec 32) := (by with_reducible rfl); clear hT; clear_value x) | fail)
    | (with_reducible apply sound_ite <;> intro)
    | with_reducible apply State.updHead_sound
    | with_reducible apply State.setReg_sound

theorem State.bsWrite_sound {s0 s : State} (h : Sound s0 s) {a1 a2 a3} : Sound s0 (State.bsWrite s a1 a2 a3) := by
  have e := @rfl _ @State.bsWrite
  conv at e => rhs; delta State.bsWrite
  rw [e]; clear e; beta_reduce
  repeat' first
    | with_reducible assumption
    | intro _ _ _
    | (fail_if_no_progress (extract_lets -underBinder +onlyGivenNames x); first | (have hT : (type_of% x) = (BitVec 32) := (by with_reducible rfl); clear hT; clear_value x) | (have hT : (type_of% x) = (Bool) := (by with_reducible rfl); clear hT; clear_value x) | (clear_value x) | fail)
    | (with_reducible apply sound_ite <;> intro)
    | with_reducible apply State.bsFault_sound
    | with_reducible apply State.setReg_sound
    | with_reducible apply State.bsSchedule_sound
    | with_reducible apply State.setView_sound
    | with_reducible apply State.setActive_sound
    | with_reducible refine State.each_sound ?_ _ ?_

theorem State.bsEntry_sound {s0 s : State} (h : Sound s0 s) {a1 a2 a3 a4} : Sound s0 (State.bsEntry s a1 a2 a3 a4) := by
  have e := @rfl _ @State.bsEntry
  conv at e => rhs; delta State.bsEntry
  rw [e]; clear e; beta_reduce
  repeat' first
    | with_reducible assumption
    | intro _ _ _
    | (fail_if_no_progress (extract_lets -underBinder +onlyGivenNames x); first | (have hT : (type_of% x) = (State) := (by with_reducible rfl); clear hT; refine (fun (hx : Sound s0 x) => ?_) ?_; (on_goal 1 => clear_value x); (on_goal 2 => subst x)) | (have hT : (type_of% x) = (Nat) := (by with_reducible rfl); clear hT; clear_value x) | (have hT : ∃ α : Type, (type_of% x) = (State → α → State) := ⟨_, rfl⟩; clear hT; refine (fun (hx : ∀ t a, Sound s0 t → Sound s0 (x t a)) => ?_) ?_; (on_goal 1 => clear_value x); (on_goal 2 => subst x)) | (clear_value x) | (skip) | fail)
    | (with_reducible apply sound_ite <;> intro)
    | with_reducible apply State.mark_sound
    | with_reducible apply State.bsEnd_sound
    | with_reducible apply State.bsWait_sound
    | with_reducible apply State.bsNext_sound
    | with_reducible apply State.bsWrite_sound
    | with_reducible apply State.bsBranch_sound
    | with_reducible apply State.updBs_sound
    | with_reducible apply State.bsSchedule_sound
    | with_reducible apply State.setB_sound
    | with_reducible apply_assumption -exfalso -symm
    | split

theorem State.bsExec_sound {s0 s : State} (h : Sound s0 s) {a1} : Sound s0 (State.bsExec s a1) := by
  have e := @rfl _ @State.bsExec
  conv at e => rhs; delta State.bsExec
  rw [e]; clear e; beta_reduce
  repeat' first
    | with_reducible assumption
    | (fail_if_no_progress (extract_lets -underBinder +onlyGivenNames x); first | (have hT : (type_of% x) = (State) := (by with_reducible rfl); clear hT; refine (fun (hx : Sound s0 x) => ?_) ?_; (on_goal 1 => clear_value x); (on_goal 2 => subst x)) | (have hT : (type_of% x) = (Nat) := (by with_reducible rfl); clear hT; clear_value x) | (have hT : (type_of% x) = (Bool) := (by with_reducible rfl); clear hT; clear_value x) | (have hT : ∃ α : Type, (type_of% x) = (α × State) := ⟨_, rfl⟩; clear hT; refine (fun (hx : Snd s0 x) => ?_) ?_; (on_goal 1 => clear_value x); (on_goal 2 => subst x)) | (clear_value x) | fail)
    | (with_reducible apply sound_ite <;> intro)
    | (with_reducible apply snd_ite <;> intro)
    | with_reducible apply State.bsEnd_sound
    | with_reducible apply State.bsHave_sound
    | with_reducible apply State.updBs_sound
    | with_reducible apply State.bsFault_sound
    | with_reducible apply State.uncorrectable_sound
    | with_reducible apply State.bsPrefetch_sound
    | with_reducible apply State.bsEntry_sound
    | (with_reducible apply Snd.out; with_reducible assumption)
    | split
    | with_reducible apply snd_pair

theorem State.bsClocks_sound {s0 s : State} (h : Sound s0 s) {a0 a1 a2} : Sound s0 (State.bsClocks a0 a1 a2 s) := by
  induction a2 generalizing s with
  | zero => exact h
  | succ n ih =>
    unfold State.bsClocks
    repeat' first
      | with_reducible assumption
      | (fail_if_no_progress (extract_lets -underBinder +onlyGivenNames x); first | (have hT : (type_of% x) = (State) := (by with_reducible rfl); clear hT; refine (fun (hx : Sound s0 x) => ?_) ?_; (on_goal 1 => clear_value x); (on_goal 2 => subst x)) | (have hT : (type_of% x) = (Nat) := (by with_reducible rfl); clear hT; clear_value x) | (clear_value x) | fail)
      | (with_reducible apply sound_ite <;> intro)
      | with_reducible apply State.bsLandDue_sound
      | with_reducible apply State.setB_sound
      | with_reducible apply State.setF_sound
      | with_reducible apply State.mark_sound
      | with_reducible apply State.updBs_sound
      | with_reducible apply State.bsExec_sound
      | with_reducible apply_assumption -exfalso -symm
      | split
      | with_reducible apply ih

theorem State.bsStart_sound {s0 s : State} (h : Sound s0 s) {a1 a2} : Sound s0 (State.bsStart s a1 a2) := by
  have e := @rfl _ @State.bsStart
  conv at e => rhs; delta State.bsStart
  rw [e]; clear e; beta_reduce
  repeat' first
    | with_reducible assumption
    | (fail_if_no_progress (extract_lets -underBinder +onlyGivenNames x); first | (have hT : (type_of% x) = (State) := (by with_reducible rfl); clear hT; refine (fun (hx : Sound s0 x) => ?_) ?_; (on_goal 1 => clear_value x); (on_goal 2 => subst x)) | (have hT : (type_of% x) = (Nat) := (by with_reducible rfl); clear hT; clear_value x) | (clear_value x) | fail)
    | with_reducible apply State.setReg_sound
    | with_reducible apply State.updBs_sound

theorem State.bsNewLine_sound {s0 s : State} (h : Sound s0 s) {a1 a2} : Sound s0 (State.bsNewLine s a1 a2) := by
  have e := @rfl _ @State.bsNewLine
  conv at e => rhs; delta State.bsNewLine
  rw [e]; clear e; beta_reduce
  repeat' first
    | with_reducible assumption
    | (fail_if_no_progress (extract_lets -underBinder +onlyGivenNames x); first | (have hT : (type_of% x) = (State) := (by with_reducible rfl); clear hT; refine (fun (hx : Sound s0 x) => ?_) ?_; (on_goal 1 => clear_value x); (on_goal 2 => subst x)) | (clear_value x) | fail)
    | (with_reducible apply sound_ite <;> intro)
    | with_reducible apply State.mark_sound
    | with_reducible apply State.updBs_sound

theorem beginBeamListSet_sound {s0 s : State} (h : Sound s0 s) {a0} : Snd s0 (beginBeamListSet a0 s) := by
  have e := @rfl _ @beginBeamListSet
  conv at e => rhs; delta beginBeamListSet
  rw [e]; clear e; beta_reduce
  repeat' first
    | with_reducible assumption
    | (fail_if_no_progress (extract_lets -underBinder +onlyGivenNames x); first | (have hT : (type_of% x) = (State) := (by with_reducible rfl); clear hT; refine (fun (hx : Sound s0 x) => ?_) ?_; (on_goal 1 => clear_value x); (on_goal 2 => subst x)) | (have hT : (type_of% x) = (Nat) := (by with_reducible rfl); clear hT; clear_value x) | (have hT : (type_of% x) = (Packet) := (by with_reducible rfl); clear hT; clear_value x) | (have hT : ∃ α : Type, (type_of% x) = (α × State) := ⟨_, rfl⟩; clear hT; refine (fun (hx : Snd s0 x) => ?_) ?_; (on_goal 1 => clear_value x); (on_goal 2 => subst x)) | (clear_value x) | fail)
    | (with_reducible apply snd_ite <;> intro)
    | with_reducible apply State.devRead_sound
    | with_reducible apply State.setReg_sound
    | with_reducible apply State.stage_sound
    | with_reducible apply commitAfter_sound
    | (with_reducible apply Snd.out; with_reducible assumption)
    | split
    | with_reducible apply snd_pair

theorem State.hostActive_sound {s0 s : State} (h : Sound s0 s) {a1 a2 a3} : Sound s0 (State.hostActive s a1 a2 a3) := by
  have e := @rfl _ @State.hostActive
  conv at e => rhs; delta State.hostActive
  rw [e]; clear e; beta_reduce
  repeat' first
    | with_reducible assumption
    | with_reducible apply State.updBs_sound
    | with_reducible apply State.setActive_sound

end Sys2Proof.Machine
end

