-- ==== Sys2Proof/Laws/SpritesSound.lean ====
section
/-! SUPPORT. The operations of Machine/Sprites.lean are sound: see Laws/Sound.lean. -/

set_option linter.all false

namespace Sys2Proof.Machine

theorem State.spriteLine_sound {s0 s : State} (h : Sound s0 s) {a1 a2 a3 a4 a5} : Snd s0 (State.spriteLine s a1 a2 a3 a4 a5) := by
  have e := @rfl _ @State.spriteLine
  conv at e => rhs; delta State.spriteLine
  rw [e]; clear e; beta_reduce
  repeat' first
    | with_reducible assumption
    | (fail_if_no_progress (extract_lets -underBinder +onlyGivenNames x); first | (have hT : (type_of% x) = (State) := (by with_reducible rfl); clear hT; refine (fun (hx : Sound s0 x) => ?_) ?_; (on_goal 1 => clear_value x); (on_goal 2 => subst x)) | (have hT : ∃ α : Type, (type_of% x) = (α × State) := ⟨_, rfl⟩; clear hT; refine (fun (hx : Snd s0 x) => ?_) ?_; (on_goal 1 => clear_value x); (on_goal 2 => subst x)) | fail)
    | with_reducible apply State.headRead_sound
    | (with_reducible apply Snd.out; with_reducible assumption)
    | (with_reducible refine Sound.upd ?_ ?_; (on_goal 2 => with_reducible rfl); with_reducible assumption)
    | split
    | with_reducible apply snd_pair

theorem State.spriteLate_sound {s0 s : State} (h : Sound s0 s) {a1} : Sound s0 (State.spriteLate s a1) := by
  have e := @rfl _ @State.spriteLate
  conv at e => rhs; delta State.spriteLate
  rw [e]; clear e; beta_reduce
  repeat' first
    | with_reducible assumption
    | with_reducible apply State.updHead_sound

theorem State.spriteStart_sound {s0 s : State} (h : Sound s0 s) {a1} : Sound s0 (State.spriteStart s a1) := by
  have e := @rfl _ @State.spriteStart
  conv at e => rhs; delta State.spriteStart
  rw [e]; clear e; beta_reduce
  repeat' first
    | with_reducible assumption
    | (fail_if_no_progress (extract_lets -underBinder +onlyGivenNames x); first | (have hT : (type_of% x) = (State) := (by with_reducible rfl); clear hT; refine (fun (hx : Sound s0 x) => ?_) ?_; (on_goal 1 => clear_value x); (on_goal 2 => subst x)) | (have hT : (type_of% x) = (Nat) := (by with_reducible rfl); clear hT; clear_value x) | (clear_value x) | fail)
    | (with_reducible apply sound_ite <;> intro)
    | with_reducible apply State.updHead_sound
    | with_reducible apply State.setF_sound
    | with_reducible apply State.setB_sound

theorem State.spriteLoaded_sound {s0 s : State} (h : Sound s0 s) {a1} : Sound s0 (State.spriteLoaded s a1) := by
  have e := @rfl _ @State.spriteLoaded
  conv at e => rhs; delta State.spriteLoaded
  rw [e]; clear e; beta_reduce
  repeat' first
    | with_reducible assumption
    | intro _ _ _
    | (fail_if_no_progress (extract_lets -underBinder +onlyGivenNames x); first | (have hT : (type_of% x) = (Nat) := (by with_reducible rfl); clear hT; clear_value x) | (have hT : ∃ α : Type, (type_of% x) = (α × State) := ⟨_, rfl⟩; clear hT; refine (fun (hx : Snd s0 x) => ?_) ?_; (on_goal 1 => clear_value x); (on_goal 2 => subst x)) | (clear_value x) | fail)
    | (with_reducible apply sound_ite <;> intro)
    | with_reducible apply State.spriteLine_sound
    | with_reducible apply State.updHead_sound
    | with_reducible apply State.setB_sound
    | with_reducible refine foldl_snd _ ?_ ?_
    | (with_reducible apply Snd.out; with_reducible assumption)
    | split
    | with_reducible apply snd_pair

theorem State.spDraw_sound {s0 s : State} (h : Sound s0 s) {a1 a2 a3 a4 a5} : Snd s0 (State.spDraw s a1 a2 a3 a4 a5) := by
  have e := @rfl _ @State.spDraw
  conv at e => rhs; delta State.spDraw
  rw [e]; clear e; beta_reduce
  repeat' first
    | with_reducible assumption
    | (fail_if_no_progress (extract_lets -underBinder +onlyGivenNames x); first | (have hT : (type_of% x) = (Nat) := (by with_reducible rfl); clear hT; clear_value x) | (have hT : (type_of% x) = (Int) := (by with_reducible rfl); clear hT; clear_value x) | (have hT : ∃ α : Type, (type_of% x) = (α × State) := ⟨_, rfl⟩; clear hT; refine (fun (hx : Snd s0 x) => ?_) ?_; (on_goal 1 => clear_value x); (on_goal 2 => subst x)) | (clear_value x) | fail)
    | (with_reducible apply snd_ite <;> intro)
    | with_reducible apply State.setB_sound
    | with_reducible apply State.headRead_sound
    | (with_reducible apply Snd.out; with_reducible assumption)
    | with_reducible apply snd_pair

theorem State.spriteEval_sound {s0 s : State} (h : Sound s0 s) {a1 a2} : Sound s0 (State.spriteEval s a1 a2) := by
  have e := @rfl _ @State.spriteEval
  conv at e => rhs; delta State.spriteEval
  rw [e]; clear e; beta_reduce
  repeat' first
    | with_reducible assumption
    | intro _ _ _
    | (fail_if_no_progress (extract_lets -underBinder +onlyGivenNames x); first | (have hT : (type_of% x) = (State) := (by with_reducible rfl); clear hT; refine (fun (hx : Sound s0 x) => ?_) ?_; (on_goal 1 => clear_value x); (on_goal 2 => subst x)) | (have hT : ∃ α : Type, (type_of% x) = (α × State) := ⟨_, rfl⟩; clear hT; refine (fun (hx : Snd s0 x) => ?_) ?_; (on_goal 1 => clear_value x); (on_goal 2 => subst x)) | (clear_value x) | fail)
    | (with_reducible apply sound_ite <;> intro)
    | with_reducible apply State.setB_sound
    | with_reducible apply State.spDraw_sound
    | with_reducible apply State.updHead_sound
    | with_reducible refine foldl_snd _ ?_ ?_
    | (with_reducible apply Snd.out; with_reducible assumption)
    | with_reducible apply snd_pair

theorem State.spriteClose_sound {s0 s : State} (h : Sound s0 s) {a1} : Sound s0 (State.spriteClose s a1) := by
  have e := @rfl _ @State.spriteClose
  conv at e => rhs; delta State.spriteClose
  rw [e]; clear e; beta_reduce
  repeat' first
    | with_reducible assumption
    | (fail_if_no_progress (extract_lets -underBinder +onlyGivenNames x); first | (have hT : (type_of% x) = (State) := (by with_reducible rfl); clear hT; refine (fun (hx : Sound s0 x) => ?_) ?_; (on_goal 1 => clear_value x); (on_goal 2 => subst x)) | (have hT : (type_of% x) = (Nat) := (by with_reducible rfl); clear hT; clear_value x) | (clear_value x) | fail)
    | with_reducible apply State.setReg_sound
    | with_reducible apply State.updHead_sound
    | with_reducible apply State.setB_sound

end Sys2Proof.Machine
end

