-- ==== Sys2Proof/Laws/TilesSound.lean ====
section
/-! SUPPORT. The operations of Machine/Tiles.lean are sound: see Laws/Sound.lean. -/

set_option linter.all false

namespace Sys2Proof.Machine

theorem State.readEntry_sound {s0 s : State} (h : Sound s0 s) {a1 a2 a3} : Sound s0 (State.readEntry s a1 a2 a3) := by
  have e := @rfl _ @State.readEntry
  conv at e => rhs; delta State.readEntry
  rw [e]; clear e; beta_reduce
  repeat' first
    | with_reducible assumption
    | (fail_if_no_progress (extract_lets -underBinder +onlyGivenNames x); first | (have hT : (type_of% x) = (Nat) := (by with_reducible rfl); clear hT; clear_value x) | (have hT : ∃ α : Type, (type_of% x) = (α × State) := ⟨_, rfl⟩; clear hT; refine (fun (hx : Snd s0 x) => ?_) ?_; (on_goal 1 => clear_value x); (on_goal 2 => subst x)) | (clear_value x) | fail)
    | (with_reducible apply sound_ite <;> intro)
    | with_reducible apply State.headRead_sound
    | with_reducible apply State.updHead_sound
    | (with_reducible apply Snd.out; with_reducible assumption)

theorem State.columnEntry_sound {s0 s : State} (h : Sound s0 s) {a1 a2 a3} : Snd s0 (State.columnEntry s a1 a2 a3) := by
  have e := @rfl _ @State.columnEntry
  conv at e => rhs; delta State.columnEntry
  rw [e]; clear e; beta_reduce
  repeat' first
    | with_reducible assumption
    | (fail_if_no_progress (extract_lets -underBinder +onlyGivenNames x); first | (have hT : ∃ α : Type, (type_of% x) = (α × State) := ⟨_, rfl⟩; clear hT; refine (fun (hx : Snd s0 x) => ?_) ?_; (on_goal 1 => clear_value x); (on_goal 2 => subst x)) | (clear_value x) | fail)
    | (with_reducible apply snd_ite <;> intro)
    | with_reducible apply State.headRead_sound
    | (with_reducible apply Snd.out; with_reducible assumption)
    | with_reducible apply snd_pair

theorem State.mapEntry_sound {s0 s : State} (h : Sound s0 s) {a1 a2 a3 a4} : Snd s0 (State.mapEntry s a1 a2 a3 a4) := by
  have e := @rfl _ @State.mapEntry
  conv at e => rhs; delta State.mapEntry
  rw [e]; clear e; beta_reduce
  repeat' first
    | with_reducible assumption
    | (fail_if_no_progress (extract_lets -underBinder +onlyGivenNames x); first | (have hT : (type_of% x) = (Nat) := (by with_reducible rfl); clear hT; clear_value x) | (have hT : ∃ α : Type, (type_of% x) = (α × State) := ⟨_, rfl⟩; clear hT; refine (fun (hx : Snd s0 x) => ?_) ?_; (on_goal 1 => clear_value x); (on_goal 2 => subst x)) | (clear_value x) | fail)
    | (with_reducible apply snd_ite <;> intro)
    | with_reducible apply State.headRead_sound
    | (with_reducible apply Snd.out; with_reducible assumption)
    | split
    | with_reducible apply snd_pair

theorem State.tilePattern_sound {s0 s : State} (h : Sound s0 s) {a1 a2 a3 a4 a5} : Snd s0 (State.tilePattern s a1 a2 a3 a4 a5) := by
  have e := @rfl _ @State.tilePattern
  conv at e => rhs; delta State.tilePattern
  rw [e]; clear e; beta_reduce
  repeat' first
    | with_reducible assumption
    | (fail_if_no_progress (extract_lets -underBinder +onlyGivenNames x); first | (have hT : (type_of% x) = (Nat) := (by with_reducible rfl); clear hT; clear_value x) | (have hT : ∃ α : Type, (type_of% x) = (α × State) := ⟨_, rfl⟩; clear hT; refine (fun (hx : Snd s0 x) => ?_) ?_; (on_goal 1 => clear_value x); (on_goal 2 => subst x)) | (clear_value x) | fail)
    | (with_reducible apply snd_ite <;> intro)
    | with_reducible apply State.setB_sound
    | with_reducible apply State.headRead_sound
    | (with_reducible apply Snd.out; with_reducible assumption)
    | split
    | with_reducible apply snd_pair

theorem State.tileRead_sound {s0 s : State} (h : Sound s0 s) {a1 a2 a3 a4 a5} : Snd s0 (State.tileRead s a1 a2 a3 a4 a5) := by
  have e := @rfl _ @State.tileRead
  conv at e => rhs; delta State.tileRead
  rw [e]; clear e; beta_reduce
  have hm : Snd s0 (s.mapEntry a1 a2 a3 a5) := State.mapEntry_sound h
  split
  · rename_i e
    exact snd_pair (Snd.of_eq e hm)
  · rename_i e
    exact State.tilePattern_sound (Snd.of_eq e hm)

theorem State.tileFetch_sound {s0 s : State} (h : Sound s0 s) {a1 a2 a3 a4 a5} : Snd s0 (State.tileFetch s a1 a2 a3 a4 a5) := by
  have e := @rfl _ @State.tileFetch
  conv at e => rhs; delta State.tileFetch
  rw [e]; clear e; beta_reduce
  extract_lets -underBinder +onlyGivenNames t c
  have ht : Sound s0 t := State.readEntry_sound h
  clear_value t
  have hc : Snd s0 c := State.columnEntry_sound ht
  clear_value c
  split
  · split
    · exact snd_pair hc.out
    · exact State.tileRead_sound hc.out
  · exact snd_pair hc.out

theorem State.readRow_sound {s0 s : State} (h : Sound s0 s) {a1 a2 a3} : Sound s0 (State.readRow s a1 a2 a3) := by
  have e := @rfl _ @State.readRow
  conv at e => rhs; delta State.readRow
  rw [e]; clear e; beta_reduce
  repeat' first
    | with_reducible assumption
    | (fail_if_no_progress (extract_lets -underBinder +onlyGivenNames x); first | (have hT : (type_of% x) = (State) := (by with_reducible rfl); clear hT; refine (fun (hx : Sound s0 x) => ?_) ?_; (on_goal 1 => clear_value x); (on_goal 2 => subst x)) | (have hT : ∃ α : Type, (type_of% x) = (α × State) := ⟨_, rfl⟩; clear hT; refine (fun (hx : Snd s0 x) => ?_) ?_; (on_goal 1 => clear_value x); (on_goal 2 => subst x)) | (clear_value x) | fail)
    | (with_reducible apply sound_ite <;> intro)
    | with_reducible apply State.readEntry_sound
    | with_reducible apply State.headReadRow_sound
    | with_reducible apply State.mark_sound
    | with_reducible apply State.updHead_sound
    | (with_reducible apply Snd.out; with_reducible assumption)
    | split

theorem State.tileAt_sound {s0 s : State} (h : Sound s0 s) {a1 a2 a3 a4 a5 a6} : Snd s0 (State.tileAt s a1 a2 a3 a4 a5 a6) := by
  have e := @rfl _ @State.tileAt
  conv at e => rhs; delta State.tileAt
  rw [e]; clear e; beta_reduce
  extract_lets -underBinder +onlyGivenNames g
  clear_value g
  split
  · exact snd_pair h
  · extract_lets j r
    have hr : Snd s0 r := by
      subst r
      split
      · exact snd_ite (fun _ => snd_pair h) fun _ => State.tileFetch_sound h
      · exact State.tileFetch_sound h
    clear_value r
    exact snd_pair hr.out

theorem State.tilesFetch_sound {s0 s : State} (h : Sound s0 s) {a1 a2 a3 a4} : Sound s0 (State.tilesFetch s a1 a2 a3 a4) := by
  have e := @rfl _ @State.tilesFetch
  conv at e => rhs; delta State.tilesFetch
  rw [e]; clear e; beta_reduce
  repeat' first
    | with_reducible assumption
    | intro _ _ _
    | (fail_if_no_progress (extract_lets -underBinder +onlyGivenNames x); first | (have hT : ∃ α : Type, (type_of% x) = (α × State) := ⟨_, rfl⟩; clear hT; refine (fun (hx : Snd s0 x) => ?_) ?_; (on_goal 1 => clear_value x); (on_goal 2 => subst x)) | (clear_value x) | fail)
    | (with_reducible apply sound_ite <;> intro)
    | with_reducible apply State.tileFetch_sound
    | with_reducible apply State.updHead_sound
    | with_reducible refine State.each_sound ?_ _ ?_
    | (with_reducible apply Snd.out; with_reducible assumption)

end Sys2Proof.Machine
end

