-- ==== Sys2Proof/Laws/ComposeSound.lean ====
section
/-! SUPPORT. The operations of Machine/Compose.lean are sound: see Laws/Sound.lean. -/

set_option linter.all false

namespace Sys2Proof.Machine

theorem State.layerAt_sound {s0 s : State} (h : Sound s0 s) {a1 a2 a3 a4 a5} : Snd s0 (State.layerAt s a1 a2 a3 a4 a5) := by
  have e := @rfl _ @State.layerAt
  conv at e => rhs; delta State.layerAt
  rw [e]; clear e; beta_reduce
  repeat' first
    | with_reducible assumption
    | (fail_if_no_progress (extract_lets -underBinder +onlyGivenNames x); first | (clear_value x) | fail)
    | (with_reducible apply snd_ite <;> intro)
    | with_reducible apply State.tileAt_sound
    | with_reducible apply snd_pair

theorem State.layersAt_sound {s0 s : State} (h : Sound s0 s) {a1 a2 a3} : Snd s0 (State.layersAt s a1 a2 a3) := by
  have e := @rfl _ @State.layersAt
  conv at e => rhs; delta State.layersAt
  rw [e]; clear e; beta_reduce
  repeat' first
    | with_reducible assumption
    | intro _ _ _
    | (fail_if_no_progress (extract_lets -underBinder +onlyGivenNames x); first | (have hT : (type_of% x) = (State) := (by with_reducible rfl); clear hT; refine (fun (hx : Sound s0 x) => ?_) ?_; (on_goal 1 => clear_value x); (on_goal 2 => subst x)) | (have hT : ∃ α : Type, (type_of% x) = (α × State) := ⟨_, rfl⟩; clear hT; refine (fun (hx : Snd s0 x) => ?_) ?_; (on_goal 1 => clear_value x); (on_goal 2 => subst x)) | (clear_value x) | fail)
    | (with_reducible apply snd_ite <;> intro)
    | with_reducible apply State.layerAt_sound
    | with_reducible apply State.shutter_sound
    | with_reducible refine foldl_snd _ ?_ ?_
    | (with_reducible apply Snd.out; with_reducible assumption)
    | with_reducible apply snd_pair

theorem State.spritesAt_sound {s0 s : State} (h : Sound s0 s) {a1 a2 a3} : Snd s0 (State.spritesAt s a1 a2 a3) := by
  have e := @rfl _ @State.spritesAt
  conv at e => rhs; delta State.spritesAt
  rw [e]; clear e; beta_reduce
  repeat' first
    | with_reducible assumption
    | (fail_if_no_progress (extract_lets -underBinder +onlyGivenNames x); first | (clear_value x) | fail)
    | (with_reducible apply snd_ite <;> intro)
    | with_reducible apply State.shutter_sound
    | with_reducible apply snd_pair

theorem State.composeAt_sound {s0 s : State} (h : Sound s0 s) {a1 a2 a3} : Snd s0 (State.composeAt s a1 a2 a3) := by
  have e := @rfl _ @State.composeAt
  conv at e => rhs; delta State.composeAt
  rw [e]; clear e; beta_reduce
  repeat' first
    | with_reducible assumption
    | (fail_if_no_progress (extract_lets -underBinder +onlyGivenNames x); first | (have hT : (type_of% x) = (State) := (by with_reducible rfl); clear hT; refine (fun (hx : Sound s0 x) => ?_) ?_; (on_goal 1 => clear_value x); (on_goal 2 => subst x)) | (have hT : (type_of% x) = (BitVec 32) := (by with_reducible rfl); clear hT; clear_value x) | (have hT : ∃ α : Type, (type_of% x) = (α × State) := ⟨_, rfl⟩; clear hT; refine (fun (hx : Snd s0 x) => ?_) ?_; (on_goal 1 => clear_value x); (on_goal 2 => subst x)) | (clear_value x) | fail)
    | with_reducible apply State.layersAt_sound
    | with_reducible apply State.spritesAt_sound
    | (with_reducible apply Snd.out; with_reducible assumption)
    | with_reducible apply snd_pair

theorem State.lutTake_sound {s0 s : State} (h : Sound s0 s) {a1 a2 a3 a4 a5 a6 a7} : Sound s0 (State.lutTake s a1 a2 a3 a4 a5 a6 a7) := by
  have e := @rfl _ @State.lutTake
  conv at e => rhs; delta State.lutTake
  rw [e]; clear e; beta_reduce
  repeat' first
    | with_reducible assumption
    | intro _ _ _
    | (fail_if_no_progress (extract_lets -underBinder +onlyGivenNames x); first | (have hT : (type_of% x) = (BitVec 32) := (by with_reducible rfl); clear hT; clear_value x) | fail)
    | with_reducible apply State.setB_sound
    | with_reducible apply State.updHead_sound
    | with_reducible refine State.each_sound ?_ _ ?_

theorem State.lutRead_sound {s0 s : State} (h : Sound s0 s) {a1 a2 a3 a4 a5 a6 a7} : Snd s0 (State.lutRead s a1 a2 a3 a4 a5 a6 a7) := by
  have e := @rfl _ @State.lutRead
  conv at e => rhs; delta State.lutRead
  rw [e]; clear e; beta_reduce
  repeat' first
    | with_reducible assumption
    | (fail_if_no_progress (extract_lets -underBinder +onlyGivenNames x); first | (have hT : ∃ α : Type, (type_of% x) = (α × State) := ⟨_, rfl⟩; clear hT; refine (fun (hx : Snd s0 x) => ?_) ?_; (on_goal 1 => clear_value x); (on_goal 2 => subst x)) | fail)
    | with_reducible apply State.devRead_sound
    | with_reducible apply commitAfter_sound
    | with_reducible apply State.lutTake_sound
    | (with_reducible apply Snd.out; with_reducible assumption)
    | split
    | with_reducible apply snd_pair

theorem beginLutLoad_sound {s0 s : State} (h : Sound s0 s) {a0} : Snd s0 (beginLutLoad a0 s) := by
  have e := @rfl _ @beginLutLoad
  conv at e => rhs; delta beginLutLoad
  rw [e]; clear e; beta_reduce
  repeat' first
    | with_reducible assumption
    | (fail_if_no_progress (extract_lets -underBinder +onlyGivenNames x); first | (have hT : (type_of% x) = (Nat) := (by with_reducible rfl); clear hT; clear_value x) | (have hT : (type_of% x) = (Packet) := (by with_reducible rfl); clear hT; clear_value x) | fail)
    | with_reducible apply State.lutRead_sound
    | split
    | with_reducible apply snd_pair

theorem beginComposeSet_sound {s0 s : State} (h : Sound s0 s) {a0} : Snd s0 (beginComposeSet a0 s) := by
  have e := @rfl _ @beginComposeSet
  conv at e => rhs; delta beginComposeSet
  rw [e]; clear e; beta_reduce
  repeat' first
    | with_reducible assumption
    | intro _ _ _
    | (fail_if_no_progress (extract_lets -underBinder +onlyGivenNames x); first | (have hT : (type_of% x) = (Nat) := (by with_reducible rfl); clear hT; clear_value x) | (have hT : (type_of% x) = (Packet) := (by with_reducible rfl); clear hT; clear_value x) | (clear_value x) | fail)
    | with_reducible apply commitAfter_sound
    | with_reducible apply State.stage_sound
    | with_reducible refine State.each_sound ?_ _ ?_
    | split
    | with_reducible apply snd_pair

end Sys2Proof.Machine
end

