-- ==== Sys2Proof/Laws/MantelSound.lean ====
section
/-! SUPPORT. The operations of Machine/Mantel.lean are sound: see Laws/Sound.lean. -/

set_option linter.all false

namespace Sys2Proof.Machine

theorem beginMantelSet_sound {s0 s : State} (h : Sound s0 s) {a0} : Snd s0 (beginMantelSet a0 s) := by
  have e := @rfl _ @beginMantelSet
  conv at e => rhs; delta beginMantelSet
  rw [e]; clear e; beta_reduce
  repeat' first
    | with_reducible assumption
    | (with_reducible apply snd_ite <;> intro)
    | split
    | with_reducible apply snd_pair

theorem State.updMt_sound {s0 s : State} (h : Sound s0 s) {a1 a2} : Sound s0 (State.updMt s a1 a2) := by
  have e := @rfl _ @State.updMt
  conv at e => rhs; delta State.updMt
  rw [e]; clear e; beta_reduce
  repeat' first
    | with_reducible assumption
    | with_reducible apply State.updHead_sound

theorem State.mantelRead_sound {s0 s : State} (h : Sound s0 s) {a1 a2} : Snd s0 (State.mantelRead s a1 a2) := by
  have e := @rfl _ @State.mantelRead
  conv at e => rhs; delta State.mantelRead
  rw [e]; clear e; beta_reduce
  repeat' first
    | with_reducible assumption
    | with_reducible apply State.devRead_sound

theorem State.mantelFill_sound {s0 s : State} (h : Sound s0 s) {a1 a2 a3} : Sound s0 (State.mantelFill s a1 a2 a3) := by
  have e := @rfl _ @State.mantelFill
  conv at e => rhs; delta State.mantelFill
  rw [e]; clear e; beta_reduce
  repeat' first
    | with_reducible assumption
    | (fail_if_no_progress (extract_lets -underBinder +onlyGivenNames x); first | (have hT : (type_of% x) = (Nat) := (by with_reducible rfl); clear hT; clear_value x) | (clear_value x) | fail)
    | with_reducible apply State.updMt_sound

theorem State.mantelReadmit_sound {s0 s : State} (h : Sound s0 s) {a1} : Sound s0 (State.mantelReadmit s a1) := by
  have e := @rfl _ @State.mantelReadmit
  conv at e => rhs; delta State.mantelReadmit
  rw [e]; clear e; beta_reduce
  repeat' first
    | with_reducible assumption
    | (fail_if_no_progress (extract_lets -underBinder +onlyGivenNames x); first | (have hT : (type_of% x) = (State) := (by with_reducible rfl); clear hT; refine (fun (hx : Sound s0 x) => ?_) ?_; (on_goal 1 => clear_value x); (on_goal 2 => subst x)) | (have hT : (type_of% x) = (Nat) := (by with_reducible rfl); clear hT; clear_value x) | (have hT : ∃ α : Type, (type_of% x) = (α × State) := ⟨_, rfl⟩; clear hT; refine (fun (hx : Snd s0 x) => ?_) ?_; (on_goal 1 => clear_value x); (on_goal 2 => subst x)) | (clear_value x) | fail)
    | (with_reducible apply sound_ite <;> intro)
    | (with_reducible apply snd_ite <;> intro)
    | with_reducible apply State.mantelRead_sound
    | with_reducible apply State.measure_sound
    | with_reducible apply State.setB_sound
    | with_reducible apply State.mantelFill_sound
    | with_reducible apply State.errRec_sound
    | (with_reducible apply Snd.out; with_reducible assumption)
    | with_reducible apply snd_pair

theorem State.mantelStage_sound {s0 s : State} (h : Sound s0 s) {a1 a2 a3} : Sound s0 (State.mantelStage s a1 a2 a3) := by
  have e := @rfl _ @State.mantelStage
  conv at e => rhs; delta State.mantelStage
  rw [e]; clear e; beta_reduce
  repeat' first
    | with_reducible assumption
    | with_reducible apply State.jState_sound
    | with_reducible apply State.setB_sound
    | with_reducible apply State.updMt_sound

theorem State.mantelTouch_sound {s0 s : State} (h : Sound s0 s) {a1 a2 a3} : Sound s0 (State.mantelTouch s a1 a2 a3) := by
  have e := @rfl _ @State.mantelTouch
  conv at e => rhs; delta State.mantelTouch
  rw [e]; clear e; beta_reduce
  repeat' first
    | with_reducible assumption
    | (with_reducible apply sound_ite <;> intro)
    | with_reducible apply State.mantelFault_sound
    | split

theorem State.storeUncorr_sound {s0 s : State} (h : Sound s0 s) {a1} : Sound s0 (State.storeUncorr s a1) := by
  have e := @rfl _ @State.storeUncorr
  conv at e => rhs; delta State.storeUncorr
  rw [e]; clear e; beta_reduce
  repeat' first
    | with_reducible assumption
    | (fail_if_no_progress (extract_lets -underBinder +onlyGivenNames x); first | (have hT : (type_of% x) = (State) := (by with_reducible rfl); clear hT; refine (fun (hx : Sound s0 x) => ?_) ?_; (on_goal 1 => clear_value x); (on_goal 2 => subst x)) | (clear_value x) | fail)
    | with_reducible apply State.pulse_sound
    | with_reducible apply State.incReg_sound
    | with_reducible apply State.setReg_sound
    | (with_reducible refine Sound.upd ?_ ?_; (on_goal 2 => with_reducible rfl); with_reducible assumption)

theorem State.mantelRegs_sound {s0 s : State} (h : Sound s0 s) {a1 a2 a3 a4} : Sound s0 (State.mantelRegs s a1 a2 a3 a4) := by
  have e := @rfl _ @State.mantelRegs
  conv at e => rhs; delta State.mantelRegs
  rw [e]; clear e; beta_reduce
  repeat' first
    | with_reducible assumption
    | intro _ _ _
    | (fail_if_no_progress (extract_lets -underBinder +onlyGivenNames x); first | (have hT : (type_of% x) = (State) := (by with_reducible rfl); clear hT; refine (fun (hx : Sound s0 x) => ?_) ?_; (on_goal 1 => clear_value x); (on_goal 2 => subst x)) | (have hT : (type_of% x) = (Nat) := (by with_reducible rfl); clear hT; clear_value x) | fail)
    | with_reducible apply State.setReg_sound
    | with_reducible apply State.updMt_sound
    | with_reducible refine State.each_sound ?_ _ ?_

theorem State.mantelSpoil_sound {s0 s : State} (h : Sound s0 s) {a1 a2} : Sound s0 (State.mantelSpoil s a1 a2) := by
  have e := @rfl _ @State.mantelSpoil
  conv at e => rhs; delta State.mantelSpoil
  rw [e]; clear e; beta_reduce
  repeat' first
    | with_reducible assumption
    | with_reducible apply State.updMt_sound

theorem State.mantelAdmitOpen_sound {s0 s : State} (h : Sound s0 s) {a1 a2} : Sound s0 (State.mantelAdmitOpen s a1 a2) := by
  have e := @rfl _ @State.mantelAdmitOpen
  conv at e => rhs; delta State.mantelAdmitOpen
  rw [e]; clear e; beta_reduce
  repeat' first
    | with_reducible assumption
    | (fail_if_no_progress (extract_lets -underBinder +onlyGivenNames x); first | (have hT : (type_of% x) = (Nat) := (by with_reducible rfl); clear hT; clear_value x) | (have hT : (type_of% x) = (Bool) := (by with_reducible rfl); clear hT; clear_value x) | (have hT : (type_of% x) = (Packet) := (by with_reducible rfl); clear hT; clear_value x) | (have hT : ∃ α : Type, (type_of% x) = (α × State) := ⟨_, rfl⟩; clear hT; refine (fun (hx : Snd s0 x) => ?_) ?_; (on_goal 1 => clear_value x); (on_goal 2 => subst x)) | (clear_value x) | fail)
    | (with_reducible apply sound_ite <;> intro)
    | with_reducible apply State.mantelStage_sound
    | with_reducible apply State.finishAcc_sound
    | with_reducible apply State.mantelRead_sound
    | with_reducible apply State.measure_sound
    | with_reducible apply State.mantelFill_sound
    | (with_reducible apply Snd.out; with_reducible assumption)
    | split

theorem State.mantelAdmit_sound {s0 s : State} (h : Sound s0 s) {a1} : Sound s0 (State.mantelAdmit s a1) := by
  have e := @rfl _ @State.mantelAdmit
  conv at e => rhs; delta State.mantelAdmit
  rw [e]; clear e; beta_reduce
  repeat' first
    | with_reducible assumption
    | (with_reducible apply sound_ite <;> intro)
    | with_reducible apply State.mantelAdmitOpen_sound
    | split

theorem State.mantelGlyphs_sound {s0 s : State} (h : Sound s0 s) {a1 a2} : Sound s0 (State.mantelGlyphs s a1 a2) := by
  have e := @rfl _ @State.mantelGlyphs
  conv at e => rhs; delta State.mantelGlyphs
  rw [e]; clear e; beta_reduce
  repeat' first
    | with_reducible assumption
    | intro _ _ _
    | with_reducible apply State.setReg_sound
    | with_reducible refine State.each_sound ?_ _ ?_

theorem State.mantelSwap_sound {s0 s : State} (h : Sound s0 s) {a1} : Sound s0 (State.mantelSwap s a1) := by
  have e := @rfl _ @State.mantelSwap
  conv at e => rhs; delta State.mantelSwap
  rw [e]; clear e; beta_reduce
  repeat' first
    | with_reducible assumption
    | (fail_if_no_progress (extract_lets -underBinder +onlyGivenNames x); first | (have hT : (type_of% x) = (State) := (by with_reducible rfl); clear hT; refine (fun (hx : Sound s0 x) => ?_) ?_; (on_goal 1 => clear_value x); (on_goal 2 => subst x)) | (have hT : (type_of% x) = (Bool) := (by with_reducible rfl); clear hT; clear_value x) | (have hT : (type_of% x) = (BitVec 64) := (by with_reducible rfl); clear hT; clear_value x) | fail)
    | (with_reducible apply sound_ite <;> intro)
    | with_reducible apply State.updMt_sound
    | with_reducible apply State.setB_sound
    | with_reducible apply State.finishAcc_sound
    | with_reducible apply State.errRec_sound
    | with_reducible apply State.setF_sound
    | with_reducible apply State.mantelRegs_sound
    | with_reducible apply State.mantelGlyphs_sound
    | with_reducible apply State.setW64_sound
    | split

theorem State.storeCorrected_sound {s0 s : State} (h : Sound s0 s) {a1 a2 a3} : Sound s0 (State.storeCorrected s a1 a2 a3) := by
  have e := @rfl _ @State.storeCorrected
  conv at e => rhs; delta State.storeCorrected
  rw [e]; clear e; beta_reduce
  repeat' first
    | with_reducible assumption
    | with_reducible apply State.corrLog_sound
    | with_reducible apply State.countCe_sound

theorem State.mantelScrub_sound {s0 s : State} (h : Sound s0 s) {a1 a2} : Sound s0 (State.mantelScrub s a1 a2) := by
  have e := @rfl _ @State.mantelScrub
  conv at e => rhs; delta State.mantelScrub
  rw [e]; clear e; beta_reduce
  repeat' first
    | with_reducible assumption
    | with_reducible apply State.updMt_sound
    | with_reducible apply State.storeCorrected_sound
    | with_reducible apply State.errRec_sound
    | with_reducible apply State.storeUncorr_sound
    | split

theorem State.mantelLine_sound {s0 s : State} (h : Sound s0 s) {a1 a2} : Sound s0 (State.mantelLine s a1 a2) := by
  have e := @rfl _ @State.mantelLine
  conv at e => rhs; delta State.mantelLine
  rw [e]; clear e; beta_reduce
  repeat' first
    | with_reducible assumption
    | intro _ _ _
    | (fail_if_no_progress (extract_lets -underBinder +onlyGivenNames x); first | (have hT : (type_of% x) = (State) := (by with_reducible rfl); clear hT; refine (fun (hx : Sound s0 x) => ?_) ?_; (on_goal 1 => clear_value x); (on_goal 2 => subst x)) | (have hT : (type_of% x) = (Nat) := (by with_reducible rfl); clear hT; clear_value x) | (clear_value x) | fail)
    | with_reducible apply State.storeCorrected_sound
    | with_reducible apply State.storeUncorr_sound
    | with_reducible apply State.updMt_sound
    | with_reducible refine State.each_sound ?_ _ ?_
    | split

end Sys2Proof.Machine
end

