-- ==== Sys2Proof/Laws/PortsSound.lean ====
section
/-! SUPPORT. The operations of Machine/Ports.lean are sound: see Laws/Sound.lean. -/

set_option linter.all false

namespace Sys2Proof.Machine

theorem State.portPulse_sound {s0 s : State} (h : Sound s0 s) {a1} : Sound s0 (State.portPulse s a1) := by
  have e := @rfl _ @State.portPulse
  conv at e => rhs; delta State.portPulse
  rw [e]; clear e; beta_reduce
  repeat' first
    | with_reducible assumption
    | with_reducible apply State.pulse_sound

theorem State.evCount_sound {s0 s : State} (h : Sound s0 s) {a1 a2} : Sound s0 (State.evCount s a1 a2) := by
  have e := @rfl _ @State.evCount
  conv at e => rhs; delta State.evCount
  rw [e]; clear e; beta_reduce
  repeat' first
    | with_reducible assumption
    | with_reducible apply State.setF_sound

theorem State.setPort_sound {s0 s : State} (h : Sound s0 s) {a1 a2} : Sound s0 (State.setPort s a1 a2) := by
  have e := @rfl _ @State.setPort
  conv at e => rhs; delta State.setPort
  rw [e]; clear e; beta_reduce
  repeat' (with_reducible refine Sound.upd ?_ ?_; (on_goal 2 => with_reducible rfl); with_reducible assumption)

theorem State.updPort_sound {s0 s : State} (h : Sound s0 s) {a1 a2} : Sound s0 (State.updPort s a1 a2) := by
  have e := @rfl _ @State.updPort
  conv at e => rhs; delta State.updPort
  rw [e]; clear e; beta_reduce
  repeat' first
    | with_reducible assumption
    | with_reducible apply State.setPort_sound

theorem State.irqHpd_sound {s0 s : State} (h : Sound s0 s) {a1} : Sound s0 (State.irqHpd s a1) := by
  have e := @rfl _ @State.irqHpd
  conv at e => rhs; delta State.irqHpd
  rw [e]; clear e; beta_reduce
  repeat' first
    | with_reducible assumption
    | with_reducible apply State.portPulse_sound
    | with_reducible apply State.evCount_sound

theorem State.trainEnd_sound {s0 s : State} (h : Sound s0 s) {a1} : Sound s0 (State.trainEnd s a1) := by
  have e := @rfl _ @State.trainEnd
  conv at e => rhs; delta State.trainEnd
  rw [e]; clear e; beta_reduce
  repeat' first
    | with_reducible assumption
    | intro _ _ _
    | with_reducible apply State.updPort_sound
    | with_reducible apply State.irqHpd_sound
    | with_reducible refine State.each_sound ?_ _ ?_

theorem State.routeFinish_sound {s0 s : State} (h : Sound s0 s) {a1 a2} : Sound s0 (State.routeFinish s a1 a2) := by
  have e := @rfl _ @State.routeFinish
  conv at e => rhs; delta State.routeFinish
  rw [e]; clear e; beta_reduce
  repeat' first
    | with_reducible assumption
    | with_reducible apply State.setB_sound
    | with_reducible apply State.updPort_sound
    | with_reducible apply State.finishAcc_sound
    | split

theorem State.linkRecord_sound {s0 s : State} (h : Sound s0 s) {a1} : Sound s0 (State.linkRecord s a1) := by
  have e := @rfl _ @State.linkRecord
  conv at e => rhs; delta State.linkRecord
  rw [e]; clear e; beta_reduce
  repeat' first
    | with_reducible assumption
    | with_reducible apply State.errRec_sound

theorem State.trainFail_sound {s0 s : State} (h : Sound s0 s) {a1} : Sound s0 (State.trainFail s a1) := by
  have e := @rfl _ @State.trainFail
  conv at e => rhs; delta State.trainFail
  rw [e]; clear e; beta_reduce
  repeat' first
    | with_reducible assumption
    | (fail_if_no_progress (extract_lets -underBinder +onlyGivenNames x); first | (have hT : (type_of% x) = (State) := (by with_reducible rfl); clear hT; refine (fun (hx : Sound s0 x) => ?_) ?_; (on_goal 1 => clear_value x); (on_goal 2 => subst x)) | fail)
    | with_reducible apply State.setReg_sound
    | with_reducible apply State.routeFinish_sound
    | with_reducible apply State.setB_sound
    | with_reducible apply State.linkRecord_sound
    | split

theorem State.trainNote_sound {s0 s : State} (h : Sound s0 s) {a1 a2 a3} : Sound s0 (State.trainNote s a1 a2 a3) := by
  have e := @rfl _ @State.trainNote
  conv at e => rhs; delta State.trainNote
  rw [e]; clear e; beta_reduce
  repeat' first
    | with_reducible assumption
    | with_reducible apply State.setReg_sound

theorem State.echoOff_sound {s0 s : State} (h : Sound s0 s) {a1} : Sound s0 (State.echoOff s a1) := by
  have e := @rfl _ @State.echoOff
  conv at e => rhs; delta State.echoOff
  rw [e]; clear e; beta_reduce
  repeat' first
    | with_reducible assumption
    | (with_reducible apply sound_ite <;> intro)
    | with_reducible apply State.updPort_sound
    | with_reducible apply State.setReg_sound

theorem State.linkDrop_sound {s0 s : State} (h : Sound s0 s) {a1 a2} : Sound s0 (State.linkDrop s a1 a2) := by
  have e := @rfl _ @State.linkDrop
  conv at e => rhs; delta State.linkDrop
  rw [e]; clear e; beta_reduce
  repeat' first
    | with_reducible assumption
    | (fail_if_no_progress (extract_lets -underBinder +onlyGivenNames x); first | (have hT : (type_of% x) = (State) := (by with_reducible rfl); clear hT; refine (fun (hx : Sound s0 x) => ?_) ?_; (on_goal 1 => clear_value x); (on_goal 2 => subst x)) | (have hT : (type_of% x) = (Bool) := (by with_reducible rfl); clear hT; clear_value x) | fail)
    | (with_reducible apply sound_ite <;> intro)
    | with_reducible apply State.setF_sound
    | with_reducible apply State.updPort_sound
    | with_reducible apply State.echoOff_sound
    | with_reducible apply State.portPulse_sound
    | with_reducible apply State.linkRecord_sound
    | with_reducible apply State.evCount_sound

theorem State.sinkGone_sound {s0 s : State} (h : Sound s0 s) {a1} : Sound s0 (State.sinkGone s a1) := by
  have e := @rfl _ @State.sinkGone
  conv at e => rhs; delta State.sinkGone
  rw [e]; clear e; beta_reduce
  repeat' first
    | with_reducible assumption
    | (fail_if_no_progress (extract_lets -underBinder +onlyGivenNames x); first | (have hT : (type_of% x) = (State) := (by with_reducible rfl); clear hT; refine (fun (hx : Sound s0 x) => ?_) ?_; (on_goal 1 => clear_value x); (on_goal 2 => subst x)) | (have hT : (type_of% x) = (Nat) := (by with_reducible rfl); clear hT; clear_value x) | fail)
    | (with_reducible apply sound_ite <;> intro)
    | with_reducible apply State.setB_sound
    | with_reducible apply State.trainEnd_sound
    | with_reducible apply State.trainFail_sound
    | with_reducible apply State.trainNote_sound
    | with_reducible apply State.linkDrop_sound
    | (with_reducible refine Sound.upd ?_ ?_; (on_goal 2 => with_reducible rfl); with_reducible assumption)

theorem State.wiringSense_sound {s0 s : State} (h : Sound s0 s) {a1 a2} : Sound s0 (State.wiringSense s a1 a2) := by
  have e := @rfl _ @State.wiringSense
  conv at e => rhs; delta State.wiringSense
  rw [e]; clear e; beta_reduce
  repeat' first
    | with_reducible assumption
    | intro _ _ _
    | (fail_if_no_progress (extract_lets -underBinder +onlyGivenNames x); first | (have hT : (type_of% x) = (State) := (by with_reducible rfl); clear hT; refine (fun (hx : Sound s0 x) => ?_) ?_; (on_goal 1 => clear_value x); (on_goal 2 => subst x)) | (have hT : (type_of% x) = (Nat) := (by with_reducible rfl); clear hT; clear_value x) | (have hT : (type_of% x) = (BitVec 32) := (by with_reducible rfl); clear hT; clear_value x) | fail)
    | (with_reducible apply sound_ite <;> intro)
    | with_reducible apply State.setReg_sound
    | with_reducible apply State.errRec_sound
    | with_reducible apply State.portPulse_sound
    | with_reducible apply State.evCount_sound
    | with_reducible apply State.sinkGone_sound
    | with_reducible refine State.each_sound ?_ _ ?_

theorem State.setNeed_sound {s0 s : State} (h : Sound s0 s) {a1 a2} : Sound s0 (State.setNeed s a1 a2) := by
  have e := @rfl _ @State.setNeed
  conv at e => rhs; delta State.setNeed
  rw [e]; clear e; beta_reduce
  repeat' first
    | with_reducible assumption
    | with_reducible apply State.setF_sound

theorem State.trainStart_sound {s0 s : State} (h : Sound s0 s) {a1} : Sound s0 (State.trainStart s a1) := by
  have e := @rfl _ @State.trainStart
  conv at e => rhs; delta State.trainStart
  rw [e]; clear e; beta_reduce
  repeat' first
    | with_reducible assumption
    | with_reducible apply State.updPort_sound
    | with_reducible apply State.setReg_sound
    | with_reducible apply State.echoOff_sound

theorem State.routePend_sound {s0 s : State} (h : Sound s0 s) {a1 a2 a3} : Sound s0 (State.routePend s a1 a2 a3) := by
  have e := @rfl _ @State.routePend
  conv at e => rhs; delta State.routePend
  rw [e]; clear e; beta_reduce
  repeat' first
    | with_reducible assumption
    | (fail_if_no_progress (extract_lets -underBinder +onlyGivenNames x); first | (have hT : (type_of% x) = (State) := (by with_reducible rfl); clear hT; refine (fun (hx : Sound s0 x) => ?_) ?_; (on_goal 1 => clear_value x); (on_goal 2 => subst x)) | fail)
    | (with_reducible apply sound_ite <;> intro)
    | with_reducible apply State.setB_sound
    | with_reducible apply State.updPort_sound
    | with_reducible apply State.setNeed_sound
    | with_reducible apply State.trainStart_sound

theorem State.streamTake_sound {s0 s : State} (h : Sound s0 s) {a1 a2} : Sound s0 (State.streamTake s a1 a2) := by
  have e := @rfl _ @State.streamTake
  conv at e => rhs; delta State.streamTake
  rw [e]; clear e; beta_reduce
  repeat' first
    | with_reducible assumption
    | (fail_if_no_progress (extract_lets -underBinder +onlyGivenNames x); first | (have hT : (type_of% x) = (List Nat) := (by with_reducible rfl); clear hT; clear_value x) | fail)
    | (with_reducible apply sound_ite <;> intro)
    | with_reducible apply State.setB_sound
    | with_reducible apply State.updPort_sound

theorem State.routeTake_sound {s0 s : State} (h : Sound s0 s) {a1 a2 a3} : Sound s0 (State.routeTake s a1 a2 a3) := by
  have e := @rfl _ @State.routeTake
  conv at e => rhs; delta State.routeTake
  rw [e]; clear e; beta_reduce
  repeat' first
    | with_reducible assumption
    | (fail_if_no_progress (extract_lets -underBinder +onlyGivenNames x); first | (have hT : (type_of% x) = (State) := (by with_reducible rfl); clear hT; refine (fun (hx : Sound s0 x) => ?_) ?_; (on_goal 1 => clear_value x); (on_goal 2 => subst x)) | fail)
    | (with_reducible apply sound_ite <;> intro)
    | with_reducible apply State.setNeed_sound
    | with_reducible apply State.setB_sound
    | with_reducible apply State.setReg_sound
    | with_reducible apply State.updPort_sound
    | with_reducible apply State.routeFinish_sound
    | with_reducible apply State.streamTake_sound

theorem State.routeOff_sound {s0 s : State} (h : Sound s0 s) {a1} : Sound s0 (State.routeOff s a1) := by
  have e := @rfl _ @State.routeOff
  conv at e => rhs; delta State.routeOff
  rw [e]; clear e; beta_reduce
  repeat' first
    | with_reducible assumption
    | with_reducible apply State.updPort_sound
    | with_reducible apply State.setB_sound
    | with_reducible apply State.setReg_sound

theorem State.portSwap_sound {s0 s : State} (h : Sound s0 s) {a1 a2} : Sound s0 (State.portSwap s a1 a2) := by
  have e := @rfl _ @State.portSwap
  conv at e => rhs; delta State.portSwap
  rw [e]; clear e; beta_reduce
  repeat' first
    | with_reducible assumption
    | intro _ _ _
    | (fail_if_no_progress (extract_lets -underBinder +onlyGivenNames x); first | (have hT : (type_of% x) = (State) := (by with_reducible rfl); clear hT; refine (fun (hx : Sound s0 x) => ?_) ?_; (on_goal 1 => clear_value x); (on_goal 2 => subst x)) | (clear_value x) | fail)
    | (with_reducible apply sound_ite <;> intro)
    | with_reducible apply State.setNeed_sound
    | with_reducible apply State.updPort_sound
    | with_reducible apply State.setB_sound
    | with_reducible apply State.streamTake_sound
    | with_reducible apply State.routeTake_sound
    | with_reducible apply State.routeFinish_sound
    | with_reducible apply State.routeOff_sound
    | with_reducible refine State.each_sound ?_ _ ?_
    | split

theorem State.portsHeadOff_sound {s0 s : State} (h : Sound s0 s) {a1} : Sound s0 (State.portsHeadOff s a1) := by
  have e := @rfl _ @State.portsHeadOff
  conv at e => rhs; delta State.portsHeadOff
  rw [e]; clear e; beta_reduce
  repeat' first
    | with_reducible assumption
    | intro _ _ _
    | (with_reducible apply sound_ite <;> intro)
    | with_reducible apply State.updPort_sound
    | with_reducible apply State.setB_sound
    | with_reducible refine State.each_sound ?_ _ ?_

theorem State.sinkRead_sound {s0 s : State} (h : Sound s0 s) {a1 a2} : Sound s0 (State.sinkRead s a1 a2) := by
  have e := @rfl _ @State.sinkRead
  conv at e => rhs; delta State.sinkRead
  rw [e]; clear e; beta_reduce
  repeat' first
    | with_reducible assumption
    | intro _ _ _
    | intro _ _
    | intro _
    | (fail_if_no_progress (extract_lets -underBinder +onlyGivenNames x); first | (have hT : (type_of% x) = (State) := (by with_reducible rfl); clear hT; refine (fun (hx : Sound s0 x) => ?_) ?_; (on_goal 1 => clear_value x); (on_goal 2 => subst x)) | (have hT : (type_of% x) = (State → State) := (by with_reducible rfl); clear hT; refine (fun (hx : ∀ t, Sound s0 t → Sound s0 (x t)) => ?_) ?_; (on_goal 1 => clear_value x); (on_goal 2 => subst x)) | (have hT : ∃ α β : Type, (type_of% x) = (State → α → β → State) := ⟨_, _, rfl⟩; clear hT; refine (fun (hx : ∀ t a b, Sound s0 t → Sound s0 (x t a b)) => ?_) ?_; (on_goal 1 => clear_value x); (on_goal 2 => subst x)) | fail)
    | (with_reducible apply sound_ite <;> intro)
    | with_reducible apply State.setB_sound
    | with_reducible apply State.setReg_sound
    | with_reducible apply State.setF_sound
    | with_reducible apply State.linkDrop_sound
    | with_reducible refine State.each_sound ?_ _ ?_
    | with_reducible apply_assumption -exfalso -symm
    | split

theorem State.eqNote_sound {s0 s : State} (h : Sound s0 s) {a1 a2} : Sound s0 (State.eqNote s a1 a2) := by
  have e := @rfl _ @State.eqNote
  conv at e => rhs; delta State.eqNote
  rw [e]; clear e; beta_reduce
  repeat' first
    | with_reducible assumption
    | (fail_if_no_progress (extract_lets -underBinder +onlyGivenNames x); first | (have hT : (type_of% x) = (State) := (by with_reducible rfl); clear hT; refine (fun (hx : Sound s0 x) => ?_) ?_; (on_goal 1 => clear_value x); (on_goal 2 => subst x)) | (have hT : (type_of% x) = (BitVec 32) := (by with_reducible rfl); clear hT; clear_value x) | (have hT : (type_of% x) = (Bool) := (by with_reducible rfl); clear hT; clear_value x) | fail)
    | (with_reducible apply sound_ite <;> intro)
    | with_reducible apply State.setB_sound
    | with_reducible apply State.loopBound_sound

theorem State.echoMismatch_sound {s0 s : State} (h : Sound s0 s) {a1 a2 a3} : Sound s0 (State.echoMismatch s a1 a2 a3) := by
  have e := @rfl _ @State.echoMismatch
  conv at e => rhs; delta State.echoMismatch
  rw [e]; clear e; beta_reduce
  repeat' first
    | with_reducible assumption
    | (fail_if_no_progress (extract_lets -underBinder +onlyGivenNames x); first | (have hT : (type_of% x) = (State) := (by with_reducible rfl); clear hT; refine (fun (hx : Sound s0 x) => ?_) ?_; (on_goal 1 => clear_value x); (on_goal 2 => subst x)) | (have hT : (type_of% x) = (Nat) := (by with_reducible rfl); clear hT; clear_value x) | (clear_value x) | fail)
    | (with_reducible apply sound_ite <;> intro)
    | with_reducible apply State.setPort_sound
    | with_reducible apply State.setB_sound
    | with_reducible apply State.updHead_sound
    | with_reducible apply State.pulse_sound

theorem State.echoAlign_sound {s0 s : State} (h : Sound s0 s) {a1 a2} : Sound s0 (State.echoAlign s a1 a2) := by
  have e := @rfl _ @State.echoAlign
  conv at e => rhs; delta State.echoAlign
  rw [e]; clear e; beta_reduce
  repeat' first
    | with_reducible assumption
    | (with_reducible apply sound_ite <;> intro)
    | with_reducible apply State.updPort_sound
    | with_reducible apply State.setB_sound

theorem State.dplReset_sound {s0 s : State} (h : Sound s0 s) : Sound s0 (State.dplReset s) := by
  have e := @rfl _ @State.dplReset
  conv at e => rhs; delta State.dplReset
  rw [e]; clear e; beta_reduce
  repeat' first
    | with_reducible assumption
    | intro _ _ _
    | (fail_if_no_progress (extract_lets -underBinder +onlyGivenNames x); first | (have hT : (type_of% x) = (State) := (by with_reducible rfl); clear hT; refine (fun (hx : Sound s0 x) => ?_) ?_; (on_goal 1 => clear_value x); (on_goal 2 => subst x)) | fail)
    | with_reducible apply State.setReg_sound
    | with_reducible apply State.echoOff_sound
    | with_reducible apply State.setPort_sound
    | with_reducible refine State.each_sound ?_ _ ?_

theorem State.hpdUnplug_sound {s0 s : State} (h : Sound s0 s) {a1} : Sound s0 (State.hpdUnplug s a1) := by
  have e := @rfl _ @State.hpdUnplug
  conv at e => rhs; delta State.hpdUnplug
  rw [e]; clear e; beta_reduce
  repeat' first
    | with_reducible assumption
    | (with_reducible apply sound_ite <;> intro)
    | with_reducible apply State.sinkGone_sound
    | with_reducible apply State.portPulse_sound
    | with_reducible apply State.evCount_sound
    | with_reducible apply State.setB_sound

theorem State.hpdPlug_sound {s0 s : State} (h : Sound s0 s) {a1} : Sound s0 (State.hpdPlug s a1) := by
  have e := @rfl _ @State.hpdPlug
  conv at e => rhs; delta State.hpdPlug
  rw [e]; clear e; beta_reduce
  repeat' first
    | with_reducible assumption
    | (with_reducible apply sound_ite <;> intro)
    | with_reducible apply State.portPulse_sound
    | with_reducible apply State.evCount_sound
    | with_reducible apply State.setB_sound

theorem State.portsDisable_sound {s0 s : State} (h : Sound s0 s) : Sound s0 (State.portsDisable s) := by
  have e := @rfl _ @State.portsDisable
  conv at e => rhs; delta State.portsDisable
  rw [e]; clear e; beta_reduce
  repeat' first
    | with_reducible assumption
    | intro _ _ _
    | with_reducible apply State.updPort_sound
    | with_reducible apply State.setB_sound
    | with_reducible apply State.setReg_sound
    | with_reducible apply State.echoOff_sound
    | with_reducible refine State.each_sound ?_ _ ?_

theorem beginRoutePort_sound {s0 s : State} (h : Sound s0 s) {a0} : Snd s0 (beginRoutePort a0 s) := by
  have e := @rfl _ @beginRoutePort
  conv at e => rhs; delta beginRoutePort
  rw [e]; clear e; beta_reduce
  repeat' first
    | with_reducible assumption
    | (fail_if_no_progress (extract_lets -underBinder +onlyGivenNames x); first | (have hT : (type_of% x) = (Nat) := (by with_reducible rfl); clear hT; clear_value x) | (have hT : (type_of% x) = (BitVec 32) := (by with_reducible rfl); clear hT; clear_value x) | (have hT : (type_of% x) = (Bool) := (by with_reducible rfl); clear hT; clear_value x) | (have hT : (type_of% x) = (Packet) := (by with_reducible rfl); clear hT; clear_value x) | fail)
    | (with_reducible apply snd_ite <;> intro)
    | with_reducible apply State.routePend_sound
    | with_reducible apply State.routeOff_sound
    | split
    | with_reducible apply snd_pair

theorem State.hpdIrq_sound {s0 s : State} (h : Sound s0 s) {a1} : Sound s0 (State.hpdIrq s a1) := by
  have e := @rfl _ @State.hpdIrq
  conv at e => rhs; delta State.hpdIrq
  rw [e]; clear e; beta_reduce
  repeat' first
    | with_reducible assumption
    | (with_reducible apply sound_ite <;> intro)
    | with_reducible apply State.updPort_sound
    | with_reducible apply State.irqHpd_sound

theorem State.echoClose_sound {s0 s : State} (h : Sound s0 s) {a1 a2 a3} : Snd s0 (State.echoClose s a1 a2 a3) := by
  have e := @rfl _ @State.echoClose
  conv at e => rhs; delta State.echoClose
  rw [e]; clear e; beta_reduce
  repeat' first
    | with_reducible assumption
    | (fail_if_no_progress (extract_lets -underBinder +onlyGivenNames x); first | (have hT : (type_of% x) = (State) := (by with_reducible rfl); clear hT; refine (fun (hx : Sound s0 x) => ?_) ?_; (on_goal 1 => clear_value x); (on_goal 2 => subst x)) | (have hT : (type_of% x) = (BitVec 32) := (by with_reducible rfl); clear hT; clear_value x) | (have hT : (type_of% x) = (Bool) := (by with_reducible rfl); clear hT; clear_value x) | (clear_value x) | fail)
    | (with_reducible apply sound_ite <;> intro)
    | with_reducible apply State.setReg_sound
    | with_reducible apply State.incReg_sound
    | with_reducible apply State.setB_sound
    | with_reducible apply State.setPort_sound
    | (with_reducible refine Sound.upd ?_ ?_; (on_goal 2 => with_reducible rfl); with_reducible assumption)
    | with_reducible apply snd_pair

theorem State.portsHeadOn_sound {s0 s : State} (h : Sound s0 s) {a1} : Sound s0 (State.portsHeadOn s a1) := by
  have e := @rfl _ @State.portsHeadOn
  conv at e => rhs; delta State.portsHeadOn
  rw [e]; clear e; beta_reduce
  repeat' first
    | with_reducible assumption
    | intro _ _ _
    | (with_reducible apply sound_ite <;> intro)
    | with_reducible apply State.routePend_sound
    | with_reducible refine State.each_sound ?_ _ ?_

theorem State.trainingDone_sound {s0 s : State} (h : Sound s0 s) {a1 a2} : Sound s0 (State.trainingDone s a1 a2) := by
  have e := @rfl _ @State.trainingDone
  conv at e => rhs; delta State.trainingDone
  rw [e]; clear e; beta_reduce
  repeat' first
    | with_reducible assumption
    | (fail_if_no_progress (extract_lets -underBinder +onlyGivenNames x); first | (have hT : (type_of% x) = (State) := (by with_reducible rfl); clear hT; refine (fun (hx : Sound s0 x) => ?_) ?_; (on_goal 1 => clear_value x); (on_goal 2 => subst x)) | (have hT : (type_of% x) = (BitVec 32) := (by with_reducible rfl); clear hT; clear_value x) | (have hT : (type_of% x) = (Bool) := (by with_reducible rfl); clear hT; clear_value x) | (clear_value x) | fail)
    | (with_reducible apply sound_ite <;> intro)
    | with_reducible apply State.eqNote_sound
    | with_reducible apply State.trainNote_sound
    | with_reducible apply State.setReg_sound
    | with_reducible apply State.setF_sound
    | with_reducible apply State.trainEnd_sound
    | with_reducible apply State.updPort_sound
    | with_reducible apply State.trainFail_sound
    | (with_reducible refine Sound.upd ?_ ?_; (on_goal 2 => with_reducible rfl); with_reducible assumption)
    | split

end Sys2Proof.Machine
end

