-- ==== Sys2Proof/Laws/IntegritySound.lean ====
section
/-! SUPPORT. The operations of Machine/Integrity.lean are sound: see Laws/Sound.lean. -/

set_option linter.all false

namespace Sys2Proof.Machine

theorem State.batchRead_sound {s0 s : State} (h : Sound s0 s) {a1} : Snd s0 (State.batchRead s a1) := by
  have e := @rfl _ @State.batchRead
  conv at e => rhs; delta State.batchRead
  rw [e]; clear e; beta_reduce
  repeat' first
    | with_reducible assumption
    | (fail_if_no_progress (extract_lets -underBinder +onlyGivenNames x); first | (have hT : (type_of% x) = (Nat) := (by with_reducible rfl); clear hT; clear_value x) | (have hT : ∃ α : Type, (type_of% x) = (α × State) := ⟨_, rfl⟩; clear hT; refine (fun (hx : Snd s0 x) => ?_) ?_; (on_goal 1 => clear_value x); (on_goal 2 => subst x)) | fail)
    | with_reducible apply State.devRead_sound
    | (with_reducible apply Snd.out; with_reducible assumption)
    | split
    | with_reducible apply snd_pair

theorem State.updIg_sound {s0 s : State} (h : Sound s0 s) {a1 a2} : Sound s0 (State.updIg s a1 a2) := by
  have e := @rfl _ @State.updIg
  conv at e => rhs; delta State.updIg
  rw [e]; clear e; beta_reduce
  repeat' first
    | with_reducible assumption
    | with_reducible apply State.updHead_sound

theorem State.feedCrc_sound {s0 s : State} (h : Sound s0 s) {a1 a2 a3} : Sound s0 (State.feedCrc s a1 a2 a3) := by
  have e := @rfl _ @State.feedCrc
  conv at e => rhs; delta State.feedCrc
  rw [e]; clear e; beta_reduce
  repeat' first
    | with_reducible assumption
    | (fail_if_no_progress (extract_lets -underBinder +onlyGivenNames x); first | (have hT : (type_of% x) = (BitVec 32) := (by with_reducible rfl); clear hT; clear_value x) | fail)
    | with_reducible apply State.updIg_sound

theorem State.crcPixel_sound {s0 s : State} (h : Sound s0 s) {a1 a2 a3 a4 a5} : Sound s0 (State.crcPixel s a1 a2 a3 a4 a5) := by
  have e := @rfl _ @State.crcPixel
  conv at e => rhs; delta State.crcPixel
  rw [e]; clear e; beta_reduce
  repeat' first
    | with_reducible assumption
    | intro _ _ _
    | (fail_if_no_progress (extract_lets -underBinder +onlyGivenNames x); first | (have hT : (type_of% x) = (State) := (by with_reducible rfl); clear hT; refine (fun (hx : Sound s0 x) => ?_) ?_; (on_goal 1 => clear_value x); (on_goal 2 => subst x)) | (have hT : (type_of% x) = (BitVec 32) := (by with_reducible rfl); clear hT; clear_value x) | (have hT : (type_of% x) = (Bool) := (by with_reducible rfl); clear hT; clear_value x) | (clear_value x) | fail)
    | (with_reducible apply sound_ite <;> intro)
    | with_reducible apply State.feedCrc_sound
    | with_reducible apply State.updPort_sound
    | with_reducible refine State.each_sound ?_ _ ?_
    | split

theorem State.studyWrite_sound {s0 s : State} (h : Sound s0 s) {a1 a2} : Sound s0 (State.studyWrite s a1 a2) := by
  have e := @rfl _ @State.studyWrite
  conv at e => rhs; delta State.studyWrite
  rw [e]; clear e; beta_reduce
  have hw : Snd s0 (s.fwWrite 0x0D a1 a2) := State.fwWrite_sound h
  split
  · rename_i e
    exact State.ueRecord_sound (Snd.of_eq e hw)
  · rename_i e
    exact Snd.of_eq e hw

theorem State.batchClose_sound {s0 s : State} (h : Sound s0 s) : Sound s0 (State.batchClose s) := by
  have e := @rfl _ @State.batchClose
  conv at e => rhs; delta State.batchClose
  rw [e]; clear e; beta_reduce
  repeat' first
    | with_reducible assumption
    | (fail_if_no_progress (extract_lets -underBinder +onlyGivenNames x); first | (have hT : (type_of% x) = (State) := (by with_reducible rfl); clear hT; refine (fun (hx : Sound s0 x) => ?_) ?_; (on_goal 1 => clear_value x); (on_goal 2 => subst x)) | (have hT : (type_of% x) = (Nat) := (by with_reducible rfl); clear hT; clear_value x) | (have hT : (type_of% x) = (BitVec 32) := (by with_reducible rfl); clear hT; clear_value x) | (have hT : (type_of% x) = (Attic) := (by with_reducible rfl); clear hT) | (clear_value x) | fail)
    | (with_reducible apply sound_ite <;> intro)
    | with_reducible apply State.studyWrite_sound
    | with_reducible apply State.setReg_sound
    | (with_reducible refine Sound.upd ?_ ?_; (on_goal 2 => with_reducible rfl); with_reducible assumption)

theorem State.batchAdd_sound {s0 s : State} (h : Sound s0 s) {a1} : Sound s0 (State.batchAdd s a1) := by
  have e := @rfl _ @State.batchAdd
  conv at e => rhs; delta State.batchAdd
  rw [e]; clear e; beta_reduce
  repeat' first
    | with_reducible assumption
    | (fail_if_no_progress (extract_lets -underBinder +onlyGivenNames x); first | (have hT : (type_of% x) = (State) := (by with_reducible rfl); clear hT; refine (fun (hx : Sound s0 x) => ?_) ?_; (on_goal 1 => clear_value x); (on_goal 2 => subst x)) | (have hT : (type_of% x) = (Attic) := (by with_reducible rfl); clear hT) | (skip) | fail)
    | (with_reducible apply sound_ite <;> intro)
    | with_reducible apply State.batchClose_sound
    | (with_reducible refine Sound.upd ?_ ?_; (on_goal 2 => with_reducible rfl); with_reducible assumption)

theorem State.receiptsTake_sound {s0 s : State} (h : Sound s0 s) {a1} : Sound s0 (State.receiptsTake s a1) := by
  have e := @rfl _ @State.receiptsTake
  conv at e => rhs; delta State.receiptsTake
  rw [e]; clear e; beta_reduce
  repeat' first
    | with_reducible assumption
    | intro _ _ _
    | (with_reducible apply sound_ite <;> intro)
    | with_reducible apply State.updIg_sound
    | with_reducible apply State.batchAdd_sound
    | with_reducible refine State.each_sound ?_ _ ?_

theorem State.receiptCut_sound {s0 s : State} (h : Sound s0 s) {a1} : Sound s0 (State.receiptCut s a1) := by
  have e := @rfl _ @State.receiptCut
  conv at e => rhs; delta State.receiptCut
  rw [e]; clear e; beta_reduce
  repeat' first
    | with_reducible assumption
    | (fail_if_no_progress (extract_lets -underBinder +onlyGivenNames x); first | (have hT : (type_of% x) = (State) := (by with_reducible rfl); clear hT; refine (fun (hx : Sound s0 x) => ?_) ?_; (on_goal 1 => clear_value x); (on_goal 2 => subst x)) | (clear_value x) | fail)
    | (with_reducible apply sound_ite <;> intro)
    | with_reducible apply State.updIg_sound
    | with_reducible apply State.errRec_sound
    | with_reducible apply State.incReg_sound
    | with_reducible apply State.receiptsTake_sound
    | with_reducible apply State.setW64_sound

theorem beginReceiptConfig_sound {s0 s : State} (h : Sound s0 s) {a0} : Snd s0 (beginReceiptConfig a0 s) := by
  have e := @rfl _ @beginReceiptConfig
  conv at e => rhs; delta beginReceiptConfig
  rw [e]; clear e; beta_reduce
  repeat' first
    | with_reducible assumption
    | (fail_if_no_progress (extract_lets -underBinder +onlyGivenNames x); first | (have hT : (type_of% x) = (State) := (by with_reducible rfl); clear hT; refine (fun (hx : Sound s0 x) => ?_) ?_; (on_goal 1 => clear_value x); (on_goal 2 => subst x)) | (have hT : (type_of% x) = (Nat) := (by with_reducible rfl); clear hT; clear_value x) | (have hT : (type_of% x) = (Packet) := (by with_reducible rfl); clear hT; clear_value x) | fail)
    | (with_reducible apply sound_ite <;> intro)
    | with_reducible apply State.updIg_sound
    | with_reducible apply State.setW64_sound
    | with_reducible apply State.setReg_sound
    | split
    | with_reducible apply snd_pair

theorem State.crcClose_sound {s0 s : State} (h : Sound s0 s) {a1} : Sound s0 (State.crcClose s a1) := by
  have e := @rfl _ @State.crcClose
  conv at e => rhs; delta State.crcClose
  rw [e]; clear e; beta_reduce
  repeat' first
    | with_reducible assumption
    | intro _ _ _
    | (fail_if_no_progress (extract_lets -underBinder +onlyGivenNames x); first | (have hT : (type_of% x) = (State) := (by with_reducible rfl); clear hT; refine (fun (hx : Sound s0 x) => ?_) ?_; (on_goal 1 => clear_value x); (on_goal 2 => subst x)) | (have hT : (type_of% x) = (Nat) := (by with_reducible rfl); clear hT; clear_value x) | (have hT : (type_of% x) = (BitVec 32) := (by with_reducible rfl); clear hT; clear_value x) | (have hT : (type_of% x) = (Bool) := (by with_reducible rfl); clear hT; clear_value x) | (have hT : ∃ α : Type, (type_of% x) = (α × State) := ⟨_, rfl⟩; clear hT; refine (fun (hx : Snd s0 x) => ?_) ?_; (on_goal 1 => clear_value x); (on_goal 2 => subst x)) | (clear_value x) | fail)
    | (with_reducible apply sound_ite <;> intro)
    | with_reducible apply State.setReg_sound
    | with_reducible apply State.setW64_sound
    | with_reducible apply State.setB_sound
    | with_reducible apply State.echoClose_sound
    | with_reducible apply State.incReg_sound
    | with_reducible apply State.pulse_sound
    | with_reducible apply State.updIg_sound
    | with_reducible refine State.each_sound ?_ _ ?_
    | with_reducible refine foldl_snd _ ?_ ?_
    | (with_reducible apply Snd.out; with_reducible assumption)
    | with_reducible apply snd_pair

theorem batchStep_sound {s0 s : State} (h : Sound s0 s) {n a k : Nat} {r : Option (List Byte) × State} {more : List Byte → (Nat × Bool) × State}
    (hr : Snd s0 r) (hm : ∀ b, Snd s0 (more b)) : Snd s0 (batchStep n a k s r more) := by
  unfold batchStep
  split
  · exact snd_pair hr.out
  · split
    · exact snd_pair h
    · exact hm _

theorem batchesOut_sound {s0 s : State} (h : Sound s0 s) {a0 a1 a2 a3 a4 a5} : Snd s0 (batchesOut a0 a1 a2 a3 a4 a5 s) := by
  induction a2 generalizing s a3 a4 a5 with
  | zero => exact snd_pair h
  | succ c ih =>
    unfold batchesOut
    have hr : Snd s0 (s.batchRead a3) := State.batchRead_sound h
    exact batchStep_sound h hr fun b => ih (State.hostWrite_sound hr.out)

theorem beginReceiptRead_sound {s0 s : State} (h : Sound s0 s) {a0} : Snd s0 (beginReceiptRead a0 s) := by
  have e := @rfl _ @beginReceiptRead
  conv at e => rhs; delta beginReceiptRead
  rw [e]; clear e; beta_reduce
  repeat' first
    | with_reducible assumption
    | (fail_if_no_progress (extract_lets -underBinder +onlyGivenNames x); first | (have hT : (type_of% x) = (Nat) := (by with_reducible rfl); clear hT; clear_value x) | (have hT : (type_of% x) = (BitVec 32) := (by with_reducible rfl); clear hT; clear_value x) | (have hT : (type_of% x) = (Packet) := (by with_reducible rfl); clear hT; clear_value x) | (have hT : ∃ α : Type, (type_of% x) = (α × State) := ⟨_, rfl⟩; clear hT; refine (fun (hx : Snd s0 x) => ?_) ?_; (on_goal 1 => clear_value x); (on_goal 2 => subst x)) | fail)
    | (with_reducible apply snd_ite <;> intro)
    | with_reducible apply batchesOut_sound
    | (with_reducible apply Snd.out; with_reducible assumption)
    | with_reducible apply snd_pair

theorem beginCrcRectSet_sound {s0 s : State} (h : Sound s0 s) {a0} : Snd s0 (beginCrcRectSet a0 s) := by
  have e := @rfl _ @beginCrcRectSet
  conv at e => rhs; delta beginCrcRectSet
  rw [e]; clear e; beta_reduce
  repeat' first
    | with_reducible assumption
    | (fail_if_no_progress (extract_lets -underBinder +onlyGivenNames x); first | (have hT : (type_of% x) = (State) := (by with_reducible rfl); clear hT; refine (fun (hx : Sound s0 x) => ?_) ?_; (on_goal 1 => clear_value x); (on_goal 2 => subst x)) | (have hT : (type_of% x) = (Nat) := (by with_reducible rfl); clear hT; clear_value x) | (have hT : (type_of% x) = (Packet) := (by with_reducible rfl); clear hT; clear_value x) | fail)
    | with_reducible apply State.stage_sound
    | with_reducible apply commitAfter_sound
    | split
    | with_reducible apply snd_pair

end Sys2Proof.Machine
end

