-- ==== Sys2Proof/Laws/NioftSound.lean ====
section
/-! SUPPORT. The operations of Machine/Nioft.lean are sound: see Laws/Sound.lean. -/

set_option linter.all false

namespace Sys2Proof.Machine

theorem State.nioCorrected_sound {s0 s : State} (h : Sound s0 s) {a1 a2 a3 a4} : Sound s0 (State.nioCorrected s a1 a2 a3 a4) := by
  have e := @rfl _ @State.nioCorrected
  conv at e => rhs; delta State.nioCorrected
  rw [e]; clear e; beta_reduce
  repeat' first
    | with_reducible assumption
    | with_reducible apply State.corrLog_sound

theorem State.nioSettle_sound {s0 s : State} (h : Sound s0 s) {a1} : Sound s0 (State.nioSettle s a1) := by
  have e := @rfl _ @State.nioSettle
  conv at e => rhs; delta State.nioSettle
  rw [e]; clear e; beta_reduce
  repeat' first
    | with_reducible assumption
    | (with_reducible apply sound_ite <;> intro)
    | with_reducible apply State.setB_sound
    | with_reducible apply State.finish_sound

theorem State.setCore_sound {s0 s : State} (h : Sound s0 s) {a1 a2} : Sound s0 (State.setCore s a1 a2) := by
  have e := @rfl _ @State.setCore
  conv at e => rhs; delta State.setCore
  rw [e]; clear e; beta_reduce
  repeat' (with_reducible refine Sound.upd ?_ ?_; (on_goal 2 => with_reducible rfl); with_reducible assumption)

theorem State.updCore_sound {s0 s : State} (h : Sound s0 s) {a1 a2} : Sound s0 (State.updCore s a1 a2) := by
  have e := @rfl _ @State.updCore
  conv at e => rhs; delta State.updCore
  rw [e]; clear e; beta_reduce
  repeat' first
    | with_reducible assumption
    | with_reducible apply State.setCore_sound

theorem State.nioStopAt_sound {s0 s : State} (h : Sound s0 s) {a1 a2 a3} : Sound s0 (State.nioStopAt s a1 a2 a3) := by
  have e := @rfl _ @State.nioStopAt
  conv at e => rhs; delta State.nioStopAt
  rw [e]; clear e; beta_reduce
  repeat' first
    | with_reducible assumption
    | (fail_if_no_progress (extract_lets -underBinder +onlyGivenNames x); first | (have hT : (type_of% x) = (State) := (by with_reducible rfl); clear hT; refine (fun (hx : Sound s0 x) => ?_) ?_; (on_goal 1 => clear_value x); (on_goal 2 => subst x)) | fail)
    | with_reducible apply State.setReg_sound
    | with_reducible apply State.setB_sound
    | with_reducible apply State.nioSettle_sound
    | with_reducible apply State.updCore_sound

theorem State.nioTrap_sound {s0 s : State} (h : Sound s0 s) {a1 a2 a3 a4} : Sound s0 (State.nioTrap s a1 a2 a3 a4) := by
  have e := @rfl _ @State.nioTrap
  conv at e => rhs; delta State.nioTrap
  rw [e]; clear e; beta_reduce
  repeat' first
    | with_reducible assumption
    | (fail_if_no_progress (extract_lets -underBinder +onlyGivenNames x); first | (have hT : (type_of% x) = (State) := (by with_reducible rfl); clear hT; refine (fun (hx : Sound s0 x) => ?_) ?_; (on_goal 1 => clear_value x); (on_goal 2 => subst x)) | (have hT : (type_of% x) = (Attic) := (by with_reducible rfl); clear hT) | (clear_value x) | fail)
    | (with_reducible apply sound_ite <;> intro)
    | with_reducible apply State.setReg_sound
    | with_reducible apply State.incReg_sound
    | with_reducible apply State.nioStopAt_sound
    | with_reducible apply State.pulse_sound
    | with_reducible apply State.setB_sound
    | with_reducible apply State.errRec_sound
    | (with_reducible refine Sound.upd ?_ ?_; (on_goal 2 => with_reducible rfl); with_reducible assumption)

theorem State.dataWrite_sound {s0 s : State} (h : Sound s0 s) {a1 a2 a3 a4} : SoundO s0 (State.dataWrite s a1 a2 a3 a4) := by
  have e := @rfl _ @State.dataWrite
  conv at e => rhs; delta State.dataWrite
  rw [e]; clear e; beta_reduce
  repeat' first
    | with_reducible assumption
    | (fail_if_no_progress (extract_lets -underBinder +onlyGivenNames x); first | (have hT : (type_of% x) = (State) := (by with_reducible rfl); clear hT; refine (fun (hx : Sound s0 x) => ?_) ?_; (on_goal 1 => clear_value x); (on_goal 2 => subst x)) | (clear_value x) | fail)
    | (with_reducible apply sound_ite <;> intro)
    | (with_reducible apply soundO_ite <;> intro)
    | with_reducible apply State.nioCorrected_sound
    | with_reducible apply State.updCore_sound
    | with_reducible exact soundO_none
    | with_reducible apply soundO_some
    | split

theorem State.nioFetch_sound {s0 s : State} (h : Sound s0 s) {a1 a2 a3} : Snd s0 (State.nioFetch s a1 a2 a3) := by
  have e := @rfl _ @State.nioFetch
  conv at e => rhs; delta State.nioFetch
  rw [e]; clear e; beta_reduce
  repeat' first
    | with_reducible assumption
    | intro _ _ _
    | (fail_if_no_progress (extract_lets -underBinder +onlyGivenNames x); first | (have hT : (type_of% x) = (List Nat) := (by with_reducible rfl); clear hT; clear_value x) | (clear_value x) | fail)
    | (with_reducible apply snd_ite <;> intro)
    | with_reducible apply State.nioCorrected_sound
    | with_reducible refine State.each_sound ?_ _ ?_
    | split
    | with_reducible apply snd_pair

theorem State.nioVector_sound {s0 s : State} (h : Sound s0 s) {a1 a2} : Snd s0 (State.nioVector s a1 a2) := by
  have e := @rfl _ @State.nioVector
  conv at e => rhs; delta State.nioVector
  rw [e]; clear e; beta_reduce
  repeat' first
    | with_reducible assumption
    | with_reducible apply State.nioFetch_sound
    | (with_reducible refine Sound.upd ?_ ?_; (on_goal 2 => with_reducible rfl); refine Snd.of_eq (by assumption) ?_)
    | split
    | with_reducible apply snd_pair

theorem State.setIpl_sound {s0 s : State} (h : Sound s0 s) {a1 a2} : Sound s0 (State.setIpl s a1 a2) := by
  have e := @rfl _ @State.setIpl
  conv at e => rhs; delta State.setIpl
  rw [e]; clear e; beta_reduce
  repeat' first
    | with_reducible assumption
    | with_reducible apply State.setF_sound

theorem State.nioBoundary_sound {s0 s : State} (h : Sound s0 s) {a1} : Sound s0 (State.nioBoundary s a1) := by
  have e := @rfl _ @State.nioBoundary
  conv at e => rhs; delta State.nioBoundary
  rw [e]; clear e; beta_reduce
  repeat' first
    | with_reducible assumption
    | (fail_if_no_progress (extract_lets -underBinder +onlyGivenNames x); first | (clear_value x) | fail)
    | (with_reducible apply sound_ite <;> intro)
    | with_reducible apply State.nioTrap_sound
    | with_reducible apply State.nioStopAt_sound
    | with_reducible apply State.updCore_sound

theorem State.spend_sound {s0 s : State} (h : Sound s0 s) {a1 a2} : Sound s0 (State.spend s a1 a2) := by
  have e := @rfl _ @State.spend
  conv at e => rhs; delta State.spend
  rw [e]; clear e; beta_reduce
  repeat' first
    | with_reducible assumption
    | with_reducible apply State.setReg_sound
    | with_reducible apply State.setW64_sound

theorem State.setPc_sound {s0 s : State} (h : Sound s0 s) {a1 a2} : Sound s0 (State.setPc s a1 a2) := by
  have e := @rfl _ @State.setPc
  conv at e => rhs; delta State.setPc
  rw [e]; clear e; beta_reduce
  repeat' first
    | with_reducible assumption
    | with_reducible apply State.setF_sound

theorem State.nioEnter_sound {s0 s : State} (h : Sound s0 s) {a1 a2 a3} : Sound s0 (State.nioEnter s a1 a2 a3) := by
  have e := @rfl _ @State.nioEnter
  conv at e => rhs; delta State.nioEnter
  rw [e]; clear e; beta_reduce
  repeat' first
    | with_reducible assumption
    | (fail_if_no_progress (extract_lets -underBinder +onlyGivenNames x); first | (have hT : (type_of% x) = (State) := (by with_reducible rfl); clear hT; refine (fun (hx : Sound s0 x) => ?_) ?_; (on_goal 1 => clear_value x); (on_goal 2 => subst x)) | (have hT : (type_of% x) = (Nat) := (by with_reducible rfl); clear hT; clear_value x) | (clear_value x) | fail)
    | (with_reducible apply sound_ite <;> intro)
    | with_reducible apply State.nioTrap_sound
    | with_reducible apply State.dataWrite_sound
    | with_reducible apply State.setB_sound
    | with_reducible apply State.updCore_sound
    | with_reducible apply State.nioVector_sound
    | with_reducible apply State.setIpl_sound
    | with_reducible apply State.nioBoundary_sound
    | with_reducible apply State.spend_sound
    | with_reducible apply State.setPc_sound
    | (with_reducible refine Sound.upd ?_ ?_; (on_goal 2 => with_reducible rfl); refine Snd.of_eq (by assumption) ?_)
    | split
    | refine SoundO.of_eq (by assumption) ?_

theorem State.nioStop_sound {s0 s : State} (h : Sound s0 s) {a1} : Sound s0 (State.nioStop s a1) := by
  have e := @rfl _ @State.nioStop
  conv at e => rhs; delta State.nioStop
  rw [e]; clear e; beta_reduce
  repeat' first
    | with_reducible assumption
    | (with_reducible apply sound_ite <;> intro)
    | with_reducible apply State.nioStopAt_sound
    | with_reducible apply State.updCore_sound

theorem beginNioftStop_sound {s0 s : State} (h : Sound s0 s) {a0} : Snd s0 (beginNioftStop a0 s) := by
  have e := @rfl _ @beginNioftStop
  conv at e => rhs; delta beginNioftStop
  rw [e]; clear e; beta_reduce
  repeat' first
    | with_reducible assumption
    | (fail_if_no_progress (extract_lets -underBinder +onlyGivenNames x); first | (have hT : (type_of% x) = (Nat) := (by with_reducible rfl); clear hT; clear_value x) | (have hT : (type_of% x) = (Packet) := (by with_reducible rfl); clear hT; clear_value x) | fail)
    | (with_reducible apply snd_ite <;> intro)
    | with_reducible apply State.nioStop_sound
    | split
    | with_reducible apply snd_pair

theorem State.nioClear_sound {s0 s : State} (h : Sound s0 s) {a1} : Sound s0 (State.nioClear s a1) := by
  have e := @rfl _ @State.nioClear
  conv at e => rhs; delta State.nioClear
  rw [e]; clear e; beta_reduce
  repeat' first
    | with_reducible assumption
    | with_reducible apply State.setB_sound
    | with_reducible apply State.updCore_sound

theorem beginNioftLoad_sound {s0 s : State} (h : Sound s0 s) {a0} : Snd s0 (beginNioftLoad a0 s) := by
  have e := @rfl _ @beginNioftLoad
  conv at e => rhs; delta beginNioftLoad
  rw [e]; clear e; beta_reduce
  repeat' first
    | with_reducible assumption
    | (fail_if_no_progress (extract_lets -underBinder +onlyGivenNames x); first | (have hT : (type_of% x) = (Nat) := (by with_reducible rfl); clear hT; clear_value x) | (have hT : (type_of% x) = (Packet) := (by with_reducible rfl); clear hT; clear_value x) | fail)
    | (with_reducible apply snd_ite <;> intro)
    | with_reducible apply State.devRead_sound
    | with_reducible apply State.nioClear_sound
    | (with_reducible refine Sound.upd ?_ ?_; (on_goal 2 => with_reducible rfl); refine Snd.of_eq (by assumption) ?_)
    | split
    | with_reducible apply snd_pair

theorem State.nioStart_sound {s0 s : State} (h : Sound s0 s) {a1 a2} : Sound s0 (State.nioStart s a1 a2) := by
  have e := @rfl _ @State.nioStart
  conv at e => rhs; delta State.nioStart
  rw [e]; clear e; beta_reduce
  repeat' first
    | with_reducible assumption
    | intro _ _ _
    | (fail_if_no_progress (extract_lets -underBinder +onlyGivenNames x); first | (have hT : (type_of% x) = (State) := (by with_reducible rfl); clear hT; refine (fun (hx : Sound s0 x) => ?_) ?_; (on_goal 1 => clear_value x); (on_goal 2 => subst x)) | fail)
    | (with_reducible apply sound_ite <;> intro)
    | with_reducible apply State.updCore_sound
    | with_reducible apply State.setReg_sound
    | with_reducible apply State.setW64_sound
    | with_reducible apply State.setB_sound
    | with_reducible refine State.each_sound ?_ _ ?_

theorem beginNioftStart_sound {s0 s : State} (h : Sound s0 s) {a0} : Snd s0 (beginNioftStart a0 s) := by
  have e := @rfl _ @beginNioftStart
  conv at e => rhs; delta beginNioftStart
  rw [e]; clear e; beta_reduce
  repeat' first
    | with_reducible assumption
    | (fail_if_no_progress (extract_lets -underBinder +onlyGivenNames x); first | (have hT : (type_of% x) = (Nat) := (by with_reducible rfl); clear hT; clear_value x) | (have hT : (type_of% x) = (Packet) := (by with_reducible rfl); clear hT; clear_value x) | fail)
    | with_reducible apply State.nioStart_sound
    | split
    | with_reducible apply snd_pair

theorem State.nioScrub_sound {s0 s : State} (h : Sound s0 s) {a1 a2 a3} : Sound s0 (State.nioScrub s a1 a2 a3) := by
  have e := @rfl _ @State.nioScrub
  conv at e => rhs; delta State.nioScrub
  rw [e]; clear e; beta_reduce
  repeat' first
    | with_reducible assumption
    | (fail_if_no_progress (extract_lets -underBinder +onlyGivenNames x); first | (clear_value x) | fail)
    | (with_reducible apply sound_ite <;> intro)
    | with_reducible apply State.updCore_sound
    | with_reducible apply State.nioCorrected_sound
    | split

theorem State.nioDigest_sound {s0 s : State} (h : Sound s0 s) {a1 a2} : Sound s0 (State.nioDigest s a1 a2) := by
  have e := @rfl _ @State.nioDigest
  conv at e => rhs; delta State.nioDigest
  rw [e]; clear e; beta_reduce
  repeat' first
    | with_reducible assumption
    | intro _ _ _
    | with_reducible apply State.setReg_sound
    | with_reducible refine State.each_sound ?_ _ ?_

theorem State.nioPlace_sound {s0 s : State} (h : Sound s0 s) {a1 a2 a3 a4} : SoundO s0 (State.nioPlace s a1 a2 a3 a4) := by
  have e := @rfl _ @State.nioPlace
  conv at e => rhs; delta State.nioPlace
  rw [e]; clear e; beta_reduce
  repeat' first
    | with_reducible assumption
    | (fail_if_no_progress (extract_lets -underBinder +onlyGivenNames x); first | (have hT : (type_of% x) = (List Nat) := (by with_reducible rfl); clear hT; clear_value x) | fail)
    | (with_reducible apply soundO_ite <;> intro)
    | with_reducible apply State.updCore_sound
    | with_reducible apply State.nioClear_sound
    | with_reducible exact soundO_none
    | with_reducible apply soundO_some

theorem State.nioSet_sound {s0 s : State} (h : Sound s0 s) {a1 a2 a3 a4} : Sound s0 (State.nioSet s a1 a2 a3 a4) := by
  have e := @rfl _ @State.nioSet
  conv at e => rhs; delta State.nioSet
  rw [e]; clear e; beta_reduce
  repeat' first
    | with_reducible assumption
    | with_reducible apply State.updCore_sound
    | with_reducible apply State.setReg_sound

theorem State.nioLoadImg_sound {s0 s : State} (h : Sound s0 s) {a1 a2 a3} : Sound s0 (State.nioLoadImg s a1 a2 a3) := by
  have e := @rfl _ @State.nioLoadImg
  conv at e => rhs; delta State.nioLoadImg
  rw [e]; clear e; beta_reduce
  repeat' first
    | with_reducible assumption
    | (fail_if_no_progress (extract_lets -underBinder +onlyGivenNames x); first | (have hT : (type_of% x) = (State) := (by with_reducible rfl); clear hT; refine (fun (hx : Sound s0 x) => ?_) ?_; (on_goal 1 => clear_value x); (on_goal 2 => subst x)) | (have hT : (type_of% x) = (Nat) := (by with_reducible rfl); clear hT; clear_value x) | (have hT : (type_of% x) = (BitVec 32) := (by with_reducible rfl); clear hT; clear_value x) | (clear_value x) | fail)
    | with_reducible apply State.finish_sound
    | with_reducible apply State.nioPlace_sound
    | with_reducible apply State.measure_sound
    | with_reducible apply State.nioDigest_sound
    | with_reducible apply State.setReg_sound
    | with_reducible apply State.nioSet_sound
    | split
    | refine SoundO.of_eq (by assumption) ?_

theorem State.setSpec_sound {s0 s : State} (h : Sound s0 s) {a1 a2 a3} : Sound s0 (State.setSpec s a1 a2 a3) := by
  have e := @rfl _ @State.setSpec
  conv at e => rhs; delta State.setSpec
  rw [e]; clear e; beta_reduce
  repeat' first
    | with_reducible assumption
    | with_reducible apply State.updCore_sound
    | with_reducible apply State.setIpl_sound
    | split

theorem State.dataRead_sound {s0 s : State} (h : Sound s0 s) {a1 a2 a3} : Snd s0 (State.dataRead s a1 a2 a3) := by
  have e := @rfl _ @State.dataRead
  conv at e => rhs; delta State.dataRead
  rw [e]; clear e; beta_reduce
  repeat' first
    | with_reducible assumption
    | (fail_if_no_progress (extract_lets -underBinder +onlyGivenNames x); first | (clear_value x) | fail)
    | with_reducible apply State.nioCorrected_sound
    | split
    | with_reducible apply snd_pair

theorem State.nioCtlWrite_sound {s0 s : State} (h : Sound s0 s) {a1 a2} : Sound s0 (State.nioCtlWrite s a1 a2) := by
  have e := @rfl _ @State.nioCtlWrite
  conv at e => rhs; delta State.nioCtlWrite
  rw [e]; clear e; beta_reduce
  repeat' first
    | with_reducible assumption
    | intro _
    | (fail_if_no_progress (extract_lets -underBinder +onlyGivenNames x); first | (have hT : (type_of% x) = (State) := (by with_reducible rfl); clear hT; refine (fun (hx : Sound s0 x) => ?_) ?_; (on_goal 1 => clear_value x); (on_goal 2 => subst x)) | (have hT : (type_of% x) = (Nat) := (by with_reducible rfl); clear hT; clear_value x) | (have hT : (type_of% x) = (BitVec 32) := (by with_reducible rfl); clear hT; clear_value x) | (have hT : ∃ α : Type, (type_of% x) = (α → State) := ⟨_, rfl⟩; clear hT; refine (fun (hx : ∀ a, Sound s0 (x a)) => ?_) ?_; (on_goal 1 => clear_value x); (on_goal 2 => subst x)) | (clear_value x) | fail)
    | (with_reducible apply sound_ite <;> intro)
    | with_reducible apply State.setReg_sound
    | with_reducible apply State.nioStop_sound
    | with_reducible apply State.setB_sound
    | with_reducible apply State.setF_sound
    | with_reducible apply State.measure_sound
    | with_reducible apply State.nioDigest_sound
    | with_reducible apply State.nioStart_sound
    | with_reducible apply State.nioSet_sound
    | with_reducible apply_assumption -exfalso -symm

theorem State.nioLoadRun_sound {s0 s : State} (h : Sound s0 s) {a1 a2} : Sound s0 (State.nioLoadRun s a1 a2) := by
  have e := @rfl _ @State.nioLoadRun
  conv at e => rhs; delta State.nioLoadRun
  rw [e]; clear e; beta_reduce
  repeat' first
    | with_reducible assumption
    | (fail_if_no_progress (extract_lets -underBinder +onlyGivenNames x); first | (have hT : ∃ α : Type, (type_of% x) = (α × State) := ⟨_, rfl⟩; clear hT; refine (fun (hx : Snd s0 x) => ?_) ?_; (on_goal 1 => clear_value x); (on_goal 2 => subst x)) | fail)
    | with_reducible apply State.devRead_sound
    | with_reducible apply State.finish_sound
    | with_reducible apply State.nioLoadImg_sound
    | (with_reducible apply Snd.out; with_reducible assumption)
    | split

theorem State.nioLoadDone_sound {s0 s : State} (h : Sound s0 s) {a1} : Sound s0 (State.nioLoadDone s a1) := by
  have e := @rfl _ @State.nioLoadDone
  conv at e => rhs; delta State.nioLoadDone
  rw [e]; clear e; beta_reduce
  repeat' first
    | with_reducible assumption
    | with_reducible apply State.nioLoadRun_sound
    | split

end Sys2Proof.Machine
end

