-- ==== Sys2Proof/Laws/AtticSound.lean ====
section
/-! SUPPORT. The operations of Machine/Attic.lean are sound: see Laws/Sound.lean. -/

set_option linter.all false

namespace Sys2Proof.Machine

theorem State.setLogBlk_sound {s0 s : State} (h : Sound s0 s) {a1 a2} : Sound s0 (State.setLogBlk s a1 a2) := by
  have e := @rfl _ @State.setLogBlk
  conv at e => rhs; delta State.setLogBlk
  rw [e]; clear e; beta_reduce
  repeat' first
    | (fail_if_no_progress (extract_lets -underBinder +onlyGivenNames x); first | (have hT : (type_of% x) = (Attic) := (by with_reducible rfl); clear hT) | fail)
    | (with_reducible refine Sound.upd ?_ ?_; (on_goal 2 => with_reducible rfl); with_reducible assumption)

theorem State.logShow_sound {s0 s : State} (h : Sound s0 s) {a1 a2} : Sound s0 (State.logShow s a1 a2) := by
  have e := @rfl _ @State.logShow
  conv at e => rhs; delta State.logShow
  rw [e]; clear e; beta_reduce
  repeat' first
    | with_reducible assumption
    | (fail_if_no_progress (extract_lets -underBinder +onlyGivenNames x); first | (have hT : (type_of% x) = (State) := (by with_reducible rfl); clear hT; refine (fun (hx : Sound s0 x) => ?_) ?_; (on_goal 1 => clear_value x); (on_goal 2 => subst x)) | (have hT : (type_of% x) = (Attic) := (by with_reducible rfl); clear hT) | fail)
    | with_reducible apply State.setReg_sound
    | with_reducible apply State.setF_sound
    | (with_reducible refine Sound.upd ?_ ?_; (on_goal 2 => with_reducible rfl); with_reducible assumption)
    | split

theorem State.setFuses_sound {s0 s : State} (h : Sound s0 s) {f : Fuses} (hf : Fuses.le s.att.fuses f) : Sound s0 (s.setFuses f) :=
  ⟨h.pending, Fuses.le_trans h.fuses hf, fun c => (canonical_iff _).2 ((canonical_iff s).1 (h.canon c))⟩

/-- An operation of a fuse update only blows fuses (R478). -/
theorem fuseOp_le {is signer p f op g} (h : fuseOp is signer p f op = some g) : Fuses.le f g := by
  cases op with
  | progSlot =>
    simp only [fuseOp] at h
    split at h
    · split at h
      · cases h; exact Fuses.le_refl _
      · cases h
    · rename_i hn
      cases h
      refine ⟨fun k x e => ?_, fun _ e => e, fun _ e => e, rfl, Nat.le_refl _, fun _ => rfl, fun e => e⟩
      unfold Fuses.slot at e hn ⊢
      rw [Tbl.get_set_ne]
      · exact e
      · rintro rfl
        rw [hn] at e
        cases e
  | revoke =>
    simp only [fuseOp, Option.ite_none_left_eq_some, Option.some.injEq] at h
    obtain ⟨-, -, rfl⟩ := h
    exact ⟨fun _ _ e => e, fun k e => by simp [Nat.testBit_or, e], fun _ e => e, rfl, Nat.le_refl _, fun _ => rfl, fun e => e⟩
  | raiseSvn =>
    simp only [fuseOp] at h
    split at h
    · cases h
    · split at h
      · cases h; exact Fuses.le_refl _
      · split at h
        · cases h
          exact ⟨fun _ _ e => e, fun _ e => e, fun _ e => e, rfl, Nat.le_max_left _ _, fun _ => rfl, fun e => e⟩
        · cases h
  | mantelKey =>
    simp only [fuseOp] at h
    split at h
    · split at h
      · cases h; exact Fuses.le_refl _
      · cases h
    · rename_i hn
      cases h
      exact ⟨fun _ _ e => e, fun _ e => e, (fun m (e : f.mantel = some m) => by rw [hn] at e; cases e), rfl, Nat.le_refl _, fun _ => rfl, fun e => e⟩
  | setCfg =>
    simp only [fuseOp] at h
    split at h
    · cases h
    · rename_i hc
      cases h
      refine ⟨fun _ _ e => e, fun _ e => e, fun _ e => e, rfl, Nat.le_refl _, fun e => ?_, fun e => by simp [e]⟩
      show (if _ then _ else _) = _
      split
      · rfl
      · rename_i ha
        by_contra hne
        exact hc ⟨ha, .inr (.inr ⟨e, fun k => hne k.symm⟩)⟩

/-- A fuse update only blows fuses (R478). -/
theorem fuseUpdate_le (is : List Img) (bad : List Nat) (i : Img) (f : Fuses) : Fuses.le f (fuseUpdate is bad i f).fuses := by
  unfold fuseUpdate
  extract_lets signer
  clear_value signer
  have key : ∀ (l : List FuseOp) (r : FuseRun), Fuses.le f r.fuses → Fuses.le f (l.foldl (fun r op =>
      if numAt i.payload 0x20 4 / 2 ^ op.bit % 2 = 0 then r
      else match fuseOp is signer i.payload r.fuses op with
        | none => { r with refused := r.refused + 2 ^ op.bit }
        | some f' =>
          if f' = r.fuses then r
          else if bad.contains op.bit then { r with failed := true }
          else { r with fuses := f', applied := r.applied + 2 ^ op.bit }) r).fuses := by
    intro l
    induction l with
    | nil => exact fun r h => h
    | cons op l ih =>
      intro r h
      refine ih _ ?_
      beta_reduce
      split
      · exact h
      · cases e : fuseOp is signer i.payload r.fuses op with
        | none => exact h
        | some g =>
          have hg := fuseOp_le e
          dsimp only
          split
          · exact h
          · split
            · exact h
            · exact Fuses.le_trans h hg
  exact key _ _ (Fuses.le_refl f)

theorem State.applyUpdates_sound {s0 s : State} (h : Sound s0 s) {a1 a2} : Sound s0 (State.applyUpdates s a1 a2) := by
  have e := @rfl _ @State.applyUpdates
  conv at e => rhs; delta State.applyUpdates
  rw [e]; clear e; beta_reduce
  refine State.each_sound h _ fun t i ht => ?_
  extract_lets -underBinder +onlyGivenNames f
  split
  · extract_lets -underBinder +onlyGivenNames r u
    have hu : Sound s0 u := State.setFuses_sound ht (fuseUpdate_le _ _ _ _)
    clear_value u r
    repeat' first
      | with_reducible assumption
      | (fail_if_no_progress (extract_lets -underBinder +onlyGivenNames x); first | (have hT : (type_of% x) = (State) := (by with_reducible rfl); clear hT; refine (fun (hx : Sound s0 x) => ?_) ?_; (on_goal 1 => clear_value x); (on_goal 2 => subst x)) | (have hT : (type_of% x) = (Attic) := (by with_reducible rfl); clear hT) | fail)
      | (with_reducible apply sound_ite <;> intro)
      | with_reducible apply State.setB_sound
      | with_reducible apply State.measure_sound
      | (with_reducible refine Sound.upd ?_ ?_; (on_goal 2 => with_reducible rfl); with_reducible assumption)
  · exact ht

theorem State.bootFail_sound {s0 s : State} (h : Sound s0 s) {a1 a2} : Sound s0 (State.bootFail s a1 a2) := by
  have e := @rfl _ @State.bootFail
  conv at e => rhs; delta State.bootFail
  rw [e]; clear e; beta_reduce
  repeat' first
    | with_reducible assumption
    | with_reducible apply State.setB_sound
    | with_reducible apply State.setReg_sound

theorem State.fwLoad_sound {s0 s : State} (h : Sound s0 s) {a1 a2} : Sound s0 (State.fwLoad s a1 a2) := by
  have e := @rfl _ @State.fwLoad
  conv at e => rhs; delta State.fwLoad
  rw [e]; clear e; beta_reduce
  repeat' first
    | with_reducible assumption
    | with_reducible apply State.nioPlace_sound
    | with_reducible apply State.nioStart_sound
    | with_reducible apply State.updCore_sound
    | split
    | refine SoundO.of_eq (by assumption) ?_

theorem State.fwAdmit_sound {s0 s : State} (h : Sound s0 s) {a1} : Sound s0 (State.fwAdmit s a1) := by
  have e := @rfl _ @State.fwAdmit
  conv at e => rhs; delta State.fwAdmit
  rw [e]; clear e; beta_reduce
  repeat' first
    | with_reducible assumption
    | (fail_if_no_progress (extract_lets -underBinder +onlyGivenNames x); first | (have hT : (type_of% x) = (State) := (by with_reducible rfl); clear hT; refine (fun (hx : Sound s0 x) => ?_) ?_; (on_goal 1 => clear_value x); (on_goal 2 => subst x)) | (have hT : (type_of% x) = (Nat) := (by with_reducible rfl); clear hT; clear_value x) | (have hT : (type_of% x) = (Attic) := (by with_reducible rfl); clear hT) | fail)
    | (with_reducible apply sound_ite <;> intro)
    | with_reducible apply State.measure_sound
    | with_reducible apply State.setB_sound
    | with_reducible apply State.fwLoad_sound
    | (with_reducible refine Sound.upd ?_ ?_; (on_goal 2 => with_reducible rfl); with_reducible assumption)

theorem State.admitAll_sound {s0 s : State} (h : Sound s0 s) {a1 a2 a3 a4} : Snd s0 (State.admitAll s a1 a2 a3 a4) := by
  induction a3 generalizing s a4 with
  | nil => exact snd_pair h
  | cons k t ih =>
    unfold State.admitAll
    cases e : admitImg a1 a2 k with
    | error c => exact snd_pair (State.bootFail_sound h)
    | ok i => exact ih (State.fwAdmit_sound h)

theorem State.debugToken_sound {s0 s : State} (h : Sound s0 s) {a1} : Snd s0 (State.debugToken s a1) := by
  have e := @rfl _ @State.debugToken
  conv at e => rhs; delta State.debugToken
  rw [e]; clear e; beta_reduce
  repeat' first
    | with_reducible assumption
    | (fail_if_no_progress (extract_lets -underBinder +onlyGivenNames x); first | (clear_value x) | fail)
    | with_reducible apply State.setB_sound
    | with_reducible apply State.measure_sound
    | split
    | with_reducible apply snd_pair

theorem State.carried_sound {s0 s : State} (h : Sound s0 s) : Sound s0 (State.carried s) := by
  have e := @rfl _ @State.carried
  conv at e => rhs; delta State.carried
  rw [e]; clear e; beta_reduce
  repeat' first
    | with_reducible assumption
    | intro _ _ _
    | (fail_if_no_progress (extract_lets -underBinder +onlyGivenNames x); first | (have hT : (type_of% x) = (State) := (by with_reducible rfl); clear hT; refine (fun (hx : Sound s0 x) => ?_) ?_; (on_goal 1 => clear_value x); (on_goal 2 => subst x)) | (clear_value x) | fail)
    | with_reducible apply State.measure_sound
    | with_reducible refine State.each_sound ?_ _ ?_

theorem State.cutBoot_sound {s0 s : State} (h : Sound s0 s) {a1 a2 a3 a4 a5} : Sound s0 (State.cutBoot s a1 a2 a3 a4 a5) := by
  have e := @rfl _ @State.cutBoot
  conv at e => rhs; delta State.cutBoot
  rw [e]; clear e; beta_reduce
  repeat' first
    | with_reducible assumption
    | (fail_if_no_progress (extract_lets -underBinder +onlyGivenNames x); first | (have hT : (type_of% x) = (State) := (by with_reducible rfl); clear hT; refine (fun (hx : Sound s0 x) => ?_) ?_; (on_goal 1 => clear_value x); (on_goal 2 => subst x)) | (have hT : (type_of% x) = (Nat) := (by with_reducible rfl); clear hT; clear_value x) | (have hT : (type_of% x) = (BitVec 32) := (by with_reducible rfl); clear hT; clear_value x) | (have hT : (type_of% x) = (Attic) := (by with_reducible rfl); clear hT) | (clear_value x) | fail)
    | with_reducible apply State.measure_sound
    | with_reducible apply State.setB_sound
    | (with_reducible refine Sound.upd ?_ ?_; (on_goal 2 => with_reducible rfl); with_reducible assumption)

theorem State.bootEnd_sound {s0 s : State} (h : Sound s0 s) {a1 a2 a3} : Sound s0 (State.bootEnd s a1 a2 a3) := by
  have e := @rfl _ @State.bootEnd
  conv at e => rhs; delta State.bootEnd
  rw [e]; clear e; beta_reduce
  repeat' first
    | with_reducible assumption
    | (fail_if_no_progress (extract_lets -underBinder +onlyGivenNames x); first | (have hT : (type_of% x) = (State) := (by with_reducible rfl); clear hT; refine (fun (hx : Sound s0 x) => ?_) ?_; (on_goal 1 => clear_value x); (on_goal 2 => subst x)) | (have hT : (type_of% x) = (Nat) := (by with_reducible rfl); clear hT; clear_value x) | (have hT : ∃ α : Type, (type_of% x) = (α × State) := ⟨_, rfl⟩; clear hT; refine (fun (hx : Snd s0 x) => ?_) ?_; (on_goal 1 => clear_value x); (on_goal 2 => subst x)) | (clear_value x) | fail)
    | (with_reducible apply sound_ite <;> intro)
    | with_reducible apply State.setW64_sound
    | with_reducible apply State.debugToken_sound
    | with_reducible apply State.carried_sound
    | with_reducible apply State.cutBoot_sound
    | (with_reducible apply Snd.out; with_reducible assumption)

theorem State.bootFrom_sound {s0 s : State} (h : Sound s0 s) {a1 a2 a3} : Sound s0 (State.bootFrom s a1 a2 a3) := by
  have e := @rfl _ @State.bootFrom
  conv at e => rhs; delta State.bootFrom
  rw [e]; clear e; beta_reduce
  repeat' first
    | with_reducible assumption
    | (fail_if_no_progress (extract_lets -underBinder +onlyGivenNames x); first | (have hT : (type_of% x) = (State) := (by with_reducible rfl); clear hT; refine (fun (hx : Sound s0 x) => ?_) ?_; (on_goal 1 => clear_value x); (on_goal 2 => subst x)) | (have hT : ∃ α : Type, (type_of% x) = (α × State) := ⟨_, rfl⟩; clear hT; refine (fun (hx : Snd s0 x) => ?_) ?_; (on_goal 1 => clear_value x); (on_goal 2 => subst x)) | (clear_value x) | fail)
    | with_reducible apply State.logShow_sound
    | with_reducible apply State.setB_sound
    | with_reducible apply State.applyUpdates_sound
    | with_reducible apply State.admitAll_sound
    | with_reducible apply State.measure_sound
    | with_reducible apply State.bootEnd_sound
    | (with_reducible apply Snd.out; with_reducible assumption)
    | split

theorem State.updAud_sound {s0 s : State} (h : Sound s0 s) {a1} : Sound s0 (State.updAud s a1) := by
  have e := @rfl _ @State.updAud
  conv at e => rhs; delta State.updAud
  rw [e]; clear e; beta_reduce
  repeat' first
    | (fail_if_no_progress (extract_lets -underBinder +onlyGivenNames x); first | (have hT : (type_of% x) = (Attic) := (by with_reducible rfl); clear hT) | fail)
    | (with_reducible refine Sound.upd ?_ ?_; (on_goal 2 => with_reducible rfl); with_reducible assumption)

theorem State.audRead_sound {s0 s : State} (h : Sound s0 s) : Snd s0 (State.audRead s) := by
  have e := @rfl _ @State.audRead
  conv at e => rhs; delta State.audRead
  rw [e]; clear e; beta_reduce
  repeat' first
    | with_reducible assumption
    | (fail_if_no_progress (extract_lets -underBinder +onlyGivenNames x); first | (clear_value x) | fail)
    | (with_reducible apply snd_ite <;> intro)
    | with_reducible apply State.updAud_sound
    | with_reducible apply snd_pair

theorem State.audReady_sound {s0 s : State} (h : Sound s0 s) : Sound s0 (State.audReady s) := by
  have e := @rfl _ @State.audReady
  conv at e => rhs; delta State.audReady
  rw [e]; clear e; beta_reduce
  repeat' first
    | with_reducible assumption
    | (with_reducible apply sound_ite <;> intro)
    | with_reducible apply State.pulse_sound
    | with_reducible apply State.setF_sound
    | with_reducible apply State.updAud_sound

theorem beginAttestQuote_sound {s0 s : State} (h : Sound s0 s) {a0} : Snd s0 (beginAttestQuote a0 s) := by
  have e := @rfl _ @beginAttestQuote
  conv at e => rhs; delta beginAttestQuote
  rw [e]; clear e; beta_reduce
  repeat' first
    | with_reducible assumption
    | (fail_if_no_progress (extract_lets -underBinder +onlyGivenNames x); first | (have hT : (type_of% x) = (Packet) := (by with_reducible rfl); clear hT; clear_value x) | (clear_value x) | fail)
    | (with_reducible apply snd_ite <;> intro)
    | with_reducible apply State.hostWrite_sound
    | with_reducible apply snd_pair

theorem State.logNext_sound {s0 s : State} (h : Sound s0 s) {a1 a2} : Snd s0 (State.logNext s a1 a2) := by
  have e := @rfl _ @State.logNext
  conv at e => rhs; delta State.logNext
  rw [e]; clear e; beta_reduce
  repeat' first
    | with_reducible assumption
    | intro _ _ _
    | (fail_if_no_progress (extract_lets -underBinder +onlyGivenNames x); first | (have hT : (type_of% x) = (State) := (by with_reducible rfl); clear hT; refine (fun (hx : Sound s0 x) => ?_) ?_; (on_goal 1 => clear_value x); (on_goal 2 => subst x)) | (have hT : (type_of% x) = (Nat) := (by with_reducible rfl); clear hT; clear_value x) | (have hT : (type_of% x) = (List Nat) := (by with_reducible rfl); clear hT; clear_value x) | fail)
    | with_reducible apply State.setLogBlk_sound
    | with_reducible refine State.each_sound ?_ _ ?_
    | split
    | with_reducible apply snd_pair

theorem State.logPlace_sound {s0 s : State} (h : Sound s0 s) {a1 a2 a3} : Snd s0 (State.logPlace s a1 a2 a3) := by
  have e := @rfl _ @State.logPlace
  conv at e => rhs; delta State.logPlace
  rw [e]; clear e; beta_reduce
  repeat' first
    | with_reducible assumption
    | (with_reducible apply snd_ite <;> intro)
    | with_reducible apply State.logNext_sound
    | split
    | with_reducible apply snd_pair

theorem State.logPut_sound {s0 s : State} (h : Sound s0 s) {a1 a2} : Sound s0 (State.logPut s a1 a2) := by
  have e := @rfl _ @State.logPut
  conv at e => rhs; delta State.logPut
  rw [e]; clear e; beta_reduce
  repeat' first
    | with_reducible assumption
    | (fail_if_no_progress (extract_lets -underBinder +onlyGivenNames x); first | (clear_value x) | fail)
    | with_reducible apply State.setLogBlk_sound

theorem State.logAppend_sound {s0 s : State} (h : Sound s0 s) {a1 a2 a3} : Snd s0 (State.logAppend s a1 a2 a3) := by
  have e := @rfl _ @State.logAppend
  conv at e => rhs; delta State.logAppend
  rw [e]; clear e; beta_reduce
  repeat' first
    | with_reducible assumption
    | (fail_if_no_progress (extract_lets -underBinder +onlyGivenNames x); first | (have hT : (type_of% x) = (Option Nat) := (by with_reducible rfl); clear hT; clear_value x) | (have hT : ∃ α : Type, (type_of% x) = (α × State) := ⟨_, rfl⟩; clear hT; refine (fun (hx : Snd s0 x) => ?_) ?_; (on_goal 1 => clear_value x); (on_goal 2 => subst x)) | fail)
    | (with_reducible apply snd_ite <;> intro)
    | with_reducible apply State.logPlace_sound
    | with_reducible apply State.logPut_sound
    | (with_reducible apply Snd.out; with_reducible assumption)
    | split
    | with_reducible apply snd_pair

theorem State.bootLogAppend_sound {s0 s : State} (h : Sound s0 s) {a1 a2} : Sound s0 (State.bootLogAppend s a1 a2) := by
  have e := @rfl _ @State.bootLogAppend
  conv at e => rhs; delta State.bootLogAppend
  rw [e]; clear e; beta_reduce
  repeat' first
    | with_reducible assumption
    | intro _ _ _
    | (fail_if_no_progress (extract_lets -underBinder +onlyGivenNames x); first | (have hT : (type_of% x) = (State) := (by with_reducible rfl); clear hT; refine (fun (hx : Sound s0 x) => ?_) ?_; (on_goal 1 => clear_value x); (on_goal 2 => subst x)) | (have hT : (type_of% x) = (BitVec 32) := (by with_reducible rfl); clear hT; clear_value x) | (have hT : ∃ α : Type, (type_of% x) = (α × State) := ⟨_, rfl⟩; clear hT; refine (fun (hx : Snd s0 x) => ?_) ?_; (on_goal 1 => clear_value x); (on_goal 2 => subst x)) | fail)
    | (with_reducible apply sound_ite <;> intro)
    | with_reducible apply State.logAppend_sound
    | with_reducible apply State.setF_sound
    | with_reducible apply State.pulse_sound
    | with_reducible apply State.setB_sound
    | with_reducible apply State.errRec_sound
    | with_reducible refine State.each_sound ?_ _ ?_
    | (with_reducible apply Snd.out; with_reducible assumption)

theorem State.audShow_sound {s0 s : State} (h : Sound s0 s) : Sound s0 (State.audShow s) := by
  have e := @rfl _ @State.audShow
  conv at e => rhs; delta State.audShow
  rw [e]; clear e; beta_reduce
  repeat' first
    | with_reducible assumption
    | (fail_if_no_progress (extract_lets -underBinder +onlyGivenNames x); first | (have hT : (type_of% x) = (Nat) := (by with_reducible rfl); clear hT; clear_value x) | (clear_value x) | fail)
    | with_reducible apply State.setReg_sound

theorem State.audAssign_sound {s0 s : State} (h : Sound s0 s) {a1 a2} : Sound s0 (State.audAssign s a1 a2) := by
  have e := @rfl _ @State.audAssign
  conv at e => rhs; delta State.audAssign
  rw [e]; clear e; beta_reduce
  repeat' first
    | with_reducible assumption
    | (with_reducible apply sound_ite <;> intro)
    | with_reducible apply State.audShow_sound
    | with_reducible apply State.updAud_sound

theorem beginBootlogRead_sound {s0 s : State} (h : Sound s0 s) {a0} : Snd s0 (beginBootlogRead a0 s) := by
  have e := @rfl _ @beginBootlogRead
  conv at e => rhs; delta beginBootlogRead
  rw [e]; clear e; beta_reduce
  repeat' first
    | with_reducible assumption
    | (fail_if_no_progress (extract_lets -underBinder +onlyGivenNames x); first | (have hT : (type_of% x) = (Nat) := (by with_reducible rfl); clear hT; clear_value x) | (have hT : (type_of% x) = (Packet) := (by with_reducible rfl); clear hT; clear_value x) | (clear_value x) | fail)
    | with_reducible apply State.hostWrite_sound
    | split
    | with_reducible apply snd_pair

theorem State.batchTime_sound {s0 s : State} (h : Sound s0 s) : Sound s0 (State.batchTime s) := by
  have e := @rfl _ @State.batchTime
  conv at e => rhs; delta State.batchTime
  rw [e]; clear e; beta_reduce
  repeat' first
    | with_reducible assumption
    | (with_reducible apply sound_ite <;> intro)
    | with_reducible apply State.batchClose_sound

theorem State.bootChain_sound {s0 s : State} (h : Sound s0 s) {a1 a2} : Sound s0 (State.bootChain s a1 a2) := by
  have e := @rfl _ @State.bootChain
  conv at e => rhs; delta State.bootChain
  rw [e]; clear e; beta_reduce
  extract_lets -underBinder +onlyGivenNames a u v
  have hu : Sound s0 u := by
    subst u
    refine State.setReg_sound ?_
    refine Sound.upd h ?_
    with_reducible rfl
  clear_value u
  have hv : Sound s0 v := State.setReg_sound hu
  clear_value v
  split
  · exact State.bootFail_sound hv
  · split
    · exact State.bootFail_sound hv
    · split
      · exact State.bootFail_sound hv
      · exact State.bootFrom_sound hv

theorem State.audRequest_sound {s0 s : State} (h : Sound s0 s) {a1} : Sound s0 (State.audRequest s a1) := by
  have e := @rfl _ @State.audRequest
  conv at e => rhs; delta State.audRequest
  rw [e]; clear e; beta_reduce
  repeat' first
    | with_reducible assumption
    | (fail_if_no_progress (extract_lets -underBinder +onlyGivenNames x); first | (clear_value x) | fail)
    | (with_reducible apply sound_ite <;> intro)
    | with_reducible apply State.updAud_sound

end Sys2Proof.Machine
end

