-- ==== Sys2Proof/Laws/Bar2Sound.lean ====
section
/-! SUPPORT. The operations of Machine/Bar2.lean are sound: see Laws/Sound.lean. -/

set_option linter.all false

namespace Sys2Proof.Machine

theorem State.bar2Store_sound {s0 s : State} (h : Sound s0 s) {a1 a2} : Sound s0 (State.bar2Store s a1 a2) := by
  have e := @rfl _ @State.bar2Store
  conv at e => rhs; delta State.bar2Store
  rw [e]; clear e; beta_reduce
  repeat' first
    | with_reducible assumption
    | with_reducible apply State.writePieces_sound
    | with_reducible apply State.celSend_sound
    | with_reducible apply State.ueRecord_sound
    | with_reducible apply State.refusedAccess_sound
    | (with_reducible refine Sound.upd ?_ ?_; (on_goal 2 => with_reducible rfl); refine Snd.of_eq (by assumption) ?_)
    | split

theorem State.bar2Flush_sound {s0 s : State} (h : Sound s0 s) : Sound s0 (State.bar2Flush s) := by
  have e := @rfl _ @State.bar2Flush
  conv at e => rhs; delta State.bar2Flush
  rw [e]; clear e; beta_reduce
  repeat' first
    | with_reducible assumption
    | intro _ _ _
    | with_reducible apply State.bar2Store_sound
    | with_reducible refine State.each_sound ?_ _ ?_
    | (with_reducible refine Sound.upd ?_ ?_; (on_goal 2 => with_reducible rfl); with_reducible assumption)

theorem State.bar2Write_sound {s0 s : State} (h : Sound s0 s) {a1 a2} : Sound s0 (State.bar2Write s a1 a2) := by
  have e := @rfl _ @State.bar2Write
  conv at e => rhs; delta State.bar2Write
  rw [e]; clear e; beta_reduce
  repeat' first
    | with_reducible assumption
    | (fail_if_no_progress (extract_lets -underBinder +onlyGivenNames x); first | (have hT : (type_of% x) = (Nat) := (by with_reducible rfl); clear hT; clear_value x) | fail)
    | (with_reducible apply sound_ite <;> intro)
    | with_reducible apply State.refusedAccess_sound
    | (with_reducible refine Sound.upd ?_ ?_; (on_goal 2 => with_reducible rfl); with_reducible assumption)

theorem State.bar2Read_sound {s0 s : State} (h : Sound s0 s) {a1 a2} : Snd s0 (State.bar2Read s a1 a2) := by
  have e := @rfl _ @State.bar2Read
  conv at e => rhs; delta State.bar2Read
  rw [e]; clear e; beta_reduce
  repeat' first
    | with_reducible assumption
    | intro _ _ _
    | (fail_if_no_progress (extract_lets -underBinder +onlyGivenNames x); first | (have hT : (type_of% x) = (State) := (by with_reducible rfl); clear hT; refine (fun (hx : Sound s0 x) => ?_) ?_; (on_goal 1 => clear_value x); (on_goal 2 => subst x)) | (have hT : (type_of% x) = (Nat) := (by with_reducible rfl); clear hT; clear_value x) | (have hT : (type_of% x) = (List Nat) := (by with_reducible rfl); clear hT; clear_value x) | (clear_value x) | fail)
    | (with_reducible apply snd_ite <;> intro)
    | with_reducible apply State.bar2Flush_sound
    | with_reducible apply State.celUse_sound
    | with_reducible apply State.ueRecord_sound
    | with_reducible apply State.uncorrectable_sound
    | with_reducible apply State.corrected_sound
    | with_reducible apply State.refusedAccess_sound
    | with_reducible refine State.each_sound ?_ _ ?_
    | split
    | with_reducible apply snd_pair

end Sys2Proof.Machine
end

