-- ==== Sys2Proof/Laws/Grow.lean ====
section
/-! SUPPORT. What a head does within a pixel clock leaves the committed sets alone, and drops no mark of what has happened in it: `Grow s t` says so.  The files beside this one prove it of each operation of a pixel clock, in the form "if the state given has grown, so has the state answered". -/

namespace Sys2Proof.Machine

/-- From `s` to `t` the committed sets are the same, and every mark of a head stays. -/
structure Grow (s t : State) : Prop where
  com : t.com = s.com
  did : ∀ h tag, tag ∈ (s.head h).did → tag ∈ (t.head h).did

/-- The state in an answer with a value has grown. -/
structure GrowP {α : Type} (s0 : State) (p : α × State) : Prop where
  out : Grow s0 p.2

/-- The state in an optional answer has grown. -/
structure GrowO (s0 : State) (o : Option State) : Prop where
  out : ∀ t, o = some t → Grow s0 t

/-- A next state that is answered has grown. -/
structure GrowU (s0 : State) (o : Out) : Prop where
  out : ∀ t, o = .next t → Grow s0 t

theorem Grow.refl (s : State) : Grow s s := ⟨rfl, fun _ _ h => h⟩

theorem Grow.trans {s t u : State} (a : Grow s t) (b : Grow t u) : Grow s u := ⟨b.com.trans a.com, fun h tag m => b.did h tag (a.did h tag m)⟩

/-- An update of other fields. -/
theorem Grow.upd {s0 s : State} (h : Grow s0 s) {v0 v1 v2 v3 v4 v5 v6 v8 v9 v10 v11 v12 v13 v14 v15 v16 v17 v18 v19 v20 v21 v22 v23} :
    Grow s0
      { phase := v0, regs := s.regs, wide := s.wide, com := s.com, mem := s.mem, codes := s.codes, host := s.host, posted := v1,
        readData := v2, readPoison := v3, foy := v4, err := v5, bell := v6, heads := s.heads, ports := v8, gl := v9,
        dwt := v10, caps := v11, psq := v12, slotTab := v13, mus := v14, rect := v15, cores := v16, att := v17, chm := v18,
        hal := v19, tap := v20, test := v21, pwrLow := v22, free := v23, pending := s.pending } :=
  ⟨h.com, h.did⟩

theorem grow_ite {c : Prop} [Decidable c] {s0 a b : State} (ha : c → Grow s0 a) (hb : ¬ c → Grow s0 b) : Grow s0 (if c then a else b) := by
  split
  · exact ha ‹_›
  · exact hb ‹_›

theorem growP_ite {α : Type} {c : Prop} [Decidable c] {s0 : State} {a b : α × State} (ha : c → GrowP s0 a) (hb : ¬ c → GrowP s0 b) :
    GrowP s0 (if c then a else b) := by
  split
  · exact ha ‹_›
  · exact hb ‹_›

theorem growO_ite {c : Prop} [Decidable c] {s0 : State} {a b : Option State} (ha : c → GrowO s0 a) (hb : ¬ c → GrowO s0 b) :
    GrowO s0 (if c then a else b) := by
  split
  · exact ha ‹_›
  · exact hb ‹_›

theorem growP_pair {α : Type} {s0 s : State} {a : α} (h : Grow s0 s) : GrowP s0 (a, s) := ⟨h⟩
theorem GrowP.of_eq {α : Type} {s0 s : State} {p : α × State} {a : α} (e : p = (a, s)) (h : GrowP s0 p) : Grow s0 s := by
  subst e; exact h.out
theorem growU_ite {c : Prop} [Decidable c] {s0 : State} {a b : Out} (ha : c → GrowU s0 a) (hb : ¬ c → GrowU s0 b) :
    GrowU s0 (if c then a else b) := by
  split
  · exact ha ‹_›
  · exact hb ‹_›

theorem growU_next {s0 s : State} (h : Grow s0 s) : GrowU s0 (.next s) := ⟨fun _ e => by cases e; exact h⟩

theorem growO_none {s0 : State} : GrowO s0 none := ⟨fun _ h => by cases h⟩
theorem growO_some {s0 s : State} (h : Grow s0 s) : GrowO s0 (some s) := ⟨fun _ e => by cases e; exact h⟩
theorem growP_out {α : Type} {s0 s : State} {a : α} (h : GrowP s0 (a, s)) : Grow s0 s := h.out
theorem growO_out {s0 s : State} (h : GrowO s0 (some s)) : Grow s0 s := h.out s rfl
theorem GrowO.of_eq {s0 s : State} {o : Option State} (e : o = some s) (h : GrowO s0 o) : Grow s0 s := h.out s e
theorem GrowO.getD {s0 s : State} {o : Option State} (h : GrowO s0 o) (h' : Grow s0 s) : Grow s0 (o.getD s) := by
  cases o with
  | none => exact h'
  | some t => exact h.out t rfl

/-- A fold that keeps this in each step keeps it. -/
theorem foldl_grow {α : Type} {s0 : State} (l : List α) {f : State → α → State} {s : State} (h : Grow s0 s)
    (hf : ∀ t a, Grow s0 t → Grow s0 (f t a)) : Grow s0 (l.foldl f s) := by
  induction l generalizing s with
  | nil => exact h
  | cons a l ih => exact ih (hf s a h)

theorem foldl_growP {α β : Type} {s0 : State} (l : List α) {f : β × State → α → β × State} {p : β × State} (h : GrowP s0 p)
    (hf : ∀ t a, GrowP s0 t → GrowP s0 (f t a)) : GrowP s0 (l.foldl f p) := by
  induction l generalizing p with
  | nil => exact h
  | cons a l ih => exact ih (hf p a h)

theorem State.each_grow {α : Type} {s0 s : State} (h : Grow s0 s) (l : List α) {f : State → α → State}
    (hf : ∀ t a, Grow s0 t → Grow s0 (f t a)) : Grow s0 (s.each l f) := foldl_grow l h hf

/-! ## The operations that store -/

theorem State.setReg_grow {s0 s : State} (h : Grow s0 s) {k v} : Grow s0 (s.setReg k v) := ⟨h.com, h.did⟩
theorem State.setW64_grow {s0 s : State} (h : Grow s0 s) {k v} : Grow s0 (s.setW64 k v) := ⟨h.com, h.did⟩
theorem State.setByte_grow {s0 s : State} (h : Grow s0 s) {k v} : Grow s0 (s.setByte k v) := ⟨h.com, h.did⟩
theorem State.setCode_grow {s0 s : State} (h : Grow s0 s) {k v} : Grow s0 (s.setCode k v) := ⟨h.com, h.did⟩
theorem State.hostWrite_grow {s0 s : State} (h : Grow s0 s) {a bs} : Grow s0 (s.hostWrite a bs) := ⟨h.com, h.did⟩

/-- A head is updated, and no mark of it is dropped. -/
theorem State.updHead_grow {s0 s : State} (h : Grow s0 s) {n : Nat} {f : Head → Head} (hf : ∀ v tag, tag ∈ v.did → tag ∈ (f v).did) :
    Grow s0 (s.updHead n f) := by
  refine ⟨h.com, fun k tag m => ?_⟩
  have m := h.did k tag m
  unfold State.updHead State.setHead State.head
  by_cases e : k = n
  · subst e; rw [Tbl.get_set_same]; exact hf _ _ m
  · rw [Tbl.get_set_ne _ _ _ (Ne.symm e)]; exact m

end Sys2Proof.Machine
end

