-- ==== Sys2Proof/Laws/OpsGrow.lean ====
section
/-! SUPPORT. The operations of Machine/Ops.lean leave every committed set and drop no mark: see Laws/Grow.lean. -/

set_option linter.all false

namespace Sys2Proof.Machine

theorem State.setB_grow {s0 s : State} (h : Grow s0 s) {a1 a2 a3} : Grow s0 (State.setB s a1 a2 a3) := by
  have e := @rfl _ @State.setB
  conv at e => rhs; delta State.setB
  rw [e]; clear e; beta_reduce
  repeat' first
    | with_reducible assumption
    | with_reducible apply State.setReg_grow

theorem State.msix_grow {s0 s : State} (h : Grow s0 s) {a1 a2} : Grow s0 (State.msix s a1 a2) := by
  have e := @rfl _ @State.msix
  conv at e => rhs; delta State.msix
  rw [e]; clear e; beta_reduce
  repeat' first
    | with_reducible assumption
    | (fail_if_no_progress (extract_lets -underBinder +onlyGivenNames x); first | (have hT : (type_of% x) = (State) := (by with_reducible rfl); clear hT; refine (fun (hx : Grow s0 x) => ?_) ?_; (on_goal 1 => clear_value x); (on_goal 2 => subst x)) | (have hT : (type_of% x) = (Nat) := (by with_reducible rfl); clear hT; clear_value x) | (have hT : (type_of% x) = (BitVec 32) := (by with_reducible rfl); clear hT; clear_value x) | (have hT : (type_of% x) = (BitVec 64) := (by with_reducible rfl); clear hT; clear_value x) | (clear_value x) | fail)
    | (with_reducible apply grow_ite <;> intro)
    | with_reducible apply State.setB_grow
    | with_reducible apply State.hostWrite_grow
    | (with_reducible refine Grow.upd ?_; with_reducible assumption)

theorem State.setF_grow {s0 s : State} (h : Grow s0 s) {a1 a2 a3 a4} : Grow s0 (State.setF s a1 a2 a3 a4) := by
  have e := @rfl _ @State.setF
  conv at e => rhs; delta State.setF
  rw [e]; clear e; beta_reduce
  repeat' first
    | with_reducible assumption
    | with_reducible apply State.setReg_grow

theorem State.deliver_grow {s0 s : State} (h : Grow s0 s) {a1} : Grow s0 (State.deliver s a1) := by
  have e := @rfl _ @State.deliver
  conv at e => rhs; delta State.deliver
  rw [e]; clear e; beta_reduce
  repeat' first
    | with_reducible assumption
    | (with_reducible apply grow_ite <;> intro)
    | with_reducible apply State.msix_grow

theorem State.notify_grow {s0 s : State} (h : Grow s0 s) {a1 a2} : Grow s0 (State.notify s a1 a2) := by
  have e := @rfl _ @State.notify
  conv at e => rhs; delta State.notify
  rw [e]; clear e; beta_reduce
  repeat' first
    | with_reducible assumption
    | (fail_if_no_progress (extract_lets -underBinder +onlyGivenNames x); first | (have hT : (type_of% x) = (State) := (by with_reducible rfl); clear hT; refine (fun (hx : Grow s0 x) => ?_) ?_; (on_goal 1 => clear_value x); (on_goal 2 => subst x)) | fail)
    | (with_reducible apply grow_ite <;> intro)
    | with_reducible apply State.deliver_grow
    | (with_reducible refine Grow.upd ?_; with_reducible assumption)

theorem State.setSrc_grow {s0 s : State} (h : Grow s0 s) {a1 a2} : Grow s0 (State.setSrc s a1 a2) := by
  have e := @rfl _ @State.setSrc
  conv at e => rhs; delta State.setSrc
  rw [e]; clear e; beta_reduce
  repeat' first
    | (fail_if_no_progress (extract_lets -underBinder +onlyGivenNames x); first | (clear_value x) | fail)
    | (with_reducible refine Grow.upd ?_; with_reducible assumption)

theorem State.pulse_grow {s0 s : State} (h : Grow s0 s) {a1} : Grow s0 (State.pulse s a1) := by
  have e := @rfl _ @State.pulse
  conv at e => rhs; delta State.pulse
  rw [e]; clear e; beta_reduce
  repeat' first
    | with_reducible assumption
    | (fail_if_no_progress (extract_lets -underBinder +onlyGivenNames x); first | (clear_value x) | fail)
    | (with_reducible apply grow_ite <;> intro)
    | with_reducible apply State.notify_grow
    | with_reducible apply State.setSrc_grow

theorem State.incReg_grow {s0 s : State} (h : Grow s0 s) {a1} : Grow s0 (State.incReg s a1) := by
  have e := @rfl _ @State.incReg
  conv at e => rhs; delta State.incReg
  rw [e]; clear e; beta_reduce
  repeat' first
    | with_reducible assumption
    | with_reducible apply State.setReg_grow

theorem State.errWrite_grow {s0 s : State} (h : Grow s0 s) {a1} : Grow s0 (State.errWrite s a1) := by
  have e := @rfl _ @State.errWrite
  conv at e => rhs; delta State.errWrite
  rw [e]; clear e; beta_reduce
  repeat' first
    | with_reducible assumption
    | (fail_if_no_progress (extract_lets -underBinder +onlyGivenNames x); first | (have hT : (type_of% x) = (State) := (by with_reducible rfl); clear hT; refine (fun (hx : Grow s0 x) => ?_) ?_; (on_goal 1 => clear_value x); (on_goal 2 => subst x)) | (have hT : (type_of% x) = (Nat) := (by with_reducible rfl); clear hT; clear_value x) | (have hT : (type_of% x) = (Bool) := (by with_reducible rfl); clear hT; clear_value x) | (have hT : (type_of% x) = (BitVec 64) := (by with_reducible rfl); clear hT; clear_value x) | (clear_value x) | (skip) | fail)
    | (with_reducible apply grow_ite <;> intro)
    | with_reducible apply State.setW64_grow
    | with_reducible apply State.setF_grow
    | with_reducible apply State.pulse_grow
    | with_reducible apply State.setB_grow
    | with_reducible apply State.incReg_grow
    | (with_reducible refine Grow.upd ?_; with_reducible assumption)

theorem State.errRec_grow {s0 s : State} (h : Grow s0 s) {a1 a2 a3 a4 a5 a6 a7} : Grow s0 (State.errRec s a1 a2 a3 a4 a5 a6 a7) := by
  have e := @rfl _ @State.errRec
  conv at e => rhs; delta State.errRec
  rw [e]; clear e; beta_reduce
  repeat' first
    | with_reducible assumption
    | (fail_if_no_progress (extract_lets -underBinder +onlyGivenNames x); first | (have hT : (type_of% x) = (State) := (by with_reducible rfl); clear hT; refine (fun (hx : Grow s0 x) => ?_) ?_; (on_goal 1 => clear_value x); (on_goal 2 => subst x)) | (clear_value x) | fail)
    | (with_reducible apply grow_ite <;> intro)
    | with_reducible apply State.incReg_grow
    | with_reducible apply State.errWrite_grow
    | (with_reducible refine Grow.upd ?_; with_reducible assumption)

theorem State.refusedAccess_grow {s0 s : State} (h : Grow s0 s) {a1 a2} : Grow s0 (State.refusedAccess s a1 a2) := by
  have e := @rfl _ @State.refusedAccess
  conv at e => rhs; delta State.refusedAccess
  rw [e]; clear e; beta_reduce
  repeat' first
    | with_reducible assumption
    | with_reducible apply State.errRec_grow

theorem State.level_grow {s0 s : State} (h : Grow s0 s) {a1 a2} : Grow s0 (State.level s a1 a2) := by
  have e := @rfl _ @State.level
  conv at e => rhs; delta State.level
  rw [e]; clear e; beta_reduce
  repeat' first
    | with_reducible assumption
    | (fail_if_no_progress (extract_lets -underBinder +onlyGivenNames x); first | (clear_value x) | fail)
    | (with_reducible apply grow_ite <;> intro)
    | with_reducible apply State.notify_grow
    | with_reducible apply State.setSrc_grow

end Sys2Proof.Machine
end

