-- ==== Sys2Proof/Laws/MemGrow.lean ====
section
/-! SUPPORT. The operations of Machine/Mem.lean leave every committed set and drop no mark: see Laws/Grow.lean. -/

set_option linter.all false

namespace Sys2Proof.Machine

theorem State.uncorrectable_grow {s0 s : State} (h : Grow s0 s) {a1 a2} : Grow s0 (State.uncorrectable s a1 a2) := by
  have e := @rfl _ @State.uncorrectable
  conv at e => rhs; delta State.uncorrectable
  rw [e]; clear e; beta_reduce
  repeat' first
    | with_reducible assumption
    | (fail_if_no_progress (extract_lets -underBinder +onlyGivenNames x); first | (have hT : (type_of% x) = (State) := (by with_reducible rfl); clear hT; refine (fun (hx : Grow s0 x) => ?_) ?_; (on_goal 1 => clear_value x); (on_goal 2 => subst x)) | (clear_value x) | fail)
    | with_reducible apply State.setReg_grow
    | with_reducible apply State.pulse_grow
    | with_reducible apply State.incReg_grow
    | (with_reducible refine Grow.upd ?_; with_reducible assumption)
    | split

theorem State.setBytes_grow {s0 s : State} (h : Grow s0 s) {a1 a2} : Grow s0 (State.setBytes s a1 a2) := by
  induction a2 generalizing s a1 with
  | nil => exact h
  | cons b bs ih => exact ih (State.setByte_grow h)

theorem State.celWake_grow {s0 s : State} (h : Grow s0 s) {a1 a2 a3} : Grow s0 (State.celWake s a1 a2 a3) := by
  have e := @rfl _ @State.celWake
  conv at e => rhs; delta State.celWake
  rw [e]; clear e; beta_reduce
  repeat' first
    | with_reducible assumption
    | intro _ _ _
    | (with_reducible apply grow_ite <;> intro)
    | with_reducible apply State.setB_grow
    | with_reducible refine State.each_grow ?_ _ ?_
    | split

theorem State.celFlipDone_grow {s0 s : State} (h : Grow s0 s) : Grow s0 (State.celFlipDone s) := by
  have e := @rfl _ @State.celFlipDone
  conv at e => rhs; delta State.celFlipDone
  rw [e]; clear e; beta_reduce
  repeat' first
    | with_reducible assumption
    | with_reducible apply State.setReg_grow

theorem State.storeLine_grow {s0 s : State} (h : Grow s0 s) {a1 a2 a3 a4 a5} : Grow s0 (State.storeLine s a1 a2 a3 a4 a5) := by
  have e := @rfl _ @State.storeLine
  conv at e => rhs; delta State.storeLine
  rw [e]; clear e; beta_reduce
  repeat' first
    | with_reducible assumption
    | intro _ _ _
    | (fail_if_no_progress (extract_lets -underBinder +onlyGivenNames x); first | (have hT : (type_of% x) = (State) := (by with_reducible rfl); clear hT; refine (fun (hx : Grow s0 x) => ?_) ?_; (on_goal 1 => clear_value x); (on_goal 2 => subst x)) | (have hT : (type_of% x) = (Nat) := (by with_reducible rfl); clear hT; clear_value x) | (have hT : (type_of% x) = (BitVec 32) := (by with_reducible rfl); clear hT; clear_value x) | (have hT : (type_of% x) = (List Nat) := (by with_reducible rfl); clear hT; clear_value x) | (clear_value x) | fail)
    | (with_reducible apply grow_ite <;> intro)
    | with_reducible apply State.setBytes_grow
    | with_reducible apply State.celWake_grow
    | with_reducible apply State.setCode_grow
    | with_reducible apply State.celFlipDone_grow
    | with_reducible apply State.setReg_grow
    | with_reducible apply State.setByte_grow
    | with_reducible refine State.each_grow ?_ _ ?_
    | split

theorem State.countCe_grow {s0 s : State} (h : Grow s0 s) {a1} : Grow s0 (State.countCe s a1) := by
  have e := @rfl _ @State.countCe
  conv at e => rhs; delta State.countCe
  rw [e]; clear e; beta_reduce
  repeat' first
    | (fail_if_no_progress (extract_lets -underBinder +onlyGivenNames x); first | (clear_value x) | fail)
    | (with_reducible refine Grow.upd ?_; with_reducible assumption)

theorem State.corrLog_grow {s0 s : State} (h : Grow s0 s) {a1 a2 a3 a4 a5 a6 a7 a8 a9} : Grow s0 (State.corrLog s a1 a2 a3 a4 a5 a6 a7 a8 a9) := by
  have e := @rfl _ @State.corrLog
  conv at e => rhs; delta State.corrLog
  rw [e]; clear e; beta_reduce
  repeat' first
    | with_reducible assumption
    | intro _ _ _
    | intro _ _
    | (fail_if_no_progress (extract_lets -underBinder +onlyGivenNames x); first | (have hT : (type_of% x) = (State) := (by with_reducible rfl); clear hT; refine (fun (hx : Grow s0 x) => ?_) ?_; (on_goal 1 => clear_value x); (on_goal 2 => subst x)) | (have hT : (type_of% x) = (Nat) := (by with_reducible rfl); clear hT; clear_value x) | (have hT : (type_of% x) = (State → State) := (by with_reducible rfl); clear hT; refine (fun (hx : ∀ t, Grow s0 t → Grow s0 (x t)) => ?_) ?_; (on_goal 1 => clear_value x); (on_goal 2 => subst x)) | (have hT : ∃ α : Type, (type_of% x) = (State → α → State) := ⟨_, rfl⟩; clear hT; refine (fun (hx : ∀ t a, Grow s0 t → Grow s0 (x t a)) => ?_) ?_; (on_goal 1 => clear_value x); (on_goal 2 => subst x)) | (clear_value x) | fail)
    | (with_reducible apply grow_ite <;> intro)
    | with_reducible apply State.pulse_grow
    | with_reducible apply State.errRec_grow
    | with_reducible apply State.setReg_grow
    | with_reducible apply State.setF_grow
    | with_reducible apply State.setW64_grow
    | with_reducible apply_assumption -exfalso -symm
    | split

theorem State.corrected_grow {s0 s : State} (h : Grow s0 s) {a1 a2 a3} : Grow s0 (State.corrected s a1 a2 a3) := by
  have e := @rfl _ @State.corrected
  conv at e => rhs; delta State.corrected
  rw [e]; clear e; beta_reduce
  repeat' first
    | with_reducible assumption
    | (fail_if_no_progress (extract_lets -underBinder +onlyGivenNames x); first | (have hT : (type_of% x) = (State) := (by with_reducible rfl); clear hT; refine (fun (hx : Grow s0 x) => ?_) ?_; (on_goal 1 => clear_value x); (on_goal 2 => subst x)) | (have hT : (type_of% x) = (Nat) := (by with_reducible rfl); clear hT; clear_value x) | fail)
    | with_reducible apply State.countCe_grow
    | with_reducible apply State.corrLog_grow
    | split

theorem State.rmwFix_grow {s0 s : State} (h : Grow s0 s) {a1 a2 a3} : Grow s0 (State.rmwFix s a1 a2 a3) := by
  have e := @rfl _ @State.rmwFix
  conv at e => rhs; delta State.rmwFix
  rw [e]; clear e; beta_reduce
  repeat' first
    | with_reducible assumption
    | intro _ _ _
    | with_reducible apply State.setCode_grow
    | with_reducible apply State.corrected_grow
    | with_reducible refine State.each_grow ?_ _ ?_
    | split

theorem State.writeCopy_grow {s0 s : State} (h : Grow s0 s) {a1 a2 a3 a4 a5} : GrowP s0 (State.writeCopy s a1 a2 a3 a4 a5) := by
  have e := @rfl _ @State.writeCopy
  conv at e => rhs; delta State.writeCopy
  rw [e]; clear e; beta_reduce
  repeat' first
    | with_reducible assumption
    | with_reducible apply State.uncorrectable_grow
    | with_reducible apply State.storeLine_grow
    | with_reducible apply State.rmwFix_grow
    | split
    | with_reducible apply growP_pair

theorem State.markAltered_grow {s0 s : State} (h : Grow s0 s) {a1} : Grow s0 (State.markAltered s a1) := by
  have e := @rfl _ @State.markAltered
  conv at e => rhs; delta State.markAltered
  rw [e]; clear e; beta_reduce
  repeat' first
    | with_reducible assumption
    | with_reducible apply State.setB_grow
    | split

theorem State.writeTwo_grow {s0 s : State} (h : Grow s0 s) {a1 a2 a3} : GrowP s0 (State.writeTwo s a1 a2 a3) := by
  have e := @rfl _ @State.writeTwo
  conv at e => rhs; delta State.writeTwo
  rw [e]; clear e; beta_reduce
  repeat' first
    | with_reducible assumption
    | (fail_if_no_progress (extract_lets -underBinder +onlyGivenNames x); first | (have hT : (type_of% x) = (Option Nat) := (by with_reducible rfl); clear hT; clear_value x) | (have hT : ∃ α : Type, (type_of% x) = (α × State) := ⟨_, rfl⟩; clear hT; refine (fun (hx : GrowP s0 x) => ?_) ?_; (on_goal 1 => clear_value x); (on_goal 2 => subst x)) | fail)
    | with_reducible apply State.writeCopy_grow
    | with_reducible apply State.celFlipDone_grow
    | (with_reducible apply GrowP.out; with_reducible assumption)
    | split
    | with_reducible apply growP_pair

theorem State.writeLine_grow {s0 s : State} (h : Grow s0 s) {a1 a2 a3} : GrowP s0 (State.writeLine s a1 a2 a3) := by
  have e := @rfl _ @State.writeLine
  conv at e => rhs; delta State.writeLine
  rw [e]; clear e; beta_reduce
  repeat' first
    | with_reducible assumption
    | (fail_if_no_progress (extract_lets -underBinder +onlyGivenNames x); first | (have hT : ∃ α : Type, (type_of% x) = (α × State) := ⟨_, rfl⟩; clear hT; refine (fun (hx : GrowP s0 x) => ?_) ?_; (on_goal 1 => clear_value x); (on_goal 2 => subst x)) | fail)
    | with_reducible apply State.writeTwo_grow
    | (with_reducible apply GrowP.out; with_reducible assumption)
    | with_reducible apply growP_pair

theorem State.writePieces_grow {s0 s : State} (h : Grow s0 s) {a0 a1 a2 a4} : GrowP s0 (State.writePieces a0 a1 a2 s a4) := by
  induction a4 generalizing s with
  | nil => exact growP_pair h
  | cons q t ih =>
    unfold State.writePieces
    extract_lets r
    have hr : GrowP s0 r := State.writeLine_grow h
    clear_value r
    split
    · exact growP_pair hr.out
    · exact ih hr.out

theorem State.celUse_grow {s0 s : State} (h : Grow s0 s) {a1 a2 a3 a4 a5 a6} : Grow s0 (State.celUse s a1 a2 a3 a4 a5 a6) := by
  have e := @rfl _ @State.celUse
  conv at e => rhs; delta State.celUse
  rw [e]; clear e; beta_reduce
  repeat' first
    | with_reducible assumption
    | intro _ _ _
    | with_reducible apply State.celWake_grow
    | with_reducible apply State.cellarTransfer_grow
    | with_reducible refine State.each_grow ?_ _ ?_
    | split

theorem State.celSend_grow {s0 s : State} (h : Grow s0 s) {a1 a2 a3 a4 a5} : Grow s0 (State.celSend s a1 a2 a3 a4 a5) := by
  have e := @rfl _ @State.celSend
  conv at e => rhs; delta State.celSend
  rw [e]; clear e; beta_reduce
  repeat' first
    | with_reducible assumption
    | (fail_if_no_progress (extract_lets -underBinder +onlyGivenNames x); first | (have hT : (type_of% x) = (State) := (by with_reducible rfl); clear hT; refine (fun (hx : Grow s0 x) => ?_) ?_; (on_goal 1 => clear_value x); (on_goal 2 => subst x)) | fail)
    | with_reducible apply State.celUse_grow
    | split

theorem State.ueRecord_grow {s0 s : State} (h : Grow s0 s) {a1 a2 a3} : Grow s0 (State.ueRecord s a1 a2 a3) := by
  have e := @rfl _ @State.ueRecord
  conv at e => rhs; delta State.ueRecord
  rw [e]; clear e; beta_reduce
  repeat' first
    | with_reducible assumption
    | with_reducible apply State.errRec_grow

theorem State.devWrite_grow {s0 s : State} (h : Grow s0 s) {a1 a2 a3 a4} : GrowP s0 (State.devWrite s a1 a2 a3 a4) := by
  have e := @rfl _ @State.devWrite
  conv at e => rhs; delta State.devWrite
  rw [e]; clear e; beta_reduce
  repeat' first
    | with_reducible assumption
    | (fail_if_no_progress (extract_lets -underBinder +onlyGivenNames x); first | (have hT : ∃ α : Type, (type_of% x) = (α × State) := ⟨_, rfl⟩; clear hT; refine (fun (hx : GrowP s0 x) => ?_) ?_; (on_goal 1 => clear_value x); (on_goal 2 => subst x)) | (clear_value x) | fail)
    | (with_reducible apply growP_ite <;> intro)
    | with_reducible apply State.refusedAccess_grow
    | with_reducible apply State.writePieces_grow
    | with_reducible apply State.celSend_grow
    | with_reducible apply State.ueRecord_grow
    | with_reducible apply State.markAltered_grow
    | (with_reducible apply GrowP.out; with_reducible assumption)
    | split
    | with_reducible apply growP_pair

end Sys2Proof.Machine
end

