-- ==== Sys2Proof/Laws/HeadCoreGrow.lean ====
section
/-! SUPPORT. The operations of Machine/HeadCore.lean leave every committed set and drop no mark: see Laws/Grow.lean. -/

set_option linter.all false

namespace Sys2Proof.Machine

theorem State.mark_grow {s0 s : State} (h : Grow s0 s) {a1 a2} : Grow s0 (State.mark s a1 a2) := by
  have e := @rfl _ @State.mark
  conv at e => rhs; delta State.mark
  rw [e]; clear e; beta_reduce
  repeat' first
    | with_reducible assumption
    | (with_reducible refine State.updHead_grow ?_ ?_; (on_goal 2 => intro _ _ ht; first | exact ht | exact List.mem_cons_of_mem _ ht | (split <;> exact ht)))

end Sys2Proof.Machine
end

