-- ==== Sys2Proof/Laws/EventsGrow.lean ====
section
/-! SUPPORT. The operations of Machine/Events.lean leave every committed set and drop no mark: see Laws/Grow.lean. -/

set_option linter.all false

namespace Sys2Proof.Machine

theorem State.setVoice_grow {s0 s : State} (h : Grow s0 s) {a1 a2} : Grow s0 (State.setVoice s a1 a2) := by
  have e := @rfl _ @State.setVoice
  conv at e => rhs; delta State.setVoice
  rw [e]; clear e; beta_reduce
  repeat' first
    | (fail_if_no_progress (extract_lets -underBinder +onlyGivenNames x); first | (clear_value x) | fail)
    | (with_reducible refine Grow.upd ?_; with_reducible assumption)

theorem State.voiceEvent_grow {s0 s : State} (h : Grow s0 s) {a1 a2 a3} : Grow s0 (State.voiceEvent s a1 a2 a3) := by
  have e := @rfl _ @State.voiceEvent
  conv at e => rhs; delta State.voiceEvent
  rw [e]; clear e; beta_reduce
  repeat' first
    | with_reducible assumption
    | intro _ _ _
    | (fail_if_no_progress (extract_lets -underBinder +onlyGivenNames x); first | (clear_value x) | fail)
    | (with_reducible apply grow_ite <;> intro)
    | with_reducible apply State.setVoice_grow
    | with_reducible refine State.each_grow ?_ _ ?_
    | split

theorem State.setCap_grow {s0 s : State} (h : Grow s0 s) {a1 a2} : Grow s0 (State.setCap s a1 a2) := by
  have e := @rfl _ @State.setCap
  conv at e => rhs; delta State.setCap
  rw [e]; clear e; beta_reduce
  repeat' first
    | with_reducible assumption
    | (fail_if_no_progress (extract_lets -underBinder +onlyGivenNames x); first | (have hT : (type_of% x) = (State) := (by with_reducible rfl); clear hT; refine (fun (hx : Grow s0 x) => ?_) ?_; (on_goal 1 => clear_value x); (on_goal 2 => subst x)) | fail)
    | with_reducible apply State.setF_grow
    | with_reducible apply State.level_grow
    | (with_reducible refine Grow.upd ?_; with_reducible assumption)

theorem State.capQualify_grow {s0 s : State} (h : Grow s0 s) {a1} : Grow s0 (State.capQualify s a1) := by
  have e := @rfl _ @State.capQualify
  conv at e => rhs; delta State.capQualify
  rw [e]; clear e; beta_reduce
  repeat' first
    | with_reducible assumption
    | (fail_if_no_progress (extract_lets -underBinder +onlyGivenNames x); first | (have hT : (type_of% x) = (BitVec 32) := (by with_reducible rfl); clear hT; clear_value x) | (clear_value x) | fail)
    | (with_reducible apply grow_ite <;> intro)
    | with_reducible apply State.setCap_grow
    | with_reducible apply State.setB_grow

theorem State.capEvent_grow {s0 s : State} (h : Grow s0 s) {a1} : Grow s0 (State.capEvent s a1) := by
  have e := @rfl _ @State.capEvent
  conv at e => rhs; delta State.capEvent
  rw [e]; clear e; beta_reduce
  repeat' first
    | with_reducible assumption
    | intro _ _ _
    | (fail_if_no_progress (extract_lets -underBinder +onlyGivenNames x); first | (have hT : (type_of% x) = (BitVec 32) := (by with_reducible rfl); clear hT; clear_value x) | fail)
    | (with_reducible apply grow_ite <;> intro)
    | with_reducible apply State.capQualify_grow
    | with_reducible refine State.each_grow ?_ _ ?_

theorem State.headPosition_grow {s0 s : State} (h : Grow s0 s) {a1 a2 a3} : Grow s0 (State.headPosition s a1 a2 a3) := by
  have e := @rfl _ @State.headPosition
  conv at e => rhs; delta State.headPosition
  rw [e]; clear e; beta_reduce
  repeat' first
    | with_reducible assumption
    | with_reducible apply State.voiceEvent_grow

theorem State.setPsqCh_grow {s0 s : State} (h : Grow s0 s) {a1 a2} : Grow s0 (State.setPsqCh s a1 a2) := by
  have e := @rfl _ @State.setPsqCh
  conv at e => rhs; delta State.setPsqCh
  rw [e]; clear e; beta_reduce
  repeat' (with_reducible refine Grow.upd ?_; with_reducible assumption)

theorem State.psqEvent_grow {s0 s : State} (h : Grow s0 s) {a1 a2} : Grow s0 (State.psqEvent s a1 a2) := by
  have e := @rfl _ @State.psqEvent
  conv at e => rhs; delta State.psqEvent
  rw [e]; clear e; beta_reduce
  repeat' first
    | with_reducible assumption
    | intro _ _ _
    | (fail_if_no_progress (extract_lets -underBinder +onlyGivenNames x); first | (clear_value x) | fail)
    | with_reducible apply State.setPsqCh_grow
    | with_reducible refine State.each_grow ?_ _ ?_

theorem State.headLine_grow {s0 s : State} (h : Grow s0 s) {a1} : Grow s0 (State.headLine s a1) := by
  have e := @rfl _ @State.headLine
  conv at e => rhs; delta State.headLine
  rw [e]; clear e; beta_reduce
  repeat' first
    | with_reducible assumption
    | with_reducible apply State.psqEvent_grow
    | with_reducible apply State.capEvent_grow
    | with_reducible apply State.voiceEvent_grow
    | with_reducible apply State.pulse_grow

theorem State.raiseLine_grow {s0 s : State} (h : Grow s0 s) {a1} : Grow s0 (State.raiseLine s a1) := by
  have e := @rfl _ @State.raiseLine
  conv at e => rhs; delta State.raiseLine
  rw [e]; clear e; beta_reduce
  repeat' first
    | with_reducible assumption
    | (with_reducible apply grow_ite <;> intro)
    | with_reducible apply State.headLine_grow
    | with_reducible apply State.mark_grow

end Sys2Proof.Machine
end

