-- ==== Sys2Proof/Laws/ShutterGrow.lean ====
section
/-! SUPPORT. The operations of Machine/Shutter.lean leave every committed set and drop no mark: see Laws/Grow.lean. -/

set_option linter.all false

namespace Sys2Proof.Machine

theorem State.shutterFirst_grow {s0 s : State} (h : Grow s0 s) {a1 a2} : Grow s0 (State.shutterFirst s a1 a2) := by
  have e := @rfl _ @State.shutterFirst
  conv at e => rhs; delta State.shutterFirst
  rw [e]; clear e; beta_reduce
  repeat' first
    | with_reducible assumption
    | (with_reducible apply grow_ite <;> intro)
    | with_reducible apply State.pulse_grow
    | with_reducible apply State.setF_grow

theorem State.mantelFault_grow {s0 s : State} (h : Grow s0 s) {a1 a2} : Grow s0 (State.mantelFault s a1 a2) := by
  have e := @rfl _ @State.mantelFault
  conv at e => rhs; delta State.mantelFault
  rw [e]; clear e; beta_reduce
  repeat' first
    | with_reducible assumption
    | (fail_if_no_progress (extract_lets -underBinder +onlyGivenNames x); first | (have hT : (type_of% x) = (State) := (by with_reducible rfl); clear hT; refine (fun (hx : Grow s0 x) => ?_) ?_; (on_goal 1 => clear_value x); (on_goal 2 => subst x)) | fail)
    | (with_reducible apply grow_ite <;> intro)
    | (with_reducible refine State.updHead_grow ?_ ?_; (on_goal 2 => intro _ _ ht; first | exact ht | exact List.mem_cons_of_mem _ ht | (split <;> exact ht)))
    | with_reducible apply State.setB_grow
    | with_reducible apply State.shutterFirst_grow
    | with_reducible apply State.errRec_grow

theorem State.headCorrected_grow {s0 s : State} (h : Grow s0 s) {a1 a2 a3 a4} : Grow s0 (State.headCorrected s a1 a2 a3 a4) := by
  have e := @rfl _ @State.headCorrected
  conv at e => rhs; delta State.headCorrected
  rw [e]; clear e; beta_reduce
  repeat' first
    | with_reducible assumption
    | (with_reducible apply grow_ite <;> intro)
    | (with_reducible refine State.updHead_grow ?_ ?_; (on_goal 2 => intro _ _ ht; first | exact ht | exact List.mem_cons_of_mem _ ht | (split <;> exact ht)))
    | with_reducible apply State.corrected_grow

theorem State.headRead_grow {s0 s : State} (h : Grow s0 s) {a1 a2 a3} : GrowP s0 (State.headRead s a1 a2 a3) := by
  have e := @rfl _ @State.headRead
  conv at e => rhs; delta State.headRead
  rw [e]; clear e; beta_reduce
  repeat' first
    | with_reducible assumption
    | intro _ _ _
    | (fail_if_no_progress (extract_lets -underBinder +onlyGivenNames x); first | (have hT : (type_of% x) = (State) := (by with_reducible rfl); clear hT; refine (fun (hx : Grow s0 x) => ?_) ?_; (on_goal 1 => clear_value x); (on_goal 2 => subst x)) | (have hT : (type_of% x) = (List Nat) := (by with_reducible rfl); clear hT; clear_value x) | (clear_value x) | fail)
    | with_reducible apply State.refusedAccess_grow
    | with_reducible apply State.celUse_grow
    | with_reducible apply State.ueRecord_grow
    | with_reducible apply State.uncorrectable_grow
    | with_reducible apply State.headCorrected_grow
    | with_reducible refine State.each_grow ?_ _ ?_
    | split
    | with_reducible apply growP_pair

theorem State.headReadRow_grow {s0 s : State} (h : Grow s0 s) {a1 a2 a3} : GrowP s0 (State.headReadRow s a1 a2 a3) := by
  have e := @rfl _ @State.headReadRow
  conv at e => rhs; delta State.headReadRow
  rw [e]; clear e; beta_reduce
  repeat' first
    | with_reducible assumption
    | intro _ _ _
    | (fail_if_no_progress (extract_lets -underBinder +onlyGivenNames x); first | (have hT : (type_of% x) = (State) := (by with_reducible rfl); clear hT; refine (fun (hx : Grow s0 x) => ?_) ?_; (on_goal 1 => clear_value x); (on_goal 2 => subst x)) | (have hT : (type_of% x) = (Nat) := (by with_reducible rfl); clear hT; clear_value x) | (have hT : (type_of% x) = (List Nat) := (by with_reducible rfl); clear hT; clear_value x) | (clear_value x) | fail)
    | with_reducible apply State.refusedAccess_grow
    | with_reducible apply State.celUse_grow
    | with_reducible apply State.headCorrected_grow
    | with_reducible apply State.ueRecord_grow
    | with_reducible apply State.uncorrectable_grow
    | with_reducible refine State.each_grow ?_ _ ?_
    | split
    | with_reducible apply growP_pair

theorem State.shutter_grow {s0 s : State} (h : Grow s0 s) {a1 a2 a3} : Grow s0 (State.shutter s a1 a2 a3) := by
  have e := @rfl _ @State.shutter
  conv at e => rhs; delta State.shutter
  rw [e]; clear e; beta_reduce
  repeat' first
    | with_reducible assumption
    | (fail_if_no_progress (extract_lets -underBinder +onlyGivenNames x); first | (have hT : (type_of% x) = (State) := (by with_reducible rfl); clear hT; refine (fun (hx : Grow s0 x) => ?_) ?_; (on_goal 1 => clear_value x); (on_goal 2 => subst x)) | fail)
    | (with_reducible apply grow_ite <;> intro)
    | with_reducible apply State.setB_grow
    | with_reducible apply State.shutterFirst_grow
    | with_reducible apply State.errRec_grow

end Sys2Proof.Machine
end

