-- ==== Sys2Proof/Laws/BeamGrow.lean ====
section
/-! SUPPORT. The operations of Machine/Beam.lean leave every committed set and drop no mark: see Laws/Grow.lean. -/

set_option linter.all false

namespace Sys2Proof.Machine

theorem State.updBs_grow {s0 s : State} (h : Grow s0 s) {a1 a2} : Grow s0 (State.updBs s a1 a2) := by
  have e := @rfl _ @State.updBs
  conv at e => rhs; delta State.updBs
  rw [e]; clear e; beta_reduce
  repeat' first
    | with_reducible assumption
    | (with_reducible refine State.updHead_grow ?_ ?_; (on_goal 2 => intro _ _ ht; first | exact ht | exact List.mem_cons_of_mem _ ht | (split <;> exact ht)))

theorem State.setView_grow {s0 s : State} (h : Grow s0 s) {a1 a2 a3} : Grow s0 (State.setView s a1 a2 a3) := by
  have e := @rfl _ @State.setView
  conv at e => rhs; delta State.setView
  rw [e]; clear e; beta_reduce
  repeat' first
    | with_reducible assumption
    | (fail_if_no_progress (extract_lets -underBinder +onlyGivenNames x); first | (have hT : (type_of% x) = (BitVec 32) := (by with_reducible rfl); clear hT; clear_value x) | fail)
    | with_reducible apply State.updBs_grow

theorem State.bsPut_grow {s0 s : State} (h : Grow s0 s) {a1 a2 a3} : Grow s0 (State.bsPut s a1 a2 a3) := by
  have e := @rfl _ @State.bsPut
  conv at e => rhs; delta State.bsPut
  rw [e]; clear e; beta_reduce
  repeat' first
    | with_reducible assumption
    | with_reducible apply State.updBs_grow

theorem State.bsPantry_grow {s0 s : State} (h : Grow s0 s) {a1 a2 a3 a4} : Grow s0 (State.bsPantry s a1 a2 a3 a4) := by
  have e := @rfl _ @State.bsPantry
  conv at e => rhs; delta State.bsPantry
  rw [e]; clear e; beta_reduce
  repeat' first
    | with_reducible assumption
    | intro _ _ _
    | (fail_if_no_progress (extract_lets -underBinder +onlyGivenNames x); first | (have hT : (type_of% x) = (List Nat) := (by with_reducible rfl); clear hT; clear_value x) | fail)
    | (with_reducible apply grow_ite <;> intro)
    | with_reducible apply State.bsPut_grow
    | with_reducible apply State.headCorrected_grow
    | with_reducible refine State.each_grow ?_ _ ?_
    | split

theorem State.bsAccess_grow {s0 s : State} (h : Grow s0 s) {a1 a2} : Grow s0 (State.bsAccess s a1 a2) := by
  have e := @rfl _ @State.bsAccess
  conv at e => rhs; delta State.bsAccess
  rw [e]; clear e; beta_reduce
  repeat' first
    | with_reducible assumption
    | (fail_if_no_progress (extract_lets -underBinder +onlyGivenNames x); first | (have hT : (type_of% x) = (Nat) := (by with_reducible rfl); clear hT; clear_value x) | (clear_value x) | fail)
    | with_reducible apply State.bsPantry_grow
    | with_reducible apply State.bsPut_grow
    | with_reducible apply State.refusedAccess_grow
    | split

theorem State.bsEnd_grow {s0 s : State} (h : Grow s0 s) {a1} : Grow s0 (State.bsEnd s a1) := by
  have e := @rfl _ @State.bsEnd
  conv at e => rhs; delta State.bsEnd
  rw [e]; clear e; beta_reduce
  repeat' first
    | with_reducible assumption
    | with_reducible apply State.updBs_grow
    | with_reducible apply State.setReg_grow

theorem State.bsLand_grow {s0 s : State} (h : Grow s0 s) {a1 a2} : Grow s0 (State.bsLand s a1 a2) := by
  have e := @rfl _ @State.bsLand
  conv at e => rhs; delta State.bsLand
  rw [e]; clear e; beta_reduce
  repeat' first
    | with_reducible assumption
    | intro _ _ _
    | (fail_if_no_progress (extract_lets -underBinder +onlyGivenNames x); first | (have hT : (type_of% x) = (State) := (by with_reducible rfl); clear hT; refine (fun (hx : Grow s0 x) => ?_) ?_; (on_goal 1 => clear_value x); (on_goal 2 => subst x)) | (clear_value x) | fail)
    | (with_reducible apply grow_ite <;> intro)
    | with_reducible apply State.setView_grow
    | with_reducible apply State.mark_grow
    | with_reducible apply State.raiseLine_grow
    | with_reducible apply State.setReg_grow
    | with_reducible apply State.setB_grow
    | with_reducible apply State.updBs_grow
    | with_reducible refine State.each_grow ?_ _ ?_
    | split

theorem State.bsLandDue_grow {s0 s : State} (h : Grow s0 s) {a1 a2 a3} : Grow s0 (State.bsLandDue s a1 a2 a3) := by
  have e := @rfl _ @State.bsLandDue
  conv at e => rhs; delta State.bsLandDue
  rw [e]; clear e; beta_reduce
  repeat' first
    | with_reducible assumption
    | intro _ _ _
    | (fail_if_no_progress (extract_lets -underBinder +onlyGivenNames x); first | (have hT : (type_of% x) = (State) := (by with_reducible rfl); clear hT; refine (fun (hx : Grow s0 x) => ?_) ?_; (on_goal 1 => clear_value x); (on_goal 2 => subst x)) | (have hT : (type_of% x) = (List Nat) := (by with_reducible rfl); clear hT; clear_value x) | (clear_value x) | fail)
    | (with_reducible apply grow_ite <;> intro)
    | with_reducible apply State.updBs_grow
    | with_reducible apply State.bsLand_grow
    | with_reducible apply State.mark_grow
    | with_reducible apply State.raiseLine_grow
    | with_reducible apply State.setReg_grow
    | with_reducible refine State.each_grow ?_ _ ?_
    | split

theorem State.bsNext_grow {s0 s : State} (h : Grow s0 s) {a1 a2 a3} : Grow s0 (State.bsNext s a1 a2 a3) := by
  have e := @rfl _ @State.bsNext
  conv at e => rhs; delta State.bsNext
  rw [e]; clear e; beta_reduce
  repeat' first
    | with_reducible assumption
    | with_reducible apply State.updBs_grow
    | with_reducible apply State.setF_grow

theorem State.bsBranch_grow {s0 s : State} (h : Grow s0 s) {a1 a2 a3} : Grow s0 (State.bsBranch s a1 a2 a3) := by
  have e := @rfl _ @State.bsBranch
  conv at e => rhs; delta State.bsBranch
  rw [e]; clear e; beta_reduce
  repeat' first
    | with_reducible assumption
    | (fail_if_no_progress (extract_lets -underBinder +onlyGivenNames x); first | (have hT : (type_of% x) = (State) := (by with_reducible rfl); clear hT; refine (fun (hx : Grow s0 x) => ?_) ?_; (on_goal 1 => clear_value x); (on_goal 2 => subst x)) | fail)
    | (with_reducible apply grow_ite <;> intro)
    | with_reducible apply State.bsNext_grow
    | (with_reducible refine Grow.upd ?_; with_reducible assumption)

theorem State.bsWait_grow {s0 s : State} (h : Grow s0 s) {a1 a2 a3} : Grow s0 (State.bsWait s a1 a2 a3) := by
  have e := @rfl _ @State.bsWait
  conv at e => rhs; delta State.bsWait
  rw [e]; clear e; beta_reduce
  repeat' first
    | with_reducible assumption
    | (fail_if_no_progress (extract_lets -underBinder +onlyGivenNames x); first | (have hT : (type_of% x) = (State) := (by with_reducible rfl); clear hT; refine (fun (hx : Grow s0 x) => ?_) ?_; (on_goal 1 => clear_value x); (on_goal 2 => subst x)) | (have hT : (type_of% x) = (Nat) := (by with_reducible rfl); clear hT; clear_value x) | (clear_value x) | fail)
    | (with_reducible apply grow_ite <;> intro)
    | with_reducible apply State.bsNext_grow
    | with_reducible apply State.updBs_grow
    | with_reducible apply State.setB_grow
    | split

theorem State.bsHave_grow {s0 s : State} (h : Grow s0 s) {a1 a2} : GrowP s0 (State.bsHave s a1 a2) := by
  have e := @rfl _ @State.bsHave
  conv at e => rhs; delta State.bsHave
  rw [e]; clear e; beta_reduce
  repeat' first
    | with_reducible assumption
    | (with_reducible apply growP_ite <;> intro)
    | with_reducible apply State.setB_grow
    | with_reducible apply State.bsAccess_grow
    | with_reducible apply growP_pair

theorem State.bsFault_grow {s0 s : State} (h : Grow s0 s) {a1 a2 a3 a4} : Grow s0 (State.bsFault s a1 a2 a3 a4) := by
  have e := @rfl _ @State.bsFault
  conv at e => rhs; delta State.bsFault
  rw [e]; clear e; beta_reduce
  repeat' first
    | with_reducible assumption
    | (fail_if_no_progress (extract_lets -underBinder +onlyGivenNames x); first | (have hT : (type_of% x) = (State) := (by with_reducible rfl); clear hT; refine (fun (hx : Grow s0 x) => ?_) ?_; (on_goal 1 => clear_value x); (on_goal 2 => subst x)) | (have hT : (type_of% x) = (Nat) := (by with_reducible rfl); clear hT; clear_value x) | (clear_value x) | fail)
    | (with_reducible apply grow_ite <;> intro)
    | with_reducible apply State.setReg_grow
    | with_reducible apply State.setB_grow
    | with_reducible apply State.errRec_grow
    | with_reducible apply State.bsEnd_grow

theorem State.bsPrefetch_grow {s0 s : State} (h : Grow s0 s) {a1 a2} : Grow s0 (State.bsPrefetch s a1 a2) := by
  have e := @rfl _ @State.bsPrefetch
  conv at e => rhs; delta State.bsPrefetch
  rw [e]; clear e; beta_reduce
  repeat' first
    | with_reducible assumption
    | (with_reducible apply grow_ite <;> intro)
    | with_reducible apply State.bsAccess_grow

theorem State.bsAnchor_grow {s0 s : State} (h : Grow s0 s) {a1} : GrowP s0 (State.bsAnchor s a1) := by
  have e := @rfl _ @State.bsAnchor
  conv at e => rhs; delta State.bsAnchor
  rw [e]; clear e; beta_reduce
  repeat' first
    | with_reducible assumption
    | (fail_if_no_progress (extract_lets -underBinder +onlyGivenNames x); first | (have hT : (type_of% x) = (Nat) := (by with_reducible rfl); clear hT; clear_value x) | (clear_value x) | fail)
    | (with_reducible apply growP_ite <;> intro)
    | with_reducible apply State.setB_grow
    | with_reducible apply growP_pair

theorem State.bsSchedule_grow {s0 s : State} (h : Grow s0 s) {a1 a2} : Grow s0 (State.bsSchedule s a1 a2) := by
  have e := @rfl _ @State.bsSchedule
  conv at e => rhs; delta State.bsSchedule
  rw [e]; clear e; beta_reduce
  repeat' first
    | with_reducible assumption
    | (fail_if_no_progress (extract_lets -underBinder +onlyGivenNames x); first | (have hT : ∃ α : Type, (type_of% x) = (α × State) := ⟨_, rfl⟩; clear hT; refine (fun (hx : GrowP s0 x) => ?_) ?_; (on_goal 1 => clear_value x); (on_goal 2 => subst x)) | fail)
    | with_reducible apply State.bsAnchor_grow
    | with_reducible apply State.updBs_grow
    | (with_reducible apply GrowP.out; with_reducible assumption)

theorem State.setActive_grow {s0 s : State} (h : Grow s0 s) {a1 a2 a3} : Grow s0 (State.setActive s a1 a2 a3) := by
  have e := @rfl _ @State.setActive
  conv at e => rhs; delta State.setActive
  rw [e]; clear e; beta_reduce
  repeat' first
    | with_reducible assumption
    | (fail_if_no_progress (extract_lets -underBinder +onlyGivenNames x); first | (have hT : (type_of% x) = (BitVec 32) := (by with_reducible rfl); clear hT; clear_value x) | fail)
    | (with_reducible apply grow_ite <;> intro)
    | (with_reducible refine State.updHead_grow ?_ ?_; (on_goal 2 => intro _ _ ht; first | exact ht | exact List.mem_cons_of_mem _ ht | (split <;> exact ht)))
    | with_reducible apply State.setReg_grow

theorem State.bsWrite_grow {s0 s : State} (h : Grow s0 s) {a1 a2 a3} : Grow s0 (State.bsWrite s a1 a2 a3) := by
  have e := @rfl _ @State.bsWrite
  conv at e => rhs; delta State.bsWrite
  rw [e]; clear e; beta_reduce
  repeat' first
    | with_reducible assumption
    | intro _ _ _
    | (fail_if_no_progress (extract_lets -underBinder +onlyGivenNames x); first | (have hT : (type_of% x) = (BitVec 32) := (by with_reducible rfl); clear hT; clear_value x) | (have hT : (type_of% x) = (Bool) := (by with_reducible rfl); clear hT; clear_value x) | (clear_value x) | fail)
    | (with_reducible apply grow_ite <;> intro)
    | with_reducible apply State.bsFault_grow
    | with_reducible apply State.setReg_grow
    | with_reducible apply State.bsSchedule_grow
    | with_reducible apply State.setView_grow
    | with_reducible apply State.setActive_grow
    | with_reducible refine State.each_grow ?_ _ ?_

theorem State.bsEntry_grow {s0 s : State} (h : Grow s0 s) {a1 a2 a3 a4} : Grow s0 (State.bsEntry s a1 a2 a3 a4) := by
  have e := @rfl _ @State.bsEntry
  conv at e => rhs; delta State.bsEntry
  rw [e]; clear e; beta_reduce
  repeat' first
    | with_reducible assumption
    | intro _ _ _
    | (fail_if_no_progress (extract_lets -underBinder +onlyGivenNames x); first | (have hT : (type_of% x) = (State) := (by with_reducible rfl); clear hT; refine (fun (hx : Grow s0 x) => ?_) ?_; (on_goal 1 => clear_value x); (on_goal 2 => subst x)) | (have hT : (type_of% x) = (Nat) := (by with_reducible rfl); clear hT; clear_value x) | (have hT : ∃ α : Type, (type_of% x) = (State → α → State) := ⟨_, rfl⟩; clear hT; refine (fun (hx : ∀ t a, Grow s0 t → Grow s0 (x t a)) => ?_) ?_; (on_goal 1 => clear_value x); (on_goal 2 => subst x)) | (clear_value x) | (skip) | fail)
    | (with_reducible apply grow_ite <;> intro)
    | with_reducible apply State.mark_grow
    | with_reducible apply State.bsEnd_grow
    | with_reducible apply State.bsWait_grow
    | with_reducible apply State.bsNext_grow
    | with_reducible apply State.bsWrite_grow
    | with_reducible apply State.bsBranch_grow
    | with_reducible apply State.updBs_grow
    | with_reducible apply State.bsSchedule_grow
    | with_reducible apply State.setB_grow
    | with_reducible apply_assumption -exfalso -symm
    | split

theorem State.bsExec_grow {s0 s : State} (h : Grow s0 s) {a1} : Grow s0 (State.bsExec s a1) := by
  have e := @rfl _ @State.bsExec
  conv at e => rhs; delta State.bsExec
  rw [e]; clear e; beta_reduce
  repeat' first
    | with_reducible assumption
    | (fail_if_no_progress (extract_lets -underBinder +onlyGivenNames x); first | (have hT : (type_of% x) = (State) := (by with_reducible rfl); clear hT; refine (fun (hx : Grow s0 x) => ?_) ?_; (on_goal 1 => clear_value x); (on_goal 2 => subst x)) | (have hT : (type_of% x) = (Nat) := (by with_reducible rfl); clear hT; clear_value x) | (have hT : (type_of% x) = (Bool) := (by with_reducible rfl); clear hT; clear_value x) | (have hT : ∃ α : Type, (type_of% x) = (α × State) := ⟨_, rfl⟩; clear hT; refine (fun (hx : GrowP s0 x) => ?_) ?_; (on_goal 1 => clear_value x); (on_goal 2 => subst x)) | (clear_value x) | fail)
    | (with_reducible apply grow_ite <;> intro)
    | (with_reducible apply growP_ite <;> intro)
    | with_reducible apply State.bsEnd_grow
    | with_reducible apply State.bsHave_grow
    | with_reducible apply State.updBs_grow
    | with_reducible apply State.bsFault_grow
    | with_reducible apply State.uncorrectable_grow
    | with_reducible apply State.bsPrefetch_grow
    | with_reducible apply State.bsEntry_grow
    | (with_reducible apply GrowP.out; with_reducible assumption)
    | split
    | with_reducible apply growP_pair

theorem State.bsClocks_grow {s0 s : State} (h : Grow s0 s) {a0 a1 a2} : Grow s0 (State.bsClocks a0 a1 a2 s) := by
  induction a2 generalizing s with
  | zero => exact h
  | succ n ih =>
    unfold State.bsClocks
    repeat' first
      | with_reducible assumption
      | (fail_if_no_progress (extract_lets -underBinder +onlyGivenNames x); first | (have hT : (type_of% x) = (State) := (by with_reducible rfl); clear hT; refine (fun (hx : Grow s0 x) => ?_) ?_; (on_goal 1 => clear_value x); (on_goal 2 => subst x)) | (have hT : (type_of% x) = (Nat) := (by with_reducible rfl); clear hT; clear_value x) | (clear_value x) | fail)
      | (with_reducible apply grow_ite <;> intro)
      | with_reducible apply State.bsLandDue_grow
      | with_reducible apply State.setB_grow
      | with_reducible apply State.setF_grow
      | with_reducible apply State.mark_grow
      | with_reducible apply State.updBs_grow
      | with_reducible apply State.bsExec_grow
      | with_reducible apply_assumption -exfalso -symm
      | split
      | with_reducible apply ih

theorem State.bsNewLine_grow {s0 s : State} (h : Grow s0 s) {a1 a2} : Grow s0 (State.bsNewLine s a1 a2) := by
  have e := @rfl _ @State.bsNewLine
  conv at e => rhs; delta State.bsNewLine
  rw [e]; clear e; beta_reduce
  repeat' first
    | with_reducible assumption
    | (fail_if_no_progress (extract_lets -underBinder +onlyGivenNames x); first | (have hT : (type_of% x) = (State) := (by with_reducible rfl); clear hT; refine (fun (hx : Grow s0 x) => ?_) ?_; (on_goal 1 => clear_value x); (on_goal 2 => subst x)) | (clear_value x) | fail)
    | (with_reducible apply grow_ite <;> intro)
    | with_reducible apply State.mark_grow
    | with_reducible apply State.updBs_grow

end Sys2Proof.Machine
end

