-- ==== Sys2Proof/Laws/Calm.lean ====
section
/-! SUPPORT. The operations that finish waiting commands leave a calm list of open commands alone: one in which every command waits for nothing and has not begun or is finished.  `Calm s t` says so, and the files beside this one prove it of each such operation. -/

namespace Sys2Proof.Machine

/-- A command that nothing can finish now: it waits for nothing, and has not begun or is finished. -/
def Open.calm (o : Open) : Prop := o.wait = .none ∧ (o.begun = false ∨ o.fin.isSome = true)

/-- From `s` to `t` the open commands are the same if they are calm. -/
structure Calm (s t : State) : Prop where
  opens : (∀ o ∈ s.foy.opens, o.calm) → t.foy.opens = s.foy.opens

/-- The state in an answer with a value. -/
structure CalmP {α : Type} (s0 : State) (p : α × State) : Prop where
  out : Calm s0 p.2

/-- The state in an optional answer. -/
structure CalmO (s0 : State) (o : Option State) : Prop where
  out : ∀ t, o = some t → Calm s0 t

/-- A next state that is answered. -/
structure CalmU (s0 : State) (o : Out) : Prop where
  out : ∀ t, o = .next t → Calm s0 t

theorem Calm.refl (s : State) : Calm s s := ⟨fun _ => rfl⟩

theorem Calm.of_keep {s0 s t : State} (a : Calm s0 s) (b : Keep s t) : Calm s0 t := ⟨fun h => b.opens.trans (a.opens h)⟩

/-- An update of other fields. -/
theorem Calm.upd {s0 s : State} (h : Calm s0 s) {v0 v1 v2 v3 v4 v5 v6 v7 v8 v9 v10 v11 v12 v13 v14 v15 v16 v17 v18 v19 v20 v21 v22 v23}
    (ha : Foyer.opens v4 = s.foy.opens) :
    Calm s0
      { phase := v0, regs := s.regs, wide := s.wide, com := s.com, mem := s.mem, codes := s.codes, host := s.host, posted := v1,
        readData := v2, readPoison := v3, foy := v4, err := v5, bell := v6, heads := v7, ports := v8, gl := v9,
        dwt := v10, caps := v11, psq := v12, slotTab := v13, mus := v14, rect := v15, cores := v16, att := v17, chm := v18,
        hal := v19, tap := v20, test := v21, pwrLow := v22, free := v23, pending := s.pending } :=
  ⟨fun q => ha.trans (h.opens q)⟩

theorem calm_ite {c : Prop} [Decidable c] {s0 a b : State} (ha : c → Calm s0 a) (hb : ¬ c → Calm s0 b) : Calm s0 (if c then a else b) := by
  split
  · exact ha ‹_›
  · exact hb ‹_›

theorem calmP_ite {α : Type} {c : Prop} [Decidable c] {s0 : State} {a b : α × State} (ha : c → CalmP s0 a) (hb : ¬ c → CalmP s0 b) :
    CalmP s0 (if c then a else b) := by
  split
  · exact ha ‹_›
  · exact hb ‹_›

theorem calmO_ite {c : Prop} [Decidable c] {s0 : State} {a b : Option State} (ha : c → CalmO s0 a) (hb : ¬ c → CalmO s0 b) :
    CalmO s0 (if c then a else b) := by
  split
  · exact ha ‹_›
  · exact hb ‹_›

theorem calmP_pair {α : Type} {s0 s : State} {a : α} (h : Calm s0 s) : CalmP s0 (a, s) := ⟨h⟩
theorem CalmP.of_eq {α : Type} {s0 s : State} {p : α × State} {a : α} (e : p = (a, s)) (h : CalmP s0 p) : Calm s0 s := by
  subst e; exact h.out
theorem calmU_ite {c : Prop} [Decidable c] {s0 : State} {a b : Out} (ha : c → CalmU s0 a) (hb : ¬ c → CalmU s0 b) :
    CalmU s0 (if c then a else b) := by
  split
  · exact ha ‹_›
  · exact hb ‹_›

theorem calmU_next {s0 s : State} (h : Calm s0 s) : CalmU s0 (.next s) := ⟨fun _ e => by cases e; exact h⟩

theorem calmO_none {s0 : State} : CalmO s0 none := ⟨fun _ h => by cases h⟩
theorem calmO_some {s0 s : State} (h : Calm s0 s) : CalmO s0 (some s) := ⟨fun _ e => by cases e; exact h⟩
theorem calmP_out {α : Type} {s0 s : State} {a : α} (h : CalmP s0 (a, s)) : Calm s0 s := h.out
theorem calmO_out {s0 s : State} (h : CalmO s0 (some s)) : Calm s0 s := h.out s rfl
theorem CalmO.of_eq {s0 s : State} {o : Option State} (e : o = some s) (h : CalmO s0 o) : Calm s0 s := h.out s e
theorem CalmO.getD {s0 s : State} {o : Option State} (h : CalmO s0 o) (h' : Calm s0 s) : Calm s0 (o.getD s) := by
  cases o with
  | none => exact h'
  | some t => exact h.out t rfl

/-- A fold that keeps this in each step keeps it. -/
theorem foldl_calm {α : Type} {s0 : State} (l : List α) {f : State → α → State} {s : State} (h : Calm s0 s)
    (hf : ∀ t a, Calm s0 t → Calm s0 (f t a)) : Calm s0 (l.foldl f s) := by
  induction l generalizing s with
  | nil => exact h
  | cons a l ih => exact ih (hf s a h)

theorem foldl_calmP {α β : Type} {s0 : State} (l : List α) {f : β × State → α → β × State} {p : β × State} (h : CalmP s0 p)
    (hf : ∀ t a, CalmP s0 t → CalmP s0 (f t a)) : CalmP s0 (l.foldl f p) := by
  induction l generalizing p with
  | nil => exact h
  | cons a l ih => exact ih (hf p a h)

theorem State.each_calm {α : Type} {s0 s : State} (h : Calm s0 s) (l : List α) {f : State → α → State}
    (hf : ∀ t a, Calm s0 t → Calm s0 (f t a)) : Calm s0 (s.each l f) := foldl_calm l h hf

/-! ## The operations that store -/

theorem State.setReg_calm {s0 s : State} (h : Calm s0 s) {k v} : Calm s0 (s.setReg k v) := ⟨h.opens⟩
theorem State.setW64_calm {s0 s : State} (h : Calm s0 s) {k v} : Calm s0 (s.setW64 k v) := ⟨h.opens⟩
theorem State.setCm_calm {s0 s : State} (h : Calm s0 s) {k o v} : Calm s0 (s.setCm k o v) := ⟨h.opens⟩
theorem State.setByte_calm {s0 s : State} (h : Calm s0 s) {k v} : Calm s0 (s.setByte k v) := ⟨h.opens⟩
theorem State.setCode_calm {s0 s : State} (h : Calm s0 s) {k v} : Calm s0 (s.setCode k v) := ⟨h.opens⟩
theorem State.hostWrite_calm {s0 s : State} (h : Calm s0 s) {a bs} : Calm s0 (s.hostWrite a bs) := ⟨h.opens⟩

end Sys2Proof.Machine
end

