-- ==== Sys2Proof/Laws/OpsCalm.lean ====
section
/-! SUPPORT. The operations of Machine/Ops.lean that can finish commands leave calm ones alone: see Laws/Calm.lean. -/

set_option linter.all false

namespace Sys2Proof.Machine

theorem State.setB_calm {s0 s : State} (h : Calm s0 s) {a1 a2 a3} : Calm s0 (State.setB s a1 a2 a3) := by
  have e := @rfl _ @State.setB
  conv at e => rhs; delta State.setB
  rw [e]; clear e; beta_reduce
  repeat' first
    | with_reducible assumption
    | with_reducible apply State.setReg_calm

theorem State.msix_calm {s0 s : State} (h : Calm s0 s) {a1 a2} : Calm s0 (State.msix s a1 a2) := by
  have e := @rfl _ @State.msix
  conv at e => rhs; delta State.msix
  rw [e]; clear e; beta_reduce
  repeat' first
    | with_reducible assumption
    | (fail_if_no_progress (extract_lets -underBinder +onlyGivenNames x); first | (have hT : (type_of% x) = (State) := (by with_reducible rfl); clear hT; refine (fun (hx : Calm s0 x) => ?_) ?_; (on_goal 1 => clear_value x); (on_goal 2 => subst x)) | (have hT : (type_of% x) = (Nat) := (by with_reducible rfl); clear hT; clear_value x) | (have hT : (type_of% x) = (BitVec 32) := (by with_reducible rfl); clear hT; clear_value x) | (have hT : (type_of% x) = (BitVec 64) := (by with_reducible rfl); clear hT; clear_value x) | (clear_value x) | fail)
    | (with_reducible apply calm_ite <;> intro)
    | with_reducible apply State.setB_calm
    | with_reducible apply State.hostWrite_calm
    | (with_reducible refine Calm.upd ?_ ?_; (on_goal 2 => with_reducible rfl); with_reducible assumption)

theorem State.setF_calm {s0 s : State} (h : Calm s0 s) {a1 a2 a3 a4} : Calm s0 (State.setF s a1 a2 a3 a4) := by
  have e := @rfl _ @State.setF
  conv at e => rhs; delta State.setF
  rw [e]; clear e; beta_reduce
  repeat' first
    | with_reducible assumption
    | with_reducible apply State.setReg_calm

theorem State.deliver_calm {s0 s : State} (h : Calm s0 s) {a1} : Calm s0 (State.deliver s a1) := by
  have e := @rfl _ @State.deliver
  conv at e => rhs; delta State.deliver
  rw [e]; clear e; beta_reduce
  repeat' first
    | with_reducible assumption
    | (with_reducible apply calm_ite <;> intro)
    | with_reducible apply State.msix_calm

theorem State.notify_calm {s0 s : State} (h : Calm s0 s) {a1 a2} : Calm s0 (State.notify s a1 a2) := by
  have e := @rfl _ @State.notify
  conv at e => rhs; delta State.notify
  rw [e]; clear e; beta_reduce
  repeat' first
    | with_reducible assumption
    | (fail_if_no_progress (extract_lets -underBinder +onlyGivenNames x); first | (have hT : (type_of% x) = (State) := (by with_reducible rfl); clear hT; refine (fun (hx : Calm s0 x) => ?_) ?_; (on_goal 1 => clear_value x); (on_goal 2 => subst x)) | fail)
    | (with_reducible apply calm_ite <;> intro)
    | with_reducible apply State.deliver_calm
    | (with_reducible refine Calm.upd ?_ ?_; (on_goal 2 => with_reducible rfl); with_reducible assumption)

theorem State.setSrc_calm {s0 s : State} (h : Calm s0 s) {a1 a2} : Calm s0 (State.setSrc s a1 a2) := by
  have e := @rfl _ @State.setSrc
  conv at e => rhs; delta State.setSrc
  rw [e]; clear e; beta_reduce
  repeat' first
    | (fail_if_no_progress (extract_lets -underBinder +onlyGivenNames x); first | (clear_value x) | fail)
    | (with_reducible refine Calm.upd ?_ ?_; (on_goal 2 => with_reducible rfl); with_reducible assumption)

theorem State.pulse_calm {s0 s : State} (h : Calm s0 s) {a1} : Calm s0 (State.pulse s a1) := by
  have e := @rfl _ @State.pulse
  conv at e => rhs; delta State.pulse
  rw [e]; clear e; beta_reduce
  repeat' first
    | with_reducible assumption
    | (fail_if_no_progress (extract_lets -underBinder +onlyGivenNames x); first | (clear_value x) | fail)
    | (with_reducible apply calm_ite <;> intro)
    | with_reducible apply State.notify_calm
    | with_reducible apply State.setSrc_calm

theorem State.incReg_calm {s0 s : State} (h : Calm s0 s) {a1} : Calm s0 (State.incReg s a1) := by
  have e := @rfl _ @State.incReg
  conv at e => rhs; delta State.incReg
  rw [e]; clear e; beta_reduce
  repeat' first
    | with_reducible assumption
    | with_reducible apply State.setReg_calm

theorem State.errWrite_calm {s0 s : State} (h : Calm s0 s) {a1} : Calm s0 (State.errWrite s a1) := by
  have e := @rfl _ @State.errWrite
  conv at e => rhs; delta State.errWrite
  rw [e]; clear e; beta_reduce
  repeat' first
    | with_reducible assumption
    | (fail_if_no_progress (extract_lets -underBinder +onlyGivenNames x); first | (have hT : (type_of% x) = (State) := (by with_reducible rfl); clear hT; refine (fun (hx : Calm s0 x) => ?_) ?_; (on_goal 1 => clear_value x); (on_goal 2 => subst x)) | (have hT : (type_of% x) = (Nat) := (by with_reducible rfl); clear hT; clear_value x) | (have hT : (type_of% x) = (Bool) := (by with_reducible rfl); clear hT; clear_value x) | (have hT : (type_of% x) = (BitVec 64) := (by with_reducible rfl); clear hT; clear_value x) | (clear_value x) | (skip) | fail)
    | (with_reducible apply calm_ite <;> intro)
    | with_reducible apply State.setW64_calm
    | with_reducible apply State.setF_calm
    | with_reducible apply State.pulse_calm
    | with_reducible apply State.setB_calm
    | with_reducible apply State.incReg_calm
    | (with_reducible refine Calm.upd ?_ ?_; (on_goal 2 => with_reducible rfl); with_reducible assumption)

theorem State.errRec_calm {s0 s : State} (h : Calm s0 s) {a1 a2 a3 a4 a5 a6 a7} : Calm s0 (State.errRec s a1 a2 a3 a4 a5 a6 a7) := by
  have e := @rfl _ @State.errRec
  conv at e => rhs; delta State.errRec
  rw [e]; clear e; beta_reduce
  repeat' first
    | with_reducible assumption
    | (fail_if_no_progress (extract_lets -underBinder +onlyGivenNames x); first | (have hT : (type_of% x) = (State) := (by with_reducible rfl); clear hT; refine (fun (hx : Calm s0 x) => ?_) ?_; (on_goal 1 => clear_value x); (on_goal 2 => subst x)) | (clear_value x) | fail)
    | (with_reducible apply calm_ite <;> intro)
    | with_reducible apply State.incReg_calm
    | with_reducible apply State.errWrite_calm
    | (with_reducible refine Calm.upd ?_ ?_; (on_goal 2 => with_reducible rfl); with_reducible assumption)

theorem State.level_calm {s0 s : State} (h : Calm s0 s) {a1 a2} : Calm s0 (State.level s a1 a2) := by
  have e := @rfl _ @State.level
  conv at e => rhs; delta State.level
  rw [e]; clear e; beta_reduce
  repeat' first
    | with_reducible assumption
    | (fail_if_no_progress (extract_lets -underBinder +onlyGivenNames x); first | (clear_value x) | fail)
    | (with_reducible apply calm_ite <;> intro)
    | with_reducible apply State.notify_calm
    | with_reducible apply State.setSrc_calm

end Sys2Proof.Machine
end

