-- ==== Sys2Proof/Laws/BellCalm.lean ====
section
/-! SUPPORT. The operations of Machine/Bell.lean that can finish commands leave calm ones alone: see Laws/Calm.lean. -/

set_option linter.all false

namespace Sys2Proof.Machine

theorem State.notifyAll_calm {s0 s : State} (h : Calm s0 s) {a1} : Calm s0 (State.notifyAll s a1) := by
  have e := @rfl _ @State.notifyAll
  conv at e => rhs; delta State.notifyAll
  rw [e]; clear e; beta_reduce
  repeat' first
    | with_reducible assumption
    | intro _ _ _
    | with_reducible apply State.notify_calm
    | with_reducible refine State.each_calm ?_ _ ?_

theorem State.belReset_calm {s0 s : State} (h : Calm s0 s) : Calm s0 (State.belReset s) := by
  have e := @rfl _ @State.belReset
  conv at e => rhs; delta State.belReset
  rw [e]; clear e; beta_reduce
  repeat' first
    | with_reducible assumption
    | intro _ _ _
    | (fail_if_no_progress (extract_lets -underBinder +onlyGivenNames x); first | (have hT : (type_of% x) = (State) := (by with_reducible rfl); clear hT; refine (fun (hx : Calm s0 x) => ?_) ?_; (on_goal 1 => clear_value x); (on_goal 2 => subst x)) | (have hT : ∃ α : Type, (type_of% x) = (State → α → State) := ⟨_, rfl⟩; clear hT; refine (fun (hx : ∀ t a, Calm s0 t → Calm s0 (x t a)) => ?_) ?_; (on_goal 1 => clear_value x); (on_goal 2 => subst x)) | fail)
    | with_reducible apply State.setSrc_calm
    | with_reducible apply State.notifyAll_calm
    | with_reducible apply State.setReg_calm
    | with_reducible refine State.each_calm ?_ _ ?_

end Sys2Proof.Machine
end

