-- ==== Sys2Proof/Laws/BellKeep.lean ====
section
/-! SUPPORT. The operations of Machine/Bell.lean keep the open commands: see Laws/Keep.lean. -/

set_option linter.all false

namespace Sys2Proof.Machine

theorem State.doneWrite_keep {s0 s : State} (h : Keep s0 s) {a1 a2} : Keep s0 (State.doneWrite s a1 a2) := by
  have e := @rfl _ @State.doneWrite
  conv at e => rhs; delta State.doneWrite
  rw [e]; clear e; beta_reduce
  repeat' first
    | with_reducible assumption
    | (fail_if_no_progress (extract_lets -underBinder +onlyGivenNames x); first | (have hT : (type_of% x) = (Nat) := (by with_reducible rfl); clear hT; clear_value x) | (clear_value x) | fail)
    | (with_reducible apply keep_ite <;> intro)
    | with_reducible apply State.notify_keep
    | with_reducible apply State.setSrc_keep
    | with_reducible apply State.setB_keep

theorem State.holdStart_keep {s0 s : State} (h : Keep s0 s) {a1} : Keep s0 (State.holdStart s a1) := by
  have e := @rfl _ @State.holdStart
  conv at e => rhs; delta State.holdStart
  rw [e]; clear e; beta_reduce
  repeat' first
    | (fail_if_no_progress (extract_lets -underBinder +onlyGivenNames x); first | (clear_value x) | fail)
    | with_reducible apply State.setReg_keep
    | (with_reducible refine Keep.upd ?_ ?_; (on_goal 2 => exact ⟨by with_reducible rfl, by with_reducible rfl, by with_reducible rfl⟩); with_reducible assumption)

theorem State.swWrite_keep {s0 s : State} (h : Keep s0 s) {a1 a2 a3} : Keep s0 (State.swWrite s a1 a2 a3) := by
  have e := @rfl _ @State.swWrite
  conv at e => rhs; delta State.swWrite
  rw [e]; clear e; beta_reduce
  repeat' first
    | with_reducible assumption
    | intro _ _ _
    | with_reducible apply State.level_keep
    | with_reducible refine State.each_keep ?_ _ ?_

theorem State.notifyAll_keep {s0 s : State} (h : Keep s0 s) {a1} : Keep s0 (State.notifyAll s a1) := by
  have e := @rfl _ @State.notifyAll
  conv at e => rhs; delta State.notifyAll
  rw [e]; clear e; beta_reduce
  repeat' first
    | with_reducible assumption
    | intro _ _ _
    | with_reducible apply State.notify_keep
    | with_reducible refine State.each_keep ?_ _ ?_

theorem State.takePlan_keep {s0 s : State} (h : Keep s0 s) : Keep s0 (State.takePlan s) := by
  have e := @rfl _ @State.takePlan
  conv at e => rhs; delta State.takePlan
  rw [e]; clear e; beta_reduce
  repeat' first
    | with_reducible assumption
    | (fail_if_no_progress (extract_lets -underBinder +onlyGivenNames x); first | (have hT : (type_of% x) = (State) := (by with_reducible rfl); clear hT; refine (fun (hx : Keep s0 x) => ?_) ?_; (on_goal 1 => clear_value x); (on_goal 2 => subst x)) | (have hT : (type_of% x) = (List Nat) := (by with_reducible rfl); clear hT; clear_value x) | (clear_value x) | fail)
    | with_reducible apply State.notifyAll_keep
    | with_reducible apply State.setReg_keep
    | (with_reducible refine Keep.upd ?_ ?_; (on_goal 2 => exact ⟨by with_reducible rfl, by with_reducible rfl, by with_reducible rfl⟩); with_reducible assumption)

theorem State.claim_keep {s0 s : State} (h : Keep s0 s) {a1} : KeepP s0 (State.claim s a1) := by
  have e := @rfl _ @State.claim
  conv at e => rhs; delta State.claim
  rw [e]; clear e; beta_reduce
  repeat' first
    | with_reducible assumption
    | (fail_if_no_progress (extract_lets -underBinder +onlyGivenNames x); first | (have hT : (type_of% x) = (State) := (by with_reducible rfl); clear hT; refine (fun (hx : Keep s0 x) => ?_) ?_; (on_goal 1 => clear_value x); (on_goal 2 => subst x)) | (have hT : (type_of% x) = (Nat) := (by with_reducible rfl); clear hT; clear_value x) | (clear_value x) | fail)
    | (with_reducible apply keep_ite <;> intro)
    | with_reducible apply State.setF_keep
    | with_reducible apply State.setSrc_keep
    | with_reducible apply State.holdStart_keep
    | split
    | with_reducible apply keepP_pair

theorem State.maskWrite_keep {s0 s : State} (h : Keep s0 s) {a1 a2} : Keep s0 (State.maskWrite s a1 a2) := by
  have e := @rfl _ @State.maskWrite
  conv at e => rhs; delta State.maskWrite
  rw [e]; clear e; beta_reduce
  repeat' first
    | with_reducible assumption
    | intro _ _ _
    | (fail_if_no_progress (extract_lets -underBinder +onlyGivenNames x); first | (have hT : (type_of% x) = (State) := (by with_reducible rfl); clear hT; refine (fun (hx : Keep s0 x) => ?_) ?_; (on_goal 1 => clear_value x); (on_goal 2 => subst x)) | (clear_value x) | fail)
    | with_reducible apply State.setReg_keep
    | with_reducible apply State.notify_keep
    | with_reducible refine State.each_keep ?_ _ ?_
    | (with_reducible refine Keep.upd ?_ ?_; (on_goal 2 => exact ⟨by with_reducible rfl, by with_reducible rfl, by with_reducible rfl⟩); with_reducible assumption)

theorem State.msixWrite_keep {s0 s : State} (h : Keep s0 s) {a1 a2 a3} : Keep s0 (State.msixWrite s a1 a2 a3) := by
  have e := @rfl _ @State.msixWrite
  conv at e => rhs; delta State.msixWrite
  rw [e]; clear e; beta_reduce
  repeat' first
    | with_reducible assumption
    | (fail_if_no_progress (extract_lets -underBinder +onlyGivenNames x); first | (have hT : (type_of% x) = (State) := (by with_reducible rfl); clear hT; refine (fun (hx : Keep s0 x) => ?_) ?_; (on_goal 1 => clear_value x); (on_goal 2 => subst x)) | (have hT : (type_of% x) = (Nat) := (by with_reducible rfl); clear hT; clear_value x) | fail)
    | (with_reducible apply keep_ite <;> intro)
    | with_reducible apply State.setReg_keep
    | with_reducible apply State.msix_keep
    | with_reducible apply State.setB_keep
    | split

end Sys2Proof.Machine
end

