-- ==== Sys2Proof/Laws/BellSound.lean ====
section
/-! SUPPORT. The operations of Machine/Bell.lean are sound: see Laws/Sound.lean. -/

set_option linter.all false

namespace Sys2Proof.Machine

theorem State.doneWrite_sound {s0 s : State} (h : Sound s0 s) {a1 a2} : Sound s0 (State.doneWrite s a1 a2) := by
  have e := @rfl _ @State.doneWrite
  conv at e => rhs; delta State.doneWrite
  rw [e]; clear e; beta_reduce
  repeat' first
    | with_reducible assumption
    | (fail_if_no_progress (extract_lets -underBinder +onlyGivenNames x); first | (have hT : (type_of% x) = (Nat) := (by with_reducible rfl); clear hT; clear_value x) | (clear_value x) | fail)
    | (with_reducible apply sound_ite <;> intro)
    | with_reducible apply State.notify_sound
    | with_reducible apply State.setSrc_sound
    | with_reducible apply State.setB_sound

theorem State.holdStart_sound {s0 s : State} (h : Sound s0 s) {a1} : Sound s0 (State.holdStart s a1) := by
  have e := @rfl _ @State.holdStart
  conv at e => rhs; delta State.holdStart
  rw [e]; clear e; beta_reduce
  repeat' first
    | (fail_if_no_progress (extract_lets -underBinder +onlyGivenNames x); first | (clear_value x) | fail)
    | with_reducible apply State.setReg_sound
    | (with_reducible refine Sound.upd ?_ ?_; (on_goal 2 => with_reducible rfl); with_reducible assumption)

theorem State.swWrite_sound {s0 s : State} (h : Sound s0 s) {a1 a2 a3} : Sound s0 (State.swWrite s a1 a2 a3) := by
  have e := @rfl _ @State.swWrite
  conv at e => rhs; delta State.swWrite
  rw [e]; clear e; beta_reduce
  repeat' first
    | with_reducible assumption
    | intro _ _ _
    | with_reducible apply State.level_sound
    | with_reducible refine State.each_sound ?_ _ ?_

theorem State.notifyAll_sound {s0 s : State} (h : Sound s0 s) {a1} : Sound s0 (State.notifyAll s a1) := by
  have e := @rfl _ @State.notifyAll
  conv at e => rhs; delta State.notifyAll
  rw [e]; clear e; beta_reduce
  repeat' first
    | with_reducible assumption
    | intro _ _ _
    | with_reducible apply State.notify_sound
    | with_reducible refine State.each_sound ?_ _ ?_

theorem State.takePlan_sound {s0 s : State} (h : Sound s0 s) : Sound s0 (State.takePlan s) := by
  have e := @rfl _ @State.takePlan
  conv at e => rhs; delta State.takePlan
  rw [e]; clear e; beta_reduce
  repeat' first
    | with_reducible assumption
    | (fail_if_no_progress (extract_lets -underBinder +onlyGivenNames x); first | (have hT : (type_of% x) = (State) := (by with_reducible rfl); clear hT; refine (fun (hx : Sound s0 x) => ?_) ?_; (on_goal 1 => clear_value x); (on_goal 2 => subst x)) | (have hT : (type_of% x) = (List Nat) := (by with_reducible rfl); clear hT; clear_value x) | (clear_value x) | fail)
    | with_reducible apply State.notifyAll_sound
    | with_reducible apply State.setReg_sound
    | (with_reducible refine Sound.upd ?_ ?_; (on_goal 2 => with_reducible rfl); with_reducible assumption)

theorem State.claim_sound {s0 s : State} (h : Sound s0 s) {a1} : Snd s0 (State.claim s a1) := by
  have e := @rfl _ @State.claim
  conv at e => rhs; delta State.claim
  rw [e]; clear e; beta_reduce
  repeat' first
    | with_reducible assumption
    | (fail_if_no_progress (extract_lets -underBinder +onlyGivenNames x); first | (have hT : (type_of% x) = (State) := (by with_reducible rfl); clear hT; refine (fun (hx : Sound s0 x) => ?_) ?_; (on_goal 1 => clear_value x); (on_goal 2 => subst x)) | (have hT : (type_of% x) = (Nat) := (by with_reducible rfl); clear hT; clear_value x) | (clear_value x) | fail)
    | (with_reducible apply sound_ite <;> intro)
    | with_reducible apply State.setF_sound
    | with_reducible apply State.setSrc_sound
    | with_reducible apply State.holdStart_sound
    | split
    | with_reducible apply snd_pair

theorem State.belReset_sound {s0 s : State} (h : Sound s0 s) : Sound s0 (State.belReset s) := by
  have e := @rfl _ @State.belReset
  conv at e => rhs; delta State.belReset
  rw [e]; clear e; beta_reduce
  repeat' first
    | with_reducible assumption
    | intro _ _ _
    | (fail_if_no_progress (extract_lets -underBinder +onlyGivenNames x); first | (have hT : (type_of% x) = (State) := (by with_reducible rfl); clear hT; refine (fun (hx : Sound s0 x) => ?_) ?_; (on_goal 1 => clear_value x); (on_goal 2 => subst x)) | (have hT : ∃ α : Type, (type_of% x) = (State → α → State) := ⟨_, rfl⟩; clear hT; refine (fun (hx : ∀ t a, Sound s0 t → Sound s0 (x t a)) => ?_) ?_; (on_goal 1 => clear_value x); (on_goal 2 => subst x)) | fail)
    | with_reducible apply State.setSrc_sound
    | with_reducible apply State.notifyAll_sound
    | with_reducible apply State.setReg_sound
    | with_reducible refine State.each_sound ?_ _ ?_

theorem State.maskWrite_sound {s0 s : State} (h : Sound s0 s) {a1 a2} : Sound s0 (State.maskWrite s a1 a2) := by
  have e := @rfl _ @State.maskWrite
  conv at e => rhs; delta State.maskWrite
  rw [e]; clear e; beta_reduce
  repeat' first
    | with_reducible assumption
    | intro _ _ _
    | (fail_if_no_progress (extract_lets -underBinder +onlyGivenNames x); first | (have hT : (type_of% x) = (State) := (by with_reducible rfl); clear hT; refine (fun (hx : Sound s0 x) => ?_) ?_; (on_goal 1 => clear_value x); (on_goal 2 => subst x)) | (clear_value x) | fail)
    | with_reducible apply State.setReg_sound
    | with_reducible apply State.notify_sound
    | with_reducible refine State.each_sound ?_ _ ?_
    | (with_reducible refine Sound.upd ?_ ?_; (on_goal 2 => with_reducible rfl); with_reducible assumption)

theorem State.belFlr_sound {s0 s : State} (h : Sound s0 s) {a1} : Sound s0 (State.belFlr s a1) := by
  have e := @rfl _ @State.belFlr
  conv at e => rhs; delta State.belFlr
  rw [e]; clear e; beta_reduce
  repeat' first
    | with_reducible assumption
    | intro _ _ _
    | (fail_if_no_progress (extract_lets -underBinder +onlyGivenNames x); first | (have hT : (type_of% x) = (State) := (by with_reducible rfl); clear hT; refine (fun (hx : Sound s0 x) => ?_) ?_; (on_goal 1 => clear_value x); (on_goal 2 => subst x)) | (have hT : (type_of% x) = (Nat) := (by with_reducible rfl); clear hT; clear_value x) | (have hT : (type_of% x) = (List Nat) := (by with_reducible rfl); clear hT; clear_value x) | (clear_value x) | fail)
    | with_reducible apply State.setSrc_sound
    | with_reducible apply State.setReg_sound
    | with_reducible refine State.each_sound ?_ _ ?_
    | (with_reducible refine Sound.upd ?_ ?_; (on_goal 2 => with_reducible rfl); with_reducible assumption)

theorem State.holdEnd_sound {s0 s : State} (h : Sound s0 s) {a1} : Sound s0 (State.holdEnd s a1) := by
  have e := @rfl _ @State.holdEnd
  conv at e => rhs; delta State.holdEnd
  rw [e]; clear e; beta_reduce
  repeat' first
    | with_reducible assumption
    | intro _ _ _
    | (fail_if_no_progress (extract_lets -underBinder +onlyGivenNames x); first | (have hT : (type_of% x) = (State) := (by with_reducible rfl); clear hT; refine (fun (hx : Sound s0 x) => ?_) ?_; (on_goal 1 => clear_value x); (on_goal 2 => subst x)) | fail)
    | (with_reducible apply sound_ite <;> intro)
    | with_reducible apply State.setReg_sound
    | with_reducible apply State.deliver_sound
    | with_reducible refine State.each_sound ?_ _ ?_

theorem State.msixWrite_sound {s0 s : State} (h : Sound s0 s) {a1 a2 a3} : Sound s0 (State.msixWrite s a1 a2 a3) := by
  have e := @rfl _ @State.msixWrite
  conv at e => rhs; delta State.msixWrite
  rw [e]; clear e; beta_reduce
  repeat' first
    | with_reducible assumption
    | (fail_if_no_progress (extract_lets -underBinder +onlyGivenNames x); first | (have hT : (type_of% x) = (State) := (by with_reducible rfl); clear hT; refine (fun (hx : Sound s0 x) => ?_) ?_; (on_goal 1 => clear_value x); (on_goal 2 => subst x)) | (have hT : (type_of% x) = (Nat) := (by with_reducible rfl); clear hT; clear_value x) | fail)
    | (with_reducible apply sound_ite <;> intro)
    | with_reducible apply State.setReg_sound
    | with_reducible apply State.msix_sound
    | with_reducible apply State.setB_sound
    | split

end Sys2Proof.Machine
end

