-- ==== Sys2Proof/Laws/TimebaseSound.lean ====
section
/-! SUPPORT. The operations of Machine/Timebase.lean are sound: see Laws/Sound.lean. -/

set_option linter.all false

namespace Sys2Proof.Machine

theorem State.capSet_sound {s0 s : State} (h : Sound s0 s) {a1 a2 a3} : Sound s0 (State.capSet s a1 a2 a3) := by
  have e := @rfl _ @State.capSet
  conv at e => rhs; delta State.capSet
  rw [e]; clear e; beta_reduce
  repeat' first
    | with_reducible assumption
    | (fail_if_no_progress (extract_lets -underBinder +onlyGivenNames x); first | (have hT : (type_of% x) = (State) := (by with_reducible rfl); clear hT; refine (fun (hx : Sound s0 x) => ?_) ?_; (on_goal 1 => clear_value x); (on_goal 2 => subst x)) | fail)
    | with_reducible apply State.setCap_sound
    | with_reducible apply State.setReg_sound
    | with_reducible apply State.setW64_sound

theorem State.captureEdge_sound {s0 s : State} (h : Sound s0 s) {a1 a2} : Sound s0 (State.captureEdge s a1 a2) := by
  have e := @rfl _ @State.captureEdge
  conv at e => rhs; delta State.captureEdge
  rw [e]; clear e; beta_reduce
  repeat' first
    | with_reducible assumption
    | (fail_if_no_progress (extract_lets -underBinder +onlyGivenNames x); first | (have hT : (type_of% x) = (Nat) := (by with_reducible rfl); clear hT; clear_value x) | (have hT : (type_of% x) = (BitVec 32) := (by with_reducible rfl); clear hT; clear_value x) | (have hT : (type_of% x) = (Bool) := (by with_reducible rfl); clear hT; clear_value x) | fail)
    | (with_reducible apply sound_ite <;> intro)
    | with_reducible apply State.capQualify_sound

theorem State.armCompare_sound {s0 s : State} (h : Sound s0 s) {a1 a2 a3} : Sound s0 (State.armCompare s a1 a2 a3) := by
  have e := @rfl _ @State.armCompare
  conv at e => rhs; delta State.armCompare
  rw [e]; clear e; beta_reduce
  repeat' first
    | with_reducible assumption
    | (fail_if_no_progress (extract_lets -underBinder +onlyGivenNames x); first | (have hT : (type_of% x) = (State) := (by with_reducible rfl); clear hT; refine (fun (hx : Sound s0 x) => ?_) ?_; (on_goal 1 => clear_value x); (on_goal 2 => subst x)) | (have hT : (type_of% x) = (Nat) := (by with_reducible rfl); clear hT; clear_value x) | fail)
    | with_reducible apply State.setW64_sound
    | with_reducible apply State.setReg_sound
    | with_reducible apply State.setB_sound
    | with_reducible apply State.setF_sound

theorem beginTimerCompareArm_sound {s0 s : State} (h : Sound s0 s) {a0} : Snd s0 (beginTimerCompareArm a0 s) := by
  have e := @rfl _ @beginTimerCompareArm
  conv at e => rhs; delta beginTimerCompareArm
  rw [e]; clear e; beta_reduce
  repeat' first
    | with_reducible assumption
    | (fail_if_no_progress (extract_lets -underBinder +onlyGivenNames x); first | (have hT : (type_of% x) = (Nat) := (by with_reducible rfl); clear hT; clear_value x) | (have hT : (type_of% x) = (BitVec 32) := (by with_reducible rfl); clear hT; clear_value x) | (have hT : (type_of% x) = (Bool) := (by with_reducible rfl); clear hT; clear_value x) | (have hT : (type_of% x) = (BitVec 64) := (by with_reducible rfl); clear hT; clear_value x) | fail)
    | (with_reducible apply snd_ite <;> intro)
    | with_reducible apply State.setB_sound
    | with_reducible apply State.armCompare_sound
    | split
    | with_reducible apply snd_pair

theorem State.capRead_sound {s0 s : State} (h : Sound s0 s) {a1} : Snd s0 (State.capRead s a1) := by
  have e := @rfl _ @State.capRead
  conv at e => rhs; delta State.capRead
  rw [e]; clear e; beta_reduce
  repeat' first
    | with_reducible assumption
    | (fail_if_no_progress (extract_lets -underBinder +onlyGivenNames x); first | (have hT : (type_of% x) = (State) := (by with_reducible rfl); clear hT; refine (fun (hx : Sound s0 x) => ?_) ?_; (on_goal 1 => clear_value x); (on_goal 2 => subst x)) | (have hT : (type_of% x) = (Nat) := (by with_reducible rfl); clear hT; clear_value x) | fail)
    | with_reducible apply State.setReg_sound
    | with_reducible apply State.setCap_sound
    | split
    | with_reducible apply snd_pair

theorem State.compareDue_sound {s0 s : State} (h : Sound s0 s) {a1} : Sound s0 (State.compareDue s a1) := by
  have e := @rfl _ @State.compareDue
  conv at e => rhs; delta State.compareDue
  rw [e]; clear e; beta_reduce
  repeat' first
    | with_reducible assumption
    | (fail_if_no_progress (extract_lets -underBinder +onlyGivenNames x); first | (have hT : (type_of% x) = (Nat) := (by with_reducible rfl); clear hT; clear_value x) | (have hT : (type_of% x) = (Bool) := (by with_reducible rfl); clear hT; clear_value x) | fail)
    | (with_reducible apply sound_ite <;> intro)
    | with_reducible apply State.fireCompare_sound
    | with_reducible apply State.setB_sound

theorem State.tmbCapWrite_sound {s0 s : State} (h : Sound s0 s) {a1 a2} : Sound s0 (State.tmbCapWrite s a1 a2) := by
  have e := @rfl _ @State.tmbCapWrite
  conv at e => rhs; delta State.tmbCapWrite
  rw [e]; clear e; beta_reduce
  repeat' first
    | with_reducible assumption
    | (with_reducible apply sound_ite <;> intro)
    | with_reducible apply State.setB_sound
    | with_reducible apply State.capSet_sound

theorem State.tmbCmpWrite_sound {s0 s : State} (h : Sound s0 s) {a1 a2} : Sound s0 (State.tmbCmpWrite s a1 a2) := by
  have e := @rfl _ @State.tmbCmpWrite
  conv at e => rhs; delta State.tmbCmpWrite
  rw [e]; clear e; beta_reduce
  repeat' first
    | with_reducible assumption
    | (fail_if_no_progress (extract_lets -underBinder +onlyGivenNames x); first | (have hT : (type_of% x) = (State) := (by with_reducible rfl); clear hT; refine (fun (hx : Sound s0 x) => ?_) ?_; (on_goal 1 => clear_value x); (on_goal 2 => subst x)) | (have hT : (type_of% x) = (Nat) := (by with_reducible rfl); clear hT; clear_value x) | fail)
    | (with_reducible apply sound_ite <;> intro)
    | with_reducible apply State.setReg_sound
    | with_reducible apply State.setF_sound
    | with_reducible apply State.armCompare_sound

theorem beginTimerCaptureSet_sound {s0 s : State} (h : Sound s0 s) {a0} : Snd s0 (beginTimerCaptureSet a0 s) := by
  have e := @rfl _ @beginTimerCaptureSet
  conv at e => rhs; delta beginTimerCaptureSet
  rw [e]; clear e; beta_reduce
  repeat' first
    | with_reducible assumption
    | with_reducible apply State.capSet_sound
    | split
    | with_reducible apply snd_pair

theorem State.tmbReset_sound {s0 s : State} (h : Sound s0 s) : Sound s0 (State.tmbReset s) := by
  have e := @rfl _ @State.tmbReset
  conv at e => rhs; delta State.tmbReset
  rw [e]; clear e; beta_reduce
  repeat' first
    | with_reducible assumption
    | intro _ _ _
    | (fail_if_no_progress (extract_lets -underBinder +onlyGivenNames x); first | (have hT : (type_of% x) = (State) := (by with_reducible rfl); clear hT; refine (fun (hx : Sound s0 x) => ?_) ?_; (on_goal 1 => clear_value x); (on_goal 2 => subst x)) | fail)
    | with_reducible apply State.setB_sound
    | with_reducible apply State.setCap_sound
    | with_reducible refine State.each_sound ?_ _ ?_

end Sys2Proof.Machine
end

