-- ==== Sys2Proof/Laws/DmaSound.lean ====
section
/-! SUPPORT. The operations of Machine/Dma.lean are sound: see Laws/Sound.lean. -/

set_option linter.all false

namespace Sys2Proof.Machine

theorem State.dwShow_sound {s0 s : State} (h : Sound s0 s) {a1 a2 a3} : Sound s0 (State.dwShow s a1 a2 a3) := by
  have e := @rfl _ @State.dwShow
  conv at e => rhs; delta State.dwShow
  rw [e]; clear e; beta_reduce
  repeat' first
    | with_reducible assumption
    | (fail_if_no_progress (extract_lets -underBinder +onlyGivenNames x); first | (have hT : (type_of% x) = (State) := (by with_reducible rfl); clear hT; refine (fun (hx : Sound s0 x) => ?_) ?_; (on_goal 1 => clear_value x); (on_goal 2 => subst x)) | (have hT : (type_of% x) = (Nat) := (by with_reducible rfl); clear hT; clear_value x) | fail)
    | with_reducible apply State.setReg_sound
    | with_reducible apply State.setW64_sound

theorem State.dwWait_sound {s0 s : State} (h : Sound s0 s) {a1} : Sound s0 (State.dwWait s a1) := by
  have e := @rfl _ @State.dwWait
  conv at e => rhs; delta State.dwWait
  rw [e]; clear e; beta_reduce
  repeat' first
    | with_reducible assumption
    | with_reducible apply State.setB_sound
    | split

theorem State.dwCurrent_sound {s0 s : State} (h : Sound s0 s) {a1 a2 a3} : Sound s0 (State.dwCurrent s a1 a2 a3) := by
  have e := @rfl _ @State.dwCurrent
  conv at e => rhs; delta State.dwCurrent
  rw [e]; clear e; beta_reduce
  repeat' first
    | with_reducible assumption
    | (fail_if_no_progress (extract_lets -underBinder +onlyGivenNames x); first | (have hT : (type_of% x) = (State) := (by with_reducible rfl); clear hT; refine (fun (hx : Sound s0 x) => ?_) ?_; (on_goal 1 => clear_value x); (on_goal 2 => subst x)) | (have hT : (type_of% x) = (BitVec 32) := (by with_reducible rfl); clear hT; clear_value x) | (have hT : (type_of% x) = (Bool) := (by with_reducible rfl); clear hT; clear_value x) | (clear_value x) | fail)
    | (with_reducible apply sound_ite <;> intro)
    | with_reducible apply State.setDw_sound
    | with_reducible apply State.setReg_sound
    | with_reducible apply State.setAddr40_sound
    | with_reducible apply State.dwShow_sound
    | with_reducible apply State.setF_sound
    | with_reducible apply State.dwWait_sound

theorem State.dwSetRun_sound {s0 s : State} (h : Sound s0 s) {a1 a2} : Sound s0 (State.dwSetRun s a1 a2) := by
  have e := @rfl _ @State.dwSetRun
  conv at e => rhs; delta State.dwSetRun
  rw [e]; clear e; beta_reduce
  repeat' first
    | with_reducible assumption
    | with_reducible apply State.setB_sound

theorem State.dwHalt_sound {s0 s : State} (h : Sound s0 s) {a1 a2 a3} : Sound s0 (State.dwHalt s a1 a2 a3) := by
  have e := @rfl _ @State.dwHalt
  conv at e => rhs; delta State.dwHalt
  rw [e]; clear e; beta_reduce
  repeat' first
    | with_reducible assumption
    | (fail_if_no_progress (extract_lets -underBinder +onlyGivenNames x); first | (have hT : (type_of% x) = (State) := (by with_reducible rfl); clear hT; refine (fun (hx : Sound s0 x) => ?_) ?_; (on_goal 1 => clear_value x); (on_goal 2 => subst x)) | (clear_value x) | fail)
    | with_reducible apply State.setDw_sound
    | with_reducible apply State.dwSetRun_sound
    | with_reducible apply State.setReg_sound
    | with_reducible apply State.setF_sound
    | with_reducible apply State.pulse_sound
    | with_reducible apply State.finish_sound

theorem State.dwRefuse_sound {s0 s : State} (h : Sound s0 s) {a1 a2 a3 a4} : Sound s0 (State.dwRefuse s a1 a2 a3 a4) := by
  have e := @rfl _ @State.dwRefuse
  conv at e => rhs; delta State.dwRefuse
  rw [e]; clear e; beta_reduce
  repeat' first
    | with_reducible assumption
    | (fail_if_no_progress (extract_lets -underBinder +onlyGivenNames x); first | (have hT : (type_of% x) = (State) := (by with_reducible rfl); clear hT; refine (fun (hx : Sound s0 x) => ?_) ?_; (on_goal 1 => clear_value x); (on_goal 2 => subst x)) | fail)
    | (with_reducible apply sound_ite <;> intro)
    | with_reducible apply State.setB_sound
    | with_reducible apply State.setF_sound
    | with_reducible apply State.errRec_sound
    | with_reducible apply State.dwHalt_sound

theorem State.dwDone_sound {s0 s : State} (h : Sound s0 s) {a1} : Sound s0 (State.dwDone s a1) := by
  have e := @rfl _ @State.dwDone
  conv at e => rhs; delta State.dwDone
  rw [e]; clear e; beta_reduce
  repeat' first
    | with_reducible assumption
    | (fail_if_no_progress (extract_lets -underBinder +onlyGivenNames x); first | (have hT : (type_of% x) = (State) := (by with_reducible rfl); clear hT; refine (fun (hx : Sound s0 x) => ?_) ?_; (on_goal 1 => clear_value x); (on_goal 2 => subst x)) | (have hT : (type_of% x) = (Nat) := (by with_reducible rfl); clear hT; clear_value x) | (have hT : (type_of% x) = (BitVec 32) := (by with_reducible rfl); clear hT; clear_value x) | (clear_value x) | fail)
    | (with_reducible apply sound_ite <;> intro)
    | with_reducible apply State.setF_sound
    | with_reducible apply State.incReg_sound
    | with_reducible apply State.setB_sound
    | with_reducible apply State.dwHalt_sound
    | with_reducible apply State.pulse_sound
    | with_reducible apply State.setDw_sound

theorem State.dwDone0_sound {s0 s : State} (h : Sound s0 s) {a1} : Sound s0 (State.dwDone0 s a1) := by
  have e := @rfl _ @State.dwDone0
  conv at e => rhs; delta State.dwDone0
  rw [e]; clear e; beta_reduce
  repeat' first
    | with_reducible assumption
    | (with_reducible apply sound_ite <;> intro)
    | with_reducible apply State.dwDone_sound

theorem State.dwUncorr_sound {s0 s : State} (h : Sound s0 s) {a1 a2} : Sound s0 (State.dwUncorr s a1 a2) := by
  have e := @rfl _ @State.dwUncorr
  conv at e => rhs; delta State.dwUncorr
  rw [e]; clear e; beta_reduce
  repeat' first
    | with_reducible assumption
    | with_reducible apply State.dwHalt_sound
    | with_reducible apply State.setW64_sound

theorem State.dwFetch_sound {s0 s : State} (h : Sound s0 s) {a1 a2} : Sound s0 (State.dwFetch s a1 a2) := by
  have e := @rfl _ @State.dwFetch
  conv at e => rhs; delta State.dwFetch
  rw [e]; clear e; beta_reduce
  repeat' first
    | with_reducible assumption
    | (fail_if_no_progress (extract_lets -underBinder +onlyGivenNames x); first | (have hT : (type_of% x) = (State) := (by with_reducible rfl); clear hT; refine (fun (hx : Sound s0 x) => ?_) ?_; (on_goal 1 => clear_value x); (on_goal 2 => subst x)) | (have hT : ∃ α : Type, (type_of% x) = (α × State) := ⟨_, rfl⟩; clear hT; refine (fun (hx : Snd s0 x) => ?_) ?_; (on_goal 1 => clear_value x); (on_goal 2 => subst x)) | (clear_value x) | fail)
    | (with_reducible apply sound_ite <;> intro)
    | with_reducible apply State.refusedAccess_sound
    | with_reducible apply State.finish_sound
    | with_reducible apply State.dwRefuse_sound
    | with_reducible apply State.devRead_sound
    | with_reducible apply State.dwDone0_sound
    | with_reducible apply State.dwCurrent_sound
    | with_reducible apply State.dwUncorr_sound
    | (with_reducible apply Snd.out; with_reducible assumption)
    | split

theorem State.dwStart_sound {s0 s : State} (h : Sound s0 s) {a1 a2} : Sound s0 (State.dwStart s a1 a2) := by
  have e := @rfl _ @State.dwStart
  conv at e => rhs; delta State.dwStart
  rw [e]; clear e; beta_reduce
  repeat' first
    | with_reducible assumption
    | (fail_if_no_progress (extract_lets -underBinder +onlyGivenNames x); first | (have hT : (type_of% x) = (State) := (by with_reducible rfl); clear hT; refine (fun (hx : Sound s0 x) => ?_) ?_; (on_goal 1 => clear_value x); (on_goal 2 => subst x)) | (clear_value x) | fail)
    | with_reducible apply State.setDw_sound
    | with_reducible apply State.dwSetRun_sound

theorem State.dwCtlWrite_sound {s0 s : State} (h : Sound s0 s) {a1 a2} : Sound s0 (State.dwCtlWrite s a1 a2) := by
  have e := @rfl _ @State.dwCtlWrite
  conv at e => rhs; delta State.dwCtlWrite
  rw [e]; clear e; beta_reduce
  repeat' first
    | with_reducible assumption
    | (fail_if_no_progress (extract_lets -underBinder +onlyGivenNames x); first | (have hT : (type_of% x) = (State) := (by with_reducible rfl); clear hT; refine (fun (hx : Sound s0 x) => ?_) ?_; (on_goal 1 => clear_value x); (on_goal 2 => subst x)) | (have hT : (type_of% x) = (Nat) := (by with_reducible rfl); clear hT; clear_value x) | (have hT : (type_of% x) = (Bool) := (by with_reducible rfl); clear hT; clear_value x) | fail)
    | (with_reducible apply sound_ite <;> intro)
    | with_reducible apply State.setB_sound
    | with_reducible apply State.dwRefuse_sound
    | with_reducible apply State.dwStart_sound
    | with_reducible apply State.dwHalt_sound
    | with_reducible apply State.dwLatch_sound
    | split

theorem beginDmaStop_sound {s0 s : State} (h : Sound s0 s) {a0} : Snd s0 (beginDmaStop a0 s) := by
  have e := @rfl _ @beginDmaStop
  conv at e => rhs; delta beginDmaStop
  rw [e]; clear e; beta_reduce
  repeat' first
    | with_reducible assumption
    | (fail_if_no_progress (extract_lets -underBinder +onlyGivenNames x); first | (have hT : (type_of% x) = (Nat) := (by with_reducible rfl); clear hT; clear_value x) | fail)
    | with_reducible apply State.dwHalt_sound
    | with_reducible apply State.setB_sound
    | split
    | with_reducible apply snd_pair

theorem beginDmaChainStart_sound {s0 s : State} (h : Sound s0 s) {a0} : Snd s0 (beginDmaChainStart a0 s) := by
  have e := @rfl _ @beginDmaChainStart
  conv at e => rhs; delta beginDmaChainStart
  rw [e]; clear e; beta_reduce
  repeat' first
    | with_reducible assumption
    | (fail_if_no_progress (extract_lets -underBinder +onlyGivenNames x); first | (have hT : (type_of% x) = (Nat) := (by with_reducible rfl); clear hT; clear_value x) | fail)
    | with_reducible apply State.dwStart_sound
    | with_reducible apply State.setReg_sound
    | split
    | with_reducible apply snd_pair

theorem State.dwReset_sound {s0 s : State} (h : Sound s0 s) : Sound s0 (State.dwReset s) := by
  have e := @rfl _ @State.dwReset
  conv at e => rhs; delta State.dwReset
  rw [e]; clear e; beta_reduce
  repeat' first
    | with_reducible assumption
    | intro _ _ _
    | (fail_if_no_progress (extract_lets -underBinder +onlyGivenNames x); first | (have hT : (type_of% x) = (State) := (by with_reducible rfl); clear hT; refine (fun (hx : Sound s0 x) => ?_) ?_; (on_goal 1 => clear_value x); (on_goal 2 => subst x)) | (have hT : (type_of% x) = (Nat) := (by with_reducible rfl); clear hT; clear_value x) | (clear_value x) | fail)
    | (with_reducible apply sound_ite <;> intro)
    | with_reducible apply State.dwHalt_sound
    | with_reducible apply State.setW64_sound
    | with_reducible apply State.setReg_sound
    | with_reducible apply State.setDw_sound
    | with_reducible refine State.each_sound ?_ _ ?_

end Sys2Proof.Machine
end

