-- ==== Sys2Proof/Laws/MemCmdSound.lean ====
section
/-! SUPPORT. The operations of Machine/MemCmd.lean are sound: see Laws/Sound.lean. -/

set_option linter.all false

namespace Sys2Proof.Machine

theorem State.celPut_sound {s0 s : State} (h : Sound s0 s) {a1 a2 a3 a4} : Sound s0 (State.celPut s a1 a2 a3 a4) := by
  have e := @rfl _ @State.celPut
  conv at e => rhs; delta State.celPut
  rw [e]; clear e; beta_reduce
  repeat' first
    | with_reducible assumption
    | with_reducible apply State.setReg_sound
    | with_reducible apply State.setAddr40_sound

theorem beginCelSet_sound {s0 s : State} (h : Sound s0 s) {a0} : Snd s0 (beginCelSet a0 s) := by
  have e := @rfl _ @beginCelSet
  conv at e => rhs; delta beginCelSet
  rw [e]; clear e; beta_reduce
  repeat' first
    | with_reducible assumption
    | (fail_if_no_progress (extract_lets -underBinder +onlyGivenNames x); first | (have hT : (type_of% x) = (Nat) := (by with_reducible rfl); clear hT; clear_value x) | (have hT : (type_of% x) = (BitVec 32) := (by with_reducible rfl); clear hT; clear_value x) | (have hT : (type_of% x) = (Bool) := (by with_reducible rfl); clear hT; clear_value x) | (have hT : (type_of% x) = (Packet) := (by with_reducible rfl); clear hT; clear_value x) | fail)
    | (with_reducible apply snd_ite <;> intro)
    | with_reducible apply State.setReg_sound
    | with_reducible apply State.celPut_sound
    | split
    | with_reducible apply snd_pair

theorem State.regionFillDone_sound {s0 s : State} (h : Sound s0 s) {a1} : Sound s0 (State.regionFillDone s a1) := by
  have e := @rfl _ @State.regionFillDone
  conv at e => rhs; delta State.regionFillDone
  rw [e]; clear e; beta_reduce
  repeat' first
    | with_reducible assumption
    | (fail_if_no_progress (extract_lets -underBinder +onlyGivenNames x); first | (have hT : (type_of% x) = (State) := (by with_reducible rfl); clear hT; refine (fun (hx : Sound s0 x) => ?_) ?_; (on_goal 1 => clear_value x); (on_goal 2 => subst x)) | fail)
    | (with_reducible apply sound_ite <;> intro)
    | with_reducible apply State.zeroRange_sound
    | with_reducible apply State.celFill_sound
    | with_reducible apply State.setReg_sound
    | with_reducible apply State.finish_sound
    | split

theorem memPieces_sound {s0 s : State} (h : Sound s0 s) {a0 a1 a2 a4} : Snd s0 (memPieces a0 a1 a2 s a4) := by
  induction a4 generalizing s with
  | nil => exact snd_pair h
  | cons q t ih =>
    unfold memPieces
    extract_lets rd
    have hrd : Snd s0 rd := by
      subst rd
      split
      · exact State.devRead_sound h
      · exact snd_pair h
    clear_value rd
    split
    · exact snd_pair hrd.out
    · exact snd_pair hrd.out
    · extract_lets w
      have hw : Snd s0 w := State.devWrite_sound hrd.out
      clear_value w
      split
      · exact snd_pair hw.out
      · exact snd_pair hw.out
      · exact ih hw.out

theorem State.memOpRun_sound {s0 s : State} (h : Sound s0 s) {a1} : Sound s0 (State.memOpRun s a1) := by
  have e := @rfl _ @State.memOpRun
  conv at e => rhs; delta State.memOpRun
  rw [e]; clear e; beta_reduce
  repeat' first
    | with_reducible assumption
    | (fail_if_no_progress (extract_lets -underBinder +onlyGivenNames x); first | (have hT : (type_of% x) = (Bool) := (by with_reducible rfl); clear hT; clear_value x) | (have hT : ∃ α : Type, (type_of% x) = (α × State) := ⟨_, rfl⟩; clear hT; refine (fun (hx : Snd s0 x) => ?_) ?_; (on_goal 1 => clear_value x); (on_goal 2 => subst x)) | (clear_value x) | fail)
    | with_reducible apply memPieces_sound
    | with_reducible apply State.finishAcc_sound
    | (with_reducible apply Snd.out; with_reducible assumption)

theorem State.memOpDone_sound {s0 s : State} (h : Sound s0 s) {a1} : Sound s0 (State.memOpDone s a1) := by
  have e := @rfl _ @State.memOpDone
  conv at e => rhs; delta State.memOpDone
  rw [e]; clear e; beta_reduce
  repeat' first
    | with_reducible assumption
    | with_reducible apply State.memOpRun_sound
    | split

theorem beginAssetUnseal_sound {s0 s : State} (h : Sound s0 s) {a0} : Snd s0 (beginAssetUnseal a0 s) := by
  have e := @rfl _ @beginAssetUnseal
  conv at e => rhs; delta beginAssetUnseal
  rw [e]; clear e; beta_reduce
  repeat' first
    | with_reducible assumption
    | (fail_if_no_progress (extract_lets -underBinder +onlyGivenNames x); first | (have hT : (type_of% x) = (Nat) := (by with_reducible rfl); clear hT; clear_value x) | (have hT : (type_of% x) = (Packet) := (by with_reducible rfl); clear hT; clear_value x) | fail)
    | with_reducible apply State.setB_sound
    | split
    | with_reducible apply snd_pair

theorem State.assetStart_sound {s0 s : State} (h : Sound s0 s) {a1} : Sound s0 (State.assetStart s a1) := by
  have e := @rfl _ @State.assetStart
  conv at e => rhs; delta State.assetStart
  rw [e]; clear e; beta_reduce
  repeat' first
    | with_reducible assumption
    | with_reducible apply State.setReg_sound

theorem assetSource_sound {s0 s : State} (h : Sound s0 s) {a : Nat} {l : List (Nat × Nat)} {acc : List Byte} : Snd s0 (assetSource a s l acc) := by
  induction l generalizing s acc with
  | nil => exact snd_pair h
  | cons q t ih =>
    unfold assetSource
    extract_lets r
    have hr : Snd s0 r := State.devRead_sound h
    clear_value r
    split
    · exact snd_pair hr.out
    · exact ih hr.out

theorem State.regionWrite_sound {s0 s : State} (h : Sound s0 s) {a1 a2 a3} : Sound s0 (State.regionWrite s a1 a2 a3) := by
  have e := @rfl _ @State.regionWrite
  conv at e => rhs; delta State.regionWrite
  rw [e]; clear e; beta_reduce
  repeat' first
    | with_reducible assumption
    | intro _ _ _
    | (fail_if_no_progress (extract_lets -underBinder +onlyGivenNames x); first | (clear_value x) | fail)
    | with_reducible apply State.storeLine_sound
    | with_reducible refine State.each_sound ?_ _ ?_

theorem State.setDigest_sound {s0 s : State} (h : Sound s0 s) {a1 a2} : Sound s0 (State.setDigest s a1 a2) := by
  have e := @rfl _ @State.setDigest
  conv at e => rhs; delta State.setDigest
  rw [e]; clear e; beta_reduce
  repeat' first
    | with_reducible assumption
    | intro _ _ _
    | with_reducible apply State.setReg_sound
    | with_reducible refine State.each_sound ?_ _ ?_

theorem State.regionZero_sound {s0 s : State} (h : Sound s0 s) {a1 a2 a3} : Sound s0 (State.regionZero s a1 a2 a3) := by
  have e := @rfl _ @State.regionZero
  conv at e => rhs; delta State.regionZero
  rw [e]; clear e; beta_reduce
  repeat' first
    | with_reducible assumption
    | (fail_if_no_progress (extract_lets -underBinder +onlyGivenNames x); first | (have hT : (type_of% x) = (State) := (by with_reducible rfl); clear hT; refine (fun (hx : Sound s0 x) => ?_) ?_; (on_goal 1 => clear_value x); (on_goal 2 => subst x)) | (have hT : (type_of% x) = (Nat) := (by with_reducible rfl); clear hT; clear_value x) | (clear_value x) | fail)
    | (with_reducible apply sound_ite <;> intro)
    | with_reducible apply State.zeroRange_sound
    | with_reducible apply State.storeLine_sound

theorem State.assetLoadRun_sound {s0 s : State} (h : Sound s0 s) {a1} : Sound s0 (State.assetLoadRun s a1) := by
  have e := @rfl _ @State.assetLoadRun
  conv at e => rhs; delta State.assetLoadRun
  rw [e]; clear e; beta_reduce
  repeat' first
    | with_reducible assumption
    | (fail_if_no_progress (extract_lets -underBinder +onlyGivenNames x); first | (have hT : (type_of% x) = (State) := (by with_reducible rfl); clear hT; refine (fun (hx : Sound s0 x) => ?_) ?_; (on_goal 1 => clear_value x); (on_goal 2 => subst x)) | (have hT : (type_of% x) = (Nat) := (by with_reducible rfl); clear hT; clear_value x) | (have hT : (type_of% x) = (BitVec 32) := (by with_reducible rfl); clear hT; clear_value x) | (have hT : (type_of% x) = (Bool) := (by with_reducible rfl); clear hT; clear_value x) | (have hT : (type_of% x) = (Packet) := (by with_reducible rfl); clear hT; clear_value x) | (have hT : ∃ α : Type, (type_of% x) = (α × State) := ⟨_, rfl⟩; clear hT; refine (fun (hx : Snd s0 x) => ?_) ?_; (on_goal 1 => clear_value x); (on_goal 2 => subst x)) | (clear_value x) | fail)
    | (with_reducible apply sound_ite <;> intro)
    | with_reducible apply assetSource_sound
    | with_reducible apply State.regionWrite_sound
    | with_reducible apply State.setReg_sound
    | with_reducible apply State.setDigest_sound
    | with_reducible apply State.finishAcc_sound
    | with_reducible apply State.measure_sound
    | with_reducible apply State.regionZero_sound
    | (with_reducible apply Snd.out; with_reducible assumption)

theorem State.celFlipWrite_sound {s0 s : State} (h : Sound s0 s) {a1} : Sound s0 (State.celFlipWrite s a1) := by
  have e := @rfl _ @State.celFlipWrite
  conv at e => rhs; delta State.celFlipWrite
  rw [e]; clear e; beta_reduce
  repeat' first
    | with_reducible assumption
    | (fail_if_no_progress (extract_lets -underBinder +onlyGivenNames x); first | (have hT : (type_of% x) = (Nat) := (by with_reducible rfl); clear hT; clear_value x) | (have hT : (type_of% x) = (BitVec 32) := (by with_reducible rfl); clear hT; clear_value x) | fail)
    | with_reducible apply State.setReg_sound

theorem beginPanSet_sound {s0 s : State} (h : Sound s0 s) {a0} : Snd s0 (beginPanSet a0 s) := by
  have e := @rfl _ @beginPanSet
  conv at e => rhs; delta beginPanSet
  rw [e]; clear e; beta_reduce
  repeat' first
    | with_reducible assumption
    | intro _ _ _
    | (fail_if_no_progress (extract_lets -underBinder +onlyGivenNames x); first | (have hT : (type_of% x) = (State) := (by with_reducible rfl); clear hT; refine (fun (hx : Sound s0 x) => ?_) ?_; (on_goal 1 => clear_value x); (on_goal 2 => subst x)) | (have hT : (type_of% x) = (Nat) := (by with_reducible rfl); clear hT; clear_value x) | (have hT : (type_of% x) = (Bool) := (by with_reducible rfl); clear hT; clear_value x) | (have hT : (type_of% x) = (Packet) := (by with_reducible rfl); clear hT; clear_value x) | fail)
    | (with_reducible apply snd_ite <;> intro)
    | with_reducible apply State.setReg_sound
    | with_reducible refine State.each_sound ?_ _ ?_
    | split
    | with_reducible apply snd_pair

theorem State.flipAddrWrite_sound {s0 s : State} (h : Sound s0 s) {a1 a2} : Sound s0 (State.flipAddrWrite s a1 a2) := by
  have e := @rfl _ @State.flipAddrWrite
  conv at e => rhs; delta State.flipAddrWrite
  rw [e]; clear e; beta_reduce
  repeat' first
    | with_reducible assumption
    | with_reducible apply State.setB_sound
    | with_reducible apply State.setReg_sound
    | split

theorem beginAssetLoad_sound {s0 s : State} (h : Sound s0 s) {a0} : Snd s0 (beginAssetLoad a0 s) := by
  have e := @rfl _ @beginAssetLoad
  conv at e => rhs; delta beginAssetLoad
  rw [e]; clear e; beta_reduce
  repeat' first
    | with_reducible assumption
    | (fail_if_no_progress (extract_lets -underBinder +onlyGivenNames x); first | (have hT : (type_of% x) = (Nat) := (by with_reducible rfl); clear hT; clear_value x) | (have hT : (type_of% x) = (Bool) := (by with_reducible rfl); clear hT; clear_value x) | (have hT : (type_of% x) = (Packet) := (by with_reducible rfl); clear hT; clear_value x) | fail)
    | (with_reducible apply snd_ite <;> intro)
    | with_reducible apply State.assetStart_sound
    | split
    | with_reducible apply snd_pair

theorem beginMemOp_sound {s0 s : State} (h : Sound s0 s) {a0} : Snd s0 (beginMemOp a0 s) := by
  have e := @rfl _ @beginMemOp
  conv at e => rhs; delta beginMemOp
  rw [e]; clear e; beta_reduce
  repeat' first
    | with_reducible assumption
    | (fail_if_no_progress (extract_lets -underBinder +onlyGivenNames x); first | (have hT : (type_of% x) = (Nat) := (by with_reducible rfl); clear hT; clear_value x) | (have hT : (type_of% x) = (Packet) := (by with_reducible rfl); clear hT; clear_value x) | (clear_value x) | fail)
    | with_reducible apply State.jState_sound
    | split
    | with_reducible apply snd_pair

theorem State.assetLoadDone_sound {s0 s : State} (h : Sound s0 s) {a1} : Sound s0 (State.assetLoadDone s a1) := by
  have e := @rfl _ @State.assetLoadDone
  conv at e => rhs; delta State.assetLoadDone
  rw [e]; clear e; beta_reduce
  repeat' first
    | with_reducible assumption
    | with_reducible apply State.assetLoadRun_sound
    | split

theorem State.panFlipWrite_sound {s0 s : State} (h : Sound s0 s) {a1} : Sound s0 (State.panFlipWrite s a1) := by
  have e := @rfl _ @State.panFlipWrite
  conv at e => rhs; delta State.panFlipWrite
  rw [e]; clear e; beta_reduce
  repeat' first
    | with_reducible assumption
    | (fail_if_no_progress (extract_lets -underBinder +onlyGivenNames x); first | (have hT : (type_of% x) = (Nat) := (by with_reducible rfl); clear hT; clear_value x) | (have hT : (type_of% x) = (BitVec 32) := (by with_reducible rfl); clear hT; clear_value x) | fail)
    | with_reducible apply State.setReg_sound

theorem resumeAssetLoad_sound {s0 s : State} (h : Sound s0 s) {a0} : Snd s0 (resumeAssetLoad a0 s) := by
  have e := @rfl _ @resumeAssetLoad
  conv at e => rhs; delta resumeAssetLoad
  rw [e]; clear e; beta_reduce
  repeat' first
    | with_reducible assumption
    | (fail_if_no_progress (extract_lets -underBinder +onlyGivenNames x); first | (have hT : (type_of% x) = (Nat) := (by with_reducible rfl); clear hT; clear_value x) | fail)
    | (with_reducible apply snd_ite <;> intro)
    | with_reducible apply State.assetStart_sound
    | split
    | with_reducible apply snd_pair

theorem State.scrubLine_sound {s0 s : State} (h : Sound s0 s) {a1} : Sound s0 (State.scrubLine s a1) := by
  have e := @rfl _ @State.scrubLine
  conv at e => rhs; delta State.scrubLine
  rw [e]; clear e; beta_reduce
  repeat' first
    | with_reducible assumption
    | intro _ _ _
    | (fail_if_no_progress (extract_lets -underBinder +onlyGivenNames x); first | (have hT : (type_of% x) = (State) := (by with_reducible rfl); clear hT; refine (fun (hx : Sound s0 x) => ?_) ?_; (on_goal 1 => clear_value x); (on_goal 2 => subst x)) | (have hT : (type_of% x) = (Nat) := (by with_reducible rfl); clear hT; clear_value x) | (have hT : (type_of% x) = (Bool) := (by with_reducible rfl); clear hT; clear_value x) | (have hT : (type_of% x) = (List Nat) := (by with_reducible rfl); clear hT; clear_value x) | (clear_value x) | fail)
    | (with_reducible apply sound_ite <;> intro)
    | with_reducible apply State.celUse_sound
    | with_reducible apply State.ueRecord_sound
    | with_reducible apply State.uncorrectable_sound
    | with_reducible apply State.setCode_sound
    | with_reducible apply State.corrected_sound
    | with_reducible refine State.each_sound ?_ _ ?_
    | split

theorem beginMemRegionSet_sound {s0 s : State} (h : Sound s0 s) {a0} : Snd s0 (beginMemRegionSet a0 s) := by
  have e := @rfl _ @beginMemRegionSet
  conv at e => rhs; delta beginMemRegionSet
  rw [e]; clear e; beta_reduce
  repeat' first
    | with_reducible assumption
    | (with_reducible apply snd_ite <;> intro)
    | with_reducible apply beginPanSet_sound
    | with_reducible apply beginCelSet_sound

end Sys2Proof.Machine
end

