-- ==== Sys2Proof/Laws/JournalSound.lean ====
section
/-! SUPPORT. The operations of Machine/Journal.lean are sound: see Laws/Sound.lean. -/

set_option linter.all false

namespace Sys2Proof.Machine

theorem State.jCopyRead_sound {s0 s : State} (h : Sound s0 s) {a1 a2 a3} : Snd s0 (State.jCopyRead s a1 a2 a3) := by
  have e := @rfl _ @State.jCopyRead
  conv at e => rhs; delta State.jCopyRead
  rw [e]; clear e; beta_reduce
  repeat' first
    | with_reducible assumption
    | intro _ _ _
    | (fail_if_no_progress (extract_lets -underBinder +onlyGivenNames x); first | (have hT : (type_of% x) = (State) := (by with_reducible rfl); clear hT; refine (fun (hx : Sound s0 x) => ?_) ?_; (on_goal 1 => clear_value x); (on_goal 2 => subst x)) | (have hT : (type_of% x) = (List Nat) := (by with_reducible rfl); clear hT; clear_value x) | (clear_value x) | fail)
    | with_reducible apply State.celUse_sound
    | with_reducible apply State.uncorrectable_sound
    | with_reducible apply State.ueRecord_sound
    | with_reducible apply State.corrected_sound
    | with_reducible refine State.each_sound ?_ _ ?_
    | split
    | with_reducible apply snd_pair

theorem State.jCopies_sound {s0 s : State} (h : Sound s0 s) {a1 a2 a3} : Snd s0 (State.jCopies s a1 a2 a3) := by
  have e := @rfl _ @State.jCopies
  conv at e => rhs; delta State.jCopies
  rw [e]; clear e; beta_reduce
  repeat' first
    | with_reducible assumption
    | (fail_if_no_progress (extract_lets -underBinder +onlyGivenNames x); first | (have hT : ∃ α : Type, (type_of% x) = (α × State) := ⟨_, rfl⟩; clear hT; refine (fun (hx : Snd s0 x) => ?_) ?_; (on_goal 1 => clear_value x); (on_goal 2 => subst x)) | fail)
    | with_reducible apply State.jCopyRead_sound
    | (with_reducible apply Snd.out; with_reducible assumption)
    | split
    | with_reducible apply snd_pair

theorem State.jPacket_sound {s0 s : State} (h : Sound s0 s) {a1} : Snd s0 (State.jPacket s a1) := by
  have e := @rfl _ @State.jPacket
  conv at e => rhs; delta State.jPacket
  rw [e]; clear e; beta_reduce
  repeat' first
    | with_reducible assumption
    | (fail_if_no_progress (extract_lets -underBinder +onlyGivenNames x); first | (have hT : (type_of% x) = (Nat) := (by with_reducible rfl); clear hT; clear_value x) | (have hT : ∃ α : Type, (type_of% x) = (α × State) := ⟨_, rfl⟩; clear hT; refine (fun (hx : Snd s0 x) => ?_) ?_; (on_goal 1 => clear_value x); (on_goal 2 => subst x)) | fail)
    | with_reducible apply State.jCopies_sound
    | (with_reducible apply Snd.out; with_reducible assumption)
    | with_reducible apply snd_pair

theorem State.jEntry_sound {s0 s : State} (h : Sound s0 s) {a1 a2} : Snd s0 (State.jEntry s a1 a2) := by
  have e := @rfl _ @State.jEntry
  conv at e => rhs; delta State.jEntry
  rw [e]; clear e; beta_reduce
  repeat' first
    | with_reducible assumption
    | (fail_if_no_progress (extract_lets -underBinder +onlyGivenNames x); first | (have hT : ∃ α : Type, (type_of% x) = (α × State) := ⟨_, rfl⟩; clear hT; refine (fun (hx : Snd s0 x) => ?_) ?_; (on_goal 1 => clear_value x); (on_goal 2 => subst x)) | fail)
    | with_reducible apply State.jCopies_sound
    | (with_reducible apply Snd.out; with_reducible assumption)
    | split
    | with_reducible apply snd_pair

end Sys2Proof.Machine
end

