-- ==== Sys2Proof/Laws/RecordsSound.lean ====
section
/-! SUPPORT. The operations of Machine/Records.lean are sound: see Laws/Sound.lean. -/

set_option linter.all false

namespace Sys2Proof.Machine

theorem State.recRead_sound {s0 s : State} (h : Sound s0 s) {a1} : Snd s0 (State.recRead s a1) := by
  have e := @rfl _ @State.recRead
  conv at e => rhs; delta State.recRead
  rw [e]; clear e; beta_reduce
  repeat' first
    | with_reducible assumption
    | (fail_if_no_progress (extract_lets -underBinder +onlyGivenNames x); first | (have hT : (type_of% x) = (Nat) := (by with_reducible rfl); clear hT; clear_value x) | (have hT : ∃ α : Type, (type_of% x) = (α × State) := ⟨_, rfl⟩; clear hT; refine (fun (hx : Snd s0 x) => ?_) ?_; (on_goal 1 => clear_value x); (on_goal 2 => subst x)) | (clear_value x) | fail)
    | with_reducible apply State.jCopies_sound
    | (with_reducible apply Snd.out; with_reducible assumption)
    | split
    | with_reducible apply snd_pair

theorem State.recHead_sound {s0 s : State} (h : Sound s0 s) {a1} : Sound s0 (State.recHead s a1) := by
  have e := @rfl _ @State.recHead
  conv at e => rhs; delta State.recHead
  rw [e]; clear e; beta_reduce
  repeat' first
    | with_reducible assumption
    | with_reducible apply State.jWrite_sound

theorem State.restoreHead_sound {s0 s : State} (h : Sound s0 s) {a1 a2} : Sound s0 (State.restoreHead s a1 a2) := by
  have e := @rfl _ @State.restoreHead
  conv at e => rhs; delta State.restoreHead
  rw [e]; clear e; beta_reduce
  repeat' first
    | with_reducible assumption
    | intro _ _ _
    | (fail_if_no_progress (extract_lets -underBinder +onlyGivenNames x); first | (have hT : (type_of% x) = (State) := (by with_reducible rfl); clear hT; refine (fun (hx : Sound s0 x) => ?_) ?_; (on_goal 1 => clear_value x); (on_goal 2 => subst x)) | fail)
    | (with_reducible apply sound_ite <;> intro)
    | with_reducible apply State.setHd_sound
    | with_reducible apply State.setW64_sound
    | with_reducible apply State.setCm_sound
    | with_reducible apply State.setB_sound
    | with_reducible apply State.updHead_sound
    | with_reducible refine State.each_sound ?_ _ ?_

end Sys2Proof.Machine
end

