-- ==== Sys2Proof/Laws/FeaturesSound.lean ====
section
/-! SUPPORT. The operations of Machine/Features.lean are sound: see Laws/Sound.lean. -/

set_option linter.all false

namespace Sys2Proof.Machine

theorem beginExpertEnter_sound {s0 s : State} (h : Sound s0 s) {a0} : Snd s0 (beginExpertEnter a0 s) := by
  have e := @rfl _ @beginExpertEnter
  conv at e => rhs; delta beginExpertEnter
  rw [e]; clear e; beta_reduce
  repeat' first
    | with_reducible assumption
    | (fail_if_no_progress (extract_lets -underBinder +onlyGivenNames x); first | (have hT : (type_of% x) = (Nat) := (by with_reducible rfl); clear hT; clear_value x) | (have hT : (type_of% x) = (List Nat) := (by with_reducible rfl); clear hT; clear_value x) | fail)
    | split
    | with_reducible apply snd_pair

theorem State.errMark_sound {s0 s : State} (h : Sound s0 s) {a1 a2} : Sound s0 (State.errMark s a1 a2) := by
  have e := @rfl _ @State.errMark
  conv at e => rhs; delta State.errMark
  rw [e]; clear e; beta_reduce
  repeat' first
    | with_reducible assumption
    | (fail_if_no_progress (extract_lets -underBinder +onlyGivenNames x); first | (have hT : (type_of% x) = (Nat) := (by with_reducible rfl); clear hT; clear_value x) | fail)
    | (with_reducible apply sound_ite <;> intro)
    | with_reducible apply State.setW64_sound

theorem State.setExpert_sound {s0 s : State} (h : Sound s0 s) {a1 a2} : Sound s0 (State.setExpert s a1 a2) := by
  have e := @rfl _ @State.setExpert
  conv at e => rhs; delta State.setExpert
  rw [e]; clear e; beta_reduce
  repeat' first
    | with_reducible assumption
    | (with_reducible apply sound_ite <;> intro)
    | with_reducible apply State.setB_sound

theorem beginFence_sound {s0 s : State} (h : Sound s0 s) {a0} : Snd s0 (beginFence a0 s) := by
  have e := @rfl _ @beginFence
  conv at e => rhs; delta beginFence
  rw [e]; clear e; beta_reduce
  repeat' first
    | with_reducible assumption
    | (with_reducible apply snd_ite <;> intro)
    | with_reducible apply snd_pair

theorem State.mirrorOn_sound {s0 s : State} (h : Sound s0 s) : Sound s0 (State.mirrorOn s) := by
  have e := @rfl _ @State.mirrorOn
  conv at e => rhs; delta State.mirrorOn
  rw [e]; clear e; beta_reduce
  repeat' first
    | with_reducible assumption
    | intro _ _ _
    | (fail_if_no_progress (extract_lets -underBinder +onlyGivenNames x); first | (have hT : (type_of% x) = (State) := (by with_reducible rfl); clear hT; refine (fun (hx : Sound s0 x) => ?_) ?_; (on_goal 1 => clear_value x); (on_goal 2 => subst x)) | (have hT : (type_of% x) = (BitVec 32) := (by with_reducible rfl); clear hT; clear_value x) | fail)
    | with_reducible apply State.setReg_sound
    | with_reducible apply State.jSet_sound
    | with_reducible apply State.jWrite_sound
    | with_reducible apply State.recHead_sound
    | with_reducible refine State.each_sound ?_ _ ?_
    | split

theorem State.expertCommit_sound {s0 s : State} (h : Sound s0 s) {a1 a2} : Sound s0 (State.expertCommit s a1 a2) := by
  have e := @rfl _ @State.expertCommit
  conv at e => rhs; delta State.expertCommit
  rw [e]; clear e; beta_reduce
  repeat' first
    | with_reducible assumption
    | (fail_if_no_progress (extract_lets -underBinder +onlyGivenNames x); first | (have hT : (type_of% x) = (Nat) := (by with_reducible rfl); clear hT; clear_value x) | fail)
    | with_reducible apply State.measure_sound
    | with_reducible apply State.setExpert_sound

theorem beginErrlogRead_sound {s0 s : State} (h : Sound s0 s) {a0} : Snd s0 (beginErrlogRead a0 s) := by
  have e := @rfl _ @beginErrlogRead
  conv at e => rhs; delta beginErrlogRead
  rw [e]; clear e; beta_reduce
  repeat' first
    | with_reducible assumption
    | (fail_if_no_progress (extract_lets -underBinder +onlyGivenNames x); first | (have hT : (type_of% x) = (Nat) := (by with_reducible rfl); clear hT; clear_value x) | (have hT : (type_of% x) = (Packet) := (by with_reducible rfl); clear hT; clear_value x) | (clear_value x) | fail)
    | with_reducible apply State.hostWrite_sound
    | split
    | with_reducible apply snd_pair

theorem beginFeaturesGet_sound {s0 s : State} (h : Sound s0 s) {a0} : Snd s0 (beginFeaturesGet a0 s) := by
  have e := @rfl _ @beginFeaturesGet
  conv at e => rhs; delta beginFeaturesGet
  rw [e]; clear e; beta_reduce
  repeat' first
    | with_reducible assumption
    | with_reducible apply snd_pair

theorem State.storeAlloc_sound {s0 s : State} (h : Sound s0 s) : Sound s0 (State.storeAlloc s) := by
  have e := @rfl _ @State.storeAlloc
  conv at e => rhs; delta State.storeAlloc
  rw [e]; clear e; beta_reduce
  repeat' first
    | with_reducible assumption
    | (fail_if_no_progress (extract_lets -underBinder +onlyGivenNames x); first | (have hT : (type_of% x) = (State) := (by with_reducible rfl); clear hT; refine (fun (hx : Sound s0 x) => ?_) ?_; (on_goal 1 => clear_value x); (on_goal 2 => subst x)) | (have hT : (type_of% x) = (Nat) := (by with_reducible rfl); clear hT; clear_value x) | (have hT : (type_of% x) = (BitVec 32) := (by with_reducible rfl); clear hT; clear_value x) | (have hT : (type_of% x) = (Attic) := (by with_reducible rfl); clear hT) | fail)
    | with_reducible apply State.setReg_sound
    | with_reducible apply State.celPut_sound
    | (with_reducible refine Sound.upd ?_ ?_; (on_goal 2 => with_reducible rfl); with_reducible assumption)
    | split

theorem State.featCommit_sound {s0 s : State} (h : Sound s0 s) : Sound s0 (State.featCommit s) := by
  have e := @rfl _ @State.featCommit
  conv at e => rhs; delta State.featCommit
  rw [e]; clear e; beta_reduce
  repeat' first
    | with_reducible assumption
    | (fail_if_no_progress (extract_lets -underBinder +onlyGivenNames x); first | (have hT : (type_of% x) = (State) := (by with_reducible rfl); clear hT; refine (fun (hx : Sound s0 x) => ?_) ?_; (on_goal 1 => clear_value x); (on_goal 2 => subst x)) | (have hT : (type_of% x) = (BitVec 32) := (by with_reducible rfl); clear hT; clear_value x) | fail)
    | (with_reducible apply sound_ite <;> intro)
    | with_reducible apply State.setB_sound
    | with_reducible apply State.setReg_sound
    | with_reducible apply State.takePlan_sound
    | with_reducible apply State.measure_sound
    | with_reducible apply State.mirrorOn_sound
    | with_reducible apply State.storeAlloc_sound

theorem State.featCommitWrite_sound {s0 s : State} (h : Sound s0 s) {a1} : Sound s0 (State.featCommitWrite s a1) := by
  have e := @rfl _ @State.featCommitWrite
  conv at e => rhs; delta State.featCommitWrite
  rw [e]; clear e; beta_reduce
  repeat' first
    | with_reducible assumption
    | (with_reducible apply sound_ite <;> intro)
    | with_reducible apply State.wdrop_sound
    | with_reducible apply State.featCommit_sound

theorem beginExpertLeave_sound {s0 s : State} (h : Sound s0 s) {a0} : Snd s0 (beginExpertLeave a0 s) := by
  have e := @rfl _ @beginExpertLeave
  conv at e => rhs; delta beginExpertLeave
  rw [e]; clear e; beta_reduce
  repeat' first
    | with_reducible assumption
    | split
    | with_reducible apply snd_pair

theorem State.expertLeave_sound {s0 s : State} (h : Sound s0 s) {a1 a2} : Snd s0 (State.expertLeave s a1 a2) := by
  have e := @rfl _ @State.expertLeave
  conv at e => rhs; delta State.expertLeave
  rw [e]; clear e; beta_reduce
  repeat' first
    | with_reducible assumption
    | (with_reducible apply snd_ite <;> intro)
    | with_reducible apply State.expertCommit_sound
    | with_reducible apply snd_pair

theorem State.featuresSet_sound {s0 s : State} (h : Sound s0 s) {a1} : Snd s0 (State.featuresSet s a1) := by
  have e := @rfl _ @State.featuresSet
  conv at e => rhs; delta State.featuresSet
  rw [e]; clear e; beta_reduce
  repeat' first
    | with_reducible assumption
    | intro _ _ _
    | (fail_if_no_progress (extract_lets -underBinder +onlyGivenNames x); first | (have hT : (type_of% x) = (State) := (by with_reducible rfl); clear hT; refine (fun (hx : Sound s0 x) => ?_) ?_; (on_goal 1 => clear_value x); (on_goal 2 => subst x)) | fail)
    | (with_reducible apply snd_ite <;> intro)
    | with_reducible apply State.setReg_sound
    | with_reducible apply State.featCommit_sound
    | with_reducible refine State.each_sound ?_ _ ?_
    | with_reducible apply snd_pair

end Sys2Proof.Machine
end

