-- ==== Sys2Proof/Laws/FlowSound.lean ====
section
/-! SUPPORT. The operations of Machine/Flow.lean are sound: see Laws/Sound.lean. -/

set_option linter.all false

namespace Sys2Proof.Machine

theorem State.throtRefresh_sound {s0 s : State} (h : Sound s0 s) {a1} : Sound s0 (State.throtRefresh s a1) := by
  have e := @rfl _ @State.throtRefresh
  conv at e => rhs; delta State.throtRefresh
  rw [e]; clear e; beta_reduce
  repeat' first
    | with_reducible assumption
    | (fail_if_no_progress (extract_lets -underBinder +onlyGivenNames x); first | (have hT : (type_of% x) = (State) := (by with_reducible rfl); clear hT; refine (fun (hx : Sound s0 x) => ?_) ?_; (on_goal 1 => clear_value x); (on_goal 2 => subst x)) | (have hT : (type_of% x) = (Nat) := (by with_reducible rfl); clear hT; clear_value x) | (have hT : (type_of% x) = (Bool) := (by with_reducible rfl); clear hT; clear_value x) | (have hT : (type_of% x) = (List Nat) := (by with_reducible rfl); clear hT; clear_value x) | fail)
    | (with_reducible apply sound_ite <;> intro)
    | with_reducible apply State.setReg_sound
    | with_reducible apply State.loopBound_sound

theorem commitHeads_sound {s0 s : State} (h : Sound s0 s) {a0 a1} : Snd s0 (commitHeads a0 a1 s) := by
  have e := @rfl _ @commitHeads
  conv at e => rhs; delta commitHeads
  rw [e]; clear e; beta_reduce
  repeat' first
    | with_reducible assumption
    | with_reducible apply commitAfter_sound

theorem beginSpriteTable_sound {s0 s : State} (h : Sound s0 s) {a0} : Snd s0 (beginSpriteTable a0 s) := by
  have e := @rfl _ @beginSpriteTable
  conv at e => rhs; delta beginSpriteTable
  rw [e]; clear e; beta_reduce
  repeat' first
    | with_reducible assumption
    | intro _ _ _
    | (fail_if_no_progress (extract_lets -underBinder +onlyGivenNames x); first | (have hT : (type_of% x) = (State) := (by with_reducible rfl); clear hT; refine (fun (hx : Sound s0 x) => ?_) ?_; (on_goal 1 => clear_value x); (on_goal 2 => subst x)) | (have hT : (type_of% x) = (Nat) := (by with_reducible rfl); clear hT; clear_value x) | (have hT : (type_of% x) = (Bool) := (by with_reducible rfl); clear hT; clear_value x) | (have hT : (type_of% x) = (List Nat) := (by with_reducible rfl); clear hT; clear_value x) | (have hT : (type_of% x) = (Packet) := (by with_reducible rfl); clear hT; clear_value x) | fail)
    | with_reducible apply State.stage_sound
    | with_reducible apply commitHeads_sound
    | with_reducible refine State.each_sound ?_ _ ?_
    | split
    | with_reducible apply snd_pair

theorem State.throtBound_sound {s0 s : State} (h : Sound s0 s) {a1} : Sound s0 (State.throtBound s a1) := by
  have e := @rfl _ @State.throtBound
  conv at e => rhs; delta State.throtBound
  rw [e]; clear e; beta_reduce
  repeat' first
    | with_reducible assumption
    | (fail_if_no_progress (extract_lets -underBinder +onlyGivenNames x); first | (have hT : (type_of% x) = (State) := (by with_reducible rfl); clear hT; refine (fun (hx : Sound s0 x) => ?_) ?_; (on_goal 1 => clear_value x); (on_goal 2 => subst x)) | (clear_value x) | fail)
    | with_reducible apply State.setReg_sound
    | with_reducible apply State.throtRefresh_sound
    | (with_reducible refine Sound.upd ?_ ?_; (on_goal 2 => with_reducible rfl); with_reducible assumption)

theorem beginCanvasSet_sound {s0 s : State} (h : Sound s0 s) {a0} : Snd s0 (beginCanvasSet a0 s) := by
  have e := @rfl _ @beginCanvasSet
  conv at e => rhs; delta beginCanvasSet
  rw [e]; clear e; beta_reduce
  repeat' first
    | with_reducible assumption
    | intro _ _ _
    | (fail_if_no_progress (extract_lets -underBinder +onlyGivenNames x); first | (have hT : (type_of% x) = (State) := (by with_reducible rfl); clear hT; refine (fun (hx : Sound s0 x) => ?_) ?_; (on_goal 1 => clear_value x); (on_goal 2 => subst x)) | (have hT : (type_of% x) = (Nat) := (by with_reducible rfl); clear hT; clear_value x) | (have hT : (type_of% x) = (List Nat) := (by with_reducible rfl); clear hT; clear_value x) | (have hT : (type_of% x) = (Option Nat) := (by with_reducible rfl); clear hT; clear_value x) | (skip) | fail)
    | with_reducible apply State.stage_sound
    | with_reducible apply commitHeads_sound
    | with_reducible refine State.each_sound ?_ _ ?_
    | split
    | with_reducible apply snd_pair

theorem State.setRsv_sound {s0 s : State} (h : Sound s0 s) {a1 a2} : Sound s0 (State.setRsv s a1 a2) := by
  have e := @rfl _ @State.setRsv
  conv at e => rhs; delta State.setRsv
  rw [e]; clear e; beta_reduce
  repeat' first
    | with_reducible assumption
    | (fail_if_no_progress (extract_lets -underBinder +onlyGivenNames x); first | (have hT : (type_of% x) = (State) := (by with_reducible rfl); clear hT; refine (fun (hx : Sound s0 x) => ?_) ?_; (on_goal 1 => clear_value x); (on_goal 2 => subst x)) | fail)
    | with_reducible apply State.setReg_sound

theorem State.rsvRequest_sound {s0 s : State} (h : Sound s0 s) {a1 a2} : Snd s0 (State.rsvRequest s a1 a2) := by
  have e := @rfl _ @State.rsvRequest
  conv at e => rhs; delta State.rsvRequest
  rw [e]; clear e; beta_reduce
  repeat' first
    | with_reducible assumption
    | (fail_if_no_progress (extract_lets -underBinder +onlyGivenNames x); first | (have hT : (type_of% x) = (Nat) := (by with_reducible rfl); clear hT; clear_value x) | fail)
    | (with_reducible apply snd_ite <;> intro)
    | with_reducible apply State.incReg_sound
    | with_reducible apply State.setRsv_sound
    | with_reducible apply snd_pair

theorem stageReserved_sound {s0 s s' : State} (h : Sound s0 s) (h' : Sound s0 s') {o : Open} {k : Nat} {needs : Bool} :
    Snd s0 (stageReserved o k needs s s') := by
  unfold stageReserved
  extract_lets r
  have hr : Snd s0 r := by
    subst r
    split
    · exact State.rsvRequest_sound h'
    · exact snd_pair h'
  clear_value r
  split
  · exact commitAfter_sound hr.out
  · exact snd_pair (State.incReg_sound h)

theorem beginPlaneSet_sound {s0 s : State} (h : Sound s0 s) {a0} : Snd s0 (beginPlaneSet a0 s) := by
  have e := @rfl _ @beginPlaneSet
  conv at e => rhs; delta beginPlaneSet
  rw [e]; clear e; beta_reduce
  repeat' first
    | with_reducible assumption
    | intro _ _ _
    | (fail_if_no_progress (extract_lets -underBinder +onlyGivenNames x); first | (have hT : (type_of% x) = (State) := (by with_reducible rfl); clear hT; refine (fun (hx : Sound s0 x) => ?_) ?_; (on_goal 1 => clear_value x); (on_goal 2 => subst x)) | (have hT : (type_of% x) = (Nat) := (by with_reducible rfl); clear hT; clear_value x) | (have hT : (type_of% x) = (Bool) := (by with_reducible rfl); clear hT; clear_value x) | (have hT : (type_of% x) = (List Nat) := (by with_reducible rfl); clear hT; clear_value x) | (have hT : (type_of% x) = (Packet) := (by with_reducible rfl); clear hT; clear_value x) | (clear_value x) | fail)
    | with_reducible apply State.stage_sound
    | with_reducible apply stageReserved_sound
    | with_reducible refine State.each_sound ?_ _ ?_
    | split
    | with_reducible apply snd_pair

theorem State.updWb_sound {s0 s : State} (h : Sound s0 s) {a1 a2} : Sound s0 (State.updWb s a1 a2) := by
  have e := @rfl _ @State.updWb
  conv at e => rhs; delta State.updWb
  rw [e]; clear e; beta_reduce
  repeat' first
    | with_reducible assumption
    | with_reducible apply State.updHead_sound

theorem State.wbWrite_sound {s0 s : State} (h : Sound s0 s) {a1 a2 a3} : Sound s0 (State.wbWrite s a1 a2 a3) := by
  have e := @rfl _ @State.wbWrite
  conv at e => rhs; delta State.wbWrite
  rw [e]; clear e; beta_reduce
  repeat' first
    | with_reducible assumption
    | (fail_if_no_progress (extract_lets -underBinder +onlyGivenNames x); first | (have hT : ∃ α : Type, (type_of% x) = (α × State) := ⟨_, rfl⟩; clear hT; refine (fun (hx : Snd s0 x) => ?_) ?_; (on_goal 1 => clear_value x); (on_goal 2 => subst x)) | fail)
    | with_reducible apply State.devWrite_sound
    | with_reducible apply State.updWb_sound
    | (with_reducible apply Snd.out; with_reducible assumption)
    | split

theorem State.wbLine_sound {s0 s : State} (h : Sound s0 s) {a1 a2 a3} : Sound s0 (State.wbLine s a1 a2 a3) := by
  have e := @rfl _ @State.wbLine
  conv at e => rhs; delta State.wbLine
  rw [e]; clear e; beta_reduce
  repeat' first
    | with_reducible assumption
    | (fail_if_no_progress (extract_lets -underBinder +onlyGivenNames x); first | (have hT : (type_of% x) = (State) := (by with_reducible rfl); clear hT; refine (fun (hx : Sound s0 x) => ?_) ?_; (on_goal 1 => clear_value x); (on_goal 2 => subst x)) | (have hT : (type_of% x) = (Nat) := (by with_reducible rfl); clear hT; clear_value x) | (clear_value x) | fail)
    | (with_reducible apply sound_ite <;> intro)
    | with_reducible apply State.updWb_sound
    | with_reducible apply State.wbWrite_sound

theorem State.wbClose_sound {s0 s : State} (h : Sound s0 s) {a1} : Sound s0 (State.wbClose s a1) := by
  have e := @rfl _ @State.wbClose
  conv at e => rhs; delta State.wbClose
  rw [e]; clear e; beta_reduce
  repeat' first
    | with_reducible assumption
    | (fail_if_no_progress (extract_lets -underBinder +onlyGivenNames x); first | (have hT : (type_of% x) = (State) := (by with_reducible rfl); clear hT; refine (fun (hx : Sound s0 x) => ?_) ?_; (on_goal 1 => clear_value x); (on_goal 2 => subst x)) | (have hT : (type_of% x) = (Nat) := (by with_reducible rfl); clear hT; clear_value x) | (have hT : (type_of% x) = (BitVec 64) := (by with_reducible rfl); clear hT; clear_value x) | (clear_value x) | fail)
    | (with_reducible apply sound_ite <;> intro)
    | with_reducible apply State.updWb_sound
    | with_reducible apply State.setReg_sound
    | with_reducible apply State.setW64_sound

theorem beginWritebackSet_sound {s0 s : State} (h : Sound s0 s) {a0} : Snd s0 (beginWritebackSet a0 s) := by
  have e := @rfl _ @beginWritebackSet
  conv at e => rhs; delta beginWritebackSet
  rw [e]; clear e; beta_reduce
  repeat' first
    | with_reducible assumption
    | (fail_if_no_progress (extract_lets -underBinder +onlyGivenNames x); first | (have hT : (type_of% x) = (State) := (by with_reducible rfl); clear hT; refine (fun (hx : Sound s0 x) => ?_) ?_; (on_goal 1 => clear_value x); (on_goal 2 => subst x)) | (have hT : (type_of% x) = (Nat) := (by with_reducible rfl); clear hT; clear_value x) | (have hT : (type_of% x) = (Packet) := (by with_reducible rfl); clear hT; clear_value x) | fail)
    | with_reducible apply State.stage_sound
    | with_reducible apply stageReserved_sound
    | split
    | with_reducible apply snd_pair

theorem beginHeadTiming_sound {s0 s : State} (h : Sound s0 s) {a0} : Snd s0 (beginHeadTiming a0 s) := by
  have e := @rfl _ @beginHeadTiming
  conv at e => rhs; delta beginHeadTiming
  rw [e]; clear e; beta_reduce
  repeat' first
    | with_reducible assumption
    | intro _ _ _
    | (fail_if_no_progress (extract_lets -underBinder +onlyGivenNames x); first | (have hT : (type_of% x) = (State) := (by with_reducible rfl); clear hT; refine (fun (hx : Sound s0 x) => ?_) ?_; (on_goal 1 => clear_value x); (on_goal 2 => subst x)) | (have hT : (type_of% x) = (Nat) := (by with_reducible rfl); clear hT; clear_value x) | (have hT : (type_of% x) = (BitVec 32) := (by with_reducible rfl); clear hT; clear_value x) | (have hT : (type_of% x) = (List Nat) := (by with_reducible rfl); clear hT; clear_value x) | (have hT : (type_of% x) = (Packet) := (by with_reducible rfl); clear hT; clear_value x) | fail)
    | with_reducible apply State.stage_sound
    | with_reducible apply commitAfter_sound
    | with_reducible refine State.each_sound ?_ _ ?_
    | split
    | with_reducible apply snd_pair

theorem State.wbFeed_sound {s0 s : State} (h : Sound s0 s) {a1 a2 a3} : Sound s0 (State.wbFeed s a1 a2 a3) := by
  have e := @rfl _ @State.wbFeed
  conv at e => rhs; delta State.wbFeed
  rw [e]; clear e; beta_reduce
  repeat' first
    | with_reducible assumption
    | (fail_if_no_progress (extract_lets -underBinder +onlyGivenNames x); first | (clear_value x) | fail)
    | (with_reducible apply sound_ite <;> intro)
    | with_reducible apply State.updWb_sound

theorem State.rsvSwap_sound {s0 s : State} (h : Sound s0 s) {a1} : Sound s0 (State.rsvSwap s a1) := by
  have e := @rfl _ @State.rsvSwap
  conv at e => rhs; delta State.rsvSwap
  rw [e]; clear e; beta_reduce
  repeat' first
    | with_reducible assumption
    | (fail_if_no_progress (extract_lets -underBinder +onlyGivenNames x); first | (have hT : (type_of% x) = (Nat) := (by with_reducible rfl); clear hT; clear_value x) | fail)
    | (with_reducible apply sound_ite <;> intro)
    | with_reducible apply State.setRsv_sound

theorem State.throttle_sound {s0 s : State} (h : Sound s0 s) {a1 a2} : Sound s0 (State.throttle s a1 a2) := by
  have e := @rfl _ @State.throttle
  conv at e => rhs; delta State.throttle
  rw [e]; clear e; beta_reduce
  repeat' first
    | with_reducible assumption
    | (fail_if_no_progress (extract_lets -underBinder +onlyGivenNames x); first | (have hT : (type_of% x) = (State) := (by with_reducible rfl); clear hT; refine (fun (hx : Sound s0 x) => ?_) ?_; (on_goal 1 => clear_value x); (on_goal 2 => subst x)) | (have hT : (type_of% x) = (Nat) := (by with_reducible rfl); clear hT; clear_value x) | (clear_value x) | fail)
    | with_reducible apply State.deadlineTags_sound
    | with_reducible apply State.throtRefresh_sound
    | (with_reducible refine Sound.upd ?_ ?_; (on_goal 2 => with_reducible rfl); with_reducible assumption)

end Sys2Proof.Machine
end

