-- ==== Sys2Proof/Laws/ScanSound.lean ====
section
/-! SUPPORT. The operations of Machine/Scan.lean are sound: see Laws/Sound.lean. -/

set_option linter.all false

namespace Sys2Proof.Machine

theorem State.tickTiles_sound {s0 s : State} (h : Sound s0 s) {a1 a2} : Sound s0 (State.tickTiles s a1 a2) := by
  have e := @rfl _ @State.tickTiles
  conv at e => rhs; delta State.tickTiles
  rw [e]; clear e; beta_reduce
  repeat' first
    | with_reducible assumption
    | intro _ _ _
    | (fail_if_no_progress (extract_lets -underBinder +onlyGivenNames x); first | (have hT : (type_of% x) = (State) := (by with_reducible rfl); clear hT; refine (fun (hx : Sound s0 x) => ?_) ?_; (on_goal 1 => clear_value x); (on_goal 2 => subst x)) | (have hT : (type_of% x) = (Nat) := (by with_reducible rfl); clear hT; clear_value x) | (clear_value x) | fail)
    | (with_reducible apply sound_ite <;> intro)
    | with_reducible apply State.readEntry_sound
    | with_reducible apply State.tilesFetch_sound
    | with_reducible refine State.each_sound ?_ _ ?_

theorem State.fetchedPast_sound {s0 s : State} (h : Sound s0 s) {a1 a2} : Sound s0 (State.fetchedPast s a1 a2) := by
  have e := @rfl _ @State.fetchedPast
  conv at e => rhs; delta State.fetchedPast
  rw [e]; clear e; beta_reduce
  repeat' first
    | with_reducible assumption
    | (with_reducible apply sound_ite <;> intro)
    | with_reducible apply State.updHead_sound

theorem State.readLine_sound {s0 s : State} (h : Sound s0 s) {a1 a2} : Sound s0 (State.readLine s a1 a2) := by
  have e := @rfl _ @State.readLine
  conv at e => rhs; delta State.readLine
  rw [e]; clear e; beta_reduce
  repeat' first
    | with_reducible assumption
    | intro _ _ _
    | (fail_if_no_progress (extract_lets -underBinder +onlyGivenNames x); first | (have hT : (type_of% x) = (State) := (by with_reducible rfl); clear hT; refine (fun (hx : Sound s0 x) => ?_) ?_; (on_goal 1 => clear_value x); (on_goal 2 => subst x)) | fail)
    | (with_reducible apply sound_ite <;> intro)
    | with_reducible apply State.readRow_sound
    | with_reducible apply State.mark_sound
    | with_reducible apply State.mantelLine_sound
    | with_reducible refine State.each_sound ?_ _ ?_

theorem State.lineReads_sound {s0 s : State} (h : Sound s0 s) {a1 a2} : Sound s0 (State.lineReads s a1 a2) := by
  have e := @rfl _ @State.lineReads
  conv at e => rhs; delta State.lineReads
  rw [e]; clear e; beta_reduce
  repeat' first
    | with_reducible assumption
    | (with_reducible apply sound_ite <;> intro)
    | with_reducible apply State.readLine_sound

theorem State.lineEvent_sound {s0 s : State} (h : Sound s0 s) {a1 a2} : Sound s0 (State.lineEvent s a1 a2) := by
  have e := @rfl _ @State.lineEvent
  conv at e => rhs; delta State.lineEvent
  rw [e]; clear e; beta_reduce
  repeat' first
    | with_reducible assumption
    | (fail_if_no_progress (extract_lets -underBinder +onlyGivenNames x); first | (have hT : (type_of% x) = (BitVec 32) := (by with_reducible rfl); clear hT; clear_value x) | fail)
    | (with_reducible apply sound_ite <;> intro)
    | with_reducible apply State.raiseLine_sound

theorem State.lineOpen_sound {s0 s : State} (h : Sound s0 s) {a1 a2} : Sound s0 (State.lineOpen s a1 a2) := by
  have e := @rfl _ @State.lineOpen
  conv at e => rhs; delta State.lineOpen
  rw [e]; clear e; beta_reduce
  repeat' first
    | with_reducible assumption
    | (fail_if_no_progress (extract_lets -underBinder +onlyGivenNames x); first | (clear_value x) | fail)
    | with_reducible apply State.updHead_sound

theorem State.tickLine_sound {s0 s : State} (h : Sound s0 s) {a1 a2} : Sound s0 (State.tickLine s a1 a2) := by
  have e := @rfl _ @State.tickLine
  conv at e => rhs; delta State.tickLine
  rw [e]; clear e; beta_reduce
  repeat' first
    | with_reducible assumption
    | with_reducible apply State.lineReads_sound
    | with_reducible apply State.lineEvent_sound
    | with_reducible apply State.lineOpen_sound

theorem State.pixelOut_sound {s0 s : State} (h : Sound s0 s) {a1 a2 a3} : Sound s0 (State.pixelOut s a1 a2 a3) := by
  have e := @rfl _ @State.pixelOut
  conv at e => rhs; delta State.pixelOut
  rw [e]; clear e; beta_reduce
  repeat' first
    | with_reducible assumption
    | (fail_if_no_progress (extract_lets -underBinder +onlyGivenNames x); first | (have hT : (type_of% x) = (State) := (by with_reducible rfl); clear hT; refine (fun (hx : Sound s0 x) => ?_) ?_; (on_goal 1 => clear_value x); (on_goal 2 => subst x)) | (have hT : (type_of% x) = (BitVec 32) := (by with_reducible rfl); clear hT; clear_value x) | (have hT : ∃ α : Type, (type_of% x) = (α × State) := ⟨_, rfl⟩; clear hT; refine (fun (hx : Snd s0 x) => ?_) ?_; (on_goal 1 => clear_value x); (on_goal 2 => subst x)) | (clear_value x) | fail)
    | with_reducible apply State.composeAt_sound
    | with_reducible apply State.mantelTouch_sound
    | with_reducible apply State.updHead_sound
    | with_reducible apply State.wbFeed_sound
    | with_reducible apply State.crcPixel_sound
    | (with_reducible apply Snd.out; with_reducible assumption)

theorem State.pixel_sound {s0 s : State} (h : Sound s0 s) {a1 a2 a3 a4} : Sound s0 (State.pixel s a1 a2 a3 a4) := by
  have e := @rfl _ @State.pixel
  conv at e => rhs; delta State.pixel
  rw [e]; clear e; beta_reduce
  repeat' first
    | with_reducible assumption
    | (fail_if_no_progress (extract_lets -underBinder +onlyGivenNames x); first | (have hT : (type_of% x) = (State) := (by with_reducible rfl); clear hT; refine (fun (hx : Sound s0 x) => ?_) ?_; (on_goal 1 => clear_value x); (on_goal 2 => subst x)) | fail)
    | (with_reducible apply sound_ite <;> intro)
    | with_reducible apply State.pixelOut_sound
    | with_reducible apply State.mark_sound
    | with_reducible apply State.wbLine_sound

theorem State.tickDraw_sound {s0 s : State} (h : Sound s0 s) {a1 a2 a3} : Sound s0 (State.tickDraw s a1 a2 a3) := by
  have e := @rfl _ @State.tickDraw
  conv at e => rhs; delta State.tickDraw
  rw [e]; clear e; beta_reduce
  repeat' first
    | with_reducible assumption
    | (fail_if_no_progress (extract_lets -underBinder +onlyGivenNames x); first | (clear_value x) | fail)
    | (with_reducible apply sound_ite <;> intro)
    | with_reducible apply State.fetchedPast_sound
    | with_reducible apply State.pixel_sound

theorem State.tickVoice_sound {s0 s : State} (h : Sound s0 s) {a1 a2 a3} : Sound s0 (State.tickVoice s a1 a2 a3) := by
  have e := @rfl _ @State.tickVoice
  conv at e => rhs; delta State.tickVoice
  rw [e]; clear e; beta_reduce
  repeat' first
    | with_reducible assumption
    | (fail_if_no_progress (extract_lets -underBinder +onlyGivenNames x); first | (have hT : (type_of% x) = (State) := (by with_reducible rfl); clear hT; refine (fun (hx : Sound s0 x) => ?_) ?_; (on_goal 1 => clear_value x); (on_goal 2 => subst x)) | fail)
    | (with_reducible apply sound_ite <;> intro)
    | with_reducible apply State.headPosition_sound
    | with_reducible apply State.mark_sound

theorem State.tickShow_sound {s0 s : State} (h : Sound s0 s) {a1 a2 a3} : Sound s0 (State.tickShow s a1 a2 a3) := by
  have e := @rfl _ @State.tickShow
  conv at e => rhs; delta State.tickShow
  rw [e]; clear e; beta_reduce
  repeat' first
    | with_reducible assumption
    | (fail_if_no_progress (extract_lets -underBinder +onlyGivenNames x); first | (have hT : (type_of% x) = (State) := (by with_reducible rfl); clear hT; refine (fun (hx : Sound s0 x) => ?_) ?_; (on_goal 1 => clear_value x); (on_goal 2 => subst x)) | (clear_value x) | fail)
    | (with_reducible apply sound_ite <;> intro)
    | with_reducible apply State.tickLine_sound
    | with_reducible apply State.tickDraw_sound
    | with_reducible apply State.tickVoice_sound

theorem State.tickPlace_sound {s0 s : State} (h : Sound s0 s) {a1 a2} : Sound s0 (State.tickPlace s a1 a2) := by
  have e := @rfl _ @State.tickPlace
  conv at e => rhs; delta State.tickPlace
  rw [e]; clear e; beta_reduce
  repeat' first
    | with_reducible assumption
    | (fail_if_no_progress (extract_lets -underBinder +onlyGivenNames x); first | (clear_value x) | fail)
    | with_reducible apply State.bsLandDue_sound
    | with_reducible apply State.updHead_sound

theorem State.tickOut_sound {s0 s : State} (h : Sound s0 s) {a1 a2 a3} : Sound s0 (State.tickOut s a1 a2 a3) := by
  have e := @rfl _ @State.tickOut
  conv at e => rhs; delta State.tickOut
  rw [e]; clear e; beta_reduce
  repeat' first
    | with_reducible assumption
    | with_reducible apply State.tickShow_sound
    | with_reducible apply State.tickPlace_sound

theorem State.tickSprite_sound {s0 s : State} (h : Sound s0 s) {a1 a2} : Sound s0 (State.tickSprite s a1 a2) := by
  have e := @rfl _ @State.tickSprite
  conv at e => rhs; delta State.tickSprite
  rw [e]; clear e; beta_reduce
  repeat' first
    | with_reducible assumption
    | (fail_if_no_progress (extract_lets -underBinder +onlyGivenNames x); first | (clear_value x) | fail)
    | (with_reducible apply sound_ite <;> intro)
    | with_reducible apply State.spriteLate_sound
    | with_reducible apply State.mark_sound
    | with_reducible apply State.spriteEval_sound
    | with_reducible apply State.spriteLoaded_sound

theorem State.tickRest_sound {s0 s : State} (h : Sound s0 s) {a1 a2 a3} : Sound s0 (State.tickRest s a1 a2 a3) := by
  have e := @rfl _ @State.tickRest
  conv at e => rhs; delta State.tickRest
  rw [e]; clear e; beta_reduce
  repeat' first
    | with_reducible assumption
    | with_reducible apply State.tickOut_sound
    | with_reducible apply State.tickSprite_sound
    | with_reducible apply State.tickTiles_sound

theorem State.tickFetch_sound {s0 s : State} (h : Sound s0 s) {a1 a2} : Sound s0 (State.tickFetch s a1 a2) := by
  have e := @rfl _ @State.tickFetch
  conv at e => rhs; delta State.tickFetch
  rw [e]; clear e; beta_reduce
  repeat' first
    | with_reducible assumption
    | (fail_if_no_progress (extract_lets -underBinder +onlyGivenNames x); first | (have hT : (type_of% x) = (State) := (by with_reducible rfl); clear hT; refine (fun (hx : Sound s0 x) => ?_) ?_; (on_goal 1 => clear_value x); (on_goal 2 => subst x)) | (have hT : (type_of% x) = (Nat) := (by with_reducible rfl); clear hT; clear_value x) | (clear_value x) | fail)
    | (with_reducible apply sound_ite <;> intro)
    | with_reducible apply State.mark_sound
    | with_reducible apply State.bsEnd_sound
    | with_reducible apply State.bsNewLine_sound
    | with_reducible apply State.spriteEval_sound

theorem State.tickOpen_sound {s0 s : State} (h : Sound s0 s) {a1} : Sound s0 (State.tickOpen s a1) := by
  have e := @rfl _ @State.tickOpen
  conv at e => rhs; delta State.tickOpen
  rw [e]; clear e; beta_reduce
  repeat' first
    | with_reducible assumption
    | with_reducible apply State.updHead_sound

theorem State.tick_sound {s0 s : State} (h : Sound s0 s) {a1 a2} : Sound s0 (State.tick s a1 a2) := by
  have e := @rfl _ @State.tick
  conv at e => rhs; delta State.tick
  rw [e]; clear e; beta_reduce
  repeat' first
    | with_reducible assumption
    | (fail_if_no_progress (extract_lets -underBinder +onlyGivenNames x); first | (have hT : (type_of% x) = (Nat) := (by with_reducible rfl); clear hT; clear_value x) | fail)
    | with_reducible apply State.tickRest_sound
    | with_reducible apply State.bsClocks_sound
    | with_reducible apply State.tickFetch_sound
    | with_reducible apply State.tickOpen_sound

theorem State.runOut_sound {s0 s : State} (h : Sound s0 s) {a0 a1} : Sound s0 (State.runOut a0 a1 s) := by
  induction a1 generalizing s with
  | zero => exact h
  | succ n ih => exact ih (State.tick_sound h)

theorem advanceUntil_sound {s0 s : State} (h : Sound s0 s) {a0 a1 a2 a3} : SoundO s0 (advanceUntil a0 a1 a2 a3 s) := by
  induction a3 generalizing s with
  | zero => exact soundO_none
  | succ n ih =>
    unfold advanceUntil
    extract_lets t
    have ht : Sound s0 t := State.tick_sound h
    clear_value t
    split
    · exact soundO_some ht
    · exact ih ht

theorem State.runBefore_sound {s0 s : State} (h : Sound s0 s) {a1 a2 a3} : SoundO s0 (State.runBefore s a1 a2 a3) := by
  have e := @rfl _ @State.runBefore
  conv at e => rhs; delta State.runBefore
  rw [e]; clear e; beta_reduce
  repeat' first
    | with_reducible assumption
    | (fail_if_no_progress (extract_lets -underBinder +onlyGivenNames x); first | (clear_value x) | fail)
    | (with_reducible apply soundO_ite <;> intro)
    | with_reducible apply advanceUntil_sound
    | with_reducible apply soundO_some

theorem State.runTo_sound {s0 s : State} (h : Sound s0 s) {a1 a2} : Sound s0 (State.runTo s a1 a2) := by
  have e := @rfl _ @State.runTo
  conv at e => rhs; delta State.runTo
  rw [e]; clear e; beta_reduce
  repeat' first
    | with_reducible assumption
    | with_reducible apply advanceUntil_sound
    | with_reducible refine SoundO.getD ?_ ?_

theorem State.mantelFails_sound {s0 s : State} (h : Sound s0 s) {a1 a2 a3} : Sound s0 (State.mantelFails s a1 a2 a3) := by
  have e := @rfl _ @State.mantelFails
  conv at e => rhs; delta State.mantelFails
  rw [e]; clear e; beta_reduce
  repeat' first
    | with_reducible assumption
    | (fail_if_no_progress (extract_lets -underBinder +onlyGivenNames x); first | (have hT : (type_of% x) = (State) := (by with_reducible rfl); clear hT; refine (fun (hx : Sound s0 x) => ?_) ?_; (on_goal 1 => clear_value x); (on_goal 2 => subst x)) | fail)
    | (with_reducible apply sound_ite <;> intro)
    | (with_reducible apply soundO_ite <;> intro)
    | with_reducible apply State.runBefore_sound
    | with_reducible apply State.mantelFault_sound
    | with_reducible apply State.mantelSpoil_sound
    | with_reducible apply advanceUntil_sound
    | with_reducible refine SoundO.getD ?_ ?_
    | with_reducible apply soundO_some
    | split
    | refine SoundO.of_eq (by assumption) ?_

theorem State.runLand_sound {s0 s : State} (h : Sound s0 s) {a1} : Sound s0 (State.runLand s a1) := by
  have e := @rfl _ @State.runLand
  conv at e => rhs; delta State.runLand
  rw [e]; clear e; beta_reduce
  repeat' first
    | with_reducible assumption
    | (fail_if_no_progress (extract_lets -underBinder +onlyGivenNames x); first | (clear_value x) | fail)
    | (with_reducible apply sound_ite <;> intro)
    | with_reducible apply State.bsLandEarly_sound
    | with_reducible apply advanceUntil_sound
    | split
    | refine SoundO.of_eq (by assumption) ?_

theorem State.layerFails_sound {s0 s : State} (h : Sound s0 s) {a1 a2 a3 a4} : Sound s0 (State.layerFails s a1 a2 a3 a4) := by
  have e := @rfl _ @State.layerFails
  conv at e => rhs; delta State.layerFails
  rw [e]; clear e; beta_reduce
  repeat' first
    | with_reducible assumption
    | with_reducible apply State.runBefore_sound
    | with_reducible apply State.shutter_sound
    | split
    | refine SoundO.of_eq (by assumption) ?_

theorem State.runWbLine_sound {s0 s : State} (h : Sound s0 s) {a1 a2} : Sound s0 (State.runWbLine s a1 a2) := by
  have e := @rfl _ @State.runWbLine
  conv at e => rhs; delta State.runWbLine
  rw [e]; clear e; beta_reduce
  repeat' first
    | with_reducible assumption
    | with_reducible apply advanceUntil_sound
    | with_reducible refine SoundO.getD ?_ ?_

end Sys2Proof.Machine
end

