-- ==== Sys2Proof/Laws/HeadRunSound.lean ====
section
/-! SUPPORT. The operations of Machine/HeadRun.lean are sound: see Laws/Sound.lean. -/

set_option linter.all false

namespace Sys2Proof.Machine

theorem State.acceptSet_sound {s0 s : State} (h : Sound s0 s) {a1} : Sound s0 (State.acceptSet s a1) := by
  have e := @rfl _ @State.acceptSet
  conv at e => rhs; delta State.acceptSet
  rw [e]; clear e; beta_reduce
  repeat' first
    | with_reducible assumption
    | intro _ _ _
    | (fail_if_no_progress (extract_lets -underBinder +onlyGivenNames x); first | (have hT : (type_of% x) = (State) := (by with_reducible rfl); clear hT; refine (fun (hx : Sound s0 x) => ?_) ?_; (on_goal 1 => clear_value x); (on_goal 2 => subst x)) | fail)
    | with_reducible apply State.setCm_sound
    | with_reducible apply State.setB_sound
    | with_reducible apply State.updHead_sound
    | with_reducible refine foldl_sound _ ?_ ?_

theorem beginPullWindow_sound {s0 s : State} (h : Sound s0 s) {a0 a1 a2} : Snd s0 (beginPullWindow a0 a1 a2 s) := by
  have e := @rfl _ @beginPullWindow
  conv at e => rhs; delta beginPullWindow
  rw [e]; clear e; beta_reduce
  repeat' first
    | with_reducible assumption
    | (fail_if_no_progress (extract_lets -underBinder +onlyGivenNames x); first | (have hT : (type_of% x) = (Bool) := (by with_reducible rfl); clear hT; clear_value x) | (have hT : (type_of% x) = (Int) := (by with_reducible rfl); clear hT; clear_value x) | fail)
    | with_reducible apply State.updHead_sound
    | split
    | with_reducible apply snd_pair

theorem State.expertSwapped_sound {s0 s : State} (h : Sound s0 s) {a1} : Sound s0 (State.expertSwapped s a1) := by
  have e := @rfl _ @State.expertSwapped
  conv at e => rhs; delta State.expertSwapped
  rw [e]; clear e; beta_reduce
  repeat' first
    | (fail_if_no_progress (extract_lets -underBinder +onlyGivenNames x); first | (clear_value x) | fail)
    | (with_reducible refine Sound.upd ?_ ?_; (on_goal 2 => with_reducible rfl); with_reducible assumption)

theorem State.headPassed_sound {s0 s : State} (h : Sound s0 s) {a1 a2} : Sound s0 (State.headPassed s a1 a2) := by
  have e := @rfl _ @State.headPassed
  conv at e => rhs; delta State.headPassed
  rw [e]; clear e; beta_reduce
  repeat' first
    | with_reducible assumption
    | (fail_if_no_progress (extract_lets -underBinder +onlyGivenNames x); first | (have hT : (type_of% x) = (Nat) := (by with_reducible rfl); clear hT; clear_value x) | (clear_value x) | fail)
    | (with_reducible apply sound_ite <;> intro)
    | with_reducible apply State.voiceEvent_sound
    | with_reducible apply State.updHead_sound

theorem State.closeFrame_sound {s0 s : State} (h : Sound s0 s) {a1} : Sound s0 (State.closeFrame s a1) := by
  have e := @rfl _ @State.closeFrame
  conv at e => rhs; delta State.closeFrame
  rw [e]; clear e; beta_reduce
  repeat' first
    | with_reducible assumption
    | (fail_if_no_progress (extract_lets -underBinder +onlyGivenNames x); first | (have hT : (type_of% x) = (State) := (by with_reducible rfl); clear hT; refine (fun (hx : Sound s0 x) => ?_) ?_; (on_goal 1 => clear_value x); (on_goal 2 => subst x)) | fail)
    | with_reducible apply State.spriteClose_sound
    | with_reducible apply State.bsClose_sound
    | with_reducible apply State.updHead_sound
    | with_reducible apply State.updMt_sound
    | with_reducible apply State.wbClose_sound
    | with_reducible apply State.receiptCut_sound
    | with_reducible apply State.crcClose_sound
    | with_reducible apply State.shutterClose_sound

theorem State.glOut_sound {s0 s : State} (h : Sound s0 s) {a1} : Sound s0 (State.glOut s a1) := by
  have e := @rfl _ @State.glOut
  conv at e => rhs; delta State.glOut
  rw [e]; clear e; beta_reduce
  repeat' first
    | with_reducible assumption
    | intro _ _ _
    | (fail_if_no_progress (extract_lets -underBinder +onlyGivenNames x); first | (have hT : (type_of% x) = (State) := (by with_reducible rfl); clear hT; refine (fun (hx : Sound s0 x) => ?_) ?_; (on_goal 1 => clear_value x); (on_goal 2 => subst x)) | (clear_value x) | fail)
    | (with_reducible apply sound_ite <;> intro)
    | with_reducible apply State.finishAcc_sound
    | with_reducible apply State.setReg_sound
    | with_reducible refine State.each_sound ?_ _ ?_
    | (with_reducible refine Sound.upd ?_ ?_; (on_goal 2 => with_reducible rfl); with_reducible assumption)

theorem State.setPull_sound {s0 s : State} (h : Sound s0 s) {a1 a2} : Sound s0 (State.setPull s a1 a2) := by
  have e := @rfl _ @State.setPull
  conv at e => rhs; delta State.setPull
  rw [e]; clear e; beta_reduce
  repeat' first
    | with_reducible assumption
    | with_reducible apply State.setReg_sound

theorem State.glMeasure_sound {s0 s : State} (h : Sound s0 s) {a1} : Sound s0 (State.glMeasure s a1) := by
  have e := @rfl _ @State.glMeasure
  conv at e => rhs; delta State.glMeasure
  rw [e]; clear e; beta_reduce
  repeat' first
    | with_reducible assumption
    | (fail_if_no_progress (extract_lets -underBinder +onlyGivenNames x); first | (have hT : (type_of% x) = (State) := (by with_reducible rfl); clear hT; refine (fun (hx : Sound s0 x) => ?_) ?_; (on_goal 1 => clear_value x); (on_goal 2 => subst x)) | (have hT : (type_of% x) = (Nat) := (by with_reducible rfl); clear hT; clear_value x) | (have hT : (type_of% x) = (Bool) := (by with_reducible rfl); clear hT; clear_value x) | (have hT : (type_of% x) = (Int) := (by with_reducible rfl); clear hT; clear_value x) | (clear_value x) | fail)
    | (with_reducible apply sound_ite <;> intro)
    | with_reducible apply State.updHead_sound
    | with_reducible apply State.setPull_sound
    | with_reducible apply State.setReg_sound
    | with_reducible apply State.setB_sound
    | with_reducible apply State.errRec_sound
    | with_reducible apply State.pulse_sound
    | split

theorem State.boundaryCycle_sound {s0 s : State} (h : Sound s0 s) {a1 a2} : Sound s0 (State.boundaryCycle s a1 a2) := by
  have e := @rfl _ @State.boundaryCycle
  conv at e => rhs; delta State.boundaryCycle
  rw [e]; clear e; beta_reduce
  repeat' first
    | with_reducible assumption
    | (fail_if_no_progress (extract_lets -underBinder +onlyGivenNames x); first | (have hT : (type_of% x) = (State) := (by with_reducible rfl); clear hT; refine (fun (hx : Sound s0 x) => ?_) ?_; (on_goal 1 => clear_value x); (on_goal 2 => subst x)) | (have hT : (type_of% x) = (Bool) := (by with_reducible rfl); clear hT; clear_value x) | fail)
    | (with_reducible apply sound_ite <;> intro)
    | with_reducible apply State.updHead_sound
    | with_reducible apply State.closeFrame_sound
    | with_reducible apply State.glOut_sound
    | with_reducible apply State.glMeasure_sound
    | with_reducible apply State.headPosition_sound

theorem State.joinBoundary_sound {s0 s : State} (h : Sound s0 s) {a1} : Sound s0 (State.joinBoundary s a1) := by
  have e := @rfl _ @State.joinBoundary
  conv at e => rhs; delta State.joinBoundary
  rw [e]; clear e; beta_reduce
  repeat' first
    | with_reducible assumption
    | intro _ _ _
    | (with_reducible apply sound_ite <;> intro)
    | with_reducible apply State.boundaryCycle_sound
    | with_reducible refine State.each_sound ?_ _ ?_

theorem State.frameBoundary_sound {s0 s : State} (h : Sound s0 s) {a1} : Sound s0 (State.frameBoundary s a1) := by
  have e := @rfl _ @State.frameBoundary
  conv at e => rhs; delta State.frameBoundary
  rw [e]; clear e; beta_reduce
  repeat' first
    | with_reducible assumption
    | (fail_if_no_progress (extract_lets -underBinder +onlyGivenNames x); first | (have hT : (type_of% x) = (State) := (by with_reducible rfl); clear hT; refine (fun (hx : Sound s0 x) => ?_) ?_; (on_goal 1 => clear_value x); (on_goal 2 => subst x)) | (have hT : (type_of% x) = (Bool) := (by with_reducible rfl); clear hT; clear_value x) | fail)
    | (with_reducible apply sound_ite <;> intro)
    | with_reducible apply State.runOut_sound
    | with_reducible apply State.updHead_sound
    | with_reducible apply State.headPosition_sound
    | with_reducible apply State.joinBoundary_sound
    | with_reducible apply State.boundaryCycle_sound
    | split

theorem State.pllLock_sound {s0 s : State} (h : Sound s0 s) {a1 a2} : Sound s0 (State.pllLock s a1 a2) := by
  have e := @rfl _ @State.pllLock
  conv at e => rhs; delta State.pllLock
  rw [e]; clear e; beta_reduce
  repeat' first
    | with_reducible assumption
    | (fail_if_no_progress (extract_lets -underBinder +onlyGivenNames x); first | (clear_value x) | fail)
    | (with_reducible apply sound_ite <;> intro)
    | with_reducible apply State.boundaryCycle_sound
    | with_reducible apply State.setReg_sound

theorem State.stopHead_sound {s0 s : State} (h : Sound s0 s) {a1} : Sound s0 (State.stopHead s a1) := by
  have e := @rfl _ @State.stopHead
  conv at e => rhs; delta State.stopHead
  rw [e]; clear e; beta_reduce
  repeat' first
    | with_reducible assumption
    | (fail_if_no_progress (extract_lets -underBinder +onlyGivenNames x); first | (have hT : (type_of% x) = (State) := (by with_reducible rfl); clear hT; refine (fun (hx : Sound s0 x) => ?_) ?_; (on_goal 1 => clear_value x); (on_goal 2 => subst x)) | fail)
    | with_reducible apply State.setReg_sound
    | with_reducible apply State.portsHeadOff_sound
    | with_reducible apply State.setRsv_sound
    | with_reducible apply State.updHead_sound

theorem State.swapNext_sound {s0 s : State} (h : Sound s0 s) {a1 a2} : Sound s0 (State.swapNext s a1 a2) := by
  have e := @rfl _ @State.swapNext
  conv at e => rhs; delta State.swapNext
  rw [e]; clear e; beta_reduce
  repeat' first
    | with_reducible assumption
    | (fail_if_no_progress (extract_lets -underBinder +onlyGivenNames x); first | (have hT : (type_of% x) = (State) := (by with_reducible rfl); clear hT; refine (fun (hx : Sound s0 x) => ?_) ?_; (on_goal 1 => clear_value x); (on_goal 2 => subst x)) | (have hT : (type_of% x) = (Nat) := (by with_reducible rfl); clear hT; clear_value x) | (have hT : (type_of% x) = (BitVec 32) := (by with_reducible rfl); clear hT; clear_value x) | (have hT : (type_of% x) = (BitVec 64) := (by with_reducible rfl); clear hT; clear_value x) | (clear_value x) | fail)
    | (with_reducible apply sound_ite <;> intro)
    | with_reducible apply State.headPassed_sound
    | with_reducible apply State.headFrame_sound
    | with_reducible apply State.raiseLine_sound
    | with_reducible apply State.updHead_sound
    | with_reducible apply State.stopHead_sound
    | with_reducible apply State.finish_sound
    | with_reducible apply State.readLine_sound
    | with_reducible apply State.bsStart_sound
    | with_reducible apply State.spriteStart_sound

theorem beginHeadCommit_sound {s0 s : State} (h : Sound s0 s) {a0} : Snd s0 (beginHeadCommit a0 s) := by
  have e := @rfl _ @beginHeadCommit
  conv at e => rhs; delta beginHeadCommit
  rw [e]; clear e; beta_reduce
  repeat' first
    | with_reducible assumption
    | intro _ _ _
    | (fail_if_no_progress (extract_lets -underBinder +onlyGivenNames x); first | (have hT : (type_of% x) = (BitVec 32) := (by with_reducible rfl); clear hT; clear_value x) | (have hT : (type_of% x) = (List Nat) := (by with_reducible rfl); clear hT; clear_value x) | (have hT : (type_of% x) = (Option Nat) := (by with_reducible rfl); clear hT; clear_value x) | fail)
    | with_reducible apply State.jState_sound
    | with_reducible apply State.requestCommit_sound
    | with_reducible refine State.each_sound ?_ _ ?_
    | split
    | with_reducible apply snd_pair

theorem State.boundaryEvent_sound {s0 s : State} (h : Sound s0 s) {a1} : Sound s0 (State.boundaryEvent s a1) := by
  have e := @rfl _ @State.boundaryEvent
  conv at e => rhs; delta State.boundaryEvent
  rw [e]; clear e; beta_reduce
  repeat' first
    | with_reducible assumption
    | (fail_if_no_progress (extract_lets -underBinder +onlyGivenNames x); first | (have hT : (type_of% x) = (Nat) := (by with_reducible rfl); clear hT; clear_value x) | fail)
    | with_reducible apply State.headPassed_sound
    | split

theorem State.glEdge_sound {s0 s : State} (h : Sound s0 s) {a1 a2} : Sound s0 (State.glEdge s a1 a2) := by
  have e := @rfl _ @State.glEdge
  conv at e => rhs; delta State.glEdge
  rw [e]; clear e; beta_reduce
  repeat' first
    | with_reducible assumption
    | intro _ _ _
    | (fail_if_no_progress (extract_lets -underBinder +onlyGivenNames x); first | (have hT : (type_of% x) = (State) := (by with_reducible rfl); clear hT; refine (fun (hx : Sound s0 x) => ?_) ?_; (on_goal 1 => clear_value x); (on_goal 2 => subst x)) | (have hT : (type_of% x) = (Nat) := (by with_reducible rfl); clear hT; clear_value x) | (have hT : (type_of% x) = (Bool) := (by with_reducible rfl); clear hT; clear_value x) | (clear_value x) | fail)
    | (with_reducible apply sound_ite <;> intro)
    | with_reducible apply State.setReg_sound
    | with_reducible apply State.setB_sound
    | with_reducible apply State.setW64_sound
    | with_reducible apply State.errRec_sound
    | with_reducible refine State.each_sound ?_ _ ?_
    | (with_reducible refine Sound.upd ?_ ?_; (on_goal 2 => with_reducible rfl); with_reducible assumption)

theorem State.followLeader_sound {s0 s : State} (h : Sound s0 s) {a1} : Sound s0 (State.followLeader s a1) := by
  have e := @rfl _ @State.followLeader
  conv at e => rhs; delta State.followLeader
  rw [e]; clear e; beta_reduce
  repeat' first
    | with_reducible assumption
    | (fail_if_no_progress (extract_lets -underBinder +onlyGivenNames x); first | (have hT : (type_of% x) = (Nat) := (by with_reducible rfl); clear hT; clear_value x) | (clear_value x) | fail)
    | (with_reducible apply sound_ite <;> intro)
    | with_reducible apply State.updHead_sound
    | with_reducible apply State.setReg_sound

theorem beginHeadDisable_sound {s0 s : State} (h : Sound s0 s) {a0} : Snd s0 (beginHeadDisable a0 s) := by
  have e := @rfl _ @beginHeadDisable
  conv at e => rhs; delta beginHeadDisable
  rw [e]; clear e; beta_reduce
  repeat' first
    | with_reducible assumption
    | (fail_if_no_progress (extract_lets -underBinder +onlyGivenNames x); first | (have hT : (type_of% x) = (Nat) := (by with_reducible rfl); clear hT; clear_value x) | (have hT : (type_of% x) = (Packet) := (by with_reducible rfl); clear hT; clear_value x) | fail)
    | with_reducible apply State.updHead_sound
    | split
    | with_reducible apply snd_pair

theorem beginRouteGenlock_sound {s0 s : State} (h : Sound s0 s) {a0} : Snd s0 (beginRouteGenlock a0 s) := by
  have e := @rfl _ @beginRouteGenlock
  conv at e => rhs; delta beginRouteGenlock
  rw [e]; clear e; beta_reduce
  repeat' first
    | with_reducible assumption
    | (fail_if_no_progress (extract_lets -underBinder +onlyGivenNames x); first | (have hT : (type_of% x) = (Nat) := (by with_reducible rfl); clear hT; clear_value x) | (have hT : (type_of% x) = (Packet) := (by with_reducible rfl); clear hT; clear_value x) | fail)
    | (with_reducible apply snd_ite <;> intro)
    | with_reducible apply State.setReg_sound
    | split
    | with_reducible apply snd_pair

theorem State.reloadActive_sound {s0 s : State} (h : Sound s0 s) {a1} : Sound s0 (State.reloadActive s a1) := by
  have e := @rfl _ @State.reloadActive
  conv at e => rhs; delta State.reloadActive
  rw [e]; clear e; beta_reduce
  repeat' first
    | with_reducible assumption
    | intro _ _ _
    | (fail_if_no_progress (extract_lets -underBinder +onlyGivenNames x); first | (have hT : (type_of% x) = (State) := (by with_reducible rfl); clear hT; refine (fun (hx : Sound s0 x) => ?_) ?_; (on_goal 1 => clear_value x); (on_goal 2 => subst x)) | fail)
    | with_reducible apply State.setReg_sound
    | with_reducible apply State.updHead_sound
    | with_reducible refine foldl_sound _ ?_ ?_

theorem State.swapOne_sound {s0 s : State} (h : Sound s0 s) {a1 a2} : Sound s0 (State.swapOne s a1 a2) := by
  have e := @rfl _ @State.swapOne
  conv at e => rhs; delta State.swapOne
  rw [e]; clear e; beta_reduce
  repeat' first
    | with_reducible assumption
    | (fail_if_no_progress (extract_lets -underBinder +onlyGivenNames x); first | (have hT : (type_of% x) = (State) := (by with_reducible rfl); clear hT; refine (fun (hx : Sound s0 x) => ?_) ?_; (on_goal 1 => clear_value x); (on_goal 2 => subst x)) | (have hT : (type_of% x) = (Nat) := (by with_reducible rfl); clear hT; clear_value x) | (have hT : (type_of% x) = (Bool) := (by with_reducible rfl); clear hT; clear_value x) | (have hT : (type_of% x) = (BitVec 64) := (by with_reducible rfl); clear hT; clear_value x) | (clear_value x) | fail)
    | (with_reducible apply sound_ite <;> intro)
    | with_reducible apply State.setW64_sound
    | with_reducible apply State.updHead_sound
    | with_reducible apply State.noteSwap_sound
    | with_reducible apply State.setB_sound
    | with_reducible apply State.acceptSet_sound
    | with_reducible apply State.errRec_sound
    | with_reducible apply State.setF_sound
    | with_reducible apply State.reloadActive_sound
    | with_reducible apply State.setReg_sound
    | with_reducible apply State.mantelSwap_sound
    | with_reducible apply State.portSwap_sound
    | with_reducible apply State.rsvSwap_sound
    | with_reducible apply State.expertSwapped_sound
    | with_reducible apply State.finish_sound
    | split

theorem beginRouteSet_sound {s0 s : State} (h : Sound s0 s) {a0} : Snd s0 (beginRouteSet a0 s) := by
  have e := @rfl _ @beginRouteSet
  conv at e => rhs; delta beginRouteSet
  rw [e]; clear e; beta_reduce
  repeat' first
    | with_reducible assumption
    | (with_reducible apply snd_ite <;> intro)
    | with_reducible apply beginRouteGenlock_sound
    | with_reducible apply beginRoutePort_sound

theorem State.glideDone_sound {s0 s : State} (h : Sound s0 s) {a1 a2} : Sound s0 (State.glideDone s a1 a2) := by
  have e := @rfl _ @State.glideDone
  conv at e => rhs; delta State.glideDone
  rw [e]; clear e; beta_reduce
  repeat' first
    | with_reducible assumption
    | (fail_if_no_progress (extract_lets -underBinder +onlyGivenNames x); first | (have hT : (type_of% x) = (State) := (by with_reducible rfl); clear hT; refine (fun (hx : Sound s0 x) => ?_) ?_; (on_goal 1 => clear_value x); (on_goal 2 => subst x)) | (have hT : (type_of% x) = (Nat) := (by with_reducible rfl); clear hT; clear_value x) | fail)
    | (with_reducible apply sound_ite <;> intro)
    | with_reducible apply State.updBs_sound
    | with_reducible apply State.setReg_sound
    | with_reducible apply State.bsClocks_sound

theorem State.clearCounts_sound {s0 s : State} (h : Sound s0 s) {a1} : Sound s0 (State.clearCounts s a1) := by
  have e := @rfl _ @State.clearCounts
  conv at e => rhs; delta State.clearCounts
  rw [e]; clear e; beta_reduce
  repeat' first
    | with_reducible assumption
    | intro _ _ _
    | with_reducible apply State.updBs_sound
    | with_reducible apply State.setReg_sound
    | with_reducible refine State.each_sound ?_ _ ?_

theorem beginHeadEnable_sound {s0 s : State} (h : Sound s0 s) {a0} : Snd s0 (beginHeadEnable a0 s) := by
  have e := @rfl _ @beginHeadEnable
  conv at e => rhs; delta beginHeadEnable
  rw [e]; clear e; beta_reduce
  repeat' first
    | with_reducible assumption
    | (fail_if_no_progress (extract_lets -underBinder +onlyGivenNames x); first | (have hT : (type_of% x) = (State) := (by with_reducible rfl); clear hT; refine (fun (hx : Sound s0 x) => ?_) ?_; (on_goal 1 => clear_value x); (on_goal 2 => subst x)) | (have hT : (type_of% x) = (Nat) := (by with_reducible rfl); clear hT; clear_value x) | (have hT : (type_of% x) = (Packet) := (by with_reducible rfl); clear hT; clear_value x) | (have hT : ∃ α : Type, (type_of% x) = (α × State) := ⟨_, rfl⟩; clear hT; refine (fun (hx : Snd s0 x) => ?_) ?_; (on_goal 1 => clear_value x); (on_goal 2 => subst x)) | (clear_value x) | fail)
    | (with_reducible apply snd_ite <;> intro)
    | with_reducible apply State.setF_sound
    | with_reducible apply State.setB_sound
    | with_reducible apply State.rsvRequest_sound
    | with_reducible apply State.setW64_sound
    | with_reducible apply State.clearCounts_sound
    | with_reducible apply State.acceptSet_sound
    | with_reducible apply State.setReg_sound
    | with_reducible apply State.updHead_sound
    | with_reducible apply State.recHead_sound
    | with_reducible apply State.jState_sound
    | with_reducible apply State.portsHeadOn_sound
    | (with_reducible apply Snd.out; with_reducible assumption)
    | split
    | with_reducible apply snd_pair

theorem State.swapCycle_sound {s0 s : State} (h : Sound s0 s) {a1} : Sound s0 (State.swapCycle s a1) := by
  have e := @rfl _ @State.swapCycle
  conv at e => rhs; delta State.swapCycle
  rw [e]; clear e; beta_reduce
  repeat' first
    | with_reducible assumption
    | intro _ _ _
    | (fail_if_no_progress (extract_lets -underBinder +onlyGivenNames x); first | (have hT : (type_of% x) = (State) := (by with_reducible rfl); clear hT; refine (fun (hx : Sound s0 x) => ?_) ?_; (on_goal 1 => clear_value x); (on_goal 2 => subst x)) | (have hT : (type_of% x) = (List Nat) := (by with_reducible rfl); clear hT; clear_value x) | (clear_value x) | fail)
    | (with_reducible apply sound_ite <;> intro)
    | with_reducible apply State.headPassed_sound
    | with_reducible apply State.followLeader_sound
    | with_reducible apply State.swapOne_sound
    | with_reducible apply State.swapNext_sound
    | with_reducible apply State.recHead_sound
    | with_reducible refine State.each_sound ?_ _ ?_

theorem State.alignEnd_sound {s0 s : State} (h : Sound s0 s) {a1} : Sound s0 (State.alignEnd s a1) := by
  have e := @rfl _ @State.alignEnd
  conv at e => rhs; delta State.alignEnd
  rw [e]; clear e; beta_reduce
  repeat' first
    | with_reducible assumption
    | intro _ _ _
    | with_reducible apply State.joinBoundary_sound
    | with_reducible apply State.boundaryCycle_sound
    | with_reducible refine State.each_sound ?_ _ ?_

theorem State.glLost_sound {s0 s : State} (h : Sound s0 s) {a1} : Sound s0 (State.glLost s a1) := by
  have e := @rfl _ @State.glLost
  conv at e => rhs; delta State.glLost
  rw [e]; clear e; beta_reduce
  repeat' first
    | with_reducible assumption
    | (fail_if_no_progress (extract_lets -underBinder +onlyGivenNames x); first | (have hT : (type_of% x) = (Nat) := (by with_reducible rfl); clear hT; clear_value x) | fail)
    | (with_reducible apply sound_ite <;> intro)
    | with_reducible apply State.errRec_sound
    | with_reducible apply State.updHead_sound
    | with_reducible apply State.setB_sound

end Sys2Proof.Machine
end

