-- ==== Sys2Proof/Laws/MusicSound.lean ====
section
/-! SUPPORT. The operations of Machine/Music.lean are sound: see Laws/Sound.lean. -/

set_option linter.all false

namespace Sys2Proof.Machine

theorem State.mixGraphIn_sound {s0 s : State} (h : Sound s0 s) {a1 a2 a3} : Snd s0 (State.mixGraphIn s a1 a2 a3) := by
  have e := @rfl _ @State.mixGraphIn
  conv at e => rhs; delta State.mixGraphIn
  rw [e]; clear e; beta_reduce
  repeat' first
    | with_reducible assumption
    | (fail_if_no_progress (extract_lets -underBinder +onlyGivenNames x); first | (clear_value x) | fail)
    | (with_reducible apply snd_ite <;> intro)
    | with_reducible apply State.setReg_sound
    | (with_reducible refine Sound.upd ?_ ?_; (on_goal 2 => with_reducible rfl); with_reducible assumption)
    | split
    | with_reducible apply snd_pair

theorem beginAudioPortClock_sound {s0 s : State} (h : Sound s0 s) {a0} : Snd s0 (beginAudioPortClock a0 s) := by
  have e := @rfl _ @beginAudioPortClock
  conv at e => rhs; delta beginAudioPortClock
  rw [e]; clear e; beta_reduce
  repeat' first
    | with_reducible assumption
    | (fail_if_no_progress (extract_lets -underBinder +onlyGivenNames x); first | (have hT : (type_of% x) = (Nat) := (by with_reducible rfl); clear hT; clear_value x) | (have hT : (type_of% x) = (BitVec 32) := (by with_reducible rfl); clear hT; clear_value x) | (have hT : (type_of% x) = (Bool) := (by with_reducible rfl); clear hT; clear_value x) | (clear_value x) | fail)
    | (with_reducible refine Sound.upd ?_ ?_; (on_goal 2 => with_reducible rfl); with_reducible assumption)
    | split
    | with_reducible apply snd_pair

theorem State.delayMarks_sound {s0 s : State} (h : Sound s0 s) : Sound s0 (State.delayMarks s) := by
  have e := @rfl _ @State.delayMarks
  conv at e => rhs; delta State.delayMarks
  rw [e]; clear e; beta_reduce
  repeat' first
    | with_reducible assumption
    | intro _ _ _
    | with_reducible apply State.markAltered_sound
    | with_reducible refine State.each_sound ?_ _ ?_

theorem State.showBlock_sound {s0 s : State} (h : Sound s0 s) {a1 a2} : Sound s0 (State.showBlock s a1 a2) := by
  have e := @rfl _ @State.showBlock
  conv at e => rhs; delta State.showBlock
  rw [e]; clear e; beta_reduce
  repeat' first
    | with_reducible assumption
    | intro _ _ _
    | with_reducible apply State.setReg_sound
    | with_reducible refine State.each_sound ?_ _ ?_

theorem State.portsRun_sound {s0 s : State} (h : Sound s0 s) {a1} : Sound s0 (State.portsRun s a1) := by
  have e := @rfl _ @State.portsRun
  conv at e => rhs; delta State.portsRun
  rw [e]; clear e; beta_reduce
  repeat' first
    | with_reducible assumption
    | intro _ _ _
    | with_reducible apply State.setB_sound
    | with_reducible refine State.each_sound ?_ _ ?_

theorem State.voiceBadSrc_sound {s0 s : State} (h : Sound s0 s) {a1 a2} : Sound s0 (State.voiceBadSrc s a1 a2) := by
  have e := @rfl _ @State.voiceBadSrc
  conv at e => rhs; delta State.voiceBadSrc
  rw [e]; clear e; beta_reduce
  repeat' first
    | with_reducible assumption
    | (fail_if_no_progress (extract_lets -underBinder +onlyGivenNames x); first | (have hT : (type_of% x) = (State) := (by with_reducible rfl); clear hT; refine (fun (hx : Sound s0 x) => ?_) ?_; (on_goal 1 => clear_value x); (on_goal 2 => subst x)) | (clear_value x) | fail)
    | (with_reducible apply sound_ite <;> intro)
    | with_reducible apply State.setB_sound
    | with_reducible apply State.errRec_sound
    | with_reducible apply State.setVoice_sound

theorem State.voiceRead_sound {s0 s : State} (h : Sound s0 s) {a1 a2 a3} : Snd s0 (State.voiceRead s a1 a2 a3) := by
  have e := @rfl _ @State.voiceRead
  conv at e => rhs; delta State.voiceRead
  rw [e]; clear e; beta_reduce
  repeat' first
    | with_reducible assumption
    | (fail_if_no_progress (extract_lets -underBinder +onlyGivenNames x); first | (have hT : ∃ α : Type, (type_of% x) = (α × State) := ⟨_, rfl⟩; clear hT; refine (fun (hx : Snd s0 x) => ?_) ?_; (on_goal 1 => clear_value x); (on_goal 2 => subst x)) | fail)
    | with_reducible apply State.voiceBadSrc_sound
    | with_reducible apply State.devRead_sound
    | with_reducible apply State.setB_sound
    | (with_reducible apply Snd.out; with_reducible assumption)
    | split
    | with_reducible apply snd_pair

theorem State.voiceFrame_sound {s0 s : State} (h : Sound s0 s) {a1 a2 a3 a4} : Snd s0 (State.voiceFrame s a1 a2 a3 a4) := by
  have e := @rfl _ @State.voiceFrame
  conv at e => rhs; delta State.voiceFrame
  rw [e]; clear e; beta_reduce
  extract_lets -underBinder +onlyGivenNames n a
  clear_value n a
  split
  repeat' first
    | with_reducible assumption
    | (fail_if_no_progress (extract_lets -underBinder +onlyGivenNames x); first | (have hT : ∃ α : Type, (type_of% x) = (α × State) := ⟨_, rfl⟩; clear hT; refine (fun (hx : Snd s0 x) => ?_) ?_; (on_goal 1 => clear_value x); (on_goal 2 => subst x)) | (clear_value x) | fail)
    | (with_reducible apply snd_ite <;> intro)
    | with_reducible apply State.voiceRead_sound
    | (with_reducible apply Snd.out; with_reducible assumption)
    | split
    | with_reducible apply snd_pair

theorem State.musRefuse_sound {s0 s : State} (h : Sound s0 s) : Sound s0 (State.musRefuse s) := by
  have e := @rfl _ @State.musRefuse
  conv at e => rhs; delta State.musRefuse
  rw [e]; clear e; beta_reduce
  repeat' first
    | with_reducible assumption
    | with_reducible apply State.setB_sound
    | with_reducible apply State.setF_sound

theorem State.portDue_sound {s0 s : State} (h : Sound s0 s) {a1 a2} : Sound s0 (State.portDue s a1 a2) := by
  have e := @rfl _ @State.portDue
  conv at e => rhs; delta State.portDue
  rw [e]; clear e; beta_reduce
  repeat' first
    | with_reducible assumption
    | (fail_if_no_progress (extract_lets -underBinder +onlyGivenNames x); first | (have hT : (type_of% x) = (State) := (by with_reducible rfl); clear hT; refine (fun (hx : Sound s0 x) => ?_) ?_; (on_goal 1 => clear_value x); (on_goal 2 => subst x)) | (clear_value x) | fail)
    | (with_reducible apply sound_ite <;> intro)
    | with_reducible apply State.setReg_sound
    | (with_reducible refine Sound.upd ?_ ?_; (on_goal 2 => with_reducible rfl); with_reducible assumption)

theorem State.musCost_sound {s0 s : State} (h : Sound s0 s) : Sound s0 (State.musCost s) := by
  have e := @rfl _ @State.musCost
  conv at e => rhs; delta State.musCost
  rw [e]; clear e; beta_reduce
  repeat' first
    | with_reducible assumption
    | with_reducible apply State.setReg_sound

theorem State.portsDue_sound {s0 s : State} (h : Sound s0 s) : Sound s0 (State.portsDue s) := by
  have e := @rfl _ @State.portsDue
  conv at e => rhs; delta State.portsDue
  rw [e]; clear e; beta_reduce
  repeat' first
    | with_reducible assumption
    | intro _ _ _
    | (fail_if_no_progress (extract_lets -underBinder +onlyGivenNames x); first | (have hT : (type_of% x) = (State) := (by with_reducible rfl); clear hT; refine (fun (hx : Sound s0 x) => ?_) ?_; (on_goal 1 => clear_value x); (on_goal 2 => subst x)) | (have hT : (type_of% x) = (List Nat) := (by with_reducible rfl); clear hT; clear_value x) | (clear_value x) | fail)
    | (with_reducible apply sound_ite <;> intro)
    | with_reducible apply State.musRefuse_sound
    | with_reducible apply State.portDue_sound
    | with_reducible apply State.musCost_sound
    | with_reducible apply State.setF_sound
    | with_reducible apply State.finishAcc_sound
    | with_reducible refine State.each_sound ?_ _ ?_
    | (with_reducible refine Sound.upd ?_ ?_; (on_goal 2 => with_reducible rfl); with_reducible assumption)
    | split

theorem State.mixGraphRead_sound {s0 s : State} (h : Sound s0 s) {a1 a2 a3} : Snd s0 (State.mixGraphRead s a1 a2 a3) := by
  have e := @rfl _ @State.mixGraphRead
  conv at e => rhs; delta State.mixGraphRead
  rw [e]; clear e; beta_reduce
  repeat' first
    | with_reducible assumption
    | (fail_if_no_progress (extract_lets -underBinder +onlyGivenNames x); first | (have hT : ∃ α : Type, (type_of% x) = (α × State) := ⟨_, rfl⟩; clear hT; refine (fun (hx : Snd s0 x) => ?_) ?_; (on_goal 1 => clear_value x); (on_goal 2 => subst x)) | fail)
    | with_reducible apply State.devRead_sound
    | with_reducible apply State.mixGraphIn_sound
    | (with_reducible apply Snd.out; with_reducible assumption)
    | split
    | with_reducible apply snd_pair

theorem State.voiceReblock_sound {s0 s : State} (h : Sound s0 s) {a1 a2} : Sound s0 (State.voiceReblock s a1 a2) := by
  have e := @rfl _ @State.voiceReblock
  conv at e => rhs; delta State.voiceReblock
  rw [e]; clear e; beta_reduce
  repeat' first
    | with_reducible assumption
    | (fail_if_no_progress (extract_lets -underBinder +onlyGivenNames x); first | (have hT : (type_of% x) = (Nat) := (by with_reducible rfl); clear hT; clear_value x) | (clear_value x) | fail)
    | with_reducible apply State.setVoice_sound

theorem State.voiceSampled_sound {s0 s : State} (h : Sound s0 s) {a1} : Sound s0 (State.voiceSampled s a1) := by
  have e := @rfl _ @State.voiceSampled
  conv at e => rhs; delta State.voiceSampled
  rw [e]; clear e; beta_reduce
  repeat' first
    | with_reducible assumption
    | (fail_if_no_progress (extract_lets -underBinder +onlyGivenNames x); first | (have hT : (type_of% x) = (State) := (by with_reducible rfl); clear hT; refine (fun (hx : Sound s0 x) => ?_) ?_; (on_goal 1 => clear_value x); (on_goal 2 => subst x)) | (have hT : (type_of% x) = (Bool) := (by with_reducible rfl); clear hT; clear_value x) | (clear_value x) | fail)
    | (with_reducible apply sound_ite <;> intro)
    | with_reducible apply State.setVoice_sound
    | with_reducible apply State.showBlock_sound
    | with_reducible apply State.musRefuse_sound
    | with_reducible apply State.voiceReblock_sound

theorem State.voiceChange_sound {s0 s : State} (h : Sound s0 s) {a1 a2 a3} : Sound s0 (State.voiceChange s a1 a2 a3) := by
  have e := @rfl _ @State.voiceChange
  conv at e => rhs; delta State.voiceChange
  rw [e]; clear e; beta_reduce
  repeat' first
    | with_reducible assumption
    | intro _ _ _
    | (fail_if_no_progress (extract_lets -underBinder +onlyGivenNames x); first | (have hT : ∃ α : Type, (type_of% x) = (State → α → State) := ⟨_, rfl⟩; clear hT; refine (fun (hx : ∀ t a, Sound s0 t → Sound s0 (x t a)) => ?_) ?_; (on_goal 1 => clear_value x); (on_goal 2 => subst x)) | (clear_value x) | fail)
    | (with_reducible apply sound_ite <;> intro)
    | with_reducible apply State.finishAcc_sound
    | with_reducible apply State.setVoice_sound
    | with_reducible apply State.showBlock_sound
    | with_reducible apply_assumption -exfalso -symm
    | split

theorem State.voiceIdle_sound {s0 s : State} (h : Sound s0 s) {a1} : Sound s0 (State.voiceIdle s a1) := by
  have e := @rfl _ @State.voiceIdle
  conv at e => rhs; delta State.voiceIdle
  rw [e]; clear e; beta_reduce
  repeat' first
    | with_reducible assumption
    | (fail_if_no_progress (extract_lets -underBinder +onlyGivenNames x); first | (have hT : (type_of% x) = (State) := (by with_reducible rfl); clear hT; refine (fun (hx : Sound s0 x) => ?_) ?_; (on_goal 1 => clear_value x); (on_goal 2 => subst x)) | (clear_value x) | fail)
    | with_reducible apply State.setVoice_sound
    | with_reducible apply State.setReg_sound

theorem State.voiceStart_sound {s0 s : State} (h : Sound s0 s) {a1 a2 a3 a4 a5} : Sound s0 (State.voiceStart s a1 a2 a3 a4 a5) := by
  have e := @rfl _ @State.voiceStart
  conv at e => rhs; delta State.voiceStart
  rw [e]; clear e; beta_reduce
  repeat' first
    | with_reducible assumption
    | (fail_if_no_progress (extract_lets -underBinder +onlyGivenNames x); first | (have hT : (type_of% x) = (State) := (by with_reducible rfl); clear hT; refine (fun (hx : Sound s0 x) => ?_) ?_; (on_goal 1 => clear_value x); (on_goal 2 => subst x)) | (have hT : (type_of% x) = (Nat) := (by with_reducible rfl); clear hT; clear_value x) | (have hT : (type_of% x) = (BitVec 32) := (by with_reducible rfl); clear hT; clear_value x) | (have hT : (type_of% x) = (Int) := (by with_reducible rfl); clear hT; clear_value x) | (clear_value x) | fail)
    | with_reducible apply State.setVoice_sound
    | with_reducible apply State.setReg_sound
    | with_reducible apply State.showBlock_sound
    | with_reducible apply State.setW64_sound

theorem State.voiceDue_sound {s0 s : State} (h : Sound s0 s) {a1} : Sound s0 (State.voiceDue s a1) := by
  have e := @rfl _ @State.voiceDue
  conv at e => rhs; delta State.voiceDue
  rw [e]; clear e; beta_reduce
  repeat' first
    | with_reducible assumption
    | intro _ _ _
    | (fail_if_no_progress (extract_lets -underBinder +onlyGivenNames x); first | (have hT : (type_of% x) = (State) := (by with_reducible rfl); clear hT; refine (fun (hx : Sound s0 x) => ?_) ?_; (on_goal 1 => clear_value x); (on_goal 2 => subst x)) | (clear_value x) | fail)
    | (with_reducible apply sound_ite <;> intro)
    | with_reducible apply State.voiceSampled_sound
    | with_reducible apply State.setVoice_sound
    | with_reducible apply State.voiceChange_sound
    | with_reducible apply State.finishAcc_sound
    | with_reducible apply State.voiceIdle_sound
    | with_reducible apply State.voiceStart_sound
    | with_reducible refine State.each_sound ?_ _ ?_
    | split

theorem beginVoiceParam_sound {s0 s : State} (h : Sound s0 s) {a0} : Snd s0 (beginVoiceParam a0 s) := by
  have e := @rfl _ @beginVoiceParam
  conv at e => rhs; delta beginVoiceParam
  rw [e]; clear e; beta_reduce
  repeat' first
    | with_reducible assumption
    | (fail_if_no_progress (extract_lets -underBinder +onlyGivenNames x); first | (have hT : (type_of% x) = (Nat) := (by with_reducible rfl); clear hT; clear_value x) | (clear_value x) | fail)
    | with_reducible apply State.setVoice_sound
    | split
    | with_reducible apply snd_pair

theorem State.voiceFill_sound {s0 s : State} (h : Sound s0 s) {a0 a1 a2 a3 a4} : Sound s0 (State.voiceFill a0 a1 a2 a3 a4 s) := by
  induction a4 generalizing s with
  | zero => exact h
  | succ n ih =>
    unfold State.voiceFill
    extract_lets x next
    clear_value next x
    split
    · extract_lets r y
      have hr : Snd s0 r := State.voiceRead_sound h
      clear_value r
      exact ih (State.setVoice_sound hr.out)
    · exact h

theorem State.musCtlWrite_sound {s0 s : State} (h : Sound s0 s) {a1} : Sound s0 (State.musCtlWrite s a1) := by
  have e := @rfl _ @State.musCtlWrite
  conv at e => rhs; delta State.musCtlWrite
  rw [e]; clear e; beta_reduce
  repeat' first
    | with_reducible assumption
    | (fail_if_no_progress (extract_lets -underBinder +onlyGivenNames x); first | (have hT : (type_of% x) = (State) := (by with_reducible rfl); clear hT; refine (fun (hx : Sound s0 x) => ?_) ?_; (on_goal 1 => clear_value x); (on_goal 2 => subst x)) | (clear_value x) | fail)
    | (with_reducible apply sound_ite <;> intro)
    | with_reducible apply State.setReg_sound
    | with_reducible apply State.setB_sound
    | (with_reducible refine Sound.upd ?_ ?_; (on_goal 2 => with_reducible rfl); with_reducible assumption)

theorem State.voiceEnd_sound {s0 s : State} (h : Sound s0 s) {a1 a2} : Sound s0 (State.voiceEnd s a1 a2) := by
  have e := @rfl _ @State.voiceEnd
  conv at e => rhs; delta State.voiceEnd
  rw [e]; clear e; beta_reduce
  repeat' first
    | with_reducible assumption
    | (fail_if_no_progress (extract_lets -underBinder +onlyGivenNames x); first | (have hT : (type_of% x) = (State) := (by with_reducible rfl); clear hT; refine (fun (hx : Sound s0 x) => ?_) ?_; (on_goal 1 => clear_value x); (on_goal 2 => subst x)) | (clear_value x) | fail)
    | (with_reducible apply sound_ite <;> intro)
    | with_reducible apply State.setVoice_sound
    | with_reducible apply State.setReg_sound
    | with_reducible apply State.pulse_sound
    | with_reducible apply State.setB_sound

theorem portLater_sound {s0 s : State} (h : Sound s0 s) {a0 a2 a3} : Snd s0 (portLater a0 s a2 a3) := by
  have e := @rfl _ @portLater
  conv at e => rhs; delta portLater
  rw [e]; clear e; beta_reduce
  repeat' first
    | (fail_if_no_progress (extract_lets -underBinder +onlyGivenNames x); first | (clear_value x) | fail)
    | (with_reducible refine Sound.upd ?_ ?_; (on_goal 2 => with_reducible rfl); with_reducible assumption)
    | with_reducible apply snd_pair

theorem beginAudioPortDp_sound {s0 s : State} (h : Sound s0 s) {a0} : Snd s0 (beginAudioPortDp a0 s) := by
  have e := @rfl _ @beginAudioPortDp
  conv at e => rhs; delta beginAudioPortDp
  rw [e]; clear e; beta_reduce
  repeat' first
    | with_reducible assumption
    | (fail_if_no_progress (extract_lets -underBinder +onlyGivenNames x); first | (have hT : (type_of% x) = (Nat) := (by with_reducible rfl); clear hT; clear_value x) | fail)
    | (with_reducible apply snd_ite <;> intro)
    | with_reducible apply portLater_sound
    | split
    | with_reducible apply snd_pair

theorem beginMixGraphLoad_sound {s0 s : State} (h : Sound s0 s) {a0} : Snd s0 (beginMixGraphLoad a0 s) := by
  have e := @rfl _ @beginMixGraphLoad
  conv at e => rhs; delta beginMixGraphLoad
  rw [e]; clear e; beta_reduce
  repeat' first
    | with_reducible assumption
    | (fail_if_no_progress (extract_lets -underBinder +onlyGivenNames x); first | (have hT : (type_of% x) = (Nat) := (by with_reducible rfl); clear hT; clear_value x) | fail)
    | (with_reducible apply snd_ite <;> intro)
    | with_reducible apply State.mixGraphRead_sound
    | split
    | with_reducible apply snd_pair

theorem State.clockTaken_sound {s0 s : State} (h : Sound s0 s) : Sound s0 (State.clockTaken s) := by
  have e := @rfl _ @State.clockTaken
  conv at e => rhs; delta State.clockTaken
  rw [e]; clear e; beta_reduce
  repeat' first
    | with_reducible assumption
    | (with_reducible apply sound_ite <;> intro)
    | with_reducible apply State.portsRun_sound
    | with_reducible apply State.setB_sound
    | split

theorem State.musReset_sound {s0 s : State} (h : Sound s0 s) : Sound s0 (State.musReset s) := by
  have e := @rfl _ @State.musReset
  conv at e => rhs; delta State.musReset
  rw [e]; clear e; beta_reduce
  repeat' first
    | with_reducible assumption
    | intro _ _ _
    | (fail_if_no_progress (extract_lets -underBinder +onlyGivenNames x); first | (have hT : (type_of% x) = (State) := (by with_reducible rfl); clear hT; refine (fun (hx : Sound s0 x) => ?_) ?_; (on_goal 1 => clear_value x); (on_goal 2 => subst x)) | fail)
    | with_reducible apply State.setVoice_sound
    | with_reducible apply State.voiceIdle_sound
    | with_reducible apply State.setReg_sound
    | with_reducible apply State.musCost_sound
    | with_reducible apply State.setB_sound
    | with_reducible refine State.each_sound ?_ _ ?_
    | (with_reducible refine Sound.upd ?_ ?_; (on_goal 2 => with_reducible rfl); with_reducible assumption)

theorem State.winWrite_sound {s0 s : State} (h : Sound s0 s) {a1 a2 a3} : Sound s0 (State.winWrite s a1 a2 a3) := by
  have e := @rfl _ @State.winWrite
  conv at e => rhs; delta State.winWrite
  rw [e]; clear e; beta_reduce
  repeat' first
    | with_reducible assumption
    | (fail_if_no_progress (extract_lets -underBinder +onlyGivenNames x); first | (clear_value x) | fail)
    | (with_reducible apply sound_ite <;> intro)
    | (with_reducible refine Sound.upd ?_ ?_; (on_goal 2 => with_reducible rfl); with_reducible assumption)

theorem State.winHdrWrite_sound {s0 s : State} (h : Sound s0 s) {a1 a2} : Sound s0 (State.winHdrWrite s a1 a2) := by
  have e := @rfl _ @State.winHdrWrite
  conv at e => rhs; delta State.winHdrWrite
  rw [e]; clear e; beta_reduce
  repeat' first
    | with_reducible assumption
    | (fail_if_no_progress (extract_lets -underBinder +onlyGivenNames x); first | (clear_value x) | fail)
    | (with_reducible apply sound_ite <;> intro)
    | (with_reducible refine Sound.upd ?_ ?_; (on_goal 2 => with_reducible rfl); with_reducible assumption)

theorem State.tdmShort_sound {s0 s : State} (h : Sound s0 s) {a1 a2} : Sound s0 (State.tdmShort s a1 a2) := by
  have e := @rfl _ @State.tdmShort
  conv at e => rhs; delta State.tdmShort
  rw [e]; clear e; beta_reduce
  repeat' first
    | with_reducible assumption
    | (fail_if_no_progress (extract_lets -underBinder +onlyGivenNames x); first | (have hT : (type_of% x) = (State) := (by with_reducible rfl); clear hT; refine (fun (hx : Sound s0 x) => ?_) ?_; (on_goal 1 => clear_value x); (on_goal 2 => subst x)) | (have hT : (type_of% x) = (Nat) := (by with_reducible rfl); clear hT; clear_value x) | fail)
    | (with_reducible apply sound_ite <;> intro)
    | with_reducible apply State.setB_sound
    | with_reducible apply State.errRec_sound
    | with_reducible apply State.pulse_sound

theorem State.slaveFrame_sound {s0 s : State} (h : Sound s0 s) {a1 a2 a3} : Sound s0 (State.slaveFrame s a1 a2 a3) := by
  have e := @rfl _ @State.slaveFrame
  conv at e => rhs; delta State.slaveFrame
  rw [e]; clear e; beta_reduce
  repeat' first
    | with_reducible assumption
    | (fail_if_no_progress (extract_lets -underBinder +onlyGivenNames x); first | (have hT : (type_of% x) = (State) := (by with_reducible rfl); clear hT; refine (fun (hx : Sound s0 x) => ?_) ?_; (on_goal 1 => clear_value x); (on_goal 2 => subst x)) | (have hT : (type_of% x) = (Nat) := (by with_reducible rfl); clear hT; clear_value x) | (have hT : (type_of% x) = (BitVec 32) := (by with_reducible rfl); clear hT; clear_value x) | (have hT : (type_of% x) = (Bool) := (by with_reducible rfl); clear hT; clear_value x) | (clear_value x) | fail)
    | (with_reducible apply sound_ite <;> intro)
    | with_reducible apply State.pulse_sound
    | with_reducible apply State.setB_sound
    | with_reducible apply State.setF_sound
    | (with_reducible refine Sound.upd ?_ ?_; (on_goal 2 => with_reducible rfl); with_reducible assumption)

theorem State.vgoWrite_sound {s0 s : State} (h : Sound s0 s) {a1} : Sound s0 (State.vgoWrite s a1) := by
  have e := @rfl _ @State.vgoWrite
  conv at e => rhs; delta State.vgoWrite
  rw [e]; clear e; beta_reduce
  repeat' first
    | with_reducible assumption
    | (fail_if_no_progress (extract_lets -underBinder +onlyGivenNames x); first | (have hT : (type_of% x) = (Nat) := (by with_reducible rfl); clear hT; clear_value x) | (clear_value x) | fail)
    | (with_reducible apply sound_ite <;> intro)
    | with_reducible apply State.setVoice_sound

theorem beginVoiceStop_sound {s0 s : State} (h : Sound s0 s) {a0} : Snd s0 (beginVoiceStop a0 s) := by
  have e := @rfl _ @beginVoiceStop
  conv at e => rhs; delta beginVoiceStop
  rw [e]; clear e; beta_reduce
  repeat' first
    | with_reducible assumption
    | (fail_if_no_progress (extract_lets -underBinder +onlyGivenNames x); first | (have hT : (type_of% x) = (Nat) := (by with_reducible rfl); clear hT; clear_value x) | (have hT : (type_of% x) = (Bool) := (by with_reducible rfl); clear hT; clear_value x) | (clear_value x) | fail)
    | (with_reducible apply snd_ite <;> intro)
    | with_reducible apply State.setVoice_sound
    | split
    | with_reducible apply snd_pair

theorem State.audioLost_sound {s0 s : State} (h : Sound s0 s) : Sound s0 (State.audioLost s) := by
  have e := @rfl _ @State.audioLost
  conv at e => rhs; delta State.audioLost
  rw [e]; clear e; beta_reduce
  repeat' first
    | with_reducible assumption
    | (with_reducible apply sound_ite <;> intro)
    | with_reducible apply State.errRec_sound
    | with_reducible apply State.pulse_sound
    | with_reducible apply State.portsRun_sound
    | with_reducible apply State.setB_sound

theorem beginMixCommit_sound {s0 s : State} (h : Sound s0 s) {a0} : Snd s0 (beginMixCommit a0 s) := by
  have e := @rfl _ @beginMixCommit
  conv at e => rhs; delta beginMixCommit
  rw [e]; clear e; beta_reduce
  repeat' first
    | with_reducible assumption
    | (fail_if_no_progress (extract_lets -underBinder +onlyGivenNames x); first | (have hT : (type_of% x) = (State) := (by with_reducible rfl); clear hT; refine (fun (hx : Sound s0 x) => ?_) ?_; (on_goal 1 => clear_value x); (on_goal 2 => subst x)) | (clear_value x) | fail)
    | (with_reducible apply snd_ite <;> intro)
    | with_reducible apply State.setB_sound
    | (with_reducible refine Sound.upd ?_ ?_; (on_goal 2 => with_reducible rfl); with_reducible assumption)
    | split
    | with_reducible apply snd_pair

theorem State.audioReturn_sound {s0 s : State} (h : Sound s0 s) : Sound s0 (State.audioReturn s) := by
  have e := @rfl _ @State.audioReturn
  conv at e => rhs; delta State.audioReturn
  rw [e]; clear e; beta_reduce
  repeat' first
    | with_reducible assumption
    | (with_reducible apply sound_ite <;> intro)
    | with_reducible apply State.pulse_sound
    | with_reducible apply State.portsRun_sound
    | with_reducible apply State.setB_sound

theorem beginVoiceStart_sound {s0 s : State} (h : Sound s0 s) {a0} : Snd s0 (beginVoiceStart a0 s) := by
  have e := @rfl _ @beginVoiceStart
  conv at e => rhs; delta beginVoiceStart
  rw [e]; clear e; beta_reduce
  repeat' first
    | with_reducible assumption
    | (fail_if_no_progress (extract_lets -underBinder +onlyGivenNames x); first | (have hT : (type_of% x) = (State) := (by with_reducible rfl); clear hT; refine (fun (hx : Sound s0 x) => ?_) ?_; (on_goal 1 => clear_value x); (on_goal 2 => subst x)) | (have hT : (type_of% x) = (Nat) := (by with_reducible rfl); clear hT; clear_value x) | (clear_value x) | fail)
    | with_reducible apply State.setVoice_sound
    | with_reducible apply State.setReg_sound
    | with_reducible apply State.setB_sound
    | split
    | with_reducible apply snd_pair

theorem State.voiceStarve_sound {s0 s : State} (h : Sound s0 s) {a1} : Sound s0 (State.voiceStarve s a1) := by
  have e := @rfl _ @State.voiceStarve
  conv at e => rhs; delta State.voiceStarve
  rw [e]; clear e; beta_reduce
  repeat' first
    | with_reducible assumption
    | (fail_if_no_progress (extract_lets -underBinder +onlyGivenNames x); first | (have hT : (type_of% x) = (State) := (by with_reducible rfl); clear hT; refine (fun (hx : Sound s0 x) => ?_) ?_; (on_goal 1 => clear_value x); (on_goal 2 => subst x)) | (have hT : (type_of% x) = (Nat) := (by with_reducible rfl); clear hT; clear_value x) | fail)
    | (with_reducible apply sound_ite <;> intro)
    | with_reducible apply State.setF_sound
    | with_reducible apply State.setB_sound
    | with_reducible apply State.pulse_sound

theorem State.portRequests_sound {s0 s : State} (h : Sound s0 s) : Sound s0 (State.portRequests s) := by
  have e := @rfl _ @State.portRequests
  conv at e => rhs; delta State.portRequests
  rw [e]; clear e; beta_reduce
  repeat' first
    | with_reducible assumption
    | intro _ _ _
    | (fail_if_no_progress (extract_lets -underBinder +onlyGivenNames x); first | (have hT : (type_of% x) = (State) := (by with_reducible rfl); clear hT; refine (fun (hx : Sound s0 x) => ?_) ?_; (on_goal 1 => clear_value x); (on_goal 2 => subst x)) | (have hT : (type_of% x) = (Nat) := (by with_reducible rfl); clear hT; clear_value x) | (have hT : (type_of% x) = (BitVec 32) := (by with_reducible rfl); clear hT; clear_value x) | (clear_value x) | fail)
    | (with_reducible apply sound_ite <;> intro)
    | with_reducible apply State.request_sound
    | with_reducible refine State.each_sound ?_ _ ?_
    | (with_reducible refine Sound.upd ?_ ?_; (on_goal 2 => with_reducible rfl); with_reducible assumption)

theorem beginMixParamSet_sound {s0 s : State} (h : Sound s0 s) {a0} : Snd s0 (beginMixParamSet a0 s) := by
  have e := @rfl _ @beginMixParamSet
  conv at e => rhs; delta beginMixParamSet
  rw [e]; clear e; beta_reduce
  repeat' first
    | with_reducible assumption
    | (fail_if_no_progress (extract_lets -underBinder +onlyGivenNames x); first | (have hT : (type_of% x) = (Nat) := (by with_reducible rfl); clear hT; clear_value x) | (have hT : (type_of% x) = (BitVec 32) := (by with_reducible rfl); clear hT; clear_value x) | (have hT : (type_of% x) = (Option Nat) := (by with_reducible rfl); clear hT; clear_value x) | (clear_value x) | fail)
    | (with_reducible apply snd_ite <;> intro)
    | (with_reducible refine Sound.upd ?_ ?_; (on_goal 2 => with_reducible rfl); with_reducible assumption)
    | split
    | with_reducible apply snd_pair

theorem State.sampleVoice_sound {s0 s : State} (h : Sound s0 s) {a1 a2 a3} : Snd s0 (State.sampleVoice s a1 a2 a3) := by
  have e := @rfl _ @State.sampleVoice
  conv at e => rhs; delta State.sampleVoice
  rw [e]; clear e; beta_reduce
  repeat' first
    | with_reducible assumption
    | (fail_if_no_progress (extract_lets -underBinder +onlyGivenNames x); first | (have hT : (type_of% x) = (State) := (by with_reducible rfl); clear hT; refine (fun (hx : Sound s0 x) => ?_) ?_; (on_goal 1 => clear_value x); (on_goal 2 => subst x)) | (have hT : (type_of% x) = (Nat) := (by with_reducible rfl); clear hT; clear_value x) | (have hT : (type_of% x) = (Int) := (by with_reducible rfl); clear hT; clear_value x) | (have hT : ∃ α : Type, (type_of% x) = (α × State) := ⟨_, rfl⟩; clear hT; refine (fun (hx : Snd s0 x) => ?_) ?_; (on_goal 1 => clear_value x); (on_goal 2 => subst x)) | (clear_value x) | fail)
    | (with_reducible apply sound_ite <;> intro)
    | (with_reducible apply snd_ite <;> intro)
    | with_reducible apply State.voiceEnd_sound
    | with_reducible apply State.setVoice_sound
    | with_reducible apply State.voiceFill_sound
    | with_reducible apply State.voiceFrame_sound
    | with_reducible apply State.voiceStarve_sound
    | with_reducible apply State.setReg_sound
    | with_reducible apply State.pulse_sound
    | with_reducible apply State.setB_sound
    | (with_reducible apply Snd.out; with_reducible assumption)
    | split
    | with_reducible apply snd_pair

theorem State.mixDue_sound {s0 s : State} (h : Sound s0 s) : Sound s0 (State.mixDue s) := by
  have e := @rfl _ @State.mixDue
  conv at e => rhs; delta State.mixDue
  rw [e]; clear e; beta_reduce
  repeat' first
    | with_reducible assumption
    | intro _ _ _
    | (fail_if_no_progress (extract_lets -underBinder +onlyGivenNames x); first | (have hT : (type_of% x) = (State) := (by with_reducible rfl); clear hT; refine (fun (hx : Sound s0 x) => ?_) ?_; (on_goal 1 => clear_value x); (on_goal 2 => subst x)) | (have hT : (type_of% x) = (Nat) := (by with_reducible rfl); clear hT; clear_value x) | (have hT : (type_of% x) = (Bool) := (by with_reducible rfl); clear hT; clear_value x) | (have hT : (type_of% x) = (List Nat) := (by with_reducible rfl); clear hT; clear_value x) | (clear_value x) | fail)
    | (with_reducible apply sound_ite <;> intro)
    | with_reducible apply State.setB_sound
    | with_reducible apply State.setF_sound
    | with_reducible apply State.finishAcc_sound
    | with_reducible apply State.musCost_sound
    | with_reducible apply State.pulse_sound
    | with_reducible refine State.each_sound ?_ _ ?_
    | (with_reducible refine Sound.upd ?_ ?_; (on_goal 2 => with_reducible rfl); with_reducible assumption)
    | split

theorem beginAudioPortTdm_sound {s0 s : State} (h : Sound s0 s) {a0} : Snd s0 (beginAudioPortTdm a0 s) := by
  have e := @rfl _ @beginAudioPortTdm
  conv at e => rhs; delta beginAudioPortTdm
  rw [e]; clear e; beta_reduce
  repeat' first
    | with_reducible assumption
    | (with_reducible apply snd_ite <;> intro)
    | with_reducible apply portLater_sound
    | split
    | with_reducible apply snd_pair

theorem beginAudioPortSet_sound {s0 s : State} (h : Sound s0 s) {a0} : Snd s0 (beginAudioPortSet a0 s) := by
  have e := @rfl _ @beginAudioPortSet
  conv at e => rhs; delta beginAudioPortSet
  rw [e]; clear e; beta_reduce
  repeat' first
    | with_reducible assumption
    | with_reducible apply beginAudioPortDp_sound
    | with_reducible apply beginAudioPortClock_sound
    | with_reducible apply beginAudioPortTdm_sound
    | split

theorem State.toneVoice_sound {s0 s : State} (h : Sound s0 s) {a1 a2} : Snd s0 (State.toneVoice s a1 a2) := by
  have e := @rfl _ @State.toneVoice
  conv at e => rhs; delta State.toneVoice
  rw [e]; clear e; beta_reduce
  repeat' first
    | with_reducible assumption
    | (fail_if_no_progress (extract_lets -underBinder +onlyGivenNames x); first | (have hT : (type_of% x) = (State) := (by with_reducible rfl); clear hT; refine (fun (hx : Sound s0 x) => ?_) ?_; (on_goal 1 => clear_value x); (on_goal 2 => subst x)) | (have hT : (type_of% x) = (Nat) := (by with_reducible rfl); clear hT; clear_value x) | (have hT : (type_of% x) = (BitVec 32) := (by with_reducible rfl); clear hT; clear_value x) | (have hT : (type_of% x) = (Int) := (by with_reducible rfl); clear hT; clear_value x) | (clear_value x) | fail)
    | (with_reducible apply snd_ite <;> intro)
    | with_reducible apply State.voiceEnd_sound
    | with_reducible apply State.setVoice_sound
    | with_reducible apply State.setReg_sound
    | with_reducible apply snd_pair

theorem State.mixPeriod_sound {s0 s : State} (h : Sound s0 s) : Sound s0 (State.mixPeriod s) := by
  have e := @rfl _ @State.mixPeriod
  conv at e => rhs; delta State.mixPeriod
  rw [e]; clear e; beta_reduce
  repeat' first
    | with_reducible assumption
    | (fail_if_no_progress (extract_lets -underBinder +onlyGivenNames x); first | (have hT : (type_of% x) = (State) := (by with_reducible rfl); clear hT; refine (fun (hx : Sound s0 x) => ?_) ?_; (on_goal 1 => clear_value x); (on_goal 2 => subst x)) | (have hT : (type_of% x) = (Nat) := (by with_reducible rfl); clear hT; clear_value x) | (clear_value x) | fail)
    | (with_reducible apply sound_ite <;> intro)
    | with_reducible apply State.pulse_sound
    | with_reducible apply State.setB_sound
    | (with_reducible refine Sound.upd ?_ ?_; (on_goal 2 => with_reducible rfl); with_reducible assumption)
    | split

theorem State.musBoundary_sound {s0 s : State} (h : Sound s0 s) {a1 a2} : Sound s0 (State.musBoundary s a1 a2) := by
  have e := @rfl _ @State.musBoundary
  conv at e => rhs; delta State.musBoundary
  rw [e]; clear e; beta_reduce
  repeat' first
    | with_reducible assumption
    | intro _ _ _
    | (fail_if_no_progress (extract_lets -underBinder +onlyGivenNames x); first | (have hT : (type_of% x) = (State) := (by with_reducible rfl); clear hT; refine (fun (hx : Sound s0 x) => ?_) ?_; (on_goal 1 => clear_value x); (on_goal 2 => subst x)) | (have hT : ∃ α : Type, (type_of% x) = (α × State) := ⟨_, rfl⟩; clear hT; refine (fun (hx : Snd s0 x) => ?_) ?_; (on_goal 1 => clear_value x); (on_goal 2 => subst x)) | (clear_value x) | fail)
    | (with_reducible apply sound_ite <;> intro)
    | (with_reducible apply snd_ite <;> intro)
    | with_reducible apply State.clockTaken_sound
    | with_reducible apply State.setW64_sound
    | with_reducible apply State.portsDue_sound
    | with_reducible apply State.voiceDue_sound
    | with_reducible apply State.mixDue_sound
    | with_reducible apply State.delayMarks_sound
    | with_reducible apply State.mixPeriod_sound
    | with_reducible apply State.portRequests_sound
    | with_reducible apply State.toneVoice_sound
    | with_reducible apply State.sampleVoice_sound
    | with_reducible refine State.each_sound ?_ _ ?_
    | with_reducible refine foldl_snd _ ?_ ?_
    | (with_reducible apply Snd.out; with_reducible assumption)
    | (with_reducible refine Sound.upd ?_ ?_; (on_goal 2 => with_reducible rfl); with_reducible assumption)
    | with_reducible apply snd_pair

end Sys2Proof.Machine
end

