-- ==== Sys2Proof/Laws/PsqSound.lean ====
section
/-! SUPPORT. The operations of Machine/Psq.lean are sound: see Laws/Sound.lean. -/

set_option linter.all false

namespace Sys2Proof.Machine

theorem State.psqLine_sound {s0 s : State} (h : Sound s0 s) {a1} : Sound s0 (State.psqLine s a1) := by
  have e := @rfl _ @State.psqLine
  conv at e => rhs; delta State.psqLine
  rw [e]; clear e; beta_reduce
  repeat' first
    | with_reducible assumption
    | (fail_if_no_progress (extract_lets -underBinder +onlyGivenNames x); first | (have hT : (type_of% x) = (State) := (by with_reducible rfl); clear hT; refine (fun (hx : Sound s0 x) => ?_) ?_; (on_goal 1 => clear_value x); (on_goal 2 => subst x)) | (have hT : (type_of% x) = (Nat) := (by with_reducible rfl); clear hT; clear_value x) | (have hT : (type_of% x) = (Bool) := (by with_reducible rfl); clear hT; clear_value x) | (clear_value x) | fail)
    | (with_reducible apply sound_ite <;> intro)
    | with_reducible apply State.setPsqCh_sound
    | with_reducible apply State.request_sound

theorem State.psqShow_sound {s0 s : State} (h : Sound s0 s) {a1} : Sound s0 (State.psqShow s a1) := by
  have e := @rfl _ @State.psqShow
  conv at e => rhs; delta State.psqShow
  rw [e]; clear e; beta_reduce
  repeat' first
    | with_reducible assumption
    | (fail_if_no_progress (extract_lets -underBinder +onlyGivenNames x); first | (have hT : (type_of% x) = (State) := (by with_reducible rfl); clear hT; refine (fun (hx : Sound s0 x) => ?_) ?_; (on_goal 1 => clear_value x); (on_goal 2 => subst x)) | (have hT : (type_of% x) = (Nat) := (by with_reducible rfl); clear hT; clear_value x) | (clear_value x) | fail)
    | with_reducible apply State.setF_sound
    | with_reducible apply State.setB_sound
    | with_reducible apply State.setReg_sound
    | with_reducible apply State.psqLine_sound

theorem State.psqSource_sound {s0 s : State} (h : Sound s0 s) {a1} : Sound s0 (State.psqSource s a1) := by
  have e := @rfl _ @State.psqSource
  conv at e => rhs; delta State.psqSource
  rw [e]; clear e; beta_reduce
  repeat' first
    | with_reducible assumption
    | (fail_if_no_progress (extract_lets -underBinder +onlyGivenNames x); first | (have hT : (type_of% x) = (BitVec 32) := (by with_reducible rfl); clear hT; clear_value x) | fail)
    | with_reducible apply State.level_sound

theorem State.psqFault_sound {s0 s : State} (h : Sound s0 s) {a1} : Sound s0 (State.psqFault s a1) := by
  have e := @rfl _ @State.psqFault
  conv at e => rhs; delta State.psqFault
  rw [e]; clear e; beta_reduce
  repeat' first
    | with_reducible assumption
    | with_reducible apply State.psqSource_sound
    | with_reducible apply State.setB_sound

theorem State.pinLeave_sound {s0 s : State} (h : Sound s0 s) {a1} : Sound s0 (State.pinLeave s a1) := by
  have e := @rfl _ @State.pinLeave
  conv at e => rhs; delta State.pinLeave
  rw [e]; clear e; beta_reduce
  repeat' first
    | with_reducible assumption
    | with_reducible apply State.setB_sound

theorem State.psqDisown_sound {s0 s : State} (h : Sound s0 s) {a1} : Sound s0 (State.psqDisown s a1) := by
  have e := @rfl _ @State.psqDisown
  conv at e => rhs; delta State.psqDisown
  rw [e]; clear e; beta_reduce
  repeat' first
    | with_reducible assumption
    | intro _ _ _
    | (with_reducible apply sound_ite <;> intro)
    | with_reducible apply State.psqFault_sound
    | with_reducible apply State.pinLeave_sound
    | with_reducible refine State.each_sound ?_ _ ?_

theorem State.psqSetRun_sound {s0 s : State} (h : Sound s0 s) {a1 a2} : Sound s0 (State.psqSetRun s a1 a2) := by
  have e := @rfl _ @State.psqSetRun
  conv at e => rhs; delta State.psqSetRun
  rw [e]; clear e; beta_reduce
  repeat' first
    | with_reducible assumption
    | with_reducible apply State.setB_sound

theorem State.psqHalt_sound {s0 s : State} (h : Sound s0 s) {a1} : Sound s0 (State.psqHalt s a1) := by
  have e := @rfl _ @State.psqHalt
  conv at e => rhs; delta State.psqHalt
  rw [e]; clear e; beta_reduce
  repeat' first
    | with_reducible assumption
    | (fail_if_no_progress (extract_lets -underBinder +onlyGivenNames x); first | (have hT : (type_of% x) = (State) := (by with_reducible rfl); clear hT; refine (fun (hx : Sound s0 x) => ?_) ?_; (on_goal 1 => clear_value x); (on_goal 2 => subst x)) | (clear_value x) | fail)
    | (with_reducible apply sound_ite <;> intro)
    | with_reducible apply State.setB_sound
    | with_reducible apply State.setPsqCh_sound
    | with_reducible apply State.psqShow_sound
    | with_reducible apply State.psqDisown_sound
    | with_reducible apply State.psqSetRun_sound

theorem State.pinDrive_sound {s0 s : State} (h : Sound s0 s) {a1 a2 a3} : Sound s0 (State.pinDrive s a1 a2 a3) := by
  have e := @rfl _ @State.pinDrive
  conv at e => rhs; delta State.pinDrive
  rw [e]; clear e; beta_reduce
  repeat' first
    | with_reducible assumption
    | (fail_if_no_progress (extract_lets -underBinder +onlyGivenNames x); first | (have hT : (type_of% x) = (State) := (by with_reducible rfl); clear hT; refine (fun (hx : Sound s0 x) => ?_) ?_; (on_goal 1 => clear_value x); (on_goal 2 => subst x)) | fail)
    | with_reducible apply State.setB_sound
    | split

theorem beginPinseqInject_sound {s0 s : State} (h : Sound s0 s) {a0} : Snd s0 (beginPinseqInject a0 s) := by
  have e := @rfl _ @beginPinseqInject
  conv at e => rhs; delta beginPinseqInject
  rw [e]; clear e; beta_reduce
  repeat' first
    | with_reducible assumption
    | (fail_if_no_progress (extract_lets -underBinder +onlyGivenNames x); first | (have hT : (type_of% x) = (Nat) := (by with_reducible rfl); clear hT; clear_value x) | (clear_value x) | fail)
    | (with_reducible apply snd_ite <;> intro)
    | with_reducible apply State.setPsqCh_sound
    | split
    | with_reducible apply snd_pair

theorem State.psqStop_sound {s0 s : State} (h : Sound s0 s) {a1 a2} : Snd s0 (State.psqStop s a1 a2) := by
  have e := @rfl _ @State.psqStop
  conv at e => rhs; delta State.psqStop
  rw [e]; clear e; beta_reduce
  repeat' first
    | with_reducible assumption
    | intro _ _ _
    | (fail_if_no_progress (extract_lets -underBinder +onlyGivenNames x); first | (have hT : (type_of% x) = (List Nat) := (by with_reducible rfl); clear hT; clear_value x) | (clear_value x) | fail)
    | with_reducible apply State.setPsqCh_sound
    | with_reducible refine State.each_sound ?_ _ ?_
    | with_reducible apply snd_pair

theorem beginPinseqStop_sound {s0 s : State} (h : Sound s0 s) {a0} : Snd s0 (beginPinseqStop a0 s) := by
  have e := @rfl _ @beginPinseqStop
  conv at e => rhs; delta beginPinseqStop
  rw [e]; clear e; beta_reduce
  repeat' first
    | with_reducible assumption
    | (fail_if_no_progress (extract_lets -underBinder +onlyGivenNames x); first | (have hT : (type_of% x) = (Nat) := (by with_reducible rfl); clear hT; clear_value x) | (have hT : ∃ α : Type, (type_of% x) = (α × State) := ⟨_, rfl⟩; clear hT; refine (fun (hx : Snd s0 x) => ?_) ?_; (on_goal 1 => clear_value x); (on_goal 2 => subst x)) | fail)
    | (with_reducible apply snd_ite <;> intro)
    | with_reducible apply State.psqStop_sound
    | (with_reducible apply Snd.out; with_reducible assumption)
    | split
    | with_reducible apply snd_pair

theorem beginPinseqSlot_sound {s0 s : State} (h : Sound s0 s) {a0} : Snd s0 (beginPinseqSlot a0 s) := by
  have e := @rfl _ @beginPinseqSlot
  conv at e => rhs; delta beginPinseqSlot
  rw [e]; clear e; beta_reduce
  repeat' first
    | with_reducible assumption
    | intro _ _ _
    | with_reducible apply State.setReg_sound
    | with_reducible refine State.each_sound ?_ _ ?_
    | split
    | with_reducible apply snd_pair

theorem State.psqIllegal_sound {s0 s : State} (h : Sound s0 s) {a1 a2} : Sound s0 (State.psqIllegal s a1 a2) := by
  have e := @rfl _ @State.psqIllegal
  conv at e => rhs; delta State.psqIllegal
  rw [e]; clear e; beta_reduce
  repeat' first
    | with_reducible assumption
    | (fail_if_no_progress (extract_lets -underBinder +onlyGivenNames x); first | (have hT : (type_of% x) = (State) := (by with_reducible rfl); clear hT; refine (fun (hx : Sound s0 x) => ?_) ?_; (on_goal 1 => clear_value x); (on_goal 2 => subst x)) | (have hT : (type_of% x) = (Nat) := (by with_reducible rfl); clear hT; clear_value x) | fail)
    | with_reducible apply State.psqSource_sound
    | with_reducible apply State.psqHalt_sound
    | with_reducible apply State.setB_sound
    | with_reducible apply State.errRec_sound

theorem beginPinseqProgram_sound {s0 s : State} (h : Sound s0 s) {a0} : Snd s0 (beginPinseqProgram a0 s) := by
  have e := @rfl _ @beginPinseqProgram
  conv at e => rhs; delta beginPinseqProgram
  rw [e]; clear e; beta_reduce
  repeat' first
    | with_reducible assumption
    | intro _ _ _
    | with_reducible apply State.setReg_sound
    | with_reducible refine State.each_sound ?_ _ ?_
    | split
    | with_reducible apply snd_pair

theorem beginPinseqConfig_sound {s0 s : State} (h : Sound s0 s) {a0} : Snd s0 (beginPinseqConfig a0 s) := by
  have e := @rfl _ @beginPinseqConfig
  conv at e => rhs; delta beginPinseqConfig
  rw [e]; clear e; beta_reduce
  repeat' first
    | with_reducible assumption
    | (fail_if_no_progress (extract_lets -underBinder +onlyGivenNames x); first | (have hT : (type_of% x) = (State) := (by with_reducible rfl); clear hT; refine (fun (hx : Sound s0 x) => ?_) ?_; (on_goal 1 => clear_value x); (on_goal 2 => subst x)) | (have hT : (type_of% x) = (Nat) := (by with_reducible rfl); clear hT; clear_value x) | (clear_value x) | fail)
    | with_reducible apply State.setReg_sound
    | with_reducible apply State.setPsqCh_sound
    | split
    | with_reducible apply snd_pair

theorem beginPinseqLoad_sound {s0 s : State} (h : Sound s0 s) {a0} : Snd s0 (beginPinseqLoad a0 s) := by
  have e := @rfl _ @beginPinseqLoad
  conv at e => rhs; delta beginPinseqLoad
  rw [e]; clear e; beta_reduce
  repeat' first
    | with_reducible assumption
    | with_reducible apply beginPinseqProgram_sound
    | with_reducible apply beginPinseqSlot_sound
    | with_reducible apply beginPinseqConfig_sound
    | with_reducible apply beginPinseqInject_sound
    | split

theorem State.psqSampleBits_sound {s0 s : State} (h : Sound s0 s) {a1 a2 a3} : Sound s0 (State.psqSampleBits s a1 a2 a3) := by
  have e := @rfl _ @State.psqSampleBits
  conv at e => rhs; delta State.psqSampleBits
  rw [e]; clear e; beta_reduce
  repeat' first
    | with_reducible assumption
    | (fail_if_no_progress (extract_lets -underBinder +onlyGivenNames x); first | (have hT : (type_of% x) = (BitVec 32) := (by with_reducible rfl); clear hT; clear_value x) | (clear_value x) | fail)
    | with_reducible apply State.setReg_sound

theorem State.psqStepped_sound {s0 s : State} (h : Sound s0 s) {i l f left width} (hf : ∀ t a, Sound s0 t → Sound s0 (f t a)) :
    Snd s0 (s.psqStepped i l f left width) := by
  unfold State.psqStepped
  extract_lets n t
  have ht : Sound s0 t := State.setF_sound (hf _ _ h)
  split
  · split
    · exact snd_pair ht
    · exact snd_pair ht
  · exact snd_pair h

theorem State.psqEmitBits_sound {s0 s : State} (h : Sound s0 s) {a1 a2 a3} : Sound s0 (State.psqEmitBits s a1 a2 a3) := by
  have e := @rfl _ @State.psqEmitBits
  conv at e => rhs; delta State.psqEmitBits
  rw [e]; clear e; beta_reduce
  repeat' first
    | with_reducible assumption
    | intro _ _ _
    | (fail_if_no_progress (extract_lets -underBinder +onlyGivenNames x); first | (have hT : (type_of% x) = (State) := (by with_reducible rfl); clear hT; refine (fun (hx : Sound s0 x) => ?_) ?_; (on_goal 1 => clear_value x); (on_goal 2 => subst x)) | (have hT : (type_of% x) = (BitVec 32) := (by with_reducible rfl); clear hT; clear_value x) | (clear_value x) | fail)
    | with_reducible apply State.pinDrive_sound
    | with_reducible apply State.setReg_sound
    | with_reducible refine State.each_sound ?_ _ ?_

theorem State.psqPush_sound {s0 s : State} (h : Sound s0 s) {a1 a2 a3} : Sound s0 (State.psqPush s a1 a2 a3) := by
  have e := @rfl _ @State.psqPush
  conv at e => rhs; delta State.psqPush
  rw [e]; clear e; beta_reduce
  repeat' first
    | with_reducible assumption
    | (fail_if_no_progress (extract_lets -underBinder +onlyGivenNames x); first | (have hT : (type_of% x) = (State) := (by with_reducible rfl); clear hT; refine (fun (hx : Sound s0 x) => ?_) ?_; (on_goal 1 => clear_value x); (on_goal 2 => subst x)) | (have hT : (type_of% x) = (Nat) := (by with_reducible rfl); clear hT; clear_value x) | fail)
    | (with_reducible apply sound_ite <;> intro)
    | with_reducible apply State.setReg_sound

theorem State.psqPop_sound {s0 s : State} (h : Sound s0 s) {a1} : Sound s0 (State.psqPop s a1) := by
  have e := @rfl _ @State.psqPop
  conv at e => rhs; delta State.psqPop
  rw [e]; clear e; beta_reduce
  repeat' first
    | with_reducible assumption
    | (fail_if_no_progress (extract_lets -underBinder +onlyGivenNames x); first | (have hT : (type_of% x) = (Nat) := (by with_reducible rfl); clear hT; clear_value x) | fail)
    | (with_reducible apply sound_ite <;> intro)
    | with_reducible apply State.setReg_sound

theorem State.psqExec_sound {s0 s : State} (h : Sound s0 s) {a1 a2 a3 a4} : Snd s0 (State.psqExec s a1 a2 a3 a4) := by
  have e := @rfl _ @State.psqExec
  conv at e => rhs; delta State.psqExec
  rw [e]; clear e; beta_reduce
  repeat' first
    | with_reducible assumption
    | intro _ _ _
    | intro _ _
    | (fail_if_no_progress (extract_lets -underBinder +onlyGivenNames x); first | (have hT : (type_of% x) = (State) := (by with_reducible rfl); clear hT; refine (fun (hx : Sound s0 x) => ?_) ?_; (on_goal 1 => clear_value x); (on_goal 2 => subst x)) | (have hT : (type_of% x) = (BitVec 32) := (by with_reducible rfl); clear hT; clear_value x) | (have hT : (type_of% x) = (Bool) := (by with_reducible rfl); clear hT; clear_value x) | (have hT : (type_of% x) = (State → State) := (by with_reducible rfl); clear hT; refine (fun (hx : ∀ t, Sound s0 t → Sound s0 (x t)) => ?_) ?_; (on_goal 1 => clear_value x); (on_goal 2 => subst x)) | (clear_value x) | fail)
    | (with_reducible apply sound_ite <;> intro)
    | (with_reducible apply snd_ite <;> intro)
    | with_reducible apply State.pinDrive_sound
    | with_reducible apply State.psqStepped_sound
    | with_reducible apply State.psqEmitBits_sound
    | with_reducible apply State.psqSampleBits_sound
    | with_reducible apply State.setPsqCh_sound
    | with_reducible apply State.setReg_sound
    | with_reducible apply State.setB_sound
    | with_reducible apply State.psqPush_sound
    | with_reducible apply State.setF_sound
    | with_reducible apply State.psqPop_sound
    | with_reducible apply State.psqSource_sound
    | with_reducible apply State.request_sound
    | with_reducible refine State.each_sound ?_ _ ?_
    | with_reducible apply_assumption -exfalso -symm
    | split
    | with_reducible apply snd_pair

theorem State.psqRefuse_sound {s0 s : State} (h : Sound s0 s) {a1 a2} : Sound s0 (State.psqRefuse s a1 a2) := by
  have e := @rfl _ @State.psqRefuse
  conv at e => rhs; delta State.psqRefuse
  rw [e]; clear e; beta_reduce
  repeat' first
    | with_reducible assumption
    | with_reducible apply State.setB_sound
    | with_reducible apply State.setF_sound

theorem State.bankSupply_sound {s0 s : State} (h : Sound s0 s) {a1 a2} : Sound s0 (State.bankSupply s a1 a2) := by
  have e := @rfl _ @State.bankSupply
  conv at e => rhs; delta State.bankSupply
  rw [e]; clear e; beta_reduce
  repeat' first
    | with_reducible assumption
    | intro _ _ _
    | (fail_if_no_progress (extract_lets -underBinder +onlyGivenNames x); first | (have hT : (type_of% x) = (State) := (by with_reducible rfl); clear hT; refine (fun (hx : Sound s0 x) => ?_) ?_; (on_goal 1 => clear_value x); (on_goal 2 => subst x)) | (have hT : (type_of% x) = (Nat) := (by with_reducible rfl); clear hT; clear_value x) | fail)
    | (with_reducible apply sound_ite <;> intro)
    | with_reducible apply State.setF_sound
    | with_reducible apply State.setB_sound
    | with_reducible apply State.errRec_sound
    | with_reducible refine State.each_sound ?_ _ ?_

theorem State.slotted_sound {s0 s : State} (h : Sound s0 s) {a1 a2} : Sound s0 (State.slotted s a1 a2) := by
  have e := @rfl _ @State.slotted
  conv at e => rhs; delta State.slotted
  rw [e]; clear e; beta_reduce
  repeat' (with_reducible refine Sound.upd ?_ ?_; (on_goal 2 => with_reducible rfl); with_reducible assumption)

theorem State.sensePads_sound {s0 s : State} (h : Sound s0 s) {a1} : Sound s0 (State.sensePads s a1) := by
  have e := @rfl _ @State.sensePads
  conv at e => rhs; delta State.sensePads
  rw [e]; clear e; beta_reduce
  repeat' first
    | with_reducible assumption
    | intro _ _ _
    | with_reducible apply State.setB_sound
    | with_reducible refine State.each_sound ?_ _ ?_

theorem State.psqNote_sound {s0 s : State} (h : Sound s0 s) {a1 a2 a3} : Sound s0 (State.psqNote s a1 a2 a3) := by
  have e := @rfl _ @State.psqNote
  conv at e => rhs; delta State.psqNote
  rw [e]; clear e; beta_reduce
  repeat' first
    | (fail_if_no_progress (extract_lets -underBinder +onlyGivenNames x); first | (have hT : (type_of% x) = (BitVec 32) := (by with_reducible rfl); clear hT; clear_value x) | (clear_value x) | fail)
    | (with_reducible refine Sound.upd ?_ ?_; (on_goal 2 => with_reducible rfl); with_reducible assumption)

theorem State.psqBegin_sound {s0 s : State} (h : Sound s0 s) {a1} : Sound s0 (State.psqBegin s a1) := by
  have e := @rfl _ @State.psqBegin
  conv at e => rhs; delta State.psqBegin
  rw [e]; clear e; beta_reduce
  repeat' first
    | with_reducible assumption
    | intro _ _ _
    | (fail_if_no_progress (extract_lets -underBinder +onlyGivenNames x); first | (have hT : (type_of% x) = (State) := (by with_reducible rfl); clear hT; refine (fun (hx : Sound s0 x) => ?_) ?_; (on_goal 1 => clear_value x); (on_goal 2 => subst x)) | (clear_value x) | fail)
    | with_reducible apply State.setPsqCh_sound
    | with_reducible apply State.setReg_sound
    | with_reducible apply State.setF_sound
    | with_reducible apply State.setB_sound
    | with_reducible apply State.psqNote_sound
    | with_reducible apply State.psqSource_sound
    | with_reducible apply State.psqSetRun_sound
    | with_reducible refine State.each_sound ?_ _ ?_

theorem State.psqFlow_sound {s0 s : State} (h : Sound s0 s) {a1 a2 a3 a4 a5} : Sound s0 (State.psqFlow s a1 a2 a3 a4 a5) := by
  have e := @rfl _ @State.psqFlow
  conv at e => rhs; delta State.psqFlow
  rw [e]; clear e; beta_reduce
  repeat' first
    | with_reducible assumption
    | (fail_if_no_progress (extract_lets -underBinder +onlyGivenNames x); first | (have hT : (type_of% x) = (State) := (by with_reducible rfl); clear hT; refine (fun (hx : Sound s0 x) => ?_) ?_; (on_goal 1 => clear_value x); (on_goal 2 => subst x)) | (clear_value x) | fail)
    | (with_reducible apply sound_ite <;> intro)
    | with_reducible apply State.setPsqCh_sound
    | with_reducible apply State.setF_sound
    | with_reducible apply State.psqIllegal_sound
    | with_reducible apply State.psqHalt_sound
    | split

theorem State.psqRunSlot_sound {s0 s : State} (h : Sound s0 s) {a1} : Sound s0 (State.psqRunSlot s a1) := by
  have e := @rfl _ @State.psqRunSlot
  conv at e => rhs; delta State.psqRunSlot
  rw [e]; clear e; beta_reduce
  repeat' first
    | with_reducible assumption
    | intro _ _ _
    | (fail_if_no_progress (extract_lets -underBinder +onlyGivenNames x); first | (have hT : (type_of% x) = (State) := (by with_reducible rfl); clear hT; refine (fun (hx : Sound s0 x) => ?_) ?_; (on_goal 1 => clear_value x); (on_goal 2 => subst x)) | (have hT : (type_of% x) = (Nat) := (by with_reducible rfl); clear hT; clear_value x) | (have hT : ∃ α β γ δ : Type, (type_of% x) = (State → α → β → γ → δ → State) := ⟨_, _, _, _, rfl⟩; clear hT; refine (fun (hx : ∀ t a b c d, Sound s0 t → Sound s0 (x t a b c d)) => ?_) ?_; (on_goal 1 => clear_value x); (on_goal 2 => subst x)) | (clear_value x) | fail)
    | (with_reducible apply sound_ite <;> intro)
    | with_reducible apply State.psqFlow_sound
    | with_reducible apply State.setPsqCh_sound
    | with_reducible apply State.psqShow_sound
    | with_reducible apply_assumption -exfalso -symm
    | (with_reducible apply Snd.out; with_reducible apply State.psqExec_sound)
    | split

theorem State.psqConfigure_sound {s0 s : State} (h : Sound s0 s) {a1} : Sound s0 (State.psqConfigure s a1) := by
  have e := @rfl _ @State.psqConfigure
  conv at e => rhs; delta State.psqConfigure
  rw [e]; clear e; beta_reduce
  repeat' first
    | with_reducible assumption
    | intro _ _ _
    | (fail_if_no_progress (extract_lets -underBinder +onlyGivenNames x); first | (have hT : (type_of% x) = (State) := (by with_reducible rfl); clear hT; refine (fun (hx : Sound s0 x) => ?_) ?_; (on_goal 1 => clear_value x); (on_goal 2 => subst x)) | (have hT : (type_of% x) = (BitVec 32) := (by with_reducible rfl); clear hT; clear_value x) | (have hT : (type_of% x) = (List Nat) := (by with_reducible rfl); clear hT; clear_value x) | (clear_value x) | fail)
    | (with_reducible apply sound_ite <;> intro)
    | with_reducible apply State.pinLeave_sound
    | with_reducible apply State.setB_sound
    | with_reducible apply State.setF_sound
    | with_reducible apply State.psqFault_sound
    | with_reducible apply State.setPsqCh_sound
    | with_reducible refine State.each_sound ?_ _ ?_

theorem State.psqSlotStep_sound {s0 s : State} (h : Sound s0 s) {a1 a2 a3 a4 a5} : Sound s0 (State.psqSlotStep s a1 a2 a3 a4 a5) := by
  have e := @rfl _ @State.psqSlotStep
  conv at e => rhs; delta State.psqSlotStep
  rw [e]; clear e; beta_reduce
  repeat' first
    | with_reducible assumption
    | (fail_if_no_progress (extract_lets -underBinder +onlyGivenNames x); first | (have hT : (type_of% x) = (State) := (by with_reducible rfl); clear hT; refine (fun (hx : Sound s0 x) => ?_) ?_; (on_goal 1 => clear_value x); (on_goal 2 => subst x)) | (have hT : (type_of% x) = (Nat) := (by with_reducible rfl); clear hT; clear_value x) | (have hT : (type_of% x) = (BitVec 32) := (by with_reducible rfl); clear hT; clear_value x) | (clear_value x) | fail)
    | (with_reducible apply sound_ite <;> intro)
    | with_reducible apply State.slotted_sound
    | with_reducible apply State.sensePads_sound
    | with_reducible apply State.psqBegin_sound
    | with_reducible apply State.psqRunSlot_sound
    | with_reducible apply State.psqShow_sound
    | with_reducible apply State.psqNote_sound
    | with_reducible apply State.psqHalt_sound
    | with_reducible apply State.setF_sound
    | with_reducible apply State.setPsqCh_sound
    | with_reducible apply State.psqRefuse_sound
    | with_reducible apply State.psqConfigure_sound
    | split

theorem State.psqStart_sound {s0 s : State} (h : Sound s0 s) {a1} : Snd s0 (State.psqStart s a1) := by
  have e := @rfl _ @State.psqStart
  conv at e => rhs; delta State.psqStart
  rw [e]; clear e; beta_reduce
  repeat' first
    | with_reducible assumption
    | intro _ _ _
    | (fail_if_no_progress (extract_lets -underBinder +onlyGivenNames x); first | (clear_value x) | fail)
    | with_reducible apply State.psqRefuse_sound
    | with_reducible apply State.setPsqCh_sound
    | with_reducible apply State.psqConfigure_sound
    | with_reducible refine State.each_sound ?_ _ ?_
    | split
    | with_reducible apply snd_pair

theorem State.psqInject_sound {s0 s : State} (h : Sound s0 s) {a1 a2} : Sound s0 (State.psqInject s a1 a2) := by
  have e := @rfl _ @State.psqInject
  conv at e => rhs; delta State.psqInject
  rw [e]; clear e; beta_reduce
  repeat' first
    | with_reducible assumption
    | (fail_if_no_progress (extract_lets -underBinder +onlyGivenNames x); first | (have hT : (type_of% x) = (State) := (by with_reducible rfl); clear hT; refine (fun (hx : Sound s0 x) => ?_) ?_; (on_goal 1 => clear_value x); (on_goal 2 => subst x)) | (have hT : (type_of% x) = (Bool) := (by with_reducible rfl); clear hT; clear_value x) | (clear_value x) | fail)
    | (with_reducible apply sound_ite <;> intro)
    | with_reducible apply State.setReg_sound
    | with_reducible apply State.setB_sound
    | with_reducible apply State.setPsqCh_sound

theorem State.psqDrain_sound {s0 s : State} (h : Sound s0 s) {a1} : Snd s0 (State.psqDrain s a1) := by
  have e := @rfl _ @State.psqDrain
  conv at e => rhs; delta State.psqDrain
  rw [e]; clear e; beta_reduce
  repeat' first
    | with_reducible assumption
    | (fail_if_no_progress (extract_lets -underBinder +onlyGivenNames x); first | (clear_value x) | fail)
    | with_reducible apply State.psqShow_sound
    | with_reducible apply State.setPsqCh_sound
    | split
    | with_reducible apply snd_pair

theorem State.pinShort_sound {s0 s : State} (h : Sound s0 s) {a1 a2} : Sound s0 (State.pinShort s a1 a2) := by
  have e := @rfl _ @State.pinShort
  conv at e => rhs; delta State.pinShort
  rw [e]; clear e; beta_reduce
  repeat' first
    | with_reducible assumption
    | (fail_if_no_progress (extract_lets -underBinder +onlyGivenNames x); first | (have hT : (type_of% x) = (State) := (by with_reducible rfl); clear hT; refine (fun (hx : Sound s0 x) => ?_) ?_; (on_goal 1 => clear_value x); (on_goal 2 => subst x)) | (have hT : (type_of% x) = (Nat) := (by with_reducible rfl); clear hT; clear_value x) | (have hT : (type_of% x) = (BitVec 32) := (by with_reducible rfl); clear hT; clear_value x) | fail)
    | (with_reducible apply sound_ite <;> intro)
    | with_reducible apply State.setB_sound
    | with_reducible apply State.setF_sound
    | with_reducible apply State.errRec_sound
    | with_reducible apply State.psqFault_sound

theorem State.psqFeed_sound {s0 s : State} (h : Sound s0 s) {a1 a2} : Sound s0 (State.psqFeed s a1 a2) := by
  have e := @rfl _ @State.psqFeed
  conv at e => rhs; delta State.psqFeed
  rw [e]; clear e; beta_reduce
  repeat' first
    | with_reducible assumption
    | (fail_if_no_progress (extract_lets -underBinder +onlyGivenNames x); first | (clear_value x) | fail)
    | (with_reducible apply sound_ite <;> intro)
    | with_reducible apply State.psqShow_sound
    | with_reducible apply State.setPsqCh_sound
    | with_reducible apply State.setB_sound

theorem State.psqReset_sound {s0 s : State} (h : Sound s0 s) : Sound s0 (State.psqReset s) := by
  have e := @rfl _ @State.psqReset
  conv at e => rhs; delta State.psqReset
  rw [e]; clear e; beta_reduce
  repeat' first
    | with_reducible assumption
    | intro _ _ _
    | (fail_if_no_progress (extract_lets -underBinder +onlyGivenNames x); first | (have hT : (type_of% x) = (State) := (by with_reducible rfl); clear hT; refine (fun (hx : Sound s0 x) => ?_) ?_; (on_goal 1 => clear_value x); (on_goal 2 => subst x)) | (clear_value x) | fail)
    | with_reducible apply State.setPsqCh_sound
    | with_reducible apply State.psqNote_sound
    | with_reducible apply State.psqSource_sound
    | with_reducible apply State.setB_sound
    | with_reducible apply State.psqHalt_sound
    | with_reducible apply State.setReg_sound
    | with_reducible refine State.each_sound ?_ _ ?_

theorem beginPinseqStart_sound {s0 s : State} (h : Sound s0 s) {a0} : Snd s0 (beginPinseqStart a0 s) := by
  have e := @rfl _ @beginPinseqStart
  conv at e => rhs; delta beginPinseqStart
  rw [e]; clear e; beta_reduce
  repeat' first
    | with_reducible assumption
    | (fail_if_no_progress (extract_lets -underBinder +onlyGivenNames x); first | (have hT : (type_of% x) = (Nat) := (by with_reducible rfl); clear hT; clear_value x) | (have hT : (type_of% x) = (List Nat) := (by with_reducible rfl); clear hT; clear_value x) | (have hT : ∃ α : Type, (type_of% x) = (α × State) := ⟨_, rfl⟩; clear hT; refine (fun (hx : Snd s0 x) => ?_) ?_; (on_goal 1 => clear_value x); (on_goal 2 => subst x)) | fail)
    | (with_reducible apply snd_ite <;> intro)
    | with_reducible apply State.psqStart_sound
    | (with_reducible apply Snd.out; with_reducible assumption)
    | split
    | with_reducible apply snd_pair

end Sys2Proof.Machine
end

