-- ==== Sys2Proof/Laws/RectSound.lean ====
section
/-! SUPPORT. The operations of Machine/Rect.lean are sound: see Laws/Sound.lean. -/

set_option linter.all false

namespace Sys2Proof.Machine

theorem State.rectRestore_sound {s0 s : State} (h : Sound s0 s) {a1} : Sound s0 (State.rectRestore s a1) := by
  have e := @rfl _ @State.rectRestore
  conv at e => rhs; delta State.rectRestore
  rw [e]; clear e; beta_reduce
  repeat' first
    | with_reducible assumption
    | intro _ _ _
    | with_reducible apply State.setReg_sound
    | with_reducible refine State.each_sound ?_ _ ?_

theorem State.rectStarted_sound {s0 s : State} (h : Sound s0 s) {a1} : Sound s0 (State.rectStarted s a1) := by
  have e := @rfl _ @State.rectStarted
  conv at e => rhs; delta State.rectStarted
  rw [e]; clear e; beta_reduce
  repeat' first
    | with_reducible assumption
    | with_reducible apply State.jState_sound
    | split

theorem State.setRect_sound {s0 s : State} (h : Sound s0 s) {a1 a2} : Sound s0 (State.setRect s a1 a2) := by
  have e := @rfl _ @State.setRect
  conv at e => rhs; delta State.setRect
  rw [e]; clear e; beta_reduce
  repeat' (with_reducible refine Sound.upd ?_ ?_; (on_goal 2 => with_reducible rfl); with_reducible assumption)

theorem State.rectSample_sound {s0 s : State} (h : Sound s0 s) {a1} : Sound s0 (State.rectSample s a1) := by
  have e := @rfl _ @State.rectSample
  conv at e => rhs; delta State.rectSample
  rw [e]; clear e; beta_reduce
  repeat' first
    | with_reducible assumption
    | (fail_if_no_progress (extract_lets -underBinder +onlyGivenNames x); first | (clear_value x) | fail)
    | with_reducible apply State.setRect_sound

theorem State.rectOrder_sound {s0 s : State} (h : Sound s0 s) {a1 a2 a3} : Sound s0 (State.rectOrder s a1 a2 a3) := by
  have e := @rfl _ @State.rectOrder
  conv at e => rhs; delta State.rectOrder
  rw [e]; clear e; beta_reduce
  repeat' first
    | with_reducible assumption
    | (fail_if_no_progress (extract_lets -underBinder +onlyGivenNames x); first | (have hT : (type_of% x) = (Nat) := (by with_reducible rfl); clear hT; clear_value x) | fail)
    | with_reducible apply State.setReg_sound
    | with_reducible apply State.setB_sound

theorem State.rectBusy_sound {s0 s : State} (h : Sound s0 s) {a1 a2} : Sound s0 (State.rectBusy s a1 a2) := by
  have e := @rfl _ @State.rectBusy
  conv at e => rhs; delta State.rectBusy
  rw [e]; clear e; beta_reduce
  repeat' first
    | with_reducible assumption
    | (fail_if_no_progress (extract_lets -underBinder +onlyGivenNames x); first | (have hT : (type_of% x) = (State) := (by with_reducible rfl); clear hT; refine (fun (hx : Sound s0 x) => ?_) ?_; (on_goal 1 => clear_value x); (on_goal 2 => subst x)) | (clear_value x) | fail)
    | with_reducible apply State.rectSample_sound
    | with_reducible apply State.rectOrder_sound
    | with_reducible apply State.setB_sound
    | with_reducible apply State.setRect_sound

theorem State.rectRun_sound {s0 s : State} (h : Sound s0 s) {a1 a2 a3 a4} : Sound s0 (State.rectRun s a1 a2 a3 a4) := by
  have e := @rfl _ @State.rectRun
  conv at e => rhs; delta State.rectRun
  rw [e]; clear e; beta_reduce
  repeat' first
    | with_reducible assumption
    | (fail_if_no_progress (extract_lets -underBinder +onlyGivenNames x); first | (have hT : (type_of% x) = (State) := (by with_reducible rfl); clear hT; refine (fun (hx : Sound s0 x) => ?_) ?_; (on_goal 1 => clear_value x); (on_goal 2 => subst x)) | (have hT : (type_of% x) = (Nat) := (by with_reducible rfl); clear hT; clear_value x) | (clear_value x) | fail)
    | with_reducible apply State.setB_sound
    | with_reducible apply State.setReg_sound
    | with_reducible apply State.setAddr40_sound
    | with_reducible apply State.rectBusy_sound

theorem State.rectBegins_sound {s0 s : State} (h : Sound s0 s) {a1 a2 a3 a4} : Sound s0 (State.rectBegins s a1 a2 a3 a4) := by
  have e := @rfl _ @State.rectBegins
  conv at e => rhs; delta State.rectBegins
  rw [e]; clear e; beta_reduce
  extract_lets r
  clear_value r
  split
  · exact State.finishAcc_sound h
  · exact State.rectRun_sound (sound_ite (fun _ => State.rectStarted_sound h) fun _ => h)

theorem State.rectWrite_sound {s0 s : State} (h : Sound s0 s) {a1 a2} : Snd s0 (State.rectWrite s a1 a2) := by
  induction a2 generalizing s with
  | nil => exact snd_pair h
  | cons q t ih =>
    unfold State.rectWrite
    have hw : Snd s0 (s.devWrite 0x0A a1 q.1 q.2) := State.devWrite_sound h
    split
    · rename_i e
      exact ih (Snd.of_eq e hw)
    · exact hw

theorem State.rectGapEnd_sound {s0 s : State} (h : Sound s0 s) {a1 a2} : Sound s0 (State.rectGapEnd s a1 a2) := by
  have e := @rfl _ @State.rectGapEnd
  conv at e => rhs; delta State.rectGapEnd
  rw [e]; clear e; beta_reduce
  repeat' first
    | with_reducible assumption
    | (fail_if_no_progress (extract_lets -underBinder +onlyGivenNames x); first | (clear_value x) | fail)
    | (with_reducible apply sound_ite <;> intro)
    | with_reducible apply State.setRect_sound
    | split

theorem beginRect_sound {s0 s : State} (h : Sound s0 s) {a0 a1} : Snd s0 (beginRect a0 a1 s) := by
  have e := @rfl _ @beginRect
  conv at e => rhs; delta beginRect
  rw [e]; clear e; beta_reduce
  repeat' first
    | with_reducible assumption
    | (fail_if_no_progress (extract_lets -underBinder +onlyGivenNames x); first | (have hT : (type_of% x) = (Nat) := (by with_reducible rfl); clear hT; clear_value x) | (clear_value x) | fail)
    | with_reducible apply State.setRect_sound
    | split
    | with_reducible apply snd_pair

theorem beginRectConvert_sound {s0 s : State} (h : Sound s0 s) {a0} : Snd s0 (beginRectConvert a0 s) := by
  have e := @rfl _ @beginRectConvert
  conv at e => rhs; delta beginRectConvert
  rw [e]; clear e; beta_reduce
  repeat' first
    | with_reducible assumption
    | with_reducible apply beginRect_sound

theorem State.rectRows_sound {s0 s : State} (h : Sound s0 s) {a1 a2 a3} : Sound s0 (State.rectRows s a1 a2 a3) := by
  have e := @rfl _ @State.rectRows
  conv at e => rhs; delta State.rectRows
  rw [e]; clear e; beta_reduce
  repeat' first
    | with_reducible assumption
    | (fail_if_no_progress (extract_lets -underBinder +onlyGivenNames x); first | (have hT : (type_of% x) = (State) := (by with_reducible rfl); clear hT; refine (fun (hx : Sound s0 x) => ?_) ?_; (on_goal 1 => clear_value x); (on_goal 2 => subst x)) | (have hT : (type_of% x) = (Nat) := (by with_reducible rfl); clear hT; clear_value x) | fail)
    | (with_reducible apply sound_ite <;> intro)
    | with_reducible apply State.setReg_sound
    | with_reducible apply State.pulse_sound
    | with_reducible apply State.setB_sound

theorem State.rectEnd_sound {s0 s : State} (h : Sound s0 s) {a1 a2 a3} : Sound s0 (State.rectEnd s a1 a2 a3) := by
  have e := @rfl _ @State.rectEnd
  conv at e => rhs; delta State.rectEnd
  rw [e]; clear e; beta_reduce
  repeat' first
    | with_reducible assumption
    | (fail_if_no_progress (extract_lets -underBinder +onlyGivenNames x); first | (have hT : (type_of% x) = (State) := (by with_reducible rfl); clear hT; refine (fun (hx : Sound s0 x) => ?_) ?_; (on_goal 1 => clear_value x); (on_goal 2 => subst x)) | (have hT : (type_of% x) = (Nat) := (by with_reducible rfl); clear hT; clear_value x) | (clear_value x) | fail)
    | with_reducible apply State.rectRows_sound
    | with_reducible apply State.setRect_sound
    | with_reducible apply State.setF_sound
    | with_reducible apply State.setB_sound
    | with_reducible apply State.pulse_sound
    | with_reducible apply State.finishAcc_sound
    | split

theorem State.rectRowDone_sound {s0 s : State} (h : Sound s0 s) {a1} : Sound s0 (State.rectRowDone s a1) := by
  have e := @rfl _ @State.rectRowDone
  conv at e => rhs; delta State.rectRowDone
  rw [e]; clear e; beta_reduce
  repeat' first
    | with_reducible assumption
    | (fail_if_no_progress (extract_lets -underBinder +onlyGivenNames x); first | (have hT : (type_of% x) = (Nat) := (by with_reducible rfl); clear hT; clear_value x) | fail)
    | (with_reducible apply sound_ite <;> intro)
    | with_reducible apply State.rectEnd_sound
    | with_reducible apply State.rectRows_sound
    | split

theorem beginRectFill_sound {s0 s : State} (h : Sound s0 s) {a0} : Snd s0 (beginRectFill a0 s) := by
  have e := @rfl _ @beginRectFill
  conv at e => rhs; delta beginRectFill
  rw [e]; clear e; beta_reduce
  repeat' first
    | with_reducible assumption
    | with_reducible apply beginRect_sound

theorem State.rectReset_sound {s0 s : State} (h : Sound s0 s) : Sound s0 (State.rectReset s) := by
  have e := @rfl _ @State.rectReset
  conv at e => rhs; delta State.rectReset
  rw [e]; clear e; beta_reduce
  repeat' first
    | with_reducible assumption
    | intro _ _ _
    | (fail_if_no_progress (extract_lets -underBinder +onlyGivenNames x); first | (have hT : (type_of% x) = (State) := (by with_reducible rfl); clear hT; refine (fun (hx : Sound s0 x) => ?_) ?_; (on_goal 1 => clear_value x); (on_goal 2 => subst x)) | fail)
    | with_reducible apply State.rectEnd_sound
    | with_reducible apply State.setRect_sound
    | with_reducible apply State.setReg_sound
    | with_reducible refine State.each_sound ?_ _ ?_
    | split

theorem State.rectChecks_sound {s0 s : State} (h : Sound s0 s) {a1 a2} : Snd s0 (State.rectChecks s a1 a2) := by
  induction a2 generalizing s with
  | nil => exact snd_pair h
  | cons q t ih =>
    unfold State.rectChecks
    have hr : Snd s0 (s.devRead 0x0A a1 q.1 q.2) := State.devRead_sound h
    split
    · rename_i e
      exact snd_pair (Snd.of_eq e hr)
    · rename_i e
      exact ih (Snd.of_eq e hr)

theorem State.rectBurst_sound {s0 s : State} (h : Sound s0 s) {a1} : Sound s0 (State.rectBurst s a1) := by
  have e := @rfl _ @State.rectBurst
  conv at e => rhs; delta State.rectBurst
  rw [e]; clear e; beta_reduce
  repeat' first
    | with_reducible assumption
    | (fail_if_no_progress (extract_lets -underBinder +onlyGivenNames x); first | (have hT : (type_of% x) = (State) := (by with_reducible rfl); clear hT; refine (fun (hx : Sound s0 x) => ?_) ?_; (on_goal 1 => clear_value x); (on_goal 2 => subst x)) | (have hT : (type_of% x) = (Nat) := (by with_reducible rfl); clear hT; clear_value x) | (have hT : ∃ α : Type, (type_of% x) = (α × State) := ⟨_, rfl⟩; clear hT; refine (fun (hx : Snd s0 x) => ?_) ?_; (on_goal 1 => clear_value x); (on_goal 2 => subst x)) | (clear_value x) | fail)
    | (with_reducible apply sound_ite <;> intro)
    | (with_reducible apply snd_ite <;> intro)
    | with_reducible apply State.devRead_sound
    | with_reducible apply State.rectEnd_sound
    | with_reducible apply State.rectChecks_sound
    | with_reducible apply State.ueRecord_sound
    | with_reducible apply State.uncorrectable_sound
    | with_reducible apply State.rectWrite_sound
    | with_reducible apply State.setRect_sound
    | (with_reducible apply Snd.out; with_reducible assumption)
    | (with_reducible refine Sound.upd ?_ ?_; (on_goal 2 => with_reducible rfl); refine Snd.of_eq (by assumption) ?_)
    | split
    | with_reducible apply snd_pair

theorem State.rectOpBegin_sound {s0 s : State} (h : Sound s0 s) {a1} : Sound s0 (State.rectOpBegin s a1) := by
  have e := @rfl _ @State.rectOpBegin
  conv at e => rhs; delta State.rectOpBegin
  rw [e]; clear e; beta_reduce
  repeat' first
    | with_reducible assumption
    | (fail_if_no_progress (extract_lets -underBinder +onlyGivenNames x); first | (clear_value x) | fail)
    | with_reducible apply State.rectBegins_sound
    | with_reducible apply State.setRect_sound
    | split

theorem State.rctCtlWrite_sound {s0 s : State} (h : Sound s0 s) {a1 a2} : Sound s0 (State.rctCtlWrite s a1 a2) := by
  have e := @rfl _ @State.rctCtlWrite
  conv at e => rhs; delta State.rctCtlWrite
  rw [e]; clear e; beta_reduce
  repeat' first
    | with_reducible assumption
    | (fail_if_no_progress (extract_lets -underBinder +onlyGivenNames x); first | (have hT : (type_of% x) = (State) := (by with_reducible rfl); clear hT; refine (fun (hx : Sound s0 x) => ?_) ?_; (on_goal 1 => clear_value x); (on_goal 2 => subst x)) | (have hT : (type_of% x) = (Nat) := (by with_reducible rfl); clear hT; clear_value x) | (have hT : (type_of% x) = (Option Nat) := (by with_reducible rfl); clear hT; clear_value x) | (clear_value x) | fail)
    | (with_reducible apply sound_ite <;> intro)
    | with_reducible apply State.setReg_sound
    | with_reducible apply State.setB_sound
    | with_reducible apply State.setF_sound
    | with_reducible apply State.rectRestore_sound
    | with_reducible apply State.pulse_sound
    | with_reducible apply State.rectOrder_sound
    | with_reducible apply State.rectSample_sound
    | with_reducible apply State.rectBusy_sound
    | split

theorem State.rectOpDone_sound {s0 s : State} (h : Sound s0 s) {a1} : Sound s0 (State.rectOpDone s a1) := by
  have e := @rfl _ @State.rectOpDone
  conv at e => rhs; delta State.rectOpDone
  rw [e]; clear e; beta_reduce
  repeat' first
    | with_reducible assumption
    | (with_reducible apply sound_ite <;> intro)
    | with_reducible apply State.rectEnd_sound
    | split

theorem beginRectCopy_sound {s0 s : State} (h : Sound s0 s) {a0} : Snd s0 (beginRectCopy a0 s) := by
  have e := @rfl _ @beginRectCopy
  conv at e => rhs; delta beginRectCopy
  rw [e]; clear e; beta_reduce
  repeat' first
    | with_reducible assumption
    | with_reducible apply beginRect_sound

end Sys2Proof.Machine
end

