-- ==== Sys2Proof/Laws/RegsSound.lean ====
section
/-! SUPPORT. The operations of Machine/Regs.lean are sound: see Laws/Sound.lean. -/

set_option linter.all false

namespace Sys2Proof.Machine

theorem State.loRead_sound {s0 s : State} (h : Sound s0 s) {a1 a2} : Snd s0 (State.loRead s a1 a2) := by
  have e := @rfl _ @State.loRead
  conv at e => rhs; delta State.loRead
  rw [e]; clear e; beta_reduce
  repeat' first
    | with_reducible assumption
    | with_reducible apply State.setReg_sound
    | with_reducible apply snd_pair

theorem State.w1c_sound {s0 s : State} (h : Sound s0 s) {a1 a2 a3} : Sound s0 (State.w1c s a1 a2 a3) := by
  have e := @rfl _ @State.w1c
  conv at e => rhs; delta State.w1c
  rw [e]; clear e; beta_reduce
  repeat' first
    | with_reducible assumption
    | with_reducible apply State.setReg_sound

theorem State.tmbWrite_sound {s0 s : State} (h : Sound s0 s) {a1 a2} : SoundO s0 (State.tmbWrite s a1 a2) := by
  have e := @rfl _ @State.tmbWrite
  conv at e => rhs; delta State.tmbWrite
  rw [e]; clear e; beta_reduce
  repeat' first
    | with_reducible assumption
    | (fail_if_no_progress (extract_lets -underBinder +onlyGivenNames x); first | (have hT : (type_of% x) = (Nat) := (by with_reducible rfl); clear hT; clear_value x) | fail)
    | (with_reducible apply soundO_ite <;> intro)
    | with_reducible apply State.w1c_sound
    | with_reducible apply State.setReg_sound
    | with_reducible apply State.tmbCmpWrite_sound
    | with_reducible apply State.tmbCapWrite_sound
    | with_reducible exact soundO_none
    | with_reducible apply soundO_some
    | split

theorem State.nioWrite_sound {s0 s : State} (h : Sound s0 s) {a1 a2} : SoundO s0 (State.nioWrite s a1 a2) := by
  have e := @rfl _ @State.nioWrite
  conv at e => rhs; delta State.nioWrite
  rw [e]; clear e; beta_reduce
  repeat' first
    | with_reducible assumption
    | (fail_if_no_progress (extract_lets -underBinder +onlyGivenNames x); first | (have hT : (type_of% x) = (Nat) := (by with_reducible rfl); clear hT; clear_value x) | fail)
    | (with_reducible apply soundO_ite <;> intro)
    | with_reducible apply State.nioCtlWrite_sound
    | with_reducible apply State.setReg_sound
    | with_reducible exact soundO_none
    | with_reducible apply soundO_some
    | split

theorem State.pf1Read_sound {s0 s : State} (h : Sound s0 s) {a1} : Snd s0 (State.pf1Read s a1) := by
  have e := @rfl _ @State.pf1Read
  conv at e => rhs; delta State.pf1Read
  rw [e]; clear e; beta_reduce
  repeat' first
    | with_reducible assumption
    | (with_reducible apply snd_ite <;> intro)
    | with_reducible apply State.claim_sound
    | with_reducible apply snd_pair

theorem State.palWrite_sound {s0 s : State} (h : Sound s0 s) {a1 a2 a3} : SoundO s0 (State.palWrite s a1 a2 a3) := by
  have e := @rfl _ @State.palWrite
  conv at e => rhs; delta State.palWrite
  rw [e]; clear e; beta_reduce
  repeat' first
    | with_reducible assumption
    | with_reducible apply State.setB_sound
    | with_reducible apply State.updHead_sound
    | with_reducible apply State.hostActive_sound
    | with_reducible exact soundO_none
    | with_reducible apply soundO_some
    | split

theorem State.headWrite_sound {s0 s : State} (h : Sound s0 s) {a1 a2 a3} : SoundO s0 (State.headWrite s a1 a2 a3) := by
  have e := @rfl _ @State.headWrite
  conv at e => rhs; delta State.headWrite
  rw [e]; clear e; beta_reduce
  repeat' first
    | with_reducible assumption
    | (with_reducible apply sound_ite <;> intro)
    | (with_reducible apply soundO_ite <;> intro)
    | with_reducible apply State.w1c_sound
    | with_reducible apply State.requestCommit_sound
    | with_reducible apply State.setHd_sound
    | with_reducible apply State.stage_sound
    | with_reducible apply State.hostActive_sound
    | with_reducible apply State.palWrite_sound
    | with_reducible exact soundO_none
    | with_reducible apply soundO_some
    | split

theorem State.glbWrite_sound {s0 s : State} (h : Sound s0 s) {a1 a2} : SoundO s0 (State.glbWrite s a1 a2) := by
  have e := @rfl _ @State.glbWrite
  conv at e => rhs; delta State.glbWrite
  rw [e]; clear e; beta_reduce
  repeat' first
    | with_reducible assumption
    | (with_reducible apply soundO_ite <;> intro)
    | with_reducible apply State.setReg_sound
    | with_reducible apply State.w1c_sound
    | with_reducible apply State.featCommitWrite_sound
    | with_reducible apply State.maskWrite_sound
    | with_reducible apply State.swWrite_sound
    | with_reducible apply State.msixWrite_sound
    | with_reducible exact soundO_none
    | with_reducible apply soundO_some

theorem State.psqWrite_sound {s0 s : State} (h : Sound s0 s) {a1 a2} : SoundO s0 (State.psqWrite s a1 a2) := by
  have e := @rfl _ @State.psqWrite
  conv at e => rhs; delta State.psqWrite
  rw [e]; clear e; beta_reduce
  repeat' first
    | with_reducible assumption
    | (fail_if_no_progress (extract_lets -underBinder +onlyGivenNames x); first | (have hT : (type_of% x) = (Nat) := (by with_reducible rfl); clear hT; clear_value x) | fail)
    | (with_reducible apply soundO_ite <;> intro)
    | with_reducible apply State.setReg_sound
    | with_reducible apply State.psqSource_sound
    | with_reducible apply State.w1c_sound
    | with_reducible apply State.psqFeed_sound
    | with_reducible apply State.psqInject_sound
    | with_reducible exact soundO_none
    | with_reducible apply soundO_some
    | (with_reducible apply Snd.out; first | with_reducible apply State.psqStart_sound | with_reducible apply State.psqStop_sound)
    | split

theorem State.dwtWrite_sound {s0 s : State} (h : Sound s0 s) {a1 a2} : SoundO s0 (State.dwtWrite s a1 a2) := by
  have e := @rfl _ @State.dwtWrite
  conv at e => rhs; delta State.dwtWrite
  rw [e]; clear e; beta_reduce
  repeat' first
    | with_reducible assumption
    | (fail_if_no_progress (extract_lets -underBinder +onlyGivenNames x); first | (have hT : (type_of% x) = (Nat) := (by with_reducible rfl); clear hT; clear_value x) | fail)
    | (with_reducible apply soundO_ite <;> intro)
    | with_reducible apply State.dwCtlWrite_sound
    | with_reducible apply State.w1c_sound
    | with_reducible apply State.setReg_sound
    | with_reducible exact soundO_none
    | with_reducible apply soundO_some
    | split

theorem State.rctWrite_sound {s0 s : State} (h : Sound s0 s) {a1 a2} : SoundO s0 (State.rctWrite s a1 a2) := by
  have e := @rfl _ @State.rctWrite
  conv at e => rhs; delta State.rctWrite
  rw [e]; clear e; beta_reduce
  repeat' first
    | with_reducible assumption
    | (fail_if_no_progress (extract_lets -underBinder +onlyGivenNames x); first | (have hT : (type_of% x) = (Nat) := (by with_reducible rfl); clear hT; clear_value x) | fail)
    | (with_reducible apply soundO_ite <;> intro)
    | with_reducible apply State.rctCtlWrite_sound
    | with_reducible apply State.setReg_sound
    | with_reducible apply State.w1c_sound
    | with_reducible exact soundO_none
    | with_reducible apply soundO_some
    | split

theorem State.portFormat_sound {s0 s : State} (h : Sound s0 s) {a1 a2} : Sound s0 (State.portFormat s a1 a2) := by
  have e := @rfl _ @State.portFormat
  conv at e => rhs; delta State.portFormat
  rw [e]; clear e; beta_reduce
  repeat' first
    | (fail_if_no_progress (extract_lets -underBinder +onlyGivenNames x); first | (clear_value x) | fail)
    | (with_reducible refine Sound.upd ?_ ?_; (on_goal 2 => with_reducible rfl); with_reducible assumption)

theorem State.musWrite_sound {s0 s : State} (h : Sound s0 s) {a1 a2} : SoundO s0 (State.musWrite s a1 a2) := by
  have e := @rfl _ @State.musWrite
  conv at e => rhs; delta State.musWrite
  rw [e]; clear e; beta_reduce
  repeat' first
    | with_reducible assumption
    | (fail_if_no_progress (extract_lets -underBinder +onlyGivenNames x); first | (have hT : (type_of% x) = (Nat) := (by with_reducible rfl); clear hT; clear_value x) | fail)
    | (with_reducible apply soundO_ite <;> intro)
    | with_reducible apply State.w1c_sound
    | with_reducible apply State.vgoWrite_sound
    | with_reducible apply State.musCtlWrite_sound
    | with_reducible apply State.portFormat_sound
    | with_reducible apply State.setReg_sound
    | with_reducible apply State.winWrite_sound
    | with_reducible apply State.winHdrWrite_sound
    | with_reducible exact soundO_none
    | with_reducible apply soundO_some
    | split

theorem State.pageWrite_sound {s0 s : State} (h : Sound s0 s) {a1 a2 a3} : SoundO s0 (State.pageWrite s a1 a2 a3) := by
  have e := @rfl _ @State.pageWrite
  conv at e => rhs; delta State.pageWrite
  rw [e]; clear e; beta_reduce
  repeat' first
    | with_reducible assumption
    | (with_reducible apply soundO_ite <;> intro)
    | with_reducible apply State.headWrite_sound
    | with_reducible apply State.glbWrite_sound
    | with_reducible apply State.doneWrite_sound
    | with_reducible apply State.w1c_sound
    | with_reducible apply State.tmbWrite_sound
    | with_reducible apply State.psqWrite_sound
    | with_reducible apply State.dwtWrite_sound
    | with_reducible apply State.rctWrite_sound
    | with_reducible apply State.musWrite_sound
    | with_reducible apply State.nioWrite_sound
    | with_reducible exact soundO_none
    | with_reducible apply soundO_some
    | split

theorem State.narrowWrite_sound {s0 s : State} (h : Sound s0 s) {a1 a2} : Sound s0 (State.narrowWrite s a1 a2) := by
  have e := @rfl _ @State.narrowWrite
  conv at e => rhs; delta State.narrowWrite
  rw [e]; clear e; beta_reduce
  repeat' first
    | with_reducible assumption
    | (fail_if_no_progress (extract_lets -underBinder +onlyGivenNames x); first | (have hT : (type_of% x) = (Nat) := (by with_reducible rfl); clear hT; clear_value x) | (clear_value x) | fail)
    | (with_reducible apply sound_ite <;> intro)
    | with_reducible apply State.wdrop_sound
    | with_reducible apply State.refusedAccess_sound
    | split

theorem State.ringCfgWrite_sound {s0 s : State} (h : Sound s0 s) {a1 a2} : Sound s0 (State.ringCfgWrite s a1 a2) := by
  have e := @rfl _ @State.ringCfgWrite
  conv at e => rhs; delta State.ringCfgWrite
  rw [e]; clear e; beta_reduce
  repeat' first
    | with_reducible assumption
    | (fail_if_no_progress (extract_lets -underBinder +onlyGivenNames x); first | (have hT : (type_of% x) = (State) := (by with_reducible rfl); clear hT; refine (fun (hx : Sound s0 x) => ?_) ?_; (on_goal 1 => clear_value x); (on_goal 2 => subst x)) | (have hT : (type_of% x) = (Nat) := (by with_reducible rfl); clear hT; clear_value x) | (have hT : (type_of% x) = (BitVec 32) := (by with_reducible rfl); clear hT; clear_value x) | (have hT : (type_of% x) = (BitVec 64) := (by with_reducible rfl); clear hT; clear_value x) | (clear_value x) | fail)
    | (with_reducible apply sound_ite <;> intro)
    | with_reducible apply State.wdrop_sound
    | with_reducible apply State.setB_sound
    | with_reducible apply State.setReg_sound
    | with_reducible apply State.setF_sound
    | with_reducible apply State.setW64_sound
    | (with_reducible refine Sound.upd ?_ ?_; (on_goal 2 => with_reducible rfl); with_reducible assumption)

theorem State.ringWrite_sound {s0 s : State} (h : Sound s0 s) {a1 a2 a3} : Sound s0 (State.ringWrite s a1 a2 a3) := by
  have e := @rfl _ @State.ringWrite
  conv at e => rhs; delta State.ringWrite
  rw [e]; clear e; beta_reduce
  repeat' first
    | with_reducible assumption
    | intro _ _
    | intro _
    | (fail_if_no_progress (extract_lets -underBinder +onlyGivenNames x); first | (have hT : (type_of% x) = (State) := (by with_reducible rfl); clear hT; refine (fun (hx : Sound s0 x) => ?_) ?_; (on_goal 1 => clear_value x); (on_goal 2 => subst x)) | (have hT : (type_of% x) = (State → State) := (by with_reducible rfl); clear hT; refine (fun (hx : ∀ t, Sound s0 t → Sound s0 (x t)) => ?_) ?_; (on_goal 1 => clear_value x); (on_goal 2 => subst x)) | (have hT : ∃ α : Type, (type_of% x) = (α → State) := ⟨_, rfl⟩; clear hT; refine (fun (hx : ∀ a, Sound s0 (x a)) => ?_) ?_; (on_goal 1 => clear_value x); (on_goal 2 => subst x)) | fail)
    | (with_reducible apply sound_ite <;> intro)
    | with_reducible apply State.wdrop_sound
    | with_reducible apply State.setReg_sound
    | with_reducible apply State.releaseHeld_sound
    | with_reducible apply State.ringCfgWrite_sound
    | with_reducible apply_assumption -exfalso -symm
    | split

theorem State.pf1Write_sound {s0 s : State} (h : Sound s0 s) {a1 a2} : Sound s0 (State.pf1Write s a1 a2) := by
  have e := @rfl _ @State.pf1Write
  conv at e => rhs; delta State.pf1Write
  rw [e]; clear e; beta_reduce
  repeat' first
    | with_reducible assumption
    | (with_reducible apply sound_ite <;> intro)
    | with_reducible apply State.wdrop_sound
    | with_reducible apply State.doneWrite_sound
    | with_reducible apply State.w1c_sound
    | with_reducible apply State.msixWrite_sound

theorem State.progWrite_sound {s0 s : State} (h : Sound s0 s) {a1 a2 a3} : SoundO s0 (State.progWrite s a1 a2 a3) := by
  have e := @rfl _ @State.progWrite
  conv at e => rhs; delta State.progWrite
  rw [e]; clear e; beta_reduce
  repeat' first
    | with_reducible assumption
    | (with_reducible apply soundO_ite <;> intro)
    | with_reducible apply State.setB_sound
    | with_reducible apply State.updCore_sound
    | with_reducible exact soundO_none
    | with_reducible apply soundO_some

theorem State.flipWrite_sound {s0 s : State} (h : Sound s0 s) {a1 a2 a3} : SoundO s0 (State.flipWrite s a1 a2 a3) := by
  have e := @rfl _ @State.flipWrite
  conv at e => rhs; delta State.flipWrite
  rw [e]; clear e; beta_reduce
  repeat' first
    | with_reducible assumption
    | with_reducible apply State.celFlipWrite_sound
    | with_reducible apply State.flipAddrWrite_sound
    | with_reducible apply State.panFlipWrite_sound
    | with_reducible exact soundO_none
    | with_reducible apply soundO_some
    | split

theorem State.busWrite_sound {s0 s : State} (h : Sound s0 s) {a1 a2 a3} : Snd s0 (State.busWrite s a1 a2 a3) := by
  have e := @rfl _ @State.busWrite
  conv at e => rhs; delta State.busWrite
  rw [e]; clear e; beta_reduce
  repeat' first
    | with_reducible assumption
    | intro _ _
    | (fail_if_no_progress (extract_lets -underBinder +onlyGivenNames x); first | (have hT : (type_of% x) = (Nat) := (by with_reducible rfl); clear hT; clear_value x) | (have hT : (type_of% x) = (State → State) := (by with_reducible rfl); clear hT; refine (fun (hx : ∀ t, Sound s0 t → Sound s0 (x t)) => ?_) ?_; (on_goal 1 => clear_value x); (on_goal 2 => subst x)) | (have hT : ∃ α : Type, (type_of% x) = (Option State → α × State) := ⟨_, rfl⟩; clear hT; refine (fun (hx : ∀ o, SoundO s0 o → Snd s0 (x o)) => ?_) ?_; (on_goal 1 => clear_value x); (on_goal 2 => subst x)) | fail)
    | (with_reducible apply snd_ite <;> intro)
    | with_reducible apply State.wdrop_sound
    | with_reducible apply State.refusedAccess_sound
    | with_reducible apply State.progWrite_sound
    | with_reducible apply State.pageWrite_sound
    | with_reducible apply State.flipWrite_sound
    | with_reducible apply_assumption -exfalso -symm
    | (with_reducible refine Sound.upd ?_ ?_; (on_goal 2 => with_reducible rfl); exact soundO_out (by with_reducible assumption))
    | split
    | refine SoundO.of_eq (by assumption) ?_
    | with_reducible apply snd_pair

theorem State.regWrite_sound {s0 s : State} (h : Sound s0 s) {a1 a2 a3 a4} : Sound s0 (State.regWrite s a1 a2 a3 a4) := by
  have e := @rfl _ @State.regWrite
  conv at e => rhs; delta State.regWrite
  rw [e]; clear e; beta_reduce
  repeat' first
    | with_reducible assumption
    | (fail_if_no_progress (extract_lets -underBinder +onlyGivenNames x); first | (have hT : (type_of% x) = (Nat) := (by with_reducible rfl); clear hT; clear_value x) | fail)
    | (with_reducible apply sound_ite <;> intro)
    | with_reducible apply State.narrowWrite_sound
    | with_reducible apply State.wdrop_sound
    | with_reducible apply State.ringWrite_sound
    | with_reducible apply State.pf1Write_sound
    | with_reducible apply State.refusedAccess_sound
    | (with_reducible apply Snd.out; with_reducible apply State.busWrite_sound)
    | split

theorem State.pageRead_sound {s0 s : State} (h : Sound s0 s) {a1 a2} : Snd s0 (State.pageRead s a1 a2) := by
  have e := @rfl _ @State.pageRead
  conv at e => rhs; delta State.pageRead
  rw [e]; clear e; beta_reduce
  repeat' first
    | with_reducible assumption
    | (fail_if_no_progress (extract_lets -underBinder +onlyGivenNames x); first | (have hT : (type_of% x) = (Nat) := (by with_reducible rfl); clear hT; clear_value x) | fail)
    | (with_reducible apply snd_ite <;> intro)
    | with_reducible apply State.loRead_sound
    | with_reducible apply State.bstsRead_sound
    | with_reducible apply State.claim_sound
    | with_reducible apply State.capRead_sound
    | with_reducible apply State.psqDrain_sound
    | split
    | with_reducible apply snd_pair

theorem State.ringRead_sound {s0 s : State} (h : Sound s0 s) {a1 a2} : Snd s0 (State.ringRead s a1 a2) := by
  have e := @rfl _ @State.ringRead
  conv at e => rhs; delta State.ringRead
  rw [e]; clear e; beta_reduce
  repeat' first
    | with_reducible assumption
    | (with_reducible apply snd_ite <;> intro)
    | with_reducible apply State.loRead_sound
    | with_reducible apply State.setReg_sound
    | with_reducible apply snd_pair

theorem State.busRead_sound {s0 s : State} (h : Sound s0 s) {a1 a2} : Snd s0 (State.busRead s a1 a2) := by
  have e := @rfl _ @State.busRead
  conv at e => rhs; delta State.busRead
  rw [e]; clear e; beta_reduce
  repeat' first
    | with_reducible assumption
    | (fail_if_no_progress (extract_lets -underBinder +onlyGivenNames x); first | (have hT : (type_of% x) = (Nat) := (by with_reducible rfl); clear hT; clear_value x) | (have hT : (type_of% x) = (Bool) := (by with_reducible rfl); clear hT; clear_value x) | (have hT : ∃ α : Type, (type_of% x) = (α × State) := ⟨_, rfl⟩; clear hT; refine (fun (hx : Snd s0 x) => ?_) ?_; (on_goal 1 => clear_value x); (on_goal 2 => subst x)) | fail)
    | (with_reducible apply snd_ite <;> intro)
    | with_reducible apply State.refusedAccess_sound
    | with_reducible apply State.pageRead_sound
    | (with_reducible apply Snd.out; with_reducible assumption)
    | with_reducible apply snd_pair

theorem State.regRead_sound {s0 s : State} (h : Sound s0 s) {a1 a2} : Snd s0 (State.regRead s a1 a2) := by
  have e := @rfl _ @State.regRead
  conv at e => rhs; delta State.regRead
  rw [e]; clear e; beta_reduce
  repeat' first
    | with_reducible assumption
    | (fail_if_no_progress (extract_lets -underBinder +onlyGivenNames x); first | (have hT : (type_of% x) = (Nat) := (by with_reducible rfl); clear hT; clear_value x) | (have hT : ∃ α : Type, (type_of% x) = (α × State) := ⟨_, rfl⟩; clear hT; refine (fun (hx : Snd s0 x) => ?_) ?_; (on_goal 1 => clear_value x); (on_goal 2 => subst x)) | fail)
    | (with_reducible apply snd_ite <;> intro)
    | with_reducible apply State.pageRead_sound
    | with_reducible apply State.ringRead_sound
    | with_reducible apply State.pf1Read_sound
    | with_reducible apply State.refusedAccess_sound
    | with_reducible apply State.busRead_sound
    | (with_reducible apply Snd.out; with_reducible assumption)
    | split
    | with_reducible apply snd_pair

end Sys2Proof.Machine
end

