-- ==== Sys2Proof/Laws/DmaRunSound.lean ====
section
/-! SUPPORT. The operations of Machine/DmaRun.lean are sound: see Laws/Sound.lean. -/

set_option linter.all false

namespace Sys2Proof.Machine

theorem State.dwRead_sound {s0 s : State} (h : Sound s0 s) {a1 a2 a3} : Snd s0 (State.dwRead s a1 a2 a3) := by
  have e := @rfl _ @State.dwRead
  conv at e => rhs; delta State.dwRead
  rw [e]; clear e; beta_reduce
  repeat' first
    | with_reducible assumption
    | (fail_if_no_progress (extract_lets -underBinder +onlyGivenNames x); first | (have hT : ∃ α : Type, (type_of% x) = (α × State) := ⟨_, rfl⟩; clear hT; refine (fun (hx : Snd s0 x) => ?_) ?_; (on_goal 1 => clear_value x); (on_goal 2 => subst x)) | fail)
    | with_reducible apply State.busRead_sound
    | with_reducible apply State.devRead_sound
    | (with_reducible apply Snd.out; with_reducible assumption)
    | split
    | with_reducible apply snd_pair

theorem State.dwWrite_sound {s0 s : State} (h : Sound s0 s) {a1 a2 a3} : Snd s0 (State.dwWrite s a1 a2 a3) := by
  have e := @rfl _ @State.dwWrite
  conv at e => rhs; delta State.dwWrite
  rw [e]; clear e; beta_reduce
  repeat' first
    | with_reducible assumption
    | (fail_if_no_progress (extract_lets -underBinder +onlyGivenNames x); first | (have hT : ∃ α : Type, (type_of% x) = (α × State) := ⟨_, rfl⟩; clear hT; refine (fun (hx : Snd s0 x) => ?_) ?_; (on_goal 1 => clear_value x); (on_goal 2 => subst x)) | fail)
    | with_reducible apply State.busWrite_sound
    | with_reducible apply State.devWrite_sound
    | (with_reducible apply Snd.out; with_reducible assumption)
    | split
    | with_reducible apply snd_pair

theorem State.dwGap_sound {s0 s : State} (h : Sound s0 s) {a1 a2} : Sound s0 (State.dwGap s a1 a2) := by
  have e := @rfl _ @State.dwGap
  conv at e => rhs; delta State.dwGap
  rw [e]; clear e; beta_reduce
  repeat' first
    | with_reducible assumption
    | (fail_if_no_progress (extract_lets -underBinder +onlyGivenNames x); first | (clear_value x) | fail)
    | (with_reducible apply sound_ite <;> intro)
    | with_reducible apply State.setDw_sound

theorem dwReads_sound {s0 s : State} (h : Sound s0 s) {a0 a1 a3 a4} : Snd s0 (dwReads a0 a1 s a3 a4) := by
  induction a3 generalizing s a4 with
  | nil => exact snd_pair h
  | cons q t ih =>
    unfold dwReads
    have hr : Snd s0 (s.dwRead a0 (dwAddr a1 q.1) q.2) := State.dwRead_sound h
    split
    · rename_i e
      exact ih (Snd.of_eq e hr)
    · exact hr

theorem dwWrites_sound {s0 s : State} (h : Sound s0 s) {a0 a1 a2 a3 a5} : Snd s0 (dwWrites a0 a1 a2 a3 s a5) := by
  induction a5 generalizing s with
  | nil => exact snd_pair h
  | cons q t ih =>
    unfold dwWrites
    have hr : Snd s0 (s.dwWrite a0 (dwAddr a1 q.1) ((a3.drop (q.1 - a2)).take q.2)) := State.dwWrite_sound h
    split
    · rename_i e
      exact ih (Snd.of_eq e hr)
    · exact hr

theorem State.dwStopped_sound {s0 s : State} (h : Sound s0 s) {a1} : Sound s0 (State.dwStopped s a1) := by
  have e := @rfl _ @State.dwStopped
  conv at e => rhs; delta State.dwStopped
  rw [e]; clear e; beta_reduce
  repeat' first
    | with_reducible assumption
    | with_reducible apply State.dwRefuse_sound

theorem State.dwBurst_sound {s0 s : State} (h : Sound s0 s) {a1} : Sound s0 (State.dwBurst s a1) := by
  have e := @rfl _ @State.dwBurst
  conv at e => rhs; delta State.dwBurst
  rw [e]; clear e; beta_reduce
  repeat' first
    | with_reducible assumption
    | (fail_if_no_progress (extract_lets -underBinder +onlyGivenNames x); first | (have hT : (type_of% x) = (State) := (by with_reducible rfl); clear hT; refine (fun (hx : Sound s0 x) => ?_) ?_; (on_goal 1 => clear_value x); (on_goal 2 => subst x)) | (have hT : (type_of% x) = (Nat) := (by with_reducible rfl); clear hT; clear_value x) | (have hT : (type_of% x) = (BitVec 32) := (by with_reducible rfl); clear hT; clear_value x) | (clear_value x) | fail)
    | (with_reducible apply sound_ite <;> intro)
    | with_reducible apply State.setF_sound
    | with_reducible apply dwReads_sound
    | with_reducible apply State.dwStopped_sound
    | with_reducible apply State.dwUncorr_sound
    | with_reducible apply dwWrites_sound
    | with_reducible apply State.dwShow_sound
    | with_reducible apply State.dwWait_sound
    | with_reducible apply State.setDw_sound
    | (with_reducible refine Sound.upd ?_ ?_; (on_goal 2 => with_reducible rfl); refine Snd.of_eq (by assumption) ?_)
    | split

end Sys2Proof.Machine
end

