-- ==== Sys2Proof/Laws/NioftRunSound.lean ====
section
/-! SUPPORT. The operations of Machine/NioftRun.lean are sound: see Laws/Sound.lean. -/

set_option linter.all false

namespace Sys2Proof.Machine

theorem State.wdogKick_sound {s0 s : State} (h : Sound s0 s) {a1} : Sound s0 (State.wdogKick s a1) := by
  have e := @rfl _ @State.wdogKick
  conv at e => rhs; delta State.wdogKick
  rw [e]; clear e; beta_reduce
  repeat' first
    | with_reducible assumption
    | (fail_if_no_progress (extract_lets -underBinder +onlyGivenNames x); first | (have hT : (type_of% x) = (Nat) := (by with_reducible rfl); clear hT; clear_value x) | fail)
    | with_reducible apply State.updCore_sound

theorem State.ccsWrite_sound {s0 s : State} (h : Sound s0 s) {a1 a2 a3} : Sound s0 (State.ccsWrite s a1 a2 a3) := by
  have e := @rfl _ @State.ccsWrite
  conv at e => rhs; delta State.ccsWrite
  rw [e]; clear e; beta_reduce
  repeat' first
    | with_reducible assumption
    | (fail_if_no_progress (extract_lets -underBinder +onlyGivenNames x); first | (have hT : (type_of% x) = (Nat) := (by with_reducible rfl); clear hT; clear_value x) | fail)
    | (with_reducible apply sound_ite <;> intro)
    | with_reducible apply State.setReg_sound
    | with_reducible apply State.w1c_sound
    | with_reducible apply State.doneWrite_sound
    | with_reducible apply State.wdogKick_sound

theorem State.nioWriteAt_sound {s0 s : State} (h : Sound s0 s) {a1 a2 a3 a4} : SoundO s0 (State.nioWriteAt s a1 a2 a3 a4) := by
  have e := @rfl _ @State.nioWriteAt
  conv at e => rhs; delta State.nioWriteAt
  rw [e]; clear e; beta_reduce
  repeat' first
    | with_reducible assumption
    | with_reducible apply State.dataWrite_sound
    | with_reducible apply State.ccsWrite_sound
    | with_reducible apply State.updCore_sound
    | with_reducible exact soundO_none
    | with_reducible apply soundO_some
    | split

theorem State.nioIntEntry_sound {s0 s : State} (h : Sound s0 s) {a1 a2} : Sound s0 (State.nioIntEntry s a1 a2) := by
  have e := @rfl _ @State.nioIntEntry
  conv at e => rhs; delta State.nioIntEntry
  rw [e]; clear e; beta_reduce
  repeat' first
    | with_reducible assumption
    | (fail_if_no_progress (extract_lets -underBinder +onlyGivenNames x); first | (have hT : (type_of% x) = (Bool) := (by with_reducible rfl); clear hT; clear_value x) | (clear_value x) | fail)
    | (with_reducible apply sound_ite <;> intro)
    | with_reducible apply State.nioEnter_sound
    | with_reducible apply State.spend_sound

theorem State.busErr_sound {s0 s : State} (h : Sound s0 s) {a1 a2 a3} : Sound s0 (State.busErr s a1 a2 a3) := by
  have e := @rfl _ @State.busErr
  conv at e => rhs; delta State.busErr
  rw [e]; clear e; beta_reduce
  repeat' first
    | with_reducible assumption
    | (fail_if_no_progress (extract_lets -underBinder +onlyGivenNames x); first | (have hT : (type_of% x) = (Nat) := (by with_reducible rfl); clear hT; clear_value x) | fail)
    | (with_reducible apply sound_ite <;> intro)
    | with_reducible apply State.setReg_sound

theorem State.farRead_sound {s0 s : State} (h : Sound s0 s) {a1 a2 a3 a4} : Snd s0 (State.farRead s a1 a2 a3 a4) := by
  have e := @rfl _ @State.farRead
  conv at e => rhs; delta State.farRead
  rw [e]; clear e; beta_reduce
  repeat' first
    | with_reducible assumption
    | (with_reducible apply snd_ite <;> intro)
    | with_reducible apply State.busRead_sound
    | with_reducible apply State.busErr_sound
    | with_reducible apply State.devRead_sound
    | (with_reducible refine Sound.upd ?_ ?_; (on_goal 2 => with_reducible rfl); refine Snd.of_eq (by assumption) ?_)
    | split
    | with_reducible apply snd_pair

theorem State.nioEnd_sound {s0 s : State} (h : Sound s0 s) {a1 a2 a3} : Sound s0 (State.nioEnd s a1 a2 a3) := by
  have e := @rfl _ @State.nioEnd
  conv at e => rhs; delta State.nioEnd
  rw [e]; clear e; beta_reduce
  repeat' first
    | with_reducible assumption
    | with_reducible apply State.nioBoundary_sound
    | with_reducible apply State.spend_sound
    | with_reducible apply State.setPc_sound

theorem State.nioRep_sound {s0 s : State} (h : Sound s0 s) {a1 a2} : Sound s0 (State.nioRep s a1 a2) := by
  have e := @rfl _ @State.nioRep
  conv at e => rhs; delta State.nioRep
  rw [e]; clear e; beta_reduce
  repeat' first
    | with_reducible assumption
    | (with_reducible apply sound_ite <;> intro)
    | with_reducible apply State.nioFetch_sound
    | with_reducible apply State.nioTrap_sound
    | with_reducible apply State.nioEnd_sound
    | with_reducible apply State.updCore_sound
    | with_reducible apply State.spend_sound
    | (with_reducible refine Sound.upd ?_ ?_; (on_goal 2 => with_reducible rfl); refine Snd.of_eq (by assumption) ?_)
    | split

theorem State.nioFenceDone_sound {s0 s : State} (h : Sound s0 s) {a1 a2} : Sound s0 (State.nioFenceDone s a1 a2) := by
  have e := @rfl _ @State.nioFenceDone
  conv at e => rhs; delta State.nioFenceDone
  rw [e]; clear e; beta_reduce
  repeat' first
    | with_reducible assumption
    | (fail_if_no_progress (extract_lets -underBinder +onlyGivenNames x); first | (clear_value x) | fail)
    | (with_reducible apply sound_ite <;> intro)
    | with_reducible apply State.nioEnd_sound
    | with_reducible apply State.updCore_sound

theorem State.popWords_sound {s0 s : State} (h : Sound s0 s) {a0 a1 a2} : Snd s0 (State.popWords a0 a1 a2 s) := by
  induction a2 generalizing s a1 with
  | zero => exact snd_pair h
  | succ k ih =>
    unfold State.popWords
    have hr : Snd s0 (s.dataRead a0 a1 4) := State.dataRead_sound h
    split
    · rename_i e
      exact snd_pair (Snd.of_eq e hr)
    · rename_i w t e
      have ht : Sound s0 t := Snd.of_eq e hr
      have hp : Snd s0 (State.popWords a0 (a1 + 4) k t) := ih ht
      split
      · rename_i e
        exact snd_pair (Snd.of_eq e hp)
      · rename_i e
        exact snd_pair (Snd.of_eq e hp)

theorem State.nioRet_sound {s0 s : State} (h : Sound s0 s) {a1 a2 a3} : Sound s0 (State.nioRet s a1 a2 a3) := by
  have e := @rfl _ @State.nioRet
  conv at e => rhs; delta State.nioRet
  rw [e]; clear e; beta_reduce
  repeat' first
    | with_reducible assumption
    | (fail_if_no_progress (extract_lets -underBinder +onlyGivenNames x); first | (have hT : (type_of% x) = (State) := (by with_reducible rfl); clear hT; refine (fun (hx : Sound s0 x) => ?_) ?_; (on_goal 1 => clear_value x); (on_goal 2 => subst x)) | (have hT : (type_of% x) = (List Nat) := (by with_reducible rfl); clear hT; clear_value x) | (clear_value x) | fail)
    | with_reducible apply State.nioTrap_sound
    | with_reducible apply State.popWords_sound
    | with_reducible apply State.updCore_sound
    | with_reducible apply State.nioEnd_sound
    | (with_reducible refine Sound.upd ?_ ?_; (on_goal 2 => with_reducible rfl); refine Snd.of_eq (by assumption) ?_)
    | split

theorem State.nioPut_sound {s0 s : State} (h : Sound s0 s) {a1 a2 a3} : Sound s0 (State.nioPut s a1 a2 a3) := by
  have e := @rfl _ @State.nioPut
  conv at e => rhs; delta State.nioPut
  rw [e]; clear e; beta_reduce
  repeat' first
    | with_reducible assumption
    | with_reducible apply State.updCore_sound

theorem State.nioFl_sound {s0 s : State} (h : Sound s0 s) {a1 a2} : Sound s0 (State.nioFl s a1 a2) := by
  have e := @rfl _ @State.nioFl
  conv at e => rhs; delta State.nioFl
  rw [e]; clear e; beta_reduce
  repeat' first
    | with_reducible assumption
    | with_reducible apply State.updCore_sound

theorem State.nioCall_sound {s0 s : State} (h : Sound s0 s) {a1 a2 a3} : Sound s0 (State.nioCall s a1 a2 a3) := by
  have e := @rfl _ @State.nioCall
  conv at e => rhs; delta State.nioCall
  rw [e]; clear e; beta_reduce
  repeat' first
    | with_reducible assumption
    | intro _ _ _
    | (fail_if_no_progress (extract_lets -underBinder +onlyGivenNames x); first | (have hT : (type_of% x) = (State) := (by with_reducible rfl); clear hT; refine (fun (hx : Sound s0 x) => ?_) ?_; (on_goal 1 => clear_value x); (on_goal 2 => subst x)) | (have hT : (type_of% x) = (List Nat) := (by with_reducible rfl); clear hT; clear_value x) | (clear_value x) | fail)
    | with_reducible apply State.nioTrap_sound
    | with_reducible apply State.dataWrite_sound
    | with_reducible apply State.updCore_sound
    | with_reducible apply State.nioEnd_sound
    | with_reducible refine State.each_sound ?_ _ ?_
    | with_reducible refine SoundO.getD ?_ ?_
    | split

theorem State.nioReti_sound {s0 s : State} (h : Sound s0 s) {a1 a2 a3} : Sound s0 (State.nioReti s a1 a2 a3) := by
  have e := @rfl _ @State.nioReti
  conv at e => rhs; delta State.nioReti
  rw [e]; clear e; beta_reduce
  repeat' first
    | with_reducible assumption
    | (fail_if_no_progress (extract_lets -underBinder +onlyGivenNames x); first | (have hT : (type_of% x) = (State) := (by with_reducible rfl); clear hT; refine (fun (hx : Sound s0 x) => ?_) ?_; (on_goal 1 => clear_value x); (on_goal 2 => subst x)) | (have hT : (type_of% x) = (Nat) := (by with_reducible rfl); clear hT; clear_value x) | (clear_value x) | fail)
    | (with_reducible apply sound_ite <;> intro)
    | with_reducible apply State.nioTrap_sound
    | with_reducible apply State.dataRead_sound
    | with_reducible apply State.nioVector_sound
    | with_reducible apply State.setIpl_sound
    | with_reducible apply State.nioEnd_sound
    | with_reducible apply State.updCore_sound
    | (with_reducible refine Sound.upd ?_ ?_; (on_goal 2 => with_reducible rfl); refine Snd.of_eq (by assumption) ?_)
    | split

theorem State.ccsRead_sound {s0 s : State} (h : Sound s0 s) {a1 a2} : Snd s0 (State.ccsRead s a1 a2) := by
  have e := @rfl _ @State.ccsRead
  conv at e => rhs; delta State.ccsRead
  rw [e]; clear e; beta_reduce
  repeat' first
    | with_reducible assumption
    | (with_reducible apply snd_ite <;> intro)
    | with_reducible apply State.claim_sound
    | with_reducible apply State.loRead_sound
    | with_reducible apply snd_pair

theorem State.nioRead_sound {s0 s : State} (h : Sound s0 s) {a1 a2 a3} : Snd s0 (State.nioRead s a1 a2 a3) := by
  have e := @rfl _ @State.nioRead
  conv at e => rhs; delta State.nioRead
  rw [e]; clear e; beta_reduce
  repeat' first
    | with_reducible assumption
    | (fail_if_no_progress (extract_lets -underBinder +onlyGivenNames x); first | (have hT : ∃ α : Type, (type_of% x) = (α × State) := ⟨_, rfl⟩; clear hT; refine (fun (hx : Snd s0 x) => ?_) ?_; (on_goal 1 => clear_value x); (on_goal 2 => subst x)) | fail)
    | with_reducible apply State.dataRead_sound
    | with_reducible apply State.ccsRead_sound
    | with_reducible apply State.farRead_sound
    | (with_reducible apply Snd.out; with_reducible assumption)
    | split
    | with_reducible apply snd_pair

theorem State.nioAccess_sound {s0 s : State} (h : Sound s0 s) {a1 a2 a3 a4} : Sound s0 (State.nioAccess s a1 a2 a3 a4) := by
  have e := @rfl _ @State.nioAccess
  conv at e => rhs; delta State.nioAccess
  rw [e]; clear e; beta_reduce
  repeat' first
    | with_reducible assumption
    | (fail_if_no_progress (extract_lets -underBinder +onlyGivenNames x); first | (have hT : (type_of% x) = (State) := (by with_reducible rfl); clear hT; refine (fun (hx : Sound s0 x) => ?_) ?_; (on_goal 1 => clear_value x); (on_goal 2 => subst x)) | (have hT : (type_of% x) = (Nat) := (by with_reducible rfl); clear hT; clear_value x) | (have hT : (type_of% x) = (BitVec 32) := (by with_reducible rfl); clear hT; clear_value x) | (have hT : ∃ α : Type, (type_of% x) = (α × State) := ⟨_, rfl⟩; clear hT; refine (fun (hx : Snd s0 x) => ?_) ?_; (on_goal 1 => clear_value x); (on_goal 2 => subst x)) | (have hT : (type_of% x) = (Option State) := (by with_reducible rfl); clear hT; refine (fun (hx : SoundO s0 x) => ?_) ?_; (on_goal 1 => clear_value x); (on_goal 2 => subst x)) | (clear_value x) | fail)
    | (with_reducible apply sound_ite <;> intro)
    | with_reducible apply State.nioRead_sound
    | with_reducible apply State.nioTrap_sound
    | with_reducible apply State.nioWriteAt_sound
    | with_reducible apply State.updCore_sound
    | with_reducible apply State.spend_sound
    | with_reducible apply State.nioEnd_sound
    | with_reducible apply State.nioBoundary_sound
    | with_reducible apply State.nioPut_sound
    | with_reducible apply soundO_some
    | (with_reducible refine Sound.upd ?_ ?_; (on_goal 2 => with_reducible rfl); first | exact snd_out (by with_reducible assumption) | exact soundO_out (by with_reducible assumption))
    | split
    | with_reducible apply snd_pair

theorem State.nioMemory_sound {s0 s : State} (h : Sound s0 s) {a1 a2 a3 a4} : Sound s0 (State.nioMemory s a1 a2 a3 a4) := by
  have e := @rfl _ @State.nioMemory
  conv at e => rhs; delta State.nioMemory
  rw [e]; clear e; beta_reduce
  repeat' first
    | with_reducible assumption
    | (fail_if_no_progress (extract_lets -underBinder +onlyGivenNames x); first | (have hT : (type_of% x) = (Option Nat) := (by with_reducible rfl); clear hT; clear_value x) | (clear_value x) | fail)
    | (with_reducible apply sound_ite <;> intro)
    | with_reducible apply State.nioTrap_sound
    | with_reducible apply State.updCore_sound
    | with_reducible apply State.nioAccess_sound
    | split

theorem State.nioExec_sound {s0 s : State} (h : Sound s0 s) {a1 a2 a3 a4} : Sound s0 (State.nioExec s a1 a2 a3 a4) := by
  have e := @rfl _ @State.nioExec
  conv at e => rhs; delta State.nioExec
  rw [e]; clear e; beta_reduce
  repeat' first
    | with_reducible assumption
    | (fail_if_no_progress (extract_lets -underBinder +onlyGivenNames x); first | (have hT : (type_of% x) = (State) := (by with_reducible rfl); clear hT; refine (fun (hx : Sound s0 x) => ?_) ?_; (on_goal 1 => clear_value x); (on_goal 2 => subst x)) | (have hT : (type_of% x) = (Nat) := (by with_reducible rfl); clear hT; clear_value x) | (clear_value x) | fail)
    | (with_reducible apply sound_ite <;> intro)
    | with_reducible apply State.updCore_sound
    | with_reducible apply State.nioPut_sound
    | with_reducible apply State.nioEnd_sound
    | with_reducible apply State.nioFl_sound
    | with_reducible apply State.nioCall_sound
    | with_reducible apply State.nioRet_sound
    | with_reducible apply State.nioReti_sound
    | with_reducible apply State.setSpec_sound
    | with_reducible apply State.nioBoundary_sound
    | with_reducible apply State.setB_sound
    | with_reducible apply State.spend_sound
    | with_reducible apply State.setPc_sound
    | with_reducible apply State.nioStopAt_sound
    | with_reducible apply State.setReg_sound
    | with_reducible apply State.nioEnter_sound
    | with_reducible apply State.nioMemory_sound
    | split

theorem State.nioRow_sound {s0 s : State} (h : Sound s0 s) {a1 a2 a3} : Sound s0 (State.nioRow s a1 a2 a3) := by
  have e := @rfl _ @State.nioRow
  conv at e => rhs; delta State.nioRow
  rw [e]; clear e; beta_reduce
  repeat' first
    | with_reducible assumption
    | (fail_if_no_progress (extract_lets -underBinder +onlyGivenNames x); first | (have hT : (type_of% x) = (Nat) := (by with_reducible rfl); clear hT; clear_value x) | (have hT : (type_of% x) = (Bool) := (by with_reducible rfl); clear hT; clear_value x) | fail)
    | (with_reducible apply sound_ite <;> intro)
    | with_reducible apply State.nioFetch_sound
    | with_reducible apply State.nioTrap_sound
    | with_reducible apply State.nioRep_sound
    | with_reducible apply State.nioExec_sound
    | (with_reducible refine Sound.upd ?_ ?_; (on_goal 2 => with_reducible rfl); refine Snd.of_eq (by assumption) ?_)
    | split

theorem State.nioWdogExpiry_sound {s0 s : State} (h : Sound s0 s) {a1 a2} : Sound s0 (State.nioWdogExpiry s a1 a2) := by
  have e := @rfl _ @State.nioWdogExpiry
  conv at e => rhs; delta State.nioWdogExpiry
  rw [e]; clear e; beta_reduce
  repeat' first
    | with_reducible assumption
    | (fail_if_no_progress (extract_lets -underBinder +onlyGivenNames x); first | (have hT : (type_of% x) = (State) := (by with_reducible rfl); clear hT; refine (fun (hx : Sound s0 x) => ?_) ?_; (on_goal 1 => clear_value x); (on_goal 2 => subst x)) | (have hT : (type_of% x) = (Bool) := (by with_reducible rfl); clear hT; clear_value x) | (clear_value x) | fail)
    | (with_reducible apply sound_ite <;> intro)
    | with_reducible apply State.spend_sound
    | with_reducible apply State.updCore_sound
    | with_reducible apply State.nioTrap_sound

theorem State.farWrite_sound {s0 s : State} (h : Sound s0 s) {a1 a2} : Sound s0 (State.farWrite s a1 a2) := by
  have e := @rfl _ @State.farWrite
  conv at e => rhs; delta State.farWrite
  rw [e]; clear e; beta_reduce
  repeat' first
    | with_reducible assumption
    | (fail_if_no_progress (extract_lets -underBinder +onlyGivenNames x); first | (have hT : (type_of% x) = (Nat) := (by with_reducible rfl); clear hT; clear_value x) | fail)
    | (with_reducible apply sound_ite <;> intro)
    | with_reducible apply State.wdrop_sound
    | with_reducible apply State.busWrite_sound
    | with_reducible apply State.busErr_sound
    | with_reducible apply State.devWrite_sound
    | with_reducible apply State.nioTrap_sound
    | (with_reducible refine Sound.upd ?_ ?_; (on_goal 2 => with_reducible rfl); refine Snd.of_eq (by assumption) ?_)
    | split

theorem State.nioFarStoreDone_sound {s0 s : State} (h : Sound s0 s) {a1 a2} : Sound s0 (State.nioFarStoreDone s a1 a2) := by
  have e := @rfl _ @State.nioFarStoreDone
  conv at e => rhs; delta State.nioFarStoreDone
  rw [e]; clear e; beta_reduce
  repeat' first
    | with_reducible assumption
    | (fail_if_no_progress (extract_lets -underBinder +onlyGivenNames x); first | (have hT : (type_of% x) = (State) := (by with_reducible rfl); clear hT; refine (fun (hx : Sound s0 x) => ?_) ?_; (on_goal 1 => clear_value x); (on_goal 2 => subst x)) | fail)
    | (with_reducible apply sound_ite <;> intro)
    | with_reducible apply State.farWrite_sound
    | with_reducible apply State.updCore_sound
    | with_reducible apply State.nioSettle_sound
    | with_reducible apply State.nioMemory_sound
    | with_reducible apply State.spend_sound
    | split

theorem State.nioFarLoadDone_sound {s0 s : State} (h : Sound s0 s) {a1 a2} : Sound s0 (State.nioFarLoadDone s a1 a2) := by
  have e := @rfl _ @State.nioFarLoadDone
  conv at e => rhs; delta State.nioFarLoadDone
  rw [e]; clear e; beta_reduce
  repeat' first
    | with_reducible assumption
    | (fail_if_no_progress (extract_lets -underBinder +onlyGivenNames x); first | (clear_value x) | fail)
    | (with_reducible apply sound_ite <;> intro)
    | with_reducible apply State.nioMemory_sound
    | with_reducible apply State.updCore_sound
    | split

end Sys2Proof.Machine
end

