-- ==== Sys2Proof/Laws/ChimneySound.lean ====
section
/-! SUPPORT. The operations of Machine/Chimney.lean are sound: see Laws/Sound.lean. -/

set_option linter.all false

namespace Sys2Proof.Machine

theorem State.refreshSet_sound {s0 s : State} (h : Sound s0 s) {a1 a2} : Sound s0 (State.refreshSet s a1 a2) := by
  have e := @rfl _ @State.refreshSet
  conv at e => rhs; delta State.refreshSet
  rw [e]; clear e; beta_reduce
  repeat' first
    | with_reducible assumption
    | (fail_if_no_progress (extract_lets -underBinder +onlyGivenNames x); first | (have hT : (type_of% x) = (State) := (by with_reducible rfl); clear hT; refine (fun (hx : Sound s0 x) => ?_) ?_; (on_goal 1 => clear_value x); (on_goal 2 => subst x)) | (have hT : (type_of% x) = (Nat) := (by with_reducible rfl); clear hT; clear_value x) | (have hT : (type_of% x) = (Bool) := (by with_reducible rfl); clear hT; clear_value x) | fail)
    | (with_reducible apply sound_ite <;> intro)
    | with_reducible apply State.setReg_sound
    | with_reducible apply State.loopBound_sound

theorem State.refreshAll_sound {s0 s : State} (h : Sound s0 s) : Sound s0 (State.refreshAll s) := by
  have e := @rfl _ @State.refreshAll
  conv at e => rhs; delta State.refreshAll
  rw [e]; clear e; beta_reduce
  repeat' first
    | with_reducible assumption
    | intro _ _ _
    | with_reducible apply State.refreshSet_sound
    | with_reducible refine State.each_sound ?_ _ ?_

theorem beginClockPolicy_sound {s0 s : State} (h : Sound s0 s) {a0} : Snd s0 (beginClockPolicy a0 s) := by
  have e := @rfl _ @beginClockPolicy
  conv at e => rhs; delta beginClockPolicy
  rw [e]; clear e; beta_reduce
  repeat' first
    | with_reducible assumption
    | intro _ _ _
    | intro _
    | (fail_if_no_progress (extract_lets -underBinder +onlyGivenNames x); first | (have hT : (type_of% x) = (State) := (by with_reducible rfl); clear hT; refine (fun (hx : Sound s0 x) => ?_) ?_; (on_goal 1 => clear_value x); (on_goal 2 => subst x)) | (have hT : (type_of% x) = (Nat) := (by with_reducible rfl); clear hT; clear_value x) | (have hT : (type_of% x) = (Packet) := (by with_reducible rfl); clear hT; clear_value x) | (have hT : ∃ α : Type, (type_of% x) = (Bool → Bool → (Unit → α × State) → α × State) := ⟨_, rfl⟩; clear hT; refine (fun (hx : ∀ a b f, (∀ u, Snd s0 (f u)) → Snd s0 (x a b f)) => ?_) ?_; (on_goal 1 => clear_value x); (on_goal 2 => subst x)) | (clear_value x) | fail)
    | (with_reducible apply snd_ite <;> intro)
    | with_reducible apply State.setReg_sound
    | with_reducible apply State.refreshAll_sound
    | with_reducible apply State.throtBound_sound
    | with_reducible apply beginPullWindow_sound
    | with_reducible apply_assumption -exfalso -symm
    | (with_reducible apply Snd.out; with_reducible apply_assumption -exfalso -symm)
    | split
    | with_reducible apply snd_pair

theorem State.thermal_sound {s0 s : State} (h : Sound s0 s) {a1} : Sound s0 (State.thermal s a1) := by
  have e := @rfl _ @State.thermal
  conv at e => rhs; delta State.thermal
  rw [e]; clear e; beta_reduce
  repeat' first
    | with_reducible assumption
    | intro _ _ _
    | (fail_if_no_progress (extract_lets -underBinder +onlyGivenNames x); first | (have hT : (type_of% x) = (State) := (by with_reducible rfl); clear hT; refine (fun (hx : Sound s0 x) => ?_) ?_; (on_goal 1 => clear_value x); (on_goal 2 => subst x)) | (have hT : (type_of% x) = (Bool) := (by with_reducible rfl); clear hT; clear_value x) | (clear_value x) | fail)
    | (with_reducible apply sound_ite <;> intro)
    | with_reducible apply State.setReg_sound
    | with_reducible apply State.errRec_sound
    | with_reducible apply State.level_sound
    | with_reducible apply State.setB_sound
    | with_reducible refine State.each_sound ?_ _ ?_

theorem State.selfRefresh_sound {s0 s : State} (h : Sound s0 s) : Sound s0 (State.selfRefresh s) := by
  have e := @rfl _ @State.selfRefresh
  conv at e => rhs; delta State.selfRefresh
  rw [e]; clear e; beta_reduce
  repeat' first
    | with_reducible assumption
    | intro _ _ _
    | with_reducible apply State.setB_sound
    | with_reducible refine State.each_sound ?_ _ ?_

theorem State.enterS2_sound {s0 s : State} (h : Sound s0 s) : Sound s0 (State.enterS2 s) := by
  have e := @rfl _ @State.enterS2
  conv at e => rhs; delta State.enterS2
  rw [e]; clear e; beta_reduce
  repeat' first
    | with_reducible assumption
    | (fail_if_no_progress (extract_lets -underBinder +onlyGivenNames x); first | (clear_value x) | fail)
    | (with_reducible apply sound_ite <;> intro)
    | with_reducible apply State.selfRefresh_sound
    | with_reducible apply State.setF_sound
    | (with_reducible refine Sound.upd ?_ ?_; (on_goal 2 => with_reducible rfl); with_reducible assumption)

theorem State.wakePin_sound {s0 s : State} (h : Sound s0 s) {a1 a2} : Sound s0 (State.wakePin s a1 a2) := by
  have e := @rfl _ @State.wakePin
  conv at e => rhs; delta State.wakePin
  rw [e]; clear e; beta_reduce
  repeat' first
    | with_reducible assumption
    | (fail_if_no_progress (extract_lets -underBinder +onlyGivenNames x); first | (clear_value x) | fail)
    | (with_reducible apply sound_ite <;> intro)
    | (with_reducible refine Sound.upd ?_ ?_; (on_goal 2 => with_reducible rfl); with_reducible assumption)

theorem State.voltageStep_sound {s0 s : State} (h : Sound s0 s) {a1 a2} : Sound s0 (State.voltageStep s a1 a2) := by
  have e := @rfl _ @State.voltageStep
  conv at e => rhs; delta State.voltageStep
  rw [e]; clear e; beta_reduce
  repeat' first
    | with_reducible assumption
    | (fail_if_no_progress (extract_lets -underBinder +onlyGivenNames x); first | (have hT : (type_of% x) = (State) := (by with_reducible rfl); clear hT; refine (fun (hx : Sound s0 x) => ?_) ?_; (on_goal 1 => clear_value x); (on_goal 2 => subst x)) | (have hT : (type_of% x) = (Nat) := (by with_reducible rfl); clear hT; clear_value x) | (have hT : (type_of% x) = (Bool) := (by with_reducible rfl); clear hT; clear_value x) | (clear_value x) | fail)
    | (with_reducible apply sound_ite <;> intro)
    | with_reducible apply State.setB_sound
    | with_reducible apply State.setF_sound
    | with_reducible apply State.loopBound_sound
    | (with_reducible refine Sound.upd ?_ ?_; (on_goal 2 => with_reducible rfl); with_reducible assumption)

theorem beginTelemetryConfig_sound {s0 s : State} (h : Sound s0 s) {a0} : Snd s0 (beginTelemetryConfig a0 s) := by
  have e := @rfl _ @beginTelemetryConfig
  conv at e => rhs; delta beginTelemetryConfig
  rw [e]; clear e; beta_reduce
  repeat' first
    | with_reducible assumption
    | (fail_if_no_progress (extract_lets -underBinder +onlyGivenNames x); first | (have hT : (type_of% x) = (Nat) := (by with_reducible rfl); clear hT; clear_value x) | (have hT : (type_of% x) = (Bool) := (by with_reducible rfl); clear hT; clear_value x) | (have hT : (type_of% x) = (Packet) := (by with_reducible rfl); clear hT; clear_value x) | (clear_value x) | fail)
    | (with_reducible refine Sound.upd ?_ ?_; (on_goal 2 => with_reducible rfl); with_reducible assumption)
    | split
    | with_reducible apply snd_pair

theorem State.refreshStep_sound {s0 s : State} (h : Sound s0 s) {a1 a2} : Sound s0 (State.refreshStep s a1 a2) := by
  have e := @rfl _ @State.refreshStep
  conv at e => rhs; delta State.refreshStep
  rw [e]; clear e; beta_reduce
  repeat' first
    | with_reducible assumption
    | (fail_if_no_progress (extract_lets -underBinder +onlyGivenNames x); first | (have hT : (type_of% x) = (Nat) := (by with_reducible rfl); clear hT; clear_value x) | (have hT : (type_of% x) = (BitVec 64) := (by with_reducible rfl); clear hT; clear_value x) | (clear_value x) | fail)
    | (with_reducible apply sound_ite <;> intro)
    | with_reducible apply State.refreshSet_sound
    | (with_reducible refine Sound.upd ?_ ?_; (on_goal 2 => with_reducible rfl); with_reducible assumption)
    | split

theorem State.idleChannel_sound {s0 s : State} (h : Sound s0 s) {a1} : Sound s0 (State.idleChannel s a1) := by
  have e := @rfl _ @State.idleChannel
  conv at e => rhs; delta State.idleChannel
  rw [e]; clear e; beta_reduce
  repeat' first
    | with_reducible assumption
    | (with_reducible apply sound_ite <;> intro)
    | with_reducible apply State.setB_sound

theorem State.telemetry_sound {s0 s : State} (h : Sound s0 s) {a1} : Sound s0 (State.telemetry s a1) := by
  have e := @rfl _ @State.telemetry
  conv at e => rhs; delta State.telemetry
  rw [e]; clear e; beta_reduce
  repeat' first
    | with_reducible assumption
    | (fail_if_no_progress (extract_lets -underBinder +onlyGivenNames x); first | (have hT : (type_of% x) = (State) := (by with_reducible rfl); clear hT; refine (fun (hx : Sound s0 x) => ?_) ?_; (on_goal 1 => clear_value x); (on_goal 2 => subst x)) | (have hT : (type_of% x) = (Nat) := (by with_reducible rfl); clear hT; clear_value x) | (clear_value x) | fail)
    | with_reducible apply State.setF_sound
    | with_reducible apply State.setReg_sound
    | with_reducible apply State.thermal_sound
    | with_reducible apply State.hostWrite_sound
    | with_reducible apply State.pulse_sound
    | (with_reducible refine Sound.upd ?_ ?_; (on_goal 2 => with_reducible rfl); with_reducible assumption)
    | split

theorem State.receiptsDrop_sound {s0 s : State} (h : Sound s0 s) {a1} : Sound s0 (State.receiptsDrop s a1) := by
  have e := @rfl _ @State.receiptsDrop
  conv at e => rhs; delta State.receiptsDrop
  rw [e]; clear e; beta_reduce
  repeat' first
    | with_reducible assumption
    | intro _ _ _
    | (fail_if_no_progress (extract_lets -underBinder +onlyGivenNames x); first | (have hT : (type_of% x) = (State) := (by with_reducible rfl); clear hT; refine (fun (hx : Sound s0 x) => ?_) ?_; (on_goal 1 => clear_value x); (on_goal 2 => subst x)) | fail)
    | with_reducible apply State.updIg_sound
    | with_reducible apply State.errRec_sound
    | with_reducible apply State.incReg_sound
    | with_reducible refine State.each_sound ?_ _ ?_

theorem State.powerCommit_sound {s0 s : State} (h : Sound s0 s) {a1} : Sound s0 (State.powerCommit s a1) := by
  have e := @rfl _ @State.powerCommit
  conv at e => rhs; delta State.powerCommit
  rw [e]; clear e; beta_reduce
  repeat' first
    | with_reducible assumption
    | intro _ _ _
    | (fail_if_no_progress (extract_lets -underBinder +onlyGivenNames x); first | (have hT : (type_of% x) = (State) := (by with_reducible rfl); clear hT; refine (fun (hx : Sound s0 x) => ?_) ?_; (on_goal 1 => clear_value x); (on_goal 2 => subst x)) | (have hT : (type_of% x) = (BitVec 32) := (by with_reducible rfl); clear hT; clear_value x) | (clear_value x) | fail)
    | (with_reducible apply sound_ite <;> intro)
    | with_reducible apply State.setF_sound
    | with_reducible apply State.portsDisable_sound
    | with_reducible apply State.batchClose_sound
    | with_reducible apply State.receiptsDrop_sound
    | with_reducible refine State.each_sound ?_ _ ?_
    | (with_reducible refine Sound.upd ?_ ?_; (on_goal 2 => with_reducible rfl); with_reducible assumption)
    | split

theorem State.refreshMode_sound {s0 s : State} (h : Sound s0 s) {a1 a2} : Sound s0 (State.refreshMode s a1 a2) := by
  have e := @rfl _ @State.refreshMode
  conv at e => rhs; delta State.refreshMode
  rw [e]; clear e; beta_reduce
  repeat' first
    | with_reducible assumption
    | (fail_if_no_progress (extract_lets -underBinder +onlyGivenNames x); first | (have hT : (type_of% x) = (State) := (by with_reducible rfl); clear hT; refine (fun (hx : Sound s0 x) => ?_) ?_; (on_goal 1 => clear_value x); (on_goal 2 => subst x)) | (have hT : (type_of% x) = (Nat) := (by with_reducible rfl); clear hT; clear_value x) | fail)
    | (with_reducible apply sound_ite <;> intro)
    | with_reducible apply State.setReg_sound
    | with_reducible apply State.pulse_sound
    | with_reducible apply State.refreshSet_sound

theorem beginPowerState_sound {s0 s : State} (h : Sound s0 s) {a0} : Snd s0 (beginPowerState a0 s) := by
  have e := @rfl _ @beginPowerState
  conv at e => rhs; delta beginPowerState
  rw [e]; clear e; beta_reduce
  repeat' first
    | with_reducible assumption
    | (fail_if_no_progress (extract_lets -underBinder +onlyGivenNames x); first | (have hT : (type_of% x) = (Nat) := (by with_reducible rfl); clear hT; clear_value x) | (have hT : (type_of% x) = (BitVec 32) := (by with_reducible rfl); clear hT; clear_value x) | (have hT : (type_of% x) = (Packet) := (by with_reducible rfl); clear hT; clear_value x) | (have hT : (type_of% x) = (Option Nat) := (by with_reducible rfl); clear hT; clear_value x) | fail)
    | split
    | with_reducible apply snd_pair

theorem State.leaveS2_sound {s0 s : State} (h : Sound s0 s) : Sound s0 (State.leaveS2 s) := by
  have e := @rfl _ @State.leaveS2
  conv at e => rhs; delta State.leaveS2
  rw [e]; clear e; beta_reduce
  repeat' first
    | with_reducible assumption
    | (fail_if_no_progress (extract_lets -underBinder +onlyGivenNames x); first | (clear_value x) | fail)
    | (with_reducible apply sound_ite <;> intro)
    | with_reducible apply State.errDrain_sound
    | with_reducible apply State.setB_sound
    | with_reducible apply State.setF_sound
    | (with_reducible refine Sound.upd ?_ ?_; (on_goal 2 => with_reducible rfl); with_reducible assumption)

end Sys2Proof.Machine
end

