-- ==== Sys2Proof/Laws/ResetSound.lean ====
section
/-! SUPPORT. The operations of Machine/Reset.lean are sound: see Laws/Sound.lean. -/

set_option linter.all false

namespace Sys2Proof.Machine

theorem State.coldKeep_sound {s0 s : State} (h : Sound s0 s) : Sound s0 (State.coldKeep s) :=
  ⟨h.pending, h.fuses, fun c => (canonical_iff _).2 ⟨rfl, rfl, rfl, rfl, rfl, ((canonical_iff s).1 (h.canon c)).2.2.2.2.2⟩⟩

theorem State.bootUp_sound {s0 s : State} (h : Sound s0 s) {a1} : Sound s0 (State.bootUp s a1) := by
  have e := @rfl _ @State.bootUp
  conv at e => rhs; delta State.bootUp
  rw [e]; clear e; beta_reduce
  repeat' first
    | with_reducible assumption
    | with_reducible apply State.audShow_sound
    | with_reducible apply State.bootChain_sound
    | with_reducible apply State.setReg_sound
    | with_reducible apply State.coldKeep_sound

theorem State.jScan_sound {s0 s : State} (h : Sound s0 s) : Snd s0 (State.jScan s) := by
  have e := @rfl _ @State.jScan
  conv at e => rhs; delta State.jScan
  rw [e]; clear e; beta_reduce
  repeat' first
    | with_reducible assumption
    | intro _ _ _
    | (fail_if_no_progress (extract_lets -underBinder +onlyGivenNames x); first | (have hT : (type_of% x) = (State) := (by with_reducible rfl); clear hT; refine (fun (hx : Sound s0 x) => ?_) ?_; (on_goal 1 => clear_value x); (on_goal 2 => subst x)) | (have hT : ∃ α : Type, (type_of% x) = (α × State) := ⟨_, rfl⟩; clear hT; refine (fun (hx : Snd s0 x) => ?_) ?_; (on_goal 1 => clear_value x); (on_goal 2 => subst x)) | (clear_value x) | fail)
    | with_reducible apply State.jEntry_sound
    | with_reducible refine foldl_snd _ ?_ ?_
    | (with_reducible apply Snd.out; with_reducible assumption)
    | (with_reducible refine Sound.upd ?_ ?_; (on_goal 2 => with_reducible rfl); with_reducible assumption)
    | split
    | with_reducible apply snd_pair

theorem State.reread_sound {s0 s : State} (h : Sound s0 s) {a1 a2} : Snd s0 (State.reread s a1 a2) := by
  have e := @rfl _ @State.reread
  conv at e => rhs; delta State.reread
  rw [e]; clear e; beta_reduce
  repeat' first
    | with_reducible assumption
    | (fail_if_no_progress (extract_lets -underBinder +onlyGivenNames x); first | (have hT : (type_of% x) = (Packet) := (by with_reducible rfl); clear hT; clear_value x) | (have hT : ∃ α : Type, (type_of% x) = (α × State) := ⟨_, rfl⟩; clear hT; refine (fun (hx : Snd s0 x) => ?_) ?_; (on_goal 1 => clear_value x); (on_goal 2 => subst x)) | fail)
    | (with_reducible apply snd_ite <;> intro)
    | with_reducible apply State.jPacket_sound
    | (with_reducible apply Snd.out; with_reducible assumption)
    | split
    | with_reducible apply snd_pair

theorem State.rereadAll_sound {s0 s : State} (h : Sound s0 s) {a1} : Snd s0 (State.rereadAll s a1) := by
  have e := @rfl _ @State.rereadAll
  conv at e => rhs; delta State.rereadAll
  rw [e]; clear e; beta_reduce
  repeat' first
    | with_reducible assumption
    | intro _ _ _
    | (fail_if_no_progress (extract_lets -underBinder +onlyGivenNames x); first | (have hT : ∃ α : Type, (type_of% x) = (α × State) := ⟨_, rfl⟩; clear hT; refine (fun (hx : Snd s0 x) => ?_) ?_; (on_goal 1 => clear_value x); (on_goal 2 => subst x)) | fail)
    | with_reducible apply State.reread_sound
    | with_reducible refine foldl_snd _ ?_ ?_
    | (with_reducible apply Snd.out; with_reducible assumption)
    | with_reducible apply snd_pair

theorem State.seqBack_sound {s0 s : State} (h : Sound s0 s) {a1 a2} : Sound s0 (State.seqBack s a1 a2) := by
  have e := @rfl _ @State.seqBack
  conv at e => rhs; delta State.seqBack
  rw [e]; clear e; beta_reduce
  repeat' first
    | with_reducible assumption
    | (fail_if_no_progress (extract_lets -underBinder +onlyGivenNames x); first | (clear_value x) | fail)
    | with_reducible apply State.setW64_sound

theorem State.sqHeadBack_sound {s0 s : State} (h : Sound s0 s) {a1 a2} : Sound s0 (State.sqHeadBack s a1 a2) := by
  have e := @rfl _ @State.sqHeadBack
  conv at e => rhs; delta State.sqHeadBack
  rw [e]; clear e; beta_reduce
  repeat' first
    | with_reducible assumption
    | (fail_if_no_progress (extract_lets -underBinder +onlyGivenNames x); first | (have hT : (type_of% x) = (State) := (by with_reducible rfl); clear hT; refine (fun (hx : Sound s0 x) => ?_) ?_; (on_goal 1 => clear_value x); (on_goal 2 => subst x)) | (clear_value x) | fail)
    | (with_reducible apply sound_ite <;> intro)
    | with_reducible apply State.setReg_sound
    | (with_reducible refine Sound.upd ?_ ?_; (on_goal 2 => with_reducible rfl); with_reducible assumption)
    | split

theorem State.lostOpen_sound {s0 s : State} (h : Sound s0 s) {a1 a2} : Sound s0 (State.lostOpen s a1 a2) := by
  have e := @rfl _ @State.lostOpen
  conv at e => rhs; delta State.lostOpen
  rw [e]; clear e; beta_reduce
  repeat' first
    | with_reducible assumption
    | (fail_if_no_progress (extract_lets -underBinder +onlyGivenNames x); first | (have hT : (type_of% x) = (State) := (by with_reducible rfl); clear hT; refine (fun (hx : Sound s0 x) => ?_) ?_; (on_goal 1 => clear_value x); (on_goal 2 => subst x)) | (clear_value x) | fail)
    | with_reducible apply State.jSet_sound
    | with_reducible apply State.errRec_sound
    | with_reducible apply State.incReg_sound
    | with_reducible apply State.updOpen_sound

theorem State.entriesBack_sound {s0 s : State} (h : Sound s0 s) {a1 a2} : Sound s0 (State.entriesBack s a1 a2) := by
  have e := @rfl _ @State.entriesBack
  conv at e => rhs; delta State.entriesBack
  rw [e]; clear e; beta_reduce
  repeat' first
    | with_reducible assumption
    | intro _ _ _
    | (fail_if_no_progress (extract_lets -underBinder +onlyGivenNames x); first | (have hT : (type_of% x) = (State) := (by with_reducible rfl); clear hT; refine (fun (hx : Sound s0 x) => ?_) ?_; (on_goal 1 => clear_value x); (on_goal 2 => subst x)) | (have hT : (type_of% x) = (Nat) := (by with_reducible rfl); clear hT; clear_value x) | (have hT : (type_of% x) = (BitVec 32) := (by with_reducible rfl); clear hT; clear_value x) | (clear_value x) | fail)
    | (with_reducible apply sound_ite <;> intro)
    | with_reducible apply State.cqStore_sound
    | with_reducible apply State.jSet_sound
    | with_reducible apply State.releaseHeld_sound
    | with_reducible refine State.each_sound ?_ _ ?_
    | (with_reducible refine Sound.upd ?_ ?_; (on_goal 2 => with_reducible rfl); with_reducible assumption)

theorem State.headsBack_sound {s0 s : State} (h : Sound s0 s) : Sound s0 (State.headsBack s) := by
  have e := @rfl _ @State.headsBack
  conv at e => rhs; delta State.headsBack
  rw [e]; clear e; beta_reduce
  repeat' first
    | with_reducible assumption
    | intro _ _ _
    | (fail_if_no_progress (extract_lets -underBinder +onlyGivenNames x); first | (have hT : (type_of% x) = (State) := (by with_reducible rfl); clear hT; refine (fun (hx : Sound s0 x) => ?_) ?_; (on_goal 1 => clear_value x); (on_goal 2 => subst x)) | (have hT : ∃ α : Type, (type_of% x) = (α × State) := ⟨_, rfl⟩; clear hT; refine (fun (hx : Snd s0 x) => ?_) ?_; (on_goal 1 => clear_value x); (on_goal 2 => subst x)) | fail)
    | (with_reducible apply sound_ite <;> intro)
    | with_reducible apply State.recRead_sound
    | with_reducible apply State.restoreHead_sound
    | with_reducible apply State.setRsv_sound
    | with_reducible refine State.each_sound ?_ _ ?_
    | (with_reducible apply Snd.out; with_reducible assumption)
    | split

theorem State.replayThese_sound {s0 s : State} (h : Sound s0 s) {a1} : Sound s0 (State.replayThese s a1) := by
  have e := @rfl _ @State.replayThese
  conv at e => rhs; delta State.replayThese
  rw [e]; clear e; beta_reduce
  repeat' first
    | (fail_if_no_progress (extract_lets -underBinder +onlyGivenNames x); first | (clear_value x) | fail)
    | (with_reducible refine Sound.upd ?_ ?_; (on_goal 2 => with_reducible rfl); with_reducible assumption)

theorem State.recoveryNote_sound {s0 s : State} (h : Sound s0 s) {a1 a2 a3} : Sound s0 (State.recoveryNote s a1 a2 a3) := by
  have e := @rfl _ @State.recoveryNote
  conv at e => rhs; delta State.recoveryNote
  rw [e]; clear e; beta_reduce
  repeat' first
    | with_reducible assumption
    | (fail_if_no_progress (extract_lets -underBinder +onlyGivenNames x); first | (have hT : (type_of% x) = (State) := (by with_reducible rfl); clear hT; refine (fun (hx : Sound s0 x) => ?_) ?_; (on_goal 1 => clear_value x); (on_goal 2 => subst x)) | fail)
    | (with_reducible apply sound_ite <;> intro)
    | with_reducible apply State.setReg_sound
    | with_reducible apply State.setF_sound

theorem State.recoverWarm_sound {s0 s : State} (h : Sound s0 s) : Sound s0 (State.recoverWarm s) := by
  have e := @rfl _ @State.recoverWarm
  conv at e => rhs; delta State.recoverWarm
  rw [e]; clear e; beta_reduce
  repeat' first
    | with_reducible assumption
    | intro _ _ _
    | (fail_if_no_progress (extract_lets -underBinder +onlyGivenNames x); first | (have hT : (type_of% x) = (State) := (by with_reducible rfl); clear hT; refine (fun (hx : Sound s0 x) => ?_) ?_; (on_goal 1 => clear_value x); (on_goal 2 => subst x)) | (have hT : (type_of% x) = (List Nat) := (by with_reducible rfl); clear hT; clear_value x) | (have hT : ∃ α : Type, (type_of% x) = (α × State) := ⟨_, rfl⟩; clear hT; refine (fun (hx : Snd s0 x) => ?_) ?_; (on_goal 1 => clear_value x); (on_goal 2 => subst x)) | (clear_value x) | fail)
    | (with_reducible apply sound_ite <;> intro)
    | with_reducible apply State.jScan_sound
    | with_reducible apply State.setReg_sound
    | with_reducible apply State.rereadAll_sound
    | with_reducible apply State.seqBack_sound
    | with_reducible apply State.sqHeadBack_sound
    | with_reducible apply State.lostOpen_sound
    | with_reducible apply State.entriesBack_sound
    | with_reducible apply State.headsBack_sound
    | with_reducible apply State.replayThese_sound
    | with_reducible apply State.recoveryNote_sound
    | with_reducible apply State.setB_sound
    | with_reducible refine State.each_sound ?_ _ ?_
    | (with_reducible apply Snd.out; with_reducible assumption)
    | (with_reducible refine Sound.upd ?_ ?_; (on_goal 2 => with_reducible rfl); with_reducible assumption)

theorem State.powerOff_sound {s0 s : State} (h : Sound s0 s) : Sound s0 (State.powerOff s) := by
  have e := @rfl _ @State.powerOff
  conv at e => rhs; delta State.powerOff
  rw [e]; clear e; beta_reduce
  repeat' first
    | with_reducible assumption
    | (fail_if_no_progress (extract_lets -underBinder +onlyGivenNames x); first | (have hT : (type_of% x) = (State) := (by with_reducible rfl); clear hT; refine (fun (hx : Sound s0 x) => ?_) ?_; (on_goal 1 => clear_value x); (on_goal 2 => subst x)) | fail)
    | with_reducible apply State.coldKeep_sound
    | (with_reducible refine Sound.upd ?_ ?_; (on_goal 2 => with_reducible rfl); with_reducible assumption)

theorem State.pwrTick_sound {s0 s : State} (h : Sound s0 s) {a1} : Sound s0 (State.pwrTick s a1) := by
  have e := @rfl _ @State.pwrTick
  conv at e => rhs; delta State.pwrTick
  rw [e]; clear e; beta_reduce
  repeat' first
    | with_reducible assumption
    | (with_reducible apply sound_ite <;> intro)
    | with_reducible apply State.powerOff_sound
    | (with_reducible refine Sound.upd ?_ ?_; (on_goal 2 => with_reducible rfl); with_reducible assumption)
    | split

theorem State.xtal_sound {s0 s : State} (h : Sound s0 s) : Sound s0 (State.xtal s) := by
  have e := @rfl _ @State.xtal
  conv at e => rhs; delta State.xtal
  rw [e]; clear e; beta_reduce
  repeat' first
    | with_reducible assumption
    | with_reducible apply State.setB_sound

theorem State.coreRestart_sound {s0 s : State} (h : Sound s0 s) {a1} : Sound s0 (State.coreRestart s a1) := by
  have e := @rfl _ @State.coreRestart
  conv at e => rhs; delta State.coreRestart
  rw [e]; clear e; beta_reduce
  repeat' first
    | with_reducible assumption
    | intro _ _ _
    | (fail_if_no_progress (extract_lets -underBinder +onlyGivenNames x); first | (have hT : (type_of% x) = (State) := (by with_reducible rfl); clear hT; refine (fun (hx : Sound s0 x) => ?_) ?_; (on_goal 1 => clear_value x); (on_goal 2 => subst x)) | (have hT : (type_of% x) = (List Nat) := (by with_reducible rfl); clear hT; clear_value x) | (have hT : (type_of% x) = (Attic) := (by with_reducible rfl); clear hT) | (clear_value x) | fail)
    | (with_reducible apply sound_ite <;> intro)
    | with_reducible apply State.setB_sound
    | with_reducible apply State.fwLoad_sound
    | with_reducible apply State.musReset_sound
    | with_reducible apply State.updMt_sound
    | with_reducible apply State.replayThese_sound
    | with_reducible apply State.receiptsTake_sound
    | with_reducible apply State.recoveryNote_sound
    | with_reducible refine State.each_sound ?_ _ ?_
    | (with_reducible refine Sound.upd ?_ ?_; (on_goal 2 => with_reducible rfl); with_reducible assumption)
    | split

theorem State.warmBase_sound {s0 s : State} (h : Sound s0 s) : Sound s0 (State.warmBase s) :=
  ⟨h.pending, h.fuses, fun c => by
    obtain ⟨r1, r2, r3, r4, r5, r6⟩ := (canonical_iff s).1 (h.canon c)
    exact (canonical_iff _).2 ⟨Tbl.wf_filter _ _ _ r1, Tbl.wf_filter _ _ _ r2, rfl, r4, r5, r6⟩⟩

theorem State.warmKeep_sound {s0 s : State} (h : Sound s0 s) : Sound s0 (State.warmKeep s) := by
  have e := @rfl _ @State.warmKeep
  conv at e => rhs; delta State.warmKeep
  rw [e]; clear e; beta_reduce
  repeat' first
    | with_reducible assumption
    | intro _ _ _
    | (fail_if_no_progress (extract_lets -underBinder +onlyGivenNames x); first | (have hT : (type_of% x) = (State) := (by with_reducible rfl); clear hT; refine (fun (hx : Sound s0 x) => ?_) ?_; (on_goal 1 => clear_value x); (on_goal 2 => subst x)) | (clear_value x) | fail)
    | with_reducible apply State.warmBase_sound
    | with_reducible apply State.setHead_sound
    | with_reducible apply State.setB_sound
    | with_reducible apply State.setCore_sound
    | with_reducible apply State.setReg_sound
    | with_reducible apply State.selfRefresh_sound
    | with_reducible refine State.each_sound ?_ _ ?_
    | (with_reducible refine Sound.upd ?_ ?_; (on_goal 2 => with_reducible rfl); with_reducible assumption)

theorem State.coldBoot_sound {s0 s : State} (h : Sound s0 s) {a1} : Sound s0 (State.coldBoot s a1) := by
  have e := @rfl _ @State.coldBoot
  conv at e => rhs; delta State.coldBoot
  rw [e]; clear e; beta_reduce
  repeat' first
    | with_reducible assumption
    | (fail_if_no_progress (extract_lets -underBinder +onlyGivenNames x); first | (have hT : (type_of% x) = (State) := (by with_reducible rfl); clear hT; refine (fun (hx : Sound s0 x) => ?_) ?_; (on_goal 1 => clear_value x); (on_goal 2 => subst x)) | fail)
    | (with_reducible apply sound_ite <;> intro)
    | with_reducible apply State.powerOff_sound
    | with_reducible apply State.bootUp_sound
    | (with_reducible refine Sound.upd ?_ ?_; (on_goal 2 => with_reducible rfl); with_reducible assumption)
    | split

theorem State.flr_sound {s0 s : State} (h : Sound s0 s) {a1} : Sound s0 (State.flr s a1) := by
  have e := @rfl _ @State.flr
  conv at e => rhs; delta State.flr
  rw [e]; clear e; beta_reduce
  repeat' first
    | with_reducible assumption
    | intro _ _ _
    | (fail_if_no_progress (extract_lets -underBinder +onlyGivenNames x); first | (have hT : (type_of% x) = (State) := (by with_reducible rfl); clear hT; refine (fun (hx : Sound s0 x) => ?_) ?_; (on_goal 1 => clear_value x); (on_goal 2 => subst x)) | (have hT : (type_of% x) = (List Nat) := (by with_reducible rfl); clear hT; clear_value x) | (clear_value x) | fail)
    | (with_reducible apply sound_ite <;> intro)
    | with_reducible apply State.belFlr_sound
    | with_reducible apply State.setReg_sound
    | with_reducible refine State.each_sound ?_ _ ?_
    | with_reducible refine foldl_sound _ ?_ ?_
    | (with_reducible refine Sound.upd ?_ ?_; (on_goal 2 => with_reducible rfl); with_reducible assumption)

theorem State.readySet_sound {s0 s : State} (h : Sound s0 s) : Sound s0 (State.readySet s) := by
  have e := @rfl _ @State.readySet
  conv at e => rhs; delta State.readySet
  rw [e]; clear e; beta_reduce
  repeat' first
    | with_reducible assumption
    | intro _ _ _
    | (fail_if_no_progress (extract_lets -underBinder +onlyGivenNames x); first | (have hT : (type_of% x) = (State) := (by with_reducible rfl); clear hT; refine (fun (hx : Sound s0 x) => ?_) ?_; (on_goal 1 => clear_value x); (on_goal 2 => subst x)) | (have hT : (type_of% x) = (BitVec 64) := (by with_reducible rfl); clear hT; clear_value x) | fail)
    | (with_reducible apply sound_ite <;> intro)
    | with_reducible apply State.setB_sound
    | with_reducible apply State.setReg_sound
    | with_reducible apply State.portsHeadOn_sound
    | with_reducible refine State.each_sound ?_ _ ?_
    | (with_reducible refine Sound.upd ?_ ?_; (on_goal 2 => with_reducible rfl); with_reducible assumption)

theorem State.pwrFall_sound {s0 s : State} (h : Sound s0 s) : Sound s0 (State.pwrFall s) := by
  have e := @rfl _ @State.pwrFall
  conv at e => rhs; delta State.pwrFall
  rw [e]; clear e; beta_reduce
  repeat' first
    | with_reducible assumption
    | (with_reducible apply sound_ite <;> intro)
    | (with_reducible refine Sound.upd ?_ ?_; (on_goal 2 => with_reducible rfl); with_reducible assumption)

theorem beginUnitReset_sound {s0 s : State} (h : Sound s0 s) {a0} : Snd s0 (beginUnitReset a0 s) := by
  have e := @rfl _ @beginUnitReset
  conv at e => rhs; delta beginUnitReset
  rw [e]; clear e; beta_reduce
  repeat' first
    | with_reducible assumption
    | (fail_if_no_progress (extract_lets -underBinder +onlyGivenNames x); first | (have hT : (type_of% x) = (Nat) := (by with_reducible rfl); clear hT; clear_value x) | (have hT : (type_of% x) = (Option Nat) := (by with_reducible rfl); clear hT; clear_value x) | fail)
    | split
    | with_reducible apply snd_pair

theorem State.headReset_sound {s0 s : State} (h : Sound s0 s) {a1} : Sound s0 (State.headReset s a1) := by
  have e := @rfl _ @State.headReset
  conv at e => rhs; delta State.headReset
  rw [e]; clear e; beta_reduce
  repeat' first
    | with_reducible assumption
    | intro _ _ _
    | (fail_if_no_progress (extract_lets -underBinder +onlyGivenNames x); first | (have hT : (type_of% x) = (State) := (by with_reducible rfl); clear hT; refine (fun (hx : Sound s0 x) => ?_) ?_; (on_goal 1 => clear_value x); (on_goal 2 => subst x)) | fail)
    | with_reducible apply State.stopHead_sound
    | with_reducible apply State.followLeader_sound
    | with_reducible apply State.setCm_sound
    | with_reducible apply State.setHd_sound
    | with_reducible apply State.setReg_sound
    | with_reducible apply State.setB_sound
    | with_reducible apply State.updHead_sound
    | with_reducible apply State.recHead_sound
    | with_reducible apply State.expertSwapped_sound
    | with_reducible refine State.each_sound ?_ _ ?_
    | with_reducible refine foldl_sound _ ?_ ?_

theorem State.warmReset_sound {s0 s : State} (h : Sound s0 s) {a1} : Sound s0 (State.warmReset s a1) := by
  have e := @rfl _ @State.warmReset
  conv at e => rhs; delta State.warmReset
  rw [e]; clear e; beta_reduce
  repeat' first
    | with_reducible assumption
    | intro _ _ _
    | (fail_if_no_progress (extract_lets -underBinder +onlyGivenNames x); first | (have hT : (type_of% x) = (State) := (by with_reducible rfl); clear hT; refine (fun (hx : Sound s0 x) => ?_) ?_; (on_goal 1 => clear_value x); (on_goal 2 => subst x)) | fail)
    | (with_reducible apply sound_ite <;> intro)
    | with_reducible apply State.audShow_sound
    | with_reducible apply State.bootChain_sound
    | with_reducible apply State.warmKeep_sound
    | with_reducible apply State.errDrain_sound
    | with_reducible apply State.refreshAll_sound
    | with_reducible apply State.mantelReadmit_sound
    | with_reducible apply State.recoverWarm_sound
    | with_reducible refine State.each_sound ?_ _ ?_

theorem State.trip_sound {s0 s : State} (h : Sound s0 s) {a1} : Sound s0 (State.trip s a1) := by
  have e := @rfl _ @State.trip
  conv at e => rhs; delta State.trip
  rw [e]; clear e; beta_reduce
  repeat' first
    | with_reducible assumption
    | (fail_if_no_progress (extract_lets -underBinder +onlyGivenNames x); first | (have hT : (type_of% x) = (State) := (by with_reducible rfl); clear hT; refine (fun (hx : Sound s0 x) => ?_) ?_; (on_goal 1 => clear_value x); (on_goal 2 => subst x)) | (have hT : (type_of% x) = (Nat) := (by with_reducible rfl); clear hT; clear_value x) | fail)
    | (with_reducible apply sound_ite <;> intro)
    | with_reducible apply State.setW64_sound
    | with_reducible apply State.setReg_sound
    | with_reducible apply State.selfRefresh_sound
    | (with_reducible refine Sound.upd ?_ ?_; (on_goal 2 => with_reducible rfl); with_reducible assumption)

theorem State.tripRelease_sound {s0 s : State} (h : Sound s0 s) {a1} : Sound s0 (State.tripRelease s a1) := by
  have e := @rfl _ @State.tripRelease
  conv at e => rhs; delta State.tripRelease
  rw [e]; clear e; beta_reduce
  repeat' first
    | with_reducible assumption
    | (fail_if_no_progress (extract_lets -underBinder +onlyGivenNames x); first | (have hT : (type_of% x) = (State) := (by with_reducible rfl); clear hT; refine (fun (hx : Sound s0 x) => ?_) ?_; (on_goal 1 => clear_value x); (on_goal 2 => subst x)) | (have hT : (type_of% x) = (Nat) := (by with_reducible rfl); clear hT; clear_value x) | (have hT : (type_of% x) = (BitVec 64) := (by with_reducible rfl); clear hT; clear_value x) | (clear_value x) | fail)
    | (with_reducible apply sound_ite <;> intro)
    | with_reducible apply State.setReg_sound
    | with_reducible apply State.setB_sound
    | with_reducible apply State.warmReset_sound
    | with_reducible apply State.errRec_sound
    | (with_reducible refine Sound.upd ?_ ?_; (on_goal 2 => with_reducible rfl); with_reducible assumption)

theorem State.resetUnit_sound {s0 s : State} (h : Sound s0 s) {a1} : Sound s0 (State.resetUnit s a1) := by
  have e := @rfl _ @State.resetUnit
  conv at e => rhs; delta State.resetUnit
  rw [e]; clear e; beta_reduce
  repeat' first
    | with_reducible assumption
    | (with_reducible apply sound_ite <;> intro)
    | with_reducible apply State.headReset_sound
    | with_reducible apply State.belReset_sound
    | with_reducible apply State.tmbReset_sound
    | with_reducible apply State.psqReset_sound
    | with_reducible apply State.dwReset_sound
    | with_reducible apply State.rectReset_sound
    | with_reducible apply State.musReset_sound
    | with_reducible apply State.dplReset_sound
    | split

theorem State.unitReset_sound {s0 s : State} (h : Sound s0 s) {a1} : Sound s0 (State.unitReset s a1) := by
  have e := @rfl _ @State.unitReset
  conv at e => rhs; delta State.unitReset
  rw [e]; clear e; beta_reduce
  repeat' first
    | with_reducible assumption
    | intro _ _ _
    | (fail_if_no_progress (extract_lets -underBinder +onlyGivenNames x); first | (have hT : (type_of% x) = (State) := (by with_reducible rfl); clear hT; refine (fun (hx : Sound s0 x) => ?_) ?_; (on_goal 1 => clear_value x); (on_goal 2 => subst x)) | (have hT : (type_of% x) = (Nat) := (by with_reducible rfl); clear hT; clear_value x) | (have hT : (type_of% x) = (List Nat) := (by with_reducible rfl); clear hT; clear_value x) | (clear_value x) | fail)
    | with_reducible apply State.resetUnit_sound
    | with_reducible apply State.updOpen_sound
    | with_reducible apply State.replayThese_sound
    | with_reducible apply State.recoveryNote_sound
    | with_reducible refine State.each_sound ?_ _ ?_

theorem State.journalStart_sound {s0 s : State} (h : Sound s0 s) : Sound s0 (State.journalStart s) := by
  have e := @rfl _ @State.journalStart
  conv at e => rhs; delta State.journalStart
  rw [e]; clear e; beta_reduce
  repeat' first
    | with_reducible assumption
    | (fail_if_no_progress (extract_lets -underBinder +onlyGivenNames x); first | (have hT : (type_of% x) = (State) := (by with_reducible rfl); clear hT; refine (fun (hx : Sound s0 x) => ?_) ?_; (on_goal 1 => clear_value x); (on_goal 2 => subst x)) | (have hT : (type_of% x) = (Nat) := (by with_reducible rfl); clear hT; clear_value x) | (have hT : (type_of% x) = (BitVec 32) := (by with_reducible rfl); clear hT; clear_value x) | fail)
    | with_reducible apply State.setReg_sound
    | with_reducible apply State.celPut_sound
    | with_reducible apply State.setAddr40_sound
    | split

theorem State.trained_sound {s0 s : State} (h : Sound s0 s) {a1} : Sound s0 (State.trained s a1) := by
  have e := @rfl _ @State.trained
  conv at e => rhs; delta State.trained
  rw [e]; clear e; beta_reduce
  repeat' first
    | with_reducible assumption
    | intro _ _ _
    | (fail_if_no_progress (extract_lets -underBinder +onlyGivenNames x); first | (have hT : (type_of% x) = (State) := (by with_reducible rfl); clear hT; refine (fun (hx : Sound s0 x) => ?_) ?_; (on_goal 1 => clear_value x); (on_goal 2 => subst x)) | (have hT : (type_of% x) = (Nat) := (by with_reducible rfl); clear hT; clear_value x) | (have hT : (type_of% x) = (BitVec 32) := (by with_reducible rfl); clear hT; clear_value x) | (have hT : (type_of% x) = (Bool) := (by with_reducible rfl); clear hT; clear_value x) | (have hT : (type_of% x) = (List Nat) := (by with_reducible rfl); clear hT; clear_value x) | (clear_value x) | fail)
    | (with_reducible apply sound_ite <;> intro)
    | with_reducible apply State.setReg_sound
    | with_reducible apply State.errRec_sound
    | with_reducible apply State.journalStart_sound
    | with_reducible refine State.each_sound ?_ _ ?_
    | (with_reducible refine Sound.upd ?_ ?_; (on_goal 2 => with_reducible rfl); with_reducible assumption)
    | split

theorem State.warmAssert_sound {s0 s : State} (h : Sound s0 s) {a1} : Sound s0 (State.warmAssert s a1) := by
  have e := @rfl _ @State.warmAssert
  conv at e => rhs; delta State.warmAssert
  rw [e]; clear e; beta_reduce
  repeat' first
    | with_reducible assumption
    | (fail_if_no_progress (extract_lets -underBinder +onlyGivenNames x); first | (clear_value x) | fail)
    | with_reducible apply State.warmReset_sound
    | (with_reducible refine Sound.upd ?_ ?_; (on_goal 2 => with_reducible rfl); with_reducible assumption)
    | split

end Sys2Proof.Machine
end

