-- ==== Sys2Proof/Laws/VaileSound.lean ====
section
/-! SUPPORT. The operations of Machine/Vaile.lean are sound: see Laws/Sound.lean. -/

set_option linter.all false

namespace Sys2Proof.Machine

theorem eachMoved_sound {s0 s : State} (h : Sound s0 s) {f : State → Nat → Bool × State} {l : List Nat}
    (hf : ∀ t n, Sound s0 t → Snd s0 (f t n)) : Snd s0 (eachMoved f l s) :=
  foldl_snd l (snd_pair h) fun p n hp => snd_pair (hf _ _ hp.out).out

theorem beginOp_sound {s0 s : State} (h : Sound s0 s) {a0} : Snd s0 (beginOp a0 s) := by
  have e := @rfl _ @beginOp
  conv at e => rhs; delta beginOp
  rw [e]; clear e; beta_reduce
  repeat' first
    | with_reducible assumption
    | with_reducible apply beginFence_sound
    | with_reducible apply beginFeaturesGet_sound
    | with_reducible apply beginExpertEnter_sound
    | with_reducible apply beginExpertLeave_sound
    | with_reducible apply beginMemRegionSet_sound
    | with_reducible apply beginMemOp_sound
    | with_reducible apply resumeAssetLoad_sound
    | with_reducible apply beginAssetLoad_sound
    | with_reducible apply beginAssetUnseal_sound
    | with_reducible apply beginErrlogRead_sound
    | with_reducible apply beginHeadTiming_sound
    | with_reducible apply beginHeadEnable_sound
    | with_reducible apply beginHeadDisable_sound
    | with_reducible apply beginHeadCommit_sound
    | with_reducible apply beginPlaneSet_sound
    | with_reducible apply beginSpriteTable_sound
    | with_reducible apply beginBeamListSet_sound
    | with_reducible apply beginComposeSet_sound
    | with_reducible apply beginLutLoad_sound
    | with_reducible apply beginCanvasSet_sound
    | with_reducible apply beginRouteSet_sound
    | with_reducible apply beginCrcRectSet_sound
    | with_reducible apply beginWritebackSet_sound
    | with_reducible apply beginMantelSet_sound
    | with_reducible apply beginRectFill_sound
    | with_reducible apply beginRectCopy_sound
    | with_reducible apply beginRectConvert_sound
    | with_reducible apply beginDmaChainStart_sound
    | with_reducible apply beginDmaStop_sound
    | with_reducible apply beginVoiceStart_sound
    | with_reducible apply beginVoiceStop_sound
    | with_reducible apply beginVoiceParam_sound
    | with_reducible apply beginMixGraphLoad_sound
    | with_reducible apply beginMixParamSet_sound
    | with_reducible apply beginMixCommit_sound
    | with_reducible apply beginAudioPortSet_sound
    | with_reducible apply beginTimerCompareArm_sound
    | with_reducible apply beginTimerCaptureSet_sound
    | with_reducible apply beginPinseqLoad_sound
    | with_reducible apply beginPinseqStart_sound
    | with_reducible apply beginPinseqStop_sound
    | with_reducible apply beginNioftLoad_sound
    | with_reducible apply beginNioftStart_sound
    | with_reducible apply beginNioftStop_sound
    | with_reducible apply beginAttestQuote_sound
    | with_reducible apply beginBootlogRead_sound
    | with_reducible apply beginReceiptConfig_sound
    | with_reducible apply beginReceiptRead_sound
    | with_reducible apply beginUnitReset_sound
    | with_reducible apply beginPowerState_sound
    | with_reducible apply beginTelemetryConfig_sound
    | with_reducible apply beginClockPolicy_sound
    | split
    | with_reducible apply snd_pair

theorem beginCmd_sound {s0 s : State} (h : Sound s0 s) {a0} : Snd s0 (beginCmd a0 s) := by
  have e := @rfl _ @beginCmd
  conv at e => rhs; delta beginCmd
  rw [e]; clear e; beta_reduce
  repeat' first
    | with_reducible assumption
    | (with_reducible apply snd_ite <;> intro)
    | with_reducible apply beginOp_sound
    | split
    | with_reducible apply snd_pair

theorem State.beginOne_sound {s0 s : State} (h : Sound s0 s) {a1} : Snd s0 (State.beginOne s a1) := by
  have e := @rfl _ @State.beginOne
  conv at e => rhs; delta State.beginOne
  rw [e]; clear e; beta_reduce
  repeat' first
    | with_reducible assumption
    | (fail_if_no_progress (extract_lets -underBinder +onlyGivenNames x); first | (have hT : ∃ α : Type, (type_of% x) = (α × State) := ⟨_, rfl⟩; clear hT; refine (fun (hx : Snd s0 x) => ?_) ?_; (on_goal 1 => clear_value x); (on_goal 2 => subst x)) | fail)
    | (with_reducible apply snd_ite <;> intro)
    | with_reducible apply beginCmd_sound
    | with_reducible apply State.updOpen_sound
    | (with_reducible apply Snd.out; with_reducible assumption)
    | split
    | with_reducible apply snd_pair

theorem State.settleOne_sound {s0 s : State} (h : Sound s0 s) {a1} : Snd s0 (State.settleOne s a1) := by
  have e := @rfl _ @State.settleOne
  conv at e => rhs; delta State.settleOne
  rw [e]; clear e; beta_reduce
  repeat' first
    | with_reducible assumption
    | (with_reducible apply snd_ite <;> intro)
    | with_reducible apply State.finishAcc_sound
    | split
    | with_reducible apply snd_pair

theorem State.atCommit_sound {s0 s : State} (h : Sound s0 s) {a1 a2} : Snd s0 (State.atCommit s a1 a2) := by
  have e := @rfl _ @State.atCommit
  conv at e => rhs; delta State.atCommit
  rw [e]; clear e; beta_reduce
  repeat' first
    | with_reducible assumption
    | intro _ _ _
    | (with_reducible apply snd_ite <;> intro)
    | with_reducible apply State.recHead_sound
    | with_reducible apply State.featuresSet_sound
    | with_reducible apply State.expertCommit_sound
    | with_reducible apply State.expertLeave_sound
    | with_reducible apply State.errMark_sound
    | with_reducible apply State.unitReset_sound
    | with_reducible apply State.powerCommit_sound
    | with_reducible refine State.each_sound ?_ _ ?_
    | split
    | with_reducible apply snd_pair

theorem State.completeOne_sound {s0 s : State} (h : Sound s0 s) {a1} : Snd s0 (State.completeOne s a1) := by
  have e := @rfl _ @State.completeOne
  conv at e => rhs; delta State.completeOne
  rw [e]; clear e; beta_reduce
  repeat' first
    | with_reducible assumption
    | (fail_if_no_progress (extract_lets -underBinder +onlyGivenNames x); first | (have hT : ∃ α : Type, (type_of% x) = (α × State) := ⟨_, rfl⟩; clear hT; refine (fun (hx : Snd s0 x) => ?_) ?_; (on_goal 1 => clear_value x); (on_goal 2 => subst x)) | fail)
    | with_reducible apply State.atCommit_sound
    | with_reducible apply State.complete_sound
    | (with_reducible apply Snd.out; with_reducible assumption)
    | split
    | with_reducible apply snd_pair

theorem State.pumpRound_sound {s0 s : State} (h : Sound s0 s) : Snd s0 (State.pumpRound s) := by
  unfold State.pumpRound
  extract_lets a b c
  have ha : Snd s0 a := eachMoved_sound h fun _ _ ht => State.beginOne_sound ht
  clear_value a
  have hb : Snd s0 b := eachMoved_sound ha.out fun _ _ ht => State.settleOne_sound ht
  clear_value b
  have hc : Snd s0 c := eachMoved_sound hb.out fun _ _ ht => State.completeOne_sound ht
  exact snd_pair hc.out

theorem pumpRounds_sound {s0 s : State} (h : Sound s0 s) {a0} : Sound s0 (pumpRounds a0 s) := by
  induction a0 generalizing s with
  | zero => exact h
  | succ n ih =>
    unfold pumpRounds
    extract_lets r
    have hr : Snd s0 r := State.pumpRound_sound h
    clear_value r
    split
    · exact ih hr.out
    · exact hr.out

theorem State.carryOn_sound {s0 s : State} (h : Sound s0 s) : Sound s0 (State.carryOn s) := by
  have e := @rfl _ @State.carryOn
  conv at e => rhs; delta State.carryOn
  rw [e]; clear e; beta_reduce
  repeat' first
    | with_reducible assumption
    | (fail_if_no_progress (extract_lets -underBinder +onlyGivenNames x); first | (have hT : (type_of% x) = (State) := (by with_reducible rfl); clear hT; refine (fun (hx : Sound s0 x) => ?_) ?_; (on_goal 1 => clear_value x); (on_goal 2 => subst x)) | fail)
    | (with_reducible apply sound_ite <;> intro)
    | with_reducible apply pumpRounds_sound
    | with_reducible apply State.setB_sound

theorem State.pump_sound {s0 s : State} (h : Sound s0 s) : Sound s0 (State.pump s) := by
  have e := @rfl _ @State.pump
  conv at e => rhs; delta State.pump
  rw [e]; clear e; beta_reduce
  repeat' first
    | with_reducible assumption
    | (with_reducible apply sound_ite <;> intro)
    | with_reducible apply State.carryOn_sound

theorem State.sqAdvance_sound {s0 s : State} (h : Sound s0 s) {a1 a2} : Sound s0 (State.sqAdvance s a1 a2) := by
  have e := @rfl _ @State.sqAdvance
  conv at e => rhs; delta State.sqAdvance
  rw [e]; clear e; beta_reduce
  repeat' first
    | with_reducible assumption
    | with_reducible apply State.setReg_sound

theorem State.replyNow_sound {s0 s : State} (h : Sound s0 s) {a1 a2} : Sound s0 (State.replyNow s a1 a2) := by
  have e := @rfl _ @State.replyNow
  conv at e => rhs; delta State.replyNow
  rw [e]; clear e; beta_reduce
  repeat' first
    | with_reducible assumption
    | with_reducible apply State.putEntry_sound

theorem State.duplicate_sound {s0 s : State} (h : Sound s0 s) {a1} : Sound s0 (State.duplicate s a1) := by
  have e := @rfl _ @State.duplicate
  conv at e => rhs; delta State.duplicate
  rw [e]; clear e; beta_reduce
  repeat' first
    | with_reducible assumption
    | intro _ _
    | (fail_if_no_progress (extract_lets -underBinder +onlyGivenNames x); first | (have hT : (type_of% x) = (Nat) := (by with_reducible rfl); clear hT; clear_value x) | (have hT : ∃ α : Type, (type_of% x) = (α × State) := ⟨_, rfl⟩; clear hT; refine (fun (hx : Snd s0 x) => ?_) ?_; (on_goal 1 => clear_value x); (on_goal 2 => subst x)) | (have hT : (type_of% x) = (State → State) := (by with_reducible rfl); clear hT; refine (fun (hx : ∀ t, Sound s0 t → Sound s0 (x t)) => ?_) ?_; (on_goal 1 => clear_value x); (on_goal 2 => subst x)) | fail)
    | with_reducible apply State.updOpen_sound
    | with_reducible apply State.putEntry_sound
    | with_reducible apply State.jEntry_sound
    | with_reducible apply_assumption -exfalso -symm
    | (with_reducible apply Snd.out; with_reducible assumption)
    | split

theorem State.addOpen_sound {s0 s : State} (h : Sound s0 s) {a1} : Sound s0 (State.addOpen s a1) := by
  have e := @rfl _ @State.addOpen
  conv at e => rhs; delta State.addOpen
  rw [e]; clear e; beta_reduce
  repeat' first
    | with_reducible assumption
    | (fail_if_no_progress (extract_lets -underBinder +onlyGivenNames x); first | (have hT : (type_of% x) = (State) := (by with_reducible rfl); clear hT; refine (fun (hx : Sound s0 x) => ?_) ?_; (on_goal 1 => clear_value x); (on_goal 2 => subst x)) | (have hT : (type_of% x) = (Nat) := (by with_reducible rfl); clear hT; clear_value x) | (have hT : (type_of% x) = (BitVec 32) := (by with_reducible rfl); clear hT; clear_value x) | (clear_value x) | fail)
    | with_reducible apply State.setOpens_sound
    | (with_reducible refine Sound.upd ?_ ?_; (on_goal 2 => with_reducible rfl); with_reducible assumption)

theorem State.journaled_sound {s0 s : State} (h : Sound s0 s) {a1 a2} : Sound s0 (State.journaled s a1 a2) := by
  have e := @rfl _ @State.journaled
  conv at e => rhs; delta State.journaled
  rw [e]; clear e; beta_reduce
  repeat' first
    | with_reducible assumption
    | (fail_if_no_progress (extract_lets -underBinder +onlyGivenNames x); first | (have hT : (type_of% x) = (State) := (by with_reducible rfl); clear hT; refine (fun (hx : Sound s0 x) => ?_) ?_; (on_goal 1 => clear_value x); (on_goal 2 => subst x)) | (have hT : (type_of% x) = (Nat) := (by with_reducible rfl); clear hT; clear_value x) | (clear_value x) | fail)
    | with_reducible apply State.jSet_sound
    | with_reducible apply State.jWrite_sound
    | with_reducible apply State.setReg_sound
    | with_reducible apply State.setW64_sound

theorem State.accept_sound {s0 s : State} (h : Sound s0 s) {a1 a2 a3} : Sound s0 (State.accept s a1 a2 a3) := by
  have e := @rfl _ @State.accept
  conv at e => rhs; delta State.accept
  rw [e]; clear e; beta_reduce
  repeat' first
    | with_reducible assumption
    | with_reducible apply State.addOpen_sound
    | with_reducible apply State.journaled_sound

theorem State.intake_sound {s0 s : State} (h : Sound s0 s) {a1 a2} : Sound s0 (State.intake s a1 a2) := by
  have e := @rfl _ @State.intake
  conv at e => rhs; delta State.intake
  rw [e]; clear e; beta_reduce
  repeat' first
    | with_reducible assumption
    | (fail_if_no_progress (extract_lets -underBinder +onlyGivenNames x); first | (have hT : (type_of% x) = (State) := (by with_reducible rfl); clear hT; refine (fun (hx : Sound s0 x) => ?_) ?_; (on_goal 1 => clear_value x); (on_goal 2 => subst x)) | (have hT : (type_of% x) = (Nat) := (by with_reducible rfl); clear hT; clear_value x) | (have hT : (type_of% x) = (Bool) := (by with_reducible rfl); clear hT; clear_value x) | (have hT : (type_of% x) = (BitVec 64) := (by with_reducible rfl); clear hT; clear_value x) | (clear_value x) | fail)
    | (with_reducible apply sound_ite <;> intro)
    | with_reducible apply State.sqAdvance_sound
    | with_reducible apply State.replyNow_sound
    | with_reducible apply State.duplicate_sound
    | with_reducible apply State.accept_sound
    | (with_reducible refine Sound.upd ?_ ?_; (on_goal 2 => with_reducible rfl); with_reducible assumption)

theorem State.turn_sound {s0 s : State} (h : Sound s0 s) {a1} : Sound s0 (State.turn s a1) := by
  have e := @rfl _ @State.turn
  conv at e => rhs; delta State.turn
  rw [e]; clear e; beta_reduce
  repeat' first
    | (fail_if_no_progress (extract_lets -underBinder +onlyGivenNames x); first | (clear_value x) | fail)
    | (with_reducible refine Sound.upd ?_ ?_; (on_goal 2 => with_reducible rfl); with_reducible assumption)

theorem State.packet_sound {s0 s : State} (h : Sound s0 s) {a1 a2} : SoundU s0 (State.packet s a1 a2) := by
  have e := @rfl _ @State.packet
  conv at e => rhs; delta State.packet
  rw [e]; clear e; beta_reduce
  repeat' first
    | with_reducible assumption
    | (with_reducible apply sound_ite <;> intro)
    | with_reducible apply soundU_next
    | with_reducible apply State.carryOn_sound
    | with_reducible apply State.intake_sound
    | with_reducible apply State.turn_sound

end Sys2Proof.Machine
end

