-- ==== Sys2Proof/Laws/GatesSound.lean ====
section
/-! SUPPORT. The operations of Machine/Gates.lean are sound: see Laws/Sound.lean. -/

set_option linter.all false

namespace Sys2Proof.Machine

theorem State.idle_sound {s0 s : State} (h : Sound s0 s) : Sound s0 (State.idle s) := by
  have e := @rfl _ @State.idle
  conv at e => rhs; delta State.idle
  rw [e]; clear e; beta_reduce
  repeat' first
    | with_reducible assumption
    | (fail_if_no_progress (extract_lets -underBinder +onlyGivenNames x); first | (have hT : (type_of% x) = (Nat) := (by with_reducible rfl); clear hT; clear_value x) | (clear_value x) | fail)
    | (with_reducible apply sound_ite <;> intro)
    | with_reducible apply State.pwrTick_sound
    | with_reducible apply State.setW64_sound
    | with_reducible apply State.bar2Flush_sound
    | (with_reducible refine Sound.upd ?_ ?_; (on_goal 2 => with_reducible rfl); with_reducible assumption)

theorem State.quietly_sound {s0 s : State} (h : Sound s0 s) {ok : Bool} {f : State → State} (hf : ∀ t, Sound s0 t → Sound s0 (f t)) :
    SoundU s0 (s.quietly ok f) := by
  unfold State.quietly
  refine soundU_next ?_
  split
  · exact hf _ h
  · exact h

theorem State.working_sound {s0 s : State} (h : Sound s0 s) {ok : Bool} {f : State → State} (hf : ∀ t, Sound s0 t → Sound s0 (f t)) :
    SoundU s0 (s.working ok f) := by
  unfold State.working
  refine soundU_next ?_
  split
  · exact State.pump_sound (hf _ h)
  · exact h

end Sys2Proof.Machine
end

