-- ==== Sys2Proof/Laws/JtagSound.lean ====
section
/-! SUPPORT. The operations of Machine/Jtag.lean are sound: see Laws/Sound.lean. -/

set_option linter.all false

namespace Sys2Proof.Machine

theorem State.updTap_sound {s0 s : State} (h : Sound s0 s) {a1} : Sound s0 (State.updTap s a1) := by
  have e := @rfl _ @State.updTap
  conv at e => rhs; delta State.updTap
  rw [e]; clear e; beta_reduce
  repeat' (with_reducible refine Sound.upd ?_ ?_; (on_goal 2 => with_reducible rfl); with_reducible assumption)

theorem State.tapAct_sound {s0 s : State} (h : Sound s0 s) {a1} : Sound s0 (State.tapAct s a1) := by
  have e := @rfl _ @State.tapAct
  conv at e => rhs; delta State.tapAct
  rw [e]; clear e; beta_reduce
  repeat' first
    | with_reducible assumption
    | (fail_if_no_progress (extract_lets -underBinder +onlyGivenNames x); first | (have hT : (type_of% x) = (State) := (by with_reducible rfl); clear hT; refine (fun (hx : Sound s0 x) => ?_) ?_; (on_goal 1 => clear_value x); (on_goal 2 => subst x)) | fail)
    | with_reducible apply State.updTap_sound
    | (with_reducible refine Sound.upd ?_ ?_; (on_goal 2 => with_reducible rfl); with_reducible assumption)
    | split

theorem State.tck_sound {s0 s : State} (h : Sound s0 s) {a1 a2} : Sound s0 (State.tck s a1 a2) := by
  have e := @rfl _ @State.tck
  conv at e => rhs; delta State.tck
  rw [e]; clear e; beta_reduce
  repeat' first
    | with_reducible assumption
    | (fail_if_no_progress (extract_lets -underBinder +onlyGivenNames x); first | (have hT : (type_of% x) = (State) := (by with_reducible rfl); clear hT; refine (fun (hx : Sound s0 x) => ?_) ?_; (on_goal 1 => clear_value x); (on_goal 2 => subst x)) | fail)
    | with_reducible apply State.updTap_sound
    | with_reducible apply State.tapAct_sound
    | split

theorem State.trst_sound {s0 s : State} (h : Sound s0 s) : Sound s0 (State.trst s) := by
  have e := @rfl _ @State.trst
  conv at e => rhs; delta State.trst
  rw [e]; clear e; beta_reduce
  repeat' first
    | with_reducible assumption
    | with_reducible apply State.updTap_sound

end Sys2Proof.Machine
end

