-- ==== Sys2Proof/Laws/BoardRowsSound.lean ====
section
/-! SUPPORT. The operations of Machine/BoardRows.lean are sound: see Laws/Sound.lean. -/

set_option linter.all false

namespace Sys2Proof.Machine

theorem execCellarTrainingDone_sound {s0 s : State} (h : Sound s0 s) {a0} : SoundU s0 (execCellarTrainingDone a0 s) := by
  have e := @rfl _ @execCellarTrainingDone
  conv at e => rhs; delta execCellarTrainingDone
  rw [e]; clear e; beta_reduce
  repeat' first
    | with_reducible assumption
    | with_reducible apply soundU_next
    | with_reducible apply State.trained_sound

theorem execCellarIdleSelfRefresh_sound {s0 s : State} (h : Sound s0 s) {a0} : SoundU s0 (execCellarIdleSelfRefresh a0 s) := by
  have e := @rfl _ @execCellarIdleSelfRefresh
  conv at e => rhs; delta execCellarIdleSelfRefresh
  rw [e]; clear e; beta_reduce
  repeat' first
    | with_reducible assumption
    | intro _ _
    | with_reducible apply State.quietly_sound
    | with_reducible apply State.idleChannel_sound

theorem execWakePin_sound {s0 s : State} (h : Sound s0 s) {a0 a1} : SoundU s0 (execWakePin a0 a1 s) := by
  have e := @rfl _ @execWakePin
  conv at e => rhs; delta execWakePin
  rw [e]; clear e; beta_reduce
  repeat' first
    | with_reducible assumption
    | intro _ _
    | with_reducible apply State.quietly_sound
    | with_reducible apply State.wakePin_sound

theorem State.audWrite_sound {s0 s : State} (h : Sound s0 s) {a1} : SoundU s0 (State.audWrite s a1) := by
  have e := @rfl _ @State.audWrite
  conv at e => rhs; delta State.audWrite
  rw [e]; clear e; beta_reduce
  repeat' first
    | with_reducible assumption
    | with_reducible apply soundU_next
    | with_reducible apply State.audRequest_sound

theorem execAuditQuote_sound {s0 s : State} (h : Sound s0 s) {a0} : SoundU s0 (execAuditQuote a0 s) := by
  have e := @rfl _ @execAuditQuote
  conv at e => rhs; delta execAuditQuote
  rw [e]; clear e; beta_reduce
  repeat' first
    | with_reducible assumption
    | with_reducible apply State.audWrite_sound

theorem State.audAnswer_sound {s0 s : State} (h : Sound s0 s) {a1} : Sound s0 (State.audAnswer s a1) := by
  have e := @rfl _ @State.audAnswer
  conv at e => rhs; delta State.audAnswer
  rw [e]; clear e; beta_reduce
  repeat' (with_reducible refine Sound.upd ?_ ?_; (on_goal 2 => with_reducible rfl); with_reducible assumption)

theorem execGetmwl_sound {s0 s : State} (h : Sound s0 s) : SoundU s0 (execGetmwl s) := by
  have e := @rfl _ @execGetmwl
  conv at e => rhs; delta execGetmwl
  rw [e]; clear e; beta_reduce
  repeat' first
    | with_reducible assumption
    | intro _ _
    | with_reducible apply State.quietly_sound
    | with_reducible apply State.audAnswer_sound

theorem execBootLogAppend_sound {s0 s : State} (h : Sound s0 s) {a0 a1} : SoundU s0 (execBootLogAppend a0 a1 s) := by
  have e := @rfl _ @execBootLogAppend
  conv at e => rhs; delta execBootLogAppend
  rw [e]; clear e; beta_reduce
  repeat' first
    | with_reducible assumption
    | intro _ _
    | with_reducible apply State.quietly_sound
    | with_reducible apply State.bootLogAppend_sound

theorem execAuditStatus_sound {s0 s : State} (h : Sound s0 s) {a0} : SoundU s0 (execAuditStatus a0 s) := by
  have e := @rfl _ @execAuditStatus
  conv at e => rhs; delta execAuditStatus
  rw [e]; clear e; beta_reduce
  repeat' first
    | with_reducible assumption
    | with_reducible apply State.audWrite_sound

theorem execEntdaa_sound {s0 s : State} (h : Sound s0 s) {a0} : SoundU s0 (execEntdaa a0 s) := by
  have e := @rfl _ @execEntdaa
  conv at e => rhs; delta execEntdaa
  rw [e]; clear e; beta_reduce
  repeat' first
    | with_reducible assumption
    | with_reducible apply soundU_next
    | with_reducible apply State.audAssign_sound

theorem execWarmReset_sound {s0 s : State} (h : Sound s0 s) {a0} : SoundU s0 (execWarmReset a0 s) := by
  have e := @rfl _ @execWarmReset
  conv at e => rhs; delta execWarmReset
  rw [e]; clear e; beta_reduce
  repeat' first
    | with_reducible assumption
    | with_reducible apply soundU_next
    | with_reducible apply State.warmAssert_sound

theorem execTelemetryRecord_sound {s0 s : State} (h : Sound s0 s) {a0} : SoundU s0 (execTelemetryRecord a0 s) := by
  have e := @rfl _ @execTelemetryRecord
  conv at e => rhs; delta execTelemetryRecord
  rw [e]; clear e; beta_reduce
  repeat' first
    | with_reducible assumption
    | intro _ _
    | with_reducible apply State.quietly_sound
    | with_reducible apply State.telemetry_sound

theorem execAuditCert_sound {s0 s : State} (h : Sound s0 s) {a0} : SoundU s0 (execAuditCert a0 s) := by
  have e := @rfl _ @execAuditCert
  conv at e => rhs; delta execAuditCert
  rw [e]; clear e; beta_reduce
  repeat' first
    | with_reducible assumption
    | with_reducible apply State.audWrite_sound

theorem execGetpid_sound {s0 s : State} (h : Sound s0 s) : SoundU s0 (execGetpid s) := by
  have e := @rfl _ @execGetpid
  conv at e => rhs; delta execGetpid
  rw [e]; clear e; beta_reduce
  repeat' first
    | with_reducible assumption
    | intro _ _
    | with_reducible apply State.quietly_sound
    | with_reducible apply State.audAnswer_sound

theorem execColdBoot_sound {s0 s : State} (h : Sound s0 s) {a0} : SoundU s0 (execColdBoot a0 s) := by
  have e := @rfl _ @execColdBoot
  conv at e => rhs; delta execColdBoot
  rw [e]; clear e; beta_reduce
  repeat' first
    | with_reducible assumption
    | with_reducible apply soundU_next
    | with_reducible apply State.coldBoot_sound

theorem execGetstatus_sound {s0 s : State} (h : Sound s0 s) : SoundU s0 (execGetstatus s) := by
  have e := @rfl _ @execGetstatus
  conv at e => rhs; delta execGetstatus
  rw [e]; clear e; beta_reduce
  repeat' first
    | with_reducible assumption
    | intro _ _
    | (fail_if_no_progress (extract_lets -underBinder +onlyGivenNames x); first | (have hT : (type_of% x) = (State) := (by with_reducible rfl); clear hT; refine (fun (hx : Sound s0 x) => ?_) ?_; (on_goal 1 => clear_value x); (on_goal 2 => subst x)) | fail)
    | with_reducible apply State.quietly_sound
    | with_reducible apply State.audAnswer_sound
    | (with_reducible refine Sound.upd ?_ ?_; (on_goal 2 => with_reducible rfl); with_reducible assumption)

theorem execThermalWarning_sound {s0 s : State} (h : Sound s0 s) {a0} : SoundU s0 (execThermalWarning a0 s) := by
  have e := @rfl _ @execThermalWarning
  conv at e => rhs; delta execThermalWarning
  rw [e]; clear e; beta_reduce
  repeat' first
    | with_reducible assumption
    | intro _ _
    | with_reducible apply State.quietly_sound
    | with_reducible apply State.thermal_sound

theorem execReadySet_sound {s0 s : State} (h : Sound s0 s) : SoundU s0 (execReadySet s) := by
  have e := @rfl _ @execReadySet
  conv at e => rhs; delta execReadySet
  rw [e]; clear e; beta_reduce
  repeat' first
    | with_reducible assumption
    | with_reducible apply soundU_next
    | with_reducible apply State.pump_sound
    | with_reducible apply State.readySet_sound

theorem execSetdasa_sound {s0 s : State} (h : Sound s0 s) {a0} : SoundU s0 (execSetdasa a0 s) := by
  have e := @rfl _ @execSetdasa
  conv at e => rhs; delta execSetdasa
  rw [e]; clear e; beta_reduce
  repeat' first
    | with_reducible assumption
    | with_reducible apply soundU_next
    | with_reducible apply State.audAssign_sound

theorem execPwrOkFall_sound {s0 s : State} (h : Sound s0 s) : SoundU s0 (execPwrOkFall s) := by
  have e := @rfl _ @execPwrOkFall
  conv at e => rhs; delta execPwrOkFall
  rw [e]; clear e; beta_reduce
  repeat' first
    | with_reducible assumption
    | with_reducible apply soundU_next
    | with_reducible apply State.pwrFall_sound

theorem execCoreVoltageStep_sound {s0 s : State} (h : Sound s0 s) {a0 a1} : SoundU s0 (execCoreVoltageStep a0 a1 s) := by
  have e := @rfl _ @execCoreVoltageStep
  conv at e => rhs; delta execCoreVoltageStep
  rw [e]; clear e; beta_reduce
  repeat' first
    | with_reducible assumption
    | intro _ _
    | with_reducible apply State.quietly_sound
    | with_reducible apply State.voltageStep_sound

theorem execS2LinkExit_sound {s0 s : State} (h : Sound s0 s) : SoundU s0 (execS2LinkExit s) := by
  have e := @rfl _ @execS2LinkExit
  conv at e => rhs; delta execS2LinkExit
  rw [e]; clear e; beta_reduce
  repeat' first
    | with_reducible assumption
    | with_reducible apply soundU_next
    | with_reducible apply State.pump_sound
    | with_reducible apply State.leaveS2_sound

theorem execAuditResponseReady_sound {s0 s : State} (h : Sound s0 s) : SoundU s0 (execAuditResponseReady s) := by
  have e := @rfl _ @execAuditResponseReady
  conv at e => rhs; delta execAuditResponseReady
  rw [e]; clear e; beta_reduce
  repeat' first
    | with_reducible assumption
    | intro _ _
    | with_reducible apply State.quietly_sound
    | with_reducible apply State.audReady_sound

theorem execRstdaa_sound {s0 s : State} (h : Sound s0 s) : SoundU s0 (execRstdaa s) := by
  have e := @rfl _ @execRstdaa
  conv at e => rhs; delta execRstdaa
  rw [e]; clear e; beta_reduce
  repeat' first
    | with_reducible assumption
    | with_reducible apply soundU_next
    | with_reducible apply State.audAssign_sound

theorem execGetmrl_sound {s0 s : State} (h : Sound s0 s) : SoundU s0 (execGetmrl s) := by
  have e := @rfl _ @execGetmrl
  conv at e => rhs; delta execGetmrl
  rw [e]; clear e; beta_reduce
  repeat' first
    | with_reducible assumption
    | intro _ _
    | with_reducible apply State.quietly_sound
    | with_reducible apply State.audAnswer_sound

theorem execFunctionLevelReset_sound {s0 s : State} (h : Sound s0 s) {a0} : SoundU s0 (execFunctionLevelReset a0 s) := by
  have e := @rfl _ @execFunctionLevelReset
  conv at e => rhs; delta execFunctionLevelReset
  rw [e]; clear e; beta_reduce
  repeat' first
    | with_reducible assumption
    | with_reducible apply soundU_next
    | with_reducible apply State.pump_sound
    | with_reducible apply State.flr_sound

theorem execAuditRead_sound {s0 s : State} (h : Sound s0 s) : SoundU s0 (execAuditRead s) := by
  have e := @rfl _ @execAuditRead
  conv at e => rhs; delta execAuditRead
  rw [e]; clear e; beta_reduce
  repeat' first
    | with_reducible assumption
    | intro _ _
    | (fail_if_no_progress (extract_lets -underBinder +onlyGivenNames x); first | (have hT : ∃ α : Type, (type_of% x) = (α × State) := ⟨_, rfl⟩; clear hT; refine (fun (hx : Snd s0 x) => ?_) ?_; (on_goal 1 => clear_value x); (on_goal 2 => subst x)) | fail)
    | with_reducible apply State.quietly_sound
    | with_reducible apply State.audRead_sound
    | with_reducible apply State.audAnswer_sound
    | (with_reducible apply Snd.out; with_reducible assumption)

theorem execGetbcr_sound {s0 s : State} (h : Sound s0 s) : SoundU s0 (execGetbcr s) := by
  have e := @rfl _ @execGetbcr
  conv at e => rhs; delta execGetbcr
  rw [e]; clear e; beta_reduce
  repeat' first
    | with_reducible assumption
    | intro _ _
    | with_reducible apply State.quietly_sound
    | with_reducible apply State.audAnswer_sound

theorem execRefreshDemandStep_sound {s0 s : State} (h : Sound s0 s) {a0 a1} : SoundU s0 (execRefreshDemandStep a0 a1 s) := by
  have e := @rfl _ @execRefreshDemandStep
  conv at e => rhs; delta execRefreshDemandStep
  rw [e]; clear e; beta_reduce
  repeat' first
    | with_reducible assumption
    | intro _ _
    | with_reducible apply State.quietly_sound
    | with_reducible apply State.refreshStep_sound

theorem execRailOutOfRange_sound {s0 s : State} (h : Sound s0 s) {a0} : SoundU s0 (execRailOutOfRange a0 s) := by
  have e := @rfl _ @execRailOutOfRange
  conv at e => rhs; delta execRailOutOfRange
  rw [e]; clear e; beta_reduce
  repeat' first
    | with_reducible assumption
    | intro _ _
    | with_reducible apply State.quietly_sound
    | with_reducible apply State.setB_sound

theorem execS2Entry_sound {s0 s : State} (h : Sound s0 s) : SoundU s0 (execS2Entry s) := by
  have e := @rfl _ @execS2Entry
  conv at e => rhs; delta execS2Entry
  rw [e]; clear e; beta_reduce
  repeat' first
    | with_reducible assumption
    | intro _ _
    | with_reducible apply State.quietly_sound
    | with_reducible apply State.enterS2_sound

theorem execGetdcr_sound {s0 s : State} (h : Sound s0 s) : SoundU s0 (execGetdcr s) := by
  have e := @rfl _ @execGetdcr
  conv at e => rhs; delta execGetdcr
  rw [e]; clear e; beta_reduce
  repeat' first
    | with_reducible assumption
    | intro _ _
    | with_reducible apply State.quietly_sound
    | with_reducible apply State.audAnswer_sound

theorem execXtalSwitch_sound {s0 s : State} (h : Sound s0 s) : SoundU s0 (execXtalSwitch s) := by
  have e := @rfl _ @execXtalSwitch
  conv at e => rhs; delta execXtalSwitch
  rw [e]; clear e; beta_reduce
  repeat' first
    | with_reducible assumption
    | intro _ _
    | with_reducible apply State.quietly_sound
    | with_reducible apply State.xtal_sound

theorem execAuditBatch_sound {s0 s : State} (h : Sound s0 s) {a0} : SoundU s0 (execAuditBatch a0 s) := by
  have e := @rfl _ @execAuditBatch
  conv at e => rhs; delta execAuditBatch
  rw [e]; clear e; beta_reduce
  repeat' first
    | with_reducible assumption
    | with_reducible apply State.audWrite_sound

theorem execJunctionTrip_sound {s0 s : State} (h : Sound s0 s) {a0} : SoundU s0 (execJunctionTrip a0 s) := by
  have e := @rfl _ @execJunctionTrip
  conv at e => rhs; delta execJunctionTrip
  rw [e]; clear e; beta_reduce
  repeat' first
    | with_reducible assumption
    | with_reducible apply soundU_next
    | with_reducible apply State.trip_sound

theorem execAuditBootrec_sound {s0 s : State} (h : Sound s0 s) {a0} : SoundU s0 (execAuditBootrec a0 s) := by
  have e := @rfl _ @execAuditBootrec
  conv at e => rhs; delta execAuditBootrec
  rw [e]; clear e; beta_reduce
  repeat' first
    | with_reducible assumption
    | with_reducible apply State.audWrite_sound

theorem execTripRelease_sound {s0 s : State} (h : Sound s0 s) {a0} : SoundU s0 (execTripRelease a0 s) := by
  have e := @rfl _ @execTripRelease
  conv at e => rhs; delta execTripRelease
  rw [e]; clear e; beta_reduce
  repeat' first
    | with_reducible assumption
    | with_reducible apply soundU_next
    | with_reducible apply State.tripRelease_sound

theorem execReceiptBatchClose_sound {s0 s : State} (h : Sound s0 s) : SoundU s0 (execReceiptBatchClose s) := by
  have e := @rfl _ @execReceiptBatchClose
  conv at e => rhs; delta execReceiptBatchClose
  rw [e]; clear e; beta_reduce
  repeat' first
    | with_reducible assumption
    | intro _ _
    | with_reducible apply State.quietly_sound
    | with_reducible apply State.batchTime_sound

theorem execAuditSeek_sound {s0 s : State} (h : Sound s0 s) {a0} : SoundU s0 (execAuditSeek a0 s) := by
  have e := @rfl _ @execAuditSeek
  conv at e => rhs; delta execAuditSeek
  rw [e]; clear e; beta_reduce
  repeat' first
    | with_reducible assumption
    | with_reducible apply State.audWrite_sound

end Sys2Proof.Machine
end

