-- ==== Sys2Proof/Laws/TimebaseKeep.lean ====
section
/-! SUPPORT. The operations of Machine/Timebase.lean keep the open commands: see Laws/Keep.lean. -/

set_option linter.all false

namespace Sys2Proof.Machine

theorem State.capSet_keep {s0 s : State} (h : Keep s0 s) {a1 a2 a3} : Keep s0 (State.capSet s a1 a2 a3) := by
  have e := @rfl _ @State.capSet
  conv at e => rhs; delta State.capSet
  rw [e]; clear e; beta_reduce
  repeat' first
    | with_reducible assumption
    | (fail_if_no_progress (extract_lets -underBinder +onlyGivenNames x); first | (have hT : (type_of% x) = (State) := (by with_reducible rfl); clear hT; refine (fun (hx : Keep s0 x) => ?_) ?_; (on_goal 1 => clear_value x); (on_goal 2 => subst x)) | fail)
    | with_reducible apply State.setCap_keep
    | with_reducible apply State.setReg_keep
    | with_reducible apply State.setW64_keep

theorem State.armCompare_keep {s0 s : State} (h : Keep s0 s) {a1 a2 a3} : Keep s0 (State.armCompare s a1 a2 a3) := by
  have e := @rfl _ @State.armCompare
  conv at e => rhs; delta State.armCompare
  rw [e]; clear e; beta_reduce
  repeat' first
    | with_reducible assumption
    | (fail_if_no_progress (extract_lets -underBinder +onlyGivenNames x); first | (have hT : (type_of% x) = (State) := (by with_reducible rfl); clear hT; refine (fun (hx : Keep s0 x) => ?_) ?_; (on_goal 1 => clear_value x); (on_goal 2 => subst x)) | (have hT : (type_of% x) = (Nat) := (by with_reducible rfl); clear hT; clear_value x) | fail)
    | with_reducible apply State.setW64_keep
    | with_reducible apply State.setReg_keep
    | with_reducible apply State.setB_keep
    | with_reducible apply State.setF_keep

theorem beginTimerCompareArm_keep {s0 s : State} (h : Keep s0 s) {a0} : KeepP s0 (beginTimerCompareArm a0 s) := by
  have e := @rfl _ @beginTimerCompareArm
  conv at e => rhs; delta beginTimerCompareArm
  rw [e]; clear e; beta_reduce
  repeat' first
    | with_reducible assumption
    | (fail_if_no_progress (extract_lets -underBinder +onlyGivenNames x); first | (have hT : (type_of% x) = (Nat) := (by with_reducible rfl); clear hT; clear_value x) | (have hT : (type_of% x) = (BitVec 32) := (by with_reducible rfl); clear hT; clear_value x) | (have hT : (type_of% x) = (Bool) := (by with_reducible rfl); clear hT; clear_value x) | (have hT : (type_of% x) = (BitVec 64) := (by with_reducible rfl); clear hT; clear_value x) | fail)
    | (with_reducible apply keepP_ite <;> intro)
    | with_reducible apply State.setB_keep
    | with_reducible apply State.armCompare_keep
    | split
    | with_reducible apply keepP_pair

theorem State.capRead_keep {s0 s : State} (h : Keep s0 s) {a1} : KeepP s0 (State.capRead s a1) := by
  have e := @rfl _ @State.capRead
  conv at e => rhs; delta State.capRead
  rw [e]; clear e; beta_reduce
  repeat' first
    | with_reducible assumption
    | (fail_if_no_progress (extract_lets -underBinder +onlyGivenNames x); first | (have hT : (type_of% x) = (State) := (by with_reducible rfl); clear hT; refine (fun (hx : Keep s0 x) => ?_) ?_; (on_goal 1 => clear_value x); (on_goal 2 => subst x)) | (have hT : (type_of% x) = (Nat) := (by with_reducible rfl); clear hT; clear_value x) | fail)
    | with_reducible apply State.setReg_keep
    | with_reducible apply State.setCap_keep
    | split
    | with_reducible apply keepP_pair

theorem State.tmbCapWrite_keep {s0 s : State} (h : Keep s0 s) {a1 a2} : Keep s0 (State.tmbCapWrite s a1 a2) := by
  have e := @rfl _ @State.tmbCapWrite
  conv at e => rhs; delta State.tmbCapWrite
  rw [e]; clear e; beta_reduce
  repeat' first
    | with_reducible assumption
    | (with_reducible apply keep_ite <;> intro)
    | with_reducible apply State.setB_keep
    | with_reducible apply State.capSet_keep

theorem State.tmbCmpWrite_keep {s0 s : State} (h : Keep s0 s) {a1 a2} : Keep s0 (State.tmbCmpWrite s a1 a2) := by
  have e := @rfl _ @State.tmbCmpWrite
  conv at e => rhs; delta State.tmbCmpWrite
  rw [e]; clear e; beta_reduce
  repeat' first
    | with_reducible assumption
    | (fail_if_no_progress (extract_lets -underBinder +onlyGivenNames x); first | (have hT : (type_of% x) = (State) := (by with_reducible rfl); clear hT; refine (fun (hx : Keep s0 x) => ?_) ?_; (on_goal 1 => clear_value x); (on_goal 2 => subst x)) | (have hT : (type_of% x) = (Nat) := (by with_reducible rfl); clear hT; clear_value x) | fail)
    | (with_reducible apply keep_ite <;> intro)
    | with_reducible apply State.setReg_keep
    | with_reducible apply State.setF_keep
    | with_reducible apply State.armCompare_keep

theorem beginTimerCaptureSet_keep {s0 s : State} (h : Keep s0 s) {a0} : KeepP s0 (beginTimerCaptureSet a0 s) := by
  have e := @rfl _ @beginTimerCaptureSet
  conv at e => rhs; delta beginTimerCaptureSet
  rw [e]; clear e; beta_reduce
  repeat' first
    | with_reducible assumption
    | with_reducible apply State.capSet_keep
    | split
    | with_reducible apply keepP_pair

end Sys2Proof.Machine
end

