-- ==== Sys2Proof/Laws/DmaKeep.lean ====
section
/-! SUPPORT. The operations of Machine/Dma.lean keep the open commands: see Laws/Keep.lean. -/

set_option linter.all false

namespace Sys2Proof.Machine

theorem State.dwSetRun_keep {s0 s : State} (h : Keep s0 s) {a1 a2} : Keep s0 (State.dwSetRun s a1 a2) := by
  have e := @rfl _ @State.dwSetRun
  conv at e => rhs; delta State.dwSetRun
  rw [e]; clear e; beta_reduce
  repeat' first
    | with_reducible assumption
    | with_reducible apply State.setB_keep

theorem State.dwStart_keep {s0 s : State} (h : Keep s0 s) {a1 a2} : Keep s0 (State.dwStart s a1 a2) := by
  have e := @rfl _ @State.dwStart
  conv at e => rhs; delta State.dwStart
  rw [e]; clear e; beta_reduce
  repeat' first
    | with_reducible assumption
    | (fail_if_no_progress (extract_lets -underBinder +onlyGivenNames x); first | (have hT : (type_of% x) = (State) := (by with_reducible rfl); clear hT; refine (fun (hx : Keep s0 x) => ?_) ?_; (on_goal 1 => clear_value x); (on_goal 2 => subst x)) | (clear_value x) | fail)
    | with_reducible apply State.setDw_keep
    | with_reducible apply State.dwSetRun_keep

theorem beginDmaChainStart_keep {s0 s : State} (h : Keep s0 s) {a0} : KeepP s0 (beginDmaChainStart a0 s) := by
  have e := @rfl _ @beginDmaChainStart
  conv at e => rhs; delta beginDmaChainStart
  rw [e]; clear e; beta_reduce
  repeat' first
    | with_reducible assumption
    | (fail_if_no_progress (extract_lets -underBinder +onlyGivenNames x); first | (have hT : (type_of% x) = (Nat) := (by with_reducible rfl); clear hT; clear_value x) | fail)
    | with_reducible apply State.dwStart_keep
    | with_reducible apply State.setReg_keep
    | split
    | with_reducible apply keepP_pair

end Sys2Proof.Machine
end

