-- ==== Sys2Proof/Laws/MemCmdKeep.lean ====
section
/-! SUPPORT. The operations of Machine/MemCmd.lean keep the open commands: see Laws/Keep.lean. -/

set_option linter.all false

namespace Sys2Proof.Machine

theorem State.celPut_keep {s0 s : State} (h : Keep s0 s) {a1 a2 a3 a4} : Keep s0 (State.celPut s a1 a2 a3 a4) := by
  have e := @rfl _ @State.celPut
  conv at e => rhs; delta State.celPut
  rw [e]; clear e; beta_reduce
  repeat' first
    | with_reducible assumption
    | with_reducible apply State.setReg_keep
    | with_reducible apply State.setAddr40_keep

theorem beginCelSet_keep {s0 s : State} (h : Keep s0 s) {a0} : KeepP s0 (beginCelSet a0 s) := by
  have e := @rfl _ @beginCelSet
  conv at e => rhs; delta beginCelSet
  rw [e]; clear e; beta_reduce
  repeat' first
    | with_reducible assumption
    | (fail_if_no_progress (extract_lets -underBinder +onlyGivenNames x); first | (have hT : (type_of% x) = (Nat) := (by with_reducible rfl); clear hT; clear_value x) | (have hT : (type_of% x) = (BitVec 32) := (by with_reducible rfl); clear hT; clear_value x) | (have hT : (type_of% x) = (Bool) := (by with_reducible rfl); clear hT; clear_value x) | (have hT : (type_of% x) = (Packet) := (by with_reducible rfl); clear hT; clear_value x) | fail)
    | (with_reducible apply keepP_ite <;> intro)
    | with_reducible apply State.setReg_keep
    | with_reducible apply State.celPut_keep
    | split
    | with_reducible apply keepP_pair

theorem beginAssetUnseal_keep {s0 s : State} (h : Keep s0 s) {a0} : KeepP s0 (beginAssetUnseal a0 s) := by
  have e := @rfl _ @beginAssetUnseal
  conv at e => rhs; delta beginAssetUnseal
  rw [e]; clear e; beta_reduce
  repeat' first
    | with_reducible assumption
    | (fail_if_no_progress (extract_lets -underBinder +onlyGivenNames x); first | (have hT : (type_of% x) = (Nat) := (by with_reducible rfl); clear hT; clear_value x) | (have hT : (type_of% x) = (Packet) := (by with_reducible rfl); clear hT; clear_value x) | fail)
    | with_reducible apply State.setB_keep
    | split
    | with_reducible apply keepP_pair

theorem State.assetStart_keep {s0 s : State} (h : Keep s0 s) {a1} : Keep s0 (State.assetStart s a1) := by
  have e := @rfl _ @State.assetStart
  conv at e => rhs; delta State.assetStart
  rw [e]; clear e; beta_reduce
  repeat' first
    | with_reducible assumption
    | with_reducible apply State.setReg_keep

theorem State.celFlipWrite_keep {s0 s : State} (h : Keep s0 s) {a1} : Keep s0 (State.celFlipWrite s a1) := by
  have e := @rfl _ @State.celFlipWrite
  conv at e => rhs; delta State.celFlipWrite
  rw [e]; clear e; beta_reduce
  repeat' first
    | with_reducible assumption
    | (fail_if_no_progress (extract_lets -underBinder +onlyGivenNames x); first | (have hT : (type_of% x) = (Nat) := (by with_reducible rfl); clear hT; clear_value x) | (have hT : (type_of% x) = (BitVec 32) := (by with_reducible rfl); clear hT; clear_value x) | fail)
    | with_reducible apply State.setReg_keep

theorem beginPanSet_keep {s0 s : State} (h : Keep s0 s) {a0} : KeepP s0 (beginPanSet a0 s) := by
  have e := @rfl _ @beginPanSet
  conv at e => rhs; delta beginPanSet
  rw [e]; clear e; beta_reduce
  repeat' first
    | with_reducible assumption
    | intro _ _ _
    | (fail_if_no_progress (extract_lets -underBinder +onlyGivenNames x); first | (have hT : (type_of% x) = (State) := (by with_reducible rfl); clear hT; refine (fun (hx : Keep s0 x) => ?_) ?_; (on_goal 1 => clear_value x); (on_goal 2 => subst x)) | (have hT : (type_of% x) = (Nat) := (by with_reducible rfl); clear hT; clear_value x) | (have hT : (type_of% x) = (Bool) := (by with_reducible rfl); clear hT; clear_value x) | (have hT : (type_of% x) = (Packet) := (by with_reducible rfl); clear hT; clear_value x) | fail)
    | (with_reducible apply keepP_ite <;> intro)
    | with_reducible apply State.setReg_keep
    | with_reducible refine State.each_keep ?_ _ ?_
    | split
    | with_reducible apply keepP_pair

theorem State.flipAddrWrite_keep {s0 s : State} (h : Keep s0 s) {a1 a2} : Keep s0 (State.flipAddrWrite s a1 a2) := by
  have e := @rfl _ @State.flipAddrWrite
  conv at e => rhs; delta State.flipAddrWrite
  rw [e]; clear e; beta_reduce
  repeat' first
    | with_reducible assumption
    | with_reducible apply State.setB_keep
    | with_reducible apply State.setReg_keep
    | split

theorem beginAssetLoad_keep {s0 s : State} (h : Keep s0 s) {a0} : KeepP s0 (beginAssetLoad a0 s) := by
  have e := @rfl _ @beginAssetLoad
  conv at e => rhs; delta beginAssetLoad
  rw [e]; clear e; beta_reduce
  repeat' first
    | with_reducible assumption
    | (fail_if_no_progress (extract_lets -underBinder +onlyGivenNames x); first | (have hT : (type_of% x) = (Nat) := (by with_reducible rfl); clear hT; clear_value x) | (have hT : (type_of% x) = (Bool) := (by with_reducible rfl); clear hT; clear_value x) | (have hT : (type_of% x) = (Packet) := (by with_reducible rfl); clear hT; clear_value x) | fail)
    | (with_reducible apply keepP_ite <;> intro)
    | with_reducible apply State.assetStart_keep
    | split
    | with_reducible apply keepP_pair

theorem beginMemOp_keep {s0 s : State} (h : Keep s0 s) {a0} : KeepP s0 (beginMemOp a0 s) := by
  have e := @rfl _ @beginMemOp
  conv at e => rhs; delta beginMemOp
  rw [e]; clear e; beta_reduce
  repeat' first
    | with_reducible assumption
    | (fail_if_no_progress (extract_lets -underBinder +onlyGivenNames x); first | (have hT : (type_of% x) = (Nat) := (by with_reducible rfl); clear hT; clear_value x) | (have hT : (type_of% x) = (Packet) := (by with_reducible rfl); clear hT; clear_value x) | (clear_value x) | fail)
    | with_reducible apply State.jState_keep
    | split
    | with_reducible apply keepP_pair

theorem State.panFlipWrite_keep {s0 s : State} (h : Keep s0 s) {a1} : Keep s0 (State.panFlipWrite s a1) := by
  have e := @rfl _ @State.panFlipWrite
  conv at e => rhs; delta State.panFlipWrite
  rw [e]; clear e; beta_reduce
  repeat' first
    | with_reducible assumption
    | (fail_if_no_progress (extract_lets -underBinder +onlyGivenNames x); first | (have hT : (type_of% x) = (Nat) := (by with_reducible rfl); clear hT; clear_value x) | (have hT : (type_of% x) = (BitVec 32) := (by with_reducible rfl); clear hT; clear_value x) | fail)
    | with_reducible apply State.setReg_keep

theorem resumeAssetLoad_keep {s0 s : State} (h : Keep s0 s) {a0} : KeepP s0 (resumeAssetLoad a0 s) := by
  have e := @rfl _ @resumeAssetLoad
  conv at e => rhs; delta resumeAssetLoad
  rw [e]; clear e; beta_reduce
  repeat' first
    | with_reducible assumption
    | (fail_if_no_progress (extract_lets -underBinder +onlyGivenNames x); first | (have hT : (type_of% x) = (Nat) := (by with_reducible rfl); clear hT; clear_value x) | fail)
    | (with_reducible apply keepP_ite <;> intro)
    | with_reducible apply State.assetStart_keep
    | split
    | with_reducible apply keepP_pair

theorem beginMemRegionSet_keep {s0 s : State} (h : Keep s0 s) {a0} : KeepP s0 (beginMemRegionSet a0 s) := by
  have e := @rfl _ @beginMemRegionSet
  conv at e => rhs; delta beginMemRegionSet
  rw [e]; clear e; beta_reduce
  repeat' first
    | with_reducible assumption
    | (with_reducible apply keepP_ite <;> intro)
    | with_reducible apply beginPanSet_keep
    | with_reducible apply beginCelSet_keep

end Sys2Proof.Machine
end

