-- ==== Sys2Proof/Laws/RecordsKeep.lean ====
section
/-! SUPPORT. The operations of Machine/Records.lean keep the open commands: see Laws/Keep.lean. -/

set_option linter.all false

namespace Sys2Proof.Machine

theorem State.recHead_keep {s0 s : State} (h : Keep s0 s) {a1} : Keep s0 (State.recHead s a1) := by
  have e := @rfl _ @State.recHead
  conv at e => rhs; delta State.recHead
  rw [e]; clear e; beta_reduce
  repeat' first
    | with_reducible assumption
    | with_reducible apply State.jWrite_keep

end Sys2Proof.Machine
end

