-- ==== Sys2Proof/Laws/FeaturesKeep.lean ====
section
/-! SUPPORT. The operations of Machine/Features.lean keep the open commands: see Laws/Keep.lean. -/

set_option linter.all false

namespace Sys2Proof.Machine

theorem beginExpertEnter_keep {s0 s : State} (h : Keep s0 s) {a0} : KeepP s0 (beginExpertEnter a0 s) := by
  have e := @rfl _ @beginExpertEnter
  conv at e => rhs; delta beginExpertEnter
  rw [e]; clear e; beta_reduce
  repeat' first
    | with_reducible assumption
    | (fail_if_no_progress (extract_lets -underBinder +onlyGivenNames x); first | (have hT : (type_of% x) = (Nat) := (by with_reducible rfl); clear hT; clear_value x) | (have hT : (type_of% x) = (List Nat) := (by with_reducible rfl); clear hT; clear_value x) | fail)
    | split
    | with_reducible apply keepP_pair

theorem State.errMark_keep {s0 s : State} (h : Keep s0 s) {a1 a2} : Keep s0 (State.errMark s a1 a2) := by
  have e := @rfl _ @State.errMark
  conv at e => rhs; delta State.errMark
  rw [e]; clear e; beta_reduce
  repeat' first
    | with_reducible assumption
    | (fail_if_no_progress (extract_lets -underBinder +onlyGivenNames x); first | (have hT : (type_of% x) = (Nat) := (by with_reducible rfl); clear hT; clear_value x) | fail)
    | (with_reducible apply keep_ite <;> intro)
    | with_reducible apply State.setW64_keep

theorem State.setExpert_keep {s0 s : State} (h : Keep s0 s) {a1 a2} : Keep s0 (State.setExpert s a1 a2) := by
  have e := @rfl _ @State.setExpert
  conv at e => rhs; delta State.setExpert
  rw [e]; clear e; beta_reduce
  repeat' first
    | with_reducible assumption
    | (with_reducible apply keep_ite <;> intro)
    | with_reducible apply State.setB_keep

theorem beginFence_keep {s0 s : State} (h : Keep s0 s) {a0} : KeepP s0 (beginFence a0 s) := by
  have e := @rfl _ @beginFence
  conv at e => rhs; delta beginFence
  rw [e]; clear e; beta_reduce
  repeat' first
    | with_reducible assumption
    | (with_reducible apply keepP_ite <;> intro)
    | with_reducible apply keepP_pair

theorem State.mirrorOn_keep {s0 s : State} (h : Keep s0 s) : Keep s0 (State.mirrorOn s) := by
  have e := @rfl _ @State.mirrorOn
  conv at e => rhs; delta State.mirrorOn
  rw [e]; clear e; beta_reduce
  repeat' first
    | with_reducible assumption
    | intro _ _ _
    | (fail_if_no_progress (extract_lets -underBinder +onlyGivenNames x); first | (have hT : (type_of% x) = (State) := (by with_reducible rfl); clear hT; refine (fun (hx : Keep s0 x) => ?_) ?_; (on_goal 1 => clear_value x); (on_goal 2 => subst x)) | (have hT : (type_of% x) = (BitVec 32) := (by with_reducible rfl); clear hT; clear_value x) | fail)
    | with_reducible apply State.setReg_keep
    | with_reducible apply State.jSet_keep
    | with_reducible apply State.jWrite_keep
    | with_reducible apply State.recHead_keep
    | with_reducible refine State.each_keep ?_ _ ?_
    | split

theorem State.expertCommit_keep {s0 s : State} (h : Keep s0 s) {a1 a2} : Keep s0 (State.expertCommit s a1 a2) := by
  have e := @rfl _ @State.expertCommit
  conv at e => rhs; delta State.expertCommit
  rw [e]; clear e; beta_reduce
  repeat' first
    | with_reducible assumption
    | (fail_if_no_progress (extract_lets -underBinder +onlyGivenNames x); first | (have hT : (type_of% x) = (Nat) := (by with_reducible rfl); clear hT; clear_value x) | fail)
    | with_reducible apply State.measure_keep
    | with_reducible apply State.setExpert_keep

theorem beginErrlogRead_keep {s0 s : State} (h : Keep s0 s) {a0} : KeepP s0 (beginErrlogRead a0 s) := by
  have e := @rfl _ @beginErrlogRead
  conv at e => rhs; delta beginErrlogRead
  rw [e]; clear e; beta_reduce
  repeat' first
    | with_reducible assumption
    | (fail_if_no_progress (extract_lets -underBinder +onlyGivenNames x); first | (have hT : (type_of% x) = (Nat) := (by with_reducible rfl); clear hT; clear_value x) | (have hT : (type_of% x) = (Packet) := (by with_reducible rfl); clear hT; clear_value x) | (clear_value x) | fail)
    | with_reducible apply State.hostWrite_keep
    | split
    | with_reducible apply keepP_pair

theorem beginFeaturesGet_keep {s0 s : State} (h : Keep s0 s) {a0} : KeepP s0 (beginFeaturesGet a0 s) := by
  have e := @rfl _ @beginFeaturesGet
  conv at e => rhs; delta beginFeaturesGet
  rw [e]; clear e; beta_reduce
  repeat' first
    | with_reducible assumption
    | with_reducible apply keepP_pair

theorem State.storeAlloc_keep {s0 s : State} (h : Keep s0 s) : Keep s0 (State.storeAlloc s) := by
  have e := @rfl _ @State.storeAlloc
  conv at e => rhs; delta State.storeAlloc
  rw [e]; clear e; beta_reduce
  repeat' first
    | with_reducible assumption
    | (fail_if_no_progress (extract_lets -underBinder +onlyGivenNames x); first | (have hT : (type_of% x) = (State) := (by with_reducible rfl); clear hT; refine (fun (hx : Keep s0 x) => ?_) ?_; (on_goal 1 => clear_value x); (on_goal 2 => subst x)) | (have hT : (type_of% x) = (Nat) := (by with_reducible rfl); clear hT; clear_value x) | (have hT : (type_of% x) = (BitVec 32) := (by with_reducible rfl); clear hT; clear_value x) | (have hT : (type_of% x) = (Attic) := (by with_reducible rfl); clear hT) | fail)
    | with_reducible apply State.setReg_keep
    | with_reducible apply State.celPut_keep
    | (with_reducible refine Keep.upd ?_ ?_; (on_goal 2 => exact ⟨by with_reducible rfl, by with_reducible rfl, by with_reducible rfl⟩); with_reducible assumption)
    | split

theorem State.featCommit_keep {s0 s : State} (h : Keep s0 s) : Keep s0 (State.featCommit s) := by
  have e := @rfl _ @State.featCommit
  conv at e => rhs; delta State.featCommit
  rw [e]; clear e; beta_reduce
  repeat' first
    | with_reducible assumption
    | (fail_if_no_progress (extract_lets -underBinder +onlyGivenNames x); first | (have hT : (type_of% x) = (State) := (by with_reducible rfl); clear hT; refine (fun (hx : Keep s0 x) => ?_) ?_; (on_goal 1 => clear_value x); (on_goal 2 => subst x)) | (have hT : (type_of% x) = (BitVec 32) := (by with_reducible rfl); clear hT; clear_value x) | fail)
    | (with_reducible apply keep_ite <;> intro)
    | with_reducible apply State.setB_keep
    | with_reducible apply State.setReg_keep
    | with_reducible apply State.takePlan_keep
    | with_reducible apply State.measure_keep
    | with_reducible apply State.mirrorOn_keep
    | with_reducible apply State.storeAlloc_keep

theorem State.featCommitWrite_keep {s0 s : State} (h : Keep s0 s) {a1} : Keep s0 (State.featCommitWrite s a1) := by
  have e := @rfl _ @State.featCommitWrite
  conv at e => rhs; delta State.featCommitWrite
  rw [e]; clear e; beta_reduce
  repeat' first
    | with_reducible assumption
    | (with_reducible apply keep_ite <;> intro)
    | with_reducible apply State.wdrop_keep
    | with_reducible apply State.featCommit_keep

theorem beginExpertLeave_keep {s0 s : State} (h : Keep s0 s) {a0} : KeepP s0 (beginExpertLeave a0 s) := by
  have e := @rfl _ @beginExpertLeave
  conv at e => rhs; delta beginExpertLeave
  rw [e]; clear e; beta_reduce
  repeat' first
    | with_reducible assumption
    | split
    | with_reducible apply keepP_pair

theorem State.expertLeave_keep {s0 s : State} (h : Keep s0 s) {a1 a2} : KeepP s0 (State.expertLeave s a1 a2) := by
  have e := @rfl _ @State.expertLeave
  conv at e => rhs; delta State.expertLeave
  rw [e]; clear e; beta_reduce
  repeat' first
    | with_reducible assumption
    | (with_reducible apply keepP_ite <;> intro)
    | with_reducible apply State.expertCommit_keep
    | with_reducible apply keepP_pair

theorem State.featuresSet_keep {s0 s : State} (h : Keep s0 s) {a1} : KeepP s0 (State.featuresSet s a1) := by
  have e := @rfl _ @State.featuresSet
  conv at e => rhs; delta State.featuresSet
  rw [e]; clear e; beta_reduce
  repeat' first
    | with_reducible assumption
    | intro _ _ _
    | (fail_if_no_progress (extract_lets -underBinder +onlyGivenNames x); first | (have hT : (type_of% x) = (State) := (by with_reducible rfl); clear hT; refine (fun (hx : Keep s0 x) => ?_) ?_; (on_goal 1 => clear_value x); (on_goal 2 => subst x)) | fail)
    | (with_reducible apply keepP_ite <;> intro)
    | with_reducible apply State.setReg_keep
    | with_reducible apply State.featCommit_keep
    | with_reducible refine State.each_keep ?_ _ ?_
    | with_reducible apply keepP_pair

end Sys2Proof.Machine
end

