-- ==== Sys2Proof/Laws/FlowKeep.lean ====
section
/-! SUPPORT. The operations of Machine/Flow.lean keep the open commands: see Laws/Keep.lean. -/

set_option linter.all false

namespace Sys2Proof.Machine

theorem State.throtRefresh_keep {s0 s : State} (h : Keep s0 s) {a1} : Keep s0 (State.throtRefresh s a1) := by
  have e := @rfl _ @State.throtRefresh
  conv at e => rhs; delta State.throtRefresh
  rw [e]; clear e; beta_reduce
  repeat' first
    | with_reducible assumption
    | (fail_if_no_progress (extract_lets -underBinder +onlyGivenNames x); first | (have hT : (type_of% x) = (State) := (by with_reducible rfl); clear hT; refine (fun (hx : Keep s0 x) => ?_) ?_; (on_goal 1 => clear_value x); (on_goal 2 => subst x)) | (have hT : (type_of% x) = (Nat) := (by with_reducible rfl); clear hT; clear_value x) | (have hT : (type_of% x) = (Bool) := (by with_reducible rfl); clear hT; clear_value x) | (have hT : (type_of% x) = (List Nat) := (by with_reducible rfl); clear hT; clear_value x) | fail)
    | (with_reducible apply keep_ite <;> intro)
    | with_reducible apply State.setReg_keep
    | with_reducible apply State.loopBound_keep

theorem commitHeads_keep {s0 s : State} (h : Keep s0 s) {a0 a1} : KeepP s0 (commitHeads a0 a1 s) := by
  have e := @rfl _ @commitHeads
  conv at e => rhs; delta commitHeads
  rw [e]; clear e; beta_reduce
  repeat' first
    | with_reducible assumption
    | with_reducible apply commitAfter_keep

theorem beginSpriteTable_keep {s0 s : State} (h : Keep s0 s) {a0} : KeepP s0 (beginSpriteTable a0 s) := by
  have e := @rfl _ @beginSpriteTable
  conv at e => rhs; delta beginSpriteTable
  rw [e]; clear e; beta_reduce
  repeat' first
    | with_reducible assumption
    | intro _ _ _
    | (fail_if_no_progress (extract_lets -underBinder +onlyGivenNames x); first | (have hT : (type_of% x) = (State) := (by with_reducible rfl); clear hT; refine (fun (hx : Keep s0 x) => ?_) ?_; (on_goal 1 => clear_value x); (on_goal 2 => subst x)) | (have hT : (type_of% x) = (Nat) := (by with_reducible rfl); clear hT; clear_value x) | (have hT : (type_of% x) = (Bool) := (by with_reducible rfl); clear hT; clear_value x) | (have hT : (type_of% x) = (List Nat) := (by with_reducible rfl); clear hT; clear_value x) | (have hT : (type_of% x) = (Packet) := (by with_reducible rfl); clear hT; clear_value x) | fail)
    | with_reducible apply State.stage_keep
    | with_reducible apply commitHeads_keep
    | with_reducible refine State.each_keep ?_ _ ?_
    | split
    | with_reducible apply keepP_pair

theorem State.throtBound_keep {s0 s : State} (h : Keep s0 s) {a1} : Keep s0 (State.throtBound s a1) := by
  have e := @rfl _ @State.throtBound
  conv at e => rhs; delta State.throtBound
  rw [e]; clear e; beta_reduce
  repeat' first
    | with_reducible assumption
    | (fail_if_no_progress (extract_lets -underBinder +onlyGivenNames x); first | (have hT : (type_of% x) = (State) := (by with_reducible rfl); clear hT; refine (fun (hx : Keep s0 x) => ?_) ?_; (on_goal 1 => clear_value x); (on_goal 2 => subst x)) | (clear_value x) | fail)
    | with_reducible apply State.setReg_keep
    | with_reducible apply State.throtRefresh_keep
    | (with_reducible refine Keep.upd ?_ ?_; (on_goal 2 => exact ⟨by with_reducible rfl, by with_reducible rfl, by with_reducible rfl⟩); with_reducible assumption)

theorem beginCanvasSet_keep {s0 s : State} (h : Keep s0 s) {a0} : KeepP s0 (beginCanvasSet a0 s) := by
  have e := @rfl _ @beginCanvasSet
  conv at e => rhs; delta beginCanvasSet
  rw [e]; clear e; beta_reduce
  repeat' first
    | with_reducible assumption
    | intro _ _ _
    | (fail_if_no_progress (extract_lets -underBinder +onlyGivenNames x); first | (have hT : (type_of% x) = (State) := (by with_reducible rfl); clear hT; refine (fun (hx : Keep s0 x) => ?_) ?_; (on_goal 1 => clear_value x); (on_goal 2 => subst x)) | (have hT : (type_of% x) = (Nat) := (by with_reducible rfl); clear hT; clear_value x) | (have hT : (type_of% x) = (List Nat) := (by with_reducible rfl); clear hT; clear_value x) | (have hT : (type_of% x) = (Option Nat) := (by with_reducible rfl); clear hT; clear_value x) | (skip) | fail)
    | with_reducible apply State.stage_keep
    | with_reducible apply commitHeads_keep
    | with_reducible refine State.each_keep ?_ _ ?_
    | split
    | with_reducible apply keepP_pair

theorem State.setRsv_keep {s0 s : State} (h : Keep s0 s) {a1 a2} : Keep s0 (State.setRsv s a1 a2) := by
  have e := @rfl _ @State.setRsv
  conv at e => rhs; delta State.setRsv
  rw [e]; clear e; beta_reduce
  repeat' first
    | with_reducible assumption
    | (fail_if_no_progress (extract_lets -underBinder +onlyGivenNames x); first | (have hT : (type_of% x) = (State) := (by with_reducible rfl); clear hT; refine (fun (hx : Keep s0 x) => ?_) ?_; (on_goal 1 => clear_value x); (on_goal 2 => subst x)) | fail)
    | with_reducible apply State.setReg_keep

theorem State.rsvRequest_keep {s0 s : State} (h : Keep s0 s) {a1 a2} : KeepP s0 (State.rsvRequest s a1 a2) := by
  have e := @rfl _ @State.rsvRequest
  conv at e => rhs; delta State.rsvRequest
  rw [e]; clear e; beta_reduce
  repeat' first
    | with_reducible assumption
    | (fail_if_no_progress (extract_lets -underBinder +onlyGivenNames x); first | (have hT : (type_of% x) = (Nat) := (by with_reducible rfl); clear hT; clear_value x) | fail)
    | (with_reducible apply keepP_ite <;> intro)
    | with_reducible apply State.incReg_keep
    | with_reducible apply State.setRsv_keep
    | with_reducible apply keepP_pair

theorem stageReserved_keep {s0 s s' : State} (h : Keep s0 s) (h' : Keep s0 s') {o : Open} {k : Nat} {needs : Bool} :
    KeepP s0 (stageReserved o k needs s s') := by
  unfold stageReserved
  extract_lets r
  have hr : KeepP s0 r := by
    subst r
    split
    · exact State.rsvRequest_keep h'
    · exact keepP_pair h'
  clear_value r
  split
  · exact commitAfter_keep hr.out
  · exact keepP_pair (State.incReg_keep h)

theorem beginPlaneSet_keep {s0 s : State} (h : Keep s0 s) {a0} : KeepP s0 (beginPlaneSet a0 s) := by
  have e := @rfl _ @beginPlaneSet
  conv at e => rhs; delta beginPlaneSet
  rw [e]; clear e; beta_reduce
  repeat' first
    | with_reducible assumption
    | intro _ _ _
    | (fail_if_no_progress (extract_lets -underBinder +onlyGivenNames x); first | (have hT : (type_of% x) = (State) := (by with_reducible rfl); clear hT; refine (fun (hx : Keep s0 x) => ?_) ?_; (on_goal 1 => clear_value x); (on_goal 2 => subst x)) | (have hT : (type_of% x) = (Nat) := (by with_reducible rfl); clear hT; clear_value x) | (have hT : (type_of% x) = (Bool) := (by with_reducible rfl); clear hT; clear_value x) | (have hT : (type_of% x) = (List Nat) := (by with_reducible rfl); clear hT; clear_value x) | (have hT : (type_of% x) = (Packet) := (by with_reducible rfl); clear hT; clear_value x) | (clear_value x) | fail)
    | with_reducible apply State.stage_keep
    | with_reducible apply stageReserved_keep
    | with_reducible refine State.each_keep ?_ _ ?_
    | split
    | with_reducible apply keepP_pair

theorem beginWritebackSet_keep {s0 s : State} (h : Keep s0 s) {a0} : KeepP s0 (beginWritebackSet a0 s) := by
  have e := @rfl _ @beginWritebackSet
  conv at e => rhs; delta beginWritebackSet
  rw [e]; clear e; beta_reduce
  repeat' first
    | with_reducible assumption
    | (fail_if_no_progress (extract_lets -underBinder +onlyGivenNames x); first | (have hT : (type_of% x) = (State) := (by with_reducible rfl); clear hT; refine (fun (hx : Keep s0 x) => ?_) ?_; (on_goal 1 => clear_value x); (on_goal 2 => subst x)) | (have hT : (type_of% x) = (Nat) := (by with_reducible rfl); clear hT; clear_value x) | (have hT : (type_of% x) = (Packet) := (by with_reducible rfl); clear hT; clear_value x) | fail)
    | with_reducible apply State.stage_keep
    | with_reducible apply stageReserved_keep
    | split
    | with_reducible apply keepP_pair

theorem beginHeadTiming_keep {s0 s : State} (h : Keep s0 s) {a0} : KeepP s0 (beginHeadTiming a0 s) := by
  have e := @rfl _ @beginHeadTiming
  conv at e => rhs; delta beginHeadTiming
  rw [e]; clear e; beta_reduce
  repeat' first
    | with_reducible assumption
    | intro _ _ _
    | (fail_if_no_progress (extract_lets -underBinder +onlyGivenNames x); first | (have hT : (type_of% x) = (State) := (by with_reducible rfl); clear hT; refine (fun (hx : Keep s0 x) => ?_) ?_; (on_goal 1 => clear_value x); (on_goal 2 => subst x)) | (have hT : (type_of% x) = (Nat) := (by with_reducible rfl); clear hT; clear_value x) | (have hT : (type_of% x) = (BitVec 32) := (by with_reducible rfl); clear hT; clear_value x) | (have hT : (type_of% x) = (List Nat) := (by with_reducible rfl); clear hT; clear_value x) | (have hT : (type_of% x) = (Packet) := (by with_reducible rfl); clear hT; clear_value x) | fail)
    | with_reducible apply State.stage_keep
    | with_reducible apply commitAfter_keep
    | with_reducible refine State.each_keep ?_ _ ?_
    | split
    | with_reducible apply keepP_pair

end Sys2Proof.Machine
end

