-- ==== Sys2Proof/Laws/HeadRunKeep.lean ====
section
/-! SUPPORT. The operations of Machine/HeadRun.lean keep the open commands: see Laws/Keep.lean. -/

set_option linter.all false

namespace Sys2Proof.Machine

theorem State.acceptSet_keep {s0 s : State} (h : Keep s0 s) {a1} : Keep s0 (State.acceptSet s a1) := by
  have e := @rfl _ @State.acceptSet
  conv at e => rhs; delta State.acceptSet
  rw [e]; clear e; beta_reduce
  repeat' first
    | with_reducible assumption
    | intro _ _ _
    | (fail_if_no_progress (extract_lets -underBinder +onlyGivenNames x); first | (have hT : (type_of% x) = (State) := (by with_reducible rfl); clear hT; refine (fun (hx : Keep s0 x) => ?_) ?_; (on_goal 1 => clear_value x); (on_goal 2 => subst x)) | fail)
    | with_reducible apply State.setCm_keep
    | with_reducible apply State.setB_keep
    | with_reducible apply State.updHead_keep
    | with_reducible refine foldl_keep _ ?_ ?_

theorem beginPullWindow_keep {s0 s : State} (h : Keep s0 s) {a0 a1 a2} : KeepP s0 (beginPullWindow a0 a1 a2 s) := by
  have e := @rfl _ @beginPullWindow
  conv at e => rhs; delta beginPullWindow
  rw [e]; clear e; beta_reduce
  repeat' first
    | with_reducible assumption
    | (fail_if_no_progress (extract_lets -underBinder +onlyGivenNames x); first | (have hT : (type_of% x) = (Bool) := (by with_reducible rfl); clear hT; clear_value x) | (have hT : (type_of% x) = (Int) := (by with_reducible rfl); clear hT; clear_value x) | fail)
    | with_reducible apply State.updHead_keep
    | split
    | with_reducible apply keepP_pair

theorem beginHeadCommit_keep {s0 s : State} (h : Keep s0 s) {a0} : KeepP s0 (beginHeadCommit a0 s) := by
  have e := @rfl _ @beginHeadCommit
  conv at e => rhs; delta beginHeadCommit
  rw [e]; clear e; beta_reduce
  repeat' first
    | with_reducible assumption
    | intro _ _ _
    | (fail_if_no_progress (extract_lets -underBinder +onlyGivenNames x); first | (have hT : (type_of% x) = (BitVec 32) := (by with_reducible rfl); clear hT; clear_value x) | (have hT : (type_of% x) = (List Nat) := (by with_reducible rfl); clear hT; clear_value x) | (have hT : (type_of% x) = (Option Nat) := (by with_reducible rfl); clear hT; clear_value x) | fail)
    | with_reducible apply State.jState_keep
    | with_reducible apply State.requestCommit_keep
    | with_reducible refine State.each_keep ?_ _ ?_
    | split
    | with_reducible apply keepP_pair

theorem beginHeadDisable_keep {s0 s : State} (h : Keep s0 s) {a0} : KeepP s0 (beginHeadDisable a0 s) := by
  have e := @rfl _ @beginHeadDisable
  conv at e => rhs; delta beginHeadDisable
  rw [e]; clear e; beta_reduce
  repeat' first
    | with_reducible assumption
    | (fail_if_no_progress (extract_lets -underBinder +onlyGivenNames x); first | (have hT : (type_of% x) = (Nat) := (by with_reducible rfl); clear hT; clear_value x) | (have hT : (type_of% x) = (Packet) := (by with_reducible rfl); clear hT; clear_value x) | fail)
    | with_reducible apply State.updHead_keep
    | split
    | with_reducible apply keepP_pair

theorem beginRouteGenlock_keep {s0 s : State} (h : Keep s0 s) {a0} : KeepP s0 (beginRouteGenlock a0 s) := by
  have e := @rfl _ @beginRouteGenlock
  conv at e => rhs; delta beginRouteGenlock
  rw [e]; clear e; beta_reduce
  repeat' first
    | with_reducible assumption
    | (fail_if_no_progress (extract_lets -underBinder +onlyGivenNames x); first | (have hT : (type_of% x) = (Nat) := (by with_reducible rfl); clear hT; clear_value x) | (have hT : (type_of% x) = (Packet) := (by with_reducible rfl); clear hT; clear_value x) | fail)
    | (with_reducible apply keepP_ite <;> intro)
    | with_reducible apply State.setReg_keep
    | split
    | with_reducible apply keepP_pair

theorem beginRouteSet_keep {s0 s : State} (h : Keep s0 s) {a0} : KeepP s0 (beginRouteSet a0 s) := by
  have e := @rfl _ @beginRouteSet
  conv at e => rhs; delta beginRouteSet
  rw [e]; clear e; beta_reduce
  repeat' first
    | with_reducible assumption
    | (with_reducible apply keepP_ite <;> intro)
    | with_reducible apply beginRouteGenlock_keep
    | with_reducible apply beginRoutePort_keep

theorem State.clearCounts_keep {s0 s : State} (h : Keep s0 s) {a1} : Keep s0 (State.clearCounts s a1) := by
  have e := @rfl _ @State.clearCounts
  conv at e => rhs; delta State.clearCounts
  rw [e]; clear e; beta_reduce
  repeat' first
    | with_reducible assumption
    | intro _ _ _
    | with_reducible apply State.updBs_keep
    | with_reducible apply State.setReg_keep
    | with_reducible refine State.each_keep ?_ _ ?_

theorem beginHeadEnable_keep {s0 s : State} (h : Keep s0 s) {a0} : KeepP s0 (beginHeadEnable a0 s) := by
  have e := @rfl _ @beginHeadEnable
  conv at e => rhs; delta beginHeadEnable
  rw [e]; clear e; beta_reduce
  repeat' first
    | with_reducible assumption
    | (fail_if_no_progress (extract_lets -underBinder +onlyGivenNames x); first | (have hT : (type_of% x) = (State) := (by with_reducible rfl); clear hT; refine (fun (hx : Keep s0 x) => ?_) ?_; (on_goal 1 => clear_value x); (on_goal 2 => subst x)) | (have hT : (type_of% x) = (Nat) := (by with_reducible rfl); clear hT; clear_value x) | (have hT : (type_of% x) = (Packet) := (by with_reducible rfl); clear hT; clear_value x) | (have hT : ∃ α : Type, (type_of% x) = (α × State) := ⟨_, rfl⟩; clear hT; refine (fun (hx : KeepP s0 x) => ?_) ?_; (on_goal 1 => clear_value x); (on_goal 2 => subst x)) | (clear_value x) | fail)
    | (with_reducible apply keepP_ite <;> intro)
    | with_reducible apply State.setF_keep
    | with_reducible apply State.setB_keep
    | with_reducible apply State.rsvRequest_keep
    | with_reducible apply State.setW64_keep
    | with_reducible apply State.clearCounts_keep
    | with_reducible apply State.acceptSet_keep
    | with_reducible apply State.setReg_keep
    | with_reducible apply State.updHead_keep
    | with_reducible apply State.recHead_keep
    | with_reducible apply State.jState_keep
    | with_reducible apply State.portsHeadOn_keep
    | (with_reducible apply KeepP.out; with_reducible assumption)
    | split
    | with_reducible apply keepP_pair

end Sys2Proof.Machine
end

