-- ==== Sys2Proof/Laws/MusicKeep.lean ====
section
/-! SUPPORT. The operations of Machine/Music.lean keep the open commands: see Laws/Keep.lean. -/

set_option linter.all false

namespace Sys2Proof.Machine

theorem State.mixGraphIn_keep {s0 s : State} (h : Keep s0 s) {a1 a2 a3} : KeepP s0 (State.mixGraphIn s a1 a2 a3) := by
  have e := @rfl _ @State.mixGraphIn
  conv at e => rhs; delta State.mixGraphIn
  rw [e]; clear e; beta_reduce
  repeat' first
    | with_reducible assumption
    | (fail_if_no_progress (extract_lets -underBinder +onlyGivenNames x); first | (clear_value x) | fail)
    | (with_reducible apply keepP_ite <;> intro)
    | with_reducible apply State.setReg_keep
    | (with_reducible refine Keep.upd ?_ ?_; (on_goal 2 => exact ⟨by with_reducible rfl, by with_reducible rfl, by with_reducible rfl⟩); with_reducible assumption)
    | split
    | with_reducible apply keepP_pair

theorem beginAudioPortClock_keep {s0 s : State} (h : Keep s0 s) {a0} : KeepP s0 (beginAudioPortClock a0 s) := by
  have e := @rfl _ @beginAudioPortClock
  conv at e => rhs; delta beginAudioPortClock
  rw [e]; clear e; beta_reduce
  repeat' first
    | with_reducible assumption
    | (fail_if_no_progress (extract_lets -underBinder +onlyGivenNames x); first | (have hT : (type_of% x) = (Nat) := (by with_reducible rfl); clear hT; clear_value x) | (have hT : (type_of% x) = (BitVec 32) := (by with_reducible rfl); clear hT; clear_value x) | (have hT : (type_of% x) = (Bool) := (by with_reducible rfl); clear hT; clear_value x) | (clear_value x) | fail)
    | (with_reducible refine Keep.upd ?_ ?_; (on_goal 2 => exact ⟨by with_reducible rfl, by with_reducible rfl, by with_reducible rfl⟩); with_reducible assumption)
    | split
    | with_reducible apply keepP_pair

theorem State.mixGraphRead_keep {s0 s : State} (h : Keep s0 s) {a1 a2 a3} : KeepP s0 (State.mixGraphRead s a1 a2 a3) := by
  have e := @rfl _ @State.mixGraphRead
  conv at e => rhs; delta State.mixGraphRead
  rw [e]; clear e; beta_reduce
  repeat' first
    | with_reducible assumption
    | (fail_if_no_progress (extract_lets -underBinder +onlyGivenNames x); first | (have hT : ∃ α : Type, (type_of% x) = (α × State) := ⟨_, rfl⟩; clear hT; refine (fun (hx : KeepP s0 x) => ?_) ?_; (on_goal 1 => clear_value x); (on_goal 2 => subst x)) | fail)
    | with_reducible apply State.devRead_keep
    | with_reducible apply State.mixGraphIn_keep
    | (with_reducible apply KeepP.out; with_reducible assumption)
    | split
    | with_reducible apply keepP_pair

theorem beginVoiceParam_keep {s0 s : State} (h : Keep s0 s) {a0} : KeepP s0 (beginVoiceParam a0 s) := by
  have e := @rfl _ @beginVoiceParam
  conv at e => rhs; delta beginVoiceParam
  rw [e]; clear e; beta_reduce
  repeat' first
    | with_reducible assumption
    | (fail_if_no_progress (extract_lets -underBinder +onlyGivenNames x); first | (have hT : (type_of% x) = (Nat) := (by with_reducible rfl); clear hT; clear_value x) | (clear_value x) | fail)
    | with_reducible apply State.setVoice_keep
    | split
    | with_reducible apply keepP_pair

theorem State.musCtlWrite_keep {s0 s : State} (h : Keep s0 s) {a1} : Keep s0 (State.musCtlWrite s a1) := by
  have e := @rfl _ @State.musCtlWrite
  conv at e => rhs; delta State.musCtlWrite
  rw [e]; clear e; beta_reduce
  repeat' first
    | with_reducible assumption
    | (fail_if_no_progress (extract_lets -underBinder +onlyGivenNames x); first | (have hT : (type_of% x) = (State) := (by with_reducible rfl); clear hT; refine (fun (hx : Keep s0 x) => ?_) ?_; (on_goal 1 => clear_value x); (on_goal 2 => subst x)) | (clear_value x) | fail)
    | (with_reducible apply keep_ite <;> intro)
    | with_reducible apply State.setReg_keep
    | with_reducible apply State.setB_keep
    | (with_reducible refine Keep.upd ?_ ?_; (on_goal 2 => exact ⟨by with_reducible rfl, by with_reducible rfl, by with_reducible rfl⟩); with_reducible assumption)

theorem portLater_keep {s0 s : State} (h : Keep s0 s) {a0 a2 a3} : KeepP s0 (portLater a0 s a2 a3) := by
  have e := @rfl _ @portLater
  conv at e => rhs; delta portLater
  rw [e]; clear e; beta_reduce
  repeat' first
    | (fail_if_no_progress (extract_lets -underBinder +onlyGivenNames x); first | (clear_value x) | fail)
    | (with_reducible refine Keep.upd ?_ ?_; (on_goal 2 => exact ⟨by with_reducible rfl, by with_reducible rfl, by with_reducible rfl⟩); with_reducible assumption)
    | with_reducible apply keepP_pair

theorem beginAudioPortDp_keep {s0 s : State} (h : Keep s0 s) {a0} : KeepP s0 (beginAudioPortDp a0 s) := by
  have e := @rfl _ @beginAudioPortDp
  conv at e => rhs; delta beginAudioPortDp
  rw [e]; clear e; beta_reduce
  repeat' first
    | with_reducible assumption
    | (fail_if_no_progress (extract_lets -underBinder +onlyGivenNames x); first | (have hT : (type_of% x) = (Nat) := (by with_reducible rfl); clear hT; clear_value x) | fail)
    | (with_reducible apply keepP_ite <;> intro)
    | with_reducible apply portLater_keep
    | split
    | with_reducible apply keepP_pair

theorem beginMixGraphLoad_keep {s0 s : State} (h : Keep s0 s) {a0} : KeepP s0 (beginMixGraphLoad a0 s) := by
  have e := @rfl _ @beginMixGraphLoad
  conv at e => rhs; delta beginMixGraphLoad
  rw [e]; clear e; beta_reduce
  repeat' first
    | with_reducible assumption
    | (fail_if_no_progress (extract_lets -underBinder +onlyGivenNames x); first | (have hT : (type_of% x) = (Nat) := (by with_reducible rfl); clear hT; clear_value x) | fail)
    | (with_reducible apply keepP_ite <;> intro)
    | with_reducible apply State.mixGraphRead_keep
    | split
    | with_reducible apply keepP_pair

theorem State.winWrite_keep {s0 s : State} (h : Keep s0 s) {a1 a2 a3} : Keep s0 (State.winWrite s a1 a2 a3) := by
  have e := @rfl _ @State.winWrite
  conv at e => rhs; delta State.winWrite
  rw [e]; clear e; beta_reduce
  repeat' first
    | with_reducible assumption
    | (fail_if_no_progress (extract_lets -underBinder +onlyGivenNames x); first | (clear_value x) | fail)
    | (with_reducible apply keep_ite <;> intro)
    | (with_reducible refine Keep.upd ?_ ?_; (on_goal 2 => exact ⟨by with_reducible rfl, by with_reducible rfl, by with_reducible rfl⟩); with_reducible assumption)

theorem State.winHdrWrite_keep {s0 s : State} (h : Keep s0 s) {a1 a2} : Keep s0 (State.winHdrWrite s a1 a2) := by
  have e := @rfl _ @State.winHdrWrite
  conv at e => rhs; delta State.winHdrWrite
  rw [e]; clear e; beta_reduce
  repeat' first
    | with_reducible assumption
    | (fail_if_no_progress (extract_lets -underBinder +onlyGivenNames x); first | (clear_value x) | fail)
    | (with_reducible apply keep_ite <;> intro)
    | (with_reducible refine Keep.upd ?_ ?_; (on_goal 2 => exact ⟨by with_reducible rfl, by with_reducible rfl, by with_reducible rfl⟩); with_reducible assumption)

theorem State.vgoWrite_keep {s0 s : State} (h : Keep s0 s) {a1} : Keep s0 (State.vgoWrite s a1) := by
  have e := @rfl _ @State.vgoWrite
  conv at e => rhs; delta State.vgoWrite
  rw [e]; clear e; beta_reduce
  repeat' first
    | with_reducible assumption
    | (fail_if_no_progress (extract_lets -underBinder +onlyGivenNames x); first | (have hT : (type_of% x) = (Nat) := (by with_reducible rfl); clear hT; clear_value x) | (clear_value x) | fail)
    | (with_reducible apply keep_ite <;> intro)
    | with_reducible apply State.setVoice_keep

theorem beginVoiceStop_keep {s0 s : State} (h : Keep s0 s) {a0} : KeepP s0 (beginVoiceStop a0 s) := by
  have e := @rfl _ @beginVoiceStop
  conv at e => rhs; delta beginVoiceStop
  rw [e]; clear e; beta_reduce
  repeat' first
    | with_reducible assumption
    | (fail_if_no_progress (extract_lets -underBinder +onlyGivenNames x); first | (have hT : (type_of% x) = (Nat) := (by with_reducible rfl); clear hT; clear_value x) | (have hT : (type_of% x) = (Bool) := (by with_reducible rfl); clear hT; clear_value x) | (clear_value x) | fail)
    | (with_reducible apply keepP_ite <;> intro)
    | with_reducible apply State.setVoice_keep
    | split
    | with_reducible apply keepP_pair

theorem beginMixCommit_keep {s0 s : State} (h : Keep s0 s) {a0} : KeepP s0 (beginMixCommit a0 s) := by
  have e := @rfl _ @beginMixCommit
  conv at e => rhs; delta beginMixCommit
  rw [e]; clear e; beta_reduce
  repeat' first
    | with_reducible assumption
    | (fail_if_no_progress (extract_lets -underBinder +onlyGivenNames x); first | (have hT : (type_of% x) = (State) := (by with_reducible rfl); clear hT; refine (fun (hx : Keep s0 x) => ?_) ?_; (on_goal 1 => clear_value x); (on_goal 2 => subst x)) | (clear_value x) | fail)
    | (with_reducible apply keepP_ite <;> intro)
    | with_reducible apply State.setB_keep
    | (with_reducible refine Keep.upd ?_ ?_; (on_goal 2 => exact ⟨by with_reducible rfl, by with_reducible rfl, by with_reducible rfl⟩); with_reducible assumption)
    | split
    | with_reducible apply keepP_pair

theorem beginVoiceStart_keep {s0 s : State} (h : Keep s0 s) {a0} : KeepP s0 (beginVoiceStart a0 s) := by
  have e := @rfl _ @beginVoiceStart
  conv at e => rhs; delta beginVoiceStart
  rw [e]; clear e; beta_reduce
  repeat' first
    | with_reducible assumption
    | (fail_if_no_progress (extract_lets -underBinder +onlyGivenNames x); first | (have hT : (type_of% x) = (State) := (by with_reducible rfl); clear hT; refine (fun (hx : Keep s0 x) => ?_) ?_; (on_goal 1 => clear_value x); (on_goal 2 => subst x)) | (have hT : (type_of% x) = (Nat) := (by with_reducible rfl); clear hT; clear_value x) | (clear_value x) | fail)
    | with_reducible apply State.setVoice_keep
    | with_reducible apply State.setReg_keep
    | with_reducible apply State.setB_keep
    | split
    | with_reducible apply keepP_pair

theorem beginMixParamSet_keep {s0 s : State} (h : Keep s0 s) {a0} : KeepP s0 (beginMixParamSet a0 s) := by
  have e := @rfl _ @beginMixParamSet
  conv at e => rhs; delta beginMixParamSet
  rw [e]; clear e; beta_reduce
  repeat' first
    | with_reducible assumption
    | (fail_if_no_progress (extract_lets -underBinder +onlyGivenNames x); first | (have hT : (type_of% x) = (Nat) := (by with_reducible rfl); clear hT; clear_value x) | (have hT : (type_of% x) = (BitVec 32) := (by with_reducible rfl); clear hT; clear_value x) | (have hT : (type_of% x) = (Option Nat) := (by with_reducible rfl); clear hT; clear_value x) | (clear_value x) | fail)
    | (with_reducible apply keepP_ite <;> intro)
    | (with_reducible refine Keep.upd ?_ ?_; (on_goal 2 => exact ⟨by with_reducible rfl, by with_reducible rfl, by with_reducible rfl⟩); with_reducible assumption)
    | split
    | with_reducible apply keepP_pair

theorem beginAudioPortTdm_keep {s0 s : State} (h : Keep s0 s) {a0} : KeepP s0 (beginAudioPortTdm a0 s) := by
  have e := @rfl _ @beginAudioPortTdm
  conv at e => rhs; delta beginAudioPortTdm
  rw [e]; clear e; beta_reduce
  repeat' first
    | with_reducible assumption
    | (with_reducible apply keepP_ite <;> intro)
    | with_reducible apply portLater_keep
    | split
    | with_reducible apply keepP_pair

theorem beginAudioPortSet_keep {s0 s : State} (h : Keep s0 s) {a0} : KeepP s0 (beginAudioPortSet a0 s) := by
  have e := @rfl _ @beginAudioPortSet
  conv at e => rhs; delta beginAudioPortSet
  rw [e]; clear e; beta_reduce
  repeat' first
    | with_reducible assumption
    | with_reducible apply beginAudioPortDp_keep
    | with_reducible apply beginAudioPortClock_keep
    | with_reducible apply beginAudioPortTdm_keep
    | split

end Sys2Proof.Machine
end

