-- ==== Sys2Proof/Laws/PsqKeep.lean ====
section
/-! SUPPORT. The operations of Machine/Psq.lean keep the open commands: see Laws/Keep.lean. -/

set_option linter.all false

namespace Sys2Proof.Machine

theorem State.psqSource_keep {s0 s : State} (h : Keep s0 s) {a1} : Keep s0 (State.psqSource s a1) := by
  have e := @rfl _ @State.psqSource
  conv at e => rhs; delta State.psqSource
  rw [e]; clear e; beta_reduce
  repeat' first
    | with_reducible assumption
    | (fail_if_no_progress (extract_lets -underBinder +onlyGivenNames x); first | (have hT : (type_of% x) = (BitVec 32) := (by with_reducible rfl); clear hT; clear_value x) | fail)
    | with_reducible apply State.level_keep

theorem State.psqFault_keep {s0 s : State} (h : Keep s0 s) {a1} : Keep s0 (State.psqFault s a1) := by
  have e := @rfl _ @State.psqFault
  conv at e => rhs; delta State.psqFault
  rw [e]; clear e; beta_reduce
  repeat' first
    | with_reducible assumption
    | with_reducible apply State.psqSource_keep
    | with_reducible apply State.setB_keep

theorem beginPinseqInject_keep {s0 s : State} (h : Keep s0 s) {a0} : KeepP s0 (beginPinseqInject a0 s) := by
  have e := @rfl _ @beginPinseqInject
  conv at e => rhs; delta beginPinseqInject
  rw [e]; clear e; beta_reduce
  repeat' first
    | with_reducible assumption
    | (fail_if_no_progress (extract_lets -underBinder +onlyGivenNames x); first | (have hT : (type_of% x) = (Nat) := (by with_reducible rfl); clear hT; clear_value x) | (clear_value x) | fail)
    | (with_reducible apply keepP_ite <;> intro)
    | with_reducible apply State.setPsqCh_keep
    | split
    | with_reducible apply keepP_pair

theorem State.pinLeave_keep {s0 s : State} (h : Keep s0 s) {a1} : Keep s0 (State.pinLeave s a1) := by
  have e := @rfl _ @State.pinLeave
  conv at e => rhs; delta State.pinLeave
  rw [e]; clear e; beta_reduce
  repeat' first
    | with_reducible assumption
    | with_reducible apply State.setB_keep

theorem State.psqStop_keep {s0 s : State} (h : Keep s0 s) {a1 a2} : KeepP s0 (State.psqStop s a1 a2) := by
  have e := @rfl _ @State.psqStop
  conv at e => rhs; delta State.psqStop
  rw [e]; clear e; beta_reduce
  repeat' first
    | with_reducible assumption
    | intro _ _ _
    | (fail_if_no_progress (extract_lets -underBinder +onlyGivenNames x); first | (have hT : (type_of% x) = (List Nat) := (by with_reducible rfl); clear hT; clear_value x) | (clear_value x) | fail)
    | with_reducible apply State.setPsqCh_keep
    | with_reducible refine State.each_keep ?_ _ ?_
    | with_reducible apply keepP_pair

theorem beginPinseqStop_keep {s0 s : State} (h : Keep s0 s) {a0} : KeepP s0 (beginPinseqStop a0 s) := by
  have e := @rfl _ @beginPinseqStop
  conv at e => rhs; delta beginPinseqStop
  rw [e]; clear e; beta_reduce
  repeat' first
    | with_reducible assumption
    | (fail_if_no_progress (extract_lets -underBinder +onlyGivenNames x); first | (have hT : (type_of% x) = (Nat) := (by with_reducible rfl); clear hT; clear_value x) | (have hT : ∃ α : Type, (type_of% x) = (α × State) := ⟨_, rfl⟩; clear hT; refine (fun (hx : KeepP s0 x) => ?_) ?_; (on_goal 1 => clear_value x); (on_goal 2 => subst x)) | fail)
    | (with_reducible apply keepP_ite <;> intro)
    | with_reducible apply State.psqStop_keep
    | (with_reducible apply KeepP.out; with_reducible assumption)
    | split
    | with_reducible apply keepP_pair

theorem beginPinseqSlot_keep {s0 s : State} (h : Keep s0 s) {a0} : KeepP s0 (beginPinseqSlot a0 s) := by
  have e := @rfl _ @beginPinseqSlot
  conv at e => rhs; delta beginPinseqSlot
  rw [e]; clear e; beta_reduce
  repeat' first
    | with_reducible assumption
    | intro _ _ _
    | with_reducible apply State.setReg_keep
    | with_reducible refine State.each_keep ?_ _ ?_
    | split
    | with_reducible apply keepP_pair

theorem beginPinseqProgram_keep {s0 s : State} (h : Keep s0 s) {a0} : KeepP s0 (beginPinseqProgram a0 s) := by
  have e := @rfl _ @beginPinseqProgram
  conv at e => rhs; delta beginPinseqProgram
  rw [e]; clear e; beta_reduce
  repeat' first
    | with_reducible assumption
    | intro _ _ _
    | with_reducible apply State.setReg_keep
    | with_reducible refine State.each_keep ?_ _ ?_
    | split
    | with_reducible apply keepP_pair

theorem beginPinseqConfig_keep {s0 s : State} (h : Keep s0 s) {a0} : KeepP s0 (beginPinseqConfig a0 s) := by
  have e := @rfl _ @beginPinseqConfig
  conv at e => rhs; delta beginPinseqConfig
  rw [e]; clear e; beta_reduce
  repeat' first
    | with_reducible assumption
    | (fail_if_no_progress (extract_lets -underBinder +onlyGivenNames x); first | (have hT : (type_of% x) = (State) := (by with_reducible rfl); clear hT; refine (fun (hx : Keep s0 x) => ?_) ?_; (on_goal 1 => clear_value x); (on_goal 2 => subst x)) | (have hT : (type_of% x) = (Nat) := (by with_reducible rfl); clear hT; clear_value x) | (clear_value x) | fail)
    | with_reducible apply State.setReg_keep
    | with_reducible apply State.setPsqCh_keep
    | split
    | with_reducible apply keepP_pair

theorem beginPinseqLoad_keep {s0 s : State} (h : Keep s0 s) {a0} : KeepP s0 (beginPinseqLoad a0 s) := by
  have e := @rfl _ @beginPinseqLoad
  conv at e => rhs; delta beginPinseqLoad
  rw [e]; clear e; beta_reduce
  repeat' first
    | with_reducible assumption
    | with_reducible apply beginPinseqProgram_keep
    | with_reducible apply beginPinseqSlot_keep
    | with_reducible apply beginPinseqConfig_keep
    | with_reducible apply beginPinseqInject_keep
    | split

theorem State.psqRefuse_keep {s0 s : State} (h : Keep s0 s) {a1 a2} : Keep s0 (State.psqRefuse s a1 a2) := by
  have e := @rfl _ @State.psqRefuse
  conv at e => rhs; delta State.psqRefuse
  rw [e]; clear e; beta_reduce
  repeat' first
    | with_reducible assumption
    | with_reducible apply State.setB_keep
    | with_reducible apply State.setF_keep

theorem State.psqLine_keep {s0 s : State} (h : Keep s0 s) {a1} : Keep s0 (State.psqLine s a1) := by
  have e := @rfl _ @State.psqLine
  conv at e => rhs; delta State.psqLine
  rw [e]; clear e; beta_reduce
  repeat' first
    | with_reducible assumption
    | (fail_if_no_progress (extract_lets -underBinder +onlyGivenNames x); first | (have hT : (type_of% x) = (State) := (by with_reducible rfl); clear hT; refine (fun (hx : Keep s0 x) => ?_) ?_; (on_goal 1 => clear_value x); (on_goal 2 => subst x)) | (have hT : (type_of% x) = (Nat) := (by with_reducible rfl); clear hT; clear_value x) | (have hT : (type_of% x) = (Bool) := (by with_reducible rfl); clear hT; clear_value x) | (clear_value x) | fail)
    | (with_reducible apply keep_ite <;> intro)
    | with_reducible apply State.setPsqCh_keep
    | with_reducible apply State.request_keep

theorem State.psqShow_keep {s0 s : State} (h : Keep s0 s) {a1} : Keep s0 (State.psqShow s a1) := by
  have e := @rfl _ @State.psqShow
  conv at e => rhs; delta State.psqShow
  rw [e]; clear e; beta_reduce
  repeat' first
    | with_reducible assumption
    | (fail_if_no_progress (extract_lets -underBinder +onlyGivenNames x); first | (have hT : (type_of% x) = (State) := (by with_reducible rfl); clear hT; refine (fun (hx : Keep s0 x) => ?_) ?_; (on_goal 1 => clear_value x); (on_goal 2 => subst x)) | (have hT : (type_of% x) = (Nat) := (by with_reducible rfl); clear hT; clear_value x) | (clear_value x) | fail)
    | with_reducible apply State.setF_keep
    | with_reducible apply State.setB_keep
    | with_reducible apply State.setReg_keep
    | with_reducible apply State.psqLine_keep

theorem State.psqConfigure_keep {s0 s : State} (h : Keep s0 s) {a1} : Keep s0 (State.psqConfigure s a1) := by
  have e := @rfl _ @State.psqConfigure
  conv at e => rhs; delta State.psqConfigure
  rw [e]; clear e; beta_reduce
  repeat' first
    | with_reducible assumption
    | intro _ _ _
    | (fail_if_no_progress (extract_lets -underBinder +onlyGivenNames x); first | (have hT : (type_of% x) = (State) := (by with_reducible rfl); clear hT; refine (fun (hx : Keep s0 x) => ?_) ?_; (on_goal 1 => clear_value x); (on_goal 2 => subst x)) | (have hT : (type_of% x) = (BitVec 32) := (by with_reducible rfl); clear hT; clear_value x) | (have hT : (type_of% x) = (List Nat) := (by with_reducible rfl); clear hT; clear_value x) | (clear_value x) | fail)
    | (with_reducible apply keep_ite <;> intro)
    | with_reducible apply State.pinLeave_keep
    | with_reducible apply State.setB_keep
    | with_reducible apply State.setF_keep
    | with_reducible apply State.psqFault_keep
    | with_reducible apply State.setPsqCh_keep
    | with_reducible refine State.each_keep ?_ _ ?_

theorem State.psqStart_keep {s0 s : State} (h : Keep s0 s) {a1} : KeepP s0 (State.psqStart s a1) := by
  have e := @rfl _ @State.psqStart
  conv at e => rhs; delta State.psqStart
  rw [e]; clear e; beta_reduce
  repeat' first
    | with_reducible assumption
    | intro _ _ _
    | (fail_if_no_progress (extract_lets -underBinder +onlyGivenNames x); first | (clear_value x) | fail)
    | with_reducible apply State.psqRefuse_keep
    | with_reducible apply State.setPsqCh_keep
    | with_reducible apply State.psqConfigure_keep
    | with_reducible refine State.each_keep ?_ _ ?_
    | split
    | with_reducible apply keepP_pair

theorem State.psqInject_keep {s0 s : State} (h : Keep s0 s) {a1 a2} : Keep s0 (State.psqInject s a1 a2) := by
  have e := @rfl _ @State.psqInject
  conv at e => rhs; delta State.psqInject
  rw [e]; clear e; beta_reduce
  repeat' first
    | with_reducible assumption
    | (fail_if_no_progress (extract_lets -underBinder +onlyGivenNames x); first | (have hT : (type_of% x) = (State) := (by with_reducible rfl); clear hT; refine (fun (hx : Keep s0 x) => ?_) ?_; (on_goal 1 => clear_value x); (on_goal 2 => subst x)) | (have hT : (type_of% x) = (Bool) := (by with_reducible rfl); clear hT; clear_value x) | (clear_value x) | fail)
    | (with_reducible apply keep_ite <;> intro)
    | with_reducible apply State.setReg_keep
    | with_reducible apply State.setB_keep
    | with_reducible apply State.setPsqCh_keep

theorem State.psqDrain_keep {s0 s : State} (h : Keep s0 s) {a1} : KeepP s0 (State.psqDrain s a1) := by
  have e := @rfl _ @State.psqDrain
  conv at e => rhs; delta State.psqDrain
  rw [e]; clear e; beta_reduce
  repeat' first
    | with_reducible assumption
    | (fail_if_no_progress (extract_lets -underBinder +onlyGivenNames x); first | (clear_value x) | fail)
    | with_reducible apply State.psqShow_keep
    | with_reducible apply State.setPsqCh_keep
    | split
    | with_reducible apply keepP_pair

theorem State.psqFeed_keep {s0 s : State} (h : Keep s0 s) {a1 a2} : Keep s0 (State.psqFeed s a1 a2) := by
  have e := @rfl _ @State.psqFeed
  conv at e => rhs; delta State.psqFeed
  rw [e]; clear e; beta_reduce
  repeat' first
    | with_reducible assumption
    | (fail_if_no_progress (extract_lets -underBinder +onlyGivenNames x); first | (clear_value x) | fail)
    | (with_reducible apply keep_ite <;> intro)
    | with_reducible apply State.psqShow_keep
    | with_reducible apply State.setPsqCh_keep
    | with_reducible apply State.setB_keep

theorem beginPinseqStart_keep {s0 s : State} (h : Keep s0 s) {a0} : KeepP s0 (beginPinseqStart a0 s) := by
  have e := @rfl _ @beginPinseqStart
  conv at e => rhs; delta beginPinseqStart
  rw [e]; clear e; beta_reduce
  repeat' first
    | with_reducible assumption
    | (fail_if_no_progress (extract_lets -underBinder +onlyGivenNames x); first | (have hT : (type_of% x) = (Nat) := (by with_reducible rfl); clear hT; clear_value x) | (have hT : (type_of% x) = (List Nat) := (by with_reducible rfl); clear hT; clear_value x) | (have hT : ∃ α : Type, (type_of% x) = (α × State) := ⟨_, rfl⟩; clear hT; refine (fun (hx : KeepP s0 x) => ?_) ?_; (on_goal 1 => clear_value x); (on_goal 2 => subst x)) | fail)
    | (with_reducible apply keepP_ite <;> intro)
    | with_reducible apply State.psqStart_keep
    | (with_reducible apply KeepP.out; with_reducible assumption)
    | split
    | with_reducible apply keepP_pair

end Sys2Proof.Machine
end

