-- ==== Sys2Proof/Laws/RectKeep.lean ====
section
/-! SUPPORT. The operations of Machine/Rect.lean keep the open commands: see Laws/Keep.lean. -/

set_option linter.all false

namespace Sys2Proof.Machine

theorem State.rectRestore_keep {s0 s : State} (h : Keep s0 s) {a1} : Keep s0 (State.rectRestore s a1) := by
  have e := @rfl _ @State.rectRestore
  conv at e => rhs; delta State.rectRestore
  rw [e]; clear e; beta_reduce
  repeat' first
    | with_reducible assumption
    | intro _ _ _
    | with_reducible apply State.setReg_keep
    | with_reducible refine State.each_keep ?_ _ ?_

theorem State.setRect_keep {s0 s : State} (h : Keep s0 s) {a1 a2} : Keep s0 (State.setRect s a1 a2) := by
  have e := @rfl _ @State.setRect
  conv at e => rhs; delta State.setRect
  rw [e]; clear e; beta_reduce
  repeat' (with_reducible refine Keep.upd ?_ ?_; (on_goal 2 => exact ⟨by with_reducible rfl, by with_reducible rfl, by with_reducible rfl⟩); with_reducible assumption)

theorem beginRect_keep {s0 s : State} (h : Keep s0 s) {a0 a1} : KeepP s0 (beginRect a0 a1 s) := by
  have e := @rfl _ @beginRect
  conv at e => rhs; delta beginRect
  rw [e]; clear e; beta_reduce
  repeat' first
    | with_reducible assumption
    | (fail_if_no_progress (extract_lets -underBinder +onlyGivenNames x); first | (have hT : (type_of% x) = (Nat) := (by with_reducible rfl); clear hT; clear_value x) | (clear_value x) | fail)
    | with_reducible apply State.setRect_keep
    | split
    | with_reducible apply keepP_pair

theorem beginRectConvert_keep {s0 s : State} (h : Keep s0 s) {a0} : KeepP s0 (beginRectConvert a0 s) := by
  have e := @rfl _ @beginRectConvert
  conv at e => rhs; delta beginRectConvert
  rw [e]; clear e; beta_reduce
  repeat' first
    | with_reducible assumption
    | with_reducible apply beginRect_keep

theorem beginRectFill_keep {s0 s : State} (h : Keep s0 s) {a0} : KeepP s0 (beginRectFill a0 s) := by
  have e := @rfl _ @beginRectFill
  conv at e => rhs; delta beginRectFill
  rw [e]; clear e; beta_reduce
  repeat' first
    | with_reducible assumption
    | with_reducible apply beginRect_keep

theorem State.rectOrder_keep {s0 s : State} (h : Keep s0 s) {a1 a2 a3} : Keep s0 (State.rectOrder s a1 a2 a3) := by
  have e := @rfl _ @State.rectOrder
  conv at e => rhs; delta State.rectOrder
  rw [e]; clear e; beta_reduce
  repeat' first
    | with_reducible assumption
    | (fail_if_no_progress (extract_lets -underBinder +onlyGivenNames x); first | (have hT : (type_of% x) = (Nat) := (by with_reducible rfl); clear hT; clear_value x) | fail)
    | with_reducible apply State.setReg_keep
    | with_reducible apply State.setB_keep

theorem State.rectSample_keep {s0 s : State} (h : Keep s0 s) {a1} : Keep s0 (State.rectSample s a1) := by
  have e := @rfl _ @State.rectSample
  conv at e => rhs; delta State.rectSample
  rw [e]; clear e; beta_reduce
  repeat' first
    | with_reducible assumption
    | (fail_if_no_progress (extract_lets -underBinder +onlyGivenNames x); first | (clear_value x) | fail)
    | with_reducible apply State.setRect_keep

theorem State.rectBusy_keep {s0 s : State} (h : Keep s0 s) {a1 a2} : Keep s0 (State.rectBusy s a1 a2) := by
  have e := @rfl _ @State.rectBusy
  conv at e => rhs; delta State.rectBusy
  rw [e]; clear e; beta_reduce
  repeat' first
    | with_reducible assumption
    | (fail_if_no_progress (extract_lets -underBinder +onlyGivenNames x); first | (have hT : (type_of% x) = (State) := (by with_reducible rfl); clear hT; refine (fun (hx : Keep s0 x) => ?_) ?_; (on_goal 1 => clear_value x); (on_goal 2 => subst x)) | (clear_value x) | fail)
    | with_reducible apply State.rectSample_keep
    | with_reducible apply State.rectOrder_keep
    | with_reducible apply State.setB_keep
    | with_reducible apply State.setRect_keep

theorem State.rctCtlWrite_keep {s0 s : State} (h : Keep s0 s) {a1 a2} : Keep s0 (State.rctCtlWrite s a1 a2) := by
  have e := @rfl _ @State.rctCtlWrite
  conv at e => rhs; delta State.rctCtlWrite
  rw [e]; clear e; beta_reduce
  repeat' first
    | with_reducible assumption
    | (fail_if_no_progress (extract_lets -underBinder +onlyGivenNames x); first | (have hT : (type_of% x) = (State) := (by with_reducible rfl); clear hT; refine (fun (hx : Keep s0 x) => ?_) ?_; (on_goal 1 => clear_value x); (on_goal 2 => subst x)) | (have hT : (type_of% x) = (Nat) := (by with_reducible rfl); clear hT; clear_value x) | (have hT : (type_of% x) = (Option Nat) := (by with_reducible rfl); clear hT; clear_value x) | (clear_value x) | fail)
    | (with_reducible apply keep_ite <;> intro)
    | with_reducible apply State.setReg_keep
    | with_reducible apply State.setB_keep
    | with_reducible apply State.setF_keep
    | with_reducible apply State.rectRestore_keep
    | with_reducible apply State.pulse_keep
    | with_reducible apply State.rectOrder_keep
    | with_reducible apply State.rectSample_keep
    | with_reducible apply State.rectBusy_keep
    | split

theorem beginRectCopy_keep {s0 s : State} (h : Keep s0 s) {a0} : KeepP s0 (beginRectCopy a0 s) := by
  have e := @rfl _ @beginRectCopy
  conv at e => rhs; delta beginRectCopy
  rw [e]; clear e; beta_reduce
  repeat' first
    | with_reducible assumption
    | with_reducible apply beginRect_keep

end Sys2Proof.Machine
end

