-- ==== Sys2Proof/Laws/RegsKeep.lean ====
section
/-! SUPPORT. The operations of Machine/Regs.lean keep the open commands: see Laws/Keep.lean. -/

set_option linter.all false

namespace Sys2Proof.Machine

theorem State.loRead_keep {s0 s : State} (h : Keep s0 s) {a1 a2} : KeepP s0 (State.loRead s a1 a2) := by
  have e := @rfl _ @State.loRead
  conv at e => rhs; delta State.loRead
  rw [e]; clear e; beta_reduce
  repeat' first
    | with_reducible assumption
    | with_reducible apply State.setReg_keep
    | with_reducible apply keepP_pair

theorem State.w1c_keep {s0 s : State} (h : Keep s0 s) {a1 a2 a3} : Keep s0 (State.w1c s a1 a2 a3) := by
  have e := @rfl _ @State.w1c
  conv at e => rhs; delta State.w1c
  rw [e]; clear e; beta_reduce
  repeat' first
    | with_reducible assumption
    | with_reducible apply State.setReg_keep

theorem State.tmbWrite_keep {s0 s : State} (h : Keep s0 s) {a1 a2} : KeepO s0 (State.tmbWrite s a1 a2) := by
  have e := @rfl _ @State.tmbWrite
  conv at e => rhs; delta State.tmbWrite
  rw [e]; clear e; beta_reduce
  repeat' first
    | with_reducible assumption
    | (fail_if_no_progress (extract_lets -underBinder +onlyGivenNames x); first | (have hT : (type_of% x) = (Nat) := (by with_reducible rfl); clear hT; clear_value x) | fail)
    | (with_reducible apply keepO_ite <;> intro)
    | with_reducible apply State.w1c_keep
    | with_reducible apply State.setReg_keep
    | with_reducible apply State.tmbCmpWrite_keep
    | with_reducible apply State.tmbCapWrite_keep
    | with_reducible exact keepO_none
    | with_reducible apply keepO_some
    | split

theorem State.pf1Read_keep {s0 s : State} (h : Keep s0 s) {a1} : KeepP s0 (State.pf1Read s a1) := by
  have e := @rfl _ @State.pf1Read
  conv at e => rhs; delta State.pf1Read
  rw [e]; clear e; beta_reduce
  repeat' first
    | with_reducible assumption
    | (with_reducible apply keepP_ite <;> intro)
    | with_reducible apply State.claim_keep
    | with_reducible apply keepP_pair

theorem State.palWrite_keep {s0 s : State} (h : Keep s0 s) {a1 a2 a3} : KeepO s0 (State.palWrite s a1 a2 a3) := by
  have e := @rfl _ @State.palWrite
  conv at e => rhs; delta State.palWrite
  rw [e]; clear e; beta_reduce
  repeat' first
    | with_reducible assumption
    | with_reducible apply State.setB_keep
    | with_reducible apply State.updHead_keep
    | with_reducible apply State.hostActive_keep
    | with_reducible exact keepO_none
    | with_reducible apply keepO_some
    | split

theorem State.ringCfgWrite_keep {s0 s : State} (h : Keep s0 s) {a1 a2} : Keep s0 (State.ringCfgWrite s a1 a2) := by
  have e := @rfl _ @State.ringCfgWrite
  conv at e => rhs; delta State.ringCfgWrite
  rw [e]; clear e; beta_reduce
  repeat' first
    | with_reducible assumption
    | (fail_if_no_progress (extract_lets -underBinder +onlyGivenNames x); first | (have hT : (type_of% x) = (State) := (by with_reducible rfl); clear hT; refine (fun (hx : Keep s0 x) => ?_) ?_; (on_goal 1 => clear_value x); (on_goal 2 => subst x)) | (have hT : (type_of% x) = (Nat) := (by with_reducible rfl); clear hT; clear_value x) | (have hT : (type_of% x) = (BitVec 32) := (by with_reducible rfl); clear hT; clear_value x) | (have hT : (type_of% x) = (BitVec 64) := (by with_reducible rfl); clear hT; clear_value x) | (have hT : (type_of% x) = (Foyer) := (by with_reducible rfl); clear hT) | fail)
    | (with_reducible apply keep_ite <;> intro)
    | with_reducible apply State.wdrop_keep
    | with_reducible apply State.setB_keep
    | with_reducible apply State.setReg_keep
    | with_reducible apply State.setF_keep
    | with_reducible apply State.setW64_keep
    | (with_reducible refine Keep.upd ?_ ?_; (on_goal 2 => exact ⟨by with_reducible rfl, by with_reducible rfl, by with_reducible rfl⟩); with_reducible assumption)

theorem State.ringWrite_keep {s0 s : State} (h : Keep s0 s) {a1 a2 a3} : Keep s0 (State.ringWrite s a1 a2 a3) := by
  have e := @rfl _ @State.ringWrite
  conv at e => rhs; delta State.ringWrite
  rw [e]; clear e; beta_reduce
  repeat' first
    | with_reducible assumption
    | intro _ _
    | intro _
    | (fail_if_no_progress (extract_lets -underBinder +onlyGivenNames x); first | (have hT : (type_of% x) = (State) := (by with_reducible rfl); clear hT; refine (fun (hx : Keep s0 x) => ?_) ?_; (on_goal 1 => clear_value x); (on_goal 2 => subst x)) | (have hT : (type_of% x) = (State → State) := (by with_reducible rfl); clear hT; refine (fun (hx : ∀ t, Keep s0 t → Keep s0 (x t)) => ?_) ?_; (on_goal 1 => clear_value x); (on_goal 2 => subst x)) | (have hT : ∃ α : Type, (type_of% x) = (α → State) := ⟨_, rfl⟩; clear hT; refine (fun (hx : ∀ a, Keep s0 (x a)) => ?_) ?_; (on_goal 1 => clear_value x); (on_goal 2 => subst x)) | fail)
    | (with_reducible apply keep_ite <;> intro)
    | with_reducible apply State.wdrop_keep
    | with_reducible apply State.setReg_keep
    | with_reducible apply State.releaseHeld_keep
    | with_reducible apply State.ringCfgWrite_keep
    | with_reducible apply_assumption -exfalso -symm
    | split

theorem State.pageRead_keep {s0 s : State} (h : Keep s0 s) {a1 a2} : KeepP s0 (State.pageRead s a1 a2) := by
  have e := @rfl _ @State.pageRead
  conv at e => rhs; delta State.pageRead
  rw [e]; clear e; beta_reduce
  repeat' first
    | with_reducible assumption
    | (fail_if_no_progress (extract_lets -underBinder +onlyGivenNames x); first | (have hT : (type_of% x) = (Nat) := (by with_reducible rfl); clear hT; clear_value x) | fail)
    | (with_reducible apply keepP_ite <;> intro)
    | with_reducible apply State.loRead_keep
    | with_reducible apply State.bstsRead_keep
    | with_reducible apply State.claim_keep
    | with_reducible apply State.capRead_keep
    | with_reducible apply State.psqDrain_keep
    | split
    | with_reducible apply keepP_pair

theorem State.ringRead_keep {s0 s : State} (h : Keep s0 s) {a1 a2} : KeepP s0 (State.ringRead s a1 a2) := by
  have e := @rfl _ @State.ringRead
  conv at e => rhs; delta State.ringRead
  rw [e]; clear e; beta_reduce
  repeat' first
    | with_reducible assumption
    | (with_reducible apply keepP_ite <;> intro)
    | with_reducible apply State.loRead_keep
    | with_reducible apply State.setReg_keep
    | with_reducible apply keepP_pair

theorem State.busRead_keep {s0 s : State} (h : Keep s0 s) {a1 a2} : KeepP s0 (State.busRead s a1 a2) := by
  have e := @rfl _ @State.busRead
  conv at e => rhs; delta State.busRead
  rw [e]; clear e; beta_reduce
  repeat' first
    | with_reducible assumption
    | (fail_if_no_progress (extract_lets -underBinder +onlyGivenNames x); first | (have hT : (type_of% x) = (Nat) := (by with_reducible rfl); clear hT; clear_value x) | (have hT : (type_of% x) = (Bool) := (by with_reducible rfl); clear hT; clear_value x) | (have hT : ∃ α : Type, (type_of% x) = (α × State) := ⟨_, rfl⟩; clear hT; refine (fun (hx : KeepP s0 x) => ?_) ?_; (on_goal 1 => clear_value x); (on_goal 2 => subst x)) | fail)
    | (with_reducible apply keepP_ite <;> intro)
    | with_reducible apply State.refusedAccess_keep
    | with_reducible apply State.pageRead_keep
    | (with_reducible apply KeepP.out; with_reducible assumption)
    | with_reducible apply keepP_pair

theorem State.regRead_keep {s0 s : State} (h : Keep s0 s) {a1 a2} : KeepP s0 (State.regRead s a1 a2) := by
  have e := @rfl _ @State.regRead
  conv at e => rhs; delta State.regRead
  rw [e]; clear e; beta_reduce
  repeat' first
    | with_reducible assumption
    | (fail_if_no_progress (extract_lets -underBinder +onlyGivenNames x); first | (have hT : (type_of% x) = (Nat) := (by with_reducible rfl); clear hT; clear_value x) | (have hT : ∃ α : Type, (type_of% x) = (α × State) := ⟨_, rfl⟩; clear hT; refine (fun (hx : KeepP s0 x) => ?_) ?_; (on_goal 1 => clear_value x); (on_goal 2 => subst x)) | fail)
    | (with_reducible apply keepP_ite <;> intro)
    | with_reducible apply State.pageRead_keep
    | with_reducible apply State.ringRead_keep
    | with_reducible apply State.pf1Read_keep
    | with_reducible apply State.refusedAccess_keep
    | with_reducible apply State.busRead_keep
    | (with_reducible apply KeepP.out; with_reducible assumption)
    | split
    | with_reducible apply keepP_pair

theorem State.flipWrite_keep {s0 s : State} (h : Keep s0 s) {a1 a2 a3} : KeepO s0 (State.flipWrite s a1 a2 a3) := by
  have e := @rfl _ @State.flipWrite
  conv at e => rhs; delta State.flipWrite
  rw [e]; clear e; beta_reduce
  repeat' first
    | with_reducible assumption
    | with_reducible apply State.celFlipWrite_keep
    | with_reducible apply State.flipAddrWrite_keep
    | with_reducible apply State.panFlipWrite_keep
    | with_reducible exact keepO_none
    | with_reducible apply keepO_some
    | split

theorem State.portFormat_keep {s0 s : State} (h : Keep s0 s) {a1 a2} : Keep s0 (State.portFormat s a1 a2) := by
  have e := @rfl _ @State.portFormat
  conv at e => rhs; delta State.portFormat
  rw [e]; clear e; beta_reduce
  repeat' first
    | (fail_if_no_progress (extract_lets -underBinder +onlyGivenNames x); first | (clear_value x) | fail)
    | (with_reducible refine Keep.upd ?_ ?_; (on_goal 2 => exact ⟨by with_reducible rfl, by with_reducible rfl, by with_reducible rfl⟩); with_reducible assumption)

theorem State.musWrite_keep {s0 s : State} (h : Keep s0 s) {a1 a2} : KeepO s0 (State.musWrite s a1 a2) := by
  have e := @rfl _ @State.musWrite
  conv at e => rhs; delta State.musWrite
  rw [e]; clear e; beta_reduce
  repeat' first
    | with_reducible assumption
    | (fail_if_no_progress (extract_lets -underBinder +onlyGivenNames x); first | (have hT : (type_of% x) = (Nat) := (by with_reducible rfl); clear hT; clear_value x) | fail)
    | (with_reducible apply keepO_ite <;> intro)
    | with_reducible apply State.w1c_keep
    | with_reducible apply State.vgoWrite_keep
    | with_reducible apply State.musCtlWrite_keep
    | with_reducible apply State.portFormat_keep
    | with_reducible apply State.setReg_keep
    | with_reducible apply State.winWrite_keep
    | with_reducible apply State.winHdrWrite_keep
    | with_reducible exact keepO_none
    | with_reducible apply keepO_some
    | split

theorem State.headWrite_keep {s0 s : State} (h : Keep s0 s) {a1 a2 a3} : KeepO s0 (State.headWrite s a1 a2 a3) := by
  have e := @rfl _ @State.headWrite
  conv at e => rhs; delta State.headWrite
  rw [e]; clear e; beta_reduce
  repeat' first
    | with_reducible assumption
    | (with_reducible apply keep_ite <;> intro)
    | (with_reducible apply keepO_ite <;> intro)
    | with_reducible apply State.w1c_keep
    | with_reducible apply State.requestCommit_keep
    | with_reducible apply State.setHd_keep
    | with_reducible apply State.stage_keep
    | with_reducible apply State.hostActive_keep
    | with_reducible apply State.palWrite_keep
    | with_reducible exact keepO_none
    | with_reducible apply keepO_some
    | split

theorem State.rctWrite_keep {s0 s : State} (h : Keep s0 s) {a1 a2} : KeepO s0 (State.rctWrite s a1 a2) := by
  have e := @rfl _ @State.rctWrite
  conv at e => rhs; delta State.rctWrite
  rw [e]; clear e; beta_reduce
  repeat' first
    | with_reducible assumption
    | (fail_if_no_progress (extract_lets -underBinder +onlyGivenNames x); first | (have hT : (type_of% x) = (Nat) := (by with_reducible rfl); clear hT; clear_value x) | fail)
    | (with_reducible apply keepO_ite <;> intro)
    | with_reducible apply State.rctCtlWrite_keep
    | with_reducible apply State.setReg_keep
    | with_reducible apply State.w1c_keep
    | with_reducible exact keepO_none
    | with_reducible apply keepO_some
    | split

theorem State.glbWrite_keep {s0 s : State} (h : Keep s0 s) {a1 a2} : KeepO s0 (State.glbWrite s a1 a2) := by
  have e := @rfl _ @State.glbWrite
  conv at e => rhs; delta State.glbWrite
  rw [e]; clear e; beta_reduce
  repeat' first
    | with_reducible assumption
    | (with_reducible apply keepO_ite <;> intro)
    | with_reducible apply State.setReg_keep
    | with_reducible apply State.w1c_keep
    | with_reducible apply State.featCommitWrite_keep
    | with_reducible apply State.maskWrite_keep
    | with_reducible apply State.swWrite_keep
    | with_reducible apply State.msixWrite_keep
    | with_reducible exact keepO_none
    | with_reducible apply keepO_some

theorem State.narrowWrite_keep {s0 s : State} (h : Keep s0 s) {a1 a2} : Keep s0 (State.narrowWrite s a1 a2) := by
  have e := @rfl _ @State.narrowWrite
  conv at e => rhs; delta State.narrowWrite
  rw [e]; clear e; beta_reduce
  repeat' first
    | with_reducible assumption
    | (fail_if_no_progress (extract_lets -underBinder +onlyGivenNames x); first | (have hT : (type_of% x) = (Nat) := (by with_reducible rfl); clear hT; clear_value x) | (clear_value x) | fail)
    | (with_reducible apply keep_ite <;> intro)
    | with_reducible apply State.wdrop_keep
    | with_reducible apply State.refusedAccess_keep
    | split

theorem State.pf1Write_keep {s0 s : State} (h : Keep s0 s) {a1 a2} : Keep s0 (State.pf1Write s a1 a2) := by
  have e := @rfl _ @State.pf1Write
  conv at e => rhs; delta State.pf1Write
  rw [e]; clear e; beta_reduce
  repeat' first
    | with_reducible assumption
    | (with_reducible apply keep_ite <;> intro)
    | with_reducible apply State.wdrop_keep
    | with_reducible apply State.doneWrite_keep
    | with_reducible apply State.w1c_keep
    | with_reducible apply State.msixWrite_keep

theorem State.progWrite_keep {s0 s : State} (h : Keep s0 s) {a1 a2 a3} : KeepO s0 (State.progWrite s a1 a2 a3) := by
  have e := @rfl _ @State.progWrite
  conv at e => rhs; delta State.progWrite
  rw [e]; clear e; beta_reduce
  repeat' first
    | with_reducible assumption
    | (with_reducible apply keepO_ite <;> intro)
    | with_reducible apply State.setB_keep
    | with_reducible apply State.updCore_keep
    | with_reducible exact keepO_none
    | with_reducible apply keepO_some

theorem State.psqWrite_keep {s0 s : State} (h : Keep s0 s) {a1 a2} : KeepO s0 (State.psqWrite s a1 a2) := by
  have e := @rfl _ @State.psqWrite
  conv at e => rhs; delta State.psqWrite
  rw [e]; clear e; beta_reduce
  repeat' first
    | with_reducible assumption
    | (fail_if_no_progress (extract_lets -underBinder +onlyGivenNames x); first | (have hT : (type_of% x) = (Nat) := (by with_reducible rfl); clear hT; clear_value x) | fail)
    | (with_reducible apply keepO_ite <;> intro)
    | with_reducible apply State.setReg_keep
    | with_reducible apply State.psqSource_keep
    | with_reducible apply State.w1c_keep
    | with_reducible apply State.psqFeed_keep
    | with_reducible apply State.psqInject_keep
    | with_reducible exact keepO_none
    | with_reducible apply keepO_some
    | (with_reducible apply KeepP.out; first | with_reducible apply State.psqStart_keep | with_reducible apply State.psqStop_keep)
    | split

end Sys2Proof.Machine
end

