-- ==== Sys2Proof/Laws/ChimneyKeep.lean ====
section
/-! SUPPORT. The operations of Machine/Chimney.lean keep the open commands: see Laws/Keep.lean. -/

set_option linter.all false

namespace Sys2Proof.Machine

theorem State.refreshSet_keep {s0 s : State} (h : Keep s0 s) {a1 a2} : Keep s0 (State.refreshSet s a1 a2) := by
  have e := @rfl _ @State.refreshSet
  conv at e => rhs; delta State.refreshSet
  rw [e]; clear e; beta_reduce
  repeat' first
    | with_reducible assumption
    | (fail_if_no_progress (extract_lets -underBinder +onlyGivenNames x); first | (have hT : (type_of% x) = (State) := (by with_reducible rfl); clear hT; refine (fun (hx : Keep s0 x) => ?_) ?_; (on_goal 1 => clear_value x); (on_goal 2 => subst x)) | (have hT : (type_of% x) = (Nat) := (by with_reducible rfl); clear hT; clear_value x) | (have hT : (type_of% x) = (Bool) := (by with_reducible rfl); clear hT; clear_value x) | fail)
    | (with_reducible apply keep_ite <;> intro)
    | with_reducible apply State.setReg_keep
    | with_reducible apply State.loopBound_keep

theorem State.refreshAll_keep {s0 s : State} (h : Keep s0 s) : Keep s0 (State.refreshAll s) := by
  have e := @rfl _ @State.refreshAll
  conv at e => rhs; delta State.refreshAll
  rw [e]; clear e; beta_reduce
  repeat' first
    | with_reducible assumption
    | intro _ _ _
    | with_reducible apply State.refreshSet_keep
    | with_reducible refine State.each_keep ?_ _ ?_

theorem beginClockPolicy_keep {s0 s : State} (h : Keep s0 s) {a0} : KeepP s0 (beginClockPolicy a0 s) := by
  have e := @rfl _ @beginClockPolicy
  conv at e => rhs; delta beginClockPolicy
  rw [e]; clear e; beta_reduce
  repeat' first
    | with_reducible assumption
    | intro _ _ _
    | intro _
    | (fail_if_no_progress (extract_lets -underBinder +onlyGivenNames x); first | (have hT : (type_of% x) = (State) := (by with_reducible rfl); clear hT; refine (fun (hx : Keep s0 x) => ?_) ?_; (on_goal 1 => clear_value x); (on_goal 2 => subst x)) | (have hT : (type_of% x) = (Nat) := (by with_reducible rfl); clear hT; clear_value x) | (have hT : (type_of% x) = (Packet) := (by with_reducible rfl); clear hT; clear_value x) | (have hT : ∃ α : Type, (type_of% x) = (Bool → Bool → (Unit → α × State) → α × State) := ⟨_, rfl⟩; clear hT; refine (fun (hx : ∀ a b f, (∀ u, KeepP s0 (f u)) → KeepP s0 (x a b f)) => ?_) ?_; (on_goal 1 => clear_value x); (on_goal 2 => subst x)) | (clear_value x) | fail)
    | (with_reducible apply keepP_ite <;> intro)
    | with_reducible apply State.setReg_keep
    | with_reducible apply State.refreshAll_keep
    | with_reducible apply State.throtBound_keep
    | with_reducible apply beginPullWindow_keep
    | with_reducible apply_assumption -exfalso -symm
    | (with_reducible apply KeepP.out; with_reducible apply_assumption -exfalso -symm)
    | split
    | with_reducible apply keepP_pair

theorem beginTelemetryConfig_keep {s0 s : State} (h : Keep s0 s) {a0} : KeepP s0 (beginTelemetryConfig a0 s) := by
  have e := @rfl _ @beginTelemetryConfig
  conv at e => rhs; delta beginTelemetryConfig
  rw [e]; clear e; beta_reduce
  repeat' first
    | with_reducible assumption
    | (fail_if_no_progress (extract_lets -underBinder +onlyGivenNames x); first | (have hT : (type_of% x) = (Nat) := (by with_reducible rfl); clear hT; clear_value x) | (have hT : (type_of% x) = (Bool) := (by with_reducible rfl); clear hT; clear_value x) | (have hT : (type_of% x) = (Packet) := (by with_reducible rfl); clear hT; clear_value x) | (clear_value x) | fail)
    | (with_reducible refine Keep.upd ?_ ?_; (on_goal 2 => exact ⟨by with_reducible rfl, by with_reducible rfl, by with_reducible rfl⟩); with_reducible assumption)
    | split
    | with_reducible apply keepP_pair

theorem State.receiptsDrop_keep {s0 s : State} (h : Keep s0 s) {a1} : Keep s0 (State.receiptsDrop s a1) := by
  have e := @rfl _ @State.receiptsDrop
  conv at e => rhs; delta State.receiptsDrop
  rw [e]; clear e; beta_reduce
  repeat' first
    | with_reducible assumption
    | intro _ _ _
    | (fail_if_no_progress (extract_lets -underBinder +onlyGivenNames x); first | (have hT : (type_of% x) = (State) := (by with_reducible rfl); clear hT; refine (fun (hx : Keep s0 x) => ?_) ?_; (on_goal 1 => clear_value x); (on_goal 2 => subst x)) | fail)
    | with_reducible apply State.updIg_keep
    | with_reducible apply State.errRec_keep
    | with_reducible apply State.incReg_keep
    | with_reducible refine State.each_keep ?_ _ ?_

theorem State.powerCommit_keep {s0 s : State} (h : Keep s0 s) {a1} : Keep s0 (State.powerCommit s a1) := by
  have e := @rfl _ @State.powerCommit
  conv at e => rhs; delta State.powerCommit
  rw [e]; clear e; beta_reduce
  repeat' first
    | with_reducible assumption
    | intro _ _ _
    | (fail_if_no_progress (extract_lets -underBinder +onlyGivenNames x); first | (have hT : (type_of% x) = (State) := (by with_reducible rfl); clear hT; refine (fun (hx : Keep s0 x) => ?_) ?_; (on_goal 1 => clear_value x); (on_goal 2 => subst x)) | (have hT : (type_of% x) = (BitVec 32) := (by with_reducible rfl); clear hT; clear_value x) | (clear_value x) | fail)
    | (with_reducible apply keep_ite <;> intro)
    | with_reducible apply State.setF_keep
    | with_reducible apply State.portsDisable_keep
    | with_reducible apply State.batchClose_keep
    | with_reducible apply State.receiptsDrop_keep
    | with_reducible refine State.each_keep ?_ _ ?_
    | (with_reducible refine Keep.upd ?_ ?_; (on_goal 2 => exact ⟨by with_reducible rfl, by with_reducible rfl, by with_reducible rfl⟩); with_reducible assumption)
    | split

theorem beginPowerState_keep {s0 s : State} (h : Keep s0 s) {a0} : KeepP s0 (beginPowerState a0 s) := by
  have e := @rfl _ @beginPowerState
  conv at e => rhs; delta beginPowerState
  rw [e]; clear e; beta_reduce
  repeat' first
    | with_reducible assumption
    | (fail_if_no_progress (extract_lets -underBinder +onlyGivenNames x); first | (have hT : (type_of% x) = (Nat) := (by with_reducible rfl); clear hT; clear_value x) | (have hT : (type_of% x) = (BitVec 32) := (by with_reducible rfl); clear hT; clear_value x) | (have hT : (type_of% x) = (Packet) := (by with_reducible rfl); clear hT; clear_value x) | (have hT : (type_of% x) = (Option Nat) := (by with_reducible rfl); clear hT; clear_value x) | fail)
    | split
    | with_reducible apply keepP_pair

end Sys2Proof.Machine
end

