-- ==== Sys2Proof/Laws/SpritesGrow.lean ====
section
/-! SUPPORT. The operations of Machine/Sprites.lean leave every committed set and drop no mark: see Laws/Grow.lean. -/

set_option linter.all false

namespace Sys2Proof.Machine

theorem State.spriteLine_grow {s0 s : State} (h : Grow s0 s) {a1 a2 a3 a4 a5} : GrowP s0 (State.spriteLine s a1 a2 a3 a4 a5) := by
  have e := @rfl _ @State.spriteLine
  conv at e => rhs; delta State.spriteLine
  rw [e]; clear e; beta_reduce
  repeat' first
    | with_reducible assumption
    | (fail_if_no_progress (extract_lets -underBinder +onlyGivenNames x); first | (have hT : (type_of% x) = (State) := (by with_reducible rfl); clear hT; refine (fun (hx : Grow s0 x) => ?_) ?_; (on_goal 1 => clear_value x); (on_goal 2 => subst x)) | (have hT : ∃ α : Type, (type_of% x) = (α × State) := ⟨_, rfl⟩; clear hT; refine (fun (hx : GrowP s0 x) => ?_) ?_; (on_goal 1 => clear_value x); (on_goal 2 => subst x)) | fail)
    | with_reducible apply State.headRead_grow
    | (with_reducible apply GrowP.out; with_reducible assumption)
    | (with_reducible refine Grow.upd ?_; with_reducible assumption)
    | split
    | with_reducible apply growP_pair

theorem State.spriteLate_grow {s0 s : State} (h : Grow s0 s) {a1} : Grow s0 (State.spriteLate s a1) := by
  have e := @rfl _ @State.spriteLate
  conv at e => rhs; delta State.spriteLate
  rw [e]; clear e; beta_reduce
  repeat' first
    | with_reducible assumption
    | (with_reducible refine State.updHead_grow ?_ ?_; (on_goal 2 => intro _ _ ht; first | exact ht | exact List.mem_cons_of_mem _ ht | (split <;> exact ht)))

theorem State.spriteLoaded_grow {s0 s : State} (h : Grow s0 s) {a1} : Grow s0 (State.spriteLoaded s a1) := by
  have e := @rfl _ @State.spriteLoaded
  conv at e => rhs; delta State.spriteLoaded
  rw [e]; clear e; beta_reduce
  repeat' first
    | with_reducible assumption
    | intro _ _ _
    | (fail_if_no_progress (extract_lets -underBinder +onlyGivenNames x); first | (have hT : (type_of% x) = (Nat) := (by with_reducible rfl); clear hT; clear_value x) | (have hT : ∃ α : Type, (type_of% x) = (α × State) := ⟨_, rfl⟩; clear hT; refine (fun (hx : GrowP s0 x) => ?_) ?_; (on_goal 1 => clear_value x); (on_goal 2 => subst x)) | (clear_value x) | fail)
    | (with_reducible apply grow_ite <;> intro)
    | (with_reducible refine State.updHead_grow ?_ ?_; (on_goal 2 => intro _ _ ht; first | exact ht | exact List.mem_cons_of_mem _ ht | (split <;> exact ht)))
    | with_reducible apply State.spriteLine_grow
    | with_reducible apply State.setB_grow
    | with_reducible refine foldl_growP _ ?_ ?_
    | (with_reducible apply GrowP.out; with_reducible assumption)
    | split
    | with_reducible apply growP_pair

theorem State.spDraw_grow {s0 s : State} (h : Grow s0 s) {a1 a2 a3 a4 a5} : GrowP s0 (State.spDraw s a1 a2 a3 a4 a5) := by
  have e := @rfl _ @State.spDraw
  conv at e => rhs; delta State.spDraw
  rw [e]; clear e; beta_reduce
  repeat' first
    | with_reducible assumption
    | (fail_if_no_progress (extract_lets -underBinder +onlyGivenNames x); first | (have hT : (type_of% x) = (Nat) := (by with_reducible rfl); clear hT; clear_value x) | (have hT : (type_of% x) = (Int) := (by with_reducible rfl); clear hT; clear_value x) | (have hT : ∃ α : Type, (type_of% x) = (α × State) := ⟨_, rfl⟩; clear hT; refine (fun (hx : GrowP s0 x) => ?_) ?_; (on_goal 1 => clear_value x); (on_goal 2 => subst x)) | (clear_value x) | fail)
    | (with_reducible apply growP_ite <;> intro)
    | with_reducible apply State.setB_grow
    | with_reducible apply State.headRead_grow
    | (with_reducible apply GrowP.out; with_reducible assumption)
    | with_reducible apply growP_pair

theorem State.spriteEval_grow {s0 s : State} (h : Grow s0 s) {a1 a2} : Grow s0 (State.spriteEval s a1 a2) := by
  have e := @rfl _ @State.spriteEval
  conv at e => rhs; delta State.spriteEval
  rw [e]; clear e; beta_reduce
  repeat' first
    | with_reducible assumption
    | intro _ _ _
    | (fail_if_no_progress (extract_lets -underBinder +onlyGivenNames x); first | (have hT : (type_of% x) = (State) := (by with_reducible rfl); clear hT; refine (fun (hx : Grow s0 x) => ?_) ?_; (on_goal 1 => clear_value x); (on_goal 2 => subst x)) | (have hT : ∃ α : Type, (type_of% x) = (α × State) := ⟨_, rfl⟩; clear hT; refine (fun (hx : GrowP s0 x) => ?_) ?_; (on_goal 1 => clear_value x); (on_goal 2 => subst x)) | (clear_value x) | fail)
    | (with_reducible apply grow_ite <;> intro)
    | (with_reducible refine State.updHead_grow ?_ ?_; (on_goal 2 => intro _ _ ht; first | exact ht | exact List.mem_cons_of_mem _ ht | (split <;> exact ht)))
    | with_reducible apply State.setB_grow
    | with_reducible apply State.spDraw_grow
    | with_reducible refine foldl_growP _ ?_ ?_
    | (with_reducible apply GrowP.out; with_reducible assumption)
    | with_reducible apply growP_pair

end Sys2Proof.Machine
end

