-- ==== Sys2Proof/Laws/TilesGrow.lean ====
section
/-! SUPPORT. The operations of Machine/Tiles.lean leave every committed set and drop no mark: see Laws/Grow.lean. -/

set_option linter.all false

namespace Sys2Proof.Machine

theorem State.readEntry_grow {s0 s : State} (h : Grow s0 s) {a1 a2 a3} : Grow s0 (State.readEntry s a1 a2 a3) := by
  have e := @rfl _ @State.readEntry
  conv at e => rhs; delta State.readEntry
  rw [e]; clear e; beta_reduce
  repeat' first
    | with_reducible assumption
    | (fail_if_no_progress (extract_lets -underBinder +onlyGivenNames x); first | (have hT : (type_of% x) = (Nat) := (by with_reducible rfl); clear hT; clear_value x) | (have hT : ∃ α : Type, (type_of% x) = (α × State) := ⟨_, rfl⟩; clear hT; refine (fun (hx : GrowP s0 x) => ?_) ?_; (on_goal 1 => clear_value x); (on_goal 2 => subst x)) | (clear_value x) | fail)
    | (with_reducible apply grow_ite <;> intro)
    | (with_reducible refine State.updHead_grow ?_ ?_; (on_goal 2 => intro _ _ ht; first | exact ht | exact List.mem_cons_of_mem _ ht | (split <;> exact ht)))
    | with_reducible apply State.headRead_grow
    | (with_reducible apply GrowP.out; with_reducible assumption)

theorem State.columnEntry_grow {s0 s : State} (h : Grow s0 s) {a1 a2 a3} : GrowP s0 (State.columnEntry s a1 a2 a3) := by
  have e := @rfl _ @State.columnEntry
  conv at e => rhs; delta State.columnEntry
  rw [e]; clear e; beta_reduce
  repeat' first
    | with_reducible assumption
    | (fail_if_no_progress (extract_lets -underBinder +onlyGivenNames x); first | (have hT : ∃ α : Type, (type_of% x) = (α × State) := ⟨_, rfl⟩; clear hT; refine (fun (hx : GrowP s0 x) => ?_) ?_; (on_goal 1 => clear_value x); (on_goal 2 => subst x)) | (clear_value x) | fail)
    | (with_reducible apply growP_ite <;> intro)
    | with_reducible apply State.headRead_grow
    | (with_reducible apply GrowP.out; with_reducible assumption)
    | with_reducible apply growP_pair

theorem State.mapEntry_grow {s0 s : State} (h : Grow s0 s) {a1 a2 a3 a4} : GrowP s0 (State.mapEntry s a1 a2 a3 a4) := by
  have e := @rfl _ @State.mapEntry
  conv at e => rhs; delta State.mapEntry
  rw [e]; clear e; beta_reduce
  repeat' first
    | with_reducible assumption
    | (fail_if_no_progress (extract_lets -underBinder +onlyGivenNames x); first | (have hT : (type_of% x) = (Nat) := (by with_reducible rfl); clear hT; clear_value x) | (have hT : ∃ α : Type, (type_of% x) = (α × State) := ⟨_, rfl⟩; clear hT; refine (fun (hx : GrowP s0 x) => ?_) ?_; (on_goal 1 => clear_value x); (on_goal 2 => subst x)) | (clear_value x) | fail)
    | (with_reducible apply growP_ite <;> intro)
    | with_reducible apply State.headRead_grow
    | (with_reducible apply GrowP.out; with_reducible assumption)
    | split
    | with_reducible apply growP_pair

theorem State.tilePattern_grow {s0 s : State} (h : Grow s0 s) {a1 a2 a3 a4 a5} : GrowP s0 (State.tilePattern s a1 a2 a3 a4 a5) := by
  have e := @rfl _ @State.tilePattern
  conv at e => rhs; delta State.tilePattern
  rw [e]; clear e; beta_reduce
  repeat' first
    | with_reducible assumption
    | (fail_if_no_progress (extract_lets -underBinder +onlyGivenNames x); first | (have hT : (type_of% x) = (Nat) := (by with_reducible rfl); clear hT; clear_value x) | (have hT : ∃ α : Type, (type_of% x) = (α × State) := ⟨_, rfl⟩; clear hT; refine (fun (hx : GrowP s0 x) => ?_) ?_; (on_goal 1 => clear_value x); (on_goal 2 => subst x)) | (clear_value x) | fail)
    | (with_reducible apply growP_ite <;> intro)
    | with_reducible apply State.setB_grow
    | with_reducible apply State.headRead_grow
    | (with_reducible apply GrowP.out; with_reducible assumption)
    | split
    | with_reducible apply growP_pair

theorem State.tileRead_grow {s0 s : State} (h : Grow s0 s) {a1 a2 a3 a4 a5} : GrowP s0 (State.tileRead s a1 a2 a3 a4 a5) := by
  have e := @rfl _ @State.tileRead
  conv at e => rhs; delta State.tileRead
  rw [e]; clear e; beta_reduce
  repeat' first
    | with_reducible assumption
    | with_reducible apply State.mapEntry_grow
    | with_reducible apply State.tilePattern_grow
    | (with_reducible refine Grow.upd ?_; refine GrowP.of_eq (by assumption) ?_)
    | split
    | with_reducible apply growP_pair

theorem State.tileFetch_grow {s0 s : State} (h : Grow s0 s) {a1 a2 a3 a4 a5} : GrowP s0 (State.tileFetch s a1 a2 a3 a4 a5) := by
  have e := @rfl _ @State.tileFetch
  conv at e => rhs; delta State.tileFetch
  rw [e]; clear e; beta_reduce
  repeat' first
    | with_reducible assumption
    | (fail_if_no_progress (extract_lets -underBinder +onlyGivenNames x); first | (have hT : (type_of% x) = (State) := (by with_reducible rfl); clear hT; refine (fun (hx : Grow s0 x) => ?_) ?_; (on_goal 1 => clear_value x); (on_goal 2 => subst x)) | (have hT : ∃ α : Type, (type_of% x) = (α × State) := ⟨_, rfl⟩; clear hT; refine (fun (hx : GrowP s0 x) => ?_) ?_; (on_goal 1 => clear_value x); (on_goal 2 => subst x)) | fail)
    | with_reducible apply State.readEntry_grow
    | with_reducible apply State.columnEntry_grow
    | with_reducible apply State.tileRead_grow
    | (with_reducible apply GrowP.out; with_reducible assumption)
    | split
    | with_reducible apply growP_pair

theorem State.readRow_grow {s0 s : State} (h : Grow s0 s) {a1 a2 a3} : Grow s0 (State.readRow s a1 a2 a3) := by
  have e := @rfl _ @State.readRow
  conv at e => rhs; delta State.readRow
  rw [e]; clear e; beta_reduce
  repeat' first
    | with_reducible assumption
    | (fail_if_no_progress (extract_lets -underBinder +onlyGivenNames x); first | (have hT : (type_of% x) = (State) := (by with_reducible rfl); clear hT; refine (fun (hx : Grow s0 x) => ?_) ?_; (on_goal 1 => clear_value x); (on_goal 2 => subst x)) | (have hT : ∃ α : Type, (type_of% x) = (α × State) := ⟨_, rfl⟩; clear hT; refine (fun (hx : GrowP s0 x) => ?_) ?_; (on_goal 1 => clear_value x); (on_goal 2 => subst x)) | (clear_value x) | fail)
    | (with_reducible apply grow_ite <;> intro)
    | (with_reducible refine State.updHead_grow ?_ ?_; (on_goal 2 => intro _ _ ht; first | exact ht | exact List.mem_cons_of_mem _ ht | (split <;> exact ht)))
    | with_reducible apply State.readEntry_grow
    | with_reducible apply State.headReadRow_grow
    | with_reducible apply State.mark_grow
    | (with_reducible apply GrowP.out; with_reducible assumption)
    | split

theorem State.tileAt_grow {s0 s : State} (h : Grow s0 s) {a1 a2 a3 a4 a5 a6} : GrowP s0 (State.tileAt s a1 a2 a3 a4 a5 a6) := by
  have e := @rfl _ @State.tileAt
  conv at e => rhs; delta State.tileAt
  rw [e]; clear e; beta_reduce
  repeat' first
    | with_reducible assumption
    | (fail_if_no_progress (extract_lets -underBinder +onlyGivenNames x); first | (have hT : (type_of% x) = (Nat) := (by with_reducible rfl); clear hT; clear_value x) | (have hT : ∃ α : Type, (type_of% x) = (α × State) := ⟨_, rfl⟩; clear hT; refine (fun (hx : GrowP s0 x) => ?_) ?_; (on_goal 1 => clear_value x); (on_goal 2 => subst x)) | (clear_value x) | fail)
    | (with_reducible apply growP_ite <;> intro)
    | with_reducible apply State.tileFetch_grow
    | (with_reducible apply GrowP.out; with_reducible assumption)
    | split
    | with_reducible apply growP_pair

theorem State.tilesFetch_grow {s0 s : State} (h : Grow s0 s) {a1 a2 a3 a4} : Grow s0 (State.tilesFetch s a1 a2 a3 a4) := by
  have e := @rfl _ @State.tilesFetch
  conv at e => rhs; delta State.tilesFetch
  rw [e]; clear e; beta_reduce
  repeat' first
    | with_reducible assumption
    | intro _ _ _
    | (fail_if_no_progress (extract_lets -underBinder +onlyGivenNames x); first | (have hT : ∃ α : Type, (type_of% x) = (α × State) := ⟨_, rfl⟩; clear hT; refine (fun (hx : GrowP s0 x) => ?_) ?_; (on_goal 1 => clear_value x); (on_goal 2 => subst x)) | (clear_value x) | fail)
    | (with_reducible apply grow_ite <;> intro)
    | (with_reducible refine State.updHead_grow ?_ ?_; (on_goal 2 => intro _ _ ht; first | exact ht | exact List.mem_cons_of_mem _ ht | (split <;> exact ht)))
    | with_reducible apply State.tileFetch_grow
    | with_reducible refine State.each_grow ?_ _ ?_
    | (with_reducible apply GrowP.out; with_reducible assumption)

end Sys2Proof.Machine
end

