-- ==== Sys2Proof/Laws/ComposeGrow.lean ====
section
/-! SUPPORT. The operations of Machine/Compose.lean leave every committed set and drop no mark: see Laws/Grow.lean. -/

set_option linter.all false

namespace Sys2Proof.Machine

theorem State.layerAt_grow {s0 s : State} (h : Grow s0 s) {a1 a2 a3 a4 a5} : GrowP s0 (State.layerAt s a1 a2 a3 a4 a5) := by
  have e := @rfl _ @State.layerAt
  conv at e => rhs; delta State.layerAt
  rw [e]; clear e; beta_reduce
  repeat' first
    | with_reducible assumption
    | (fail_if_no_progress (extract_lets -underBinder +onlyGivenNames x); first | (clear_value x) | fail)
    | (with_reducible apply growP_ite <;> intro)
    | with_reducible apply State.tileAt_grow
    | with_reducible apply growP_pair

theorem State.layersAt_grow {s0 s : State} (h : Grow s0 s) {a1 a2 a3} : GrowP s0 (State.layersAt s a1 a2 a3) := by
  have e := @rfl _ @State.layersAt
  conv at e => rhs; delta State.layersAt
  rw [e]; clear e; beta_reduce
  repeat' first
    | with_reducible assumption
    | intro _ _ _
    | (fail_if_no_progress (extract_lets -underBinder +onlyGivenNames x); first | (have hT : (type_of% x) = (State) := (by with_reducible rfl); clear hT; refine (fun (hx : Grow s0 x) => ?_) ?_; (on_goal 1 => clear_value x); (on_goal 2 => subst x)) | (have hT : ∃ α : Type, (type_of% x) = (α × State) := ⟨_, rfl⟩; clear hT; refine (fun (hx : GrowP s0 x) => ?_) ?_; (on_goal 1 => clear_value x); (on_goal 2 => subst x)) | (clear_value x) | fail)
    | (with_reducible apply growP_ite <;> intro)
    | with_reducible apply State.layerAt_grow
    | with_reducible apply State.shutter_grow
    | with_reducible refine foldl_growP _ ?_ ?_
    | (with_reducible apply GrowP.out; with_reducible assumption)
    | with_reducible apply growP_pair

theorem State.spritesAt_grow {s0 s : State} (h : Grow s0 s) {a1 a2 a3} : GrowP s0 (State.spritesAt s a1 a2 a3) := by
  have e := @rfl _ @State.spritesAt
  conv at e => rhs; delta State.spritesAt
  rw [e]; clear e; beta_reduce
  repeat' first
    | with_reducible assumption
    | (fail_if_no_progress (extract_lets -underBinder +onlyGivenNames x); first | (clear_value x) | fail)
    | (with_reducible apply growP_ite <;> intro)
    | with_reducible apply State.shutter_grow
    | with_reducible apply growP_pair

theorem State.composeAt_grow {s0 s : State} (h : Grow s0 s) {a1 a2 a3} : GrowP s0 (State.composeAt s a1 a2 a3) := by
  have e := @rfl _ @State.composeAt
  conv at e => rhs; delta State.composeAt
  rw [e]; clear e; beta_reduce
  repeat' first
    | with_reducible assumption
    | (fail_if_no_progress (extract_lets -underBinder +onlyGivenNames x); first | (have hT : (type_of% x) = (State) := (by with_reducible rfl); clear hT; refine (fun (hx : Grow s0 x) => ?_) ?_; (on_goal 1 => clear_value x); (on_goal 2 => subst x)) | (have hT : (type_of% x) = (BitVec 32) := (by with_reducible rfl); clear hT; clear_value x) | (have hT : ∃ α : Type, (type_of% x) = (α × State) := ⟨_, rfl⟩; clear hT; refine (fun (hx : GrowP s0 x) => ?_) ?_; (on_goal 1 => clear_value x); (on_goal 2 => subst x)) | (clear_value x) | fail)
    | with_reducible apply State.layersAt_grow
    | with_reducible apply State.spritesAt_grow
    | (with_reducible apply GrowP.out; with_reducible assumption)
    | with_reducible apply growP_pair

end Sys2Proof.Machine
end

