-- ==== Sys2Proof/Laws/HallwayCalm.lean ====
section
/-! SUPPORT. The operations of Machine/Hallway.lean that can finish commands leave calm ones alone: see Laws/Calm.lean. -/

set_option linter.all false

namespace Sys2Proof.Machine

theorem State.setTags_calm {s0 s : State} (h : Calm s0 s) {a1 a2} : Calm s0 (State.setTags s a1 a2) := by
  have e := @rfl _ @State.setTags
  conv at e => rhs; delta State.setTags
  rw [e]; clear e; beta_reduce
  repeat' first
    | (fail_if_no_progress (extract_lets -underBinder +onlyGivenNames x); first | (clear_value x) | fail)
    | with_reducible apply State.setReg_calm
    | (with_reducible refine Calm.upd ?_ ?_; (on_goal 2 => with_reducible rfl); with_reducible assumption)

theorem State.setSlots_calm {s0 s : State} (h : Calm s0 s) {a1 a2} : Calm s0 (State.setSlots s a1 a2) := by
  have e := @rfl _ @State.setSlots
  conv at e => rhs; delta State.setSlots
  rw [e]; clear e; beta_reduce
  repeat' first
    | (fail_if_no_progress (extract_lets -underBinder +onlyGivenNames x); first | (clear_value x) | fail)
    | (with_reducible refine Calm.upd ?_ ?_; (on_goal 2 => with_reducible rfl); with_reducible assumption)

theorem State.setHalPort_calm {s0 s : State} (h : Calm s0 s) {a1 a2} : Calm s0 (State.setHalPort s a1 a2) := by
  have e := @rfl _ @State.setHalPort
  conv at e => rhs; delta State.setHalPort
  rw [e]; clear e; beta_reduce
  repeat' first
    | (fail_if_no_progress (extract_lets -underBinder +onlyGivenNames x); first | (clear_value x) | fail)
    | (with_reducible refine Calm.upd ?_ ?_; (on_goal 2 => with_reducible rfl); with_reducible assumption)

theorem State.flitOut_calm {s0 s : State} (h : Calm s0 s) {a1 a2} : Calm s0 (State.flitOut s a1 a2) := by
  have e := @rfl _ @State.flitOut
  conv at e => rhs; delta State.flitOut
  rw [e]; clear e; beta_reduce
  repeat' first
    | with_reducible assumption
    | (fail_if_no_progress (extract_lets -underBinder +onlyGivenNames x); first | (clear_value x) | fail)
    | with_reducible apply State.setHalPort_calm

theorem State.halArbit_calm {s0 s : State} (h : Calm s0 s) {a1 a2} : Calm s0 (State.halArbit s a1 a2) := by
  have e := @rfl _ @State.halArbit
  conv at e => rhs; delta State.halArbit
  rw [e]; clear e; beta_reduce
  repeat' first
    | with_reducible assumption
    | (fail_if_no_progress (extract_lets -underBinder +onlyGivenNames x); first | (have hT : (type_of% x) = (State) := (by with_reducible rfl); clear hT; refine (fun (hx : Calm s0 x) => ?_) ?_; (on_goal 1 => clear_value x); (on_goal 2 => subst x)) | (have hT : (type_of% x) = (Nat) := (by with_reducible rfl); clear hT; clear_value x) | (clear_value x) | fail)
    | with_reducible apply State.flitOut_calm
    | (with_reducible refine Calm.upd ?_ ?_; (on_goal 2 => with_reducible rfl); with_reducible assumption)
    | split

theorem State.flitIn_calm {s0 s : State} (h : Calm s0 s) {a1 a2} : Calm s0 (State.flitIn s a1 a2) := by
  have e := @rfl _ @State.flitIn
  conv at e => rhs; delta State.flitIn
  rw [e]; clear e; beta_reduce
  repeat' first
    | with_reducible assumption
    | (fail_if_no_progress (extract_lets -underBinder +onlyGivenNames x); first | (clear_value x) | fail)
    | (with_reducible apply calm_ite <;> intro)
    | with_reducible apply State.setHalPort_calm

theorem State.halCross_calm {s0 s : State} (h : Calm s0 s) {a1 a2 a3} : Calm s0 (State.halCross s a1 a2 a3) := by
  have e := @rfl _ @State.halCross
  conv at e => rhs; delta State.halCross
  rw [e]; clear e; beta_reduce
  repeat' first
    | with_reducible assumption
    | with_reducible apply State.halArbit_calm
    | with_reducible apply State.flitIn_calm

theorem State.cellarTransfer_calm {s0 s : State} (h : Calm s0 s) {a1 a2 a3 a4 a5} : Calm s0 (State.cellarTransfer s a1 a2 a3 a4 a5) := by
  have e := @rfl _ @State.cellarTransfer
  conv at e => rhs; delta State.cellarTransfer
  rw [e]; clear e; beta_reduce
  repeat' first
    | with_reducible assumption
    | (fail_if_no_progress (extract_lets -underBinder +onlyGivenNames x); first | (have hT : (type_of% x) = (State) := (by with_reducible rfl); clear hT; refine (fun (hx : Calm s0 x) => ?_) ?_; (on_goal 1 => clear_value x); (on_goal 2 => subst x)) | (clear_value x) | fail)
    | (with_reducible apply calm_ite <;> intro)
    | with_reducible apply State.setTags_calm
    | with_reducible apply State.setSlots_calm
    | with_reducible apply State.halCross_calm
    | split

end Sys2Proof.Machine
end

