-- ==== Sys2Proof/Laws/MemCalm.lean ====
section
/-! SUPPORT. The operations of Machine/Mem.lean that can finish commands leave calm ones alone: see Laws/Calm.lean. -/

set_option linter.all false

namespace Sys2Proof.Machine

theorem State.uncorrectable_calm {s0 s : State} (h : Calm s0 s) {a1 a2} : Calm s0 (State.uncorrectable s a1 a2) := by
  have e := @rfl _ @State.uncorrectable
  conv at e => rhs; delta State.uncorrectable
  rw [e]; clear e; beta_reduce
  repeat' first
    | with_reducible assumption
    | (fail_if_no_progress (extract_lets -underBinder +onlyGivenNames x); first | (have hT : (type_of% x) = (State) := (by with_reducible rfl); clear hT; refine (fun (hx : Calm s0 x) => ?_) ?_; (on_goal 1 => clear_value x); (on_goal 2 => subst x)) | (clear_value x) | fail)
    | with_reducible apply State.setReg_calm
    | with_reducible apply State.pulse_calm
    | with_reducible apply State.incReg_calm
    | (with_reducible refine Calm.upd ?_ ?_; (on_goal 2 => with_reducible rfl); with_reducible assumption)
    | split

theorem State.setBytes_calm {s0 s : State} (h : Calm s0 s) {a1 a2} : Calm s0 (State.setBytes s a1 a2) := by
  induction a2 generalizing s a1 with
  | nil => exact h
  | cons b bs ih => exact ih (State.setByte_calm h)

theorem State.celWake_calm {s0 s : State} (h : Calm s0 s) {a1 a2 a3} : Calm s0 (State.celWake s a1 a2 a3) := by
  have e := @rfl _ @State.celWake
  conv at e => rhs; delta State.celWake
  rw [e]; clear e; beta_reduce
  repeat' first
    | with_reducible assumption
    | intro _ _ _
    | (with_reducible apply calm_ite <;> intro)
    | with_reducible apply State.setB_calm
    | with_reducible refine State.each_calm ?_ _ ?_
    | split

theorem State.celFlipDone_calm {s0 s : State} (h : Calm s0 s) : Calm s0 (State.celFlipDone s) := by
  have e := @rfl _ @State.celFlipDone
  conv at e => rhs; delta State.celFlipDone
  rw [e]; clear e; beta_reduce
  repeat' first
    | with_reducible assumption
    | with_reducible apply State.setReg_calm

theorem State.storeLine_calm {s0 s : State} (h : Calm s0 s) {a1 a2 a3 a4 a5} : Calm s0 (State.storeLine s a1 a2 a3 a4 a5) := by
  have e := @rfl _ @State.storeLine
  conv at e => rhs; delta State.storeLine
  rw [e]; clear e; beta_reduce
  repeat' first
    | with_reducible assumption
    | intro _ _ _
    | (fail_if_no_progress (extract_lets -underBinder +onlyGivenNames x); first | (have hT : (type_of% x) = (State) := (by with_reducible rfl); clear hT; refine (fun (hx : Calm s0 x) => ?_) ?_; (on_goal 1 => clear_value x); (on_goal 2 => subst x)) | (have hT : (type_of% x) = (Nat) := (by with_reducible rfl); clear hT; clear_value x) | (have hT : (type_of% x) = (BitVec 32) := (by with_reducible rfl); clear hT; clear_value x) | (have hT : (type_of% x) = (List Nat) := (by with_reducible rfl); clear hT; clear_value x) | (clear_value x) | fail)
    | (with_reducible apply calm_ite <;> intro)
    | with_reducible apply State.setBytes_calm
    | with_reducible apply State.celWake_calm
    | with_reducible apply State.setCode_calm
    | with_reducible apply State.celFlipDone_calm
    | with_reducible apply State.setReg_calm
    | with_reducible apply State.setByte_calm
    | with_reducible refine State.each_calm ?_ _ ?_
    | split

theorem State.countCe_calm {s0 s : State} (h : Calm s0 s) {a1} : Calm s0 (State.countCe s a1) := by
  have e := @rfl _ @State.countCe
  conv at e => rhs; delta State.countCe
  rw [e]; clear e; beta_reduce
  repeat' first
    | (fail_if_no_progress (extract_lets -underBinder +onlyGivenNames x); first | (clear_value x) | fail)
    | (with_reducible refine Calm.upd ?_ ?_; (on_goal 2 => with_reducible rfl); with_reducible assumption)

theorem State.corrLog_calm {s0 s : State} (h : Calm s0 s) {a1 a2 a3 a4 a5 a6 a7 a8 a9} : Calm s0 (State.corrLog s a1 a2 a3 a4 a5 a6 a7 a8 a9) := by
  have e := @rfl _ @State.corrLog
  conv at e => rhs; delta State.corrLog
  rw [e]; clear e; beta_reduce
  repeat' first
    | with_reducible assumption
    | intro _ _ _
    | intro _ _
    | (fail_if_no_progress (extract_lets -underBinder +onlyGivenNames x); first | (have hT : (type_of% x) = (State) := (by with_reducible rfl); clear hT; refine (fun (hx : Calm s0 x) => ?_) ?_; (on_goal 1 => clear_value x); (on_goal 2 => subst x)) | (have hT : (type_of% x) = (Nat) := (by with_reducible rfl); clear hT; clear_value x) | (have hT : (type_of% x) = (State → State) := (by with_reducible rfl); clear hT; refine (fun (hx : ∀ t, Calm s0 t → Calm s0 (x t)) => ?_) ?_; (on_goal 1 => clear_value x); (on_goal 2 => subst x)) | (have hT : ∃ α : Type, (type_of% x) = (State → α → State) := ⟨_, rfl⟩; clear hT; refine (fun (hx : ∀ t a, Calm s0 t → Calm s0 (x t a)) => ?_) ?_; (on_goal 1 => clear_value x); (on_goal 2 => subst x)) | (clear_value x) | fail)
    | (with_reducible apply calm_ite <;> intro)
    | with_reducible apply State.pulse_calm
    | with_reducible apply State.errRec_calm
    | with_reducible apply State.setReg_calm
    | with_reducible apply State.setF_calm
    | with_reducible apply State.setW64_calm
    | with_reducible apply_assumption -exfalso -symm
    | split

theorem State.corrected_calm {s0 s : State} (h : Calm s0 s) {a1 a2 a3} : Calm s0 (State.corrected s a1 a2 a3) := by
  have e := @rfl _ @State.corrected
  conv at e => rhs; delta State.corrected
  rw [e]; clear e; beta_reduce
  repeat' first
    | with_reducible assumption
    | (fail_if_no_progress (extract_lets -underBinder +onlyGivenNames x); first | (have hT : (type_of% x) = (State) := (by with_reducible rfl); clear hT; refine (fun (hx : Calm s0 x) => ?_) ?_; (on_goal 1 => clear_value x); (on_goal 2 => subst x)) | (have hT : (type_of% x) = (Nat) := (by with_reducible rfl); clear hT; clear_value x) | fail)
    | with_reducible apply State.countCe_calm
    | with_reducible apply State.corrLog_calm
    | split

theorem State.rmwFix_calm {s0 s : State} (h : Calm s0 s) {a1 a2 a3} : Calm s0 (State.rmwFix s a1 a2 a3) := by
  have e := @rfl _ @State.rmwFix
  conv at e => rhs; delta State.rmwFix
  rw [e]; clear e; beta_reduce
  repeat' first
    | with_reducible assumption
    | intro _ _ _
    | with_reducible apply State.setCode_calm
    | with_reducible apply State.corrected_calm
    | with_reducible refine State.each_calm ?_ _ ?_
    | split

theorem State.writeCopy_calm {s0 s : State} (h : Calm s0 s) {a1 a2 a3 a4 a5} : CalmP s0 (State.writeCopy s a1 a2 a3 a4 a5) := by
  have e := @rfl _ @State.writeCopy
  conv at e => rhs; delta State.writeCopy
  rw [e]; clear e; beta_reduce
  repeat' first
    | with_reducible assumption
    | with_reducible apply State.uncorrectable_calm
    | with_reducible apply State.storeLine_calm
    | with_reducible apply State.rmwFix_calm
    | split
    | with_reducible apply calmP_pair

theorem State.writeTwo_calm {s0 s : State} (h : Calm s0 s) {a1 a2 a3} : CalmP s0 (State.writeTwo s a1 a2 a3) := by
  have e := @rfl _ @State.writeTwo
  conv at e => rhs; delta State.writeTwo
  rw [e]; clear e; beta_reduce
  repeat' first
    | with_reducible assumption
    | (fail_if_no_progress (extract_lets -underBinder +onlyGivenNames x); first | (have hT : (type_of% x) = (Option Nat) := (by with_reducible rfl); clear hT; clear_value x) | (have hT : ∃ α : Type, (type_of% x) = (α × State) := ⟨_, rfl⟩; clear hT; refine (fun (hx : CalmP s0 x) => ?_) ?_; (on_goal 1 => clear_value x); (on_goal 2 => subst x)) | fail)
    | with_reducible apply State.writeCopy_calm
    | with_reducible apply State.celFlipDone_calm
    | (with_reducible apply CalmP.out; with_reducible assumption)
    | split
    | with_reducible apply calmP_pair

theorem State.ueRecord_calm {s0 s : State} (h : Calm s0 s) {a1 a2 a3} : Calm s0 (State.ueRecord s a1 a2 a3) := by
  have e := @rfl _ @State.ueRecord
  conv at e => rhs; delta State.ueRecord
  rw [e]; clear e; beta_reduce
  repeat' first
    | with_reducible assumption
    | with_reducible apply State.errRec_calm

theorem State.celUse_calm {s0 s : State} (h : Calm s0 s) {a1 a2 a3 a4 a5 a6} : Calm s0 (State.celUse s a1 a2 a3 a4 a5 a6) := by
  have e := @rfl _ @State.celUse
  conv at e => rhs; delta State.celUse
  rw [e]; clear e; beta_reduce
  repeat' first
    | with_reducible assumption
    | intro _ _ _
    | with_reducible apply State.celWake_calm
    | with_reducible apply State.cellarTransfer_calm
    | with_reducible refine State.each_calm ?_ _ ?_
    | split

theorem State.celSend_calm {s0 s : State} (h : Calm s0 s) {a1 a2 a3 a4 a5} : Calm s0 (State.celSend s a1 a2 a3 a4 a5) := by
  have e := @rfl _ @State.celSend
  conv at e => rhs; delta State.celSend
  rw [e]; clear e; beta_reduce
  repeat' first
    | with_reducible assumption
    | (fail_if_no_progress (extract_lets -underBinder +onlyGivenNames x); first | (have hT : (type_of% x) = (State) := (by with_reducible rfl); clear hT; refine (fun (hx : Calm s0 x) => ?_) ?_; (on_goal 1 => clear_value x); (on_goal 2 => subst x)) | fail)
    | with_reducible apply State.celUse_calm
    | split

end Sys2Proof.Machine
end

