-- ==== Sys2Proof/Laws/FoyerCalm.lean ====
section
/-! SUPPORT. The operations of Machine/Foyer.lean that can finish commands leave calm ones alone: see Laws/Calm.lean. -/

set_option linter.all false

namespace Sys2Proof.Machine

theorem State.jFailed_calm {s0 s : State} (h : Calm s0 s) {a1 a2 a3} : Calm s0 (State.jFailed s a1 a2 a3) := by
  have e := @rfl _ @State.jFailed
  conv at e => rhs; delta State.jFailed
  rw [e]; clear e; beta_reduce
  repeat' first
    | with_reducible assumption
    | (with_reducible apply calm_ite <;> intro)
    | with_reducible apply State.errRec_calm
    | with_reducible apply State.setB_calm

theorem State.jWrite_calm {s0 s : State} (h : Calm s0 s) {a1 a2 a3} : Calm s0 (State.jWrite s a1 a2 a3) := by
  have e := @rfl _ @State.jWrite
  conv at e => rhs; delta State.jWrite
  rw [e]; clear e; beta_reduce
  repeat' first
    | with_reducible assumption
    | intro _ _ _
    | (fail_if_no_progress (extract_lets -underBinder +onlyGivenNames x); first | (have hT : (type_of% x) = (Nat) := (by with_reducible rfl); clear hT; clear_value x) | (have hT : ∃ α : Type, (type_of% x) = (α × State) := ⟨_, rfl⟩; clear hT; refine (fun (hx : CalmP s0 x) => ?_) ?_; (on_goal 1 => clear_value x); (on_goal 2 => subst x)) | (clear_value x) | fail)
    | (with_reducible apply calm_ite <;> intro)
    | with_reducible apply State.writeTwo_calm
    | with_reducible apply State.celSend_calm
    | with_reducible apply State.jFailed_calm
    | with_reducible apply State.ueRecord_calm
    | with_reducible refine foldl_calmP _ ?_ ?_
    | (with_reducible apply CalmP.out; with_reducible assumption)
    | split
    | with_reducible apply calmP_pair

theorem State.finishAcc_calm {s0 s : State} (h : Calm s0 s) {a1 a2} : Calm s0 (State.finishAcc s a1 a2) :=
  ⟨fun q => by
    have e := h.opens q
    unfold State.finishAcc State.updOpen
    refine (List.map_congr_left (g := id) ?_).trans ((List.map_id _).trans e)
    intro o ho
    rw [e] at ho
    have := (q o ho).2
    split
    · beta_reduce
      rw [if_neg]; · rfl
      rintro ⟨h1, h2⟩
      cases this with
      | inl k => rw [k] at h1; cases h1
      | inr k => rw [h2] at k; cases k
    · rfl⟩

theorem State.finish_calm {s0 s : State} (h : Calm s0 s) {a1 a2} : Calm s0 (State.finish s a1 a2) :=
  ⟨fun q => by
    have e := h.opens q
    unfold State.finish
    refine (List.map_congr_left (g := id) ?_).trans ((List.map_id _).trans e)
    intro o ho
    rw [e] at ho
    have := (q o ho).2
    rw [if_neg]; · rfl
    rintro ⟨_, h1, h2⟩
    cases this with
    | inl k => rw [k] at h1; cases h1
    | inr k => rw [h2] at k; cases k⟩

end Sys2Proof.Machine
end

