-- ==== Sys2Proof/Laws/HeadCoreCalm.lean ====
section
/-! SUPPORT. The operations of Machine/HeadCore.lean that can finish commands leave calm ones alone: see Laws/Calm.lean. -/

set_option linter.all false

namespace Sys2Proof.Machine

theorem State.setHead_calm {s0 s : State} (h : Calm s0 s) {a1 a2} : Calm s0 (State.setHead s a1 a2) := by
  have e := @rfl _ @State.setHead
  conv at e => rhs; delta State.setHead
  rw [e]; clear e; beta_reduce
  repeat' (with_reducible refine Calm.upd ?_ ?_; (on_goal 2 => with_reducible rfl); with_reducible assumption)

theorem State.updHead_calm {s0 s : State} (h : Calm s0 s) {a1 a2} : Calm s0 (State.updHead s a1 a2) := by
  have e := @rfl _ @State.updHead
  conv at e => rhs; delta State.updHead
  rw [e]; clear e; beta_reduce
  repeat' first
    | with_reducible assumption
    | with_reducible apply State.setHead_calm

theorem State.setHd_calm {s0 s : State} (h : Calm s0 s) {a1 a2 a3} : Calm s0 (State.setHd s a1 a2 a3) := by
  have e := @rfl _ @State.setHd
  conv at e => rhs; delta State.setHd
  rw [e]; clear e; beta_reduce
  repeat' first
    | with_reducible assumption
    | with_reducible apply State.setReg_calm

end Sys2Proof.Machine
end

