-- ==== Sys2Proof/Laws/EventsCalm.lean ====
section
/-! SUPPORT. The operations of Machine/Events.lean that can finish commands leave calm ones alone: see Laws/Calm.lean. -/

set_option linter.all false

namespace Sys2Proof.Machine

theorem State.setCap_calm {s0 s : State} (h : Calm s0 s) {a1 a2} : Calm s0 (State.setCap s a1 a2) := by
  have e := @rfl _ @State.setCap
  conv at e => rhs; delta State.setCap
  rw [e]; clear e; beta_reduce
  repeat' first
    | with_reducible assumption
    | (fail_if_no_progress (extract_lets -underBinder +onlyGivenNames x); first | (have hT : (type_of% x) = (State) := (by with_reducible rfl); clear hT; refine (fun (hx : Calm s0 x) => ?_) ?_; (on_goal 1 => clear_value x); (on_goal 2 => subst x)) | fail)
    | with_reducible apply State.setF_calm
    | with_reducible apply State.level_calm
    | (with_reducible refine Calm.upd ?_ ?_; (on_goal 2 => with_reducible rfl); with_reducible assumption)

theorem State.dwLatch_calm {s0 s : State} (h : Calm s0 s) {a1} : Calm s0 (State.dwLatch s a1) := by
  have e := @rfl _ @State.dwLatch
  conv at e => rhs; delta State.dwLatch
  rw [e]; clear e; beta_reduce
  repeat' first
    | with_reducible assumption
    | (fail_if_no_progress (extract_lets -underBinder +onlyGivenNames x); first | (have hT : (type_of% x) = (State) := (by with_reducible rfl); clear hT; refine (fun (hx : Calm s0 x) => ?_) ?_; (on_goal 1 => clear_value x); (on_goal 2 => subst x)) | (have hT : (type_of% x) = (Nat) := (by with_reducible rfl); clear hT; clear_value x) | fail)
    | (with_reducible apply calm_ite <;> intro)
    | with_reducible apply State.setB_calm
    | with_reducible apply State.setF_calm

theorem State.request_calm {s0 s : State} (h : Calm s0 s) {a1} : Calm s0 (State.request s a1) := by
  have e := @rfl _ @State.request
  conv at e => rhs; delta State.request
  rw [e]; clear e; beta_reduce
  repeat' first
    | with_reducible assumption
    | intro _ _ _
    | (with_reducible apply calm_ite <;> intro)
    | with_reducible apply State.dwLatch_calm
    | with_reducible refine State.each_calm ?_ _ ?_

theorem State.setVoice_calm {s0 s : State} (h : Calm s0 s) {a1 a2} : Calm s0 (State.setVoice s a1 a2) := by
  have e := @rfl _ @State.setVoice
  conv at e => rhs; delta State.setVoice
  rw [e]; clear e; beta_reduce
  repeat' first
    | (fail_if_no_progress (extract_lets -underBinder +onlyGivenNames x); first | (clear_value x) | fail)
    | (with_reducible refine Calm.upd ?_ ?_; (on_goal 2 => with_reducible rfl); with_reducible assumption)

theorem State.setPsqCh_calm {s0 s : State} (h : Calm s0 s) {a1 a2} : Calm s0 (State.setPsqCh s a1 a2) := by
  have e := @rfl _ @State.setPsqCh
  conv at e => rhs; delta State.setPsqCh
  rw [e]; clear e; beta_reduce
  repeat' (with_reducible refine Calm.upd ?_ ?_; (on_goal 2 => with_reducible rfl); with_reducible assumption)

theorem State.setDw_calm {s0 s : State} (h : Calm s0 s) {a1 a2} : Calm s0 (State.setDw s a1 a2) := by
  have e := @rfl _ @State.setDw
  conv at e => rhs; delta State.setDw
  rw [e]; clear e; beta_reduce
  repeat' (with_reducible refine Calm.upd ?_ ?_; (on_goal 2 => with_reducible rfl); with_reducible assumption)

end Sys2Proof.Machine
end

