-- ==== Sys2Proof/Laws/TimebaseCalm.lean ====
section
/-! SUPPORT. The operations of Machine/Timebase.lean that can finish commands leave calm ones alone: see Laws/Calm.lean. -/

set_option linter.all false

namespace Sys2Proof.Machine

theorem State.tmbReset_calm {s0 s : State} (h : Calm s0 s) : Calm s0 (State.tmbReset s) := by
  have e := @rfl _ @State.tmbReset
  conv at e => rhs; delta State.tmbReset
  rw [e]; clear e; beta_reduce
  repeat' first
    | with_reducible assumption
    | intro _ _ _
    | (fail_if_no_progress (extract_lets -underBinder +onlyGivenNames x); first | (have hT : (type_of% x) = (State) := (by with_reducible rfl); clear hT; refine (fun (hx : Calm s0 x) => ?_) ?_; (on_goal 1 => clear_value x); (on_goal 2 => subst x)) | fail)
    | with_reducible apply State.setB_calm
    | with_reducible apply State.setCap_calm
    | with_reducible refine State.each_calm ?_ _ ?_

end Sys2Proof.Machine
end

