-- ==== Sys2Proof/Laws/DmaCalm.lean ====
section
/-! SUPPORT. The operations of Machine/Dma.lean that can finish commands leave calm ones alone: see Laws/Calm.lean. -/

set_option linter.all false

namespace Sys2Proof.Machine

theorem State.dwSetRun_calm {s0 s : State} (h : Calm s0 s) {a1 a2} : Calm s0 (State.dwSetRun s a1 a2) := by
  have e := @rfl _ @State.dwSetRun
  conv at e => rhs; delta State.dwSetRun
  rw [e]; clear e; beta_reduce
  repeat' first
    | with_reducible assumption
    | with_reducible apply State.setB_calm

theorem State.dwHalt_calm {s0 s : State} (h : Calm s0 s) {a1 a2 a3} : Calm s0 (State.dwHalt s a1 a2 a3) := by
  have e := @rfl _ @State.dwHalt
  conv at e => rhs; delta State.dwHalt
  rw [e]; clear e; beta_reduce
  repeat' first
    | with_reducible assumption
    | (fail_if_no_progress (extract_lets -underBinder +onlyGivenNames x); first | (have hT : (type_of% x) = (State) := (by with_reducible rfl); clear hT; refine (fun (hx : Calm s0 x) => ?_) ?_; (on_goal 1 => clear_value x); (on_goal 2 => subst x)) | (clear_value x) | fail)
    | with_reducible apply State.setDw_calm
    | with_reducible apply State.dwSetRun_calm
    | with_reducible apply State.setReg_calm
    | with_reducible apply State.setF_calm
    | with_reducible apply State.pulse_calm
    | with_reducible apply State.finish_calm

theorem beginDmaStop_calm {s0 s : State} (h : Calm s0 s) {a0} : CalmP s0 (beginDmaStop a0 s) := by
  have e := @rfl _ @beginDmaStop
  conv at e => rhs; delta beginDmaStop
  rw [e]; clear e; beta_reduce
  repeat' first
    | with_reducible assumption
    | (fail_if_no_progress (extract_lets -underBinder +onlyGivenNames x); first | (have hT : (type_of% x) = (Nat) := (by with_reducible rfl); clear hT; clear_value x) | fail)
    | with_reducible apply State.dwHalt_calm
    | with_reducible apply State.setB_calm
    | split
    | with_reducible apply calmP_pair

theorem State.dwReset_calm {s0 s : State} (h : Calm s0 s) : Calm s0 (State.dwReset s) := by
  have e := @rfl _ @State.dwReset
  conv at e => rhs; delta State.dwReset
  rw [e]; clear e; beta_reduce
  repeat' first
    | with_reducible assumption
    | intro _ _ _
    | (fail_if_no_progress (extract_lets -underBinder +onlyGivenNames x); first | (have hT : (type_of% x) = (State) := (by with_reducible rfl); clear hT; refine (fun (hx : Calm s0 x) => ?_) ?_; (on_goal 1 => clear_value x); (on_goal 2 => subst x)) | (have hT : (type_of% x) = (Nat) := (by with_reducible rfl); clear hT; clear_value x) | (clear_value x) | fail)
    | (with_reducible apply calm_ite <;> intro)
    | with_reducible apply State.dwHalt_calm
    | with_reducible apply State.setW64_calm
    | with_reducible apply State.setReg_calm
    | with_reducible apply State.setDw_calm
    | with_reducible refine State.each_calm ?_ _ ?_

end Sys2Proof.Machine
end

