-- ==== Sys2Proof/Laws/EngineRowsSound.lean ====
section
/-! SUPPORT. The operations of Machine/EngineRows.lean are sound: see Laws/Sound.lean. -/

set_option linter.all false

namespace Sys2Proof.Machine

theorem execThrottleStep_sound {s0 s : State} (h : Sound s0 s) {a0 a1} : SoundU s0 (execThrottleStep a0 a1 s) := by
  have e := @rfl _ @execThrottleStep
  conv at e => rhs; delta execThrottleStep
  rw [e]; clear e; beta_reduce
  repeat' first
    | with_reducible assumption
    | intro _ _
    | with_reducible apply State.quietly_sound
    | with_reducible apply State.throttle_sound

theorem execPatrolScrubRead_sound {s0 s : State} (h : Sound s0 s) {a0} : SoundU s0 (execPatrolScrubRead a0 s) := by
  have e := @rfl _ @execPatrolScrubRead
  conv at e => rhs; delta execPatrolScrubRead
  rw [e]; clear e; beta_reduce
  repeat' first
    | with_reducible assumption
    | intro _ _
    | with_reducible apply State.quietly_sound
    | with_reducible apply State.scrubLine_sound
    | with_reducible apply State.nioScrub_sound
    | with_reducible apply State.mantelScrub_sound
    | split

theorem execRegionFillDone_sound {s0 s : State} (h : Sound s0 s) {a0} : SoundU s0 (execRegionFillDone a0 s) := by
  have e := @rfl _ @execRegionFillDone
  conv at e => rhs; delta execRegionFillDone
  rw [e]; clear e; beta_reduce
  repeat' first
    | with_reducible assumption
    | intro _ _
    | with_reducible apply State.working_sound
    | with_reducible apply State.regionFillDone_sound

theorem execPsqPinShort_sound {s0 s : State} (h : Sound s0 s) {a0 a1} : SoundU s0 (execPsqPinShort a0 a1 s) := by
  have e := @rfl _ @execPsqPinShort
  conv at e => rhs; delta execPsqPinShort
  rw [e]; clear e; beta_reduce
  repeat' first
    | with_reducible assumption
    | intro _ _
    | with_reducible apply State.working_sound
    | with_reducible apply State.pinShort_sound

theorem State.psqOpRow_sound {s0 s : State} (h : Sound s0 s) {a1 a2 a3 a4 a5} : SoundU s0 (State.psqOpRow s a1 a2 a3 a4 a5) := by
  have e := @rfl _ @State.psqOpRow
  conv at e => rhs; delta State.psqOpRow
  rw [e]; clear e; beta_reduce
  repeat' first
    | with_reducible assumption
    | intro _ _
    | with_reducible apply State.working_sound
    | with_reducible apply State.psqSlotStep_sound

theorem execPsqDrive_sound {s0 s : State} (h : Sound s0 s) {a0 a1 a2 a3} : SoundU s0 (execPsqDrive a0 a1 a2 a3 s) := by
  have e := @rfl _ @execPsqDrive
  conv at e => rhs; delta execPsqDrive
  rw [e]; clear e; beta_reduce
  repeat' first
    | with_reducible assumption
    | with_reducible apply State.psqOpRow_sound

theorem execRectOpBegin_sound {s0 s : State} (h : Sound s0 s) {a0} : SoundU s0 (execRectOpBegin a0 s) := by
  have e := @rfl _ @execRectOpBegin
  conv at e => rhs; delta execRectOpBegin
  rw [e]; clear e; beta_reduce
  repeat' first
    | with_reducible assumption
    | intro _ _
    | with_reducible apply State.working_sound
    | with_reducible apply State.rectOpBegin_sound

theorem execRectDeadtimeExpiry_sound {s0 s : State} (h : Sound s0 s) {a0 a1} : SoundU s0 (execRectDeadtimeExpiry a0 a1 s) := by
  have e := @rfl _ @execRectDeadtimeExpiry
  conv at e => rhs; delta execRectDeadtimeExpiry
  rw [e]; clear e; beta_reduce
  repeat' first
    | with_reducible assumption
    | intro _ _
    | with_reducible apply State.quietly_sound
    | with_reducible apply State.rectGapEnd_sound

theorem execRectReadUncorr_sound {s0 s : State} (h : Sound s0 s) {a0} : SoundU s0 (execRectReadUncorr a0 s) := by
  have e := @rfl _ @execRectReadUncorr
  conv at e => rhs; delta execRectReadUncorr
  rw [e]; clear e; beta_reduce
  repeat' first
    | with_reducible assumption
    | intro _ _
    | (with_reducible apply sound_ite <;> intro)
    | with_reducible apply State.working_sound
    | with_reducible apply State.rectBurst_sound

theorem execDmaDescriptorFetch_sound {s0 s : State} (h : Sound s0 s) {a0} : SoundU s0 (execDmaDescriptorFetch a0 s) := by
  have e := @rfl _ @execDmaDescriptorFetch
  conv at e => rhs; delta execDmaDescriptorFetch
  rw [e]; clear e; beta_reduce
  repeat' first
    | with_reducible assumption
    | intro _ _
    | (with_reducible apply sound_ite <;> intro)
    | with_reducible apply State.working_sound
    | with_reducible apply State.dwFetch_sound
    | split

theorem execAudioClockLost_sound {s0 s : State} (h : Sound s0 s) : SoundU s0 (execAudioClockLost s) := by
  have e := @rfl _ @execAudioClockLost
  conv at e => rhs; delta execAudioClockLost
  rw [e]; clear e; beta_reduce
  repeat' first
    | with_reducible assumption
    | intro _ _
    | with_reducible apply State.quietly_sound
    | with_reducible apply State.audioLost_sound

theorem execTdmSlaveFrame_sound {s0 s : State} (h : Sound s0 s) {a0 a1 a2} : SoundU s0 (execTdmSlaveFrame a0 a1 a2 s) := by
  have e := @rfl _ @execTdmSlaveFrame
  conv at e => rhs; delta execTdmSlaveFrame
  rw [e]; clear e; beta_reduce
  repeat' first
    | with_reducible assumption
    | intro _ _
    | with_reducible apply State.quietly_sound
    | with_reducible apply State.slaveFrame_sound

theorem execCompareFire_sound {s0 s : State} (h : Sound s0 s) {a0} : SoundU s0 (execCompareFire a0 s) := by
  have e := @rfl _ @execCompareFire
  conv at e => rhs; delta execCompareFire
  rw [e]; clear e; beta_reduce
  repeat' first
    | with_reducible assumption
    | intro _ _
    | with_reducible apply State.quietly_sound
    | with_reducible apply State.compareDue_sound

theorem execPsqLoop_sound {s0 s : State} (h : Sound s0 s) {a0 a1 a2 a3} : SoundU s0 (execPsqLoop a0 a1 a2 a3 s) := by
  have e := @rfl _ @execPsqLoop
  conv at e => rhs; delta execPsqLoop
  rw [e]; clear e; beta_reduce
  repeat' first
    | with_reducible assumption
    | with_reducible apply State.psqOpRow_sound

theorem execPsqSlot_sound {s0 s : State} (h : Sound s0 s) {a0 a1 a2 a3} : SoundU s0 (execPsqSlot a0 a1 a2 a3 s) := by
  have e := @rfl _ @execPsqSlot
  conv at e => rhs; delta execPsqSlot
  rw [e]; clear e; beta_reduce
  repeat' first
    | with_reducible assumption
    | intro _ _
    | with_reducible apply State.working_sound
    | with_reducible apply State.psqSlotStep_sound

theorem execRectOpDone_sound {s0 s : State} (h : Sound s0 s) {a0} : SoundU s0 (execRectOpDone a0 s) := by
  have e := @rfl _ @execRectOpDone
  conv at e => rhs; delta execRectOpDone
  rw [e]; clear e; beta_reduce
  repeat' first
    | with_reducible assumption
    | intro _ _
    | with_reducible apply State.working_sound
    | with_reducible apply State.rectOpDone_sound

theorem execCaptureEdge_sound {s0 s : State} (h : Sound s0 s) {a0 a1} : SoundU s0 (execCaptureEdge a0 a1 s) := by
  have e := @rfl _ @execCaptureEdge
  conv at e => rhs; delta execCaptureEdge
  rw [e]; clear e; beta_reduce
  repeat' first
    | with_reducible assumption
    | intro _ _
    | with_reducible apply State.quietly_sound
    | with_reducible apply State.captureEdge_sound

theorem execPsqNext_sound {s0 s : State} (h : Sound s0 s) {a0 a1 a2 a3} : SoundU s0 (execPsqNext a0 a1 a2 a3 s) := by
  have e := @rfl _ @execPsqNext
  conv at e => rhs; delta execPsqNext
  rw [e]; clear e; beta_reduce
  repeat' first
    | with_reducible assumption
    | with_reducible apply State.psqOpRow_sound

theorem execRefreshModeChange_sound {s0 s : State} (h : Sound s0 s) {a0 a1} : SoundU s0 (execRefreshModeChange a0 a1 s) := by
  have e := @rfl _ @execRefreshModeChange
  conv at e => rhs; delta execRefreshModeChange
  rw [e]; clear e; beta_reduce
  repeat' first
    | with_reducible assumption
    | intro _ _
    | with_reducible apply State.quietly_sound
    | with_reducible apply State.refreshMode_sound

theorem execHoldoffExpiry_sound {s0 s : State} (h : Sound s0 s) {a0} : SoundU s0 (execHoldoffExpiry a0 s) := by
  have e := @rfl _ @execHoldoffExpiry
  conv at e => rhs; delta execHoldoffExpiry
  rw [e]; clear e; beta_reduce
  repeat' first
    | with_reducible assumption
    | intro _ _
    | with_reducible apply State.quietly_sound
    | with_reducible apply State.holdEnd_sound

theorem execPsqDeposit_sound {s0 s : State} (h : Sound s0 s) {a0 a1 a2 a3} : SoundU s0 (execPsqDeposit a0 a1 a2 a3 s) := by
  have e := @rfl _ @execPsqDeposit
  conv at e => rhs; delta execPsqDeposit
  rw [e]; clear e; beta_reduce
  repeat' first
    | with_reducible assumption
    | with_reducible apply State.psqOpRow_sound

theorem execDmaBurst_sound {s0 s : State} (h : Sound s0 s) {a0} : SoundU s0 (execDmaBurst a0 s) := by
  have e := @rfl _ @execDmaBurst
  conv at e => rhs; delta execDmaBurst
  rw [e]; clear e; beta_reduce
  repeat' first
    | with_reducible assumption
    | intro _ _
    | with_reducible apply State.working_sound
    | with_reducible apply State.dwBurst_sound

theorem execPsqSignal_sound {s0 s : State} (h : Sound s0 s) {a0 a1 a2 a3} : SoundU s0 (execPsqSignal a0 a1 a2 a3 s) := by
  have e := @rfl _ @execPsqSignal
  conv at e => rhs; delta execPsqSignal
  rw [e]; clear e; beta_reduce
  repeat' first
    | with_reducible assumption
    | with_reducible apply State.psqOpRow_sound

theorem execPsqHold_sound {s0 s : State} (h : Sound s0 s) {a0 a1 a2 a3} : SoundU s0 (execPsqHold a0 a1 a2 a3 s) := by
  have e := @rfl _ @execPsqHold
  conv at e => rhs; delta execPsqHold
  rw [e]; clear e; beta_reduce
  repeat' first
    | with_reducible assumption
    | with_reducible apply State.psqOpRow_sound

theorem execIrqLevelChange_sound {s0 s : State} (h : Sound s0 s) {a0 a1} : SoundU s0 (execIrqLevelChange a0 a1 s) := by
  have e := @rfl _ @execIrqLevelChange
  conv at e => rhs; delta execIrqLevelChange
  rw [e]; clear e; beta_reduce
  repeat' first
    | with_reducible assumption
    | intro _ _
    | with_reducible apply State.quietly_sound
    | with_reducible apply State.level_sound

theorem execPsqEmit_sound {s0 s : State} (h : Sound s0 s) {a0 a1 a2 a3} : SoundU s0 (execPsqEmit a0 a1 a2 a3 s) := by
  have e := @rfl _ @execPsqEmit
  conv at e => rhs; delta execPsqEmit
  rw [e]; clear e; beta_reduce
  repeat' first
    | with_reducible assumption
    | with_reducible apply State.psqOpRow_sound

theorem execRectBurst_sound {s0 s : State} (h : Sound s0 s) {a0} : SoundU s0 (execRectBurst a0 s) := by
  have e := @rfl _ @execRectBurst
  conv at e => rhs; delta execRectBurst
  rw [e]; clear e; beta_reduce
  repeat' first
    | with_reducible assumption
    | intro _ _
    | with_reducible apply State.working_sound
    | with_reducible apply State.rectBurst_sound

theorem execPsqFetch_sound {s0 s : State} (h : Sound s0 s) {a0 a1 a2 a3} : SoundU s0 (execPsqFetch a0 a1 a2 a3 s) := by
  have e := @rfl _ @execPsqFetch
  conv at e => rhs; delta execPsqFetch
  rw [e]; clear e; beta_reduce
  repeat' first
    | with_reducible assumption
    | with_reducible apply State.psqOpRow_sound

theorem execPsqBankSupplyChange_sound {s0 s : State} (h : Sound s0 s) {a0 a1} : SoundU s0 (execPsqBankSupplyChange a0 a1 s) := by
  have e := @rfl _ @execPsqBankSupplyChange
  conv at e => rhs; delta execPsqBankSupplyChange
  rw [e]; clear e; beta_reduce
  repeat' first
    | with_reducible assumption
    | intro _ _
    | with_reducible apply State.working_sound
    | with_reducible apply State.bankSupply_sound

theorem execPsqSkip_sound {s0 s : State} (h : Sound s0 s) {a0 a1 a2 a3} : SoundU s0 (execPsqSkip a0 a1 a2 a3 s) := by
  have e := @rfl _ @execPsqSkip
  conv at e => rhs; delta execPsqSkip
  rw [e]; clear e; beta_reduce
  repeat' first
    | with_reducible assumption
    | with_reducible apply State.psqOpRow_sound

theorem execPsqBranch_sound {s0 s : State} (h : Sound s0 s) {a0 a1 a2 a3} : SoundU s0 (execPsqBranch a0 a1 a2 a3 s) := by
  have e := @rfl _ @execPsqBranch
  conv at e => rhs; delta execPsqBranch
  rw [e]; clear e; beta_reduce
  repeat' first
    | with_reducible assumption
    | with_reducible apply State.psqOpRow_sound

theorem execMemOpDone_sound {s0 s : State} (h : Sound s0 s) {a0} : SoundU s0 (execMemOpDone a0 s) := by
  have e := @rfl _ @execMemOpDone
  conv at e => rhs; delta execMemOpDone
  rw [e]; clear e; beta_reduce
  repeat' first
    | with_reducible assumption
    | intro _ _
    | with_reducible apply State.working_sound
    | with_reducible apply State.memOpDone_sound

theorem execPsqAwait_sound {s0 s : State} (h : Sound s0 s) {a0 a1 a2 a3} : SoundU s0 (execPsqAwait a0 a1 a2 a3 s) := by
  have e := @rfl _ @execPsqAwait
  conv at e => rhs; delta execPsqAwait
  rw [e]; clear e; beta_reduce
  repeat' first
    | with_reducible assumption
    | with_reducible apply State.psqOpRow_sound

theorem execDmaPaceExpiry_sound {s0 s : State} (h : Sound s0 s) {a0 a1} : SoundU s0 (execDmaPaceExpiry a0 a1 s) := by
  have e := @rfl _ @execDmaPaceExpiry
  conv at e => rhs; delta execDmaPaceExpiry
  rw [e]; clear e; beta_reduce
  repeat' first
    | with_reducible assumption
    | intro _ _
    | with_reducible apply State.quietly_sound
    | with_reducible apply State.dwGap_sound

theorem execSampleBoundary_sound {s0 s : State} (h : Sound s0 s) {a0 a1} : SoundU s0 (execSampleBoundary a0 a1 s) := by
  have e := @rfl _ @execSampleBoundary
  conv at e => rhs; delta execSampleBoundary
  rw [e]; clear e; beta_reduce
  repeat' first
    | with_reducible assumption
    | intro _ _
    | with_reducible apply State.working_sound
    | with_reducible apply State.musBoundary_sound

theorem execAssetLoadDone_sound {s0 s : State} (h : Sound s0 s) {a0} : SoundU s0 (execAssetLoadDone a0 s) := by
  have e := @rfl _ @execAssetLoadDone
  conv at e => rhs; delta execAssetLoadDone
  rw [e]; clear e; beta_reduce
  repeat' first
    | with_reducible assumption
    | intro _ _
    | with_reducible apply State.working_sound
    | with_reducible apply State.assetLoadDone_sound

theorem execPsqSample_sound {s0 s : State} (h : Sound s0 s) {a0 a1 a2 a3} : SoundU s0 (execPsqSample a0 a1 a2 a3 s) := by
  have e := @rfl _ @execPsqSample
  conv at e => rhs; delta execPsqSample
  rw [e]; clear e; beta_reduce
  repeat' first
    | with_reducible assumption
    | with_reducible apply State.psqOpRow_sound

theorem execDmaDescriptorDone_sound {s0 s : State} (h : Sound s0 s) {a0} : SoundU s0 (execDmaDescriptorDone a0 s) := by
  have e := @rfl _ @execDmaDescriptorDone
  conv at e => rhs; delta execDmaDescriptorDone
  rw [e]; clear e; beta_reduce
  repeat' first
    | with_reducible assumption
    | intro _ _
    | with_reducible apply State.working_sound
    | with_reducible apply State.dwDone_sound

theorem execDmaReadUncorr_sound {s0 s : State} (h : Sound s0 s) {a0} : SoundU s0 (execDmaReadUncorr a0 s) := by
  have e := @rfl _ @execDmaReadUncorr
  conv at e => rhs; delta execDmaReadUncorr
  rw [e]; clear e; beta_reduce
  repeat' first
    | with_reducible assumption
    | intro _ _
    | (with_reducible apply sound_ite <;> intro)
    | with_reducible apply State.working_sound
    | with_reducible apply State.dwBurst_sound

theorem execPsqStopch_sound {s0 s : State} (h : Sound s0 s) {a0 a1 a2 a3} : SoundU s0 (execPsqStopch a0 a1 a2 a3 s) := by
  have e := @rfl _ @execPsqStopch
  conv at e => rhs; delta execPsqStopch
  rw [e]; clear e; beta_reduce
  repeat' first
    | with_reducible assumption
    | with_reducible apply State.psqOpRow_sound

theorem execTdmShort_sound {s0 s : State} (h : Sound s0 s) {a0 a1} : SoundU s0 (execTdmShort a0 a1 s) := by
  have e := @rfl _ @execTdmShort
  conv at e => rhs; delta execTdmShort
  rw [e]; clear e; beta_reduce
  repeat' first
    | with_reducible assumption
    | intro _ _
    | with_reducible apply State.quietly_sound
    | with_reducible apply State.tdmShort_sound

theorem execAudioClockReturn_sound {s0 s : State} (h : Sound s0 s) : SoundU s0 (execAudioClockReturn s) := by
  have e := @rfl _ @execAudioClockReturn
  conv at e => rhs; delta execAudioClockReturn
  rw [e]; clear e; beta_reduce
  repeat' first
    | with_reducible assumption
    | intro _ _
    | with_reducible apply State.quietly_sound
    | with_reducible apply State.audioReturn_sound

theorem execIrqEdge_sound {s0 s : State} (h : Sound s0 s) {a0} : SoundU s0 (execIrqEdge a0 s) := by
  have e := @rfl _ @execIrqEdge
  conv at e => rhs; delta execIrqEdge
  rw [e]; clear e; beta_reduce
  repeat' first
    | with_reducible assumption
    | intro _ _
    | with_reducible apply State.quietly_sound
    | with_reducible apply State.pulse_sound

theorem execPsqPeriod_sound {s0 s : State} (h : Sound s0 s) {a0 a1 a2 a3} : SoundU s0 (execPsqPeriod a0 a1 a2 a3 s) := by
  have e := @rfl _ @execPsqPeriod
  conv at e => rhs; delta execPsqPeriod
  rw [e]; clear e; beta_reduce
  repeat' first
    | with_reducible assumption
    | with_reducible apply State.psqOpRow_sound

theorem execRectRowDone_sound {s0 s : State} (h : Sound s0 s) {a0} : SoundU s0 (execRectRowDone a0 s) := by
  have e := @rfl _ @execRectRowDone
  conv at e => rhs; delta execRectRowDone
  rw [e]; clear e; beta_reduce
  repeat' first
    | with_reducible assumption
    | intro _ _
    | with_reducible apply State.working_sound
    | with_reducible apply State.rectRowDone_sound

end Sys2Proof.Machine
end

