-- ==== Sys2Proof/Laws/PortsCalm.lean ====
section
/-! SUPPORT. The operations of Machine/Ports.lean that can finish commands leave calm ones alone: see Laws/Calm.lean. -/

set_option linter.all false

namespace Sys2Proof.Machine

theorem State.setPort_calm {s0 s : State} (h : Calm s0 s) {a1 a2} : Calm s0 (State.setPort s a1 a2) := by
  have e := @rfl _ @State.setPort
  conv at e => rhs; delta State.setPort
  rw [e]; clear e; beta_reduce
  repeat' (with_reducible refine Calm.upd ?_ ?_; (on_goal 2 => with_reducible rfl); with_reducible assumption)

theorem State.updPort_calm {s0 s : State} (h : Calm s0 s) {a1 a2} : Calm s0 (State.updPort s a1 a2) := by
  have e := @rfl _ @State.updPort
  conv at e => rhs; delta State.updPort
  rw [e]; clear e; beta_reduce
  repeat' first
    | with_reducible assumption
    | with_reducible apply State.setPort_calm

theorem State.portsHeadOff_calm {s0 s : State} (h : Calm s0 s) {a1} : Calm s0 (State.portsHeadOff s a1) := by
  have e := @rfl _ @State.portsHeadOff
  conv at e => rhs; delta State.portsHeadOff
  rw [e]; clear e; beta_reduce
  repeat' first
    | with_reducible assumption
    | intro _ _ _
    | (with_reducible apply calm_ite <;> intro)
    | with_reducible apply State.updPort_calm
    | with_reducible apply State.setB_calm
    | with_reducible refine State.each_calm ?_ _ ?_

theorem State.echoOff_calm {s0 s : State} (h : Calm s0 s) {a1} : Calm s0 (State.echoOff s a1) := by
  have e := @rfl _ @State.echoOff
  conv at e => rhs; delta State.echoOff
  rw [e]; clear e; beta_reduce
  repeat' first
    | with_reducible assumption
    | (with_reducible apply calm_ite <;> intro)
    | with_reducible apply State.updPort_calm
    | with_reducible apply State.setReg_calm

theorem State.dplReset_calm {s0 s : State} (h : Calm s0 s) : Calm s0 (State.dplReset s) := by
  have e := @rfl _ @State.dplReset
  conv at e => rhs; delta State.dplReset
  rw [e]; clear e; beta_reduce
  repeat' first
    | with_reducible assumption
    | intro _ _ _
    | (fail_if_no_progress (extract_lets -underBinder +onlyGivenNames x); first | (have hT : (type_of% x) = (State) := (by with_reducible rfl); clear hT; refine (fun (hx : Calm s0 x) => ?_) ?_; (on_goal 1 => clear_value x); (on_goal 2 => subst x)) | fail)
    | with_reducible apply State.setReg_calm
    | with_reducible apply State.echoOff_calm
    | with_reducible apply State.setPort_calm
    | with_reducible refine State.each_calm ?_ _ ?_

end Sys2Proof.Machine
end

