-- ==== Sys2Proof/Laws/FlowCalm.lean ====
section
/-! SUPPORT. The operations of Machine/Flow.lean that can finish commands leave calm ones alone: see Laws/Calm.lean. -/

set_option linter.all false

namespace Sys2Proof.Machine

theorem State.setRsv_calm {s0 s : State} (h : Calm s0 s) {a1 a2} : Calm s0 (State.setRsv s a1 a2) := by
  have e := @rfl _ @State.setRsv
  conv at e => rhs; delta State.setRsv
  rw [e]; clear e; beta_reduce
  repeat' first
    | with_reducible assumption
    | (fail_if_no_progress (extract_lets -underBinder +onlyGivenNames x); first | (have hT : (type_of% x) = (State) := (by with_reducible rfl); clear hT; refine (fun (hx : Calm s0 x) => ?_) ?_; (on_goal 1 => clear_value x); (on_goal 2 => subst x)) | fail)
    | with_reducible apply State.setReg_calm

end Sys2Proof.Machine
end

