-- ==== Sys2Proof/Laws/MantelGrow.lean ====
section
/-! SUPPORT. The operations of Machine/Mantel.lean leave every committed set and drop no mark: see Laws/Grow.lean. -/

set_option linter.all false

namespace Sys2Proof.Machine

theorem State.updMt_grow {s0 s : State} (h : Grow s0 s) {a1 a2} : Grow s0 (State.updMt s a1 a2) := by
  have e := @rfl _ @State.updMt
  conv at e => rhs; delta State.updMt
  rw [e]; clear e; beta_reduce
  repeat' first
    | with_reducible assumption
    | (with_reducible refine State.updHead_grow ?_ ?_; (on_goal 2 => intro _ _ ht; first | exact ht | exact List.mem_cons_of_mem _ ht | (split <;> exact ht)))

theorem State.mantelTouch_grow {s0 s : State} (h : Grow s0 s) {a1 a2 a3} : Grow s0 (State.mantelTouch s a1 a2 a3) := by
  have e := @rfl _ @State.mantelTouch
  conv at e => rhs; delta State.mantelTouch
  rw [e]; clear e; beta_reduce
  repeat' first
    | with_reducible assumption
    | (with_reducible apply grow_ite <;> intro)
    | with_reducible apply State.mantelFault_grow
    | split

theorem State.storeUncorr_grow {s0 s : State} (h : Grow s0 s) {a1} : Grow s0 (State.storeUncorr s a1) := by
  have e := @rfl _ @State.storeUncorr
  conv at e => rhs; delta State.storeUncorr
  rw [e]; clear e; beta_reduce
  repeat' first
    | with_reducible assumption
    | (fail_if_no_progress (extract_lets -underBinder +onlyGivenNames x); first | (have hT : (type_of% x) = (State) := (by with_reducible rfl); clear hT; refine (fun (hx : Grow s0 x) => ?_) ?_; (on_goal 1 => clear_value x); (on_goal 2 => subst x)) | (clear_value x) | fail)
    | with_reducible apply State.pulse_grow
    | with_reducible apply State.incReg_grow
    | with_reducible apply State.setReg_grow
    | (with_reducible refine Grow.upd ?_; with_reducible assumption)

theorem State.storeCorrected_grow {s0 s : State} (h : Grow s0 s) {a1 a2 a3} : Grow s0 (State.storeCorrected s a1 a2 a3) := by
  have e := @rfl _ @State.storeCorrected
  conv at e => rhs; delta State.storeCorrected
  rw [e]; clear e; beta_reduce
  repeat' first
    | with_reducible assumption
    | with_reducible apply State.corrLog_grow
    | with_reducible apply State.countCe_grow

theorem State.mantelLine_grow {s0 s : State} (h : Grow s0 s) {a1 a2} : Grow s0 (State.mantelLine s a1 a2) := by
  have e := @rfl _ @State.mantelLine
  conv at e => rhs; delta State.mantelLine
  rw [e]; clear e; beta_reduce
  repeat' first
    | with_reducible assumption
    | intro _ _ _
    | (fail_if_no_progress (extract_lets -underBinder +onlyGivenNames x); first | (have hT : (type_of% x) = (State) := (by with_reducible rfl); clear hT; refine (fun (hx : Grow s0 x) => ?_) ?_; (on_goal 1 => clear_value x); (on_goal 2 => subst x)) | (have hT : (type_of% x) = (Nat) := (by with_reducible rfl); clear hT; clear_value x) | (clear_value x) | fail)
    | with_reducible apply State.storeCorrected_grow
    | with_reducible apply State.storeUncorr_grow
    | with_reducible apply State.updMt_grow
    | with_reducible refine State.each_grow ?_ _ ?_
    | split

end Sys2Proof.Machine
end

