-- ==== Sys2Proof/Laws/PortsGrow.lean ====
section
/-! SUPPORT. The operations of Machine/Ports.lean leave every committed set and drop no mark: see Laws/Grow.lean. -/

set_option linter.all false

namespace Sys2Proof.Machine

theorem State.setPort_grow {s0 s : State} (h : Grow s0 s) {a1 a2} : Grow s0 (State.setPort s a1 a2) := by
  have e := @rfl _ @State.setPort
  conv at e => rhs; delta State.setPort
  rw [e]; clear e; beta_reduce
  repeat' (with_reducible refine Grow.upd ?_; with_reducible assumption)

theorem State.updPort_grow {s0 s : State} (h : Grow s0 s) {a1 a2} : Grow s0 (State.updPort s a1 a2) := by
  have e := @rfl _ @State.updPort
  conv at e => rhs; delta State.updPort
  rw [e]; clear e; beta_reduce
  repeat' first
    | with_reducible assumption
    | with_reducible apply State.setPort_grow

end Sys2Proof.Machine
end

