-- ==== Sys2Proof/Laws/IntegrityGrow.lean ====
section
/-! SUPPORT. The operations of Machine/Integrity.lean leave every committed set and drop no mark: see Laws/Grow.lean. -/

set_option linter.all false

namespace Sys2Proof.Machine

theorem State.updIg_grow {s0 s : State} (h : Grow s0 s) {a1 a2} : Grow s0 (State.updIg s a1 a2) := by
  have e := @rfl _ @State.updIg
  conv at e => rhs; delta State.updIg
  rw [e]; clear e; beta_reduce
  repeat' first
    | with_reducible assumption
    | (with_reducible refine State.updHead_grow ?_ ?_; (on_goal 2 => intro _ _ ht; first | exact ht | exact List.mem_cons_of_mem _ ht | (split <;> exact ht)))

theorem State.feedCrc_grow {s0 s : State} (h : Grow s0 s) {a1 a2 a3} : Grow s0 (State.feedCrc s a1 a2 a3) := by
  have e := @rfl _ @State.feedCrc
  conv at e => rhs; delta State.feedCrc
  rw [e]; clear e; beta_reduce
  repeat' first
    | with_reducible assumption
    | (fail_if_no_progress (extract_lets -underBinder +onlyGivenNames x); first | (have hT : (type_of% x) = (BitVec 32) := (by with_reducible rfl); clear hT; clear_value x) | fail)
    | with_reducible apply State.updIg_grow

theorem State.crcPixel_grow {s0 s : State} (h : Grow s0 s) {a1 a2 a3 a4 a5} : Grow s0 (State.crcPixel s a1 a2 a3 a4 a5) := by
  have e := @rfl _ @State.crcPixel
  conv at e => rhs; delta State.crcPixel
  rw [e]; clear e; beta_reduce
  repeat' first
    | with_reducible assumption
    | intro _ _ _
    | (fail_if_no_progress (extract_lets -underBinder +onlyGivenNames x); first | (have hT : (type_of% x) = (State) := (by with_reducible rfl); clear hT; refine (fun (hx : Grow s0 x) => ?_) ?_; (on_goal 1 => clear_value x); (on_goal 2 => subst x)) | (have hT : (type_of% x) = (BitVec 32) := (by with_reducible rfl); clear hT; clear_value x) | (have hT : (type_of% x) = (Bool) := (by with_reducible rfl); clear hT; clear_value x) | (clear_value x) | fail)
    | (with_reducible apply grow_ite <;> intro)
    | with_reducible apply State.feedCrc_grow
    | with_reducible apply State.updPort_grow
    | with_reducible refine State.each_grow ?_ _ ?_
    | split

end Sys2Proof.Machine
end

