-- ==== Sys2Proof/Laws/FlowGrow.lean ====
section
/-! SUPPORT. The operations of Machine/Flow.lean leave every committed set and drop no mark: see Laws/Grow.lean. -/

set_option linter.all false

namespace Sys2Proof.Machine

theorem State.updWb_grow {s0 s : State} (h : Grow s0 s) {a1 a2} : Grow s0 (State.updWb s a1 a2) := by
  have e := @rfl _ @State.updWb
  conv at e => rhs; delta State.updWb
  rw [e]; clear e; beta_reduce
  repeat' first
    | with_reducible assumption
    | (with_reducible refine State.updHead_grow ?_ ?_; (on_goal 2 => intro _ _ ht; first | exact ht | exact List.mem_cons_of_mem _ ht | (split <;> exact ht)))

theorem State.wbWrite_grow {s0 s : State} (h : Grow s0 s) {a1 a2 a3} : Grow s0 (State.wbWrite s a1 a2 a3) := by
  have e := @rfl _ @State.wbWrite
  conv at e => rhs; delta State.wbWrite
  rw [e]; clear e; beta_reduce
  repeat' first
    | with_reducible assumption
    | (fail_if_no_progress (extract_lets -underBinder +onlyGivenNames x); first | (have hT : ∃ α : Type, (type_of% x) = (α × State) := ⟨_, rfl⟩; clear hT; refine (fun (hx : GrowP s0 x) => ?_) ?_; (on_goal 1 => clear_value x); (on_goal 2 => subst x)) | fail)
    | with_reducible apply State.devWrite_grow
    | with_reducible apply State.updWb_grow
    | (with_reducible apply GrowP.out; with_reducible assumption)
    | split

theorem State.wbLine_grow {s0 s : State} (h : Grow s0 s) {a1 a2 a3} : Grow s0 (State.wbLine s a1 a2 a3) := by
  have e := @rfl _ @State.wbLine
  conv at e => rhs; delta State.wbLine
  rw [e]; clear e; beta_reduce
  repeat' first
    | with_reducible assumption
    | (fail_if_no_progress (extract_lets -underBinder +onlyGivenNames x); first | (have hT : (type_of% x) = (State) := (by with_reducible rfl); clear hT; refine (fun (hx : Grow s0 x) => ?_) ?_; (on_goal 1 => clear_value x); (on_goal 2 => subst x)) | (have hT : (type_of% x) = (Nat) := (by with_reducible rfl); clear hT; clear_value x) | (clear_value x) | fail)
    | (with_reducible apply grow_ite <;> intro)
    | with_reducible apply State.updWb_grow
    | with_reducible apply State.wbWrite_grow

theorem State.wbFeed_grow {s0 s : State} (h : Grow s0 s) {a1 a2 a3} : Grow s0 (State.wbFeed s a1 a2 a3) := by
  have e := @rfl _ @State.wbFeed
  conv at e => rhs; delta State.wbFeed
  rw [e]; clear e; beta_reduce
  repeat' first
    | with_reducible assumption
    | (fail_if_no_progress (extract_lets -underBinder +onlyGivenNames x); first | (clear_value x) | fail)
    | (with_reducible apply grow_ite <;> intro)
    | with_reducible apply State.updWb_grow

end Sys2Proof.Machine
end

