-- ==== Sys2Proof/Laws/HeadRowsSound.lean ====
section
/-! SUPPORT. The operations of Machine/HeadRows.lean are sound: see Laws/Sound.lean. -/

set_option linter.all false

namespace Sys2Proof.Machine

theorem execBeamIrqAnchor_sound {s0 s : State} (h : Sound s0 s) {a0} : SoundU s0 (execBeamIrqAnchor a0 s) := by
  have e := @rfl _ @execBeamIrqAnchor
  conv at e => rhs; delta execBeamIrqAnchor
  rw [e]; clear e; beta_reduce
  repeat' first
    | with_reducible assumption
    | intro _ _
    | with_reducible apply State.quietly_sound
    | with_reducible apply State.runTo_sound

theorem execBeamIrq_sound {s0 s : State} (h : Sound s0 s) {a0} : SoundU s0 (execBeamIrq a0 s) := by
  have e := @rfl _ @execBeamIrq
  conv at e => rhs; delta execBeamIrq
  rw [e]; clear e; beta_reduce
  repeat' first
    | with_reducible assumption
    | intro _ _
    | with_reducible apply State.quietly_sound
    | with_reducible apply State.runTo_sound

theorem execBeamStampAnchor_sound {s0 s : State} (h : Sound s0 s) {a0} : SoundU s0 (execBeamStampAnchor a0 s) := by
  have e := @rfl _ @execBeamStampAnchor
  conv at e => rhs; delta execBeamStampAnchor
  rw [e]; clear e; beta_reduce
  repeat' first
    | with_reducible assumption
    | intro _ _
    | with_reducible apply State.quietly_sound
    | with_reducible apply State.runTo_sound

theorem execBeamWaitx_sound {s0 s : State} (h : Sound s0 s) {a0} : SoundU s0 (execBeamWaitx a0 s) := by
  have e := @rfl _ @execBeamWaitx
  conv at e => rhs; delta execBeamWaitx
  rw [e]; clear e; beta_reduce
  repeat' first
    | with_reducible assumption
    | intro _ _
    | with_reducible apply State.quietly_sound
    | with_reducible apply State.runTo_sound

theorem execBeamWriteLand_sound {s0 s : State} (h : Sound s0 s) {a0} : SoundU s0 (execBeamWriteLand a0 s) := by
  have e := @rfl _ @execBeamWriteLand
  conv at e => rhs; delta execBeamWriteLand
  rw [e]; clear e; beta_reduce
  repeat' first
    | with_reducible assumption
    | intro _ _
    | with_reducible apply State.quietly_sound
    | with_reducible apply State.runLand_sound

theorem execBeamLineBudgetRelease_sound {s0 s : State} (h : Sound s0 s) {a0} : SoundU s0 (execBeamLineBudgetRelease a0 s) := by
  have e := @rfl _ @execBeamLineBudgetRelease
  conv at e => rhs; delta execBeamLineBudgetRelease
  rw [e]; clear e; beta_reduce
  repeat' first
    | with_reducible assumption
    | intro _ _
    | with_reducible apply State.quietly_sound
    | with_reducible apply State.runTo_sound

theorem execFrameBoundary_sound {s0 s : State} (h : Sound s0 s) {a0} : SoundU s0 (execFrameBoundary a0 s) := by
  have e := @rfl _ @execFrameBoundary
  conv at e => rhs; delta execFrameBoundary
  rw [e]; clear e; beta_reduce
  repeat' first
    | with_reducible assumption
    | intro _ _
    | with_reducible apply State.working_sound
    | with_reducible apply State.frameBoundary_sound

theorem execBeamPositionEvent_sound {s0 s : State} (h : Sound s0 s) {a0} : SoundU s0 (execBeamPositionEvent a0 s) := by
  have e := @rfl _ @execBeamPositionEvent
  conv at e => rhs; delta execBeamPositionEvent
  rw [e]; clear e; beta_reduce
  repeat' first
    | with_reducible assumption
    | intro _ _
    | (with_reducible apply sound_ite <;> intro)
    | with_reducible apply State.quietly_sound
    | with_reducible apply State.boundaryEvent_sound
    | with_reducible apply State.runTo_sound

theorem execBeamJump_sound {s0 s : State} (h : Sound s0 s) {a0} : SoundU s0 (execBeamJump a0 s) := by
  have e := @rfl _ @execBeamJump
  conv at e => rhs; delta execBeamJump
  rw [e]; clear e; beta_reduce
  repeat' first
    | with_reducible assumption
    | intro _ _
    | with_reducible apply State.quietly_sound
    | with_reducible apply State.runTo_sound

theorem execEchoAlignmentChange_sound {s0 s : State} (h : Sound s0 s) {a0 a1} : SoundU s0 (execEchoAlignmentChange a0 a1 s) := by
  have e := @rfl _ @execEchoAlignmentChange
  conv at e => rhs; delta execEchoAlignmentChange
  rw [e]; clear e; beta_reduce
  repeat' first
    | with_reducible assumption
    | intro _ _
    | with_reducible apply State.quietly_sound
    | with_reducible apply State.echoAlign_sound

theorem execMantelLineRead_sound {s0 s : State} (h : Sound s0 s) {a0} : SoundU s0 (execMantelLineRead a0 s) := by
  have e := @rfl _ @execMantelLineRead
  conv at e => rhs; delta execMantelLineRead
  rw [e]; clear e; beta_reduce
  repeat' first
    | with_reducible assumption
    | intro _ _
    | with_reducible apply State.quietly_sound
    | with_reducible apply State.runTo_sound

theorem execBeamMovem_sound {s0 s : State} (h : Sound s0 s) {a0} : SoundU s0 (execBeamMovem a0 s) := by
  have e := @rfl _ @execBeamMovem
  conv at e => rhs; delta execBeamMovem
  rw [e]; clear e; beta_reduce
  repeat' first
    | with_reducible assumption
    | intro _ _
    | with_reducible apply State.quietly_sound
    | with_reducible apply State.runTo_sound

theorem execMantelFetchFailure_sound {s0 s : State} (h : Sound s0 s) {a0 a1 a2} : SoundU s0 (execMantelFetchFailure a0 a1 a2 s) := by
  have e := @rfl _ @execMantelFetchFailure
  conv at e => rhs; delta execMantelFetchFailure
  rw [e]; clear e; beta_reduce
  repeat' first
    | with_reducible assumption
    | intro _ _
    | with_reducible apply State.quietly_sound
    | with_reducible apply State.mantelFails_sound

theorem execBeamMove_sound {s0 s : State} (h : Sound s0 s) {a0} : SoundU s0 (execBeamMove a0 s) := by
  have e := @rfl _ @execBeamMove
  conv at e => rhs; delta execBeamMove
  rw [e]; clear e; beta_reduce
  repeat' first
    | with_reducible assumption
    | intro _ _
    | with_reducible apply State.quietly_sound
    | with_reducible apply State.runTo_sound

theorem execEchoSymbolMismatch_sound {s0 s : State} (h : Sound s0 s) {a0 a1 a2} : SoundU s0 (execEchoSymbolMismatch a0 a1 a2 s) := by
  have e := @rfl _ @execEchoSymbolMismatch
  conv at e => rhs; delta execEchoSymbolMismatch
  rw [e]; clear e; beta_reduce
  repeat' first
    | with_reducible assumption
    | intro _ _
    | with_reducible apply State.quietly_sound
    | with_reducible apply State.echoMismatch_sound

theorem execLinkTrainingDone_sound {s0 s : State} (h : Sound s0 s) {a0 a1} : SoundU s0 (execLinkTrainingDone a0 a1 s) := by
  have e := @rfl _ @execLinkTrainingDone
  conv at e => rhs; delta execLinkTrainingDone
  rw [e]; clear e; beta_reduce
  repeat' first
    | with_reducible assumption
    | intro _ _
    | with_reducible apply State.working_sound
    | with_reducible apply State.trainingDone_sound

theorem execMantelAdmissionDone_sound {s0 s : State} (h : Sound s0 s) {a0} : SoundU s0 (execMantelAdmissionDone a0 s) := by
  have e := @rfl _ @execMantelAdmissionDone
  conv at e => rhs; delta execMantelAdmissionDone
  rw [e]; clear e; beta_reduce
  repeat' first
    | with_reducible assumption
    | intro _ _
    | (with_reducible apply sound_ite <;> intro)
    | with_reducible apply State.working_sound
    | with_reducible apply State.mantelAdmit_sound

theorem execWritebackLine_sound {s0 s : State} (h : Sound s0 s) {a0 a1} : SoundU s0 (execWritebackLine a0 a1 s) := by
  have e := @rfl _ @execWritebackLine
  conv at e => rhs; delta execWritebackLine
  rw [e]; clear e; beta_reduce
  repeat' first
    | with_reducible assumption
    | intro _ _
    | with_reducible apply State.quietly_sound
    | with_reducible apply State.runWbLine_sound

theorem execSwapCycle_sound {s0 s : State} (h : Sound s0 s) {a0} : SoundU s0 (execSwapCycle a0 s) := by
  have e := @rfl _ @execSwapCycle
  conv at e => rhs; delta execSwapCycle
  rw [e]; clear e; beta_reduce
  repeat' first
    | with_reducible assumption
    | intro _ _
    | with_reducible apply State.working_sound
    | with_reducible apply State.swapCycle_sound

theorem execBeamEnd_sound {s0 s : State} (h : Sound s0 s) {a0} : SoundU s0 (execBeamEnd a0 s) := by
  have e := @rfl _ @execBeamEnd
  conv at e => rhs; delta execBeamEnd
  rw [e]; clear e; beta_reduce
  repeat' first
    | with_reducible assumption
    | intro _ _
    | with_reducible apply State.quietly_sound
    | with_reducible apply State.runTo_sound

theorem execBeamWait_sound {s0 s : State} (h : Sound s0 s) {a0} : SoundU s0 (execBeamWait a0 s) := by
  have e := @rfl _ @execBeamWait
  conv at e => rhs; delta execBeamWait
  rw [e]; clear e; beta_reduce
  repeat' first
    | with_reducible assumption
    | intro _ _
    | with_reducible apply State.quietly_sound
    | with_reducible apply State.runTo_sound

theorem execBeamWindowEnd_sound {s0 s : State} (h : Sound s0 s) {a0} : SoundU s0 (execBeamWindowEnd a0 s) := by
  have e := @rfl _ @execBeamWindowEnd
  conv at e => rhs; delta execBeamWindowEnd
  rw [e]; clear e; beta_reduce
  repeat' first
    | with_reducible assumption
    | intro _ _
    | with_reducible apply State.quietly_sound
    | with_reducible apply State.runTo_sound

theorem execBeamFenceDone_sound {s0 s : State} (h : Sound s0 s) {a0} : SoundU s0 (execBeamFenceDone a0 s) := by
  have e := @rfl _ @execBeamFenceDone
  conv at e => rhs; delta execBeamFenceDone
  rw [e]; clear e; beta_reduce
  repeat' first
    | with_reducible assumption
    | intro _ _
    | with_reducible apply State.quietly_sound
    | with_reducible apply State.runTo_sound

theorem execGenlockPresentTimeout_sound {s0 s : State} (h : Sound s0 s) : SoundU s0 (execGenlockPresentTimeout s) := by
  have e := @rfl _ @execGenlockPresentTimeout
  conv at e => rhs; delta execGenlockPresentTimeout
  rw [e]; clear e; beta_reduce
  repeat' first
    | with_reducible assumption
    | intro _ _
    | with_reducible apply State.quietly_sound
    | with_reducible apply State.setB_sound

theorem execBitmapLineRead_sound {s0 s : State} (h : Sound s0 s) {a0} : SoundU s0 (execBitmapLineRead a0 s) := by
  have e := @rfl _ @execBitmapLineRead
  conv at e => rhs; delta execBitmapLineRead
  rw [e]; clear e; beta_reduce
  repeat' first
    | with_reducible assumption
    | intro _ _
    | with_reducible apply State.quietly_sound
    | with_reducible apply State.runTo_sound

theorem execGenlockInEdge_sound {s0 s : State} (h : Sound s0 s) {a0 a1} : SoundU s0 (execGenlockInEdge a0 a1 s) := by
  have e := @rfl _ @execGenlockInEdge
  conv at e => rhs; delta execGenlockInEdge
  rw [e]; clear e; beta_reduce
  repeat' first
    | with_reducible assumption
    | intro _ _
    | with_reducible apply State.quietly_sound
    | with_reducible apply State.glEdge_sound

theorem execSinkReadDone_sound {s0 s : State} (h : Sound s0 s) {a0 a1} : SoundU s0 (execSinkReadDone a0 a1 s) := by
  have e := @rfl _ @execSinkReadDone
  conv at e => rhs; delta execSinkReadDone
  rw [e]; clear e; beta_reduce
  repeat' first
    | with_reducible assumption
    | intro _ _
    | with_reducible apply State.working_sound
    | with_reducible apply State.sinkRead_sound

theorem execPllGlideDone_sound {s0 s : State} (h : Sound s0 s) {a0 a1} : SoundU s0 (execPllGlideDone a0 a1 s) := by
  have e := @rfl _ @execPllGlideDone
  conv at e => rhs; delta execPllGlideDone
  rw [e]; clear e; beta_reduce
  repeat' first
    | with_reducible assumption
    | intro _ _
    | with_reducible apply State.working_sound
    | with_reducible apply State.glideDone_sound

theorem execSpriteTableLoaded_sound {s0 s : State} (h : Sound s0 s) {a0} : SoundU s0 (execSpriteTableLoaded a0 s) := by
  have e := @rfl _ @execSpriteTableLoaded
  conv at e => rhs; delta execSpriteTableLoaded
  rw [e]; clear e; beta_reduce
  repeat' first
    | with_reducible assumption
    | intro _ _
    | with_reducible apply State.quietly_sound
    | with_reducible apply State.runTo_sound

theorem execHpdUnplug_sound {s0 s : State} (h : Sound s0 s) {a0} : SoundU s0 (execHpdUnplug a0 s) := by
  have e := @rfl _ @execHpdUnplug
  conv at e => rhs; delta execHpdUnplug
  rw [e]; clear e; beta_reduce
  repeat' first
    | with_reducible assumption
    | intro _ _
    | with_reducible apply State.working_sound
    | with_reducible apply State.hpdUnplug_sound

theorem execGenlockAlignEnd_sound {s0 s : State} (h : Sound s0 s) {a0} : SoundU s0 (execGenlockAlignEnd a0 s) := by
  have e := @rfl _ @execGenlockAlignEnd
  conv at e => rhs; delta execGenlockAlignEnd
  rw [e]; clear e; beta_reduce
  repeat' first
    | with_reducible assumption
    | intro _ _
    | with_reducible apply State.working_sound
    | with_reducible apply State.alignEnd_sound

theorem execLineEvent_sound {s0 s : State} (h : Sound s0 s) {a0} : SoundU s0 (execLineEvent a0 s) := by
  have e := @rfl _ @execLineEvent
  conv at e => rhs; delta execLineEvent
  rw [e]; clear e; beta_reduce
  repeat' first
    | with_reducible assumption
    | intro _ _
    | with_reducible apply State.quietly_sound
    | with_reducible apply State.runTo_sound

theorem execGenlockLost_sound {s0 s : State} (h : Sound s0 s) {a0} : SoundU s0 (execGenlockLost a0 s) := by
  have e := @rfl _ @execGenlockLost
  conv at e => rhs; delta execGenlockLost
  rw [e]; clear e; beta_reduce
  repeat' first
    | with_reducible assumption
    | intro _ _
    | with_reducible apply State.quietly_sound
    | with_reducible apply State.glLost_sound

theorem execBeamSkipif_sound {s0 s : State} (h : Sound s0 s) {a0} : SoundU s0 (execBeamSkipif a0 s) := by
  have e := @rfl _ @execBeamSkipif
  conv at e => rhs; delta execBeamSkipif
  rw [e]; clear e; beta_reduce
  repeat' first
    | with_reducible assumption
    | intro _ _
    | with_reducible apply State.quietly_sound
    | with_reducible apply State.runTo_sound

theorem execWiringSense_sound {s0 s : State} (h : Sound s0 s) {a0 a1} : SoundU s0 (execWiringSense a0 a1 s) := by
  have e := @rfl _ @execWiringSense
  conv at e => rhs; delta execWiringSense
  rw [e]; clear e; beta_reduce
  repeat' first
    | with_reducible assumption
    | intro _ _
    | with_reducible apply State.working_sound
    | with_reducible apply State.wiringSense_sound

theorem execBeamStamp_sound {s0 s : State} (h : Sound s0 s) {a0} : SoundU s0 (execBeamStamp a0 s) := by
  have e := @rfl _ @execBeamStamp
  conv at e => rhs; delta execBeamStamp
  rw [e]; clear e; beta_reduce
  repeat' first
    | with_reducible assumption
    | intro _ _
    | with_reducible apply State.quietly_sound
    | with_reducible apply State.runTo_sound

theorem execLayerFetchFailure_sound {s0 s : State} (h : Sound s0 s) {a0 a1 a2 a3} : SoundU s0 (execLayerFetchFailure a0 a1 a2 a3 s) := by
  have e := @rfl _ @execLayerFetchFailure
  conv at e => rhs; delta execLayerFetchFailure
  rw [e]; clear e; beta_reduce
  repeat' first
    | with_reducible assumption
    | intro _ _
    | with_reducible apply State.quietly_sound
    | with_reducible apply State.layerFails_sound

theorem execHpdPlug_sound {s0 s : State} (h : Sound s0 s) {a0} : SoundU s0 (execHpdPlug a0 s) := by
  have e := @rfl _ @execHpdPlug
  conv at e => rhs; delta execHpdPlug
  rw [e]; clear e; beta_reduce
  repeat' first
    | with_reducible assumption
    | intro _ _
    | with_reducible apply State.working_sound
    | with_reducible apply State.hpdPlug_sound

theorem execHeadPllLock_sound {s0 s : State} (h : Sound s0 s) {a0 a1} : SoundU s0 (execHeadPllLock a0 a1 s) := by
  have e := @rfl _ @execHeadPllLock
  conv at e => rhs; delta execHeadPllLock
  rw [e]; clear e; beta_reduce
  repeat' first
    | with_reducible assumption
    | intro _ _
    | with_reducible apply State.working_sound
    | with_reducible apply State.pllLock_sound

theorem execBeamFence_sound {s0 s : State} (h : Sound s0 s) {a0} : SoundU s0 (execBeamFence a0 s) := by
  have e := @rfl _ @execBeamFence
  conv at e => rhs; delta execBeamFence
  rw [e]; clear e; beta_reduce
  repeat' first
    | with_reducible assumption
    | intro _ _
    | with_reducible apply State.quietly_sound
    | with_reducible apply State.runTo_sound

theorem execSpriteLineEval_sound {s0 s : State} (h : Sound s0 s) {a0} : SoundU s0 (execSpriteLineEval a0 s) := by
  have e := @rfl _ @execSpriteLineEval
  conv at e => rhs; delta execSpriteLineEval
  rw [e]; clear e; beta_reduce
  repeat' first
    | with_reducible assumption
    | intro _ _
    | with_reducible apply State.quietly_sound
    | with_reducible apply State.runTo_sound

theorem execBeamWaitMet_sound {s0 s : State} (h : Sound s0 s) {a0} : SoundU s0 (execBeamWaitMet a0 s) := by
  have e := @rfl _ @execBeamWaitMet
  conv at e => rhs; delta execBeamWaitMet
  rw [e]; clear e; beta_reduce
  repeat' first
    | with_reducible assumption
    | intro _ _
    | with_reducible apply State.quietly_sound
    | with_reducible apply State.runTo_sound

theorem execIrqHpd_sound {s0 s : State} (h : Sound s0 s) {a0} : SoundU s0 (execIrqHpd a0 s) := by
  have e := @rfl _ @execIrqHpd
  conv at e => rhs; delta execIrqHpd
  rw [e]; clear e; beta_reduce
  repeat' first
    | with_reducible assumption
    | intro _ _
    | with_reducible apply State.working_sound
    | with_reducible apply State.hpdIrq_sound

end Sys2Proof.Machine
end

