-- ==== Sys2Proof/Laws/RecordsCalm.lean ====
section
/-! SUPPORT. The operations of Machine/Records.lean that can finish commands leave calm ones alone: see Laws/Calm.lean. -/

set_option linter.all false

namespace Sys2Proof.Machine

theorem State.recHead_calm {s0 s : State} (h : Calm s0 s) {a1} : Calm s0 (State.recHead s a1) := by
  have e := @rfl _ @State.recHead
  conv at e => rhs; delta State.recHead
  rw [e]; clear e; beta_reduce
  repeat' first
    | with_reducible assumption
    | with_reducible apply State.jWrite_calm

end Sys2Proof.Machine
end

