-- ==== Sys2Proof/Laws/HeadRunCalm.lean ====
section
/-! SUPPORT. The operations of Machine/HeadRun.lean that can finish commands leave calm ones alone: see Laws/Calm.lean. -/

set_option linter.all false

namespace Sys2Proof.Machine

theorem State.expertSwapped_calm {s0 s : State} (h : Calm s0 s) {a1} : Calm s0 (State.expertSwapped s a1) :=
  ⟨fun q => by
    have e := h.opens q
    unfold State.expertSwapped
    refine (List.map_congr_left (g := id) ?_).trans ((List.map_id _).trans e)
    intro o ho
    rw [e] at ho
    simp only [(q o ho).1, id]⟩

theorem State.stopHead_calm {s0 s : State} (h : Calm s0 s) {a1} : Calm s0 (State.stopHead s a1) := by
  have e := @rfl _ @State.stopHead
  conv at e => rhs; delta State.stopHead
  rw [e]; clear e; beta_reduce
  repeat' first
    | with_reducible assumption
    | (fail_if_no_progress (extract_lets -underBinder +onlyGivenNames x); first | (have hT : (type_of% x) = (State) := (by with_reducible rfl); clear hT; refine (fun (hx : Calm s0 x) => ?_) ?_; (on_goal 1 => clear_value x); (on_goal 2 => subst x)) | fail)
    | with_reducible apply State.setReg_calm
    | with_reducible apply State.portsHeadOff_calm
    | with_reducible apply State.setRsv_calm
    | with_reducible apply State.updHead_calm

theorem State.followLeader_calm {s0 s : State} (h : Calm s0 s) {a1} : Calm s0 (State.followLeader s a1) := by
  have e := @rfl _ @State.followLeader
  conv at e => rhs; delta State.followLeader
  rw [e]; clear e; beta_reduce
  repeat' first
    | with_reducible assumption
    | (fail_if_no_progress (extract_lets -underBinder +onlyGivenNames x); first | (have hT : (type_of% x) = (Nat) := (by with_reducible rfl); clear hT; clear_value x) | (clear_value x) | fail)
    | (with_reducible apply calm_ite <;> intro)
    | with_reducible apply State.updHead_calm
    | with_reducible apply State.setReg_calm

end Sys2Proof.Machine
end

