-- ==== Sys2Proof/Laws/MusicCalm.lean ====
section
/-! SUPPORT. The operations of Machine/Music.lean that can finish commands leave calm ones alone: see Laws/Calm.lean. -/

set_option linter.all false

namespace Sys2Proof.Machine

theorem State.voiceIdle_calm {s0 s : State} (h : Calm s0 s) {a1} : Calm s0 (State.voiceIdle s a1) := by
  have e := @rfl _ @State.voiceIdle
  conv at e => rhs; delta State.voiceIdle
  rw [e]; clear e; beta_reduce
  repeat' first
    | with_reducible assumption
    | (fail_if_no_progress (extract_lets -underBinder +onlyGivenNames x); first | (have hT : (type_of% x) = (State) := (by with_reducible rfl); clear hT; refine (fun (hx : Calm s0 x) => ?_) ?_; (on_goal 1 => clear_value x); (on_goal 2 => subst x)) | (clear_value x) | fail)
    | with_reducible apply State.setVoice_calm
    | with_reducible apply State.setReg_calm

theorem State.musCost_calm {s0 s : State} (h : Calm s0 s) : Calm s0 (State.musCost s) := by
  have e := @rfl _ @State.musCost
  conv at e => rhs; delta State.musCost
  rw [e]; clear e; beta_reduce
  repeat' first
    | with_reducible assumption
    | with_reducible apply State.setReg_calm

theorem State.musReset_calm {s0 s : State} (h : Calm s0 s) : Calm s0 (State.musReset s) := by
  have e := @rfl _ @State.musReset
  conv at e => rhs; delta State.musReset
  rw [e]; clear e; beta_reduce
  repeat' first
    | with_reducible assumption
    | intro _ _ _
    | (fail_if_no_progress (extract_lets -underBinder +onlyGivenNames x); first | (have hT : (type_of% x) = (State) := (by with_reducible rfl); clear hT; refine (fun (hx : Calm s0 x) => ?_) ?_; (on_goal 1 => clear_value x); (on_goal 2 => subst x)) | fail)
    | with_reducible apply State.setVoice_calm
    | with_reducible apply State.voiceIdle_calm
    | with_reducible apply State.setReg_calm
    | with_reducible apply State.musCost_calm
    | with_reducible apply State.setB_calm
    | with_reducible refine State.each_calm ?_ _ ?_
    | (with_reducible refine Calm.upd ?_ ?_; (on_goal 2 => with_reducible rfl); with_reducible assumption)

end Sys2Proof.Machine
end

