-- ==== Sys2Proof/Laws/NioRowsSound.lean ====
section
/-! SUPPORT. The operations of Machine/NioRows.lean are sound: see Laws/Sound.lean. -/

set_option linter.all false

namespace Sys2Proof.Machine

theorem State.nioOpRow_sound {s0 s : State} (h : Sound s0 s) {a1 a2 a3} : SoundU s0 (State.nioOpRow s a1 a2 a3) := by
  have e := @rfl _ @State.nioOpRow
  conv at e => rhs; delta State.nioOpRow
  rw [e]; clear e; beta_reduce
  repeat' first
    | with_reducible assumption
    | intro _ _
    | with_reducible apply State.working_sound
    | with_reducible apply State.nioRow_sound

theorem execNioMul_sound {s0 s : State} (h : Sound s0 s) {a0} : SoundU s0 (execNioMul a0 s) := by
  have e := @rfl _ @execNioMul
  conv at e => rhs; delta execNioMul
  rw [e]; clear e; beta_reduce
  repeat' first
    | with_reducible assumption
    | with_reducible apply State.nioOpRow_sound

theorem execNioSumx_sound {s0 s : State} (h : Sound s0 s) {a0} : SoundU s0 (execNioSumx a0 s) := by
  have e := @rfl _ @execNioSumx
  conv at e => rhs; delta execNioSumx
  rw [e]; clear e; beta_reduce
  repeat' first
    | with_reducible assumption
    | with_reducible apply State.nioOpRow_sound

theorem execNioTst_sound {s0 s : State} (h : Sound s0 s) {a0} : SoundU s0 (execNioTst a0 s) := by
  have e := @rfl _ @execNioTst
  conv at e => rhs; delta execNioTst
  rw [e]; clear e; beta_reduce
  repeat' first
    | with_reducible assumption
    | with_reducible apply State.nioOpRow_sound

theorem execNioSar_sound {s0 s : State} (h : Sound s0 s) {a0} : SoundU s0 (execNioSar a0 s) := by
  have e := @rfl _ @execNioSar
  conv at e => rhs; delta execNioSar
  rw [e]; clear e; beta_reduce
  repeat' first
    | with_reducible assumption
    | with_reducible apply State.nioOpRow_sound

theorem execNioHalt_sound {s0 s : State} (h : Sound s0 s) {a0} : SoundU s0 (execNioHalt a0 s) := by
  have e := @rfl _ @execNioHalt
  conv at e => rhs; delta execNioHalt
  rw [e]; clear e; beta_reduce
  repeat' first
    | with_reducible assumption
    | with_reducible apply State.nioOpRow_sound

theorem execNioRor_sound {s0 s : State} (h : Sound s0 s) {a0} : SoundU s0 (execNioRor a0 s) := by
  have e := @rfl _ @execNioRor
  conv at e => rhs; delta execNioRor
  rw [e]; clear e; beta_reduce
  repeat' first
    | with_reducible assumption
    | with_reducible apply State.nioOpRow_sound

theorem execNioRet_sound {s0 s : State} (h : Sound s0 s) {a0} : SoundU s0 (execNioRet a0 s) := by
  have e := @rfl _ @execNioRet
  conv at e => rhs; delta execNioRet
  rw [e]; clear e; beta_reduce
  repeat' first
    | with_reducible assumption
    | with_reducible apply State.nioOpRow_sound

theorem execNioStsp_sound {s0 s : State} (h : Sound s0 s) {a0} : SoundU s0 (execNioStsp a0 s) := by
  have e := @rfl _ @execNioStsp
  conv at e => rhs; delta execNioStsp
  rw [e]; clear e; beta_reduce
  repeat' first
    | with_reducible assumption
    | with_reducible apply State.nioOpRow_sound

theorem execNioSub_sound {s0 s : State} (h : Sound s0 s) {a0} : SoundU s0 (execNioSub a0 s) := by
  have e := @rfl _ @execNioSub
  conv at e => rhs; delta execNioSub
  rw [e]; clear e; beta_reduce
  repeat' first
    | with_reducible assumption
    | with_reducible apply State.nioOpRow_sound

theorem execNioXor_sound {s0 s : State} (h : Sound s0 s) {a0} : SoundU s0 (execNioXor a0 s) := by
  have e := @rfl _ @execNioXor
  conv at e => rhs; delta execNioXor
  rw [e]; clear e; beta_reduce
  repeat' first
    | with_reducible assumption
    | with_reducible apply State.nioOpRow_sound

theorem execNioJmp_sound {s0 s : State} (h : Sound s0 s) {a0} : SoundU s0 (execNioJmp a0 s) := by
  have e := @rfl _ @execNioJmp
  conv at e => rhs; delta execNioJmp
  rw [e]; clear e; beta_reduce
  repeat' first
    | with_reducible assumption
    | with_reducible apply State.nioOpRow_sound

theorem execNioftLoadDone_sound {s0 s : State} (h : Sound s0 s) {a0} : SoundU s0 (execNioftLoadDone a0 s) := by
  have e := @rfl _ @execNioftLoadDone
  conv at e => rhs; delta execNioftLoadDone
  rw [e]; clear e; beta_reduce
  repeat' first
    | with_reducible assumption
    | intro _ _
    | with_reducible apply State.working_sound
    | with_reducible apply State.nioLoadDone_sound

theorem execNioAdc_sound {s0 s : State} (h : Sound s0 s) {a0} : SoundU s0 (execNioAdc a0 s) := by
  have e := @rfl _ @execNioAdc
  conv at e => rhs; delta execNioAdc
  rw [e]; clear e; beta_reduce
  repeat' first
    | with_reducible assumption
    | with_reducible apply State.nioOpRow_sound

theorem execNioCopyx_sound {s0 s : State} (h : Sound s0 s) {a0} : SoundU s0 (execNioCopyx a0 s) := by
  have e := @rfl _ @execNioCopyx
  conv at e => rhs; delta execNioCopyx
  rw [e]; clear e; beta_reduce
  repeat' first
    | with_reducible assumption
    | with_reducible apply State.nioOpRow_sound

theorem execNioCallr_sound {s0 s : State} (h : Sound s0 s) {a0} : SoundU s0 (execNioCallr a0 s) := by
  have e := @rfl _ @execNioCallr
  conv at e => rhs; delta execNioCallr
  rw [e]; clear e; beta_reduce
  repeat' first
    | with_reducible assumption
    | with_reducible apply State.nioOpRow_sound

theorem execNioSbc_sound {s0 s : State} (h : Sound s0 s) {a0} : SoundU s0 (execNioSbc a0 s) := by
  have e := @rfl _ @execNioSbc
  conv at e => rhs; delta execNioSbc
  rw [e]; clear e; beta_reduce
  repeat' first
    | with_reducible assumption
    | with_reducible apply State.nioOpRow_sound

theorem execNioLdsp_sound {s0 s : State} (h : Sound s0 s) {a0} : SoundU s0 (execNioLdsp a0 s) := by
  have e := @rfl _ @execNioLdsp
  conv at e => rhs; delta execNioLdsp
  rw [e]; clear e; beta_reduce
  repeat' first
    | with_reducible assumption
    | with_reducible apply State.nioOpRow_sound

theorem execNioShl_sound {s0 s : State} (h : Sound s0 s) {a0} : SoundU s0 (execNioShl a0 s) := by
  have e := @rfl _ @execNioShl
  conv at e => rhs; delta execNioShl
  rw [e]; clear e; beta_reduce
  repeat' first
    | with_reducible assumption
    | with_reducible apply State.nioOpRow_sound

theorem execNioAddi_sound {s0 s : State} (h : Sound s0 s) {a0} : SoundU s0 (execNioAddi a0 s) := by
  have e := @rfl _ @execNioAddi
  conv at e => rhs; delta execNioAddi
  rw [e]; clear e; beta_reduce
  repeat' first
    | with_reducible assumption
    | with_reducible apply State.nioOpRow_sound

theorem execNioJmpr_sound {s0 s : State} (h : Sound s0 s) {a0} : SoundU s0 (execNioJmpr a0 s) := by
  have e := @rfl _ @execNioJmpr
  conv at e => rhs; delta execNioJmpr
  rw [e]; clear e; beta_reduce
  repeat' first
    | with_reducible assumption
    | with_reducible apply State.nioOpRow_sound

theorem execNioTrap_sound {s0 s : State} (h : Sound s0 s) {a0} : SoundU s0 (execNioTrap a0 s) := by
  have e := @rfl _ @execNioTrap
  conv at e => rhs; delta execNioTrap
  rw [e]; clear e; beta_reduce
  repeat' first
    | with_reducible assumption
    | with_reducible apply State.nioOpRow_sound

theorem execNioWdogExpiry_sound {s0 s : State} (h : Sound s0 s) {a0 a1} : SoundU s0 (execNioWdogExpiry a0 a1 s) := by
  have e := @rfl _ @execNioWdogExpiry
  conv at e => rhs; delta execNioWdogExpiry
  rw [e]; clear e; beta_reduce
  repeat' first
    | with_reducible assumption
    | intro _ _
    | with_reducible apply State.working_sound
    | with_reducible apply State.nioWdogExpiry_sound

theorem execNioShr_sound {s0 s : State} (h : Sound s0 s) {a0} : SoundU s0 (execNioShr a0 s) := by
  have e := @rfl _ @execNioShr
  conv at e => rhs; delta execNioShr
  rw [e]; clear e; beta_reduce
  repeat' first
    | with_reducible assumption
    | with_reducible apply State.nioOpRow_sound

theorem execNioLdw_sound {s0 s : State} (h : Sound s0 s) {a0} : SoundU s0 (execNioLdw a0 s) := by
  have e := @rfl _ @execNioLdw
  conv at e => rhs; delta execNioLdw
  rw [e]; clear e; beta_reduce
  repeat' first
    | with_reducible assumption
    | with_reducible apply State.nioOpRow_sound

theorem execNioBr_sound {s0 s : State} (h : Sound s0 s) {a0} : SoundU s0 (execNioBr a0 s) := by
  have e := @rfl _ @execNioBr
  conv at e => rhs; delta execNioBr
  rw [e]; clear e; beta_reduce
  repeat' first
    | with_reducible assumption
    | with_reducible apply State.nioOpRow_sound

theorem execNioNeg_sound {s0 s : State} (h : Sound s0 s) {a0} : SoundU s0 (execNioNeg a0 s) := by
  have e := @rfl _ @execNioNeg
  conv at e => rhs; delta execNioNeg
  rw [e]; clear e; beta_reduce
  repeat' first
    | with_reducible assumption
    | with_reducible apply State.nioOpRow_sound

theorem execNioLdh_sound {s0 s : State} (h : Sound s0 s) {a0} : SoundU s0 (execNioLdh a0 s) := by
  have e := @rfl _ @execNioLdh
  conv at e => rhs; delta execNioLdh
  rw [e]; clear e; beta_reduce
  repeat' first
    | with_reducible assumption
    | with_reducible apply State.nioOpRow_sound

theorem execNioFindx_sound {s0 s : State} (h : Sound s0 s) {a0} : SoundU s0 (execNioFindx a0 s) := by
  have e := @rfl _ @execNioFindx
  conv at e => rhs; delta execNioFindx
  rw [e]; clear e; beta_reduce
  repeat' first
    | with_reducible assumption
    | with_reducible apply State.nioOpRow_sound

theorem execNioRep_sound {s0 s : State} (h : Sound s0 s) {a0} : SoundU s0 (execNioRep a0 s) := by
  have e := @rfl _ @execNioRep
  conv at e => rhs; delta execNioRep
  rw [e]; clear e; beta_reduce
  repeat' first
    | with_reducible assumption
    | with_reducible apply State.nioOpRow_sound

theorem execNioFarLoadDone_sound {s0 s : State} (h : Sound s0 s) {a0 a1} : SoundU s0 (execNioFarLoadDone a0 a1 s) := by
  have e := @rfl _ @execNioFarLoadDone
  conv at e => rhs; delta execNioFarLoadDone
  rw [e]; clear e; beta_reduce
  repeat' first
    | with_reducible assumption
    | intro _ _
    | with_reducible apply State.working_sound
    | with_reducible apply State.nioFarLoadDone_sound

theorem execNioOr_sound {s0 s : State} (h : Sound s0 s) {a0} : SoundU s0 (execNioOr a0 s) := by
  have e := @rfl _ @execNioOr
  conv at e => rhs; delta execNioOr
  rw [e]; clear e; beta_reduce
  repeat' first
    | with_reducible assumption
    | with_reducible apply State.nioOpRow_sound

theorem execNioFillx_sound {s0 s : State} (h : Sound s0 s) {a0} : SoundU s0 (execNioFillx a0 s) := by
  have e := @rfl _ @execNioFillx
  conv at e => rhs; delta execNioFillx
  rw [e]; clear e; beta_reduce
  repeat' first
    | with_reducible assumption
    | with_reducible apply State.nioOpRow_sound

theorem execNioMts_sound {s0 s : State} (h : Sound s0 s) {a0} : SoundU s0 (execNioMts a0 s) := by
  have e := @rfl _ @execNioMts
  conv at e => rhs; delta execNioMts
  rw [e]; clear e; beta_reduce
  repeat' first
    | with_reducible assumption
    | with_reducible apply State.nioOpRow_sound

theorem execNioNop_sound {s0 s : State} (h : Sound s0 s) {a0} : SoundU s0 (execNioNop a0 s) := by
  have e := @rfl _ @execNioNop
  conv at e => rhs; delta execNioNop
  rw [e]; clear e; beta_reduce
  repeat' first
    | with_reducible assumption
    | with_reducible apply State.nioOpRow_sound

theorem execNioNot_sound {s0 s : State} (h : Sound s0 s) {a0} : SoundU s0 (execNioNot a0 s) := by
  have e := @rfl _ @execNioNot
  conv at e => rhs; delta execNioNot
  rw [e]; clear e; beta_reduce
  repeat' first
    | with_reducible assumption
    | with_reducible apply State.nioOpRow_sound

theorem execNioSarReg_sound {s0 s : State} (h : Sound s0 s) {a0} : SoundU s0 (execNioSarReg a0 s) := by
  have e := @rfl _ @execNioSarReg
  conv at e => rhs; delta execNioSarReg
  rw [e]; clear e; beta_reduce
  repeat' first
    | with_reducible assumption
    | with_reducible apply State.nioOpRow_sound

theorem execNioMfs_sound {s0 s : State} (h : Sound s0 s) {a0} : SoundU s0 (execNioMfs a0 s) := by
  have e := @rfl _ @execNioMfs
  conv at e => rhs; delta execNioMfs
  rw [e]; clear e; beta_reduce
  repeat' first
    | with_reducible assumption
    | with_reducible apply State.nioOpRow_sound

theorem execNioMac_sound {s0 s : State} (h : Sound s0 s) {a0} : SoundU s0 (execNioMac a0 s) := by
  have e := @rfl _ @execNioMac
  conv at e => rhs; delta execNioMac
  rw [e]; clear e; beta_reduce
  repeat' first
    | with_reducible assumption
    | with_reducible apply State.nioOpRow_sound

theorem execNioWait_sound {s0 s : State} (h : Sound s0 s) {a0} : SoundU s0 (execNioWait a0 s) := by
  have e := @rfl _ @execNioWait
  conv at e => rhs; delta execNioWait
  rw [e]; clear e; beta_reduce
  repeat' first
    | with_reducible assumption
    | with_reducible apply State.nioOpRow_sound

theorem execNioReti_sound {s0 s : State} (h : Sound s0 s) {a0 a1} : SoundU s0 (execNioReti a0 a1 s) := by
  have e := @rfl _ @execNioReti
  conv at e => rhs; delta execNioReti
  rw [e]; clear e; beta_reduce
  repeat' first
    | with_reducible assumption
    | with_reducible apply State.nioOpRow_sound

theorem execNioMulu_sound {s0 s : State} (h : Sound s0 s) {a0} : SoundU s0 (execNioMulu a0 s) := by
  have e := @rfl _ @execNioMulu
  conv at e => rhs; delta execNioMulu
  rw [e]; clear e; beta_reduce
  repeat' first
    | with_reducible assumption
    | with_reducible apply State.nioOpRow_sound

theorem execNioShrReg_sound {s0 s : State} (h : Sound s0 s) {a0} : SoundU s0 (execNioShrReg a0 s) := by
  have e := @rfl _ @execNioShrReg
  conv at e => rhs; delta execNioShrReg
  rw [e]; clear e; beta_reduce
  repeat' first
    | with_reducible assumption
    | with_reducible apply State.nioOpRow_sound

theorem execNioFence_sound {s0 s : State} (h : Sound s0 s) {a0} : SoundU s0 (execNioFence a0 s) := by
  have e := @rfl _ @execNioFence
  conv at e => rhs; delta execNioFence
  rw [e]; clear e; beta_reduce
  repeat' first
    | with_reducible assumption
    | with_reducible apply State.nioOpRow_sound

theorem execNioAdd_sound {s0 s : State} (h : Sound s0 s) {a0} : SoundU s0 (execNioAdd a0 s) := by
  have e := @rfl _ @execNioAdd
  conv at e => rhs; delta execNioAdd
  rw [e]; clear e; beta_reduce
  repeat' first
    | with_reducible assumption
    | with_reducible apply State.nioOpRow_sound

theorem execNioMov_sound {s0 s : State} (h : Sound s0 s) {a0} : SoundU s0 (execNioMov a0 s) := by
  have e := @rfl _ @execNioMov
  conv at e => rhs; delta execNioMov
  rw [e]; clear e; beta_reduce
  repeat' first
    | with_reducible assumption
    | with_reducible apply State.nioOpRow_sound

theorem execNioMovi_sound {s0 s : State} (h : Sound s0 s) {a0} : SoundU s0 (execNioMovi a0 s) := by
  have e := @rfl _ @execNioMovi
  conv at e => rhs; delta execNioMovi
  rw [e]; clear e; beta_reduce
  repeat' first
    | with_reducible assumption
    | with_reducible apply State.nioOpRow_sound

theorem execNioShlReg_sound {s0 s : State} (h : Sound s0 s) {a0} : SoundU s0 (execNioShlReg a0 s) := by
  have e := @rfl _ @execNioShlReg
  conv at e => rhs; delta execNioShlReg
  rw [e]; clear e; beta_reduce
  repeat' first
    | with_reducible assumption
    | with_reducible apply State.nioOpRow_sound

theorem execNioIntEntry_sound {s0 s : State} (h : Sound s0 s) {a0 a1} : SoundU s0 (execNioIntEntry a0 a1 s) := by
  have e := @rfl _ @execNioIntEntry
  conv at e => rhs; delta execNioIntEntry
  rw [e]; clear e; beta_reduce
  repeat' first
    | with_reducible assumption
    | intro _ _
    | with_reducible apply State.working_sound
    | with_reducible apply State.nioIntEntry_sound

theorem execNioLdbs_sound {s0 s : State} (h : Sound s0 s) {a0} : SoundU s0 (execNioLdbs a0 s) := by
  have e := @rfl _ @execNioLdbs
  conv at e => rhs; delta execNioLdbs
  rw [e]; clear e; beta_reduce
  repeat' first
    | with_reducible assumption
    | with_reducible apply State.nioOpRow_sound

theorem execNioLdb_sound {s0 s : State} (h : Sound s0 s) {a0} : SoundU s0 (execNioLdb a0 s) := by
  have e := @rfl _ @execNioLdb
  conv at e => rhs; delta execNioLdb
  rw [e]; clear e; beta_reduce
  repeat' first
    | with_reducible assumption
    | with_reducible apply State.nioOpRow_sound

theorem execNioFenceDone_sound {s0 s : State} (h : Sound s0 s) {a0 a1} : SoundU s0 (execNioFenceDone a0 a1 s) := by
  have e := @rfl _ @execNioFenceDone
  conv at e => rhs; delta execNioFenceDone
  rw [e]; clear e; beta_reduce
  repeat' first
    | with_reducible assumption
    | intro _ _
    | with_reducible apply State.working_sound
    | with_reducible apply State.nioFenceDone_sound

theorem execNioCall_sound {s0 s : State} (h : Sound s0 s) {a0} : SoundU s0 (execNioCall a0 s) := by
  have e := @rfl _ @execNioCall
  conv at e => rhs; delta execNioCall
  rw [e]; clear e; beta_reduce
  repeat' first
    | with_reducible assumption
    | with_reducible apply State.nioOpRow_sound

theorem execNioCmp_sound {s0 s : State} (h : Sound s0 s) {a0} : SoundU s0 (execNioCmp a0 s) := by
  have e := @rfl _ @execNioCmp
  conv at e => rhs; delta execNioCmp
  rw [e]; clear e; beta_reduce
  repeat' first
    | with_reducible assumption
    | with_reducible apply State.nioOpRow_sound

theorem execCoreRestart_sound {s0 s : State} (h : Sound s0 s) {a0} : SoundU s0 (execCoreRestart a0 s) := by
  have e := @rfl _ @execCoreRestart
  conv at e => rhs; delta execCoreRestart
  rw [e]; clear e; beta_reduce
  repeat' first
    | with_reducible assumption
    | intro _ _
    | with_reducible apply State.working_sound
    | with_reducible apply State.coreRestart_sound

theorem execNioStw_sound {s0 s : State} (h : Sound s0 s) {a0} : SoundU s0 (execNioStw a0 s) := by
  have e := @rfl _ @execNioStw
  conv at e => rhs; delta execNioStw
  rw [e]; clear e; beta_reduce
  repeat' first
    | with_reducible assumption
    | with_reducible apply State.nioOpRow_sound

theorem execNioAnd_sound {s0 s : State} (h : Sound s0 s) {a0} : SoundU s0 (execNioAnd a0 s) := by
  have e := @rfl _ @execNioAnd
  conv at e => rhs; delta execNioAnd
  rw [e]; clear e; beta_reduce
  repeat' first
    | with_reducible assumption
    | with_reducible apply State.nioOpRow_sound

theorem execNioSth_sound {s0 s : State} (h : Sound s0 s) {a0} : SoundU s0 (execNioSth a0 s) := by
  have e := @rfl _ @execNioSth
  conv at e => rhs; delta execNioSth
  rw [e]; clear e; beta_reduce
  repeat' first
    | with_reducible assumption
    | with_reducible apply State.nioOpRow_sound

theorem execNioFarStoreDone_sound {s0 s : State} (h : Sound s0 s) {a0 a1} : SoundU s0 (execNioFarStoreDone a0 a1 s) := by
  have e := @rfl _ @execNioFarStoreDone
  conv at e => rhs; delta execNioFarStoreDone
  rw [e]; clear e; beta_reduce
  repeat' first
    | with_reducible assumption
    | intro _ _
    | with_reducible apply State.working_sound
    | with_reducible apply State.nioFarStoreDone_sound

theorem execNioStb_sound {s0 s : State} (h : Sound s0 s) {a0} : SoundU s0 (execNioStb a0 s) := by
  have e := @rfl _ @execNioStb
  conv at e => rhs; delta execNioStb
  rw [e]; clear e; beta_reduce
  repeat' first
    | with_reducible assumption
    | with_reducible apply State.nioOpRow_sound

theorem execNioLdi_sound {s0 s : State} (h : Sound s0 s) {a0} : SoundU s0 (execNioLdi a0 s) := by
  have e := @rfl _ @execNioLdi
  conv at e => rhs; delta execNioLdi
  rw [e]; clear e; beta_reduce
  repeat' first
    | with_reducible assumption
    | with_reducible apply State.nioOpRow_sound

end Sys2Proof.Machine
end

