-- ==== Sys2Proof/Laws/NioftCalm.lean ====
section
/-! SUPPORT. The operations of Machine/Nioft.lean that can finish commands leave calm ones alone: see Laws/Calm.lean. -/

set_option linter.all false

namespace Sys2Proof.Machine

theorem State.nioSettle_calm {s0 s : State} (h : Calm s0 s) {a1} : Calm s0 (State.nioSettle s a1) := by
  have e := @rfl _ @State.nioSettle
  conv at e => rhs; delta State.nioSettle
  rw [e]; clear e; beta_reduce
  repeat' first
    | with_reducible assumption
    | (with_reducible apply calm_ite <;> intro)
    | with_reducible apply State.setB_calm
    | with_reducible apply State.finish_calm

theorem State.setCore_calm {s0 s : State} (h : Calm s0 s) {a1 a2} : Calm s0 (State.setCore s a1 a2) := by
  have e := @rfl _ @State.setCore
  conv at e => rhs; delta State.setCore
  rw [e]; clear e; beta_reduce
  repeat' (with_reducible refine Calm.upd ?_ ?_; (on_goal 2 => with_reducible rfl); with_reducible assumption)

theorem State.updCore_calm {s0 s : State} (h : Calm s0 s) {a1 a2} : Calm s0 (State.updCore s a1 a2) := by
  have e := @rfl _ @State.updCore
  conv at e => rhs; delta State.updCore
  rw [e]; clear e; beta_reduce
  repeat' first
    | with_reducible assumption
    | with_reducible apply State.setCore_calm

theorem State.nioStopAt_calm {s0 s : State} (h : Calm s0 s) {a1 a2 a3} : Calm s0 (State.nioStopAt s a1 a2 a3) := by
  have e := @rfl _ @State.nioStopAt
  conv at e => rhs; delta State.nioStopAt
  rw [e]; clear e; beta_reduce
  repeat' first
    | with_reducible assumption
    | (fail_if_no_progress (extract_lets -underBinder +onlyGivenNames x); first | (have hT : (type_of% x) = (State) := (by with_reducible rfl); clear hT; refine (fun (hx : Calm s0 x) => ?_) ?_; (on_goal 1 => clear_value x); (on_goal 2 => subst x)) | fail)
    | with_reducible apply State.setReg_calm
    | with_reducible apply State.setB_calm
    | with_reducible apply State.nioSettle_calm
    | with_reducible apply State.updCore_calm

theorem State.nioStop_calm {s0 s : State} (h : Calm s0 s) {a1} : Calm s0 (State.nioStop s a1) := by
  have e := @rfl _ @State.nioStop
  conv at e => rhs; delta State.nioStop
  rw [e]; clear e; beta_reduce
  repeat' first
    | with_reducible assumption
    | (with_reducible apply calm_ite <;> intro)
    | with_reducible apply State.nioStopAt_calm
    | with_reducible apply State.updCore_calm

theorem beginNioftStop_calm {s0 s : State} (h : Calm s0 s) {a0} : CalmP s0 (beginNioftStop a0 s) := by
  have e := @rfl _ @beginNioftStop
  conv at e => rhs; delta beginNioftStop
  rw [e]; clear e; beta_reduce
  repeat' first
    | with_reducible assumption
    | (fail_if_no_progress (extract_lets -underBinder +onlyGivenNames x); first | (have hT : (type_of% x) = (Nat) := (by with_reducible rfl); clear hT; clear_value x) | (have hT : (type_of% x) = (Packet) := (by with_reducible rfl); clear hT; clear_value x) | fail)
    | (with_reducible apply calmP_ite <;> intro)
    | with_reducible apply State.nioStop_calm
    | split
    | with_reducible apply calmP_pair

end Sys2Proof.Machine
end

