-- ==== Sys2Proof/Laws/PacketsSound.lean ====
section
/-! SUPPORT. The operations of Machine/Packets.lean are sound: see Laws/Sound.lean. -/

set_option linter.all false

namespace Sys2Proof.Machine

theorem execLutLoad_sound {s0 s : State} (h : Sound s0 s) {a0} : SoundU s0 (execLutLoad a0 s) := by
  have e := @rfl _ @execLutLoad
  conv at e => rhs; delta execLutLoad
  rw [e]; clear e; beta_reduce
  repeat' first
    | with_reducible assumption
    | with_reducible apply State.packet_sound

theorem execMantelSet_sound {s0 s : State} (h : Sound s0 s) {a0} : SoundU s0 (execMantelSet a0 s) := by
  have e := @rfl _ @execMantelSet
  conv at e => rhs; delta execMantelSet
  rw [e]; clear e; beta_reduce
  repeat' first
    | with_reducible assumption
    | with_reducible apply State.packet_sound

theorem execNioftLoad_sound {s0 s : State} (h : Sound s0 s) {a0} : SoundU s0 (execNioftLoad a0 s) := by
  have e := @rfl _ @execNioftLoad
  conv at e => rhs; delta execNioftLoad
  rw [e]; clear e; beta_reduce
  repeat' first
    | with_reducible assumption
    | with_reducible apply State.packet_sound

theorem execAssetUnseal_sound {s0 s : State} (h : Sound s0 s) {a0} : SoundU s0 (execAssetUnseal a0 s) := by
  have e := @rfl _ @execAssetUnseal
  conv at e => rhs; delta execAssetUnseal
  rw [e]; clear e; beta_reduce
  repeat' first
    | with_reducible assumption
    | with_reducible apply State.packet_sound

theorem execRectConvert_sound {s0 s : State} (h : Sound s0 s) {a0} : SoundU s0 (execRectConvert a0 s) := by
  have e := @rfl _ @execRectConvert
  conv at e => rhs; delta execRectConvert
  rw [e]; clear e; beta_reduce
  repeat' first
    | with_reducible assumption
    | with_reducible apply State.packet_sound

theorem execAudioPortSetDp_sound {s0 s : State} (h : Sound s0 s) {a0} : SoundU s0 (execAudioPortSetDp a0 s) := by
  have e := @rfl _ @execAudioPortSetDp
  conv at e => rhs; delta execAudioPortSetDp
  rw [e]; clear e; beta_reduce
  repeat' first
    | with_reducible assumption
    | with_reducible apply State.packet_sound

theorem execFeaturesGet_sound {s0 s : State} (h : Sound s0 s) {a0} : SoundU s0 (execFeaturesGet a0 s) := by
  have e := @rfl _ @execFeaturesGet
  conv at e => rhs; delta execFeaturesGet
  rw [e]; clear e; beta_reduce
  repeat' first
    | with_reducible assumption
    | with_reducible apply State.packet_sound

theorem execWritebackSet_sound {s0 s : State} (h : Sound s0 s) {a0} : SoundU s0 (execWritebackSet a0 s) := by
  have e := @rfl _ @execWritebackSet
  conv at e => rhs; delta execWritebackSet
  rw [e]; clear e; beta_reduce
  repeat' first
    | with_reducible assumption
    | with_reducible apply State.packet_sound

theorem execVoiceStop_sound {s0 s : State} (h : Sound s0 s) {a0} : SoundU s0 (execVoiceStop a0 s) := by
  have e := @rfl _ @execVoiceStop
  conv at e => rhs; delta execVoiceStop
  rw [e]; clear e; beta_reduce
  repeat' first
    | with_reducible assumption
    | with_reducible apply State.packet_sound

theorem execFeaturesSet_sound {s0 s : State} (h : Sound s0 s) {a0} : SoundU s0 (execFeaturesSet a0 s) := by
  have e := @rfl _ @execFeaturesSet
  conv at e => rhs; delta execFeaturesSet
  rw [e]; clear e; beta_reduce
  repeat' first
    | with_reducible assumption
    | with_reducible apply State.packet_sound

theorem execDmaChainStart_sound {s0 s : State} (h : Sound s0 s) {a0} : SoundU s0 (execDmaChainStart a0 s) := by
  have e := @rfl _ @execDmaChainStart
  conv at e => rhs; delta execDmaChainStart
  rw [e]; clear e; beta_reduce
  repeat' first
    | with_reducible assumption
    | with_reducible apply State.packet_sound

theorem execPinseqStart_sound {s0 s : State} (h : Sound s0 s) {a0} : SoundU s0 (execPinseqStart a0 s) := by
  have e := @rfl _ @execPinseqStart
  conv at e => rhs; delta execPinseqStart
  rw [e]; clear e; beta_reduce
  repeat' first
    | with_reducible assumption
    | with_reducible apply State.packet_sound

theorem execTimerCompareArm_sound {s0 s : State} (h : Sound s0 s) {a0} : SoundU s0 (execTimerCompareArm a0 s) := by
  have e := @rfl _ @execTimerCompareArm
  conv at e => rhs; delta execTimerCompareArm
  rw [e]; clear e; beta_reduce
  repeat' first
    | with_reducible assumption
    | with_reducible apply State.packet_sound

theorem execTimerCaptureSet_sound {s0 s : State} (h : Sound s0 s) {a0} : SoundU s0 (execTimerCaptureSet a0 s) := by
  have e := @rfl _ @execTimerCaptureSet
  conv at e => rhs; delta execTimerCaptureSet
  rw [e]; clear e; beta_reduce
  repeat' first
    | with_reducible assumption
    | with_reducible apply State.packet_sound

theorem execVoiceParam_sound {s0 s : State} (h : Sound s0 s) {a0} : SoundU s0 (execVoiceParam a0 s) := by
  have e := @rfl _ @execVoiceParam
  conv at e => rhs; delta execVoiceParam
  rw [e]; clear e; beta_reduce
  repeat' first
    | with_reducible assumption
    | with_reducible apply State.packet_sound

theorem execPinseqLoadInject_sound {s0 s : State} (h : Sound s0 s) {a0} : SoundU s0 (execPinseqLoadInject a0 s) := by
  have e := @rfl _ @execPinseqLoadInject
  conv at e => rhs; delta execPinseqLoadInject
  rw [e]; clear e; beta_reduce
  repeat' first
    | with_reducible assumption
    | with_reducible apply State.packet_sound

theorem execVoiceStart_sound {s0 s : State} (h : Sound s0 s) {a0} : SoundU s0 (execVoiceStart a0 s) := by
  have e := @rfl _ @execVoiceStart
  conv at e => rhs; delta execVoiceStart
  rw [e]; clear e; beta_reduce
  repeat' first
    | with_reducible assumption
    | with_reducible apply State.packet_sound

theorem execCrcRectSet_sound {s0 s : State} (h : Sound s0 s) {a0} : SoundU s0 (execCrcRectSet a0 s) := by
  have e := @rfl _ @execCrcRectSet
  conv at e => rhs; delta execCrcRectSet
  rw [e]; clear e; beta_reduce
  repeat' first
    | with_reducible assumption
    | with_reducible apply State.packet_sound

theorem execNioftStop_sound {s0 s : State} (h : Sound s0 s) {a0} : SoundU s0 (execNioftStop a0 s) := by
  have e := @rfl _ @execNioftStop
  conv at e => rhs; delta execNioftStop
  rw [e]; clear e; beta_reduce
  repeat' first
    | with_reducible assumption
    | with_reducible apply State.packet_sound

theorem execBootlogRead_sound {s0 s : State} (h : Sound s0 s) {a0} : SoundU s0 (execBootlogRead a0 s) := by
  have e := @rfl _ @execBootlogRead
  conv at e => rhs; delta execBootlogRead
  rw [e]; clear e; beta_reduce
  repeat' first
    | with_reducible assumption
    | with_reducible apply State.packet_sound

theorem execErrlogRead_sound {s0 s : State} (h : Sound s0 s) {a0} : SoundU s0 (execErrlogRead a0 s) := by
  have e := @rfl _ @execErrlogRead
  conv at e => rhs; delta execErrlogRead
  rw [e]; clear e; beta_reduce
  repeat' first
    | with_reducible assumption
    | with_reducible apply State.packet_sound

theorem execUnknownOpcodePacket_sound {s0 s : State} (h : Sound s0 s) {a0 a1} : SoundU s0 (execUnknownOpcodePacket a0 a1 s) := by
  have e := @rfl _ @execUnknownOpcodePacket
  conv at e => rhs; delta execUnknownOpcodePacket
  rw [e]; clear e; beta_reduce
  repeat' first
    | with_reducible assumption
    | with_reducible apply State.packet_sound

theorem execComposeSet_sound {s0 s : State} (h : Sound s0 s) {a0} : SoundU s0 (execComposeSet a0 s) := by
  have e := @rfl _ @execComposeSet
  conv at e => rhs; delta execComposeSet
  rw [e]; clear e; beta_reduce
  repeat' first
    | with_reducible assumption
    | with_reducible apply State.packet_sound

theorem execCanvasSet_sound {s0 s : State} (h : Sound s0 s) {a0} : SoundU s0 (execCanvasSet a0 s) := by
  have e := @rfl _ @execCanvasSet
  conv at e => rhs; delta execCanvasSet
  rw [e]; clear e; beta_reduce
  repeat' first
    | with_reducible assumption
    | with_reducible apply State.packet_sound

theorem execRectFill_sound {s0 s : State} (h : Sound s0 s) {a0} : SoundU s0 (execRectFill a0 s) := by
  have e := @rfl _ @execRectFill
  conv at e => rhs; delta execRectFill
  rw [e]; clear e; beta_reduce
  repeat' first
    | with_reducible assumption
    | with_reducible apply State.packet_sound

theorem execMixGraphLoad_sound {s0 s : State} (h : Sound s0 s) {a0} : SoundU s0 (execMixGraphLoad a0 s) := by
  have e := @rfl _ @execMixGraphLoad
  conv at e => rhs; delta execMixGraphLoad
  rw [e]; clear e; beta_reduce
  repeat' first
    | with_reducible assumption
    | with_reducible apply State.packet_sound

theorem execAttestQuote_sound {s0 s : State} (h : Sound s0 s) {a0} : SoundU s0 (execAttestQuote a0 s) := by
  have e := @rfl _ @execAttestQuote
  conv at e => rhs; delta execAttestQuote
  rw [e]; clear e; beta_reduce
  repeat' first
    | with_reducible assumption
    | with_reducible apply State.packet_sound

theorem execFence_sound {s0 s : State} (h : Sound s0 s) {a0} : SoundU s0 (execFence a0 s) := by
  have e := @rfl _ @execFence
  conv at e => rhs; delta execFence
  rw [e]; clear e; beta_reduce
  repeat' first
    | with_reducible assumption
    | with_reducible apply State.packet_sound

theorem execSpriteTableCanvas_sound {s0 s : State} (h : Sound s0 s) {a0} : SoundU s0 (execSpriteTableCanvas a0 s) := by
  have e := @rfl _ @execSpriteTableCanvas
  conv at e => rhs; delta execSpriteTableCanvas
  rw [e]; clear e; beta_reduce
  repeat' first
    | with_reducible assumption
    | with_reducible apply State.packet_sound

theorem execRectCopy_sound {s0 s : State} (h : Sound s0 s) {a0} : SoundU s0 (execRectCopy a0 s) := by
  have e := @rfl _ @execRectCopy
  conv at e => rhs; delta execRectCopy
  rw [e]; clear e; beta_reduce
  repeat' first
    | with_reducible assumption
    | with_reducible apply State.packet_sound

theorem execPlaneSet_sound {s0 s : State} (h : Sound s0 s) {a0} : SoundU s0 (execPlaneSet a0 s) := by
  have e := @rfl _ @execPlaneSet
  conv at e => rhs; delta execPlaneSet
  rw [e]; clear e; beta_reduce
  repeat' first
    | with_reducible assumption
    | with_reducible apply State.packet_sound

theorem execSpriteTable_sound {s0 s : State} (h : Sound s0 s) {a0} : SoundU s0 (execSpriteTable a0 s) := by
  have e := @rfl _ @execSpriteTable
  conv at e => rhs; delta execSpriteTable
  rw [e]; clear e; beta_reduce
  repeat' first
    | with_reducible assumption
    | with_reducible apply State.packet_sound

theorem execRouteSet_sound {s0 s : State} (h : Sound s0 s) {a0} : SoundU s0 (execRouteSet a0 s) := by
  have e := @rfl _ @execRouteSet
  conv at e => rhs; delta execRouteSet
  rw [e]; clear e; beta_reduce
  repeat' first
    | with_reducible assumption
    | with_reducible apply State.packet_sound

theorem execAudioPortSetClock_sound {s0 s : State} (h : Sound s0 s) {a0} : SoundU s0 (execAudioPortSetClock a0 s) := by
  have e := @rfl _ @execAudioPortSetClock
  conv at e => rhs; delta execAudioPortSetClock
  rw [e]; clear e; beta_reduce
  repeat' first
    | with_reducible assumption
    | with_reducible apply State.packet_sound

theorem execRouteSetGenlock_sound {s0 s : State} (h : Sound s0 s) {a0} : SoundU s0 (execRouteSetGenlock a0 s) := by
  have e := @rfl _ @execRouteSetGenlock
  conv at e => rhs; delta execRouteSetGenlock
  rw [e]; clear e; beta_reduce
  repeat' first
    | with_reducible assumption
    | with_reducible apply State.packet_sound

theorem execHeadTiming_sound {s0 s : State} (h : Sound s0 s) {a0} : SoundU s0 (execHeadTiming a0 s) := by
  have e := @rfl _ @execHeadTiming
  conv at e => rhs; delta execHeadTiming
  rw [e]; clear e; beta_reduce
  repeat' first
    | with_reducible assumption
    | with_reducible apply State.packet_sound

theorem execMemCopy_sound {s0 s : State} (h : Sound s0 s) {a0} : SoundU s0 (execMemCopy a0 s) := by
  have e := @rfl _ @execMemCopy
  conv at e => rhs; delta execMemCopy
  rw [e]; clear e; beta_reduce
  repeat' first
    | with_reducible assumption
    | with_reducible apply State.packet_sound

theorem execMemRegionSetPantry_sound {s0 s : State} (h : Sound s0 s) {a0} : SoundU s0 (execMemRegionSetPantry a0 s) := by
  have e := @rfl _ @execMemRegionSetPantry
  conv at e => rhs; delta execMemRegionSetPantry
  rw [e]; clear e; beta_reduce
  repeat' first
    | with_reducible assumption
    | with_reducible apply State.packet_sound

theorem execMantelSetFields_sound {s0 s : State} (h : Sound s0 s) {a0} : SoundU s0 (execMantelSetFields a0 s) := by
  have e := @rfl _ @execMantelSetFields
  conv at e => rhs; delta execMantelSetFields
  rw [e]; clear e; beta_reduce
  repeat' first
    | with_reducible assumption
    | with_reducible apply State.packet_sound

theorem execReceiptRead_sound {s0 s : State} (h : Sound s0 s) {a0} : SoundU s0 (execReceiptRead a0 s) := by
  have e := @rfl _ @execReceiptRead
  conv at e => rhs; delta execReceiptRead
  rw [e]; clear e; beta_reduce
  repeat' first
    | with_reducible assumption
    | with_reducible apply State.packet_sound

theorem execDmaStop_sound {s0 s : State} (h : Sound s0 s) {a0} : SoundU s0 (execDmaStop a0 s) := by
  have e := @rfl _ @execDmaStop
  conv at e => rhs; delta execDmaStop
  rw [e]; clear e; beta_reduce
  repeat' first
    | with_reducible assumption
    | with_reducible apply State.packet_sound

theorem execPinseqLoadSlot_sound {s0 s : State} (h : Sound s0 s) {a0} : SoundU s0 (execPinseqLoadSlot a0 s) := by
  have e := @rfl _ @execPinseqLoadSlot
  conv at e => rhs; delta execPinseqLoadSlot
  rw [e]; clear e; beta_reduce
  repeat' first
    | with_reducible assumption
    | with_reducible apply State.packet_sound

theorem execAssetLoad_sound {s0 s : State} (h : Sound s0 s) {a0} : SoundU s0 (execAssetLoad a0 s) := by
  have e := @rfl _ @execAssetLoad
  conv at e => rhs; delta execAssetLoad
  rw [e]; clear e; beta_reduce
  repeat' first
    | with_reducible assumption
    | with_reducible apply State.packet_sound

theorem execHeadDisable_sound {s0 s : State} (h : Sound s0 s) {a0} : SoundU s0 (execHeadDisable a0 s) := by
  have e := @rfl _ @execHeadDisable
  conv at e => rhs; delta execHeadDisable
  rw [e]; clear e; beta_reduce
  repeat' first
    | with_reducible assumption
    | with_reducible apply State.packet_sound

theorem execTelemetryConfig_sound {s0 s : State} (h : Sound s0 s) {a0} : SoundU s0 (execTelemetryConfig a0 s) := by
  have e := @rfl _ @execTelemetryConfig
  conv at e => rhs; delta execTelemetryConfig
  rw [e]; clear e; beta_reduce
  repeat' first
    | with_reducible assumption
    | with_reducible apply State.packet_sound

theorem execReceiptConfig_sound {s0 s : State} (h : Sound s0 s) {a0} : SoundU s0 (execReceiptConfig a0 s) := by
  have e := @rfl _ @execReceiptConfig
  conv at e => rhs; delta execReceiptConfig
  rw [e]; clear e; beta_reduce
  repeat' first
    | with_reducible assumption
    | with_reducible apply State.packet_sound

theorem execExpertEnter_sound {s0 s : State} (h : Sound s0 s) {a0} : SoundU s0 (execExpertEnter a0 s) := by
  have e := @rfl _ @execExpertEnter
  conv at e => rhs; delta execExpertEnter
  rw [e]; clear e; beta_reduce
  repeat' first
    | with_reducible assumption
    | with_reducible apply State.packet_sound

theorem execMemFill_sound {s0 s : State} (h : Sound s0 s) {a0} : SoundU s0 (execMemFill a0 s) := by
  have e := @rfl _ @execMemFill
  conv at e => rhs; delta execMemFill
  rw [e]; clear e; beta_reduce
  repeat' first
    | with_reducible assumption
    | with_reducible apply State.packet_sound

theorem execHeadEnable_sound {s0 s : State} (h : Sound s0 s) {a0} : SoundU s0 (execHeadEnable a0 s) := by
  have e := @rfl _ @execHeadEnable
  conv at e => rhs; delta execHeadEnable
  rw [e]; clear e; beta_reduce
  repeat' first
    | with_reducible assumption
    | with_reducible apply State.packet_sound

theorem execMantelSetDisable_sound {s0 s : State} (h : Sound s0 s) {a0} : SoundU s0 (execMantelSetDisable a0 s) := by
  have e := @rfl _ @execMantelSetDisable
  conv at e => rhs; delta execMantelSetDisable
  rw [e]; clear e; beta_reduce
  repeat' first
    | with_reducible assumption
    | with_reducible apply State.packet_sound

theorem execMixParamSet_sound {s0 s : State} (h : Sound s0 s) {a0} : SoundU s0 (execMixParamSet a0 s) := by
  have e := @rfl _ @execMixParamSet
  conv at e => rhs; delta execMixParamSet
  rw [e]; clear e; beta_reduce
  repeat' first
    | with_reducible assumption
    | with_reducible apply State.packet_sound

theorem execBeamListSet_sound {s0 s : State} (h : Sound s0 s) {a0} : SoundU s0 (execBeamListSet a0 s) := by
  have e := @rfl _ @execBeamListSet
  conv at e => rhs; delta execBeamListSet
  rw [e]; clear e; beta_reduce
  repeat' first
    | with_reducible assumption
    | with_reducible apply State.packet_sound

theorem execAudioPortSet_sound {s0 s : State} (h : Sound s0 s) {a0} : SoundU s0 (execAudioPortSet a0 s) := by
  have e := @rfl _ @execAudioPortSet
  conv at e => rhs; delta execAudioPortSet
  rw [e]; clear e; beta_reduce
  repeat' first
    | with_reducible assumption
    | with_reducible apply State.packet_sound

theorem execNop_sound {s0 s : State} (h : Sound s0 s) {a0} : SoundU s0 (execNop a0 s) := by
  have e := @rfl _ @execNop
  conv at e => rhs; delta execNop
  rw [e]; clear e; beta_reduce
  repeat' first
    | with_reducible assumption
    | with_reducible apply State.packet_sound

theorem execMixCommit_sound {s0 s : State} (h : Sound s0 s) {a0} : SoundU s0 (execMixCommit a0 s) := by
  have e := @rfl _ @execMixCommit
  conv at e => rhs; delta execMixCommit
  rw [e]; clear e; beta_reduce
  repeat' first
    | with_reducible assumption
    | with_reducible apply State.packet_sound

theorem execClockPolicy_sound {s0 s : State} (h : Sound s0 s) {a0} : SoundU s0 (execClockPolicy a0 s) := by
  have e := @rfl _ @execClockPolicy
  conv at e => rhs; delta execClockPolicy
  rw [e]; clear e; beta_reduce
  repeat' first
    | with_reducible assumption
    | with_reducible apply State.packet_sound

theorem execMemRegionSet_sound {s0 s : State} (h : Sound s0 s) {a0} : SoundU s0 (execMemRegionSet a0 s) := by
  have e := @rfl _ @execMemRegionSet
  conv at e => rhs; delta execMemRegionSet
  rw [e]; clear e; beta_reduce
  repeat' first
    | with_reducible assumption
    | with_reducible apply State.packet_sound

theorem execPinseqLoadConfig_sound {s0 s : State} (h : Sound s0 s) {a0} : SoundU s0 (execPinseqLoadConfig a0 s) := by
  have e := @rfl _ @execPinseqLoadConfig
  conv at e => rhs; delta execPinseqLoadConfig
  rw [e]; clear e; beta_reduce
  repeat' first
    | with_reducible assumption
    | with_reducible apply State.packet_sound

theorem execExpertLeave_sound {s0 s : State} (h : Sound s0 s) {a0} : SoundU s0 (execExpertLeave a0 s) := by
  have e := @rfl _ @execExpertLeave
  conv at e => rhs; delta execExpertLeave
  rw [e]; clear e; beta_reduce
  repeat' first
    | with_reducible assumption
    | with_reducible apply State.packet_sound

theorem execPinseqStop_sound {s0 s : State} (h : Sound s0 s) {a0} : SoundU s0 (execPinseqStop a0 s) := by
  have e := @rfl _ @execPinseqStop
  conv at e => rhs; delta execPinseqStop
  rw [e]; clear e; beta_reduce
  repeat' first
    | with_reducible assumption
    | with_reducible apply State.packet_sound

theorem execUnitReset_sound {s0 s : State} (h : Sound s0 s) {a0} : SoundU s0 (execUnitReset a0 s) := by
  have e := @rfl _ @execUnitReset
  conv at e => rhs; delta execUnitReset
  rw [e]; clear e; beta_reduce
  repeat' first
    | with_reducible assumption
    | with_reducible apply State.packet_sound

theorem execPowerState_sound {s0 s : State} (h : Sound s0 s) {a0} : SoundU s0 (execPowerState a0 s) := by
  have e := @rfl _ @execPowerState
  conv at e => rhs; delta execPowerState
  rw [e]; clear e; beta_reduce
  repeat' first
    | with_reducible assumption
    | with_reducible apply State.packet_sound

theorem execHeadCommit_sound {s0 s : State} (h : Sound s0 s) {a0} : SoundU s0 (execHeadCommit a0 s) := by
  have e := @rfl _ @execHeadCommit
  conv at e => rhs; delta execHeadCommit
  rw [e]; clear e; beta_reduce
  repeat' first
    | with_reducible assumption
    | with_reducible apply State.packet_sound

theorem execPinseqLoad_sound {s0 s : State} (h : Sound s0 s) {a0} : SoundU s0 (execPinseqLoad a0 s) := by
  have e := @rfl _ @execPinseqLoad
  conv at e => rhs; delta execPinseqLoad
  rw [e]; clear e; beta_reduce
  repeat' first
    | with_reducible assumption
    | with_reducible apply State.packet_sound

theorem execNioftStart_sound {s0 s : State} (h : Sound s0 s) {a0} : SoundU s0 (execNioftStart a0 s) := by
  have e := @rfl _ @execNioftStart
  conv at e => rhs; delta execNioftStart
  rw [e]; clear e; beta_reduce
  repeat' first
    | with_reducible assumption
    | with_reducible apply State.packet_sound

end Sys2Proof.Machine
end

