-- ==== Sys2Proof/Laws/PsqCalm.lean ====
section
/-! SUPPORT. The operations of Machine/Psq.lean that can finish commands leave calm ones alone: see Laws/Calm.lean. -/

set_option linter.all false

namespace Sys2Proof.Machine

theorem State.psqLine_calm {s0 s : State} (h : Calm s0 s) {a1} : Calm s0 (State.psqLine s a1) := by
  have e := @rfl _ @State.psqLine
  conv at e => rhs; delta State.psqLine
  rw [e]; clear e; beta_reduce
  repeat' first
    | with_reducible assumption
    | (fail_if_no_progress (extract_lets -underBinder +onlyGivenNames x); first | (have hT : (type_of% x) = (State) := (by with_reducible rfl); clear hT; refine (fun (hx : Calm s0 x) => ?_) ?_; (on_goal 1 => clear_value x); (on_goal 2 => subst x)) | (have hT : (type_of% x) = (Nat) := (by with_reducible rfl); clear hT; clear_value x) | (have hT : (type_of% x) = (Bool) := (by with_reducible rfl); clear hT; clear_value x) | (clear_value x) | fail)
    | (with_reducible apply calm_ite <;> intro)
    | with_reducible apply State.setPsqCh_calm
    | with_reducible apply State.request_calm

theorem State.psqShow_calm {s0 s : State} (h : Calm s0 s) {a1} : Calm s0 (State.psqShow s a1) := by
  have e := @rfl _ @State.psqShow
  conv at e => rhs; delta State.psqShow
  rw [e]; clear e; beta_reduce
  repeat' first
    | with_reducible assumption
    | (fail_if_no_progress (extract_lets -underBinder +onlyGivenNames x); first | (have hT : (type_of% x) = (State) := (by with_reducible rfl); clear hT; refine (fun (hx : Calm s0 x) => ?_) ?_; (on_goal 1 => clear_value x); (on_goal 2 => subst x)) | (have hT : (type_of% x) = (Nat) := (by with_reducible rfl); clear hT; clear_value x) | (clear_value x) | fail)
    | with_reducible apply State.setF_calm
    | with_reducible apply State.setB_calm
    | with_reducible apply State.setReg_calm
    | with_reducible apply State.psqLine_calm

theorem State.psqSource_calm {s0 s : State} (h : Calm s0 s) {a1} : Calm s0 (State.psqSource s a1) := by
  have e := @rfl _ @State.psqSource
  conv at e => rhs; delta State.psqSource
  rw [e]; clear e; beta_reduce
  repeat' first
    | with_reducible assumption
    | (fail_if_no_progress (extract_lets -underBinder +onlyGivenNames x); first | (have hT : (type_of% x) = (BitVec 32) := (by with_reducible rfl); clear hT; clear_value x) | fail)
    | with_reducible apply State.level_calm

theorem State.psqFault_calm {s0 s : State} (h : Calm s0 s) {a1} : Calm s0 (State.psqFault s a1) := by
  have e := @rfl _ @State.psqFault
  conv at e => rhs; delta State.psqFault
  rw [e]; clear e; beta_reduce
  repeat' first
    | with_reducible assumption
    | with_reducible apply State.psqSource_calm
    | with_reducible apply State.setB_calm

theorem State.pinLeave_calm {s0 s : State} (h : Calm s0 s) {a1} : Calm s0 (State.pinLeave s a1) := by
  have e := @rfl _ @State.pinLeave
  conv at e => rhs; delta State.pinLeave
  rw [e]; clear e; beta_reduce
  repeat' first
    | with_reducible assumption
    | with_reducible apply State.setB_calm

theorem State.psqDisown_calm {s0 s : State} (h : Calm s0 s) {a1} : Calm s0 (State.psqDisown s a1) := by
  have e := @rfl _ @State.psqDisown
  conv at e => rhs; delta State.psqDisown
  rw [e]; clear e; beta_reduce
  repeat' first
    | with_reducible assumption
    | intro _ _ _
    | (with_reducible apply calm_ite <;> intro)
    | with_reducible apply State.psqFault_calm
    | with_reducible apply State.pinLeave_calm
    | with_reducible refine State.each_calm ?_ _ ?_

theorem State.psqSetRun_calm {s0 s : State} (h : Calm s0 s) {a1 a2} : Calm s0 (State.psqSetRun s a1 a2) := by
  have e := @rfl _ @State.psqSetRun
  conv at e => rhs; delta State.psqSetRun
  rw [e]; clear e; beta_reduce
  repeat' first
    | with_reducible assumption
    | with_reducible apply State.setB_calm

theorem State.psqHalt_calm {s0 s : State} (h : Calm s0 s) {a1} : Calm s0 (State.psqHalt s a1) := by
  have e := @rfl _ @State.psqHalt
  conv at e => rhs; delta State.psqHalt
  rw [e]; clear e; beta_reduce
  repeat' first
    | with_reducible assumption
    | (fail_if_no_progress (extract_lets -underBinder +onlyGivenNames x); first | (have hT : (type_of% x) = (State) := (by with_reducible rfl); clear hT; refine (fun (hx : Calm s0 x) => ?_) ?_; (on_goal 1 => clear_value x); (on_goal 2 => subst x)) | (clear_value x) | fail)
    | (with_reducible apply calm_ite <;> intro)
    | with_reducible apply State.setB_calm
    | with_reducible apply State.setPsqCh_calm
    | with_reducible apply State.psqShow_calm
    | with_reducible apply State.psqDisown_calm
    | with_reducible apply State.psqSetRun_calm

theorem State.psqNote_calm {s0 s : State} (h : Calm s0 s) {a1 a2 a3} : Calm s0 (State.psqNote s a1 a2 a3) :=
  ⟨fun q => by
    have e := h.opens q
    unfold State.psqNote
    refine (List.map_congr_left (g := id) ?_).trans ((List.map_id _).trans e)
    intro o ho
    rw [e] at ho
    have := (q o ho).2
    dsimp only
    rw [if_pos]; · rfl
    cases this with
    | inl k => simp [k]
    | inr k => simp [k]⟩

theorem State.psqReset_calm {s0 s : State} (h : Calm s0 s) : Calm s0 (State.psqReset s) := by
  have e := @rfl _ @State.psqReset
  conv at e => rhs; delta State.psqReset
  rw [e]; clear e; beta_reduce
  repeat' first
    | with_reducible assumption
    | intro _ _ _
    | (fail_if_no_progress (extract_lets -underBinder +onlyGivenNames x); first | (have hT : (type_of% x) = (State) := (by with_reducible rfl); clear hT; refine (fun (hx : Calm s0 x) => ?_) ?_; (on_goal 1 => clear_value x); (on_goal 2 => subst x)) | (clear_value x) | fail)
    | with_reducible apply State.setPsqCh_calm
    | with_reducible apply State.psqNote_calm
    | with_reducible apply State.psqSource_calm
    | with_reducible apply State.setB_calm
    | with_reducible apply State.psqHalt_calm
    | with_reducible apply State.setReg_calm
    | with_reducible refine State.each_calm ?_ _ ?_

end Sys2Proof.Machine
end

