-- ==== Sys2Proof/Laws/RectCalm.lean ====
section
/-! SUPPORT. The operations of Machine/Rect.lean that can finish commands leave calm ones alone: see Laws/Calm.lean. -/

set_option linter.all false

namespace Sys2Proof.Machine

theorem State.rectRows_calm {s0 s : State} (h : Calm s0 s) {a1 a2 a3} : Calm s0 (State.rectRows s a1 a2 a3) := by
  have e := @rfl _ @State.rectRows
  conv at e => rhs; delta State.rectRows
  rw [e]; clear e; beta_reduce
  repeat' first
    | with_reducible assumption
    | (fail_if_no_progress (extract_lets -underBinder +onlyGivenNames x); first | (have hT : (type_of% x) = (State) := (by with_reducible rfl); clear hT; refine (fun (hx : Calm s0 x) => ?_) ?_; (on_goal 1 => clear_value x); (on_goal 2 => subst x)) | (have hT : (type_of% x) = (Nat) := (by with_reducible rfl); clear hT; clear_value x) | fail)
    | (with_reducible apply calm_ite <;> intro)
    | with_reducible apply State.setReg_calm
    | with_reducible apply State.pulse_calm
    | with_reducible apply State.setB_calm

theorem State.setRect_calm {s0 s : State} (h : Calm s0 s) {a1 a2} : Calm s0 (State.setRect s a1 a2) := by
  have e := @rfl _ @State.setRect
  conv at e => rhs; delta State.setRect
  rw [e]; clear e; beta_reduce
  repeat' (with_reducible refine Calm.upd ?_ ?_; (on_goal 2 => with_reducible rfl); with_reducible assumption)

theorem State.rectEnd_calm {s0 s : State} (h : Calm s0 s) {a1 a2 a3} : Calm s0 (State.rectEnd s a1 a2 a3) := by
  have e := @rfl _ @State.rectEnd
  conv at e => rhs; delta State.rectEnd
  rw [e]; clear e; beta_reduce
  repeat' first
    | with_reducible assumption
    | (fail_if_no_progress (extract_lets -underBinder +onlyGivenNames x); first | (have hT : (type_of% x) = (State) := (by with_reducible rfl); clear hT; refine (fun (hx : Calm s0 x) => ?_) ?_; (on_goal 1 => clear_value x); (on_goal 2 => subst x)) | (have hT : (type_of% x) = (Nat) := (by with_reducible rfl); clear hT; clear_value x) | (clear_value x) | fail)
    | with_reducible apply State.rectRows_calm
    | with_reducible apply State.setRect_calm
    | with_reducible apply State.setF_calm
    | with_reducible apply State.setB_calm
    | with_reducible apply State.pulse_calm
    | with_reducible apply State.finishAcc_calm
    | split

theorem State.rectReset_calm {s0 s : State} (h : Calm s0 s) : Calm s0 (State.rectReset s) := by
  have e := @rfl _ @State.rectReset
  conv at e => rhs; delta State.rectReset
  rw [e]; clear e; beta_reduce
  repeat' first
    | with_reducible assumption
    | intro _ _ _
    | (fail_if_no_progress (extract_lets -underBinder +onlyGivenNames x); first | (have hT : (type_of% x) = (State) := (by with_reducible rfl); clear hT; refine (fun (hx : Calm s0 x) => ?_) ?_; (on_goal 1 => clear_value x); (on_goal 2 => subst x)) | fail)
    | with_reducible apply State.rectEnd_calm
    | with_reducible apply State.setRect_calm
    | with_reducible apply State.setReg_calm
    | with_reducible refine State.each_calm ?_ _ ?_
    | split

end Sys2Proof.Machine
end

