-- ==== Sys2Proof/Laws/ResetCalm.lean ====
section
/-! SUPPORT. The operations of Machine/Reset.lean that can finish commands leave calm ones alone: see Laws/Calm.lean. -/

set_option linter.all false

namespace Sys2Proof.Machine

theorem State.headReset_calm {s0 s : State} (h : Calm s0 s) {a1} : Calm s0 (State.headReset s a1) := by
  have e := @rfl _ @State.headReset
  conv at e => rhs; delta State.headReset
  rw [e]; clear e; beta_reduce
  repeat' first
    | with_reducible assumption
    | intro _ _ _
    | (fail_if_no_progress (extract_lets -underBinder +onlyGivenNames x); first | (have hT : (type_of% x) = (State) := (by with_reducible rfl); clear hT; refine (fun (hx : Calm s0 x) => ?_) ?_; (on_goal 1 => clear_value x); (on_goal 2 => subst x)) | fail)
    | with_reducible apply State.stopHead_calm
    | with_reducible apply State.followLeader_calm
    | with_reducible apply State.setCm_calm
    | with_reducible apply State.setHd_calm
    | with_reducible apply State.setReg_calm
    | with_reducible apply State.setB_calm
    | with_reducible apply State.updHead_calm
    | with_reducible apply State.recHead_calm
    | with_reducible apply State.expertSwapped_calm
    | with_reducible refine State.each_calm ?_ _ ?_
    | with_reducible refine foldl_calm _ ?_ ?_

theorem State.resetUnit_calm {s0 s : State} (h : Calm s0 s) {a1} : Calm s0 (State.resetUnit s a1) := by
  have e := @rfl _ @State.resetUnit
  conv at e => rhs; delta State.resetUnit
  rw [e]; clear e; beta_reduce
  repeat' first
    | with_reducible assumption
    | (with_reducible apply calm_ite <;> intro)
    | with_reducible apply State.headReset_calm
    | with_reducible apply State.belReset_calm
    | with_reducible apply State.tmbReset_calm
    | with_reducible apply State.psqReset_calm
    | with_reducible apply State.dwReset_calm
    | with_reducible apply State.rectReset_calm
    | with_reducible apply State.musReset_calm
    | with_reducible apply State.dplReset_calm
    | split

end Sys2Proof.Machine
end

