-- ==== Sys2Proof/Laws/ResetKeep.lean ====
section
/-! SUPPORT. The operations of Machine/Reset.lean keep the open commands: see Laws/Keep.lean. -/

set_option linter.all false

namespace Sys2Proof.Machine

theorem beginUnitReset_keep {s0 s : State} (h : Keep s0 s) {a0} : KeepP s0 (beginUnitReset a0 s) := by
  have e := @rfl _ @beginUnitReset
  conv at e => rhs; delta beginUnitReset
  rw [e]; clear e; beta_reduce
  repeat' first
    | with_reducible assumption
    | (fail_if_no_progress (extract_lets -underBinder +onlyGivenNames x); first | (have hT : (type_of% x) = (Nat) := (by with_reducible rfl); clear hT; clear_value x) | (have hT : (type_of% x) = (Option Nat) := (by with_reducible rfl); clear hT; clear_value x) | fail)
    | split
    | with_reducible apply keepP_pair

end Sys2Proof.Machine
end

