-- ==== Sys2Proof/Laws/VaileKeep.lean ====
section
/-! SUPPORT. The operations of Machine/Vaile.lean keep the open commands: see Laws/Keep.lean. -/

set_option linter.all false

namespace Sys2Proof.Machine

theorem State.journaled_keep {s0 s : State} (h : Keep s0 s) {a1 a2} : Keep s0 (State.journaled s a1 a2) := by
  have e := @rfl _ @State.journaled
  conv at e => rhs; delta State.journaled
  rw [e]; clear e; beta_reduce
  repeat' first
    | with_reducible assumption
    | (fail_if_no_progress (extract_lets -underBinder +onlyGivenNames x); first | (have hT : (type_of% x) = (State) := (by with_reducible rfl); clear hT; refine (fun (hx : Keep s0 x) => ?_) ?_; (on_goal 1 => clear_value x); (on_goal 2 => subst x)) | (have hT : (type_of% x) = (Nat) := (by with_reducible rfl); clear hT; clear_value x) | (clear_value x) | fail)
    | with_reducible apply State.jSet_keep
    | with_reducible apply State.jWrite_keep
    | with_reducible apply State.setReg_keep
    | with_reducible apply State.setW64_keep

theorem State.sqAdvance_keep {s0 s : State} (h : Keep s0 s) {a1 a2} : Keep s0 (State.sqAdvance s a1 a2) := by
  have e := @rfl _ @State.sqAdvance
  conv at e => rhs; delta State.sqAdvance
  rw [e]; clear e; beta_reduce
  repeat' first
    | with_reducible assumption
    | with_reducible apply State.setReg_keep

end Sys2Proof.Machine
end

