-- ==== Sys2Proof/Laws/Pump.lean ====
section
/-! SUPPORT. What the Foyer's rounds do with one open command, said once: `packet_done`, `packet_wait` and `packet_settled` give the whole run of a packet that a quiet Foyer takes, from the result with which the command begins. -/

namespace Sys2Proof.Machine

theorem setOpens_opens (s : State) (l : List Open) : (s.setOpens l).foy.opens = l := rfl

theorem addOpen_opens (s : State) (o : Open) : (s.addOpen o).foy.opens = s.foy.opens ++ [o] := rfl

theorem addOpen_down (s : State) (o : Open) : (s.addOpen o).att.down = s.att.down := rfl

theorem accept_opens (s : State) (op : Op) (p : Packet) (fin : Option Reply) :
    (s.accept op p fin).foy.opens = s.foy.opens ++ [s.newOpen op p fin] := by
  have k := State.journaled_keep (Keep.refl s) (a1 := op) (a2 := p)
  rw [State.accept, addOpen_opens, k.opens]

theorem accept_down (s : State) (op : Op) (p : Packet) (fin : Option Reply) : (s.accept op p fin).att.down = s.att.down := by
  have k := State.journaled_keep (Keep.refl s) (a1 := op) (a2 := p)
  rw [State.accept, addOpen_down, k.down]

theorem admitted_opens {s : State} {op : Op} {p : Packet} (h : s.foy.opens = []) : (s.admitted op p).foy.opens = [s.opened op p] := by
  have k : (((s.turn p.ring.val).unmarked p.ring.val).sqAdvance p.ring.val p.len.toNat).foy.opens = s.foy.opens := rfl
  rw [State.admitted, accept_opens, k, h]
  rfl

theorem admitted_down (s : State) (op : Op) (p : Packet) : (s.admitted op p).att.down = s.att.down := by
  rw [State.admitted, accept_down]
  rfl

/-- What a quiet Foyer does with the packet that it takes. -/
theorem Fetches.intake {s : State} {op : Op} {p : Packet} (h : Fetches s op p) : (s.turn p.ring.val).intake op p = s.admitted op p := by
  unfold State.intake
  extract_lets n len skip e passed f0 s1
  have hp : passed = false := by
    simp only [passed]
    split
    · rename_i q hq
      have := h.fresh q hq
      simp; omega
    · rfl
  have he : e.toNat = p.seq.toNat := by rw [h.next]; rfl
  have hl : ¬ (len < 4 ∨ s1.sqWords n < len) := by
    have h1 := h.whole
    have h2 : len ≤ s1.sqWords n := h.fits
    simp only [len]; omega
  have ha : ¬ s1.sqAvail n < len := Nat.not_lt.2 h.avail
  have hf : fitPacket p = p := by
    unfold fitPacket
    have h1 := h.whole
    have : p.len.toNat - 4 = p.p.length := by omega
    simp [this]
  rw [if_neg (by simp [hp]), if_neg (Nat.not_le.2 h.sane), if_neg (by omega), if_neg (by omega), if_neg hl, if_neg ha, hf]
  rfl

theorem completeOne_of_empty {s : State} (h : s.foy.opens = []) (n : Nat) : s.completeOne n = (false, s) := by
  simp [State.completeOne, h]

theorem completeOne_of_ne {s : State} {o : Open} (h : s.foy.opens = [o]) {n : Nat} (hn : o.pkt.ring.val ≠ n) : s.completeOne n = (false, s) := by
  simp [State.completeOne, h, hn]

theorem eachMoved_id {f : State → Nat → Bool × State} {s : State} {l : List Nat} (hf : ∀ n ∈ l, f s n = (false, s)) : eachMoved f l s = (false, s) := by
  unfold eachMoved
  induction l with
  | nil => rfl
  | cons a l ih =>
    simp only [List.foldl_cons]
    rw [hf a (by simp)]
    exact ih fun n hn => hf n (by simp [hn])

/-- Over a list with one ring that moves, and after which nothing is open. -/
theorem eachMoved_one {s t : State} {l : List Nat} {k : Nat} (hl : k ∈ l) (h0 : ∀ n, n ≠ k → s.completeOne n = (false, s))
    (hk : s.completeOne k = (true, t)) (ht : ∀ n, t.completeOne n = (false, t)) : eachMoved State.completeOne l s = (true, t) := by
  unfold eachMoved
  have htail : ∀ (l : List Nat) (b : Bool), l.foldl (fun (a : Bool × State) n => let r := a.2.completeOne n; (a.1 || r.1, r.2)) (b, t) = (b, t) := by
    intro l
    induction l with
    | nil => intro b; rfl
    | cons a l ih => intro b; simp only [List.foldl_cons, ht, Bool.or_false]; exact ih b
  induction l with
  | nil => simp at hl
  | cons a l ih =>
    simp only [List.foldl_cons]
    by_cases e : a = k
    · subst e; rw [hk]; exact htail l true
    · rw [h0 a e]
      exact ih (by simpa [Ne.symm e] using hl)

theorem pumpRound_empty {s : State} (h : s.foy.opens = []) : s.pumpRound = (false, s) := by
  unfold State.pumpRound
  simp only [h, List.map_nil]
  have e0 : ∀ f : State → Nat → Bool × State, eachMoved f [] s = (false, s) := fun f => rfl
  simp only [e0, h, List.map_nil]
  rw [eachMoved_id fun n _ => completeOne_of_empty h n]
  rfl

theorem pumpRounds_empty {s : State} (h : s.foy.opens = []) : ∀ n, pumpRounds n s = s
  | 0 => rfl
  | n + 1 => by unfold pumpRounds; simp [pumpRound_empty h]

theorem mayBegin_one {s : State} {o : Open} (h : s.foy.opens = [o]) (hb : o.begun = false) (hf : o.fin = none)
    (hd : ∀ n ∈ s.att.down, served n o.op = false) : s.mayBegin o = true := by
  unfold State.mayBegin
  have hd' : (s.att.down.any fun n => served n o.op) = false := by
    rw [List.any_eq_false]; intro x hx; simp [hd x hx]
  simp [h, hb, hf, hd']

theorem settle_none {s : State} {o : Open} (h : s.foy.opens = [o]) (hw : (∀ m, o.wait ≠ .fence m) ∧ (∀ u a b, o.wait ≠ .expert u a b)) :
    s.settleOne o.acc = (false, s) := by
  unfold State.settleOne State.openAt
  simp only [h, List.find?_cons, decide_true]
  split
  · rfl
  · split
    · exact absurd ‹_› (hw.1 _)
    · exact absurd ‹_› (hw.2 _ _ _)
    · rfl

theorem updOpen_one {s : State} {o : Open} (h : s.foy.opens = [o]) (f : Open → Open) : (s.updOpen o.acc f).foy.opens = [f o] := by
  simp [State.updOpen, h]

theorem each_putEntry_keep {s0 s : State} (h : Keep s0 s) (o : Open) (r : Reply) (t : Word) :
    Keep s0 (s.each o.dups fun s d => s.putEntry (dupEntry o.pkt.ring.val o.pkt.seq d.1 d.2 (statusCode r.status) r t)) :=
  State.each_keep h _ fun _ _ k => State.putEntry_keep k

theorem complete_opens {s : State} {o : Open} (r : Reply) (h : s.foy.opens = [o]) : (s.complete o r).foy.opens = [] := by
  unfold State.complete
  extract_lets n t cq s1 s2 s3 s4
  have k1 : Keep s s1 := by
    simp only [s1]
    split
    · exact State.jSet_keep (Keep.refl s)
    · exact Keep.refl s
  have e2 : s2.foy.opens = [] := by
    simp only [s2, setOpens_opens, k1.opens, h]; simp
  have k4 : Keep s2 s4 := State.putEntry_keep (State.setW64_keep (Keep.refl s2))
  exact (each_putEntry_keep k4 o r t).opens.trans e2

/-- A round in which the one open command begins and is answered. -/
theorem pumpRound_done {s : State} {o : Open} {x : Reply} {s2 : State} (h : s.foy.opens = [o]) (hb : s.mayBegin o = true)
    (hc : beginCmd o s = (.done x, s2)) (hk : s2.foy.opens = [o])
    (ha : ∀ o', o' = { o with begun := true, wait := .none, fin := some x } →
      ((s2.updOpen o.acc fun _ => o').atCommit o' x).2.foy.opens = [o']) :
    s.pumpRound = (true,
      let o' : Open := { o with begun := true, wait := .none, fin := some x }
      let q := (s2.updOpen o.acc fun _ => o').atCommit o' x
      q.2.complete o' q.1) := by
  extract_lets o' q
  have hq := ha o' rfl
  have hu : (s2.updOpen o.acc fun o => { o with begun := true, wait := .none, fin := some x }) = s2.updOpen o.acc fun _ => o' := by
    simp only [State.updOpen, hk, List.map_cons, List.map_nil, if_pos, o']
  have hbo : s.beginOne o.acc = (true, s2.updOpen o.acc fun _ => o') := by
    unfold State.beginOne State.openAt
    simp only [h, List.find?_cons, decide_true, hb, Bool.not_true, Bool.false_eq_true, if_false, hc, hu]
  have ho1 : (s2.updOpen o.acc fun _ => o').foy.opens = [o'] := updOpen_one hk _
  have hse : (s2.updOpen o.acc fun _ => o').settleOne o'.acc = (false, s2.updOpen o.acc fun _ => o') :=
    settle_none ho1 ⟨fun m => by simp [o'], fun a b c => by simp [o']⟩
  have hco : (s2.updOpen o.acc fun _ => o').completeOne o'.pkt.ring.val = (true, q.2.complete o' q.1) := by
    unfold State.completeOne
    simp only [ho1, List.find?_cons, decide_true]
    rfl
  have hce := complete_opens (s := q.2) (o := o') q.1 hq
  unfold State.pumpRound
  have m1 : eachMoved State.beginOne [o.acc] s = (true, s2.updOpen o.acc fun _ => o') := by
    simp [eachMoved, hbo]
  have m2 : eachMoved State.settleOne [o'.acc] (s2.updOpen o.acc fun _ => o') = (false, s2.updOpen o.acc fun _ => o') := by
    simp [eachMoved, hse]
  have m3 : eachMoved State.completeOne (List.range 18) (s2.updOpen o.acc fun _ => o') = (true, q.2.complete o' q.1) :=
    eachMoved_one (k := o'.pkt.ring.val) (by simp [o'.pkt.ring.isLt]) (fun n hn => completeOne_of_ne ho1 (Ne.symm hn)) hco
      fun n => completeOne_of_empty hce n
  simp only [h, List.map_cons, List.map_nil, m1, ho1, m2, m3, Bool.true_or, Bool.or_true]

theorem carryOn_done {s : State} {o : Open} {x : Reply} {s2 : State} (h : s.foy.opens = [o]) (hb : s.mayBegin o = true)
    (hc : beginCmd o s = (.done x, s2)) (hk : s2.foy.opens = [o])
    (ha : ∀ o', o' = { o with begun := true, wait := .none, fin := some x } →
      ((s2.updOpen o.acc fun _ => o').atCommit o' x).2.foy.opens = [o']) :
    s.carryOn = carried o (.done x, s2) := by
  have hr := pumpRound_done h hb hc hk ha
  have he := complete_opens (o := { o with begun := true, wait := .none, fin := some x })
    ((s2.updOpen o.acc fun _ => { o with begun := true, wait := .none, fin := some x }).atCommit { o with begun := true, wait := .none, fin := some x } x).1 (ha _ rfl)
  unfold State.carryOn carried
  simp only [h, List.isEmpty_cons, Bool.false_eq_true, if_false]
  have : 8 * [o].length + 8 = 15 + 1 := rfl
  rw [this]
  unfold pumpRounds
  simp only [hr, if_true]
  rw [pumpRounds_empty he, he]
  rfl

/-- Waiting leaves nothing more to do. -/
theorem carryOn_wait {s : State} {o : Open} {w : Wait} {s2 : State} (h : s.foy.opens = [o]) (hb : s.mayBegin o = true)
    (hc : beginCmd o s = (.wait w, s2)) (hk : s2.foy.opens = [o]) (hf : o.fin = none) (hr : o.replay = false)
    (hw : (∀ m, w ≠ .fence m) ∧ (∀ u a b, w ≠ .expert u a b)) :
    s.carryOn = carried o (.wait w, s2) := by
  generalize ho' : ({ o with begun := true, wait := w } : Open) = o'
  have hacc : o'.acc = o.acc := by subst ho'; rfl
  have hfin : o'.fin = none := by subst ho'; exact hf
  have hbeg : o'.begun = true := by subst ho'; rfl
  have hu : (s2.updOpen o.acc fun o => { o with begun := true, wait := w }) = s2.updOpen o.acc fun _ => o' := by
    simp only [State.updOpen, hk, List.map_cons, List.map_nil, if_pos, ho']
  generalize ht : (s2.updOpen o.acc fun _ => o') = t at hu
  have ho1 : t.foy.opens = [o'] := by subst ht; exact updOpen_one hk _
  have hbo : s.beginOne o.acc = (true, t) := by
    unfold State.beginOne State.openAt
    simp only [h, List.find?_cons, decide_true, hb, Bool.not_true, Bool.false_eq_true, if_false, hc, hu]
  have hbo2 : t.beginOne o'.acc = (false, t) := by
    unfold State.beginOne State.openAt State.mayBegin
    simp [ho1, hbeg]
  have hse : t.settleOne o'.acc = (false, t) :=
    settle_none ho1 ⟨fun m => by subst ho'; exact hw.1 m, fun a b c => by subst ho'; exact hw.2 a b c⟩
  have hco : ∀ n, t.completeOne n = (false, t) := by
    intro n
    unfold State.completeOne
    simp only [ho1, List.find?_cons, List.find?_nil]
    split
    · rename_i x hx
      have : x = o' := by
        split at hx
        · exact (Option.some.inj hx).symm
        · cases hx
      subst this
      simp [hfin, hbeg]
    · rfl
  have m3 : eachMoved State.completeOne (List.range 18) t = (false, t) := eachMoved_id fun n _ => hco n
  have m2 : eachMoved State.settleOne [o'.acc] t = (false, t) := by simp [eachMoved, hse]
  have r1 : s.pumpRound = (true, t) := by
    have m1 : eachMoved State.beginOne [o.acc] s = (true, t) := by simp [eachMoved, hbo]
    unfold State.pumpRound
    simp only [h, List.map_cons, List.map_nil, m1, ho1, m2, m3, Bool.true_or]
  have r2 : t.pumpRound = (false, t) := by
    have m1 : eachMoved State.beginOne [o'.acc] t = (false, t) := by simp [eachMoved, hbo2]
    unfold State.pumpRound
    simp only [ho1, List.map_cons, List.map_nil, m1, m2, m3, Bool.or_false]
  unfold State.carryOn carried
  simp only [h, List.isEmpty_cons, Bool.false_eq_true, if_false]
  have : 8 * [o].length + 8 = 14 + 1 + 1 := rfl
  rw [this]
  unfold pumpRounds
  simp only [r1, if_true]
  unfold pumpRounds
  simp only [r2, Bool.false_eq_true, if_false]
  have hrep : o'.replay = false := by subst ho'; exact hr
  simp only [ho1, List.any_cons, List.any_nil, hrep, Bool.or_false]
  rw [ho', ht]

/-- The command that a packet becomes. -/
theorem opened_fin (s : State) (op : Op) (p : Packet) : (s.opened op p).fin = none ∧ (s.opened op p).replay = false ∧
    (s.opened op p).begun = false ∧ (s.opened op p).op = op ∧ (s.opened op p).pkt = p := ⟨rfl, rfl, rfl, rfl, rfl⟩

/-- The header checks and the feature check pass, and the command begins. -/
theorem Takes.begin {s : State} {op : Op} {p : Packet} (h : Takes s op p) :
    beginCmd (s.opened op p) (s.admitted op p) = beginOp (s.opened op p) (s.admitted op p) := by
  unfold beginCmd
  have e1 : decodeFault (s.opened op p).op (s.opened op p).pkt = none := h.header
  rw [e1, if_neg (by simp [(opened_fin s op p).2.1])]
  have e2 : ∀ k, (opInfo (s.opened op p).op).feature = some k → (s.opened op p).hasFeat k = true := h.feature
  revert e2
  cases (opInfo (s.opened op p).op).feature with
  | none => intro _; rfl
  | some k => intro e2; simp [e2 k rfl]

theorem Fetches.mayBegin {s : State} {op : Op} {p : Packet} (h : Fetches s op p) : (s.admitted op p).mayBegin (s.opened op p) = true :=
  mayBegin_one (admitted_opens h.quiet) rfl rfl fun n hn => h.core n (by rw [admitted_down] at hn; exact hn)

/-- A packet that is answered at once, whatever its commit point does with the open command. -/
theorem packet_done_of {s : State} {op : Op} {p : Packet} {x : Reply} {s2 : State} (h : Takes s op p)
    (hc : beginOp (s.opened op p) (s.admitted op p) = (.done x, s2)) (hk : s2.foy.opens = (s.admitted op p).foy.opens)
    (ha : ∀ o', o' = { s.opened op p with begun := true, wait := .none, fin := some x } →
      ((s2.updOpen (s.opened op p).acc fun _ => o').atCommit o' x).2.foy.opens = [o']) :
    s.packet op p = .next (carried (s.opened op p) (.done x, s2)) := by
  have ho := admitted_opens (op := op) (p := p) h.quiet
  have hk2 := hk.trans ho
  unfold State.packet
  rw [if_pos h.fetch, h.toFetches.intake, carryOn_done ho h.toFetches.mayBegin (h.begin.trans hc) hk2 ha]

/-- A packet whose command waits for something. -/
theorem packet_wait {s : State} {op : Op} {p : Packet} {w : Wait} {s2 : State} (h : Takes s op p)
    (hc : beginOp (s.opened op p) (s.admitted op p) = (.wait w, s2)) (hk : s2.foy.opens = (s.admitted op p).foy.opens)
    (hw : (∀ m, w ≠ .fence m) ∧ (∀ u a b, w ≠ .expert u a b)) :
    s.packet op p = .next (carried (s.opened op p) (.wait w, s2)) := by
  have ho := admitted_opens (op := op) (p := p) h.quiet
  unfold State.packet
  rw [if_pos h.fetch, h.toFetches.intake, carryOn_wait ho h.toFetches.mayBegin (h.begin.trans hc) (hk.trans ho) rfl rfl hw]

/-- Most commands do nothing more in their commit point. -/
theorem atCommit_keep {s : State} {o : Open} {x : Reply} (h : ¬ (o.op = .unitReset)) : Keep s (s.atCommit o x).2 := by
  unfold State.atCommit
  split
  · exact Keep.refl s
  · split
    · exact State.each_keep (Keep.refl s) _ fun _ _ k => State.recHead_keep k
    · split
      · exact State.featuresSet_keep (Keep.refl s) |>.out
      · exact State.expertCommit_keep (Keep.refl s)
      · exact State.expertLeave_keep (Keep.refl s) |>.out
      · exact State.errMark_keep (Keep.refl s)
      · exact absurd ‹_› h
      · exact State.powerCommit_keep (Keep.refl s)
      · exact Keep.refl s

/-- A packet that is answered at once. -/
theorem packet_done {s : State} {op : Op} {p : Packet} {x : Reply} {s2 : State} (h : Takes s op p) (hop : op ≠ .unitReset)
    (hc : beginOp (s.opened op p) (s.admitted op p) = (.done x, s2)) (hk : s2.foy.opens = (s.admitted op p).foy.opens) :
    s.packet op p = .next (carried (s.opened op p) (.done x, s2)) :=
  packet_done_of h hc hk fun o' e =>
    (atCommit_keep (by subst e; exact hop)).opens.trans (updOpen_one (hk.trans (admitted_opens (op := op) (p := p) h.quiet)) _)

/-- A `FENCE`, or an `EXPERT_ENTER` that has nothing to wait for, is answered in the same round. -/
theorem carryOn_settled {s : State} {o : Open} {w : Wait} {s2 : State} (ho : s.foy.opens = [o]) (hm : s.mayBegin o = true)
    (hc : beginCmd o s = (.wait w, s2)) (hk2 : s2.foy.opens = [o]) (hpf : o.fin = none) (hop : o.op ≠ .unitReset)
    (hw : (∃ m, w = .fence m) ∨ (∃ u, w = .expert u true [])) :
    s.carryOn = carried o (.done repOk, s2) := by
  generalize ho' : ({ o with begun := true, wait := w } : Open) = o'
  generalize ho2 : ({ o with begun := true, wait := .none, fin := some repOk } : Open) = o2
  have hu : (s2.updOpen o.acc fun o => { o with begun := true, wait := w }) = s2.updOpen o.acc fun _ => o' := by
    simp only [State.updOpen, hk2, List.map_cons, List.map_nil, if_pos, ho']
  have hacc : o'.acc = o.acc := by subst ho'; rfl
  have hfin : o'.fin = none := by subst ho'; exact hpf
  have hbeg : o'.begun = true := by subst ho'; rfl
  have hwait : o'.wait = w := by subst ho'; rfl
  have h2 : ({ o' with begun := true, fin := some repOk, wait := .none } : Open) = o2 := by subst ho' ho2; rfl
  have hop2 : o2.op ≠ .unitReset := by subst ho2; exact hop
  have hF : (s2.updOpen o.acc fun _ => o').finishAcc o'.acc repOk = s2.updOpen o.acc fun _ => o2 := by
    unfold State.finishAcc State.updOpen
    simp only [hk2, List.map_cons, List.map_nil, if_pos, hfin, hbeg, and_self, h2]
  generalize ht : (s2.updOpen o.acc fun _ => o') = t at hu hF
  have ho1 : t.foy.opens = [o'] := by subst ht; exact updOpen_one hk2 _
  have hbo : s.beginOne o.acc = (true, t) := by
    unfold State.beginOne State.openAt
    simp only [ho, List.find?_cons, decide_true, hm, Bool.not_true, Bool.false_eq_true, if_false, hc, hu]
  generalize ht2 : (s2.updOpen o.acc fun _ => o2) = t2 at hF
  have ho22 : t2.foy.opens = [o2] := by subst ht2; exact updOpen_one hk2 _
  have hse : t.settleOne o'.acc = (true, t2) := by
    unfold State.settleOne State.openAt
    simp only [ho1, List.find?_cons, decide_true, hbeg, hfin, hwait, Bool.not_true, Option.isSome_none, Bool.or_false, Bool.false_eq_true, if_false]
    obtain ⟨m, rfl⟩ | ⟨u, rfl⟩ := hw
    · have e : t.fenceMet o' m = true := by unfold State.fenceMet; rw [ho1]; simp
      simp only [e, if_true, hF]
    · have e : t.expertMet true [] = true := by unfold State.expertMet; rw [ho1]; simp
      simp only [e, if_true, hF]
  have hkc : (t2.atCommit o2 repOk).2.foy.opens = [o2] :=
    (atCommit_keep (s := t2) hop2).opens.trans ho22
  generalize hq : t2.atCommit o2 repOk = q at hkc
  have hring : o2.pkt.ring.val = o.pkt.ring.val := by subst ho2; rfl
  have hco : t2.completeOne o2.pkt.ring.val = (true, q.2.complete o2 q.1) := by
    have e1 : o2.begun = true := by subst ho2; rfl
    have e2 : o2.fin = some repOk := by subst ho2; rfl
    unfold State.completeOne
    simp only [ho22, List.find?_cons, decide_true, e1, e2, hq]
  have hce := complete_opens (s := q.2) (o := o2) q.1 hkc
  have m1 : eachMoved State.beginOne [o.acc] s = (true, t) := by simp [eachMoved, hbo]
  have m2 : eachMoved State.settleOne [o'.acc] t = (true, t2) := by simp [eachMoved, hse]
  have m3 : eachMoved State.completeOne (List.range 18) t2 = (true, q.2.complete o2 q.1) :=
    eachMoved_one (k := o2.pkt.ring.val) (by simp [o2.pkt.ring.isLt]) (fun n hn => completeOne_of_ne ho22 (Ne.symm hn)) hco
      fun n => completeOne_of_empty hce n
  have r1 : s.pumpRound = (true, q.2.complete o2 q.1) := by
    unfold State.pumpRound
    simp only [ho, List.map_cons, List.map_nil, m1, ho1, m2, m3, Bool.true_or]
  unfold State.carryOn carried
  simp only [ho, List.isEmpty_cons, Bool.false_eq_true, if_false]
  have : 8 * [o].length + 8 = 15 + 1 := rfl
  rw [this]
  unfold pumpRounds
  simp only [r1, if_true]
  rw [pumpRounds_empty hce, hce]
  simp only [ho2, ht2, hq, List.any_nil]

/-- A `FENCE`, or an `EXPERT_ENTER` that has nothing to wait for. -/
theorem packet_settled {s : State} {op : Op} {p : Packet} {w : Wait} {s2 : State} (h : Takes s op p) (hop : op ≠ .unitReset)
    (hc : beginOp (s.opened op p) (s.admitted op p) = (.wait w, s2)) (hk : s2.foy.opens = (s.admitted op p).foy.opens)
    (hw : (∃ m, w = .fence m) ∨ (∃ u, w = .expert u true [])) :
    s.packet op p = .next (carried (s.opened op p) (.done repOk, s2)) := by
  have ho := admitted_opens (op := op) (p := p) h.quiet
  unfold State.packet
  rw [if_pos h.fetch, h.toFetches.intake, carryOn_settled ho h.toFetches.mayBegin (h.begin.trans hc) (hk.trans ho) rfl hop hw]

theorem replayThese_nil (s : State) : (s.replayThese []).foy.opens = s.foy.opens := by
  unfold State.replayThese
  simp

/-- A unit reset as the only open command leaves itself open. -/
theorem unitReset_opens {s : State} {o : Open} (h : s.foy.opens = [o]) (hb : o.wait = .none) (hf : o.fin.isSome = true) :
    (s.unitReset o).foy.opens = [o] := by
  unfold State.unitReset
  extract_lets u mine begun queued s' ended accs t
  have hmine : mine = [] := by simp [mine, h]
  have hbeg : begun = [] := by simp [begun, hmine]
  have hq : queued = [] := by simp [queued, hmine]
  have hacc : accs = [] := by simp [accs, hbeg]
  have hs' : s'.foy.opens = [o] := by
    have := (State.resetUnit_calm (Calm.refl s) (a1 := u)).opens (by simp [h, Open.calm, hb, hf])
    simp only [s', hq]
    rw [← h]; exact this
  have ht : t.foy.opens = [o] := by simp only [t, hacc, replayThese_nil, hs']
  clear_value t
  refine (Keep.opens ?_).trans ht
  unfold State.recoveryNote
  exact State.setReg_keep (State.setF_keep (keep_ite (fun _ => Keep.refl t) fun _ => State.setReg_keep (Keep.refl t)))

/-- `UNIT_RESET`: the reset acts in the commit point. -/
theorem packet_reset {s : State} {p : Packet} {x : Reply} {s2 : State} (h : Takes s .unitReset p)
    (hc : beginOp (s.opened .unitReset p) (s.admitted .unitReset p) = (.done x, s2)) (hk : s2.foy.opens = (s.admitted .unitReset p).foy.opens) :
    s.packet .unitReset p = .next (carried (s.opened .unitReset p) (.done x, s2)) := by
  refine packet_done_of h hc hk fun o' e => ?_
  have h1 := updOpen_one (hk.trans (admitted_opens (op := .unitReset) (p := p) h.quiet)) fun _ => o'
  have e1 : o'.wait = .none := by subst e; rfl
  have e2 : o'.fin.isSome = true := by subst e; rfl
  have e3 : o'.op = .unitReset := by subst e; rfl
  unfold State.atCommit
  split
  · exact h1
  · rw [e3]
    exact unitReset_opens h1 e1 e2

/-- A packet whose header fails a check is answered with that check's reply. -/
theorem packet_refused {s : State} {op : Op} {p : Packet} {x : Reply} (h : Fetches s op p) (hop : op ≠ .unitReset)
    (hd : decodeFault op p = some x) : s.packet op p = .next (carried (s.opened op p) (.done x, s.admitted op p)) := by
  have ho := admitted_opens (op := op) (p := p) h.quiet
  have hc : beginCmd (s.opened op p) (s.admitted op p) = (.done x, s.admitted op p) := by
    unfold beginCmd
    have e1 : decodeFault (s.opened op p).op (s.opened op p).pkt = some x := hd
    rw [e1, if_neg (by simp [(opened_fin s op p).2.1])]
  unfold State.packet
  rw [if_pos h.fetch, h.intake, carryOn_done ho h.mayBegin hc ho fun o' e =>
    (atCommit_keep (by subst e; exact hop)).opens.trans (updOpen_one ho _)]

/-- A begun command that is answered or waits, whichever its operands say. -/
theorem packet_carried {s : State} {op : Op} {p : Packet} {r : Started × State} (h : Takes s op p) (hop : op ≠ .unitReset)
    (hc : beginOp (s.opened op p) (s.admitted op p) = r) (hk : r.2.foy.opens = (s.admitted op p).foy.opens)
    (hs : (∃ x, r.1 = .done x) ∨ (∃ w, r.1 = .wait w ∧ (∀ m, w ≠ .fence m) ∧ (∀ u a b, w ≠ .expert u a b))) :
    s.packet op p = .next (carried (s.opened op p) r) := by
  obtain ⟨r1, r2⟩ := r
  obtain ⟨x, e⟩ | ⟨w, e, hw⟩ := hs
  · subst e; exact packet_done h hop hc hk
  · subst e; exact packet_wait h hc hk hw

/-- The staging commands answer or wait for a swap. -/
theorem commitAfter_cases (o : Open) (hs : List Nat) (r : Reply) (s : State) :
    (∃ x, (commitAfter o hs r s).1 = .done x) ∨
    (∃ w, (commitAfter o hs r s).1 = .wait w ∧ (∀ m, w ≠ .fence m) ∧ (∀ u a b, w ≠ .expert u a b)) := by
  unfold commitAfter
  split
  · exact .inr ⟨_, rfl, fun _ => by simp, fun _ _ _ => by simp⟩
  · exact .inl ⟨_, rfl⟩

end Sys2Proof.Machine
end

