-- ==== Sys2Proof/Laws/RegRowsSound.lean ====
section
/-! SUPPORT. The operations of Machine/RegRows.lean are sound: see Laws/Sound.lean. -/

set_option linter.all false

namespace Sys2Proof.Machine

theorem State.rowWrite_sound {s0 s : State} (h : Sound s0 s) {a1 a2 a3} : SoundU s0 (State.rowWrite s a1 a2 a3) := by
  have e := @rfl _ @State.rowWrite
  conv at e => rhs; delta State.rowWrite
  rw [e]; clear e; beta_reduce
  repeat' first
    | with_reducible assumption
    | with_reducible apply soundU_next
    | with_reducible apply State.pump_sound
    | with_reducible apply State.regWrite_sound

theorem execBelDone_sound {s0 s : State} (h : Sound s0 s) {a0 a1} : SoundU s0 (execBelDone a0 a1 s) := by
  have e := @rfl _ @execBelDone
  conv at e => rhs; delta execBelDone
  rw [e]; clear e; beta_reduce
  repeat' first
    | with_reducible assumption
    | (with_reducible apply sound_ite <;> intro)
    | with_reducible apply soundU_next
    | with_reducible apply State.ccsWrite_sound
    | with_reducible apply State.rowWrite_sound
    | split

theorem execFoyRingcfgWrite_sound {s0 s : State} (h : Sound s0 s) {a0 a1} : SoundU s0 (execFoyRingcfgWrite a0 a1 s) := by
  have e := @rfl _ @execFoyRingcfgWrite
  conv at e => rhs; delta execFoyRingcfgWrite
  rw [e]; clear e; beta_reduce
  repeat' first
    | with_reducible assumption
    | with_reducible apply State.rowWrite_sound

theorem execHdCommitGo_sound {s0 s : State} (h : Sound s0 s) {a0 a1 a2} : SoundU s0 (execHdCommitGo a0 a1 a2 s) := by
  have e := @rfl _ @execHdCommitGo
  conv at e => rhs; delta execHdCommitGo
  rw [e]; clear e; beta_reduce
  repeat' first
    | with_reducible assumption
    | with_reducible apply State.rowWrite_sound

theorem execPsqFqWrite_sound {s0 s : State} (h : Sound s0 s) {a0 a1 a2 a3} : SoundU s0 (execPsqFqWrite a0 a1 a2 a3 s) := by
  have e := @rfl _ @execPsqFqWrite
  conv at e => rhs; delta execPsqFqWrite
  rw [e]; clear e; beta_reduce
  repeat' first
    | with_reducible assumption
    | with_reducible apply State.rowWrite_sound

theorem execMusCtlCommit_sound {s0 s : State} (h : Sound s0 s) {a0 a1} : SoundU s0 (execMusCtlCommit a0 a1 s) := by
  have e := @rfl _ @execMusCtlCommit
  conv at e => rhs; delta execMusCtlCommit
  rw [e]; clear e; beta_reduce
  repeat' first
    | with_reducible assumption
    | with_reducible apply State.rowWrite_sound

theorem execTmbCapcfgWrite_sound {s0 s : State} (h : Sound s0 s) {a0 a1 a2} : SoundU s0 (execTmbCapcfgWrite a0 a1 a2 s) := by
  have e := @rfl _ @execTmbCapcfgWrite
  conv at e => rhs; delta execTmbCapcfgWrite
  rw [e]; clear e; beta_reduce
  repeat' first
    | with_reducible assumption
    | with_reducible apply State.rowWrite_sound

theorem execPsqEstop_sound {s0 s : State} (h : Sound s0 s) {a0 a1 a2} : SoundU s0 (execPsqEstop a0 a1 a2 s) := by
  have e := @rfl _ @execPsqEstop
  conv at e => rhs; delta execPsqEstop
  rw [e]; clear e; beta_reduce
  repeat' first
    | with_reducible assumption
    | with_reducible apply State.rowWrite_sound

theorem execPanFlipWrite_sound {s0 s : State} (h : Sound s0 s) {a0 a1} : SoundU s0 (execPanFlipWrite a0 a1 s) := by
  have e := @rfl _ @execPanFlipWrite
  conv at e => rhs; delta execPanFlipWrite
  rw [e]; clear e; beta_reduce
  repeat' first
    | with_reducible assumption
    | with_reducible apply State.rowWrite_sound

theorem State.answer_sound {s0 s : State} (h : Sound s0 s) {a1} : Sound s0 (State.answer s a1) := by
  have e := @rfl _ @State.answer
  conv at e => rhs; delta State.answer
  rw [e]; clear e; beta_reduce
  repeat' (with_reducible refine Sound.upd ?_ ?_; (on_goal 2 => with_reducible rfl); with_reducible assumption)

theorem execBar2Read_sound {s0 s : State} (h : Sound s0 s) {a0 a1} : SoundU s0 (execBar2Read a0 a1 s) := by
  have e := @rfl _ @execBar2Read
  conv at e => rhs; delta execBar2Read
  rw [e]; clear e; beta_reduce
  repeat' first
    | with_reducible assumption
    | (fail_if_no_progress (extract_lets -underBinder +onlyGivenNames x); first | (have hT : (type_of% x) = (State) := (by with_reducible rfl); clear hT; refine (fun (hx : Sound s0 x) => ?_) ?_; (on_goal 1 => clear_value x); (on_goal 2 => subst x)) | (have hT : ∃ α : Type, (type_of% x) = (α × State) := ⟨_, rfl⟩; clear hT; refine (fun (hx : Snd s0 x) => ?_) ?_; (on_goal 1 => clear_value x); (on_goal 2 => subst x)) | fail)
    | (with_reducible apply soundU_ite <;> intro)
    | with_reducible apply soundU_next
    | with_reducible apply State.answer_sound
    | with_reducible apply State.bar2Read_sound
    | with_reducible apply State.pump_sound
    | (with_reducible apply Snd.out; with_reducible assumption)
    | (with_reducible refine Sound.upd ?_ ?_; (on_goal 2 => with_reducible rfl); with_reducible assumption)

theorem State.partRead_sound {s0 s : State} (h : Sound s0 s) {a1 a2 a3} : SoundU s0 (State.partRead s a1 a2 a3) := by
  have e := @rfl _ @State.partRead
  conv at e => rhs; delta State.partRead
  rw [e]; clear e; beta_reduce
  repeat' first
    | with_reducible assumption
    | (fail_if_no_progress (extract_lets -underBinder +onlyGivenNames x); first | (have hT : (type_of% x) = (State) := (by with_reducible rfl); clear hT; refine (fun (hx : Sound s0 x) => ?_) ?_; (on_goal 1 => clear_value x); (on_goal 2 => subst x)) | (have hT : ∃ α : Type, (type_of% x) = (α × State) := ⟨_, rfl⟩; clear hT; refine (fun (hx : Snd s0 x) => ?_) ?_; (on_goal 1 => clear_value x); (on_goal 2 => subst x)) | fail)
    | (with_reducible apply sound_ite <;> intro)
    | with_reducible apply soundU_next
    | with_reducible apply State.bar2Flush_sound
    | with_reducible apply State.regRead_sound
    | with_reducible apply State.pump_sound
    | with_reducible apply State.answer_sound
    | (with_reducible apply Snd.out; with_reducible assumption)
    | split

theorem execTmbCmpArm_sound {s0 s : State} (h : Sound s0 s) {a0 a1 a2} : SoundU s0 (execTmbCmpArm a0 a1 a2 s) := by
  have e := @rfl _ @execTmbCmpArm
  conv at e => rhs; delta execTmbCmpArm
  rw [e]; clear e; beta_reduce
  repeat' first
    | with_reducible assumption
    | with_reducible apply State.rowWrite_sound

theorem execNioStop_sound {s0 s : State} (h : Sound s0 s) {a0 a1 a2} : SoundU s0 (execNioStop a0 a1 a2 s) := by
  have e := @rfl _ @execNioStop
  conv at e => rhs; delta execNioStop
  rw [e]; clear e; beta_reduce
  repeat' first
    | with_reducible assumption
    | with_reducible apply State.rowWrite_sound

theorem execFoyCqheadWrite_sound {s0 s : State} (h : Sound s0 s) {a0 a1} : SoundU s0 (execFoyCqheadWrite a0 a1 s) := by
  have e := @rfl _ @execFoyCqheadWrite
  conv at e => rhs; delta execFoyCqheadWrite
  rw [e]; clear e; beta_reduce
  repeat' first
    | with_reducible assumption
    | with_reducible apply State.rowWrite_sound

theorem execPsqInjWrite_sound {s0 s : State} (h : Sound s0 s) {a0 a1 a2 a3} : SoundU s0 (execPsqInjWrite a0 a1 a2 a3 s) := by
  have e := @rfl _ @execPsqInjWrite
  conv at e => rhs; delta execPsqInjWrite
  rw [e]; clear e; beta_reduce
  repeat' first
    | with_reducible assumption
    | with_reducible apply State.rowWrite_sound

theorem execMusVgoStart_sound {s0 s : State} (h : Sound s0 s) {a0 a1} : SoundU s0 (execMusVgoStart a0 a1 s) := by
  have e := @rfl _ @execMusVgoStart
  conv at e => rhs; delta execMusVgoStart
  rw [e]; clear e; beta_reduce
  repeat' first
    | with_reducible assumption
    | with_reducible apply State.rowWrite_sound

theorem State.rowRead_sound {s0 s : State} (h : Sound s0 s) {a1 a2} : SoundU s0 (State.rowRead s a1 a2) := by
  have e := @rfl _ @State.rowRead
  conv at e => rhs; delta State.rowRead
  rw [e]; clear e; beta_reduce
  repeat' first
    | with_reducible assumption
    | with_reducible apply State.partRead_sound

theorem execGlbIrqswclr_sound {s0 s : State} (h : Sound s0 s) {a0 a1 a2} : SoundU s0 (execGlbIrqswclr a0 a1 a2 s) := by
  have e := @rfl _ @execGlbIrqswclr
  conv at e => rhs; delta execGlbIrqswclr
  rw [e]; clear e; beta_reduce
  repeat' first
    | with_reducible assumption
    | with_reducible apply State.rowWrite_sound

theorem execDoorbell_sound {s0 s : State} (h : Sound s0 s) {a0 a1} : SoundU s0 (execDoorbell a0 a1 s) := by
  have e := @rfl _ @execDoorbell
  conv at e => rhs; delta execDoorbell
  rw [e]; clear e; beta_reduce
  repeat' first
    | with_reducible assumption
    | with_reducible apply State.rowWrite_sound

theorem execBar2Write_sound {s0 s : State} (h : Sound s0 s) {a0 a1} : SoundU s0 (execBar2Write a0 a1 s) := by
  have e := @rfl _ @execBar2Write
  conv at e => rhs; delta execBar2Write
  rw [e]; clear e; beta_reduce
  repeat' first
    | with_reducible assumption
    | (with_reducible apply sound_ite <;> intro)
    | with_reducible apply soundU_next
    | with_reducible apply State.bar2Write_sound

theorem execBelClaim_sound {s0 s : State} (h : Sound s0 s) {a0} : SoundU s0 (execBelClaim a0 s) := by
  have e := @rfl _ @execBelClaim
  conv at e => rhs; delta execBelClaim
  rw [e]; clear e; beta_reduce
  repeat' first
    | with_reducible assumption
    | (fail_if_no_progress (extract_lets -underBinder +onlyGivenNames x); first | (have hT : ∃ α : Type, (type_of% x) = (α × State) := ⟨_, rfl⟩; clear hT; refine (fun (hx : Snd s0 x) => ?_) ?_; (on_goal 1 => clear_value x); (on_goal 2 => subst x)) | fail)
    | (with_reducible apply soundU_ite <;> intro)
    | with_reducible apply soundU_next
    | with_reducible apply State.ccsRead_sound
    | with_reducible apply State.answer_sound
    | with_reducible apply State.rowRead_sound
    | (with_reducible apply Snd.out; with_reducible assumption)
    | split

theorem execTmbCaptLoRead_sound {s0 s : State} (h : Sound s0 s) {a0 a1} : SoundU s0 (execTmbCaptLoRead a0 a1 s) := by
  have e := @rfl _ @execTmbCaptLoRead
  conv at e => rhs; delta execTmbCaptLoRead
  rw [e]; clear e; beta_reduce
  repeat' first
    | with_reducible assumption
    | with_reducible apply State.rowRead_sound

theorem execHdBstsLoRead_sound {s0 s : State} (h : Sound s0 s) {a0 a1} : SoundU s0 (execHdBstsLoRead a0 a1 s) := by
  have e := @rfl _ @execHdBstsLoRead
  conv at e => rhs; delta execHdBstsLoRead
  rw [e]; clear e; beta_reduce
  repeat' first
    | with_reducible assumption
    | with_reducible apply State.rowRead_sound

theorem execPsqSqRead_sound {s0 s : State} (h : Sound s0 s) {a0 a1 a2} : SoundU s0 (execPsqSqRead a0 a1 a2 s) := by
  have e := @rfl _ @execPsqSqRead
  conv at e => rhs; delta execPsqSqRead
  rw [e]; clear e; beta_reduce
  repeat' first
    | with_reducible assumption
    | with_reducible apply State.rowRead_sound

theorem execLoRegisterRead_sound {s0 s : State} (h : Sound s0 s) {a0 a1} : SoundU s0 (execLoRegisterRead a0 a1 s) := by
  have e := @rfl _ @execLoRegisterRead
  conv at e => rhs; delta execLoRegisterRead
  rw [e]; clear e; beta_reduce
  repeat' first
    | with_reducible assumption
    | with_reducible apply State.partRead_sound

theorem execCelFlipWrite_sound {s0 s : State} (h : Sound s0 s) {a0 a1} : SoundU s0 (execCelFlipWrite a0 a1 s) := by
  have e := @rfl _ @execCelFlipWrite
  conv at e => rhs; delta execCelFlipWrite
  rw [e]; clear e; beta_reduce
  repeat' first
    | with_reducible assumption
    | with_reducible apply State.rowWrite_sound

theorem execRegisterWrite_sound {s0 s : State} (h : Sound s0 s) {a0 a1 a2 a3} : SoundU s0 (execRegisterWrite a0 a1 a2 a3 s) := by
  have e := @rfl _ @execRegisterWrite
  conv at e => rhs; delta execRegisterWrite
  rw [e]; clear e; beta_reduce
  repeat' first
    | with_reducible assumption
    | with_reducible apply soundU_next
    | with_reducible apply State.pump_sound
    | with_reducible apply State.regWrite_sound

theorem execFlipAddrWrite_sound {s0 s : State} (h : Sound s0 s) {a0 a1 a2} : SoundU s0 (execFlipAddrWrite a0 a1 a2 s) := by
  have e := @rfl _ @execFlipAddrWrite
  conv at e => rhs; delta execFlipAddrWrite
  rw [e]; clear e; beta_reduce
  repeat' first
    | with_reducible assumption
    | with_reducible apply State.rowWrite_sound

theorem execCcsWdtkick_sound {s0 s : State} (h : Sound s0 s) {a0 a1} : SoundU s0 (execCcsWdtkick a0 a1 s) := by
  have e := @rfl _ @execCcsWdtkick
  conv at e => rhs; delta execCcsWdtkick
  rw [e]; clear e; beta_reduce
  repeat' first
    | with_reducible assumption
    | (with_reducible apply sound_ite <;> intro)
    | with_reducible apply soundU_next
    | with_reducible apply State.ccsWrite_sound

theorem execGlbSyncRead_sound {s0 s : State} (h : Sound s0 s) : SoundU s0 (execGlbSyncRead s) := by
  have e := @rfl _ @execGlbSyncRead
  conv at e => rhs; delta execGlbSyncRead
  rw [e]; clear e; beta_reduce
  repeat' first
    | with_reducible assumption
    | with_reducible apply State.rowRead_sound

theorem execGlbIrqswset_sound {s0 s : State} (h : Sound s0 s) {a0 a1 a2} : SoundU s0 (execGlbIrqswset a0 a1 a2 s) := by
  have e := @rfl _ @execGlbIrqswset
  conv at e => rhs; delta execGlbIrqswset
  rw [e]; clear e; beta_reduce
  repeat' first
    | with_reducible assumption
    | with_reducible apply State.rowWrite_sound

theorem execRctGo_sound {s0 s : State} (h : Sound s0 s) {a0 a1 a2} : SoundU s0 (execRctGo a0 a1 a2 s) := by
  have e := @rfl _ @execRctGo
  conv at e => rhs; delta execRctGo
  rw [e]; clear e; beta_reduce
  repeat' first
    | with_reducible assumption
    | with_reducible apply State.rowWrite_sound

theorem execPsqEstart_sound {s0 s : State} (h : Sound s0 s) {a0 a1 a2} : SoundU s0 (execPsqEstart a0 a1 a2 s) := by
  have e := @rfl _ @execPsqEstart
  conv at e => rhs; delta execPsqEstart
  rw [e]; clear e; beta_reduce
  repeat' first
    | with_reducible assumption
    | with_reducible apply State.rowWrite_sound

theorem execDwtStop_sound {s0 s : State} (h : Sound s0 s) {a0 a1 a2} : SoundU s0 (execDwtStop a0 a1 a2 s) := by
  have e := @rfl _ @execDwtStop
  conv at e => rhs; delta execDwtStop
  rw [e]; clear e; beta_reduce
  repeat' first
    | with_reducible assumption
    | with_reducible apply State.rowWrite_sound

theorem execDwtSwreq_sound {s0 s : State} (h : Sound s0 s) {a0 a1 a2} : SoundU s0 (execDwtSwreq a0 a1 a2 s) := by
  have e := @rfl _ @execDwtSwreq
  conv at e => rhs; delta execDwtSwreq
  rw [e]; clear e; beta_reduce
  repeat' first
    | with_reducible assumption
    | with_reducible apply State.rowWrite_sound

theorem execDwtGo_sound {s0 s : State} (h : Sound s0 s) {a0 a1 a2} : SoundU s0 (execDwtGo a0 a1 a2 s) := by
  have e := @rfl _ @execDwtGo
  conv at e => rhs; delta execDwtGo
  rw [e]; clear e; beta_reduce
  repeat' first
    | with_reducible assumption
    | with_reducible apply State.rowWrite_sound

theorem execGlbIrqmaskWrite_sound {s0 s : State} (h : Sound s0 s) {a0 a1 a2} : SoundU s0 (execGlbIrqmaskWrite a0 a1 a2 s) := by
  have e := @rfl _ @execGlbIrqmaskWrite
  conv at e => rhs; delta execGlbIrqmaskWrite
  rw [e]; clear e; beta_reduce
  repeat' first
    | with_reducible assumption
    | with_reducible apply State.rowWrite_sound

theorem execNioGo_sound {s0 s : State} (h : Sound s0 s) {a0 a1 a2} : SoundU s0 (execNioGo a0 a1 a2 s) := by
  have e := @rfl _ @execNioGo
  conv at e => rhs; delta execNioGo
  rw [e]; clear e; beta_reduce
  repeat' first
    | with_reducible assumption
    | with_reducible apply State.rowWrite_sound

theorem execGlbFeatCommit_sound {s0 s : State} (h : Sound s0 s) {a0} : SoundU s0 (execGlbFeatCommit a0 s) := by
  have e := @rfl _ @execGlbFeatCommit
  conv at e => rhs; delta execGlbFeatCommit
  rw [e]; clear e; beta_reduce
  repeat' first
    | with_reducible assumption
    | with_reducible apply State.rowWrite_sound

theorem execMusVgoStop_sound {s0 s : State} (h : Sound s0 s) {a0 a1} : SoundU s0 (execMusVgoStop a0 a1 s) := by
  have e := @rfl _ @execMusVgoStop
  conv at e => rhs; delta execMusVgoStop
  rw [e]; clear e; beta_reduce
  repeat' first
    | with_reducible assumption
    | with_reducible apply State.rowWrite_sound

end Sys2Proof.Machine
end

