-- ==== Sys2Proof/Laws/ScanGrow.lean ====
section
/-! SUPPORT. The operations of Machine/Scan.lean leave every committed set and drop no mark: see Laws/Grow.lean. -/

set_option linter.all false

namespace Sys2Proof.Machine

theorem State.tickTiles_grow {s0 s : State} (h : Grow s0 s) {a1 a2} : Grow s0 (State.tickTiles s a1 a2) := by
  have e := @rfl _ @State.tickTiles
  conv at e => rhs; delta State.tickTiles
  rw [e]; clear e; beta_reduce
  repeat' first
    | with_reducible assumption
    | intro _ _ _
    | (fail_if_no_progress (extract_lets -underBinder +onlyGivenNames x); first | (have hT : (type_of% x) = (State) := (by with_reducible rfl); clear hT; refine (fun (hx : Grow s0 x) => ?_) ?_; (on_goal 1 => clear_value x); (on_goal 2 => subst x)) | (have hT : (type_of% x) = (Nat) := (by with_reducible rfl); clear hT; clear_value x) | (clear_value x) | fail)
    | (with_reducible apply grow_ite <;> intro)
    | with_reducible apply State.readEntry_grow
    | with_reducible apply State.tilesFetch_grow
    | with_reducible refine State.each_grow ?_ _ ?_

theorem State.fetchedPast_grow {s0 s : State} (h : Grow s0 s) {a1 a2} : Grow s0 (State.fetchedPast s a1 a2) := by
  have e := @rfl _ @State.fetchedPast
  conv at e => rhs; delta State.fetchedPast
  rw [e]; clear e; beta_reduce
  repeat' first
    | with_reducible assumption
    | (with_reducible apply grow_ite <;> intro)
    | (with_reducible refine State.updHead_grow ?_ ?_; (on_goal 2 => intro _ _ ht; first | exact ht | exact List.mem_cons_of_mem _ ht | (split <;> exact ht)))

theorem State.pixelOut_grow {s0 s : State} (h : Grow s0 s) {a1 a2 a3} : Grow s0 (State.pixelOut s a1 a2 a3) := by
  have e := @rfl _ @State.pixelOut
  conv at e => rhs; delta State.pixelOut
  rw [e]; clear e; beta_reduce
  repeat' first
    | with_reducible assumption
    | (fail_if_no_progress (extract_lets -underBinder +onlyGivenNames x); first | (have hT : (type_of% x) = (State) := (by with_reducible rfl); clear hT; refine (fun (hx : Grow s0 x) => ?_) ?_; (on_goal 1 => clear_value x); (on_goal 2 => subst x)) | (have hT : (type_of% x) = (BitVec 32) := (by with_reducible rfl); clear hT; clear_value x) | (have hT : ∃ α : Type, (type_of% x) = (α × State) := ⟨_, rfl⟩; clear hT; refine (fun (hx : GrowP s0 x) => ?_) ?_; (on_goal 1 => clear_value x); (on_goal 2 => subst x)) | (clear_value x) | fail)
    | (with_reducible refine State.updHead_grow ?_ ?_; (on_goal 2 => intro _ _ ht; first | exact ht | exact List.mem_cons_of_mem _ ht | (split <;> exact ht)))
    | with_reducible apply State.composeAt_grow
    | with_reducible apply State.mantelTouch_grow
    | with_reducible apply State.wbFeed_grow
    | with_reducible apply State.crcPixel_grow
    | (with_reducible apply GrowP.out; with_reducible assumption)

theorem State.pixel_grow {s0 s : State} (h : Grow s0 s) {a1 a2 a3 a4} : Grow s0 (State.pixel s a1 a2 a3 a4) := by
  have e := @rfl _ @State.pixel
  conv at e => rhs; delta State.pixel
  rw [e]; clear e; beta_reduce
  repeat' first
    | with_reducible assumption
    | (fail_if_no_progress (extract_lets -underBinder +onlyGivenNames x); first | (have hT : (type_of% x) = (State) := (by with_reducible rfl); clear hT; refine (fun (hx : Grow s0 x) => ?_) ?_; (on_goal 1 => clear_value x); (on_goal 2 => subst x)) | fail)
    | (with_reducible apply grow_ite <;> intro)
    | with_reducible apply State.pixelOut_grow
    | with_reducible apply State.mark_grow
    | with_reducible apply State.wbLine_grow

theorem State.tickDraw_grow {s0 s : State} (h : Grow s0 s) {a1 a2 a3} : Grow s0 (State.tickDraw s a1 a2 a3) := by
  have e := @rfl _ @State.tickDraw
  conv at e => rhs; delta State.tickDraw
  rw [e]; clear e; beta_reduce
  repeat' first
    | with_reducible assumption
    | (fail_if_no_progress (extract_lets -underBinder +onlyGivenNames x); first | (clear_value x) | fail)
    | (with_reducible apply grow_ite <;> intro)
    | with_reducible apply State.fetchedPast_grow
    | with_reducible apply State.pixel_grow

theorem State.tickFetch_grow {s0 s : State} (h : Grow s0 s) {a1 a2} : Grow s0 (State.tickFetch s a1 a2) := by
  have e := @rfl _ @State.tickFetch
  conv at e => rhs; delta State.tickFetch
  rw [e]; clear e; beta_reduce
  repeat' first
    | with_reducible assumption
    | (fail_if_no_progress (extract_lets -underBinder +onlyGivenNames x); first | (have hT : (type_of% x) = (State) := (by with_reducible rfl); clear hT; refine (fun (hx : Grow s0 x) => ?_) ?_; (on_goal 1 => clear_value x); (on_goal 2 => subst x)) | (have hT : (type_of% x) = (Nat) := (by with_reducible rfl); clear hT; clear_value x) | (clear_value x) | fail)
    | (with_reducible apply grow_ite <;> intro)
    | with_reducible apply State.mark_grow
    | with_reducible apply State.bsEnd_grow
    | with_reducible apply State.bsNewLine_grow
    | with_reducible apply State.spriteEval_grow

theorem State.readLine_grow {s0 s : State} (h : Grow s0 s) {a1 a2} : Grow s0 (State.readLine s a1 a2) := by
  have e := @rfl _ @State.readLine
  conv at e => rhs; delta State.readLine
  rw [e]; clear e; beta_reduce
  repeat' first
    | with_reducible assumption
    | intro _ _ _
    | (fail_if_no_progress (extract_lets -underBinder +onlyGivenNames x); first | (have hT : (type_of% x) = (State) := (by with_reducible rfl); clear hT; refine (fun (hx : Grow s0 x) => ?_) ?_; (on_goal 1 => clear_value x); (on_goal 2 => subst x)) | fail)
    | (with_reducible apply grow_ite <;> intro)
    | with_reducible apply State.readRow_grow
    | with_reducible apply State.mark_grow
    | with_reducible apply State.mantelLine_grow
    | with_reducible refine State.each_grow ?_ _ ?_

theorem State.lineOpen_grow {s0 s : State} (h : Grow s0 s) {a1 a2} : Grow s0 (State.lineOpen s a1 a2) := by
  have e := @rfl _ @State.lineOpen
  conv at e => rhs; delta State.lineOpen
  rw [e]; clear e; beta_reduce
  repeat' first
    | with_reducible assumption
    | (fail_if_no_progress (extract_lets -underBinder +onlyGivenNames x); first | (clear_value x) | fail)
    | (with_reducible refine State.updHead_grow ?_ ?_; (on_goal 2 => intro _ _ ht; first | exact ht | exact List.mem_cons_of_mem _ ht | (split <;> exact ht)))

theorem State.lineReads_grow {s0 s : State} (h : Grow s0 s) {a1 a2} : Grow s0 (State.lineReads s a1 a2) := by
  have e := @rfl _ @State.lineReads
  conv at e => rhs; delta State.lineReads
  rw [e]; clear e; beta_reduce
  repeat' first
    | with_reducible assumption
    | (with_reducible apply grow_ite <;> intro)
    | with_reducible apply State.readLine_grow

theorem State.lineEvent_grow {s0 s : State} (h : Grow s0 s) {a1 a2} : Grow s0 (State.lineEvent s a1 a2) := by
  have e := @rfl _ @State.lineEvent
  conv at e => rhs; delta State.lineEvent
  rw [e]; clear e; beta_reduce
  repeat' first
    | with_reducible assumption
    | (fail_if_no_progress (extract_lets -underBinder +onlyGivenNames x); first | (have hT : (type_of% x) = (BitVec 32) := (by with_reducible rfl); clear hT; clear_value x) | fail)
    | (with_reducible apply grow_ite <;> intro)
    | with_reducible apply State.raiseLine_grow

theorem State.tickLine_grow {s0 s : State} (h : Grow s0 s) {a1 a2} : Grow s0 (State.tickLine s a1 a2) := by
  have e := @rfl _ @State.tickLine
  conv at e => rhs; delta State.tickLine
  rw [e]; clear e; beta_reduce
  repeat' first
    | with_reducible assumption
    | with_reducible apply State.lineReads_grow
    | with_reducible apply State.lineEvent_grow
    | with_reducible apply State.lineOpen_grow

theorem State.tickVoice_grow {s0 s : State} (h : Grow s0 s) {a1 a2 a3} : Grow s0 (State.tickVoice s a1 a2 a3) := by
  have e := @rfl _ @State.tickVoice
  conv at e => rhs; delta State.tickVoice
  rw [e]; clear e; beta_reduce
  repeat' first
    | with_reducible assumption
    | (fail_if_no_progress (extract_lets -underBinder +onlyGivenNames x); first | (have hT : (type_of% x) = (State) := (by with_reducible rfl); clear hT; refine (fun (hx : Grow s0 x) => ?_) ?_; (on_goal 1 => clear_value x); (on_goal 2 => subst x)) | fail)
    | (with_reducible apply grow_ite <;> intro)
    | with_reducible apply State.headPosition_grow
    | with_reducible apply State.mark_grow

theorem State.tickSprite_grow {s0 s : State} (h : Grow s0 s) {a1 a2} : Grow s0 (State.tickSprite s a1 a2) := by
  have e := @rfl _ @State.tickSprite
  conv at e => rhs; delta State.tickSprite
  rw [e]; clear e; beta_reduce
  repeat' first
    | with_reducible assumption
    | (fail_if_no_progress (extract_lets -underBinder +onlyGivenNames x); first | (clear_value x) | fail)
    | (with_reducible apply grow_ite <;> intro)
    | with_reducible apply State.spriteLate_grow
    | with_reducible apply State.mark_grow
    | with_reducible apply State.spriteEval_grow
    | with_reducible apply State.spriteLoaded_grow

theorem State.tickShow_grow {s0 s : State} (h : Grow s0 s) {a1 a2 a3} : Grow s0 (State.tickShow s a1 a2 a3) := by
  have e := @rfl _ @State.tickShow
  conv at e => rhs; delta State.tickShow
  rw [e]; clear e; beta_reduce
  repeat' first
    | with_reducible assumption
    | (fail_if_no_progress (extract_lets -underBinder +onlyGivenNames x); first | (have hT : (type_of% x) = (State) := (by with_reducible rfl); clear hT; refine (fun (hx : Grow s0 x) => ?_) ?_; (on_goal 1 => clear_value x); (on_goal 2 => subst x)) | (clear_value x) | fail)
    | (with_reducible apply grow_ite <;> intro)
    | with_reducible apply State.tickLine_grow
    | with_reducible apply State.tickDraw_grow
    | with_reducible apply State.tickVoice_grow

theorem State.tickPlace_grow {s0 s : State} (h : Grow s0 s) {a1 a2} : Grow s0 (State.tickPlace s a1 a2) := by
  have e := @rfl _ @State.tickPlace
  conv at e => rhs; delta State.tickPlace
  rw [e]; clear e; beta_reduce
  repeat' first
    | with_reducible assumption
    | (fail_if_no_progress (extract_lets -underBinder +onlyGivenNames x); first | (clear_value x) | fail)
    | (with_reducible refine State.updHead_grow ?_ ?_; (on_goal 2 => intro _ _ ht; first | exact ht | exact List.mem_cons_of_mem _ ht | (split <;> exact ht)))
    | with_reducible apply State.bsLandDue_grow

theorem State.tickOut_grow {s0 s : State} (h : Grow s0 s) {a1 a2 a3} : Grow s0 (State.tickOut s a1 a2 a3) := by
  have e := @rfl _ @State.tickOut
  conv at e => rhs; delta State.tickOut
  rw [e]; clear e; beta_reduce
  repeat' first
    | with_reducible assumption
    | with_reducible apply State.tickShow_grow
    | with_reducible apply State.tickPlace_grow

theorem State.tickRest_grow {s0 s : State} (h : Grow s0 s) {a1 a2 a3} : Grow s0 (State.tickRest s a1 a2 a3) := by
  have e := @rfl _ @State.tickRest
  conv at e => rhs; delta State.tickRest
  rw [e]; clear e; beta_reduce
  repeat' first
    | with_reducible assumption
    | with_reducible apply State.tickOut_grow
    | with_reducible apply State.tickSprite_grow
    | with_reducible apply State.tickTiles_grow

end Sys2Proof.Machine
end

