-- ==== Sys2Proof/Laws/State.lean ====
section
/-! SUPPORT. The small lemmas of State: what each update of one part leaves of every other part, and what a read gives after a write, so that no later proof unfolds a record update. -/

namespace Sys2Proof.Machine

/-! ## `State.setReg` -/

@[simp] theorem State.setReg_phase (s : State) (k : Nat) (v : Word) : (s.setReg k v).phase = s.phase := rfl
@[simp] theorem State.setReg_wide (s : State) (k : Nat) (v : Word) : (s.setReg k v).wide = s.wide := rfl
@[simp] theorem State.setReg_com (s : State) (k : Nat) (v : Word) : (s.setReg k v).com = s.com := rfl
@[simp] theorem State.setReg_mem (s : State) (k : Nat) (v : Word) : (s.setReg k v).mem = s.mem := rfl
@[simp] theorem State.setReg_codes (s : State) (k : Nat) (v : Word) : (s.setReg k v).codes = s.codes := rfl
@[simp] theorem State.setReg_host (s : State) (k : Nat) (v : Word) : (s.setReg k v).host = s.host := rfl
@[simp] theorem State.setReg_posted (s : State) (k : Nat) (v : Word) : (s.setReg k v).posted = s.posted := rfl
@[simp] theorem State.setReg_readData (s : State) (k : Nat) (v : Word) : (s.setReg k v).readData = s.readData := rfl
@[simp] theorem State.setReg_readPoison (s : State) (k : Nat) (v : Word) : (s.setReg k v).readPoison = s.readPoison := rfl
@[simp] theorem State.setReg_foy (s : State) (k : Nat) (v : Word) : (s.setReg k v).foy = s.foy := rfl
@[simp] theorem State.setReg_err (s : State) (k : Nat) (v : Word) : (s.setReg k v).err = s.err := rfl
@[simp] theorem State.setReg_bell (s : State) (k : Nat) (v : Word) : (s.setReg k v).bell = s.bell := rfl
@[simp] theorem State.setReg_heads (s : State) (k : Nat) (v : Word) : (s.setReg k v).heads = s.heads := rfl
@[simp] theorem State.setReg_ports (s : State) (k : Nat) (v : Word) : (s.setReg k v).ports = s.ports := rfl
@[simp] theorem State.setReg_gl (s : State) (k : Nat) (v : Word) : (s.setReg k v).gl = s.gl := rfl
@[simp] theorem State.setReg_dwt (s : State) (k : Nat) (v : Word) : (s.setReg k v).dwt = s.dwt := rfl
@[simp] theorem State.setReg_caps (s : State) (k : Nat) (v : Word) : (s.setReg k v).caps = s.caps := rfl
@[simp] theorem State.setReg_psq (s : State) (k : Nat) (v : Word) : (s.setReg k v).psq = s.psq := rfl
@[simp] theorem State.setReg_slotTab (s : State) (k : Nat) (v : Word) : (s.setReg k v).slotTab = s.slotTab := rfl
@[simp] theorem State.setReg_mus (s : State) (k : Nat) (v : Word) : (s.setReg k v).mus = s.mus := rfl
@[simp] theorem State.setReg_rect (s : State) (k : Nat) (v : Word) : (s.setReg k v).rect = s.rect := rfl
@[simp] theorem State.setReg_cores (s : State) (k : Nat) (v : Word) : (s.setReg k v).cores = s.cores := rfl
@[simp] theorem State.setReg_att (s : State) (k : Nat) (v : Word) : (s.setReg k v).att = s.att := rfl
@[simp] theorem State.setReg_chm (s : State) (k : Nat) (v : Word) : (s.setReg k v).chm = s.chm := rfl
@[simp] theorem State.setReg_hal (s : State) (k : Nat) (v : Word) : (s.setReg k v).hal = s.hal := rfl
@[simp] theorem State.setReg_tap (s : State) (k : Nat) (v : Word) : (s.setReg k v).tap = s.tap := rfl
@[simp] theorem State.setReg_test (s : State) (k : Nat) (v : Word) : (s.setReg k v).test = s.test := rfl
@[simp] theorem State.setReg_pwrLow (s : State) (k : Nat) (v : Word) : (s.setReg k v).pwrLow = s.pwrLow := rfl
@[simp] theorem State.setReg_free (s : State) (k : Nat) (v : Word) : (s.setReg k v).free = s.free := rfl
@[simp] theorem State.setReg_pending (s : State) (k : Nat) (v : Word) : (s.setReg k v).pending = s.pending := rfl

/-! ## `State.setF` -/

@[simp] theorem State.setF_phase (s : State) (k lo n v : Nat) : (s.setF k lo n v).phase = s.phase := rfl
@[simp] theorem State.setF_wide (s : State) (k lo n v : Nat) : (s.setF k lo n v).wide = s.wide := rfl
@[simp] theorem State.setF_com (s : State) (k lo n v : Nat) : (s.setF k lo n v).com = s.com := rfl
@[simp] theorem State.setF_mem (s : State) (k lo n v : Nat) : (s.setF k lo n v).mem = s.mem := rfl
@[simp] theorem State.setF_codes (s : State) (k lo n v : Nat) : (s.setF k lo n v).codes = s.codes := rfl
@[simp] theorem State.setF_host (s : State) (k lo n v : Nat) : (s.setF k lo n v).host = s.host := rfl
@[simp] theorem State.setF_posted (s : State) (k lo n v : Nat) : (s.setF k lo n v).posted = s.posted := rfl
@[simp] theorem State.setF_readData (s : State) (k lo n v : Nat) : (s.setF k lo n v).readData = s.readData := rfl
@[simp] theorem State.setF_readPoison (s : State) (k lo n v : Nat) : (s.setF k lo n v).readPoison = s.readPoison := rfl
@[simp] theorem State.setF_foy (s : State) (k lo n v : Nat) : (s.setF k lo n v).foy = s.foy := rfl
@[simp] theorem State.setF_err (s : State) (k lo n v : Nat) : (s.setF k lo n v).err = s.err := rfl
@[simp] theorem State.setF_bell (s : State) (k lo n v : Nat) : (s.setF k lo n v).bell = s.bell := rfl
@[simp] theorem State.setF_heads (s : State) (k lo n v : Nat) : (s.setF k lo n v).heads = s.heads := rfl
@[simp] theorem State.setF_ports (s : State) (k lo n v : Nat) : (s.setF k lo n v).ports = s.ports := rfl
@[simp] theorem State.setF_gl (s : State) (k lo n v : Nat) : (s.setF k lo n v).gl = s.gl := rfl
@[simp] theorem State.setF_dwt (s : State) (k lo n v : Nat) : (s.setF k lo n v).dwt = s.dwt := rfl
@[simp] theorem State.setF_caps (s : State) (k lo n v : Nat) : (s.setF k lo n v).caps = s.caps := rfl
@[simp] theorem State.setF_psq (s : State) (k lo n v : Nat) : (s.setF k lo n v).psq = s.psq := rfl
@[simp] theorem State.setF_slotTab (s : State) (k lo n v : Nat) : (s.setF k lo n v).slotTab = s.slotTab := rfl
@[simp] theorem State.setF_mus (s : State) (k lo n v : Nat) : (s.setF k lo n v).mus = s.mus := rfl
@[simp] theorem State.setF_rect (s : State) (k lo n v : Nat) : (s.setF k lo n v).rect = s.rect := rfl
@[simp] theorem State.setF_cores (s : State) (k lo n v : Nat) : (s.setF k lo n v).cores = s.cores := rfl
@[simp] theorem State.setF_att (s : State) (k lo n v : Nat) : (s.setF k lo n v).att = s.att := rfl
@[simp] theorem State.setF_chm (s : State) (k lo n v : Nat) : (s.setF k lo n v).chm = s.chm := rfl
@[simp] theorem State.setF_hal (s : State) (k lo n v : Nat) : (s.setF k lo n v).hal = s.hal := rfl
@[simp] theorem State.setF_tap (s : State) (k lo n v : Nat) : (s.setF k lo n v).tap = s.tap := rfl
@[simp] theorem State.setF_test (s : State) (k lo n v : Nat) : (s.setF k lo n v).test = s.test := rfl
@[simp] theorem State.setF_pwrLow (s : State) (k lo n v : Nat) : (s.setF k lo n v).pwrLow = s.pwrLow := rfl
@[simp] theorem State.setF_free (s : State) (k lo n v : Nat) : (s.setF k lo n v).free = s.free := rfl
@[simp] theorem State.setF_pending (s : State) (k lo n v : Nat) : (s.setF k lo n v).pending = s.pending := rfl

/-! ## `State.setB` -/

@[simp] theorem State.setB_phase (s : State) (k i : Nat) (b : Bool) : (s.setB k i b).phase = s.phase := rfl
@[simp] theorem State.setB_wide (s : State) (k i : Nat) (b : Bool) : (s.setB k i b).wide = s.wide := rfl
@[simp] theorem State.setB_com (s : State) (k i : Nat) (b : Bool) : (s.setB k i b).com = s.com := rfl
@[simp] theorem State.setB_mem (s : State) (k i : Nat) (b : Bool) : (s.setB k i b).mem = s.mem := rfl
@[simp] theorem State.setB_codes (s : State) (k i : Nat) (b : Bool) : (s.setB k i b).codes = s.codes := rfl
@[simp] theorem State.setB_host (s : State) (k i : Nat) (b : Bool) : (s.setB k i b).host = s.host := rfl
@[simp] theorem State.setB_posted (s : State) (k i : Nat) (b : Bool) : (s.setB k i b).posted = s.posted := rfl
@[simp] theorem State.setB_readData (s : State) (k i : Nat) (b : Bool) : (s.setB k i b).readData = s.readData := rfl
@[simp] theorem State.setB_readPoison (s : State) (k i : Nat) (b : Bool) : (s.setB k i b).readPoison = s.readPoison := rfl
@[simp] theorem State.setB_foy (s : State) (k i : Nat) (b : Bool) : (s.setB k i b).foy = s.foy := rfl
@[simp] theorem State.setB_err (s : State) (k i : Nat) (b : Bool) : (s.setB k i b).err = s.err := rfl
@[simp] theorem State.setB_bell (s : State) (k i : Nat) (b : Bool) : (s.setB k i b).bell = s.bell := rfl
@[simp] theorem State.setB_heads (s : State) (k i : Nat) (b : Bool) : (s.setB k i b).heads = s.heads := rfl
@[simp] theorem State.setB_ports (s : State) (k i : Nat) (b : Bool) : (s.setB k i b).ports = s.ports := rfl
@[simp] theorem State.setB_gl (s : State) (k i : Nat) (b : Bool) : (s.setB k i b).gl = s.gl := rfl
@[simp] theorem State.setB_dwt (s : State) (k i : Nat) (b : Bool) : (s.setB k i b).dwt = s.dwt := rfl
@[simp] theorem State.setB_caps (s : State) (k i : Nat) (b : Bool) : (s.setB k i b).caps = s.caps := rfl
@[simp] theorem State.setB_psq (s : State) (k i : Nat) (b : Bool) : (s.setB k i b).psq = s.psq := rfl
@[simp] theorem State.setB_slotTab (s : State) (k i : Nat) (b : Bool) : (s.setB k i b).slotTab = s.slotTab := rfl
@[simp] theorem State.setB_mus (s : State) (k i : Nat) (b : Bool) : (s.setB k i b).mus = s.mus := rfl
@[simp] theorem State.setB_rect (s : State) (k i : Nat) (b : Bool) : (s.setB k i b).rect = s.rect := rfl
@[simp] theorem State.setB_cores (s : State) (k i : Nat) (b : Bool) : (s.setB k i b).cores = s.cores := rfl
@[simp] theorem State.setB_att (s : State) (k i : Nat) (b : Bool) : (s.setB k i b).att = s.att := rfl
@[simp] theorem State.setB_chm (s : State) (k i : Nat) (b : Bool) : (s.setB k i b).chm = s.chm := rfl
@[simp] theorem State.setB_hal (s : State) (k i : Nat) (b : Bool) : (s.setB k i b).hal = s.hal := rfl
@[simp] theorem State.setB_tap (s : State) (k i : Nat) (b : Bool) : (s.setB k i b).tap = s.tap := rfl
@[simp] theorem State.setB_test (s : State) (k i : Nat) (b : Bool) : (s.setB k i b).test = s.test := rfl
@[simp] theorem State.setB_pwrLow (s : State) (k i : Nat) (b : Bool) : (s.setB k i b).pwrLow = s.pwrLow := rfl
@[simp] theorem State.setB_free (s : State) (k i : Nat) (b : Bool) : (s.setB k i b).free = s.free := rfl
@[simp] theorem State.setB_pending (s : State) (k i : Nat) (b : Bool) : (s.setB k i b).pending = s.pending := rfl

/-! ## `State.setAddr40` -/

@[simp] theorem State.setAddr40_phase (s : State) (k a : Nat) : (s.setAddr40 k a).phase = s.phase := rfl
@[simp] theorem State.setAddr40_wide (s : State) (k a : Nat) : (s.setAddr40 k a).wide = s.wide := rfl
@[simp] theorem State.setAddr40_com (s : State) (k a : Nat) : (s.setAddr40 k a).com = s.com := rfl
@[simp] theorem State.setAddr40_mem (s : State) (k a : Nat) : (s.setAddr40 k a).mem = s.mem := rfl
@[simp] theorem State.setAddr40_codes (s : State) (k a : Nat) : (s.setAddr40 k a).codes = s.codes := rfl
@[simp] theorem State.setAddr40_host (s : State) (k a : Nat) : (s.setAddr40 k a).host = s.host := rfl
@[simp] theorem State.setAddr40_posted (s : State) (k a : Nat) : (s.setAddr40 k a).posted = s.posted := rfl
@[simp] theorem State.setAddr40_readData (s : State) (k a : Nat) : (s.setAddr40 k a).readData = s.readData := rfl
@[simp] theorem State.setAddr40_readPoison (s : State) (k a : Nat) : (s.setAddr40 k a).readPoison = s.readPoison := rfl
@[simp] theorem State.setAddr40_foy (s : State) (k a : Nat) : (s.setAddr40 k a).foy = s.foy := rfl
@[simp] theorem State.setAddr40_err (s : State) (k a : Nat) : (s.setAddr40 k a).err = s.err := rfl
@[simp] theorem State.setAddr40_bell (s : State) (k a : Nat) : (s.setAddr40 k a).bell = s.bell := rfl
@[simp] theorem State.setAddr40_heads (s : State) (k a : Nat) : (s.setAddr40 k a).heads = s.heads := rfl
@[simp] theorem State.setAddr40_ports (s : State) (k a : Nat) : (s.setAddr40 k a).ports = s.ports := rfl
@[simp] theorem State.setAddr40_gl (s : State) (k a : Nat) : (s.setAddr40 k a).gl = s.gl := rfl
@[simp] theorem State.setAddr40_dwt (s : State) (k a : Nat) : (s.setAddr40 k a).dwt = s.dwt := rfl
@[simp] theorem State.setAddr40_caps (s : State) (k a : Nat) : (s.setAddr40 k a).caps = s.caps := rfl
@[simp] theorem State.setAddr40_psq (s : State) (k a : Nat) : (s.setAddr40 k a).psq = s.psq := rfl
@[simp] theorem State.setAddr40_slotTab (s : State) (k a : Nat) : (s.setAddr40 k a).slotTab = s.slotTab := rfl
@[simp] theorem State.setAddr40_mus (s : State) (k a : Nat) : (s.setAddr40 k a).mus = s.mus := rfl
@[simp] theorem State.setAddr40_rect (s : State) (k a : Nat) : (s.setAddr40 k a).rect = s.rect := rfl
@[simp] theorem State.setAddr40_cores (s : State) (k a : Nat) : (s.setAddr40 k a).cores = s.cores := rfl
@[simp] theorem State.setAddr40_att (s : State) (k a : Nat) : (s.setAddr40 k a).att = s.att := rfl
@[simp] theorem State.setAddr40_chm (s : State) (k a : Nat) : (s.setAddr40 k a).chm = s.chm := rfl
@[simp] theorem State.setAddr40_hal (s : State) (k a : Nat) : (s.setAddr40 k a).hal = s.hal := rfl
@[simp] theorem State.setAddr40_tap (s : State) (k a : Nat) : (s.setAddr40 k a).tap = s.tap := rfl
@[simp] theorem State.setAddr40_test (s : State) (k a : Nat) : (s.setAddr40 k a).test = s.test := rfl
@[simp] theorem State.setAddr40_pwrLow (s : State) (k a : Nat) : (s.setAddr40 k a).pwrLow = s.pwrLow := rfl
@[simp] theorem State.setAddr40_free (s : State) (k a : Nat) : (s.setAddr40 k a).free = s.free := rfl
@[simp] theorem State.setAddr40_pending (s : State) (k a : Nat) : (s.setAddr40 k a).pending = s.pending := rfl

/-! ## `State.setW64` -/

@[simp] theorem State.setW64_phase (s : State) (k : Nat) (v : DWord) : (s.setW64 k v).phase = s.phase := rfl
@[simp] theorem State.setW64_regs (s : State) (k : Nat) (v : DWord) : (s.setW64 k v).regs = s.regs := rfl
@[simp] theorem State.setW64_com (s : State) (k : Nat) (v : DWord) : (s.setW64 k v).com = s.com := rfl
@[simp] theorem State.setW64_mem (s : State) (k : Nat) (v : DWord) : (s.setW64 k v).mem = s.mem := rfl
@[simp] theorem State.setW64_codes (s : State) (k : Nat) (v : DWord) : (s.setW64 k v).codes = s.codes := rfl
@[simp] theorem State.setW64_host (s : State) (k : Nat) (v : DWord) : (s.setW64 k v).host = s.host := rfl
@[simp] theorem State.setW64_posted (s : State) (k : Nat) (v : DWord) : (s.setW64 k v).posted = s.posted := rfl
@[simp] theorem State.setW64_readData (s : State) (k : Nat) (v : DWord) : (s.setW64 k v).readData = s.readData := rfl
@[simp] theorem State.setW64_readPoison (s : State) (k : Nat) (v : DWord) : (s.setW64 k v).readPoison = s.readPoison := rfl
@[simp] theorem State.setW64_foy (s : State) (k : Nat) (v : DWord) : (s.setW64 k v).foy = s.foy := rfl
@[simp] theorem State.setW64_err (s : State) (k : Nat) (v : DWord) : (s.setW64 k v).err = s.err := rfl
@[simp] theorem State.setW64_bell (s : State) (k : Nat) (v : DWord) : (s.setW64 k v).bell = s.bell := rfl
@[simp] theorem State.setW64_heads (s : State) (k : Nat) (v : DWord) : (s.setW64 k v).heads = s.heads := rfl
@[simp] theorem State.setW64_ports (s : State) (k : Nat) (v : DWord) : (s.setW64 k v).ports = s.ports := rfl
@[simp] theorem State.setW64_gl (s : State) (k : Nat) (v : DWord) : (s.setW64 k v).gl = s.gl := rfl
@[simp] theorem State.setW64_dwt (s : State) (k : Nat) (v : DWord) : (s.setW64 k v).dwt = s.dwt := rfl
@[simp] theorem State.setW64_caps (s : State) (k : Nat) (v : DWord) : (s.setW64 k v).caps = s.caps := rfl
@[simp] theorem State.setW64_psq (s : State) (k : Nat) (v : DWord) : (s.setW64 k v).psq = s.psq := rfl
@[simp] theorem State.setW64_slotTab (s : State) (k : Nat) (v : DWord) : (s.setW64 k v).slotTab = s.slotTab := rfl
@[simp] theorem State.setW64_mus (s : State) (k : Nat) (v : DWord) : (s.setW64 k v).mus = s.mus := rfl
@[simp] theorem State.setW64_rect (s : State) (k : Nat) (v : DWord) : (s.setW64 k v).rect = s.rect := rfl
@[simp] theorem State.setW64_cores (s : State) (k : Nat) (v : DWord) : (s.setW64 k v).cores = s.cores := rfl
@[simp] theorem State.setW64_att (s : State) (k : Nat) (v : DWord) : (s.setW64 k v).att = s.att := rfl
@[simp] theorem State.setW64_chm (s : State) (k : Nat) (v : DWord) : (s.setW64 k v).chm = s.chm := rfl
@[simp] theorem State.setW64_hal (s : State) (k : Nat) (v : DWord) : (s.setW64 k v).hal = s.hal := rfl
@[simp] theorem State.setW64_tap (s : State) (k : Nat) (v : DWord) : (s.setW64 k v).tap = s.tap := rfl
@[simp] theorem State.setW64_test (s : State) (k : Nat) (v : DWord) : (s.setW64 k v).test = s.test := rfl
@[simp] theorem State.setW64_pwrLow (s : State) (k : Nat) (v : DWord) : (s.setW64 k v).pwrLow = s.pwrLow := rfl
@[simp] theorem State.setW64_free (s : State) (k : Nat) (v : DWord) : (s.setW64 k v).free = s.free := rfl
@[simp] theorem State.setW64_pending (s : State) (k : Nat) (v : DWord) : (s.setW64 k v).pending = s.pending := rfl

/-! ## `State.setCm` -/

theorem State.withCom_phase (s : State) (t : Tbl Word) : State.phase { s with com := t } = s.phase := rfl
theorem State.withCom_regs (s : State) (t : Tbl Word) : State.regs { s with com := t } = s.regs := rfl
theorem State.withCom_wide (s : State) (t : Tbl Word) : State.wide { s with com := t } = s.wide := rfl
theorem State.withCom_mem (s : State) (t : Tbl Word) : State.mem { s with com := t } = s.mem := rfl
theorem State.withCom_codes (s : State) (t : Tbl Word) : State.codes { s with com := t } = s.codes := rfl
theorem State.withCom_host (s : State) (t : Tbl Word) : State.host { s with com := t } = s.host := rfl
theorem State.withCom_posted (s : State) (t : Tbl Word) : State.posted { s with com := t } = s.posted := rfl
theorem State.withCom_readData (s : State) (t : Tbl Word) : State.readData { s with com := t } = s.readData := rfl
theorem State.withCom_readPoison (s : State) (t : Tbl Word) : State.readPoison { s with com := t } = s.readPoison := rfl
theorem State.withCom_foy (s : State) (t : Tbl Word) : State.foy { s with com := t } = s.foy := rfl
theorem State.withCom_err (s : State) (t : Tbl Word) : State.err { s with com := t } = s.err := rfl
theorem State.withCom_bell (s : State) (t : Tbl Word) : State.bell { s with com := t } = s.bell := rfl
theorem State.withCom_heads (s : State) (t : Tbl Word) : State.heads { s with com := t } = s.heads := rfl
theorem State.withCom_ports (s : State) (t : Tbl Word) : State.ports { s with com := t } = s.ports := rfl
theorem State.withCom_gl (s : State) (t : Tbl Word) : State.gl { s with com := t } = s.gl := rfl
theorem State.withCom_dwt (s : State) (t : Tbl Word) : State.dwt { s with com := t } = s.dwt := rfl
theorem State.withCom_caps (s : State) (t : Tbl Word) : State.caps { s with com := t } = s.caps := rfl
theorem State.withCom_psq (s : State) (t : Tbl Word) : State.psq { s with com := t } = s.psq := rfl
theorem State.withCom_slotTab (s : State) (t : Tbl Word) : State.slotTab { s with com := t } = s.slotTab := rfl
theorem State.withCom_mus (s : State) (t : Tbl Word) : State.mus { s with com := t } = s.mus := rfl
theorem State.withCom_rect (s : State) (t : Tbl Word) : State.rect { s with com := t } = s.rect := rfl
theorem State.withCom_cores (s : State) (t : Tbl Word) : State.cores { s with com := t } = s.cores := rfl
theorem State.withCom_att (s : State) (t : Tbl Word) : State.att { s with com := t } = s.att := rfl
theorem State.withCom_chm (s : State) (t : Tbl Word) : State.chm { s with com := t } = s.chm := rfl
theorem State.withCom_hal (s : State) (t : Tbl Word) : State.hal { s with com := t } = s.hal := rfl
theorem State.withCom_tap (s : State) (t : Tbl Word) : State.tap { s with com := t } = s.tap := rfl
theorem State.withCom_test (s : State) (t : Tbl Word) : State.test { s with com := t } = s.test := rfl
theorem State.withCom_pwrLow (s : State) (t : Tbl Word) : State.pwrLow { s with com := t } = s.pwrLow := rfl
theorem State.withCom_free (s : State) (t : Tbl Word) : State.free { s with com := t } = s.free := rfl
theorem State.withCom_pending (s : State) (t : Tbl Word) : State.pending { s with com := t } = s.pending := rfl

@[simp] theorem State.setCm_phase (s : State) (h o : Nat) (v : Word) : (s.setCm h o v).phase = s.phase := State.withCom_phase s _
@[simp] theorem State.setCm_regs (s : State) (h o : Nat) (v : Word) : (s.setCm h o v).regs = s.regs := State.withCom_regs s _
@[simp] theorem State.setCm_wide (s : State) (h o : Nat) (v : Word) : (s.setCm h o v).wide = s.wide := State.withCom_wide s _
@[simp] theorem State.setCm_mem (s : State) (h o : Nat) (v : Word) : (s.setCm h o v).mem = s.mem := State.withCom_mem s _
@[simp] theorem State.setCm_codes (s : State) (h o : Nat) (v : Word) : (s.setCm h o v).codes = s.codes := State.withCom_codes s _
@[simp] theorem State.setCm_host (s : State) (h o : Nat) (v : Word) : (s.setCm h o v).host = s.host := State.withCom_host s _
@[simp] theorem State.setCm_posted (s : State) (h o : Nat) (v : Word) : (s.setCm h o v).posted = s.posted := State.withCom_posted s _
@[simp] theorem State.setCm_readData (s : State) (h o : Nat) (v : Word) : (s.setCm h o v).readData = s.readData := State.withCom_readData s _
@[simp] theorem State.setCm_readPoison (s : State) (h o : Nat) (v : Word) : (s.setCm h o v).readPoison = s.readPoison := State.withCom_readPoison s _
@[simp] theorem State.setCm_foy (s : State) (h o : Nat) (v : Word) : (s.setCm h o v).foy = s.foy := State.withCom_foy s _
@[simp] theorem State.setCm_err (s : State) (h o : Nat) (v : Word) : (s.setCm h o v).err = s.err := State.withCom_err s _
@[simp] theorem State.setCm_bell (s : State) (h o : Nat) (v : Word) : (s.setCm h o v).bell = s.bell := State.withCom_bell s _
@[simp] theorem State.setCm_heads (s : State) (h o : Nat) (v : Word) : (s.setCm h o v).heads = s.heads := State.withCom_heads s _
@[simp] theorem State.setCm_ports (s : State) (h o : Nat) (v : Word) : (s.setCm h o v).ports = s.ports := State.withCom_ports s _
@[simp] theorem State.setCm_gl (s : State) (h o : Nat) (v : Word) : (s.setCm h o v).gl = s.gl := State.withCom_gl s _
@[simp] theorem State.setCm_dwt (s : State) (h o : Nat) (v : Word) : (s.setCm h o v).dwt = s.dwt := State.withCom_dwt s _
@[simp] theorem State.setCm_caps (s : State) (h o : Nat) (v : Word) : (s.setCm h o v).caps = s.caps := State.withCom_caps s _
@[simp] theorem State.setCm_psq (s : State) (h o : Nat) (v : Word) : (s.setCm h o v).psq = s.psq := State.withCom_psq s _
@[simp] theorem State.setCm_slotTab (s : State) (h o : Nat) (v : Word) : (s.setCm h o v).slotTab = s.slotTab := State.withCom_slotTab s _
@[simp] theorem State.setCm_mus (s : State) (h o : Nat) (v : Word) : (s.setCm h o v).mus = s.mus := State.withCom_mus s _
@[simp] theorem State.setCm_rect (s : State) (h o : Nat) (v : Word) : (s.setCm h o v).rect = s.rect := State.withCom_rect s _
@[simp] theorem State.setCm_cores (s : State) (h o : Nat) (v : Word) : (s.setCm h o v).cores = s.cores := State.withCom_cores s _
@[simp] theorem State.setCm_att (s : State) (h o : Nat) (v : Word) : (s.setCm h o v).att = s.att := State.withCom_att s _
@[simp] theorem State.setCm_chm (s : State) (h o : Nat) (v : Word) : (s.setCm h o v).chm = s.chm := State.withCom_chm s _
@[simp] theorem State.setCm_hal (s : State) (h o : Nat) (v : Word) : (s.setCm h o v).hal = s.hal := State.withCom_hal s _
@[simp] theorem State.setCm_tap (s : State) (h o : Nat) (v : Word) : (s.setCm h o v).tap = s.tap := State.withCom_tap s _
@[simp] theorem State.setCm_test (s : State) (h o : Nat) (v : Word) : (s.setCm h o v).test = s.test := State.withCom_test s _
@[simp] theorem State.setCm_pwrLow (s : State) (h o : Nat) (v : Word) : (s.setCm h o v).pwrLow = s.pwrLow := State.withCom_pwrLow s _
@[simp] theorem State.setCm_free (s : State) (h o : Nat) (v : Word) : (s.setCm h o v).free = s.free := State.withCom_free s _
@[simp] theorem State.setCm_pending (s : State) (h o : Nat) (v : Word) : (s.setCm h o v).pending = s.pending := State.withCom_pending s _

/-! ## `State.setHd` -/

@[simp] theorem State.setHd_phase (s : State) (h o : Nat) (v : Word) : (s.setHd h o v).phase = s.phase := State.setReg_phase s _ _
@[simp] theorem State.setHd_wide (s : State) (h o : Nat) (v : Word) : (s.setHd h o v).wide = s.wide := State.setReg_wide s _ _
@[simp] theorem State.setHd_com (s : State) (h o : Nat) (v : Word) : (s.setHd h o v).com = s.com := State.setReg_com s _ _
@[simp] theorem State.setHd_mem (s : State) (h o : Nat) (v : Word) : (s.setHd h o v).mem = s.mem := State.setReg_mem s _ _
@[simp] theorem State.setHd_codes (s : State) (h o : Nat) (v : Word) : (s.setHd h o v).codes = s.codes := State.setReg_codes s _ _
@[simp] theorem State.setHd_host (s : State) (h o : Nat) (v : Word) : (s.setHd h o v).host = s.host := State.setReg_host s _ _
@[simp] theorem State.setHd_posted (s : State) (h o : Nat) (v : Word) : (s.setHd h o v).posted = s.posted := State.setReg_posted s _ _
@[simp] theorem State.setHd_readData (s : State) (h o : Nat) (v : Word) : (s.setHd h o v).readData = s.readData := State.setReg_readData s _ _
@[simp] theorem State.setHd_readPoison (s : State) (h o : Nat) (v : Word) : (s.setHd h o v).readPoison = s.readPoison := State.setReg_readPoison s _ _
@[simp] theorem State.setHd_foy (s : State) (h o : Nat) (v : Word) : (s.setHd h o v).foy = s.foy := State.setReg_foy s _ _
@[simp] theorem State.setHd_err (s : State) (h o : Nat) (v : Word) : (s.setHd h o v).err = s.err := State.setReg_err s _ _
@[simp] theorem State.setHd_bell (s : State) (h o : Nat) (v : Word) : (s.setHd h o v).bell = s.bell := State.setReg_bell s _ _
@[simp] theorem State.setHd_heads (s : State) (h o : Nat) (v : Word) : (s.setHd h o v).heads = s.heads := State.setReg_heads s _ _
@[simp] theorem State.setHd_ports (s : State) (h o : Nat) (v : Word) : (s.setHd h o v).ports = s.ports := State.setReg_ports s _ _
@[simp] theorem State.setHd_gl (s : State) (h o : Nat) (v : Word) : (s.setHd h o v).gl = s.gl := State.setReg_gl s _ _
@[simp] theorem State.setHd_dwt (s : State) (h o : Nat) (v : Word) : (s.setHd h o v).dwt = s.dwt := State.setReg_dwt s _ _
@[simp] theorem State.setHd_caps (s : State) (h o : Nat) (v : Word) : (s.setHd h o v).caps = s.caps := State.setReg_caps s _ _
@[simp] theorem State.setHd_psq (s : State) (h o : Nat) (v : Word) : (s.setHd h o v).psq = s.psq := State.setReg_psq s _ _
@[simp] theorem State.setHd_slotTab (s : State) (h o : Nat) (v : Word) : (s.setHd h o v).slotTab = s.slotTab := State.setReg_slotTab s _ _
@[simp] theorem State.setHd_mus (s : State) (h o : Nat) (v : Word) : (s.setHd h o v).mus = s.mus := State.setReg_mus s _ _
@[simp] theorem State.setHd_rect (s : State) (h o : Nat) (v : Word) : (s.setHd h o v).rect = s.rect := State.setReg_rect s _ _
@[simp] theorem State.setHd_cores (s : State) (h o : Nat) (v : Word) : (s.setHd h o v).cores = s.cores := State.setReg_cores s _ _
@[simp] theorem State.setHd_att (s : State) (h o : Nat) (v : Word) : (s.setHd h o v).att = s.att := State.setReg_att s _ _
@[simp] theorem State.setHd_chm (s : State) (h o : Nat) (v : Word) : (s.setHd h o v).chm = s.chm := State.setReg_chm s _ _
@[simp] theorem State.setHd_hal (s : State) (h o : Nat) (v : Word) : (s.setHd h o v).hal = s.hal := State.setReg_hal s _ _
@[simp] theorem State.setHd_tap (s : State) (h o : Nat) (v : Word) : (s.setHd h o v).tap = s.tap := State.setReg_tap s _ _
@[simp] theorem State.setHd_test (s : State) (h o : Nat) (v : Word) : (s.setHd h o v).test = s.test := State.setReg_test s _ _
@[simp] theorem State.setHd_pwrLow (s : State) (h o : Nat) (v : Word) : (s.setHd h o v).pwrLow = s.pwrLow := State.setReg_pwrLow s _ _
@[simp] theorem State.setHd_free (s : State) (h o : Nat) (v : Word) : (s.setHd h o v).free = s.free := State.setReg_free s _ _
@[simp] theorem State.setHd_pending (s : State) (h o : Nat) (v : Word) : (s.setHd h o v).pending = s.pending := State.setReg_pending s _ _

/-! ## `State.setByte` -/

@[simp] theorem State.setByte_phase (s : State) (a : Nat) (b : Byte) : (s.setByte a b).phase = s.phase := rfl
@[simp] theorem State.setByte_regs (s : State) (a : Nat) (b : Byte) : (s.setByte a b).regs = s.regs := rfl
@[simp] theorem State.setByte_wide (s : State) (a : Nat) (b : Byte) : (s.setByte a b).wide = s.wide := rfl
@[simp] theorem State.setByte_com (s : State) (a : Nat) (b : Byte) : (s.setByte a b).com = s.com := rfl
@[simp] theorem State.setByte_codes (s : State) (a : Nat) (b : Byte) : (s.setByte a b).codes = s.codes := rfl
@[simp] theorem State.setByte_host (s : State) (a : Nat) (b : Byte) : (s.setByte a b).host = s.host := rfl
@[simp] theorem State.setByte_posted (s : State) (a : Nat) (b : Byte) : (s.setByte a b).posted = s.posted := rfl
@[simp] theorem State.setByte_readData (s : State) (a : Nat) (b : Byte) : (s.setByte a b).readData = s.readData := rfl
@[simp] theorem State.setByte_readPoison (s : State) (a : Nat) (b : Byte) : (s.setByte a b).readPoison = s.readPoison := rfl
@[simp] theorem State.setByte_foy (s : State) (a : Nat) (b : Byte) : (s.setByte a b).foy = s.foy := rfl
@[simp] theorem State.setByte_err (s : State) (a : Nat) (b : Byte) : (s.setByte a b).err = s.err := rfl
@[simp] theorem State.setByte_bell (s : State) (a : Nat) (b : Byte) : (s.setByte a b).bell = s.bell := rfl
@[simp] theorem State.setByte_heads (s : State) (a : Nat) (b : Byte) : (s.setByte a b).heads = s.heads := rfl
@[simp] theorem State.setByte_ports (s : State) (a : Nat) (b : Byte) : (s.setByte a b).ports = s.ports := rfl
@[simp] theorem State.setByte_gl (s : State) (a : Nat) (b : Byte) : (s.setByte a b).gl = s.gl := rfl
@[simp] theorem State.setByte_dwt (s : State) (a : Nat) (b : Byte) : (s.setByte a b).dwt = s.dwt := rfl
@[simp] theorem State.setByte_caps (s : State) (a : Nat) (b : Byte) : (s.setByte a b).caps = s.caps := rfl
@[simp] theorem State.setByte_psq (s : State) (a : Nat) (b : Byte) : (s.setByte a b).psq = s.psq := rfl
@[simp] theorem State.setByte_slotTab (s : State) (a : Nat) (b : Byte) : (s.setByte a b).slotTab = s.slotTab := rfl
@[simp] theorem State.setByte_mus (s : State) (a : Nat) (b : Byte) : (s.setByte a b).mus = s.mus := rfl
@[simp] theorem State.setByte_rect (s : State) (a : Nat) (b : Byte) : (s.setByte a b).rect = s.rect := rfl
@[simp] theorem State.setByte_cores (s : State) (a : Nat) (b : Byte) : (s.setByte a b).cores = s.cores := rfl
@[simp] theorem State.setByte_att (s : State) (a : Nat) (b : Byte) : (s.setByte a b).att = s.att := rfl
@[simp] theorem State.setByte_chm (s : State) (a : Nat) (b : Byte) : (s.setByte a b).chm = s.chm := rfl
@[simp] theorem State.setByte_hal (s : State) (a : Nat) (b : Byte) : (s.setByte a b).hal = s.hal := rfl
@[simp] theorem State.setByte_tap (s : State) (a : Nat) (b : Byte) : (s.setByte a b).tap = s.tap := rfl
@[simp] theorem State.setByte_test (s : State) (a : Nat) (b : Byte) : (s.setByte a b).test = s.test := rfl
@[simp] theorem State.setByte_pwrLow (s : State) (a : Nat) (b : Byte) : (s.setByte a b).pwrLow = s.pwrLow := rfl
@[simp] theorem State.setByte_free (s : State) (a : Nat) (b : Byte) : (s.setByte a b).free = s.free := rfl
@[simp] theorem State.setByte_pending (s : State) (a : Nat) (b : Byte) : (s.setByte a b).pending = s.pending := rfl

/-! ## `State.setCode` -/

@[simp] theorem State.setCode_phase (s : State) (a : Nat) (c : Code) : (s.setCode a c).phase = s.phase := rfl
@[simp] theorem State.setCode_regs (s : State) (a : Nat) (c : Code) : (s.setCode a c).regs = s.regs := rfl
@[simp] theorem State.setCode_wide (s : State) (a : Nat) (c : Code) : (s.setCode a c).wide = s.wide := rfl
@[simp] theorem State.setCode_com (s : State) (a : Nat) (c : Code) : (s.setCode a c).com = s.com := rfl
@[simp] theorem State.setCode_mem (s : State) (a : Nat) (c : Code) : (s.setCode a c).mem = s.mem := rfl
@[simp] theorem State.setCode_host (s : State) (a : Nat) (c : Code) : (s.setCode a c).host = s.host := rfl
@[simp] theorem State.setCode_posted (s : State) (a : Nat) (c : Code) : (s.setCode a c).posted = s.posted := rfl
@[simp] theorem State.setCode_readData (s : State) (a : Nat) (c : Code) : (s.setCode a c).readData = s.readData := rfl
@[simp] theorem State.setCode_readPoison (s : State) (a : Nat) (c : Code) : (s.setCode a c).readPoison = s.readPoison := rfl
@[simp] theorem State.setCode_foy (s : State) (a : Nat) (c : Code) : (s.setCode a c).foy = s.foy := rfl
@[simp] theorem State.setCode_err (s : State) (a : Nat) (c : Code) : (s.setCode a c).err = s.err := rfl
@[simp] theorem State.setCode_bell (s : State) (a : Nat) (c : Code) : (s.setCode a c).bell = s.bell := rfl
@[simp] theorem State.setCode_heads (s : State) (a : Nat) (c : Code) : (s.setCode a c).heads = s.heads := rfl
@[simp] theorem State.setCode_ports (s : State) (a : Nat) (c : Code) : (s.setCode a c).ports = s.ports := rfl
@[simp] theorem State.setCode_gl (s : State) (a : Nat) (c : Code) : (s.setCode a c).gl = s.gl := rfl
@[simp] theorem State.setCode_dwt (s : State) (a : Nat) (c : Code) : (s.setCode a c).dwt = s.dwt := rfl
@[simp] theorem State.setCode_caps (s : State) (a : Nat) (c : Code) : (s.setCode a c).caps = s.caps := rfl
@[simp] theorem State.setCode_psq (s : State) (a : Nat) (c : Code) : (s.setCode a c).psq = s.psq := rfl
@[simp] theorem State.setCode_slotTab (s : State) (a : Nat) (c : Code) : (s.setCode a c).slotTab = s.slotTab := rfl
@[simp] theorem State.setCode_mus (s : State) (a : Nat) (c : Code) : (s.setCode a c).mus = s.mus := rfl
@[simp] theorem State.setCode_rect (s : State) (a : Nat) (c : Code) : (s.setCode a c).rect = s.rect := rfl
@[simp] theorem State.setCode_cores (s : State) (a : Nat) (c : Code) : (s.setCode a c).cores = s.cores := rfl
@[simp] theorem State.setCode_att (s : State) (a : Nat) (c : Code) : (s.setCode a c).att = s.att := rfl
@[simp] theorem State.setCode_chm (s : State) (a : Nat) (c : Code) : (s.setCode a c).chm = s.chm := rfl
@[simp] theorem State.setCode_hal (s : State) (a : Nat) (c : Code) : (s.setCode a c).hal = s.hal := rfl
@[simp] theorem State.setCode_tap (s : State) (a : Nat) (c : Code) : (s.setCode a c).tap = s.tap := rfl
@[simp] theorem State.setCode_test (s : State) (a : Nat) (c : Code) : (s.setCode a c).test = s.test := rfl
@[simp] theorem State.setCode_pwrLow (s : State) (a : Nat) (c : Code) : (s.setCode a c).pwrLow = s.pwrLow := rfl
@[simp] theorem State.setCode_free (s : State) (a : Nat) (c : Code) : (s.setCode a c).free = s.free := rfl
@[simp] theorem State.setCode_pending (s : State) (a : Nat) (c : Code) : (s.setCode a c).pending = s.pending := rfl

/-! ## `State.hostWrite` -/

@[simp] theorem State.hostWrite_phase (s : State) (a : Nat) (bs : List Byte) : (s.hostWrite a bs).phase = s.phase := rfl
@[simp] theorem State.hostWrite_regs (s : State) (a : Nat) (bs : List Byte) : (s.hostWrite a bs).regs = s.regs := rfl
@[simp] theorem State.hostWrite_wide (s : State) (a : Nat) (bs : List Byte) : (s.hostWrite a bs).wide = s.wide := rfl
@[simp] theorem State.hostWrite_com (s : State) (a : Nat) (bs : List Byte) : (s.hostWrite a bs).com = s.com := rfl
@[simp] theorem State.hostWrite_mem (s : State) (a : Nat) (bs : List Byte) : (s.hostWrite a bs).mem = s.mem := rfl
@[simp] theorem State.hostWrite_codes (s : State) (a : Nat) (bs : List Byte) : (s.hostWrite a bs).codes = s.codes := rfl
@[simp] theorem State.hostWrite_posted (s : State) (a : Nat) (bs : List Byte) : (s.hostWrite a bs).posted = s.posted := rfl
@[simp] theorem State.hostWrite_readData (s : State) (a : Nat) (bs : List Byte) : (s.hostWrite a bs).readData = s.readData := rfl
@[simp] theorem State.hostWrite_readPoison (s : State) (a : Nat) (bs : List Byte) : (s.hostWrite a bs).readPoison = s.readPoison := rfl
@[simp] theorem State.hostWrite_foy (s : State) (a : Nat) (bs : List Byte) : (s.hostWrite a bs).foy = s.foy := rfl
@[simp] theorem State.hostWrite_err (s : State) (a : Nat) (bs : List Byte) : (s.hostWrite a bs).err = s.err := rfl
@[simp] theorem State.hostWrite_bell (s : State) (a : Nat) (bs : List Byte) : (s.hostWrite a bs).bell = s.bell := rfl
@[simp] theorem State.hostWrite_heads (s : State) (a : Nat) (bs : List Byte) : (s.hostWrite a bs).heads = s.heads := rfl
@[simp] theorem State.hostWrite_ports (s : State) (a : Nat) (bs : List Byte) : (s.hostWrite a bs).ports = s.ports := rfl
@[simp] theorem State.hostWrite_gl (s : State) (a : Nat) (bs : List Byte) : (s.hostWrite a bs).gl = s.gl := rfl
@[simp] theorem State.hostWrite_dwt (s : State) (a : Nat) (bs : List Byte) : (s.hostWrite a bs).dwt = s.dwt := rfl
@[simp] theorem State.hostWrite_caps (s : State) (a : Nat) (bs : List Byte) : (s.hostWrite a bs).caps = s.caps := rfl
@[simp] theorem State.hostWrite_psq (s : State) (a : Nat) (bs : List Byte) : (s.hostWrite a bs).psq = s.psq := rfl
@[simp] theorem State.hostWrite_slotTab (s : State) (a : Nat) (bs : List Byte) : (s.hostWrite a bs).slotTab = s.slotTab := rfl
@[simp] theorem State.hostWrite_mus (s : State) (a : Nat) (bs : List Byte) : (s.hostWrite a bs).mus = s.mus := rfl
@[simp] theorem State.hostWrite_rect (s : State) (a : Nat) (bs : List Byte) : (s.hostWrite a bs).rect = s.rect := rfl
@[simp] theorem State.hostWrite_cores (s : State) (a : Nat) (bs : List Byte) : (s.hostWrite a bs).cores = s.cores := rfl
@[simp] theorem State.hostWrite_att (s : State) (a : Nat) (bs : List Byte) : (s.hostWrite a bs).att = s.att := rfl
@[simp] theorem State.hostWrite_chm (s : State) (a : Nat) (bs : List Byte) : (s.hostWrite a bs).chm = s.chm := rfl
@[simp] theorem State.hostWrite_hal (s : State) (a : Nat) (bs : List Byte) : (s.hostWrite a bs).hal = s.hal := rfl
@[simp] theorem State.hostWrite_tap (s : State) (a : Nat) (bs : List Byte) : (s.hostWrite a bs).tap = s.tap := rfl
@[simp] theorem State.hostWrite_test (s : State) (a : Nat) (bs : List Byte) : (s.hostWrite a bs).test = s.test := rfl
@[simp] theorem State.hostWrite_pwrLow (s : State) (a : Nat) (bs : List Byte) : (s.hostWrite a bs).pwrLow = s.pwrLow := rfl
@[simp] theorem State.hostWrite_free (s : State) (a : Nat) (bs : List Byte) : (s.hostWrite a bs).free = s.free := rfl
@[simp] theorem State.hostWrite_pending (s : State) (a : Nat) (bs : List Byte) : (s.hostWrite a bs).pending = s.pending := rfl

/-! ## `State.setHead` -/

@[simp] theorem State.setHead_phase (s : State) (h : Nat) (v : Head) : (s.setHead h v).phase = s.phase := rfl
@[simp] theorem State.setHead_regs (s : State) (h : Nat) (v : Head) : (s.setHead h v).regs = s.regs := rfl
@[simp] theorem State.setHead_wide (s : State) (h : Nat) (v : Head) : (s.setHead h v).wide = s.wide := rfl
@[simp] theorem State.setHead_com (s : State) (h : Nat) (v : Head) : (s.setHead h v).com = s.com := rfl
@[simp] theorem State.setHead_mem (s : State) (h : Nat) (v : Head) : (s.setHead h v).mem = s.mem := rfl
@[simp] theorem State.setHead_codes (s : State) (h : Nat) (v : Head) : (s.setHead h v).codes = s.codes := rfl
@[simp] theorem State.setHead_host (s : State) (h : Nat) (v : Head) : (s.setHead h v).host = s.host := rfl
@[simp] theorem State.setHead_posted (s : State) (h : Nat) (v : Head) : (s.setHead h v).posted = s.posted := rfl
@[simp] theorem State.setHead_readData (s : State) (h : Nat) (v : Head) : (s.setHead h v).readData = s.readData := rfl
@[simp] theorem State.setHead_readPoison (s : State) (h : Nat) (v : Head) : (s.setHead h v).readPoison = s.readPoison := rfl
@[simp] theorem State.setHead_foy (s : State) (h : Nat) (v : Head) : (s.setHead h v).foy = s.foy := rfl
@[simp] theorem State.setHead_err (s : State) (h : Nat) (v : Head) : (s.setHead h v).err = s.err := rfl
@[simp] theorem State.setHead_bell (s : State) (h : Nat) (v : Head) : (s.setHead h v).bell = s.bell := rfl
@[simp] theorem State.setHead_ports (s : State) (h : Nat) (v : Head) : (s.setHead h v).ports = s.ports := rfl
@[simp] theorem State.setHead_gl (s : State) (h : Nat) (v : Head) : (s.setHead h v).gl = s.gl := rfl
@[simp] theorem State.setHead_dwt (s : State) (h : Nat) (v : Head) : (s.setHead h v).dwt = s.dwt := rfl
@[simp] theorem State.setHead_caps (s : State) (h : Nat) (v : Head) : (s.setHead h v).caps = s.caps := rfl
@[simp] theorem State.setHead_psq (s : State) (h : Nat) (v : Head) : (s.setHead h v).psq = s.psq := rfl
@[simp] theorem State.setHead_slotTab (s : State) (h : Nat) (v : Head) : (s.setHead h v).slotTab = s.slotTab := rfl
@[simp] theorem State.setHead_mus (s : State) (h : Nat) (v : Head) : (s.setHead h v).mus = s.mus := rfl
@[simp] theorem State.setHead_rect (s : State) (h : Nat) (v : Head) : (s.setHead h v).rect = s.rect := rfl
@[simp] theorem State.setHead_cores (s : State) (h : Nat) (v : Head) : (s.setHead h v).cores = s.cores := rfl
@[simp] theorem State.setHead_att (s : State) (h : Nat) (v : Head) : (s.setHead h v).att = s.att := rfl
@[simp] theorem State.setHead_chm (s : State) (h : Nat) (v : Head) : (s.setHead h v).chm = s.chm := rfl
@[simp] theorem State.setHead_hal (s : State) (h : Nat) (v : Head) : (s.setHead h v).hal = s.hal := rfl
@[simp] theorem State.setHead_tap (s : State) (h : Nat) (v : Head) : (s.setHead h v).tap = s.tap := rfl
@[simp] theorem State.setHead_test (s : State) (h : Nat) (v : Head) : (s.setHead h v).test = s.test := rfl
@[simp] theorem State.setHead_pwrLow (s : State) (h : Nat) (v : Head) : (s.setHead h v).pwrLow = s.pwrLow := rfl
@[simp] theorem State.setHead_free (s : State) (h : Nat) (v : Head) : (s.setHead h v).free = s.free := rfl
@[simp] theorem State.setHead_pending (s : State) (h : Nat) (v : Head) : (s.setHead h v).pending = s.pending := rfl

/-! ## `State.setPort` -/

@[simp] theorem State.setPort_phase (s : State) (p : Nat) (v : Port) : (s.setPort p v).phase = s.phase := rfl
@[simp] theorem State.setPort_regs (s : State) (p : Nat) (v : Port) : (s.setPort p v).regs = s.regs := rfl
@[simp] theorem State.setPort_wide (s : State) (p : Nat) (v : Port) : (s.setPort p v).wide = s.wide := rfl
@[simp] theorem State.setPort_com (s : State) (p : Nat) (v : Port) : (s.setPort p v).com = s.com := rfl
@[simp] theorem State.setPort_mem (s : State) (p : Nat) (v : Port) : (s.setPort p v).mem = s.mem := rfl
@[simp] theorem State.setPort_codes (s : State) (p : Nat) (v : Port) : (s.setPort p v).codes = s.codes := rfl
@[simp] theorem State.setPort_host (s : State) (p : Nat) (v : Port) : (s.setPort p v).host = s.host := rfl
@[simp] theorem State.setPort_posted (s : State) (p : Nat) (v : Port) : (s.setPort p v).posted = s.posted := rfl
@[simp] theorem State.setPort_readData (s : State) (p : Nat) (v : Port) : (s.setPort p v).readData = s.readData := rfl
@[simp] theorem State.setPort_readPoison (s : State) (p : Nat) (v : Port) : (s.setPort p v).readPoison = s.readPoison := rfl
@[simp] theorem State.setPort_foy (s : State) (p : Nat) (v : Port) : (s.setPort p v).foy = s.foy := rfl
@[simp] theorem State.setPort_err (s : State) (p : Nat) (v : Port) : (s.setPort p v).err = s.err := rfl
@[simp] theorem State.setPort_bell (s : State) (p : Nat) (v : Port) : (s.setPort p v).bell = s.bell := rfl
@[simp] theorem State.setPort_heads (s : State) (p : Nat) (v : Port) : (s.setPort p v).heads = s.heads := rfl
@[simp] theorem State.setPort_gl (s : State) (p : Nat) (v : Port) : (s.setPort p v).gl = s.gl := rfl
@[simp] theorem State.setPort_dwt (s : State) (p : Nat) (v : Port) : (s.setPort p v).dwt = s.dwt := rfl
@[simp] theorem State.setPort_caps (s : State) (p : Nat) (v : Port) : (s.setPort p v).caps = s.caps := rfl
@[simp] theorem State.setPort_psq (s : State) (p : Nat) (v : Port) : (s.setPort p v).psq = s.psq := rfl
@[simp] theorem State.setPort_slotTab (s : State) (p : Nat) (v : Port) : (s.setPort p v).slotTab = s.slotTab := rfl
@[simp] theorem State.setPort_mus (s : State) (p : Nat) (v : Port) : (s.setPort p v).mus = s.mus := rfl
@[simp] theorem State.setPort_rect (s : State) (p : Nat) (v : Port) : (s.setPort p v).rect = s.rect := rfl
@[simp] theorem State.setPort_cores (s : State) (p : Nat) (v : Port) : (s.setPort p v).cores = s.cores := rfl
@[simp] theorem State.setPort_att (s : State) (p : Nat) (v : Port) : (s.setPort p v).att = s.att := rfl
@[simp] theorem State.setPort_chm (s : State) (p : Nat) (v : Port) : (s.setPort p v).chm = s.chm := rfl
@[simp] theorem State.setPort_hal (s : State) (p : Nat) (v : Port) : (s.setPort p v).hal = s.hal := rfl
@[simp] theorem State.setPort_tap (s : State) (p : Nat) (v : Port) : (s.setPort p v).tap = s.tap := rfl
@[simp] theorem State.setPort_test (s : State) (p : Nat) (v : Port) : (s.setPort p v).test = s.test := rfl
@[simp] theorem State.setPort_pwrLow (s : State) (p : Nat) (v : Port) : (s.setPort p v).pwrLow = s.pwrLow := rfl
@[simp] theorem State.setPort_free (s : State) (p : Nat) (v : Port) : (s.setPort p v).free = s.free := rfl
@[simp] theorem State.setPort_pending (s : State) (p : Nat) (v : Port) : (s.setPort p v).pending = s.pending := rfl

/-! ## `State.setDw` -/

@[simp] theorem State.setDw_phase (s : State) (c : Nat) (v : DwtCh) : (s.setDw c v).phase = s.phase := rfl
@[simp] theorem State.setDw_regs (s : State) (c : Nat) (v : DwtCh) : (s.setDw c v).regs = s.regs := rfl
@[simp] theorem State.setDw_wide (s : State) (c : Nat) (v : DwtCh) : (s.setDw c v).wide = s.wide := rfl
@[simp] theorem State.setDw_com (s : State) (c : Nat) (v : DwtCh) : (s.setDw c v).com = s.com := rfl
@[simp] theorem State.setDw_mem (s : State) (c : Nat) (v : DwtCh) : (s.setDw c v).mem = s.mem := rfl
@[simp] theorem State.setDw_codes (s : State) (c : Nat) (v : DwtCh) : (s.setDw c v).codes = s.codes := rfl
@[simp] theorem State.setDw_host (s : State) (c : Nat) (v : DwtCh) : (s.setDw c v).host = s.host := rfl
@[simp] theorem State.setDw_posted (s : State) (c : Nat) (v : DwtCh) : (s.setDw c v).posted = s.posted := rfl
@[simp] theorem State.setDw_readData (s : State) (c : Nat) (v : DwtCh) : (s.setDw c v).readData = s.readData := rfl
@[simp] theorem State.setDw_readPoison (s : State) (c : Nat) (v : DwtCh) : (s.setDw c v).readPoison = s.readPoison := rfl
@[simp] theorem State.setDw_foy (s : State) (c : Nat) (v : DwtCh) : (s.setDw c v).foy = s.foy := rfl
@[simp] theorem State.setDw_err (s : State) (c : Nat) (v : DwtCh) : (s.setDw c v).err = s.err := rfl
@[simp] theorem State.setDw_bell (s : State) (c : Nat) (v : DwtCh) : (s.setDw c v).bell = s.bell := rfl
@[simp] theorem State.setDw_heads (s : State) (c : Nat) (v : DwtCh) : (s.setDw c v).heads = s.heads := rfl
@[simp] theorem State.setDw_ports (s : State) (c : Nat) (v : DwtCh) : (s.setDw c v).ports = s.ports := rfl
@[simp] theorem State.setDw_gl (s : State) (c : Nat) (v : DwtCh) : (s.setDw c v).gl = s.gl := rfl
@[simp] theorem State.setDw_caps (s : State) (c : Nat) (v : DwtCh) : (s.setDw c v).caps = s.caps := rfl
@[simp] theorem State.setDw_psq (s : State) (c : Nat) (v : DwtCh) : (s.setDw c v).psq = s.psq := rfl
@[simp] theorem State.setDw_slotTab (s : State) (c : Nat) (v : DwtCh) : (s.setDw c v).slotTab = s.slotTab := rfl
@[simp] theorem State.setDw_mus (s : State) (c : Nat) (v : DwtCh) : (s.setDw c v).mus = s.mus := rfl
@[simp] theorem State.setDw_rect (s : State) (c : Nat) (v : DwtCh) : (s.setDw c v).rect = s.rect := rfl
@[simp] theorem State.setDw_cores (s : State) (c : Nat) (v : DwtCh) : (s.setDw c v).cores = s.cores := rfl
@[simp] theorem State.setDw_att (s : State) (c : Nat) (v : DwtCh) : (s.setDw c v).att = s.att := rfl
@[simp] theorem State.setDw_chm (s : State) (c : Nat) (v : DwtCh) : (s.setDw c v).chm = s.chm := rfl
@[simp] theorem State.setDw_hal (s : State) (c : Nat) (v : DwtCh) : (s.setDw c v).hal = s.hal := rfl
@[simp] theorem State.setDw_tap (s : State) (c : Nat) (v : DwtCh) : (s.setDw c v).tap = s.tap := rfl
@[simp] theorem State.setDw_test (s : State) (c : Nat) (v : DwtCh) : (s.setDw c v).test = s.test := rfl
@[simp] theorem State.setDw_pwrLow (s : State) (c : Nat) (v : DwtCh) : (s.setDw c v).pwrLow = s.pwrLow := rfl
@[simp] theorem State.setDw_free (s : State) (c : Nat) (v : DwtCh) : (s.setDw c v).free = s.free := rfl
@[simp] theorem State.setDw_pending (s : State) (c : Nat) (v : DwtCh) : (s.setDw c v).pending = s.pending := rfl

/-! ## `State.setPsqCh` -/

@[simp] theorem State.setPsqCh_phase (s : State) (i : Nat) (v : PsqCh) : (s.setPsqCh i v).phase = s.phase := rfl
@[simp] theorem State.setPsqCh_regs (s : State) (i : Nat) (v : PsqCh) : (s.setPsqCh i v).regs = s.regs := rfl
@[simp] theorem State.setPsqCh_wide (s : State) (i : Nat) (v : PsqCh) : (s.setPsqCh i v).wide = s.wide := rfl
@[simp] theorem State.setPsqCh_com (s : State) (i : Nat) (v : PsqCh) : (s.setPsqCh i v).com = s.com := rfl
@[simp] theorem State.setPsqCh_mem (s : State) (i : Nat) (v : PsqCh) : (s.setPsqCh i v).mem = s.mem := rfl
@[simp] theorem State.setPsqCh_codes (s : State) (i : Nat) (v : PsqCh) : (s.setPsqCh i v).codes = s.codes := rfl
@[simp] theorem State.setPsqCh_host (s : State) (i : Nat) (v : PsqCh) : (s.setPsqCh i v).host = s.host := rfl
@[simp] theorem State.setPsqCh_posted (s : State) (i : Nat) (v : PsqCh) : (s.setPsqCh i v).posted = s.posted := rfl
@[simp] theorem State.setPsqCh_readData (s : State) (i : Nat) (v : PsqCh) : (s.setPsqCh i v).readData = s.readData := rfl
@[simp] theorem State.setPsqCh_readPoison (s : State) (i : Nat) (v : PsqCh) : (s.setPsqCh i v).readPoison = s.readPoison := rfl
@[simp] theorem State.setPsqCh_foy (s : State) (i : Nat) (v : PsqCh) : (s.setPsqCh i v).foy = s.foy := rfl
@[simp] theorem State.setPsqCh_err (s : State) (i : Nat) (v : PsqCh) : (s.setPsqCh i v).err = s.err := rfl
@[simp] theorem State.setPsqCh_bell (s : State) (i : Nat) (v : PsqCh) : (s.setPsqCh i v).bell = s.bell := rfl
@[simp] theorem State.setPsqCh_heads (s : State) (i : Nat) (v : PsqCh) : (s.setPsqCh i v).heads = s.heads := rfl
@[simp] theorem State.setPsqCh_ports (s : State) (i : Nat) (v : PsqCh) : (s.setPsqCh i v).ports = s.ports := rfl
@[simp] theorem State.setPsqCh_gl (s : State) (i : Nat) (v : PsqCh) : (s.setPsqCh i v).gl = s.gl := rfl
@[simp] theorem State.setPsqCh_dwt (s : State) (i : Nat) (v : PsqCh) : (s.setPsqCh i v).dwt = s.dwt := rfl
@[simp] theorem State.setPsqCh_caps (s : State) (i : Nat) (v : PsqCh) : (s.setPsqCh i v).caps = s.caps := rfl
@[simp] theorem State.setPsqCh_slotTab (s : State) (i : Nat) (v : PsqCh) : (s.setPsqCh i v).slotTab = s.slotTab := rfl
@[simp] theorem State.setPsqCh_mus (s : State) (i : Nat) (v : PsqCh) : (s.setPsqCh i v).mus = s.mus := rfl
@[simp] theorem State.setPsqCh_rect (s : State) (i : Nat) (v : PsqCh) : (s.setPsqCh i v).rect = s.rect := rfl
@[simp] theorem State.setPsqCh_cores (s : State) (i : Nat) (v : PsqCh) : (s.setPsqCh i v).cores = s.cores := rfl
@[simp] theorem State.setPsqCh_att (s : State) (i : Nat) (v : PsqCh) : (s.setPsqCh i v).att = s.att := rfl
@[simp] theorem State.setPsqCh_chm (s : State) (i : Nat) (v : PsqCh) : (s.setPsqCh i v).chm = s.chm := rfl
@[simp] theorem State.setPsqCh_hal (s : State) (i : Nat) (v : PsqCh) : (s.setPsqCh i v).hal = s.hal := rfl
@[simp] theorem State.setPsqCh_tap (s : State) (i : Nat) (v : PsqCh) : (s.setPsqCh i v).tap = s.tap := rfl
@[simp] theorem State.setPsqCh_test (s : State) (i : Nat) (v : PsqCh) : (s.setPsqCh i v).test = s.test := rfl
@[simp] theorem State.setPsqCh_pwrLow (s : State) (i : Nat) (v : PsqCh) : (s.setPsqCh i v).pwrLow = s.pwrLow := rfl
@[simp] theorem State.setPsqCh_free (s : State) (i : Nat) (v : PsqCh) : (s.setPsqCh i v).free = s.free := rfl
@[simp] theorem State.setPsqCh_pending (s : State) (i : Nat) (v : PsqCh) : (s.setPsqCh i v).pending = s.pending := rfl

/-! ## `State.setRect` -/

@[simp] theorem State.setRect_phase (s : State) (e : Nat) (v : RectEng) : (s.setRect e v).phase = s.phase := rfl
@[simp] theorem State.setRect_regs (s : State) (e : Nat) (v : RectEng) : (s.setRect e v).regs = s.regs := rfl
@[simp] theorem State.setRect_wide (s : State) (e : Nat) (v : RectEng) : (s.setRect e v).wide = s.wide := rfl
@[simp] theorem State.setRect_com (s : State) (e : Nat) (v : RectEng) : (s.setRect e v).com = s.com := rfl
@[simp] theorem State.setRect_mem (s : State) (e : Nat) (v : RectEng) : (s.setRect e v).mem = s.mem := rfl
@[simp] theorem State.setRect_codes (s : State) (e : Nat) (v : RectEng) : (s.setRect e v).codes = s.codes := rfl
@[simp] theorem State.setRect_host (s : State) (e : Nat) (v : RectEng) : (s.setRect e v).host = s.host := rfl
@[simp] theorem State.setRect_posted (s : State) (e : Nat) (v : RectEng) : (s.setRect e v).posted = s.posted := rfl
@[simp] theorem State.setRect_readData (s : State) (e : Nat) (v : RectEng) : (s.setRect e v).readData = s.readData := rfl
@[simp] theorem State.setRect_readPoison (s : State) (e : Nat) (v : RectEng) : (s.setRect e v).readPoison = s.readPoison := rfl
@[simp] theorem State.setRect_foy (s : State) (e : Nat) (v : RectEng) : (s.setRect e v).foy = s.foy := rfl
@[simp] theorem State.setRect_err (s : State) (e : Nat) (v : RectEng) : (s.setRect e v).err = s.err := rfl
@[simp] theorem State.setRect_bell (s : State) (e : Nat) (v : RectEng) : (s.setRect e v).bell = s.bell := rfl
@[simp] theorem State.setRect_heads (s : State) (e : Nat) (v : RectEng) : (s.setRect e v).heads = s.heads := rfl
@[simp] theorem State.setRect_ports (s : State) (e : Nat) (v : RectEng) : (s.setRect e v).ports = s.ports := rfl
@[simp] theorem State.setRect_gl (s : State) (e : Nat) (v : RectEng) : (s.setRect e v).gl = s.gl := rfl
@[simp] theorem State.setRect_dwt (s : State) (e : Nat) (v : RectEng) : (s.setRect e v).dwt = s.dwt := rfl
@[simp] theorem State.setRect_caps (s : State) (e : Nat) (v : RectEng) : (s.setRect e v).caps = s.caps := rfl
@[simp] theorem State.setRect_psq (s : State) (e : Nat) (v : RectEng) : (s.setRect e v).psq = s.psq := rfl
@[simp] theorem State.setRect_slotTab (s : State) (e : Nat) (v : RectEng) : (s.setRect e v).slotTab = s.slotTab := rfl
@[simp] theorem State.setRect_mus (s : State) (e : Nat) (v : RectEng) : (s.setRect e v).mus = s.mus := rfl
@[simp] theorem State.setRect_cores (s : State) (e : Nat) (v : RectEng) : (s.setRect e v).cores = s.cores := rfl
@[simp] theorem State.setRect_att (s : State) (e : Nat) (v : RectEng) : (s.setRect e v).att = s.att := rfl
@[simp] theorem State.setRect_chm (s : State) (e : Nat) (v : RectEng) : (s.setRect e v).chm = s.chm := rfl
@[simp] theorem State.setRect_hal (s : State) (e : Nat) (v : RectEng) : (s.setRect e v).hal = s.hal := rfl
@[simp] theorem State.setRect_tap (s : State) (e : Nat) (v : RectEng) : (s.setRect e v).tap = s.tap := rfl
@[simp] theorem State.setRect_test (s : State) (e : Nat) (v : RectEng) : (s.setRect e v).test = s.test := rfl
@[simp] theorem State.setRect_pwrLow (s : State) (e : Nat) (v : RectEng) : (s.setRect e v).pwrLow = s.pwrLow := rfl
@[simp] theorem State.setRect_free (s : State) (e : Nat) (v : RectEng) : (s.setRect e v).free = s.free := rfl
@[simp] theorem State.setRect_pending (s : State) (e : Nat) (v : RectEng) : (s.setRect e v).pending = s.pending := rfl

/-! ## `State.setCore` -/

@[simp] theorem State.setCore_phase (s : State) (n : Nat) (v : Core) : (s.setCore n v).phase = s.phase := rfl
@[simp] theorem State.setCore_regs (s : State) (n : Nat) (v : Core) : (s.setCore n v).regs = s.regs := rfl
@[simp] theorem State.setCore_wide (s : State) (n : Nat) (v : Core) : (s.setCore n v).wide = s.wide := rfl
@[simp] theorem State.setCore_com (s : State) (n : Nat) (v : Core) : (s.setCore n v).com = s.com := rfl
@[simp] theorem State.setCore_mem (s : State) (n : Nat) (v : Core) : (s.setCore n v).mem = s.mem := rfl
@[simp] theorem State.setCore_codes (s : State) (n : Nat) (v : Core) : (s.setCore n v).codes = s.codes := rfl
@[simp] theorem State.setCore_host (s : State) (n : Nat) (v : Core) : (s.setCore n v).host = s.host := rfl
@[simp] theorem State.setCore_posted (s : State) (n : Nat) (v : Core) : (s.setCore n v).posted = s.posted := rfl
@[simp] theorem State.setCore_readData (s : State) (n : Nat) (v : Core) : (s.setCore n v).readData = s.readData := rfl
@[simp] theorem State.setCore_readPoison (s : State) (n : Nat) (v : Core) : (s.setCore n v).readPoison = s.readPoison := rfl
@[simp] theorem State.setCore_foy (s : State) (n : Nat) (v : Core) : (s.setCore n v).foy = s.foy := rfl
@[simp] theorem State.setCore_err (s : State) (n : Nat) (v : Core) : (s.setCore n v).err = s.err := rfl
@[simp] theorem State.setCore_bell (s : State) (n : Nat) (v : Core) : (s.setCore n v).bell = s.bell := rfl
@[simp] theorem State.setCore_heads (s : State) (n : Nat) (v : Core) : (s.setCore n v).heads = s.heads := rfl
@[simp] theorem State.setCore_ports (s : State) (n : Nat) (v : Core) : (s.setCore n v).ports = s.ports := rfl
@[simp] theorem State.setCore_gl (s : State) (n : Nat) (v : Core) : (s.setCore n v).gl = s.gl := rfl
@[simp] theorem State.setCore_dwt (s : State) (n : Nat) (v : Core) : (s.setCore n v).dwt = s.dwt := rfl
@[simp] theorem State.setCore_caps (s : State) (n : Nat) (v : Core) : (s.setCore n v).caps = s.caps := rfl
@[simp] theorem State.setCore_psq (s : State) (n : Nat) (v : Core) : (s.setCore n v).psq = s.psq := rfl
@[simp] theorem State.setCore_slotTab (s : State) (n : Nat) (v : Core) : (s.setCore n v).slotTab = s.slotTab := rfl
@[simp] theorem State.setCore_mus (s : State) (n : Nat) (v : Core) : (s.setCore n v).mus = s.mus := rfl
@[simp] theorem State.setCore_rect (s : State) (n : Nat) (v : Core) : (s.setCore n v).rect = s.rect := rfl
@[simp] theorem State.setCore_att (s : State) (n : Nat) (v : Core) : (s.setCore n v).att = s.att := rfl
@[simp] theorem State.setCore_chm (s : State) (n : Nat) (v : Core) : (s.setCore n v).chm = s.chm := rfl
@[simp] theorem State.setCore_hal (s : State) (n : Nat) (v : Core) : (s.setCore n v).hal = s.hal := rfl
@[simp] theorem State.setCore_tap (s : State) (n : Nat) (v : Core) : (s.setCore n v).tap = s.tap := rfl
@[simp] theorem State.setCore_test (s : State) (n : Nat) (v : Core) : (s.setCore n v).test = s.test := rfl
@[simp] theorem State.setCore_pwrLow (s : State) (n : Nat) (v : Core) : (s.setCore n v).pwrLow = s.pwrLow := rfl
@[simp] theorem State.setCore_free (s : State) (n : Nat) (v : Core) : (s.setCore n v).free = s.free := rfl
@[simp] theorem State.setCore_pending (s : State) (n : Nat) (v : Core) : (s.setCore n v).pending = s.pending := rfl

/-! ## `State.setOpens` -/

@[simp] theorem State.setOpens_phase (s : State) (l : List Open) : (s.setOpens l).phase = s.phase := rfl
@[simp] theorem State.setOpens_wide (s : State) (l : List Open) : (s.setOpens l).wide = s.wide := rfl
@[simp] theorem State.setOpens_com (s : State) (l : List Open) : (s.setOpens l).com = s.com := rfl
@[simp] theorem State.setOpens_mem (s : State) (l : List Open) : (s.setOpens l).mem = s.mem := rfl
@[simp] theorem State.setOpens_codes (s : State) (l : List Open) : (s.setOpens l).codes = s.codes := rfl
@[simp] theorem State.setOpens_host (s : State) (l : List Open) : (s.setOpens l).host = s.host := rfl
@[simp] theorem State.setOpens_posted (s : State) (l : List Open) : (s.setOpens l).posted = s.posted := rfl
@[simp] theorem State.setOpens_readData (s : State) (l : List Open) : (s.setOpens l).readData = s.readData := rfl
@[simp] theorem State.setOpens_readPoison (s : State) (l : List Open) : (s.setOpens l).readPoison = s.readPoison := rfl
@[simp] theorem State.setOpens_err (s : State) (l : List Open) : (s.setOpens l).err = s.err := rfl
@[simp] theorem State.setOpens_bell (s : State) (l : List Open) : (s.setOpens l).bell = s.bell := rfl
@[simp] theorem State.setOpens_heads (s : State) (l : List Open) : (s.setOpens l).heads = s.heads := rfl
@[simp] theorem State.setOpens_ports (s : State) (l : List Open) : (s.setOpens l).ports = s.ports := rfl
@[simp] theorem State.setOpens_gl (s : State) (l : List Open) : (s.setOpens l).gl = s.gl := rfl
@[simp] theorem State.setOpens_dwt (s : State) (l : List Open) : (s.setOpens l).dwt = s.dwt := rfl
@[simp] theorem State.setOpens_caps (s : State) (l : List Open) : (s.setOpens l).caps = s.caps := rfl
@[simp] theorem State.setOpens_psq (s : State) (l : List Open) : (s.setOpens l).psq = s.psq := rfl
@[simp] theorem State.setOpens_slotTab (s : State) (l : List Open) : (s.setOpens l).slotTab = s.slotTab := rfl
@[simp] theorem State.setOpens_mus (s : State) (l : List Open) : (s.setOpens l).mus = s.mus := rfl
@[simp] theorem State.setOpens_rect (s : State) (l : List Open) : (s.setOpens l).rect = s.rect := rfl
@[simp] theorem State.setOpens_cores (s : State) (l : List Open) : (s.setOpens l).cores = s.cores := rfl
@[simp] theorem State.setOpens_att (s : State) (l : List Open) : (s.setOpens l).att = s.att := rfl
@[simp] theorem State.setOpens_chm (s : State) (l : List Open) : (s.setOpens l).chm = s.chm := rfl
@[simp] theorem State.setOpens_hal (s : State) (l : List Open) : (s.setOpens l).hal = s.hal := rfl
@[simp] theorem State.setOpens_tap (s : State) (l : List Open) : (s.setOpens l).tap = s.tap := rfl
@[simp] theorem State.setOpens_test (s : State) (l : List Open) : (s.setOpens l).test = s.test := rfl
@[simp] theorem State.setOpens_pwrLow (s : State) (l : List Open) : (s.setOpens l).pwrLow = s.pwrLow := rfl
@[simp] theorem State.setOpens_free (s : State) (l : List Open) : (s.setOpens l).free = s.free := rfl
@[simp] theorem State.setOpens_pending (s : State) (l : List Open) : (s.setOpens l).pending = s.pending := rfl

/-! ## `State.updOpen` -/

@[simp] theorem State.updOpen_phase (s : State) (acc : Nat) (f : Open → Open) : (s.updOpen acc f).phase = s.phase := rfl
@[simp] theorem State.updOpen_regs (s : State) (acc : Nat) (f : Open → Open) : (s.updOpen acc f).regs = s.regs := rfl
@[simp] theorem State.updOpen_wide (s : State) (acc : Nat) (f : Open → Open) : (s.updOpen acc f).wide = s.wide := rfl
@[simp] theorem State.updOpen_com (s : State) (acc : Nat) (f : Open → Open) : (s.updOpen acc f).com = s.com := rfl
@[simp] theorem State.updOpen_mem (s : State) (acc : Nat) (f : Open → Open) : (s.updOpen acc f).mem = s.mem := rfl
@[simp] theorem State.updOpen_codes (s : State) (acc : Nat) (f : Open → Open) : (s.updOpen acc f).codes = s.codes := rfl
@[simp] theorem State.updOpen_host (s : State) (acc : Nat) (f : Open → Open) : (s.updOpen acc f).host = s.host := rfl
@[simp] theorem State.updOpen_posted (s : State) (acc : Nat) (f : Open → Open) : (s.updOpen acc f).posted = s.posted := rfl
@[simp] theorem State.updOpen_readData (s : State) (acc : Nat) (f : Open → Open) : (s.updOpen acc f).readData = s.readData := rfl
@[simp] theorem State.updOpen_readPoison (s : State) (acc : Nat) (f : Open → Open) : (s.updOpen acc f).readPoison = s.readPoison := rfl
@[simp] theorem State.updOpen_err (s : State) (acc : Nat) (f : Open → Open) : (s.updOpen acc f).err = s.err := rfl
@[simp] theorem State.updOpen_bell (s : State) (acc : Nat) (f : Open → Open) : (s.updOpen acc f).bell = s.bell := rfl
@[simp] theorem State.updOpen_heads (s : State) (acc : Nat) (f : Open → Open) : (s.updOpen acc f).heads = s.heads := rfl
@[simp] theorem State.updOpen_ports (s : State) (acc : Nat) (f : Open → Open) : (s.updOpen acc f).ports = s.ports := rfl
@[simp] theorem State.updOpen_gl (s : State) (acc : Nat) (f : Open → Open) : (s.updOpen acc f).gl = s.gl := rfl
@[simp] theorem State.updOpen_dwt (s : State) (acc : Nat) (f : Open → Open) : (s.updOpen acc f).dwt = s.dwt := rfl
@[simp] theorem State.updOpen_caps (s : State) (acc : Nat) (f : Open → Open) : (s.updOpen acc f).caps = s.caps := rfl
@[simp] theorem State.updOpen_psq (s : State) (acc : Nat) (f : Open → Open) : (s.updOpen acc f).psq = s.psq := rfl
@[simp] theorem State.updOpen_slotTab (s : State) (acc : Nat) (f : Open → Open) : (s.updOpen acc f).slotTab = s.slotTab := rfl
@[simp] theorem State.updOpen_mus (s : State) (acc : Nat) (f : Open → Open) : (s.updOpen acc f).mus = s.mus := rfl
@[simp] theorem State.updOpen_rect (s : State) (acc : Nat) (f : Open → Open) : (s.updOpen acc f).rect = s.rect := rfl
@[simp] theorem State.updOpen_cores (s : State) (acc : Nat) (f : Open → Open) : (s.updOpen acc f).cores = s.cores := rfl
@[simp] theorem State.updOpen_att (s : State) (acc : Nat) (f : Open → Open) : (s.updOpen acc f).att = s.att := rfl
@[simp] theorem State.updOpen_chm (s : State) (acc : Nat) (f : Open → Open) : (s.updOpen acc f).chm = s.chm := rfl
@[simp] theorem State.updOpen_hal (s : State) (acc : Nat) (f : Open → Open) : (s.updOpen acc f).hal = s.hal := rfl
@[simp] theorem State.updOpen_tap (s : State) (acc : Nat) (f : Open → Open) : (s.updOpen acc f).tap = s.tap := rfl
@[simp] theorem State.updOpen_test (s : State) (acc : Nat) (f : Open → Open) : (s.updOpen acc f).test = s.test := rfl
@[simp] theorem State.updOpen_pwrLow (s : State) (acc : Nat) (f : Open → Open) : (s.updOpen acc f).pwrLow = s.pwrLow := rfl
@[simp] theorem State.updOpen_free (s : State) (acc : Nat) (f : Open → Open) : (s.updOpen acc f).free = s.free := rfl
@[simp] theorem State.updOpen_pending (s : State) (acc : Nat) (f : Open → Open) : (s.updOpen acc f).pending = s.pending := rfl

/-! ## `State.setFuses` -/

@[simp] theorem State.setFuses_phase (s : State) (f : Fuses) : (s.setFuses f).phase = s.phase := rfl
@[simp] theorem State.setFuses_regs (s : State) (f : Fuses) : (s.setFuses f).regs = s.regs := rfl
@[simp] theorem State.setFuses_wide (s : State) (f : Fuses) : (s.setFuses f).wide = s.wide := rfl
@[simp] theorem State.setFuses_com (s : State) (f : Fuses) : (s.setFuses f).com = s.com := rfl
@[simp] theorem State.setFuses_mem (s : State) (f : Fuses) : (s.setFuses f).mem = s.mem := rfl
@[simp] theorem State.setFuses_codes (s : State) (f : Fuses) : (s.setFuses f).codes = s.codes := rfl
@[simp] theorem State.setFuses_host (s : State) (f : Fuses) : (s.setFuses f).host = s.host := rfl
@[simp] theorem State.setFuses_posted (s : State) (f : Fuses) : (s.setFuses f).posted = s.posted := rfl
@[simp] theorem State.setFuses_readData (s : State) (f : Fuses) : (s.setFuses f).readData = s.readData := rfl
@[simp] theorem State.setFuses_readPoison (s : State) (f : Fuses) : (s.setFuses f).readPoison = s.readPoison := rfl
@[simp] theorem State.setFuses_foy (s : State) (f : Fuses) : (s.setFuses f).foy = s.foy := rfl
@[simp] theorem State.setFuses_err (s : State) (f : Fuses) : (s.setFuses f).err = s.err := rfl
@[simp] theorem State.setFuses_bell (s : State) (f : Fuses) : (s.setFuses f).bell = s.bell := rfl
@[simp] theorem State.setFuses_heads (s : State) (f : Fuses) : (s.setFuses f).heads = s.heads := rfl
@[simp] theorem State.setFuses_ports (s : State) (f : Fuses) : (s.setFuses f).ports = s.ports := rfl
@[simp] theorem State.setFuses_gl (s : State) (f : Fuses) : (s.setFuses f).gl = s.gl := rfl
@[simp] theorem State.setFuses_dwt (s : State) (f : Fuses) : (s.setFuses f).dwt = s.dwt := rfl
@[simp] theorem State.setFuses_caps (s : State) (f : Fuses) : (s.setFuses f).caps = s.caps := rfl
@[simp] theorem State.setFuses_psq (s : State) (f : Fuses) : (s.setFuses f).psq = s.psq := rfl
@[simp] theorem State.setFuses_slotTab (s : State) (f : Fuses) : (s.setFuses f).slotTab = s.slotTab := rfl
@[simp] theorem State.setFuses_mus (s : State) (f : Fuses) : (s.setFuses f).mus = s.mus := rfl
@[simp] theorem State.setFuses_rect (s : State) (f : Fuses) : (s.setFuses f).rect = s.rect := rfl
@[simp] theorem State.setFuses_cores (s : State) (f : Fuses) : (s.setFuses f).cores = s.cores := rfl
@[simp] theorem State.setFuses_chm (s : State) (f : Fuses) : (s.setFuses f).chm = s.chm := rfl
@[simp] theorem State.setFuses_hal (s : State) (f : Fuses) : (s.setFuses f).hal = s.hal := rfl
@[simp] theorem State.setFuses_tap (s : State) (f : Fuses) : (s.setFuses f).tap = s.tap := rfl
@[simp] theorem State.setFuses_test (s : State) (f : Fuses) : (s.setFuses f).test = s.test := rfl
@[simp] theorem State.setFuses_pwrLow (s : State) (f : Fuses) : (s.setFuses f).pwrLow = s.pwrLow := rfl
@[simp] theorem State.setFuses_free (s : State) (f : Fuses) : (s.setFuses f).free = s.free := rfl
@[simp] theorem State.setFuses_pending (s : State) (f : Fuses) : (s.setFuses f).pending = s.pending := rfl

/-! ## `State.answer` -/

@[simp] theorem State.answer_phase (s : State) (ws : List Word) : (s.answer ws).phase = s.phase := rfl
@[simp] theorem State.answer_regs (s : State) (ws : List Word) : (s.answer ws).regs = s.regs := rfl
@[simp] theorem State.answer_wide (s : State) (ws : List Word) : (s.answer ws).wide = s.wide := rfl
@[simp] theorem State.answer_com (s : State) (ws : List Word) : (s.answer ws).com = s.com := rfl
@[simp] theorem State.answer_mem (s : State) (ws : List Word) : (s.answer ws).mem = s.mem := rfl
@[simp] theorem State.answer_codes (s : State) (ws : List Word) : (s.answer ws).codes = s.codes := rfl
@[simp] theorem State.answer_host (s : State) (ws : List Word) : (s.answer ws).host = s.host := rfl
@[simp] theorem State.answer_posted (s : State) (ws : List Word) : (s.answer ws).posted = s.posted := rfl
@[simp] theorem State.answer_foy (s : State) (ws : List Word) : (s.answer ws).foy = s.foy := rfl
@[simp] theorem State.answer_err (s : State) (ws : List Word) : (s.answer ws).err = s.err := rfl
@[simp] theorem State.answer_bell (s : State) (ws : List Word) : (s.answer ws).bell = s.bell := rfl
@[simp] theorem State.answer_heads (s : State) (ws : List Word) : (s.answer ws).heads = s.heads := rfl
@[simp] theorem State.answer_ports (s : State) (ws : List Word) : (s.answer ws).ports = s.ports := rfl
@[simp] theorem State.answer_gl (s : State) (ws : List Word) : (s.answer ws).gl = s.gl := rfl
@[simp] theorem State.answer_dwt (s : State) (ws : List Word) : (s.answer ws).dwt = s.dwt := rfl
@[simp] theorem State.answer_caps (s : State) (ws : List Word) : (s.answer ws).caps = s.caps := rfl
@[simp] theorem State.answer_psq (s : State) (ws : List Word) : (s.answer ws).psq = s.psq := rfl
@[simp] theorem State.answer_slotTab (s : State) (ws : List Word) : (s.answer ws).slotTab = s.slotTab := rfl
@[simp] theorem State.answer_mus (s : State) (ws : List Word) : (s.answer ws).mus = s.mus := rfl
@[simp] theorem State.answer_rect (s : State) (ws : List Word) : (s.answer ws).rect = s.rect := rfl
@[simp] theorem State.answer_cores (s : State) (ws : List Word) : (s.answer ws).cores = s.cores := rfl
@[simp] theorem State.answer_att (s : State) (ws : List Word) : (s.answer ws).att = s.att := rfl
@[simp] theorem State.answer_chm (s : State) (ws : List Word) : (s.answer ws).chm = s.chm := rfl
@[simp] theorem State.answer_hal (s : State) (ws : List Word) : (s.answer ws).hal = s.hal := rfl
@[simp] theorem State.answer_tap (s : State) (ws : List Word) : (s.answer ws).tap = s.tap := rfl
@[simp] theorem State.answer_test (s : State) (ws : List Word) : (s.answer ws).test = s.test := rfl
@[simp] theorem State.answer_pwrLow (s : State) (ws : List Word) : (s.answer ws).pwrLow = s.pwrLow := rfl
@[simp] theorem State.answer_free (s : State) (ws : List Word) : (s.answer ws).free = s.free := rfl
@[simp] theorem State.answer_pending (s : State) (ws : List Word) : (s.answer ws).pending = s.pending := rfl

/-! ## Reads after writes -/

@[simp] theorem State.setReg_reg_same (s : State) (k : Nat) (v : Word) : (s.setReg k v).reg k = v := Tbl.get_set_same _ _ _ _

theorem State.setReg_reg_ne (s : State) {k k' : Nat} (v : Word) (h : k' ≠ k) : (s.setReg k v).reg k' = s.reg k' := Tbl.get_set_ne _ _ _ (Ne.symm h)

@[simp] theorem State.setW64_w64_same (s : State) (k : Nat) (v : DWord) : (s.setW64 k v).w64 k = v := Tbl.get_set_same _ _ _ _

theorem State.setW64_w64_ne (s : State) {k k' : Nat} (v : DWord) (h : k' ≠ k) : (s.setW64 k v).w64 k' = s.w64 k' := Tbl.get_set_ne _ _ _ (Ne.symm h)

@[simp] theorem State.setByte_byte_same (s : State) (a : Nat) (b : Byte) : (s.setByte a b).byte a = b := Tbl.get_set_same _ _ _ _

theorem State.setByte_byte_ne (s : State) {a a' : Nat} (b : Byte) (h : a' ≠ a) : (s.setByte a b).byte a' = s.byte a' := Tbl.get_set_ne _ _ _ (Ne.symm h)

@[simp] theorem State.setCm_cm_same (s : State) (h o : Nat) (v : Word) : (s.setCm h o v).cm h o = v := by
  unfold State.cm State.setCm
  exact Tbl.get_set_same _ _ _ _

@[simp] theorem State.setHead_head_same (s : State) (h : Nat) (v : Head) : (s.setHead h v).head h = v := Tbl.get_set_same _ _ _ _

@[simp] theorem State.setReg_w64 (s : State) (k k' : Nat) (v : Word) : (s.setReg k v).w64 k' = s.w64 k' := rfl

@[simp] theorem State.setW64_reg (s : State) (k k' : Nat) (v : DWord) : (s.setW64 k v).reg k' = s.reg k' := rfl

@[simp] theorem State.setReg_byte (s : State) (k a : Nat) (v : Word) : (s.setReg k v).byte a = s.byte a := rfl

@[simp] theorem State.setW64_byte (s : State) (k a : Nat) (v : DWord) : (s.setW64 k v).byte a = s.byte a := rfl

@[simp] theorem State.setByte_reg (s : State) (k a : Nat) (b : Byte) : (s.setByte a b).reg k = s.reg k := rfl

end Sys2Proof.Machine
end

