-- ==== Sys2Proof/Tests/Slice0.lean ====
section
/-! SUPPORT. Tests: ill-formed commands that the checks refuse, single steps on small states, and for every statement with hypotheses a state and operands that meet them, clause by clause.  Expected results are those of the rule a test names. -/

set_option linter.all false
set_option Elab.async false

namespace Sys2Proof.Tests

open Sys2Proof.Machine

/-! ## Small states -/

/-- Registers set one after another. -/
def put (s : State) (l : List (Nat × Word)) : State := l.foldl (fun s e => s.setReg e.1 e.2) s

/-- A powered device after READY: every feature active, ring 0 and the instance ring 16 running with words waiting, one Cellar channel of 4 GiB with the regions 0 (host, 1 MiB at 0) and 1 (the Dumbwaiter's, FILLING, 1 MiB at 1 MiB), the Pantry regions 0 (open) and 1 (sealed), and the Larder region 2; the round of the rings stands at SR0. -/
def w0 : State := put { State.reset with phase := .run, foy := { State.reset.foy with round := 2 } }
  [(4, 1), (0x160, 0xFFFFFFFF),
   (kSqTail 0, 1000), (kRingStat 0, 0x80000000), (kRingCfg 0, 0x80000000),
   (kSqTail 16, 1000), (kRingStat 16, 0x80000000), (kRingCfg 16, 0x80000000),
   (kCEL + 0x80, 0x01000004),
   (kReg 0 + 8, 0x100000), (kReg 0 + 0x10, 0x8000FF00), (kReg 0 + 0x14, 0x80000000),
   (kReg 1, 0x100000), (kReg 1 + 8, 0x100000), (kReg 1 + 0x10, 0x80000900), (kReg 1 + 0x14, 0x40000000),
   (kPR 0 + 4, 0x10000), (kPR 0 + 8, 0x80000000),
   (kPR 1, 0x10000), (kPR 1 + 4, 0x1000), (kPR 1 + 8, 0xC0000000),
   (kPR 2, 0x4000000), (kPR 2 + 4, 0x1000), (kPR 2 + 8, 0x82000000)]

/-- The round of the rings stands at SR16. -/
def r16 (s : State) : State := { s with foy := { s.foy with round := 0 } }

/-- The first packet of a ring, with TAG 7, no flags and the given parameter words. -/
def pk (ring : Fin 18) (ps : List Word) : Packet := ⟨ring, false, false, false, false, BitVec.ofNat 12 (4 + ps.length), 0, 7, ps⟩

/-- Are the fields of `Fetches` met? -/
def fetchesB (s : State) (op : Op) (p : Packet) : Bool :=
  decide (s.nextRing = some p.ring.val) && s.foy.opens.isEmpty && decide (p.seq = s.w64 (kAccepted p.ring.val) + 1) && decide (p.seq.toNat < 2 ^ 63) &&
  decide (p.p.length + 4 = p.len.toNat) && decide (p.len.toNat ≤ s.sqAvail p.ring.val) && decide (p.len.toNat ≤ s.sqWords p.ring.val) &&
  (Tbl.get (fun _ => none) s.foy.pass p.ring.val).isNone && s.att.down.all (fun n => !served n op)

/-- Are those of `Takes`? -/
def takesB (s : State) (op : Op) (p : Packet) : Bool :=
  fetchesB s op p && (decodeFault op p).isNone && ((opInfo op).feature.all fun k => (s.opened op p).hasFeat k)

theorem fetches_of {s : State} {op : Op} {p : Packet} (h : fetchesB s op p = true) : Fetches s op p := by
  simp only [fetchesB, Bool.and_eq_true, decide_eq_true_eq, List.isEmpty_iff, Option.isNone_iff_eq_none, List.all_eq_true, Bool.not_eq_true'] at h
  obtain ⟨⟨⟨⟨⟨⟨⟨⟨h1, h2⟩, h3⟩, h4⟩, h5⟩, h6⟩, h7⟩, h8⟩, h9⟩ := h
  exact ⟨h1, h2, h3, h4, h5, h6, h7, fun q hq => by simp [h8] at hq, h9⟩

theorem takes_of {s : State} {op : Op} {p : Packet} (h : takesB s op p = true) : Takes s op p := by
  simp only [takesB, Bool.and_eq_true, Option.isNone_iff_eq_none] at h
  obtain ⟨⟨h1, h2⟩, h3⟩ := h
  exact { fetches_of h1 with header := h2, feature := fun k hk => by simpa [hk] using h3 }

/-- The bytes of a read that succeeded. -/
def okOf (r : Rd × State) : List Byte := match r.1 with | .ok b => b | _ => []

/-- Head 0 is enabled and shows a frame. -/
def hd0 : State := w0.updHead 0 fun v => { v with enabled := true, phase := .frame }

/-- Head 0 holds a valid set of 64 × 16 pixels and is not enabled. -/
def tm0 : State := put w0 [(0x100000, 64), (0x100004, 16), (0x100008, 16), (0x100010, 16), (0x100014, 4), (0x100018, 4), (0x100020, 25000), (0x10008C, 0)]

/-- Head 0 stands staged in canvas 0. -/
def cv0 : State := put hd0 [(0x100060, 0x80000000)]

/-- DMA channel 0 runs with the given descriptor and next address. -/
def dw0 (d : List Word) (f : Option Nat) : State := (put w0 [(kDw 0 + 4, 0x80000000)]).setDw 0 ⟨d, f, false, 0⟩

/-- Voice 0 plays, or is armed. -/
def vc0 (play : Bool) : State := put w0 [(kVstat 0, if play then 0x80000000 else 0x40000000)]

/-- The staged program holds node 1. -/
def mx0 : State := { w0 with mus := { w0.mus with staged := ⟨[0x3143474D, 1, 0, 0], [[1, 0, 0, 0, 0, 0, 0, 0, 0, 0, 0, 0, 0, 0, 0, 0]]⟩ } }

/-- Pin sequencer channel 0 runs with an empty latch, or stands. -/
def ps0 (run : Bool) : State := put w0 [(kPc 0, if run then 0x80000000 else 0), (kErun 0, if run then 1 else 0), (kBank 0, 0x20000000)]

/-- An image of one program word stands at address 0. -/
def nl0 : State := w0.setBytes 0 [0x4E, 0x49, 0x4F, 0x31, 1]

/-- Core 4 is loaded with 16 words, and stands or runs. -/
def nr (run : Bool) : State :=
  (put w0 [(kCstat 4, if run then 0xA0000000 else 0x20000000), (kNrun, if run then 0x1F else 0xF)]).updCore 4 fun c => { c with pwords := 16 }

/-- One receipt batch of 224 bytes is closed. -/
def rb0 : State := (put w0 [(kBatchNew, 0), (kBatchOld, 0), (kReg 62, 0x200000), (kReg 62 + 8, 0x100000), (kReg 62 + 0x10, 0x80000D00), (kReg 62 + 0x14, 0x80000000)]).setBytes 0x200008 [224]

/-- Compare 63 is armed. -/
def cmp63 : State := put w0 [(kCmpArmed 63, 0x80000000)]

/-- Source i pends, or is active, with priority 8 and target t. -/
def sr (i t : Nat) (act : Bool) : State :=
  { w0 with bell := { w0.bell with srcs := [(i, ⟨!act, act, false⟩)], plan := [(i, wd (t * 256 + 8))] } }

/-- Compare and capture channels hold something: one capture in channel 31. -/
def cap31 : State := { w0 with caps := [(31, ⟨[⟨7, 1, 2, 3, true⟩], 0⟩)] }

/-- Channel 127 of the pin sequencers with words in its FIFOs. -/
def fq127 (f s : List Word) : State := { w0 with psq := [(127, { psqInit with fq := f, sq := s })] }

/-- A unit under expert control. -/
def ex (u : Nat) : State := w0.setExpert u true

/-- A window base. -/
def wb (b : Word) : State := put w0 [(0x18, b)]

/-- Head 31 under expert control, with a commit that waits, or one that is late. -/
def go31 : State := put (ex 0x2F) [(kHD 31 + 0x40, 1)]

/-- Rect engine 3 under expert control, with a fill of 16 × 16 pixels. -/
def rc3 : State := put (ex 10) [(kRct 3 + 0xC, 0x100), (kRct 3 + 0x1C, 0x00100010)]

/-- Head 31 under expert control and in its boundary, with the compatibility rules in its committed set. -/
def late31 : State := ((ex 0x2F).setCm 31 0x24 1).updHead 31 fun v => { v with phase := .boundary }

/-- Head 31 shows a frame of 64 × 16 pixels in 96 × 24 with its output at (x, y); registers of its committed set and of its page, and its record, may be changed. -/
def fr (x y : Nat) (cm : List (Nat × Word)) (hd : List (Nat × Word)) (f : Head → Head) : State :=
  (put ((([(0x00, 64), (0x04, 16), (0x08, 16), (0x10, 16), (0x14, 4), (0x18, 4), (0x20, 25000)] : List (Nat × Word)) ++ cm).foldl
    (fun s e => s.setCm 31 e.1 e.2) w0) (hd.map fun e => (kHD 31 + e.1, e.2))).updHead 31 fun v => f { v with enabled := true, phase := .frame, x := x, y := y }

/-- A beam program at the start of the Pantry that runs from entry 0 at the output position (0, 16). -/
def bp (es : List Nat) : State :=
  (fr 0 16 [(0x904, 0x80), (0x908, wd es.length)] [(0x910, 0x80000000)] fun v => { v with bs := bsInit }).setBytes aPantry (es.flatMap (leBytes 8))

/-- The operations SKIPIF, JUMP, IRQ, STAMP, MOVE, MOVEM, WAIT, WAITX and FENCE one after another. -/
def bpAll : State := bp [5 * 2 ^ 60, 6 * 2 ^ 60 + 2 ^ 58, 7 * 2 ^ 60, 8 * 2 ^ 60, 3 * 2 ^ 60 + 0x918 * 2 ^ 32, 4 * 2 ^ 60 + 0x918 * 2 ^ 32, 0,
  1 * 2 ^ 60 + 16 * 2 ^ 16, 2 * 2 ^ 60 + 2 ^ 31, 9 * 2 ^ 60]

/-- The same program, with its first line in the buffer. -/
def be (es : List Nat) : State := (bp es).updBs 31 fun b => { b with bufs := [(0, some (es.flatMap (leBytes 8)))] }

/-- A begun command that waits for something. -/
def opn (w : Wait) : Open :=
  { acc := 0, idx := 0, pkt := pk 0 [], op := .nop, feat := 0, replay := false, begun := true, wait := w, fin := none, ftime := none, dups := [] }

/-- It is the only open command. -/
def op0 (w : Wait) : State := { w0 with foy := { w0.foy with opens := [opn w] } }

/-- The device has booted. -/
def bt0 : State := put w0 [(kBootStat, 2 ^ bDone)]

/-- Core 15 runs with the given words at program word 0. -/
def ni (ws : List Nat) (f : Core → Core) : State :=
  (put w0 [(kNrun, 0x800F)]).updCore 15 fun c => f { c with prog := ws.zipIdx.map fun e => (e.2, e.1) }

/-- Are the fields of `Stands` met? -/
def standsB (s : State) (n : Fin 16) (i : NInstr) : Bool :=
  s.live && s.nioReady n.val && decide ((s.core n.val).rep = 0) && (List.range 3).all (fun j => decide ((s.core n.val).wordCode (s.pc n.val + j) = .good)) &&
    decide (nDecode ((s.nioWords n.val).getD 0 0) ((s.nioWords n.val).getD 1 0) ((s.nioWords n.val).getD 2 0) = some i)

theorem stands_of {s : State} {n : Fin 16} {i : NInstr} (h : standsB s n i = true) : Stands s n i := by
  simp only [standsB, Bool.and_eq_true, decide_eq_true_eq, List.all_eq_true, List.mem_range] at h
  obtain ⟨⟨⟨⟨h1, h2⟩, h3⟩, h4⟩, h5⟩ := h
  exact ⟨h1, h2, h3, h4, h5⟩

theorem local_of {s : State} {n a : Nat} (h : (decide (a < 0x10000) && decide ((s.core n).dataCode a = .good)) = true) : s.localOk n a := by
  simpa [State.localOk] using h

/-- The state after a step that answers one. -/
def nextOf (s : State) : State := match step s with | .next t => t | _ => s

theorem next_of {s : State} (h : (match step s with | .next _ => true | _ => false) = true) : step s = .next (nextOf s) := by
  unfold nextOf
  cases h' : step s <;> simp_all

/-- Core 15 about to enter a trap: its state, with the context pushed, and with its handler fetched. -/
def ne0 : State := ni [5] (fun c => { c with w := [(15, 4)] })
def ne1 : State := (ne0.dataWrite 15 0 4 (ctxWord 0 0 9)).getD ne0
def ne2 : State := ((((ne1.updCore 15 fun c => { (c.setReg 15 0) with due := 0, rep := 0 }).setB (kCstat 15) 30 false).setIpl 15 15).nioVector 15 0).2

/-- Booted, before READY. -/
def bo0 : State := { State.reset with phase := .boot }

/-- A DIMM of 16 GiB that trains, and a sample of the Chimney. -/
def dim0 : Dimm := ⟨16, 1, true, true, 64, true⟩
def smp0 : Sample := ⟨List.replicate 12 0x0100, [], [], 0, 750⟩

/-- Are the fields of `Scans` met? -/
def scansB (s : State) (h : Nat) : Bool :=
  s.full && decide ((s.head h).phase = .frame) && !s.gliding h && decide (s.place' h + 1 < frameLen (s.cmSet h))

theorem scans_of {s : State} {h : Nat} (w : scansB s h = true) : Scans s h := by
  simp only [scansB, Bool.and_eq_true, decide_eq_true_eq, Bool.not_eq_true'] at w
  obtain ⟨⟨⟨h1, h2⟩, h3⟩, h4⟩ := w
  exact ⟨h1, h2, h3, h4⟩

/-- Are those of `Executes`? -/
def executesB (s : State) (h i e : Nat) (fl : List Nat) : Bool :=
  let u := s.seqAt h
  let b := (u.head h).bs
  scansB s h && u.bsRun h && decide (b.hold = .none) && decide (b.pc = i) && decide (b.pix (s.cmSet h) b.clk ≤ s.nextPlace h) && u.bsHeld h (i / 8) &&
    decide (u.bsEnt h i = some e) && decide (i + entData e < fld (s.cm h 0x908) 0 16) && decide ((i + entData e) / 8 = i / 8) &&
    decide (((List.range (entData e)).map fun k => u.bsEnt h (i + 1 + k)) = fl.map some) &&
    decide (entCause (fld (s.cm h 0x908) 0 16) i e (fun _ => false) (some fl) = 0)

theorem executes_of {s : State} {h i e : Nat} {fl : List Nat} (w : executesB s h i e fl = true) : Executes s h i e fl := by
  simp only [executesB, Bool.and_eq_true, decide_eq_true_eq] at w
  obtain ⟨⟨⟨⟨⟨⟨⟨⟨⟨⟨h0, h1⟩, h2⟩, h3⟩, h4⟩, h5⟩, h6⟩, h7⟩, h8⟩, h9⟩, h10⟩ := w
  exact { scans_of h0 with run := h1, free := h2, pc := h3, due := h4, held := h5, word := h6, inside := h7, line := h8, data := h9, sound := h10 }

/-- Are those of `Slots`? -/
def slotsB (s : State) (e : Fin 4) (k : Fin 64) (i pc : Nat) (w : Word) : Bool :=
  let ent := (s.slotted e.val k.val).slotEntry e.val k.val
  let v := s.psqCh i
  s.live && decide (ent / 128 % 2 = 1 ∧ i = 32 * e.val + ent % 32) && s.psqRun i &&
    decide ((v.starting = false ∧ v.stopping = false ∧ v.cfgNew = false) ∧ v.inj = [] ∧ v.ahead = none ∧ v.latch = none) &&
    decide (s.regF (kPc i) 8 6 = pc) && decide (s.reg (kPw i pc) = w) && psqLegal w

theorem slots_of {s : State} {e : Fin 4} {k : Fin 64} {i pc : Nat} {w : Word} (x : slotsB s e k i pc w = true) : Slots s e k i pc w := by
  simp only [slotsB, Bool.and_eq_true, decide_eq_true_eq] at x
  obtain ⟨⟨⟨⟨⟨⟨h0, h1⟩, h2⟩, h3⟩, h4⟩, h5⟩, h6⟩ := x
  exact { live := h0, named := ⟨_, rfl, h1⟩, run := h2, calm := h3.1, alone := h3.2, stands := h4, word := h5, legal := h6 }

/-- A place that lies in no Cellar region. -/
theorem no_cellar {p : Place} {P : Nat → Prop} (w : (match p with | .cellar _ => false | _ => true) = true) : ∀ r, p = .cellar r → P r := by
  intro r h; simp [h] at w

/-- A running channel 127, the slot 63 of engine 3, with an instruction at its PC, words in its FIFOs and further registers. -/
def sl (w : Word) (f q : List Word) (more : List (Nat × Word)) : State :=
  { put w0 ([(kPc 127, 0x80000000), (kPw 127 0, w)] ++ more) with psq := [(127, { psqInit with fq := f, sq := q })] }

/-! ## Ill-formed commands are refused -/

/-- A packet whose words are fewer than its LEN counts. -/
def shortPk : Packet := { pk 0 [0] with len := 6 }

/-- R57: a packet of the wrong number of words is not well formed, for a row of each shape. -/
theorem test_wf_packet_length : (Instr.nop shortPk).wf = false ∧ (Instr.clockPolicy shortPk).wf = false ∧ (Instr.unknownOpcodePacket 0x0FFF shortPk).wf = false ∧
    (Instr.nop (pk 0 [])).wf = true := by decide

/-- The forms of one opcode are told apart by their form bits: each row refuses the packet of another form. -/
theorem test_wf_forms :
    (Instr.memRegionSet (pk 0 [0x80000000, 0, 0, 0, 0, 0])).wf = false ∧ (Instr.memRegionSetPantry (pk 0 [0, 0, 0, 0, 0, 0])).wf = false ∧
    (Instr.spriteTable (pk 0 [0x100, 0, 0, 0])).wf = false ∧ (Instr.spriteTableCanvas (pk 0 [0, 0, 0, 0])).wf = false ∧
    (Instr.routeSet (pk 0 [0x100, 0])).wf = false ∧ (Instr.routeSetGenlock (pk 0 [0, 0])).wf = false ∧
    (Instr.mantelSet (pk 16 [0])).wf = false ∧ (Instr.mantelSet (pk 16 [0x80000400])).wf = false ∧
    (Instr.mantelSetFields (pk 16 [0x80000000])).wf = false ∧ (Instr.mantelSetFields (pk 16 [0x400])).wf = false ∧ (Instr.mantelSetDisable (pk 16 [0x80000000])).wf = false ∧
    (Instr.audioPortSet (pk 0 [0x100, 0])).wf = false ∧ (Instr.audioPortSet (pk 0 [0x200, 0])).wf = false ∧
    (Instr.audioPortSetDp (pk 0 [0, 0])).wf = false ∧ (Instr.audioPortSetDp (pk 0 [0x300, 0])).wf = false ∧
    (Instr.audioPortSetClock (pk 0 [0, 0])).wf = false ∧ (Instr.audioPortSetClock (pk 0 [0x300, 0])).wf = false := by decide

theorem test_wf_pinseq_forms :
    (Instr.pinseqLoad (pk 0 [0x01000000, 0])).wf = false ∧ (Instr.pinseqLoad (pk 0 [0x02000000, 0])).wf = false ∧
    (Instr.pinseqLoadSlot (pk 0 [0, 0])).wf = false ∧ (Instr.pinseqLoadSlot (pk 0 [0x03000000, 0])).wf = false ∧
    (Instr.pinseqLoadConfig (pk 0 [0, 0])).wf = false ∧ (Instr.pinseqLoadConfig (pk 0 [0x03000000, 0])).wf = false ∧
    (Instr.pinseqLoadInject (pk 0 [0x01000000, 0])).wf = false ∧ (Instr.pinseqLoadInject (pk 0 [0x02000000, 0])).wf = false := by decide

/-- A code of R65 is not an unknown opcode. -/
theorem test_wf_unknown_opcode : (Instr.unknownOpcodePacket 0x0083 (pk 0 [])).wf = false ∧ (Instr.unknownOpcodePacket 0x0007 (pk 0 [])).wf = true := by decide

/-- BAR2 accesses lie inside the window and move a byte at least (R41). -/
theorem test_wf_bar2 : (Instr.bar2Read 0 0).wf = false ∧ (Instr.bar2Read 0xFFFFFFF 2).wf = false ∧ (Instr.bar2Read 0xFFFFFFF 1).wf = true ∧
    (Instr.bar2Write 0 []).wf = false ∧ (Instr.bar2Write 0xFFFFFFF [1, 2]).wf = false := by decide +kernel

/-- A training result names one of the fifteen candidates of R251. -/
theorem test_wf_training : (Instr.linkTrainingDone 0 ⟨some 15, 0, false, 0, 0, 0, 0, 0, false⟩).wf = false ∧ (Instr.linkTrainingDone 0 ⟨none, 0, false, 0, 0, 0, 0, 0, false⟩).wf = true := by decide

/-- At most sixteen samples arrive on a TDM port. -/
theorem test_wf_samples : (Instr.sampleBoundary (List.replicate 17 0, []) []).wf = false ∧ (Instr.sampleBoundary ([], List.replicate 17 0) []).wf = false ∧
    (Instr.sampleBoundary (List.replicate 16 0, []) [0]).wf = true := by decide

/-- A boot flash is listed in rising order and without empty ranges. -/
theorem test_wf_flash : (Instr.coldBoot ⟨[(0, [])], false, false, [], false, [], 0, false⟩).wf = false ∧ (Instr.warmReset ⟨[(4, [1]), (0, [1])], false, false, [], false, [], 0, false⟩).wf = false ∧
    (Instr.tripRelease ⟨[(0, [1, 2]), (1, [1])], false, false, [], false, [], 0, false⟩).wf = false := by decide

/-- Eight channels, each with a DIMM of one or two ranks or none (R282). -/
theorem test_wf_dimms : (Instr.cellarTrainingDone []).wf = false ∧ (Instr.cellarTrainingDone (List.replicate 8 (some { dim0 with ranks := 3 }))).wf = false ∧
    (Instr.cellarTrainingDone (List.replicate 8 (some { dim0 with gib := 0 }))).wf = false ∧ (Instr.cellarTrainingDone (List.replicate 8 (some dim0))).wf = true := by decide

/-- Twelve sensors (R514). -/
theorem test_wf_sensors : (Instr.thermalWarning []).wf = false ∧ (Instr.junctionTrip (List.replicate 11 0)).wf = false ∧ (Instr.telemetryRecord { smp0 with temps := [] }).wf = false := by decide

/-- An audit request begins with its own code (R495). -/
theorem test_wf_audit : (Instr.auditStatus [2]).wf = false ∧ (Instr.auditBootrec [1]).wf = false ∧ (Instr.auditBatch []).wf = false ∧ (Instr.auditQuote [3]).wf = false ∧
    (Instr.auditCert [4]).wf = false ∧ (Instr.auditSeek [5]).wf = false ∧ (Instr.auditSeek [6]).wf = true := by decide

/-! ## One step on a small state -/

/-- GLB_ID reads 0x3280B046 (R39). -/
theorem test_reset_id : State.reset.reg 0 = 0x3280B046 := by decide +kernel

/-- FOY_ACCEPTED holds all ones at reset, so a ring's first sequence number is 0 (R51). -/
theorem test_reset_accepted : State.reset.w64 (kAccepted 17) + 1 = 0 := by decide +kernel

/-- The table gives no row any bits. -/
theorem test_decode_none : decodeTableWord 32 0xFFFFFFFF = none := by decide

/-- With no command waiting TMB_NOW advances by 1 ns (R445), and without power nothing does. -/
theorem test_idle : (nextOf w0).now = 1 ∧ nextOf State.reset = State.reset := by decide +kernel

/-- The queue is first in, first out. -/
theorem test_queue : (nextOf { w0 with pending := [.getbcr, .getdcr] }).pending = [.getdcr] := by decide +kernel

/-- A NOP on an empty ring 0 completes: FOY_ACCEPTED and FOY_COMPLETED become 0, its sequence number (R51, R66). -/
theorem test_nop_completes : (nextOf { w0 with pending := [.nop (pk 0 [])] }).w64 (kAccepted 0) = 0 ∧ (nextOf { w0 with pending := [.nop (pk 0 [])] }).w64 (kCompleted 0) = 0 := by
  decide +kernel

/-- A packet of a PF0 opcode on a ring of PF1 changes no region (R65). -/
theorem test_wrong_function : (nextOf { r16 w0 with pending := [.memRegionSet (pk 16 [0, 0, 0, 0, 0, 0])] }).celEn 0 = true := by decide +kernel

/-- MEM_REGION_SET with its valid bit 0 removes region 0 (R290). -/
theorem test_region_removed : (nextOf { w0 with pending := [.memRegionSet (pk 0 [0, 0, 0, 0, 0, 0])] }).celEn 0 = false := by decide +kernel

/-- The sum of 0xFFFFFFFF and 1 is 0 with Z and C; 0 less 1 is 0xFFFFFFFF with N and no C (R406). -/
theorem test_nioft_flags : addFl 0xFFFFFFFF 1 false = (0, 6) ∧ subFl 0 1 true = (0xFFFFFFFF, 8) := by decide

/-- MOVI loads its 6-bit number into W1 and moves PC on by a word (R407). -/
theorem test_nioft_movi : ((nextOf { ni [0x1051] id with pending := [.nioMovi 15] }).core 15).reg 1 = 5 ∧ (nextOf { ni [0x1051] id with pending := [.nioMovi 15] }).pc 15 = 1 := by
  decide +kernel

/-- The first claim of a core returns its pending source, which turns active (R436). -/
theorem test_claim : (nextOf { sr 1023 15 false with pending := [.belClaim (.core 15)] }).src 1023 = ⟨false, true, false⟩ := by decide +kernel

/-- A byte read of GLB_ID at offset 1 answers the byte addressed (R34, R39). -/
theorem test_read_byte : (nextOf { w0 with pending := [.loRegisterRead .pf0 ⟨bar0At 1, .byte⟩] }).readData = [0xB0] := by decide +kernel

/-- The sticky bits 16 and 17 of HD_CRCSTICKY are cleared by ones (R38, R272). -/
theorem test_crc_sticky : (nextOf { put w0 [(kHD 31 + 0xE44, 0x30001)] with pending := [.registerWrite .pf0 (bar0At (kHD 31 + 0xE44)) .word 0x20000] }).reg (kHD 31 + 0xE44) = 0x10001 := by
  decide +kernel

/-- The first bit of IDCODE that leaves the JTAG port is its bit 0 (R550). -/
theorem test_jtag_idcode : ((((State.reset.tck false false).tck true false).tck false false).tck false false).tdo = some true ∧ jtagIdcode = 0x13280C9B := by decide +kernel

/-- The round visits SR16 before SR17 and SR0 (R58): SR0 waits while SR16 has words. -/
theorem test_round : (r16 w0).nextRing = some 16 ∧ w0.nextRing = some 0 := by decide +kernel

/-! ## The hypotheses of the statements can be met -/

/-- A state and operands that meet the hypotheses of each clause of SystemPackets. -/
theorem test_witness_SystemPackets :
    (∃ (s : State) (p : Packet), Takes s .nop p) ∧
    (∃ (s : State) (p : Packet), Takes s .fence p ∧ outside p 0 0x0003FFFF = false) ∧
    (∃ (s : State) (p : Packet), Takes s .featuresGet p) ∧
    (∃ (s : State) (p : Packet), Takes s .featuresSet p) ∧
    (∃ (s : State) (p : Packet), Takes s .expertEnter p ∧ (
      let t := s.admitted .expertEnter p
      (
      let u := fld (pw p 0) 0 8
      t.expertFault (s.opened .expertEnter p) true = none ∧ (u < 0x10 ∨ (t.head (u - 0x10)).enabled = false)))) ∧
    (∃ (s : State) (p : Packet), Takes s .expertLeave p ∧ (
      let t := s.admitted .expertLeave p
      t.expertFault (s.opened .expertLeave p) false = none)) ∧
    (∃ (s : State) (p : Packet), Takes s .errlogRead p ∧ (
      let t := s.admitted .errlogRead p
      errlogReadFault (s.opened .errlogRead p) t = none)) ∧
    (∃ (s : State) (code : BitVec 16) (p : Packet), Fetches s (.unknown code) p ∧ opOf code = .unknown code) := by
  refine ⟨⟨w0, pk 0 [], ?_⟩, ⟨w0, pk 0 [0x3FFFF], ?_⟩, ⟨w0, pk 0 [], ?_⟩, ⟨w0, pk 0 [1, 0, 0, 0, 0, 0, 0, 0], ?_⟩, ⟨w0, pk 0 [0x09], ?_⟩, ⟨w0, pk 0 [0x09], ?_⟩, ⟨{ w0 with wide := Tbl.set wideReset w0.wide kErrNext 4 }, pk 0 [0, 0, 64, 2], ?_⟩, ⟨w0, 0x0FFF, pk 0 [], ?_⟩⟩
  · exact takes_of (by decide +kernel)
  · exact ⟨takes_of (by decide +kernel), by decide +kernel⟩
  · exact takes_of (by decide +kernel)
  · exact takes_of (by decide +kernel)
  · exact ⟨takes_of (by decide +kernel), by decide +kernel⟩
  · exact ⟨takes_of (by decide +kernel), by decide +kernel⟩
  · exact ⟨takes_of (by decide +kernel), by decide +kernel⟩
  · exact ⟨fetches_of (by decide +kernel), by decide +kernel⟩

/-- A state and operands that meet the hypotheses of each clause of RegionPackets. -/
theorem test_witness_RegionPackets :
    (∃ (s : State) (p : Packet), Takes s .memRegionSet p ∧ (
      let t := s.admitted .memRegionSet p
      bit (pw p 0) 31 = false ∧ t.celSetFault p = none ∧ bit (pw p 5) 31 = false)) ∧
    (∃ (s : State) (p : Packet), Takes s .memRegionSet p ∧ (
      let t := s.admitted .memRegionSet p
      (
      let r := fld (pw p 0) 0 6
      (
      let base := pd p 1
      (
      let size := pd p 3
      (
      let same := t.celEn r = true ∧ t.celBase r = base ∧ t.celSize r = size ∧ (t.celAttr r ^^^ pw p 5) &&& celGeomMask = 0
      bit (pw p 0) 31 = false ∧ t.celSetFault p = none ∧ bit (pw p 5) 31 = true ∧ same ∧ t.celFilling r = true)))))) ∧
    (∃ (s : State) (p : Packet), Takes s .memRegionSet p ∧ (
      let t := s.admitted .memRegionSet p
      (
      let r := fld (pw p 0) 0 6
      (
      let base := pd p 1
      (
      let size := pd p 3
      (
      let same := t.celEn r = true ∧ t.celBase r = base ∧ t.celSize r = size ∧ (t.celAttr r ^^^ pw p 5) &&& celGeomMask = 0
      bit (pw p 0) 31 = false ∧ t.celSetFault p = none ∧ bit (pw p 5) 31 = true ∧ same ∧ t.celFilling r = false)))))) ∧
    (∃ (s : State) (p : Packet), Takes s .memRegionSet p ∧ (
      let t := s.admitted .memRegionSet p
      (
      let r := fld (pw p 0) 0 6
      (
      let base := pd p 1
      (
      let size := pd p 3
      (
      let same := t.celEn r = true ∧ t.celBase r = base ∧ t.celSize r = size ∧ (t.celAttr r ^^^ pw p 5) &&& celGeomMask = 0
      bit (pw p 0) 31 = false ∧ t.celSetFault p = none ∧ bit (pw p 5) 31 = true ∧ ¬ same)))))) ∧
    (∃ (s : State) (p : Packet), Takes s .memRegionSet p ∧ (
      let t := s.admitted .memRegionSet p
      (
      let o := s.opened .memRegionSet p
      (
      let r := fld (pw p 0) 0 8
      bit (pw p 0) 31 = true ∧ t.panLoading r = false ∧ panSetFault o t = none)))) := by
  refine ⟨⟨w0, pk 0 [0, 0, 0, 0, 0, 0], ?_⟩, ⟨w0, pk 0 [1, 0x100000, 0, 0x100000, 0, 0x80000900], ?_⟩, ⟨w0, pk 0 [0, 0, 0, 0x100000, 0, 0x8000FF00], ?_⟩, ⟨w0, pk 0 [2, 0x200000, 0, 0x10000, 0, 0x8000FF00], ?_⟩, ⟨w0, pk 0 [0x80000003, 0x20000, 0x80, 0x1000, 0, 0x80000000], ?_⟩⟩
  all_goals exact ⟨takes_of (by decide +kernel), by decide +kernel⟩

/-- A state and operands that meet the hypotheses of each clause of MemoryPackets. -/
theorem test_witness_MemoryPackets :
    (∃ (s : State) (p : Packet), Takes s .memCopy p ∧ (
      let t := s.admitted .memCopy p
      (
      let o := s.opened .memCopy p
      memOpFault o t = none))) ∧
    (∃ (s : State) (p : Packet), Takes s .memFill p ∧ (
      let t := s.admitted .memFill p
      (
      let o := s.opened .memFill p
      memOpFault o t = none))) ∧
    (∃ (s : State) (p : Packet), Takes s .assetLoad p ∧ (
      let t := s.admitted .assetLoad p
      (
      let o := s.opened .assetLoad p
      (
      let r := fld (pw p 0) 0 8
      assetLoadFault o t = none ∧ t.panLoading r = false)))) ∧
    (∃ (s : State) (p : Packet), Takes s .assetUnseal p ∧ (
      let t := s.admitted .assetUnseal p
      (
      let o := s.opened .assetUnseal p
      assetUnsealFault o t = none))) := by
  refine ⟨⟨w0, pk 0 [0, 0, 0x1000, 0, 0x100, 0], ?_⟩, ⟨w0, pk 0 [0, 0, 0x100, 0, 7], ?_⟩, ⟨w0, pk 0 [0, 0, 0, 0x100, 0, 0, 0, 0, 0, 0, 0, 0, 0, 0, 0, 0, 0, 0, 0, 0], ?_⟩, ⟨w0, pk 0 [1], ?_⟩⟩
  all_goals exact ⟨takes_of (by decide +kernel), by decide +kernel⟩

/-- A state and operands that meet the hypotheses of each clause of StagingPackets. -/
theorem test_witness_StagingPackets :
    (∃ (s : State) (p : Packet), Takes s .headTiming p ∧ (
      let t := s.admitted .headTiming p
      (
      let o := s.opened .headTiming p
      headTimingFault o t = none))) ∧
    (∃ (s : State) (p : Packet), Takes s .planeSet p ∧ (
      let t := s.admitted .planeSet p
      (
      let o := s.opened .planeSet p
      planeSetFault o t = none))) ∧
    (∃ (s : State) (p : Packet), Takes s .spriteTable p ∧ (
      let t := s.admitted .spriteTable p
      (
      let o := s.opened .spriteTable p
      bit (pw p 0) 8 = false ∧ spriteTableFault o t = none))) ∧
    (∃ (s : State) (p : Packet), Takes s .spriteTable p ∧ (
      let t := s.admitted .spriteTable p
      (
      let o := s.opened .spriteTable p
      bit (pw p 0) 8 = true ∧ spriteTableFault o t = none))) ∧
    (∃ (s : State) (p : Packet), Takes s .composeSet p ∧ (
      let t := s.admitted .composeSet p
      (
      let o := s.opened .composeSet p
      composeSetFault o t = none))) ∧
    (∃ (s : State) (p : Packet), Takes s .crcRectSet p ∧ (
      let t := s.admitted .crcRectSet p
      (
      let o := s.opened .crcRectSet p
      crcRectSetFault o t = none))) ∧
    (∃ (s : State) (p : Packet), Takes s .writebackSet p ∧ (
      let t := s.admitted .writebackSet p
      (
      let o := s.opened .writebackSet p
      writebackSetFault o t = none))) := by
  refine ⟨⟨hd0, pk 0 [0, 0, 0, 0, 0, 0], ?_⟩, ⟨hd0, pk 0 [0, 0, 0, 0, 0, 0, 0, 0, 0, 0, 0], ?_⟩, ⟨hd0, pk 0 [0, 0, 0, 0], ?_⟩, ⟨cv0, pk 0 [0x100, 0, 0, 0], ?_⟩, ⟨hd0, pk 0 [0, 0, 0, 0, 0, 0, 0, 0, 0, 0, 0, 0, 0, 0, 0, 0, 0, 0, 0], ?_⟩, ⟨hd0, pk 0 [0, 0, 0, 0], ?_⟩, ⟨hd0, pk 0 [0, 0, 0, 0], ?_⟩⟩
  all_goals exact ⟨takes_of (by decide +kernel), by decide +kernel⟩

/-- A state and operands that meet the hypotheses of each clause of ReadingPackets. -/
theorem test_witness_ReadingPackets :
    (∃ (s : State) (p : Packet) (bs : List Byte) (t' : State), Takes s .beamListSet p ∧ (
      let t := s.admitted .beamListSet p
      (
      let o := s.opened .beamListSet p
      (
      let h := fld (pw p 0) 0 5
      (
      let n := fld (pw p 3) 0 16
      beamListSetFault o t = none ∧ n ≠ 0 ∧ t.devRead 1 h (pd p 1) (8 * n) = (.ok bs, t') ∧ listFault (t'.shSet h) n (fun i => leNat ((bs.drop (8 * i)).take 8)) = none))))) ∧
    (∃ (s : State) (p : Packet), Takes s .beamListSet p ∧ (
      let t := s.admitted .beamListSet p
      (
      let o := s.opened .beamListSet p
      beamListSetFault o t = none ∧ fld (pw p 3) 0 16 = 0))) ∧
    (∃ (s : State) (p : Packet) (bs : List Byte) (t' : State), Takes s .lutLoad p ∧ (
      let t := s.admitted .lutLoad p
      (
      let o := s.opened .lutLoad p
      (
      let h := fld (pw p 0) 0 5
      (
      let tab := fld (pw p 0) 8 2
      (
      let es := if tab = 0 then 4 else 2
      lutLoadFault o t = none ∧ t.devRead 1 h (pd p 1) (es * (pw p 4).toNat) = (.ok bs, t'))))))) ∧
    (∃ (s : State) (p : Packet), Takes s .canvasSet p ∧ (
      let t := s.admitted .canvasSet p
      (
      let o := s.opened .canvasSet p
      canvasSetFault o t = none))) := by
  refine ⟨⟨hd0, pk 0 [0, 0, 0x80, 1], okOf ((hd0.admitted .beamListSet (pk 0 [0, 0, 0x80, 1])).devRead 1 0 (pd (pk 0 [0, 0, 0x80, 1]) 1) 8), ((hd0.admitted .beamListSet (pk 0 [0, 0, 0x80, 1])).devRead 1 0 (pd (pk 0 [0, 0, 0x80, 1]) 1) 8).2, ?_⟩, ⟨hd0, pk 0 [0, 0, 0x80, 0], ?_⟩, ⟨hd0, pk 0 [0, 0, 0x80, 0, 1], okOf ((hd0.admitted .lutLoad (pk 0 [0, 0, 0x80, 0, 1])).devRead 1 0 (pd (pk 0 [0, 0, 0x80, 0, 1]) 1) 4), ((hd0.admitted .lutLoad (pk 0 [0, 0, 0x80, 0, 1])).devRead 1 0 (pd (pk 0 [0, 0, 0x80, 0, 1]) 1) 4).2, ?_⟩, ⟨hd0, pk 0 [0, 0], ?_⟩⟩
  all_goals exact ⟨takes_of (by decide +kernel), by decide +kernel⟩

/-- A state and operands that meet the hypotheses of each clause of HeadPackets. -/
theorem test_witness_HeadPackets :
    (∃ (s : State) (p : Packet), Takes s .headEnable p ∧ (
      let t := s.admitted .headEnable p
      (
      let o := s.opened .headEnable p
      (
      let h := fld (pw p 0) 0 5
      (
      let g := t.shSet h
      (
      let r := t.rsvRequest h (headDemand g)
      headEnableFault o t = none ∧ t.resumesStart o h = false ∧ t.setCauses h g ++ t.canvasCause (fun x => decide (x = h)) h = [] ∧ r.1 = true)))))) ∧
    (∃ (s : State) (p : Packet), Takes s .headDisable p ∧ (
      let t := s.admitted .headDisable p
      (
      let o := s.opened .headDisable p
      headDisableFault o t = none))) ∧
    (∃ (s : State) (p : Packet), Takes s .headCommit p ∧ (
      let t := s.admitted .headCommit p
      (
      let o := s.opened .headCommit p
      headCommitFault o t = none))) ∧
    (∃ (s : State) (p : Packet), Takes s .routeSet p ∧ (
      let t := s.admitted .routeSet p
      (
      let o := s.opened .routeSet p
      (
      let q := fld (pw p 0) 0 5
      (
      let runs := bit (pw p 1) 31 = true ∨ (t.routeEn q = true ∧ (t.head (t.routeSrc q)).enabled = true)
      bit (pw p 0) 8 = false ∧ (t.port q).pend = none ∧ routePortFault o t = none ∧ runs))))) ∧
    (∃ (s : State) (p : Packet), Takes s .routeSet p ∧ (
      let t := s.admitted .routeSet p
      (
      let o := s.opened .routeSet p
      (
      let q := fld (pw p 0) 0 5
      (
      let runs := bit (pw p 1) 31 = true ∨ (t.routeEn q = true ∧ (t.head (t.routeSrc q)).enabled = true)
      bit (pw p 0) 8 = false ∧ (t.port q).pend = none ∧ routePortFault o t = none ∧ ¬ runs))))) ∧
    (∃ (s : State) (p : Packet), Takes s .routeSet p ∧ (
      let t := s.admitted .routeSet p
      (
      let o := s.opened .routeSet p
      (
      let src := fld (pw p 1) 0 5
      bit (pw p 0) 8 = true ∧ routeGenlockFault o t = none ∧ (t.head src).enabled = true)))) ∧
    (∃ (s : State) (p : Packet), Takes s .routeSet p ∧ (
      let t := s.admitted .routeSet p
      (
      let o := s.opened .routeSet p
      (
      let src := fld (pw p 1) 0 5
      bit (pw p 0) 8 = true ∧ routeGenlockFault o t = none ∧ (t.head src).enabled = false)))) := by
  refine ⟨⟨tm0, pk 0 [0], ?_⟩, ⟨hd0, pk 0 [0], ?_⟩, ⟨hd0, pk 0 [1], ?_⟩, ⟨hd0, pk 0 [0, 0x80000000], ?_⟩, ⟨w0, pk 0 [0, 0], ?_⟩, ⟨hd0, pk 0 [0x100, 0], ?_⟩, ⟨w0, pk 0 [0x100, 0], ?_⟩⟩
  all_goals exact ⟨takes_of (by decide +kernel), by decide +kernel⟩

/-- A state and operands that meet the hypotheses of each clause of MantelPackets. -/
theorem test_witness_MantelPackets :
    (∃ (s : State) (p : Packet), Takes s .mantelSet p ∧ (
      let t := s.admitted .mantelSet p
      (
      let o := s.opened .mantelSet p
      mantelFoyer o t = none ∧ mantelStudy o t = none))) := by
  refine ⟨(r16 hd0), pk 16 [0], ?_⟩
  exact ⟨takes_of (by decide +kernel), by decide +kernel⟩

/-- A state and operands that meet the hypotheses of each clause of EnginePackets. -/
theorem test_witness_EnginePackets :
    (∃ (s : State) (p : Packet), Takes s .rectFill p ∧ (s.admitted .rectFill p).rectBeginFault 0 (s.opened .rectFill p) = none) ∧
    (∃ (s : State) (p : Packet), Takes s .rectCopy p ∧ (s.admitted .rectCopy p).rectBeginFault 1 (s.opened .rectCopy p) = none) ∧
    (∃ (s : State) (p : Packet), Takes s .rectConvert p ∧ (s.admitted .rectConvert p).rectBeginFault 2 (s.opened .rectConvert p) = none) ∧
    (∃ (s : State) (p : Packet), Takes s .dmaChainStart p ∧ (
      let t := s.admitted .dmaChainStart p
      (
      let o := s.opened .dmaChainStart p
      dmaChainStartFault o t = none))) ∧
    (∃ (s : State) (p : Packet), Takes s .dmaStop p ∧ (
      let t := s.admitted .dmaStop p
      (
      let o := s.opened .dmaStop p
      (
      let c := fld (pw p 0) 0 6
      dmaStopFault o t = none ∧ ∃ a, t.dwBetween c = some a)))) ∧
    (∃ (s : State) (p : Packet), Takes s .dmaStop p ∧ (
      let t := s.admitted .dmaStop p
      (
      let o := s.opened .dmaStop p
      (
      let c := fld (pw p 0) 0 6
      dmaStopFault o t = none ∧ t.dwBetween c = none)))) := by
  refine ⟨⟨w0, pk 0 [0, 0, 0, 0, 0x100, 0x00010010, 0, 0, 0], ?_⟩, ⟨w0, pk 0 [0, 0, 0, 0, 0x100, 0x00010010, 0, 0, 0, 0x1000, 0, 0x100], ?_⟩, ⟨w0, pk 0 [0, 0x10, 0, 0, 0x100, 0x00010010, 0, 0, 0, 0x1000, 0, 0x100], ?_⟩, ⟨w0, pk 0 [0, 0x100, 0], ?_⟩, ⟨(dw0 [1, 2, 3, 4, 5, 6, 7, 8] (some 0x100)), pk 0 [0], ?_⟩, ⟨(dw0 [] none), pk 0 [0], ?_⟩⟩
  · exact ⟨takes_of (by decide +kernel), by decide +kernel⟩
  · exact ⟨takes_of (by decide +kernel), by decide +kernel⟩
  · exact ⟨takes_of (by decide +kernel), by decide +kernel⟩
  · exact ⟨takes_of (by decide +kernel), by decide +kernel⟩
  · exact ⟨takes_of (by decide +kernel), by decide +kernel, 0x100, by decide +kernel⟩
  · exact ⟨takes_of (by decide +kernel), by decide +kernel⟩

/-- A state and operands that meet the hypotheses of each clause of MusicPackets. -/
theorem test_witness_MusicPackets :
    (∃ (s : State) (p : Packet), Takes s .voiceStart p ∧ (
      let t := s.admitted .voiceStart p
      (
      let o := s.opened .voiceStart p
      voiceStartFault o t = none))) ∧
    (∃ (s : State) (p : Packet), Takes s .voiceStop p ∧ (
      let t := s.admitted .voiceStop p
      (
      let o := s.opened .voiceStop p
      (
      let v := fld (pw p 0) 0 10
      voiceStopFault o t = none ∧ (t.playing v = true ∨ t.voiceArmed v = true) ∧ (bit (pw p 0) 31 = true ∧ t.playing v = true))))) ∧
    (∃ (s : State) (p : Packet), Takes s .voiceStop p ∧ (
      let t := s.admitted .voiceStop p
      (
      let o := s.opened .voiceStop p
      (
      let v := fld (pw p 0) 0 10
      voiceStopFault o t = none ∧ (t.playing v = true ∨ t.voiceArmed v = true) ∧ (¬ (bit (pw p 0) 31 = true ∧ t.playing v = true)))))) ∧
    (∃ (s : State) (p : Packet), Takes s .voiceParam p ∧ (
      let t := s.admitted .voiceParam p
      (
      let o := s.opened .voiceParam p
      voiceParamFault o t = none))) ∧
    (∃ (s : State) (p : Packet) (bs : List Byte) (t' : State), Takes s .mixGraphLoad p ∧ (
      let t := s.admitted .mixGraphLoad p
      (
      let o := s.opened .mixGraphLoad p
      t.mus.fadeLeft = 0 ∧ mixGraphLoadFault o t = none ∧ t.devRead 0x0B 0 (pd p 0) (pw p 2).toNat = (.ok bs, t')))) ∧
    (∃ (s : State) (p : Packet), Takes s .mixParamSet p ∧ (
      let t := s.admitted .mixParamSet p
      (
      let o := s.opened .mixParamSet p
      t.mus.fadeLeft = 0 ∧ mixParamSetFault o t = none))) ∧
    (∃ (s : State) (p : Packet), Takes s .mixCommit p ∧ (
      let t := s.admitted .mixCommit p
      (
      let o := s.opened .mixCommit p
      t.mus.fadeLeft = 0 ∧ mixCommitFault o t = none))) ∧
    (∃ (s : State) (p : Packet), Takes s .audioPortSet p ∧ (
      let t := s.admitted .audioPortSet p
      (
      let o := s.opened .audioPortSet p
      fld (pw p 0) 8 2 = 0 ∧ audioP0 o t = none ∧ tdmBad (pw p 1) = false))) ∧
    (∃ (s : State) (p : Packet), Takes s .audioPortSet p ∧ (
      let t := s.admitted .audioPortSet p
      (
      let o := s.opened .audioPortSet p
      (
      let q := fld (pw p 0) 0 5
      fld (pw p 0) 8 2 = 1 ∧ audioP0 o t = none ∧ t.headPresent q = true ∧ dpBad (pw p 1) = false)))) ∧
    (∃ (s : State) (p : Packet), Takes s .audioPortSet p ∧ (
      let t := s.admitted .audioPortSet p
      (
      let o := s.opened .audioPortSet p
      fld (pw p 0) 8 2 = 2 ∧ audioP0 o t = none ∧ audioPortClockFault o t = none))) := by
  refine ⟨⟨w0, pk 0 [512, 0, 0, 0x01000000, 0, 0, 0, 0, 0], ?_⟩, ⟨(vc0 true), pk 0 [0x80000000], ?_⟩, ⟨(vc0 true), pk 0 [0], ?_⟩, ⟨w0, pk 0 [0, 0, 0, 0, 0, 0, 0], ?_⟩, ⟨w0, pk 0 [0, 0, 64, 0], okOf ((w0.admitted .mixGraphLoad (pk 0 [0, 0, 64, 0])).devRead 0x0B 0 (pd (pk 0 [0, 0, 64, 0]) 0) 64), ((w0.admitted .mixGraphLoad (pk 0 [0, 0, 64, 0])).devRead 0x0B 0 (pd (pk 0 [0, 0, 64, 0]) 0) 64).2, ?_⟩, ⟨(mx0), pk 0 [1, 0x00010000, 0], ?_⟩, ⟨w0, pk 0 [], ?_⟩, ⟨w0, pk 0 [9, 0], ?_⟩, ⟨w0, pk 0 [0x11F, 2], ?_⟩, ⟨w0, pk 0 [0x200, 0], ?_⟩⟩
  all_goals exact ⟨takes_of (by decide +kernel), by decide +kernel⟩

/-- A state and operands that meet the hypotheses of each clause of PinPackets. -/
theorem test_witness_PinPackets :
    (∃ (s : State) (p : Packet), Takes s .timerCompareArm p ∧ (
      let t := s.admitted .timerCompareArm p
      (
      let o := s.opened .timerCompareArm p
      timerCompareArmFault o t = none ∧ bit (pw p 3) 31 = false))) ∧
    (∃ (s : State) (p : Packet), Takes s .timerCompareArm p ∧ (
      let t := s.admitted .timerCompareArm p
      (
      let o := s.opened .timerCompareArm p
      (
      let k := (pw p 0).toNat
      timerCompareArmFault o t = none ∧ bit (pw p 3) 31 = true ∧ t.regB (kCmp k + 8) 31 = true)))) ∧
    (∃ (s : State) (p : Packet), Takes s .timerCaptureSet p ∧ (
      let t := s.admitted .timerCaptureSet p
      (
      let o := s.opened .timerCaptureSet p
      timerCaptureSetFault o t = none))) ∧
    (∃ (s : State) (p : Packet), Takes s .pinseqLoad p ∧ (
      let t := s.admitted .pinseqLoad p
      (
      let o := s.opened .pinseqLoad p
      (
      let form := fld (pw p 0) 24 2
      psqLoadChecks o t form = none ∧ form = 0)))) ∧
    (∃ (s : State) (p : Packet), Takes s .pinseqLoad p ∧ (
      let t := s.admitted .pinseqLoad p
      (
      let o := s.opened .pinseqLoad p
      (
      let form := fld (pw p 0) 24 2
      psqLoadChecks o t form = none ∧ form = 1)))) ∧
    (∃ (s : State) (p : Packet), Takes s .pinseqLoad p ∧ (
      let t := s.admitted .pinseqLoad p
      (
      let o := s.opened .pinseqLoad p
      (
      let form := fld (pw p 0) 24 2
      psqLoadChecks o t form = none ∧ form = 2)))) ∧
    (∃ (s : State) (p : Packet), Takes s .pinseqLoad p ∧ (
      let t := s.admitted .pinseqLoad p
      (
      let o := s.opened .pinseqLoad p
      (
      let form := fld (pw p 0) 24 2
      (
      let i := psqLoadCh o
      psqLoadChecks o t form = none ∧ form = 3 ∧ (bit (pw p 0) 26 && [7, 8, 9, 0xC].contains (fld (pw p 1) 28 4)) = false ∧ t.psqRun i = true ∧ (t.psqCh i).inj = [] ∧ (t.psqCh i).ahead = none))))) ∧
    (∃ (s : State) (p : Packet), Takes s .pinseqStart p ∧ (
      let t := s.admitted .pinseqStart p
      (
      let o := s.opened .pinseqStart p
      (
      let e := fld (pw p 0) 0 2
      (
      let chs := t.psqStartable e (pw p 1)
      pinseqStartFault o t = none ∧ chs ≠ [] ∧ (∀ i ∈ chs, t.psqCause i chs = none)))))) ∧
    (∃ (s : State) (p : Packet), Takes s .pinseqStop p ∧ (
      let t := s.admitted .pinseqStop p
      (
      let o := s.opened .pinseqStop p
      (
      let e := fld (pw p 0) 0 2
      (
      let chs := (List.range 32).filter fun c => bit (pw p 1) c && (t.psqRun (32 * e + c) || (t.psqCh (32 * e + c)).starting)
      (
      let m := chs.foldl (fun m c => m ||| flag c true) 0
      pinseqStopFault o t = none ∧ m ≠ 0)))))) := by
  refine ⟨⟨w0, pk 0 [63, 5, 0, 0], ?_⟩, ⟨cmp63, pk 0 [63, 0, 0, 0x80000000], ?_⟩, ⟨w0, pk 0 [31, 0], ?_⟩, ⟨w0, pk 0 [0x003F1F03, 0], ?_⟩, ⟨w0, pk 0 [0x010F0003, 0], ?_⟩, ⟨w0, pk 0 [0x02001F03, 0, 0], ?_⟩, ⟨(ps0 true), pk 0 [0x03000000, 0xC0000000], ?_⟩, ⟨(ps0 false), pk 0 [0, 1], ?_⟩, ⟨(ps0 true), pk 0 [0, 1], ?_⟩⟩
  all_goals exact ⟨takes_of (by decide +kernel), by decide +kernel⟩

/-- A state and operands that meet the hypotheses of each clause of CorePackets. -/
theorem test_witness_CorePackets :
    (∃ (s : State) (p : Packet) (bs : List Byte) (t' : State), Takes s .nioftLoad p ∧ (
      let t := s.admitted .nioftLoad p
      (
      let o := s.opened .nioftLoad p
      (
      let n := fld (pw p 0) 0 4
      nioftLoadFault o t = none ∧ t.devRead 0x0C n (pd p 1) 64 = (.ok bs, t') ∧ (nioHeader bs (pw p 3).toNat).isSome = true)))) ∧
    (∃ (s : State) (p : Packet), Takes s .nioftStart p ∧ (
      let t := s.admitted .nioftStart p
      (
      let o := s.opened .nioftStart p
      nioftStartFault o t = none))) ∧
    (∃ (s : State) (p : Packet), Takes s .nioftStop p ∧ (
      let t := s.admitted .nioftStop p
      (
      let o := s.opened .nioftStop p
      (
      let n := fld (pw p 0) 0 4
      nioftStopFault o t = none ∧ t.coreRuns n = true)))) := by
  refine ⟨⟨nl0, pk 0 [4, 0, 0, 66, 0], okOf ((nl0.admitted .nioftLoad (pk 0 [4, 0, 0, 66, 0])).devRead 0x0C 4 (pd (pk 0 [4, 0, 0, 66, 0]) 1) 64), ((nl0.admitted .nioftLoad (pk 0 [4, 0, 0, 66, 0])).devRead 0x0C 4 (pd (pk 0 [4, 0, 0, 66, 0]) 1) 64).2, ?_⟩, ⟨(nr false), pk 0 [4, 0], ?_⟩, ⟨(nr true), pk 0 [4], ?_⟩⟩
  all_goals exact ⟨takes_of (by decide +kernel), by decide +kernel⟩

/-- A state and operands that meet the hypotheses of each clause of StudyPackets. -/
theorem test_witness_StudyPackets :
    (∃ (s : State) (p : Packet), Takes s .attestQuote p ∧ 480 ≤ (pw p 10).toNat) ∧
    (∃ (s : State) (p : Packet), Takes s .bootlogRead p ∧ (
      let t := s.admitted .bootlogRead p
      (
      let o := s.opened .bootlogRead p
      bootlogReadFault o t = none))) ∧
    (∃ (s : State) (p : Packet), Takes s .receiptConfig p ∧ (
      let t := s.admitted .receiptConfig p
      (
      let o := s.opened .receiptConfig p
      receiptConfigFault o t = none))) ∧
    (∃ (s : State) (p : Packet), Takes s .receiptRead p ∧ (
      let t := s.admitted .receiptRead p
      (
      let new := t.reg kBatchNew
      (
      let first := max (pw p 3).toNat (t.reg kBatchOld).toNat
      (
      let r := batchesOut (pd p 0) (pw p 2).toNat (new.toNat + 1 - first) first 0 0 t
      new ≠ 0xFFFFFFFF ∧ (pw p 3).toNat ≤ new.toNat ∧ r.1.2 = false ∧ r.1.1 ≠ 0))))) := by
  refine ⟨⟨w0, pk 0 [0, 0, 0, 0, 0, 0, 0, 0, 0, 0, 480], ?_⟩, ⟨{ w0 with wide := Tbl.set wideReset w0.wide kBootSeq 1 }, pk 0 [0, 0, 1024, 1], ?_⟩, ⟨hd0, pk 0 [0, 1], ?_⟩, ⟨rb0, pk 0 [0, 0, 0x10000, 0], ?_⟩⟩
  all_goals exact ⟨takes_of (by decide +kernel), by decide +kernel⟩

/-- A state and operands that meet the hypotheses of each clause of PowerPackets. -/
theorem test_witness_PowerPackets :
    (∃ (s : State) (p : Packet), Takes s .unitReset p ∧ unitResetFault (s.opened .unitReset p) (s.admitted .unitReset p) = none) ∧
    (∃ (s : State) (p : Packet), Takes s .powerState p ∧ powerStateFault (s.opened .powerState p) (s.admitted .powerState p) = none) ∧
    (∃ (s : State) (p : Packet), Takes s .telemetryConfig p ∧ (
      let o := s.opened .telemetryConfig p
      telemetryConfigFault o = none)) ∧
    (∃ (s : State) (p : Packet), Takes s .clockPolicy p ∧ (
      let l := fld (pw p 0) 0 8
      (
      let p1 := (pw p 1).toNat
      (
      let p2 := (pw p 2).toNat
      outside p 0 0xFF = false ∧ l = 0 ∧ 650 ≤ p1 ∧ p1 ≤ p2 ∧ 750 ≤ p2 ∧ p2 ≤ 850)))) ∧
    (∃ (s : State) (p : Packet), Takes s .clockPolicy p ∧ (
      let l := fld (pw p 0) 0 8
      (
      let p1 := (pw p 1).toNat
      (
      let p2 := (pw p 2).toNat
      outside p 0 0xFF = false ∧ l = 0x10 ∧ 16 ≤ p1 ∧ p1 ≤ p2 ∧ p2 ≤ 64)))) ∧
    (∃ (s : State) (p : Packet), Takes s .clockPolicy p ∧ (
      let l := fld (pw p 0) 0 8
      (
      let p1 := (pw p 1).toNat
      (
      let p2 := (pw p 2).toNat
      outside p 0 0xFF = false ∧ l = 0x20 ∧ p1 = 0 ∧ p2 ≤ 4096)))) ∧
    (∃ (s : State) (p : Packet), Takes s .clockPolicy p ∧ (
      let t := s.admitted .clockPolicy p
      (
      let l := fld (pw p 0) 0 8
      (
      let p1 := (pw p 1).toNat
      (
      let p2 := (pw p 2).toNat
      outside p 0 0xFF = false ∧ ∃ q, l = 0x60 + q ∧ q < 32 ∧ (t.absentPort q).1 = false ∧ p1 < 16 ∧ 0 < p2 ∧ p2 < 65536))))) ∧
    (∃ (s : State) (p : Packet), Takes s .clockPolicy p ∧ (
      let t := s.admitted .clockPolicy p
      (
      let l := fld (pw p 0) 0 8
      outside p 0 0xFF = false ∧ ∃ h, l = 0x40 + h ∧ h < 32 ∧ t.headPresent h = true ∧ -1000000 ≤ (pw p 1).toInt ∧ (pw p 1).toInt ≤ (pw p 2).toInt ∧ (pw p 2).toInt ≤ 1000000 ∧ (t.glActive h && decide (t.leader h = h) && (decide ((t.head h).glDemand < (pw p 1).toInt) || decide ((pw p 2).toInt < (t.head h).glDemand))) = false))) := by
  refine ⟨⟨w0, pk 0 [9], ?_⟩, ⟨w0, pk 0 [1], ?_⟩, ⟨w0, pk 0 [0, 0, 4096], ?_⟩, ⟨w0, pk 0 [0, 650, 850], ?_⟩, ⟨w0, pk 0 [0x10, 16, 64], ?_⟩, ⟨w0, pk 0 [0x20, 0, 4096], ?_⟩, ⟨w0, pk 0 [0x7F, 15, 65535], ?_⟩, ⟨w0, pk 0 [0x5F, 0xFFF0BDC0, 1000000], ?_⟩⟩
  · exact ⟨takes_of (by decide +kernel), by decide +kernel⟩
  · exact ⟨takes_of (by decide +kernel), by decide +kernel⟩
  · exact ⟨takes_of (by decide +kernel), by decide +kernel⟩
  · exact ⟨takes_of (by decide +kernel), by decide +kernel⟩
  · exact ⟨takes_of (by decide +kernel), by decide +kernel⟩
  · exact ⟨takes_of (by decide +kernel), by decide +kernel⟩
  · exact ⟨takes_of (by decide +kernel), by decide +kernel, 31, by decide +kernel⟩
  · exact ⟨takes_of (by decide +kernel), by decide +kernel, 31, by decide +kernel⟩

/-- A state and operands that meet the hypotheses of each clause of RingRegisters. -/
theorem test_witness_RingRegisters :
    (∃ (s : State) (n : Fin 18) (v : Word), s.answers = true ∧ s.ready = true ∧ (v - s.reg (kSqHead n.val)).toNat ≤ s.sqWords n.val) ∧
    (∃ (s : State) (n : Fin 18) (v : Word), s.answers = true ∧ s.ready = true ∧ s.sqWords n.val < (v - s.reg (kSqHead n.val)).toNat) ∧
    (∃ (s : State) (n : Fin 18) (v : Word), s.answers = true ∧ s.ready = true ∧ (s.reg (kCqTail n.val) - v).toNat ≤ s.cqEntries n.val) ∧
    (∃ (s : State) (n : Fin 18) (v : Word), s.answers = true ∧ s.ready = true ∧ s.cqEntries n.val < (s.reg (kCqTail n.val) - v).toNat) ∧
    (∃ (s : State) (n : Fin 18) (v : Word), s.answers = true ∧ s.ready = true ∧ s.regB (kRingCfg n.val) 31 = false ∧ bit v 31 = true ∧ fld v 0 4 ≤ 8 ∧ fld v 8 4 ≤ 8 ∧ s.regB (kSqSeq n.val + 4) 31 = false ∧ (s.foy.journal.all fun e => match e.2 with | some x => decide (x.ring ≠ n.val) | none => true) = true) ∧
    (∃ (s : State) (n : Fin 18) (v : Word), s.answers = true ∧ s.ready = true ∧ s.regB (kRingCfg n.val) 31 = true ∧ bit v 31 = false ∧ v &&& 0x0F0F = s.reg (kRingCfg n.val) &&& 0x0F0F) := by
  refine ⟨⟨w0, 17, 1024, ?_⟩, ⟨w0, 17, 1025, ?_⟩, ⟨w0, 17, 0xFFFFFF80, ?_⟩, ⟨w0, 17, 0xFFFFFF7F, ?_⟩, ⟨w0, 17, 0x80000808, ?_⟩, ⟨w0, 16, 0x00000000, ?_⟩⟩
  all_goals decide +kernel

/-- A state and operands that meet the hypotheses of each clause of RegisterAccesses. -/
theorem test_witness_RegisterAccesses :
    (∃ (s : State) (m : Master) (h : Fin 32) (o : Nat) (v : Word), s.drives m (0x10 + h.val) = true ∧ o ∈ rwsOffs) ∧
    (∃ (s : State) (m : Master) (h : Fin 32) (o : Nat) (v : Word), s.drives m (0x10 + h.val) = true ∧ o ∈ rwbOffs) ∧
    (∃ (s : State) (h : Fin 32) (e : Nat × Word) (v : Word), s.answers = true ∧ s.pageAbsent (0x10 + h.val) = false ∧ e ∈ [(0x44, (0x30000000 : Word)), (0x700, 0xFF), (0x810, 0x38000000), (0x910, 0x1F800000), (0xE44, 0x3FFFF)]) ∧
    (∃ (s : State) (m : Master) (k : Fin 4) (e : Nat × Word) (v : Word), s.drives m 10 = true ∧ e ∈ [(0x04, (0xFFFFFFFF : Word)), (0x08, 0xFF), (0x0C, 0xFFFFF), (0x10, 0xFFFFFFFF), (0x14, 0xFF), (0x18, 0xFFFFF), (0x1C, 0x3FFF3FFF), (0x20, 0xFFFFFFFF), (0x24, 0xFFFFFFFF), (0x28, 0xFFFF), (0x2C, 0x3FFF)]) ∧
    (∃ (s : State) (m : Master) (c : Fin 64) (e : Nat × Word) (v : Word), s.drives m 9 = true ∧ e ∈ [(0x08, (0xFFFFFFE0 : Word)), (0x0C, 0xFF), (0x30, 0xFFFF)]) ∧
    (∃ (s t : State) (off : BitVec 24) (v : Word), (
      let u := off.toNat / 0x10000
      off.toNat % 4 = 0 ∧ pageMapped u = true ∧ u < 0x40 ∧ s.drives .pf0 u = true ∧ s.pageWrite u (off.toNat % 0x10000) v = some t)) ∧
    (∃ (s : State) (off : BitVec 24) (v : Word), (
      let u := off.toNat / 0x10000
      off.toNat % 4 = 0 ∧ pageMapped u = true ∧ u < 0x40 ∧ s.drives .pf0 u = true ∧ s.pageWrite u (off.toNat % 0x10000) v = none)) ∧
    (∃ (s : State) (off : BitVec 24) (v : Word), (
      let u := off.toNat / 0x10000
      off.toNat % 4 = 0 ∧ pageMapped u = true ∧ u < 0x40 ∧ s.answers = true ∧ s.pageAbsent u = false ∧ s.expert u = false ∧ basicWrite u (off.toNat % 0x10000) = false)) ∧
    (∃ (s : State) (off : BitVec 24) (w : Width) (v : Word), s.answers = true ∧ (w = .narrow ∨ off.toNat % 4 ≠ 0) ∧ pageMapped (off.toNat / 0x10000) = true) ∧
    (∃ (s : State) (off : BitVec 24) (w : Width) (v : Word), s.answers = true ∧ (w = .narrow ∨ off.toNat % 4 ≠ 0) ∧ pageMapped (off.toNat / 0x10000) = false) ∧
    (∃ (s : State) (m : Master) (off : BitVec 24) (size : ReadSize), (
      let u := off.toNat / 0x10000
      (
      let k := off.toNat / 4 * 4
      pageMapped u = true ∧ u < 0x40 ∧ s.views m u = true ∧ wideReg u (k % 0x10000) = true ∧ writeOnly u (k % 0x10000) = false))) ∧
    (∃ (s : State) (m : Master) (off : BitVec 24) (size : ReadSize), off.toNat / 0x10000 = 10 ∧ s.views m 10 = true) ∧
    (∃ (s : State) (m : Master) (off : BitVec 24) (size : ReadSize), s.answers = true ∧ m ≠ .pf1 ∧ pageMapped (off.toNat / 0x10000) = false) := by
  refine ⟨⟨(ex 0x2F), .pf0, 31, 0xA68, 0, ?_⟩, ⟨(ex 0x2F), .pf0, 31, 0xA68, 0, ?_⟩, ⟨w0, 31, (0xE44, 0x3FFFF), 0xFFFFFFFF, ?_⟩, ⟨(ex 10), .pf0, 3, (0x2C, 0x3FFF), 0, ?_⟩, ⟨(ex 9), (.dma 63), 63, (0x30, 0xFFFF), 0, ?_⟩, ⟨(ex 9), ((ex 9).pageWrite 9 8 0x20 |>.getD w0), 0x090008, 0x20, ?_⟩, ⟨(ex 9), 0x09F000, 0, ?_⟩, ⟨w0, 0x090008, 0x20, ?_⟩, ⟨w0, 0x090009, .word, 0, ?_⟩, ⟨w0, 0xFFFFFF, .narrow, 0, ?_⟩, ⟨w0, .pf0, 0x070000, .byte, ?_⟩, ⟨w0, .pf0, 0x0A0003, .byte, ?_⟩, ⟨w0, .pf0, 0xFFFFFF, .byte, ?_⟩⟩
  all_goals decide +kernel

/-- A state and operands that meet the hypotheses of each clause of WindowRows. -/
theorem test_witness_WindowRows :
    (∃ (s : State) (v : Word), s.answers = true ∧ s.pageAbsent 0 = false ∧ s.featLocked = false ∧ s.ready = true) ∧
    (∃ (s : State) (v : Word), s.answers = true ∧ s.pageAbsent 0 = false ∧ s.featLocked = true) ∧
    (∃ s : State, s.bar2Flush.answers = true ∧ s.answers = true ∧ s.bar2Flush.pageAbsent 0 = false) ∧
    (∃ (s : State) (off : BitVec 28) (bs : List Byte), s.answers = true ∧ bs ≠ [] ∧ (
      let a := s.bar2Addr off.toNat
      (s.bar2Open off.toNat bs.length && s.bar2May (s.hostPlace a bs.length) true) = true)) ∧
    (∃ (s : State) (off : BitVec 28) (bs : List Byte), s.answers = true ∧ bs ≠ [] ∧ (
      let a := s.bar2Addr off.toNat
      (s.bar2Open off.toNat bs.length && s.bar2May (s.hostPlace a bs.length) true) = false)) ∧
    (∃ (s : State) (off : BitVec 28) (n : Nat), s.answers = true ∧ (
      let t := s.bar2Flush
      (
      let a := t.bar2Addr off.toNat
      (
      let p := t.hostPlace a n
      (t.bar2Open off.toNat n && t.bar2May p false) = true ∧ (codewords ((t.celWake p a n).grain p) a n).all (fun c => decide ((t.celWake p a n).code c = .good)) = true)))) ∧
    (∃ (s : State) (off : BitVec 28) (n : Nat), s.answers = true ∧ (
      let t := s.bar2Flush
      (
      let a := t.bar2Addr off.toNat
      (t.bar2Open off.toNat n && t.bar2May (t.hostPlace a n) false) = false))) := by
  refine ⟨⟨w0, 1, ?_⟩, ⟨(put w0 [(4, 3)]), 1, ?_⟩, ⟨w0, ?_⟩, ⟨(wb 0), 0xFFFFF, [1], ?_⟩, ⟨(wb 0x800), 0x10000, [1], ?_⟩, ⟨(wb 0x800), 0, 0xFFFF, ?_⟩, ⟨(wb 0x801), 0, 1, ?_⟩⟩
  all_goals decide +kernel

/-- A state and operands that meet the hypotheses of each clause of WindowAddress. -/
theorem test_witness_WindowAddress :
    (∃ (s : State) (off : BitVec 28) (n : Nat), 0 < n ∧ off.toNat + n ≤ 2 ^ 28) ∧
    (∃ (s : State) (off : BitVec 28) (n : Nat), 0 < n ∧ off.toNat + n ≤ 2 ^ 28 ∧ (
      let b := s.regF 0x18 0 12
      b ≤ 0x7FF)) ∧
    (∃ (s : State) (off : BitVec 28) (n : Nat), 0 < n ∧ off.toNat + n ≤ 2 ^ 28 ∧ (
      let b := s.regF 0x18 0 12
      b = 0x800)) ∧
    (∃ (s : State) (off : BitVec 28) (n : Nat), 0 < n ∧ off.toNat + n ≤ 2 ^ 28 ∧ (
      let b := s.regF 0x18 0 12
      b = 0x800 ∧ off.toNat + n ≤ 0x4000000)) ∧
    (∃ (s : State) (off : BitVec 28) (n : Nat), 0 < n ∧ off.toNat + n ≤ 2 ^ 28 ∧ (
      let b := s.regF 0x18 0 12
      b = 0x800 ∧ 0x4000000 ≤ off.toNat ∧ off.toNat + n ≤ 0x5000000)) ∧
    (∃ (s : State) (off : BitVec 28) (n : Nat), 0 < n ∧ off.toNat + n ≤ 2 ^ 28 ∧ (
      let b := s.regF 0x18 0 12
      b = 0x800 ∧ 0x5000000 < off.toNat + n)) ∧
    (∃ (s : State) (off : BitVec 28) (n : Nat), 0 < n ∧ off.toNat + n ≤ 2 ^ 28 ∧ (
      let b := s.regF 0x18 0 12
      0x800 < b)) ∧
    (∃ (s : State) (off : BitVec 28) (n : Nat), s.answers = true ∧ 0x800 < s.bar2Flush.regF 0x18 0 12) := by
  refine ⟨⟨w0, 0xFFFFFFF, 1, ?_⟩, ⟨(wb 0x7FF), 0xFFFFFFF, 1, ?_⟩, ⟨(wb 0x800), 0, 1, ?_⟩, ⟨(wb 0x800), 0x3FFFFFF, 1, ?_⟩, ⟨(wb 0x800), 0x4000000, 0x1000000, ?_⟩, ⟨(wb 0x800), 0x4FFFFFF, 2, ?_⟩, ⟨(wb 0x801), 0, 1, ?_⟩, ⟨(wb 0xFFF), 0xFFFFFFF, 1, ?_⟩⟩
  all_goals decide +kernel

/-- A state and operands that meet the hypotheses of each clause of HeadAndTimeRegisters. -/
theorem test_witness_HeadAndTimeRegisters :
    (∃ (s : State) (m : Master) (h : Fin 32) (v : Word), s.drives m (0x10 + h.val) = true ∧ s.go h.val = false ∧ s.goLate h.val = false) ∧
    (∃ (s : State) (m : Master) (h : Fin 32) (v : Word), s.drives m (0x10 + h.val) = true ∧ s.go h.val = false ∧ s.goLate h.val = true) ∧
    (∃ (s : State) (m : Master) (h : Fin 32) (v : Word), s.drives m (0x10 + h.val) = true ∧ s.go h.val = true) ∧
    (∃ (s : State) (m : Master) (h : Fin 32) (x : Stamp) (rest : List Stamp), s.views m (0x10 + h.val) = true ∧ (s.head h.val).bs.stamps = x :: rest) ∧
    (∃ (s : State) (m : Master) (h : Fin 32), s.views m (0x10 + h.val) = true ∧ (s.head h.val).bs.stamps = []) ∧
    (∃ (s : State) (m : Master) (k : Fin 64) (v : Word), s.drives m 7 = true) ∧
    (∃ (s : State) (m : Master) (k : Fin 32) (v : Word), s.drives m 7 = true ∧ s.capFault v = none) ∧
    (∃ (s : State) (m : Master) (k : Fin 32) (v : Word), s.drives m 7 = true ∧ (s.capFault v).isSome = true) ∧
    (∃ (s : State) (m : Master) (k : Fin 32) (x : Cap) (rest : List Cap), s.views m 7 = true ∧ (s.cap k.val).fifo = x :: rest) ∧
    (∃ (s : State) (m : Master) (k : Fin 32), s.views m 7 = true ∧ (s.cap k.val).fifo = []) := by
  refine ⟨⟨(ex 0x2F), .pf0, 31, 1, ?_⟩, ⟨late31, .pf0, 31, 1, ?_⟩, ⟨go31, .pf0, 31, 1, ?_⟩, ⟨{ w0 with heads := [(31, { headInit with bs := { bsInit with stamps := [⟨5, 1, 2, 3⟩] } })] }, .pf0, 31, ⟨5, 1, 2, 3⟩, [], ?_⟩, ⟨w0, .pf0, 31, ?_⟩, ⟨(ex 7), .pf0, 63, 0, ?_⟩, ⟨(ex 7), .pf0, 31, 0, ?_⟩, ⟨(ex 7), .pf0, 31, 0x100, ?_⟩, ⟨cap31, .pf0, 31, ⟨7, 1, 2, 3, true⟩, [], ?_⟩, ⟨cap31, .pf0, 30, ?_⟩⟩
  all_goals decide +kernel

/-- A state and operands that meet the hypotheses of each clause of PinRegisters. -/
theorem test_witness_PinRegisters :
    (∃ (s : State) (m : Master) (e : Fin 4) (c : Fin 32) (v : Word), (
      let i := 32 * e.val + c.val
      s.drives m 8 = true ∧ (s.psqCh i).fq.length < 8)) ∧
    (∃ (s : State) (m : Master) (e : Fin 4) (c : Fin 32) (v : Word), (
      let i := 32 * e.val + c.val
      s.drives m 8 = true ∧ 8 ≤ (s.psqCh i).fq.length)) ∧
    (∃ (s : State) (m : Master) (e : Fin 4) (c : Fin 32) (w : Word) (rest : List Word), (
      let i := 32 * e.val + c.val
      s.views m 8 = true ∧ (s.psqCh i).sq = w :: rest)) ∧
    (∃ (s : State) (m : Master) (e : Fin 4) (c : Fin 32), (
      let i := 32 * e.val + c.val
      s.views m 8 = true ∧ (s.psqCh i).sq = [])) ∧
    (∃ (s : State) (m : Master) (e : Fin 4) (c : Fin 32) (v : Word), (
      let i := 32 * e.val + c.val
      (
      let resume := s.regB (kPc i + 0x2C) 31
      s.drives m 8 = true ∧ s.psqRun i = true ∧ (resume && [7, 8, 9, 0xC].contains (fld v 28 4)) = false))) ∧
    (∃ (s : State) (m : Master) (e : Fin 4) (c : Fin 32) (v : Word), (
      let i := 32 * e.val + c.val
      s.drives m 8 = true ∧ s.psqRun i = false)) ∧
    (∃ (s : State) (m : Master) (e : Fin 4) (v : Word), s.drives m 8 = true ∧ ((s.psqStartable e.val v).all fun i => (s.psqCause i (s.psqStartable e.val v)).isNone) = true) ∧
    (∃ (s : State) (m : Master) (e : Fin 4) (v : Word), s.drives m 8 = true) := by
  refine ⟨⟨(fq127 [1, 2, 3, 4, 5, 6, 7] []), (.core 0), 3, 31, 0, ?_⟩, ⟨(fq127 [1, 2, 3, 4, 5, 6, 7, 8] []), (.core 0), 3, 31, 0, ?_⟩, ⟨(fq127 [] [9]), (.core 0), 3, 31, 9, [], ?_⟩, ⟨w0, (.core 0), 3, 31, ?_⟩, ⟨(put w0 [(kPc 127, 0x80000000)]), (.core 0), 3, 31, 0x70000000, ?_⟩, ⟨w0, (.core 0), 3, 31, 0, ?_⟩, ⟨(ps0 false), (.core 0), 0, 1, ?_⟩, ⟨w0, (.core 0), 3, 0, ?_⟩⟩
  all_goals decide +kernel

/-- A state and operands that meet the hypotheses of each clause of BellRegisters. -/
theorem test_witness_BellRegisters :
    (∃ (s : State) (n : Fin 16) (i : Nat), s.answers = true ∧ s.bestFor n.val = some i) ∧
    (∃ (s : State) (n : Fin 16), s.answers = true ∧ s.bestFor n.val = none) ∧
    (∃ (s : State) (i : Nat), s.answers = true ∧ s.bestFor 17 = some i) ∧
    (∃ (s : State) (m : Master) (i : Nat), s.views m 2 = true ∧ s.bestFor 16 = some i) ∧
    (∃ (s : State) (m : Master) (t : Fin 18), s.views m 2 = true ∧ t ≠ 16) ∧
    (∃ (s : State) (k : Fin 2) (v : Word), s.answers = true ∧ s.pageAbsent 0 = false) ∧
    (∃ (s : State) (k : Fin 32) (v : Word), s.answers = true ∧ s.pageAbsent 0 = false) ∧
    (∃ (s : State) (n : Fin 16) (v : Word), s.answers = true) := by
  refine ⟨⟨(sr 1023 15 false), 15, 1023, ?_⟩, ⟨w0, 15, ?_⟩, ⟨(sr 1 17 false), 1, ?_⟩, ⟨(sr 1 16 false), .pf0, 1, ?_⟩, ⟨w0, .pf0, 17, ?_⟩, ⟨w0, 1, 0, ?_⟩, ⟨w0, 31, 0, ?_⟩, ⟨w0, 15, 0, ?_⟩⟩
  all_goals decide +kernel

/-- A state and operands that meet the hypotheses of each clause of DoneRegisters. -/
theorem test_witness_DoneRegisters :
    (∃ (s : State) (v : Word), s.answers = true ∧ (
      let i := fld v 0 10
      ∃ n : Fin 16, i = 0)) ∧
    (∃ (s : State) (v : Word), s.answers = true ∧ (
      let i := fld v 0 10
      ∃ n : Fin 16, i ≠ 0 ∧ (s.src i).act = true ∧ s.planTarget i = n.val)) ∧
    (∃ (s : State) (v : Word), s.answers = true ∧ (
      let i := fld v 0 10
      ∃ n : Fin 16, i ≠ 0 ∧ ((s.src i).act = false ∨ s.planTarget i ≠ n.val))) ∧
    (∃ (s : State) (v : Word), s.answers = true ∧ (
      let i := fld v 0 10
      i = 0)) ∧
    (∃ (s : State) (v : Word), s.answers = true ∧ (
      let i := fld v 0 10
      i ≠ 0 ∧ (s.src i).act = true ∧ s.planTarget i = 17)) ∧
    (∃ (s : State) (v : Word), s.answers = true ∧ (
      let i := fld v 0 10
      i ≠ 0 ∧ ((s.src i).act = false ∨ s.planTarget i ≠ 17))) ∧
    (∃ (s : State) (v : Word), s.answers = true ∧ (
      let i := fld v 0 10
      ∃ m : Master, m ≠ .pf1 ∧ s.pageAbsent 2 = false ∧ i = 0)) ∧
    (∃ (s : State) (v : Word), s.answers = true ∧ (
      let i := fld v 0 10
      ∃ m : Master, m ≠ .pf1 ∧ s.pageAbsent 2 = false ∧ i ≠ 0 ∧ (s.src i).act = true ∧ s.planTarget i = 16)) ∧
    (∃ (s : State) (v : Word), s.answers = true ∧ (
      let i := fld v 0 10
      ∃ m : Master, m ≠ .pf1 ∧ s.pageAbsent 2 = false ∧ i ≠ 0 ∧ ((s.src i).act = false ∨ s.planTarget i ≠ 16))) := by
  refine ⟨⟨w0, 0, ?_⟩, ⟨(sr 1023 15 true), 1023, ?_⟩, ⟨w0, 1, ?_⟩, ⟨w0, 0, ?_⟩, ⟨(sr 1 17 true), 1, ?_⟩, ⟨(sr 1 16 true), 1, ?_⟩, ⟨w0, 0, ?_⟩, ⟨(sr 1 16 true), 1, ?_⟩, ⟨w0, 1, ?_⟩⟩
  · exact ⟨by decide +kernel, 15, by decide +kernel⟩
  · exact ⟨by decide +kernel, 15, by decide +kernel⟩
  · exact ⟨by decide +kernel, 0, by decide +kernel⟩
  · decide +kernel
  · decide +kernel
  · decide +kernel
  · exact ⟨by decide +kernel, .pf0, by decide +kernel⟩
  · exact ⟨by decide +kernel, .pf0, by decide +kernel⟩
  · exact ⟨by decide +kernel, .pf0, by decide +kernel⟩

/-- A state and operands that meet the hypotheses of each clause of EngineRegisters. -/
theorem test_witness_EngineRegisters :
    (∃ (s : State) (m : Master) (e : Fin 4) (v : Word), s.drives m 10 = true ∧ s.regB (kRct e.val + 0x30) 31 = true) ∧
    (∃ (s : State) (m : Master) (e : Fin 4) (v : Word), (
      let k := kRct e.val
      (
      let t := s.setReg k ((s.reg k &&& 0x80000000) ||| (v &&& 0x1CFF))
      (
      let r : RectSet := { op := fld v 10 2, dfmt := fld v 0 4, sfmt := fld v 4 4, keyen := bit v 12 && decide (fld v 10 2 = 1)
                           dst := t.addr40 (k + 4), dpitch := t.regF (k + 0xC) 0 20, src := t.addr40 (k + 0x10), spitch := t.regF (k + 0x18) 0 20
                           w := t.regF (k + 0x1C) 0 14, h := t.regF (k + 0x1C) 16 14 }
      s.drives m 10 = true ∧ s.regB (k + 0x30) 31 = false ∧ r.badFmt = false ∧ r.w ≠ 0 ∧ r.h ≠ 0 ∧ r.badAlign = none ∧ r.badPitch = none ∧ t.rectBadAddr r = none ∧ t.rectSealed r = none ∧ (r.overlaps = true → r.dpitch = r.spitch ∧ (r.op = 2 → rBpp r.sfmt = rBpp r.dfmt)))))) ∧
    (∃ (s : State) (m : Master) (e : Fin 4) (v : Word), (
      let k := kRct e.val
      (
      let t := s.setReg k ((s.reg k &&& 0x80000000) ||| (v &&& 0x1CFF))
      (
      let r : RectSet := { op := fld v 10 2, dfmt := fld v 0 4, sfmt := fld v 4 4, keyen := bit v 12 && decide (fld v 10 2 = 1)
                           dst := t.addr40 (k + 4), dpitch := t.regF (k + 0xC) 0 20, src := t.addr40 (k + 0x10), spitch := t.regF (k + 0x18) 0 20
                           w := t.regF (k + 0x1C) 0 14, h := t.regF (k + 0x1C) 16 14 }
      s.drives m 10 = true ∧ s.regB (k + 0x30) 31 = false ∧ r.badFmt = false ∧ (r.w = 0 ∨ r.h = 0))))) ∧
    (∃ (s : State) (m : Master) (e : Fin 4) (v : Word), (
      let k := kRct e.val
      (
      let t := s.setReg k ((s.reg k &&& 0x80000000) ||| (v &&& 0x1CFF))
      (
      let r : RectSet := { op := fld v 10 2, dfmt := fld v 0 4, sfmt := fld v 4 4, keyen := bit v 12 && decide (fld v 10 2 = 1)
                           dst := t.addr40 (k + 4), dpitch := t.regF (k + 0xC) 0 20, src := t.addr40 (k + 0x10), spitch := t.regF (k + 0x18) 0 20
                           w := t.regF (k + 0x1C) 0 14, h := t.regF (k + 0x1C) 16 14 }
      s.drives m 10 = true ∧ s.regB (k + 0x30) 31 = false ∧ r.badFmt = true)))) ∧
    (∃ (s : State) (m : Master) (c : Fin 64) (v : Word), s.drives m 9 = true ∧ s.regB (kDw c.val + 4) 31 = false ∧ bit v 30 = false ∧ bit v 29 = false ∧ s.addr40 (kDw c.val + 8) % 32 = 0 ∧ s.dwInside (s.addr40 (kDw c.val + 8), 32) = true) ∧
    (∃ (s : State) (m : Master) (c : Fin 64) (v : Word), s.drives m 9 = true ∧ s.regB (kDw c.val + 4) 31 = false ∧ bit v 30 = false ∧ bit v 29 = false ∧ (s.addr40 (kDw c.val + 8) % 32 ≠ 0 ∨ s.dwInside (s.addr40 (kDw c.val + 8), 32) = false)) ∧
    (∃ (s : State) (m : Master) (c : Fin 64) (v : Word), s.drives m 9 = true ∧ s.regB (kDw c.val + 4) 31 = true ∧ bit v 30 = false ∧ bit v 29 = false) ∧
    (∃ (s : State) (m : Master) (c : Fin 64) (v : Word), s.drives m 9 = true ∧ s.regB (kDw c.val + 4) 31 = true ∧ bit v 31 = false ∧ bit v 29 = false ∧ ∃ a, s.dwBetween c.val = some a) ∧
    (∃ (s : State) (m : Master) (c : Fin 64) (v : Word), s.drives m 9 = true ∧ s.regB (kDw c.val + 4) 31 = true ∧ bit v 31 = false ∧ bit v 29 = false ∧ s.dwBetween c.val = none) ∧
    (∃ (s : State) (m : Master) (c : Fin 64) (v : Word), s.drives m 9 = true ∧ s.regB (kDw c.val + 4) 31 = true ∧ bit v 31 = false ∧ bit v 30 = false ∧ bit (dwWord (s.dwc c.val).desc 0) 29 = true) ∧
    (∃ (s : State) (m : Master) (n : Fin 16) (v : Word), (
      let k := kNctl n.val
      (
      let t := s.setReg k (s.reg k &&& ~~~ (v &&& 0x30000000))
      (
      let pwn := t.regF (kNpwords n.val) 0 15
      (
      let entry := t.regF (kNentry n.val) 0 14
      (
      let grant := t.reg (kNgrant n.val)
      s.drives m 12 = true ∧ 4 ≤ n.val ∧ t.coreRuns n.val = false ∧ 1 ≤ pwn ∧ pwn ≤ 16384 ∧ entry < pwn ∧ grant &&& 0x00009000 = 0)))))) ∧
    (∃ (s : State) (m : Master) (n : Fin 16) (v : Word), (
      let k := kNctl n.val
      (
      let t := s.setReg k (s.reg k &&& ~~~ (v &&& 0x30000000))
      s.drives m 12 = true ∧ 4 ≤ n.val ∧ bit v 30 = false ∧ t.coreRuns n.val = true))) ∧
    (∃ (s : State) (m : Master) (n : Fin 16) (v : Word), (
      let k := kNctl n.val
      (
      let t := s.setReg k (s.reg k &&& ~~~ (v &&& 0x30000000))
      s.drives m 12 = true ∧ 4 ≤ n.val ∧ bit v 31 = false ∧ t.coreRuns n.val = true))) ∧
    (∃ (s : State) (m : Master) (v : Word), (
      let k := fld v 0 10
      s.drives m 11 = true ∧ k ≤ 575 ∧ bit v 30 = false)) ∧
    (∃ (s : State) (m : Master) (v : Word), (
      let k := fld v 0 10
      s.drives m 11 = true ∧ k ≤ 575 ∧ bit v 31 = false ∧ (s.playing k || s.voiceArmed k || (s.voice k).vgo) = true)) ∧
    (∃ (s : State) (m : Master) (v : Word), s.drives m 11 = true) := by
  refine ⟨⟨(put (ex 10) [(kRct 3 + 0x30, 0x80000000)]), .pf0, 3, 0, ?_⟩, ⟨rc3, .pf0, 3, 0, ?_⟩, ⟨(ex 10), .pf0, 3, 0, ?_⟩, ⟨rc3, .pf0, 3, 0x0000000F, ?_⟩, ⟨(ex 9), .pf0, 63, 0x80000000, ?_⟩, ⟨(put (ex 9) [(kDw 63 + 8, 0x1000000)]), .pf0, 63, 0x80000000, ?_⟩, ⟨(put ((ex 9).setDw 63 ⟨[], none, false, 0⟩) [(kDw 63 + 4, 0x80000000)]), .pf0, 63, 0x80000000, ?_⟩, ⟨(put ((ex 9).setDw 63 ⟨[1], (some 0xFFFE0), false, 0⟩) [(kDw 63 + 4, 0x80000000)]), .pf0, 63, 0x40000000, ?_⟩, ⟨(put ((ex 9).setDw 63 ⟨[], none, false, 0⟩) [(kDw 63 + 4, 0x80000000)]), .pf0, 63, 0x40000000, ?_⟩, ⟨(put ((ex 9).setDw 63 ⟨[0x20000000], none, false, 0⟩) [(kDw 63 + 4, 0x80000000)]), .pf0, 63, 0x20000000, ?_⟩, ⟨(put (ex 12) [(kNpwords 15, 1)]), .pf0, 15, 0x80000000, ?_⟩, ⟨(put (ex 12) [(kNrun, 0x800F)]), .pf0, 15, 0x80000000, ?_⟩, ⟨(put (ex 12) [(kNrun, 0x800F)]), .pf0, 15, 0x40000000, ?_⟩, ⟨(ex 11), .pf0, 575, ?_⟩, ⟨(put (ex 11) [(kVstat 575, 0x80000000)]), .pf0, 575, ?_⟩, ⟨(ex 11), .pf0, 1, ?_⟩⟩
  · decide +kernel
  · decide +kernel
  · decide +kernel
  · decide +kernel
  · decide +kernel
  · decide +kernel
  · decide +kernel
  · exact ⟨by decide +kernel, by decide +kernel, by decide +kernel, by decide +kernel, 0xFFFE0, by decide +kernel⟩
  · decide +kernel
  · decide +kernel
  · decide +kernel
  · decide +kernel
  · decide +kernel
  · decide +kernel
  · decide +kernel
  · decide +kernel

/-- A state and operands that meet the hypotheses of each clause of InjectorRegisters. -/
theorem test_witness_InjectorRegisters :
    (∃ (s : State) (m : Master) (v : Word), m ≠ .pf0 ∧ m ≠ .pf1 ∧ s.answers = true ∧ (∀ n : Fin 16, m = .core n → s.nioGranted n.val 0x40000 true = true) ∧ s.pageAbsent 4 = false) ∧
    (∃ (s : State) (m : Master) (v : Word), m ≠ .pf0 ∧ m ≠ .pf1 ∧ s.answers = true ∧ (∀ n : Fin 16, m = .core n → s.nioGranted n.val 0x50000 true = true) ∧ s.pageAbsent 5 = false) := by
  refine ⟨⟨w0, (.core 0), 0x80000000, ?_⟩, ⟨w0, (.dma 63), 0x80000000, ?_⟩⟩
  all_goals decide +kernel

/-- A state and operands that meet the hypotheses of each clause of FrameRows. -/
theorem test_witness_FrameRows :
    (∃ (s : State) (h : Fin 32), s.full = true ∧ (s.head h.val).phase = .frame ∧ s.gliding h.val = false ∧ (
      let t := State.runOut h.val (s.ticksLeft h.val) s
      t.glCoarse h.val = false)) ∧
    (∃ (s : State) (h : Fin 32), s.full = true ∧ (s.head h.val).phase = .frame ∧ s.gliding h.val = false ∧ (
      let t := State.runOut h.val (s.ticksLeft h.val) s
      t.glCoarse h.val = true)) ∧
    (∃ (s : State) (h : Fin 32), s.full = true ∧ (s.head h.val).phase = .boundary ∧ (s.head h.val).starting = false ∧ gCanvasEn (s.cmSet h.val) = false) ∧
    (∃ (s : State) (h : Fin 32) (t : Nat), s.full = true ∧ (s.head h.val).enabled = true ∧ (s.head h.val).starting = true ∧ (s.head h.val).phase = .stopped) ∧
    (∃ (s : State) (h : Fin 32) (t : Nat), s.full = true ∧ s.gliding h.val = true) := by
  refine ⟨⟨(fr 95 15 [] [] fun v => v), 31, ?_⟩, ⟨(put { fr 95 15 [] [] (fun v => v) with gl := { glInit with seen := true }, wide := [(kTMB, 46000)] } [(kGlstat 31, 0x80000000)]), 31, ?_⟩, ⟨(fr 0 16 [] [] fun v => { v with phase := .boundary }), 31, ?_⟩, ⟨(fr 0 16 [] [] fun v => { v with phase := .stopped, starting := true }), 31, 50000, ?_⟩, ⟨(fr 0 16 [] [(0xAC, 0x40000000)] fun v => v), 31, 50000, ?_⟩⟩
  all_goals decide +kernel

/-- A state and operands that meet the hypotheses of each clause of SwapVerdict. -/
theorem test_witness_SwapVerdict :
    (∃ (s : State) (h : Nat), s.goNow h = false) ∧
    (∃ (s : State) (h : Nat), (
      let want : Nat → Bool := fun k => decide (k = h) && s.goNow k
      (
      let causes := s.setCauses h (s.shSet h) ++ rsvCauses s h (s.shSet h) ++ s.canvasCause want h
      s.goNow h = true ∧ lowest causes = 0))) ∧
    (∃ (s : State) (h : Nat), (
      let want : Nat → Bool := fun k => decide (k = h) && s.goNow k
      (
      let causes := s.setCauses h (s.shSet h) ++ rsvCauses s h (s.shSet h) ++ s.canvasCause want h
      s.goNow h = true ∧ lowest causes ≠ 0))) := by
  refine ⟨⟨w0, 31, ?_⟩, ⟨(put tm0 [(0x100040, 1)]), 0, ?_⟩, ⟨(put w0 [(0x100040, 1)]), 0, ?_⟩⟩
  all_goals decide +kernel

/-- A state and operands that meet the hypotheses of each clause of GenlockRows. -/
theorem test_witness_GenlockRows :
    (∃ (s : State) (width : Nat) (high : Bool), s.live = true ∧ width < 20) ∧
    (∃ (s : State) (width : Nat) (high : Bool), s.live = true ∧ 20 ≤ width ∧ (
      let p := if s.gl.seen then s.setReg (kGl 8) (wd (min 0xFFFFFFFF (s.now - s.w64 (kGl 0xC)).toNat)) else s
      (
      let t := (p.setW64 (kGl 0xC) s.now).setB (kGl 4) 31 true
      (
      let period := (t.reg (kGl 8)).toNat
      (
      let active := if high = t.regB (kGl 0) 30 then period - width else width
      (s.gl.seen = false ∨ 2 * active ≤ period)))))) ∧
    (∃ (s : State) (width : Nat) (high : Bool), s.live = true ∧ 20 ≤ width ∧ (
      let p := if s.gl.seen then s.setReg (kGl 8) (wd (min 0xFFFFFFFF (s.now - s.w64 (kGl 0xC)).toNat)) else s
      (
      let t := (p.setW64 (kGl 0xC) s.now).setB (kGl 4) 31 true
      (
      let period := (t.reg (kGl 8)).toNat
      (
      let active := if high = t.regB (kGl 0) 30 then period - width else width
      s.gl.seen = true ∧ period < 2 * active ∧ s.gl.long < 3))))) ∧
    (∃ (s : State) (width : Nat) (high : Bool), s.live = true ∧ 20 ≤ width ∧ (
      let p := if s.gl.seen then s.setReg (kGl 8) (wd (min 0xFFFFFFFF (s.now - s.w64 (kGl 0xC)).toNat)) else s
      (
      let t := (p.setW64 (kGl 0xC) s.now).setB (kGl 4) 31 true
      (
      let period := (t.reg (kGl 8)).toNat
      (
      let active := if high = t.regB (kGl 0) 30 then period - width else width
      s.gl.seen = true ∧ period < 2 * active ∧ s.gl.long = 3 ∧ t.regB (kGl 4) 30 = false))))) ∧
    (∃ (s : State) (h : Fin 32), s.full = true ∧ s.glActive h.val = true ∧ s.leader h.val = h.val ∧ s.regB (kGlstat h.val) 28 = false) ∧
    (∃ (s : State) (h : Fin 32), s.full = true ∧ gCanvasEn (s.cmSet h.val) = false ∧ (s.head h.val).phase = .aligning) ∧
    (∃ s : State, s.live = true) := by
  refine ⟨⟨w0, 19, true, ?_⟩, ⟨w0, 20, true, ?_⟩, ⟨{ w0 with gl := ⟨none, true, 2⟩, wide := [(kTMB, 100)] }, 60, true, ?_⟩, ⟨{ w0 with gl := ⟨none, true, 3⟩, wide := [(kTMB, 100)] }, 60, true, ?_⟩, ⟨(put (fr 0 0 [] [] fun v => v) [(kGlstat 31, 0x80000000)]), 31, ?_⟩, ⟨(fr 0 16 [] [] fun v => { v with phase := .aligning }), 31, ?_⟩, ⟨w0, ?_⟩⟩
  all_goals decide +kernel

/-- A state and operands that meet the hypotheses of each clause of EventsWithinFrame. -/
theorem test_witness_EventsWithinFrame :
    ((
      let at' (s : State) (h : Fin 32) : Nat → State := fun k => Nat.repeat (fun s => s.tick h.val false) k s
      (
      let has (s : State) (h : Fin 32) (tag k : Nat) : Prop := tag ∈ ((at' s h k).head h.val).did
      (
      let first (s : State) (h : Fin 32) (tag k : Nat) : Prop := s.full = true ∧ 0 < k ∧ k ≤ s.ticksLeft h.val ∧ has s h tag k ∧ ∀ j, 0 < j → j < k → ¬ has s h tag j
      ∃ (s : State) (h : Fin 32) (k : Nat), first s h tLine k)))) ∧
    ((
      let at' (s : State) (h : Fin 32) : Nat → State := fun k => Nat.repeat (fun s => s.tick h.val false) k s
      (
      let has (s : State) (h : Fin 32) (tag k : Nat) : Prop := tag ∈ ((at' s h k).head h.val).did
      (
      let first (s : State) (h : Fin 32) (tag k : Nat) : Prop := s.full = true ∧ 0 < k ∧ k ≤ s.ticksLeft h.val ∧ has s h tag k ∧ ∀ j, 0 < j → j < k → ¬ has s h tag j
      ∃ (s : State) (h : Fin 32) (k : Nat), first s h 0 k)))) ∧
    ((
      let at' (s : State) (h : Fin 32) : Nat → State := fun k => Nat.repeat (fun s => s.tick h.val false) k s
      (
      let has (s : State) (h : Fin 32) (tag k : Nat) : Prop := tag ∈ ((at' s h k).head h.val).did
      (
      let first (s : State) (h : Fin 32) (tag k : Nat) : Prop := s.full = true ∧ 0 < k ∧ k ≤ s.ticksLeft h.val ∧ has s h tag k ∧ ∀ j, 0 < j → j < k → ¬ has s h tag j
      ∃ (s : State) (h : Fin 32) (k : Nat), first s h 1 k)))) ∧
    ((
      let at' (s : State) (h : Fin 32) : Nat → State := fun k => Nat.repeat (fun s => s.tick h.val false) k s
      (
      let has (s : State) (h : Fin 32) (tag k : Nat) : Prop := tag ∈ ((at' s h k).head h.val).did
      (
      let first (s : State) (h : Fin 32) (tag k : Nat) : Prop := s.full = true ∧ 0 < k ∧ k ≤ s.ticksLeft h.val ∧ has s h tag k ∧ ∀ j, 0 < j → j < k → ¬ has s h tag j
      ∃ (s : State) (h : Fin 32) (k : Nat), first s h 2 k)))) ∧
    ((
      let at' (s : State) (h : Fin 32) : Nat → State := fun k => Nat.repeat (fun s => s.tick h.val false) k s
      (
      let has (s : State) (h : Fin 32) (tag k : Nat) : Prop := tag ∈ ((at' s h k).head h.val).did
      (
      let first (s : State) (h : Fin 32) (tag k : Nat) : Prop := s.full = true ∧ 0 < k ∧ k ≤ s.ticksLeft h.val ∧ has s h tag k ∧ ∀ j, 0 < j → j < k → ¬ has s h tag j
      ∃ (s : State) (h : Fin 32) (k : Nat), first s h tMet k)))) ∧
    ((
      let at' (s : State) (h : Fin 32) : Nat → State := fun k => Nat.repeat (fun s => s.tick h.val false) k s
      (
      let has (s : State) (h : Fin 32) (tag k : Nat) : Prop := tag ∈ ((at' s h k).head h.val).did
      (
      let first (s : State) (h : Fin 32) (tag k : Nat) : Prop := s.full = true ∧ 0 < k ∧ k ≤ s.ticksLeft h.val ∧ has s h tag k ∧ ∀ j, 0 < j → j < k → ¬ has s h tag j
      ∃ (s : State) (h : Fin 32) (k : Nat), first s h 3 k)))) ∧
    ((
      let at' (s : State) (h : Fin 32) : Nat → State := fun k => Nat.repeat (fun s => s.tick h.val false) k s
      (
      let has (s : State) (h : Fin 32) (tag k : Nat) : Prop := tag ∈ ((at' s h k).head h.val).did
      (
      let first (s : State) (h : Fin 32) (tag k : Nat) : Prop := s.full = true ∧ 0 < k ∧ k ≤ s.ticksLeft h.val ∧ has s h tag k ∧ ∀ j, 0 < j → j < k → ¬ has s h tag j
      ∃ (s : State) (h : Fin 32) (k : Nat), first s h 4 k)))) ∧
    ((
      let at' (s : State) (h : Fin 32) : Nat → State := fun k => Nat.repeat (fun s => s.tick h.val false) k s
      (
      let has (s : State) (h : Fin 32) (tag k : Nat) : Prop := tag ∈ ((at' s h k).head h.val).did
      (
      let first (s : State) (h : Fin 32) (tag k : Nat) : Prop := s.full = true ∧ 0 < k ∧ k ≤ s.ticksLeft h.val ∧ has s h tag k ∧ ∀ j, 0 < j → j < k → ¬ has s h tag j
      ∃ (s : State) (h : Fin 32) (k : Nat), first s h 5 k)))) ∧
    ((
      let at' (s : State) (h : Fin 32) : Nat → State := fun k => Nat.repeat (fun s => s.tick h.val false) k s
      (
      let has (s : State) (h : Fin 32) (tag k : Nat) : Prop := tag ∈ ((at' s h k).head h.val).did
      (
      let first (s : State) (h : Fin 32) (tag k : Nat) : Prop := s.full = true ∧ 0 < k ∧ k ≤ s.ticksLeft h.val ∧ has s h tag k ∧ ∀ j, 0 < j → j < k → ¬ has s h tag j
      ∃ (s : State) (h : Fin 32) (k : Nat), first s h 6 k)))) ∧
    ((
      let at' (s : State) (h : Fin 32) : Nat → State := fun k => Nat.repeat (fun s => s.tick h.val false) k s
      (
      let has (s : State) (h : Fin 32) (tag k : Nat) : Prop := tag ∈ ((at' s h k).head h.val).did
      (
      let first (s : State) (h : Fin 32) (tag k : Nat) : Prop := s.full = true ∧ 0 < k ∧ k ≤ s.ticksLeft h.val ∧ has s h tag k ∧ ∀ j, 0 < j → j < k → ¬ has s h tag j
      ∃ (s : State) (h : Fin 32) (k : Nat), first s h 7 k)))) ∧
    ((
      let at' (s : State) (h : Fin 32) : Nat → State := fun k => Nat.repeat (fun s => s.tick h.val false) k s
      (
      let has (s : State) (h : Fin 32) (tag k : Nat) : Prop := tag ∈ ((at' s h k).head h.val).did
      (
      let first (s : State) (h : Fin 32) (tag k : Nat) : Prop := s.full = true ∧ 0 < k ∧ k ≤ s.ticksLeft h.val ∧ has s h tag k ∧ ∀ j, 0 < j → j < k → ¬ has s h tag j
      ∃ (s : State) (h : Fin 32) (k : Nat), first s h 8 k)))) ∧
    ((
      let at' (s : State) (h : Fin 32) : Nat → State := fun k => Nat.repeat (fun s => s.tick h.val false) k s
      (
      let has (s : State) (h : Fin 32) (tag k : Nat) : Prop := tag ∈ ((at' s h k).head h.val).did
      (
      let first (s : State) (h : Fin 32) (tag k : Nat) : Prop := s.full = true ∧ 0 < k ∧ k ≤ s.ticksLeft h.val ∧ has s h tag k ∧ ∀ j, 0 < j → j < k → ¬ has s h tag j
      ∃ (s : State) (h : Fin 32) (k : Nat), first s h 9 k)))) ∧
    ((
      let at' (s : State) (h : Fin 32) : Nat → State := fun k => Nat.repeat (fun s => s.tick h.val false) k s
      (
      let has (s : State) (h : Fin 32) (tag k : Nat) : Prop := tag ∈ ((at' s h k).head h.val).did
      (
      let first (s : State) (h : Fin 32) (tag k : Nat) : Prop := s.full = true ∧ 0 < k ∧ k ≤ s.ticksLeft h.val ∧ has s h tag k ∧ ∀ j, 0 < j → j < k → ¬ has s h tag j
      ∃ (s : State) (h : Fin 32) (k : Nat), first s h tFenceDone k)))) ∧
    ((
      let at' (s : State) (h : Fin 32) : Nat → State := fun k => Nat.repeat (fun s => s.tick h.val false) k s
      (
      let has (s : State) (h : Fin 32) (tag k : Nat) : Prop := tag ∈ ((at' s h k).head h.val).did
      (
      let first (s : State) (h : Fin 32) (tag k : Nat) : Prop := s.full = true ∧ 0 < k ∧ k ≤ s.ticksLeft h.val ∧ has s h tag k ∧ ∀ j, 0 < j → j < k → ¬ has s h tag j
      ∃ (s : State) (h : Fin 32) (k : Nat), first s h tIrq k)))) ∧
    ((
      let at' (s : State) (h : Fin 32) : Nat → State := fun k => Nat.repeat (fun s => s.tick h.val false) k s
      (
      let has (s : State) (h : Fin 32) (tag k : Nat) : Prop := tag ∈ ((at' s h k).head h.val).did
      (
      let first (s : State) (h : Fin 32) (tag k : Nat) : Prop := s.full = true ∧ 0 < k ∧ k ≤ s.ticksLeft h.val ∧ has s h tag k ∧ ∀ j, 0 < j → j < k → ¬ has s h tag j
      ∃ (s : State) (h : Fin 32) (k : Nat), first s h tStamp k)))) ∧
    ((
      let at' (s : State) (h : Fin 32) : Nat → State := fun k => Nat.repeat (fun s => s.tick h.val false) k s
      (
      let has (s : State) (h : Fin 32) (tag k : Nat) : Prop := tag ∈ ((at' s h k).head h.val).did
      (
      let first (s : State) (h : Fin 32) (tag k : Nat) : Prop := s.full = true ∧ 0 < k ∧ k ≤ s.ticksLeft h.val ∧ has s h tag k ∧ ∀ j, 0 < j → j < k → ¬ has s h tag j
      ∃ (s : State) (h : Fin 32) (k : Nat), first s h tBudget k)))) ∧
    ((
      let at' (s : State) (h : Fin 32) : Nat → State := fun k => Nat.repeat (fun s => s.tick h.val false) k s
      (
      let has (s : State) (h : Fin 32) (tag k : Nat) : Prop := tag ∈ ((at' s h k).head h.val).did
      (
      let first (s : State) (h : Fin 32) (tag k : Nat) : Prop := s.full = true ∧ 0 < k ∧ k ≤ s.ticksLeft h.val ∧ has s h tag k ∧ ∀ j, 0 < j → j < k → ¬ has s h tag j
      ∃ (s : State) (h : Fin 32) (k : Nat), first s h tWindow k)))) ∧
    ((
      let at' (s : State) (h : Fin 32) : Nat → State := fun k => Nat.repeat (fun s => s.tick h.val false) k s
      (
      let has (s : State) (h : Fin 32) (tag k : Nat) : Prop := tag ∈ ((at' s h k).head h.val).did
      (
      let first (s : State) (h : Fin 32) (tag k : Nat) : Prop := s.full = true ∧ 0 < k ∧ k ≤ s.ticksLeft h.val ∧ has s h tag k ∧ ∀ j, 0 < j → j < k → ¬ has s h tag j
      ∃ (s : State) (h : Fin 32) (k : Nat), first s h tVoice k)))) ∧
    ((
      let at' (s : State) (h : Fin 32) : Nat → State := fun k => Nat.repeat (fun s => s.tick h.val false) k s
      (
      let has (s : State) (h : Fin 32) (tag k : Nat) : Prop := tag ∈ ((at' s h k).head h.val).did
      (
      let first (s : State) (h : Fin 32) (tag k : Nat) : Prop := s.full = true ∧ 0 < k ∧ k ≤ s.ticksLeft h.val ∧ has s h tag k ∧ ∀ j, 0 < j → j < k → ¬ has s h tag j
      ∃ (s : State) (h : Fin 32) (k : Nat), first s h tSpLoaded k)))) ∧
    ((
      let at' (s : State) (h : Fin 32) : Nat → State := fun k => Nat.repeat (fun s => s.tick h.val false) k s
      (
      let has (s : State) (h : Fin 32) (tag k : Nat) : Prop := tag ∈ ((at' s h k).head h.val).did
      (
      let first (s : State) (h : Fin 32) (tag k : Nat) : Prop := s.full = true ∧ 0 < k ∧ k ≤ s.ticksLeft h.val ∧ has s h tag k ∧ ∀ j, 0 < j → j < k → ¬ has s h tag j
      ∃ (s : State) (h : Fin 32) (k : Nat), first s h tSpEval k)))) ∧
    ((
      let at' (s : State) (h : Fin 32) : Nat → State := fun k => Nat.repeat (fun s => s.tick h.val false) k s
      (
      let has (s : State) (h : Fin 32) (tag k : Nat) : Prop := tag ∈ ((at' s h k).head h.val).did
      (
      let first (s : State) (h : Fin 32) (tag k : Nat) : Prop := s.full = true ∧ 0 < k ∧ k ≤ s.ticksLeft h.val ∧ has s h tag k ∧ ∀ j, 0 < j → j < k → ¬ has s h tag j
      ∃ (s : State) (h : Fin 32) (k : Nat), first s h tLineRead k)))) ∧
    ((
      let at' (s : State) (h : Fin 32) : Nat → State := fun k => Nat.repeat (fun s => s.tick h.val false) k s
      (
      let has (s : State) (h : Fin 32) (tag k : Nat) : Prop := tag ∈ ((at' s h k).head h.val).did
      (
      let first (s : State) (h : Fin 32) (tag k : Nat) : Prop := s.full = true ∧ 0 < k ∧ k ≤ s.ticksLeft h.val ∧ has s h tag k ∧ ∀ j, 0 < j → j < k → ¬ has s h tag j
      ∃ (s : State) (h : Fin 32) (k : Nat), first s h tMtRead k)))) ∧
    (∃ (s : State) (h : Fin 32) (i : Instr), ((s.head h.val).phase ≠ .frame ∨ s.gliding h.val = true) ∧ i ∈ [Instr.lineEvent h, .beamEnd h, .beamWait h, .beamWaitx h, .beamWaitMet h, .beamMove h, .beamMovem h, .beamSkipif h, .beamJump h, .beamIrq h, .beamStamp h, .beamFence h, .beamFenceDone h, .beamIrqAnchor h, .beamStampAnchor h, .beamLineBudgetRelease h, .beamWindowEnd h, .spriteTableLoaded h, .spriteLineEval h, .bitmapLineRead h, .mantelLineRead h]) ∧
    (∃ (s : State) (h : Fin 32), (s.head h).phase ≠ .frame ∧ (s.head h).phase ≠ .boundary) ∧
    (∃ (s : State) (h : Fin 32), Scans s h ∧ (
      let g := s.cmSet h
      (
      let j := s.nextPlace h
      (
      let f := posAt g (j + lead)
      j + lead < frameLen g ∧ f.1 = 0 ∧ f.2 + 1 < gVact g)))) ∧
    (∃ (s : State) (h : Fin 32), Scans s h ∧ (
      let g := s.cmSet h
      (
      let j := s.nextPlace h
      (
      let f := posAt g (j + lead)
      j + lead < frameLen g ∧ f.1 = 0 ∧ (s.head h).bs.hold = .starve)))) ∧
    (∃ (s : State) (h : Fin 32), Scans s h ∧ (
      let g := s.cmSet h
      (
      let j := s.nextPlace h
      j + lead = frameLen g ∧ s.bsRun h = true))) ∧
    (∃ (s : State) (h : Fin 32), Scans s h ∧ (
      let g := s.cmSet h
      (
      let j := s.nextPlace h
      j + lead = frameLen g ∧ s.bsRun h = false))) ∧
    (∃ (s : State) (h : Fin 32), Scans s h ∧ (
      let j := s.nextPlace h
      (
      let u := s.seqAt h
      (
      let b := (u.head h).bs
      ∃ t, u.bsRun h = true ∧ b.hold = .until_ t ∧ t ≤ j + lead)))) ∧
    (∃ (s : State) (h : Fin 32), Scans s h ∧ (
      let g := s.cmSet h
      (
      let j := s.nextPlace h
      (
      let u := s.seqAt h
      (
      let b := (u.head h).bs
      ∃ c, u.bsRun h = true ∧ b.hold = .fence c ∧ b.pix g c ≤ j))))) ∧
    (∃ (s : State) (h : Fin 32), Scans s h ∧ (
      let j := s.nextPlace h
      (
      let v := s.spriteTurn h
      (v.head h).sp.loading = true ∧ (v.head h).sp.loadAt ≤ j))) ∧
    (∃ (s : State) (h : Fin 32), Scans s h ∧ (
      let g := s.cmSet h
      (
      let j := s.nextPlace h
      (
      let p := posAt g j
      p.1 = 0 ∧ bit (s.cm h 0x84) 31 = true ∧ fld (s.cm h 0x84) 0 14 = p.2)))) ∧
    (∃ (s : State) (h : Fin 32), Scans s h ∧ (
      let g := s.cmSet h
      (
      let j := s.nextPlace h
      (
      let p := posAt g j
      ∃ l a n, p.1 = 0 ∧ p.2 + 1 < gVact g ∧ l < 10 ∧ (
      let w := ((s.outAt h).lineOpen h p.2).lineEvent h p.2
      (
      let x := w.each (List.range l) fun s k => s.readRow h k (p.2 + 1)
      (
      let x' := if l < 8 && tpCellar g l then x.readEntry h l (p.2 + 1) else x
      x'.layerOff h l = false ∧ x'.rowRange h l (p.2 + 1) = some (a, n)))))))) ∧
    (∃ (s : State) (h : Fin 32), Scans s h ∧ (
      let g := s.cmSet h
      (
      let j := s.nextPlace h
      (
      let p := posAt g j
      p.1 = 0 ∧ p.2 + 1 < gVact g ∧ (
      let w := (((s.outAt h).lineOpen h p.2).lineEvent h p.2).each (List.range 10) fun s k => s.readRow h k (p.2 + 1)
      w.mantelOn h (p.2 + 1) = true))))) ∧
    (∃ (s : State) (h : Fin 32), Scans s h ∧ (
      let j := s.nextPlace h
      ∃ c a x y, (
      let v := s.leaveAt h
      (v.head h).bs.pend = [⟨a, x, y, .irq c⟩] ∧ a ≤ j))) ∧
    (∃ (s : State) (h : Fin 32), Scans s h ∧ (
      let j := s.nextPlace h
      ∃ c a x y, (
      let v := s.leaveAt h
      (v.head h).bs.pend = [⟨a, x, y, .stamp c⟩] ∧ a ≤ j ∧ (v.head h).bs.stamps.length < 16))) ∧
    (∃ (s : State) (h : Fin 32), Scans s h ∧ (
      let g := s.cmSet h
      (
      let j := s.nextPlace h
      (
      let p := posAt g j
      (
      let v := s.showAt h
      (v.headPosition h p.1 p.2).mus.voices ≠ v.mus.voices))))) ∧
    ((
      let at' (s : State) (h : Fin 32) : Nat → State := fun k => Nat.repeat (fun s => s.tick h.val false) k s
      ∃ (s : State) (h : Fin 32) (i : Nat), (
      let at' (k : Nat) : State := s.headPassed h (s.place' h + k + 1)
      s.full = true ∧ (s.head h).phase = .boundary ∧ i < clkPix (s.cmSet h) 256 - s.place' h ∧ (at' i).mus.voices ≠ s.mus.voices ∧ (∀ k < i, (at' k).mus.voices = s.mus.voices)))) := by
  refine ⟨⟨(fr 95 14 [(0x84, 0x8000000F)] [] fun v => v), 31, 1, ?_⟩, ⟨(bp [0]), 31, 1, ?_⟩, ⟨bpAll, 31, 1, ?_⟩, ⟨bpAll, 31, 1, ?_⟩, ⟨(fr 0 16 [] [(0x910, 0xC0000000)] fun v => { v with bs := { bsInit with hold := .until_ 129 } }), 31, 1, ?_⟩, ⟨bpAll, 31, 1, ?_⟩, ⟨bpAll, 31, 1, ?_⟩, ⟨bpAll, 31, 1, ?_⟩, ⟨bpAll, 31, 1, ?_⟩, ⟨bpAll, 31, 1, ?_⟩, ⟨bpAll, 31, 1, ?_⟩, ⟨(bp [9 * 2 ^ 60]), 31, 1, ?_⟩, ⟨(fr 0 16 [] [(0x910, 0xC0000000)] fun v => { v with bs := { bsInit with hold := .fence 24 } }), 31, 1, ?_⟩, ⟨(fr 0 16 [] [] fun v => { v with bs := { bsInit with pend := [⟨1, 1, 16, .irq 1⟩] } }), 31, 1, ?_⟩, ⟨(fr 0 16 [] [] fun v => { v with bs := { bsInit with pend := [⟨1, 1, 16, .stamp 1⟩] } }), 31, 1, ?_⟩, ⟨(fr 63 16 [] [(0x910, 0x80000000)] fun v => { v with bs := { bsInit with hold := .starve } }), 31, 1, ?_⟩, ⟨(fr 63 14 [] [] fun v => v), 31, 1, ?_⟩, ⟨{ fr 0 16 [] [] (fun v => v) with mus := { musicInit with voices := [(575, { voiceInit with arm := some [0x301F0000, 0x00100001] })] } }, 31, 1, ?_⟩, ⟨(fr 0 16 [] [] fun v => { v with sp := { spInit with loading := true } }), 31, 1, ?_⟩, ⟨(fr 0 16 [] [] fun v => { v with sp := { spInit with loading := true } }), 31, 1, ?_⟩, ⟨(fr 95 7 [(0x600, 0x80000000), (0x60C, 0x100), (0x610, 0x00100010)] [] fun v => v), 31, 1, ?_⟩, ⟨(fr 95 7 [] [(0xB00, 0x80000000)] fun v => { v with mt := { mtInit with block := [0, 0x00100010] } }), 31, 1, ?_⟩, ⟨w0, 31, .mantelLineRead 31, ?_⟩, ⟨w0, 31, ?_⟩, ⟨(fr 63 0 [] [] fun v => v), 31, ?_⟩, ⟨(fr 63 16 [] [(0x910, 0x80000000)] fun v => { v with bs := { bsInit with hold := .starve } }), 31, ?_⟩, ⟨(fr 63 14 [] [(0x910, 0x80000000)] fun v => v), 31, ?_⟩, ⟨(fr 63 14 [] [] fun v => v), 31, ?_⟩, ⟨(fr 0 16 [] [(0x910, 0xC0000000)] fun v => { v with bs := { bsInit with hold := .until_ 129 } }), 31, ?_⟩, ⟨(fr 0 16 [] [(0x910, 0xC0000000)] fun v => { v with bs := { bsInit with hold := .fence 0 } }), 31, ?_⟩, ⟨(fr 0 16 [] [] fun v => { v with sp := { spInit with loading := true } }), 31, ?_⟩, ⟨(fr 95 14 [(0x84, 0x8000000F)] [] fun v => v), 31, ?_⟩, ⟨(fr 95 7 [(0x600, 0x80000000), (0x60C, 0x100), (0x610, 0x00100010)] [] fun v => v), 31, ?_⟩, ⟨(fr 95 7 [] [(0xB00, 0x80000000)] fun v => { v with mt := { mtInit with block := [0, 0x00100010] } }), 31, ?_⟩, ⟨(fr 0 16 [] [] fun v => { v with bs := { bsInit with pend := [⟨1, 1, 16, .irq 1⟩] } }), 31, ?_⟩, ⟨(fr 0 16 [] [] fun v => { v with bs := { bsInit with pend := [⟨1, 1, 16, .stamp 1⟩] } }), 31, ?_⟩, ⟨{ fr 0 16 [] [] (fun v => v) with mus := { musicInit with voices := [(575, { voiceInit with arm := some [0x301F0000, 0x00100001] })] } }, 31, ?_⟩, ⟨{ fr 0 16 [] [] (fun v => { v with phase := .boundary }) with mus := { musicInit with voices := [(575, { voiceInit with arm := some [0x301F0000, 0x00100001] })] } }, 31, 0, ?_⟩⟩
  · exact ⟨by decide +kernel, by decide, by decide +kernel, by decide +kernel, fun j h1 h2 => absurd h2 (by omega)⟩
  · exact ⟨by decide +kernel, by decide, by decide +kernel, by decide +kernel, fun j h1 h2 => absurd h2 (by omega)⟩
  · exact ⟨by decide +kernel, by decide, by decide +kernel, by decide +kernel, fun j h1 h2 => absurd h2 (by omega)⟩
  · exact ⟨by decide +kernel, by decide, by decide +kernel, by decide +kernel, fun j h1 h2 => absurd h2 (by omega)⟩
  · exact ⟨by decide +kernel, by decide, by decide +kernel, by decide +kernel, fun j h1 h2 => absurd h2 (by omega)⟩
  · exact ⟨by decide +kernel, by decide, by decide +kernel, by decide +kernel, fun j h1 h2 => absurd h2 (by omega)⟩
  · exact ⟨by decide +kernel, by decide, by decide +kernel, by decide +kernel, fun j h1 h2 => absurd h2 (by omega)⟩
  · exact ⟨by decide +kernel, by decide, by decide +kernel, by decide +kernel, fun j h1 h2 => absurd h2 (by omega)⟩
  · exact ⟨by decide +kernel, by decide, by decide +kernel, by decide +kernel, fun j h1 h2 => absurd h2 (by omega)⟩
  · exact ⟨by decide +kernel, by decide, by decide +kernel, by decide +kernel, fun j h1 h2 => absurd h2 (by omega)⟩
  · exact ⟨by decide +kernel, by decide, by decide +kernel, by decide +kernel, fun j h1 h2 => absurd h2 (by omega)⟩
  · exact ⟨by decide +kernel, by decide, by decide +kernel, by decide +kernel, fun j h1 h2 => absurd h2 (by omega)⟩
  · exact ⟨by decide +kernel, by decide, by decide +kernel, by decide +kernel, fun j h1 h2 => absurd h2 (by omega)⟩
  · exact ⟨by decide +kernel, by decide, by decide +kernel, by decide +kernel, fun j h1 h2 => absurd h2 (by omega)⟩
  · exact ⟨by decide +kernel, by decide, by decide +kernel, by decide +kernel, fun j h1 h2 => absurd h2 (by omega)⟩
  · exact ⟨by decide +kernel, by decide, by decide +kernel, by decide +kernel, fun j h1 h2 => absurd h2 (by omega)⟩
  · exact ⟨by decide +kernel, by decide, by decide +kernel, by decide +kernel, fun j h1 h2 => absurd h2 (by omega)⟩
  · exact ⟨by decide +kernel, by decide, by decide +kernel, by decide +kernel, fun j h1 h2 => absurd h2 (by omega)⟩
  · exact ⟨by decide +kernel, by decide, by decide +kernel, by decide +kernel, fun j h1 h2 => absurd h2 (by omega)⟩
  · exact ⟨by decide +kernel, by decide, by decide +kernel, by decide +kernel, fun j h1 h2 => absurd h2 (by omega)⟩
  · exact ⟨by decide +kernel, by decide, by decide +kernel, by decide +kernel, fun j h1 h2 => absurd h2 (by omega)⟩
  · exact ⟨by decide +kernel, by decide, by decide +kernel, by decide +kernel, fun j h1 h2 => absurd h2 (by omega)⟩
  · decide +kernel
  · decide +kernel
  · exact ⟨scans_of (by decide +kernel), by decide +kernel⟩
  · exact ⟨scans_of (by decide +kernel), by decide +kernel⟩
  · exact ⟨scans_of (by decide +kernel), by decide +kernel⟩
  · exact ⟨scans_of (by decide +kernel), by decide +kernel⟩
  · exact ⟨scans_of (by decide +kernel), 129, by decide +kernel⟩
  · exact ⟨scans_of (by decide +kernel), 0, by decide +kernel⟩
  · exact ⟨scans_of (by decide +kernel), by decide +kernel⟩
  · exact ⟨scans_of (by decide +kernel), by decide +kernel⟩
  · exact ⟨scans_of (by decide +kernel), 8, 0x900, 32, by decide +kernel⟩
  · exact ⟨scans_of (by decide +kernel), by decide +kernel⟩
  · exact ⟨scans_of (by decide +kernel), 1, 1, 1, 16, by decide +kernel⟩
  · exact ⟨scans_of (by decide +kernel), 1, 1, 1, 16, by decide +kernel⟩
  · exact ⟨scans_of (by decide +kernel), by decide +kernel⟩
  · decide +kernel

/-- A state and operands that meet the hypotheses of each clause of BeamEntries. -/
theorem test_witness_BeamEntries :
    (∃ (s : State) (h : Fin 32) (i e : Nat) (fl : List Nat), Executes s h i e fl ∧ entOp e = 0) ∧
    (∃ (s : State) (h : Fin 32) (i e : Nat) (fl : List Nat), Executes s h i e fl ∧ entOp e = 1) ∧
    (∃ (s : State) (h : Fin 32) (i e : Nat) (fl : List Nat), Executes s h i e fl ∧ entOp e = 2) ∧
    (∃ (s : State) (h : Fin 32) (i e : Nat) (fl : List Nat), Executes s h i e fl ∧ entOp e = 3) ∧
    (∃ (s : State) (h : Fin 32) (i e : Nat) (fl : List Nat), Executes s h i e fl ∧ entOp e = 4) ∧
    (∃ (s : State) (h : Fin 32) (i e : Nat) (fl : List Nat), Executes s h i e fl ∧ (
      let u := ((s.seqAt h).bsPrefetch h (i / 8)).mark h (entOp e)
      entOp e = 5 ∧ (u.bsCond h e = false ∨ ef e 48 8 = 0))) ∧
    (∃ (s : State) (h : Fin 32) (i e : Nat) (fl : List Nat), Executes s h i e fl ∧ (
      let u := ((s.seqAt h).bsPrefetch h (i / 8)).mark h (entOp e)
      entOp e = 5 ∧ u.bsCond h e = true ∧ ef e 48 8 ≠ 0)) ∧
    (∃ (s : State) (h : Fin 32) (i e : Nat) (fl : List Nat), Executes s h i e fl ∧ entOp e = 6 ∧ ef e 58 2 = 0) ∧
    (∃ (s : State) (h : Fin 32) (i e : Nat) (fl : List Nat), Executes s h i e fl ∧ entOp e = 6 ∧ ef e 58 2 = 1 ∧ ef e 57 1 = 0) ∧
    (∃ (s : State) (h : Fin 32) (i e : Nat) (fl : List Nat), Executes s h i e fl ∧ entOp e = 6 ∧ ef e 58 2 = 1 ∧ ef e 57 1 = 1) ∧
    (∃ (s : State) (h : Fin 32) (i e : Nat) (fl : List Nat), Executes s h i e fl ∧ entOp e = 7) ∧
    (∃ (s : State) (h : Fin 32) (i e : Nat) (fl : List Nat), Executes s h i e fl ∧ entOp e = 8) ∧
    (∃ (s : State) (h : Fin 32) (i e : Nat) (fl : List Nat), Executes s h i e fl ∧ entOp e = 9) ∧
    (∃ (s : State) (h i e : Nat) (fl : List Nat), entOp e = 0) ∧
    (∃ (s : State) (h i e : Nat) (fl : List Nat), (
      let t := s.mark h (entOp e)
      (entOp e = 1 ∨ entOp e = 2) ∧ t.bsTarget h e = none)) ∧
    (∃ (s : State) (h i e : Nat) (fl : List Nat), (
      let t := s.mark h (entOp e)
      ∃ w, (entOp e = 1 ∨ entOp e = 2) ∧ t.bsTarget h e = some w ∧ (t.head h).bs.pix (s.cmSet h) (t.head h).bs.clk + lead < w)) ∧
    (∃ (s : State) (h i e : Nat) (fl : List Nat), entOp e = 3) ∧
    (∃ (s : State) (h i e : Nat) (fl : List Nat), entOp e = 4) ∧
    (∃ (s : State) (h i e : Nat) (fl : List Nat), (
      let t := s.mark h (entOp e)
      entOp e = 5 ∧ t.bsCond h e = false)) ∧
    (∃ (s : State) (h i e : Nat) (fl : List Nat), (
      let t := s.mark h (entOp e)
      entOp e = 5 ∧ t.bsCond h e = true ∧ ef e 48 8 ≠ 0)) ∧
    (∃ (s : State) (h i e : Nat) (fl : List Nat), entOp e = 6 ∧ ef e 58 2 = 0) ∧
    (∃ (s : State) (h i e : Nat) (fl : List Nat), entOp e = 6 ∧ ef e 58 2 = 1 ∧ ef e 57 1 = 0) ∧
    (∃ (s : State) (h i e : Nat) (fl : List Nat), (
      let t := s.mark h (entOp e)
      entOp e = 6 ∧ 2 ≤ ef e 58 2 ∧ ef e 57 1 = 0 ∧ (t.head h).bs.lc0 = 0)) ∧
    (∃ (s : State) (h i e : Nat) (fl : List Nat), (
      let t := s.mark h (entOp e)
      entOp e = 6 ∧ 2 ≤ ef e 58 2 ∧ ef e 57 1 = 0 ∧ (t.head h).bs.lc0 ≠ 0)) ∧
    (∃ (s : State) (h i e : Nat) (fl : List Nat), entOp e = 7) ∧
    (∃ (s : State) (h i e : Nat) (fl : List Nat), entOp e = 8) ∧
    (∃ (s : State) (h i e : Nat) (fl : List Nat), 9 ≤ entOp e) := by
  refine ⟨⟨(be [0, 0, 0]), 31, 0, 0, [], ?_⟩, ⟨(be [1152921504607895552, 0, 0]), 31, 0, 1152921504607895552, [], ?_⟩, ⟨(be [2305843011361177600, 0, 0]), 31, 0, 2305843011361177600, [], ?_⟩, ⟨(be [3458774512504406016, 0, 0]), 31, 0, 3458774512504406016, [], ?_⟩, ⟨(be [4611696017111252992, 0, 0, 0]), 31, 0, 4611696017111252992, [0], ?_⟩, ⟨(be [5764607523034234911, 0, 0]), 31, 0, 5764607523034234911, [], ?_⟩, ⟨(be [5836946592048873472, 0, 0]), 31, 0, 5836946592048873472, [], ?_⟩, ⟨(be [6917529027641081856, 0, 0]), 31, 0, 6917529027641081856, [], ?_⟩, ⟨(be [7205759403792793600, 0, 0]), 31, 0, 7205759403792793600, [], ?_⟩, ⟨(be [7349874591868649472, 0, 0]), 31, 0, 7349874591868649472, [], ?_⟩, ⟨(be [8070450532247928832, 0, 0]), 31, 0, 8070450532247928832, [], ?_⟩, ⟨(be [9223372036854775808, 0, 0]), 31, 0, 9223372036854775808, [], ?_⟩, ⟨(be [10376293541461622784, 0, 0]), 31, 0, 10376293541461622784, [], ?_⟩, ⟨w0, 31, 0, 0, [], ?_⟩, ⟨(fr 95 15 [] [] fun v => v), 31, 0, 1 * 2 ^ 60 + 96, [], ?_⟩, ⟨(fr 0 16 [] [] fun v => v), 31, 0, 1 * 2 ^ 60 + 95, [], 863, ?_⟩, ⟨w0, 31, 0, 3 * 2 ^ 60, [], ?_⟩, ⟨w0, 31, 0, 4 * 2 ^ 60, [], ?_⟩, ⟨w0, 31, 0, 5 * 2 ^ 60 + 31, [], ?_⟩, ⟨w0, 31, 0, 5 * 2 ^ 60 + 2 ^ 56 + 255 * 2 ^ 48, [], ?_⟩, ⟨w0, 31, 0, 6 * 2 ^ 60 + 0x7FFF, [], ?_⟩, ⟨w0, 31, 0, 6 * 2 ^ 60 + 2 ^ 58, [], ?_⟩, ⟨w0, 31, 0, 6 * 2 ^ 60 + 2 ^ 59, [], ?_⟩, ⟨(w0.updBs 31 fun b => { b with lc0 := 65535 }), 31, 0, 6 * 2 ^ 60 + 3 * 2 ^ 58, [], ?_⟩, ⟨w0, 31, 0, 7 * 2 ^ 60, [], ?_⟩, ⟨w0, 31, 0, 8 * 2 ^ 60, [], ?_⟩, ⟨w0, 31, 0, 15 * 2 ^ 60, [], ?_⟩⟩
  · exact ⟨executes_of (by decide +kernel), by decide +kernel⟩
  · exact ⟨executes_of (by decide +kernel), by decide +kernel⟩
  · exact ⟨executes_of (by decide +kernel), by decide +kernel⟩
  · exact ⟨executes_of (by decide +kernel), by decide +kernel⟩
  · exact ⟨executes_of (by decide +kernel), by decide +kernel⟩
  · exact ⟨executes_of (by decide +kernel), by decide +kernel⟩
  · exact ⟨executes_of (by decide +kernel), by decide +kernel⟩
  · exact ⟨executes_of (by decide +kernel), by decide +kernel⟩
  · exact ⟨executes_of (by decide +kernel), by decide +kernel⟩
  · exact ⟨executes_of (by decide +kernel), by decide +kernel⟩
  · exact ⟨executes_of (by decide +kernel), by decide +kernel⟩
  · exact ⟨executes_of (by decide +kernel), by decide +kernel⟩
  · exact ⟨executes_of (by decide +kernel), by decide +kernel⟩
  · decide +kernel
  · decide +kernel
  · decide +kernel
  · decide +kernel
  · decide +kernel
  · decide +kernel
  · decide +kernel
  · decide +kernel
  · decide +kernel
  · decide +kernel
  · decide +kernel
  · decide +kernel
  · decide +kernel
  · decide +kernel

/-- A state and operands that meet the hypotheses of each clause of LayerRows. -/
theorem test_witness_LayerRows :
    (∃ (s : State) (h : Fin 32) (l : Fin 11) (x y : Nat), s.full = true ∧ (s.head h.val).phase = .frame ∧ s.gliding h.val = false ∧ s.place' h.val + 1 = beamIndex (s.cmSet h.val) x y ∧ s.layerOff h.val l.val = false) ∧
    (∃ (s : State) (h : Fin 32) (x y : Nat), s.full = true ∧ (s.head h.val).phase = .frame ∧ s.gliding h.val = false ∧ s.place' h.val + 1 = beamIndex (s.cmSet h.val) x y ∧ s.mantelEn h.val = true ∧ s.noContent h.val = false) ∧
    (∃ (s : State) (h : Fin 32) (i : BitVec 16) (k : Nat), (
      let at' : Nat → State := fun k => Nat.repeat (fun s => s.tick h.val false) k (s.mantelSpoil h.val i.toNat)
      s.full = true ∧ 0 < k ∧ k ≤ (s.mantelSpoil h.val i.toNat).ticksLeft h.val ∧ (at' k).regB (kMstat h.val) 31 = true ∧ (∀ j, 0 < j → j < k → (at' j).regB (kMstat h.val) 31 = false))) ∧
    (∃ (s : State) (h : Fin 32) (drop : Bool) (k : Nat), (
      let at' : Nat → State := fun k => Nat.repeat (fun s => s.tick h.val drop) k s
      s.full = true ∧ 0 < k ∧ k ≤ s.ticksLeft h.val ∧ tWbLine ∈ ((at' k).head h.val).did ∧ (∀ j, 0 < j → j < k → tWbLine ∉ ((at' j).head h.val).did))) ∧
    (∃ (s : State) (h : Fin 32) (drop : Bool), Scans s h ∧ (
      let p := posAt (s.cmSet h) (s.nextPlace h)
      p.2 < gVact (s.cmSet h) ∧ p.1 + 1 = gHact (s.cmSet h) ∧ wbEn (s.cmSet h) = true)) ∧
    (∃ (s : State) (h : Fin 32), s.full = true ∧ ((s.head h.val).bs.pend.any fun p => (match p.ev with | .write _ false => true | _ => false) && decide (p.at' ≤ s.place' h.val)) = true) ∧
    (∃ (s : State) (h : Fin 32) (o : Open), s.live = true ∧ s.studyUp = true ∧ (s.head h.val).mt.pend = none ∧ (s.foy.opens.find? fun o => o.begun && o.fin.isNone && decide (o.wait = .mantel h.val)) = some o) := by
  refine ⟨⟨(fr 62 0 [] [] fun v => v), 31, 10, 63, 0, ?_⟩, ⟨(fr 62 0 [] [(0xB00, 0x80000000)] fun v => v), 31, 63, 0, ?_⟩, ⟨(fr 0 3 [(0x00, 1), (0x04, 0), (0x08, 0)] [(0xB00, 0x80000000)] fun v => { v with mt := { mtInit with block := [0, 0x00100010] } }), 31, 10, 2, ?_⟩, ⟨(fr 62 15 [(0xAC0, 0x80000000)] [] fun v => v), 31, true, 1, ?_⟩, ⟨(fr 62 15 [(0xAC0, 0x80000000)] [] fun v => v), 31, false, ?_⟩, ⟨(fr 1 16 [] [] fun v => { v with bs := { bsInit with pend := [⟨1, 1, 16, .write [(0x1A40, 0)] false⟩] } }), 31, ?_⟩, ⟨(op0 (.mantel 31)), 31, (opn (.mantel 31)), ?_⟩⟩
  · decide +kernel
  · decide +kernel
  · exact ⟨by decide +kernel, by decide, by decide +kernel, by decide +kernel, fun j h1 h2 => by
    obtain rfl : j = 1 := by omega
    decide +kernel⟩
  · exact ⟨by decide +kernel, by decide, by decide +kernel, by decide +kernel, fun j h1 h2 => absurd h2 (by omega)⟩
  · exact ⟨scans_of (by decide +kernel), by decide +kernel⟩
  · decide +kernel
  · decide +kernel

/-- A state and operands that meet the hypotheses of each clause of PortRows. -/
theorem test_witness_PortRows :
    (∃ (s : State) (p : Fin 32) (t : Training) (w : Word) (c r l : Nat), s.full = true ∧ (s.port p.val).training = true ∧ (s.port p.val).pend = some w ∧ t.cand = some c ∧ t.lttpr ≤ 2 ∧ t.orderRev = false ∧ t.polRev = 0 ∧ t.attempts ≤ 16 ∧ t.us ≤ 500000 ∧ t.eq = 0 ∧ s.regB (kFault p.val) 12 = false ∧ s.regB (kFault p.val) 13 = false ∧ s.regB (kFault p.val) 15 = true ∧ (s.candidates p.val w (decide (t.lttpr = 0) || t.uhbr))[c]? = some (r, l)) ∧
    (∃ (s : State) (p : Fin 32), s.live = true ∧ s.regB (kFault p.val) 15 = false) ∧
    (∃ (s : State) (p : Fin 32), s.live = true ∧ s.regB (kFault p.val) 15 = true) ∧
    (∃ (s : State) (p : Fin 32), s.live = true ∧ s.regB (kFault p.val) 15 = true ∧ (s.port p.val).training = true) ∧
    (∃ (s : State) (p : Fin 32), s.live = true ∧ s.regB (kFault p.val) 15 = true ∧ (s.port p.val).training = false) ∧
    (∃ (s : State) (p : Fin 32), s.live = true) ∧
    (∃ (s : State) (p : Fin 32) (d : List Byte) (w : Word), s.live = true ∧ s.regB (kFault p.val) 15 = true ∧ s.regB (kFault p.val) 12 = false ∧ s.regB (kFault p.val) 13 = false) ∧
    (∃ (s : State) (p : Fin 32) (w : Word), s.live = true ∧ bit w 14 = false ∧ (∀ i < 15, bit w i = true → s.regB (kFault p.val) i = true)) ∧
    (∃ (s : State) (p : Fin 4), s.full = true ∧ s.linkUp p.val = true ∧ s.regB (kEcho p.val) 30 = true) ∧
    (∃ (s : State) (p : Fin 4) (lanes : BitVec 4) (n : Nat), s.full = true ∧ s.regB (kEcho p.val) 30 = true ∧ s.regB (kEcho p.val) 29 = true ∧ lanes ≠ 0 ∧ s.routeEn p.val = false) ∧
    (∃ (s : State) (p : Fin 4) (lanes : BitVec 4) (n : Nat), s.full = true ∧ s.regB (kEcho p.val) 30 = true ∧ s.regB (kEcho p.val) 29 = true ∧ lanes ≠ 0 ∧ s.routeEn p.val = true ∧ (s.head (s.routeSrc p.val)).ig.raised = false) := by
  refine ⟨⟨(put (w0.updPort 31 fun v => { v with training := true, pend := some 0x80000000 }) [(kFault 31, 0x8000), (kSink 31, 0x3F000000 ||| 0x00C00000)]), 31, ⟨some 0, 0, false, 2, 16, 500000, 0, 0, true⟩, 0x80000000, 0, 5, 1, ?_⟩, ⟨w0, 31, ?_⟩, ⟨(put w0 [(kFault 31, 0x8000)]), 31, ?_⟩, ⟨(put (w0.updPort 31 fun v => { v with training := true, pend := some 0 }) [(kFault 31, 0x8000), (kSink 31, 0x3F000000 ||| 0x00C00000)]), 31, ?_⟩, ⟨(put (w0.updPort 31 fun v => { v with training := false, pend := some 0 }) [(kFault 31, 0x8000), (kSink 31, 0x3F000000 ||| 0x00C00000)]), 31, ?_⟩, ⟨w0, 31, ?_⟩, ⟨(put w0 [(kFault 31, 0x8000)]), 31, [], 0, ?_⟩, ⟨(put w0 [(kFault 31, 0x8001)]), 31, 1, ?_⟩, ⟨(put w0 [(kLink 3, 0x60000000), (kEcho 3, 0x40000000)]), 3, ?_⟩, ⟨(put w0 [(kEcho 3, 0x60000000)]), 3, 15, 1, ?_⟩, ⟨(put w0 [(kEcho 3, 0x60000000), (kDPL + 0x40 * 3, 0x8000001F)]), 3, 15, 1, ?_⟩⟩
  all_goals decide +kernel

/-- A state and operands that meet the hypotheses of each clause of MemoryEvents. -/
theorem test_witness_MemoryEvents :
    (∃ (s : State) (r : Fin 64), s.live = true ∧ s.celFilling r.val = true ∧ s.twinOf r.val = none) ∧
    (∃ (s : State) (r : Fin 64) (t : Nat), s.live = true ∧ s.celFilling r.val = true ∧ s.twinOf r.val = some t) ∧
    (∃ (s : State) (r : Fin 64), s.live = true ∧ s.celFilling r.val = false) ∧
    (∃ (s : State) (r : Fin 256) (o : Open), s.foyerUp = true ∧ (s.foy.opens.find? fun o => o.begun && o.fin.isNone && decide (o.wait = .load r.val)) = some o) ∧
    (∃ (s : State) (n : Nat) (o : Open), s.foyerUp = true ∧ (s.foy.opens.filter fun o => o.begun && o.fin.isNone && decide (o.wait = .memOp))[n]? = some o) ∧
    (∃ (s : State) (a : BitVec 40), (
      let l := a.toNat / 64 * 64
      (
      let p := s.scrubPlace l
      (
      let t := s.celUse 0x04 false true p l 64
      (
      let cws := codewords (t.grain p) l 64
      s.live = true ∧ p ≠ .none ∧ (∀ r, p = .cellar r → fld (s.celAttr r) 21 2 ≠ 0) ∧ cws.find? (fun c => decide (t.code c = .uncorr)) = none))))) ∧
    (∃ (s : State) (a : BitVec 40), (
      let l := a.toNat / 64 * 64
      (
      let p := s.scrubPlace l
      (
      let t := s.celUse 0x04 false true p l 64
      (
      let cws := codewords (t.grain p) l 64
      s.live = true ∧ p ≠ .none ∧ (∀ r, p = .cellar r → fld (s.celAttr r) 21 2 ≠ 0) ∧ ∃ c, cws.find? (fun c => decide (t.code c = .uncorr)) = some c))))) ∧
    (∃ (s : State) (h : Fin 32) (i : BitVec 16) (pos : Nat), s.live = true ∧ Tbl.get (fun _ => Code.good) (s.head h.val).mt.codes i.toNat = .corr pos) ∧
    (∃ (s : State) (n : Fin 16) (i : BitVec 14) (pos : Nat), s.live = true ∧ (s.core n.val).wordCode i.toNat = .corr pos) ∧
    (∃ (s : State) (c : Fin 8) (temp : Byte), s.chimneyUp = true ∧ s.regB (kChstat c.val) 31 = true ∧ s.regB (kChstat c.val) 29 = false ∧ s.regF (kChtemp c.val) 8 8 = 2 ∧ 85 < temp.toInt) ∧
    (∃ (s : State) (c : Fin 8) (temp : Byte), s.chimneyUp = true ∧ s.regB (kChstat c.val) 31 = true ∧ s.regB (kChstat c.val) 29 = false ∧ s.regF (kChtemp c.val) 8 8 = 1 ∧ 85 < temp.toInt) ∧
    (∃ (s : State) (i : Fin 16) (tags : Nat), s.live = true) := by
  refine ⟨⟨w0, 1, ?_⟩, ⟨(put w0 [(kCEL + 0x80, 0x03000104), (kReg 63, 0xC0000000), (kReg 63 + 4, 1), (kReg 63 + 8, 0x10000), (kReg 63 + 0x10, 0xCC000000), (kReg 63 + 0x14, 0x40000000)]), 63, 0x1E0000000, ?_⟩, ⟨w0, 0, ?_⟩, ⟨(op0 (.load 255)), 255, (opn (.load 255)), ?_⟩, ⟨(op0 .memOp), 0, (opn .memOp), ?_⟩, ⟨w0, 0x8000000040, ?_⟩, ⟨(w0.setCode 0x8000000040 .uncorr), 0x8000000040, ?_⟩, ⟨(w0.updHead 31 fun v => { v with mt := { mtInit with codes := [(65535, .corr 5)] } }), 31, 65535, 5, ?_⟩, ⟨(w0.updCore 15 fun c => { c with pcode := [(16383, .corr 13)] }), 15, 16383, 13, ?_⟩, ⟨(put bt0 [(kChstat 7, 0x80000000), (kChtemp 7, 0x200)]), 7, 86, ?_⟩, ⟨(put bt0 [(kChstat 7, 0x80000000), (kChtemp 7, 0x100)]), 7, 86, ?_⟩, ⟨w0, 15, 49, ?_⟩⟩
  · decide +kernel
  · decide +kernel
  · decide +kernel
  · decide +kernel
  · decide +kernel
  · exact ⟨by decide +kernel, by decide +kernel, no_cellar (by decide +kernel), by decide +kernel⟩
  · exact ⟨by decide +kernel, by decide +kernel, no_cellar (by decide +kernel), 0x8000000040, by decide +kernel⟩
  · decide +kernel
  · decide +kernel
  · decide +kernel
  · decide +kernel
  · decide +kernel

/-- A state and operands that meet the hypotheses of each clause of RectRows. -/
theorem test_witness_RectRows :
    (∃ (s : State) (e : Fin 4) (acc : Nat) (opw : Word) (ps : List Word) (rest : List (Nat × List Word)), s.live = true ∧ (s.rect1 e.val).run = none ∧ (s.rect1 e.val).queue = (acc, opw :: ps) :: rest ∧ (
      let r := rectOf opw.toNat fun k => ps.getD k 0
      (
      let t := s.setRect e.val { s.rect1 e.val with queue := rest }
      t.expert 0x0A = false ∧ t.rectBadAddr r = none ∧ t.rectSealed r = none))) ∧
    (∃ (s u v t : State) (e : Fin 4) (op : RectOp) (bs : List Byte), s.live = true ∧ (s.rect1 e.val).run = some op ∧ (op.gap = false ∨ s.rectGap e.val op = 0) ∧ op.row < op.h ∧ (
      let b := op.next
      (
      let n := b.hi - b.lo
      (
      let src := rectSource op b.y (b.lo - b.a) n
      (
      let srow := op.src + b.y * op.spitch
      (
      let slen := rowBytes op.sfmt op.w
      (
      let buf := if op.overlap && decide (op.line = 0) then s.bytes srow slen else op.buf
      (if op.op = 0 then u = s else s.devRead 0x0A e.val src.1 src.2 = (.ok bs, u)) ∧ (
      let row := if op.op = 0 then [] else if op.overlap then buf else u.bytes srow slen
      (
      let runs := writeRuns b.lo (rectBytes op row (fun o => u.byte (b.a + o)) (b.lo - b.a) n)
      u.rectChecks e.val (u.rectKept op row b.a b.lo n) = (true, v) ∧ v.rectRmw runs = none ∧ v.rectWrite e.val runs = (.ok, t)))))))))) ∧
    (∃ (s : State) (e : Fin 4) (op : RectOp) (count : Nat), s.live = true ∧ (s.rect1 e.val).run = some op ∧ op.gap = true ∧ s.rectGap e.val op ≤ count) ∧
    (∃ (s : State) (e : Fin 4) (op : RectOp), (
      let n := s.regF (kRct e.val + 0x34) 0 14
      s.live = true ∧ (s.rect1 e.val).run = some op ∧ n < op.row ∧ n + 1 ≠ op.h ∧ n + 1 ≠ op.wm)) ∧
    (∃ (s : State) (e : Fin 4) (op : RectOp), (
      let n := s.regF (kRct e.val + 0x34) 0 14
      s.live = true ∧ (s.rect1 e.val).run = some op ∧ n < op.row ∧ n + 1 ≠ op.h ∧ n + 1 = op.wm)) ∧
    (∃ (s : State) (e : Fin 4) (op : RectOp), (
      let n := s.regF (kRct e.val + 0x34) 0 14
      s.live = true ∧ (s.rect1 e.val).run = some op ∧ n < op.row ∧ n + 1 = op.h)) ∧
    (∃ (s : State) (e : Fin 4) (op : RectOp), s.live = true ∧ (s.rect1 e.val).run = some op ∧ op.row = op.h ∧ s.regF (kRct e.val + 0x34) 0 14 + 1 = op.h) ∧
    (∃ (s : State) (e : Fin 4), s.live = true ∧ s.rectMeetsPoison e.val = true) := by
  refine ⟨⟨(w0.setRect 3 ⟨[(0, 0 :: [0, 0, 0, 0, 0x100, 0x00100010])], none, []⟩), 3, 0, 0, [0, 0, 0, 0, 0x100, 0x00100010], [], ?_⟩, ⟨(w0.setRect 3 ⟨[], some ⟨none, 0, 0, 0, false, 0, 0x100, 0, 0, 16, 16, 0, 0, 0, false, false, false, 15, 0, [], false⟩, []⟩), (w0.setRect 3 ⟨[], some ⟨none, 0, 0, 0, false, 0, 0x100, 0, 0, 16, 16, 0, 0, 0, false, false, false, 15, 0, [], false⟩, []⟩), (w0.setRect 3 ⟨[], some ⟨none, 0, 0, 0, false, 0, 0x100, 0, 0, 16, 16, 0, 0, 0, false, false, false, 15, 0, [], false⟩, []⟩), ((w0.setRect 3 ⟨[], some ⟨none, 0, 0, 0, false, 0, 0x100, 0, 0, 16, 16, 0, 0, 0, false, false, false, 15, 0, [], false⟩, []⟩).rectWrite 3 (writeRuns (15 * 0x100) (rectBytes ⟨none, 0, 0, 0, false, 0, 0x100, 0, 0, 16, 16, 0, 0, 0, false, false, false, 15, 0, [], false⟩ [] (fun _ => 0) 0 16))).2, 3, ⟨none, 0, 0, 0, false, 0, 0x100, 0, 0, 16, 16, 0, 0, 0, false, false, false, 15, 0, [], false⟩, [], ?_⟩, ⟨(w0.setRect 3 ⟨[], some ⟨none, 0, 0, 0, false, 0, 0x100, 0, 0, 16, 16, 0, 0, 0, false, false, false, 15, 0, [], true⟩, []⟩), 3, ⟨none, 0, 0, 0, false, 0, 0x100, 0, 0, 16, 16, 0, 0, 0, false, false, false, 15, 0, [], true⟩, 0, ?_⟩, ⟨(w0.setRect 3 ⟨[], some ⟨none, 0, 0, 0, false, 0, 0x100, 0, 0, 16, 16, 0, 0, 0, false, false, false, 1, 0, [], false⟩, []⟩), 3, ⟨none, 0, 0, 0, false, 0, 0x100, 0, 0, 16, 16, 0, 0, 0, false, false, false, 1, 0, [], false⟩, ?_⟩, ⟨(w0.setRect 3 ⟨[], some ⟨none, 0, 0, 0, false, 0, 0x100, 0, 0, 16, 16, 0, 0, 1, false, false, false, 1, 0, [], false⟩, []⟩), 3, ⟨none, 0, 0, 0, false, 0, 0x100, 0, 0, 16, 16, 0, 0, 1, false, false, false, 1, 0, [], false⟩, ?_⟩, ⟨(put (w0.setRect 3 ⟨[], some ⟨none, 0, 0, 0, false, 0, 0x100, 0, 0, 16, 16, 0, 0, 0, false, false, false, 16, 0, [], false⟩, []⟩) [(kRct 3 + 0x34, 15)]), 3, ⟨none, 0, 0, 0, false, 0, 0x100, 0, 0, 16, 16, 0, 0, 0, false, false, false, 16, 0, [], false⟩, ?_⟩, ⟨(put (w0.setRect 3 ⟨[], some ⟨none, 0, 0, 0, false, 0, 0x100, 0, 0, 16, 16, 0, 0, 0, false, false, false, 16, 0, [], false⟩, []⟩) [(kRct 3 + 0x34, 15)]), 3, ⟨none, 0, 0, 0, false, 0, 0x100, 0, 0, 16, 16, 0, 0, 0, false, false, false, 16, 0, [], false⟩, ?_⟩, ⟨((w0.setRect 3 ⟨[], some ⟨none, 0, 0, 0, false, 0, 0x100, 0, 0, 16, 16, 0, 0, 0, false, false, false, 15, 0, [], false⟩, []⟩).setCode 0xF00 .uncorr), 3, ?_⟩⟩
  all_goals decide +kernel

/-- A state and operands that meet the hypotheses of each clause of DumbwaiterRows. -/
theorem test_witness_DumbwaiterRows :
    (∃ (s t : State) (c : Fin 64) (a : Nat) (bs : List Byte), s.live = true ∧ (s.dwc c.val).fetch = some a ∧ s.regB (kDw c.val + 4) 31 = true ∧ a % 32 = 0 ∧ s.dwInside (a, 32) = true ∧ s.devRead 0x09 c.val a 32 = (.ok bs, t) ∧ t.dwCause (toWords bs) = none) ∧
    (∃ (s t : State) (c : Fin 64) (a k : Nat) (bs : List Byte), s.live = true ∧ (s.dwc c.val).fetch = some a ∧ s.regB (kDw c.val + 4) 31 = true ∧ a % 32 = 0 ∧ s.dwInside (a, 32) = true ∧ s.devRead 0x09 c.val a 32 = (.ok bs, t) ∧ t.dwCause (toWords bs) = some k) ∧
    (∃ (s t u : State) (c : Fin 64) (bs : List Byte), s.live = true ∧ s.dwReady c.val = true ∧ (
      let k := kDw c.val
      (
      let d := (s.dwc c.val).desc
      (
      let rem := (s.reg (k + 0x14)).toNat
      (
      let k0 := (dwWord d 1).toNat - rem
      (
      let n := min (64 * 2 ^ fld (dwWord d 0) 24 3) rem
      (
      let q := if bit (dwWord d 0) 29 then s.setF (k + 0x34) 0 4 (s.regF (k + 0x34) 0 4 - 1) else s
      dwReads c (dwSide d 0) q (dwChunks (dwSide d 0) n k0 n) [] = (.ok bs, t) ∧ t.dwRmw (dwSide d 1) (dwChunks (dwSide d 1) n k0 n) = none ∧ dwWrites c (dwSide d 1) k0 bs t (dwChunks (dwSide d 1) n k0 n) = (.ok, u) ∧ u.regB (k + 4) 31 = true))))))) ∧
    (∃ (s : State) (c : Fin 64) (count : Nat), s.live = true ∧ (s.dwc c.val).gap = true ∧ s.dwPause c.val ≤ count) ∧
    (∃ (s : State) (c : Fin 64), (
      let d := (s.dwc c.val).desc
      s.live = true ∧ s.regB (kDw c.val + 4) 31 = true ∧ d ≠ [] ∧ (s.dwc c.val).fetch = none ∧ s.reg (kDw c.val + 0x14) = 0 ∧ bit (dwWord d 0) 30 = true)) ∧
    (∃ (s : State) (c : Fin 64), (
      let d := (s.dwc c.val).desc
      (
      let st := if dwWord d 1 = 0 then Status.okEmpty else .ok
      (
      let u := (s.incReg (kDw c.val + 0x38)).setF (kDw c.val + 4) 0 16 (statusCode st)
      (
      let t := if bit (dwWord d 0) 31 then u.setB (kDw c.val + 4) 27 true else u
      s.live = true ∧ s.regB (kDw c.val + 4) 31 = true ∧ d ≠ [] ∧ (s.dwc c.val).fetch = none ∧ s.reg (kDw c.val + 0x14) = 0 ∧ bit (dwWord d 0) 30 = false ∧ t.regB (kDw c.val + 4) 29 = true))))) ∧
    (∃ (s : State) (c : Fin 64), (
      let d := (s.dwc c.val).desc
      (
      let st := if dwWord d 1 = 0 then Status.okEmpty else .ok
      (
      let u := (s.incReg (kDw c.val + 0x38)).setF (kDw c.val + 4) 0 16 (statusCode st)
      (
      let t := if bit (dwWord d 0) 31 then u.setB (kDw c.val + 4) 27 true else u
      s.live = true ∧ s.regB (kDw c.val + 4) 31 = true ∧ d ≠ [] ∧ (s.dwc c.val).fetch = none ∧ s.reg (kDw c.val + 0x14) = 0 ∧ bit (dwWord d 0) 30 = false ∧ t.regB (kDw c.val + 4) 29 = false))))) ∧
    (∃ (s : State) (c : Fin 64), s.live = true ∧ s.dwMeetsPoison c = true) := by
  refine ⟨⟨(put (w0.setDw 63 ⟨[], (some 0xFFFE0), false, 0⟩) [(kDw 63 + 4, 0x80000000), (kDw 63 + 0x14, 0)]), ((put (w0.setDw 63 ⟨[], (some 0xFFFE0), false, 0⟩) [(kDw 63 + 4, 0x80000000), (kDw 63 + 0x14, 0)]).devRead 0x09 63 0xFFFE0 32).2, 63, 0xFFFE0, List.replicate 32 0, ?_⟩, ⟨((put (w0.setDw 63 ⟨[], (some 0xFFFE0), false, 0⟩) [(kDw 63 + 4, 0x80000000), (kDw 63 + 0x14, 0)]).setBytes 0xFFFE0 [1]), (((put (w0.setDw 63 ⟨[], (some 0xFFFE0), false, 0⟩) [(kDw 63 + 4, 0x80000000), (kDw 63 + 0x14, 0)]).setBytes 0xFFFE0 [1]).devRead 0x09 63 0xFFFE0 32).2, 63, 0xFFFE0, 1, 1 :: List.replicate 31 0, ?_⟩, ⟨(put (w0.setDw 63 ⟨[0, 64, 0, 0, 0x1000, 0, 0, 0], none, false, 0⟩) [(kDw 63 + 4, 0x80000000), (kDw 63 + 0x14, 64)]), (dwReads 63 (0, 0, false) (put (w0.setDw 63 ⟨[0, 64, 0, 0, 0x1000, 0, 0, 0], none, false, 0⟩) [(kDw 63 + 4, 0x80000000), (kDw 63 + 0x14, 64)]) [(0, 64)] []).2, (dwWrites 63 (0x1000, 0, false) 0 (List.replicate 64 0) (dwReads 63 (0, 0, false) (put (w0.setDw 63 ⟨[0, 64, 0, 0, 0x1000, 0, 0, 0], none, false, 0⟩) [(kDw 63 + 4, 0x80000000), (kDw 63 + 0x14, 64)]) [(0, 64)] []).2 [(0, 64)]).2, 63, List.replicate 64 0, ?_⟩, ⟨(put (w0.setDw 63 ⟨[], none, true, 0⟩) [(kDw 63 + 4, 0x80000000), (kDw 63 + 0x14, 0)]), 63, 0, ?_⟩, ⟨(put (w0.setDw 63 ⟨[0x40000000, 0, 0, 0, 0, 0, 0, 0], none, false, 0⟩) [(kDw 63 + 4, 0x80000000), (kDw 63 + 0x14, 0)]), 63, ?_⟩, ⟨(put (w0.setDw 63 ⟨[0, 0, 0, 0, 0, 0, 0, 0], none, false, 0⟩) [(kDw 63 + 4, 0xA0000000), (kDw 63 + 0x14, 0)]), 63, ?_⟩, ⟨(put (w0.setDw 63 ⟨[0, 0, 0, 0, 0, 0, 0, 0], none, false, 0⟩) [(kDw 63 + 4, 0x80000000), (kDw 63 + 0x14, 0)]), 63, ?_⟩, ⟨((put (w0.setDw 63 ⟨[0, 64, 0, 0, 0x1000, 0, 0, 0], none, false, 0⟩) [(kDw 63 + 4, 0x80000000), (kDw 63 + 0x14, 64)]).setCode 0 .uncorr), 63, ?_⟩⟩
  all_goals decide +kernel

/-- A state and operands that meet the hypotheses of each clause of MusicRows. -/
theorem test_witness_MusicRows :
    (∃ (s : State) (tdm : List (BitVec 24) × List (BitVec 24)) (late : List (Fin 512)), s.full = true ∧ s.clockTaken.regB kMStat 31 = false) ∧
    (∃ (s : State) (tdm : List (BitVec 24) × List (BitVec 24)) (late : List (Fin 512)), (
      let c := s.clockTaken
      s.full = true ∧ c.regB kMStat 31 = true ∧ c.ready = true ∧ c.present 6 = true)) ∧
    (∃ s : State, s.full = true ∧ s.regB kMStat 31 = true ∧ s.regB kMStat 4 = true) ∧
    (∃ s : State, s.full = true ∧ s.regB kMStat 31 = false ∧ s.regB kMStat 4 = true) ∧
    (∃ (s : State) (k : Fin 10), s.full = true ∧ s.regB (kPcfg k.val) 31 = true ∧ s.regB (kPcfg k.val) 30 = false ∧ s.regB (kPcfg k.val + 4) 31 = false ∧ Tbl.get (fun _ => 0) s.mus.lockRun k.val = 3) ∧
    (∃ (s : State) (k : Fin 10), s.full = true ∧ s.regB (kPcfg k.val) 31 = true ∧ s.regB (kPcfg k.val) 30 = false ∧ s.regB (kPcfg k.val + 4) 31 = true) ∧
    (∃ (s : State) (k : Fin 10), s.full = true ∧ s.regB (kPcfg k.val) 31 = true ∧ k.val < 8 ∧ s.regB (kPcfg k.val + 4) 29 = false) ∧
    (∃ (s : State) (k : Fin 10), s.full = true ∧ s.regB (kPcfg k.val) 31 = true ∧ k.val < 8) := by
  refine ⟨⟨(put w0 [(kMStat, 0)]), ([], []), [], ?_⟩, ⟨(put w0 [(kMStat, 0x80000000)]), ([1], [2, 3]), [0], ?_⟩, ⟨(put w0 [(kMStat, 0x80000010)]), ?_⟩, ⟨(put w0 [(kMStat, 0x10)]), ?_⟩, ⟨{ (put w0 [(kPcfg 9, 0x80000000)]) with mus := { musicInit with lockRun := [(9, 3)] } }, 9, ?_⟩, ⟨(put w0 [(kPcfg 9, 0x80000000), (kPcfg 9 + 4, 0x80000000)]), 9, ?_⟩, ⟨(put w0 [(kPcfg 7, 0x80000000)]), 7, ?_⟩, ⟨(put w0 [(kPcfg 7, 0x80000000)]), 7, ?_⟩⟩
  all_goals decide +kernel

/-- A state and operands that meet the hypotheses of each clause of BellAndTimeRows. -/
theorem test_witness_BellAndTimeRows :
    (∃ (s : State) (i : Fin 1024), s.live = true ∧ srcReserved i.val = false ∧ srcLevel i.val = false) ∧
    (∃ (s : State) (i : Fin 1024) (b : Bool), s.live = true ∧ srcReserved i.val = false ∧ srcLevel i.val = true) ∧
    (∃ (s : State) (g : Fin 64), s.live = true ∧ s.held g.val = true ∧ s.holdCount g.val ≠ 0 ∧ s.regF (kIrqHold g.val) 0 16 ≤ s.holdCount g.val) ∧
    (∃ (s : State) (k : Fin 64), s.live = true ∧ s.regB (kCmp k.val + 8) 31 = true ∧ (s.cmpValue k.val).toNat ≤ s.now.toNat ∧ (s.w64 (kCmpArmed k.val)).toNat < (s.cmpValue k.val).toNat) ∧
    (∃ (s : State) (k : Fin 64), s.live = true ∧ s.regB (kCmp k.val + 8) 31 = true ∧ (s.cmpValue k.val).toNat ≤ s.now.toNat ∧ (s.cmpValue k.val).toNat ≤ (s.w64 (kCmpArmed k.val)).toNat) ∧
    (∃ (s : State) (k : Fin 64), s.live = true ∧ s.now.toNat < (s.cmpValue k.val).toNat) ∧
    (∃ (s : State) (k : Fin 32), (
      let cfg := s.reg (kCap k.val)
      s.live = true ∧ bit cfg 31 = true ∧ (fld cfg 0 8 < 0x60 ∨ fld cfg 0 8 = 0xA0) ∧ bit cfg 29 = true ∧ (s.w64 (kCapPre k.val)).toNat ≤ (s.cap k.val).pre ∧ (s.cap k.val).fifo.length < 4)) ∧
    (∃ (s : State) (k : Fin 32), (
      let cfg := s.reg (kCap k.val)
      s.live = true ∧ bit cfg 31 = true ∧ (fld cfg 0 8 < 0x60 ∨ fld cfg 0 8 = 0xA0) ∧ bit cfg 30 = true ∧ (s.w64 (kCapPre k.val)).toNat ≤ (s.cap k.val).pre ∧ 4 ≤ (s.cap k.val).fifo.length)) := by
  refine ⟨⟨w0, 551, ?_⟩, ⟨w0, 1023, true, ?_⟩, ⟨{ put w0 [(kGrp 63, 0x80000000)] with wide := [(kTMB, 64)] }, 63, ?_⟩, ⟨{ put w0 [(kCmp 63 + 8, 0x80000000)] with wide := [(kTMB, 1), (kCmpSet 63, 1)] }, 63, ?_⟩, ⟨put w0 [(kCmp 63 + 8, 0x80000000)], 63, ?_⟩, ⟨{ w0 with wide := [(kCmpSet 63, 1)] }, 63, ?_⟩, ⟨(put w0 [(kCap 31, 0xA00000A0)]), 31, ?_⟩, ⟨{ put w0 [(kCap 31, 0xC000005F)] with caps := [(31, ⟨List.replicate 4 ⟨0, 0, 0, 0, false⟩, 0⟩)] }, 31, ?_⟩⟩
  all_goals decide +kernel

/-- A state and operands that meet the hypotheses of each clause of PinSlotRows. -/
theorem test_witness_PinSlotRows :
    (∃ (s : State) (e : Fin 4) (k : Fin 64) (cyc : Nat) (pads : BitVec 96) (i pc : Nat) (w : Word), Slots s e k i pc w) ∧
    (∃ (s : State) (e : Fin 4) (k : Fin 64) (cyc : Nat) (pads : BitVec 96) (i pc : Nat) (w : Word), Slots s e k i pc w ∧ (
      let op := fld w 28 4
      op = 0)) ∧
    (∃ (s : State) (e : Fin 4) (k : Fin 64) (cyc : Nat) (pads : BitVec 96) (i pc : Nat) (w : Word), Slots s e k i pc w ∧ (
      let op := fld w 28 4
      op = 1)) ∧
    (∃ (s : State) (e : Fin 4) (k : Fin 64) (cyc : Nat) (pads : BitVec 96) (i pc : Nat) (w : Word), Slots s e k i pc w ∧ (
      let u := s.slotAt e.val k.val i cyc pads
      (
      let op := fld w 28 4
      (
      let n := fld w 0 5 + 1
      op = 2 ∧ u.psqStepDue i = true ∧ n ≤ psqW w)))) ∧
    (∃ (s : State) (e : Fin 4) (k : Fin 64) (cyc : Nat) (pads : BitVec 96) (i pc : Nat) (w : Word), Slots s e k i pc w ∧ (
      let u := s.slotAt e.val k.val i cyc pads
      (
      let op := fld w 28 4
      (
      let n := fld w 0 5 + 1
      op = 2 ∧ u.psqStepDue i = true ∧ psqW w < n)))) ∧
    (∃ (s : State) (e : Fin 4) (k : Fin 64) (cyc : Nat) (pads : BitVec 96) (i pc : Nat) (w : Word), Slots s e k i pc w ∧ (
      let u := s.slotAt e.val k.val i cyc pads
      (
      let op := fld w 28 4
      op = 2 ∧ u.psqStepDue i = false))) ∧
    (∃ (s : State) (e : Fin 4) (k : Fin 64) (cyc : Nat) (pads : BitVec 96) (i pc : Nat) (w : Word), Slots s e k i pc w ∧ (
      let u := s.slotAt e.val k.val i cyc pads
      (
      let op := fld w 28 4
      (
      let n := fld w 0 5 + 1
      op = 3 ∧ u.psqStepDue i = true ∧ n ≤ psqW w)))) ∧
    (∃ (s : State) (e : Fin 4) (k : Fin 64) (cyc : Nat) (pads : BitVec 96) (i pc : Nat) (w : Word), Slots s e k i pc w ∧ (
      let u := s.slotAt e.val k.val i cyc pads
      (
      let op := fld w 28 4
      (
      let n := fld w 0 5 + 1
      op = 3 ∧ u.psqStepDue i = true ∧ psqW w < n)))) ∧
    (∃ (s : State) (e : Fin 4) (k : Fin 64) (cyc : Nat) (pads : BitVec 96) (i pc : Nat) (w : Word), Slots s e k i pc w ∧ (
      let u := s.slotAt e.val k.val i cyc pads
      (
      let op := fld w 28 4
      op = 3 ∧ u.psqStepDue i = false))) ∧
    (∃ (s : State) (e : Fin 4) (k : Fin 64) (cyc : Nat) (pads : BitVec 96) (i pc : Nat) (w : Word), Slots s e k i pc w ∧ (
      let op := fld w 28 4
      op = 4 ∧ bit w 8 = false)) ∧
    (∃ (s : State) (e : Fin 4) (k : Fin 64) (cyc : Nat) (pads : BitVec 96) (i pc : Nat) (w : Word), Slots s e k i pc w ∧ (
      let u := s.slotAt e.val k.val i cyc pads
      (
      let op := fld w 28 4
      (
      let v := u.psqCh i
      ∃ x q, op = 4 ∧ bit w 8 = true ∧ v.fq = x :: q)))) ∧
    (∃ (s : State) (e : Fin 4) (k : Fin 64) (cyc : Nat) (pads : BitVec 96) (i pc : Nat) (w : Word), Slots s e k i pc w ∧ (
      let u := s.slotAt e.val k.val i cyc pads
      (
      let op := fld w 28 4
      (
      let v := u.psqCh i
      op = 4 ∧ bit w 8 = true ∧ v.fq = [])))) ∧
    (∃ (s : State) (e : Fin 4) (k : Fin 64) (cyc : Nat) (pads : BitVec 96) (i pc : Nat) (w : Word), Slots s e k i pc w ∧ (
      let u := s.slotAt e.val k.val i cyc pads
      (
      let op := fld w 28 4
      (
      let v := u.psqCh i
      op = 5 ∧ v.sq.length < 8)))) ∧
    (∃ (s : State) (e : Fin 4) (k : Fin 64) (cyc : Nat) (pads : BitVec 96) (i pc : Nat) (w : Word), Slots s e k i pc w ∧ (
      let u := s.slotAt e.val k.val i cyc pads
      (
      let op := fld w 28 4
      (
      let v := u.psqCh i
      op = 5 ∧ 8 ≤ v.sq.length ∧ bit w 8 = true)))) ∧
    (∃ (s : State) (e : Fin 4) (k : Fin 64) (cyc : Nat) (pads : BitVec 96) (i pc : Nat) (w : Word), Slots s e k i pc w ∧ (
      let u := s.slotAt e.val k.val i cyc pads
      (
      let op := fld w 28 4
      (
      let v := u.psqCh i
      op = 5 ∧ 8 ≤ v.sq.length ∧ bit w 8 = false)))) ∧
    (∃ (s : State) (e : Fin 4) (k : Fin 64) (cyc : Nat) (pads : BitVec 96) (i pc : Nat) (w : Word), Slots s e k i pc w ∧ (
      let u := s.slotAt e.val k.val i cyc pads
      (
      let op := fld w 28 4
      op = 6 ∧ fld w 24 4 = 0 ∧ u.pad (fld w 0 7) = bit w 8))) ∧
    (∃ (s : State) (e : Fin 4) (k : Fin 64) (cyc : Nat) (pads : BitVec 96) (i pc : Nat) (w : Word), Slots s e k i pc w ∧ (
      let u := s.slotAt e.val k.val i cyc pads
      (
      let op := fld w 28 4
      op = 6 ∧ (fld w 24 4 = 0 → u.pad (fld w 0 7) ≠ bit w 8)))) ∧
    (∃ (s : State) (e : Fin 4) (k : Fin 64) (cyc : Nat) (pads : BitVec 96) (i pc : Nat) (w : Word), Slots s e k i pc w ∧ (
      let op := fld w 28 4
      op = 7)) ∧
    (∃ (s : State) (e : Fin 4) (k : Fin 64) (cyc : Nat) (pads : BitVec 96) (i pc : Nat) (w : Word), Slots s e k i pc w ∧ (
      let u := s.slotAt e.val k.val i cyc pads
      (
      let op := fld w 28 4
      op = 8 ∧ u.psqDepth i ≠ 2))) ∧
    (∃ (s : State) (e : Fin 4) (k : Fin 64) (cyc : Nat) (pads : BitVec 96) (i pc : Nat) (w : Word), Slots s e k i pc w ∧ (
      let u := s.slotAt e.val k.val i cyc pads
      (
      let op := fld w 28 4
      op = 8 ∧ u.psqDepth i = 2))) ∧
    (∃ (s : State) (e : Fin 4) (k : Fin 64) (cyc : Nat) (pads : BitVec 96) (i pc : Nat) (w : Word), Slots s e k i pc w ∧ (
      let u := s.slotAt e.val k.val i cyc pads
      (
      let op := fld w 28 4
      op = 9 ∧ u.psqDepth i ≠ 0))) ∧
    (∃ (s : State) (e : Fin 4) (k : Fin 64) (cyc : Nat) (pads : BitVec 96) (i pc : Nat) (w : Word), Slots s e k i pc w ∧ (
      let u := s.slotAt e.val k.val i cyc pads
      (
      let op := fld w 28 4
      op = 9 ∧ u.psqDepth i = 0))) ∧
    (∃ (s : State) (e : Fin 4) (k : Fin 64) (cyc : Nat) (pads : BitVec 96) (i pc : Nat) (w : Word), Slots s e k i pc w ∧ (
      let op := fld w 28 4
      op = 0xA)) ∧
    (∃ (s : State) (e : Fin 4) (k : Fin 64) (cyc : Nat) (pads : BitVec 96) (i pc : Nat) (w : Word), Slots s e k i pc w ∧ (
      let op := fld w 28 4
      op = 0xB)) ∧
    (∃ (s : State) (e : Fin 4) (k : Fin 64) (cyc : Nat) (pads : BitVec 96) (i pc : Nat) (w : Word), Slots s e k i pc w ∧ (
      let op := fld w 28 4
      op = 0xC)) ∧
    (∃ (s : State) (e : Fin 4) (k : Fin 64) (cyc : Nat) (pads : BitVec 96) (i pc : Nat) (w : Word), Slots s e k i pc w ∧ (
      let u := s.slotAt e.val k.val i cyc pads
      (
      let op := fld w 28 4
      op = 0xD ∧ u.psqStepDue i = true ∧ fld w 0 16 = 0))) ∧
    (∃ (s : State) (e : Fin 4) (k : Fin 64) (cyc : Nat) (pads : BitVec 96) (i pc : Nat) (w : Word), Slots s e k i pc w ∧ (
      let u := s.slotAt e.val k.val i cyc pads
      (
      let op := fld w 28 4
      op = 0xD ∧ u.psqStepDue i = true ∧ fld w 0 16 ≠ 0))) ∧
    (∃ (s : State) (e : Fin 4) (k : Fin 64) (cyc : Nat) (pads : BitVec 96) (i pc : Nat) (w : Word), Slots s e k i pc w ∧ (
      let u := s.slotAt e.val k.val i cyc pads
      (
      let op := fld w 28 4
      op = 0xD ∧ u.psqStepDue i = false))) := by
  refine ⟨⟨(sl 0x00000000 [] [] []), 3, 63, 65535, 0, 127, 0, 0x00000000, ?_⟩, ⟨(sl 0x00000000 [] [] []), 3, 63, 65535, 0, 127, 0, 0x00000000, ?_⟩, ⟨(sl 0x10000000 [] [] []), 3, 63, 65535, 0, 127, 0, 0x10000000, ?_⟩, ⟨(sl 0x20000000 [] [] []), 3, 63, 65535, 0, 127, 0, 0x20000000, ?_⟩, ⟨(sl 0x2000001F [] [] []), 3, 63, 65535, 0, 127, 0, 0x2000001F, ?_⟩, ⟨(sl 0x20000000 [] [] [(kPc 127 + 0x1C, 0xFFFF0000)]), 3, 63, 65534, 0, 127, 0, 0x20000000, ?_⟩, ⟨(sl 0x30000000 [] [] []), 3, 63, 65535, 0, 127, 0, 0x30000000, ?_⟩, ⟨(sl 0x3000001F [] [] []), 3, 63, 65535, 0, 127, 0, 0x3000001F, ?_⟩, ⟨(sl 0x30000000 [] [] [(kPc 127 + 0x1C, 0xFFFF0000)]), 3, 63, 65534, 0, 127, 0, 0x30000000, ?_⟩, ⟨(sl 0x40000000 [] [] []), 3, 63, 65535, 0, 127, 0, 0x40000000, ?_⟩, ⟨(sl 0x40000100 [1] [] []), 3, 63, 65535, 0, 127, 0, 0x40000100, ?_⟩, ⟨(sl 0x40000100 [] [] []), 3, 63, 65535, 0, 127, 0, 0x40000100, ?_⟩, ⟨(sl 0x50000000 [] [1, 2, 3, 4, 5, 6, 7] []), 3, 63, 65535, 0, 127, 0, 0x50000000, ?_⟩, ⟨(sl 0x50000100 [] [1, 2, 3, 4, 5, 6, 7, 8] []), 3, 63, 65535, 0, 127, 0, 0x50000100, ?_⟩, ⟨(sl 0x50000000 [] [1, 2, 3, 4, 5, 6, 7, 8] []), 3, 63, 65535, 0, 127, 0, 0x50000000, ?_⟩, ⟨(sl 0x6000005F [] [] []), 3, 63, 65535, 0, 127, 0, 0x6000005F, ?_⟩, ⟨(sl 0x6000015F [] [] []), 3, 63, 65535, 0, 127, 0, 0x6000015F, ?_⟩, ⟨(sl 0x7000003F [] [] []), 3, 63, 65535, 0, 127, 0, 0x7000003F, ?_⟩, ⟨(sl 0x8000FFFF [] [] []), 3, 63, 65535, 0, 127, 0, 0x8000FFFF, ?_⟩, ⟨(sl 0x8000FFFF [] [] [(kPc 127 + 0x14, 2)]), 3, 63, 65535, 0, 127, 0, 0x8000FFFF, ?_⟩, ⟨(sl 0x90000000 [] [] [(kPc 127 + 0x14, 1)]), 3, 63, 65535, 0, 127, 0, 0x90000000, ?_⟩, ⟨(sl 0x90000000 [] [] []), 3, 63, 65535, 0, 127, 0, 0x90000000, ?_⟩, ⟨(sl 0xA000FFFF [] [] []), 3, 63, 65535, 0, 127, 0, 0xA000FFFF, ?_⟩, ⟨(sl 0xB0000003 [] [] []), 3, 63, 65535, 0, 127, 0, 0xB0000003, ?_⟩, ⟨(sl 0xC0000000 [] [] []), 3, 63, 65535, 0, 127, 0, 0xC0000000, ?_⟩, ⟨(sl 0xD0000000 [] [] []), 3, 63, 65535, 0, 127, 0, 0xD0000000, ?_⟩, ⟨(sl 0xD000FFFF [] [] []), 3, 63, 65535, 0, 127, 0, 0xD000FFFF, ?_⟩, ⟨(sl 0xD000FFFF [] [] [(kPc 127 + 0x1C, 0xFFFF0000)]), 3, 63, 65534, 0, 127, 0, 0xD000FFFF, ?_⟩⟩
  · exact slots_of (by decide +kernel)
  · exact ⟨slots_of (by decide +kernel), by decide +kernel⟩
  · exact ⟨slots_of (by decide +kernel), by decide +kernel⟩
  · exact ⟨slots_of (by decide +kernel), by decide +kernel⟩
  · exact ⟨slots_of (by decide +kernel), by decide +kernel⟩
  · exact ⟨slots_of (by decide +kernel), by decide +kernel⟩
  · exact ⟨slots_of (by decide +kernel), by decide +kernel⟩
  · exact ⟨slots_of (by decide +kernel), by decide +kernel⟩
  · exact ⟨slots_of (by decide +kernel), by decide +kernel⟩
  · exact ⟨slots_of (by decide +kernel), by decide +kernel⟩
  · exact ⟨slots_of (by decide +kernel), 1, [], by decide +kernel⟩
  · exact ⟨slots_of (by decide +kernel), by decide +kernel⟩
  · exact ⟨slots_of (by decide +kernel), by decide +kernel⟩
  · exact ⟨slots_of (by decide +kernel), by decide +kernel⟩
  · exact ⟨slots_of (by decide +kernel), by decide +kernel⟩
  · exact ⟨slots_of (by decide +kernel), by decide +kernel⟩
  · exact ⟨slots_of (by decide +kernel), by decide +kernel⟩
  · exact ⟨slots_of (by decide +kernel), by decide +kernel⟩
  · exact ⟨slots_of (by decide +kernel), by decide +kernel⟩
  · exact ⟨slots_of (by decide +kernel), by decide +kernel⟩
  · exact ⟨slots_of (by decide +kernel), by decide +kernel⟩
  · exact ⟨slots_of (by decide +kernel), by decide +kernel⟩
  · exact ⟨slots_of (by decide +kernel), by decide +kernel⟩
  · exact ⟨slots_of (by decide +kernel), by decide +kernel⟩
  · exact ⟨slots_of (by decide +kernel), by decide +kernel⟩
  · exact ⟨slots_of (by decide +kernel), by decide +kernel⟩
  · exact ⟨slots_of (by decide +kernel), by decide +kernel⟩
  · exact ⟨slots_of (by decide +kernel), by decide +kernel⟩

/-- A state and operands that meet the hypotheses of each clause of PinInstructions. -/
theorem test_witness_PinInstructions :
    (∃ (s : State) (i : Nat) (w : Word) (ret : Nat), psqLegal w = true ∧ (
      let op := fld w 28 4
      op = 0)) ∧
    (∃ (s : State) (i : Nat) (w : Word) (ret : Nat), psqLegal w = true ∧ (
      let op := fld w 28 4
      op = 2 ∧ s.psqStepDue i = true ∧ fld w 0 5 < psqW w)) ∧
    (∃ (s : State) (i : Nat) (w : Word) (ret : Nat), psqLegal w = true ∧ (
      let op := fld w 28 4
      op = 2 ∧ s.psqStepDue i = false)) ∧
    (∃ (s : State) (i : Nat) (w : Word) (ret : Nat), psqLegal w = true ∧ (
      let op := fld w 28 4
      op = 3 ∧ s.psqStepDue i = true ∧ fld w 0 5 < psqW w)) ∧
    (∃ (s : State) (i : Nat) (w : Word) (ret : Nat), psqLegal w = true ∧ (
      let op := fld w 28 4
      op = 3 ∧ s.psqStepDue i = false)) ∧
    (∃ (s : State) (i : Nat) (w : Word) (ret : Nat), psqLegal w = true ∧ (
      let op := fld w 28 4
      op = 4 ∧ bit w 8 = false)) ∧
    (∃ (s : State) (i : Nat) (w : Word) (ret : Nat), psqLegal w = true ∧ (
      let op := fld w 28 4
      (
      let v := s.psqCh i
      op = 4 ∧ bit w 8 = true ∧ v.fq = []))) ∧
    (∃ (s : State) (i : Nat) (w : Word) (ret : Nat), psqLegal w = true ∧ (
      let op := fld w 28 4
      (
      let v := s.psqCh i
      ∃ x t, op = 4 ∧ bit w 8 = true ∧ v.fq = x :: t))) ∧
    (∃ (s : State) (i : Nat) (w : Word) (ret : Nat), psqLegal w = true ∧ (
      let op := fld w 28 4
      (
      let v := s.psqCh i
      op = 5 ∧ v.sq.length < 8 ∧ bit w 9 = false))) ∧
    (∃ (s : State) (i : Nat) (w : Word) (ret : Nat), psqLegal w = true ∧ (
      let op := fld w 28 4
      (
      let v := s.psqCh i
      op = 5 ∧ 8 ≤ v.sq.length ∧ bit w 8 = false))) ∧
    (∃ (s : State) (i : Nat) (w : Word) (ret : Nat), psqLegal w = true ∧ (
      let op := fld w 28 4
      op = 6 ∧ fld w 24 4 = 0 ∧ s.pad (fld w 0 7) = bit w 8)) ∧
    (∃ (s : State) (i : Nat) (w : Word) (ret : Nat), psqLegal w = true ∧ (
      let op := fld w 28 4
      op = 6 ∧ fld w 24 4 = 0 ∧ s.pad (fld w 0 7) ≠ bit w 8)) ∧
    (∃ (s : State) (i : Nat) (w : Word) (ret : Nat), psqLegal w = true ∧ (
      let op := fld w 28 4
      op = 7 ∧ fld w 24 4 = 0)) ∧
    (∃ (s : State) (i : Nat) (w : Word) (ret : Nat), psqLegal w = true ∧ (
      let op := fld w 28 4
      op = 7 ∧ fld w 24 4 = 1 ∧ s.pad (fld w 8 7) = false)) ∧
    (∃ (s : State) (i : Nat) (w : Word) (ret : Nat), psqLegal w = true ∧ (
      let op := fld w 28 4
      op = 8 ∧ s.psqDepth i = 2)) ∧
    (∃ (s : State) (i : Nat) (w : Word) (ret : Nat), psqLegal w = true ∧ (
      let op := fld w 28 4
      op = 8 ∧ s.psqDepth i ≠ 2)) ∧
    (∃ (s : State) (i : Nat) (w : Word) (ret : Nat), psqLegal w = true ∧ (
      let op := fld w 28 4
      op = 9 ∧ s.psqDepth i = 0)) ∧
    (∃ (s : State) (i : Nat) (w : Word) (ret : Nat), psqLegal w = true ∧ (
      let op := fld w 28 4
      op = 9 ∧ s.psqDepth i ≠ 0 ∧ fld (s.reg (kPc i + 0x14)) 16 16 = 0)) ∧
    (∃ (s : State) (i : Nat) (w : Word) (ret : Nat), psqLegal w = true ∧ (
      let op := fld w 28 4
      op = 9 ∧ s.psqDepth i ≠ 0 ∧ fld (s.reg (kPc i + 0x14)) 16 16 ≠ 0)) ∧
    (∃ (s : State) (i : Nat) (w : Word) (ret : Nat), psqLegal w = true ∧ (
      let op := fld w 28 4
      op = 0xA)) ∧
    (∃ (s : State) (i : Nat) (w : Word) (ret : Nat), psqLegal w = true ∧ (
      let op := fld w 28 4
      op = 0xB ∧ bit w 1 = false)) ∧
    (∃ (s : State) (i : Nat) (w : Word) (ret : Nat), psqLegal w = true ∧ (
      let op := fld w 28 4
      op = 0xB ∧ bit w 1 = true)) ∧
    (∃ (s : State) (i : Nat) (w : Word) (ret : Nat), psqLegal w = true ∧ (
      let op := fld w 28 4
      op = 0xC)) := by
  refine ⟨⟨w0, 127, 0, 63, ?_⟩, ⟨w0, 127, 0x20000000, 63, ?_⟩, ⟨(put w0 [(kPc 127, 0x80000000), (kPw 127 0, 0), (kPc 127 + 0x1C, 0x00010000)]), 127, 0x20000000, 63, ?_⟩, ⟨w0, 127, 0x30000000, 63, ?_⟩, ⟨(put w0 [(kPc 127, 0x80000000), (kPw 127 0, 0), (kPc 127 + 0x1C, 0x00010000)]), 127, 0x30000000, 63, ?_⟩, ⟨w0, 127, 0x40000000, 63, ?_⟩, ⟨w0, 127, 0x40000100, 63, ?_⟩, ⟨(fq127 [1] []), 127, 0x40000100, 63, ?_⟩, ⟨w0, 127, 0x50000000, 63, ?_⟩, ⟨(fq127 [] [1, 2, 3, 4, 5, 6, 7, 8]), 127, 0x50000000, 63, ?_⟩, ⟨w0, 127, 0x6000005F, 63, ?_⟩, ⟨w0, 127, 0x6000015F, 63, ?_⟩, ⟨w0, 127, 0x7000003F, 63, ?_⟩, ⟨w0, 127, 0x71005F3F, 63, ?_⟩, ⟨(put w0 [(kPc 127 + 0x14, 2)]), 127, 0x8000FFFF, 63, ?_⟩, ⟨w0, 127, 0x8000FFFF, 63, ?_⟩, ⟨w0, 127, 0x90000000, 63, ?_⟩, ⟨(put w0 [(kPc 127 + 0x14, 1)]), 127, 0x90000000, 63, ?_⟩, ⟨(put w0 [(kPc 127 + 0x14, 0xFFFF0002)]), 127, 0x90000000, 63, ?_⟩, ⟨w0, 127, 0xA000FFFF, 63, ?_⟩, ⟨w0, 127, 0xB0000001, 63, ?_⟩, ⟨w0, 127, 0xB0000003, 63, ?_⟩, ⟨w0, 127, 0xC0000000, 63, ?_⟩⟩
  · decide +kernel
  · decide +kernel
  · decide +kernel
  · decide +kernel
  · decide +kernel
  · decide +kernel
  · decide +kernel
  · exact ⟨by decide +kernel, 1, [], by decide +kernel⟩
  · decide +kernel
  · decide +kernel
  · decide +kernel
  · decide +kernel
  · decide +kernel
  · decide +kernel
  · decide +kernel
  · decide +kernel
  · decide +kernel
  · decide +kernel
  · decide +kernel
  · decide +kernel
  · decide +kernel
  · decide +kernel
  · decide +kernel

/-- A state and operands that meet the hypotheses of each clause of PinRows. -/
theorem test_witness_PinRows :
    (∃ (s : State) (p : Fin 96), (
      let i := s.regF (kPin p.val) 0 7
      s.live = true ∧ s.regB (kPin p.val) 31 = true ∧ fld (s.psqCh i).cfg1 0 16 ≠ 0 ∧ s.regB (kPin p.val) 30 = true ∧ s.regB (kPin p.val) 27 = false ∧ bit (s.psqCh i).cfg1 23 = false)) ∧
    (∃ (s : State) (p : Fin 96), (
      let i := s.regF (kPin p.val) 0 7
      s.live = true ∧ s.regB (kPin p.val) 31 = true ∧ s.regB (kPin p.val) 30 = true ∧ fld (s.psqCh i).cfg1 0 16 ≠ 0)) ∧
    (∃ (s : State) (b : Fin 6) (lvl : Fin 3), s.live = true ∧ lvl ≠ 0) ∧
    (∃ (s : State) (b : Fin 6), s.live = true ∧ s.regF (kBank b.val) 29 2 ≠ 0) := by
  refine ⟨⟨{ put w0 [(kPin 95, 0xC000007F)] with psq := [(127, { psqInit with cfg1 := 1 })] }, 95, ?_⟩, ⟨{ put w0 [(kPin 95, 0xC800007F)] with psq := [(127, { psqInit with cfg1 := 1 })] }, 95, ?_⟩, ⟨w0, 5, 2, ?_⟩, ⟨(put w0 [(kBank 5, 0x20000000)]), 5, ?_⟩⟩
  all_goals decide +kernel

/-- A state and operands that meet the hypotheses of each clause of NioRegisterRows. -/
theorem test_witness_NioRegisterRows :
    (∃ (s : State) (n : Fin 16) (i : NInstr), Stands s n i ∧ i.op = .mov) ∧
    (∃ (s : State) (n : Fin 16) (i : NInstr), Stands s n i ∧ i.op = .movi) ∧
    (∃ (s : State) (n : Fin 16) (i : NInstr), Stands s n i ∧ i.op = .ldi) ∧
    (∃ (s : State) (n : Fin 16) (i : NInstr), Stands s n i ∧ i.op = .add) ∧
    (∃ (s : State) (n : Fin 16) (i : NInstr), Stands s n i ∧ i.op = .addi) ∧
    (∃ (s : State) (n : Fin 16) (i : NInstr), Stands s n i ∧ i.op = .adc) ∧
    (∃ (s : State) (n : Fin 16) (i : NInstr), Stands s n i ∧ i.op = .sub) ∧
    (∃ (s : State) (n : Fin 16) (i : NInstr), Stands s n i ∧ i.op = .sbc) ∧
    (∃ (s : State) (n : Fin 16) (i : NInstr), Stands s n i ∧ i.op = .neg) ∧
    (∃ (s : State) (n : Fin 16) (i : NInstr), Stands s n i ∧ i.op = .cmp) ∧
    (∃ (s : State) (n : Fin 16) (i : NInstr), Stands s n i ∧ i.op = .tst) ∧
    (∃ (s : State) (n : Fin 16) (i : NInstr), Stands s n i ∧ i.op = .and) ∧
    (∃ (s : State) (n : Fin 16) (i : NInstr), Stands s n i ∧ i.op = .or) ∧
    (∃ (s : State) (n : Fin 16) (i : NInstr), Stands s n i ∧ i.op = .xor) ∧
    (∃ (s : State) (n : Fin 16) (i : NInstr), Stands s n i ∧ i.op = .not) ∧
    (∃ (s : State) (n : Fin 16) (i : NInstr), Stands s n i ∧ i.op = .shl) ∧
    (∃ (s : State) (n : Fin 16) (i : NInstr), Stands s n i ∧ i.op = .shr) ∧
    (∃ (s : State) (n : Fin 16) (i : NInstr), Stands s n i ∧ i.op = .sar) ∧
    (∃ (s : State) (n : Fin 16) (i : NInstr), Stands s n i ∧ i.op = .ror) ∧
    (∃ (s : State) (n : Fin 16) (i : NInstr), Stands s n i ∧ i.op = .shlReg) ∧
    (∃ (s : State) (n : Fin 16) (i : NInstr), Stands s n i ∧ i.op = .shrReg) ∧
    (∃ (s : State) (n : Fin 16) (i : NInstr), Stands s n i ∧ i.op = .sarReg) ∧
    (∃ (s : State) (n : Fin 16) (i : NInstr), Stands s n i ∧ i.op = .mfs) ∧
    (∃ (s : State) (n : Fin 16) (i : NInstr), Stands s n i ∧ i.op = .mts) ∧
    (∃ (s : State) (n : Fin 16) (i : NInstr), Stands s n i ∧ i.op = .nop) := by
  refine ⟨⟨(ni [240] (fun c => c)), 15, ⟨.mov, 15, 0, 0, 1⟩, ?_⟩, ⟨(ni [5119] (fun c => c)), 15, ⟨.movi, 15, 0, 63, 1⟩, ?_⟩, ⟨(ni [14079, 16383, 16383] (fun c => c)), 15, ⟨.ldi, 15, 0, 4294967295, 3⟩, ?_⟩, ⟨(ni [496] (fun c => c)), 15, ⟨.add, 15, 0, 0, 1⟩, ?_⟩, ⟨(ni [4095] (fun c => c)), 15, ⟨.addi, 15, 0, 63, 1⟩, ?_⟩, ⟨(ni [2288] (fun c => c)), 15, ⟨.adc, 15, 0, 0, 1⟩, ?_⟩, ⟨(ni [752] (fun c => c)), 15, ⟨.sub, 15, 0, 0, 1⟩, ?_⟩, ⟨(ni [2544] (fun c => c)), 15, ⟨.sbc, 15, 0, 0, 1⟩, ?_⟩, ⟨(ni [15055] (fun c => c)), 15, ⟨.neg, 15, 0, 0, 1⟩, ?_⟩, ⟨(ni [1008] (fun c => c)), 15, ⟨.cmp, 15, 0, 0, 1⟩, ?_⟩, ⟨(ni [2032] (fun c => c)), 15, ⟨.tst, 15, 0, 0, 1⟩, ?_⟩, ⟨(ni [1264] (fun c => c)), 15, ⟨.and, 15, 0, 0, 1⟩, ?_⟩, ⟨(ni [1520] (fun c => c)), 15, ⟨.or, 15, 0, 0, 1⟩, ?_⟩, ⟨(ni [1776] (fun c => c)), 15, ⟨.xor, 15, 0, 0, 1⟩, ?_⟩, ⟨(ni [14991] (fun c => c)), 15, ⟨.not, 15, 0, 0, 1⟩, ?_⟩, ⟨(ni [5375] (fun c => c)), 15, ⟨.shl, 15, 0, 16, 1⟩, ?_⟩, ⟨(ni [5631] (fun c => c)), 15, ⟨.shr, 15, 0, 16, 1⟩, ?_⟩, ⟨(ni [5887] (fun c => c)), 15, ⟨.sar, 15, 0, 16, 1⟩, ?_⟩, ⟨(ni [6143] (fun c => c)), 15, ⟨.ror, 15, 0, 16, 1⟩, ?_⟩, ⟨(ni [15600] (fun c => c)), 15, ⟨.shlReg, 15, 0, 0, 1⟩, ?_⟩, ⟨(ni [15856] (fun c => c)), 15, ⟨.shrReg, 15, 0, 0, 1⟩, ?_⟩, ⟨(ni [16112] (fun c => c)), 15, ⟨.sarReg, 15, 0, 0, 1⟩, ?_⟩, ⟨(ni [13559] (fun c => c)), 15, ⟨.mfs, 15, 7, 0, 1⟩, ?_⟩, ⟨(ni [13572] (fun c => c)), 15, ⟨.mts, 0, 4, 0, 1⟩, ?_⟩, ⟨(ni [14336] (fun c => c)), 15, ⟨.nop, 0, 0, 0, 1⟩, ?_⟩⟩
  all_goals exact ⟨stands_of (by decide +kernel), by decide +kernel⟩

/-- A state and operands that meet the hypotheses of each clause of NioMultiplyRows. -/
theorem test_witness_NioMultiplyRows :
    (∃ (s : State) (n : Fin 16) (i : NInstr), Stands s n i ∧ i.op = .mul) ∧
    (∃ (s : State) (n : Fin 16) (i : NInstr), Stands s n i ∧ i.op = .mac) ∧
    (∃ (s : State) (n : Fin 16) (i : NInstr), Stands s n i ∧ i.op = .mulu) ∧
    (∃ (c : Core) (t : Nat) (acc : Bool) (p : DWord), c.muls = [⟨t, acc, p⟩]) ∧
    (∃ (c : Core) (t : Nat) (acc : Bool) (p : DWord), c.muls = [⟨t, acc, p⟩] ∧ acc = false) ∧
    (∃ (c : Core) (t : Nat) (acc : Bool) (p : DWord), c.muls = [⟨t, acc, p⟩] ∧ acc = true) := by
  refine ⟨⟨(ni [2800] (fun c => c)), 15, ⟨.mul, 15, 0, 0, 1⟩, ?_⟩, ⟨(ni [3056] (fun c => c)), 15, ⟨.mac, 15, 0, 0, 1⟩, ?_⟩, ⟨(ni [16368] (fun c => c)), 15, ⟨.mulu, 15, 0, 0, 1⟩, ?_⟩, ⟨{ coreInit with muls := [⟨1, true, 3⟩] }, 1, true, 3, ?_⟩, ⟨{ coreInit with muls := [⟨1, false, 3⟩] }, 1, false, 3, ?_⟩, ⟨{ coreInit with muls := [⟨1, true, 3⟩] }, 1, true, 3, ?_⟩⟩
  · exact ⟨stands_of (by decide +kernel), by decide +kernel⟩
  · exact ⟨stands_of (by decide +kernel), by decide +kernel⟩
  · exact ⟨stands_of (by decide +kernel), by decide +kernel⟩
  · decide +kernel
  · decide +kernel
  · decide +kernel

/-- A state and operands that meet the hypotheses of each clause of NioMemoryRows. -/
theorem test_witness_NioMemoryRows :
    (∃ (s : State) (n : Fin 16) (i : NInstr), Stands s n i ∧ (
      let t := s.nioAt n.val
      (
      let a := ((t.core n.val).reg i.s).toNat
      i.op = .ldb ∧ t.localOk n.val a))) ∧
    (∃ (s : State) (n : Fin 16) (i : NInstr), Stands s n i ∧ (
      let t := s.nioAt n.val
      (
      let a := ((t.core n.val).reg i.s).toNat
      i.op = .ldbs ∧ t.localOk n.val a))) ∧
    (∃ (s : State) (n : Fin 16) (i : NInstr), Stands s n i ∧ (
      let t := s.nioAt n.val
      (
      let a := ((t.core n.val).reg i.s).toNat
      i.op = .ldh ∧ t.localOk n.val a ∧ a % 2 = 0))) ∧
    (∃ (s : State) (n : Fin 16) (i : NInstr), Stands s n i ∧ (
      let t := s.nioAt n.val
      (
      let a := ((t.core n.val).reg i.s).toNat
      i.op = .ldw ∧ t.localOk n.val a ∧ a % 4 = 0))) ∧
    (∃ (s : State) (n : Fin 16) (i : NInstr), Stands s n i ∧ (
      let t := s.nioAt n.val
      (
      let sp := ((t.core n.val).reg 15 + wd (4 * i.imm)).toNat
      i.op = .ldsp ∧ t.localOk n.val sp ∧ stackBad sp = false))) ∧
    (∃ (s : State) (n : Fin 16) (i : NInstr), Stands s n i ∧ (
      let t := s.nioAt n.val
      (
      let v := (t.core n.val).reg i.d
      (
      let a := ((t.core n.val).reg i.s).toNat
      ∃ u, i.op = .stb ∧ t.localOk n.val a ∧ t.dataWrite n.val a 1 v = some u)))) ∧
    (∃ (s : State) (n : Fin 16) (i : NInstr), Stands s n i ∧ (
      let t := s.nioAt n.val
      (
      let v := (t.core n.val).reg i.d
      (
      let a := ((t.core n.val).reg i.s).toNat
      ∃ u, i.op = .sth ∧ t.localOk n.val a ∧ a % 2 = 0 ∧ t.dataWrite n.val a 2 v = some u)))) ∧
    (∃ (s : State) (n : Fin 16) (i : NInstr), Stands s n i ∧ (
      let t := s.nioAt n.val
      (
      let v := (t.core n.val).reg i.d
      (
      let a := ((t.core n.val).reg i.s).toNat
      ∃ u, i.op = .stw ∧ t.localOk n.val a ∧ a % 4 = 0 ∧ t.dataWrite n.val a 4 v = some u)))) ∧
    (∃ (s : State) (n : Fin 16) (i : NInstr), Stands s n i ∧ (
      let t := s.nioAt n.val
      (
      let v := (t.core n.val).reg i.d
      (
      let sp := ((t.core n.val).reg 15 + wd (4 * i.imm)).toNat
      ∃ u, i.op = .stsp ∧ t.localOk n.val sp ∧ stackBad sp = false ∧ t.dataWrite n.val sp 4 v = some u)))) ∧
    (∃ (s : State) (n : Fin 16) (i : NInstr), Stands s n i ∧ (
      let t := s.nioAt n.val
      (
      let a := ((t.core n.val).reg i.s).toNat
      i.op = .ldw ∧ a % 4 ≠ 0))) ∧
    (∃ (s : State) (n : Fin 16) (i : NInstr), Stands s n i ∧ (
      let t := s.nioAt n.val
      (
      let a := ((t.core n.val).reg i.s).toNat
      i.op = .stw ∧ a % 4 ≠ 0))) ∧
    (∃ (s : State) (n : Fin 16) (i : NInstr), Stands s n i ∧ (
      let t := s.nioAt n.val
      (
      let a := ((t.core n.val).reg i.s).toNat
      i.op = .ldh ∧ a % 2 ≠ 0))) ∧
    (∃ (s : State) (n : Fin 16) (i : NInstr), Stands s n i ∧ (
      let t := s.nioAt n.val
      (
      let a := ((t.core n.val).reg i.s).toNat
      i.op = .sth ∧ a % 2 ≠ 0))) := by
  refine ⟨⟨(ni [6160] (fun c => { c with w := [(0, 0xFFFF)] })), 15, ⟨.ldb, 1, 0, 0, 1⟩, ?_⟩, ⟨(ni [6928] (fun c => { c with w := [(0, 0xFFFF)] })), 15, ⟨.ldbs, 1, 0, 0, 1⟩, ?_⟩, ⟨(ni [6416] (fun c => { c with w := [(0, 0xFFFE)] })), 15, ⟨.ldh, 1, 0, 0, 1⟩, ?_⟩, ⟨(ni [6672] (fun c => { c with w := [(0, 0xFFFC)] })), 15, ⟨.ldw, 1, 0, 0, 1⟩, ?_⟩, ⟨(ni [9201] (fun c => c)), 15, ⟨.ldsp, 1, 0, 63, 1⟩, ?_⟩, ⟨(ni [7184] (fun c => { c with w := [(0, 0xFFFF)] })), 15, ⟨.stb, 1, 0, 0, 1⟩, ?_⟩, ⟨(ni [7440] (fun c => { c with w := [(0, 0xFFFE)] })), 15, ⟨.sth, 1, 0, 0, 1⟩, ?_⟩, ⟨(ni [7696] (fun c => { c with w := [(0, 0xFFFC)] })), 15, ⟨.stw, 1, 0, 0, 1⟩, ?_⟩, ⟨(ni [10225] (fun c => c)), 15, ⟨.stsp, 1, 0, 63, 1⟩, ?_⟩, ⟨(ni [6672] (fun c => { c with w := [(0, 0xFFFD)] })), 15, ⟨.ldw, 1, 0, 0, 1⟩, ?_⟩, ⟨(ni [7696] (fun c => { c with w := [(0, 0xFFFF)] })), 15, ⟨.stw, 1, 0, 0, 1⟩, ?_⟩, ⟨(ni [6416] (fun c => { c with w := [(0, 0xFFFF)] })), 15, ⟨.ldh, 1, 0, 0, 1⟩, ?_⟩, ⟨(ni [7440] (fun c => { c with w := [(0, 0xFFFF)] })), 15, ⟨.sth, 1, 0, 0, 1⟩, ?_⟩⟩
  · exact ⟨stands_of (by decide +kernel), by decide +kernel, local_of (by decide +kernel)⟩
  · exact ⟨stands_of (by decide +kernel), by decide +kernel, local_of (by decide +kernel)⟩
  · exact ⟨stands_of (by decide +kernel), by decide +kernel, local_of (by decide +kernel), by decide +kernel⟩
  · exact ⟨stands_of (by decide +kernel), by decide +kernel, local_of (by decide +kernel), by decide +kernel⟩
  · exact ⟨stands_of (by decide +kernel), by decide +kernel, local_of (by decide +kernel), by decide +kernel⟩
  · exact ⟨stands_of (by decide +kernel), (ni [7184] (fun c => { c with w := [(0, 0xFFFF)] })), by decide +kernel, local_of (by decide +kernel), by decide +kernel⟩
  · exact ⟨stands_of (by decide +kernel), (ni [7440] (fun c => { c with w := [(0, 0xFFFE)] })), by decide +kernel, local_of (by decide +kernel), by decide +kernel⟩
  · exact ⟨stands_of (by decide +kernel), (ni [7696] (fun c => { c with w := [(0, 0xFFFC)] })), by decide +kernel, local_of (by decide +kernel), by decide +kernel⟩
  · exact ⟨stands_of (by decide +kernel), (ni [10225] (fun c => c)), by decide +kernel, local_of (by decide +kernel), by decide +kernel⟩
  · exact ⟨stands_of (by decide +kernel), by decide +kernel⟩
  · exact ⟨stands_of (by decide +kernel), by decide +kernel⟩
  · exact ⟨stands_of (by decide +kernel), by decide +kernel⟩
  · exact ⟨stands_of (by decide +kernel), by decide +kernel⟩

/-- A state and operands that meet the hypotheses of each clause of NioStoreFrame. -/
theorem test_witness_NioStoreFrame :
    (∃ (s u : State) (n a k : Nat) (v : Word), k ≤ 4 ∧ s.dataWrite n a k v = some u ∧ ∃ b, a ≤ b ∧ b < a + k) ∧
    (∃ (s u : State) (n a k : Nat) (v : Word), k ≤ 4 ∧ s.dataWrite n a k v = some u ∧ ∃ b, (b < a ∨ a + k ≤ b)) ∧
    (∃ (s u : State) (n a k : Nat) (v : Word), k ≤ 4 ∧ s.dataWrite n a k v = some u ∧ ∃ m, m ≠ n) := by
  refine ⟨⟨w0, w0, 15, 0xFFFC, 4, 0, ?_⟩, ⟨w0, w0, 15, 0xFFFC, 4, 0, ?_⟩, ⟨w0, w0, 15, 0xFFFC, 4, 0, ?_⟩⟩
  · exact ⟨by decide +kernel, by decide +kernel, 0xFFFF, by decide +kernel⟩
  · exact ⟨by decide +kernel, by decide +kernel, 0xFFFB, by decide +kernel⟩
  · exact ⟨by decide +kernel, by decide +kernel, 14, by decide +kernel⟩

/-- A state and operands that meet the hypotheses of each clause of NioStringRows. -/
theorem test_witness_NioStringRows :
    (∃ (s : State) (n : Fin 16) (i : NInstr), Stands s n i ∧ (
      let t := s.nioAt n.val
      (
      let c := t.core n.val
      (
      let xs := c.xs.toNat
      (
      let xd := c.xd.toNat
      (
      let x : Word := wd (leNat (c.bytes xs i.elem))
      ∃ u, i.op = .copyx ∧ t.localOk n.val xs ∧ t.localOk n.val xd ∧ xs % i.elem = 0 ∧ xd % i.elem = 0 ∧ t.dataWrite n.val xd i.elem x = some u)))))) ∧
    (∃ (s : State) (n : Fin 16) (i : NInstr), Stands s n i ∧ (
      let t := s.nioAt n.val
      (
      let c := t.core n.val
      (
      let xd := c.xd.toNat
      ∃ u, i.op = .fillx ∧ t.localOk n.val xd ∧ xd % i.elem = 0 ∧ t.dataWrite n.val xd i.elem (c.reg i.d) = some u)))) ∧
    (∃ (s : State) (n : Fin 16) (i : NInstr), Stands s n i ∧ (
      let t := s.nioAt n.val
      (
      let c := t.core n.val
      (
      let xs := c.xs.toNat
      i.op = .findx ∧ t.localOk n.val xs ∧ xs % i.elem = 0)))) ∧
    (∃ (s : State) (n : Fin 16) (i : NInstr), Stands s n i ∧ (
      let t := s.nioAt n.val
      (
      let c := t.core n.val
      (
      let xs := c.xs.toNat
      i.op = .sumx ∧ t.localOk n.val xs ∧ xs % i.elem = 0)))) ∧
    (∃ (s : State) (n : Fin 16) (i : NInstr), Stands s n i ∧ ∃ j, i.op = .rep ∧ nDecode ((s.core n.val).word (s.pc n.val + 1)) 0 0 = some j ∧ j.op.isString = true ∧ (s.core n.val).xc ≠ 0) ∧
    (∃ (s : State) (n : Fin 16) (i : NInstr), Stands s n i ∧ ∃ j, i.op = .rep ∧ nDecode ((s.core n.val).word (s.pc n.val + 1)) 0 0 = some j ∧ j.op.isString = true ∧ (s.core n.val).xc = 0) ∧
    (∃ (s : State) (n : Fin 16) (i : NInstr), Stands s n i ∧ ∃ j, i.op = .rep ∧ nDecode ((s.core n.val).word (s.pc n.val + 1)) 0 0 = some j ∧ j.op.isString = false) := by
  refine ⟨⟨(ni [12352] (fun c => { c with xs := 0xFFFC, xd := 0xFFFC })), 15, ⟨.copyx, 0, 0, 2, 1⟩, ?_⟩, ⟨(ni [12608] (fun c => { c with xd := 0xFFFC })), 15, ⟨.fillx, 0, 0, 2, 1⟩, ?_⟩, ⟨(ni [12864] (fun c => { c with xs := 0xFFFC })), 15, ⟨.findx, 0, 0, 2, 1⟩, ?_⟩, ⟨(ni [13120] (fun c => { c with xs := 0xFFFC })), 15, ⟨.sumx, 0, 0, 2, 1⟩, ?_⟩, ⟨(ni [14400, 12544] (fun c => { c with xc := 0xFFFFFFFF })), 15, ⟨.rep, 0, 0, 0, 1⟩, ?_⟩, ⟨(ni [14400, 12544] (fun c => { c with xc := 0 })), 15, ⟨.rep, 0, 0, 0, 1⟩, ?_⟩, ⟨(ni [14400, 0] (fun c => { c with xc := 1 })), 15, ⟨.rep, 0, 0, 0, 1⟩, ?_⟩⟩
  · exact ⟨stands_of (by decide +kernel), (ni [12352] (fun c => { c with xs := 0xFFFC, xd := 0xFFFC })), by decide +kernel, local_of (by decide +kernel), local_of (by decide +kernel), by decide +kernel⟩
  · exact ⟨stands_of (by decide +kernel), (ni [12608] (fun c => { c with xd := 0xFFFC })), by decide +kernel, local_of (by decide +kernel), by decide +kernel⟩
  · exact ⟨stands_of (by decide +kernel), by decide +kernel, local_of (by decide +kernel), by decide +kernel⟩
  · exact ⟨stands_of (by decide +kernel), by decide +kernel, local_of (by decide +kernel), by decide +kernel⟩
  · exact ⟨stands_of (by decide +kernel), ⟨.fillx, 0, 0, 0, 1⟩, by decide +kernel⟩
  · exact ⟨stands_of (by decide +kernel), ⟨.fillx, 0, 0, 0, 1⟩, by decide +kernel⟩
  · exact ⟨stands_of (by decide +kernel), ⟨.mov, 0, 0, 0, 1⟩, by decide +kernel⟩

/-- A state and operands that meet the hypotheses of each clause of NioControlRows. -/
theorem test_witness_NioControlRows :
    (∃ (s : State) (n : Fin 16) (i : NInstr), Stands s n i ∧ (
      let t := s.nioAt n.val
      (
      let c := t.core n.val
      i.op = .br ∧ condHolds c.fl i.d = true))) ∧
    (∃ (s : State) (n : Fin 16) (i : NInstr), Stands s n i ∧ (
      let t := s.nioAt n.val
      (
      let c := t.core n.val
      i.op = .br ∧ condHolds c.fl i.d = false))) ∧
    (∃ (s : State) (n : Fin 16) (i : NInstr), Stands s n i ∧ i.op = .jmp) ∧
    (∃ (s : State) (n : Fin 16) (i : NInstr), Stands s n i ∧ i.op = .jmpr) ∧
    (∃ (s : State) (n : Fin 16) (i : NInstr), Stands s n i ∧ i.op = .callr) ∧
    (∃ (s : State) (n : Fin 16) (i : NInstr), Stands s n i ∧ (
      let t := s.nioAt n.val
      (
      let c := t.core n.val
      (
      let rs := maskRegs i.s
      (
      let vals := rs.reverse.map c.reg ++ [c.reg 14]
      (
      let at' (j : Nat) : Nat := (c.reg 15 - wd (4 * (j + 1))).toNat
      i.op = .call ∧ (∀ j < vals.length, stackBad (at' j) = false))))))) ∧
    (∃ (s : State) (n : Fin 16) (i : NInstr), Stands s n i ∧ (
      let t := s.nioAt n.val
      (
      let c := t.core n.val
      ∃ ws u, (
      let rs := maskRegs i.s
      (
      let at' (j : Nat) : Nat := (c.reg 15 + wd (4 * j)).toNat
      i.op = .ret ∧ (∀ j < rs.length + 1, stackBad (at' j) = false) ∧ t.popWords n.val (at' 0) (rs.length + 1) = (.ok ws, u)))))) ∧
    (∃ (s : State) (n : Fin 16) (i : NInstr), Stands s n i ∧ (
      let t := s.nioAt n.val
      (
      let c := t.core n.val
      ∃ k : Fin 3, (
      let w : Word := wd (leNat (c.bytes c.sp 4))
      i.op = .reti ∧ stackBad c.sp = false ∧ t.localOk n.val c.sp ∧ t.coreLevel n.val ≤ fld w 18 4)))) ∧
    (∃ (s : State) (n : Fin 16) (i : NInstr), Stands s n i ∧ i.op = .wait) ∧
    (∃ (s : State) (n : Fin 16) (i : NInstr), Stands s n i ∧ i.op = .halt) ∧
    (∃ (s : State) (n : Fin 16) (i : NInstr), Stands s n i ∧ (
      let t := s.nioAt n.val
      (
      let c := t.core n.val
      i.op = .trap ∧ stackBad (c.reg 15 - 4).toNat = false))) ∧
    (∃ (s : State) (n : Fin 16) (i : NInstr), Stands s n i ∧ (
      let t := s.nioAt n.val
      (
      let c := t.core n.val
      i.op = .fence ∧ c.stores = []))) ∧
    (∃ (s : State) (n : Fin 16) (i : NInstr), Stands s n i ∧ (
      let t := s.nioAt n.val
      (
      let c := t.core n.val
      i.op = .fence ∧ c.stores ≠ []))) := by
  refine ⟨⟨(ni [11263] (fun c => c)), 15, ⟨.br, 15, 0, 63, 1⟩, ?_⟩, ⟨(ni [10303] (fun c => c)), 15, ⟨.br, 0, 0, 63, 1⟩, ?_⟩, ⟨(ni [15168, 16383] (fun c => c)), 15, ⟨.jmp, 0, 0, 16383, 2⟩, ?_⟩, ⟨(ni [14607] (fun c => c)), 15, ⟨.jmpr, 15, 0, 0, 1⟩, ?_⟩, ⟨(ni [14671] (fun c => c)), 15, ⟨.callr, 15, 0, 0, 1⟩, ?_⟩, ⟨(ni [11279, 1023, 16383] (fun c => { c with w := [(15, 0x10000)] })), 15, ⟨.call, 0, 16383, 16383, 3⟩, ?_⟩, ⟨(ni [14528, 16383] (fun c => { c with w := [(15, 0xFFC4)] })), 15, ⟨.ret, 0, 16383, 0, 2⟩, ?_⟩, ⟨(ni [14464] (fun c => { c with w := [(15, 0xFFFC)] })), 15, ⟨.reti, 0, 0, 0, 1⟩, ?_⟩, ⟨(ni [14720] (fun c => c)), 15, ⟨.wait, 0, 0, 0, 1⟩, ?_⟩, ⟨(ni [14784] (fun c => c)), 15, ⟨.halt, 0, 0, 0, 1⟩, ?_⟩, ⟨(ni [14863] (fun c => { c with w := [(15, 4)] })), 15, ⟨.trap, 15, 0, 0, 1⟩, ?_⟩, ⟨(ni [14912] (fun c => c)), 15, ⟨.fence, 0, 0, 0, 1⟩, ?_⟩, ⟨(ni [14912] (fun c => { c with stores := [⟨0, 0, 4, 0⟩] })), 15, ⟨.fence, 0, 0, 0, 1⟩, ?_⟩⟩
  · exact ⟨stands_of (by decide +kernel), by decide +kernel⟩
  · exact ⟨stands_of (by decide +kernel), by decide +kernel⟩
  · exact ⟨stands_of (by decide +kernel), by decide +kernel⟩
  · exact ⟨stands_of (by decide +kernel), by decide +kernel⟩
  · exact ⟨stands_of (by decide +kernel), by decide +kernel⟩
  · exact ⟨stands_of (by decide +kernel), by decide +kernel⟩
  · exact ⟨stands_of (by decide +kernel), List.replicate 15 0, (ni [14528, 16383] (fun c => { c with w := [(15, 0xFFC4)] })), by decide +kernel⟩
  · exact ⟨stands_of (by decide +kernel), 2, by decide +kernel, by decide +kernel, local_of (by decide +kernel), by decide +kernel⟩
  · exact ⟨stands_of (by decide +kernel), by decide +kernel⟩
  · exact ⟨stands_of (by decide +kernel), by decide +kernel⟩
  · exact ⟨stands_of (by decide +kernel), by decide +kernel⟩
  · exact ⟨stands_of (by decide +kernel), by decide +kernel⟩
  · exact ⟨stands_of (by decide +kernel), by decide +kernel⟩

/-- A state and operands that meet the hypotheses of each clause of NioEntry. -/
theorem test_witness_NioEntry :
    (∃ (s u v : State) (n resume a : Nat), (
      let c := s.core n
      (
      let sp := (c.reg 15 - 4).toNat
      stackBad sp = false ∧ s.dataWrite n sp 4 (ctxWord (s.ipl n) c.fl resume) = some u ∧ (
      let w := (u.updCore n fun c => { (c.setReg 15 (wd sp)) with due := 0, rep := 0 }).setB (kCstat n) 30 false
      (w.setIpl n 15).nioVector n 0 = (some a, v))))) := by
  refine ⟨ne0, ne1, ne2, 15, 9, 5, ?_⟩
  decide +kernel

/-- A state and operands that meet the hypotheses of each clause of NioEventRows. -/
theorem test_witness_NioEventRows :
    (∃ (s : State) (n : Fin 16) (cycles : Nat) (i : NInstr), s.live = true ∧ s.coreRuns n.val = true ∧ (s.core n.val).hold = .load ∧ (s.core n.val).stores = [] ∧ s.nioHeld n.val = some i) ∧
    (∃ (s : State) (n : Fin 16) (cycles : Nat) (f : FarStore) (rest : List FarStore), s.live = true ∧ (s.core n.val).stores = f :: rest ∧ (
      let t := ((s.updCore n.val fun c => { c with stores := rest }).farWrite n.val f).nioSettle n.val
      (t.core n.val).hold ≠ .store)) ∧
    (∃ (s : State) (n : Fin 16) (cycles : Nat), s.live = true ∧ s.coreRuns n.val = true ∧ (s.core n.val).hold = .fence ∧ (s.core n.val).stores = []) ∧
    (∃ (s : State) (n : Fin 16) (cycles : Nat), s.live = true ∧ s.coreRuns n.val = true ∧ s.regB (kCstat n.val) 30 = false ∧ (s.core n.val).due ≠ 0) ∧
    (∃ (s : State) (n : Fin 16) (cycles : Nat), s.live = true ∧ s.coreRuns n.val = true ∧ s.regB (kCstat n.val) 30 = true ∧ s.ipl n.val < s.coreLevel n.val) ∧
    (∃ (s : State) (n : Fin 16) (cycles : Nat), s.live = true ∧ s.coreRuns n.val = true ∧ s.regB (kCstat n.val) 30 = false ∧ (s.core n.val).hold = .none ∧ (s.core n.val).rep ≠ 1 ∧ s.wdogDue n.val = true) ∧
    (∃ (s : State) (n : Fin 16), s.answers = true ∧ s.att.down.contains n.val = true ∧ n.val ≠ 1) ∧
    (∃ (s : State), s.answers = true ∧ s.att.down.contains 1 = true) ∧
    (∃ (s : State) (n : Fin 16) (o : Open), s.live = true ∧ (s.foy.opens.find? fun o => o.begun && decide (o.wait = .nioftLoad n.val)) = some o) := by
  refine ⟨⟨(put (w0.updCore 15 fun c => { c with hold := .load, prog := [(0, 0x1A00)] }) [(kNrun, 0x800F)]), 15, 9, ⟨.ldw, 0, 0, 0, 1⟩, ?_⟩, ⟨(put (w0.updCore 15 fun c => { c with stores := [⟨0, 0, 4, 0⟩] }) [(kNrun, 0x800F)]), 15, 9, ⟨0, 0, 4, 0⟩, [], ?_⟩, ⟨(put (w0.updCore 15 fun c => { c with hold := .fence }) [(kNrun, 0x800F)]), 15, 9, ?_⟩, ⟨(put (w0.updCore 15 fun c => { c with due := 15 }) [(kNrun, 0x800F)]), 15, 4, ?_⟩, ⟨{ (put (w0.updCore 15 fun c => { c with hold := .none }) [(kNrun, 0x800F), (kCstat 15, 0x40000000)]) with bell := (sr 1023 15 false).bell }, 15, 4, ?_⟩, ⟨{ (put (w0.updCore 15 fun c => { c with hold := .none }) [(kNrun, 0x800F), (kCCS 15 + 0x28, 1)]) with wide := [(kNcycle 15, 400)] }, 15, 0, ?_⟩, ⟨{ w0 with att := { w0.att with down := [15] } }, 15, ?_⟩, ⟨{ w0 with att := { w0.att with down := [1] } }, ?_⟩, ⟨(op0 (.nioftLoad 15)), 15, (opn (.nioftLoad 15)), ?_⟩⟩
  all_goals decide +kernel

/-- A state and operands that meet the hypotheses of each clause of StartRows. -/
theorem test_witness_StartRows :
    (∃ (s : State) (b : BootIn), s.phase = .off ∧ b.test = false) ∧
    (∃ (s : State) (b : BootIn), b.test = true) ∧
    (∃ (s : State) (b : BootIn), s.phase ≠ .off ∧ b.test = false ∧ s.pwrLow = none) ∧
    (∃ (s : State) (b : BootIn) (n : Nat), s.phase ≠ .off ∧ b.test = false ∧ s.pwrLow = some n ∧ n + b.low < 1000) ∧
    (∃ (s : State) (b : BootIn) (n : Nat), s.phase ≠ .off ∧ b.test = false ∧ s.pwrLow = some n ∧ 1000 ≤ n + b.low) ∧
    (∃ (s : State) (d : List (Option Dimm)), s.phase = .boot ∧ s.regB 4 3 = false ∧ s.regB kBootStat bFail = false ∧ s.reg (kCEL + 0x80) = 0 ∧ (∀ c < 8, dimmAt d c = none)) ∧
    (∃ (s : State) (d : List (Option Dimm)), s.regB kBootStat bFail = true) ∧
    (∃ (s : State) (d : List (Option Dimm)) (m : Dimm), s.phase = .boot ∧ s.regB 4 3 = false ∧ s.regB kBootStat bFail = false ∧ s.reg (kCEL + 0x80) = 0 ∧ dimmAt d 0 = some m ∧ dimmFits m = true ∧ m.trains = true ∧ (∀ c, 0 < c → c < 8 → dimmAt d c = none)) ∧
    (∃ s : State, s.phase = .boot ∧ s.booted = true ∧ s.regB kJStat 31 = true) ∧
    (∃ (s : State) (b : BootIn), (s.phase = .boot ∨ s.phase = .run)) ∧
    (∃ (s : State) (b : BootIn), s.phase = .trip) ∧
    (∃ s : State, s.phase ≠ .off ∧ s.pwrLow = none) ∧
    (∃ s : State, s.phase = .off) ∧
    (∃ (s : State) (fn : Fin 2), s.answers = true) := by
  refine ⟨⟨State.reset, ⟨[], false, false, [], false, [], 0, false⟩, ?_⟩, ⟨w0, ⟨[], false, false, [], false, [], 0, true⟩, ?_⟩, ⟨w0, ⟨[], false, false, [], false, [], 0, false⟩, ?_⟩, ⟨{ w0 with pwrLow := some 500 }, ⟨[], false, false, [], false, [], 499, false⟩, 500, ?_⟩, ⟨{ w0 with pwrLow := some 500 }, ⟨[], false, false, [], false, [], 500, false⟩, 500, ?_⟩, ⟨bo0, [none], ?_⟩, ⟨(put bo0 [(kBootStat, 2 ^ bFail)]), [], ?_⟩, ⟨bo0, [some dim0], dim0, ?_⟩, ⟨{ put bt0 [(kJStat, 0x80000000)] with phase := .boot }, ?_⟩, ⟨w0, ⟨[], false, false, [], false, [], 0, false⟩, ?_⟩, ⟨{ w0 with phase := .trip }, ⟨[], false, false, [], false, [], 0, false⟩, ?_⟩, ⟨w0, ?_⟩, ⟨State.reset, ?_⟩, ⟨w0, 1, ?_⟩⟩
  · decide +kernel
  · decide +kernel
  · decide +kernel
  · decide +kernel
  · decide +kernel
  · exact ⟨by decide +kernel, by decide +kernel, by decide +kernel, by decide +kernel, by decide +kernel⟩
  · decide +kernel
  · exact ⟨by decide +kernel, by decide +kernel, by decide +kernel, by decide +kernel, by decide +kernel, by decide +kernel, by decide +kernel, fun c h1 _ => match c, h1 with | _ + 1, _ => rfl⟩
  · decide +kernel
  · decide +kernel
  · decide +kernel
  · decide +kernel
  · decide +kernel
  · decide +kernel

/-- A state and operands that meet the hypotheses of each clause of ChimneyRows. -/
theorem test_witness_ChimneyRows :
    (∃ (s : State) (temps : List (BitVec 16)), s.answers = true ∧ 110 * 16 ≤ temp16 (tjOf (temps.take 12))) ∧
    (∃ (s : State) (temps : List (BitVec 16)), temp16 (tjOf (temps.take 12)) < 110 * 16) ∧
    (∃ (s : State) (b : BootIn), s.phase = .trip ∧ s.chm.resetHeld = true) ∧
    (∃ s : State, s.phase ≠ .off) ∧
    (∃ (s : State) (temps : List (BitVec 16)), s.chimneyUp = true) ∧
    (∃ (s : State) (x : Sample), s.chimneyUp = true ∧ s.chm.ring = none) ∧
    (∃ (s : State) (want : Nat), s.chimneyUp = true ∧ s.ready = true) ∧
    (∃ (s : State) (want : Nat), s.chimneyUp = true ∧ s.ready = true ∧ s.regF (kCHM + 0x100) 0 16 ≤ want ∧ want ≤ s.regF (kCHM + 0x100) 16 16) ∧
    (∃ (s : State) (c : Fin 8) (t : DWord), s.chimneyUp = true ∧ (Tbl.get (fun _ => []) s.chm.errT c.val)[7]? = some t ∧ (s.now - t).toNat ≤ 1000000000) ∧
    (∃ (s : State) (c : Fin 8), s.chimneyUp = true ∧ 60000000000 ≤ (s.now - Tbl.get (fun _ => 0) s.chm.calm c.val).toNat ∧ 16 < s.refDemand c.val) ∧
    (∃ (s : State) (out : Bool), s.chimneyUp = true) := by
  refine ⟨⟨w0, List.replicate 12 0x06E0, ?_⟩, ⟨w0, List.replicate 12 0x06DF, ?_⟩, ⟨{ w0 with phase := .trip, chm := { w0.chm with resetHeld := true } }, ⟨[], false, false, [], false, [], 0, false⟩, ?_⟩, ⟨w0, ?_⟩, ⟨bt0, List.replicate 12 0x0100, ?_⟩, ⟨bt0, smp0, ?_⟩, ⟨bt0, 0, ?_⟩, ⟨bt0, 650, ?_⟩, ⟨{ bt0 with chm := { bt0.chm with errT := [(7, List.replicate 8 0)] } }, 7, 0, ?_⟩, ⟨{ put bt0 [(kRate 7, 0x1110)] with wide := [(kTMB, 60000000000)] }, 7, ?_⟩, ⟨bt0, true, ?_⟩⟩
  all_goals decide +kernel

/-- A state and operands that meet the hypotheses of each clause of ThermalWarning. -/
theorem test_witness_ThermalWarning :
    (∃ (l : List (BitVec 16)), l ≠ []) ∧
    (∃ (s : State) (temps : List (BitVec 16)), s.regB kCHM 31 = false ∧ temp16 (tjOf (temps.take 12)) < 95 * 16) ∧
    (∃ (s : State) (temps : List (BitVec 16)), s.regB kCHM 31 = true ∧ 92 * 16 ≤ temp16 (tjOf (temps.take 12))) := by
  refine ⟨⟨[0x0690], ?_⟩, ⟨w0, List.replicate 12 0x05EF, ?_⟩, ⟨(put w0 [(kCHM, 0x80000000)]), List.replicate 12 0x05C0, ?_⟩⟩
  all_goals decide +kernel

/-- A state and operands that meet the hypotheses of each clause of PowerRows. -/
theorem test_witness_PowerRows :
    (∃ (s : State) (c : Fin 8), s.live = true ∧ s.pstate = 1 ∧ s.chans.contains c.val = true) ∧
    (∃ s : State, s.live = true ∧ s.chm.toS2 = true) ∧
    (∃ s : State, s.live = true ∧ s.chm.toS2 = false) ∧
    (∃ s : State, s.pstate = 2) ∧
    (∃ (s : State) (pin : Fin 16) (lvl : Bool), s.answers = true ∧ s.pstate = 2 ∧ bit s.chm.wake (16 + pin.val) = true ∧ bit s.chm.wake 8 = lvl) ∧
    (∃ (s : State) (pin : Fin 16) (lvl : Bool), s.answers = true ∧ bit s.chm.wake (16 + pin.val) = false) := by
  refine ⟨⟨(put w0 [(4, 0x11)]), 0, ?_⟩, ⟨{ w0 with chm := { w0.chm with toS2 := true } }, ?_⟩, ⟨w0, ?_⟩, ⟨(put w0 [(4, 0x21)]), ?_⟩, ⟨{ (put w0 [(4, 0x21)]) with chm := { w0.chm with wake := 0x80000100 } }, 15, true, ?_⟩, ⟨w0, 15, true, ?_⟩⟩
  all_goals decide +kernel

/-- A state and operands that meet the hypotheses of each clause of AuditRows. -/
theorem test_witness_AuditRows :
    (∃ s : State, s.ready = true ∧ s.studyUp = true ∧ s.att.batch ≠ [] ∧ 100000000 ≤ (s.now - s.att.batchOpen).toNat) ∧
    (∃ (s : State) (a b : Nat), s.studyUp = true ∧ s.phase = .run ∧ s.booted = true ∧ s.att.boot ≠ [] ∧ s.regB kLogStat 31 = false ∧ s.logRecords.contains s.att.boot = false ∧ (s.logAppend s.att.boot a b).1 = true) ∧
    (∃ (s : State) (w : List Byte) (i : Instr), i ∈ [Instr.auditStatus w, .auditBootrec w, .auditBatch w, .auditQuote w, .auditCert w, .auditSeek w] ∧ s.audOn = true ∧ s.att.aud.state ≠ 0) ∧
    (∃ (s : State) (w : List Byte), s.audOn = true ∧ s.att.aud.state ≠ 0 ∧ w.length = 48 ∧ numAt w 44 4 = (crc32 (w.take 44)).toNat ∧ numAt w 2 2 = 0 ∧ (
      let noIndex := numAt w 4 8 = 0
      (
      let noNonce := (bytesAt w 12 32).all (· = 0) = true
      numAt w 0 1 = 1 ∧ noIndex ∧ noNonce))) ∧
    (∃ (s : State) (w : List Byte), s.audOn = true ∧ s.att.aud.state ≠ 0 ∧ w.length = 48 ∧ numAt w 44 4 = (crc32 (w.take 44)).toNat ∧ numAt w 2 2 = 0 ∧ (
      let noNonce := (bytesAt w 12 32).all (· = 0) = true
      ∃ r, numAt w 0 1 = 2 ∧ noNonce ∧ s.booted = true ∧ (s.bootRecords.find? fun r => decide (recSeq r = numAt w 4 8)) = some r)) ∧
    (∃ (s : State) (w : List Byte), s.audOn = true ∧ s.att.aud.state ≠ 0 ∧ w.length = 48 ∧ numAt w 44 4 = (crc32 (w.take 44)).toNat ∧ numAt w 2 2 = 0 ∧ (
      let noNonce := (bytesAt w 12 32).all (· = 0) = true
      numAt w 0 1 = 3 ∧ noNonce ∧ s.booted = true ∧ s.pstate ≠ 2 ∧ s.reg kBatchNew ≠ 0xFFFFFFFF ∧ (s.reg kBatchOld).toNat ≤ numAt w 4 8 ∧ numAt w 4 8 ≤ (s.reg kBatchNew).toNat)) ∧
    (∃ (s : State) (w : List Byte), s.audOn = true ∧ s.att.aud.state ≠ 0 ∧ w.length = 48 ∧ numAt w 44 4 = (crc32 (w.take 44)).toNat ∧ numAt w 2 2 = 0 ∧ (
      let noIndex := numAt w 4 8 = 0
      numAt w 0 1 = 4 ∧ noIndex ∧ s.booted = true ∧ s.pstate ≠ 2)) ∧
    (∃ (s : State) (w : List Byte), s.audOn = true ∧ s.att.aud.state ≠ 0 ∧ w.length = 48 ∧ numAt w 44 4 = (crc32 (w.take 44)).toNat ∧ numAt w 2 2 = 0 ∧ (
      let noIndex := numAt w 4 8 = 0
      (
      let noNonce := (bytesAt w 12 32).all (· = 0) = true
      numAt w 0 1 = 5 ∧ noIndex ∧ noNonce))) ∧
    (∃ (s : State) (w : List Byte), s.audOn = true ∧ s.att.aud.state ≠ 0 ∧ w.length = 48 ∧ numAt w 44 4 = (crc32 (w.take 44)).toNat ∧ numAt w 2 2 = 0 ∧ (
      let noNonce := (bytesAt w 12 32).all (· = 0) = true
      numAt w 0 1 = 6 ∧ noNonce ∧ s.booted = true)) ∧
    (∃ (s : State) (w : List Byte) (i : Instr), i ∈ [Instr.auditStatus w, .auditBootrec w, .auditBatch w, .auditQuote w, .auditCert w, .auditSeek w] ∧ s.att.aud.state = 0) ∧
    (∃ s : State, s.studyUp = true ∧ s.audOn = true ∧ s.att.aud.state = 0) ∧
    (∃ s : State, s.audOn = true ∧ s.att.aud.state ≠ 0) := by
  refine ⟨⟨{ w0 with wide := [(kTMB, 100000000)], att := { w0.att with batch := [[]] } }, ?_⟩, ⟨{ bt0 with att := { bt0.att with boot := List.replicate 1024 0, logN := 2 } }, 0, 0, ?_⟩, ⟨w0, [], .auditSeek [], ?_⟩, ⟨w0, (([1, 0, 0, 0] ++ List.replicate 8 (0 : Byte) ++ List.replicate 32 (0 : Byte)) ++ leBytes 4 (crc32 ([1, 0, 0, 0] ++ List.replicate 8 (0 : Byte) ++ List.replicate 32 (0 : Byte))).toNat), ?_⟩, ⟨{ bt0 with att := { bt0.att with boot := List.replicate 1024 0 } }, (([2, 0, 0, 0] ++ List.replicate 8 (0 : Byte) ++ List.replicate 32 (0 : Byte)) ++ leBytes 4 (crc32 ([2, 0, 0, 0] ++ List.replicate 8 (0 : Byte) ++ List.replicate 32 (0 : Byte))).toNat), ?_⟩, ⟨(put bt0 [(kBatchNew, 0), (kBatchOld, 0)]), (([3, 0, 0, 0] ++ List.replicate 8 (0 : Byte) ++ List.replicate 32 (0 : Byte)) ++ leBytes 4 (crc32 ([3, 0, 0, 0] ++ List.replicate 8 (0 : Byte) ++ List.replicate 32 (0 : Byte))).toNat), ?_⟩, ⟨bt0, (([4, 0, 0, 0] ++ List.replicate 8 (0 : Byte) ++ List.replicate 32 (0 : Byte)) ++ leBytes 4 (crc32 ([4, 0, 0, 0] ++ List.replicate 8 (0 : Byte) ++ List.replicate 32 (0 : Byte))).toNat), ?_⟩, ⟨w0, (([5, 0, 0, 0] ++ List.replicate 8 (0 : Byte) ++ List.replicate 32 (0 : Byte)) ++ leBytes 4 (crc32 ([5, 0, 0, 0] ++ List.replicate 8 (0 : Byte) ++ List.replicate 32 (0 : Byte))).toNat), ?_⟩, ⟨bt0, (([6, 0, 0, 0] ++ List.replicate 8 (0 : Byte) ++ List.replicate 32 (0 : Byte)) ++ leBytes 4 (crc32 ([6, 0, 0, 0] ++ List.replicate 8 (0 : Byte) ++ List.replicate 32 (0 : Byte))).toNat), ?_⟩, ⟨{ w0 with att := { w0.att with aud := { audInit with state := 0 } } }, [], .auditSeek [], ?_⟩, ⟨{ w0 with att := { w0.att with aud := { audInit with state := 0 } } }, ?_⟩, ⟨w0, ?_⟩⟩
  · decide +kernel
  · decide +kernel
  · decide +kernel
  · decide +kernel
  · exact ⟨by decide +kernel, by decide +kernel, by decide +kernel, by decide +kernel, by decide +kernel, List.replicate 1024 0, by decide +kernel⟩
  · decide +kernel
  · decide +kernel
  · decide +kernel
  · decide +kernel
  · decide +kernel
  · decide +kernel
  · decide +kernel

/-- A state and operands that meet the hypotheses of each clause of AuditAnswers. -/
theorem test_witness_AuditAnswers :
    (∃ (s : State) (w : List Byte), w.length ≠ 48) ∧
    (∃ (s : State) (w : List Byte), w.length = 48 ∧ (numAt w 44 4 ≠ (crc32 (w.take 44)).toNat ∨ numAt w 2 2 ≠ 0)) ∧
    (∃ (s : State) (w : List Byte), (
      let sound := w.length = 48 ∧ numAt w 44 4 = (crc32 (w.take 44)).toNat ∧ numAt w 2 2 = 0
      (
      let plain := numAt w 4 8 = 0 ∧ (bytesAt w 12 32).all (· = 0) = true
      sound ∧ numAt w 0 1 = 1 ∧ plain))) ∧
    (∃ (s : State) (w : List Byte), (
      let sound := w.length = 48 ∧ numAt w 44 4 = (crc32 (w.take 44)).toNat ∧ numAt w 2 2 = 0
      (
      let plain := numAt w 4 8 = 0 ∧ (bytesAt w 12 32).all (· = 0) = true
      sound ∧ numAt w 0 1 = 1 ∧ ¬ plain))) ∧
    (∃ (s : State) (w : List Byte), (
      let sound := w.length = 48 ∧ numAt w 44 4 = (crc32 (w.take 44)).toNat ∧ numAt w 2 2 = 0
      (
      let plain := numAt w 4 8 = 0 ∧ (bytesAt w 12 32).all (· = 0) = true
      sound ∧ numAt w 0 1 = 5 ∧ plain))) ∧
    (∃ (s : State) (w : List Byte), (
      let sound := w.length = 48 ∧ numAt w 44 4 = (crc32 (w.take 44)).toNat ∧ numAt w 2 2 = 0
      sound ∧ numAt w 0 1 = 6 ∧ (bytesAt w 12 32).all (· = 0) = true ∧ s.booted = true)) ∧
    (∃ (s : State) (w : List Byte), (
      let sound := w.length = 48 ∧ numAt w 44 4 = (crc32 (w.take 44)).toNat ∧ numAt w 2 2 = 0
      sound ∧ 7 ≤ numAt w 0 1)) ∧
    (∃ (s : State) (a : BitVec 7), s.audOn = true ∧ s.att.aud.dyn = none) ∧
    (∃ (s : State) (a b : BitVec 7), s.att.aud.dyn = some b.toNat) ∧
    (∃ s : State, s.audOn = true) ∧
    (∃ (s : State) (i : Instr), s.audOn = false ∧ i ∈ [Instr.getbcr, .getdcr, .getpid, .getmwl, .getmrl, .getstatus, .auditRead, .rstdaa]) := by
  refine ⟨⟨w0, List.replicate 49 0, ?_⟩, ⟨w0, List.replicate 48 0xFF, ?_⟩, ⟨w0, ([1, 0, 0, 0] ++ List.replicate 40 (0 : Byte) ++ leBytes 4 (crc32 ([1, 0, 0, 0] ++ List.replicate 40 (0 : Byte))).toNat), ?_⟩, ⟨w0, ([1, 0, 0, 0] ++ [1] ++ List.replicate 39 (0 : Byte) ++ leBytes 4 (crc32 ([1, 0, 0, 0] ++ [1] ++ List.replicate 39 (0 : Byte))).toNat), ?_⟩, ⟨w0, ([5, 0, 0, 0] ++ List.replicate 40 (0 : Byte) ++ leBytes 4 (crc32 ([5, 0, 0, 0] ++ List.replicate 40 (0 : Byte))).toNat), ?_⟩, ⟨bt0, ([6, 0, 0, 0] ++ List.replicate 40 (0 : Byte) ++ leBytes 4 (crc32 ([6, 0, 0, 0] ++ List.replicate 40 (0 : Byte))).toNat), ?_⟩, ⟨w0, ([7, 0, 0, 0] ++ List.replicate 40 (0 : Byte) ++ leBytes 4 (crc32 ([7, 0, 0, 0] ++ List.replicate 40 (0 : Byte))).toNat), ?_⟩, ⟨w0, 127, ?_⟩, ⟨{ w0 with att := { w0.att with aud := { audInit with dyn := some 127 } } }, 127, 127, ?_⟩, ⟨w0, ?_⟩, ⟨State.reset, .getbcr, ?_⟩⟩
  all_goals decide +kernel

/-- A state and operands that meet the hypotheses of each clause of PacketRefusals. -/
theorem test_witness_PacketRefusals :
    (∃ (s : State) (p : Packet) (i : Instr) (op : Op), (i, op) ∈ ([(.nop p, .nop), (.fence p, .fence), (.featuresGet p, .featuresGet), (.featuresSet p, .featuresSet), (.expertEnter p, .expertEnter), (.expertLeave p, .expertLeave), (.memRegionSet p, .memRegionSet), (.memRegionSetPantry p, .memRegionSet), (.memCopy p, .memCopy), (.memFill p, .memFill), (.assetLoad p, .assetLoad), (.assetUnseal p, .assetUnseal), (.errlogRead p, .errlogRead), (.headTiming p, .headTiming), (.headEnable p, .headEnable), (.headDisable p, .headDisable), (.headCommit p, .headCommit), (.planeSet p, .planeSet), (.spriteTable p, .spriteTable), (.spriteTableCanvas p, .spriteTable), (.beamListSet p, .beamListSet), (.composeSet p, .composeSet), (.lutLoad p, .lutLoad), (.canvasSet p, .canvasSet), (.routeSet p, .routeSet), (.routeSetGenlock p, .routeSet), (.crcRectSet p, .crcRectSet), (.writebackSet p, .writebackSet), (.mantelSet p, .mantelSet), (.mantelSetFields p, .mantelSet), (.mantelSetDisable p, .mantelSet), (.rectFill p, .rectFill), (.rectCopy p, .rectCopy), (.rectConvert p, .rectConvert), (.dmaChainStart p, .dmaChainStart), (.dmaStop p, .dmaStop), (.voiceStart p, .voiceStart), (.voiceStop p, .voiceStop), (.voiceParam p, .voiceParam), (.mixGraphLoad p, .mixGraphLoad), (.mixParamSet p, .mixParamSet), (.mixCommit p, .mixCommit), (.audioPortSet p, .audioPortSet), (.audioPortSetDp p, .audioPortSet), (.audioPortSetClock p, .audioPortSet), (.timerCompareArm p, .timerCompareArm), (.timerCaptureSet p, .timerCaptureSet), (.pinseqLoad p, .pinseqLoad), (.pinseqLoadSlot p, .pinseqLoad), (.pinseqLoadConfig p, .pinseqLoad), (.pinseqLoadInject p, .pinseqLoad), (.pinseqStart p, .pinseqStart), (.pinseqStop p, .pinseqStop), (.nioftLoad p, .nioftLoad), (.nioftStart p, .nioftStart), (.nioftStop p, .nioftStop), (.attestQuote p, .attestQuote), (.bootlogRead p, .bootlogRead), (.receiptConfig p, .receiptConfig), (.receiptRead p, .receiptRead), (.unitReset p, .unitReset), (.powerState p, .powerState), (.telemetryConfig p, .telemetryConfig), (.clockPolicy p, .clockPolicy)] : List (Instr × Op)) ∧ s.nextRing = some p.ring.val ∧ s.foy.opens = [] ∧ Tbl.get (fun _ => none) s.foy.pass p.ring.val = none ∧ 2 ^ 63 ≤ p.seq.toNat) ∧
    (∃ (s : State) (p : Packet) (i : Instr) (op : Op), (i, op) ∈ ([(.nop p, .nop), (.fence p, .fence), (.featuresGet p, .featuresGet), (.featuresSet p, .featuresSet), (.expertEnter p, .expertEnter), (.expertLeave p, .expertLeave), (.memRegionSet p, .memRegionSet), (.memRegionSetPantry p, .memRegionSet), (.memCopy p, .memCopy), (.memFill p, .memFill), (.assetLoad p, .assetLoad), (.assetUnseal p, .assetUnseal), (.errlogRead p, .errlogRead), (.headTiming p, .headTiming), (.headEnable p, .headEnable), (.headDisable p, .headDisable), (.headCommit p, .headCommit), (.planeSet p, .planeSet), (.spriteTable p, .spriteTable), (.spriteTableCanvas p, .spriteTable), (.beamListSet p, .beamListSet), (.composeSet p, .composeSet), (.lutLoad p, .lutLoad), (.canvasSet p, .canvasSet), (.routeSet p, .routeSet), (.routeSetGenlock p, .routeSet), (.crcRectSet p, .crcRectSet), (.writebackSet p, .writebackSet), (.mantelSet p, .mantelSet), (.mantelSetFields p, .mantelSet), (.mantelSetDisable p, .mantelSet), (.rectFill p, .rectFill), (.rectCopy p, .rectCopy), (.rectConvert p, .rectConvert), (.dmaChainStart p, .dmaChainStart), (.dmaStop p, .dmaStop), (.voiceStart p, .voiceStart), (.voiceStop p, .voiceStop), (.voiceParam p, .voiceParam), (.mixGraphLoad p, .mixGraphLoad), (.mixParamSet p, .mixParamSet), (.mixCommit p, .mixCommit), (.audioPortSet p, .audioPortSet), (.audioPortSetDp p, .audioPortSet), (.audioPortSetClock p, .audioPortSet), (.timerCompareArm p, .timerCompareArm), (.timerCaptureSet p, .timerCaptureSet), (.pinseqLoad p, .pinseqLoad), (.pinseqLoadSlot p, .pinseqLoad), (.pinseqLoadConfig p, .pinseqLoad), (.pinseqLoadInject p, .pinseqLoad), (.pinseqStart p, .pinseqStart), (.pinseqStop p, .pinseqStop), (.nioftLoad p, .nioftLoad), (.nioftStart p, .nioftStart), (.nioftStop p, .nioftStop), (.attestQuote p, .attestQuote), (.bootlogRead p, .bootlogRead), (.receiptConfig p, .receiptConfig), (.receiptRead p, .receiptRead), (.unitReset p, .unitReset), (.powerState p, .powerState), (.telemetryConfig p, .telemetryConfig), (.clockPolicy p, .clockPolicy)] : List (Instr × Op)) ∧ s.nextRing = some p.ring.val ∧ s.foy.opens = [] ∧ Tbl.get (fun _ => none) s.foy.pass p.ring.val = none ∧ (
      let n := p.ring.val
      (
      let e := s.w64 (kAccepted n) + 1
      p.seq.toNat < 2 ^ 63 ∧ e.toNat < p.seq.toNat))) ∧
    (∃ (s : State) (p : Packet) (i : Instr) (op : Op), (i, op) ∈ ([(.nop p, .nop), (.fence p, .fence), (.featuresGet p, .featuresGet), (.featuresSet p, .featuresSet), (.expertEnter p, .expertEnter), (.expertLeave p, .expertLeave), (.memRegionSet p, .memRegionSet), (.memRegionSetPantry p, .memRegionSet), (.memCopy p, .memCopy), (.memFill p, .memFill), (.assetLoad p, .assetLoad), (.assetUnseal p, .assetUnseal), (.errlogRead p, .errlogRead), (.headTiming p, .headTiming), (.headEnable p, .headEnable), (.headDisable p, .headDisable), (.headCommit p, .headCommit), (.planeSet p, .planeSet), (.spriteTable p, .spriteTable), (.spriteTableCanvas p, .spriteTable), (.beamListSet p, .beamListSet), (.composeSet p, .composeSet), (.lutLoad p, .lutLoad), (.canvasSet p, .canvasSet), (.routeSet p, .routeSet), (.routeSetGenlock p, .routeSet), (.crcRectSet p, .crcRectSet), (.writebackSet p, .writebackSet), (.mantelSet p, .mantelSet), (.mantelSetFields p, .mantelSet), (.mantelSetDisable p, .mantelSet), (.rectFill p, .rectFill), (.rectCopy p, .rectCopy), (.rectConvert p, .rectConvert), (.dmaChainStart p, .dmaChainStart), (.dmaStop p, .dmaStop), (.voiceStart p, .voiceStart), (.voiceStop p, .voiceStop), (.voiceParam p, .voiceParam), (.mixGraphLoad p, .mixGraphLoad), (.mixParamSet p, .mixParamSet), (.mixCommit p, .mixCommit), (.audioPortSet p, .audioPortSet), (.audioPortSetDp p, .audioPortSet), (.audioPortSetClock p, .audioPortSet), (.timerCompareArm p, .timerCompareArm), (.timerCaptureSet p, .timerCaptureSet), (.pinseqLoad p, .pinseqLoad), (.pinseqLoadSlot p, .pinseqLoad), (.pinseqLoadConfig p, .pinseqLoad), (.pinseqLoadInject p, .pinseqLoad), (.pinseqStart p, .pinseqStart), (.pinseqStop p, .pinseqStop), (.nioftLoad p, .nioftLoad), (.nioftStart p, .nioftStart), (.nioftStop p, .nioftStop), (.attestQuote p, .attestQuote), (.bootlogRead p, .bootlogRead), (.receiptConfig p, .receiptConfig), (.receiptRead p, .receiptRead), (.unitReset p, .unitReset), (.powerState p, .powerState), (.telemetryConfig p, .telemetryConfig), (.clockPolicy p, .clockPolicy)] : List (Instr × Op)) ∧ s.nextRing = some p.ring.val ∧ s.foy.opens = [] ∧ Tbl.get (fun _ => none) s.foy.pass p.ring.val = none ∧ (
      let n := p.ring.val
      (
      let e := s.w64 (kAccepted n) + 1
      p.seq.toNat < 2 ^ 63 ∧ p.seq.toNat < e.toNat ∧ (s.foy.journal.all fun x => match x.2 with | some y => decide (y.ring ≠ n ∨ y.seq ≠ p.seq) | none => true) = true))) := by
  refine ⟨⟨w0, { pk 0 [] with seq := 0x8000000000000000 }, .nop { pk 0 [] with seq := 0x8000000000000000 }, .nop, ?_⟩, ⟨w0, { pk 0 [] with seq := 1 }, .nop { pk 0 [] with seq := 1 }, .nop, ?_⟩, ⟨{ w0 with wide := [(kAccepted 0, 0)] }, pk 0 [], .nop (pk 0 []), .nop, ?_⟩⟩
  all_goals decide +kernel

/-- A state and operands that meet the hypotheses of each clause of StepFront. -/
theorem test_witness_StepFront :
    (∃ (s : State) (c : Instr) (rest : List Instr), s.pending = c :: rest) ∧
    (∃ s : State, s.pending = []) := by
  refine ⟨⟨{ w0 with pending := [.getbcr] }, .getbcr, [], ?_⟩, ⟨w0, ?_⟩⟩
  all_goals decide +kernel

/-- A state and operands that meet the hypotheses of each clause of StepKeepsCanonical. -/
theorem test_witness_StepKeepsCanonical :
    (∃ s t : State, s.canonical = true ∧ step s = .next t) := by
  refine ⟨{ w0 with pending := [.nop (pk 0 [])] }, nextOf { w0 with pending := [.nop (pk 0 [])] }, ?_⟩
  exact ⟨by decide +kernel, next_of (by decide +kernel)⟩

/-- A state and operands that meet the hypotheses of each clause of StepFusesRise. -/
theorem test_witness_StepFusesRise :
    (∃ s t : State, step s = .next t) := by
  refine ⟨{ w0 with pending := [.nop (pk 0 [])] }, nextOf { w0 with pending := [.nop (pk 0 [])] }, ?_⟩
  exact next_of (by decide +kernel)

/-- A state and operands that meet the hypotheses of each clause of StoreReadsBack. -/
theorem test_witness_StoreReadsBack :
    (∃ (s : State) (unit detail a r : Nat) (bs : List Byte), bs ≠ [] ∧ s.place a bs.length = .pantry r ∧ s.mayWrite (.pantry r) = true ∧ s.regB (kPAN + 0x100) 31 = false ∧ ((codewords 16 a bs.length).all fun c => decide (s.code c ≠ .uncorr)) = true) ∧
    (∃ (s : State) (unit detail a r : Nat) (bs : List Byte), bs ≠ [] ∧ s.place a bs.length = .pantry r ∧ s.mayWrite (.pantry r) = true ∧ s.regB (kPAN + 0x100) 31 = false ∧ ((codewords 16 a bs.length).all fun c => decide (s.code c ≠ .uncorr)) = true ∧ ∃ x, (x < a ∨ a + bs.length ≤ x)) := by
  refine ⟨⟨w0, 9, 0, 0x800000FFFF, 0, [1], ?_⟩, ⟨w0, 9, 0, 0x800000FFFF, 0, [1], ?_⟩⟩
  · decide +kernel
  · exact ⟨by decide +kernel, by decide +kernel, by decide +kernel, by decide +kernel, by decide +kernel, 0x800000FFFE, by decide +kernel⟩

/-- A state and operands that meet the hypotheses of each clause of ClaimBest. -/
theorem test_witness_ClaimBest :
    (∃ (s : State) (t i : Nat), s.bestFor t = some i) ∧
    (∃ (s : State) (t : Nat), s.bestFor t = none ∧ ∃ j, s.planTarget j = t) := by
  refine ⟨⟨(sr 1023 15 false), 15, 1023, ?_⟩, ⟨(sr 1023 15 true), 15, ?_⟩⟩
  · decide +kernel
  · exact ⟨by decide +kernel, 1023, by decide +kernel⟩

end Sys2Proof.Tests
end

namespace Sys2Proof.Machine

/-! ## Rows that act while their unit runs -/

theorem State.working_next {s t : State} {ok : Bool} {f : State → State} (h : ok = true) (e : f s = t) : s.working ok f = .next t.pump := by
  rw [State.working, if_pos h, e]

theorem State.quietly_next {s t : State} {ok : Bool} {f : State → State} (h : ok = true) (e : f s = t) : s.quietly ok f = .next t := by
  rw [State.quietly, if_pos h, e]

theorem State.quietly_same {s : State} {ok : Bool} {f : State → State} (e : f s = s) : s.quietly ok f = .next s := by
  rw [State.quietly, e, ite_self]

/-! ## Updates of a head, and marks -/

theorem Tbl.ins_ins {α : Type} (t : Tbl α) (i : Nat) (v w : α) : Tbl.ins (Tbl.ins t i v) i w = Tbl.ins t i w := by
  induction t with
  | nil => simp [Tbl.ins]
  | cons e t ih =>
    obtain ⟨k, u⟩ := e
    rcases Nat.lt_trichotomy i k with hlt | rfl | hgt
    · simp [Tbl.ins, hlt]
    · simp [Tbl.ins]
    · have hn : ¬ i < k := by omega
      have hk : ¬ k = i := by omega
      simp [Tbl.ins, hn, hk, ih]

theorem Tbl.del_ins {α : Type} (t : Tbl α) (i : Nat) (v : α) : Tbl.del (Tbl.ins t i v) i = Tbl.del t i := by
  induction t with
  | nil => simp [Tbl.ins, Tbl.del]
  | cons e t ih =>
    obtain ⟨k, u⟩ := e
    unfold Tbl.del at ih ⊢
    rcases Nat.lt_trichotomy i k with hlt | rfl | hgt
    · simp [Tbl.ins, hlt]
    · simp [Tbl.ins]
    · have hn : ¬ i < k := by omega
      have hk : ¬ k = i := by omega
      rw [Tbl.ins, if_neg hn, if_neg hk, List.filter_cons, List.filter_cons, ih]

/-- A key written twice holds what was written last; the first value has to be listed, since a table in no canonical form could lose more than one entry. -/
theorem Tbl.set_set {α : Type} [DecidableEq α] (d : Nat → α) (t : Tbl α) (i : Nat) {v : α} (w : α) (h : v ≠ d i) :
    Tbl.set d (Tbl.set d t i v) i w = Tbl.set d t i w := by
  unfold Tbl.set
  rw [if_neg h]
  split
  · exact Tbl.del_ins t i v
  · exact Tbl.ins_ins t i v w

@[simp] theorem State.head_updHead (s : State) (h : Nat) (f : Head → Head) : (s.updHead h f).head h = f (s.head h) := State.setHead_head_same _ _ _

theorem State.updHead_updHead (s : State) (h : Nat) {f g : Head → Head} (hf : f (s.head h) ≠ headInit) :
    (s.updHead h f).updHead h g = s.updHead h fun v => g (f v) := by
  unfold State.updHead
  rw [State.setHead_head_same]
  unfold State.setHead
  rw [Tbl.set_set _ _ _ _ hf]

@[simp] theorem State.head_mark (s : State) (h tag : Nat) : (s.mark h tag).head h = { s.head h with did := tag :: (s.head h).did } :=
  State.head_updHead _ _ _

@[simp] theorem State.head_updBs (s : State) (h : Nat) (f : BsSt → BsSt) : (s.updBs h f).head h = { s.head h with bs := f (s.head h).bs } :=
  State.head_updHead _ _ _

@[simp] theorem State.head_setB (s : State) (h k i : Nat) (b : Bool) : (s.setB k i b).head h = s.head h := rfl

@[simp] theorem State.head_setF (s : State) (h k lo n v : Nat) : (s.setF k lo n v).head h = s.head h := rfl

/-- What has been marked stays marked as the pixel clock goes on. -/
theorem Grow.marked {s t : State} {h tag : Nat} (g : Grow (s.mark h tag) t) : tag ∈ (t.head h).did := g.did h tag (by simp)

theorem State.updBs_congr {s : State} {h : Nat} {f g : BsSt → BsSt} (e : f (s.head h).bs = g (s.head h).bs) : s.updBs h f = s.updBs h g :=
  congrArg (fun b => s.setHead h { s.head h with bs := b }) e

theorem Grow.cmSet {s t : State} (g : Grow s t) (h : Nat) : t.cmSet h = s.cmSet h := by
  unfold State.cmSet State.cm
  rw [g.com]

/-! ## The packets of a head and of its ports -/

/-- The state in which an accepted `HEAD_ENABLE` leaves head h: the staged set is committed, its counters and `HD_FRAME` are cleared, its PLL is off its lock, and its ports start (R101). -/
def State.headStarting (t : State) (o : Open) (h : Nat) : State :=
  let a := (((t.rsvRequest h (headDemand (t.shSet h))).2.acceptSet h).clearCounts h).setW64 (kFrame h) 0
  let b := (a.setReg (kPll h) (a.reg (kPll h) &&& 0xFFFF)).setB (kHD h + 0xE54) 31 false
  (((b.updHead h fun v =>
    { v with enabled := true, starting := true, restart := none, phase := .stopped, disabling := false,
             ig := { v.ig with crcs := [], raised := false } }).portsHeadOn h).jState o.idx .staged).recHead h

theorem State.headStarting_keep (t : State) (o : Open) (h : Nat) : Keep t (t.headStarting o h) := by
  unfold State.headStarting
  have ha : Keep t ((((t.rsvRequest h (headDemand (t.shSet h))).2.acceptSet h).clearCounts h).setW64 (kFrame h) 0) :=
    State.setW64_keep (State.clearCounts_keep (State.acceptSet_keep (State.rsvRequest_keep (Keep.refl t)).out))
  exact State.recHead_keep (State.jState_keep (State.portsHeadOn_keep (State.updHead_keep (State.setB_keep (State.setReg_keep ha)))))

/-- A `HEAD_ENABLE` that passes its checks, with no cause against its set and its demand reserved, starts the head. -/
theorem beginHeadEnable_starts {o : Open} {t : State} {h : Nat} (ho : fld (pw o.pkt 0) 0 5 = h) (hf : headEnableFault o t = none)
    (hr : t.resumesStart o h = false) (hc : t.setCauses h (t.shSet h) ++ t.canvasCause (fun x => decide (x = h)) h = [])
    (hq : (t.rsvRequest h (headDemand (t.shSet h))).1 = true) :
    beginHeadEnable o t = (.wait (.start h), t.headStarting o h) := by
  subst ho
  unfold beginHeadEnable
  rw [hf]
  extract_lets p h k g c r
  have hc0 : c = 0 := congrArg lowest hc
  rw [if_neg (by simpa using hr), if_neg (by simp [hc0]), if_neg (by simpa using hq)]
  rfl

theorem beginHeadDisable_waits {o : Open} {t : State} (hf : headDisableFault o t = none) :
    beginHeadDisable o t = (.wait (.bnd (fld (pw o.pkt 0) 0 5)), t.updHead (fld (pw o.pkt 0) 0 5) fun v => { v with disabling := true }) := by
  simp [beginHeadDisable, hf]

theorem beginHeadCommit_waits {o : Open} {t : State} (hf : headCommitFault o t = none) :
    beginHeadCommit o t = (.wait (.swap (pw o.pkt 0) 0 0 false),
      (t.jState o.idx .staged).each ((List.range 32).filter (bit (pw o.pkt 0))) State.requestCommit) := by
  simp [beginHeadCommit, hf]

/-- A port route that its checks allow is stored to come, or, where nothing runs on the port, switches it off at once (R246). -/
theorem beginRoutePort_of {o : Open} {t : State} (hp : (t.port (fld (pw o.pkt 0) 0 5)).pend = none) (hf : routePortFault o t = none) :
    let q := fld (pw o.pkt 0) 0 5
    let runs := bit (pw o.pkt 1) 31 = true ∨ (t.routeEn q = true ∧ (t.head (t.routeSrc q)).enabled = true)
    (runs → beginRoutePort o t = (.wait (.route q), t.routePend q (pw o.pkt 1) (some o.acc))) ∧
    (¬ runs → beginRoutePort o t = (.done repOk, t.routeOff q)) := by
  intro q runs
  unfold beginRoutePort
  simp only [hp, hf, Option.isSome_none, Bool.false_eq_true, if_false]
  refine ⟨fun h => ?_, fun h => ?_⟩
  · rcases h with h | ⟨h1, h2⟩
    · rw [if_pos h]
    · simp [q, h1, h2]
  · obtain ⟨h1, h2⟩ := not_or.1 h
    rw [if_neg h1, if_neg (by simpa using h2)]

theorem beginRouteGenlock_of {o : Open} {t : State} (hf : routeGenlockFault o t = none) :
    let src := fld (pw o.pkt 1) 0 5
    ((t.head src).enabled = true → beginRouteGenlock o t = (.wait (.genlockOut src), t)) ∧
    ((t.head src).enabled = false → beginRouteGenlock o t = (.done repOk, t.setReg (kGl 0) (pw o.pkt 1))) := by
  intro src
  constructor <;> intro h <;> simp [beginRouteGenlock, hf, src, h]

theorem beginRouteSet_port {o : Open} (t : State) (h : bit (pw o.pkt 0) 8 = false) : beginRouteSet o t = beginRoutePort o t := by
  simp [beginRouteSet, h]

theorem beginRouteSet_genlock {o : Open} (t : State) (h : bit (pw o.pkt 0) 8 = true) : beginRouteSet o t = beginRouteGenlock o t := by
  simp [beginRouteSet, h]

/-- Settles O6: each packet begins with the result its clause names, and `packet_wait` or `packet_done` gives the Foyer's whole run from it. -/
theorem headPackets : Obligations.HeadPackets := by
  refine ⟨?_, ?_, ?_, ?_, ?_⟩
  · intro s p hT t o h g r a b hf hr hc hq
    exact packet_wait hT (beginHeadEnable_starts rfl hf hr hc hq) (State.headStarting_keep t o h).opens ⟨nofun, nofun⟩
  · intro s p hT t o h hf
    exact packet_wait hT (beginHeadDisable_waits hf) (State.updHead_keep (Keep.refl t)).opens ⟨nofun, nofun⟩
  · intro s p hT t o hf
    have hk : Keep t ((t.jState o.idx .staged).each ((List.range 32).filter (bit (pw p 0))) State.requestCommit) :=
      State.each_keep (State.jState_keep (Keep.refl t)) _ fun _ _ k => State.requestCommit_keep k
    exact packet_wait hT (beginHeadCommit_waits hf) hk.opens ⟨nofun, nofun⟩
  · intro s p hT t o q runs hb hp hf
    obtain ⟨hw, hd⟩ := beginRoutePort_of (o := o) hp hf
    have hport := beginRouteSet_port (o := o) t hb
    exact ⟨fun h => packet_wait hT (hport.trans (hw h)) (State.routePend_keep (Keep.refl t)).opens ⟨nofun, nofun⟩,
      fun h => packet_done hT nofun (hport.trans (hd h)) (State.routeOff_keep (Keep.refl t)).opens⟩
  · intro s p hT t o src hb hf
    obtain ⟨hw, hd⟩ := beginRouteGenlock_of (o := o) hf
    have hgl := beginRouteSet_genlock (o := o) t hb
    exact ⟨fun h => packet_wait hT (hgl.trans (hw h)) rfl ⟨nofun, nofun⟩,
      fun h => packet_done hT nofun (hgl.trans (hd h)) rfl⟩

/-! ## A head that swaps alone -/

theorem State.swapGroup_alone {s : State} {h : Nat} (hc : gCanvasEn (s.cmSet h) = false) : s.swapGroup h = [h] := by
  simp [State.swapGroup, hc]

theorem State.followLeader_alone {s : State} {h : Nat} (hc : gCanvasEn (s.cmSet h) = false) : s.followLeader h = s := by
  have hl : s.leader h = h := by simp [State.leader, State.swapGroup_alone hc]
  unfold State.followLeader
  simp only [hl, if_true]

theorem State.headPassed_grow {s0 s : State} (h : Grow s0 s) {n i : Nat} : Grow s0 (s.headPassed n i) := by
  unfold State.headPassed
  refine grow_ite (fun _ => h) fun _ => State.voiceEvent_grow (State.updHead_grow h ?_)
  exact fun _ _ m => m

/-- A started head outside a canvas goes through its swap cycle by itself (R11, R12, R113). -/
theorem State.swapCycle_alone {s : State} {h : Nat} (hp : (s.head h).phase = .boundary) (hs : (s.head h).starting = false)
    (hc : gCanvasEn (s.cmSet h) = false) :
    let t := s.headPassed h (clkPix (s.cmSet h) 256)
    s.swapCycle h = ((t.swapOne h (t.verdict [h] h)).swapNext [h] h).recHead h := by
  intro t
  have hg : (s.swapGroup h).filter (fun k => !(s.head k).starting && decide ((s.head k).phase ≠ .stopped) && decide ((s.head k).phase ≠ .joining)) = [h] := by
    simp [State.swapGroup_alone hc, hs, hp]
  have ht : gCanvasEn (t.cmSet h) = false := by
    rw [(State.headPassed_grow (Grow.refl s)).cmSet h, hc]
  have hf : t.followLeader h = t := State.followLeader_alone ht
  unfold State.swapCycle
  rw [hg]
  simp only [hs, hp, Bool.false_eq_true, if_false, List.any_cons, List.any_nil, ne_eq, not_true_eq_false, decide_false, Bool.or_false, State.each,
    List.foldl_cons, List.foldl_nil, List.map_cons, List.map_nil]
  show ((((t.followLeader h).swapOne h _).swapNext [h] h).recHead h) = _
  rw [hf]

/-! ## The boundary of a frame -/

/-- A moving head without a coarse alignment closes its frame (R10). -/
theorem State.frameBoundary_closes {s : State} {h : Nat} (hp : (s.head h).phase = .frame) (hg : s.gliding h = false)
    (hc : (State.runOut h (s.ticksLeft h) s).glCoarse h = false) :
    s.frameBoundary h =
      (((State.runOut h (s.ticksLeft h) s).updHead h fun v => { v with glAligned := true }).boundaryCycle h true).joinBoundary h := by
  unfold State.frameBoundary
  simp only [hp, hg, hc, Bool.false_eq_true, if_false]

/-- A moving head with a coarse alignment due halts at (0, VACT) (R114). -/
theorem State.frameBoundary_aligns {s : State} {h : Nat} (hp : (s.head h).phase = .frame) (hg : s.gliding h = false)
    (hc : (State.runOut h (s.ticksLeft h) s).glCoarse h = true) :
    let t := State.runOut h (s.ticksLeft h) s
    s.frameBoundary h = (t.updHead h fun v =>
      { v with glAligned := true, phase := .aligning, x := 0, y := gVact (t.cmSet h), did := [] }).headPosition h 0 (gVact (t.cmSet h)) := by
  intro t
  have hne : ({ t.head h with glAligned := true } : Head) ≠ headInit := fun e => Bool.noConfusion (congrArg Head.glAligned e)
  have hm := State.updHead_updHead t h (f := fun v => { v with glAligned := true })
    (g := fun v => { v with phase := .aligning, x := 0, y := gVact (t.cmSet h), did := [] }) hne
  unfold State.frameBoundary
  simp only [hp, hg, hc, Bool.false_eq_true, if_false, if_true]
  exact congrArg (fun u : State => u.headPosition h 0 (gVact (t.cmSet h))) hm

/-- The PLL of a starting head locks (R15, R101). -/
theorem State.pllLock_starts {s : State} {h : Nat} (t : Nat) (he : (s.head h).enabled = true) (hs : (s.head h).starting = true)
    (hp : (s.head h).phase = .stopped) : s.pllLock h t = (s.setReg (kPll h) (wd (2 ^ 31 + t % 65536))).boundaryCycle h false := by
  unfold State.pllLock
  simp only [he, hs, hp, decide_true, Bool.and_self, if_true]

theorem State.glideDone_resumes {s : State} {h : Nat} (t : Nat) (hg : s.gliding h = true) :
    s.glideDone h t = State.bsClocks h (s.place' h) (60 * t + 256)
      ((s.setReg (kPll h) (wd (2 ^ 31 + t % 65536))).updBs h fun b => { b with oc := 257 + 60 * t, op := s.place' h, fr := 0 }) := by
  unfold State.glideDone
  rw [if_pos hg]

/-- Settles O24: each row works on a full device, and the lemma of its unit says what it does there. -/
theorem frameRows : Obligations.FrameRows := by
  refine ⟨?_, ?_, ?_, ?_, ?_⟩
  · intro s h hfull hp hg t hc
    exact State.working_next (f := fun u => u.frameBoundary h.val) hfull (State.frameBoundary_closes hp hg hc)
  · intro s h hfull hp hg t hc
    exact State.working_next (f := fun u => u.frameBoundary h.val) hfull (State.frameBoundary_aligns hp hg hc)
  · intro s h hfull hp hs hc t
    exact State.working_next (f := fun u => u.swapCycle h.val) hfull (State.swapCycle_alone hp hs hc)
  · intro s h t hfull he hs hp
    exact State.working_next (f := fun u => u.pllLock h.val t) hfull (State.pllLock_starts t he hs hp)
  · intro s h t hfull hg
    exact State.working_next (f := fun u => u.glideDone h.val t) hfull (State.glideDone_resumes t hg)

/-! ## The next pixel clock in which something happens -/

theorem repeat_succ_front {α : Type} (f : α → α) (n : Nat) (a : α) : Nat.repeat f (n + 1) a = Nat.repeat f n (f a) := by
  induction n with
  | zero => rfl
  | succ n ih => exact congrArg f ih

/-- The advance stops in the first pixel clock in which the condition holds. -/
theorem advanceUntil_first {h : Nat} {drop : Bool} {p : State → Bool} {n k : Nat} {s : State} (h0 : 0 < k) (hk : k ≤ n)
    (hp : p (Nat.repeat (fun s => s.tick h drop) k s) = true)
    (hj : ∀ j, 0 < j → j < k → p (Nat.repeat (fun s => s.tick h drop) j s) = false) :
    advanceUntil h drop p n s = some (Nat.repeat (fun s => s.tick h drop) k s) := by
  induction n generalizing k s with
  | zero => omega
  | succ n ih =>
    obtain ⟨k, rfl⟩ : ∃ i, k = i + 1 := ⟨k - 1, by omega⟩
    rw [repeat_succ_front] at hp ⊢
    unfold advanceUntil
    rcases Nat.eq_zero_or_pos k with rfl | hpos
    · exact if_pos hp
    · have h1 : p (s.tick h drop) = false := hj 1 Nat.one_pos (by omega)
      simp only [h1, Bool.false_eq_true, if_false]
      refine ih hpos (by omega) hp fun j j0 jk => ?_
      rw [← repeat_succ_front]
      exact hj (j + 1) (by omega) (by omega)

/-- A row that runs a head to the next event of a kind goes on to the first pixel clock that shows it. -/
theorem quietly_runTo_first {s : State} {h tag k : Nat}
    (hf : s.full = true ∧ 0 < k ∧ k ≤ s.ticksLeft h ∧ tag ∈ ((Nat.repeat (fun s => s.tick h false) k s).head h).did ∧
      ∀ j, 0 < j → j < k → ¬ tag ∈ ((Nat.repeat (fun s => s.tick h false) j s).head h).did) :
    s.quietly s.full (fun s => s.runTo h tag) = .next (Nat.repeat (fun s => s.tick h false) k s) := by
  obtain ⟨hfull, h0, hk, hp, hj⟩ := hf
  refine State.quietly_next hfull ?_
  rw [State.runTo, advanceUntil_first h0 hk (by simpa using hp) fun j j0 jk => by simpa using hj j j0 jk]
  rfl

/-- A head has pixel clocks before it only while it scans. -/
theorem phase_of_ticksLeft {s : State} {h : Nat} (hk : 0 < s.ticksLeft h) : (s.head h).phase = .frame := by
  by_contra hp
  simp [State.ticksLeft, hp] at hk

theorem ticksLeft_still {s : State} {h : Nat} (hq : (s.head h).phase ≠ .frame ∨ s.gliding h = true) : s.ticksLeft h = 0 := by
  rcases hq with hq | hq <;> simp [State.ticksLeft, hq]

theorem quietly_runTo_still {s : State} {h tag : Nat} (hz : s.ticksLeft h = 0) : s.quietly s.full (fun s => s.runTo h tag) = .next s :=
  State.quietly_same (by rw [State.runTo, hz]; rfl)

/-- Outside the boundary sequence `BEAM_POSITION_EVENT` is a row like the others. -/
theorem beamPositionEvent_runs {s : State} {h : Fin 32} (hp : (s.head h.val).phase ≠ .boundary) :
    exec (.beamPositionEvent h) s = s.quietly s.full fun s => s.runTo h.val tVoice := by
  show execBeamPositionEvent h s = _
  simp only [execBeamPositionEvent, State.quietly, if_neg hp]

/-- In the boundary sequence the beam goes on to the first place whose passing a voice latches. -/
theorem State.boundaryEvent_first {s : State} {h i : Nat} (hi : i < clkPix (s.cmSet h) 256 - s.place' h)
    (hv : (s.headPassed h (s.place' h + i + 1)).mus.voices ≠ s.mus.voices)
    (hj : ∀ k < i, (s.headPassed h (s.place' h + k + 1)).mus.voices = s.mus.voices) :
    s.boundaryEvent h = s.headPassed h (s.place' h + i + 1) := by
  have hfind : (List.range (clkPix (s.cmSet h) 256 - s.place' h)).find?
      (fun i => decide ((s.headPassed h (s.place' h + i + 1)).mus.voices ≠ s.mus.voices)) = some i := by
    rw [List.find?_range_eq_some]
    exact ⟨decide_eq_true hv, List.mem_range.2 hi, fun k hk => by simp [hj k hk]⟩
  unfold State.boundaryEvent
  simp only [hfind]

/-! ## The next pixel clock of a head that scans -/

/-- Where the next pixel clock shows the event, the row ends there. -/
theorem Scans.event {s t : State} {h tag : Nat} (hs : Scans s h) (he : s.tick h false = t) (ht : tag ∈ (t.head h).did) :
    s.quietly s.full (fun s => s.runTo h tag) = .next t := by
  have hl : 1 ≤ s.ticksLeft h := by
    have := hs.left
    simp only [State.ticksLeft, hs.frame, hs.moves, decide_true, Bool.not_false, Bool.and_self, if_true]
    omega
  have h1 : Nat.repeat (fun s : State => s.tick h false) 1 s = t := he
  have hq := quietly_runTo_first (s := s) (h := h) (tag := tag) (k := 1) ⟨hs.full, Nat.one_pos, hl, by rw [h1]; exact ht, fun j _ _ => by omega⟩
  rw [hq, h1]

theorem tick_eq_seqOn (s : State) (h : Nat) : s.tick h false = s.seqOn (s.seqAt h) h 64 := rfl

theorem seqOn_grow {s0 u : State} (s : State) {h n : Nat} (g : Grow s0 u) : Grow s0 (s.seqOn u h n) := State.tickRest_grow (State.bsClocks_grow g)

theorem seqAt_grow (s : State) (h : Nat) : Grow (s.tickOpen h) (s.seqAt h) := State.tickFetch_grow (Grow.refl _)

theorem spriteTurn_grow (s : State) (h : Nat) : Grow (s.tickOpen h) (s.spriteTurn h) := State.tickTiles_grow (State.bsClocks_grow (seqAt_grow s h))

theorem leaveAt_grow (s : State) (h : Nat) : Grow (s.tickOpen h) (s.leaveAt h) := by
  unfold State.leaveAt
  refine State.updHead_grow (State.tickSprite_grow (spriteTurn_grow s h)) ?_
  exact fun _ _ m => m

theorem outAt_grow (s : State) (h : Nat) : Grow (s.tickOpen h) (s.outAt h) := State.bsLandDue_grow (leaveAt_grow s h)

/-- The committed set of a head stands through its pixel clock. -/
theorem cmSet_of_opened {s t : State} {h : Nat} (g : Grow (s.tickOpen h) t) : t.cmSet h = s.cmSet h := g.cmSet h

theorem tick_eq_leave (s : State) (h : Nat) :
    s.tick h false = ((s.leaveAt h).bsLandDue h (s.nextPlace h) false).tickShow h (s.nextPlace h) false := by
  have hc := cmSet_of_opened (State.tickSprite_grow (spriteTurn_grow s h) (a1 := h) (a2 := s.nextPlace h))
  unfold State.leaveAt
  rw [← hc]
  rfl

theorem tick_eq_show (s : State) (h : Nat) :
    let p := posAt (s.cmSet h) (s.nextPlace h)
    s.tick h false = ((s.showAt h).tickVoice h p.1 p.2).tickDraw h (s.nextPlace h) false := by
  have hc := cmSet_of_opened (outAt_grow s h)
  intro p
  rw [tick_eq_leave]
  show (s.outAt h).tickShow h (s.nextPlace h) false = _
  unfold State.tickShow State.showAt
  rw [hc]

/-! ### The fetch position -/

/-- The fetch position begins a line: the sequencer's accesses count anew, and the sprites of the next line are evaluated (R156, R180, R181). -/
theorem State.tickFetch_line {s : State} {h j : Nat} (hl : j + lead < frameLen (s.cmSet h)) (hx : (posAt (s.cmSet h) (j + lead)).1 = 0) :
    let y := (posAt (s.cmSet h) (j + lead)).2 + 1
    s.tickFetch h j = if y < gVact (s.cmSet h) then ((s.bsNewLine h j).spriteEval h y).mark h tSpEval else s.bsNewLine h j := by
  unfold State.tickFetch
  simp only [Nat.ne_of_lt hl, Nat.not_lt.2 (Nat.le_of_lt hl), hx, if_false, ne_eq, not_true_eq_false]

/-- The fetch position leaves the frame: the program's window ends (R180). -/
theorem State.tickFetch_end {s : State} {h j : Nat} (hl : j + lead = frameLen (s.cmSet h)) :
    s.tickFetch h j = if s.bsRun h then (s.mark h tWindow).bsEnd h else s.mark h tWindow := by
  unfold State.tickFetch
  rw [if_pos hl]
  rfl

theorem State.bsNewLine_starved {s : State} {h i : Nat} (hs : (s.head h).bs.hold = .starve) :
    s.bsNewLine h i =
      (s.mark h tBudget).updBs h fun b => { b with acc := 0, hold := .none, clk := max b.clk (b.clock (s.cmSet h) i) } := by
  unfold State.bsNewLine
  simp only [hs, if_true]
  exact State.updBs_congr (by simp [hs])

/-! ### The holds of the sequencer -/

theorem State.bsClocks_until {u : State} {h i n t : Nat} {g : Nat → Word} (hg : u.cmSet h = g) (hr : u.bsRun h = true)
    (hh : (u.head h).bs.hold = .until_ t) (ht : t ≤ i + lead) :
    State.bsClocks h i (n + 1) u = State.bsClocks h i n
      ((((u.setB (kBsStat h) 30 false).setF (kBsStat h) 0 15 ((u.head h).bs.pc + 1)).mark h tMet).updBs h fun b =>
        { b with pc := b.pc + 1, hold := .none, tIdx := t, tx := (posAt g t).1, ty := (posAt g t).2, tClk := b.clock g (t - lead),
                 clk := max b.clk (b.clock g (t - lead)) }) := by
  subst hg
  rw [State.bsClocks]
  simp only [hr, hh, ht, Bool.not_true, Bool.false_eq_true, if_false, if_true]
  refine congrArg (State.bsClocks h i n) (State.updBs_congr ?_)
  simp only [State.head_mark, State.head_setF, State.head_setB]

theorem State.bsClocks_fence {u : State} {h i n c : Nat} {g : Nat → Word} (hg : u.cmSet h = g) (hr : u.bsRun h = true)
    (hh : (u.head h).bs.hold = .fence c) (hc : (u.head h).bs.pix g c ≤ i) :
    let f := (u.head h).bs.pix g c + lead
    State.bsClocks h i (n + 1) u = State.bsClocks h i n
      (((((u.bsLandDue h i true).setB (kBsStat h) 30 false).setF (kBsStat h) 0 15 ((u.head h).bs.pc + 1)).mark h tFenceDone).updBs h fun b =>
        { b with pc := b.pc + 1, hold := .none, tIdx := f, tx := (posAt g f).1, ty := (posAt g f).2, tClk := c, clk := c }) := by
  subst hg
  intro f
  rw [State.bsClocks]
  simp only [hr, hh, hc, Bool.not_true, Bool.false_eq_true, if_false, if_true, f]

/-! ### The sprites, the line reads, the landings and the voices -/

theorem State.tickSprite_loaded {v : State} {h j : Nat} (hl : (v.head h).sp.loading = true) (ha : (v.head h).sp.loadAt ≤ j) :
    v.tickSprite h j = (((v.spriteLoaded h).mark h tSpLoaded).spriteEval h 0).mark h tSpEval := by
  unfold State.tickSprite
  simp only [hl, ha, Nat.not_lt.2 ha, decide_false, decide_true, Bool.and_false, Bool.and_self, Bool.false_eq_true, if_false, if_true]

theorem State.raiseLine_marked (s : State) (h : Nat) : tLine ∈ ((s.raiseLine h).head h).did := by
  unfold State.raiseLine
  split
  next hm => simpa using hm
  next => exact (State.headLine_grow (Grow.refl _)).marked

theorem State.lineEvent_raises {s : State} {h y : Nat} (hb : bit (s.cm h 0x84) 31 = true) (hy : fld (s.cm h 0x84) 0 14 = y) :
    s.lineEvent h y = s.raiseLine h := by
  unfold State.lineEvent
  simp only [hb, hy, decide_true, Bool.and_self, if_true]

theorem State.lineReads_inside {s : State} {h y : Nat} (hy : y + 1 < gVact (s.cmSet h)) : s.lineReads h y = s.readLine h (y + 1) := if_pos hy

/-- A layer that is on and has a row to read for a line reads it, with a mark. -/
theorem State.readRow_marked {s : State} {h l y a n : Nat} (ho : (if l < 8 && tpCellar (s.cmSet h) l then s.readEntry h l y else s).layerOff h l = false)
    (hr : (if l < 8 && tpCellar (s.cmSet h) l then s.readEntry h l y else s).rowRange h l y = some (a, n)) :
    tLineRead ∈ ((s.readRow h l y).head h).did := by
  unfold State.readRow
  simp only [ho, hr, Bool.false_eq_true, if_false]
  exact (Grow.refl _).marked

/-- The rows read for a line go on from that of layer l. -/
theorem State.readRows_grow (s : State) {h l y : Nat} (hl : l < 10) :
    Grow ((s.each (List.range l) fun s k => s.readRow h k y).readRow h l y) (s.each (List.range 10) fun s k => s.readRow h k y) := by
  obtain ⟨m, hm⟩ : ∃ m, 10 = l + 1 + m := ⟨9 - l, by omega⟩
  have hsplit : (s.each (List.range 10) fun s k => s.readRow h k y) =
      ((s.each (List.range l) fun s k => s.readRow h k y).readRow h l y).each ((List.range m).map (l + 1 + ·)) fun s k => s.readRow h k y := by
    rw [hm, List.range_add, List.range_succ]
    simp only [State.each, List.foldl_append, List.foldl_cons, List.foldl_nil]
  rw [hsplit]
  exact State.each_grow (Grow.refl _) _ fun _ _ g => State.readRow_grow g

theorem State.readLine_row_marked {s : State} {h l y a n : Nat} (hl : l < 10) :
    let x := s.each (List.range l) fun s k => s.readRow h k y
    let x' := if l < 8 && tpCellar (x.cmSet h) l then x.readEntry h l y else x
    x'.layerOff h l = false → x'.rowRange h l y = some (a, n) → tLineRead ∈ ((s.readLine h y).head h).did := by
  intro x x' ho hr
  have hx : tLineRead ∈ ((s.each (List.range 10) fun s k => s.readRow h k y).head h).did :=
    (State.readRows_grow s hl).did _ _ (State.readRow_marked ho hr)
  unfold State.readLine
  exact (grow_ite (fun _ => State.mark_grow (State.mantelLine_grow (Grow.refl _))) fun _ => Grow.refl _).did _ _ hx

theorem State.readLine_mantel {s : State} {h y : Nat} :
    let w := s.each (List.range 10) fun s k => s.readRow h k y
    w.mantelOn h y = true → s.readLine h y = (w.mantelLine h y).mark h tMtRead := by
  intro w hm
  exact if_pos hm

theorem State.bsLandDue_irq {v : State} {h i c a x y : Nat} (hp : (v.head h).bs.pend = [⟨a, x, y, .irq c⟩]) (ha : a ≤ i) :
    v.bsLandDue h i false = (((v.updBs h fun b => { b with pend := [] }).setReg (kHD h + 0x91C) (wd c)).raiseLine h).mark h tIrq := by
  have hout : (bsOut (fun p => bsDue (v.cmSet h) i p || (false && decide (p.at' ≤ i))) (v.head h).bs.pend).1 = [⟨a, x, y, .irq c⟩] := by
    simp [hp, bsOut, bsDue, ha]
  have hu : (v.updBs h fun b => { b with pend := b.pend.filter fun p => !([⟨a, x, y, .irq c⟩] : List BsPend).contains p }) =
      v.updBs h fun b => { b with pend := [] } := State.updBs_congr (by simp [hp])
  unfold State.bsLandDue
  simp only [hout, hu]
  rfl

theorem State.bsLandDue_stamp {v : State} {h i c a x y : Nat} (hp : (v.head h).bs.pend = [⟨a, x, y, .stamp c⟩]) (ha : a ≤ i)
    (hn : (v.head h).bs.stamps.length < 16) :
    v.bsLandDue h i false =
      (((v.updBs h fun b => { b with pend := [] }).mark h tStamp).updBs h fun b => { b with stamps := b.stamps ++ [⟨v.now, x, y, c⟩] }).setReg
        (kHD h + 0x92C) (wd ((v.head h).bs.stamps.length + 1)) := by
  have hout : (bsOut (fun p => bsDue (v.cmSet h) i p || (false && decide (p.at' ≤ i))) (v.head h).bs.pend).1 = [⟨a, x, y, .stamp c⟩] := by
    simp [hp, bsOut, bsDue, ha]
  have hu : (v.updBs h fun b => { b with pend := b.pend.filter fun p => !([⟨a, x, y, .stamp c⟩] : List BsPend).contains p }) =
      v.updBs h fun b => { b with pend := [] } := State.updBs_congr (by simp [hp])
  have hst : ((((v.updBs h fun b => { b with pend := [] }).mark h tStamp).head h).bs).stamps = (v.head h).bs.stamps := by simp
  have hland : (v.updBs h fun b => { b with pend := [] }).bsLand h ⟨a, x, y, .stamp c⟩ =
      (((v.updBs h fun b => { b with pend := [] }).mark h tStamp).updBs h fun b => { b with stamps := b.stamps ++ [⟨v.now, x, y, c⟩] }).setReg
        (kHD h + 0x92C) (wd ((v.head h).bs.stamps.length + 1)) := by
    unfold State.bsLand
    simp only [hst, Nat.not_le.2 hn, if_false]
    rfl
  unfold State.bsLandDue
  simp only [hout, hu]
  exact hland

theorem State.tickVoice_latches {s : State} {h x y : Nat} (hv : (s.headPosition h x y).mus.voices ≠ s.mus.voices) :
    s.tickVoice h x y = (s.headPosition h x y).mark h tVoice := if_neg hv


/-! ## The rows of a head that scans, where the event falls into the next pixel clock -/

section NextClock
variable {s : State} {h : Fin 32}

/-- The fetch position begins a visible line: the sprites are evaluated for the line after it (R156, R164). -/
theorem exec_spriteLineEval (hs : Scans s h) (hl : s.nextPlace h + lead < frameLen (s.cmSet h))
    (hx : (posAt (s.cmSet h) (s.nextPlace h + lead)).1 = 0) (hy : (posAt (s.cmSet h) (s.nextPlace h + lead)).2 + 1 < gVact (s.cmSet h)) :
    exec (.spriteLineEval h) s = .next (s.seqOn ((((s.tickOpen h).bsNewLine h (s.nextPlace h)).spriteEval h
      ((posAt (s.cmSet h) (s.nextPlace h + lead)).2 + 1)).mark h tSpEval) h 64) := by
  have hu := (State.tickFetch_line (s := s.tickOpen h) hl hx).trans (if_pos hy)
  exact hs.event (congrArg (fun u => s.seqOn u h 64) hu) (seqOn_grow s (Grow.refl _)).marked

/-- A starved sequencer goes on when the fetch position begins a line (R181). -/
theorem exec_beamLineBudgetRelease (hs : Scans s h) (hl : s.nextPlace h + lead < frameLen (s.cmSet h))
    (hx : (posAt (s.cmSet h) (s.nextPlace h + lead)).1 = 0) (hh : (s.head h).bs.hold = .starve) :
    let y := (posAt (s.cmSet h) (s.nextPlace h + lead)).2 + 1
    let w := ((s.tickOpen h).mark h tBudget).updBs h fun b =>
      { b with acc := 0, hold := .none, clk := max b.clk (b.clock (s.cmSet h) (s.nextPlace h)) }
    exec (.beamLineBudgetRelease h) s =
      .next (s.seqOn (if y < gVact (s.cmSet h) then (w.spriteEval h y).mark h tSpEval else w) h 64) := by
  intro y w
  have ho : ((s.tickOpen h).head h).bs.hold = .starve := by rw [State.tickOpen, State.head_updHead]; exact hh
  have hn : (s.tickOpen h).bsNewLine h (s.nextPlace h) = w := State.bsNewLine_starved ho
  have hu := State.tickFetch_line (s := s.tickOpen h) hl hx
  rw [hn] at hu
  have hw : Grow ((s.tickOpen h).mark h tBudget) w := State.updBs_grow (Grow.refl _)
  have hg : Grow ((s.tickOpen h).mark h tBudget) (if y < gVact (s.cmSet h) then (w.spriteEval h y).mark h tSpEval else w) :=
    grow_ite (fun _ => State.mark_grow (State.spriteEval_grow hw)) fun _ => hw
  exact hs.event (congrArg (fun u => s.seqOn u h 64) hu) (seqOn_grow s hg).marked

/-- The fetch position leaves the frame while the program runs, which ends it (R180). -/
theorem exec_beamWindowEnd_running (hs : Scans s h) (hl : s.nextPlace h + lead = frameLen (s.cmSet h)) (hr : s.bsRun h = true) :
    exec (.beamWindowEnd h) s = .next (s.seqOn (((s.tickOpen h).mark h tWindow).bsEnd h) h 64) := by
  have hu := (State.tickFetch_end (s := s.tickOpen h) hl).trans (if_pos hr)
  exact hs.event (congrArg (fun u => s.seqOn u h 64) hu) (seqOn_grow s (State.bsEnd_grow (Grow.refl _))).marked

theorem exec_beamWindowEnd_ended (hs : Scans s h) (hl : s.nextPlace h + lead = frameLen (s.cmSet h)) (hr : s.bsRun h = false) :
    exec (.beamWindowEnd h) s = .next (s.seqOn ((s.tickOpen h).mark h tWindow) h 64) := by
  have hu := (State.tickFetch_end (s := s.tickOpen h) hl).trans (if_neg (Bool.eq_false_iff.1 hr))
  exact hs.event (congrArg (fun u => s.seqOn u h 64) hu) (seqOn_grow s (Grow.refl _)).marked

/-- The place that a WAIT holds for is reached (R184). -/
theorem exec_beamWaitMet (hs : Scans s h) {t : Nat} (hr : (s.seqAt h).bsRun h = true) (hh : ((s.seqAt h).head h).bs.hold = .until_ t)
    (ht : t ≤ s.nextPlace h + lead) :
    let g := s.cmSet h
    let u := s.seqAt h
    exec (.beamWaitMet h) s = .next (s.seqOn
      ((((u.setB (kBsStat h) 30 false).setF (kBsStat h) 0 15 ((u.head h).bs.pc + 1)).mark h tMet).updBs h fun b =>
        { b with pc := b.pc + 1, hold := .none, tIdx := t, tx := (posAt g t).1, ty := (posAt g t).2, tClk := b.clock g (t - lead),
                 clk := max b.clk (b.clock g (t - lead)) }) h 63) := by
  have hc := State.bsClocks_until (n := 63) (cmSet_of_opened (seqAt_grow s h)) hr hh ht
  exact hs.event (congrArg (fun u => u.tickRest h (s.nextPlace h) false) hc) (seqOn_grow s (State.updBs_grow (Grow.refl _))).marked

/-- The composer clock that a FENCE holds for is reached (R198). -/
theorem exec_beamFenceDone (hs : Scans s h) {c : Nat} (hr : (s.seqAt h).bsRun h = true) (hh : ((s.seqAt h).head h).bs.hold = .fence c)
    (hc : ((s.seqAt h).head h).bs.pix (s.cmSet h) c ≤ s.nextPlace h) :
    let g := s.cmSet h
    let u := s.seqAt h
    let i := (u.head h).bs.pix g c + lead
    exec (.beamFenceDone h) s = .next (s.seqOn
      (((((u.bsLandDue h (s.nextPlace h) true).setB (kBsStat h) 30 false).setF (kBsStat h) 0 15 ((u.head h).bs.pc + 1)).mark h tFenceDone).updBs h
        fun b => { b with pc := b.pc + 1, hold := .none, tIdx := i, tx := (posAt g i).1, ty := (posAt g i).2, tClk := c, clk := c }) h 63) := by
  have hk := State.bsClocks_fence (n := 63) (cmSet_of_opened (seqAt_grow s h)) hr hh hc
  exact hs.event (congrArg (fun u => u.tickRest h (s.nextPlace h) false) hk) (seqOn_grow s (State.updBs_grow (Grow.refl _))).marked

/-- The load of the sprite table is complete, and line 0 is evaluated (R156, R164). -/
theorem exec_spriteTableLoaded (hs : Scans s h) (hl : ((s.spriteTurn h).head h).sp.loading = true)
    (ha : ((s.spriteTurn h).head h).sp.loadAt ≤ s.nextPlace h) :
    exec (.spriteTableLoaded h) s = .next ((((((s.spriteTurn h).spriteLoaded h).mark h tSpLoaded).spriteEval h 0).mark h tSpEval).tickOut h
      (s.nextPlace h) false) := by
  have ht := State.tickSprite_loaded hl ha
  have hg := State.spriteEval_grow (Grow.refl (((s.spriteTurn h).spriteLoaded h).mark h tSpLoaded)) (a1 := h) (a2 := 0)
  exact hs.event (congrArg (fun u => u.tickOut h (s.nextPlace h) false) ht) (State.tickOut_grow (State.mark_grow hg)).marked

/-! ### Where the output begins a line -/

theorem showAt_line (hx : (posAt (s.cmSet h) (s.nextPlace h)).1 = 0) :
    let y := (posAt (s.cmSet h) (s.nextPlace h)).2
    s.showAt h = (((s.outAt h).lineOpen h y).lineEvent h y).lineReads h y := if_pos hx

theorem tick_eq_line (hx : (posAt (s.cmSet h) (s.nextPlace h)).1 = 0) :
    let y := (posAt (s.cmSet h) (s.nextPlace h)).2
    s.tick h false = (((((s.outAt h).lineOpen h y).lineEvent h y).lineReads h y).tickVoice h 0 y).tickDraw h (s.nextPlace h) false := by
  intro y
  have ht := tick_eq_show s h
  simp only [showAt_line hx] at ht
  rw [hx] at ht
  exact ht

theorem lineOpened_grow (s : State) (h y : Nat) : Grow (s.tickOpen h) ((s.outAt h).lineOpen h y) := State.lineOpen_grow (outAt_grow s h)

theorem lineRaised_grow (s : State) (h y : Nat) : Grow (s.tickOpen h) (((s.outAt h).lineOpen h y).lineEvent h y) :=
  State.lineEvent_grow (lineOpened_grow s h y)

/-- What the voices and the composer do at a place drops no mark. -/
theorem drawn_grow {s0 t : State} (g : Grow s0 t) {h x y j : Nat} : Grow s0 ((t.tickVoice h x y).tickDraw h j false) :=
  State.tickDraw_grow (State.tickVoice_grow g)

/-- A line whose reads reach a visible line reads that line (R124, R222). -/
theorem tick_eq_readLine (hx : (posAt (s.cmSet h) (s.nextPlace h)).1 = 0) (hy : (posAt (s.cmSet h) (s.nextPlace h)).2 + 1 < gVact (s.cmSet h)) :
    let y := (posAt (s.cmSet h) (s.nextPlace h)).2
    s.tick h false =
      (((((s.outAt h).lineOpen h y).lineEvent h y).readLine h (y + 1)).tickVoice h 0 y).tickDraw h (s.nextPlace h) false := by
  intro y
  have hr : (((s.outAt h).lineOpen h y).lineEvent h y).lineReads h y = (((s.outAt h).lineOpen h y).lineEvent h y).readLine h (y + 1) :=
    State.lineReads_inside (by rw [cmSet_of_opened (lineRaised_grow s h y)]; exact hy)
  rw [← hr]
  exact tick_eq_line hx

/-- The programmed line begins, and LINE is raised (R18). -/
theorem exec_lineEvent (hs : Scans s h) (hx : (posAt (s.cmSet h) (s.nextPlace h)).1 = 0) (hb : bit (s.cm h 0x84) 31 = true)
    (hy : fld (s.cm h 0x84) 0 14 = (posAt (s.cmSet h) (s.nextPlace h)).2) :
    let y := (posAt (s.cmSet h) (s.nextPlace h)).2
    exec (.lineEvent h) s =
      .next ((((((s.outAt h).lineOpen h y).raiseLine h).lineReads h y).tickVoice h 0 y).tickDraw h (s.nextPlace h) false) := by
  intro y
  have hc : ((s.outAt h).lineOpen h y).cm h 0x84 = s.cm h 0x84 := congrFun (cmSet_of_opened (lineOpened_grow s h y)) 0x84
  have hr : ((s.outAt h).lineOpen h y).lineEvent h y = ((s.outAt h).lineOpen h y).raiseLine h :=
    State.lineEvent_raises (by rw [hc]; exact hb) (by rw [hc]; exact hy)
  refine hs.event ?_ ?_
  · rw [← hr]
    exact tick_eq_line hx
  · exact (drawn_grow (State.lineReads_grow (Grow.refl _))).did _ _ (State.raiseLine_marked _ _)

/-- A layer reads its row of the line after the one that begins (R124). -/
theorem exec_bitmapLineRead (hs : Scans s h) {l a n : Nat} (hx : (posAt (s.cmSet h) (s.nextPlace h)).1 = 0)
    (hy : (posAt (s.cmSet h) (s.nextPlace h)).2 + 1 < gVact (s.cmSet h)) (hl : l < 10) :
    let y := (posAt (s.cmSet h) (s.nextPlace h)).2
    let w := ((s.outAt h).lineOpen h y).lineEvent h y
    let x := w.each (List.range l) fun s k => s.readRow h k (y + 1)
    let x' := if l < 8 && tpCellar (s.cmSet h) l then x.readEntry h l (y + 1) else x
    x'.layerOff h l = false → x'.rowRange h l (y + 1) = some (a, n) →
    exec (.bitmapLineRead h) s = .next (((w.readLine h (y + 1)).tickVoice h 0 y).tickDraw h (s.nextPlace h) false) := by
  intro y w x x' ho hr
  have hxc : x.cmSet h = s.cmSet h :=
    cmSet_of_opened (State.each_grow (lineRaised_grow s h y) _ fun _ _ g => State.readRow_grow g)
  have hm : tLineRead ∈ ((w.readLine h (y + 1)).head h).did := by
    refine State.readLine_row_marked hl (a := a) (n := n) ?_ ?_
    · rw [hxc]; exact ho
    · rw [hxc]; exact hr
  exact hs.event (tick_eq_readLine hx hy) ((drawn_grow (Grow.refl _)).did _ _ hm)

/-- The Mantel reads the line after the one that begins (R222). -/
theorem exec_mantelLineRead (hs : Scans s h) (hx : (posAt (s.cmSet h) (s.nextPlace h)).1 = 0)
    (hy : (posAt (s.cmSet h) (s.nextPlace h)).2 + 1 < gVact (s.cmSet h)) :
    let y := (posAt (s.cmSet h) (s.nextPlace h)).2
    let w := (((s.outAt h).lineOpen h y).lineEvent h y).each (List.range 10) fun s k => s.readRow h k (y + 1)
    w.mantelOn h (y + 1) = true →
    exec (.mantelLineRead h) s = .next ((((w.mantelLine h (y + 1)).mark h tMtRead).tickVoice h 0 y).tickDraw h (s.nextPlace h) false) := by
  intro y w hm
  refine hs.event ?_ (drawn_grow (Grow.refl _)).marked
  rw [← State.readLine_mantel hm]
  exact tick_eq_readLine hx hy

/-! ### Where the output arrives at an anchor or at a voice's position -/

/-- The anchor of an IRQ is reached (R196). -/
theorem exec_beamIrqAnchor (hs : Scans s h) {c a x y : Nat} (hp : ((s.leaveAt h).head h).bs.pend = [⟨a, x, y, .irq c⟩]) (ha : a ≤ s.nextPlace h) :
    exec (.beamIrqAnchor h) s = .next ((((((s.leaveAt h).updBs h fun b => { b with pend := [] }).setReg (kHD h + 0x91C) (wd c)).raiseLine h).mark h
      tIrq).tickShow h (s.nextPlace h) false) := by
  refine hs.event ?_ (State.tickShow_grow (Grow.refl _)).marked
  rw [tick_eq_leave, State.bsLandDue_irq hp ha]

/-- The anchor of a STAMP is reached while the FIFO of stamps has room (R197). -/
theorem exec_beamStampAnchor (hs : Scans s h) {c a x y : Nat} (hp : ((s.leaveAt h).head h).bs.pend = [⟨a, x, y, .stamp c⟩])
    (ha : a ≤ s.nextPlace h) (hn : ((s.leaveAt h).head h).bs.stamps.length < 16) :
    let v := s.leaveAt h
    exec (.beamStampAnchor h) s = .next (((((v.updBs h fun b => { b with pend := [] }).mark h tStamp).updBs h fun b =>
      { b with stamps := b.stamps ++ [⟨v.now, x, y, c⟩] }).setReg (kHD h + 0x92C) (wd ((v.head h).bs.stamps.length + 1))).tickShow h
        (s.nextPlace h) false) := by
  refine hs.event ?_ (State.tickShow_grow (State.setReg_grow (State.updBs_grow (Grow.refl _)))).marked
  rw [tick_eq_leave, State.bsLandDue_stamp hp ha hn]

/-- A voice that waits for the position latches it (R18). -/
theorem exec_beamPositionEvent (hs : Scans s h) :
    let p := posAt (s.cmSet h) (s.nextPlace h)
    let v := s.showAt h
    (v.headPosition h p.1 p.2).mus.voices ≠ v.mus.voices → exec (.beamPositionEvent h) s =
      .next (((v.headPosition h p.1 p.2).mark h tVoice).tickDraw h (s.nextPlace h) false) := by
  intro p v hv
  rw [beamPositionEvent_runs (by simp [hs.frame])]
  refine hs.event ?_ (State.tickDraw_grow (Grow.refl _)).marked
  rw [tick_eq_show, State.tickVoice_latches hv]

end NextClock

/-- Settles O27: a row runs to the first pixel clock that shows its event, and what the next one does is said by the lemma of each row. -/
theorem eventsWithinFrame : Obligations.EventsWithinFrame := by
  unfold Obligations.EventsWithinFrame
  intro at' has first
  refine ⟨?_, ?_, ?_, ?_, ?_⟩
  · intro s h k
    and_intros
    -- the position of a voice is the one row that the boundary sequence shows too
    on_goal 18 =>
      intro hf
      have hp : (s.head h.val).phase = .frame := phase_of_ticksLeft (Nat.lt_of_lt_of_le hf.2.1 hf.2.2.1)
      rw [beamPositionEvent_runs (by simp [hp])]
      exact quietly_runTo_first hf
    all_goals exact quietly_runTo_first
  · intro s h i hq hi
    have hz := ticksLeft_still hq
    simp only [List.mem_cons, List.not_mem_nil, or_false] at hi
    rcases hi with rfl | rfl | rfl | rfl | rfl | rfl | rfl | rfl | rfl | rfl | rfl | rfl | rfl | rfl | rfl | rfl | rfl | rfl | rfl | rfl | rfl
    all_goals exact quietly_runTo_still hz
  · intro s h hf hb
    rw [beamPositionEvent_runs hb]
    exact quietly_runTo_still (ticksLeft_still (.inl hf))
  · intro s h hs g j o f p u b
    refine ⟨exec_spriteLineEval hs, exec_beamLineBudgetRelease hs, exec_beamWindowEnd_running hs, exec_beamWindowEnd_ended hs,
      fun t hr hh ht => exec_beamWaitMet hs hr hh ht, fun c hr hh hc => exec_beamFenceDone hs hr hh hc,
      exec_spriteTableLoaded hs, exec_lineEvent hs, fun l a n hx hy hl => exec_bitmapLineRead hs hx hy hl, exec_mantelLineRead hs,
      fun c a x y hp ha => exec_beamIrqAnchor hs hp ha, fun c a x y hp ha hn => exec_beamStampAnchor hs hp ha hn,
      exec_beamPositionEvent hs⟩
  · intro s h i at' hfull hp hi hv hj
    show execBeamPositionEvent h s = _
    refine State.quietly_next hfull ((if_pos hp).trans ?_)
    exact State.boundaryEvent_first hi hv hj

end Sys2Proof.Machine

namespace Sys2Proof.Machine

/-! ## The packets of the system family -/

theorem beginFence_waits {o : Open} (t : State) (h : outside o.pkt 0 0x0003FFFF = false) :
    beginFence o t = (.wait (.fence (pw o.pkt 0 ||| flag o.pkt.ring.val true)), t) := by
  rw [beginFence, h]; rfl

/-- With nothing else open and no swap to be awaited, an `EXPERT_ENTER` has nothing to wait for (R46). -/
theorem beginExpertEnter_alone {o : Open} {t : State} (ho : t.foy.opens = [o]) (hf : t.expertFault o true = none)
    (hu : fld (pw o.pkt 0) 0 8 < 0x10 ∨ (t.head (fld (pw o.pkt 0) 0 8 - 0x10)).enabled = false) :
    beginExpertEnter o t = (.wait (.expert (fld (pw o.pkt 0) 0 8) true []), t) := by
  have hs : (decide (0x10 ≤ fld (pw o.pkt 0) 0 8) && (t.head (fld (pw o.pkt 0) 0 8 - 0x10)).enabled) = false := by
    rcases hu with hu | hu
    · simp [Nat.not_le.2 hu]
    · simp [hu]
  simp [beginExpertEnter, hf, ho, hs]

theorem beginExpertLeave_done {o : Open} {t : State} (hf : t.expertFault o false = none) : beginExpertLeave o t = (.done repOk, t) := by
  simp [beginExpertLeave, hf]

/-- An `ERRLOG_READ` that its checks allow writes the records from `first` on, as many as fit into its buffer (R524). -/
theorem beginErrlogRead_reads {o : Open} {t : State} (hf : errlogReadFault o t = none) :
    let next := (t.w64 kErrNext).toNat
    let old := (t.w64 kErrOld).toNat
    let back := (lo32 (t.w64 kErrNext) - pw o.pkt 3).toNat
    let first := if next < back then old else max old (next - back)
    let n := min ((pw o.pkt 2).toNat / 32) (next - first)
    let recs := (List.range n).filterMap fun i => t.errAt (BitVec.ofNat 64 (first + i))
    beginErrlogRead o t =
      (.done ⟨.ok, 0, wd n, wd first, wd next⟩, t.hostWrite (pd o.pkt 0) (recs.flatMap fun r => wsBytes (errWords r))) := by
  intro next old back first n recs
  rw [beginErrlogRead, hf]

theorem decodeFault_unknown (c : BitVec 16) (p : Packet) : decodeFault (.unknown c) p = some (rep .badOpcode 0) := rfl

/-- Settles O1: each packet begins with the result its clause names, and `packet_done`, `packet_settled` or `packet_refused` gives the Foyer's whole run from it. -/
theorem systemPackets : Obligations.SystemPackets := by
  refine ⟨?_, ?_, ?_, ?_, ?_, ?_, ?_, ?_⟩
  · intro s p hT
    exact packet_done hT nofun rfl rfl
  · intro s p hT hm
    exact packet_settled hT nofun (beginFence_waits (o := s.opened .fence p) _ hm) rfl (.inl ⟨_, rfl⟩)
  · intro s p hT t
    exact packet_done hT nofun rfl rfl
  · intro s p hT
    exact packet_done hT nofun rfl rfl
  · intro s p hT t u hf hu
    exact packet_settled hT nofun (beginExpertEnter_alone (admitted_opens hT.quiet) hf hu) rfl (.inr ⟨_, rfl⟩)
  · intro s p hT t hf
    exact packet_done hT nofun (beginExpertLeave_done hf) rfl
  · intro s p hT t next old back first n recs hf
    exact packet_done hT nofun (beginErrlogRead_reads hf) rfl
  · intro s code p hF hop
    have hrow : exec (.unknownOpcodePacket code p) s = s.packet (.unknown code) p := congrArg (fun op => s.packet op p) hop
    exact hrow.trans (packet_refused hF nofun (decodeFault_unknown code p))

/-! ## The BAR2 window -/

/-- The tags that a next state shows for subchannel A of channel 0 in `HAL_TAGSTAT` (R323). -/
def shownTags : Out → Word
  | .next t => t.reg (kHAL + 0x200)
  | _ => 0

/-- A running device with BASE 0 and one Cellar channel of 4 GiB with a region of the host at address 0, on whose subchannel A DEADLINE transfers hold all 64 tags of their own and all 112 shared ones (R312). -/
def deadlineFull : State :=
  (((((({ State.reset with phase := .run }.setReg 4 1).setReg 0x18 0).setReg (kCEL + 0x80) 0x01000004).setReg (kReg 0 + 8) 0x100000).setReg
    (kReg 0 + 0x10) 0x8000FF00).setReg (kReg 0 + 0x14) 0x80000000).deadlineTags 0 176

/-- A BAR2 read of a Cellar byte finds no shared tag, so the oldest DEADLINE transfer that holds one gives it back, and `HAL_TAGSTAT` shows one tag less. -/
theorem deadlineFull_read_tags : shownTags (exec (.bar2Read 0 1) deadlineFull) = 0x00AF006F := by decide +kernel

/-- Refutes O16: the clause of an allowed BAR2 read has no Hallway transfer in its next state, only the channel's wake, while the read takes a tag like any other; where DEADLINE transfers hold every shared tag, one of them ends (R311, R312). -/
theorem not_windowRows : ¬ Obligations.WindowRows := by
  unfold Obligations.WindowRows
  rintro ⟨-, -, -, -, -, hread, -⟩
  have hnext := congrArg shownTags (hread deadlineFull 0 1 (by decide +kernel) (by decide +kernel) (by decide +kernel))
  rw [deadlineFull_read_tags] at hnext
  exact absurd hnext (by decide +kernel)

/-! ### Where an offset leads -/

theorem State.bar2Addr_eq (s : State) (off : Nat) : s.bar2Addr off = s.regF 0x18 0 12 * 2 ^ 28 + off := by
  rw [State.bar2Addr, Nat.mul_comm]

theorem State.bar2Open_eq_true {s : State} {off n : Nat} (hb : s.regF 0x18 0 12 ≤ 0x800) (ho : off + n ≤ 2 ^ 28) : s.bar2Open off n = true := by
  rw [State.bar2Open, decide_eq_true hb, decide_eq_true ho]; rfl

theorem State.bar2Open_eq_false {s : State} {off n : Nat} (hb : 0x800 < s.regF 0x18 0 12) : s.bar2Open off n = false := by
  rw [State.bar2Open, decide_eq_false (Nat.not_le.2 hb), Bool.false_and]

theorem State.hostPlace_cellar {s : State} {a n : Nat} (h : a < aPantry) : s.hostPlace a n = s.place a n := if_pos h

theorem State.hostPlace_pantry (s : State) {a n : Nat} (h : aPantry ≤ a) (hn : a + n ≤ aLarder) : s.hostPlace a n = .pantry 0 := by
  rw [State.hostPlace, if_neg (Nat.not_lt.2 h), if_pos hn]

theorem State.hostPlace_larder (s : State) {a n : Nat} (h : aLarder ≤ a) (hn : a + n ≤ aLarderEnd) (h0 : 0 < n) : s.hostPlace a n = .larder 0 := by
  have hp : aPantry ≤ a := Nat.le_trans (by decide) h
  rw [State.hostPlace, if_neg (Nat.not_lt.2 hp), if_neg (by omega), if_pos ⟨h, hn⟩]

theorem State.hostPlace_beyond (s : State) {a n : Nat} (h : aPantry ≤ a) (hn : aLarderEnd < a + n) : s.hostPlace a n = .none := by
  have hl : aLarder < aLarderEnd := by decide
  rw [State.hostPlace, if_neg (Nat.not_lt.2 h), if_neg (by omega), if_neg (by omega)]

/-- A BAR2 read through a closed window answers all ones and is recorded (R29, R42). -/
theorem execBar2Read_closed {s : State} {off : BitVec 28} {n : Nat} (ha : s.answers = true) (hc : s.bar2Flush.bar2Open off.toNat n = false) :
    execBar2Read off n s = .next { s.bar2Flush.refusedAccess uHost (s.bar2Flush.bar2Addr off.toNat) with
      readData := toWords (List.replicate n 0xFF), readPoison := false }.pump := by
  simp only [execBar2Read, State.bar2Read, ha, hc, Bool.not_true, Bool.false_and, Bool.false_eq_true, if_false]

/-- Settles O17: the address is arithmetic, and the bounds of the ranges of R28 say where it lies. -/
theorem windowAddress : Obligations.WindowAddress := by
  have hP : aPantry = 0x800 * 2 ^ 28 := rfl
  have hL : aLarder = aPantry + 0x4000000 := rfl
  have hE : aLarderEnd = aPantry + 0x5000000 := rfl
  refine ⟨?_, fun s off n ha hb => execBar2Read_closed ha (State.bar2Open_eq_false hb), by decide +kernel⟩
  intro s off n hn ho b a
  have hA : a = b * 2 ^ 28 + off.toNat := s.bar2Addr_eq off.toNat
  refine ⟨hA, fun hb => ?_, fun hb => ?_, State.bar2Open_eq_false⟩
  · have hend : a + n ≤ aPantry := by omega
    exact ⟨State.bar2Open_eq_true (Nat.le_succ_of_le hb) ho, hend, State.hostPlace_cellar (by omega)⟩
  · have hbase : a = aPantry + off.toNat := by omega
    refine ⟨State.bar2Open_eq_true (Nat.le_of_eq hb) ho, fun hp => ⟨hbase, s.hostPlace_pantry (by omega) (by omega)⟩, fun hl he => ?_, fun he => ?_⟩
    · exact ⟨by omega, s.hostPlace_larder (by omega) (by omega) hn⟩
    · exact s.hostPlace_beyond (by omega) (by omega)

/-! ## Writes by access code -/

/-- A place in a unit page. -/
theorem page_of_add {u o : Nat} (h : o < 0x10000) : (u * 0x10000 + o) / 0x10000 = u ∧ (u * 0x10000 + o) % 0x10000 = o := by omega

theorem kHD_add_eq (h o : Nat) : kHD h + o = (0x10 + h) * 0x10000 + o := by unfold kHD; omega

/-- The injectors lie in the pages of the Cellar and the Pantry (R305, R306). -/
theorem State.flipWrite_none (s : State) {u : Nat} (o : Nat) (v : Word) (h4 : u ≠ 4) (h5 : u ≠ 5) : s.flipWrite u o v = none := by
  unfold State.flipWrite
  split
  · exact absurd rfl h4
  · exact absurd rfl h4
  · exact absurd rfl h4
  · exact absurd rfl h5
  · exact absurd rfl h5
  · rfl

/-- A register of a head page that is none of those with an access code of their own: no W1C register, not of the Mantel, not `HD_COMMIT`, `HD_PALWIN` or `HD_BSFLAG`. -/
def headPlain (o : Nat) : Bool :=
  decide (o % 4 = 0) && decide (o < 0x10000) && (headW1c o).isNone && !mantelReg o && decide (o ≠ 0x40) && decide (o ≠ 0x708) && decide (o ≠ 0x918)

theorem rwsOffs_plain {o : Nat} (h : o ∈ rwsOffs) : headPlain o = true :=
  List.all_eq_true.1 (show rwsOffs.all headPlain = true by decide +kernel) o h

theorem rwbOffs_plain {o : Nat} (h : o ∈ rwbOffs) : headPlain (0x1000 + o) = true ∧ rwsOffs.contains (0x1000 + o) = false := by
  have hall : rwbOffs.all (fun o => headPlain (0x1000 + o) && !rwsOffs.contains (0x1000 + o)) = true := by decide +kernel
  simpa using List.all_eq_true.1 hall o h

/-- A plain register of a head page is written by its access code alone (R36). -/
theorem State.headWrite_plain (s : State) (h : Nat) {o : Nat} (v : Word) (hp : headPlain o = true) :
    s.headWrite h o v =
      if rwsOffs.contains o then some (s.stage h o (v &&& rwsMask o))
      else if 0x1000 ≤ o ∧ rwbOffs.contains (o - 0x1000) then some (s.hostActive h o v)
      else if 0x8000 ≤ o then s.palWrite h ((o - 0x8000) / 4) v
      else none := by
  simp only [headPlain, Bool.and_eq_true, decide_eq_true_eq, Option.isNone_iff_eq_none, Bool.not_eq_true'] at hp
  obtain ⟨⟨⟨⟨⟨⟨-, -⟩, hw⟩, hm⟩, h1⟩, h2⟩, h3⟩ := hp
  unfold State.headWrite
  simp only [hw, hm, h1, h2, h3, Bool.false_eq_true, if_false]

theorem State.headWrite_rws (s : State) (h : Nat) {o : Nat} (v : Word) (ho : o ∈ rwsOffs) :
    s.headWrite h o v = some (s.stage h o (v &&& rwsMask o)) :=
  (s.headWrite_plain h v (rwsOffs_plain ho)).trans (if_pos (List.contains_iff_mem.2 ho))

theorem State.headWrite_rwb (s : State) (h : Nat) {o : Nat} (v : Word) (ho : o ∈ rwbOffs) :
    s.headWrite h (0x1000 + o) v = some (s.hostActive h (0x1000 + o) v) := by
  obtain ⟨hp, hn⟩ := rwbOffs_plain ho
  rw [s.headWrite_plain h v hp, if_neg (by rw [hn]; decide), if_pos ⟨Nat.le_add_right _ _, by rw [Nat.add_sub_cancel_left]; exact List.contains_iff_mem.2 ho⟩]

theorem State.pageWrite_head (s : State) (h o : Nat) (v : Word) : s.pageWrite (0x10 + h) o v = s.headWrite h o v := by
  unfold State.pageWrite
  rw [if_pos (by omega), Nat.add_sub_cancel_left]

/-- A driving master's write of a plain register of a head page. -/
theorem rowWrite_head {s t : State} {m : Master} {h o : Nat} {v : Word} (hh : h < 32) (hd : s.drives m (0x10 + h) = true) (hp : headPlain o = true)
    (hw : s.headWrite h o v = some t) : s.rowWrite m (bar0At (kHD h + o)) v = .next t.pump := by
  simp only [headPlain, Bool.and_eq_true, decide_eq_true_eq, Bool.not_eq_true'] at hp
  obtain ⟨⟨⟨⟨⟨⟨h4, ho⟩, -⟩, hm⟩, -⟩, -⟩, -⟩ := hp
  obtain ⟨hu, hr⟩ := page_of_add (u := 0x10 + h) ho
  have hpage : s.pageWrite (0x10 + h) o v = some t := (s.pageWrite_head h o v).trans hw
  have hmap : pageMapped (0x10 + h) = true := by simp [pageMapped]; omega
  rw [kHD_add_eq]
  exact rowWrite_drives (by rw [hu]; exact hd) (by omega) (by rw [hu]; exact hmap) (by omega)
    (by rw [hu]; exact s.flipWrite_none _ v (by omega) (by omega)) (by rw [hr, hm, Bool.and_false]) (by rw [hu, hr]; exact hpage)

/-- A driving master's write of a page of an engine. -/
theorem rowWrite_engine {s t : State} {m : Master} {u o : Nat} {v : Word} (hu : 9 ≤ u) (hu' : u ≤ 10) (hd : s.drives m u = true) (h4 : o % 4 = 0)
    (ho : o < 0x10000) (hw : s.pageWrite u o v = some t) : s.rowWrite m (bar0At (u * 0x10000 + o)) v = .next t.pump := by
  obtain ⟨hq, hr⟩ := page_of_add (u := u) ho
  have hmap : pageMapped u = true := by simp [pageMapped]; omega
  exact rowWrite_drives (by rw [hq]; exact hd) (by omega) (by rw [hq]; exact hmap) (by omega)
    (by rw [hq]; exact s.flipWrite_none _ v (by omega) (by omega)) (by rw [hq, decide_eq_false (by omega), Bool.false_and]) (by rw [hq, hr]; exact hw)

/-- The plain registers of a rect engine, with the bits they have (R340). -/
theorem State.rctWrite_plain (s : State) {k : Nat} (v : Word) {e : Nat × Word} (hk : k < 4)
    (he : e ∈ [(0x04, (0xFFFFFFFF : Word)), (0x08, 0xFF), (0x0C, 0xFFFFF), (0x10, 0xFFFFFFFF), (0x14, 0xFF), (0x18, 0xFFFFF), (0x1C, 0x3FFF3FFF),
      (0x20, 0xFFFFFFFF), (0x24, 0xFFFFFFFF), (0x28, 0xFFFF), (0x2C, 0x3FFF)]) :
    e.1 % 4 = 0 ∧ e.1 < 0x100 ∧ s.rctWrite (0x100 * k + e.1) v = some (s.setReg (kRct k + e.1) (v &&& e.2)) := by
  have hall : v &&& 0xFFFFFFFF#32 = v := BitVec.and_allOnes
  have hw : ∀ o, o < 0x100 → ¬ 0x400 ≤ 0x100 * k + o := fun o ho => by omega
  simp only [List.mem_cons, List.not_mem_nil, or_false] at he
  unfold State.rctWrite
  rcases he with rfl | rfl | rfl | rfl | rfl | rfl | rfl | rfl | rfl | rfl | rfl <;>
    exact ⟨by decide, by decide, by simp [hw, hall, kRct, Nat.add_assoc]⟩

/-- The plain registers of a Dumbwaiter channel, with the bits they have (R358). -/
theorem State.dwtWrite_plain (s : State) {c : Nat} (v : Word) {e : Nat × Word} (hc : c < 64)
    (he : e ∈ [(0x08, (0xFFFFFFE0 : Word)), (0x0C, 0xFF), (0x30, 0xFFFF)]) :
    e.1 % 4 = 0 ∧ e.1 < 0x80 ∧ s.dwtWrite (0x80 * c + e.1) v = some (s.setReg (kDw c + e.1) (v &&& e.2)) := by
  have hw : ∀ o, o < 0x80 → ¬ 0x2000 ≤ 0x80 * c + o := fun o ho => by omega
  simp only [List.mem_cons, List.not_mem_nil, or_false] at he
  unfold State.dwtWrite
  rcases he with rfl | rfl | rfl <;> exact ⟨by decide, by decide, by simp [hw, kDw, Nat.add_assoc]⟩

/-! ### What the host writes -/

/-- An aligned word that the host writes to a present unit page: the page takes it where basic control or the expert bit lets it in, and anything else is discarded and recorded (R36, R38, R39). -/
theorem regWrite_pf0 {s : State} {off : BitVec 24} {v : Word} (ha : s.answers = true) (h4 : off.toNat % 4 = 0)
    (hm : pageMapped (off.toNat / 0x10000) = true) (hu : off.toNat / 0x10000 < 0x40) (hp : s.pageAbsent (off.toNat / 0x10000) = false) :
    s.regWrite .pf0 (.bar0 off) .word v =
      if basicWrite (off.toNat / 0x10000) (off.toNat % 0x10000) || s.expert (off.toNat / 0x10000) then
        (s.pageWrite (off.toNat / 0x10000) (off.toNat % 0x10000) v).getD (s.wdrop (off.toNat / 0x10000) (off.toNat % 0x10000))
      else s.wdrop (off.toNat / 0x10000) (off.toNat % 0x10000) := by
  have hu' : ¬ 0x40 ≤ off.toNat / 0x10000 := Nat.not_le.2 hu
  unfold State.regWrite State.busWrite
  simp only [ha, hm, hp, hu', barOffset, h4, Bool.not_true, Bool.false_eq_true, if_false, reduceCtorEq, ne_eq, not_true_eq_false, or_self]
  split
  · cases s.pageWrite (off.toNat / 0x10000) (off.toNat % 0x10000) v <;> rfl
  · rfl

theorem State.drives_pf0 {s : State} {u : Nat} (h : s.drives .pf0 u = true) : s.answers = true ∧ s.pageAbsent u = false ∧ s.expert u = true := by
  simpa [State.drives, and_assoc] using h

/-- A unit under expert control takes what its page takes. -/
theorem regWrite_pf0_drives {s : State} {off : BitVec 24} {v : Word} (h4 : off.toNat % 4 = 0) (hm : pageMapped (off.toNat / 0x10000) = true)
    (hu : off.toNat / 0x10000 < 0x40) (hd : s.drives .pf0 (off.toNat / 0x10000) = true) :
    s.regWrite .pf0 (.bar0 off) .word v =
      (s.pageWrite (off.toNat / 0x10000) (off.toNat % 0x10000) v).getD (s.wdrop (off.toNat / 0x10000) (off.toNat % 0x10000)) := by
  obtain ⟨ha, hp, hx⟩ := State.drives_pf0 hd
  rw [regWrite_pf0 ha h4 hm hu hp, hx, Bool.or_true, if_pos rfl]

theorem regWrite_pf0_narrow {s : State} {off : BitVec 24} {w : Width} {v : Word} (ha : s.answers = true) (hn : w = .narrow ∨ off.toNat % 4 ≠ 0) :
    s.regWrite .pf0 (.bar0 off) w v =
      if pageMapped (off.toNat / 0x10000) then s.wdrop (dropAt (.bar0 off)).1 (dropAt (.bar0 off)).2
      else s.refusedAccess uHost (aRegs + off.toNat) := by
  unfold State.regWrite
  rw [if_neg (by simp [ha]), if_pos (show w = .narrow ∨ barOffset (.bar0 off) % 4 ≠ 0 from hn)]
  rfl

/-- A W1C register of a head page is written under basic control too (R38). -/
theorem regWrite_w1c {s : State} {h : Nat} {e : Nat × Word} {v : Word} (hh : h < 32) (ha : s.answers = true) (hp : s.pageAbsent (0x10 + h) = false)
    (he : headW1c e.1 = some e.2) (h4 : e.1 % 4 = 0) (ho : e.1 < 0x10000) :
    s.regWrite .pf0 (bar0At (kHD h + e.1)) .word v = s.w1c (kHD h + e.1) e.2 v := by
  obtain ⟨hu, hr⟩ := page_of_add (u := 0x10 + h) ho
  have hmap : pageMapped (0x10 + h) = true := by simp [pageMapped]; omega
  have hbasic : basicWrite (0x10 + h) e.1 = true := by simp [basicWrite, he]
  have hpage : s.pageWrite (0x10 + h) e.1 v = some (s.w1c (kHD h + e.1) e.2 v) := by
    rw [State.pageWrite_head, State.headWrite, he]
  have hoff : (BitVec.ofNat 24 ((0x10 + h) * 0x10000 + e.1)).toNat = (0x10 + h) * 0x10000 + e.1 := bar0At_toNat (by omega)
  rw [kHD_add_eq, bar0At, regWrite_pf0 ha (by rw [hoff]; omega) (by rw [hoff, hu]; exact hmap) (by rw [hoff]; omega) (by rw [hoff, hu]; exact hp),
    hoff, hu, hr, hbasic, hpage]
  rw [kHD_add_eq]
  rfl

/-! ### Reads -/

/-- A read of BAR0 is the register bus's own, but for `GLB_SYNC` (R34, R43). -/
theorem partRead_bar0 {s : State} {m : Master} {off : BitVec 24} (size : ReadSize) (ha : s.answers = true) (hm : m ≠ .pf1) (h7 : off.toNat / 4 ≠ 7) :
    s.partRead m (.bar0 off) size =
      .next ((s.busRead m off.toNat).2.answer [readPart size off.toNat ((s.busRead m off.toNat).1.getD 0xFFFFFFFF)]).pump := by
  unfold State.partRead State.regRead
  cases m <;> simp [ha, h7, barOffset] at hm ⊢

/-- A master that may read a page reads what the page answers. -/
theorem State.busRead_views {s : State} {m : Master} {off : Nat} (hm : pageMapped (off / 0x10000) = true) (hv : s.views m (off / 0x10000) = true) :
    s.busRead m off = (some (s.pageRead (off / 0x10000) (off / 4 * 4 % 0x10000)).1, (s.pageRead (off / 0x10000) (off / 4 * 4 % 0x10000)).2) := by
  have hu : off / 4 * 4 / 0x10000 = off / 0x10000 := by omega
  unfold State.busRead
  simp only [hu, hm, Bool.not_true, Bool.false_eq_true, if_false]
  cases m with
  | core n =>
    have hg : s.nioGranted n.val (off / 4 * 4) false = true := by
      rw [← nioGranted_page, hu]; exact (Bool.and_eq_true _ _ ▸ hv).2
    simp only [hg, Bool.not_true, Bool.false_eq_true, if_false]
  | _ => rfl

theorem State.busRead_unmapped {s : State} {m : Master} {off : Nat} (hm : pageMapped (off / 0x10000) = false) :
    s.busRead m off = (none, s.refusedAccess (masterUnit m) (aRegs + off / 4 * 4)) := by
  have hu : off / 4 * 4 / 0x10000 = off / 0x10000 := by omega
  unfold State.busRead
  simp only [hu, hm, Bool.not_false, if_true]

theorem State.views_parts {s : State} {m : Master} {u : Nat} (h : s.views m u = true) :
    s.answers = true ∧ s.ready = true ∧ s.pageAbsent u = false ∧ m ≠ .pf1 := by
  simp only [State.views, Bool.and_eq_true, Bool.not_eq_true'] at h
  obtain ⟨⟨⟨ha, hr⟩, hp⟩, hx⟩ := h
  exact ⟨ha, hr, hp, by rintro rfl; exact Bool.noConfusion hx⟩

theorem State.pageRead_lo {s : State} {u o : Nat} (hu : u < 0x40) (hr : s.ready = true) (hp : s.pageAbsent u = false) (hw : writeOnly u o = false)
    (hl : wideReg u o = true) : s.pageRead u o = s.loRead (u * 0x10000 + o) (u * 0x10000 + o) := by
  unfold State.pageRead
  simp [Nat.not_le.2 hu, hr, hp, hw, hl]

theorem State.pageRead_rct {s : State} (o : Nat) (hr : s.ready = true) (hp : s.pageAbsent 10 = false) :
    s.pageRead 10 o = (s.reg (10 * 0x10000 + o), s) := by
  unfold State.pageRead
  simp [hr, hp, writeOnly, wideReg]

/-- `GLB_SYNC` has no HI half. -/
theorem not_sync_of_wideReg {off : Nat} (h : wideReg (off / 0x10000) (off / 4 * 4 % 0x10000) = true) : off / 4 ≠ 7 := by
  intro h7
  have hu : off / 0x10000 = 0 := by omega
  rw [hu] at h
  exact absurd h (by simp [wideReg])

/-- Settles O15: a write goes by `rowWrite_drives` or `regWrite_pf0` to the page, whose own lemma says what it stores, and a read by `partRead_bar0`. -/
theorem registerAccesses : Obligations.RegisterAccesses := by
  refine ⟨?_, ?_, ?_, ?_, ?_, ?_, ?_, ?_, ?_, ?_, ?_, ?_⟩
  · intro s m h o v hd ho
    exact rowWrite_head h.isLt hd (rwsOffs_plain ho) (s.headWrite_rws h.val v ho)
  · intro s m h o v hd ho
    exact rowWrite_head h.isLt hd (rwbOffs_plain ho).1 (s.headWrite_rwb h.val v ho)
  · intro s h e v ha hp he
    have hw : headW1c e.1 = some e.2 ∧ e.1 % 4 = 0 ∧ e.1 < 0x10000 := by
      simp only [List.mem_cons, List.not_mem_nil, or_false] at he
      rcases he with rfl | rfl | rfl | rfl | rfl <;> exact ⟨rfl, by decide, by decide⟩
    exact congrArg (fun t : State => Host.Outcome.next t.pump) (regWrite_w1c h.isLt ha hp hw.1 hw.2.1 hw.2.2)
  · intro s m k e v hd he
    obtain ⟨h4, ho, hw⟩ := s.rctWrite_plain v k.isLt he
    have hk := k.isLt
    have hat : kRct k.val + e.1 = 10 * 0x10000 + (0x100 * k.val + e.1) := Nat.add_assoc _ _ _
    refine Eq.trans ?_ (rowWrite_engine (u := 10) (by decide) (by decide) hd (o := 0x100 * k.val + e.1) (by omega) (by omega) hw)
    rw [← hat]; rfl
  · intro s m c e v hd he
    obtain ⟨h4, ho, hw⟩ := s.dwtWrite_plain v c.isLt he
    have hc := c.isLt
    have hat : kDw c.val + e.1 = 9 * 0x10000 + (0x80 * c.val + e.1) := Nat.add_assoc _ _ _
    refine Eq.trans ?_ (rowWrite_engine (u := 9) (by decide) (by decide) hd (o := 0x80 * c.val + e.1) (by omega) (by omega) hw)
    rw [← hat]; rfl
  · intro s t off v u h4 hm hu hd hw
    exact congrArg (fun t : State => Host.Outcome.next t.pump) ((regWrite_pf0_drives h4 hm hu hd).trans (by rw [hw]; rfl))
  · intro s off v u h4 hm hu hd hw
    exact congrArg (fun t : State => Host.Outcome.next t.pump) ((regWrite_pf0_drives h4 hm hu hd).trans (by rw [hw]; rfl))
  · intro s off v u h4 hm hu ha hp hx hb
    exact congrArg (fun t : State => Host.Outcome.next t.pump) ((regWrite_pf0 ha h4 hm hu hp).trans (if_neg (by rw [hb, hx]; decide)))
  · intro s off w v ha hn
    have hw := regWrite_pf0_narrow (v := v) ha hn
    exact ⟨fun hm => congrArg (fun t : State => Host.Outcome.next t.pump) (hw.trans (if_pos hm)),
      fun hm => congrArg (fun t : State => Host.Outcome.next t.pump) (hw.trans (if_neg (by rw [hm]; decide)))⟩
  · intro s m off size u k hm hu hv hl hw
    obtain ⟨ha, hr, hp, hpf⟩ := State.views_parts hv
    have hk : u * 0x10000 + k % 0x10000 = k := by omega
    refine (partRead_bar0 size ha hpf (not_sync_of_wideReg hl)).trans ?_
    rw [State.busRead_views hm hv, State.pageRead_lo hu hr hp hw hl, hk]
    rfl
  · intro s m off size hu hv
    obtain ⟨ha, hr, hp, hpf⟩ := State.views_parts hv
    have hk : 10 * 0x10000 + off.toNat / 4 * 4 % 0x10000 = off.toNat / 4 * 4 := by omega
    refine (partRead_bar0 size ha hpf (by omega)).trans ?_
    rw [State.busRead_views (by rw [hu]; decide) (by rw [hu]; exact hv), hu, State.pageRead_rct _ hr hp, hk]
    rfl
  · intro s m off size ha hpf hm
    have h7 : off.toNat / 4 ≠ 7 := by
      intro h7
      have hu : off.toNat / 0x10000 = 0 := by omega
      rw [hu] at hm
      exact absurd hm (by decide)
    refine (partRead_bar0 size ha hpf h7).trans ?_
    rw [State.busRead_unmapped hm]
    rfl

/-! ## The training of one DIMM -/

/-- What channel 0 shows of the DIMM that was trained alone and is in use (R283). -/
def loneStat (m : Dimm) : Word :=
  flag 31 true ||| flag 30 true ||| flag 29 false ||| flag 26 (m.ranks = 2) ||| flag 25 m.x8 ||| flag 24 false ||| wd (m.gib % 256 * 65536)
    ||| wd (trainRate [m])

/-- The geometry of one channel in use with the whole of its DIMM (R286). -/
def loneGeom (m : Dimm) : Word := wd (2 ^ 24 + m.gib)

/-- The state in which the training of one DIMM in channel 0 leaves the Cellar, before the journal begins. -/
def State.loneTrained (s : State) (m : Dimm) : State :=
  let s := ((s.setReg (kChstat 0) (loneStat m)).setReg (kChtemp 0) 0x100).setReg (kCEL + 0x80) (loneGeom m)
  let s := (s.setReg kHAL (wd (trainRate [m] * 800))).setReg (kHAL + 4) (wd (trainRate [m] * 640))
  { s with chm := { s.chm with calm := Tbl.set (fun _ => 0) s.chm.calm 0 s.now } }

/-- The capacities that R282 supports. -/
theorem gib_of_dimmFits {m : Dimm} (h : dimmFits m = true) : m.gib = 16 ∨ m.gib = 32 ∨ m.gib = 48 ∨ m.gib = 64 := by
  have hc := (Bool.and_eq_true _ _ ▸ h).2
  simp only [List.contains_iff_mem, List.mem_cons, List.not_mem_nil, Prod.mk.injEq, or_false] at hc
  omega

theorem trainRate_cases (ms : List Dimm) : trainRate ms = 64 ∨ trainRate ms = 56 ∨ trainRate ms = 48 := by
  unfold trainRate
  extract_lets r
  split
  · exact .inl rfl
  · split
    · exact .inr (.inl rfl)
    · exact .inr (.inr rfl)

/-- A training in a boot that goes on, with nothing in use yet. -/
def State.trains (s : State) : Prop := s.phase = .boot ∧ s.regB 4 3 = false ∧ s.regB kBootStat bFail = false ∧ s.reg (kCEL + 0x80) = 0

theorem dimmAt_filter_none {d : List (Option Dimm)} (h : ∀ c < 8, dimmAt d c = none) :
    (List.range 8).filter (fun c => (dimmAt d c).isSome) = [] :=
  List.filter_eq_nil_iff.2 fun c hc => by simp [h c (List.mem_range.1 hc)]

theorem dimmAt_filter_lone {d : List (Option Dimm)} {m : Dimm} (h0 : dimmAt d 0 = some m) (h : ∀ c, 0 < c → c < 8 → dimmAt d c = none) :
    (List.range 8).filter (fun c => (dimmAt d c).isSome) = [0] := by
  have hp : ∀ c ∈ List.range 8, (dimmAt d c).isSome = decide (c = 0) := by
    intro c hc
    rcases Nat.eq_zero_or_pos c with rfl | hpos
    · simp [h0]
    · simp [h c hpos (List.mem_range.1 hc), Nat.ne_of_gt hpos]
  rw [List.filter_congr hp]
  decide

theorem State.trained_nothing {s : State} {d : List (Option Dimm)} (ht : s.trains) (h : ∀ c < 8, dimmAt d c = none) : s.trained d = s := by
  obtain ⟨hp, h3, hf, hg⟩ := ht
  unfold State.trained
  simp only [hp, h3, hf, hg, dimmAt_filter_none h]
  rfl

theorem State.trained_lone {s : State} {d : List (Option Dimm)} {m : Dimm} (ht : s.trains) (h0 : dimmAt d 0 = some m) (hfit : dimmFits m = true)
    (hm : m.trains = true) (h : ∀ c, 0 < c → c < 8 → dimmAt d c = none) : s.trained d = (s.loneTrained m).journalStart := by
  obtain ⟨hp, h3, hf, hg⟩ := ht
  unfold State.trained
  rw [if_neg (by simp [hp, h3, hf, hg])]
  extract_lets found fit ms rate cap up n used idle mask s1 s2 s3 calm chm s4
  have hfound : found = [0] := dimmAt_filter_lone h0 h
  have efit : fit = [0] := by simp [fit, hfound, h0, hfit]
  have ems : ms = [m] := by simp [ms, efit, h0]
  have ecap : cap = m.gib := by simp [cap, ems]
  have eup : up = [0] := by simp [up, efit, h0, hm]
  have eused : used = [0] := by simp [used, n, eup, log2Floor]
  have eidle : idle = [] := by simp [idle, eup, eused]
  have es1 : s1 = (s.setReg (kChstat 0) (loneStat m)).setReg (kChtemp 0) 0x100 := by
    simp [s1, hfound, State.each, h0, eup, eused, ecap, rate, ems, loneStat]
  have en : n = 0 := by simp [n, eup, log2Floor]
  have egeom : wd (mask used * 2 ^ 24 + mask idle * 2 ^ 16 + n * 2 ^ 8 + cap) = loneGeom m := by simp [mask, eused, eidle, en, ecap, loneGeom]
  have erate : 2 ^ n * rate = trainRate [m] := by simp [en, rate, ems]
  have es2 : s2 = ((s.setReg (kChstat 0) (loneStat m)).setReg (kChtemp 0) 0x100).setReg (kCEL + 0x80) (loneGeom m) := by rw [← egeom, ← es1]
  have es3 : s3 = (s2.setReg kHAL (wd (trainRate [m] * 800))).setReg (kHAL + 4) (wd (trainRate [m] * 640)) := by rw [← erate]
  have es4 : s4 = s.loneTrained m := by
    simp only [s4, chm, calm, es3, es2, eused]
    rfl
  rw [eused, es4]
  rfl

/-- The Cellar's own registers below its region table, where the journal of the training begins, stay as the training set them (R77, R293). -/
theorem State.journalStart_reg {s : State} {k : Nat} (h1 : kCEL ≤ k) (h2 : k < kCEL + 0x1000) : s.journalStart.reg k = s.reg k := by
  unfold State.journalStart
  split
  · rfl
  · have hreg : ∀ j, k ≠ kReg 63 + j := fun j => by unfold kReg; omega
    have hfoy : ∀ j, j < kFOY + 0x1000 → k ≠ j := fun j hj => by simp only [kCEL, kFOY] at *; omega
    simp only [State.celPut, State.setAddr40]
    rw [State.setReg_reg_ne _ _ (hfoy kJStat (by decide)), State.setReg_reg_ne _ _ (hfoy (kJBase + 4) (by decide)),
      State.setReg_reg_ne _ _ (hfoy kJBase (by decide)), State.setReg_reg_ne _ _ (hreg 0x14), State.setReg_reg_ne _ _ (hreg 0x10),
      State.setReg_reg_ne _ _ (hreg 0xC), State.setReg_reg_ne _ _ (hreg 8), State.setReg_reg_ne _ _ (hreg 4)]
    exact State.setReg_reg_ne _ _ (hreg 0)

/-- The journal begins in the first channel in use. -/
theorem State.journalStart_starts {s : State} {l : List Nat} (h : s.chans = 0 :: l) :
    s.journalStart.regB kJStat 31 = true ∧ s.journalStart.celEn 63 = true := by
  unfold State.journalStart
  rw [h]
  refine ⟨?_, ?_⟩
  · exact (congrArg (fun w => bit w 31) (State.setReg_reg_same _ _ _)).trans (by decide)
  · unfold State.celEn State.celAttr
    refine (congrArg (fun w => bit w 31) ?_).trans (show bit (wd (2 ^ 31 + 2 ^ 26 + 0 * 2 ^ 23 + 3 * 2 ^ 21 + 0x01 * 2 ^ 8)) 31 = true by decide)
    rw [State.setReg_reg_ne _ _ (by decide), State.setAddr40, State.setReg_reg_ne _ _ (by decide), State.setReg_reg_ne _ _ (by decide),
      State.setReg_reg_ne _ _ (by decide), State.celPut, State.setReg_reg_same]

theorem loneStat_fields {m : Dimm} (h : dimmFits m = true) : fld (loneStat m) 30 2 = 3 ∧ fld (loneStat m) 0 16 = trainRate [m] := by
  unfold loneStat
  generalize decide (m.ranks = 2) = r
  generalize m.x8 = x
  rcases gib_of_dimmFits h with hg | hg | hg | hg <;> rcases trainRate_cases [m] with hr | hr | hr <;> rw [hg, hr] <;> decide +revert

theorem loneGeom_chans {m : Dimm} (h : dimmFits m = true) : (List.range 8).filter (fun c => bit (loneGeom m) (24 + c)) = [0] := by
  unfold loneGeom
  rcases gib_of_dimmFits h with hg | hg | hg | hg <;> rw [hg] <;> decide

theorem State.withChm_reg (s : State) (c : Chm) (k : Nat) : State.reg { s with chm := c } k = s.reg k := rfl

theorem State.loneTrained_geom (s : State) (m : Dimm) : (s.loneTrained m).reg (kCEL + 0x80) = loneGeom m := by
  unfold State.loneTrained
  extract_lets s1 s2
  rw [State.withChm_reg, State.setReg_reg_ne _ _ (by decide), State.setReg_reg_ne _ _ (by decide), State.setReg_reg_same]

theorem State.loneTrained_stat (s : State) (m : Dimm) : (s.loneTrained m).reg (kChstat 0) = loneStat m := by
  unfold State.loneTrained
  extract_lets s1 s2
  rw [State.withChm_reg, State.setReg_reg_ne _ _ (by decide), State.setReg_reg_ne _ _ (by decide), State.setReg_reg_ne _ _ (by decide),
    State.setReg_reg_ne _ _ (by decide), State.setReg_reg_same]

theorem State.chans_of_geom {s : State} {m : Dimm} (hfit : dimmFits m = true) (h : s.reg (kCEL + 0x80) = loneGeom m) : s.chans = [0] := by
  unfold State.chans State.regB
  rw [h]
  exact loneGeom_chans hfit

/-- One good DIMM: channel 0 is in use at its rate, and the journal runs in it. -/
theorem State.loneTrained_shows (s : State) {m : Dimm} (hfit : dimmFits m = true) :
    let t := (s.loneTrained m).journalStart
    t.chans = [0] ∧ t.regF (kChstat 0) 30 2 = 3 ∧ t.regF (kChstat 0) 0 16 = trainRate [m] ∧ t.regB kJStat 31 = true ∧ t.celEn 63 = true := by
  intro t
  have hgeom : t.reg (kCEL + 0x80) = loneGeom m := (State.journalStart_reg (by decide) (by decide)).trans (s.loneTrained_geom m)
  have hstat : t.reg (kChstat 0) = loneStat m := (State.journalStart_reg (by decide) (by decide)).trans (s.loneTrained_stat m)
  unfold State.regF
  rw [hstat]
  exact ⟨State.chans_of_geom hfit hgeom, (loneStat_fields hfit).1, (loneStat_fields hfit).2,
    State.journalStart_starts (State.chans_of_geom hfit (s.loneTrained_geom m))⟩

/-! ## Function Level Reset of the rings -/

theorem State.each_mem_keeps {α : Type} {p : State → Prop} {f : State → α → State} {a : α} {l : List α} (s : State) (h : a ∈ l)
    (ha : ∀ t, p (f t a)) (hk : ∀ t b, p t → p (f t b)) : p (s.each l f) := by
  have hkeep : ∀ (l : List α) t, p t → p (t.each l f) := fun l => by
    induction l with
    | nil => exact fun t ht => ht
    | cons b l ih => exact fun t ht => ih _ (hk t b ht)
  induction l generalizing s with
  | nil => simp at h
  | cons b l ih =>
    rcases List.mem_cons.1 h with rfl | h
    · exact hkeep l _ (ha s)
    · exact ih _ h

/-- What a Function Level Reset does to the doorbell page of one ring of its function (R56). -/
def State.flrRing (s : State) (n : Nat) : State :=
  let s := [0x10, 0x14, 0x18, 0x1C, 0x20].foldl (fun s o => s.setReg (kDB n + o) 0) s
  s.setReg (kRingStat n) (s.reg (kRingStat n) &&& 0x3FFFFFFF)

/-- A ring is empty of its sizes and does not run. -/
def State.ringStopped (s : State) (n : Nat) : Prop := s.reg (kRingCfg n) = 0 ∧ s.regB (kRingStat n) 31 = false

theorem State.flrRing_cfg (s : State) (n : Nat) : (s.flrRing n).reg (kRingCfg n) = 0 :=
  (State.setReg_reg_ne _ _ (by unfold kRingCfg kRingStat; omega)).trans (State.setReg_reg_same _ _ _)

theorem State.flrRing_stat (s : State) (n : Nat) : (s.flrRing n).reg (kRingStat n) = s.reg (kRingStat n) &&& 0x3FFFFFFF := by
  simp (disch := omega) only [State.flrRing, kRingStat, List.foldl_cons, List.foldl_nil, State.setReg_reg_same, State.setReg_reg_ne]

/-- The other pages stay as they are. -/
theorem State.flrRing_ne (s : State) {n k : Nat} (h : k < kDB n ∨ kDB n + 0x1000 ≤ k) : (s.flrRing n).reg k = s.reg k := by
  simp (disch := omega) only [State.flrRing, kRingStat, List.foldl_cons, List.foldl_nil, State.setReg_reg_ne]

theorem State.flrRing_stops (s : State) (n : Nat) : (s.flrRing n).ringStopped n := by
  refine ⟨s.flrRing_cfg n, ?_⟩
  unfold State.regB
  rw [State.flrRing_stat]
  simp [bit]

theorem State.flrRing_keeps {s : State} {n : Nat} (m : Nat) (h : s.ringStopped n) : (s.flrRing m).ringStopped n := by
  rcases eq_or_ne m n with rfl | hne
  · exact s.flrRing_stops m
  · unfold State.ringStopped State.regB at h ⊢
    rw [State.flrRing_ne s (by unfold kRingCfg kDB; omega), State.flrRing_ne s (by unfold kRingStat kDB; omega)]
    exact h

/-- A Function Level Reset stops every ring of its function. -/
theorem State.flr_stops {s : State} {fn n : Nat} (ha : s.answers = true) (hn : n < 18) (hf : ringPf1 n = decide (fn = 1)) : (s.flr fn).ringStopped n := by
  have hmine : n ∈ (List.range 18).filter fun n => ringPf1 n == decide (fn = 1) := List.mem_filter.2 ⟨List.mem_range.2 hn, by simp [hf]⟩
  have heach : ∀ t : State, (t.each ((List.range 18).filter fun n => ringPf1 n == decide (fn = 1)) State.flrRing).ringStopped n := fun t =>
    State.each_mem_keeps (p := fun t => t.ringStopped n) t hmine (fun t => t.flrRing_stops n) fun _ m h => State.flrRing_keeps m h
  unfold State.flr
  rw [if_neg (by simp [ha])]
  split
  · exact heach _
  · exact heach _

/-! ## Cold boot, READY and the warm reset -/

theorem State.coldBoot_pulse {s : State} {b : BootIn} {n : Nat} (hp : s.phase ≠ .off) (ht : b.test = false) (hl : s.pwrLow = some n) :
    s.coldBoot b = if n + b.low < 1000 then { s with pwrLow := none } else s.bootUp b := by
  unfold State.coldBoot
  rw [ht, if_neg (by decide), if_neg hp, hl]

theorem State.readySet_runs {s : State} (hp : s.phase = .boot) (hb : s.booted = true) (hj : s.regB kJStat 31 = true) :
    let t := State.setB { s with phase := .run } 4 0 true
    let u := t.each (List.range 18) fun s n =>
      (s.setReg (kSqSeq n) (lo32 (s.w64 (kAccepted n) + 1))).setReg (kSqSeq n + 4) (hi32 (s.w64 (kAccepted n) + 1))
    s.readySet = u.each ((List.range 32).filter fun h => (u.head h).enabled) State.portsHeadOn := by
  unfold State.readySet
  rw [if_pos (by simp [hp, hb, hj])]

theorem State.trained_failed {s : State} (d : List (Option Dimm)) (h : s.regB kBootStat bFail = true) : s.trained d = s := by
  unfold State.trained
  rw [if_pos (by simp [h])]

/-- Settles O48: each row is the operation that its clause names, on the path that its hypotheses say. -/
theorem startRows : Obligations.StartRows := by
  refine ⟨?_, ?_, ?_, ?_, ?_, ?_, ?_, ?_, ?_, ?_, ?_, ?_, ?_, ?_⟩
  · intro s b hp ht
    refine ⟨congrArg Host.Outcome.next ?_, rfl, rfl, rfl, rfl⟩
    rw [State.coldBoot, ht, if_neg (by decide), if_pos hp, State.bootUp]
  · intro s b ht
    exact congrArg Host.Outcome.next (if_pos ht)
  · intro s b hp ht hl
    refine congrArg Host.Outcome.next ?_
    rw [State.coldBoot, ht, if_neg (by decide), if_neg hp, hl]
  · intro s b n hp ht hl hn
    exact congrArg Host.Outcome.next ((State.coldBoot_pulse hp ht hl).trans (if_pos hn))
  · intro s b n hp ht hl hn
    exact congrArg Host.Outcome.next ((State.coldBoot_pulse hp ht hl).trans (if_neg (Nat.not_lt.2 hn)))
  · intro s d hp h3 hf hg hd
    exact congrArg Host.Outcome.next (State.trained_nothing ⟨hp, h3, hf, hg⟩ hd)
  · intro s d hf
    exact congrArg Host.Outcome.next (State.trained_failed d hf)
  · intro s d m hp h3 hf hg h0 hfit hm hd
    exact ⟨_, congrArg Host.Outcome.next (State.trained_lone ⟨hp, h3, hf, hg⟩ h0 hfit hm hd), s.loneTrained_shows hfit⟩
  · intro s hp hb hj t u
    exact congrArg (fun x : State => Host.Outcome.next x.pump) (State.readySet_runs hp hb hj)
  · intro s b hp
    refine congrArg Host.Outcome.next ?_
    rcases hp with hp | hp <;> rw [State.warmAssert, hp]
  · intro s b hp
    refine congrArg Host.Outcome.next ?_
    rw [State.warmAssert, hp]
  · intro s hp hl
    refine congrArg Host.Outcome.next ?_
    rw [State.pwrFall, if_neg hp, hl]
    rfl
  · intro s hp
    exact congrArg Host.Outcome.next (if_pos hp)
  · intro s fn ha
    exact ⟨s.flr fn.val, rfl, fun n hn hf => State.flr_stops ha hn hf⟩

/-! ## A device write to the Pantry -/

/-- The registers that decide a device access to the Pantry: its injector and its region descriptors (R297 to R299, R306). -/
def panKey (k : Nat) : Prop := k = kPAN + 0x100 ∨ (kPAN + 0x1000 ≤ k ∧ k < kPAN + 0x9000)

theorem not_panKey_of_lt {k : Nat} (h : k < kPAN + 0x100) : ¬ panKey k := by
  unfold panKey; omega

theorem not_panKey_of_ge {k : Nat} (h : kPAN + 0x9000 ≤ k) : ¬ panKey k := by
  unfold panKey; omega

theorem not_panKey_of_log {k : Nat} (h : kPAN + 0x100 < k) (h' : k < kPAN + 0x1000) : ¬ panKey k := by
  unfold panKey; omega

/-- From `s` to `t` no byte of memory has changed, no codeword has become uncorrectable, and the Pantry's injector and descriptors are the same. -/
structure PanKeep (s t : State) : Prop where
  mem : t.mem = s.mem
  codes : ∀ c, s.code c ≠ .uncorr → t.code c ≠ .uncorr
  regs : ∀ k, panKey k → t.reg k = s.reg k

namespace PanKeep

theorem refl (s : State) : PanKeep s s := ⟨rfl, fun _ h => h, fun _ _ => rfl⟩

theorem trans {s t u : State} (a : PanKeep s t) (b : PanKeep t u) : PanKeep s u :=
  ⟨b.mem.trans a.mem, fun c h => b.codes c (a.codes c h), fun k h => (b.regs k h).trans (a.regs k h)⟩

theorem each {α : Type} {s0 s : State} {f : State → α → State} (h : PanKeep s0 s) (l : List α)
    (hf : ∀ t a, PanKeep s0 t → PanKeep s0 (f t a)) : PanKeep s0 (s.each l f) := by
  unfold State.each
  induction l generalizing s with
  | nil => exact h
  | cons a l ih => exact ih (hf s a h)

theorem ite {c : Prop} [Decidable c] {s0 a b : State} (ha : PanKeep s0 a) (hb : PanKeep s0 b) : PanKeep s0 (if c then a else b) := by
  split
  · exact ha
  · exact hb

variable {s0 s : State} (h : PanKeep s0 s)
include h

theorem byte (x : Nat) : s.byte x = s0.byte x := congrArg (fun m => Tbl.get (fun _ => 0) m x) h.mem

theorem setReg {k : Nat} (v : Word) (hk : ¬ panKey k) : PanKeep s0 (s.setReg k v) :=
  ⟨h.mem, h.codes, fun j hj => (s.setReg_reg_ne v (by rintro rfl; exact hk hj)).trans (h.regs j hj)⟩

theorem setF {k : Nat} (lo len v : Nat) (hk : ¬ panKey k) : PanKeep s0 (s.setF k lo len v) := h.setReg _ hk

theorem setB {k : Nat} (i : Nat) (b : Bool) (hk : ¬ panKey k) : PanKeep s0 (s.setB k i b) := h.setReg _ hk

theorem incReg {k : Nat} (hk : ¬ panKey k) : PanKeep s0 (s.incReg k) := h.setReg _ hk

theorem setW64 (k : Nat) (v : DWord) : PanKeep s0 (s.setW64 k v) := ⟨h.mem, h.codes, h.regs⟩

theorem setGood (c : Nat) : PanKeep s0 (s.setCode c .good) := by
  refine ⟨h.mem, fun x hx => ?_, h.regs⟩
  unfold State.code State.setCode
  rw [Tbl.get_set]
  split
  · nofun
  · exact h.codes x hx

theorem msix (fn : Nat) {v : Nat} (hv : v < 64) : PanKeep s0 (s.msix fn v) := by
  have hk : ¬ panKey (msixPba fn + 4 * (v / 32)) := by
    unfold msixPba
    split
    · exact not_panKey_of_lt (by simp only [kPAN]; omega)
    · exact not_panKey_of_ge (by simp only [kPAN, kPF1, kDB]; omega)
  unfold State.msix
  exact ite h (ite (h.setReg _ hk) ⟨h.mem, h.codes, h.regs⟩)

theorem deliver (i : Nat) : PanKeep s0 (s.deliver i) := by
  have hg : s.planGrp i < 64 := Nat.mod_lt _ (by decide)
  unfold State.deliver
  exact ite (h.msix 0 hg) (ite (h.msix 1 (by omega)) h)

theorem pulse (i : Nat) : PanKeep s0 (s.pulse i) := by
  have hsrc : PanKeep s0 (s.setSrc i { s.src i with pend := true }) := ⟨h.mem, h.codes, h.regs⟩
  have hd := hsrc.deliver i
  unfold State.pulse State.notify
  exact ite h (ite ⟨hd.mem, hd.codes, hd.regs⟩ hsrc)

theorem errWrite (r : ErrRec) : PanKeep s0 (s.errWrite r) := by
  unfold State.errWrite
  extract_lets q ovw r ring s1 s2 s3 n s4 s5 s6
  have hsev : ¬ panKey kErrSev := not_panKey_of_lt (by decide)
  have hovw : ¬ panKey kErrOvw := not_panKey_of_lt (by decide)
  have h1 : PanKeep s0 s1 := ⟨h.mem, h.codes, h.regs⟩
  have h5 : PanKeep s0 s5 := (((h1.setW64 _ _).setW64 _ _).setF _ _ _ hsev).pulse 19
  have h6 : PanKeep s0 s6 := ite ((h5.setB 2 true (not_panKey_of_lt (by decide))).pulse 21) h5
  exact ite ((h6.incReg hovw).pulse 20) h6

theorem errRec (sev unit event detail : Nat) (status : Status) (arg0 arg1 : Word) :
    PanKeep s0 (s.errRec sev unit event detail status arg0 arg1) := by
  have hdrop : PanKeep s0 (s.incReg kErrDrop) := h.incReg (not_panKey_of_lt (by decide))
  unfold State.errRec
  exact ite (ite ⟨hdrop.mem, hdrop.codes, hdrop.regs⟩ ⟨h.mem, h.codes, h.regs⟩) (h.errWrite _)

end PanKeep

/-- The oldest entry of a log of 32 is one of them. -/
theorem oldest_lt (p : Nat → Nat → Prop) [∀ b i, Decidable (p b i)] : (List.range 32).foldl (fun b i => if p b i then i else b) 0 < 32 := by
  refine List.foldlRecOn (motive := fun b => b < 32) _ _ (by decide) fun b hb i hi => ?_
  split
  · exact List.mem_range.1 hi
  · exact hb

/-- An entry of the Pantry's own error log (R303, R308). -/
theorem PanKeep.panLog {s0 s : State} (h : PanKeep s0 s) (srcKind cls pos lineLo lineHi unit : Nat) :
    PanKeep s0 (s.corrLog (kPAN + 0x400) (some (kPAN + 0x3F0)) srcKind cls pos lineLo lineHi unit (some 48)) := by
  have hlog : ∀ i j, i < 32 → j < 0x20 → ¬ panKey (kPAN + 0x400 + 0x20 * i + j) := fun i j hi hj =>
    not_panKey_of_log (by omega) (by omega)
  have hrepl : ¬ panKey (kPAN + 0x3F0) := not_panKey_of_log (by decide) (by decide)
  unfold State.corrLog
  extract_lets e hit pulse record fresh oldest s1
  have hrec : ∀ {t : State} (n : Nat), PanKeep s0 t → PanKeep s0 (record t n) := fun n ht => ht.errRec _ _ _ _ _ _ _
  have hfresh : ∀ {t : State} {i : Nat}, PanKeep s0 t → i < 32 → PanKeep s0 (fresh t i) := by
    intro t i ht hi
    have h1 := ((ht.setReg (wd lineLo) (hlog i 0 hi (by decide))).setReg (wd lineHi) (hlog i 4 hi (by decide))).setReg
      (wd (2 ^ 31 + srcKind * 2 ^ 28 + cls * 2 ^ 26 + pos % 256 * 2 ^ 16 + 1)) (hlog i 8 hi (by decide))
    exact (hrec 1 ((h1.setW64 _ _).setReg _ (hlog i 0x14 hi (by decide)))).pulse 48
  split
  · rename_i i hi
    have hi := List.mem_range.1 (List.mem_of_find?_eq_some hi)
    extract_lets n t u
    have ht : PanKeep s0 t := (h.setF _ _ _ (hlog i 8 hi (by decide))).setReg _ (hlog i 0x14 hi (by decide))
    have hu : PanKeep s0 u := PanKeep.ite (hrec _ ht) ht
    exact hu.pulse 48
  · split
    · rename_i i hi
      exact hfresh h (List.mem_range.1 (List.mem_of_find?_eq_some hi))
    · exact (hfresh (h.setF _ _ _ hrepl) (oldest_lt _)).pulse 52

theorem PanKeep.corrected {s0 s : State} (h : PanKeep s0 s) (r a pos : Nat) : PanKeep s0 (s.corrected (.pantry r) a pos) :=
  PanKeep.panLog (s := s.countCe 8) ⟨h.mem, h.codes, h.regs⟩ _ _ _ _ _ _


theorem bit_putBit_ne (w : Word) {i j : Nat} (b : Bool) (h : j ≠ i) : bit (putBit w i b) j = bit w j := by
  have e : ((2 ^ 1 - 1) * 2 ^ i).testBit j = false := by simp [Ne.symm h]
  have e' : ((if b then 1 else 0) % 2 ^ 1 * 2 ^ i).testBit j = false := by cases b <;> simp [Ne.symm h]
  by_cases hj : j < 32
  · simp only [bit, putBit, putFld, fmask, BitVec.getLsbD_or, BitVec.getLsbD_and, BitVec.getLsbD_not, BitVec.getLsbD_ofNat, e, e', hj, decide_true,
      Bool.and_false, Bool.not_false, Bool.and_true, Bool.or_false]
  · have hge := Nat.le_of_not_lt hj
    rw [bit, bit, BitVec.getLsbD_of_ge _ _ hge, BitVec.getLsbD_of_ge _ _ hge]

/-! ### The codewords and the lines of a range -/

theorem mem_codewords {g a n c : Nat} : c ∈ codewords g a n ↔ 0 < n ∧ ∃ j, a / g ≤ j ∧ j ≤ (a + n - 1) / g ∧ c = j * g := by
  unfold codewords
  rcases Nat.eq_zero_or_pos n with rfl | hn
  · simp
  · rw [if_neg (Nat.ne_of_gt hn)]
    have hle : a / g ≤ (a + n - 1) / g := Nat.div_le_div_right (by omega)
    simp only [List.mem_map, List.mem_range, hn, true_and]
    constructor
    · rintro ⟨i, hi, rfl⟩
      exact ⟨a / g + i, by omega, by omega, rfl⟩
    · rintro ⟨j, h1, h2, rfl⟩
      exact ⟨j - a / g, by omega, by rw [Nat.add_sub_cancel' h1]⟩

theorem codewords_mono {g a n a' n' c : Nat} (ha : a ≤ a') (he : a' + n' ≤ a + n) (h : c ∈ codewords g a' n') : c ∈ codewords g a n := by
  obtain ⟨hn, j, h1, h2, rfl⟩ := mem_codewords.1 h
  have hd1 : a / g ≤ a' / g := Nat.div_le_div_right ha
  have hd2 : (a' + n' - 1) / g ≤ (a + n - 1) / g := Nat.div_le_div_right (by omega)
  exact mem_codewords.2 ⟨by omega, j, by omega, by omega, rfl⟩

theorem linePieces_within {a n : Nat} {q : Nat × Nat} (h : q ∈ linePieces a n) : a ≤ q.1 ∧ q.1 + q.2 ≤ a + n := by
  obtain ⟨l, hl, rfl⟩ := List.mem_map.1 h
  obtain ⟨hn, j, h1, h2, rfl⟩ := mem_codewords.1 hl
  dsimp only
  omega

theorem linePieces_cover {a n x : Nat} (h : a ≤ x) (h' : x < a + n) : ∃ q ∈ linePieces a n, q.1 ≤ x ∧ x < q.1 + q.2 := by
  have hl : x / 64 * 64 ∈ codewords 64 a n := mem_codewords.2 ⟨by omega, x / 64, by omega, by omega, rfl⟩
  refine ⟨_, List.mem_map_of_mem hl, ?_⟩
  dsimp only
  omega

/-! ### Bytes stored one after another -/

theorem State.setBytes_reg (s : State) (a k : Nat) (l : List Byte) : (s.setBytes a l).reg k = s.reg k := by
  induction l generalizing s a with
  | nil => rfl
  | cons b l ih => exact ih _ _

theorem State.setBytes_code (s : State) (a c : Nat) (l : List Byte) : (s.setBytes a l).code c = s.code c := by
  induction l generalizing s a with
  | nil => rfl
  | cons b l ih => exact ih _ _

theorem State.setBytes_byte (s : State) (a x : Nat) (l : List Byte) :
    (s.setBytes a l).byte x = if a ≤ x ∧ x < a + l.length then l.getD (x - a) 0 else s.byte x := by
  induction l generalizing s a with
  | nil => rw [if_neg (by simp)]; rfl
  | cons b l ih =>
    rw [State.setBytes, ih, List.length_cons]
    rcases Nat.lt_trichotomy x a with hx | rfl | hx
    · rw [if_neg (by omega), if_neg (by omega), State.setByte_byte_ne _ _ (Nat.ne_of_lt hx)]
    · rw [if_neg (by omega), if_pos (by omega), State.setByte_byte_same, Nat.sub_self, List.getD_cons_zero]
    · have hs : x - a = x - (a + 1) + 1 := by omega
      rw [State.setByte_byte_ne _ _ (Nat.ne_of_gt hx), hs, List.getD_cons_succ]
      exact if_congr (by omega) rfl rfl

theorem PanKeep.setBytes {s t : State} (h : PanKeep s t) (a : Nat) (l : List Byte) : PanKeep (s.setBytes a l) (t.setBytes a l) := by
  induction l generalizing s t a with
  | nil => exact h
  | cons b l ih =>
    have hb : PanKeep (s.setByte a b) (t.setByte a b) := ⟨congrArg (fun m => Tbl.set (fun _ => 0) m a b) h.mem, h.codes, h.regs⟩
    exact ih hb (a + 1)

/-- The pieces of a byte list stored one after another. -/
def State.setPieces (s : State) (a : Nat) (bs : List Byte) (l : List (Nat × Nat)) : State := s.each l fun s q => s.setBytes q.1 (pieceBytes a bs q)

theorem State.setPieces_cons (s : State) (a : Nat) (bs : List Byte) (q : Nat × Nat) (l : List (Nat × Nat)) :
    s.setPieces a bs (q :: l) = (s.setBytes q.1 (pieceBytes a bs q)).setPieces a bs l := rfl

theorem State.setPieces_reg (s : State) (a k : Nat) (bs : List Byte) (l : List (Nat × Nat)) : (s.setPieces a bs l).reg k = s.reg k := by
  induction l generalizing s with
  | nil => rfl
  | cons q l ih => exact (ih _).trans (s.setBytes_reg _ _ _)

theorem State.setPieces_code (s : State) (a c : Nat) (bs : List Byte) (l : List (Nat × Nat)) : (s.setPieces a bs l).code c = s.code c := by
  induction l generalizing s with
  | nil => rfl
  | cons q l ih => exact (ih _).trans (s.setBytes_code _ _ _)

theorem PanKeep.setPieces {s t : State} (h : PanKeep s t) (a : Nat) (bs : List Byte) (l : List (Nat × Nat)) :
    PanKeep (s.setPieces a bs l) (t.setPieces a bs l) := by
  induction l generalizing s t with
  | nil => exact h
  | cons q l ih => exact ih (h.setBytes _ _)

theorem pieceBytes_length {a : Nat} {bs : List Byte} {q : Nat × Nat} (h : a ≤ q.1 ∧ q.1 + q.2 ≤ a + bs.length) : (pieceBytes a bs q).length = q.2 := by
  unfold pieceBytes
  rw [List.length_take, List.length_drop]
  omega

theorem pieceBytes_getD {a x : Nat} {bs : List Byte} {q : Nat × Nat} (h : a ≤ q.1) (hx : q.1 ≤ x) (hx' : x < q.1 + q.2) :
    (pieceBytes a bs q).getD (x - q.1) 0 = bs.getD (x - a) 0 := by
  unfold pieceBytes
  have hi : q.1 - a + (x - q.1) = x - a := by omega
  rw [List.getD_eq_getElem?_getD, List.getElem?_take_of_lt (by omega), List.getElem?_drop, hi, List.getD_eq_getElem?_getD]

theorem State.setPieces_byte_outside {a x : Nat} {bs : List Byte} {l : List (Nat × Nat)} (s : State)
    (hl : ∀ q ∈ l, a ≤ q.1 ∧ q.1 + q.2 ≤ a + bs.length) (hx : ∀ q ∈ l, ¬ (q.1 ≤ x ∧ x < q.1 + q.2)) : (s.setPieces a bs l).byte x = s.byte x := by
  induction l generalizing s with
  | nil => rfl
  | cons q l ih =>
    have hq := hl q List.mem_cons_self
    rw [State.setPieces_cons, ih _ (fun p hp => hl p (List.mem_cons_of_mem _ hp)) fun p hp => hx p (List.mem_cons_of_mem _ hp),
      State.setBytes_byte, pieceBytes_length hq, if_neg (hx q List.mem_cons_self)]

theorem State.setPieces_byte_inside {a x : Nat} {bs : List Byte} {l : List (Nat × Nat)} (s : State)
    (hl : ∀ q ∈ l, a ≤ q.1 ∧ q.1 + q.2 ≤ a + bs.length) (hx : ∃ q ∈ l, q.1 ≤ x ∧ x < q.1 + q.2) :
    (s.setPieces a bs l).byte x = bs.getD (x - a) 0 := by
  induction l generalizing s with
  | nil => simp at hx
  | cons q l ih =>
    have hl' : ∀ p ∈ l, a ≤ p.1 ∧ p.1 + p.2 ≤ a + bs.length := fun p hp => hl p (List.mem_cons_of_mem _ hp)
    have hq := hl q List.mem_cons_self
    rw [State.setPieces_cons]
    by_cases h : ∃ p ∈ l, p.1 ≤ x ∧ x < p.1 + p.2
    · exact ih _ hl' h
    · have hin : q.1 ≤ x ∧ x < q.1 + q.2 := by
        obtain ⟨p, hp, hpx⟩ := hx
        rcases List.mem_cons.1 hp with rfl | hp
        · exact hpx
        · exact absurd ⟨p, hp, hpx⟩ h
      rw [State.setPieces_byte_outside _ hl' fun p hp hpx => h ⟨p, hp, hpx⟩, State.setBytes_byte, pieceBytes_length hq, if_pos hin,
        pieceBytes_getD hq.1 hin.1 hin.2]

/-! ### Lines written -/

theorem PanKeep.rmwFix {s0 s : State} (h : PanKeep s0 s) (r a n : Nat) : PanKeep s0 (s.rmwFix (.pantry r) a n) := by
  unfold State.rmwFix
  refine h.each _ fun t c ht => ?_
  split
  · exact (ht.corrected r c _).setGood c
  · exact ht

/-- With no injection armed, a store leaves its bytes, under good code. -/
theorem State.storeLine_keep_pantry {s : State} (r a main : Nat) (bs : List Byte) (twin : Bool) (hq : s.regB (kPAN + 0x100) 31 = false) :
    PanKeep (s.setBytes a bs) (s.storeLine (.pantry r) a main bs twin) := by
  unfold State.storeLine
  extract_lets s1 s2 line
  have h2 : PanKeep s1 s2 := (PanKeep.refl s1).each _ fun _ c ht => ht.setGood c
  have hq2 : s2.regB (kPAN + 0x100) 31 = false := by
    unfold State.regB
    rw [h2.regs _ (.inl rfl)]
    exact (congrArg (fun w => bit w 31) (s.setBytes_reg a _ bs)).trans hq
  simp only [hq2, Bool.false_and, Bool.false_eq_true, if_false]
  exact h2

theorem State.rmwReads_sub {s : State} {r a n c : Nat} (h : c ∈ s.rmwReads (.pantry r) a n) : c ∈ codewords 16 a n := by
  unfold State.rmwReads at h
  extract_lets g part at h
  split at h
  · exact absurd h List.not_mem_nil
  · have hg : g = 16 := rfl
    rw [if_neg (by rw [hg]; decide)] at h
    exact (List.mem_filter.1 h).1

theorem State.writeLine_pantry {s : State} {a : Nat} {bs : List Byte} (r : Nat) (hc : ∀ c ∈ codewords 16 a bs.length, s.code c ≠ .uncorr)
    (hq : s.regB (kPAN + 0x100) 31 = false) :
    (s.writeLine (.pantry r) a bs).1 = none ∧ PanKeep (s.setBytes a bs) (s.writeLine (.pantry r) a bs).2 := by
  have hbad : s.rmwBad (.pantry r) a bs.length = none := by
    refine List.find?_eq_none.2 fun c h => ?_
    simpa using hc c (State.rmwReads_sub h)
  have hfix := (PanKeep.refl s).rmwFix r a bs.length
  have hq' : (s.rmwFix (.pantry r) a bs.length).regB (kPAN + 0x100) 31 = false := by
    rw [State.regB, hfix.regs _ (.inl rfl)]; exact hq
  have e : s.writeLine (.pantry r) a bs = (none, (s.rmwFix (.pantry r) a bs.length).storeLine (.pantry r) a a bs false) := by
    simp [State.writeLine, State.writeTwo, State.writeCopy, hbad]
  rw [e]
  exact ⟨rfl, (hfix.setBytes a bs).trans (State.storeLine_keep_pantry r a a bs false hq')⟩

/-- Lines with no uncorrectable codeword are all written (R304). -/
theorem State.writePieces_pantry {a : Nat} {bs : List Byte} (r : Nat) (l : List (Nat × Nat)) {s : State}
    (hl : ∀ q ∈ l, a ≤ q.1 ∧ q.1 + q.2 ≤ a + bs.length) (hc : ∀ c ∈ codewords 16 a bs.length, s.code c ≠ .uncorr)
    (hq : s.regB (kPAN + 0x100) 31 = false) :
    (State.writePieces (.pantry r) a bs s l).1 = .ok ∧ PanKeep (s.setPieces a bs l) (State.writePieces (.pantry r) a bs s l).2 := by
  induction l generalizing s with
  | nil => exact ⟨rfl, PanKeep.refl s⟩
  | cons q l ih =>
    have hw := hl q List.mem_cons_self
    have hlen := pieceBytes_length hw
    obtain ⟨hnone, hkeep⟩ := State.writeLine_pantry (s := s) (a := q.1) (bs := pieceBytes a bs q) r
      (fun c h => hc c (codewords_mono hw.1 (by rw [hlen]; exact hw.2) h)) hq
    obtain ⟨hok, hrest⟩ := ih (s := (s.writeLine (.pantry r) q.1 (pieceBytes a bs q)).2) (fun p hp => hl p (List.mem_cons_of_mem _ hp))
      (fun c h => hkeep.codes c (by rw [State.setBytes_code]; exact hc c h))
      (by rw [State.regB, hkeep.regs _ (.inl rfl), State.setBytes_reg]; exact hq)
    have e : State.writePieces (.pantry r) a bs s (q :: l) =
        State.writePieces (.pantry r) a bs (s.writeLine (.pantry r) q.1 (pieceBytes a bs q)).2 l := by
      rw [State.writePieces]; simp only [hnone]
    rw [e]
    exact ⟨hok, (hkeep.setPieces a bs l).trans hrest⟩

/-! ### Where an access lies, and what a read of it gives -/

theorem State.place_pantry_ge {s : State} {a n r : Nat} (h : s.place a n = .pantry r) : aPantry ≤ a := by
  by_contra hlt
  rw [State.place, if_pos (Nat.lt_of_not_le hlt)] at h
  split at h <;> cases h

/-- ALTERED decides no access, so an access lies where it lay before (R299). -/
theorem State.place_altered {s t : State} {a r : Nat} (n : Nat) (ha : aPantry ≤ a) (h : ∀ k, panKey k → t.reg k = s.reg k) :
    (t.markAltered (.pantry r)).place a n = s.place a n := by
  have hk : ∀ i j, i < 256 → j < 0x80 → panKey (kPR i + j) := fun i j hi hj => .inr (by unfold kPR; omega)
  have hreg : ∀ i < 256, ∀ j < 0x80, j ≠ 8 → (t.markAltered (.pantry r)).reg (kPR i + j) = s.reg (kPR i + j) := fun i hi j hj hne =>
    (t.setReg_reg_ne _ (by unfold kPR; omega)).trans (h _ (hk i j hi hj))
  have hbit : ∀ i < 256, ∀ j, j ≠ 28 → (t.markAltered (.pantry r)).regB (kPR i + 8) j = s.regB (kPR i + 8) j := by
    intro i hi j hj
    unfold State.regB
    rw [← h _ (hk i 8 hi (by decide))]
    rcases eq_or_ne i r with rfl | hne
    · exact (congrArg (fun w => bit w j) (State.setReg_reg_same _ _ _)).trans (bit_putBit_ne _ _ hj)
    · exact congrArg (fun w => bit w j) (t.setReg_reg_ne _ (by unfold kPR; omega))
  have hfind : (t.markAltered (.pantry r)).panFind a n = s.panFind a n := by
    refine List.find?_congr fun i hi => ?_
    have hi := List.mem_range.1 hi
    unfold State.panValid State.panEn State.panFailed State.panBase State.panSize State.regF
    rw [hbit i hi 31 (by decide), hbit i hi 26 (by decide), hreg i hi 4 (by decide) (by decide), show kPR i = kPR i + 0 from rfl,
      hreg i hi 0 (by decide) (by decide)]
  unfold State.place
  rw [if_neg (Nat.not_lt.2 ha), if_neg (Nat.not_lt.2 ha), hfind]
  split
  · rename_i i hi
    unfold State.panLarder
    rw [hbit i (List.mem_range.1 (List.mem_of_find?_eq_some hi)) 25 (by decide)]
  · rfl

theorem State.devRead_pantry {s : State} {a n r : Nat} (unit detail : Nat) (hp : s.place a n = .pantry r)
    (hc : ∀ c ∈ codewords 16 a n, s.code c ≠ .uncorr) : (s.devRead unit detail a n).1 = .ok (s.bytes a n) := by
  have hfind : (codewords 16 a n).find? (fun c => decide (s.code c = .uncorr)) = none := by
    refine List.find?_eq_none.2 fun c h => ?_
    simpa using hc c h
  unfold State.devRead
  simp only [hp, State.celUse, State.grain, hfind, Bool.not_true, Bool.false_eq_true, if_false]

/-- A write that its region allows and that no line stops is taken whole. -/
theorem State.devWrite_ok {s t : State} {a r : Nat} {bs : List Byte} (unit detail : Nat) (hp : s.place a bs.length = .pantry r)
    (hm : s.mayWrite (.pantry r) = true) (hw : State.writePieces (.pantry r) a bs s (linePieces a bs.length) = (.ok, t)) :
    s.devWrite unit detail a bs = (.ok, t.markAltered (.pantry r)) := by
  unfold State.devWrite
  simp only [hp, hm, State.celSend, State.celUse, hw, Bool.not_true, Bool.false_eq_true, if_false]

theorem State.bytes_eq_of_getD {s : State} {a : Nat} {bs : List Byte} (h : ∀ i < bs.length, s.byte (a + i) = bs.getD i 0) : s.bytes a bs.length = bs := by
  refine List.ext_getElem (by simp [State.bytes]) fun i h1 h2 => ?_
  simp [State.bytes, h i h2, h2]

/-- Settles O59: the write stores its pieces line by line, which cover the range; what else it does to the state is `PanKeep`, and leaves the place and the codewords readable. -/
theorem storeReadsBack : Obligations.StoreReadsBack := by
  intro s unit detail a r bs _ hp hm hq hcodes w
  have hc : ∀ c ∈ codewords 16 a bs.length, s.code c ≠ .uncorr := fun c h => by simpa using List.all_eq_true.1 hcodes c h
  have hin : ∀ q ∈ linePieces a bs.length, a ≤ q.1 ∧ q.1 + q.2 ≤ a + bs.length := fun q h => linePieces_within h
  obtain ⟨hok, hkeep⟩ := State.writePieces_pantry (s := s) r (linePieces a bs.length) hin hc hq
  generalize hP : State.writePieces (.pantry r) a bs s (linePieces a bs.length) = P at hok hkeep
  obtain ⟨x, t⟩ := P
  obtain rfl : x = .ok := hok
  have hw : w = (.ok, t.markAltered (.pantry r)) := State.devWrite_ok unit detail hp hm hP
  have hbyte : ∀ x, w.2.byte x = (s.setPieces a bs (linePieces a bs.length)).byte x := fun x => by rw [hw]; exact hkeep.byte x
  have hbytes : w.2.bytes a bs.length = bs := State.bytes_eq_of_getD fun i hi => by
    rw [hbyte, State.setPieces_byte_inside s hin (linePieces_cover (by omega) (by omega)), Nat.add_sub_cancel_left]
  have hregs : ∀ k, panKey k → t.reg k = s.reg k := fun k hk => (hkeep.regs k hk).trans (s.setPieces_reg _ _ _ _)
  have hplace : w.2.place a bs.length = .pantry r := by
    rw [hw]; exact (State.place_altered _ (State.place_pantry_ge hp) hregs).trans hp
  have hcodes' : ∀ c ∈ codewords 16 a bs.length, w.2.code c ≠ .uncorr := fun c h => by
    rw [hw]; exact hkeep.codes c (by rw [State.setPieces_code]; exact hc c h)
  refine ⟨by rw [hw], hbytes, fun x hx => ?_, fun unit' detail' => ?_⟩
  · refine (hbyte x).trans (State.setPieces_byte_outside s hin fun q hq => ?_)
    have := hin q hq
    omega
  · rw [State.devRead_pantry unit' detail' hplace hcodes', hbytes]

end Sys2Proof.Machine

namespace Sys2Proof.Machine

/-! ## Bits of a replaced field -/

theorem bit_putFld (w : Word) (lo len v j : Nat) :
    bit (putFld w lo len v) j = (decide (j < 32) && if lo ≤ j ∧ j < lo + len then v.testBit (j - lo) else bit w j) := by
  simp only [bit, putFld, fmask, BitVec.getLsbD_or, BitVec.getLsbD_and, BitVec.getLsbD_not, BitVec.getLsbD_ofNat, Nat.testBit_mul_two_pow,
    Nat.testBit_two_pow_sub_one, Nat.testBit_mod_two_pow]
  by_cases h32 : j < 32
  · by_cases hin : lo ≤ j ∧ j < lo + len
    · have hj : j - lo < len := by omega
      simp [h32, hin, hj]
    · rcases not_and_or.1 hin with hlo | hhi
      · simp [h32, hlo]
      · have hj : ¬ j - lo < len := by omega
        simp [h32, hin, hj]
  · simp [h32, BitVec.getLsbD_of_ge _ _ (Nat.le_of_not_lt h32)]

theorem bit_putBit_same (w : Word) {i : Nat} (b : Bool) (h : i < 32) : bit (putBit w i b) i = b := by
  rw [putBit, bit_putFld]
  cases b <;> simp [h]

theorem testBit_fld (w : Word) (lo len j : Nat) : (fld w lo len).testBit j = (decide (j < len) && bit w (lo + j)) := by
  rw [fld, Nat.testBit_mod_two_pow, Nat.testBit_div_two_pow, Nat.add_comm j lo]
  rfl

theorem fld_putBit_ne (w : Word) {i lo len : Nat} (b : Bool) (h : i < lo ∨ lo + len ≤ i) : fld (putBit w i b) lo len = fld w lo len := by
  refine Nat.eq_of_testBit_eq fun j => ?_
  rw [testBit_fld, testBit_fld]
  by_cases hj : j < len
  · rw [bit_putBit_ne w b (by omega)]
  · simp [hj]

theorem fld_putFld_same (w : Word) {lo len : Nat} (v : Nat) (h : lo + len ≤ 32) : fld (putFld w lo len v) lo len = v % 2 ^ len := by
  refine Nat.eq_of_testBit_eq fun j => ?_
  rw [testBit_fld, bit_putFld, Nat.testBit_mod_two_pow]
  by_cases hj : j < len
  · have hin : lo + j < 32 := by omega
    simp [hj, hin]
  · simp [hj]

/-- The top bit of a word set. -/
theorem putBit_top (w : Word) : putBit w 31 true = w ||| 0x80000000 := by
  refine BitVec.eq_of_getLsbD_eq fun j hj => ?_
  rw [BitVec.getLsbD_or]
  rcases eq_or_ne j 31 with rfl | hne
  · exact (bit_putBit_same w true (by decide)).trans (by simp)
  · have h0 : (0x80000000 : Word).getLsbD j = false := by
      rw [show (0x80000000 : Word) = BitVec.twoPow 32 31 from rfl, BitVec.getLsbD_twoPow]
      simp [Ne.symm hne]
    rw [h0, Bool.or_false]
    exact bit_putBit_ne w true hne

/-! ## The doorbell pages -/

section
variable {s : State} (hr : s.ready = true)
include hr

theorem State.ringWrite_sqTail (n : Nat) (v : Word) :
    s.ringWrite n 0x00 v = if s.sqWords n < (v - s.reg (kSqHead n)).toNat then s.wdrop 1 0 else s.setReg (kSqTail n) v := by
  simp only [State.ringWrite, hr, Bool.not_true, Bool.false_eq_true, if_false]

theorem State.ringWrite_cqHead (n : Nat) (v : Word) :
    s.ringWrite n 0x04 v = if s.cqEntries n < (s.reg (kCqTail n) - v).toNat then s.wdrop 1 4 else (s.setReg (kCqHead n) v).releaseHeld n := by
  simp only [State.ringWrite, hr, Bool.not_true, Bool.false_eq_true, if_false]

theorem State.ringWrite_ringCfg (n : Nat) (v : Word) : s.ringWrite n 0x20 v = s.ringCfgWrite n v := by
  simp only [State.ringWrite, hr, Bool.not_true, Bool.false_eq_true, if_false]

end

/-- A running ring keeps its sizes, and a write without EN stops it (R52). -/
theorem State.ringCfgWrite_stops {s : State} {n : Nat} {v : Word} (hen : s.regB (kRingCfg n) 31 = true) (hv : bit v 31 = false)
    (hsz : v &&& 0x0F0F = s.reg (kRingCfg n) &&& 0x0F0F) :
    s.ringCfgWrite n v = (s.setB (kRingCfg n) 31 false).setB (kRingStat n) 31 false := by
  simp only [State.ringCfgWrite, hen, hv, hsz, if_true, Bool.false_eq_true, if_false]

/-- Ring n has been enabled since the Function Level Reset that cleared its bases (R56). -/
def State.ringBack (s : State) (n : Nat) : State := { s with foy := { s.foy with gone := s.foy.gone.filter (· ≠ n) } }

@[simp] theorem State.ringBack_reg (s : State) (n k : Nat) : (s.ringBack n).reg k = s.reg k := rfl

/-- The state in which an accepted enable leaves ring n: the sizes with EN, ACTIVE without a CFGERR, both rings empty, and the counters at `FOY_SQSEQ` − 1 (R52). -/
def State.ringStarted (s : State) (n : Nat) (v : Word) : State :=
  let t := ((((s.setReg (kRingCfg n) (v &&& 0x0F0F)).setF (kRingStat n) 0 8 0).ringBack n).setB (kRingCfg n) 31 true).setB (kRingStat n) 31 true
  let u := (t.setReg (kSqHead n) (t.reg (kSqTail n))).setReg (kCqTail n) (t.reg (kCqHead n))
  let last := dw (u.reg (kSqSeq n)) (u.reg (kSqSeq n + 4)) - 1
  (u.setW64 (kAccepted n) last).setW64 (kCompleted n) last

/-- An enable of a stopped ring with sound sizes, a `FOY_SQSEQ` below 2^63 and no journal entry is accepted (R52). -/
theorem State.ringCfgWrite_starts {s : State} {n : Nat} {v : Word} (hen : s.regB (kRingCfg n) 31 = false) (hv : bit v 31 = true)
    (hsq : fld v 0 4 ≤ 8) (hcq : fld v 8 4 ≤ 8) (hseq : s.regB (kSqSeq n + 4) 31 = false)
    (hj : ∀ i x, (i, some x) ∈ s.foy.journal → x.ring ≠ n) :
    s.ringCfgWrite n v = s.ringStarted n v := by
  have hseq' : (s.setReg (kRingCfg n) (v &&& 0x0F0F)).regB (kSqSeq n + 4) 31 = false := by
    rw [State.regB, State.setReg_reg_ne _ _ (by unfold kSqSeq kRingCfg; omega)]
    exact hseq
  simp only [State.ringCfgWrite, hen, hv, Nat.not_lt.2 hsq, Nat.not_lt.2 hcq, hseq', Bool.not_true, Bool.false_eq_true, if_false, ne_eq,
    not_true_eq_false]
  split
  · rename_i hany
    obtain ⟨⟨i, _ | x⟩, he, hx⟩ := List.any_eq_true.1 hany
    · exact absurd hx Bool.false_ne_true
    · exact absurd (of_decide_eq_true hx) (hj i x he)
  · rfl

theorem State.ringStarted_reg (s : State) (n : Nat) (v : Word) :
    (s.ringStarted n v).reg (kRingCfg n) = putBit (v &&& 0x0F0F) 31 true ∧
    (s.ringStarted n v).reg (kRingStat n) = putBit (putFld (s.reg (kRingStat n)) 0 8 0) 31 true ∧
    (s.ringStarted n v).reg (kSqHead n) = s.reg (kSqTail n) ∧ (s.ringStarted n v).reg (kCqTail n) = s.reg (kCqHead n) := by
  simp (disch := omega) only [State.ringStarted, State.setB, State.setF, kRingCfg, kRingStat, kSqHead, kSqTail, kCqHead, kCqTail,
    State.setW64_reg, State.ringBack_reg, State.setReg_reg_same, State.setReg_reg_ne, and_self]

theorem State.ringStarted_w64 (s : State) (n : Nat) (v : Word) :
    (s.ringStarted n v).w64 (kAccepted n) = dw (s.reg (kSqSeq n)) (s.reg (kSqSeq n + 4)) - 1 ∧
    (s.ringStarted n v).w64 (kCompleted n) = dw (s.reg (kSqSeq n)) (s.reg (kSqSeq n + 4)) - 1 := by
  simp (disch := omega) only [State.ringStarted, State.setB, State.setF, kRingCfg, kRingStat, kSqHead, kCqTail, kSqSeq, kAccepted, kCompleted,
    State.ringBack_reg, State.setReg_reg_ne, State.setW64_w64_same, State.setW64_w64_ne, and_self]

/-- What a doorbell page does with an aligned word is what its row does (R50). -/
theorem rowWrite_ringWrite {s t : State} {n : Fin 18} {o : Nat} {v : Word} (ha : s.answers = true) (ho : o < 0x40) (h4 : o % 4 = 0)
    (hw : s.ringWrite n.val o v = t) : s.rowWrite (ringMaster n) (ringAt n o) v = .next t.pump :=
  hw ▸ rowWrite_ring ha ho h4

/-- Settles O14: the write reaches the doorbell page of its ring, whose lemma says what the register does with it. -/
theorem ringRegisters : Obligations.RingRegisters := by
  refine ⟨?_, ?_, ?_, ?_, ?_, ?_⟩
  · intro s n v ha hr h
    exact rowWrite_ringWrite ha (by decide) (by decide) ((State.ringWrite_sqTail hr n.val v).trans (if_neg (Nat.not_lt.2 h)))
  · intro s n v ha hr h
    exact rowWrite_ringWrite ha (by decide) (by decide) ((State.ringWrite_sqTail hr n.val v).trans (if_pos h))
  · intro s n v ha hr h
    exact rowWrite_ringWrite ha (by decide) (by decide) ((State.ringWrite_cqHead hr n.val v).trans (if_neg (Nat.not_lt.2 h)))
  · intro s n v ha hr h
    exact rowWrite_ringWrite ha (by decide) (by decide) ((State.ringWrite_cqHead hr n.val v).trans (if_pos h))
  · intro s n v ha hr hen hv hsq hcq hseq hj
    have hfree : ∀ i x, (i, some x) ∈ s.foy.journal → x.ring ≠ n.val := fun i x hx => of_decide_eq_true (List.all_eq_true.1 hj (i, some x) hx)
    have hw := (State.ringWrite_ringCfg hr n.val v).trans (State.ringCfgWrite_starts hen hv hsq hcq hseq hfree)
    obtain ⟨hcfg, hstat, hhead, htail⟩ := s.ringStarted_reg n.val v
    refine ⟨s.ringStarted n.val v, rowWrite_ringWrite ha (by decide) (by decide) hw, hcfg.trans (putBit_top _), ?_, ?_, hhead, htail,
      s.ringStarted_w64 n.val v⟩
    · exact (congrArg (fun w => bit w 31) hstat).trans (bit_putBit_same _ _ (by decide))
    · exact (congrArg (fun w => fld w 0 8) hstat).trans ((fld_putBit_ne _ _ (by decide)).trans (fld_putFld_same _ _ (by decide)))
  · intro s n v ha hr hen hv hsz
    exact rowWrite_ringWrite ha (by decide) (by decide) ((State.ringWrite_ringCfg hr n.val v).trans (State.ringCfgWrite_stops hen hv hsz))

/-! ## The packets that stage a part of a head's set -/

/-- A begun command that answers at once or waits for a swap, by what its opcode does. -/
theorem packet_begun {s : State} {op : Op} {p : Packet} {r : Started × State} (h : Takes s op p) (hop : op ≠ .unitReset)
    (hc : beginOp (s.opened op p) (s.admitted op p) = r) (hk : KeepP (s.admitted op p) (beginOp (s.opened op p) (s.admitted op p)))
    (hs : (∃ x, r.1 = .done x) ∨ (∃ w, r.1 = .wait w ∧ (∀ m, w ≠ .fence m) ∧ (∀ u a b, w ≠ .expert u a b))) :
    s.packet op p = .next (carried (s.opened op p) r) :=
  packet_carried h hop hc (hc ▸ hk.out.opens) hs

/-- A staging command with a reservation answers `NO_RESOURCE`, or as one without (R148, R237). -/
theorem stageReserved_cases (o : Open) (h : Nat) (needs : Bool) (s s' : State) :
    (∃ x, (stageReserved o h needs s s').1 = .done x) ∨
    (∃ w, (stageReserved o h needs s s').1 = .wait w ∧ (∀ m, w ≠ .fence m) ∧ (∀ u a b, w ≠ .expert u a b)) := by
  unfold stageReserved
  extract_lets r
  split
  · exact commitAfter_cases _ _ _ _
  · exact .inl ⟨_, rfl⟩

/-- A `SPRITE_TABLE` of one head stages the table there (R174). -/
theorem beginSpriteTable_head {o : Open} {t : State} (hb : bit (pw o.pkt 0) 8 = false) (hf : spriteTableFault o t = none) :
    let h := fld (pw o.pkt 0) 0 5
    beginSpriteTable o t = commitHeads o [h] ((((t.stage h 0x800 (pw o.pkt 0 &&& 0xFFFF0000)).stage h 0x804 (pw o.pkt 1)).stage h 0x808
      (pw o.pkt 2)).stage h 0x80C (wd (fld (pw o.pkt 3) 0 13))) := by
  simp only [beginSpriteTable, hf, hb]
  rfl

/-- A `SPRITE_TABLE` of a canvas stages the table on every head that is staged in it (R175). -/
theorem beginSpriteTable_canvas {o : Open} {t : State} (hb : bit (pw o.pkt 0) 8 = true) (hf : spriteTableFault o t = none) :
    let hs := t.stagedIn (fld (pw o.pkt 0) 0 5)
    beginSpriteTable o t = commitHeads o hs (t.each hs fun s k => (((s.stage k 0x800 (pw o.pkt 0 &&& 0xFFFF0000)).stage k 0x804
      (pw o.pkt 1)).stage k 0x808 (pw o.pkt 2)).stage k 0x80C (wd (fld (pw o.pkt 3) 0 13))) := by
  simp only [beginSpriteTable, hf, hb]
  rfl

/-- Settles O4: a command whose checks find no fault stages its words, and `packet_begun` gives the Foyer's whole run from there. -/
theorem stagingPackets : Obligations.StagingPackets := by
  refine ⟨?_, ?_, ?_, ?_, ?_, ?_, ?_⟩
  · intro s p hT t o w h counts hf
    exact packet_begun hT nofun (show beginHeadTiming o t = _ by rw [beginHeadTiming, hf]; rfl) (beginHeadTiming_keep (Keep.refl t))
      (commitAfter_cases _ _ _ _)
  · intro s p hT t o h l t' own hf
    exact packet_begun hT nofun (show beginPlaneSet o t = _ by rw [beginPlaneSet, hf]; rfl) (beginPlaneSet_keep (Keep.refl t))
      (stageReserved_cases _ _ _ _ _)
  · intro s p hT t o h hb hf
    exact packet_begun hT nofun (beginSpriteTable_head (o := o) hb hf) (beginSpriteTable_keep (Keep.refl t)) (commitAfter_cases _ _ _ _)
  · intro s p hT t o hs hb hf
    exact packet_begun hT nofun (beginSpriteTable_canvas (o := o) hb hf) (beginSpriteTable_keep (Keep.refl t)) (commitAfter_cases _ _ _ _)
  · intro s p hT t o h hf
    exact packet_begun hT nofun (show beginComposeSet o t = _ by rw [beginComposeSet, hf]; rfl) (beginComposeSet_keep (Keep.refl t))
      (commitAfter_cases _ _ _ _)
  · intro s p hT t o h r hf
    exact packet_begun hT nofun (show beginCrcRectSet o t = _ by rw [beginCrcRectSet, hf]; rfl) (beginCrcRectSet_keep (Keep.refl t))
      (commitAfter_cases _ _ _ _)
  · intro s p hT t o h hf
    exact packet_begun hT nofun (show beginWritebackSet o t = _ by rw [beginWritebackSet, hf]; rfl) (beginWritebackSet_keep (Keep.refl t))
      (stageReserved_cases _ _ _ _ _)

/-! ## The Foyer's refusals -/

/-- With nothing open there is no accepted work to carry on. -/
theorem carryOn_of_empty {s : State} (h : s.foy.opens = []) : s.carryOn = s := by
  rw [State.carryOn, if_pos (by rw [h]; rfl)]

theorem replyNow_opens (s : State) (p : Packet) (r : Reply) : (s.replyNow p r).foy.opens = s.foy.opens :=
  (State.putEntry_keep (Keep.refl s)).opens

/-- A packet that its round passes by, with nothing open, has no effect beyond its intake. -/
theorem packet_passed_by {s t : State} {op : Op} {p : Packet} (hr : s.nextRing = some p.ring.val) (hi : (s.turn p.ring.val).intake op p = t)
    (ht : t.foy.opens = []) : s.packet op p = .next t := by
  rw [State.packet, if_pos hr, hi, carryOn_of_empty ht]

/-- `FOY_SQHEAD` passes a packet that is not accepted, by its length as far as the ring holds words (R59 step 2). -/
def State.skipped (s : State) (p : Packet) : State :=
  (s.unmarked p.ring.val).sqAdvance p.ring.val (max 4 (min p.len.toNat (s.sqAvail p.ring.val)))

section
variable {s : State} {op : Op} {p : Packet} (hm : Tbl.get (fun _ => none) s.foy.pass p.ring.val = none)
include hm

/-- Bit 63 of a sequence number is never set (R59 step 2). -/
theorem State.intake_insane (h : 2 ^ 63 ≤ p.seq.toNat) : s.intake op p = (s.skipped p).replyNow p (repBad 0x1003) := by
  simp only [State.intake, hm, h, if_true, Bool.false_eq_true, if_false]
  rfl

/-- A sequence number past the next one leaves a gap (R59 step 2). -/
theorem State.intake_gap (h : p.seq.toNat < 2 ^ 63) (hg : (s.w64 (kAccepted p.ring.val) + 1).toNat < p.seq.toNat) :
    s.intake op p = (s.skipped p).replyNow p (repBad 0x1000) := by
  simp only [State.intake, hm, Nat.not_le.2 h, hg, if_true, Bool.false_eq_true, if_false]
  rfl

/-- A sequence number that its ring has accepted before is a resubmission (R90). -/
theorem State.intake_again (h : p.seq.toNat < 2 ^ 63) (ha : p.seq.toNat < (s.w64 (kAccepted p.ring.val) + 1).toNat) :
    s.intake op p = (s.skipped p).duplicate p := by
  simp only [State.intake, hm, Nat.not_le.2 h, Nat.not_lt.2 (Nat.le_of_lt ha), ha, if_true, Bool.false_eq_true, if_false]
  rfl

end

/-- A resubmission of a command that is not open and whose journal entry has been reused is answered without a result (R90). -/
theorem State.duplicate_reused {s : State} {p : Packet} (ho : s.foy.opens = [])
    (hj : ∀ i y, (i, some y) ∈ s.foy.journal → y.ring ≠ p.ring.val ∨ y.seq ≠ p.seq) :
    s.duplicate p = s.putEntry (dupEntry p.ring.val p.seq p.tag p.irq 0xFFFF (rep .ok 0) 0) := by
  unfold State.duplicate
  extract_lets n gone
  rw [ho, List.find?_nil]
  split
  · contradiction
  · split
    · rename_i i y hfound
      have hsame : y.ring = n ∧ y.seq = p.seq := by simpa using List.find?_some hfound
      exact absurd hsame (not_and_or.2 (hj i y (List.mem_of_find?_eq_some hfound)))
    · rfl

/-- Settles O54: every row of the list fetches its packet alike, the intake of a ring without a mark passes the packet by in each of the three cases, and with nothing open the Foyer has no more to do. -/
theorem packetRefusals : Obligations.PacketRefusals := by
  intro s p i op hrow hring hopen hmark n e t
  have hexec : exec i s = s.packet op p :=
    (List.map_inj_left (f := fun r : Instr × Op => exec r.1 s) (g := fun r => s.packet r.2 p)).1 (by rfl) (i, op) hrow
  rw [hexec]
  refine ⟨fun h => ?_, fun h hg => ?_, fun h ha hj => ?_⟩
  · exact packet_passed_by hring (State.intake_insane hmark h) ((replyNow_opens t p _).trans hopen)
  · exact packet_passed_by hring (State.intake_gap hmark h hg) ((replyNow_opens t p _).trans hopen)
  · have hdup : (s.turn n).intake op p = t.putEntry (dupEntry n p.seq p.tag p.irq 0xFFFF (rep .ok 0) 0) :=
      calc (s.turn n).intake op p = t.duplicate p := State.intake_again hmark h ha
        _ = _ := State.duplicate_reused hopen fun i y hy => by simpa using List.all_eq_true.1 hj (i, some y) hy
    exact packet_passed_by hring hdup ((State.putEntry_keep (Keep.refl t)).opens.trans hopen)

end Sys2Proof.Machine

namespace Sys2Proof.Machine

/-! ## The packets that move memory -/

/-- A `MEM_COPY` or `MEM_FILL` that its checks allow runs until its end, STARTED in the journal where it may overwrite its own source (R80, R552). -/
theorem beginMemOp_waits {o : Open} {t : State} (hf : memOpFault o t = none) :
    beginMemOp o t = (.wait .memOp, if memOverlap o then t.jState o.idx .started else t) := by
  rw [beginMemOp, hf]

theorem memOverlap_copy {o : Open} (h : o.op = .memCopy) : memOverlap o = overlaps (pd o.pkt 0) (pd o.pkt 4) (pd o.pkt 2) (pd o.pkt 4) := by
  rw [memOverlap, memArgs, if_pos h]

/-- A `MEM_FILL` has no source that it could overwrite. -/
theorem memOverlap_fill {o : Open} (h : o.op = .memFill) : memOverlap o = false := by
  rw [memOverlap, memArgs, if_neg (h ▸ nofun)]

/-- An `ASSET_LOAD` that its checks allow enters its region unless another load runs there (R300, R301). -/
theorem beginAssetLoad_waits {o : Open} {t : State} (hf : assetLoadFault o t = none) (hl : t.panLoading (fld (pw o.pkt 0) 0 8) = false) :
    beginAssetLoad o t = (.wait (.load (fld (pw o.pkt 0) 0 8)), t.assetStart (fld (pw o.pkt 0) 0 8)) := by
  simp [beginAssetLoad, hf, hl]

theorem beginAssetUnseal_done {o : Open} {t : State} (hf : assetUnsealFault o t = none) :
    beginAssetUnseal o t = (.done repOk, t.setB (kPR (fld (pw o.pkt 0) 0 8) + 8) 30 false) := by
  rw [beginAssetUnseal, hf]

/-- Settles O3: each packet begins with the result its clause names, and `packet_wait` or `packet_done` gives the Foyer's whole run from it. -/
theorem memoryPackets : Obligations.MemoryPackets := by
  refine ⟨?_, ?_, ?_, ?_⟩
  · intro s p hT t o hf
    have hb : beginMemOp o t = (.wait .memOp, if overlaps (pd p 0) (pd p 4) (pd p 2) (pd p 4) then t.jState o.idx .started else t) := by
      rw [beginMemOp_waits hf, memOverlap_copy (o := o) rfl]
      rfl
    have hk : Keep t (if overlaps (pd p 0) (pd p 4) (pd p 2) (pd p 4) then t.jState o.idx .started else t) :=
      keep_ite (fun _ => State.jState_keep (Keep.refl t)) fun _ => Keep.refl t
    exact packet_wait hT hb hk.opens ⟨nofun, nofun⟩
  · intro s p hT t o hf
    have hb : beginMemOp o t = (.wait .memOp, t) := by
      rw [beginMemOp_waits hf, memOverlap_fill (o := o) rfl]
      rfl
    exact packet_wait hT hb rfl ⟨nofun, nofun⟩
  · intro s p hT t o r hf hl
    exact packet_wait hT (beginAssetLoad_waits (o := o) hf hl) rfl ⟨nofun, nofun⟩
  · intro s p hT t o hf
    exact packet_done hT nofun (beginAssetUnseal_done (o := o) hf) rfl

/-! ## The packets of power and reset -/

/-- A `UNIT_RESET` that its checks allow has done nothing yet: the reset is its commit point (R86, R512). -/
theorem beginUnitReset_done {o : Open} {t : State} (hf : unitResetFault o t = none) : beginUnitReset o t = (.done repOk, t) := by
  rw [beginUnitReset, hf]

/-- A `POWER_STATE` that its checks allow has done nothing yet: the change is its commit point (R505 to R507). -/
theorem beginPowerState_done {o : Open} {t : State} (hf : powerStateFault o t = none) : beginPowerState o t = (.done repOk, t) := by
  rw [beginPowerState, hf]

/-- A `TELEMETRY_CONFIG` that its checks allow gives the ring, or none for size 0, and restarts the sequence (R519). -/
theorem beginTelemetryConfig_done {o : Open} (t : State) (hf : telemetryConfigFault o = none) :
    let n := (pw o.pkt 2).toNat
    beginTelemetryConfig o t = (.done repOk,
      { t with chm := { t.chm with ring := if n = 0 then none else some (BitVec.ofNat 64 (pd o.pkt 0), n), seq := 0 } }) := by
  rw [beginTelemetryConfig, hf]

/-- A pull window in order and within ±1,000,000 ppb is taken at the next boundary cycle, and is answered `OK` unless the loop's present demand lies outside it (R116). -/
theorem beginPullWindow_done {h : Nat} {lo hi : Int} {t : State} (hlo : -1000000 ≤ lo) (hle : lo ≤ hi) (hhi : hi ≤ 1000000)
    (hin : (t.glActive h && decide (t.leader h = h) && (decide ((t.head h).glDemand < lo) || decide (hi < (t.head h).glDemand))) = false) :
    beginPullWindow h lo hi t = (.done repOk, t.updHead h fun v => { v with pullNew := some (lo, hi) }) := by
  have h1 : (decide (lo < -1000000) || decide (1000000 < lo) || decide (hi < lo)) = false := by simp; omega
  have h2 : (decide (hi < -1000000) || decide (1000000 < hi)) = false := by simp; omega
  simp only [beginPullWindow, firstFail, h1, h2, hin, Bool.false_eq_true, if_false]

section
variable {o : Open} {t : State} (hm : outside o.pkt 0 0xFF = false)
include hm

/-- Loops 0x40 to 0x5F, the pull window of a head (R116). -/
theorem beginClockPolicy_pull {h : Nat} (hl : fld (pw o.pkt 0) 0 8 = 0x40 + h) (hh : h < 32) (hp : t.headPresent h = true) :
    beginClockPolicy o t = beginPullWindow h (pw o.pkt 1).toInt (pw o.pkt 2).toInt t := by
  have hr : 0x40 ≤ 0x40 + h ∧ 0x40 + h < 0x60 := by omega
  have h0 : ¬ 0x40 + h = 0 := by omega
  have h10 : ¬ 0x40 + h = 0x10 := by omega
  have h20 : ¬ 0x40 + h = 0x20 := by omega
  simp only [beginClockPolicy, hm, hl, hp, h0, h10, h20, if_pos hr, Nat.add_sub_cancel_left, Bool.false_eq_true, if_false, if_true]

variable {p1 p2 : Nat} (e1 : (pw o.pkt 1).toNat = p1) (e2 : (pw o.pkt 2).toNat = p2)
include e1 e2

/-- Loop 0, the core voltage in mV (R515). -/
theorem beginClockPolicy_voltage (hl : fld (pw o.pkt 0) 0 8 = 0) (h1 : 650 ≤ p1) (h12 : p1 ≤ p2) (h2 : 750 ≤ p2) (h2' : p2 ≤ 850) :
    beginClockPolicy o t = (.done (rep .ok (b2n (t.regB kCHM 16))), t.setReg (kCHM + 0x100) (wd (p2 * 65536 + p1))) := by
  have hb1 : (decide (p1 < 650) || decide (850 < p1)) = false := by simp; omega
  have hb2 : (decide (p2 < 750) || decide (850 < p2) || decide (p2 < p1)) = false := by simp; omega
  simp only [beginClockPolicy, hm, hl, e1, e2, hb1, hb2, firstFail, Bool.false_eq_true, if_false, if_true]

/-- Loop 0x10, the refresh of the Cellar (R516). -/
theorem beginClockPolicy_refresh (hl : fld (pw o.pkt 0) 0 8 = 0x10) (h1 : 16 ≤ p1) (h12 : p1 ≤ p2) (h2 : p2 ≤ 64) :
    let t' := (t.setReg (kCHM + 0x104) (wd (p2 * 65536 + p1))).refreshAll
    beginClockPolicy o t = (.done (rep .ok (b2n ((List.range 8).any fun c => t'.regB (kRate c) 31))), t') := by
  have hb1 : (decide (p1 < 16) || decide (64 < p1)) = false := by simp; omega
  have hb2 : (decide (p2 < 16) || decide (64 < p2) || decide (p2 < p1)) = false := by simp; omega
  simp only [beginClockPolicy, hm, hl, e1, e2, hb1, hb2, firstFail, OfNat.ofNat_ne_zero, Bool.false_eq_true, if_false, if_true]

/-- Loop 0x20, the throttle of the Hallway (R319). -/
theorem beginClockPolicy_throttle (hl : fld (pw o.pkt 0) 0 8 = 0x20) (h1 : p1 = 0) (h2 : p2 ≤ 4096) :
    beginClockPolicy o t = (.done (rep .ok (b2n ((t.throtBound p2).regB (kHAL + 0x300) 30))), t.throtBound p2) := by
  have hb1 : decide (p1 ≠ 0) = false := by simp [h1]
  have hb2 : decide (4096 < p2) = false := by simp; omega
  simp only [beginClockPolicy, hm, hl, e1, e2, hb1, hb2, firstFail, OfNat.ofNat_ne_zero, Nat.reduceEqDiff, Bool.false_eq_true, if_false, if_true]

/-- Loops 0x60 to 0x7F, the equalisation of a port (R515). -/
theorem beginClockPolicy_port {q : Nat} (hl : fld (pw o.pkt 0) 0 8 = 0x60 + q) (hq : q < 32) (hp : (t.absentPort q).1 = false)
    (h1 : p1 < 16) (h2 : 0 < p2) (h2' : p2 < 65536) :
    beginClockPolicy o t = (.done (rep .ok (b2n (t.regB (kCHM + 0x480) q))),
      t.setReg (kCHM + 0x400 + 4 * q) (wd (p1 * 65536 + p2))) := by
  have hr : 0x60 ≤ 0x60 + q ∧ 0x60 + q < 0x80 := by omega
  have hn : ¬ (0x40 ≤ 0x60 + q ∧ 0x60 + q < 0x60) := by omega
  have h0 : ¬ 0x60 + q = 0 := by omega
  have h10 : ¬ 0x60 + q = 0x10 := by omega
  have h20 : ¬ 0x60 + q = 0x20 := by omega
  have hb1 : decide (16 ≤ p1) = false := by simp; omega
  have hb2 : (decide (p2 = 0) || decide (65536 ≤ p2)) = false := by simp; omega
  have ha : t.absentPort q = (false, (t.absentPort q).2) := Prod.ext hp rfl
  simp only [beginClockPolicy, hm, hl, e1, e2, h0, h10, h20, hn, if_pos hr, Nat.add_sub_cancel_left, hb1, hb2, firstFail, Bool.false_eq_true,
    if_false]
  rw [ha]

end

/-- Settles O13: each packet begins with the result its clause names, `CLOCK_POLICY` by the lemma of its loop, and `packet_reset` or `packet_done` gives the Foyer's whole run from it. -/
theorem powerPackets : Obligations.PowerPackets := by
  refine ⟨?_, ?_, ?_, ?_⟩
  · intro s p hT hf
    exact packet_reset hT (beginUnitReset_done hf) rfl
  · intro s p hT hf
    exact packet_done hT nofun (beginPowerState_done hf) rfl
  · intro s p hT t o n hf
    exact packet_done hT nofun (beginTelemetryConfig_done (o := o) t hf) rfl
  · intro s p hT t o l p1 p2 hm
    refine ⟨?_, ?_, ?_, ?_, ?_⟩
    · intro hl h1 h12 h2 h2'
      exact packet_done hT nofun (beginClockPolicy_voltage (o := o) hm rfl rfl hl h1 h12 h2 h2') rfl
    · intro hl h1 h12 h2 t'
      exact packet_done hT nofun (beginClockPolicy_refresh (o := o) hm rfl rfl hl h1 h12 h2) (State.refreshAll_keep (State.setReg_keep (Keep.refl t))).opens
    · intro hl h1 h2
      exact packet_done hT nofun (beginClockPolicy_throttle (o := o) hm rfl rfl hl h1 h2) (State.throtBound_keep (Keep.refl t)).opens
    · intro q hl hq hp h1 h2 h2'
      exact packet_done hT nofun (beginClockPolicy_port (o := o) hm rfl rfl hl hq hp h1 h2 h2') rfl
    · intro h hl hh hp hlo hle hhi hin
      exact packet_done hT nofun ((beginClockPolicy_pull (o := o) hm hl hh hp).trans (beginPullWindow_done hlo hle hhi hin))
        (State.updHead_keep (Keep.refl t)).opens

end Sys2Proof.Machine

namespace Sys2Proof.Machine

/-! ## The packets that stage what they read -/

/-- A list without entries has no fault (R199). -/
theorem listFault_empty (g : Nat → Word) (at' : Nat → Nat) : listFault g 0 at' = none := rfl

section
variable {o : Open} {t : State}

/-- A `BEAM_LIST_SET` whose list is read and passes its checks stages the list's place and length (R199). -/
theorem beginBeamListSet_reads {t' : State} {bs : List Byte} (hf : beamListSetFault o t = none) :
    let h := fld (pw o.pkt 0) 0 5
    let n := fld (pw o.pkt 3) 0 16
    n ≠ 0 → t.devRead 1 h (pd o.pkt 1) (8 * n) = (.ok bs, t') →
    listFault (t'.shSet h) n (fun i => leNat ((bs.drop (8 * i)).take 8)) = none →
    beginBeamListSet o t = commitAfter o [h] repOk (((t'.stage h 0x900 (pw o.pkt 1)).stage h 0x904 (pw o.pkt 2)).stage h 0x908 (wd n)) := by
  intro h n hn hr hl
  simp only [beginBeamListSet, hf, if_neg hn, hr, Rd.bytes, h, n]
  rw [hl]

/-- A `BEAM_LIST_SET` of length 0 reads nothing (R199). -/
theorem beginBeamListSet_empty (hf : beamListSetFault o t = none) (hn : fld (pw o.pkt 3) 0 16 = 0) :
    let h := fld (pw o.pkt 0) 0 5
    beginBeamListSet o t = commitAfter o [h] repOk (((t.stage h 0x900 (pw o.pkt 1)).stage h 0x904 (pw o.pkt 2)).stage h 0x908 0) := by
  simp only [beginBeamListSet, hf, hn, if_true, listFault_empty]
  rfl

/-- A `LUT_LOAD` whose source is read gives the table its entries (R214). -/
theorem beginLutLoad_reads {t' : State} {bs : List Byte} (hf : lutLoadFault o t = none) :
    let h := fld (pw o.pkt 0) 0 5
    let tab := fld (pw o.pkt 0) 8 2
    let es := if tab = 0 then 4 else 2
    t.devRead 1 h (pd o.pkt 1) (es * (pw o.pkt 4).toNat) = (.ok bs, t') →
    beginLutLoad o t = commitAfter o [h] repOk
      (t'.lutTake h tab (fld (pw o.pkt 0) 12 1) (pw o.pkt 3).toNat es (pw o.pkt 4).toNat bs) := by
  intro h tab es hr
  simp only [beginLutLoad, hf, State.lutRead]
  rw [hr]

/-- A `CANVAS_SET` that its checks allow gives the named heads the canvas and takes every other member out of it (R110). -/
theorem beginCanvasSet_stages (hf : canvasSetFault o t = none) :
    let c := fld (pw o.pkt 0) 0 3
    let named := (List.range 32).filter (bit (pw o.pkt 1))
    let leave := (t.stagedIn c).filter fun h => !bit (pw o.pkt 1) h
    beginCanvasSet o t = commitHeads o ((List.range 32).filter fun h => named.contains h || leave.contains h)
      ((t.each named.zipIdx fun s e => (s.stage e.1 0x60 (wd (2 ^ 31 + c))).stage e.1 0x64 (pw o.pkt (2 + e.2))).each leave
        fun s h => s.stage h 0x60 (s.hd h 0x60 &&& 0x7FFFFFFF)) := by
  rw [beginCanvasSet, hf]

end

/-- Settles O5: each packet begins by staging what it has read or names, and `packet_begun` gives the Foyer's whole run from there. -/
theorem readingPackets : Obligations.ReadingPackets := by
  refine ⟨?_, ?_, ?_, ?_⟩
  · intro s p bs t' hT t o h n hf hn hr hl
    exact packet_begun hT nofun (beginBeamListSet_reads (o := o) hf hn hr hl) (beginBeamListSet_keep (Keep.refl t)) (commitAfter_cases _ _ _ _)
  · intro s p hT t o h hf hn
    exact packet_begun hT nofun (beginBeamListSet_empty (o := o) hf hn) (beginBeamListSet_keep (Keep.refl t)) (commitAfter_cases _ _ _ _)
  · intro s p bs t' hT t o h tab es hf hr
    exact packet_begun hT nofun (beginLutLoad_reads (o := o) hf hr) (beginLutLoad_keep (Keep.refl t)) (commitAfter_cases _ _ _ _)
  · intro s p hT t o c named leave hf
    exact packet_begun hT nofun (beginCanvasSet_stages (o := o) hf) (beginCanvasSet_keep (Keep.refl t)) (commitAfter_cases _ _ _ _)

/-! ## The verdict of a swap -/

/-- The verdict on a head that swaps by itself, which no other member can block (R98, R106, R113). -/
theorem State.verdict_alone (s : State) (h : Nat) :
    s.verdict [h] h =
      if s.goNow h then
        (if s.swapCause (fun k => decide (k = h) && s.goNow k) h = 0 then .taken
         else .refused (s.swapCause (fun k => decide (k = h) && s.goNow k) h))
      else .idle := by
  have hw : (fun k => [h].contains k && s.goNow k) = fun k => decide (k = h) && s.goNow k := by
    funext k
    simp [eq_comm]
  unfold State.verdict
  simp only [hw]
  cases hg : s.goNow h
  · simp
  · by_cases hc : s.swapCause (fun k => decide (k = h) && s.goNow k) h = 0 <;> simp [hc]

/-- Settles O25: with the head alone in its group, `State.verdict_alone` has one branch for each clause. -/
theorem swapVerdict : Obligations.SwapVerdict := by
  intro s h want causes
  refine ⟨fun hg => ?_, fun hg hc => ?_, fun hg hc => ?_⟩
  · rw [s.verdict_alone, if_neg (by rw [hg]; decide)]
  · rw [s.verdict_alone, if_pos hg]
    exact if_pos hc
  · rw [s.verdict_alone, if_pos hg]
    exact if_neg hc

/-! ## Genlock -/

/-- The state in which an active edge of `GENLOCK_IN` leaves its instant, PRESENT and, after an earlier edge, the period (R115, R117). -/
def State.glTimed (s : State) : State :=
  let p := if s.gl.seen then s.setReg (kGl 8) (wd (min 0xFFFFFFFF (s.now - s.w64 (kGl 0xC)).toNat)) else s
  (p.setW64 (kGl 0xC) s.now).setB (kGl 4) 31 true

/-- How long the active level of a pulse lasts, by the polarity of ININV (R117). -/
def State.glActiveTime (s : State) (width : Nat) (high : Bool) : Nat :=
  if high = s.glTimed.regB (kGl 0) 30 then (s.glTimed.reg (kGl 8)).toNat - width else width

/-- How many periods in a row have had an active level longer than half of them, up to four. -/
def State.glLongRun (s : State) (width : Nat) (high : Bool) : Nat :=
  if s.gl.seen && decide ((s.glTimed.reg (kGl 8)).toNat < 2 * s.glActiveTime width high) then min 4 (s.gl.long + 1) else 0

/-- The edge is noted with a run of n reversed periods. -/
def State.glNoted (s : State) (n : Nat) : State := { s with gl := { s.gl with seen := true, long := n } }

/-- LOST ends on every head (R115). -/
def State.glFound (s : State) : State := s.each (List.range 32) fun s h => s.setB (kGlstat h) 28 false

@[simp] theorem State.glTimed_gl (s : State) : s.glTimed.gl = s.gl := by
  simp only [State.glTimed, State.setB_gl]
  cases s.gl.seen <;> rfl

section
variable {s : State} {width : Nat} {high : Bool}

theorem State.glEdge_short (hw : width < 20) : s.glEdge width high = s := if_pos hw

/-- A pulse of 20 ns or more is timed, adds to the run of reversed periods or ends it, and ends LOST; a run of four is recorded once (R115, R117). -/
theorem State.glEdge_long (hw : 20 ≤ width) {n : Nat} (hn : s.glLongRun width high = n) :
    s.glEdge width high =
      (if n = 4 && !s.glTimed.regB (kGl 4) 30 then
         ((s.glTimed.glNoted n).setB (kGl 4) 30 true).errRec sevInfo 0x0E 0x0018 0 .ok (s.glTimed.reg (kGl 8)) 0
       else s.glTimed.glNoted n).glFound := by
  unfold State.glEdge
  rw [if_neg (Nat.not_lt.2 hw)]
  extract_lets k seen p t period active m g u v
  have hnow : p.now = s.now := by
    simp only [p]
    split <;> rfl
  have ht : t = s.glTimed := by
    simp only [t, hnow]
    rfl
  have hm : m = n := by
    rw [← hn]
    simp only [m, active, period, ht, State.glTimed_gl]
    rfl
  have hu : u = s.glTimed.glNoted n := by
    simp only [u, g, ht, hm]
    rfl
  show v.glFound = _
  simp only [v, hu, hm]
  rfl

theorem State.glLongRun_ends (h : s.gl.seen = false ∨ 2 * s.glActiveTime width high ≤ (s.glTimed.reg (kGl 8)).toNat) :
    s.glLongRun width high = 0 := by
  refine if_neg ?_
  rcases h with h | h
  · simp [h]
  · simp [Nat.not_lt.2 h]

theorem State.glLongRun_goes_on (hs : s.gl.seen = true) (h : (s.glTimed.reg (kGl 8)).toNat < 2 * s.glActiveTime width high) :
    s.glLongRun width high = min 4 (s.gl.long + 1) := if_pos (by simp [hs, h])

theorem State.glEdge_counts (hw : 20 ≤ width) {n : Nat} (hn : s.glLongRun width high = n) (h4 : n < 4) :
    s.glEdge width high = (s.glTimed.glNoted n).glFound :=
  (State.glEdge_long hw hn).trans (congrArg State.glFound (if_neg (by simp [Nat.ne_of_lt h4])))

theorem State.glEdge_reversed (hw : 20 ≤ width) (hn : s.glLongRun width high = 4) (hr : s.glTimed.regB (kGl 4) 30 = false) :
    s.glEdge width high =
      (((s.glTimed.glNoted 4).setB (kGl 4) 30 true).errRec sevInfo 0x0E 0x0018 0 .ok (s.glTimed.reg (kGl 8)) 0).glFound :=
  (State.glEdge_long hw hn).trans (congrArg State.glFound (if_pos (by simp [hr])))

end

/-- The loop of a leading head that has not lost its reference loses it (R115). -/
theorem State.glLost_loses {s : State} {h : Nat} (ha : s.glActive h = true) (hl : s.leader h = h) (hk : s.regB (kGlstat h) 28 = false) :
    s.glLost h = (((s.setB (kGlstat h) 28 true).setB (kGlstat h) 30 false).updHead h fun v => { v with glNear := 0 }).errRec
      sevInfo (uHead h) 0x0017 1 .genlockRange (s.reg (kGlpull h)) 0 := if_neg (by simp [ha, hl, hk])

/-- A halted head outside a canvas ends its halt by itself (R114). -/
theorem State.alignEnd_alone {s : State} {h : Nat} (hc : gCanvasEn (s.cmSet h) = false) (hp : (s.head h).phase = .aligning) :
    s.alignEnd h = (s.boundaryCycle h true).joinBoundary h := by
  have hg : (s.swapGroup h).filter (fun k => decide ((s.head k).phase = .aligning)) = [h] := by
    simp [State.swapGroup_alone hc, hp]
  rw [State.alignEnd, hg]
  rfl

/-- Settles O26: an edge goes by its run of reversed periods, and each other row by the lemma of what it does. -/
theorem genlockRows : Obligations.GenlockRows := by
  refine ⟨?_, ?_, ?_, ?_, ?_⟩
  · intro s width high hlive hw
    exact State.quietly_next (f := fun u => u.glEdge width high) hlive (State.glEdge_short hw)
  · intro s width high hlive hw p t period active found
    refine ⟨fun h => ?_, fun hs hlong hrun => ?_, fun hs hlong hrun hr => ?_⟩
    · exact State.quietly_next (f := fun u => u.glEdge width high) hlive (State.glEdge_counts hw (State.glLongRun_ends h) (by decide))
    · have hn : s.glLongRun width high = s.gl.long + 1 := (State.glLongRun_goes_on hs hlong).trans (Nat.min_eq_right (by omega))
      exact State.quietly_next (f := fun u => u.glEdge width high) hlive (State.glEdge_counts hw hn (Nat.succ_lt_succ hrun))
    · have hn : s.glLongRun width high = 4 := (State.glLongRun_goes_on hs hlong).trans (by rw [hrun]; rfl)
      exact State.quietly_next (f := fun u => u.glEdge width high) hlive (State.glEdge_reversed hw hn hr)
  · intro s h hfull ha hl hk
    exact State.quietly_next (f := fun u => u.glLost h.val) hfull (State.glLost_loses ha hl hk)
  · intro s h hfull hc hp
    exact State.working_next (f := fun u => u.alignEnd h.val) hfull (State.alignEnd_alone hc hp)
  · intro s hlive
    exact State.quietly_next (f := fun u => u.setB (kGl 4) 31 false) hlive rfl

/-! ## Registers of a head and of the time base -/

/-- A driving master's write of a register of a head page that is none of the Mantel's. -/
theorem rowWrite_headPage {s t : State} {m : Master} {h o : Nat} {v : Word} (hh : h < 32) (hd : s.drives m (0x10 + h) = true) (h4 : o % 4 = 0)
    (ho : o < 0x10000) (hm : mantelReg o = false) (hw : s.headWrite h o v = some t) : s.rowWrite m (bar0At (kHD h + o)) v = .next t.pump := by
  obtain ⟨hu, hr⟩ := page_of_add (u := 0x10 + h) ho
  have hmap : pageMapped (0x10 + h) = true := by simp [pageMapped]; omega
  rw [kHD_add_eq]
  exact rowWrite_drives (by rw [hu]; exact hd) (by omega) (by rw [hu]; exact hmap) (by omega)
    (by rw [hu]; exact s.flipWrite_none _ v (by omega) (by omega)) (by rw [hr, hm, Bool.and_false])
    (by rw [hu, hr]; exact (s.pageWrite_head h o v).trans hw)

/-- A driving master's write of the time base page. -/
theorem rowWrite_tmb {s t : State} {m : Master} {o : Nat} {v : Word} (hd : s.drives m 7 = true) (h4 : o % 4 = 0) (ho : o < 0x10000)
    (hw : s.tmbWrite o v = some t) : s.rowWrite m (bar0At (kTMB + o)) v = .next t.pump := by
  obtain ⟨hu, hr⟩ := page_of_add (u := 7) ho
  exact rowWrite_drives (off := 7 * 0x10000 + o) (by rw [hu]; exact hd) (by omega) (by rw [hu]; decide) (by omega)
    (by rw [hu]; exact s.flipWrite_none _ v (by decide) (by decide)) (by rw [hu]; rfl) (by rw [hu, hr]; exact hw)

/-- A master that may read a unit page reads what the page answers. -/
theorem rowRead_page {s : State} {m : Master} {u o : Nat} (hu : 0 < u) (hu' : u < 0x40) (hm : pageMapped u = true) (hv : s.views m u = true)
    (h4 : o % 4 = 0) (ho : o < 0x10000) :
    s.rowRead m (bar0At (u * 0x10000 + o)) = .next ((s.pageRead u o).2.answer [(s.pageRead u o).1]).pump := by
  obtain ⟨hq, hr⟩ := page_of_add (u := u) ho
  have h := rowRead_views (s := s) (m := m) (off := u * 0x10000 + o) (by rw [hq]; exact hv) (by omega) (by rw [hq]; exact hm) (by omega) (by omega)
  rwa [hq, hr] at h

/-! ### HD_COMMIT -/

theorem State.headWrite_go (s : State) (h : Nat) {v : Word} (hv : bit v 0 = true) : s.headWrite h 0x40 v = some (s.requestCommit h) := by
  unfold State.headWrite
  simp only [headW1c, hv, if_true, show mantelReg 0x40 = false from rfl, Bool.false_eq_true, if_false]

/-- Row HD_COMMIT_GO asks for the commit of its head (R103). -/
theorem execHdCommitGo_drives {s : State} {m : Master} {h : Fin 32} (v : Word) (hd : s.drives m (0x10 + h.val) = true) :
    exec (.hdCommitGo m h v) s = .next (s.requestCommit h.val).pump :=
  rowWrite_headPage h.isLt hd (by decide) (by decide) rfl (s.headWrite_go h.val (bit_putBit_same v true (by decide)))

theorem State.requestCommit_pending {s : State} {h : Nat} (hg : s.go h = true) : s.requestCommit h = s := if_pos hg

theorem State.requestCommit_in_time {s : State} {h : Nat} (hg : s.go h = false) (hl : s.goLate h = false) :
    s.requestCommit h = (s.setB (kHD h + 0x40) 0 true).updHead h fun x => { x with isLate := false, latePassed := false } := by
  simp only [State.requestCommit, hg, hl, Bool.false_eq_true, if_false]

/-- A commit whose deadline has passed is late: LATE and LATEWAIT are set, and it is counted (R107, R108). -/
theorem State.requestCommit_late {s : State} {h : Nat} (hg : s.go h = false) (hl : s.goLate h = true) :
    let t := s.setB (kHD h + 0x40) 0 true
    s.requestCommit h = ((t.setReg (kHD h + 0x44) (t.hd h 0x44 ||| 0x60000000)).incReg (kHD h + 0x48)).updHead h
      fun x => { x with isLate := true, latePassed := false } := by
  simp only [State.requestCommit, hg, hl, Bool.false_eq_true, if_false, if_true]

/-! ### HD_BSTS -/

theorem State.pageRead_bsts {s : State} {h : Nat} (hh : h < 32) (hr : s.ready = true) (hp : s.pageAbsent (0x10 + h) = false) :
    s.pageRead (0x10 + h) 0x920 = s.bstsRead h := by
  have hu : ¬ 0x40 ≤ 0x10 + h := by omega
  have hwo : writeOnly (0x10 + h) 0x920 = false := by
    unfold writeOnly
    split
    · omega
    · omega
    · omega
    · rfl
  have hlo : wideReg (0x10 + h) 0x920 = false := by simp [wideReg]
  unfold State.pageRead
  simp [hu, hr, hp, hwo, hlo]

/-- Row HD_BSTS_LO_READ answers with the oldest stamp (R197). -/
theorem execHdBstsLoRead_views {s : State} {m : Master} {h : Fin 32} (hv : s.views m (0x10 + h.val) = true) :
    exec (.hdBstsLoRead m h) s = .next ((s.bstsRead h.val).2.answer [(s.bstsRead h.val).1]).pump := by
  obtain ⟨-, hr, hp, -⟩ := State.views_parts hv
  have hh := h.isLt
  have hmap : pageMapped (0x10 + h.val) = true := by simp [pageMapped]; omega
  rw [← State.pageRead_bsts hh hr hp, ← rowRead_page (by omega) (by omega) hmap hv (by decide) (by decide), ← kHD_add_eq]
  rfl

/-! ### The compare channels -/

/-- Row TMB_CMP_ARM writes the control register of its channel. -/
theorem execTmbCmpArm_drives {s : State} {m : Master} {k : Fin 64} (v : Word) (hd : s.drives m 7 = true) :
    exec (.tmbCmpArm m k v) s = .next (s.tmbCmpWrite k.val (putBit v 31 true)).pump := by
  have hk := k.isLt
  have hw : s.tmbWrite (0x100 + 0x10 * k.val + 8) (putBit v 31 true) = some (s.tmbCmpWrite k.val (putBit v 31 true)) := by
    have h8 : ¬ 0x100 + 0x10 * k.val + 8 = 8 := by omega
    have hin : 0x100 ≤ 0x100 + 0x10 * k.val + 8 ∧ 0x100 + 0x10 * k.val + 8 < 0x500 := by omega
    have hr : (0x100 + 0x10 * k.val + 8) % 16 = 8 := by omega
    have hq : (0x100 + 0x10 * k.val + 8 - 0x100) / 16 = k.val := by omega
    simp only [State.tmbWrite, if_neg h8, if_pos hin, hr, hq]
  exact (congrArg (fun a => s.rowWrite m (bar0At a) (putBit v 31 true)) (by simp only [kCmp]; omega)).trans
    (rowWrite_tmb hd (by omega) (by omega) hw)

theorem putBit_and (w m : Word) {i : Nat} (b : Bool) (hm : bit m i = false) : putBit w i b &&& m = w &&& m := by
  refine BitVec.eq_of_getLsbD_eq fun j _ => ?_
  rw [BitVec.getLsbD_and, BitVec.getLsbD_and]
  rcases eq_or_ne j i with rfl | hj
  · rw [show m.getLsbD j = false from hm, Bool.and_false, Bool.and_false]
  · rw [show (putBit w i b).getLsbD j = w.getLsbD j from bit_putBit_ne w b hj]

/-- ARM samples the value of its channel and the flags as one set (R454). -/
theorem State.tmbCmpWrite_arms (s : State) (k : Nat) (v : Word) :
    let c := kCmp k
    s.tmbCmpWrite k (putBit v 31 true) =
      ((s.setReg (c + 8) (s.reg (c + 8) &&& ~~~ (v &&& 0x60000000))).setF (c + 8) 0 2 (fld v 0 2)).armCompare k (s.cmpReg k) (fld v 0 2) := by
  intro c
  have hm : putBit v 31 true &&& 0x60000000 = v &&& 0x60000000 := putBit_and v _ true (by decide)
  have hf : fld (putBit v 31 true) 0 2 = fld v 0 2 := fld_putBit_ne v true (by decide)
  have hb : bit (putBit v 31 true) 31 = true := bit_putBit_same v true (by decide)
  have hc : ((s.setReg (c + 8) (s.reg (c + 8) &&& ~~~ (v &&& 0x60000000))).setF (c + 8) 0 2 (fld v 0 2)).cmpReg k = s.cmpReg k := by
    simp (disch := omega) only [State.cmpReg, State.setF, c, State.setReg_reg_ne]
  simp only [State.tmbCmpWrite, hm, hf, hb, if_true]
  exact congrArg (fun d => State.armCompare _ k d _) hc

/-! ### The capture channels -/

/-- The place of a capture register in the time base page. -/
theorem kCap_add_eq (k o : Nat) : kCap k + o = 7 * 0x10000 + (0x800 + 0x20 * k + o) := by
  simp only [kCap, kTMB]; omega

/-- Row TMB_CAPCFG_WRITE writes the configuration of its channel. -/
theorem execTmbCapcfgWrite_drives {s : State} {m : Master} {k : Fin 32} (v : Word) (hd : s.drives m 7 = true) :
    exec (.tmbCapcfgWrite m k v) s = .next (s.tmbCapWrite k.val v).pump := by
  have hk := k.isLt
  have hw : s.tmbWrite (0x800 + 0x20 * k.val) v = some (s.tmbCapWrite k.val v) := by
    have h8 : ¬ 0x800 + 0x20 * k.val = 8 := by omega
    have hout : ¬ (0x100 ≤ 0x800 + 0x20 * k.val ∧ 0x800 + 0x20 * k.val < 0x500) := by omega
    have hin : 0x800 ≤ 0x800 + 0x20 * k.val ∧ 0x800 + 0x20 * k.val < 0xC00 := by omega
    have hr : (0x800 + 0x20 * k.val) % 0x20 = 0 := by omega
    have hq : (0x800 + 0x20 * k.val - 0x800) / 0x20 = k.val := by omega
    simp only [State.tmbWrite, if_neg h8, if_neg hout, if_pos hin, hr, hq]
  exact (congrArg (fun a => s.rowWrite m (bar0At a) v) (by simp only [kCap]; omega)).trans (rowWrite_tmb hd (by omega) (by omega) hw)

theorem State.pageRead_capt {s : State} {k o : Nat} (hk : k < 32) (ho : o = 0x800 + 0x20 * k + 0xC) (hr : s.ready = true)
    (hp : s.pageAbsent 7 = false) : s.pageRead 7 o = s.capRead k := by
  have hin : 0x800 ≤ o ∧ o < 0xC00 ∧ o % 0x20 = 0xC := by omega
  have hq : (o - 0x800) / 0x20 = k := by omega
  have h0 : ¬ o = 0 := by omega
  unfold State.pageRead
  simp [hr, hp, writeOnly, wideReg, hin, hq, h0]

/-- Row TMB_CAPT_LO_READ answers with the oldest capture (R452). -/
theorem execTmbCaptLoRead_views {s : State} {m : Master} {k : Fin 32} (hv : s.views m 7 = true) :
    exec (.tmbCaptLoRead m k) s = .next ((s.capRead k.val).2.answer [(s.capRead k.val).1]).pump := by
  obtain ⟨-, hr, hp, -⟩ := State.views_parts hv
  have hk := k.isLt
  rw [← State.pageRead_capt hk rfl hr hp, ← rowRead_page (by decide) (by decide) (by decide) hv (by omega) (by omega), ← kCap_add_eq]
  rfl

/-! ### What the interrupt of a capture channel leaves of the time base -/

/-- The capture channels and the registers of the time base page are the same. -/
structure TmbKeep (s t : State) : Prop where
  caps : t.caps = s.caps
  regs : ∀ o, o < 0x10000 → t.reg (kTMB + o) = s.reg (kTMB + o)

namespace TmbKeep

theorem refl (s : State) : TmbKeep s s := ⟨rfl, fun _ _ => rfl⟩

theorem ite {c : Prop} [Decidable c] {s0 a b : State} (ha : TmbKeep s0 a) (hb : TmbKeep s0 b) : TmbKeep s0 (if c then a else b) := by
  split
  · exact ha
  · exact hb

variable {s0 s : State} (h : TmbKeep s0 s)
include h

theorem cap (k : Nat) : s.cap k = s0.cap k := congrArg (fun c => Tbl.get (fun _ => capInit) c k) h.caps

theorem msix (fn : Nat) {v : Nat} (hv : v < 64) : TmbKeep s0 (s.msix fn v) := by
  have hk : ∀ o, o < 0x10000 → kTMB + o ≠ msixPba fn + 4 * (v / 32) := by
    intro o ho
    unfold msixPba kTMB
    split
    · omega
    · simp only [kPF1, kDB]; omega
  have hpend : TmbKeep s0 (s.setB (msixPba fn + 4 * (v / 32)) (v % 32) true) :=
    ⟨h.caps, fun o ho => (s.setReg_reg_ne _ (hk o ho)).trans (h.regs o ho)⟩
  unfold State.msix
  exact ite h (ite hpend ⟨h.caps, h.regs⟩)

theorem deliver (i : Nat) : TmbKeep s0 (s.deliver i) := by
  have hg : s.planGrp i < 64 := Nat.mod_lt _ (by decide)
  unfold State.deliver
  exact ite (h.msix 0 hg) (ite (h.msix 1 (by omega)) h)

/-- A level source delivers by an MSI-X message or as a core's request level (R435). -/
theorem level (i : Nat) (b : Bool) : TmbKeep s0 (s.level i b) := by
  have hsrc : TmbKeep s0 (s.setSrc i { s.src i with inp := b, pend := b }) := ⟨h.caps, h.regs⟩
  have hd := hsrc.deliver i
  unfold State.level State.notify
  exact ite h (ite ⟨hd.caps, hd.regs⟩ hsrc)

end TmbKeep

/-- A stored capture channel changes `TMB_CAPSTAT` of the channel alone. -/
theorem State.setCap_reads (s : State) {k : Nat} (v : CapCh) (hk : k < 32) :
    (s.setCap k v).cap k = v ∧ ∀ o, o ≠ 8 → o < 0x20 → (s.setCap k v).reg (kCap k + o) = s.reg (kCap k + o) := by
  have hl := (TmbKeep.refl (State.setF { s with caps := Tbl.set (fun _ => capInit) s.caps k v } (kCap k + 8) 0 3 v.fifo.length)).level
    (328 + k) (!v.fifo.isEmpty)
  refine ⟨(hl.cap k).trans (Tbl.get_set_same _ _ _ _), fun o ho hlt => ?_⟩
  have hat : kCap k + o = kTMB + (0x800 + 0x20 * k + o) := kCap_add_eq k o
  rw [hat]
  refine (hl.regs _ (by omega)).trans ?_
  rw [← hat]
  exact State.setReg_reg_ne _ _ (by omega)

/-- The registers beside `TMB_CAPT_LO` hold the rest of a capture (R452). -/
def State.capLatched (s : State) (k : Nat) (x : Cap) : State :=
  (((s.setReg (kCap k + 0x10) (hi32 x.time)).setReg (kCap k + 0x14) (lo32 x.frame)).setReg (kCap k + 0x18) (hi32 x.frame)).setReg
    (kCap k + 0x1C) (wd (b2n x.beamv * 2 ^ 31 + x.y % 2 ^ 14 * 2 ^ 16 + x.x % 2 ^ 14))

/-- The rewrites keep the kernel from comparing the register tables of the two states. -/
theorem State.capLatched_cap (s : State) (k : Nat) (x : Cap) : (s.capLatched k x).cap k = s.cap k := by
  rw [State.cap, State.capLatched, State.setReg_caps, State.setReg_caps, State.setReg_caps, State.setReg_caps, State.cap]

theorem State.capLatched_reg (s : State) (k : Nat) (x : Cap) :
    (s.capLatched k x).reg (kCap k + 0x10) = hi32 x.time ∧ (s.capLatched k x).reg (kCap k + 0x14) = lo32 x.frame ∧
      (s.capLatched k x).reg (kCap k + 0x18) = hi32 x.frame := by
  simp (disch := omega) only [State.capLatched, State.setReg_reg_same, State.setReg_reg_ne, and_self]

/-- The oldest capture leaves its FIFO (R452). -/
theorem State.capRead_oldest {s : State} {k : Nat} {x : Cap} {rest : List Cap} (hf : (s.cap k).fifo = x :: rest) :
    s.capRead k = (lo32 x.time, (s.capLatched k x).setCap k ⟨rest, (s.cap k).pre⟩) := by
  rw [← s.capLatched_cap k x, State.capRead, hf, State.capLatched]

/-! ### The rows -/

/-- Settles O18: each row is its register's own access, whose lemma says what it does. -/
theorem headAndTimeRegisters : Obligations.HeadAndTimeRegisters := by
  refine ⟨?_, ?_, ?_, ?_, ?_, ?_, ?_, ?_, ?_, ?_⟩
  · intro s m h v hd hg hl
    rw [execHdCommitGo_drives v hd, State.requestCommit_in_time hg hl]
  · intro s m h v hd hg hl t
    rw [execHdCommitGo_drives v hd, State.requestCommit_late hg hl]
  · intro s m h v hd hg
    rw [execHdCommitGo_drives v hd, State.requestCommit_pending hg]
  · intro s m h x rest hv hf
    rw [execHdBstsLoRead_views hv, State.bstsRead, hf]
  · intro s m h hv hf
    rw [execHdBstsLoRead_views hv, State.bstsRead, hf]
  · intro s m k v hd c
    rw [execTmbCmpArm_drives v hd, State.tmbCmpWrite_arms]
  · intro s m k v hd hf
    rw [execTmbCapcfgWrite_drives v hd, State.tmbCapWrite, if_neg (by rw [hf]; decide)]
  · intro s m k v hd hf
    rw [execTmbCapcfgWrite_drives v hd, State.tmbCapWrite, if_pos hf]
  · intro s m k x rest hv hf
    obtain ⟨hcap, hregs⟩ := (s.capLatched k.val x).setCap_reads ⟨rest, (s.cap k.val).pre⟩ k.isLt
    obtain ⟨hhi, hflo, hfhi⟩ := s.capLatched_reg k.val x
    exact ⟨_, (execTmbCaptLoRead_views hv).trans (by rw [State.capRead_oldest hf]), hcap, (hregs 0x10 (by decide) (by decide)).trans hhi,
      (hregs 0x14 (by decide) (by decide)).trans hflo, (hregs 0x18 (by decide) (by decide)).trans hfhi⟩
  · intro s m k hv hf c
    rw [execTmbCaptLoRead_views hv, State.capRead, hf]

end Sys2Proof.Machine

namespace Sys2Proof.Machine

/-! ## The Shutter and the Mantel fault -/

/-- A moving head that stands before a place of its frame is there at once. -/
theorem State.runBefore_here {s : State} {h x y : Nat} (hp : (s.head h).phase = .frame) (hg : s.gliding h = false)
    (hj : s.place' h + 1 = beamIndex (s.cmSet h) x y) : s.runBefore h x y = some s := by
  refine if_pos ?_
  simp [hp, hg, hj]

/-- A layer that is still shown is switched off, and the switch-off is recorded (R219). -/
theorem State.shutter_on {s : State} {h l : Nat} (y : Nat) (ho : s.layerOff h l = false) :
    let t := (s.shutterFirst h y).setB (kShutter h) l true
    s.shutter h l y = t.errRec sevContained (uHead h) 0x0011 l .ok (wd y) (lo32 (t.frame h)) :=
  if_neg (Bool.eq_false_iff.1 ho)

theorem State.layerFails_here {s : State} {h x y : Nat} (l : Nat) (hr : s.runBefore h x y = some s) : s.layerFails h l x y = s.shutter h l y := by
  simp only [State.layerFails, hr]

/-- The line buffer fails under a Mantel that is enabled and has content (R232). -/
theorem State.mantelFails_buffer {s : State} {h x y : Nat} (hr : s.runBefore h x y = some s) (he : s.mantelEn h = true)
    (hn : s.noContent h = false) : s.mantelFails h (.buffer x) y = s.mantelFault h y := by
  simp only [State.mantelFails, hr, he, hn, Bool.not_false, Bool.and_self, if_true]

/-- A spoilt word of the store shows in the first pixel clock that raises FAULT (R232). -/
theorem State.mantelFails_store {s : State} {h k : Nat} {i : BitVec 16} (h0 : 0 < k) (hk : k ≤ (s.mantelSpoil h i.toNat).ticksLeft h)
    (hf : (Nat.repeat (fun s => s.tick h false) k (s.mantelSpoil h i.toNat)).regB (kMstat h) 31 = true)
    (hj : ∀ j, 0 < j → j < k → (Nat.repeat (fun s => s.tick h false) j (s.mantelSpoil h i.toNat)).regB (kMstat h) 31 = false) :
    s.mantelFails h (.store i) 0 = Nat.repeat (fun s => s.tick h false) k (s.mantelSpoil h i.toNat) := by
  simp only [State.mantelFails, if_true, advanceUntil_first (p := fun s => s.regB (kMstat h) 31) h0 hk hf hj, Option.getD_some]

/-! ## The end of a writeback line -/

theorem State.runWbLine_first {s : State} {h k : Nat} {drop : Bool} (h0 : 0 < k) (hk : k ≤ s.ticksLeft h)
    (hd : tWbLine ∈ ((Nat.repeat (fun s => s.tick h drop) k s).head h).did)
    (hj : ∀ j, 0 < j → j < k → tWbLine ∉ ((Nat.repeat (fun s => s.tick h drop) j s).head h).did) :
    s.runWbLine h drop = Nat.repeat (fun s => s.tick h drop) k s := by
  rw [State.runWbLine, advanceUntil_first h0 hk (by simpa using hd) fun j j0 jk => by simpa using hj j j0 jk]
  rfl

theorem Scans.ticksLeft_pos {s : State} {h : Nat} (hs : Scans s h) : 0 < s.ticksLeft h := by
  have hl := hs.left
  simp only [State.ticksLeft, hs.frame, hs.moves, decide_true, Bool.not_false, Bool.and_self, if_true]
  omega

/-- Where the next pixel clock ends a line of writeback, the run to the end of the line is that pixel clock. -/
theorem Scans.runWbLine_next {s : State} {h : Nat} {drop : Bool} (hs : Scans s h) (hd : tWbLine ∈ ((s.tick h drop).head h).did) :
    s.runWbLine h drop = s.tick h drop :=
  State.runWbLine_first (k := 1) Nat.one_pos hs.ticksLeft_pos hd fun j _ _ => by omega

/-- A pixel clock up to its pixel is the same whether writeback drops the line or not. -/
theorem tick_eq_draw (s : State) (h : Nat) (drop : Bool) :
    let p := posAt (s.cmSet h) (s.nextPlace h)
    s.tick h drop = ((s.showAt h).tickVoice h p.1 p.2).tickDraw h (s.nextPlace h) drop := by
  have hsp := cmSet_of_opened (State.tickSprite_grow (spriteTurn_grow s h) (a1 := h) (a2 := s.nextPlace h))
  have hout := cmSet_of_opened (outAt_grow s h)
  intro p
  have hleave : s.tick h drop = (s.outAt h).tickShow h (s.nextPlace h) drop := by
    unfold State.outAt State.leaveAt
    rw [← hsp]
    rfl
  rw [hleave]
  unfold State.tickShow State.showAt
  rw [hout]

/-- The last pixel of a line ends the line for writeback (R239). -/
theorem State.pixel_ends_line {s : State} {h x y : Nat} (drop : Bool) (hx : x + 1 = gHact (s.cmSet h)) (he : wbEn (s.cmSet h) = true) :
    s.pixel h x y drop = ((s.pixelOut h x y).wbLine h y drop).mark h tWbLine := by
  have hc : (s.pixelOut h x y).cmSet h = s.cmSet h := (State.pixelOut_grow (Grow.refl s)).cmSet h
  simp only [State.pixel, hc, hx, he, if_true]

/-- A pixel clock that shows the last pixel of a line ends the line for writeback (R239). -/
theorem tick_ends_line {s : State} {h : Nat} (drop : Bool) :
    let p := posAt (s.cmSet h) (s.nextPlace h)
    p.2 < gVact (s.cmSet h) → p.1 + 1 = gHact (s.cmSet h) → wbEn (s.cmSet h) = true →
    s.tick h drop = (((((s.showAt h).tickVoice h p.1 p.2).pixelOut h p.1 p.2).wbLine h p.2 drop).mark h tWbLine).fetchedPast h (s.nextPlace h) := by
  intro p hy hx he
  have hc : ((s.showAt h).tickVoice h p.1 p.2).cmSet h = s.cmSet h :=
    cmSet_of_opened (State.tickVoice_grow (grow_ite (fun _ => State.tickLine_grow (outAt_grow s h)) fun _ => outAt_grow s h))
  have hin : p.2 < gVact (s.cmSet h) ∧ p.1 < gHact (s.cmSet h) := ⟨hy, by omega⟩
  rw [tick_eq_draw]
  unfold State.tickDraw
  rw [hc, ← State.pixel_ends_line drop (by rw [hc]; exact hx) (by rw [hc]; exact he)]
  exact if_pos hin

/-! ## Writes that land and admissions that end -/

/-- The admission that the Study has begun for a head is decided, where no earlier one of that head is pending (R229). -/
theorem State.mantelAdmit_open {s : State} {h : Nat} {o : Open} (hp : (s.head h).mt.pend = none)
    (ho : (s.foy.opens.find? fun o => o.begun && o.fin.isNone && decide (o.wait = .mantel h)) = some o) :
    s.mantelAdmit h = s.mantelAdmitOpen h o := by
  unfold State.mantelAdmit
  rw [hp, ho]
  rfl

/-- Settles O29: each row acts while its unit runs, and the lemma of what it does to the layer says the rest. -/
theorem layerRows : Obligations.LayerRows := by
  refine ⟨?_, ?_, ?_, ?_, ?_, ?_, ?_⟩
  · intro s h l x y hfull hp hg hj ho
    exact State.quietly_next (f := fun s => s.layerFails h.val l.val x y) hfull
      ((State.layerFails_here l.val (State.runBefore_here hp hg hj)).trans (State.shutter_on y ho))
  · intro s h x y hfull hp hg hj he hn
    exact State.quietly_next (f := fun s => s.mantelFails h.val (.buffer x) y) hfull
      (State.mantelFails_buffer (State.runBefore_here hp hg hj) he hn)
  · intro s h i k at' hfull h0 hk hf hj
    exact State.quietly_next (f := fun s => s.mantelFails h.val (.store i) 0) hfull (State.mantelFails_store h0 hk hf hj)
  · intro s h drop k at' hfull h0 hk hd hj
    exact State.quietly_next (f := fun s => s.runWbLine h.val drop) hfull (State.runWbLine_first h0 hk hd hj)
  · intro s h drop hs p hy hx he
    have ht := tick_ends_line drop hy hx he
    refine State.quietly_next (f := fun s => s.runWbLine h.val drop) hs.full ((hs.runWbLine_next ?_).trans ht)
    rw [ht]
    exact (State.fetchedPast_grow (Grow.refl _)).marked
  · intro s h hfull hheld
    exact State.quietly_next (f := fun s => s.runLand h.val) hfull (if_pos hheld)
  · intro s h o hlive hstudy hp ho
    exact State.working_next (f := fun s => if s.studyUp then s.mantelAdmit h.val else s) hlive
      ((if_pos hstudy).trans (State.mantelAdmit_open hp ho))

end Sys2Proof.Machine

namespace Sys2Proof.Machine

/-! ## What a beam entry does -/

section Entry
variable {s : State} {h i e : Nat} {fl : List Nat}

theorem State.bsEntry_end (ho : entOp e = 0) : s.bsEntry h i e fl = (s.mark h (entOp e)).bsEnd h := by
  simp only [State.bsEntry, ho]

theorem State.bsEntry_wait (ho : entOp e = 1 ∨ entOp e = 2) :
    let t := s.mark h (entOp e)
    s.bsEntry h i e fl = t.bsWait h i (t.bsTarget h e) := by
  rcases ho with ho | ho <;> simp only [State.bsEntry, ho]

theorem State.bsEntry_move (ho : entOp e = 3) :
    s.bsEntry h i e fl = ((s.mark h (entOp e)).bsWrite h i (entWrites e [])).bsNext h (i + 1) 1 := by
  simp only [State.bsEntry, ho]

theorem State.bsEntry_movem (ho : entOp e = 4) :
    s.bsEntry h i e fl = ((s.mark h (entOp e)).bsWrite h i (entWrites e fl)).bsNext h (i + 1 + fl.length) (1 + fl.length) := by
  simp only [State.bsEntry, ho]

theorem State.bsEntry_skipif_goes_on (ho : entOp e = 5) (hc : (s.mark h (entOp e)).bsCond h e = false ∨ ef e 48 8 = 0) :
    s.bsEntry h i e fl = (s.mark h (entOp e)).bsNext h (i + 1) 1 := by
  rw [ho] at hc ⊢
  simp only [State.bsEntry, ho]
  refine if_neg ?_
  rcases hc with hc | hc <;> simp [hc]

theorem State.bsEntry_skipif_skips (ho : entOp e = 5) (hc : (s.mark h (entOp e)).bsCond h e = true) (hn : ef e 48 8 ≠ 0) :
    s.bsEntry h i e fl = (s.mark h (entOp e)).bsBranch h (i + 1 + ef e 48 8) 1 := by
  rw [ho] at hc ⊢
  simp only [State.bsEntry, ho]
  exact if_pos (by simp [hc, hn])

theorem State.bsEntry_jump (ho : entOp e = 6) (hm : ef e 58 2 = 0) :
    s.bsEntry h i e fl = (s.mark h (entOp e)).bsBranch h (ef e 0 15) 2 := by
  simp only [State.bsEntry, ho, hm]

theorem State.bsEntry_load_lc0 (ho : entOp e = 6) (hm : ef e 58 2 = 1) (hc : ef e 57 1 = 0) :
    s.bsEntry h i e fl = ((s.mark h (entOp e)).updBs h fun b => { b with lc0 := ef e 32 16 }).bsNext h (i + 1) 1 := by
  simp only [State.bsEntry, ho, hm, hc, Nat.zero_ne_one, if_false]

theorem State.bsEntry_load_lc1 (ho : entOp e = 6) (hm : ef e 58 2 = 1) (hc : ef e 57 1 = 1) :
    s.bsEntry h i e fl = ((s.mark h (entOp e)).updBs h fun b => { b with lc1 := ef e 32 16 }).bsNext h (i + 1) 1 := by
  simp only [State.bsEntry, ho, hm, hc, if_true]

/-- A JUMP on the loop counter 0 goes by whether it is 0, and counts it down where it is not (R186). -/
theorem State.bsEntry_count_lc0 (ho : entOp e = 6) (hm : 2 ≤ ef e 58 2) (hc : ef e 57 1 = 0) :
    let t := s.mark h (entOp e)
    s.bsEntry h i e fl = if (t.head h).bs.lc0 = 0 then t.bsNext h (i + 1) 1
      else (t.updBs h fun b => { b with lc0 := (t.head h).bs.lc0 - 1 }).bsBranch h (ef e 0 15) 2 := by
  obtain ⟨m, hm⟩ : ∃ m, ef e 58 2 = m + 2 := ⟨ef e 58 2 - 2, by omega⟩
  simp only [State.bsEntry, ho, hm, hc, Nat.zero_ne_one, if_false]

theorem State.bsEntry_irq (ho : entOp e = 7) :
    s.bsEntry h i e fl = ((s.mark h (entOp e)).bsSchedule h (.irq (ef e 0 8))).bsNext h (i + 1) 1 := by
  simp only [State.bsEntry, ho]

theorem State.bsEntry_stamp (ho : entOp e = 8) :
    s.bsEntry h i e fl = ((s.mark h (entOp e)).bsSchedule h (.stamp (ef e 0 4))).bsNext h (i + 1) 1 := by
  simp only [State.bsEntry, ho]

/-- FENCE holds until 24 clocks after the last anchor, and for a clock at least (R198). -/
theorem State.bsEntry_fence (ho : 9 ≤ entOp e) :
    let t := s.mark h (entOp e)
    let b := (t.head h).bs
    s.bsEntry h i e fl = (t.setB (kBsStat h) 30 true).updBs h fun b' =>
      { b' with hold := .fence (max (b.clk + 1) (if b.lastAt = 0 then 0 else b.clock (s.cmSet h) b.lastAt + 24)) } := by
  obtain ⟨m, hm⟩ : ∃ m, entOp e = m + 9 := ⟨entOp e - 9, by omega⟩
  simp only [State.bsEntry, hm]

/-- A wait for a place that is not in the frame holds for good (R184). -/
theorem State.bsWait_never : s.bsWait h i none =
    (((s.bsNext h (i + 1) 1).bsNext h i 0).setB (kBsStat h) 30 true).updBs h fun b => { b with hold := .never } := rfl

/-- A wait for a place that the fetch position has not reached holds until it does (R184). -/
theorem State.bsWait_ahead {w : Nat} (hw : (s.head h).bs.pix (s.cmSet h) (s.head h).bs.clk + lead < w) : s.bsWait h i (some w) =
    (((s.bsNext h (i + 1) 1).bsNext h i 0).setB (kBsStat h) 30 true).updBs h fun b => { b with hold := .until_ w } :=
  if_neg (Nat.not_le.2 hw)

/-- Every entry marks its operation, whatever else it does. -/
theorem State.bsEntry_marks : Grow (s.mark h (entOp e)) (s.bsEntry h i e fl) := by
  have g := Grow.refl (s.mark h (entOp e))
  unfold State.bsEntry
  extract_lets cm t
  split
  · exact State.bsEnd_grow g
  · exact State.bsWait_grow g
  · exact State.bsWait_grow g
  · exact State.bsNext_grow (State.bsWrite_grow g)
  · exact State.bsNext_grow (State.bsWrite_grow g)
  · exact grow_ite (fun _ => State.bsBranch_grow g) fun _ => State.bsNext_grow g
  · split
    · exact State.bsBranch_grow g
    · exact State.bsNext_grow (State.updBs_grow g)
    · exact grow_ite (fun _ => State.bsNext_grow g) fun _ => State.bsBranch_grow (State.updBs_grow g)
  · exact State.bsNext_grow (State.bsSchedule_grow g)
  · exact State.bsNext_grow (State.bsSchedule_grow g)
  · exact State.updBs_grow (State.setB_grow g)

/-! ## The entry at PC, in the next pixel clock -/

/-- An entry whose data lie in its own line takes them from there. -/
theorem map_in_line {α : Type} {d : Nat} (f g : Nat → α) (hl : (i + d) / 8 = i / 8) :
    ((List.range d).map fun k => if (i + 1 + k) / 8 = i / 8 then f (i + 1 + k) else g (i + 1 + k)) =
      (List.range d).map fun k => f (i + 1 + k) :=
  List.map_congr_left fun k hk => if_pos (by have := List.mem_range.1 hk; omega)

/-- A sound entry whose line is in the buffer, with its data, executes after the prefetch of the line behind it (R181, R202). -/
theorem State.bsExec_entry (hpc : (s.head h).bs.pc = i) (hh : s.bsHeld h (i / 8) = true) (hw : s.bsEnt h i = some e)
    (hn : i + entData e < fld (s.cm h 0x908) 0 16) (hl : (i + entData e) / 8 = i / 8)
    (hd : ((List.range (entData e)).map fun k => s.bsEnt h (i + 1 + k)) = fl.map some)
    (hs : entCause (fld (s.cm h 0x908) 0 16) i e (fun _ => false) (some fl) = 0) :
    s.bsExec h = (s.bsPrefetch h (i / 8)).bsEntry h i e fl := by
  have hin : ¬ fld (s.cm h 0x908) 0 16 ≤ i := by omega
  have hhave : s.bsHave h (i / 8) = (true, s) := if_pos hh
  have hget : (fl.map some).map (·.getD 0) = fl := by simp
  have hall : (fl.map some).any (·.isNone) = false := by simp
  unfold State.bsExec
  simp only [hpc, hin, hhave, hw, hn, hl, map_in_line, hd, hget, hall, hs, if_true, if_false, decide_true, Bool.not_true, Bool.and_false,
    Bool.false_eq_true, ne_eq, not_true_eq_false, decide_false, Option.getD_some]

theorem State.bsClocks_exec {u : State} {j n : Nat} (hr : u.bsRun h = true) (hh : (u.head h).bs.hold = .none)
    (hc : (u.head h).bs.pix (u.cmSet h) (u.head h).bs.clk ≤ j) : State.bsClocks h j (n + 1) u = State.bsClocks h j n (u.bsExec h) := by
  rw [State.bsClocks]
  simp only [hr, hh, hc, Bool.not_true, Bool.false_eq_true, if_false, if_true]

/-- The state in which the entry at PC executes: its line has been taken and the one behind it prefetched. -/
def State.entryAt (s : State) (h i : Nat) : State := (s.seqAt h).bsPrefetch h (i / 8)

theorem State.entryAt_cmSet : (s.entryAt h i).cmSet h = s.cmSet h := cmSet_of_opened (State.bsPrefetch_grow (seqAt_grow s h))

/-- An entry that executes in the next pixel clock is the first thing the sequencer does there. -/
theorem Executes.tick_eq (x : Executes s h i e fl) : s.tick h false = s.seqOn ((s.entryAt h i).bsEntry h i e fl) h 63 := by
  have hg : (s.seqAt h).cmSet h = s.cmSet h := cmSet_of_opened (seqAt_grow s h)
  have hn : (s.seqAt h).cm h 0x908 = s.cm h 0x908 := congrFun hg 0x908
  have hc := State.bsClocks_exec (j := s.nextPlace h) (n := 63) x.run x.free (by rw [hg]; exact x.due)
  rw [State.bsExec_entry x.pc x.held x.word (by rw [hn]; exact x.inside) x.line x.data (by rw [hn]; exact x.sound)] at hc
  rw [tick_eq_seqOn]
  exact congrArg (fun u => u.tickRest h (s.nextPlace h) false) hc

/-- The row of an entry that executes in the next pixel clock ends there, with what the entry does. -/
theorem Executes.row (x : Executes s h i e fl) {op : Nat} {v : State} (ho : entOp e = op) (hv : (s.entryAt h i).bsEntry h i e fl = v) :
    s.quietly s.full (fun s => s.runTo h op) = .next (s.seqOn v h 63) := by
  subst ho hv
  exact x.toScans.event x.tick_eq (seqOn_grow s State.bsEntry_marks).marked

end Entry

/-- Settles O28: a row ends with what its entry does by `Executes.row`, and the lemma of each operation says what that is. -/
theorem beamEntries : Obligations.BeamEntries := by
  refine ⟨?_, ?_⟩
  · intro s h i e fl x u then'
    refine ⟨fun ho => x.row ho (State.bsEntry_end ho), fun ho => x.row ho (State.bsEntry_wait (.inl ho)),
      fun ho => x.row ho (State.bsEntry_wait (.inr ho)), fun ho => x.row ho (State.bsEntry_move ho),
      fun ho => x.row ho (State.bsEntry_movem ho), fun ho hc => x.row ho (State.bsEntry_skipif_goes_on ho hc),
      fun ho hc hn => x.row ho (State.bsEntry_skipif_skips ho hc hn), fun ho hm => x.row ho (State.bsEntry_jump ho hm),
      fun ho hm hc => x.row ho (State.bsEntry_load_lc0 ho hm hc), fun ho hm hc => x.row ho (State.bsEntry_load_lc1 ho hm hc),
      fun ho => x.row ho (State.bsEntry_irq ho), fun ho => x.row ho (State.bsEntry_stamp ho), fun ho => ?_⟩
    exact State.entryAt_cmSet ▸ x.row ho (State.bsEntry_fence ho.ge)
  · intro s h i e fl t
    refine ⟨State.bsEntry_end, fun ho hw => ?_, fun w ho hw ha => ?_, State.bsEntry_move, State.bsEntry_movem,
      fun ho hc => State.bsEntry_skipif_goes_on ho (.inl hc), State.bsEntry_skipif_skips, State.bsEntry_jump, State.bsEntry_load_lc0,
      fun ho hm hc hz => ?_, fun ho hm hc hz => ?_, State.bsEntry_irq, State.bsEntry_stamp, fun ho => ⟨_, State.bsEntry_fence ho⟩⟩
    · rw [State.bsEntry_wait ho, hw, State.bsWait_never]
    · rw [State.bsEntry_wait ho, hw]
      exact State.bsWait_ahead ha
    · rw [State.bsEntry_count_lc0 ho hm hc, if_pos hz]
    · rw [State.bsEntry_count_lc0 ho hm hc, if_neg hz]

end Sys2Proof.Machine

namespace Sys2Proof.Machine

/-! ## The Mantel packets -/

/-- A command is not an earlier one than itself, so the only open command has no `MANTEL_SET` before it (R229). -/
theorem mantelBehind_alone {o : Open} {t : State} (ho : t.foy.opens = [o]) : mantelBehind o t = false := by
  simp only [mantelBehind, ho, List.any_cons, List.any_nil, Nat.lt_irrefl, decide_false, Bool.and_false, Bool.false_and, Bool.or_false]

/-- A `MANTEL_SET` that the Foyer and the Study allow waits for its swap, unless an earlier one of its head is still open (R227, R229). -/
theorem beginMantelSet_waits {o : Open} {t : State} (hf : mantelFoyer o t = none) (hb : mantelBehind o t = false) (hs : mantelStudy o t = none) :
    beginMantelSet o t = (.wait (.mantel (fld (pw o.pkt 0) 0 5)), t) := by
  simp only [beginMantelSet, hf, hb, hs, Bool.false_eq_true, if_false]

/-- Settles O7: nothing else is open, so the command begins and waits, and the rows of the three forms are the same packet. -/
theorem mantelPackets : Obligations.MantelPackets := by
  intro s p hT t o t' hf hs
  have hbehind : mantelBehind o t = false := mantelBehind_alone (admitted_opens hT.quiet)
  have hrun : s.packet .mantelSet p = .next t' := packet_wait hT (beginMantelSet_waits hf hbehind hs) rfl ⟨nofun, nofun⟩
  exact ⟨hrun, hrun, hrun⟩

end Sys2Proof.Machine

namespace Sys2Proof.Machine

/-! ## The packets of the Study -/

/-- An `ATTEST_QUOTE` whose buffer holds a quote without entries writes one with as many entries as fit (R493). -/
theorem beginAttestQuote_done {o : Open} (t : State) (hn : 480 ≤ (pw o.pkt 10).toNat) :
    let q := t.quote (srcRing o.pkt.ring) (((pw o.pkt 10).toNat - 480) / 96) (wsBytes ((List.range 8).map (pw o.pkt)))
    beginAttestQuote o t = (.done ⟨.ok, 0, wd q.length, 0, 0⟩, t.hostWrite (pd o.pkt 8) q) := by
  rw [beginAttestQuote, if_neg (Nat.not_lt.2 hn)]

/-- A `BOOTLOG_READ` that its checks allow writes the records held from its sequence number on, as many as fit (R492). -/
theorem beginBootlogRead_done {o : Open} {t : State} (hf : bootlogReadFault o t = none) :
    let l := (t.bootRecords.filter fun r => decide ((pw o.pkt 3).toNat ≤ recSeq r)).take ((pw o.pkt 2).toNat / 1024)
    beginBootlogRead o t = (.done ⟨.ok, 0, wd l.length, 0, 0⟩, t.hostWrite (pd o.pkt 0) l.flatten) := by
  rw [beginBootlogRead, hf]

/-- The receipts of a head that had none start anew: sequence 0, and the next one is marked as the first (R274, R277). -/
def State.receiptsStart (s : State) (h n : Nat) : State :=
  if s.reg (kEvery h) = 0 ∧ n ≠ 0 then (s.setW64 (kRseq h) 0).updIg h fun g => { g with start := true } else s

theorem State.receiptsStart_keep {s : State} {h n : Nat} : Keep s (s.receiptsStart h n) :=
  keep_ite (fun _ => State.updIg_keep (State.setW64_keep (Keep.refl s))) fun _ => Keep.refl s

theorem beginReceiptConfig_done {o : Open} {t : State} (hf : receiptConfigFault o t = none) :
    let h := fld (pw o.pkt 0) 0 5
    let n := fld (pw o.pkt 1) 0 16
    beginReceiptConfig o t = (.done repOk, (t.receiptsStart h n).setReg (kEvery h) (wd n)) := by
  simp only [beginReceiptConfig, hf, State.receiptsStart, Bool.and_eq_true, decide_eq_true_eq]

/-- A `RECEIPT_READ` from an index that is closed writes the batches from there on that fit and gives their number, unless none fits or one cannot be read (R281). -/
theorem beginReceiptRead_done {o : Open} {t : State} {new : Word} {first : Nat} {r : (Nat × Bool) × State}
    (hnew : t.reg kBatchNew = new)
    (hfirst : max (pw o.pkt 3).toNat (t.reg kBatchOld).toNat = first)
    (hr : batchesOut (pd o.pkt 0) (pw o.pkt 2).toNat (new.toNat + 1 - first) first 0 0 t = r)
    (hany : new ≠ 0xFFFFFFFF) (hclosed : (pw o.pkt 3).toNat ≤ new.toNat) (hread : r.1.2 = false) (hfit : r.1.1 ≠ 0) :
    beginReceiptRead o t = (.done ⟨.ok, 0, wd r.1.1, wd first, new⟩, r.2) := by
  have hheld : ¬ (decide (new = 0xFFFFFFFF) || decide (new.toNat < (pw o.pkt 3).toNat)) = true := by
    simp only [decide_eq_false hany, decide_eq_false (Nat.not_lt.2 hclosed), Bool.or_self, Bool.false_eq_true, not_false_iff]
  subst hnew hfirst hr
  simp only [beginReceiptRead, if_neg hheld, hread, if_neg hfit, Bool.false_eq_true, if_false]

/-- Settles O12: each packet is answered as its clause says, and `packet_done` gives the Foyer's whole run from that answer. -/
theorem studyPackets : Obligations.StudyPackets := by
  refine ⟨?_, ?_, ?_, ?_⟩
  · intro s p hT t o q hn
    exact packet_done hT nofun (beginAttestQuote_done (o := o) t hn) rfl
  · intro s p hT t o l hf
    exact packet_done hT nofun (beginBootlogRead_done (o := o) hf) rfl
  · intro s p hT t o h n hf
    exact packet_done hT nofun (beginReceiptConfig_done (o := o) hf) (State.setReg_keep State.receiptsStart_keep).opens
  · intro s p hT t o new first r hany hclosed hread hfit
    exact packet_done hT nofun (beginReceiptRead_done (o := o) rfl rfl rfl hany hclosed hread hfit) (batchesOut_keep (Keep.refl t)).out.opens

end Sys2Proof.Machine

namespace Sys2Proof.Machine

/-! ## Receipt batches and the boot log -/

/-- An open batch closes when 100 ms have gone by since its first receipt (R279). -/
theorem State.batchTime_closes {s : State} (hup : s.studyUp = true) (hopen : s.att.batch ≠ [])
    (hold : 100000000 ≤ (s.now - s.att.batchOpen).toNat) :
    s.batchTime = s.batchClose := by
  have hdue : (s.studyUp && !s.att.batch.isEmpty && (decide (64 ≤ s.att.batch.length)
      || decide (100000000 ≤ (s.now - s.att.batchOpen).toNat))) = true := by
    simp only [hup, List.isEmpty_eq_false_iff.2 hopen, decide_eq_true hold, Bool.not_false, Bool.or_true, Bool.and_self]
  rw [State.batchTime, if_pos hdue]

/-- The boot record that the log does not hold goes into it, with source 26 and a record for each event of the boot (R475). -/
theorem State.bootLogAppend_appends {s : State} {a b : Nat} (hrun : s.phase = .run) (hbooted : s.booted = true) (hrec : s.att.boot ≠ [])
    (hgood : s.regB kLogStat 31 = false) (hnew : s.logRecords.contains s.att.boot = false) (hok : (s.logAppend s.att.boot a b).1 = true) :
    let r := (s.logAppend s.att.boot a b).2
    let t := (r.setF kLogStat 16 10 (min 1023 r.badBlocks)).pulse 26
    let st := t.reg kBootStat
    s.bootLogAppend a b = t.each ([(1, decide (fld st 8 4 ≠ 0)), (2, t.att.fuseRefused), (3, bit st bSpi1), (4, false)].filter (·.2))
      fun s (e : Nat × Bool) => s.errRec sevInfo 0x0D 0x0070 e.1 .ok st (s.reg kLogStat) := by
  have hheld : ¬ (!(decide (s.phase = .run) && s.booted) || s.att.boot.isEmpty || s.regB kLogStat 31) = true := by
    simp [hrun, hbooted, hrec, hgood]
  have hmissing : ¬ s.logRecords.contains s.att.boot = true := by simp only [hnew, Bool.false_eq_true, not_false_iff]
  simp only [State.bootLogAppend, if_neg hheld, if_neg hmissing, hok, if_true, Bool.not_true]

/-! ## The requests of the audit port -/

/-- The response that stands on the port: the buffer is replaced and read from its start, or it is left and SEEK sets the read position (R495). -/
def State.audReply (s : State) (w : List Byte) (r : Status × Nat × Option (List Byte)) : State :=
  s.updAud fun a => { a with
    state := 0, tag := w.getD 1 0, status := r.1, detail := r.2.1
    buf := match r.2.2 with | some b => b.take 65536 | none => a.buf
    pos := match r.2.2 with | some _ => 0 | none => numAt w 4 8 }

/-- Whatever its row, a private write is a request of the port. -/
theorem exec_audit {i : Instr} {w : List Byte} (s : State)
    (hi : i ∈ [Instr.auditStatus w, .auditBootrec w, .auditBatch w, .auditQuote w, .auditCert w, .auditSeek w]) :
    exec i s = .next (s.audRequest w) := by
  simp only [List.mem_cons, List.not_mem_nil, or_false] at hi
  rcases hi with rfl | rfl | rfl | rfl | rfl | rfl <;> rfl

theorem State.audRequest_served {s : State} (w : List Byte) (hon : s.audOn = true) (hidle : s.att.aud.state ≠ 0) :
    s.audRequest w = s.audReply w (s.audServe w) := by
  have hfree : ¬ (!s.audOn || decide (s.att.aud.state = 0)) = true := by
    simp only [hon, hidle, Bool.not_true, decide_false, Bool.or_self, Bool.false_eq_true, not_false_iff]
  exact if_neg hfree

/-- A request that arrives while another is being served is discarded. -/
theorem State.audRequest_busy {s : State} (w : List Byte) (hbusy : s.att.aud.state = 0) : s.audRequest w = s := by
  simp only [State.audRequest, hbusy, decide_true, Bool.or_true, if_true]

section
variable {s : State} {w : List Byte} (hlen : w.length = 48) (hcrc : numAt w 44 4 = (crc32 (w.take 44)).toNat) (hres : numAt w 2 2 = 0)
include hlen hcrc hres

theorem State.audServe_status (hreq : numAt w 0 1 = 1) (hidx : numAt w 4 8 = 0) (hnonce : (bytesAt w 12 32).all (· = 0) = true) :
    s.audServe w = (.ok, 0, some s.audStatus) := by
  simp only [State.audServe, hlen, hcrc, hres, hreq, hidx, hnonce, ne_eq, not_true_eq_false, or_self, decide_true, Bool.and_self, if_true, if_false]

theorem State.audServe_bootrec {r : List Byte} (hreq : numAt w 0 1 = 2) (hnonce : (bytesAt w 12 32).all (· = 0) = true)
    (hbooted : s.booted = true) (hfind : (s.bootRecords.find? fun r => decide (recSeq r = numAt w 4 8)) = some r) :
    s.audServe w = (.ok, 0, some r) := by
  simp only [State.audServe, hlen, hcrc, hres, hreq, hnonce, hbooted, hfind, ne_eq, not_true_eq_false, or_self, Bool.not_true, Bool.false_eq_true, if_false]

theorem State.audServe_batch (hreq : numAt w 0 1 = 3) (hnonce : (bytesAt w 12 32).all (· = 0) = true) (hbooted : s.booted = true)
    (hawake : s.pstate ≠ 2) (hany : s.reg kBatchNew ≠ 0xFFFFFFFF) (hold : (s.reg kBatchOld).toNat ≤ numAt w 4 8)
    (hnew : numAt w 4 8 ≤ (s.reg kBatchNew).toNat) : s.audServe w = (.ok, 0, some (s.batchAt (numAt w 4 8))) := by
  have hheld : (decide (s.reg kBatchNew = 0xFFFFFFFF) || decide ((s.reg kBatchNew).toNat < numAt w 4 8)
      || decide (numAt w 4 8 < (s.reg kBatchOld).toNat)) = false := by
    simp only [decide_eq_false hany, decide_eq_false (Nat.not_lt.2 hnew), decide_eq_false (Nat.not_lt.2 hold), Bool.or_self]
  simp only [State.audServe, hlen, hcrc, hres, hreq, hnonce, hbooted, hawake, hheld, ne_eq, not_true_eq_false, or_self, decide_false, Bool.or_self,
    Bool.not_true, Bool.false_eq_true, if_false]

theorem State.audServe_quote (hreq : numAt w 0 1 = 4) (hidx : numAt w 4 8 = 0) (hbooted : s.booted = true) (hawake : s.pstate ≠ 2) :
    s.audServe w = (.ok, 0, some (s.quote 3 677 (bytesAt w 12 32))) := by
  simp only [State.audServe, hlen, hcrc, hres, hreq, hidx, hbooted, hawake, ne_eq, not_true_eq_false, or_self, decide_true, decide_false, Bool.or_self,
    Bool.not_true, Bool.false_eq_true, if_false]

theorem State.audServe_cert (hreq : numAt w 0 1 = 5) (hidx : numAt w 4 8 = 0) (hnonce : (bytesAt w 12 32).all (· = 0) = true) :
    s.audServe w = (.ok, 0, some (padTo 192 s.att.fuses.cert)) := by
  simp only [State.audServe, hlen, hcrc, hres, hreq, hidx, hnonce, ne_eq, not_true_eq_false, or_self, decide_true, Bool.and_self, if_true, if_false]

theorem State.audServe_seek (hreq : numAt w 0 1 = 6) (hnonce : (bytesAt w 12 32).all (· = 0) = true) (hbooted : s.booted = true) :
    s.audServe w = (.ok, 0, none) := by
  simp only [State.audServe, hlen, hcrc, hres, hreq, hnonce, hbooted, ne_eq, not_true_eq_false, or_self, Bool.not_true, Bool.false_eq_true, if_false]

end

/-! ## The response of the audit port -/

/-- The response to the request being served becomes ready: STATE 1, the count, and source 27 (R495). -/
theorem State.audReady_asserts {s : State} (hon : s.audOn = true) (hbusy : s.att.aud.state = 0) :
    let t := s.updAud fun a => { a with state := 1 }
    s.audReady = (t.setF kAudStat 0 16 ((t.regF kAudStat 0 16 + 1) % 65536)).pulse 27 := by
  simp only [State.audReady, hon, hbusy, decide_true, Bool.and_self, if_true]
  rfl

/-- A read of a port that is not serving a request gives the response header and the next 256 bytes, and moves the read position past them (R496). -/
theorem State.audRead_ready {s : State} (hon : s.audOn = true) (hready : s.att.aud.state ≠ 0) :
    let a := s.att.aud
    let chunk := bytesAt a.buf a.pos 256
    let hdr := leBytes 1 a.state ++ [a.tag] ++ leBytes 2 (statusCode a.status) ++ leBytes 2 a.detail ++ leBytes 2 chunk.length
      ++ leBytes 4 a.buf.length ++ leBytes 4 a.pos
    s.audRead = (hdr ++ chunk ++ wBytes (crc32 (hdr ++ chunk)), s.updAud fun a => { a with pos := a.pos + chunk.length }) := by
  simp only [State.audRead, hon, Bool.not_true, Bool.false_eq_true, if_false, if_neg hready]

/-- Settles O52: a row acts as its operation does while its unit runs, a request as `State.audServe` answers it, and the lemma of each says what that is. -/
theorem auditRows : Obligations.AuditRows := by
  refine ⟨?_, ?_, ?_, ?_, ?_, ?_, ?_⟩
  · intro s hready hup hopen hold
    exact State.quietly_next hready (State.batchTime_closes hup hopen hold)
  · intro s a b hup hrun hbooted hrec hgood hnew hok
    exact State.quietly_next (f := fun s => s.bootLogAppend a b) hup (State.bootLogAppend_appends hrun hbooted hrec hgood hnew hok)
  · intro s w i hi hon hidle r
    exact (exec_audit s hi).trans (congrArg _ (State.audRequest_served w hon hidle))
  · intro s w hon hidle hlen hcrc hres gives noIndex noNonce
    have serves {r : Status × Nat × Option (List Byte)} (hr : s.audServe w = r) :
        (.next (s.audRequest w) : Out) = .next (s.audReply w r) := by
      rw [State.audRequest_served w hon hidle, hr]
    refine ⟨fun hq hx hn => serves (State.audServe_status hlen hcrc hres hq hx hn),
      fun r hq hn hb hf => serves (State.audServe_bootrec hlen hcrc hres hq hn hb hf),
      fun hq hn hb hp hany ho hnew => serves (State.audServe_batch hlen hcrc hres hq hn hb hp hany ho hnew),
      fun hq hx hb hp => serves (State.audServe_quote hlen hcrc hres hq hx hb hp),
      fun hq hx hn => serves (State.audServe_cert hlen hcrc hres hq hx hn),
      fun hq hn hb => serves (State.audServe_seek hlen hcrc hres hq hn hb)⟩
  · intro s w i hi hbusy
    rw [exec_audit s hi, State.audRequest_busy w hbusy]
  · intro s hup hon hbusy
    exact State.quietly_next hup (State.audReady_asserts hon hbusy)
  · intro s hon hready a chunk hdr
    refine State.quietly_next (f := fun s => s.audRead.2.audAnswer s.audRead.1) hon ?_
    simp only [State.audRead_ready hon hready]
    rfl

end Sys2Proof.Machine

namespace Sys2Proof.Machine

/-! ## MEM_REGION_SET -/

theorem beginMemRegionSet_cellar {o : Open} {t : State} (hb : bit (pw o.pkt 0) 31 = false) : beginMemRegionSet o t = beginCelSet o t := by
  rw [beginMemRegionSet, hb]
  rfl

theorem beginMemRegionSet_pantry {o : Open} {t : State} (hb : bit (pw o.pkt 0) 31 = true) : beginMemRegionSet o t = beginPanSet o t := by
  rw [beginMemRegionSet, if_pos hb]

/-- The packet names the geometry that Cellar region r has: its base, its size and the geometry bits of its attributes (R291). -/
def State.celSame (t : State) (r : Nat) (p : Packet) : Prop :=
  t.celEn r = true ∧ t.celBase r = pd p 1 ∧ t.celSize r = pd p 3 ∧ (t.celAttr r ^^^ pw p 5) &&& celGeomMask = 0

section
variable {o : Open} {t : State} {r : Nat} (hr : fld (pw o.pkt 0) 0 6 = r) (hf : t.celSetFault o.pkt = none)
include hr hf

/-- A `MEM_REGION_SET` with EN = 0 removes its Cellar region (R290; the zeroed registers are log 95). -/
theorem beginCelSet_removes (hen : bit (pw o.pkt 5) 31 = false) :
    beginCelSet o t = (.done repOk, (t.celPut r 0 0 0).setReg (kReg r + 0x14) 0) := by
  simp only [beginCelSet, hr, hf, hen, Bool.not_false, if_true]

theorem beginCelSet_same (hen : bit (pw o.pkt 5) 31 = true) (hs : t.celSame r o.pkt) :
    beginCelSet o t = (if t.celFilling r then .wait (.fill r) else .done repOk, t.setReg (kReg r + 0x10) (pw o.pkt 5)) := by
  obtain ⟨hdef, hbase, hsize, hattr⟩ := hs
  simp only [beginCelSet, hr, hf, hen, hdef, hbase, hsize, hattr, decide_true, Bool.and_true, Bool.not_true, Bool.false_eq_true, if_false, if_true]

/-- A Cellar region that keeps its geometry while it fills takes its attributes, and the command waits for the fill (log 16). -/
theorem beginCelSet_waits (hen : bit (pw o.pkt 5) 31 = true) (hs : t.celSame r o.pkt) (hw : t.celFilling r = true) :
    beginCelSet o t = (.wait (.fill r), t.setReg (kReg r + 0x10) (pw o.pkt 5)) := by
  rw [beginCelSet_same hr hf hen hs, if_pos hw]

/-- A Cellar region that keeps its geometry takes its attributes at once (R291). -/
theorem beginCelSet_takes (hen : bit (pw o.pkt 5) 31 = true) (hs : t.celSame r o.pkt) (hw : t.celFilling r = false) :
    beginCelSet o t = (.done repOk, t.setReg (kReg r + 0x10) (pw o.pkt 5)) := by
  rw [beginCelSet_same hr hf hen hs, if_neg (ne_true_of_eq_false hw)]

/-- A Cellar region that changes is stored and fills (R291). -/
theorem beginCelSet_fills (hen : bit (pw o.pkt 5) 31 = true) (hs : ¬ t.celSame r o.pkt) :
    beginCelSet o t = (.wait (.fill r), (t.celPut r (pd o.pkt 1) (pd o.pkt 3) (pw o.pkt 5)).setReg (kReg r + 0x14) 0x40000000) := by
  have hs' : ¬ (t.celEn r && decide (t.celBase r = pd o.pkt 1) && decide (t.celSize r = pd o.pkt 3) &&
      decide ((t.celAttr r ^^^ pw o.pkt 5) &&& celGeomMask = 0)) = true := by
    simpa only [State.celSame, Bool.and_eq_true, decide_eq_true_eq, and_assoc] using hs
  simp only [beginCelSet, hr, hf, hen, Bool.not_true, Bool.false_eq_true, if_false, if_neg hs']

end

/-- A Pantry region is stored whole, with the flags and the digest of its last load cleared (R298). -/
theorem beginPanSet_stores {o : Open} {t : State} (hl : t.panLoading (fld (pw o.pkt 0) 0 8) = false) (hf : panSetFault o t = none) :
    let r := fld (pw o.pkt 0) 0 8
    let en := bit (pw o.pkt 5) 31
    let larder := decide (aLarder ≤ pd o.pkt 1)
    beginPanSet o t = (.done repOk,
      (((t.setReg (kPR r) (wd (if en then pd o.pkt 1 - aPantry else 0))).setReg (kPR r + 4) (wd (if en then pd o.pkt 3 else 0))).setReg
        (kPR r + 8) (wd (b2n en * 2 ^ 31 + b2n (en && larder) * 2 ^ 25 + t.regF (kPR r + 8) 0 16))).each
          (List.range 16) fun s k => s.setReg (kPR r + 0x40 + 4 * k) 0) := by
  simp only [beginPanSet, hl, hf, Bool.false_eq_true, if_false]

theorem celSet_opens (t : State) (r base size : Nat) (attr v : Word) :
    ((t.celPut r base size attr).setReg (kReg r + 0x14) v).foy.opens = t.foy.opens :=
  (State.setReg_keep (State.celPut_keep (Keep.refl t))).opens

/-- Settles O2: each packet begins with the result its clause names, and `packet_done` or `packet_wait` gives the Foyer's whole run from it. -/
theorem regionPackets : Obligations.RegionPackets := by
  refine ⟨?_, ?_⟩
  · intro s p hT t o r base size same hb hf
    have hcel : beginMemRegionSet o t = beginCelSet o t := beginMemRegionSet_cellar hb
    refine ⟨fun hen => ?_, fun hen hs hw => ?_, fun hen hs hw => ?_, fun hen hs => ?_⟩
    · exact packet_done hT nofun (hcel.trans (beginCelSet_removes rfl hf hen)) (celSet_opens ..)
    · exact packet_wait hT (hcel.trans (beginCelSet_waits rfl hf hen hs hw)) rfl ⟨nofun, nofun⟩
    · exact packet_done hT nofun (hcel.trans (beginCelSet_takes rfl hf hen hs hw)) rfl
    · exact packet_wait hT (hcel.trans (beginCelSet_fills rfl hf hen hs)) (celSet_opens ..) ⟨nofun, nofun⟩
  · intro s p hT t o r en larder hb hl hf
    have hpan : beginMemRegionSet o t = beginPanSet o t := beginMemRegionSet_pantry hb
    exact packet_done hT nofun (hpan.trans (beginPanSet_stores (o := o) hl hf))
      (State.each_keep (State.setReg_keep (State.setReg_keep (State.setReg_keep (Keep.refl t)))) _ fun _ _ k => State.setReg_keep k).opens

/-! ## The injectors -/

/-- A core to which their page is granted, or a Dumbwaiter channel, writes the injectors, whoever controls the page (R305, R306, R402). -/
theorem rowWrite_flip {s t : State} {m : Master} {u o : Nat} {v : Word} (hu : u < 0x0F) (ho : o < 0x10000) (h4 : o % 4 = 0)
    (h0 : m ≠ .pf0) (h1 : m ≠ .pf1) (ha : s.answers = true) (hg : ∀ n : Fin 16, m = .core n → s.nioGranted n.val (u * 0x10000) true = true)
    (hp : s.pageAbsent u = false) (hw : s.flipWrite u o v = some t) : s.rowWrite m (bar0At (u * 0x10000 + o)) v = .next t.pump := by
  obtain ⟨hq, hr⟩ := page_of_add (u := u) ho
  have hb : (BitVec.ofNat 24 (u * 0x10000 + o)).toNat = u * 0x10000 + o := bar0At_toNat (by omega)
  have hal : (u * 0x10000 + o) % 4 = 0 := by omega
  have hm : pageMapped u = true := by simp [pageMapped]; omega
  have hn : ¬ 0x40 ≤ u := by omega
  unfold State.rowWrite State.regWrite bar0At
  rw [if_neg (by simp [ha]), if_neg (by simp [barOffset, hb, hal])]
  cases m with
  | pf0 => exact absurd rfl h0
  | pf1 => exact absurd rfl h1
  | core n =>
    have hgr : s.nioGranted n.val (u * 0x10000 + o) true = true := by
      rw [← nioGranted_page, hq]
      exact hg n rfl
    simp [State.busWrite, hb, hq, hr, hm, hn, hp, hgr, hw]
  | dma c => simp [State.busWrite, hb, hq, hr, hm, hn, hp, hw]

/-- Settles O23: each register is one of those that `State.flipWrite` takes, and `rowWrite_flip` leads the write to it. -/
theorem injectorRegisters : Obligations.InjectorRegisters := by
  refine ⟨?_, ?_, ?_, ?_⟩
  · intro s m v h0 h1 ha hg hp
    exact rowWrite_flip (u := 4) (o := 0x100) (by decide) (by decide) (by decide) h0 h1 ha hg hp rfl
  · intro s m v h0 h1 ha hg hp
    exact rowWrite_flip (u := 5) (o := 0x100) (by decide) (by decide) (by decide) h0 h1 ha hg hp rfl
  · intro s m v h0 h1 ha hg hp
    exact ⟨rowWrite_flip (u := 4) (o := 0x104) (by decide) (by decide) (by decide) h0 h1 ha hg hp rfl,
      rowWrite_flip (u := 4) (o := 0x108) (by decide) (by decide) (by decide) h0 h1 ha hg hp rfl⟩
  · intro s m v h0 h1 ha hg hp
    exact rowWrite_flip (u := 5) (o := 0x104) (by decide) (by decide) (by decide) h0 h1 ha hg hp rfl

/-! ## The events of memory -/

section
variable {s : State} {r : Nat}

/-- The fill of a region with no twin ends (R291). -/
theorem State.regionFillDone_alone (hf : s.celFilling r = true) (ht : s.twinOf r = none) :
    s.regionFillDone r =
      (((s.zeroRange (s.celBase r) (s.celSize r)).celFill (s.regionChans r)).setReg (kReg r + 0x14) 0x80000000).finish (.fill r) repOk := by
  simp only [State.regionFillDone, if_pos hf, ht]

/-- The fill of a mirrored region ends, and its twin range is zeroed too (R291, R293). -/
theorem State.regionFillDone_twin {t : Nat} (hf : s.celFilling r = true) (ht : s.twinOf r = some t) :
    s.regionFillDone r =
      ((((s.zeroRange (s.celBase r) (s.celSize r)).zeroRange t (s.celSize r)).celFill (s.regionChans r)).setReg (kReg r + 0x14) 0x80000000).finish
        (.fill r) repOk := by
  simp only [State.regionFillDone, if_pos hf, ht]

/-- A region that is not filling is left as it is; its fill cannot end (log 47). -/
theorem State.regionFillDone_idle (hf : s.celFilling r = false) : s.regionFillDone r = s.finish (.fill r) repOk := by
  simp only [State.regionFillDone, hf, Bool.false_eq_true, if_false]

theorem State.assetLoadDone_runs {o : Open} (ho : (s.foy.opens.find? fun o => o.begun && o.fin.isNone && decide (o.wait = .load r)) = some o) :
    s.assetLoadDone r = s.assetLoadRun o := by
  rw [State.assetLoadDone, ho]

theorem State.memOpDone_runs {n : Nat} {o : Open}
    (ho : (s.foy.opens.filter fun o => o.begun && o.fin.isNone && decide (o.wait = .memOp))[n]? = some o) : s.memOpDone n = s.memOpRun o := by
  rw [State.memOpDone, ho]

end

/-! ### The patrol scrub -/

/-- The unit that records an uncorrectable line: the Cellar, or the Pantry for a line of it or of the Larder (R302). -/
def scrubUnit (p : Place) : Nat := match p with | .cellar _ => 4 | _ => 5

/-- What a scrub read of the line l, which lies in p, does once the line has crossed to the controller (R302): the end of `State.scrubLine`. -/
def State.scrubRead (s : State) (p : Place) (l : Nat) : State :=
  let cws := codewords (s.grain p) l 64
  match cws.find? fun c => decide (s.code c = .uncorr) with
  | some c => (s.uncorrectable p c).ueRecord (scrubUnit p) 0 l
  | none => s.each cws fun s c => match s.code c with
      | .corr pos => (s.corrected p c pos).setCode c .good
      | _ => s

/-- Every line of the Pantry and the Larder is scrubbed, and one of the Cellar where its region asks for it (R302). -/
theorem State.scrubLine_reads {s : State} {a : Nat} (hp : s.scrubPlace (a / 64 * 64) ≠ .none)
    (hc : ∀ r, s.scrubPlace (a / 64 * 64) = .cellar r → fld (s.celAttr r) 21 2 ≠ 0) :
    let l := a / 64 * 64
    let p := s.scrubPlace l
    s.scrubLine a = (s.celUse 0x04 false true p l 64).scrubRead p l := by
  refine if_neg ?_
  cases h : s.scrubPlace (a / 64 * 64) with
  | cellar r => simpa using hc r h
  | pantry r => exact Bool.false_ne_true
  | larder r => exact Bool.false_ne_true
  | none => exact absurd h hp

section
variable {s : State} {p : Place} {l : Nat}

/-- A line with no uncorrectable codeword has its corrected codewords written back (R302). -/
theorem State.scrubRead_writes_back (hu : (codewords (s.grain p) l 64).find? (fun c => decide (s.code c = .uncorr)) = none) :
    s.scrubRead p l = s.each (codewords (s.grain p) l 64) fun s c => match s.code c with
      | .corr pos => (s.corrected p c pos).setCode c .good
      | _ => s := by
  unfold State.scrubRead
  simp only [hu]

/-- A line with an uncorrectable codeword is left as it is and recorded (R302). -/
theorem State.scrubRead_records {c : Nat} (hu : (codewords (s.grain p) l 64).find? (fun c => decide (s.code c = .uncorr)) = some c) :
    s.scrubRead p l = (s.uncorrectable p c).ueRecord (scrubUnit p) 0 l := by
  unfold State.scrubRead
  simp only [hu]

end

/-- A correctable word of a head's store is written back (R302). -/
theorem State.mantelScrub_writes_back {s : State} {h i pos : Nat} (hc : Tbl.get (fun _ => Code.good) (s.head h).mt.codes i = .corr pos) :
    s.mantelScrub h i =
      (s.storeCorrected h i pos).updMt h fun m => { m with codes := Tbl.set (fun _ => Code.good) m.codes i .good } := by
  rw [State.mantelScrub, hc]

/-- A correctable word of a core's program memory is written back (R399). -/
theorem State.nioScrub_program {s : State} {n i pos : Nat} (hc : (s.core n).wordCode i = .corr pos) :
    s.nioScrub n false i =
      (s.nioCorrected n 2 pos (4 * i)).updCore n fun c => { c with pcode := Tbl.set (fun _ => Code.good) c.pcode (i % 16384) .good } := by
  simp only [State.nioScrub, hc, Bool.false_eq_true, if_false]

/-! ### DIMM temperatures and the throttle -/

section
variable {s : State} {c : Nat} {temp : Byte} (hs : s.regB (kChstat c) 31 = true) (hx : s.regB (kChstat c) 29 = false) (ht : 85 < temp.toInt)
include hs hx ht

/-- A DIMM above 85 °C keeps its channel in mode 2 (R285). -/
theorem State.refreshMode_stays_hot (hw : s.regF (kChtemp c) 8 8 = 2) :
    let t := s.setReg (kChtemp c) (wd (2 * 256 + temp.toNat))
    s.refreshMode c temp = t.refreshSet c (t.refDemand c) := by
  simp only [State.refreshMode, hs, hx, ht, hw, Bool.not_true, Bool.or_self, Bool.false_eq_true, if_false, if_true]

/-- A DIMM that has come to be above 85 °C puts its channel into mode 2, with source 54 (R285). -/
theorem State.refreshMode_turns_hot (hw : s.regF (kChtemp c) 8 8 = 1) :
    let t := (s.setReg (kChtemp c) (wd (2 * 256 + temp.toNat))).pulse 54
    s.refreshMode c temp = t.refreshSet c (t.refDemand c) := by
  simp only [State.refreshMode, hs, hx, ht, hw, Bool.not_true, Bool.or_self, Bool.false_eq_true, if_false, if_true, Nat.reduceEqDiff]

end

/-- Settles O31: each event acts as its operation does while its unit is up, and the lemma of each says what that is. -/
theorem memoryEvents : Obligations.MemoryEvents := by
  refine ⟨?_, ?_, ?_, ?_, ?_, ?_, ?_, ?_, ?_, ?_, ?_⟩
  · intro s r hlive hf ht
    exact State.working_next (f := fun s => s.regionFillDone r.val) hlive (State.regionFillDone_alone hf ht)
  · intro s r t hlive hf ht
    exact State.working_next (f := fun s => s.regionFillDone r.val) hlive (State.regionFillDone_twin hf ht)
  · intro s r hlive hf
    exact State.working_next (f := fun s => s.regionFillDone r.val) hlive (State.regionFillDone_idle hf)
  · intro s r o hup ho
    exact State.working_next (f := fun s => s.assetLoadDone r.val) hup (State.assetLoadDone_runs ho)
  · intro s n o hup ho
    exact State.working_next (f := fun s => s.memOpDone n) hup (State.memOpDone_runs ho)
  · intro s a l p t cws hlive hp hc
    have hread : s.scrubLine a.toNat = t.scrubRead p l := State.scrubLine_reads hp hc
    exact ⟨fun hu => State.quietly_next (f := fun s => s.scrubLine a.toNat) hlive (hread.trans (State.scrubRead_writes_back hu)),
      fun c hu => State.quietly_next (f := fun s => s.scrubLine a.toNat) hlive (hread.trans (State.scrubRead_records hu))⟩
  · intro s h i pos hlive hc
    exact State.quietly_next (f := fun s => s.mantelScrub h.val i.toNat) hlive (State.mantelScrub_writes_back hc)
  · intro s n i pos hlive hc
    exact State.quietly_next (f := fun s => s.nioScrub n.val false i.toNat) hlive (State.nioScrub_program hc)
  · intro s c temp hup hs hx hw ht
    exact State.quietly_next (f := fun s => s.refreshMode c.val temp) hup (State.refreshMode_stays_hot hs hx ht hw)
  · intro s c temp hup hs hx hw ht
    exact State.quietly_next (f := fun s => s.refreshMode c.val temp) hup (State.refreshMode_turns_hot hs hx ht hw)
  · intro s i tags hlive
    exact State.quietly_next (f := fun s => s.throttle i.val tags) hlive rfl

end Sys2Proof.Machine

namespace Sys2Proof.Machine

/-! ## The packets of the rect engines and the Dumbwaiter -/

/-- A rect command that passes its checks queues for its engine (R338, R339). -/
theorem beginRect_queues {op : Nat} {o : Open} {t : State} (hf : t.rectBeginFault op o = none) :
    let e := fld (pw o.pkt 0) 0 2
    beginRect op o t =
      (.wait (.rect e), t.setRect e { t.rect1 e with queue := (t.rect1 e).queue ++ [(o.acc, wd op :: o.pkt.p)] }) := by
  rw [beginRect, hf]

/-- A `DMA_CHAIN_START` that passes its checks stores its pace gap and starts on its first descriptor (R356). -/
theorem beginDmaChainStart_starts {o : Open} {t : State} (hf : dmaChainStartFault o t = none) :
    let c := fld (pw o.pkt 0) 0 6
    beginDmaChainStart o t = (.wait (.dmaRun c), (t.setReg (kDw c + 0x30) (wd (fld (pw o.pkt 0) 16 16))).dwStart c (pd o.pkt 1)) := by
  rw [beginDmaChainStart, hf]

/-- A `DMA_STOP` that finds its channel between two descriptors halts it there (R354, R357; log 93). -/
theorem beginDmaStop_halts {o : Open} {t : State} {a : Nat} (hf : dmaStopFault o t = none) (hb : t.dwBetween (fld (pw o.pkt 0) 0 6) = some a) :
    beginDmaStop o t = (.done ⟨.ok, 0, wd a, wd (a / 2 ^ 32), 0⟩, t.dwHalt (fld (pw o.pkt 0) 0 6) .stopped a) := by
  simp only [beginDmaStop, hf, hb]

/-- A `DMA_STOP` that finds a descriptor running is remembered, and waits for the halt (R354, R357). -/
theorem beginDmaStop_waits {o : Open} {t : State} (hf : dmaStopFault o t = none) (hb : t.dwBetween (fld (pw o.pkt 0) 0 6) = none) :
    let c := fld (pw o.pkt 0) 0 6
    beginDmaStop o t = (.wait (.dmaHalt c), (t.setB (kDw c + 4) 29 true).setB (kDw c) 30 true) := by
  simp only [beginDmaStop, hf, hb]

/-- A halt finishes only commands that wait for it, and the one that begins now does not wait yet. -/
theorem dwHalt_admitted_opens {s : State} {op : Op} {p : Packet} (hq : s.foy.opens = []) (c : Nat) (st : Status) (a : Nat) :
    ((s.admitted op p).dwHalt c st a).foy.opens = (s.admitted op p).foy.opens := by
  refine (State.dwHalt_calm (Calm.refl _)).opens fun o ho => ?_
  rw [admitted_opens hq, List.mem_singleton] at ho
  subst ho
  exact ⟨rfl, .inl rfl⟩

/-- Settles O8: each packet begins with the result its clause names, and `packet_wait` or `packet_done` gives the Foyer's whole run from it. -/
theorem enginePackets : Obligations.EnginePackets := by
  refine ⟨?_, ?_, ?_⟩
  · intro s p run
    have hk (t : State) (e : Nat) (v : RectEng) : (t.setRect e v).foy.opens = t.foy.opens := rfl
    exact ⟨fun hT hf => packet_wait hT (beginRect_queues hf) (hk ..) ⟨nofun, nofun⟩,
      fun hT hf => packet_wait hT (beginRect_queues hf) (hk ..) ⟨nofun, nofun⟩,
      fun hT hf => packet_wait hT (beginRect_queues hf) (hk ..) ⟨nofun, nofun⟩⟩
  · intro s p hT t o c hf
    exact packet_wait hT (beginDmaChainStart_starts hf) (State.dwStart_keep (State.setReg_keep (Keep.refl t))).opens ⟨nofun, nofun⟩
  · intro s p hT t o c hf
    exact ⟨fun a hb => packet_done hT nofun (beginDmaStop_halts (o := o) hf hb) (dwHalt_admitted_opens hT.quiet c .stopped a),
      fun hb => packet_wait hT (beginDmaStop_waits (o := o) hf hb) rfl ⟨nofun, nofun⟩⟩

/-! ## The control registers of the engines -/

/-- A driving master's write of a page of a unit whose registers are neither injectors nor a head's. -/
theorem rowWrite_unitPage {s t : State} {m : Master} {u o : Nat} {v : Word} (hu : 6 ≤ u) (hu' : u ≤ 0x0E) (hd : s.drives m u = true)
    (h4 : o % 4 = 0) (ho : o < 0x10000) (hw : s.pageWrite u o v = some t) : s.rowWrite m (bar0At (u * 0x10000 + o)) v = .next t.pump := by
  obtain ⟨hq, hr⟩ := page_of_add (u := u) ho
  have hmap : pageMapped u = true := by simp [pageMapped]; omega
  exact rowWrite_drives (by rw [hq]; exact hd) (by omega) (by rw [hq]; exact hmap) (by omega)
    (by rw [hq]; exact s.flipWrite_none _ v (by omega) (by omega)) (by rw [hq, decide_eq_false (by omega), Bool.false_and]) (by rw [hq, hr]; exact hw)

/-! ### RCT_CTL -/

/-- A write of `RCT_CTL` has stored its fields, and GO stands as it stood (R340). -/
def State.rctStored (s : State) (e : Nat) (v : Word) : State := s.setReg (kRct e) ((s.reg (kRct e) &&& 0x80000000) ||| (v &&& 0x1CFF))

/-- The set that the registers of engine e and the word v written to `RCT_CTL` name (R340). -/
def State.rctSet (t : State) (e : Nat) (v : Word) : RectSet :=
  let k := kRct e
  { op := fld v 10 2, dfmt := fld v 0 4, sfmt := fld v 4 4, keyen := bit v 12 && decide (fld v 10 2 = 1)
    dst := t.addr40 (k + 4), dpitch := t.regF (k + 0xC) 0 20, src := t.addr40 (k + 0x10), spitch := t.regF (k + 0x18) 0 20
    w := t.regF (k + 0x1C) 0 14, h := t.regF (k + 0x1C) 16 14 }

theorem State.rctStored_go (s : State) (e : Nat) (v : Word) : s.rctStored e (putBit v 31 true) = s.rctStored e v := by
  rw [State.rctStored, putBit_and v 0x1CFF true (by decide), State.rctStored]

theorem State.rctSet_go (t : State) (e : Nat) (v : Word) : t.rctSet e (putBit v 31 true) = t.rctSet e v := by
  have hf (lo len : Nat) (h : lo + len ≤ 31) : fld (putBit v 31 true) lo len = fld v lo len := fld_putBit_ne v true (.inr h)
  simp only [State.rctSet, hf 10 2 (by decide), hf 0 4 (by decide), hf 4 4 (by decide), bit_putBit_ne v true (show 12 ≠ 31 by decide)]

/-- The fields do not reach `RCT_STAT`. -/
theorem State.rctStored_busy (s : State) (e : Nat) (v : Word) : (s.rctStored e v).regB (kRct e + 0x30) 31 = s.regB (kRct e + 0x30) 31 :=
  congrArg (bit · 31) (s.setReg_reg_ne _ (by omega))

/-- The cause for which a set is refused, the lowest that applies; an empty set has no other than its format (R341). -/
def State.rctCause (t : State) (r : RectSet) : Option Nat :=
  if r.badFmt then some 1
  else if r.w = 0 ∨ r.h = 0 then none
  else if r.badAlign.isSome then some 2
  else if r.badPitch.isSome then some 3
  else if (t.rectBadAddr r).isSome then some 4
  else if (t.rectSealed r).isSome then some 5
  else if r.overlaps && decide (r.dpitch ≠ r.spitch) then some 6
  else if r.overlaps && decide (r.op = 2) && decide (rBpp r.sfmt ≠ rBpp r.dfmt) then some 7
  else none

theorem State.rctCause_badFmt {t : State} {r : RectSet} (hf : r.badFmt = true) : t.rctCause r = some 1 := if_pos hf

theorem State.rctCause_empty {t : State} {r : RectSet} (hf : r.badFmt = false) (h0 : r.w = 0 ∨ r.h = 0) : t.rctCause r = none := by
  rw [State.rctCause, if_neg (ne_true_of_eq_false hf), if_pos h0]

theorem State.rctCause_sound {t : State} {r : RectSet} (hf : r.badFmt = false) (hal : r.badAlign = none) (hp : r.badPitch = none)
    (had : t.rectBadAddr r = none) (hse : t.rectSealed r = none)
    (hov : r.overlaps = true → r.dpitch = r.spitch ∧ (r.op = 2 → rBpp r.sfmt = rBpp r.dfmt)) : t.rctCause r = none := by
  have h6 : (r.overlaps && decide (r.dpitch ≠ r.spitch)) = false := by
    cases ho : r.overlaps with
    | false => rfl
    | true => simpa using (hov ho).1
  have h7 : (r.overlaps && decide (r.op = 2) && decide (rBpp r.sfmt ≠ rBpp r.dfmt)) = false := by
    cases ho : r.overlaps with
    | false => rfl
    | true => simpa using (hov ho).2
  simp only [State.rctCause, hf, hal, hp, had, hse, h6, h7, Option.isSome_none, Bool.false_eq_true, if_false, ite_self]

/-- What a GO does to an idle engine once the word is stored: it judges the set r (R341). -/
def State.rctJudge (t : State) (e : Nat) (r : RectSet) : State :=
  match t.rctCause r with
  | some c => ((t.rectRestore e).setF (kRct e + 0x30) 16 8 c).setB (kRct e + 0x30) 28 true
  | none =>
    if r.w = 0 ∨ r.h = 0 then
      ((((t.rectSample e).rectOrder e false false).setB (kRct e + 0x30) 30 true).setF (kRct e + 0x30) 0 16 (statusCode .okEmpty)).pulse (256 + e)
    else (t.setB (kRct e) 31 true).rectBusy e
      (rectStart none r (t.reg (kRct e + 0x20)).toNat (t.reg (kRct e + 0x24)).toNat (t.regF (kRct e + 0x2C) 0 14))

/-- A GO to a busy engine is lost (R341). -/
theorem State.rctCtlWrite_lost {s : State} {e : Nat} {w : Word} (hgo : bit w 31 = true) (hb : s.regB (kRct e + 0x30) 31 = true) :
    s.rctCtlWrite e w = (s.rctStored e w).setB (kRct e + 0x30) 27 true := by
  unfold State.rctCtlWrite
  rw [hgo]
  exact if_pos ((s.rctStored_busy e w).trans hb)

theorem State.rctCtlWrite_judges {s : State} {e : Nat} {w : Word} (hgo : bit w 31 = true) (hb : s.regB (kRct e + 0x30) 31 = false) :
    s.rctCtlWrite e w = (s.rctStored e w).rctJudge e ((s.rctStored e w).rctSet e w) := by
  unfold State.rctCtlWrite
  rw [hgo]
  exact if_neg (ne_true_of_eq_false ((s.rctStored_busy e w).trans hb))

theorem State.rctJudge_refuses {t : State} {e c : Nat} {r : RectSet} (hc : t.rctCause r = some c) :
    t.rctJudge e r = ((t.rectRestore e).setF (kRct e + 0x30) 16 8 c).setB (kRct e + 0x30) 28 true := by
  rw [State.rctJudge, hc]

theorem State.rctJudge_empty {t : State} {e : Nat} {r : RectSet} (hc : t.rctCause r = none) (h0 : r.w = 0 ∨ r.h = 0) :
    t.rctJudge e r = ((((t.rectSample e).rectOrder e false false).setB (kRct e + 0x30) 30 true).setF (kRct e + 0x30) 0 16
      (statusCode .okEmpty)).pulse (256 + e) := by
  rw [State.rctJudge, hc]
  exact if_pos h0

theorem State.rctJudge_runs {t : State} {e : Nat} {r : RectSet} (hc : t.rctCause r = none) (h0 : ¬ (r.w = 0 ∨ r.h = 0)) :
    t.rctJudge e r = (t.setB (kRct e) 31 true).rectBusy e
      (rectStart none r (t.reg (kRct e + 0x20)).toNat (t.reg (kRct e + 0x24)).toNat (t.regF (kRct e + 0x2C) 0 14)) := by
  rw [State.rctJudge, hc]
  exact if_neg h0

/-- Row RCT_GO writes the control register of its engine. -/
theorem execRctGo_drives {s : State} {m : Master} {e : Fin 4} (v : Word) (hd : s.drives m 10 = true) :
    exec (.rctGo m e v) s = .next (s.rctCtlWrite e.val (putBit v 31 true)).pump := by
  have he := e.isLt
  have hw : s.rctWrite (0x100 * e.val) (putBit v 31 true) = some (s.rctCtlWrite e.val (putBit v 31 true)) := by
    have hin : ¬ 0x400 ≤ 0x100 * e.val := by omega
    have hr : 0x100 * e.val % 0x100 = 0 := by omega
    have hq : 0x100 * e.val / 0x100 = e.val := by omega
    simp only [State.rctWrite, if_neg hin, hr, hq]
  exact rowWrite_unitPage (u := 10) (o := 0x100 * e.val) (by decide) (by decide) hd (by omega) (by omega) hw

/-- Row RCT_GO to an engine that is not busy judges the set that the registers and the word name (R341). -/
theorem execRctGo_judges {s : State} {m : Master} {e : Fin 4} {v : Word} (hd : s.drives m 10 = true) (hb : s.regB (kRct e.val + 0x30) 31 = false) :
    exec (.rctGo m e v) s = .next ((s.rctStored e.val v).rctJudge e.val ((s.rctStored e.val v).rctSet e.val v)).pump := by
  rw [execRctGo_drives v hd, State.rctCtlWrite_judges (bit_putBit_same v true (by decide)) hb, State.rctStored_go, State.rctSet_go]

/-! ### DWT_CTL -/

section
variable {s : State} {c : Nat} {w : Word}

/-- A GO to a channel that runs is lost (R359). -/
theorem State.dwCtlWrite_lost (hgo : bit w 31 = true) (h30 : bit w 30 = false) (h29 : bit w 29 = false) (hr : s.regB (kDw c + 4) 31 = true) :
    s.dwCtlWrite c w = s.setB (kDw c + 4) 25 true := by
  simp only [State.dwCtlWrite, hgo, h30, h29, hr, Bool.false_and, Bool.false_eq_true, if_true, if_false]

/-- An idle channel starts on an aligned descriptor inside the regions (R359). -/
theorem State.dwCtlWrite_starts {a : Nat} (ha : s.addr40 (kDw c + 8) = a) (hgo : bit w 31 = true) (h30 : bit w 30 = false) (h29 : bit w 29 = false)
    (hr : s.regB (kDw c + 4) 31 = false) (hal : a % 32 = 0) (hin : s.dwInside (a, 32) = true) :
    s.dwCtlWrite c w = (s.dwStart c a).setB (kDw c) 31 true := by
  have hok : ¬ (a % 32 ≠ 0 ∨ ¬ s.dwInside (a, 32) = true) := by simp [hal, hin]
  simp only [State.dwCtlWrite, ha, hgo, h30, h29, hr, if_neg hok, Bool.false_and, Bool.false_eq_true, if_true, if_false]

/-- An idle channel refuses any other descriptor address, with cause 8 (R359). -/
theorem State.dwCtlWrite_refuses {a : Nat} (ha : s.addr40 (kDw c + 8) = a) (hgo : bit w 31 = true) (h30 : bit w 30 = false) (h29 : bit w 29 = false)
    (hr : s.regB (kDw c + 4) 31 = false) (hbad : a % 32 ≠ 0 ∨ s.dwInside (a, 32) = false) :
    s.dwCtlWrite c w = s.dwRefuse c .configMismatch 8 a := by
  have hbad' : a % 32 ≠ 0 ∨ ¬ s.dwInside (a, 32) = true := hbad.imp_right ne_true_of_eq_false
  simp only [State.dwCtlWrite, ha, hgo, h30, h29, hr, if_pos hbad', Bool.false_and, Bool.false_eq_true, if_true, if_false]

/-- A stop between two descriptors halts the chain at once (R354; log 93). -/
theorem State.dwCtlWrite_halts {a : Nat} (h31 : bit w 31 = false) (hstop : bit w 30 = true) (h29 : bit w 29 = false)
    (hr : s.regB (kDw c + 4) 31 = true) (hb : s.dwBetween c = some a) : s.dwCtlWrite c w = s.dwHalt c .stopped a := by
  simp only [State.dwCtlWrite, h31, hstop, h29, hr, hb, Bool.and_true, Bool.false_and, Bool.false_eq_true, if_true, if_false]

/-- A stop within a descriptor is remembered (R354, R359). -/
theorem State.dwCtlWrite_stops (h31 : bit w 31 = false) (hstop : bit w 30 = true) (h29 : bit w 29 = false)
    (hr : s.regB (kDw c + 4) 31 = true) (hb : s.dwBetween c = none) : s.dwCtlWrite c w = (s.setB (kDw c + 4) 29 true).setB (kDw c) 30 true := by
  simp only [State.dwCtlWrite, h31, hstop, h29, hr, hb, Bool.and_true, Bool.false_and, Bool.false_eq_true, if_true, if_false]

/-- A paced descriptor latches a software request (R359). -/
theorem State.dwCtlWrite_latches (h31 : bit w 31 = false) (h30 : bit w 30 = false) (hreq : bit w 29 = true)
    (hr : s.regB (kDw c + 4) 31 = true) (hp : bit (dwWord (s.dwc c).desc 0) 29 = true) : s.dwCtlWrite c w = s.dwLatch c := by
  simp only [State.dwCtlWrite, h31, h30, hreq, hr, hp, Bool.and_true, Bool.false_eq_true, if_true, if_false]

end

/-- A driving master writes the control register of a Dumbwaiter channel. -/
theorem rowWrite_dwCtl {s t : State} {m : Master} {c : Fin 64} {w : Word} (hd : s.drives m 9 = true) (h : s.dwCtlWrite c.val w = t) :
    s.rowWrite m (bar0At (kDw c.val)) w = .next t.pump := by
  have hc := c.isLt
  have hw : s.dwtWrite (0x80 * c.val) w = some t := by
    have hin : ¬ 0x2000 ≤ 0x80 * c.val := by omega
    have hr : 0x80 * c.val % 0x80 = 0 := by omega
    have hq : 0x80 * c.val / 0x80 = c.val := by omega
    simp only [State.dwtWrite, if_neg hin, hr, hq, h]
  exact rowWrite_unitPage (u := 9) (o := 0x80 * c.val) (by decide) (by decide) hd (by omega) (by omega) hw

section
variable {s : State} {m : Master} {c : Fin 64} {v : Word} (hd : s.drives m 9 = true)
include hd

/-- Row DWT_GO writes `DWT_CTL` with GO set and the other bits of its word. -/
theorem execDwtGo_of {t : State} (h : ∀ w, bit w 31 = true → bit w 30 = bit v 30 → bit w 29 = bit v 29 → s.dwCtlWrite c.val w = t) :
    exec (.dwtGo m c v) s = .next t.pump :=
  rowWrite_dwCtl hd (h _ (bit_putBit_same v true (by decide)) (bit_putBit_ne v true (by decide)) (bit_putBit_ne v true (by decide)))

/-- Row DWT_STOP writes `DWT_CTL` with STOP set and the other bits of its word. -/
theorem execDwtStop_of {t : State} (h : ∀ w, bit w 31 = bit v 31 → bit w 30 = true → bit w 29 = bit v 29 → s.dwCtlWrite c.val w = t) :
    exec (.dwtStop m c v) s = .next t.pump :=
  rowWrite_dwCtl hd (h _ (bit_putBit_ne v true (by decide)) (bit_putBit_same v true (by decide)) (bit_putBit_ne v true (by decide)))

/-- Row DWT_SWREQ writes `DWT_CTL` with SWREQ set and the other bits of its word. -/
theorem execDwtSwreq_of {t : State} (h : ∀ w, bit w 31 = bit v 31 → bit w 30 = bit v 30 → bit w 29 = true → s.dwCtlWrite c.val w = t) :
    exec (.dwtSwreq m c v) s = .next t.pump :=
  rowWrite_dwCtl hd (h _ (bit_putBit_ne v true (by decide)) (bit_putBit_ne v true (by decide)) (bit_putBit_same v true (by decide)))

end

/-! ### NIO_CTL -/

/-- A write of `NIO_CTL` has cleared the flags that it names (R429). -/
def State.nioCleared (s : State) (n : Nat) (v : Word) : State := s.setReg (kNctl n) (s.reg (kNctl n) &&& ~~~ (v &&& 0x30000000))

theorem State.nioCleared_putBit (s : State) (n : Nat) (v : Word) {i : Nat} (h : bit (0x30000000 : Word) i = false) :
    s.nioCleared n (putBit v i true) = s.nioCleared n v := by
  rw [State.nioCleared, putBit_and v 0x30000000 true h, State.nioCleared]

/-- A stopped core with a sound set is measured, takes its grant and its program, and starts (R429). -/
def State.nioMeasured (t : State) (n : Nat) : State :=
  let pwn := t.regF (kNpwords n) 0 15
  let grant := t.reg (kNgrant n)
  let dig := sha512 ((List.range pwn).flatMap fun i => leBytes 2 ((t.core n).word i))
  ((((t.nioDigest n dig).measure 0x12 srcExpert n grant.toNat (BitVec.ofNat 64 pwn) dig).nioSet n grant pwn pwn).setB (kCstat n) 29 true).nioStart n
    (t.regF (kNentry n) 0 14)

section
variable {s t : State} {n : Nat} {w : Word} (ht : s.nioCleared n w = t)
include ht

theorem State.nioCtlWrite_starts (hgo : bit w 31 = true) (hr : t.coreRuns n = false) (h1 : 1 ≤ t.regF (kNpwords n) 0 15)
    (h2 : t.regF (kNpwords n) 0 15 ≤ 16384) (he : t.regF (kNentry n) 0 14 < t.regF (kNpwords n) 0 15)
    (hg : t.reg (kNgrant n) &&& 0x00009000 = 0) : s.nioCtlWrite n w = t.nioMeasured n := by
  subst ht
  have hsize : ¬ ((s.nioCleared n w).regF (kNpwords n) 0 15 < 1 ∨ 16384 < (s.nioCleared n w).regF (kNpwords n) 0 15) := by omega
  rw [State.nioCleared] at *
  simp only [State.nioCtlWrite, hgo, hr, if_neg hsize, if_neg (Nat.not_le.2 he), hg, Bool.and_false, Bool.not_true, Bool.false_eq_true, if_false,
    ne_eq, not_true_eq_false]
  rfl

/-- A GO to a core that runs is lost (R429). -/
theorem State.nioCtlWrite_lost (hgo : bit w 31 = true) (h30 : bit w 30 = false) (hr : t.coreRuns n = true) :
    s.nioCtlWrite n w = t.setB (kNctl n) 28 true := by
  subst ht
  rw [State.nioCleared] at *
  simp only [State.nioCtlWrite, hgo, h30, hr, Bool.false_and, Bool.not_true, Bool.false_eq_true, if_false, if_true]

theorem State.nioCtlWrite_stops (h31 : bit w 31 = false) (hstop : bit w 30 = true) (hr : t.coreRuns n = true) :
    s.nioCtlWrite n w = (t.setB (kNctl n) 30 true).nioStop n := by
  subst ht
  rw [State.nioCleared] at *
  simp only [State.nioCtlWrite, h31, hstop, hr, Bool.and_self, Bool.not_false, if_true]

end

/-- A driving master writes the control register of a Parlour core. -/
theorem rowWrite_nioCtl {s t : State} {m : Master} {n : Fin 16} {w : Word} (hd : s.drives m 12 = true) (hn : 4 ≤ n.val)
    (h : s.nioCtlWrite n.val w = t) : s.rowWrite m (bar0At (kNctl n.val)) w = .next t.pump := by
  have hc := n.isLt
  have hw : s.nioWrite (0x40 * n.val + 4) w = some t := by
    have hr : (0x40 * n.val + 4) % 0x40 = 4 := by omega
    have hq : (0x40 * n.val + 4) / 0x40 = n.val := by omega
    have hin : ¬ (n.val < 4 ∨ 16 ≤ n.val) := by omega
    simp only [State.nioWrite, hr, hq, if_neg hin, h]
  exact (congrArg (fun a => s.rowWrite m (bar0At a) w) (by simp only [kNctl, kNc, kNIO]; omega)).trans
    (rowWrite_unitPage (u := 12) (by decide) (by decide) hd (by omega) (by omega) hw)

/-! ### MUS_VGO and MUS_CTL -/

section
variable {s : State} {w : Word} {k : Nat} (hk : fld w 0 10 = k) (hle : k ≤ 575)
include hk hle

/-- A START of a voice waits for the next sample boundary (R396; whatever the kind of `VARM`, log 125). -/
theorem State.vgoWrite_starts (hgo : bit w 31 = true) (h30 : bit w 30 = false) :
    s.vgoWrite w = s.setVoice k { s.voice k with vgo := true } := by
  simp only [State.vgoWrite, hk, if_neg (Nat.not_lt.2 hle), hgo, h30, Bool.false_and, Bool.false_eq_true, if_true, if_false]

/-- A STOP of a voice that plays or is to start waits for the next sample boundary (R396). -/
theorem State.vgoWrite_stops (h31 : bit w 31 = false) (hstop : bit w 30 = true)
    (hp : (s.playing k || s.voiceArmed k || (s.voice k).vgo) = true) : s.vgoWrite w = s.setVoice k { s.voice k with stopNow := true } := by
  simp only [State.vgoWrite, hk, if_neg (Nat.not_lt.2 hle), h31, hstop, hp, Bool.true_and, Bool.false_eq_true, if_true, if_false]

end

/-- COMMIT requests the swap of the banks (R396). -/
theorem State.musCtlWrite_commits (s : State) (v : Word) :
    let t := (s.setReg (kMUS + 0x34) (0x80000000 ||| (v &&& 1))).setB kMStat 27 true
    s.musCtlWrite (putBit v 31 true) = { t with mus := { t.mus with commitReq := true } } := by
  have hw : (putBit v 31 true &&& 0x80000001) ||| (s.reg (kMUS + 0x34) &&& 0x80000000) = 0x80000000 ||| (v &&& 1) := by
    rw [putBit_top, show (0x80000001 : Word) = 0x80000000 ||| 1 from rfl]
    refine BitVec.eq_of_getLsbD_eq fun j _ => ?_
    simp only [BitVec.getLsbD_or, BitVec.getLsbD_and]
    cases (0x80000000 : Word).getLsbD j <;> simp
  simp only [State.musCtlWrite, hw, bit_putBit_same v true (show 31 < 32 by decide), if_true]
  rfl

/-- A driving master's write of the Music Room page. -/
theorem rowWrite_mus {s t : State} {m : Master} {o : Nat} {w : Word} (hd : s.drives m 11 = true) (h4 : o % 4 = 0) (ho : o < 0x10000)
    (hw : s.musWrite o w = some t) : s.rowWrite m (bar0At (kMUS + o)) w = .next t.pump :=
  rowWrite_unitPage (u := 11) (by decide) (by decide) hd h4 ho hw

/-- Settles O22: each row is its register's own write, whose lemma says what it does. -/
theorem engineRegisters : Obligations.EngineRegisters := by
  refine ⟨?_, ?_, ?_, ?_, ?_, ?_, ?_, ?_, ?_, ?_, ?_, ?_, ?_⟩
  · intro s m e v hd hb
    rw [execRctGo_drives v hd, State.rctCtlWrite_lost (bit_putBit_same v true (by decide)) hb, State.rctStored_go]
    rfl
  · intro s m e v k t r hd hb
    have hgo : exec (.rctGo m e v) s = .next (t.rctJudge e.val r).pump := execRctGo_judges hd hb
    refine ⟨fun hf hw hh hal hp had hse hov => ?_, fun hf h0 => ?_, fun hf => ?_⟩
    · rw [hgo, State.rctJudge_runs (State.rctCause_sound hf hal hp had hse hov) (not_or.2 ⟨hw, hh⟩)]
    · rw [hgo, State.rctJudge_empty (State.rctCause_empty hf h0) h0]
    · rw [hgo, State.rctJudge_refuses (State.rctCause_badFmt hf)]
  · intro s m c v hd hr h30 h29 hal hin
    exact execDwtGo_of hd fun w hgo e30 e29 => State.dwCtlWrite_starts rfl hgo (e30.trans h30) (e29.trans h29) hr hal hin
  · intro s m c v hd hr h30 h29 hbad
    exact execDwtGo_of hd fun w hgo e30 e29 => State.dwCtlWrite_refuses rfl hgo (e30.trans h30) (e29.trans h29) hr hbad
  · intro s m c v hd hr h30 h29
    exact execDwtGo_of hd fun w hgo e30 e29 => State.dwCtlWrite_lost hgo (e30.trans h30) (e29.trans h29) hr
  · intro s m c v hd hr h31 h29
    exact ⟨fun a hb => execDwtStop_of hd fun w e31 hstop e29 => State.dwCtlWrite_halts (e31.trans h31) hstop (e29.trans h29) hr hb,
      fun hb => execDwtStop_of hd fun w e31 hstop e29 => State.dwCtlWrite_stops (e31.trans h31) hstop (e29.trans h29) hr hb⟩
  · intro s m c v hd hr h31 h30 hp
    exact execDwtSwreq_of hd fun w e31 e30 hreq => State.dwCtlWrite_latches (e31.trans h31) (e30.trans h30) hreq hr hp
  · intro s m n v k t pwn entry grant dig hd hn hr h1 h2 he hg
    have ht : s.nioCleared n.val (putBit v 31 true) = t := s.nioCleared_putBit n.val v (by decide)
    exact rowWrite_nioCtl hd hn (State.nioCtlWrite_starts ht (bit_putBit_same v true (by decide)) hr h1 h2 he hg)
  · intro s m n v k t hd hn h30 hr
    have ht : s.nioCleared n.val (putBit v 31 true) = t := s.nioCleared_putBit n.val v (by decide)
    exact rowWrite_nioCtl hd hn (State.nioCtlWrite_lost ht (bit_putBit_same v true (by decide)) ((bit_putBit_ne v true (by decide)).trans h30) hr)
  · intro s m n v k t hd hn h31 hr
    have ht : s.nioCleared n.val (putBit v 30 true) = t := s.nioCleared_putBit n.val v (by decide)
    exact rowWrite_nioCtl hd hn (State.nioCtlWrite_stops ht ((bit_putBit_ne v true (by decide)).trans h31) (bit_putBit_same v true (by decide)) hr)
  · intro s m v k hd hk h30
    have hf : fld (putBit v 31 true) 0 10 = k := fld_putBit_ne v true (by decide)
    exact rowWrite_mus hd (o := 0x30) (by decide) (by decide) (congrArg some
      (State.vgoWrite_starts hf hk (bit_putBit_same v true (by decide)) ((bit_putBit_ne v true (by decide)).trans h30)))
  · intro s m v k hd hk h31 hp
    have hf : fld (putBit v 30 true) 0 10 = k := fld_putBit_ne v true (by decide)
    exact rowWrite_mus hd (o := 0x30) (by decide) (by decide) (congrArg some
      (State.vgoWrite_stops hf hk ((bit_putBit_ne v true (by decide)).trans h31) (bit_putBit_same v true (by decide)) hp))
  · intro s m v hd t
    exact rowWrite_mus hd (o := 0x34) (by decide) (by decide) (congrArg some (s.musCtlWrite_commits v))

end Sys2Proof.Machine

namespace Sys2Proof.Machine

/-! ## The machine as a whole -/

/-- Every command keeps the queue behind it and the canonical form, and undoes no fuse: one arm per row of the table, each the law of its meaning. -/
theorem exec_sound {s0 s : State} (h : Sound s0 s) (i : Instr) : SoundU s0 (exec i s) :=
  match i with
  | .nop _ => execNop_sound h
  | .fence _ => execFence_sound h
  | .featuresGet _ => execFeaturesGet_sound h
  | .featuresSet _ => execFeaturesSet_sound h
  | .expertEnter _ => execExpertEnter_sound h
  | .expertLeave _ => execExpertLeave_sound h
  | .memRegionSet _ => execMemRegionSet_sound h
  | .memRegionSetPantry _ => execMemRegionSetPantry_sound h
  | .memCopy _ => execMemCopy_sound h
  | .memFill _ => execMemFill_sound h
  | .assetLoad _ => execAssetLoad_sound h
  | .assetUnseal _ => execAssetUnseal_sound h
  | .errlogRead _ => execErrlogRead_sound h
  | .headTiming _ => execHeadTiming_sound h
  | .headEnable _ => execHeadEnable_sound h
  | .headDisable _ => execHeadDisable_sound h
  | .headCommit _ => execHeadCommit_sound h
  | .planeSet _ => execPlaneSet_sound h
  | .spriteTable _ => execSpriteTable_sound h
  | .spriteTableCanvas _ => execSpriteTableCanvas_sound h
  | .beamListSet _ => execBeamListSet_sound h
  | .composeSet _ => execComposeSet_sound h
  | .lutLoad _ => execLutLoad_sound h
  | .canvasSet _ => execCanvasSet_sound h
  | .routeSet _ => execRouteSet_sound h
  | .routeSetGenlock _ => execRouteSetGenlock_sound h
  | .crcRectSet _ => execCrcRectSet_sound h
  | .writebackSet _ => execWritebackSet_sound h
  | .mantelSet _ => execMantelSet_sound h
  | .mantelSetFields _ => execMantelSetFields_sound h
  | .mantelSetDisable _ => execMantelSetDisable_sound h
  | .rectFill _ => execRectFill_sound h
  | .rectCopy _ => execRectCopy_sound h
  | .rectConvert _ => execRectConvert_sound h
  | .dmaChainStart _ => execDmaChainStart_sound h
  | .dmaStop _ => execDmaStop_sound h
  | .voiceStart _ => execVoiceStart_sound h
  | .voiceStop _ => execVoiceStop_sound h
  | .voiceParam _ => execVoiceParam_sound h
  | .mixGraphLoad _ => execMixGraphLoad_sound h
  | .mixParamSet _ => execMixParamSet_sound h
  | .mixCommit _ => execMixCommit_sound h
  | .audioPortSet _ => execAudioPortSet_sound h
  | .audioPortSetDp _ => execAudioPortSetDp_sound h
  | .audioPortSetClock _ => execAudioPortSetClock_sound h
  | .timerCompareArm _ => execTimerCompareArm_sound h
  | .timerCaptureSet _ => execTimerCaptureSet_sound h
  | .pinseqLoad _ => execPinseqLoad_sound h
  | .pinseqLoadSlot _ => execPinseqLoadSlot_sound h
  | .pinseqLoadConfig _ => execPinseqLoadConfig_sound h
  | .pinseqLoadInject _ => execPinseqLoadInject_sound h
  | .pinseqStart _ => execPinseqStart_sound h
  | .pinseqStop _ => execPinseqStop_sound h
  | .nioftLoad _ => execNioftLoad_sound h
  | .nioftStart _ => execNioftStart_sound h
  | .nioftStop _ => execNioftStop_sound h
  | .attestQuote _ => execAttestQuote_sound h
  | .bootlogRead _ => execBootlogRead_sound h
  | .receiptConfig _ => execReceiptConfig_sound h
  | .receiptRead _ => execReceiptRead_sound h
  | .unitReset _ => execUnitReset_sound h
  | .powerState _ => execPowerState_sound h
  | .telemetryConfig _ => execTelemetryConfig_sound h
  | .clockPolicy _ => execClockPolicy_sound h
  | .doorbell _ _ => execDoorbell_sound h
  | .foyCqheadWrite _ _ => execFoyCqheadWrite_sound h
  | .foyRingcfgWrite _ _ => execFoyRingcfgWrite_sound h
  | .glbFeatCommit _ => execGlbFeatCommit_sound h
  | .glbSyncRead => execGlbSyncRead_sound h
  | .bar2Read _ _ => execBar2Read_sound h
  | .bar2Write _ _ => execBar2Write_sound h
  | .registerWrite _ _ _ _ => execRegisterWrite_sound h
  | .loRegisterRead _ _ => execLoRegisterRead_sound h
  | .hdCommitGo _ _ _ => execHdCommitGo_sound h
  | .hdBstsLoRead _ _ => execHdBstsLoRead_sound h
  | .tmbCaptLoRead _ _ => execTmbCaptLoRead_sound h
  | .psqSqRead _ _ _ => execPsqSqRead_sound h
  | .psqFqWrite _ _ _ _ => execPsqFqWrite_sound h
  | .psqInjWrite _ _ _ _ => execPsqInjWrite_sound h
  | .psqEstart _ _ _ => execPsqEstart_sound h
  | .psqEstop _ _ _ => execPsqEstop_sound h
  | .belClaim _ => execBelClaim_sound h
  | .belDone _ _ => execBelDone_sound h
  | .glbIrqswset _ _ _ => execGlbIrqswset_sound h
  | .glbIrqswclr _ _ _ => execGlbIrqswclr_sound h
  | .glbIrqmaskWrite _ _ _ => execGlbIrqmaskWrite_sound h
  | .ccsWdtkick _ _ => execCcsWdtkick_sound h
  | .rctGo _ _ _ => execRctGo_sound h
  | .dwtGo _ _ _ => execDwtGo_sound h
  | .dwtStop _ _ _ => execDwtStop_sound h
  | .dwtSwreq _ _ _ => execDwtSwreq_sound h
  | .nioGo _ _ _ => execNioGo_sound h
  | .nioStop _ _ _ => execNioStop_sound h
  | .musVgoStart _ _ => execMusVgoStart_sound h
  | .musVgoStop _ _ => execMusVgoStop_sound h
  | .musCtlCommit _ _ => execMusCtlCommit_sound h
  | .tmbCmpArm _ _ _ => execTmbCmpArm_sound h
  | .tmbCapcfgWrite _ _ _ => execTmbCapcfgWrite_sound h
  | .celFlipWrite _ _ => execCelFlipWrite_sound h
  | .panFlipWrite _ _ => execPanFlipWrite_sound h
  | .flipAddrWrite _ _ _ => execFlipAddrWrite_sound h
  | .frameBoundary _ => execFrameBoundary_sound h
  | .swapCycle _ => execSwapCycle_sound h
  | .lineEvent _ => execLineEvent_sound h
  | .headPllLock _ _ => execHeadPllLock_sound h
  | .pllGlideDone _ _ => execPllGlideDone_sound h
  | .genlockInEdge _ _ => execGenlockInEdge_sound h
  | .genlockLost _ => execGenlockLost_sound h
  | .genlockAlignEnd _ => execGenlockAlignEnd_sound h
  | .beamEnd _ => execBeamEnd_sound h
  | .beamWait _ => execBeamWait_sound h
  | .beamWaitx _ => execBeamWaitx_sound h
  | .beamWaitMet _ => execBeamWaitMet_sound h
  | .beamMove _ => execBeamMove_sound h
  | .beamMovem _ => execBeamMovem_sound h
  | .beamSkipif _ => execBeamSkipif_sound h
  | .beamJump _ => execBeamJump_sound h
  | .beamIrq _ => execBeamIrq_sound h
  | .beamStamp _ => execBeamStamp_sound h
  | .beamFence _ => execBeamFence_sound h
  | .beamFenceDone _ => execBeamFenceDone_sound h
  | .beamWriteLand _ => execBeamWriteLand_sound h
  | .beamIrqAnchor _ => execBeamIrqAnchor_sound h
  | .beamStampAnchor _ => execBeamStampAnchor_sound h
  | .beamLineBudgetRelease _ => execBeamLineBudgetRelease_sound h
  | .beamWindowEnd _ => execBeamWindowEnd_sound h
  | .spriteTableLoaded _ => execSpriteTableLoaded_sound h
  | .spriteLineEval _ => execSpriteLineEval_sound h
  | .bitmapLineRead _ => execBitmapLineRead_sound h
  | .mantelLineRead _ => execMantelLineRead_sound h
  | .writebackLine _ _ => execWritebackLine_sound h
  | .layerFetchFailure _ _ _ _ => execLayerFetchFailure_sound h
  | .mantelFetchFailure _ _ _ => execMantelFetchFailure_sound h
  | .echoSymbolMismatch _ _ _ => execEchoSymbolMismatch_sound h
  | .hpdPlug _ => execHpdPlug_sound h
  | .hpdUnplug _ => execHpdUnplug_sound h
  | .irqHpd _ => execIrqHpd_sound h
  | .sinkReadDone _ _ => execSinkReadDone_sound h
  | .linkTrainingDone _ _ => execLinkTrainingDone_sound h
  | .wiringSense _ _ => execWiringSense_sound h
  | .regionFillDone _ => execRegionFillDone_sound h
  | .assetLoadDone _ => execAssetLoadDone_sound h
  | .patrolScrubRead _ => execPatrolScrubRead_sound h
  | .refreshModeChange _ _ => execRefreshModeChange_sound h
  | .throttleStep _ _ => execThrottleStep_sound h
  | .rectOpBegin _ => execRectOpBegin_sound h
  | .rectBurst _ => execRectBurst_sound h
  | .rectDeadtimeExpiry _ _ => execRectDeadtimeExpiry_sound h
  | .rectRowDone _ => execRectRowDone_sound h
  | .rectOpDone _ => execRectOpDone_sound h
  | .rectReadUncorr _ => execRectReadUncorr_sound h
  | .dmaDescriptorFetch _ => execDmaDescriptorFetch_sound h
  | .dmaBurst _ => execDmaBurst_sound h
  | .dmaPaceExpiry _ _ => execDmaPaceExpiry_sound h
  | .dmaDescriptorDone _ => execDmaDescriptorDone_sound h
  | .dmaReadUncorr _ => execDmaReadUncorr_sound h
  | .sampleBoundary _ _ => execSampleBoundary_sound h
  | .audioClockLost => execAudioClockLost_sound h
  | .audioClockReturn => execAudioClockReturn_sound h
  | .tdmSlaveFrame _ _ _ => execTdmSlaveFrame_sound h
  | .tdmShort _ _ => execTdmShort_sound h
  | .nioMov _ => execNioMov_sound h
  | .nioAdd _ => execNioAdd_sound h
  | .nioSub _ => execNioSub_sound h
  | .nioCmp _ => execNioCmp_sound h
  | .nioAnd _ => execNioAnd_sound h
  | .nioOr _ => execNioOr_sound h
  | .nioXor _ => execNioXor_sound h
  | .nioTst _ => execNioTst_sound h
  | .nioAdc _ => execNioAdc_sound h
  | .nioSbc _ => execNioSbc_sound h
  | .nioMul _ => execNioMul_sound h
  | .nioMulu _ => execNioMulu_sound h
  | .nioMac _ => execNioMac_sound h
  | .nioAddi _ => execNioAddi_sound h
  | .nioMovi _ => execNioMovi_sound h
  | .nioShl _ => execNioShl_sound h
  | .nioShr _ => execNioShr_sound h
  | .nioSar _ => execNioSar_sound h
  | .nioRor _ => execNioRor_sound h
  | .nioShlReg _ => execNioShlReg_sound h
  | .nioShrReg _ => execNioShrReg_sound h
  | .nioSarReg _ => execNioSarReg_sound h
  | .nioLdb _ => execNioLdb_sound h
  | .nioLdh _ => execNioLdh_sound h
  | .nioLdw _ => execNioLdw_sound h
  | .nioLdbs _ => execNioLdbs_sound h
  | .nioStb _ => execNioStb_sound h
  | .nioSth _ => execNioSth_sound h
  | .nioStw _ => execNioStw_sound h
  | .nioLdsp _ => execNioLdsp_sound h
  | .nioStsp _ => execNioStsp_sound h
  | .nioBr _ => execNioBr_sound h
  | .nioCall _ => execNioCall_sound h
  | .nioCopyx _ => execNioCopyx_sound h
  | .nioFillx _ => execNioFillx_sound h
  | .nioFindx _ => execNioFindx_sound h
  | .nioSumx _ => execNioSumx_sound h
  | .nioMfs _ => execNioMfs_sound h
  | .nioMts _ => execNioMts_sound h
  | .nioLdi _ => execNioLdi_sound h
  | .nioNop _ => execNioNop_sound h
  | .nioRep _ => execNioRep_sound h
  | .nioReti _ _ => execNioReti_sound h
  | .nioRet _ => execNioRet_sound h
  | .nioJmpr _ => execNioJmpr_sound h
  | .nioCallr _ => execNioCallr_sound h
  | .nioWait _ => execNioWait_sound h
  | .nioHalt _ => execNioHalt_sound h
  | .nioTrap _ => execNioTrap_sound h
  | .nioFence _ => execNioFence_sound h
  | .nioNot _ => execNioNot_sound h
  | .nioNeg _ => execNioNeg_sound h
  | .nioJmp _ => execNioJmp_sound h
  | .nioFarLoadDone _ _ => execNioFarLoadDone_sound h
  | .nioFenceDone _ _ => execNioFenceDone_sound h
  | .nioIntEntry _ _ => execNioIntEntry_sound h
  | .nioWdogExpiry _ _ => execNioWdogExpiry_sound h
  | .coreRestart _ => execCoreRestart_sound h
  | .irqEdge _ => execIrqEdge_sound h
  | .irqLevelChange _ _ => execIrqLevelChange_sound h
  | .holdoffExpiry _ => execHoldoffExpiry_sound h
  | .compareFire _ => execCompareFire_sound h
  | .captureEdge _ _ => execCaptureEdge_sound h
  | .psqSlot _ _ _ _ => execPsqSlot_sound h
  | .psqSkip _ _ _ _ => execPsqSkip_sound h
  | .psqDrive _ _ _ _ => execPsqDrive_sound h
  | .psqEmit _ _ _ _ => execPsqEmit_sound h
  | .psqSample _ _ _ _ => execPsqSample_sound h
  | .psqFetch _ _ _ _ => execPsqFetch_sound h
  | .psqDeposit _ _ _ _ => execPsqDeposit_sound h
  | .psqAwait _ _ _ _ => execPsqAwait_sound h
  | .psqBranch _ _ _ _ => execPsqBranch_sound h
  | .psqLoop _ _ _ _ => execPsqLoop_sound h
  | .psqNext _ _ _ _ => execPsqNext_sound h
  | .psqPeriod _ _ _ _ => execPsqPeriod_sound h
  | .psqSignal _ _ _ _ => execPsqSignal_sound h
  | .psqStopch _ _ _ _ => execPsqStopch_sound h
  | .psqHold _ _ _ _ => execPsqHold_sound h
  | .psqPinShort _ _ => execPsqPinShort_sound h
  | .psqBankSupplyChange _ _ => execPsqBankSupplyChange_sound h
  | .coldBoot _ => execColdBoot_sound h
  | .cellarTrainingDone _ => execCellarTrainingDone_sound h
  | .warmReset _ => execWarmReset_sound h
  | .readySet => execReadySet_sound h
  | .functionLevelReset _ => execFunctionLevelReset_sound h
  | .bootLogAppend _ _ => execBootLogAppend_sound h
  | .receiptBatchClose => execReceiptBatchClose_sound h
  | .s2LinkExit => execS2LinkExit_sound h
  | .wakePin _ _ => execWakePin_sound h
  | .thermalWarning _ => execThermalWarning_sound h
  | .junctionTrip _ => execJunctionTrip_sound h
  | .telemetryRecord _ => execTelemetryRecord_sound h
  | .coreVoltageStep _ _ => execCoreVoltageStep_sound h
  | .refreshDemandStep _ _ => execRefreshDemandStep_sound h
  | .xtalSwitch => execXtalSwitch_sound h
  | .auditStatus _ => execAuditStatus_sound h
  | .auditBootrec _ => execAuditBootrec_sound h
  | .auditBatch _ => execAuditBatch_sound h
  | .auditQuote _ => execAuditQuote_sound h
  | .auditCert _ => execAuditCert_sound h
  | .auditSeek _ => execAuditSeek_sound h
  | .auditResponseReady => execAuditResponseReady_sound h
  | .auditRead => execAuditRead_sound h
  | .entdaa _ => execEntdaa_sound h
  | .setdasa _ => execSetdasa_sound h
  | .rstdaa => execRstdaa_sound h
  | .getpid => execGetpid_sound h
  | .getbcr => execGetbcr_sound h
  | .getdcr => execGetdcr_sound h
  | .getstatus => execGetstatus_sound h
  | .getmwl => execGetmwl_sound h
  | .getmrl => execGetmrl_sound h
  | .beamPositionEvent _ => execBeamPositionEvent_sound h
  | .echoAlignmentChange _ _ => execEchoAlignmentChange_sound h
  | .genlockPresentTimeout => execGenlockPresentTimeout_sound h
  | .nioFarStoreDone _ _ => execNioFarStoreDone_sound h
  | .unknownOpcodePacket _ _ => execUnknownOpcodePacket_sound h
  | .memOpDone _ => execMemOpDone_sound h
  | .nioftLoadDone _ => execNioftLoadDone_sound h
  | .mantelAdmissionDone _ => execMantelAdmissionDone_sound h
  | .s2Entry => execS2Entry_sound h
  | .cellarIdleSelfRefresh _ => execCellarIdleSelfRefresh_sound h
  | .pwrOkFall => execPwrOkFall_sound h
  | .railOutOfRange _ => execRailOutOfRange_sound h
  | .tripRelease _ => execTripRelease_sound h

/-- A step is sound from the state whose queue has lost its front. -/
theorem step_sound (s : State) : SoundU { s with pending := s.pending.tail } (step s) := by
  unfold step
  cases hp : s.pending with
  | nil =>
    have hs : { s with pending := ([] : List Instr).tail } = s := by rw [List.tail_nil, ← hp]
    rw [hs]
    exact soundU_next (State.idle_sound (Sound.refl s))
  | cons c rest => exact exec_sound (Sound.refl _) c

/-- Settles O57: the soundness of a step has the canonical form as one of its three parts. -/
theorem stepKeepsCanonical : Obligations.StepKeepsCanonical := by
  intro s t hc h
  exact ((step_sound s).out t h).canon hc

/-- Settles O58: the queue and the fuses are the other two parts of the soundness of a step. -/
theorem stepFusesRise : Obligations.StepFusesRise := by
  intro s t h
  obtain ⟨hpending, hfuses, _⟩ := (step_sound s).out t h
  exact ⟨hpending, hfuses⟩

/-- Settles O55: the two clauses are the two branches of `step`. -/
theorem stepFront : Obligations.StepFront := by
  refine ⟨fun s c rest hp => ?_, fun s hp => ?_⟩
  · unfold step
    rw [hp]
  · unfold step
    rw [hp]

/-- Settles O56: the state after reset lists nothing, so each table is in canonical form and reads as its default. -/
theorem resetCanonical : Obligations.ResetCanonical := by
  refine ⟨?_, rfl, rfl, rfl, ?_, fun a => rfl⟩
  · rfl
  · intro k
    rfl

end Sys2Proof.Machine

namespace Sys2Proof.Machine

/-! ## The Bell board: claims -/

/-- The best of a list of sources so far: a later one takes its place only with a higher priority. -/
def bestOf (prio : Nat → Nat) (b : Option Nat) (i : Nat) : Option Nat :=
  match b with
  | none => some i
  | some j => if prio j < prio i then some i else some j

/-- The search ends with a source that was listed, and no listed source has a higher priority. -/
theorem foldl_bestOf {prio : Nat → Nat} {l : List Nat} {j i : Nat} (h : l.foldl (bestOf prio) (some j) = some i) :
    (i = j ∨ i ∈ l) ∧ prio j ≤ prio i ∧ ∀ k ∈ l, prio k ≤ prio i := by
  induction l generalizing j with
  | nil =>
    obtain rfl : j = i := Option.some.inj h
    exact ⟨.inl rfl, Nat.le_refl _, nofun⟩
  | cons a l ih =>
    rw [List.foldl_cons, bestOf] at h
    split at h
    · next hlt =>
      obtain ⟨hi, ha, hl⟩ := ih h
      refine ⟨.inr ?_, by omega, List.forall_mem_cons.2 ⟨ha, hl⟩⟩
      exact List.mem_cons.2 hi
    · next hge =>
      obtain ⟨hi, hj, hl⟩ := ih h
      refine ⟨hi.imp_right (List.mem_cons_of_mem _), hj, List.forall_mem_cons.2 ⟨by omega, hl⟩⟩

theorem foldl_bestOf_some {prio : Nat → Nat} (l : List Nat) (j : Nat) : l.foldl (bestOf prio) (some j) ≠ none := by
  induction l generalizing j with
  | nil => nofun
  | cons a l ih =>
    rw [List.foldl_cons, bestOf]
    split <;> exact ih _

/-- The sources that a claim of target t chooses from. -/
def State.claimable (s : State) (t : Nat) : List Nat :=
  (s.bell.srcs.map (·.1)).filter fun i => s.deliverable i && decide (s.planTarget i = t)

theorem State.bestFor_eq (s : State) (t : Nat) : s.bestFor t = (s.claimable t).foldl (bestOf s.planPrio) none := rfl

/-- A key that reads other than its default is listed. -/
theorem Tbl.mem_keys_of_get_ne {α : Type} {d : Nat → α} {t : Tbl α} {i : Nat} (h : Tbl.get d t i ≠ d i) : i ∈ t.map (·.1) := by
  induction t with
  | nil => exact absurd rfl h
  | cons e t ih =>
    obtain ⟨k, v⟩ := e
    rw [List.map_cons, List.mem_cons]
    by_cases hk : k = i
    · exact .inl hk.symm
    · refine .inr (ih ?_)
      rwa [Tbl.get, Tbl.find, if_neg hk] at h

/-- A source that is deliverable has been heard of: its entry is not the initial one. -/
theorem State.mem_claimable {s : State} {t j : Nat} : j ∈ s.claimable t ↔ s.deliverable j = true ∧ s.planTarget j = t := by
  rw [State.claimable, List.mem_filter, Bool.and_eq_true, decide_eq_true_eq, and_iff_right_iff_imp]
  rintro ⟨hd, -⟩
  have hp : (s.src j).pend = true := by
    simp only [State.deliverable, Bool.and_eq_true] at hd
    exact hd.1.1.1.1
  refine Tbl.mem_keys_of_get_ne (d := fun _ => srcInit) fun e => ?_
  rw [show s.src j = srcInit from e] at hp
  exact Bool.false_ne_true hp

/-- Settles O60: the search of `State.bestFor` runs over exactly the deliverable sources of the target. -/
theorem claimBest : Obligations.ClaimBest := by
  refine ⟨fun s t i h => ?_, fun s t h j ht => ?_⟩
  · rw [State.bestFor_eq] at h
    cases hl : s.claimable t with
    | nil => rw [hl] at h; exact absurd h nofun
    | cons a l =>
      rw [hl] at h
      obtain ⟨hi, ha, hmax⟩ := foldl_bestOf (j := a) h
      have hall : ∀ k ∈ s.claimable t, s.planPrio k ≤ s.planPrio i := by
        rw [hl]; exact List.forall_mem_cons.2 ⟨ha, hmax⟩
      obtain ⟨hd, htgt⟩ := State.mem_claimable.1 (hl ▸ List.mem_cons.2 hi : i ∈ s.claimable t)
      exact ⟨hd, htgt, fun j hj hjt => hall j (State.mem_claimable.2 ⟨hj, hjt⟩)⟩
  · rw [State.bestFor_eq] at h
    cases hl : s.claimable t with
    | nil =>
      refine Bool.eq_false_iff.2 fun hd => ?_
      have : j ∈ s.claimable t := State.mem_claimable.2 ⟨hd, ht⟩
      rw [hl] at this
      exact absurd this nofun
    | cons a l =>
      rw [hl] at h
      exact absurd h (foldl_bestOf_some l a)

/-- The board after a claim has returned source i: ACT is set, PEND stays only for a level source, and the group's hold-off timer starts where it has a period and does not run (R436, R441). -/
def State.claimed (s : State) (i : Nat) : State :=
  let t := s.setSrc i { s.src i with act := true, pend := srcLevel i && (s.src i).inp }
  if t.held (t.planGrp i) || decide (t.regF (kIrqHold (t.planGrp i)) 0 16 = 0) then t else t.holdStart (t.planGrp i)

theorem State.claim_some {s : State} {t i : Nat} (h : s.bestFor t = some i) : s.claim t = (wd i, s.claimed i) := by
  rw [State.claim, h]
  rfl

theorem State.claim_none {s : State} {t : Nat} (h : s.bestFor t = none) :
    s.claim t = (0, s.setF (kTstat t) 0 16 (s.regF (kTstat t) 0 16 + 1)) := by
  rw [State.claim, h]

/-! ### The claim registers -/

theorem execBelClaim_core {s : State} (n : Fin 16) (ha : s.answers = true) :
    exec (.belClaim (.core n)) s = .next ((s.claim n.val).2.answer [(s.claim n.val).1]) := by
  have hc : s.ccsRead n.val 0x18 = s.claim n.val := if_pos rfl
  show execBelClaim (.core n) s = _
  simp only [execBelClaim, ha, hc, Bool.not_true, Bool.false_eq_true, if_false]

theorem execBelClaim_pf1 {s : State} (ha : s.answers = true) :
    exec (.belClaim .pf1) s = .next ((s.claim 17).2.answer [(s.claim 17).1]).pump := by
  have hc : s.regRead .pf1 (.pf1 0x3000) = s.claim 17 := by
    simp [State.regRead, ha, State.pf1Read]
  show s.partRead .pf1 (.pf1 0x3000) .word = _
  simp only [State.partRead, hc, readPart]

/-- On the BEL page only PF0's target may be claimed; the other registers read 0 (R436, R444). -/
theorem State.pageRead_claim {s : State} (t : Fin 18) (hr : s.ready = true) (hp : s.pageAbsent 2 = false) :
    s.pageRead 2 (0x1000 + 16 * t.val) = if t = 16 then s.claim 16 else (0, s) := by
  have ht := t.isLt
  have hw : writeOnly 2 (0x1000 + 16 * t.val) = false := rfl
  have hwide : wideReg 2 (0x1000 + 16 * t.val) = false := rfl
  have hreg : 0x1000 ≤ 0x1000 + 16 * t.val ∧ 0x1000 + 16 * t.val < 0x1120 ∧ (0x1000 + 16 * t.val) % 16 = 0 := by omega
  have h16 : 0x1000 + 16 * t.val = 0x1100 ↔ t = 16 := by rw [Fin.ext_iff]; show _ ↔ t.val = 16; omega
  simp [State.pageRead, hr, hp, hw, hwide, hreg, h16]

theorem execBelClaim_page {s : State} {m : Master} (t : Fin 18) (hv : s.views m 2 = true) :
    exec (.belClaim (.page m t)) s =
      .next ((if t = 16 then s.claim 16 else (0, s)).2.answer [(if t = 16 then s.claim 16 else (0, s)).1]).pump := by
  have ht := t.isLt
  obtain ⟨hq, hr⟩ : (kBEL + 0x1000 + 16 * t.val) / 0x10000 = 2 ∧ (kBEL + 0x1000 + 16 * t.val) % 0x10000 = 0x1000 + 16 * t.val := by
    unfold kBEL; omega
  have hready : s.ready = true ∧ s.pageAbsent 2 = false := by
    simp only [State.views, Bool.and_eq_true, Bool.not_eq_true'] at hv
    exact ⟨hv.1.1.2, hv.1.2⟩
  have hrow := rowRead_views (s := s) (m := m) (off := kBEL + 0x1000 + 16 * t.val) (by rw [hq]; exact hv) (by unfold kBEL; omega)
    (by rw [hq]; rfl) (by unfold kBEL; omega) (by unfold kBEL; omega)
  rw [hq, hr, State.pageRead_claim t hready.1 hready.2] at hrow
  exact hrow

/-! ### Masks and software sources -/

/-- The registers of the GLB page are not under expert control, so a host write of a word reaches them (R36). -/
theorem rowWrite_glb {s t : State} {o : Nat} {v : Word} (ha : s.answers = true) (hp : s.pageAbsent 0 = false) (h4 : o % 4 = 0)
    (ho : o < 0x10000) (hw : s.glbWrite o v = some t) : s.rowWrite .pf0 (bar0At o) v = .next t.pump := by
  have hoff : (BitVec.ofNat 24 o).toNat = o := bar0At_toNat (by omega)
  have hq : (BitVec.ofNat 24 o).toNat / 0x10000 = 0 := by omega
  have hr : (BitVec.ofNat 24 o).toNat % 0x10000 = o := by omega
  have hpage : s.pageWrite 0 o v = some t := hw
  have hreg := regWrite_pf0 (s := s) (off := BitVec.ofNat 24 o) (v := v) ha (by omega) (by rw [hq]; rfl) (by omega) (by rw [hq]; exact hp)
  rw [hq, hr, hpage, show basicWrite 0 o = true from rfl] at hreg
  rw [State.rowWrite, bar0At, hreg]
  rfl

theorem State.glbWrite_swset (s : State) (k : Fin 2) (v : Word) : s.glbWrite (0x5180 + 4 * k.val) v = some (s.swWrite k.val v true) := by
  match k with
  | 0 => rfl
  | 1 => rfl

theorem State.glbWrite_swclr (s : State) (k : Fin 2) (v : Word) : s.glbWrite (0x5188 + 4 * k.val) v = some (s.swWrite k.val v false) := by
  match k with
  | 0 => rfl
  | 1 => rfl

theorem State.glbWrite_mask (s : State) (k : Fin 32) (v : Word) : s.glbWrite (kIrqMask k.val) v = some (s.maskWrite k.val v) := by
  have hk := k.isLt
  have he : (kIrqMask k.val - 0x5000) / 4 = k.val := by unfold kIrqMask; omega
  unfold State.glbWrite
  rw [if_neg (by unfold kIrqMask; omega), if_neg (by unfold kIrqMask; omega), if_neg (by unfold kIrqMask; omega),
    if_neg (by unfold kIrqMask; omega), if_neg (by unfold kIrqMask; omega), if_pos (by unfold kIrqMask; omega), he]

/-- Settles O20: a claim is `State.claim` behind each of its registers, and each write is the one that its page makes of it. -/
theorem bellRegisters : Obligations.BellRegisters := by
  refine ⟨fun s n i ha h => ?_, fun s n ha h => ?_, fun s i ha h => ?_, fun s m i hv h => ?_, fun s m t hv ht => ?_,
    fun s k v ha hp => ⟨?_, ?_⟩, fun s k v ha hp => ?_, fun s n v ha => ?_⟩
  · rw [execBelClaim_core n ha, State.claim_some h]
    rfl
  · rw [execBelClaim_core n ha, State.claim_none h]
  · rw [execBelClaim_pf1 ha, State.claim_some h]
    rfl
  · rw [execBelClaim_page 16 hv, if_pos rfl, State.claim_some h]
    rfl
  · rw [execBelClaim_page t hv, if_neg ht]
  · exact rowWrite_glb ha hp (by omega) (by omega) (s.glbWrite_swset k v)
  · exact rowWrite_glb ha hp (by omega) (by omega) (s.glbWrite_swclr k v)
  · exact rowWrite_glb ha hp (by unfold kIrqMask; omega) (by unfold kIrqMask; omega) (s.glbWrite_mask k v)
  · show execCcsWdtkick n v s = _
    rw [execCcsWdtkick, if_pos ha]
    rfl

/-! ### A complete through a page that is not granted -/

/-- A running device on which no page is granted to a Parlour core and no source has been heard of. -/
def ungranted : State := { State.reset with phase := .run }

/-- `BEL_TSTAT.BADDONE` of target 16, as an outcome shows it. -/
def baddoneOf (r : Out) : Bool := match r with | .next t => t.regB (kTstat 16) 31 | _ => false

/-- A Parlour core to which the BEL page is not granted writes nothing there, so its complete of an idle source sets no flag (R402). -/
theorem ungranted_core_done : baddoneOf (exec (.belDone (.page (.core 4) 16) 1) ungranted) = false := by decide +kernel

/-- Refutes O21: its clauses of the BEL page are of every master but PF1 and ask for no grant, while a Parlour core without the grant of page 2 is denied the write, and no BADDONE is set (R402). -/
theorem not_doneRegisters : ¬ Obligations.DoneRegisters := by
  intro h
  obtain ⟨-, -, -, -, hpage⟩ := h ungranted 1 (by decide +kernel)
  obtain ⟨-, -, hbad⟩ := hpage (.core 4) nofun (by decide +kernel)
  have hnext := congrArg baddoneOf (hbad (by decide +kernel) (by decide +kernel))
  rw [ungranted_core_done] at hnext
  exact absurd hnext (by decide +kernel)

end Sys2Proof.Machine

namespace Sys2Proof.Machine

/-! ## The Music Room: the staged program's header -/

/-- Word 2 of the staged program's header in a next state: COST. -/
def stagedCost : Out → Word
  | .next t => t.mus.staged.hdr.getD 2 0
  | _ => 0

/-- A running device with ring 0 next, which holds words; its staged program has one node, and a header that says COST 0. -/
def oneNodeStaged : State :=
  let s : State := { State.reset with
    phase := .run
    foy := { State.reset.foy with round := 2 }
    mus := { State.reset.mus with staged := ⟨[0x3143474D, 1, 0, 0], [1 :: List.replicate 15 0]⟩ } }
  (((s.setReg 4 1).setReg (kSqTail 0) 1000).setReg (kRingStat 0) 0x80000000).setReg (kRingCfg 0) 0x80000000

/-- MIX_PARAM_SET of parameter 0 of node 1, as the first packet of ring 0. -/
def setParamZero : Packet := ⟨0, false, false, false, false, 7, 0, 7, [1, 0x00010000, 0]⟩

theorem oneNodeStaged_takes : Takes oneNodeStaged .mixParamSet setParamZero where
  fetch := by decide +kernel
  quiet := by decide +kernel
  next := by decide +kernel
  sane := by decide +kernel
  whole := by decide +kernel
  avail := by decide +kernel
  fits := by decide +kernel
  fresh := nofun
  core := nofun
  header := by decide +kernel
  feature := nofun

/-- The firmware keeps the header's COST true to the records (R384): it becomes the cost of the one node. -/
theorem oneNodeStaged_cost : stagedCost (exec (.mixParamSet setParamZero) oneNodeStaged) = 5 := by decide +kernel

/-- Refutes O9: MIX_PARAM_SET also brings COST of the staged header up to date, while the clause keeps the header as it was; a staged header with a COST that is not its records' shows it. -/
theorem not_musicPackets : ¬ Obligations.MusicPackets := by
  unfold Obligations.MusicPackets
  rintro ⟨-, -, -, -, hparam, -, -⟩
  have hnext := congrArg stagedCost (hparam oneNodeStaged setParamZero oneNodeStaged_takes (by decide +kernel) (by decide +kernel))
  rw [oneNodeStaged_cost] at hnext
  exact absurd hnext (by decide +kernel)

/-! ## The cores: a restart in S2 -/

/-- The firmware cores that are down in a next state. -/
def downCores : Out → List Nat
  | .next t => t.att.down
  | _ => []

/-- A running device in S2 whose firmware core 0 is down. -/
def asleepDown : State := { (State.reset.setReg 4 0x20) with phase := .run, att := { State.reset.att with down := [0] } }

/-- In S2 no firmware core restarts: core 0 stays down. -/
theorem asleepDown_restart : downCores (exec (.coreRestart 0) asleepDown) = [0] := by decide +kernel

/-- Refutes O47: the restart clauses ask only for a device that answers, and in S2 such a device restarts no core. -/
theorem not_nioEventRows : ¬ Obligations.NioEventRows := by
  unfold Obligations.NioEventRows
  rintro ⟨-, -, -, -, -, -, hrestart, -, -⟩
  have hnext := congrArg downCores (hrestart asleepDown 0 (by decide +kernel) (by decide +kernel) (by decide))
  rw [asleepDown_restart] at hnext
  exact absurd hnext (by decide +kernel)

/-! ## The cores: an entry -/

/-- The core of an entry whose context stands in memory: W15 at the word, no request due, no REP and no WAIT (R421). -/
def State.nioContext (s : State) (n sp : Nat) : State :=
  (s.updCore n fun c => { (c.setReg 15 (wd sp)) with due := 0, rep := 0 }).setB (kCstat n) 30 false

/-- TRAP enters at level 15 through vector 0 (R423). -/
theorem State.nioEnter_trap {s u v : State} {n resume a : Nat} (hsp : stackBad ((s.core n).reg 15 - 4).toNat = false)
    (hwrite : s.dataWrite n ((s.core n).reg 15 - 4).toNat 4 (ctxWord (s.ipl n) (s.core n).fl resume) = some u)
    (hvec : ((u.nioContext n ((s.core n).reg 15 - 4).toNat).setIpl n 15).nioVector n 0 = (some a, v)) :
    s.nioEnter n resume true = ((v.setPc n a).spend n 4).nioBoundary n := by
  rw [State.nioContext] at hvec
  simp only [State.nioEnter, hsp, hwrite, Bool.false_eq_true, if_false, if_true, hvec]

/-- Settles O46: with its word on a sound stack and its vector read, nothing of an entry is left open. -/
theorem nioEntry : Obligations.NioEntry := by
  intro s u v n resume a c sp hsp hwrite w hvec
  exact State.nioEnter_trap hsp hwrite hvec

end Sys2Proof.Machine

namespace Sys2Proof.Machine

/-! ## The Nioft cores: fetching -/

theorem Core.word_mod (c : Core) (i : Nat) : c.word (i % 16384) = c.word i := by rw [Core.word, Core.word, Nat.mod_mod]

theorem Core.wordCode_mod (c : Core) (i : Nat) : c.wordCode (i % 16384) = c.wordCode i := by rw [Core.wordCode, Core.wordCode, Nat.mod_mod]

theorem State.each_same {α : Type} {s : State} {l : List α} {f : State → α → State} (h : ∀ a ∈ l, f s a = s) : s.each l f = s := by
  induction l with
  | nil => rfl
  | cons a l ih =>
    rw [State.each, List.foldl_cons, h a List.mem_cons_self]
    exact ih fun b hb => h b (List.mem_cons_of_mem a hb)

/-- Words without an error are fetched as they stand, and nothing is logged (R399). -/
theorem State.nioFetch_clean {s : State} {n pc k : Nat} (h : ∀ j < k, (s.core n).wordCode (pc + j) = .good) :
    s.nioFetch n pc k = (some ((List.range k).map fun j => (s.core n).word (pc + j)), s) := by
  have hcode : ∀ i ∈ (List.range k).map fun j => (pc + j) % 16384, (s.core n).wordCode i = .good := by
    intro i hi
    obtain ⟨j, hj, rfl⟩ := List.mem_map.1 hi
    rw [Core.wordCode_mod]
    exact h j (List.mem_range.1 hj)
  have hany : ((List.range k).map fun j => (pc + j) % 16384).any (fun i => decide ((s.core n).wordCode i = .uncorr)) = false :=
    List.any_eq_false.2 fun i hi => by rw [hcode i hi]; decide
  have hwords : ((List.range k).map fun j => (pc + j) % 16384).map (s.core n).word = (List.range k).map fun j => (s.core n).word (pc + j) := by
    rw [List.map_map]
    exact List.map_congr_left fun j _ => Core.word_mod _ _
  simp only [State.nioFetch, hany, hwords, Bool.false_eq_true, if_false]
  rw [State.each_same fun i hi => by rw [hcode i hi]]

theorem nLen_le (w : Nat) : nLen w ≤ 3 := by
  unfold nLen
  split
  · decide
  · split <;> decide
  · split <;> decide
  · decide

theorem Stands.fetch {s : State} {n : Fin 16} {i : NInstr} (h : Stands s n i) {k : Nat} (hk : k ≤ 3) :
    s.nioFetch n.val (s.pc n.val) k = (some ((List.range k).map fun j => (s.core n.val).word (s.pc n.val + j)), s) :=
  State.nioFetch_clean fun j hj => h.clean j (by omega)

/-- The row of the instruction at the PC: past the fetch only that instruction is left. -/
theorem Stands.nioRow {s : State} {n : Fin 16} {i : NInstr} (h : Stands s n i) (k : Nat) :
    s.nioRow n.val i.op k = if i.op = .rep then s.nioRep n.val (s.pc n.val) else s.nioExec n.val (s.pc n.val) i k := by
  have hword : nDecode ((s.nioWords n.val).headD 0) ((s.nioWords n.val).getD 1 0) ((s.nioWords n.val).getD 2 0) = some i := by
    rw [List.headD_eq_head?_getD, List.head?_eq_getElem?]; exact h.word
  have hfirst : ((List.range 1).map fun j => (s.core n.val).word (s.pc n.val + j)).headD 0 = (s.core n.val).word (s.pc n.val) := rfl
  have hall := h.fetch (nLen_le ((s.core n.val).word (s.pc n.val)))
  rw [State.nioWords] at hword
  simp only [State.nioRow, h.ready, h.alone, h.fetch (k := 1) (by decide), hfirst, hall, hword, Bool.not_true, Bool.false_eq_true, ne_eq,
    not_true_eq_false, decide_false, if_false]

theorem Stands.row {s : State} {n : Fin 16} {i : NInstr} (h : Stands s n i) {want : NOp} (hop : i.op = want) (hrep : want ≠ .rep) (k : Nat) :
    s.nioOpRow n want k = .next (s.nioExec n.val (s.pc n.val) i k).pump := by
  subst hop
  exact State.working_next h.live (by rw [h.nioRow, if_neg hrep])

theorem Stands.repRow {s : State} {n : Fin 16} {i : NInstr} (h : Stands s n i) (hop : i.op = .rep) :
    exec (.nioRep n) s = .next (s.nioRep n.val (s.pc n.val)).pump := by
  have hrow := h.nioRow 0
  rw [hop, if_pos rfl] at hrow
  exact State.working_next (f := fun s => s.nioRow n.val .rep 0) h.live hrow

/-! ## The Nioft cores: the register instructions -/

theorem addFl_fst_noCarry (a b : Word) : (addFl a b false).1 = a + b := BitVec.add_zero _

theorem subFl_fst_noBorrow (a b : Word) : (subFl a b true).1 = a - b := BitVec.sub_zero _

section
variable {s : State} {n : Nat} {i : NInstr} {k pc : Nat}

/-- An instruction that gives a value and flags (R406). -/
theorem State.nioExec_value {v : Word} {fl : Nat} (h : nioAlu ((s.nioAt n).core n) i = some (some v, fl)) :
    s.nioExec n pc i k = (((s.nioAt n).nioPut n i.d v).nioFl n fl).nioEnd n (pc + i.len) i.len := by
  rw [State.nioAt] at h
  simp only [State.nioExec, h]
  rfl

/-- A comparison: flags alone. -/
theorem State.nioExec_flags {fl : Nat} (h : nioAlu ((s.nioAt n).core n) i = some (none, fl)) :
    s.nioExec n pc i k = ((s.nioAt n).nioFl n fl).nioEnd n (pc + i.len) i.len := by
  rw [State.nioAt] at h
  simp only [State.nioExec, h]
  rfl

theorem State.nioExec_product {acc : Bool} {p : DWord} (ha : nioAlu ((s.nioAt n).core n) i = none)
    (h : nioProduct ((s.nioAt n).core n) i = some (acc, p)) :
    s.nioExec n pc i k =
      ((s.nioAt n).updCore n fun c => { c with muls := c.muls ++ [⟨s.cyc n, acc, p⟩] }).nioEnd n (pc + i.len) 1 := by
  rw [State.nioAt] at h ha
  simp only [State.nioExec, ha, h]
  rfl

theorem State.nioExec_mfs (h : i.op = .mfs) :
    s.nioExec n pc i k = ((s.nioAt n).nioPut n i.d ((s.nioAt n).spec n i.s)).nioEnd n (pc + i.len) 1 := by
  simp only [State.nioExec, nioAlu, nioProduct, h]
  rfl

theorem State.nioExec_mts (h : i.op = .mts) :
    s.nioExec n pc i k = ((s.nioAt n).setSpec n i.s (((s.nioAt n).core n).reg i.d)).nioEnd n (pc + i.len) 1 := by
  simp only [State.nioExec, nioAlu, nioProduct, h]
  rfl

theorem State.nioExec_nop (h : i.op = .nop) : s.nioExec n pc i k = (s.nioAt n).nioEnd n (pc + i.len) 1 := by
  simp only [State.nioExec, nioAlu, nioProduct, h]
  rfl

end

theorem Stands.value {s : State} {n : Fin 16} {i : NInstr} (h : Stands s n i) {want : NOp} {v : Word} {fl : Nat} (hop : i.op = want) (hrep : want ≠ .rep)
    (halu : nioAlu ((s.nioAt n.val).core n.val) i = some (some v, fl)) :
    s.nioOpRow n want 0 = .next ((((s.nioAt n.val).nioPut n.val i.d v).nioFl n.val fl).nioEnd n.val (s.pc n.val + i.len) i.len).pump := by
  rw [h.row hop hrep, State.nioExec_value halu]

theorem Stands.flags {s : State} {n : Fin 16} {i : NInstr} (h : Stands s n i) {want : NOp} {fl : Nat} (hop : i.op = want) (hrep : want ≠ .rep)
    (halu : nioAlu ((s.nioAt n.val).core n.val) i = some (none, fl)) :
    s.nioOpRow n want 0 = .next (((s.nioAt n.val).nioFl n.val fl).nioEnd n.val (s.pc n.val + i.len) i.len).pump := by
  rw [h.row hop hrep, State.nioExec_flags halu]

/-- Settles O39: the fetch is `Stands.row`, value and flags are `nioAlu`'s. -/
theorem nioRegisterRows : Obligations.NioRegisterRows := by
  intro s n i h t a b fl ends tests
  have alu {want : NOp} (hop : i.op = want) : nioAlu (t.core n.val) i = nioAlu (t.core n.val) ⟨want, i.d, i.s, i.imm, i.len⟩ := by
    rw [← hop]
  have sum (x y : Word) : some (some (addFl x y false).1, (addFl x y false).2) = some (some (x + y), (addFl x y false).2) := by
    rw [addFl_fst_noCarry]
  have diff (x y : Word) : some (some (subFl x y true).1, (subFl x y true).2) = some (some (x - y), (subFl x y true).2) := by
    rw [subFl_fst_noBorrow]
  exact ⟨fun hop => h.value hop nofun (alu hop), fun hop => h.value hop nofun (alu hop), fun hop => h.value hop nofun (alu hop),
    fun hop => h.value hop nofun ((alu hop).trans (sum a b)), fun hop => h.value hop nofun ((alu hop).trans (sum a _)),
    fun hop => h.value hop nofun (alu hop), fun hop => h.value hop nofun ((alu hop).trans (diff a b)), fun hop => h.value hop nofun (alu hop),
    fun hop => h.value hop nofun ((alu hop).trans (diff 0 a)), fun hop => h.flags hop nofun (alu hop), fun hop => h.flags hop nofun (alu hop),
    fun hop => h.value hop nofun (alu hop), fun hop => h.value hop nofun (alu hop), fun hop => h.value hop nofun (alu hop),
    fun hop => h.value hop nofun (alu hop), fun hop => h.value hop nofun (alu hop), fun hop => h.value hop nofun (alu hop),
    fun hop => h.value hop nofun (alu hop), fun hop => h.value hop nofun (alu hop), fun hop => h.value hop nofun (alu hop),
    fun hop => h.value hop nofun (alu hop), fun hop => h.value hop nofun (alu hop),
    fun hop => (h.row hop nofun 0).trans (by rw [State.nioExec_mfs hop]), fun hop => (h.row hop nofun 0).trans (by rw [State.nioExec_mts hop]),
    fun hop => (h.row hop nofun 0).trans (by rw [State.nioExec_nop hop])⟩

end Sys2Proof.Machine

namespace Sys2Proof.Machine

/-! ## The Nioft cores: the multiplier -/

theorem State.core_updCore_same (s : State) (n : Nat) (f : Core → Core) : (s.updCore n f).core n = f (s.core n) := Tbl.get_set_same ..

theorem State.nioAt_core (s : State) (n : Nat) : (s.nioAt n).core n = (s.core n).mulDone (s.cyc n) := State.core_updCore_same ..

/-- The products that complete touch nothing but the accumulator and the list of products on their way (R412). -/
theorem Core.mulDone_eq (c : Core) (t : Nat) : ∃ mh ml muls, c.mulDone t = { c with mh := mh, ml := ml, muls := muls } := by
  have hfold : ∀ (l : List CoreMul) (c : Core), ∃ mh ml, (l.foldl (fun (c : Core) m =>
      let v := if m.mac then dw c.ml c.mh + m.val else m.val
      { c with mh := hi32 v, ml := lo32 v }) c) = { c with mh := mh, ml := ml } := by
    intro l
    induction l with
    | nil => exact fun c => ⟨_, _, rfl⟩
    | cons m l ih => exact fun c => ih _
  obtain ⟨mh, ml, h⟩ := hfold (c.muls.filter fun m => decide (m.cyc + 2 < t)) c
  exact ⟨mh, ml, _, by rw [Core.mulDone, h]⟩

theorem Core.mulDone_rep (c : Core) (t : Nat) : (c.mulDone t).rep = c.rep := by
  obtain ⟨_, _, _, h⟩ := c.mulDone_eq t
  rw [h]

/-- A single product that is not due stays on its way. -/
theorem Core.mulDone_early {c : Core} {m : CoreMul} {t : Nat} (h : c.muls = [m]) (ht : t ≤ m.cyc + 2) : c.mulDone t = c := by
  have hno : decide (m.cyc + 2 < t) = false := decide_eq_false (by omega)
  simp only [Core.mulDone, h, List.filter_cons, hno, Bool.false_eq_true, if_false, List.filter_nil, List.foldl_nil, Bool.not_false, if_true]
  rw [← h]

theorem Core.mulDone_due {c : Core} {m : CoreMul} {t : Nat} (h : c.muls = [m]) (ht : m.cyc + 2 < t) :
    c.mulDone t = { c with
      mh := hi32 (if m.mac then dw c.ml c.mh + m.val else m.val)
      ml := lo32 (if m.mac then dw c.ml c.mh + m.val else m.val)
      muls := [] } := by
  have hyes : decide (m.cyc + 2 < t) = true := decide_eq_true ht
  simp only [Core.mulDone, h, List.filter_cons, hyes, if_true, List.filter_nil, List.foldl_cons, List.foldl_nil, Bool.not_true, Bool.false_eq_true,
    if_false]

/-- Settles O41: the issue is `State.nioExec_product`, the completion `Core.mulDone`. -/
theorem nioMultiplyRows : Obligations.NioMultiplyRows := by
  refine ⟨fun s n i h => ?_, fun c t acc p hc => ⟨Core.mulDone_early hc (Nat.le_refl _), ?_, ?_⟩⟩
  · have issue {want : NOp} {acc : Bool} {p : DWord} (hop : i.op = want) (hrep : want ≠ .rep)
        (ha : nioAlu ((s.nioAt n.val).core n.val) i = none) (hp : nioProduct ((s.nioAt n.val).core n.val) i = some (acc, p)) :=
      (h.row hop hrep 0).trans (by rw [State.nioExec_product ha hp])
    refine ⟨fun hop => issue hop nofun ?_ ?_, fun hop => issue hop nofun ?_ ?_, fun hop => issue hop nofun ?_ ?_⟩
    all_goals simp only [nioAlu, nioProduct, hop]
  · rintro rfl
    rw [Core.mulDone_due hc (by simp)]
    exact ⟨rfl, rfl⟩
  · rintro rfl
    rw [Core.mulDone_due hc (by simp)]
    exact ⟨rfl, rfl⟩

/-! ## The Nioft cores: local data memory -/

section
variable {s : State} {n a k : Nat}

theorem State.nioSpace_local (h : a < 0x10000) : s.nioSpace n a = .loc := if_pos h

theorem State.nioDenied_local {w : Bool} (h : a < 0x10000) : s.nioDenied n a k w = false := by
  rw [State.nioDenied, State.nioSpace_local h]

theorem State.nioFar_local (h : a < 0x10000) : s.nioFar n a = none := by rw [State.nioFar, State.nioSpace_local h]

theorem State.storeFull_local (h : a < 0x10000) : s.storeFull n a = false := by rw [State.storeFull, State.nioFar_local h]; rfl

theorem State.dataRead_good (h : (s.core n).dataCode a = .good) : s.dataRead n a k = (some (wd (leNat ((s.core n).bytes a k))), s) := by
  simp only [State.dataRead, h]

theorem State.nioRead_local (h : s.localOk n a) : s.nioRead n a k = (some (wd (leNat ((s.core n).bytes a k))), s) := by
  obtain ⟨ha, hgood⟩ := h
  rw [State.nioRead, State.nioSpace_local ha]
  exact State.dataRead_good hgood

theorem State.nioWriteAt_local (h : a < 0x10000) (v : Word) : s.nioWriteAt n a k v = s.dataWrite n a k v := by
  rw [State.nioWriteAt, State.nioSpace_local h]

end

/-- A data access that no check stops: in local memory, at a multiple of its size or where the stack may be. -/
def NAccess.sound (a : NAccess) : Prop := a.addr < 0x10000 ∧ if a.stack then stackBad a.addr = false else a.addr % a.size = 0

theorem State.nioFault_none {s : State} {n : Nat} {as : List NAccess} (h : ∀ a ∈ as, a.sound) : s.nioFault n as = none := by
  have halign : as.find? (fun a => !a.stack && decide (a.addr % a.size ≠ 0)) = none := by
    refine List.find?_eq_none.2 fun a ha => ?_
    obtain ⟨-, hs⟩ := h a ha
    cases hst : a.stack with
    | true => simp
    | false => simpa [hst] using hs
  have hmay : as.find? (fun a => if a.stack then stackBad a.addr else s.nioDenied n a.addr a.size a.write) = none := by
    refine List.find?_eq_none.2 fun a ha => ?_
    obtain ⟨hloc, hs⟩ := h a ha
    cases hst : a.stack with
    | true => simpa [hst] using hs
    | false => simp [State.nioDenied_local hloc]
  rw [State.nioFault, halign, hmay]

/-- With sound accesses an instruction neither traps nor waits. -/
theorem State.nioMemory_local {s : State} {n pc : Nat} {i : NInstr} (h : ∀ a ∈ nioAccesses (s.core n) i, a.sound) :
    s.nioMemory n pc i none = s.nioAccess n pc i 0 := by
  have hload : (nioAccesses (s.core n) i).findSome? (fun a => if a.write || a.stack then none else s.nioFar n a.addr) = none := by
    refine List.findSome?_eq_none_iff.2 fun a ha => ?_
    rw [State.nioFar_local (h a ha).1, ite_self]
  have hstore : (nioAccesses (s.core n) i).any (fun a => a.write && !a.stack && s.storeFull n a.addr) = false :=
    List.any_eq_false.2 fun a ha => by rw [State.storeFull_local (h a ha).1]; simp
  simp only [State.nioMemory, State.nioFault_none h, hload, hstore, Bool.false_eq_true, if_false]

/-- An access at an address that its size does not divide traps before it is made (R407, R418). -/
theorem State.nioMemory_misaligned {s : State} {n pc addr size : Nat} {w : Bool} {i : NInstr}
    (has : nioAccesses (s.core n) i = [⟨addr, size, w, false⟩]) (h : addr % size ≠ 0) :
    s.nioMemory n pc i none = s.nioTrap n cAlignf addr pc := by
  have hfault : s.nioFault n [⟨addr, size, w, false⟩] = some (cAlignf, addr) := by
    simp only [State.nioFault, List.find?_cons, Bool.not_false, Bool.true_and, decide_eq_true h]
  simp only [State.nioMemory, has, hfault]

/-- The value that a load puts into its register: LDBS extends the sign of its byte (R407). -/
def loaded (o : NOp) (v : Word) : Word := if o = .ldbs then iw (sext 8 v.toNat) else v

theorem State.nioAccess_load {s : State} {n pc addr size : Nat} {stack : Bool} {i : NInstr} (hstr : i.op.isString = false)
    (has : nioAccesses (s.core n) i = [⟨addr, size, false, stack⟩]) (h : s.localOk n addr) :
    s.nioAccess n pc i 0 = (s.nioPut n i.d (loaded i.op (wd (leNat ((s.core n).bytes addr size))))).nioEnd n (pc + 1) 2 := by
  simp [State.nioAccess, has, State.nioRead_local h, State.nioFar_local h.1, hstr, loaded]

theorem State.nioAccess_store {s u : State} {n pc addr size : Nat} {stack : Bool} {i : NInstr} (hstr : i.op.isString = false)
    (has : nioAccesses (s.core n) i = [⟨addr, size, true, stack⟩]) (h : addr < 0x10000)
    (hwrite : s.dataWrite n addr size ((s.core n).reg i.d) = some u) :
    s.nioAccess n pc i 0 = u.nioEnd n (pc + 1) (if size = 4 then 1 else 2) := by
  have hcopy : i.op ≠ .copyx := fun hop => by rw [hop] at hstr; exact absurd hstr (by decide)
  simp [State.nioAccess, has, State.nioWriteAt_local h, hwrite, State.nioFar_local h, hstr]

/-- The instructions that execute by their data accesses alone (R407, R413). -/
def NOp.byAccess (o : NOp) : Bool :=
  decide (o ∈ [NOp.ldb, .ldh, .ldw, .ldbs, .stb, .sth, .stw, .ldsp, .stsp, .copyx, .fillx, .findx, .sumx])

theorem State.nioExec_byAccess {s : State} {n pc k : Nat} {i : NInstr} (h : i.op.byAccess = true) :
    s.nioExec n pc i k = (s.nioAt n).nioMemory n pc i none := by
  simp only [NOp.byAccess, decide_eq_true_eq, List.mem_cons, List.not_mem_nil, or_false] at h
  rcases h with h | h | h | h | h | h | h | h | h | h | h | h | h <;>
    (simp only [State.nioExec, nioAlu, nioProduct, h]; rfl)

theorem Stands.byAccess {s : State} {n : Fin 16} {i : NInstr} (h : Stands s n i) {want : NOp} (hop : i.op = want) (hby : want.byAccess = true) :
    s.nioOpRow n want 0 = .next ((s.nioAt n.val).nioMemory n.val (s.pc n.val) i none).pump := by
  have hrep : want ≠ .rep := by rintro rfl; exact absurd hby (by decide)
  rw [h.row hop hrep, State.nioExec_byAccess (hop ▸ hby)]

section
variable {s : State} {n : Fin 16} {i : NInstr} {want : NOp} {addr size : Nat} {stack : Bool}

/-- A load from local memory that no check stops (R407, R411). -/
theorem Stands.loads (h : Stands s n i) (hop : i.op = want) (hby : want.byAccess = true) (hstr : want.isString = false)
    (has : nioAccesses ((s.nioAt n.val).core n.val) i = [⟨addr, size, false, stack⟩])
    (hok : (s.nioAt n.val).localOk n.val addr) (hs : if stack then stackBad addr = false else addr % size = 0) {x : Word}
    (hx : loaded want (wd (leNat (((s.nioAt n.val).core n.val).bytes addr size))) = x) :
    s.nioOpRow n want 0 = .next (((s.nioAt n.val).nioPut n.val i.d x).nioEnd n.val (s.pc n.val + 1) 2).pump := by
  have hsound : ∀ a ∈ nioAccesses ((s.nioAt n.val).core n.val) i, a.sound := by
    rw [has]; exact List.forall_mem_singleton.2 ⟨hok.1, hs⟩
  subst hop hx
  rw [h.byAccess rfl hby, State.nioMemory_local hsound, State.nioAccess_load hstr has hok]

/-- A store to local memory that no check stops (R407, R411). -/
theorem Stands.stores (h : Stands s n i) (hop : i.op = want) (hby : want.byAccess = true) (hstr : want.isString = false)
    (has : nioAccesses ((s.nioAt n.val).core n.val) i = [⟨addr, size, true, stack⟩])
    (hok : (s.nioAt n.val).localOk n.val addr) (hs : if stack then stackBad addr = false else addr % size = 0) {u : State}
    (hwrite : (s.nioAt n.val).dataWrite n.val addr size (((s.nioAt n.val).core n.val).reg i.d) = some u)
    {cycles : Nat} (hcycles : (if size = 4 then 1 else 2) = cycles) :
    s.nioOpRow n want 0 = .next (u.nioEnd n.val (s.pc n.val + 1) cycles).pump := by
  have hsound : ∀ a ∈ nioAccesses ((s.nioAt n.val).core n.val) i, a.sound := by
    rw [has]; exact List.forall_mem_singleton.2 ⟨hok.1, hs⟩
  subst hop hcycles
  rw [h.byAccess rfl hby, State.nioMemory_local hsound, State.nioAccess_store hstr has hok.1 hwrite]

theorem Stands.misaligned (h : Stands s n i) (hop : i.op = want) (hby : want.byAccess = true) {w : Bool}
    (has : nioAccesses ((s.nioAt n.val).core n.val) i = [⟨addr, size, w, false⟩]) (hodd : addr % size ≠ 0) :
    s.nioOpRow n want 0 = .next ((s.nioAt n.val).nioTrap n.val cAlignf addr (s.pc n.val)).pump := by
  rw [h.byAccess hop hby, State.nioMemory_misaligned has hodd]

end

/-- Settles O42: each row has one data access, and its instruction says which. -/
theorem nioMemoryRows : Obligations.NioMemoryRows := by
  intro s n i h t v a sp loads raw
  have access {want : NOp} (hop : i.op = want) : nioAccesses (t.core n.val) i = nioAccesses (t.core n.val) ⟨want, i.d, i.s, i.imm, i.len⟩ := by
    rw [← hop]
  refine ⟨fun hop hok => h.loads (addr := a) (size := 1) (stack := false) hop rfl rfl (access hop) hok (Nat.mod_one a) rfl,
    fun hop hok => h.loads (addr := a) (size := 1) (stack := false) hop rfl rfl (access hop) hok (Nat.mod_one a) rfl,
    fun hop hok hal => h.loads (addr := a) (size := 2) (stack := false) hop rfl rfl (access hop) hok hal rfl,
    fun hop hok hal => h.loads (addr := a) (size := 4) (stack := false) hop rfl rfl (access hop) hok hal rfl,
    fun hop hok hal => h.loads (addr := sp) (size := 4) (stack := true) hop rfl rfl (access hop) hok hal rfl,
    fun u hop hok hw => h.stores (addr := a) (size := 1) (stack := false) hop rfl rfl (access hop) hok (Nat.mod_one a) hw rfl,
    fun u hop hok hal hw => h.stores (addr := a) (size := 2) (stack := false) hop rfl rfl (access hop) hok hal hw rfl,
    fun u hop hok hal hw => h.stores (addr := a) (size := 4) (stack := false) hop rfl rfl (access hop) hok hal hw rfl,
    fun u hop hok hal hw => h.stores (addr := sp) (size := 4) (stack := true) hop rfl rfl (access hop) hok hal hw rfl,
    fun hop hodd => h.misaligned (size := 4) (w := false) hop rfl (access hop) hodd,
    fun hop hodd => h.misaligned (size := 4) (w := true) hop rfl (access hop) hodd,
    fun hop hodd => h.misaligned (size := 2) (w := false) hop rfl (access hop) hodd,
    fun hop hodd => h.misaligned (size := 2) (w := true) hop rfl (access hop) hodd⟩

end Sys2Proof.Machine

namespace Sys2Proof.Machine

/-! ## The Nioft cores: the string instructions and REP -/

section
variable {s : State} {n pc : Nat} {i : NInstr} (hrep : (s.core n).rep = 0)
include hrep

theorem State.nioAccess_copyx {u : State} (hop : i.op = .copyx) (hs : s.localOk n (s.core n).xs.toNat) (hd : (s.core n).xd.toNat < 0x10000)
    (hwrite : s.dataWrite n (s.core n).xd.toNat i.elem (wd (leNat ((s.core n).bytes (s.core n).xs.toNat i.elem))) = some u) :
    s.nioAccess n pc i 0 =
      ((u.updCore n fun c => { c with xs := c.xs + i.stepBy, xd := c.xd + i.stepBy }).spend n 2).nioEnd n (pc + 1) 0 := by
  simp [State.nioAccess, nioAccesses, hop, State.nioRead_local hs, State.nioWriteAt_local hd, hwrite, State.nioFar_local hd, hrep, NOp.isString]

theorem State.nioAccess_fillx {u : State} (hop : i.op = .fillx) (hd : (s.core n).xd.toNat < 0x10000)
    (hwrite : s.dataWrite n (s.core n).xd.toNat i.elem ((s.core n).reg i.d) = some u) :
    s.nioAccess n pc i 0 = ((u.updCore n fun c => { c with xd := c.xd + i.stepBy }).spend n 1).nioEnd n (pc + 1) 0 := by
  simp [State.nioAccess, nioAccesses, hop, State.nioWriteAt_local hd, hwrite, State.nioFar_local hd, hrep, NOp.isString]

theorem State.nioAccess_findx (hop : i.op = .findx) (hs : s.localOk n (s.core n).xs.toNat) :
    s.nioAccess n pc i 0 = ((s.updCore n fun c => { c with
      xs := c.xs + i.stepBy
      fl := (subFl (c.reg i.d) (wd (leNat ((s.core n).bytes (s.core n).xs.toNat i.elem))) true).2 }).spend n 2).nioEnd n (pc + 1) 0 := by
  simp [State.nioAccess, nioAccesses, hop, State.nioRead_local hs, hrep, NOp.isString]

theorem State.nioAccess_sumx (hop : i.op = .sumx) (hs : s.localOk n (s.core n).xs.toNat) :
    s.nioAccess n pc i 0 = ((s.updCore n fun c => { (c.setReg i.d
          (c.reg i.d + wd (leNat ((s.core n).bytes (s.core n).xs.toNat i.elem)))) with
      xs := c.xs + i.stepBy
      fl := (addFl (c.reg i.d) (wd (leNat ((s.core n).bytes (s.core n).xs.toNat i.elem))) false).2 }).spend n 2).nioEnd n (pc + 1) 0 := by
  simp [State.nioAccess, nioAccesses, hop, State.nioRead_local hs, hrep, NOp.isString, addFl_fst_noCarry]

end

theorem Stands.nioAt_rep {s : State} {n : Fin 16} {i : NInstr} (h : Stands s n i) : ((s.nioAt n.val).core n.val).rep = 0 := by
  rw [State.nioAt_core, Core.mulDone_rep, h.alone]

/-- A string instruction whose accesses are sound makes them. -/
theorem Stands.string {s : State} {n : Fin 16} {i : NInstr} (h : Stands s n i) {want : NOp} (hop : i.op = want) (hby : want.byAccess = true)
    (hsound : ∀ a ∈ nioAccesses ((s.nioAt n.val).core n.val) i, a.sound) {u : State}
    (hu : (s.nioAt n.val).nioAccess n.val (s.pc n.val) i 0 = u) : s.nioOpRow n want 0 = .next u.pump := by
  rw [h.byAccess hop hby, State.nioMemory_local hsound, hu]

section
variable {s : State} {n : Fin 16} {i : NInstr} (h : Stands s n i)
include h

/-- The fetch of a REP takes the word after it too. -/
theorem Stands.fetchRep : s.nioFetch n.val (s.pc n.val) 2 =
    (some [(s.core n.val).word (s.pc n.val), (s.core n.val).word (s.pc n.val + 1)], s) := h.fetch (by decide)

theorem Stands.nioRep_string {j : NInstr} (hj : nDecode ((s.core n.val).word (s.pc n.val + 1)) 0 0 = some j) (hstr : j.op.isString = true) :
    s.nioRep n.val (s.pc n.val) = if (s.core n.val).xc = 0 then s.nioEnd n.val (s.pc n.val + 2) 2
      else (s.spend n.val 1).updCore n.val fun c => { c with rep := 1 } := by
  have hsnd : [(s.core n.val).word (s.pc n.val), (s.core n.val).word (s.pc n.val + 1)].getD 1 0 = (s.core n.val).word (s.pc n.val + 1) := rfl
  simp only [State.nioRep, h.fetchRep, hsnd, hj, hstr, Bool.not_true, Bool.false_eq_true, if_false]

theorem Stands.nioRep_other {j : NInstr} (hj : nDecode ((s.core n.val).word (s.pc n.val + 1)) 0 0 = some j) (hstr : j.op.isString = false) :
    s.nioRep n.val (s.pc n.val) = s.nioTrap n.val cRepIll 0 (s.pc n.val) := by
  have hsnd : [(s.core n.val).word (s.pc n.val), (s.core n.val).word (s.pc n.val + 1)].getD 1 0 = (s.core n.val).word (s.pc n.val + 1) := rfl
  simp only [State.nioRep, h.fetchRep, hsnd, hj, hstr, Bool.not_false, if_true]

end

/-- Settles O44: the accesses of a string instruction are sound, and a REP looks at the word after it and at XC. -/
theorem nioStringRows : Obligations.NioStringRows := by
  intro s n i h t c xs xd x
  have hrep : (t.core n.val).rep = 0 := h.nioAt_rep
  have access {want : NOp} (hop : i.op = want) : nioAccesses c i = nioAccesses c ⟨want, i.d, i.s, i.imm, i.len⟩ := by
    rw [← hop]
  refine ⟨fun u hop hs hd hsa hda hw => h.string hop rfl ?_ (State.nioAccess_copyx hrep hop hs hd.1 hw),
    fun u hop hd hda hw => h.string hop rfl ?_ (State.nioAccess_fillx hrep hop hd.1 hw),
    fun hop hs hsa => h.string hop rfl ?_ (State.nioAccess_findx hrep hop hs),
    fun hop hs hsa => h.string hop rfl ?_ (State.nioAccess_sumx hrep hop hs),
    fun j hop hj hstr hxc => ?_, fun j hop hj hstr hxc => ?_, fun j hop hj hstr => ?_⟩
  · exact access hop ▸ List.forall_mem_cons.2 ⟨⟨hs.1, hsa⟩, List.forall_mem_singleton.2 ⟨hd.1, hda⟩⟩
  · exact access hop ▸ List.forall_mem_singleton.2 ⟨hd.1, hda⟩
  · exact access hop ▸ List.forall_mem_singleton.2 ⟨hs.1, hsa⟩
  · exact access hop ▸ List.forall_mem_singleton.2 ⟨hs.1, hsa⟩
  · rw [h.repRow hop, h.nioRep_string hj hstr, if_neg hxc]
  · rw [h.repRow hop, h.nioRep_string hj hstr, if_pos hxc]
  · rw [h.repRow hop, h.nioRep_other hj hstr]

end Sys2Proof.Machine

namespace Sys2Proof.Machine

/-! ## The Nioft cores: the control instructions -/

section
variable {s : State} {n k pc : Nat} {i : NInstr}

theorem State.nioExec_br (h : i.op = .br) : s.nioExec n pc i k =
    if condHolds ((s.nioAt n).core n).fl i.d then (s.nioAt n).nioEnd n (pc + i.len + 16384 + (sext 6 i.imm % 16384).toNat) 2
    else (s.nioAt n).nioEnd n (pc + i.len) 1 := by
  simp only [State.nioExec, nioAlu, nioProduct, h]
  rfl

theorem State.nioExec_jmp (h : i.op = .jmp) : s.nioExec n pc i k = (s.nioAt n).nioEnd n i.imm 2 := by
  simp only [State.nioExec, nioAlu, nioProduct, h]
  rfl

theorem State.nioExec_jmpr (h : i.op = .jmpr) : s.nioExec n pc i k = (s.nioAt n).nioEnd n (((s.nioAt n).core n).reg i.d).toNat 2 := by
  simp only [State.nioExec, nioAlu, nioProduct, h]
  rfl

theorem State.nioExec_callr (h : i.op = .callr) : s.nioExec n pc i k =
    ((s.nioAt n).nioPut n 14 (wd ((pc + i.len) % 16384))).nioEnd n (((s.nioAt n).core n).reg i.d).toNat 2 := by
  simp only [State.nioExec, nioAlu, nioProduct, h]
  rfl

theorem State.nioExec_call (h : i.op = .call) : s.nioExec n pc i k = (s.nioAt n).nioCall n pc i := by
  simp only [State.nioExec, nioAlu, nioProduct, h]
  rfl

theorem State.nioExec_ret (h : i.op = .ret) : s.nioExec n pc i k = (s.nioAt n).nioRet n pc i := by
  simp only [State.nioExec, nioAlu, nioProduct, h]
  rfl

theorem State.nioExec_reti (h : i.op = .reti) : s.nioExec n pc i k = (s.nioAt n).nioReti n pc k := by
  simp only [State.nioExec, nioAlu, nioProduct, h]
  rfl

theorem State.nioExec_wait (h : i.op = .wait) : s.nioExec n pc i k =
    ((((s.nioAt n).setPc n ((pc + i.len) % 16384)).spend n 1).setB (kCstat n) 30 true).nioBoundary n := by
  simp only [State.nioExec, nioAlu, nioProduct, h]
  rfl

theorem State.nioExec_halt (h : i.op = .halt) : s.nioExec n pc i k = ((s.nioAt n).spend n 1).nioStopAt n cHalt pc := by
  simp only [State.nioExec, nioAlu, nioProduct, h]
  rfl

theorem State.nioExec_trap (h : i.op = .trap) (hsp : stackBad (((s.nioAt n).core n).reg 15 - 4).toNat = false) : s.nioExec n pc i k =
    (((s.nioAt n).setReg (kCCS n + 0x0C) (wd i.d)).spend n 1).nioEnter n ((pc + i.len) % 16384) true := by
  rw [State.nioAt] at hsp
  simp only [State.nioExec, nioAlu, nioProduct, h, hsp, Bool.false_eq_true, if_false]
  rfl

theorem State.nioExec_fence (h : i.op = .fence) : s.nioExec n pc i k =
    if ((s.nioAt n).core n).stores.isEmpty then (s.nioAt n).nioEnd n (pc + i.len) 1
    else (s.nioAt n).updCore n fun c => { c with hold := .fence } := by
  simp only [State.nioExec, nioAlu, nioProduct, h]
  rfl

end

/-- A CALL on a sound stack pushes, links and jumps (R411). -/
theorem State.nioCall_stacked {s : State} {n pc : Nat} {i : NInstr} : let c := s.core n
    let vals := (maskRegs i.s).reverse.map c.reg ++ [c.reg 14]
    let at' (j : Nat) : Nat := (c.reg 15 - wd (4 * (j + 1))).toNat
    (∀ j < vals.length, stackBad (at' j) = false) →
    s.nioCall n pc i = ((s.each vals.zipIdx fun s (e : Word × Nat) => (s.dataWrite n (at' e.2) 4 e.1).getD s).updCore n fun c =>
      (c.setReg 15 (c.reg 15 - wd (4 * vals.length))).setReg 14 (wd ((pc + 3) % 16384))).nioEnd n i.imm (4 + (maskRegs i.s).length) := by
  intro c vals at' hstack
  have hnone : (List.range vals.length).find? (fun j => stackBad (at' j)) = none :=
    List.find?_eq_none.2 fun j hj => by rw [hstack j (List.mem_range.1 hj)]; exact Bool.false_ne_true
  simp only [State.nioCall]
  rw [hnone]

/-- A RET on a sound stack whose words hold no error (R411). -/
theorem State.nioRet_popped {s u : State} {n pc : Nat} {i : NInstr} {ws : List Word} : let c := s.core n
    let rs := maskRegs i.s
    let at' (j : Nat) : Nat := (c.reg 15 + wd (4 * j)).toNat
    (∀ j < rs.length + 1, stackBad (at' j) = false) → s.popWords n (at' 0) (rs.length + 1) = (.ok ws, u) →
    s.nioRet n pc i = (u.updCore n fun k => (rs.zip (ws.drop 1)).foldl (fun (c : Core) e => c.setReg e.1 e.2)
      ((k.setReg 15 (k.reg 15 + wd (4 * ws.length))).setReg 14 (ws.headD 0))).nioEnd n (c.reg 14).toNat (3 + rs.length) := by
  intro c rs at' hstack hpop
  have hnone : (List.range (rs.length + 1)).find? (fun j => stackBad (at' j)) = none :=
    List.find?_eq_none.2 fun j hj => by rw [hstack j (List.mem_range.1 hj)]; exact Bool.false_ne_true
  simp only [State.nioRet]
  rw [hnone]
  simp only [at', c, rs] at hpop
  rw [hpop]

/-- A RETI whose context word is sound and that no request abandons (R422). -/
theorem State.nioReti_restores {s : State} {n pc k : Nat} {w : Word} (hsp : stackBad (s.core n).sp = false) (hok : s.localOk n (s.core n).sp)
    (hw : wd (leNat ((s.core n).bytes (s.core n).sp 4)) = w) (hlevel : s.coreLevel n ≤ fld w 18 4) :
    s.nioReti n pc k = ((s.updCore n fun c => { (c.setReg 15 (c.reg 15 + 4)) with fl := fld w 14 4 }).setIpl n (fld w 18 4)).nioEnd n
      (fld w 0 14) 3 := by
  have hzero : (s.core n).reg 15 + wd (4 * 0) = (s.core n).reg 15 := BitVec.add_zero _
  have hacc : nioAccesses (s.core n) ⟨.reti, 0, 0, 0, 1⟩ = [⟨(s.core n).sp, 4, false, true⟩] := by
    simp only [nioAccesses, hzero, Core.sp]
  have hfault : s.nioFault n (nioAccesses (s.core n) ⟨.reti, 0, 0, 0, 1⟩) = none :=
    State.nioFault_none (hacc ▸ List.forall_mem_singleton.2 ⟨hok.1, hsp⟩)
  simp only [State.nioReti, hfault, State.dataRead_good hok.2, hw, if_neg (Nat.not_lt.2 hlevel)]

/-- Settles O45: each row is its instruction's equation of `State.nioExec`. -/
theorem nioControlRows : Obligations.NioControlRows := by
  intro s n i h t c next
  refine ⟨fun hop hc => ?_, fun hop hc => ?_, fun hop => ?_, fun hop => ?_, fun hop => ?_, fun hop hst => ?_, ?_, ?_,
    fun hop => ?_, fun hop => ?_, fun hop hsp => ?_, fun hop hst => ?_, fun hop hst => ?_⟩
  · exact (h.row hop nofun 0).trans (by rw [State.nioExec_br hop, if_pos hc])
  · exact (h.row hop nofun 0).trans (by rw [State.nioExec_br hop, if_neg (Bool.eq_false_iff.1 hc)])
  · exact (h.row hop nofun 0).trans (by rw [State.nioExec_jmp hop])
  · exact (h.row hop nofun 0).trans (by rw [State.nioExec_jmpr hop])
  · exact (h.row hop nofun 0).trans (by rw [State.nioExec_callr hop])
  · exact (h.row hop nofun 0).trans (by rw [State.nioExec_call hop, State.nioCall_stacked hst])
  · intro ws u rs at' hop hst hpop
    exact (h.row hop nofun 0).trans (by rw [State.nioExec_ret hop, State.nioRet_popped hst hpop])
  · intro k w hop hsp hok hlev
    exact (h.row hop nofun (k.val + 1)).trans (by rw [State.nioExec_reti hop, State.nioReti_restores hsp hok rfl hlev])
  · exact (h.row hop nofun 0).trans (by rw [State.nioExec_wait hop])
  · exact (h.row hop nofun 0).trans (by rw [State.nioExec_halt hop])
  · exact (h.row hop nofun 0).trans (by rw [State.nioExec_trap hop hsp])
  · exact (h.row hop nofun 0).trans (by rw [State.nioExec_fence hop, if_pos (List.isEmpty_iff.2 hst)])
  · exact (h.row hop nofun 0).trans (by rw [State.nioExec_fence hop, if_neg fun he => hst (List.isEmpty_iff.1 he)])

end Sys2Proof.Machine

namespace Sys2Proof.Machine

/-! ## The Nioft cores: the flags -/

section
variable (n z c v : Bool)

@[simp] theorem flagOf_flags_n : flagOf (flags n z c v) 3 = n := by cases n <;> cases z <;> cases c <;> cases v <;> rfl
@[simp] theorem flagOf_flags_z : flagOf (flags n z c v) 2 = z := by cases n <;> cases z <;> cases c <;> cases v <;> rfl
@[simp] theorem flagOf_flags_c : flagOf (flags n z c v) 1 = c := by cases n <;> cases z <;> cases c <;> cases v <;> rfl
@[simp] theorem flagOf_flags_v : flagOf (flags n z c v) 0 = v := by cases n <;> cases z <;> cases c <;> cases v <;> rfl

end

/-- An integer is not the signed value of its 32 bits exactly when they do not hold it. -/
theorem toInt_ofInt_ne_iff (x : Int) : (BitVec.ofInt 32 x).toInt ≠ x ↔ x < -2 ^ 31 ∨ 2 ^ 31 ≤ x := by
  rw [BitVec.toInt_ofInt, Int.bmod]
  split <;> omega

theorem add_carry_eq_ofInt (a b : Word) (k : Nat) : a + b + wd k = BitVec.ofInt 32 (a.toInt + b.toInt + k) := by
  rw [BitVec.ofInt_add, BitVec.ofInt_add, BitVec.ofInt_toInt, BitVec.ofInt_toInt, BitVec.ofInt_natCast, wd]

theorem sub_borrow_eq_ofInt (a b : Word) (k : Nat) : a - b - wd k = BitVec.ofInt 32 (a.toInt - b.toInt - k) := by
  refine BitVec.eq_of_toInt_eq ?_
  rw [BitVec.toInt_ofInt, BitVec.toInt_sub, BitVec.toInt_sub, wd, BitVec.toInt_ofNat', Int.bmod_sub_bmod, Int.sub_bmod_bmod]

/-- Settles O40: the flags of `flags` are read back by `flagOf`, and V is the overflow of the integer result. -/
theorem nioFlags : Obligations.NioFlags := by
  refine ⟨fun a b c => ⟨rfl, flagOf_flags_n .., flagOf_flags_z .., ?_, ?_⟩, fun a b c => ⟨rfl, flagOf_flags_n .., flagOf_flags_z .., ?_, ?_⟩,
    fun fl r => ⟨flagOf_flags_n .., flagOf_flags_z .., flagOf_flags_c .., flagOf_flags_v ..⟩, fun o fl a => flagOf_flags_c ..⟩
  · rw [addFl, flagOf_flags_c, decide_eq_true_eq]
  · rw [addFl, flagOf_flags_v, decide_eq_true_eq, add_carry_eq_ofInt, toInt_ofInt_ne_iff]
  · rw [subFl, flagOf_flags_c, decide_eq_true_eq]
  · rw [subFl, flagOf_flags_v, decide_eq_true_eq, sub_borrow_eq_ofInt, toInt_ofInt_ne_iff]

/-! ## What bells and error records leave alone -/

/-- The Nioft cores and the Chimney are the same. -/
structure UnitKeep (s t : State) : Prop where
  cores : t.cores = s.cores
  chm : t.chm = s.chm

namespace UnitKeep

theorem refl (s : State) : UnitKeep s s := ⟨rfl, rfl⟩

theorem ite {c : Prop} [Decidable c] {s0 a b : State} (ha : UnitKeep s0 a) (hb : UnitKeep s0 b) : UnitKeep s0 (if c then a else b) := by
  split
  · exact ha
  · exact hb

variable {s0 s : State} (h : UnitKeep s0 s)
include h

theorem setReg (k : Nat) (v : Word) : UnitKeep s0 (s.setReg k v) := ⟨h.cores, h.chm⟩

theorem setW64 (k : Nat) (v : DWord) : UnitKeep s0 (s.setW64 k v) := ⟨h.cores, h.chm⟩

theorem each {α : Type} {f : State → α → State} (l : List α) (hf : ∀ {t : State} (a : α), UnitKeep s0 t → UnitKeep s0 (f t a)) :
    UnitKeep s0 (s.each l f) :=
  List.foldlRecOn (motive := UnitKeep s0) l f h fun _ ht a _ => hf a ht

theorem deliver (i : Nat) : UnitKeep s0 (s.deliver i) := by
  have hmsix (fn v : Nat) : UnitKeep s0 (s.msix fn v) := by
    unfold State.msix
    exact ite h (ite (h.setReg _ _) ⟨h.cores, h.chm⟩)
  unfold State.deliver
  exact ite (hmsix 0 _) (ite (hmsix 1 _) h)

theorem pulse (i : Nat) : UnitKeep s0 (s.pulse i) := by
  have hsrc : UnitKeep s0 (s.setSrc i { s.src i with pend := true }) := ⟨h.cores, h.chm⟩
  have hd := hsrc.deliver i
  unfold State.pulse State.notify
  exact ite h (ite ⟨hd.cores, hd.chm⟩ hsrc)

theorem level (i : Nat) (b : Bool) : UnitKeep s0 (s.level i b) := by
  have hsrc : UnitKeep s0 (s.setSrc i { s.src i with inp := b, pend := b }) := ⟨h.cores, h.chm⟩
  have hd := hsrc.deliver i
  unfold State.level State.notify
  exact ite h (ite ⟨hd.cores, hd.chm⟩ hsrc)

theorem errWrite (r : ErrRec) : UnitKeep s0 (s.errWrite r) := by
  unfold State.errWrite
  extract_lets q ovw r ring s1 s2 s3 n s4 s5 s6
  have h5 : UnitKeep s0 s5 := pulse (s := s4) ⟨h.cores, h.chm⟩ 19
  have h6 : UnitKeep s0 s6 := ite ((h5.setReg _ _).pulse 21) h5
  exact ite ((h6.setReg _ _).pulse 20) h6

theorem errRec (sev unit event detail : Nat) (status : Status) (arg0 arg1 : Word) :
    UnitKeep s0 (s.errRec sev unit event detail status arg0 arg1) := by
  unfold State.errRec
  exact ite (ite ⟨h.cores, h.chm⟩ ⟨h.cores, h.chm⟩) (h.errWrite _)

/-- An error log of a memory without a count of replaced entries and without a source of its own. -/
theorem corrLog (base srcKind cls pos lineLo lineHi unit : Nat) :
    UnitKeep s0 (s.corrLog base none srcKind cls pos lineLo lineHi unit none) := by
  unfold State.corrLog
  extract_lets e hit pulse' record new
  have hnew (i : Nat) : UnitKeep s0 (new s i) := by
    exact errRec (((((h.setReg _ _).setReg _ _).setReg _ _).setW64 _ _).setReg _ _) ..
  split
  · extract_lets n s1 s2
    have h1 : UnitKeep s0 s1 := (h.setReg _ _).setReg _ _
    exact ite (h1.errRec ..) h1
  · split
    · exact hnew _
    · exact (hnew _).pulse 52

end UnitKeep

/-! ## The Nioft cores: what a store changes -/

/-- A corrected error of a core's memory changes no core. -/
theorem State.nioCorrected_core (s : State) (n src pos a m : Nat) : (s.nioCorrected n src pos a).core m = s.core m :=
  congrArg (fun c => Tbl.get (fun _ => coreInit) c m) ((UnitKeep.refl s).corrLog ..).cores

/-- The bytes of a list stored from an address on. -/
theorem get_storeBytes (d : Nat → Byte) (bs : List Byte) (m : Tbl Byte) (a b : Nat) :
    Tbl.get d (bs.foldl (fun (p : Tbl Byte × Nat) b => (Tbl.set d p.1 p.2 b, p.2 + 1)) (m, a)).1 b =
      if a ≤ b ∧ b < a + bs.length then bs.getD (b - a) 0 else Tbl.get d m b := by
  induction bs generalizing m a with
  | nil => rw [if_neg (by simp)]; rfl
  | cons x bs ih =>
    rw [List.foldl_cons, ih, List.length_cons]
    by_cases hb : a = b
    · subst hb
      rw [if_neg (by omega), if_pos (by omega), Tbl.get_set_same, Nat.sub_self, List.getD_cons_zero]
    · rw [Tbl.get_set_ne _ _ _ hb]
      refine if_ctx_congr (by omega) (fun hin => ?_) fun _ => rfl
      rw [show b - a = b - (a + 1) + 1 by omega, List.getD_cons_succ]

theorem leBytes_length (k v : Nat) : (leBytes k v).length = k := by
  induction k generalizing v with
  | zero => rfl
  | succ k ih => rw [leBytes, List.length_cons, ih]

theorem leBytes_getD {k j : Nat} (v : Nat) (h : j < k) : (leBytes k v).getD j 0 = BitVec.ofNat 8 (v / 2 ^ (8 * j)) := by
  induction k generalizing v j with
  | zero => omega
  | succ k ih =>
    cases j with
    | zero => rw [leBytes, List.getD_cons_zero, Nat.mul_zero, Nat.pow_zero, Nat.div_one]
    | succ j =>
      rw [leBytes, List.getD_cons_succ, ih _ (by omega), Nat.div_div_eq_div_mul, Nat.mul_succ, Nat.pow_add, Nat.mul_comm (2 ^ (8 * j))]

/-- A local store writes its bytes into its core, whose word then holds no error; an error of the word before is only logged. -/
theorem State.dataWrite_some {s u : State} {n a k : Nat} {v : Word} (h : s.dataWrite n a k v = some u) :
    ∃ t : State, (∀ m, t.core m = s.core m) ∧ u = t.updCore n fun c => { c with
      data := ((leBytes k v.toNat).foldl (fun (p : Tbl Byte × Nat) b => (Tbl.set (fun _ => 0) p.1 p.2 b, p.2 + 1)) (c.data, a)).1
      dcode := Tbl.set (fun _ => Code.good) c.dcode (a / 4 * 4) .good } := by
  unfold State.dataWrite at h
  extract_lets c t at h
  split at h
  · exact absurd h nofun
  · refine ⟨t, fun m => ?_, (Option.some.inj h).symm⟩
    show State.core (match c.dataCode a with | .corr p => _ | _ => s) m = _
    split
    · split
      · exact State.nioCorrected_core ..
      · rfl
    · rfl

theorem State.core_updCore_ne (s : State) {n m : Nat} (f : Core → Core) (h : n ≠ m) : (s.updCore n f).core m = s.core m :=
  Tbl.get_set_ne _ _ _ h

/-- Settles O43: a store is a fold over its bytes, and the log entry of a corrected word leaves the cores alone. -/
theorem nioStoreFrame : Obligations.NioStoreFrame := by
  intro s u n a k v _ h
  obtain ⟨t, ht, rfl⟩ := State.dataWrite_some h
  refine ⟨fun b hab hb => ?_, fun b hb => ?_, fun m hm => ?_⟩
  · rw [State.core_updCore_same, get_storeBytes, leBytes_length, if_pos ⟨hab, hb⟩, leBytes_getD _ (by omega)]
  · rw [State.core_updCore_same, get_storeBytes, leBytes_length, if_neg (by omega), ht]
  · rw [State.core_updCore_ne _ _ (Ne.symm hm), ht]

end Sys2Proof.Machine

namespace Sys2Proof.Machine

/-! ## The packets of the Nioft cores -/

/-- The one command that an accepted packet has opened is calm: it neither waits nor has begun. -/
theorem admitted_calm {s t : State} {op : Op} {p : Packet} (hq : s.foy.opens = []) (h : Calm (s.admitted op p) t) :
    t.foy.opens = (s.admitted op p).foy.opens := by
  refine h.opens fun o ho => ?_
  rw [admitted_opens hq, List.mem_singleton] at ho
  subst ho
  exact ⟨rfl, .inl rfl⟩

/-- No command that has begun waits beside it. -/
theorem admitted_awaited {s : State} {op : Op} {p : Packet} (hq : s.foy.opens = []) (w : Wait) : (s.admitted op p).awaited w = false := by
  rw [State.awaited, admitted_opens hq]
  rfl

/-- A load whose header is sound clears the program memory and waits for its end (R426). -/
theorem beginNioftLoad_waits {o : Open} {t t' : State} {bs : List Byte} (hf : nioftLoadFault o t = none)
    (ha : t.awaited (.nioftLoad (fld (pw o.pkt 0) 0 4)) = false) (hr : t.devRead 0x0C (fld (pw o.pkt 0) 0 4) (pd o.pkt 1) 64 = (.ok bs, t'))
    (hh : (nioHeader bs (pw o.pkt 3).toNat).isSome = true) :
    beginNioftLoad o t = (.wait (.nioftLoad (fld (pw o.pkt 0) 0 4)), t'.nioClear (fld (pw o.pkt 0) 0 4)) := by
  simp only [beginNioftLoad, hf, ha, hr, hh, Bool.false_eq_true, if_false, if_true]

theorem beginNioftStart_starts {o : Open} {t : State} (hf : nioftStartFault o t = none) :
    beginNioftStart o t = (.done repOk, t.nioStart (fld (pw o.pkt 0) 0 4) (fld (pw o.pkt 1) 0 14)) := by
  simp only [beginNioftStart, hf]

theorem beginNioftStop_waits {o : Open} {t : State} (hf : nioftStopFault o t = none) (hr : t.coreRuns (fld (pw o.pkt 0) 0 4) = true) :
    beginNioftStop o t = (.wait (.nioftHalt (fld (pw o.pkt 0) 0 4)), t.nioStop (fld (pw o.pkt 0) 0 4)) := by
  simp only [beginNioftStop, hf, hr, Bool.not_true, Bool.false_eq_true, if_false]

/-- Settles O11: the packets begin with these results, and the Foyer's run from them is `packet_wait` and `packet_done`. -/
theorem corePackets : Obligations.CorePackets := by
  refine ⟨?_, ?_, ?_⟩
  · intro s p bs t' hT t o n hf hr hh
    have hread : Keep t t' := by
      have := (State.devRead_keep (Keep.refl t) (a1 := 0x0C) (a2 := n) (a3 := pd p 1) (a4 := 64)).out
      rwa [hr] at this
    exact packet_wait hT (beginNioftLoad_waits (o := o) hf (admitted_awaited hT.quiet _) hr hh) (State.nioClear_keep hread).opens ⟨nofun, nofun⟩
  · intro s p hT t o hf
    exact packet_done hT nofun (beginNioftStart_starts (o := o) hf) (State.nioStart_keep (Keep.refl t)).opens
  · intro s p hT t o n hf hr
    exact packet_wait hT (beginNioftStop_waits (o := o) hf hr) (admitted_calm hT.quiet (State.nioStop_calm (Calm.refl t))) ⟨nofun, nofun⟩

end Sys2Proof.Machine

namespace Sys2Proof.Machine

/-! ## The pin sequencers: what an instruction does -/

/-- The condition of a BRANCH (R458). -/
def State.branchHolds (s : State) (i : Nat) (w : Word) : Bool :=
  match fld w 24 4 with
  | 0 => true
  | 1 => s.pad (fld w 8 7)
  | 2 => !s.pad (fld w 8 7)
  | 3 => !(s.psqCh i).fq.isEmpty
  | 4 => decide ((s.psqCh i).sq.length < 8)
  | _ => s.regB (kPc i) 29

/-- The state of a DEPOSIT that completes: G clears unless the instruction keeps it (R458). -/
def State.deposited (s : State) (i : Nat) (w : Word) : State := if bit w 9 then s else s.setReg (kPc i + 0x10) 0

section
variable {s : State} {i ret : Nat} {w : Word} (hl : psqLegal w = true)
include hl

theorem psqExec_skip (hop : fld w 28 4 = 0) : s.psqExec i ⟨w, 0, false⟩ true ret = (.next, s) := by
  simp only [State.psqExec, hl, hop, Bool.not_true, Bool.false_eq_true, if_false]

theorem psqExec_drive (hop : fld w 28 4 = 1) : s.psqExec i ⟨w, 0, false⟩ true ret =
    (.next, s.each (List.range (psqOut (s.psqCh i).cfg0).2) fun t k =>
      if bit w (8 + k) then t.pinDrive ((psqOut (s.psqCh i).cfg0).1 + k) (some (bit w (16 + k))) (bit w k) else t) := by
  simp only [State.psqExec, hl, hop, Bool.not_true, Bool.false_eq_true, if_false]

theorem psqExec_emit (hop : fld w 28 4 = 2) : s.psqExec i ⟨w, 0, false⟩ true ret =
    s.psqStepped i ⟨w, 0, false⟩ (fun t n => t.psqEmitBits i w n) (fld w 0 5 + 1) (psqW w) := by
  simp only [State.psqExec, hl, hop, Bool.not_true, Bool.false_eq_true, if_false, if_true]

theorem psqExec_sample (hop : fld w 28 4 = 3) : s.psqExec i ⟨w, 0, false⟩ true ret =
    s.psqStepped i ⟨w, 0, false⟩ (fun t n => t.psqSampleBits i w n) (fld w 0 5 + 1) (psqW w) := by
  simp only [State.psqExec, hl, hop, Bool.not_true, Bool.false_eq_true, if_false, if_true]

theorem psqExec_fetch_program (hop : fld w 28 4 = 4) (hfed : bit w 8 = false) : s.psqExec i ⟨w, 0, false⟩ true ret =
    (.next, s.setReg (kPc i + 0xC) (s.reg (kPw i (fld w 0 6)))) := by
  simp only [State.psqExec, hl, hop, hfed, Bool.not_true, Bool.false_eq_true, if_false]

theorem psqExec_fetch_fed {x : Word} {t : List Word} (hop : fld w 28 4 = 4) (hfed : bit w 8 = true) (hq : (s.psqCh i).fq = x :: t) :
    s.psqExec i ⟨w, 0, false⟩ true ret = (.next, (s.setReg (kPc i + 0xC) x).setPsqCh i { s.psqCh i with fq := t }) := by
  simp only [State.psqExec, hl, hop, hfed, hq, Bool.not_true, Bool.false_eq_true, if_false, if_true]

theorem psqExec_fetch_waits (hop : fld w 28 4 = 4) (hfed : bit w 8 = true) (hq : (s.psqCh i).fq = []) :
    s.psqExec i ⟨w, 0, false⟩ true ret = (.stall ⟨w, 0, false⟩, s) := by
  simp only [State.psqExec, hl, hop, hfed, hq, Bool.not_true, Bool.false_eq_true, if_false, if_true]

theorem psqExec_deposit (hop : fld w 28 4 = 5) (hq : (s.psqCh i).sq.length < 8) : s.psqExec i ⟨w, 0, false⟩ true ret =
    (.next, (s.setPsqCh i { s.psqCh i with sq := (s.psqCh i).sq ++ [s.reg (kPc i + 0x10)] }).deposited i w) := by
  simp only [State.psqExec, hl, hop, hq, Bool.not_true, Bool.false_eq_true, if_false, if_true]
  rfl

theorem psqExec_deposit_overflows (hop : fld w 28 4 = 5) (hq : 8 ≤ (s.psqCh i).sq.length) (hov : bit w 8 = true) :
    s.psqExec i ⟨w, 0, false⟩ true ret = (.next, (s.setB (kPc i) 25 true).deposited i w) := by
  simp only [State.psqExec, hl, hop, Nat.not_lt.2 hq, hov, Bool.not_true, Bool.false_eq_true, if_false, if_true]
  rfl

theorem psqExec_deposit_waits (hop : fld w 28 4 = 5) (hq : 8 ≤ (s.psqCh i).sq.length) (hov : bit w 8 = false) :
    s.psqExec i ⟨w, 0, false⟩ true ret = (.stall ⟨w, 0, false⟩, s) := by
  simp only [State.psqExec, hl, hop, Nat.not_lt.2 hq, hov, Bool.not_true, Bool.false_eq_true, if_false]

theorem psqExec_await (hop : fld w 28 4 = 6) (hk : fld w 24 4 = 0) (hp : s.pad (fld w 0 7) = bit w 8) :
    s.psqExec i ⟨w, 0, false⟩ true ret = (.next, s) := by
  simp only [State.psqExec, hl, hop, hk, hp, Bool.not_true, Bool.false_eq_true, if_false, if_true]

theorem psqExec_await_waits (hop : fld w 28 4 = 6) (hp : fld w 24 4 = 0 → s.pad (fld w 0 7) ≠ bit w 8) :
    s.psqExec i ⟨w, 0, false⟩ true ret = (.stall ⟨w, 0, false⟩, s) := by
  simp only [State.psqExec, hl, hop, Bool.not_true, Bool.false_eq_true, if_false]
  split
  · next hk => rw [if_neg (hp hk)]
  · rfl

theorem psqExec_branch (hop : fld w 28 4 = 7) : s.psqExec i ⟨w, 0, false⟩ true ret =
    if s.branchHolds i w then (.jump (fld w 0 6), s) else (.next, s) := by
  simp only [State.psqExec, hl, hop, Bool.not_true, Bool.false_eq_true, if_false]
  rfl

theorem psqExec_loop (hop : fld w 28 4 = 8) : s.psqExec i ⟨w, 0, false⟩ true ret =
    if s.psqDepth i = 2 then (.illegal, s) else (.next, s.psqPush i (fld w 0 16) ret) := by
  simp only [State.psqExec, hl, hop, Bool.not_true, Bool.false_eq_true, if_false]

theorem psqExec_next (hop : fld w 28 4 = 9) : s.psqExec i ⟨w, 0, false⟩ true ret =
    if s.psqDepth i = 0 then (.illegal, s)
    else if fld (s.reg (kPc i + 0x14)) 16 16 ≠ 0 then
      (.jump (fld (s.reg (kPc i + 0x14)) 8 6), s.setF (kPc i + 0x14) 16 16 (fld (s.reg (kPc i + 0x14)) 16 16 - 1))
    else (.next, s.psqPop i) := by
  simp only [State.psqExec, hl, hop, Bool.not_true, Bool.false_eq_true, if_false]

theorem psqExec_period (hop : fld w 28 4 = 0xA) : s.psqExec i ⟨w, 0, false⟩ true ret =
    (.next, s.setF (kPc i + 0x1C) 16 16 (fld w 0 16)) := by
  simp only [State.psqExec, hl, hop, Bool.not_true, Bool.false_eq_true, if_false]

theorem psqExec_signal (hop : fld w 28 4 = 0xB) : s.psqExec i ⟨w, 0, false⟩ true ret =
    (.next, if bit w 1 then ((s.setB (kPc i) 29 (bit w 0)).psqSource i).request i else (s.setB (kPc i) 29 (bit w 0)).psqSource i) := by
  simp only [State.psqExec, hl, hop, Bool.not_true, Bool.false_eq_true, if_false]

theorem psqExec_stopch (hop : fld w 28 4 = 0xC) : s.psqExec i ⟨w, 0, false⟩ true ret = (.stop, s) := by
  simp only [State.psqExec, hl, hop, Bool.not_true, Bool.false_eq_true, if_false]

theorem psqExec_hold (hop : fld w 28 4 = 0xD) : s.psqExec i ⟨w, 0, false⟩ true ret =
    s.psqStepped i ⟨w, 0, false⟩ (fun t _ => t) (fld w 0 16 + 1) 1 := by
  simp only [State.psqExec, hl, hop, Bool.not_true, Bool.false_eq_true, if_false, if_true]

end

section
variable {s : State} {i left width : Nat} {l : PsqLat} {f : State → Nat → State}

/-- No step is due: the instruction stays with all that is left (R457). -/
theorem State.psqStepped_early (h : s.psqStepDue i = false) : s.psqStepped i l f left width = (.stall { l with left := left }, s) := by
  simp only [State.psqStepped, h, Bool.false_eq_true, if_false]

theorem State.psqStepped_last (h : s.psqStepDue i = true) (hw : left ≤ width) :
    s.psqStepped i l f left width = (.next, (f s left).setF (kPc i + 0x1C) 0 16 0) := by
  simp only [State.psqStepped, h, if_true, Nat.min_eq_right hw, Nat.sub_self]

theorem State.psqStepped_more (h : s.psqStepDue i = true) (hw : width < left) :
    s.psqStepped i l f left width = (.stall { l with left := left - width }, (f s width).setF (kPc i + 0x1C) 0 16 0) := by
  simp only [State.psqStepped, h, if_true, Nat.min_eq_left (Nat.le_of_lt hw), if_neg (Nat.sub_ne_zero_of_lt hw)]

end

/-- Settles O37: each clause is its instruction's equation of `State.psqExec`. -/
theorem pinInstructions : Obligations.PinInstructions := by
  intro s i w ret hl l op v
  refine ⟨psqExec_skip hl, fun h hd hw => ?_, fun h hd => ?_, fun h hd hw => ?_, fun h hd => ?_, psqExec_fetch_program hl, psqExec_fetch_waits hl,
    fun x t => psqExec_fetch_fed hl, fun h hq hk => ?_, psqExec_deposit_waits hl, psqExec_await hl,
    fun h _ hp => psqExec_await_waits hl h fun _ => hp, fun h hk => ?_, fun h hk hp => ?_, fun h hd => ?_, fun h hd => ?_, fun h hd => ?_,
    fun h hd ht => ?_, fun h hd ht => ?_, psqExec_period hl, fun h hb => ?_, fun h hb => ?_, psqExec_stopch hl⟩
  · rw [psqExec_emit hl h, State.psqStepped_last hd hw]
  · rw [psqExec_emit hl h, State.psqStepped_early hd]
  · rw [psqExec_sample hl h, State.psqStepped_last hd hw]
  · rw [psqExec_sample hl h, State.psqStepped_early hd]
  · rw [psqExec_deposit hl h hq, State.deposited, if_neg (ne_true_of_eq_false hk)]
  · rw [psqExec_branch hl h, State.branchHolds, hk]; rfl
  · rw [psqExec_branch hl h, State.branchHolds, hk, hp]; rfl
  · rw [psqExec_loop hl h, if_pos hd]
  · rw [psqExec_loop hl h, if_neg hd]
  · rw [psqExec_next hl h, if_pos hd]
  · rw [psqExec_next hl h, if_neg hd, if_neg (not_not_intro ht)]
  · rw [psqExec_next hl h, if_neg hd, if_pos ht]
  · rw [psqExec_signal hl h, if_neg (ne_true_of_eq_false hb)]
  · rw [psqExec_signal hl h, if_pos hb]

end Sys2Proof.Machine

namespace Sys2Proof.Machine

/-! ## The pin sequencers: a slot -/

/-- The sensing of the pads writes pin registers alone. -/
theorem State.sensePads_keeps (s : State) (pads : BitVec 96) :
    (s.sensePads pads).psq = s.psq ∧ ∀ k, k < kPSQ + 0xC000 → (s.sensePads pads).reg k = s.reg k := by
  refine List.foldlRecOn (motive := fun t : State => t.psq = s.psq ∧ ∀ k, k < kPSQ + 0xC000 → t.reg k = s.reg k) _ _ ⟨rfl, fun _ _ => rfl⟩
    fun t ht p _ => ?_
  obtain ⟨hpsq, hreg⟩ := ht
  refine ⟨hpsq, fun k hk => ?_⟩
  have hne : k ≠ kPin p := by unfold kPin; omega
  exact (t.setReg_reg_ne _ hne).trans (hreg k hk)

theorem kPc_lt {i : Nat} (h : i < 128) : kPc i + 0x40 ≤ kPSQ + 0xC000 := by unfold kPc; omega

theorem kPw_lt {i pc : Nat} (h : i < 128) (hp : pc < 64) : kPw i pc < kPSQ + 0xC000 := by unfold kPw; omega

theorem kPw_ne_count {i pc : Nat} (hp : pc < 64) : kPw i pc ≠ kPc i + 0x1C := by unfold kPw kPc; omega

/-- What a channel shows when a slot has come: nothing but the pads has changed. -/
theorem State.sensed (s : State) (e k i : Nat) (pads : BitVec 96) : ((s.slotted e k).sensePads pads).psqCh i = s.psqCh i ∧
    ∀ o, o < kPSQ + 0xC000 → ((s.slotted e k).sensePads pads).reg o = s.reg o := by
  obtain ⟨hpsq, hreg⟩ := (s.slotted e k).sensePads_keeps pads
  exact ⟨congrArg (fun q => Tbl.get (fun _ => psqInit) q i) hpsq, hreg⟩

theorem State.slotAt_psqCh (s : State) (e k i cyc : Nat) (pads : BitVec 96) : (s.slotAt e k i cyc pads).psqCh i = s.psqCh i := by
  rw [State.slotAt, State.setF, State.psqCh, State.setReg_psq]
  exact (s.sensed e k i pads).1

section
variable {s : State} {e : Fin 4} {k : Fin 64} {i pc : Nat} {w : Word} (h : Slots s e k i pc w)
include h

theorem Slots.channel_lt : i < 128 := by
  obtain ⟨ent, -, -, hi⟩ := h.named
  have := e.isLt
  omega

theorem Slots.slotAt_eq (cyc : Nat) (pads : BitVec 96) : s.slotAt e.val k.val i cyc pads = ((s.slotted e.val k.val).sensePads pads).setF
    (kPc i + 0x1C) 0 16 (min 65535 (((s.slotted e.val k.val).sensePads pads).psqCount i + cyc)) := by
  obtain ⟨-, hreg⟩ := s.sensed e.val k.val i pads
  have hc : ((s.slotted e.val k.val).sensePads pads).psqCount i = s.psqCount i :=
    congrArg (fld · 0 16) (hreg _ (by have := kPc_lt h.channel_lt; omega))
  rw [State.slotAt, hc]

theorem Slots.slotAt_pc (cyc : Nat) (pads : BitVec 96) : (s.slotAt e.val k.val i cyc pads).regF (kPc i) 8 6 = pc := by
  have hreg := (s.sensed e.val k.val i pads).2 (kPc i) (by have := kPc_lt h.channel_lt; omega)
  rw [← h.stands]
  exact congrArg (fld · 8 6) ((State.setReg_reg_ne _ _ (by omega)).trans hreg)

theorem Slots.slotAt_word (cyc : Nat) (pads : BitVec 96) : (s.slotAt e.val k.val i cyc pads).reg (kPw i pc) = w := by
  have hpc : pc < 64 := by rw [← h.stands]; exact Nat.mod_lt _ (by decide)
  rw [← h.word]
  exact (State.setReg_reg_ne _ _ (kPw_ne_count hpc)).trans ((s.sensed e.val k.val i pads).2 _ (kPw_lt h.channel_lt hpc))

/-- A running channel with nothing latched or injected runs the word at its PC. -/
theorem Slots.runSlot (cyc : Nat) (pads : BitVec 96) : let u := s.slotAt e.val k.val i cyc pads
    let r := u.psqExec i ⟨w, 0, false⟩ true (pc + 1)
    u.psqRunSlot i = (r.2.psqFlow i w r.1 (pc + 1) false).psqShow i := by
  obtain ⟨hinj, hahead, hlatch⟩ := h.alone
  simp only [State.psqRunSlot, State.slotAt_psqCh, h.slotAt_pc, h.slotAt_word, hinj, hahead, hlatch]

/-- A slot comes to its channel's instruction when the row's pick takes it. -/
theorem Slots.slotStep (cyc : Nat) (pads : BitVec 96) {want : Word → Bool} (hw : want w = true) :
    s.psqSlotStep e.val k.val cyc pads want = (s.slotAt e.val k.val i cyc pads).psqRunSlot i := by
  obtain ⟨ent, hent, hen, hi⟩ := h.named
  obtain ⟨hstart, hstop, hcfg⟩ := h.calm
  obtain ⟨hinj, hahead, hlatch⟩ := h.alone
  obtain ⟨hch, hreg⟩ := s.sensed e.val k.val i pads
  have hrun : ((s.slotted e.val k.val).sensePads pads).psqRun i = true :=
    (congrArg (bit · 31) (hreg _ (by have := kPc_lt h.channel_lt; omega))).trans h.run
  have hen0 : ¬ ent / 128 % 2 = 0 := by omega
  simp only [State.psqSlotStep, hent, hen0, ← hi, hch, hstart, hstop, hrun, hcfg, if_false, Bool.false_eq_true, Bool.not_true,
    ← h.slotAt_eq cyc pads, State.slotAt_psqCh, h.slotAt_pc, h.slotAt_word, hinj, hahead, hlatch, hw, if_true]

theorem Slots.opRow {cyc : Nat} {pads : BitVec 96} {op : Nat} {f : PsqFlow} {t : State} (hop : fld w 28 4 = op)
    (hx : (s.slotAt e.val k.val i cyc pads).psqExec i ⟨w, 0, false⟩ true (pc + 1) = (f, t)) :
    s.psqOpRow e k cyc pads op = .next ((t.psqFlow i w f (pc + 1) false).psqShow i).pump :=
  State.working_next (f := fun s => s.psqSlotStep e.val k.val cyc pads fun w => decide (fld w 28 4 = op)) h.live
    (by rw [h.slotStep cyc pads (decide_eq_true hop), h.runSlot, hx])

/-! The five ways on from an instruction (R457). -/

variable {cyc : Nat} {pads : BitVec 96} {op : Nat} {t : State}

theorem Slots.goesOn (hop : fld w 28 4 = op) (hx : (s.slotAt e.val k.val i cyc pads).psqExec i ⟨w, 0, false⟩ true (pc + 1) = (.next, t)) :
    s.psqOpRow e k cyc pads op = t.psqTo i ((pc + 1) % 64) := by
  rw [h.opRow hop hx]
  rfl

theorem Slots.jumps {dst : Nat} (hop : fld w 28 4 = op)
    (hx : (s.slotAt e.val k.val i cyc pads).psqExec i ⟨w, 0, false⟩ true (pc + 1) = (.jump dst, t)) :
    s.psqOpRow e k cyc pads op = t.psqTo i dst := by
  rw [h.opRow hop hx]
  rfl

theorem Slots.stays {l : PsqLat} (hop : fld w 28 4 = op)
    (hx : (s.slotAt e.val k.val i cyc pads).psqExec i ⟨w, 0, false⟩ true (pc + 1) = (.stall l, t)) :
    s.psqOpRow e k cyc pads op = t.psqStays i l := by
  rw [h.opRow hop hx]
  rfl

theorem Slots.illegal (hop : fld w 28 4 = op)
    (hx : (s.slotAt e.val k.val i cyc pads).psqExec i ⟨w, 0, false⟩ true (pc + 1) = (.illegal, t)) :
    s.psqOpRow e k cyc pads op = .next ((t.psqIllegal i w).psqShow i).pump := by
  rw [h.opRow hop hx]
  rfl

theorem Slots.stops (hop : fld w 28 4 = op) (hx : (s.slotAt e.val k.val i cyc pads).psqExec i ⟨w, 0, false⟩ true (pc + 1) = (.stop, t)) :
    s.psqOpRow e k cyc pads op = .next ((t.psqHalt i).psqShow i).pump := by
  rw [h.opRow hop hx]
  rfl

end

/-- Settles O36: a slot runs its instruction's equation of `State.psqExec` in the state `State.slotAt`. -/
theorem pinSlotRows : Obligations.PinSlotRows := by
  intro s e k cyc pads i pc w h u op v on n g count
  have hl := h.legal
  refine ⟨?_, fun hop => ?_, ?_, fun hop hd hw => ?_, fun hop hd hw => ?_, fun hop hd => ?_, fun hop hd hw => ?_, fun hop hd hw => ?_, fun hop hd => ?_,
    fun hop hf => ?_, fun x q hop hf hq => ?_, fun hop hf hq => ?_, ?_, ?_, fun hop hq hov => ?_, fun hop hk hp => ?_, fun hop hp => ?_, ?_,
    fun hop hd => ?_, fun hop hd => ?_, ?_, fun hop hd => ?_, fun hop => ?_, ?_, fun hop => ?_, fun hop hd hw => ?_, fun hop hd hw => ?_,
    fun hop hd => ?_⟩
  · exact State.working_next (f := fun s => s.psqSlotStep e.val k.val cyc pads fun _ => true) h.live
      (by rw [h.slotStep cyc pads rfl, h.runSlot])
  · exact h.goesOn hop (psqExec_skip hl hop)
  · intro hop o
    exact h.goesOn hop (psqExec_drive hl hop)
  · exact h.goesOn hop (by rw [psqExec_emit hl hop, State.psqStepped_last hd hw])
  · exact h.stays hop (by rw [psqExec_emit hl hop, State.psqStepped_more hd hw])
  · exact h.stays hop (by rw [psqExec_emit hl hop, State.psqStepped_early hd])
  · exact h.goesOn hop (by rw [psqExec_sample hl hop, State.psqStepped_last hd hw])
  · exact h.stays hop (by rw [psqExec_sample hl hop, State.psqStepped_more hd hw])
  · exact h.stays hop (by rw [psqExec_sample hl hop, State.psqStepped_early hd])
  · exact h.goesOn hop (psqExec_fetch_program hl hop hf)
  · exact h.goesOn hop (psqExec_fetch_fed hl hop hf hq)
  · exact h.stays hop (psqExec_fetch_waits hl hop hf hq)
  · intro hop hq t
    exact h.goesOn hop (psqExec_deposit hl hop hq)
  · intro hop hq hov t
    exact h.goesOn hop (psqExec_deposit_overflows hl hop hq hov)
  · exact h.stays hop (psqExec_deposit_waits hl hop hq hov)
  · exact h.goesOn hop (psqExec_await hl hop hk hp)
  · exact h.stays hop (psqExec_await_waits hl hop hp)
  · intro hop holds
    have hholds : u.branchHolds i w = holds := rfl
    by_cases hb : holds = true
    · rw [if_pos hb]
      exact h.jumps hop (by rw [psqExec_branch hl hop, if_pos (hholds.trans hb)])
    · rw [if_neg hb]
      exact h.goesOn hop (by rw [psqExec_branch hl hop, hholds, if_neg hb])
  · exact h.goesOn hop (by rw [psqExec_loop hl hop, if_neg hd])
  · exact h.illegal hop (by rw [psqExec_loop hl hop, if_pos hd])
  · intro hop hd top
    by_cases ht : fld top 16 16 ≠ 0
    · rw [if_pos ht]
      exact h.jumps hop (by rw [psqExec_next hl hop, if_neg hd, if_pos ht])
    · rw [if_neg ht]
      exact h.goesOn hop (by rw [psqExec_next hl hop, if_neg hd, if_neg ht])
  · exact h.illegal hop (by rw [psqExec_next hl hop, if_pos hd])
  · exact h.goesOn hop (psqExec_period hl hop)
  · intro hop t
    exact h.goesOn hop (psqExec_signal hl hop)
  · exact h.stops hop (psqExec_stopch hl hop)
  · exact h.goesOn hop (by rw [psqExec_hold hl hop, State.psqStepped_last hd (by omega)])
  · exact h.stays hop (by rw [psqExec_hold hl hop, State.psqStepped_more hd (by omega)]; rfl)
  · exact h.stays hop (by rw [psqExec_hold hl hop, State.psqStepped_early hd])

end Sys2Proof.Machine

namespace Sys2Proof.Machine

/-! ## The packets of the time base and the pin sequencers -/

theorem beginTimerCompareArm_arms {o : Open} {t : State} (hf : timerCompareArmFault o t = none) (hd : bit (pw o.pkt 3) 31 = false) :
    beginTimerCompareArm o t = (.done repOk, t.armCompare (pw o.pkt 0).toNat
      (if bit (pw o.pkt 3) 2 then t.now + dw (pw o.pkt 1) (pw o.pkt 2) else dw (pw o.pkt 1) (pw o.pkt 2)) (fld (pw o.pkt 3) 0 2)) := by
  simp only [beginTimerCompareArm, hf, hd, Bool.false_eq_true, if_false]

theorem beginTimerCompareArm_disarms {o : Open} {t : State} (hf : timerCompareArmFault o t = none) (hd : bit (pw o.pkt 3) 31 = true)
    (ha : t.regB (kCmp (pw o.pkt 0).toNat + 8) 31 = true) :
    beginTimerCompareArm o t = (.done repOk, t.setB (kCmp (pw o.pkt 0).toNat + 8) 31 false) := by
  simp only [beginTimerCompareArm, hf, hd, ha, if_true]

theorem beginTimerCaptureSet_sets {o : Open} {t : State} (hf : timerCaptureSetFault o t = none) :
    beginTimerCaptureSet o t = (.done repOk, t.capSet (fld (pw o.pkt 0) 0 5) (pw o.pkt 1) (fld (pw o.pkt 0) 8 8)) := by
  simp only [beginTimerCaptureSet, hf]

section
variable {o : Open} {t : State}

theorem beginPinseqLoad_program (hform : fld (pw o.pkt 0) 24 2 = 0) (hf : psqLoadChecks o t (fld (pw o.pkt 0) 24 2) = none) : beginPinseqLoad o t =
    (.done repOk, t.each (List.range (o.pkt.len.toNat - 5)) fun s j =>
      s.setReg (kPw (psqLoadCh o) (fld (pw o.pkt 0) 16 6 + j)) (pw o.pkt (j + 1))) := by
  rw [hform] at hf
  simp only [beginPinseqLoad, hform, beginPinseqProgram, hf]

theorem beginPinseqLoad_slots (hform : fld (pw o.pkt 0) 24 2 = 1) (hf : psqLoadChecks o t (fld (pw o.pkt 0) 24 2) = none) : beginPinseqLoad o t =
    (.done repOk, t.each (List.range (o.pkt.len.toNat - 5)) fun s j =>
      s.setReg (kSlot (fld (pw o.pkt 0) 0 2) (fld (pw o.pkt 0) 16 6 + j)) (pw o.pkt (j + 1))) := by
  rw [hform] at hf
  simp only [beginPinseqLoad, hform, beginPinseqSlot, hf]

theorem beginPinseqLoad_config (hform : fld (pw o.pkt 0) 24 2 = 2) (hf : psqLoadChecks o t (fld (pw o.pkt 0) 24 2) = none) : beginPinseqLoad o t =
    let i := psqLoadCh o
    let s := (t.setReg (kPc i + 4) (pw o.pkt 1)).setReg (kPc i + 8) (pw o.pkt 2)
    (.done repOk, s.setPsqCh i { t.psqCh i with cfgNew := s.psqRun i }) := by
  have hch (k k' : Nat) (v v' : Word) (i : Nat) : ((t.setReg k v).setReg k' v').psqCh i = t.psqCh i := by
    rw [State.psqCh, State.setReg_psq, State.setReg_psq, State.psqCh]
  rw [hform] at hf
  simp only [beginPinseqLoad, hform, beginPinseqConfig, hf, hch]

theorem beginPinseqLoad_inject (hform : fld (pw o.pkt 0) 24 2 = 3) (hf : psqLoadChecks o t (fld (pw o.pkt 0) 24 2) = none)
    (hop : (bit (pw o.pkt 0) 26 && [7, 8, 9, 0xC].contains (fld (pw o.pkt 1) 28 4)) = false) (hrun : t.psqRun (psqLoadCh o) = true)
    (hinj : (t.psqCh (psqLoadCh o)).inj = []) (hahead : (t.psqCh (psqLoadCh o)).ahead = none) : beginPinseqLoad o t =
    (.done repOk, t.setPsqCh (psqLoadCh o) { t.psqCh (psqLoadCh o) with inj := [(pw o.pkt 1, bit (pw o.pkt 0) 26)] }) := by
  rw [hform] at hf
  simp only [beginPinseqLoad, hform, beginPinseqInject, hf, hop, hrun, hinj, hahead, Bool.not_true, Bool.false_eq_true, if_false, List.isEmpty_nil,
    Option.isSome_none, Bool.or_self]

/-- Channels of which none is refused all start (R465). -/
theorem State.psqStart_starts {chs : List Nat} (h : ∀ i ∈ chs, t.psqCause i chs = none) :
    t.psqStart chs = (true, t.each chs fun s i => (s.psqConfigure i).setPsqCh i { (s.psqConfigure i).psqCh i with starting := true }) := by
  have hnone : chs.filterMap (fun i => (t.psqCause i chs).map fun c => (i, c)) = [] :=
    List.filterMap_eq_nil_iff.2 fun i hi => by rw [h i hi]; rfl
  rw [State.psqStart, hnone]

theorem beginPinseqStart_starts (hf : pinseqStartFault o t = none) (hne : t.psqStartable (fld (pw o.pkt 0) 0 2) (pw o.pkt 1) ≠ [])
    (hc : ∀ i ∈ t.psqStartable (fld (pw o.pkt 0) 0 2) (pw o.pkt 1),
      t.psqCause i (t.psqStartable (fld (pw o.pkt 0) 0 2) (pw o.pkt 1)) = none) : beginPinseqStart o t =
    let chs := t.psqStartable (fld (pw o.pkt 0) 0 2) (pw o.pkt 1)
    (.wait (.pinStart (fld (pw o.pkt 0) 0 2) (chs.foldl (fun m i => m ||| flag (i % 32) true) 0)),
      t.each chs fun s i => (s.psqConfigure i).setPsqCh i { (s.psqConfigure i).psqCh i with starting := true }) := by
  simp only [beginPinseqStart, hf, List.isEmpty_iff, if_neg hne, State.psqStart_starts hc, if_true]

theorem beginPinseqStop_stops (hf : pinseqStopFault o t = none) (hne : (t.psqStop (fld (pw o.pkt 0) 0 2) (pw o.pkt 1)).1 ≠ 0) :
    beginPinseqStop o t = (.wait (.pinStop (fld (pw o.pkt 0) 0 2) (t.psqStop (fld (pw o.pkt 0) 0 2) (pw o.pkt 1)).1),
      (t.psqStop (fld (pw o.pkt 0) 0 2) (pw o.pkt 1)).2) := by
  simp only [beginPinseqStop, hf, if_neg hne]

end

theorem KeepP.opens_of_eq {α : Type} {t u : State} {a : α} {p : α × State} (hk : KeepP t p) (h : p = (a, u)) : u.foy.opens = t.foy.opens := by
  subst h
  exact hk.out.opens

/-- Settles O10: the packets begin with these results, and the Foyer's run from them is `packet_done` and `packet_wait`. -/
theorem pinPackets : Obligations.PinPackets := by
  refine ⟨?_, ?_, ?_, ?_, ?_⟩
  · intro s p hT t o k v hf
    have done {u : State} (h : beginTimerCompareArm o t = (.done repOk, u)) := packet_done hT nofun h
      ((beginTimerCompareArm_keep (Keep.refl t)).opens_of_eq h)
    exact ⟨fun hd => done (beginTimerCompareArm_arms (o := o) hf hd), fun hd ha => done (beginTimerCompareArm_disarms (o := o) hf hd ha)⟩
  · intro s p hT t o hf
    have h := beginTimerCaptureSet_sets (o := o) hf
    exact packet_done hT nofun h ((beginTimerCaptureSet_keep (Keep.refl t)).opens_of_eq h)
  · intro s p hT t o form i words hf
    have done {u : State} (h : beginPinseqLoad o t = (.done repOk, u)) := packet_done hT nofun h
      ((beginPinseqLoad_keep (Keep.refl t)).opens_of_eq h)
    exact ⟨fun h0 => done (beginPinseqLoad_program (o := o) h0 hf), fun h1 => done (beginPinseqLoad_slots (o := o) h1 hf),
      fun h2 => done (beginPinseqLoad_config (o := o) h2 hf),
      fun h3 hop hrun hinj hahead => done (beginPinseqLoad_inject (o := o) h3 hf hop hrun hinj hahead)⟩
  · intro s p hT t o e chs hf hne hc
    have h := beginPinseqStart_starts (o := o) hf hne hc
    exact packet_wait hT h ((beginPinseqStart_keep (Keep.refl t)).opens_of_eq h) ⟨nofun, nofun⟩
  · intro s p hT t o e chs m hf hne
    have h := beginPinseqStop_stops (o := o) hf hne
    exact packet_wait hT h ((beginPinseqStop_keep (Keep.refl t)).opens_of_eq h) ⟨nofun, nofun⟩

/-! ## The registers of the pin sequencers -/

/-- A register of channel c of engine e lies in the page of the pin sequencers (R467). -/
theorem kPc_add_eq {e c o : Nat} (hc : c < 32) : kPc (32 * e + c) + o = 8 * 0x10000 + (0x3000 * e + 0x2000 + 0x40 * c + o) := by
  unfold kPc kPSQ
  omega

/-- The engine, the channel and the register that an offset of that page names. -/
theorem psqPage_parts {e c o : Nat} (he : e < 4) (hc : c < 32) (ho : o < 0x40) : let a := 0x3000 * e + 0x2000 + 0x40 * c + o
    a < 0xC000 ∧ a / 0x3000 = e ∧ a % 0x3000 = 0x2000 + 0x40 * c + o := by
  omega

section
variable {s : State} {e c : Nat} (he : e < 4) (hc : c < 32)
include he hc

theorem State.psqWrite_fq (v : Word) : s.psqWrite (0x3000 * e + 0x2000 + 0x40 * c + 0x20) v = some (s.psqFeed (32 * e + c) v) := by
  obtain ⟨hlt, hq, hr⟩ := psqPage_parts he hc (o := 0x20) (by decide)
  have hreg : (0x2000 + 0x40 * c + 0x20) % 0x40 = 0x20 := by omega
  have hch : (0x2000 + 0x40 * c + 0x20 - 0x2000) / 0x40 = c := by omega
  simp only [State.psqWrite, if_neg (Nat.not_le.2 hlt), hq, hr, if_neg (show ¬ 0x2000 + 0x40 * c + 0x20 < 0x2000 by omega),
    if_pos (show 0x2000 + 0x40 * c + 0x20 < 0x2800 by omega), hreg, hch]

theorem State.psqWrite_inj (v : Word) : s.psqWrite (0x3000 * e + 0x2000 + 0x40 * c + 0x30) v = some (s.psqInject (32 * e + c) v) := by
  obtain ⟨hlt, hq, hr⟩ := psqPage_parts he hc (o := 0x30) (by decide)
  have hreg : (0x2000 + 0x40 * c + 0x30) % 0x40 = 0x30 := by omega
  have hch : (0x2000 + 0x40 * c + 0x30 - 0x2000) / 0x40 = c := by omega
  simp only [State.psqWrite, if_neg (Nat.not_le.2 hlt), hq, hr, if_neg (show ¬ 0x2000 + 0x40 * c + 0x30 < 0x2000 by omega),
    if_pos (show 0x2000 + 0x40 * c + 0x30 < 0x2800 by omega), hreg, hch]

theorem State.pageRead_sq (hr : s.ready = true) (hp : s.pageAbsent 8 = false) :
    s.pageRead 8 (0x3000 * e + 0x2000 + 0x40 * c + 0x24) = s.psqDrain (32 * e + c) := by
  obtain ⟨hlt, hq, hm⟩ := psqPage_parts he hc (o := 0x24) (by decide)
  have hreg : (0x2000 + 0x40 * c + 0x24) % 0x40 = 0x24 := by omega
  have hch : (0x2000 + 0x40 * c + 0x24 - 0x2000) / 0x40 = c := by omega
  have hw : writeOnly 8 (0x3000 * e + 0x2000 + 0x40 * c + 0x24) = false := by
    simp [writeOnly, hm]
    omega
  have hwide : wideReg 8 (0x3000 * e + 0x2000 + 0x40 * c + 0x24) = false := rfl
  have hup : ¬ (((8 : Nat) ≠ 0 ∧ ¬ s.ready = true) ∨ s.pageAbsent 8 = true) := by simp [hr, hp]
  have hin : ¬ (0xC000 ≤ 0x3000 * e + 0x2000 + 0x40 * c + 0x24 ∨ 0x2000 + 0x40 * c + 0x24 < 0x2000 ∨ 0x2800 ≤ 0x2000 + 0x40 * c + 0x24) := by omega
  simp only [State.pageRead, show ¬ 0x40 ≤ 8 by decide, show ¬ 0x10 ≤ 8 by decide, hup, hw, hwide, hq, hm, hin, hreg, hch, Bool.false_eq_true, if_false,
    if_true]

end

section
variable {s : State} {e : Nat} (he : e < 4)
include he

theorem State.psqWrite_estart (v : Word) : s.psqWrite (0x3000 * e + 0x2844) v = some (s.psqStart (s.psqStartable e v)).2 := by
  obtain ⟨hlt, hq, hr⟩ : 0x3000 * e + 0x2844 < 0xC000 ∧ (0x3000 * e + 0x2844) / 0x3000 = e ∧ (0x3000 * e + 0x2844) % 0x3000 = 0x2844 := by omega
  simp only [State.psqWrite, if_neg (Nat.not_le.2 hlt), hq, hr]
  rfl

theorem State.psqWrite_estop (v : Word) : s.psqWrite (0x3000 * e + 0x2848) v = some (s.psqStop e v).2 := by
  obtain ⟨hlt, hq, hr⟩ : 0x3000 * e + 0x2848 < 0xC000 ∧ (0x3000 * e + 0x2848) / 0x3000 = e ∧ (0x3000 * e + 0x2848) % 0x3000 = 0x2848 := by omega
  simp only [State.psqWrite, if_neg (Nat.not_le.2 hlt), hq, hr]
  rfl

end

theorem State.psqFeed_room {s : State} {i : Nat} (v : Word) (h : (s.psqCh i).fq.length < 8) :
    s.psqFeed i v = (s.setPsqCh i { s.psqCh i with fq := (s.psqCh i).fq ++ [v] }).psqShow i := if_pos h

theorem State.psqFeed_full {s : State} {i : Nat} (v : Word) (h : 8 ≤ (s.psqCh i).fq.length) : s.psqFeed i v = s.setB (kPc i) 24 true :=
  if_neg (Nat.not_lt.2 h)

theorem State.psqDrain_oldest {s : State} {i : Nat} {w : Word} {rest : List Word} (h : (s.psqCh i).sq = w :: rest) :
    s.psqDrain i = (w, (s.setPsqCh i { s.psqCh i with sq := rest }).psqShow i) := by
  simp only [State.psqDrain, h]

theorem State.psqDrain_empty {s : State} {i : Nat} (h : (s.psqCh i).sq = []) : s.psqDrain i = (0, s) := by
  simp only [State.psqDrain, h]

theorem State.psqInject_running {s : State} {i : Nat} {v : Word} (hrun : s.psqRun i = true)
    (hop : (s.regB (kPc i + 0x2C) 31 && [7, 8, 9, 0xC].contains (fld v 28 4)) = false) :
    s.psqInject i v = (s.setReg (kPc i + 0x2C) 0).setPsqCh i { s.psqCh i with inj := (s.psqCh i).inj ++ [(v, s.regB (kPc i + 0x2C) 31)] } := by
  simp only [State.psqInject, hrun, hop, Bool.not_true, Bool.false_eq_true, if_false]

theorem State.psqInject_stopped {s : State} {i : Nat} (v : Word) (hrun : s.psqRun i = false) :
    s.psqInject i v = (s.setReg (kPc i + 0x2C) 0).setB (kPc i) 26 true := by
  simp only [State.psqInject, hrun, Bool.not_false, if_true]

/-- A driving master's write of a register of the pin sequencers' page. -/
theorem rowWrite_psq {s t : State} {m : Master} {o : Nat} {v : Word} (hd : s.drives m 8 = true) (h4 : o % 4 = 0) (ho : o < 0x10000)
    (hw : s.psqWrite o v = some t) : s.rowWrite m (bar0At (8 * 0x10000 + o)) v = .next t.pump :=
  rowWrite_unitPage (by decide) (by decide) hd h4 ho hw

section
variable {s : State} {m : Master} (e : Fin 4) (c : Fin 32)

theorem execPsqFqWrite_drives (v : Word) (hd : s.drives m 8 = true) :
    exec (.psqFqWrite m e c v) s = .next (s.psqFeed (32 * e.val + c.val) v).pump := by
  have hrow := rowWrite_psq hd (by omega) (by omega) (State.psqWrite_fq e.isLt c.isLt v)
  rwa [← kPc_add_eq c.isLt] at hrow

theorem execPsqInjWrite_drives (v : Word) (hd : s.drives m 8 = true) :
    exec (.psqInjWrite m e c v) s = .next (s.psqInject (32 * e.val + c.val) v).pump := by
  have hrow := rowWrite_psq hd (by omega) (by omega) (State.psqWrite_inj e.isLt c.isLt v)
  rwa [← kPc_add_eq c.isLt] at hrow

theorem execPsqSqRead_views (hv : s.views m 8 = true) : exec (.psqSqRead m e c) s =
    .next ((s.psqDrain (32 * e.val + c.val)).2.answer [(s.psqDrain (32 * e.val + c.val)).1]).pump := by
  obtain ⟨-, hr, hp, -⟩ := State.views_parts hv
  have hrow := rowRead_page (u := 8) (by decide) (by decide) (by decide) hv (o := 0x3000 * e.val + 0x2000 + 0x40 * c.val + 0x24) (by omega) (by omega)
  rwa [← kPc_add_eq c.isLt, State.pageRead_sq e.isLt c.isLt hr hp] at hrow

theorem execPsqEstart_drives (v : Word) (hd : s.drives m 8 = true) :
    exec (.psqEstart m e v) s = .next (s.psqStart (s.psqStartable e.val v)).2.pump := by
  have hrow := rowWrite_psq hd (by omega) (by omega) (State.psqWrite_estart e.isLt v)
  have hk : kErun e.val + 4 = 8 * 0x10000 + (0x3000 * e.val + 0x2844) := by unfold kErun kPSQ; omega
  rwa [← hk] at hrow

theorem execPsqEstop_drives (v : Word) (hd : s.drives m 8 = true) : exec (.psqEstop m e v) s = .next (s.psqStop e.val v).2.pump := by
  have hrow := rowWrite_psq hd (by omega) (by omega) (State.psqWrite_estop e.isLt v)
  have hk : kErun e.val + 8 = 8 * 0x10000 + (0x3000 * e.val + 0x2848) := by unfold kErun kPSQ; omega
  rwa [← hk] at hrow

end

/-- Settles O19: each row is its register's own access, whose lemma says what it does. -/
theorem pinRegisters : Obligations.PinRegisters := by
  refine ⟨?_, ?_, ?_, ?_, ?_, ?_, ?_, ?_⟩
  · intro s m e c v i hd hq
    rw [execPsqFqWrite_drives e c v hd, State.psqFeed_room v hq]
  · intro s m e c v i hd hq
    rw [execPsqFqWrite_drives e c v hd, State.psqFeed_full v hq]
  · intro s m e c w rest i hv hq
    rw [execPsqSqRead_views e c hv, State.psqDrain_oldest hq]
  · intro s m e c i hv hq
    rw [execPsqSqRead_views e c hv, State.psqDrain_empty hq]
  · intro s m e c v i resume hd hrun hop
    rw [execPsqInjWrite_drives e c v hd, State.psqInject_running hrun hop]
  · intro s m e c v i hd hrun
    rw [execPsqInjWrite_drives e c v hd, State.psqInject_stopped v hrun]
  · intro s m e v hd hc
    have hnone : ∀ i ∈ s.psqStartable e.val v, s.psqCause i (s.psqStartable e.val v) = none := fun i hi =>
      Option.isNone_iff_eq_none.1 (List.all_eq_true.1 hc i hi)
    rw [execPsqEstart_drives e v hd, State.psqStart_starts hnone]
  · intro s m e v hd
    rw [execPsqEstop_drives e v hd, State.psqStop]

end Sys2Proof.Machine

namespace Sys2Proof.Machine

/-! ## The Music Room: boundaries, clock and ports -/

section
variable {s : State}

theorem State.musBoundary_stopped (tdm : List (BitVec 24) × List (BitVec 24)) (late : List Nat) (h : s.clockTaken.regB kMStat 31 = false) :
    s.musBoundary tdm late = s.clockTaken := by
  simp only [State.musBoundary, h, Bool.not_false, Bool.true_or, if_true]

theorem State.audioLost_external (hrun : s.regB kMStat 31 = true) (hext : s.regB kMStat 4 = true) : s.audioLost =
    (((s.setB kMStat 31 false).portsRun false).pulse 493).errRec sevInfo 0x0B 0x0050 0 .notReady (lo32 (s.w64 (kMUS + 4))) 0 := by
  simp only [State.audioLost, hrun, hext, Bool.and_self, if_true]

theorem State.audioReturn_external (hrun : s.regB kMStat 31 = false) (hext : s.regB kMStat 4 = true) : s.audioReturn =
    ((s.setB kMStat 31 true).portsRun true).pulse 493 := by
  simp only [State.audioReturn, hrun, hext, Bool.not_false, Bool.and_self, if_true]

/-- The port has seen n good frames in a row (R392). -/
def State.lockCounted (s : State) (k n : Nat) : State := { s with mus := { s.mus with lockRun := Tbl.set (fun _ => 0) s.mus.lockRun k n } }

section
variable {k : Nat} (hen : s.regB (kPcfg k) 31 = true) (hslave : s.regB (kPcfg k) 30 = false)
include hen hslave

/-- The fourth good frame in a row locks the port. -/
theorem State.slaveFrame_locks (hun : s.regB (kPcfg k + 4) 31 = false) (hrun : Tbl.get (fun _ => 0) s.mus.lockRun k = 3) :
    s.slaveFrame k true false = ((s.lockCounted k 4).setB (kPcfg k + 4) 31 true).pulse 492 := by
  have hen' : bit (s.reg (kPcfg k)) 31 = true := hen
  have hslave' : bit (s.reg (kPcfg k)) 30 = false := hslave
  simp [State.slaveFrame, hen', hslave', hun, hrun, State.lockCounted]

/-- A bad frame loses it. -/
theorem State.slaveFrame_unlocks (hlock : s.regB (kPcfg k + 4) 31 = true) :
    s.slaveFrame k false false = ((s.lockCounted k 0).setB (kPcfg k + 4) 31 false).pulse 492 := by
  have hen' : bit (s.reg (kPcfg k)) 31 = true := hen
  have hslave' : bit (s.reg (kPcfg k)) 30 = false := hslave
  simp [State.slaveFrame, hen', hslave', hlock, State.lockCounted]

/-- A slip of a locked port sets its flag and is counted, and asserts source 492 the first time. -/
theorem State.slaveFrame_slips (hlock : s.regB (kPcfg k + 4) 31 = true) :
    let u := s.lockCounted k (min 4 (Tbl.get (fun _ => 0) s.mus.lockRun k + 1))
    let t := (u.setB (kPcfg k + 4) 30 true).setF (kPcfg k + 4) 0 16 ((u.regF (kPcfg k + 4) 0 16 + 1) % 65536)
    s.slaveFrame k true true = if u.regB (kPcfg k + 4) 30 then t else t.pulse 492 := by
  have hen' : bit (s.reg (kPcfg k)) 31 = true := hen
  have hslave' : bit (s.reg (kPcfg k)) 30 = false := hslave
  simp only [State.slaveFrame, hen', hslave', hlock, Bool.not_true, Bool.or_self, Bool.true_or, Bool.and_self, Bool.false_eq_true, if_false, if_true]
  rfl

end

theorem State.tdmShort_found {k : Nat} (hen : s.regB (kPcfg k) 31 = true) (hk : k < 8) (hnew : s.regB (kPcfg k + 4) 29 = false) :
    s.tdmShort k true = ((s.setB (kPcfg k + 4) 29 true).pulse 492).errRec sevInfo 0x0B 0x0052 k .ok
      ((s.setB (kPcfg k + 4) 29 true).reg (kPcfg k + 4)) 0 := by
  simp only [State.tdmShort, hen, hnew, decide_eq_false (Nat.not_le.2 hk), Bool.not_true, Bool.or_self, Bool.false_eq_true, if_false, if_true]

theorem State.tdmShort_gone {k : Nat} (hen : s.regB (kPcfg k) 31 = true) (hk : k < 8) : s.tdmShort k false = s.setB (kPcfg k + 4) 29 false := by
  simp only [State.tdmShort, hen, decide_eq_false (Nat.not_le.2 hk), Bool.not_true, Bool.or_self, Bool.false_eq_true, if_false]

end

/-- The samples of the period that begins at a boundary, after the count, what is due, the frame on the wire and the mix: this period's sums, and the state (R361, R362). -/
def State.periodSamples (s : State) (tdm : List (BitVec 24) × List (BitVec 24)) (late : List Nat) : (Tbl Int × Tbl Int) × State :=
  let t := (s.setW64 (kMUS + 4) (s.w64 (kMUS + 4) + 1)).setW64 (kMUS + 0xC) s.now
  let u := State.portsDue { t with mus := { t.mus with tdmIn := ((tdm.1.map BitVec.toInt, tdm.2.map BitVec.toInt) :: t.mus.tdmIn).take 3 } }
  let m := (u.each u.someVoices State.voiceDue).mixDue
  let w := (State.portRequests { m with mus := { m.mus with wire := m.wireNow } }).mixPeriod.delayMarks
  w.someVoices.foldl (fun (a : (Tbl Int × Tbl Int) × State) v =>
    if a.2.playing v then (if isTone v then a.2.toneVoice v a.1 else a.2.sampleVoice v (late.contains v) a.1) else a) (([], []), w)

/-- The sums of a period stand for the next one. -/
def sumsStored (r : (Tbl Int × Tbl Int) × State) : State :=
  { r.2 with mus := { r.2.mus with bus := r.1.1, direct := (r.1.2 :: r.2.mus.direct).take 3 } }

theorem State.musBoundary_runs {s : State} (tdm : List (BitVec 24) × List (BitVec 24)) (late : List Nat)
    (hrun : s.clockTaken.regB kMStat 31 = true) (hready : s.clockTaken.ready = true) (hpres : s.clockTaken.present 6 = true) :
    s.musBoundary tdm late = sumsStored (s.clockTaken.periodSamples tdm late) := by
  have hgo : ¬ (!s.clockTaken.regB kMStat 31 || !s.clockTaken.ready || !s.clockTaken.present 6) = true := by rw [hrun, hready, hpres]; decide
  rw [State.musBoundary, if_neg hgo, sumsStored, State.periodSamples]

/-- Row SAMPLE_BOUNDARY in a state of full power. -/
theorem execSampleBoundary_full {s t : State} {tdm : List (BitVec 24) × List (BitVec 24)} {late : List (Fin 512)} (hfull : s.full = true)
    (h : s.musBoundary tdm (late.map (·.val)) = t) : exec (.sampleBoundary tdm late) s = .next t.pump := by
  show execSampleBoundary tdm late s = _
  rw [execSampleBoundary, State.working_next hfull h]

/-- Settles O34: each row is its event's own equation. -/
theorem musicRows : Obligations.MusicRows := by
  unfold Obligations.MusicRows
  refine ⟨?_, ?_, ?_, ?_, ?_, ?_, ?_, ?_, ?_⟩
  · intro s tdm late hfull hstop
    exact execSampleBoundary_full (late := late) hfull (State.musBoundary_stopped _ _ hstop)
  · intro s tdm late c hfull hrun hready hpres t u m w r
    have hr : s.clockTaken.periodSamples tdm (late.map (·.val)) = r := rfl
    have hrow := execSampleBoundary_full (late := late) hfull (State.musBoundary_runs tdm _ hrun hready hpres)
    rwa [hr] at hrow
  · intro s hfull hrun hext
    exact State.quietly_next (f := State.audioLost) hfull (State.audioLost_external hrun hext)
  · intro s hfull hrun hext
    exact State.quietly_next (f := State.audioReturn) hfull (State.audioReturn_external hrun hext)
  · intro s k hfull hen hslave hun hrun
    exact State.quietly_next (f := fun s => s.slaveFrame k.val true false) hfull (State.slaveFrame_locks hen hslave hun hrun)
  · intro s k hfull hen hslave hlock
    exact State.quietly_next (f := fun s => s.slaveFrame k.val false false) hfull (State.slaveFrame_unlocks hen hslave hlock)
  · intro s k hfull hen hslave hlock n u t
    exact State.quietly_next (f := fun s => s.slaveFrame k.val true true) hfull (State.slaveFrame_slips hen hslave hlock)
  · intro s k hfull hen hk hnew
    exact State.quietly_next (f := fun s => s.tdmShort k.val true) hfull (State.tdmShort_found hen hk hnew)
  · intro s k hfull hen hk
    exact State.quietly_next (f := fun s => s.tdmShort k.val false) hfull (State.tdmShort_gone hen hk)

end Sys2Proof.Machine

namespace Sys2Proof.Machine

/-! ## The power states -/

/-- Settles O51: each row is its event's own definition under the hypotheses of its clause. -/
theorem powerRows : Obligations.PowerRows := by
  refine ⟨?_, ?_, ?_, ?_, ?_, ?_⟩
  · intro s c hlive hp hc
    exact State.quietly_next (f := fun s => s.idleChannel c.val) hlive (if_pos (by rw [hp, hc]; rfl))
  · intro s hlive hs
    exact State.quietly_next (f := State.enterS2) hlive (if_pos hs)
  · intro s hlive hs
    exact State.quietly_next (f := State.enterS2) hlive (if_neg (ne_true_of_eq_false hs))
  · intro s hp
    have hleave : s.leaveS2 = State.errDrain ((State.setF { s with chm := { s.chm with waking := false } } 4 4 2 1).setB (kTMB + 8) 30 true) := if_pos hp
    show Host.Outcome.next s.leaveS2.pump = _
    rw [hleave]
  · intro s pin lvl ha hp hpin hlvl
    exact State.quietly_next (f := fun s => s.wakePin pin.val lvl) ha (if_pos (by rw [hp, hpin, hlvl, beq_self_eq_true]; rfl))
  · intro s pin lvl ha hpin
    exact State.quietly_next (f := fun s => s.wakePin pin.val lvl) ha (if_neg (by rw [hpin, Bool.and_false, Bool.false_and]; exact Bool.false_ne_true))

/-! ## The Chimney -/

section
variable {s : State}

theorem State.trip_trips {temps : List (BitVec 16)} (ha : s.answers = true) (ht : 110 * 16 ≤ temp16 (tjOf (temps.take 12))) :
    s.trip temps = { ((s.setReg (kCHM + 0x600) (wd (2 ^ 31 + min 65535 (s.regF (kCHM + 0x600) 0 16 + 1)))).setW64 (kCHM + 0x604) s.now).selfRefresh with
      phase := .trip } := by
  simp only [State.trip, ha, decide_eq_false (Int.not_lt.2 ht), Bool.not_true, Bool.or_self, Bool.false_eq_true, if_false]

theorem State.trip_below {temps : List (BitVec 16)} (ht : temp16 (tjOf (temps.take 12)) < 110 * 16) : s.trip temps = s := by
  simp only [State.trip, decide_eq_true ht, Bool.or_true, if_true]

theorem State.tripRelease_releases (b : BootIn) (hp : s.phase = .trip) (hr : s.chm.resetHeld = true) :
    let t := State.setReg { s with err := { s.err with intake := [], lost := s.err.lost || decide (s.err.intake.length ≠ 0) } } kErrDrop
      (s.reg kErrDrop + wd s.err.intake.length)
    let u := (State.warmReset { t with phase := .boot } b).setB kCHM 30 true
    s.tripRelease b = u.errRec sevFatal 0x03 0x0061 (u.regF (kCHM + 0x600) 0 16) .ok (lo32 (u.w64 (kCHM + 0x604))) (hi32 (u.w64 (kCHM + 0x604))) := by
  have hgo : ¬ (s.phase ≠ .trip || !s.chm.resetHeld) = true := by simp [hp, hr]
  exact if_neg hgo

/-- The sensors change registers, and at the warning's edges the Bell board and the error records, but nothing of the Chimney's own (R514). -/
theorem State.thermal_chm (s : State) (temps : List (BitVec 16)) : (s.thermal temps).chm = s.chm := by
  unfold State.thermal
  extract_lets ts s1 t s2 pk s3 was
  have h1 : UnitKeep s s1 := (UnitKeep.refl s).each _ fun _ h => h.setReg _ _
  have h2 : UnitKeep s s2 := h1.setReg _ _
  have h3 : UnitKeep s s3 := UnitKeep.ite (h2.setReg _ _) h2
  exact (UnitKeep.ite (UnitKeep.refl s) (UnitKeep.ite (((h3.setReg _ _).level 23 true).errRec ..)
    (UnitKeep.ite ((h3.setReg _ _).level 23 false) h3))).chm

/-- Without a ring a sample shows in the registers alone. -/
theorem State.telemetry_no_ring (x : Sample) (h : s.chm.ring = none) :
    s.telemetry x = ((s.thermal x.temps).setReg (kCHM + 0x44) x.power).setF (kCHM + 0x40) 0 16 x.vcore.toNat := by
  have hring : (((s.thermal x.temps).setReg (kCHM + 0x44) x.power).setF (kCHM + 0x40) 0 16 x.vcore.toNat).chm.ring = none := by
    rw [State.setF, State.setReg_chm, State.setReg_chm, State.thermal_chm, h]
  simp only [State.telemetry, hring]

theorem State.voltageStep_held (want : Nat) (hr : s.ready = true) : s.voltageStep want false = s.setB kCHM 29 true := by
  simp only [State.voltageStep, hr, Bool.not_true, Bool.not_false, Bool.false_eq_true, if_false, if_true]

theorem State.voltageStep_moves {want : Nat} (hr : s.ready = true) (hlo : s.regF (kCHM + 0x100) 0 16 ≤ want)
    (hhi : want ≤ s.regF (kCHM + 0x100) 16 16) : s.voltageStep want true =
    (((State.setB { s with chm := { s.chm with vwant := want } } kCHM 29 false).setF (kCHM + 0x40) 16 16
      (if s.regF (kCHM + 0x40) 16 16 < want then min want (s.regF (kCHM + 0x40) 16 16 + 5) else max want (s.regF (kCHM + 0x40) 16 16 - 5))).setB
        kCHM 16 false) := by
  simp only [State.voltageStep, hr, Nat.min_eq_right hhi, Nat.max_eq_right hlo, decide_eq_false (Nat.not_lt.2 hlo), decide_eq_false (Nat.not_lt.2 hhi),
    Bool.not_true, Bool.or_self, Bool.false_and, Bool.false_eq_true, if_false]

theorem State.refreshStep_rises {c : Nat} {t : DWord} (ht : (Tbl.get (fun _ => []) s.chm.errT c)[7]? = some t)
    (hn : (s.now - t).toNat ≤ 1000000000) : s.refreshStep c true =
    State.refreshSet { s with chm := { s.chm with errT := Tbl.set (fun _ => []) s.chm.errT c [] } } c (min 252 (s.refDemand c + 4)) := by
  simp only [State.refreshStep, ht, if_neg (Nat.not_lt.2 hn), if_true]

theorem State.refreshStep_falls {c : Nat} (hn : 60000000000 ≤ (s.now - Tbl.get (fun _ => 0) s.chm.calm c).toNat) (hd : 16 < s.refDemand c) :
    s.refreshStep c false =
    State.refreshSet { s with chm := { s.chm with calm := Tbl.set (fun _ => 0) s.chm.calm c s.now } } c (s.refDemand c - 4) := by
  simp only [State.refreshStep, decide_eq_false (Nat.not_lt.2 hn), decide_eq_false (Nat.not_le.2 hd), Bool.or_self, Bool.false_eq_true, if_false]

end

/-- Settles O49: each row is its event's own equation. -/
theorem chimneyRows : Obligations.ChimneyRows := by
  refine ⟨?_, ?_, ?_, ?_, ?_, ?_, ?_, ?_, ?_, ?_, ?_⟩
  · intro s temps ha ht t
    exact congrArg Host.Outcome.next (State.trip_trips ha ht)
  · intro s temps ht
    exact congrArg Host.Outcome.next (State.trip_below ht)
  · intro s b hp hr t u
    exact congrArg Host.Outcome.next (State.tripRelease_releases b hp hr)
  · intro s hp
    exact State.quietly_next (f := State.xtal) (decide_eq_true hp) rfl
  · intro s temps hup
    exact State.quietly_next (f := fun s => s.thermal temps) hup rfl
  · intro s x hup hring
    exact State.quietly_next (f := fun s => s.telemetry x) hup (State.telemetry_no_ring x hring)
  · intro s want hup hr
    exact State.quietly_next (f := fun s => s.voltageStep want false) hup (State.voltageStep_held want hr)
  · intro s want hup hr hlo hhi sp t
    exact State.quietly_next (f := fun s => s.voltageStep want true) hup (State.voltageStep_moves hr hlo hhi)
  · intro s c t hup ht hn
    exact State.quietly_next (f := fun s => s.refreshStep c.val true) hup (State.refreshStep_rises ht hn)
  · intro s c hup hn hd
    exact State.quietly_next (f := fun s => s.refreshStep c.val false) hup (State.refreshStep_falls hn hd)
  · intro s out hup
    exact State.quietly_next (f := fun s => s.setB kCHM 27 out) hup rfl

end Sys2Proof.Machine

namespace Sys2Proof.Machine

/-! ## What the audit port answers -/

section
variable {s : State} {w : List Byte}

theorem State.audServe_length (h : w.length ≠ 48) : s.audServe w = (.badLength, 0, some []) := if_pos h

theorem State.audServe_unsound (h : w.length = 48) (hbad : numAt w 44 4 ≠ (crc32 (w.take 44)).toNat ∨ numAt w 2 2 ≠ 0) :
    s.audServe w = (.badParam, 0, some []) := by
  simp only [State.audServe, if_neg (not_not_intro h), if_pos hbad]

section
variable (hlen : w.length = 48) (hcrc : numAt w 44 4 = (crc32 (w.take 44)).toNat) (hres : numAt w 2 2 = 0)
include hlen hcrc hres

/-- A STATUS request whose index or nonce is not 0 (R495). -/
theorem State.audServe_status_refused (hreq : numAt w 0 1 = 1) (hp : ¬ (numAt w 4 8 = 0 ∧ (bytesAt w 12 32).all (· = 0) = true)) :
    s.audServe w = (.badParam, 0, some []) := by
  have hplain : ¬ (decide (numAt w 4 8 = 0) && (bytesAt w 12 32).all (· = 0)) = true := by rwa [Bool.and_eq_true, decide_eq_true_eq]
  simp only [State.audServe, hlen, hcrc, hres, hreq, hplain, ne_eq, not_true_eq_false, or_self, Bool.false_eq_true, if_false]

/-- A request that R495 does not list. -/
theorem State.audServe_unknown (hreq : 7 ≤ numAt w 0 1) : s.audServe w = (.badOpcode, 0, some []) := by
  simp only [State.audServe, hlen, hcrc, hres, ne_eq, not_true_eq_false, or_self, if_false]
  split
  case h_7 => rfl
  all_goals omega

end

end

/-- The assignment is taken by a port that responds and has no dynamic address, or by any port when it is an RSTDAA (R494). -/
theorem State.audAssign_taken {s : State} {a : Option Nat} {again : Bool} (hon : s.audOn = true) (h : again = true ∨ s.att.aud.dyn = none) :
    s.audAssign a again = (s.updAud fun x => { x with dyn := a }).audShow := by
  have hgo : (s.audOn && (again || s.att.aud.dyn.isNone)) = true := by
    rcases h with h | h <;> simp [hon, h]
  exact if_pos hgo

theorem State.audAssign_left {s : State} {a : Option Nat} {b : Nat} (h : s.att.aud.dyn = some b) : s.audAssign a false = s := by
  have hgo : ¬ (s.audOn && (false || s.att.aud.dyn.isNone)) = true := by simp [h]
  exact if_neg hgo

theorem State.audAssign_off {s : State} {a : Option Nat} {again : Bool} (hon : s.audOn = false) : s.audAssign a again = s := by
  have hgo : ¬ (s.audOn && (again || s.att.aud.dyn.isNone)) = true := by simp [hon]
  exact if_neg hgo

/-- Settles O53: a request is judged by its framing and its first byte, an address by whether the port has one. -/
theorem auditAnswers : Obligations.AuditAnswers := by
  refine ⟨?_, ?_, ?_, ?_, ?_, ?_⟩
  · intro s w sound plain
    exact ⟨State.audServe_length, State.audServe_unsound,
      fun ⟨hlen, hcrc, hres⟩ hreq ⟨hidx, hn⟩ => State.audServe_status hlen hcrc hres hreq hidx hn,
      fun ⟨hlen, hcrc, hres⟩ hreq hp => State.audServe_status_refused hlen hcrc hres hreq hp,
      fun ⟨hlen, hcrc, hres⟩ hreq ⟨hidx, hn⟩ => State.audServe_cert hlen hcrc hres hreq hidx hn,
      fun ⟨hlen, hcrc, hres⟩ hreq hn hb => State.audServe_seek hlen hcrc hres hreq hn hb,
      fun ⟨hlen, hcrc, hres⟩ hreq => State.audServe_unknown hlen hcrc hres hreq⟩
  · intro s a hon hdyn
    have h := State.audAssign_taken (a := some a.toNat) (again := false) hon (.inr hdyn)
    exact ⟨congrArg Host.Outcome.next h, congrArg Host.Outcome.next h⟩
  · intro s a b hdyn
    have h := State.audAssign_left (a := some a.toNat) hdyn
    exact ⟨congrArg Host.Outcome.next h, congrArg Host.Outcome.next h⟩
  · intro s hon
    exact congrArg Host.Outcome.next (State.audAssign_taken (again := true) hon (.inl rfl))
  · intro s hon
    exact ⟨State.quietly_next (f := fun s => s.audAnswer [0x00]) hon rfl, State.quietly_next (f := fun s => s.audAnswer [0x00]) hon rfl,
      State.quietly_next (f := fun s => s.audAnswer (leBytes 6 Config.auditPid.toNat).reverse) hon rfl,
      State.quietly_next (f := fun s => s.audAnswer (leBytes 2 (fld Config.auditLengths 0 16)).reverse) hon rfl,
      State.quietly_next (f := fun s => s.audAnswer (leBytes 2 (fld Config.auditLengths 16 16)).reverse) hon rfl,
      State.quietly_next (f := fun s => { s.audAnswer (leBytes 2 (Config.auditStatus s.free).toNat).reverse with free := s.free + 1 }) hon rfl⟩
  · intro s i hoff hi
    have hquiet {f : State → State} : s.quietly s.audOn f = .next s := by rw [State.quietly, hoff]; rfl
    simp only [List.mem_cons, List.not_mem_nil, or_false] at hi
    rcases hi with rfl | rfl | rfl | rfl | rfl | rfl | rfl | rfl
    · exact hquiet (f := fun s => s.audAnswer [0x00])
    · exact hquiet (f := fun s => s.audAnswer [0x00])
    · exact hquiet (f := fun s => s.audAnswer (leBytes 6 Config.auditPid.toNat).reverse)
    · exact hquiet (f := fun s => s.audAnswer (leBytes 2 (fld Config.auditLengths 0 16)).reverse)
    · exact hquiet (f := fun s => s.audAnswer (leBytes 2 (fld Config.auditLengths 16 16)).reverse)
    · exact hquiet (f := fun s => { s.audAnswer (leBytes 2 (Config.auditStatus s.free).toNat).reverse with free := s.free + 1 })
    · exact hquiet (f := fun s => s.audRead.2.audAnswer s.audRead.1)
    · exact congrArg Host.Outcome.next (State.audAssign_off hoff)

end Sys2Proof.Machine
